-- ==== Sys2Proof/Word.lean ====
section
/-! DEFINITION. Word types of the Salzar: bytes, 32-bit register words and samples, 64-bit tags and indices,
80-bit accumulator lanes. -/
namespace Sys2Proof

/-- One byte of memory. -/
abbrev Byte := BitVec 8

/-- A register, a sample (signed 32-bit, R10) or one Mill lane word. -/
abbrev Word := BitVec 32

/-- A Psiras tag or an Engine Sample Index. -/
abbrev DWord := BitVec 64

/-- One lane of a Mill accumulator (R179). -/
abbrev Acc := BitVec 80

end Sys2Proof
end

