-- ==== Sys2Proof/Config.lean ====
section
/-! DEFINITION. What the spec leaves open: free values, opaque functions without a body, so that nothing can be proved of
their values. -/
namespace Sys2Proof

/-- The k-th free value: a result the spec does not state, by the counter `State.free` (log entry 5). -/
opaque Config.freeValue : Nat → BitVec 256

/-- The SHA-384 of the Tialris signing key programmed at manufacture in fuse key slot 0 (R498: per part). -/
opaque Config.factoryKey : BitVec 384

/-- Churn cycles that a group of `m` partitions of `p` taps needs (R149), which the spec gives no formula for (log entry
24). -/
opaque Config.churnCycles (p m : Nat) : Nat

/-- What the Reeve's check of a Mill program finds of the addresses a load or store bundle meets, which stand in no image
(R203, log entry 24): the region of a load (0 the Mill store, 1 the Granary or a scene window, else a Crossroads window), and
whether a store meets a source frame of another Mill. -/
opaque Config.loadRegion (bundle pc : Nat) : Nat
opaque Config.foreignStore (bundle pc : Nat) : Bool

/-- The bytes of the boot ROM (R454), which the spec does not give. -/
opaque Config.romByte : Nat → BitVec 8

end Sys2Proof
end

