-- ==== Sys2Proof/Machine/Bits.lean ====
section
/-! DEFINITION. Bit fields, saturation, rounding and byte order: the helpers every family uses. -/
namespace Sys2Proof.Machine

/-- Bits `[lo + width - 1 : lo]` of a natural number. -/
def bitsOf (v lo width : Nat) : Nat := v / 2 ^ lo % 2 ^ width

/-- Bit `i` of a natural number. -/
def bitAt (v i : Nat) : Bool := v / 2 ^ i % 2 == 1

/-- `v` with bits `[lo + width - 1 : lo]` replaced by `x` (its low `width` bits). -/
def setBitsOf (v lo width x : Nat) : Nat :=
  v % 2 ^ lo + x % 2 ^ width * 2 ^ lo + v / 2 ^ (lo + width) * 2 ^ (lo + width)

/-- One or zero. -/
def b2n (b : Bool) : Nat := if b then 1 else 0

/-- Saturate an integer into `[-2^(w-1), 2^(w-1) - 1]`. -/
def satTo (w : Nat) (x : Int) : Int :=
  if x > 2 ^ (w - 1) - 1 then 2 ^ (w - 1) - 1 else if x < -(2 ^ (w - 1)) then -(2 ^ (w - 1)) else x

/-- Saturate to a signed 32-bit word. -/
def satW (x : Int) : Word := BitVec.ofInt 32 (satTo 32 x)

/-- Divide by `2^n`, rounding to nearest with halves toward plus infinity. -/
def rndShift (x : Int) (n : Nat) : Int := (x + (if n = 0 then 0 else 2 ^ (n - 1))) / 2 ^ n

/-- The signed value of the low `w` bits of `v`. -/
def signed (w v : Nat) : Int := if v % 2 ^ w < 2 ^ (w - 1) then (v % 2 ^ w : Nat) else (v % 2 ^ w : Nat) - (2 ^ w : Nat)

/-- The low `w` bits of an integer, as a natural number. -/
def unsigned (w : Nat) (x : Int) : Nat := (x % (2 ^ w : Nat)).toNat

/-- Little-endian bytes of `v`, `n` of them. -/
def leBytes : Nat → Nat → List Byte
  | 0, _ => []
  | n + 1, v => BitVec.ofNat 8 v :: leBytes n (v / 256)

/-- The value of little-endian bytes. -/
def ofLe : List Byte → Nat
  | [] => 0
  | b :: t => b.toNat + 256 * ofLe t

/-- The value of big-endian bytes. -/
def ofBe (l : List Byte) : Nat := l.foldl (fun a b => a * 256 + b.toNat) 0

/-- Big-endian bytes of `v`, `n` of them. -/
def beBytes (n v : Nat) : List Byte := (leBytes n v).reverse

/-- Replace element `i` of a list. -/
def setAt {α : Type} (l : List α) (i : Nat) (x : α) : List α := l.set i x

/-- Element `i` of a list, or `d` past its end. -/
def at0 {α : Type} (d : α) (l : List α) (i : Nat) : α := l.getD i d

/-- Look up a key in an association list. -/
def assoc? {β : Type} (l : List (Nat × β)) (k : Nat) : Option β := (l.find? (fun e => e.1 == k)).map (·.2)

/-- Put a key in an association list, in rising order of keys, replacing an older entry. -/
def assocPut {β : Type} : List (Nat × β) → Nat → β → List (Nat × β)
  | [], k, v => [(k, v)]
  | (a, w) :: t, k, v => if k < a then (k, v) :: (a, w) :: t else if k = a then (k, v) :: t else (a, w) :: assocPut t k v

/-- Remove a key from an association list. -/
def assocDel {β : Type} (l : List (Nat × β)) (k : Nat) : List (Nat × β) := l.filter (fun e => e.1 != k)

end Sys2Proof.Machine
end

