-- ==== Sys2Proof/Machine/Crypto.lean ====
section
/-! DEFINITION. The standard functions the spec names: CRC-32 of IEEE 802.3, SHA-256, SHA-384 and ECDSA on P-384
(PRESUMED from their standards, log entry 20). -/
namespace Sys2Proof.Machine

/-- One byte of a reflected CRC-32. -/
def crcByte (c : Nat) (b : Nat) : Nat :=
  (List.range 8).foldl (fun c _ => if c % 2 = 1 then (c / 2) ^^^ 0xEDB88320 else c / 2) (c ^^^ b)

/-- The CRC-32 with the IEEE 802.3 polynomial. -/
def crc32 (l : List Byte) : Nat := (l.foldl (fun c b => crcByte c b.toNat) 0xFFFFFFFF) ^^^ 0xFFFFFFFF

/-- The largest `y` with `ok y`, below `2^k`. -/
def rootGo (ok : Nat → Bool) : Nat → Nat → Nat
  | 0, r => r
  | k + 1, r => if ok (r + 2 ^ k) then rootGo ok k (r + 2 ^ k) else rootGo ok k r

/-- The first 80 primes. -/
def primes80 : List Nat :=
  [2, 3, 5, 7, 11, 13, 17, 19, 23, 29, 31, 37, 41, 43, 47, 53, 59, 61, 67, 71, 73, 79, 83, 89, 97, 101, 103, 107, 109, 113,
   127, 131, 137, 139, 149, 151, 157, 163, 167, 173, 179, 181, 191, 193, 197, 199, 211, 223, 227, 229] ++
  [233, 239, 241, 251, 257, 263, 269, 271, 277, 281, 283, 293, 307, 311, 313, 317, 331, 337, 347, 349, 353, 359, 367, 373,
   379, 383, 389, 397, 401, 409]

/-- The first `w` bits of the fractional part of a cube root. -/
def cbrtBits (w p : Nat) : Nat := rootGo (fun y => y * y * y ≤ p * 2 ^ (3 * w)) (w + 4) 0 % 2 ^ w

/-- The first `w` bits of the fractional part of a square root. -/
def sqrtBits (w p : Nat) : Nat := rootGo (fun y => y * y ≤ p * 2 ^ (2 * w)) (w + 6) 0 % 2 ^ w

/-- Rotate right within `w` bits. -/
def rotr (w x n : Nat) : Nat := x / 2 ^ n + x % 2 ^ n * 2 ^ (w - n)

/-- The rotation amounts of a SHA-2 function: its two big and two small sigmas (the last of each small one a shift). -/
structure Sha2 where
  w : Nat
  rounds : Nat
  big0 : List Nat
  big1 : List Nat
  small0 : List Nat
  small1 : List Nat
  deriving DecidableEq, Repr

def sha2_256 : Sha2 := ⟨32, 64, [2, 13, 22], [6, 11, 25], [7, 18, 3], [17, 19, 10]⟩
def sha2_512 : Sha2 := ⟨64, 80, [28, 34, 39], [14, 18, 41], [1, 8, 7], [19, 61, 6]⟩

/-- A big sigma. -/
def Sha2.big (h : Sha2) (r : List Nat) (x : Nat) : Nat := r.foldl (fun a n => a ^^^ rotr h.w x n) 0

/-- A small sigma. -/
def Sha2.small (h : Sha2) (r : List Nat) (x : Nat) : Nat :=
  rotr h.w x (r.getD 0 0) ^^^ rotr h.w x (r.getD 1 0) ^^^ (x / 2 ^ r.getD 2 0)

/-- The message schedule, newest word first. -/
def Sha2.schedule (h : Sha2) : Nat → List Nat → List Nat
  | 0, ws => ws
  | k + 1, ws => h.schedule k (((h.small h.small1 (ws.getD 1 0) + ws.getD 6 0 + h.small h.small0 (ws.getD 14 0) + ws.getD 15 0) % 2 ^ h.w) :: ws)

/-- One round on (a … h). -/
def Sha2.round (h : Sha2) (v : List Nat) (k w : Nat) : List Nat :=
  match v with
  | [a, b, c, d, e, f, g, x] =>
    let t1 := x + h.big h.big1 e + ((e &&& f) ^^^ ((2 ^ h.w - 1 - e) &&& g)) + k + w
    let t2 := h.big h.big0 a + ((a &&& b) ^^^ (a &&& c) ^^^ (b &&& c))
    [(t1 + t2) % 2 ^ h.w, a, b, c, (d + t1) % 2 ^ h.w, e, f, g]
  | _ => v

/-- One block, given as its 16 words. -/
def Sha2.block (h : Sha2) (ks : List Nat) (st ws : List Nat) : List Nat :=
  let sched := (h.schedule (h.rounds - 16) ws.reverse).reverse
  let v := (ks.zip sched).foldl (fun v kw => h.round v kw.1 kw.2) st
  (st.zip v).map fun p => (p.1 + p.2) % 2 ^ h.w

/-- Split a list into pieces of `n`, `k` of them. -/
def pieces {α : Type} (n : Nat) : Nat → List α → List (List α)
  | 0, _ => []
  | k + 1, l => l.take n :: pieces n k (l.drop n)

/-- The padded message. -/
def Sha2.pad (h : Sha2) (m : List Byte) : List Byte :=
  let b := h.w * 2
  let l := m.length + 1 + h.w / 4
  m ++ [0x80] ++ List.replicate ((b - l % b) % b) 0 ++ beBytes (h.w / 4) (m.length * 8)

/-- The state after the whole message. -/
def Sha2.run (h : Sha2) (iv : List Nat) (m : List Byte) : List Nat :=
  let ks := (primes80.take h.rounds).map (cbrtBits h.w)
  let p := h.pad m
  let b := h.w * 2
  (pieces b (p.length / b) p).foldl (fun st blk => h.block ks st ((pieces (h.w / 8) 16 blk).map ofBe)) iv

/-- SHA-256 as a 256-bit number. -/
def sha256 (m : List Byte) : Nat :=
  (sha2_256.run ((primes80.take 8).map (sqrtBits 32)) m).foldl (fun a w => a * 2 ^ 32 + w) 0

/-- SHA-384 as a 384-bit number. -/
def sha384 (m : List Byte) : Nat :=
  ((sha2_512.run (((primes80.drop 8).take 8).map (sqrtBits 64)) m).take 6).foldl (fun a w => a * 2 ^ 64 + w) 0

/-! ### P-384 -/

/-- The field prime, the group order, the curve constant b and the base point. -/
def ecP : Nat := 2 ^ 384 - 2 ^ 128 - 2 ^ 96 + 2 ^ 32 - 1
def ecN : Nat := 0xffffffffffffffffffffffffffffffffffffffffffffffffc7634d81f4372ddf581a0db248b0a77aecec196accc52973
def ecB : Nat := 0xb3312fa7e23ee7e4988e056be3f82d19181d9c6efe8141120314088f5013875ac656398d8a2ed19d2a85c8edd3ec2aef
def ecG : Nat × Nat :=
  (0xaa87ca22be8b05378eb1c71ef320ad746e1d3b628ba79b9859f741e082542a385502f25dbf55296c3a545e3872760ab7,
   0x3617de4a96262c6f5d9e98bf9292dc29f8f41dbd289a147ce9da3113b5f0b8c00a60b1ce1d7e819d7a431d7c90ea0e5f)

/-- `x ^ e mod m`, by the low `k` bits of `e`. -/
def powModGo (m : Nat) : Nat → Nat → Nat → Nat → Nat
  | 0, _, _, r => r
  | k + 1, x, e, r => powModGo m k (x * x % m) (e / 2) (if e % 2 = 1 then r * x % m else r)

/-- The inverse modulo a prime of at most 384 bits. -/
def invMod (m x : Nat) : Nat := powModGo m 384 (x % m) (m - 2) 1

/-- Add two points of the curve; none is the point at infinity. -/
def ecAdd (p q : Option (Nat × Nat)) : Option (Nat × Nat) :=
  match p, q with
  | none, q => q
  | p, none => p
  | some (x1, y1), some (x2, y2) =>
    if x1 = x2 ∧ (y1 + y2) % ecP = 0 then none
    else
      let l := if x1 = x2 then (3 * x1 * x1 + (ecP - 3)) * invMod ecP (2 * y1) % ecP
        else (y2 + ecP - y1) * invMod ecP (x2 + ecP - x1) % ecP
      let x3 := (l * l + 2 * ecP - x1 - x2) % ecP
      some (x3, (l * (x1 + ecP - x3) + ecP - y1) % ecP)

/-- A multiple of a point, by the low `k` bits of `d`. -/
def ecMulGo : Nat → Nat → Option (Nat × Nat) → Option (Nat × Nat) → Option (Nat × Nat)
  | 0, _, _, r => r
  | k + 1, d, p, r => ecMulGo k (d / 2) (ecAdd p p) (if d % 2 = 1 then ecAdd r p else r)

def ecMul (d : Nat) (p : Nat × Nat) : Option (Nat × Nat) := ecMulGo 384 d (some p) none

/-- A point satisfies the curve equation. -/
def onCurve (p : Nat × Nat) : Bool :=
  p.1 < ecP && p.2 < ecP && (p.2 * p.2 % ecP == (p.1 * p.1 * p.1 + (ecP - 3) * p.1 + ecB) % ecP)

/-- ECDSA verification of a hash under an uncompressed public key (0x04, X, Y) with r and s. -/
def ecVerify (key : List Byte) (hash r s : Nat) : Bool :=
  let q := (ofBe ((key.drop 1).take 48), ofBe ((key.drop 49).take 48))
  if key.head? != some 0x04 || !onCurve q || r == 0 || s == 0 || decide (ecN ≤ r) || decide (ecN ≤ s) then false
  else
    let w := invMod ecN s
    match ecAdd (ecMul (hash * w % ecN) ecG) (ecMul (r * w % ecN) q) with
    | none => false
    | some p => p.1 % ecN == r

/-- ECDSA signature of a hash by private scalar `d` with nonce `k`. -/
def ecSign (d k hash : Nat) : Nat × Nat :=
  let r := ((ecMul k ecG).getD (0, 0)).1 % ecN
  (r, invMod ecN k * ((hash + r * d) % ecN) % ecN)

end Sys2Proof.Machine
end

