-- ==== Sys2Proof/Machine/RegTable.lean ====
section
/-! DEFINITION. The register map of the spec: one field name `F.<REGISTER>_<field>` per field (its page, offset,
stride, lowest bit and width) and one row per register with the masks of its access types (R6) and its reset value.
Fields that repeat inside a word (two bits per bank and the like) are one 32-bit field here; the meanings cut them. -/
namespace Sys2Proof.Machine

/-- A register field: first page, offset, stride between indexed registers, lowest bit, width. -/
structure Fld where
  page : Nat
  off : Nat
  stride : Nat
  lo : Nat
  width : Nat
  deriving DecidableEq, Repr

/-- The store key of field `f` in page instance `n`, register index `i`: page number × 0x1000 + offset (R454). -/
def Fld.key (f : Fld) (n i : Nat) : Nat := (f.page + n) * 0x1000 + f.off + f.stride * i

/-- The `m`-th of the equal `w`-bit parts of a packed field. -/
def Fld.part (f : Fld) (m w : Nat) : Fld := { f with lo := f.lo + m * w, width := w }

/-- One register (or a run of `count` registers `stride` apart): masks of the bits of each access type (R6; bits in no
mask are RSV) and the reset value. -/
structure RegRow where
  off : Nat
  count : Nat
  stride : Nat
  ro : Nat
  rw : Nat
  rws : Nat
  w1c : Nat
  wo : Nat
  rc : Nat
  reset : Nat
  deriving DecidableEq, Repr

/-- ENG_RATE.family (R42). -/
def F.ENG_RATE_family : Fld := ⟨0x030, 0x040, 0, 0, 1⟩
/-- ENG_RATE.multiple (R42). -/
def F.ENG_RATE_multiple : Fld := ⟨0x030, 0x040, 0, 1, 2⟩
/-- ENG_RATE.blend (R42). -/
def F.ENG_RATE_blend : Fld := ⟨0x030, 0x040, 0, 3, 1⟩
/-- ENG_RATE.block_len (R42). -/
def F.ENG_RATE_block_len : Fld := ⟨0x030, 0x040, 0, 8, 8⟩
/-- ENG_RATE.running (R42). -/
def F.ENG_RATE_running : Fld := ⟨0x030, 0x040, 0, 16, 1⟩
/-- ENG_ESI_LO.esi_lo (R42). -/
def F.ENG_ESI_LO_esi_lo : Fld := ⟨0x030, 0x044, 0, 0, 32⟩
/-- ENG_ESI_HI.esi_hi (R42). -/
def F.ENG_ESI_HI_esi_hi : Fld := ⟨0x030, 0x048, 0, 0, 32⟩
/-- ENG_PHASE.phase (R42). -/
def F.ENG_PHASE_phase : Fld := ⟨0x030, 0x04C, 0, 0, 32⟩
/-- ENG_EPOCH.scene_epoch (R42). -/
def F.ENG_EPOCH_scene_epoch : Fld := ⟨0x030, 0x050, 0, 0, 4⟩
/-- ENG_EPOCH.route_epoch (R42). -/
def F.ENG_EPOCH_route_epoch : Fld := ⟨0x030, 0x050, 0, 4, 4⟩
/-- ENG_SCENE_COUNT.scene_count (R42). -/
def F.ENG_SCENE_COUNT_scene_count : Fld := ⟨0x030, 0x054, 0, 0, 32⟩
/-- ENG_ROUTE_COUNT.route_count (R42). -/
def F.ENG_ROUTE_COUNT_route_count : Fld := ⟨0x030, 0x058, 0, 0, 32⟩
/-- ENG_TICK.div (R42). -/
def F.ENG_TICK_div : Fld := ⟨0x030, 0x05C, 0, 0, 16⟩
/-- ENG_SNAP_CTRL.arm (R42). -/
def F.ENG_SNAP_CTRL_arm : Fld := ⟨0x030, 0x060, 0, 0, 1⟩
/-- ENG_SNAP_CTRL.valid (R42). -/
def F.ENG_SNAP_CTRL_valid : Fld := ⟨0x030, 0x060, 0, 1, 1⟩
/-- ENG_SNAP_ESI_LO.snap_esi (R42). -/
def F.ENG_SNAP_ESI_LO_snap_esi : Fld := ⟨0x030, 0x064, 0, 0, 32⟩
/-- ENG_SNAP_ESI_HI.snap_esi (R42). -/
def F.ENG_SNAP_ESI_HI_snap_esi : Fld := ⟨0x030, 0x068, 0, 0, 32⟩
/-- ENG_SNAP_SEC_LO.sec_lo (R42). -/
def F.ENG_SNAP_SEC_LO_sec_lo : Fld := ⟨0x030, 0x06C, 0, 0, 32⟩
/-- ENG_SNAP_SEC_HI.sec_hi (R42). -/
def F.ENG_SNAP_SEC_HI_sec_hi : Fld := ⟨0x030, 0x070, 0, 0, 16⟩
/-- ENG_SNAP_NS.ns (R42). -/
def F.ENG_SNAP_NS_ns : Fld := ⟨0x030, 0x074, 0, 0, 30⟩
/-- ENG_REALIGN.request (R42). -/
def F.ENG_REALIGN_request : Fld := ⟨0x030, 0x078, 0, 0, 1⟩
/-- ENG_REALIGN.auto_realign (R42). -/
def F.ENG_REALIGN_auto_realign : Fld := ⟨0x030, 0x078, 0, 1, 1⟩
/-- ENG_REALIGN.limit (R42). -/
def F.ENG_REALIGN_limit : Fld := ⟨0x030, 0x078, 0, 16, 16⟩
/-- ENG_TAG_BASE.base (R43). -/
def F.ENG_TAG_BASE_base : Fld := ⟨0x030, 0x07C, 0, 0, 32⟩
/-- ENG_BUF_SET.gather_set (R43). -/
def F.ENG_BUF_SET_gather_set : Fld := ⟨0x030, 0x080, 0, 0, 2⟩
/-- ENG_BUF_SET.work_set (R43). -/
def F.ENG_BUF_SET_work_set : Fld := ⟨0x030, 0x080, 0, 2, 2⟩
/-- ENG_BUF_SET.route_set (R43). -/
def F.ENG_BUF_SET_route_set : Fld := ⟨0x030, 0x080, 0, 4, 2⟩
/-- ENG_LATE_COUNT.late (R43). -/
def F.ENG_LATE_COUNT_late : Fld := ⟨0x030, 0x084, 0, 0, 16⟩
/-- ENG_TAG_ERR.tag_err (R43). -/
def F.ENG_TAG_ERR_tag_err : Fld := ⟨0x030, 0x088, 0, 0, 16⟩
/-- XRD_CFG.default_fade (R72). -/
def F.XRD_CFG_default_fade : Fld := ⟨0x038, 0x040, 0, 0, 8⟩
/-- XRD_PATCH_OFS.offset (R72). -/
def F.XRD_PATCH_OFS_offset : Fld := ⟨0x038, 0x044, 0, 0, 23⟩
/-- XRD_SRC_OFS.offset (R72). -/
def F.XRD_SRC_OFS_offset : Fld := ⟨0x038, 0x048, 0, 0, 23⟩
/-- XRD_GROUP_OFS.offset (R72). -/
def F.XRD_GROUP_OFS_offset : Fld := ⟨0x038, 0x04C, 0, 0, 23⟩
/-- XRD_POOL_BASE.base (R72). -/
def F.XRD_POOL_BASE_base : Fld := ⟨0x038, 0x050, 0, 0, 32⟩
/-- XRD_POOL_SIZE.size (R72). -/
def F.XRD_POOL_SIZE_size : Fld := ⟨0x038, 0x054, 0, 0, 24⟩
/-- XRD_REFUSED.index (R72). -/
def F.XRD_REFUSED_index : Fld := ⟨0x038, 0x058, 0, 0, 14⟩
/-- XRD_REFUSED.table (R72). -/
def F.XRD_REFUSED_table : Fld := ⟨0x038, 0x058, 0, 14, 2⟩
/-- XRD_REFUSED.reason (R72). -/
def F.XRD_REFUSED_reason : Fld := ⟨0x038, 0x058, 0, 16, 4⟩
/-- XRD_REFUSED.valid (R72). -/
def F.XRD_REFUSED_valid : Fld := ⟨0x038, 0x058, 0, 31, 1⟩
/-- XRD_COUNTS.refused (R72). -/
def F.XRD_COUNTS_refused : Fld := ⟨0x038, 0x05C, 0, 0, 16⟩
/-- XRD_COUNTS.deferred (R72). -/
def F.XRD_COUNTS_deferred : Fld := ⟨0x038, 0x05C, 0, 16, 16⟩
/-- XRD_CHECK.index (R72). -/
def F.XRD_CHECK_index : Fld := ⟨0x038, 0x060, 0, 0, 14⟩
/-- XRD_CHECK.table (R72). -/
def F.XRD_CHECK_table : Fld := ⟨0x038, 0x060, 0, 14, 2⟩
/-- XRD_CHECK.reason (R72). -/
def F.XRD_CHECK_reason : Fld := ⟨0x038, 0x060, 0, 16, 4⟩
/-- XRD_CHECK.failed (R72). -/
def F.XRD_CHECK_failed : Fld := ⟨0x038, 0x060, 0, 30, 1⟩
/-- XRD_CHECK.done (R72). -/
def F.XRD_CHECK_done : Fld := ⟨0x038, 0x060, 0, 31, 1⟩
/-- XRD_FADES.active (R72). -/
def F.XRD_FADES_active : Fld := ⟨0x038, 0x064, 0, 0, 15⟩
/-- XRD_MTAP_BASE.base (R72). -/
def F.XRD_MTAP_BASE_base : Fld := ⟨0x038, 0x068, 0, 0, 32⟩
/-- XRD_MTAP_CFG.hold_ms (R72). -/
def F.XRD_MTAP_CFG_hold_ms : Fld := ⟨0x038, 0x06C, 0, 0, 16⟩
/-- XRD_MTAP_CFG.decay (R72). -/
def F.XRD_MTAP_CFG_decay : Fld := ⟨0x038, 0x06C, 0, 16, 16⟩
/-- XRD_GROUP_LAT.lat0 (R72). -/
def F.XRD_GROUP_LAT_lat0 : Fld := ⟨0x039, 0x040, 4, 0, 6⟩
/-- XRD_GROUP_LAT.lat1 (R72). -/
def F.XRD_GROUP_LAT_lat1 : Fld := ⟨0x039, 0x040, 4, 8, 6⟩
/-- XRD_GROUP_LAT.lat2 (R72). -/
def F.XRD_GROUP_LAT_lat2 : Fld := ⟨0x039, 0x040, 4, 16, 6⟩
/-- XRD_GROUP_LAT.lat3 (R72). -/
def F.XRD_GROUP_LAT_lat3 : Fld := ⟨0x039, 0x040, 4, 24, 6⟩
/-- XRD_GEN_CTRL.mode (R72). -/
def F.XRD_GEN_CTRL_mode : Fld := ⟨0x03A, 0x040, 12, 0, 3⟩
/-- XRD_GEN_CTRL.level (R72). -/
def F.XRD_GEN_CTRL_level : Fld := ⟨0x03A, 0x040, 12, 16, 16⟩
/-- XRD_GEN_FREQ.freq (R72). -/
def F.XRD_GEN_FREQ_freq : Fld := ⟨0x03A, 0x044, 12, 0, 32⟩
/-- XRD_GEN_AUX.aux (R72). -/
def F.XRD_GEN_AUX_aux : Fld := ⟨0x03A, 0x048, 12, 0, 32⟩
/-- XRD_DEST_SEL.dest (R72). -/
def F.XRD_DEST_SEL_dest : Fld := ⟨0x03B, 0x040, 0, 0, 14⟩
/-- XRD_DEST_STATE.source (R72). -/
def F.XRD_DEST_STATE_source : Fld := ⟨0x03B, 0x044, 0, 0, 14⟩
/-- XRD_DEST_STATE.fades (R72). -/
def F.XRD_DEST_STATE_fades : Fld := ⟨0x03B, 0x044, 0, 14, 2⟩
/-- XRD_DEST_STATE.padding (R72). -/
def F.XRD_DEST_STATE_padding : Fld := ⟨0x03B, 0x044, 0, 16, 6⟩
/-- XRD_DEST_STATE.fb (R72). -/
def F.XRD_DEST_STATE_fb : Fld := ⟨0x03B, 0x044, 0, 22, 1⟩
/-- XRD_DEST_STATE.group (R72). -/
def F.XRD_DEST_STATE_group : Fld := ⟨0x03B, 0x044, 0, 24, 8⟩
/-- XRD_DEST_FADE.older (R72). -/
def F.XRD_DEST_FADE_older : Fld := ⟨0x03B, 0x048, 0, 0, 16⟩
/-- XRD_DEST_FADE.newer (R72). -/
def F.XRD_DEST_FADE_newer : Fld := ⟨0x03B, 0x048, 0, 16, 16⟩
/-- SCN_STATE.live_bank (R142). -/
def F.SCN_STATE_live_bank : Fld := ⟨0x031, 0x040, 0, 0, 1⟩
/-- SCN_STATE.phase (R142). -/
def F.SCN_STATE_phase : Fld := ⟨0x031, 0x040, 0, 1, 2⟩
/-- SCN_STATE.ready (R142). -/
def F.SCN_STATE_ready : Fld := ⟨0x031, 0x040, 0, 3, 1⟩
/-- SCN_STATE.locked_a (R142). -/
def F.SCN_STATE_locked_a : Fld := ⟨0x031, 0x040, 0, 4, 1⟩
/-- SCN_STATE.locked_b (R142). -/
def F.SCN_STATE_locked_b : Fld := ⟨0x031, 0x040, 0, 5, 1⟩
/-- SCN_CTRL.cancel (R142). -/
def F.SCN_CTRL_cancel : Fld := ⟨0x031, 0x044, 0, 0, 1⟩
/-- SCN_ARM.mode (R142). -/
def F.SCN_ARM_mode : Fld := ⟨0x031, 0x048, 0, 0, 2⟩
/-- SCN_ARM.fence_all (R142). -/
def F.SCN_ARM_fence_all : Fld := ⟨0x031, 0x048, 0, 2, 1⟩
/-- SCN_ARM.cue_src (R142). -/
def F.SCN_ARM_cue_src : Fld := ⟨0x031, 0x048, 0, 3, 1⟩
/-- SCN_ARM.gpio (R142). -/
def F.SCN_ARM_gpio : Fld := ⟨0x031, 0x048, 0, 4, 5⟩
/-- SCN_ARM.edge (R142). -/
def F.SCN_ARM_edge : Fld := ⟨0x031, 0x048, 0, 9, 2⟩
/-- SCN_ARM.cue_id (R142). -/
def F.SCN_ARM_cue_id : Fld := ⟨0x031, 0x048, 0, 16, 16⟩
/-- SCN_SWAP_AT.esi (R142). -/
def F.SCN_SWAP_AT_esi : Fld := ⟨0x031, 0x04C, 0, 0, 32⟩
/-- SCN_CUE_DELAY.delay (R142). -/
def F.SCN_CUE_DELAY_delay : Fld := ⟨0x031, 0x050, 0, 0, 24⟩
/-- SCN_SWAP_RAMP.ms (R142). -/
def F.SCN_SWAP_RAMP_ms : Fld := ⟨0x031, 0x054, 0, 0, 16⟩
/-- SCN_LAST_LO.esi (R142). -/
def F.SCN_LAST_LO_esi : Fld := ⟨0x031, 0x058, 0, 0, 32⟩
/-- SCN_LAST_HI.esi (R142). -/
def F.SCN_LAST_HI_esi : Fld := ⟨0x031, 0x05C, 0, 0, 32⟩
/-- SCN_COUNTS.lock_drop (R142). -/
def F.SCN_COUNTS_lock_drop : Fld := ⟨0x031, 0x060, 0, 0, 16⟩
/-- SCN_COUNTS.refused (R142). -/
def F.SCN_COUNTS_refused : Fld := ⟨0x031, 0x060, 0, 16, 16⟩
/-- SCN_BANK_SIZE.size (R142). -/
def F.SCN_BANK_SIZE_size : Fld := ⟨0x031, 0x070, 0, 0, 24⟩
/-- SCN_IN_BASE.offset (R142). -/
def F.SCN_IN_BASE_offset : Fld := ⟨0x031, 0x074, 0, 0, 23⟩
/-- SCN_BUS_BASE.offset (R142). -/
def F.SCN_BUS_BASE_offset : Fld := ⟨0x031, 0x078, 0, 0, 23⟩
/-- SCN_MTX_BASE.offset (R142). -/
def F.SCN_MTX_BASE_offset : Fld := ⟨0x031, 0x07C, 0, 0, 23⟩
/-- SCN_IB_SEND.offset (R142). -/
def F.SCN_IB_SEND_offset : Fld := ⟨0x031, 0x080, 0, 0, 23⟩
/-- SCN_IB_TAP.offset (R142). -/
def F.SCN_IB_TAP_offset : Fld := ⟨0x031, 0x084, 0, 0, 23⟩
/-- SCN_BM_SEND.offset (R142). -/
def F.SCN_BM_SEND_offset : Fld := ⟨0x031, 0x088, 0, 0, 23⟩
/-- SCN_BM_TAP.offset (R142). -/
def F.SCN_BM_TAP_offset : Fld := ⟨0x031, 0x08C, 0, 0, 23⟩
/-- SCN_FENCE_OFS.offset (R142). -/
def F.SCN_FENCE_OFS_offset : Fld := ⟨0x031, 0x090, 0, 0, 23⟩
/-- SCN_INS_OFS.offset (R142). -/
def F.SCN_INS_OFS_offset : Fld := ⟨0x031, 0x094, 0, 0, 23⟩
/-- SCN_INS_SIZE.size (R142). -/
def F.SCN_INS_SIZE_size : Fld := ⟨0x031, 0x098, 0, 0, 23⟩
/-- RMP_TIME.ms (R143). -/
def F.RMP_TIME_ms : Fld := ⟨0x032, 0x040, 4, 0, 16⟩
/-- RMP_XFADE.ms (R143). -/
def F.RMP_XFADE_ms : Fld := ⟨0x032, 0x060, 0, 0, 8⟩
/-- RMP_ACTIVE.ramps (R143). -/
def F.RMP_ACTIVE_ramps : Fld := ⟨0x032, 0x064, 0, 0, 16⟩
/-- RMP_ACTIVE.xfades (R143). -/
def F.RMP_ACTIVE_xfades : Fld := ⟨0x032, 0x064, 0, 16, 16⟩
/-- CHN_TABLE_LO.table (R168). -/
def F.CHN_TABLE_LO_table : Fld := ⟨0x050, 0x040, 0, 0, 32⟩
/-- CHN_TABLE_HI.value (R168). -/
def F.CHN_TABLE_HI_value : Fld := ⟨0x050, 0x044, 0, 0, 8⟩
/-- CHN_GRN_BASE.base (R168). -/
def F.CHN_GRN_BASE_base : Fld := ⟨0x050, 0x048, 0, 0, 32⟩
/-- CHN_CFG.xfade_ms (R168). -/
def F.CHN_CFG_xfade_ms : Fld := ⟨0x050, 0x04C, 0, 0, 10⟩
/-- CHN_SW_CTRL.mode (R168). -/
def F.CHN_SW_CTRL_mode : Fld := ⟨0x050, 0x050, 0, 0, 2⟩
/-- CHN_SW_AT.esi (R168). -/
def F.CHN_SW_AT_esi : Fld := ⟨0x050, 0x054, 0, 0, 32⟩
/-- CHN_SW_MASK.bits (R168). -/
def F.CHN_SW_MASK_bits : Fld := ⟨0x050, 0x060, 4, 0, 32⟩
/-- CHN_SW_SLOT.bits (R168). -/
def F.CHN_SW_SLOT_bits : Fld := ⟨0x050, 0x070, 4, 0, 32⟩
/-- CHN_ACTIVE.bits (R168). -/
def F.CHN_ACTIVE_bits : Fld := ⟨0x050, 0x080, 4, 0, 32⟩
/-- CHN_XFADING.bits (R168). -/
def F.CHN_XFADING_bits : Fld := ⟨0x050, 0x090, 4, 0, 32⟩
/-- CHN_PREP.channel (R168). -/
def F.CHN_PREP_channel : Fld := ⟨0x050, 0x0A0, 0, 0, 7⟩
/-- CHN_PREP.slot (R168). -/
def F.CHN_PREP_slot : Fld := ⟨0x050, 0x0A0, 0, 8, 1⟩
/-- CHN_PREP.go (R168). -/
def F.CHN_PREP_go : Fld := ⟨0x050, 0x0A0, 0, 31, 1⟩
/-- CHN_PREP_LEN.taps (R168). -/
def F.CHN_PREP_LEN_taps : Fld := ⟨0x050, 0x0A4, 0, 0, 21⟩
/-- CHN_PREP_STATUS.busy (R168). -/
def F.CHN_PREP_STATUS_busy : Fld := ⟨0x050, 0x0A8, 0, 0, 1⟩
/-- CHN_PREP_STATUS.result (R168). -/
def F.CHN_PREP_STATUS_result : Fld := ⟨0x050, 0x0A8, 0, 4, 4⟩
/-- CHN_PREP_STATUS.channel (R168). -/
def F.CHN_PREP_STATUS_channel : Fld := ⟨0x050, 0x0A8, 0, 8, 7⟩
/-- CHN_PREP_STATUS.slot (R168). -/
def F.CHN_PREP_STATUS_slot : Fld := ⟨0x050, 0x0A8, 0, 15, 1⟩
/-- CHN_PREP_STATUS.done (R168). -/
def F.CHN_PREP_STATUS_done : Fld := ⟨0x050, 0x0A8, 0, 16, 16⟩
/-- CHN_SLOT_STATE.a (R168). -/
def F.CHN_SLOT_STATE_a : Fld := ⟨0x050, 0x0B0, 4, 0, 32⟩
/-- CHN_LATE.blocks (R168). -/
def F.CHN_LATE_blocks : Fld := ⟨0x050, 0x0F0, 0, 0, 16⟩
/-- CHN_LATE.channel (R168). -/
def F.CHN_LATE_channel : Fld := ⟨0x050, 0x0F0, 0, 16, 7⟩
/-- CHN_LOAD.peak (R168). -/
def F.CHN_LOAD_peak : Fld := ⟨0x050, 0x0F4, 0, 0, 16⟩
/-- CHN_JOB_SRC_LO.addr (R168). -/
def F.CHN_JOB_SRC_LO_addr : Fld := ⟨0x050, 0x100, 0, 0, 32⟩
/-- CHN_JOB_SRC_HI.value (R168). -/
def F.CHN_JOB_SRC_HI_value : Fld := ⟨0x050, 0x104, 0, 0, 8⟩
/-- CHN_JOB_DST_LO.addr (R168). -/
def F.CHN_JOB_DST_LO_addr : Fld := ⟨0x050, 0x108, 0, 0, 32⟩
/-- CHN_JOB_DST_HI.value (R168). -/
def F.CHN_JOB_DST_HI_value : Fld := ⟨0x050, 0x10C, 0, 0, 8⟩
/-- CHN_JOB_CTRL.log2n (R168). -/
def F.CHN_JOB_CTRL_log2n : Fld := ⟨0x050, 0x110, 0, 0, 5⟩
/-- CHN_JOB_CTRL.inverse (R168). -/
def F.CHN_JOB_CTRL_inverse : Fld := ⟨0x050, 0x110, 0, 5, 1⟩
/-- CHN_JOB_CTRL.go (R168). -/
def F.CHN_JOB_CTRL_go : Fld := ⟨0x050, 0x110, 0, 31, 1⟩
/-- CHN_JOB_STATUS.busy (R168). -/
def F.CHN_JOB_STATUS_busy : Fld := ⟨0x050, 0x114, 0, 0, 1⟩
/-- CHN_JOB_STATUS.err (R168). -/
def F.CHN_JOB_STATUS_err : Fld := ⟨0x050, 0x114, 0, 1, 1⟩
/-- CHN_JOB_STATUS.exp (R168). -/
def F.CHN_JOB_STATUS_exp : Fld := ⟨0x050, 0x114, 0, 8, 5⟩
/-- MIL_STATE.state (R229). -/
def F.MIL_STATE_state : Fld := ⟨0x040, 0x040, 0, 0, 3⟩
/-- MIL_STATE.recovering (R229). -/
def F.MIL_STATE_recovering : Fld := ⟨0x040, 0x040, 0, 3, 1⟩
/-- MIL_PROG_LEN.bundles (R229). -/
def F.MIL_PROG_LEN_bundles : Fld := ⟨0x040, 0x044, 0, 0, 14⟩
/-- MIL_ADMIT_EARLY.cycles (R229). -/
def F.MIL_ADMIT_EARLY_cycles : Fld := ⟨0x040, 0x048, 0, 0, 20⟩
/-- MIL_ADMIT_LATE.cycles (R229). -/
def F.MIL_ADMIT_LATE_cycles : Fld := ⟨0x040, 0x04C, 0, 0, 20⟩
/-- MIL_ADMIT_DUAL.cycles (R229). -/
def F.MIL_ADMIT_DUAL_cycles : Fld := ⟨0x040, 0x050, 0, 0, 20⟩
/-- MIL_LAST_EOB.eob (R229). -/
def F.MIL_LAST_EOB_eob : Fld := ⟨0x040, 0x054, 0, 0, 16⟩
/-- MIL_LAST_CYC.cycles (R229). -/
def F.MIL_LAST_CYC_cycles : Fld := ⟨0x040, 0x058, 0, 0, 20⟩
/-- MIL_PEAK.eob (R229). -/
def F.MIL_PEAK_eob : Fld := ⟨0x040, 0x05C, 0, 0, 16⟩
/-- MIL_SLACK.slack (R229). -/
def F.MIL_SLACK_slack : Fld := ⟨0x040, 0x060, 0, 0, 20⟩
/-- MIL_SLACK.mark (R229). -/
def F.MIL_SLACK_mark : Fld := ⟨0x040, 0x060, 0, 20, 3⟩
/-- MIL_MSW.msw (R229). -/
def F.MIL_MSW_msw : Fld := ⟨0x040, 0x064, 0, 0, 32⟩
/-- MIL_MSW_ACC.msw (R229). -/
def F.MIL_MSW_ACC_msw : Fld := ⟨0x040, 0x068, 0, 0, 32⟩
/-- MIL_MISS.own (R229). -/
def F.MIL_MISS_own : Fld := ⟨0x040, 0x06C, 0, 0, 16⟩
/-- MIL_MISS.dependent (R229). -/
def F.MIL_MISS_dependent : Fld := ⟨0x040, 0x06C, 0, 16, 16⟩
/-- MIL_MISS_INFO.cause (R229). -/
def F.MIL_MISS_INFO_cause : Fld := ⟨0x040, 0x070, 0, 0, 4⟩
/-- MIL_MISS_INFO.mark (R229). -/
def F.MIL_MISS_INFO_mark : Fld := ⟨0x040, 0x070, 0, 4, 3⟩
/-- MIL_MISS_INFO.producer (R229). -/
def F.MIL_MISS_INFO_producer : Fld := ⟨0x040, 0x070, 0, 16, 4⟩
/-- MIL_MISS_INFO.valid (R229). -/
def F.MIL_MISS_INFO_valid : Fld := ⟨0x040, 0x070, 0, 31, 1⟩
/-- MIL_MISS_ESI.esi (R229). -/
def F.MIL_MISS_ESI_esi : Fld := ⟨0x040, 0x074, 0, 0, 32⟩
/-- MIL_MARK_PC.pc (R229). -/
def F.MIL_MARK_PC_pc : Fld := ⟨0x040, 0x080, 4, 0, 13⟩
/-- MIL_MARK_PC.used (R229). -/
def F.MIL_MARK_PC_used : Fld := ⟨0x040, 0x080, 4, 13, 1⟩
/-- MIL_DEPEND.mask (R229). -/
def F.MIL_DEPEND_mask : Fld := ⟨0x040, 0x0C0, 0, 0, 16⟩
/-- MIL_DEBUG.halt (R229). -/
def F.MIL_DEBUG_halt : Fld := ⟨0x040, 0x100, 0, 0, 1⟩
/-- MIL_DEBUG.step (R229). -/
def F.MIL_DEBUG_step : Fld := ⟨0x040, 0x100, 0, 1, 1⟩
/-- MIL_DEBUG.bp_en (R229). -/
def F.MIL_DEBUG_bp_en : Fld := ⟨0x040, 0x100, 0, 2, 1⟩
/-- MIL_DEBUG.cont (R229). -/
def F.MIL_DEBUG_cont : Fld := ⟨0x040, 0x100, 0, 3, 1⟩
/-- MIL_DEBUG.bstep (R229). -/
def F.MIL_DEBUG_bstep : Fld := ⟨0x040, 0x100, 0, 4, 1⟩
/-- MIL_DEBUG.bp_pc (R229). -/
def F.MIL_DEBUG_bp_pc : Fld := ⟨0x040, 0x100, 0, 5, 13⟩
/-- MIL_DEBUG.bp_hit (R229). -/
def F.MIL_DEBUG_bp_hit : Fld := ⟨0x040, 0x100, 0, 18, 10⟩
/-- MIL_DBG_PC.pc (R229). -/
def F.MIL_DBG_PC_pc : Fld := ⟨0x040, 0x104, 0, 0, 13⟩
/-- MIL_DBG_PC.depth (R229). -/
def F.MIL_DBG_PC_depth : Fld := ⟨0x040, 0x104, 0, 13, 3⟩
/-- MIL_DBG_SEL.reg (R229). -/
def F.MIL_DBG_SEL_reg : Fld := ⟨0x040, 0x108, 0, 0, 8⟩
/-- MIL_DBG_SEL.lane (R229). -/
def F.MIL_DBG_SEL_lane : Fld := ⟨0x040, 0x108, 0, 8, 3⟩
/-- MIL_DBG_SEL.part (R229). -/
def F.MIL_DBG_SEL_part : Fld := ⟨0x040, 0x108, 0, 11, 2⟩
/-- MIL_DBG_DATA.data (R229). -/
def F.MIL_DBG_DATA_data : Fld := ⟨0x040, 0x10C, 0, 0, 32⟩
/-- MIL_DBG_REFUSED.count (R229). -/
def F.MIL_DBG_REFUSED_count : Fld := ⟨0x040, 0x110, 0, 0, 16⟩
/-- MIL_BUDGET.budget (R229). -/
def F.MIL_BUDGET_budget : Fld := ⟨0x040, 0x180, 0, 0, 20⟩
/-- MIL_TTR.ttr (R229). -/
def F.MIL_TTR_ttr : Fld := ⟨0x040, 0x184, 0, 0, 20⟩
/-- MIL_MARK_END.end (R229). -/
def F.MIL_MARK_END_end : Fld := ⟨0x040, 0x190, 4, 0, 20⟩
/-- MIL_MARK_END.segment (R229). -/
def F.MIL_MARK_END_segment : Fld := ⟨0x040, 0x190, 4, 31, 1⟩
/-- MIL_OWN_BASE.base (R229). -/
def F.MIL_OWN_BASE_base : Fld := ⟨0x040, 0x1B0, 0, 0, 32⟩
/-- MIL_RTIER_BASE.base (R229). -/
def F.MIL_RTIER_BASE_base : Fld := ⟨0x040, 0x1B4, 0, 0, 32⟩
/-- MIL_LOAD.code (R229). -/
def F.MIL_LOAD_code : Fld := ⟨0x040, 0x1B8, 0, 0, 8⟩
/-- MIL_LOAD.mill (R229). -/
def F.MIL_LOAD_mill : Fld := ⟨0x040, 0x1B8, 0, 8, 4⟩
/-- MIL_LOAD.loaded (R229). -/
def F.MIL_LOAD_loaded : Fld := ⟨0x040, 0x1B8, 0, 31, 1⟩
/-- NT_CFG.speed (R262). -/
def F.NT_CFG_speed : Fld := ⟨0x060, 0x040, 0, 0, 2⟩
/-- NT_CFG.fec (R262). -/
def F.NT_CFG_fec : Fld := ⟨0x060, 0x040, 0, 2, 2⟩
/-- NT_CFG.jumbo (R262). -/
def F.NT_CFG_jumbo : Fld := ⟨0x060, 0x040, 0, 4, 1⟩
/-- NT_CFG.vlan_en (R262). -/
def F.NT_CFG_vlan_en : Fld := ⟨0x060, 0x040, 0, 5, 1⟩
/-- NT_CFG.pcp (R262). -/
def F.NT_CFG_pcp : Fld := ⟨0x060, 0x040, 0, 6, 3⟩
/-- NT_CFG.vid (R262). -/
def F.NT_CFG_vid : Fld := ⟨0x060, 0x040, 0, 9, 12⟩
/-- NT_STATUS.link (R262). -/
def F.NT_STATUS_link : Fld := ⟨0x060, 0x044, 0, 0, 1⟩
/-- NT_STATUS.block_lock (R262). -/
def F.NT_STATUS_block_lock : Fld := ⟨0x060, 0x044, 0, 1, 1⟩
/-- NT_STATUS.speed (R262). -/
def F.NT_STATUS_speed : Fld := ⟨0x060, 0x044, 0, 2, 1⟩
/-- NT_STATUS.fec_lock (R262). -/
def F.NT_STATUS_fec_lock : Fld := ⟨0x060, 0x044, 0, 3, 1⟩
/-- NT_STATUS.local_fault (R262). -/
def F.NT_STATUS_local_fault : Fld := ⟨0x060, 0x044, 0, 4, 1⟩
/-- NT_STATUS.remote_fault (R262). -/
def F.NT_STATUS_remote_fault : Fld := ⟨0x060, 0x044, 0, 5, 1⟩
/-- NT_MAC_LO.mac (R262). -/
def F.NT_MAC_LO_mac : Fld := ⟨0x060, 0x048, 0, 0, 32⟩
/-- NT_MAC_HI.mac (R262). -/
def F.NT_MAC_HI_mac : Fld := ⟨0x060, 0x04C, 0, 0, 16⟩
/-- NT_IP4.addr (R262). -/
def F.NT_IP4_addr : Fld := ⟨0x060, 0x050, 0, 0, 32⟩
/-- NT_IP4_MASK.addr (R262). -/
def F.NT_IP4_MASK_addr : Fld := ⟨0x060, 0x054, 0, 0, 32⟩
/-- NT_IP4_GW.addr (R262). -/
def F.NT_IP4_GW_addr : Fld := ⟨0x060, 0x058, 0, 0, 32⟩
/-- NT_IP6.addr (R262). -/
def F.NT_IP6_addr : Fld := ⟨0x060, 0x060, 4, 0, 32⟩
/-- NT_TS_CORR.rx (R262). -/
def F.NT_TS_CORR_rx : Fld := ⟨0x060, 0x070, 0, 0, 16⟩
/-- NT_TS_CORR.tx (R262). -/
def F.NT_TS_CORR_tx : Fld := ⟨0x060, 0x070, 0, 16, 16⟩
/-- NT_RX_FRAMES.frames (R262). -/
def F.NT_RX_FRAMES_frames : Fld := ⟨0x060, 0x080, 0, 0, 32⟩
/-- NT_TX_FRAMES.frames (R262). -/
def F.NT_TX_FRAMES_frames : Fld := ⟨0x060, 0x084, 0, 0, 32⟩
/-- NT_RX_ERR.crc (R262). -/
def F.NT_RX_ERR_crc : Fld := ⟨0x060, 0x088, 0, 0, 16⟩
/-- NT_RX_ERR.unmatched (R262). -/
def F.NT_RX_ERR_unmatched : Fld := ⟨0x060, 0x088, 0, 16, 16⟩
/-- NT_FEC.corrected (R262). -/
def F.NT_FEC_corrected : Fld := ⟨0x060, 0x08C, 0, 0, 16⟩
/-- NT_FEC.uncorrected (R262). -/
def F.NT_FEC_uncorrected : Fld := ⟨0x060, 0x08C, 0, 16, 16⟩
/-- SRX_TABLE_BASE.base (R263). -/
def F.SRX_TABLE_BASE_base : Fld := ⟨0x062, 0x040, 0, 0, 32⟩
/-- STX_TABLE_BASE.base (R263). -/
def F.STX_TABLE_BASE_base : Fld := ⟨0x063, 0x040, 0, 0, 32⟩
/-- SRX_POOL_BASE.value (R263). -/
def F.SRX_POOL_BASE_value : Fld := ⟨0x062, 0x044, 0, 0, 32⟩
/-- SRX_POOL_SIZE.value (R263). -/
def F.SRX_POOL_SIZE_value : Fld := ⟨0x062, 0x048, 0, 0, 32⟩
/-- STX_GATE.gated (R263). -/
def F.STX_GATE_gated : Fld := ⟨0x063, 0x044, 0, 0, 1⟩
/-- STX_GATE.held (R263). -/
def F.STX_GATE_held : Fld := ⟨0x063, 0x044, 0, 16, 16⟩
/-- STX_SAT.samples (R263). -/
def F.STX_SAT_samples : Fld := ⟨0x063, 0x048, 0, 0, 32⟩
/-- SRX_TOTAL.channels (R263). -/
def F.SRX_TOTAL_channels : Fld := ⟨0x062, 0x060, 0, 0, 13⟩
/-- SRX_TOTAL.streams (R263). -/
def F.SRX_TOTAL_streams : Fld := ⟨0x062, 0x060, 0, 16, 10⟩
/-- STX_TOTAL.channels (R263). -/
def F.STX_TOTAL_channels : Fld := ⟨0x063, 0x060, 0, 0, 13⟩
/-- STX_TOTAL.streams (R263). -/
def F.STX_TOTAL_streams : Fld := ⟨0x063, 0x060, 0, 16, 10⟩
/-- SRX_DISCARD.format (R263). -/
def F.SRX_DISCARD_format : Fld := ⟨0x062, 0x064, 0, 0, 16⟩
/-- SRX_DISCARD.tag (R263). -/
def F.SRX_DISCARD_tag : Fld := ⟨0x062, 0x064, 0, 16, 16⟩
/-- SRX_DIRTY.bits (R263). -/
def F.SRX_DIRTY_bits : Fld := ⟨0x062, 0x080, 4, 0, 32⟩
/-- STX_DIRTY.bits (R263). -/
def F.STX_DIRTY_bits : Fld := ⟨0x063, 0x080, 4, 0, 32⟩
/-- SRX_REFUSED.stream (R263). -/
def F.SRX_REFUSED_stream : Fld := ⟨0x062, 0x0C0, 0, 0, 9⟩
/-- SRX_REFUSED.reason (R263). -/
def F.SRX_REFUSED_reason : Fld := ⟨0x062, 0x0C0, 0, 16, 7⟩
/-- STX_REFUSED.stream (R263). -/
def F.STX_REFUSED_stream : Fld := ⟨0x063, 0x0C0, 0, 0, 9⟩
/-- STX_REFUSED.reason (R263). -/
def F.STX_REFUSED_reason : Fld := ⟨0x063, 0x0C0, 0, 16, 7⟩
/-- SRX_ACTIVE.bits (R263). -/
def F.SRX_ACTIVE_bits : Fld := ⟨0x062, 0x100, 4, 0, 32⟩
/-- STX_ACTIVE.bits (R263). -/
def F.STX_ACTIVE_bits : Fld := ⟨0x063, 0x100, 4, 0, 32⟩
/-- SRX_STAT_SEL.stream (R263). -/
def F.SRX_STAT_SEL_stream : Fld := ⟨0x062, 0x140, 0, 0, 9⟩
/-- STX_STAT_SEL.stream (R263). -/
def F.STX_STAT_SEL_stream : Fld := ⟨0x063, 0x140, 0, 0, 9⟩
/-- SRX_STAT_PKTS.path_a (R263). -/
def F.SRX_STAT_PKTS_path_a : Fld := ⟨0x062, 0x144, 0, 0, 16⟩
/-- SRX_STAT_PKTS.path_b (R263). -/
def F.SRX_STAT_PKTS_path_b : Fld := ⟨0x062, 0x144, 0, 16, 16⟩
/-- STX_STAT_PKTS.path_a (R263). -/
def F.STX_STAT_PKTS_path_a : Fld := ⟨0x063, 0x144, 0, 0, 16⟩
/-- STX_STAT_PKTS.path_b (R263). -/
def F.STX_STAT_PKTS_path_b : Fld := ⟨0x063, 0x144, 0, 16, 16⟩
/-- SRX_STAT_LATE.late (R263). -/
def F.SRX_STAT_LATE_late : Fld := ⟨0x062, 0x148, 0, 0, 16⟩
/-- SRX_STAT_LATE.early (R263). -/
def F.SRX_STAT_LATE_early : Fld := ⟨0x062, 0x148, 0, 16, 16⟩
/-- STX_STAT_LATE.launch_late (R263). -/
def F.STX_STAT_LATE_launch_late : Fld := ⟨0x063, 0x148, 0, 0, 16⟩
/-- STX_STAT_LATE.held (R263). -/
def F.STX_STAT_LATE_held : Fld := ⟨0x063, 0x148, 0, 16, 16⟩
/-- SRX_STAT_DUP.dup (R263). -/
def F.SRX_STAT_DUP_dup : Fld := ⟨0x062, 0x14C, 0, 0, 16⟩
/-- SRX_STAT_DUP.format (R263). -/
def F.SRX_STAT_DUP_format : Fld := ⟨0x062, 0x14C, 0, 16, 16⟩
/-- SRX_STAT_BLOCKS.concealed (R263). -/
def F.SRX_STAT_BLOCKS_concealed : Fld := ⟨0x062, 0x150, 0, 0, 16⟩
/-- SRX_STAT_BLOCKS.stale (R263). -/
def F.SRX_STAT_BLOCKS_stale : Fld := ⟨0x062, 0x150, 0, 16, 16⟩
/-- SRX_STAT_ARRIVAL.margin (R263). -/
def F.SRX_STAT_ARRIVAL_margin : Fld := ⟨0x062, 0x154, 0, 0, 32⟩
/-- CRI_POOL_BASE.base (R264). -/
def F.CRI_POOL_BASE_base : Fld := ⟨0x064, 0x040, 0, 0, 32⟩
/-- CRI_RX_BASE.base (R264). -/
def F.CRI_RX_BASE_base : Fld := ⟨0x064, 0x044, 0, 0, 32⟩
/-- CRI_INJ_BASE.base (R264). -/
def F.CRI_INJ_BASE_base : Fld := ⟨0x064, 0x048, 0, 0, 32⟩
/-- CRI_CFG.src_port (R264). -/
def F.CRI_CFG_src_port : Fld := ⟨0x064, 0x04C, 0, 0, 16⟩
/-- CRI_CFG.rx_queue (R264). -/
def F.CRI_CFG_rx_queue : Fld := ⟨0x064, 0x04C, 0, 16, 7⟩
/-- CRI_CFG.dscp (R264). -/
def F.CRI_CFG_dscp : Fld := ⟨0x064, 0x04C, 0, 24, 6⟩
/-- CRI_POST.slot (R264). -/
def F.CRI_POST_slot : Fld := ⟨0x064, 0x050, 0, 0, 8⟩
/-- CRI_CANCEL.slot (R264). -/
def F.CRI_CANCEL_slot : Fld := ⟨0x064, 0x054, 0, 0, 8⟩
/-- CRI_INJECT.length (R264). -/
def F.CRI_INJECT_length : Fld := ⟨0x064, 0x058, 0, 0, 11⟩
/-- CRI_INJECT.filter (R264). -/
def F.CRI_INJECT_filter : Fld := ⟨0x064, 0x058, 0, 11, 3⟩
/-- CRI_SLOT_STATE.s (R264). -/
def F.CRI_SLOT_STATE_s : Fld := ⟨0x064, 0x060, 4, 0, 32⟩
/-- CRI_RX_FILT.udp_port (R264). -/
def F.CRI_RX_FILT_udp_port : Fld := ⟨0x064, 0x0A0, 8, 0, 16⟩
/-- CRI_RX_FILT.en (R264). -/
def F.CRI_RX_FILT_en : Fld := ⟨0x064, 0x0A0, 8, 16, 1⟩
/-- CRI_RX_FILT.ports (R264). -/
def F.CRI_RX_FILT_ports : Fld := ⟨0x064, 0x0A0, 8, 17, 2⟩
/-- CRI_RX_FILT.cue (R264). -/
def F.CRI_RX_FILT_cue : Fld := ⟨0x064, 0x0A0, 8, 19, 1⟩
/-- CRI_RX_MATCH.match_ofs (R264). -/
def F.CRI_RX_MATCH_match_ofs : Fld := ⟨0x064, 0x0A4, 8, 0, 11⟩
/-- CRI_RX_HEAD.index (R264). -/
def F.CRI_RX_HEAD_index : Fld := ⟨0x064, 0x0E0, 0, 0, 7⟩
/-- CRI_RX_TAIL.index (R264). -/
def F.CRI_RX_TAIL_index : Fld := ⟨0x064, 0x0E4, 0, 0, 7⟩
/-- CRI_COUNTS.rx_drop (R264). -/
def F.CRI_COUNTS_rx_drop : Fld := ⟨0x064, 0x0E8, 0, 0, 16⟩
/-- CRI_COUNTS.cues (R264). -/
def F.CRI_COUNTS_cues : Fld := ⟨0x064, 0x0E8, 0, 16, 16⟩
/-- CRI_PENDING.posted (R264). -/
def F.CRI_PENDING_posted : Fld := ⟨0x064, 0x0EC, 0, 0, 9⟩
/-- PTS_CFG.one_step_a (R265). -/
def F.PTS_CFG_one_step_a : Fld := ⟨0x065, 0x040, 0, 0, 1⟩
/-- PTS_CFG.one_step_b (R265). -/
def F.PTS_CFG_one_step_b : Fld := ⟨0x065, 0x040, 0, 1, 1⟩
/-- PTS_CFG.udp4 (R265). -/
def F.PTS_CFG_udp4 : Fld := ⟨0x065, 0x040, 0, 2, 1⟩
/-- PTS_CFG.udp6 (R265). -/
def F.PTS_CFG_udp6 : Fld := ⟨0x065, 0x040, 0, 3, 1⟩
/-- PTS_CFG.l2 (R265). -/
def F.PTS_CFG_l2 : Fld := ⟨0x065, 0x040, 0, 4, 1⟩
/-- PTS_FIFO_INFO.valid (R265). -/
def F.PTS_FIFO_INFO_valid : Fld := ⟨0x065, 0x044, 0, 0, 1⟩
/-- PTS_FIFO_INFO.dir (R265). -/
def F.PTS_FIFO_INFO_dir : Fld := ⟨0x065, 0x044, 0, 1, 1⟩
/-- PTS_FIFO_INFO.port (R265). -/
def F.PTS_FIFO_INFO_port : Fld := ⟨0x065, 0x044, 0, 2, 1⟩
/-- PTS_FIFO_INFO.msg (R265). -/
def F.PTS_FIFO_INFO_msg : Fld := ⟨0x065, 0x044, 0, 3, 4⟩
/-- PTS_FIFO_INFO.domain (R265). -/
def F.PTS_FIFO_INFO_domain : Fld := ⟨0x065, 0x044, 0, 8, 8⟩
/-- PTS_FIFO_INFO.seq (R265). -/
def F.PTS_FIFO_INFO_seq : Fld := ⟨0x065, 0x044, 0, 16, 16⟩
/-- PTS_FIFO_NS.value (R265). -/
def F.PTS_FIFO_NS_value : Fld := ⟨0x065, 0x048, 0, 0, 30⟩
/-- PTS_FIFO_SEC_LO.stamp (R265). -/
def F.PTS_FIFO_SEC_LO_stamp : Fld := ⟨0x065, 0x04C, 0, 0, 32⟩
/-- PTS_FIFO_SEC_HI.value (R265). -/
def F.PTS_FIFO_SEC_HI_value : Fld := ⟨0x065, 0x050, 0, 0, 16⟩
/-- PTS_FIFO_LEVEL.level (R265). -/
def F.PTS_FIFO_LEVEL_level : Fld := ⟨0x065, 0x054, 0, 0, 9⟩
/-- PTS_FIFO_LEVEL.dropped (R265). -/
def F.PTS_FIFO_LEVEL_dropped : Fld := ⟨0x065, 0x054, 0, 16, 16⟩
/-- SAP_CFG.enable (R296). -/
def F.SAP_CFG_enable : Fld := ⟨0x080, 0x040, 0, 0, 1⟩
/-- SAP_CFG.leader (R296). -/
def F.SAP_CFG_leader : Fld := ⟨0x080, 0x040, 0, 1, 1⟩
/-- SAP_CFG.format (R296). -/
def F.SAP_CFG_format : Fld := ⟨0x080, 0x040, 0, 2, 2⟩
/-- SAP_CFG.slots (R296). -/
def F.SAP_CFG_slots : Fld := ⟨0x080, 0x040, 0, 4, 5⟩
/-- SAP_CFG.width (R296). -/
def F.SAP_CFG_width : Fld := ⟨0x080, 0x040, 0, 9, 2⟩
/-- SAP_CFG.word (R296). -/
def F.SAP_CFG_word : Fld := ⟨0x080, 0x040, 0, 11, 2⟩
/-- SAP_CFG.relation (R296). -/
def F.SAP_CFG_relation : Fld := ⟨0x080, 0x040, 0, 13, 2⟩
/-- SAP_CFG.half (R296). -/
def F.SAP_CFG_half : Fld := ⟨0x080, 0x040, 0, 15, 1⟩
/-- SAP_CFG.fs_delay (R296). -/
def F.SAP_CFG_fs_delay : Fld := ⟨0x080, 0x040, 0, 16, 1⟩
/-- SAP_CFG.fs_width (R296). -/
def F.SAP_CFG_fs_width : Fld := ⟨0x080, 0x040, 0, 17, 1⟩
/-- SAP_CFG.fs_inv (R296). -/
def F.SAP_CFG_fs_inv : Fld := ⟨0x080, 0x040, 0, 18, 1⟩
/-- SAP_CFG.bclk_inv (R296). -/
def F.SAP_CFG_bclk_inv : Fld := ⟨0x080, 0x040, 0, 19, 1⟩
/-- SAP_CFG.dout_z (R296). -/
def F.SAP_CFG_dout_z : Fld := ⟨0x080, 0x040, 0, 20, 1⟩
/-- SAP_CFG.fifo_target (R296). -/
def F.SAP_CFG_fifo_target : Fld := ⟨0x080, 0x040, 0, 21, 5⟩
/-- SAP_IN_MASK.mask (R296). -/
def F.SAP_IN_MASK_mask : Fld := ⟨0x080, 0x044, 0, 0, 32⟩
/-- SAP_OUT_MASK.mask (R296). -/
def F.SAP_OUT_MASK_mask : Fld := ⟨0x080, 0x048, 0, 0, 32⟩
/-- SAP_STATUS.running (R296). -/
def F.SAP_STATUS_running : Fld := ⟨0x080, 0x04C, 0, 0, 1⟩
/-- SAP_STATUS.locked (R296). -/
def F.SAP_STATUS_locked : Fld := ⟨0x080, 0x04C, 0, 1, 1⟩
/-- SAP_STATUS.lost (R296). -/
def F.SAP_STATUS_lost : Fld := ⟨0x080, 0x04C, 0, 2, 1⟩
/-- SAP_STATUS.ramp (R296). -/
def F.SAP_STATUS_ramp : Fld := ⟨0x080, 0x04C, 0, 3, 1⟩
/-- SAP_STATUS.steering (R296). -/
def F.SAP_STATUS_steering : Fld := ⟨0x080, 0x04C, 0, 4, 1⟩
/-- SAP_STATUS.in_level (R296). -/
def F.SAP_STATUS_in_level : Fld := ⟨0x080, 0x04C, 0, 8, 6⟩
/-- SAP_STATUS.out_level (R296). -/
def F.SAP_STATUS_out_level : Fld := ⟨0x080, 0x04C, 0, 16, 6⟩
/-- SAP_COUNTS.slips (R296). -/
def F.SAP_COUNTS_slips : Fld := ⟨0x080, 0x050, 0, 0, 16⟩
/-- SAP_COUNTS.lost (R296). -/
def F.SAP_COUNTS_lost : Fld := ⟨0x080, 0x050, 0, 16, 16⟩
/-- SAP_SAT.samples (R296). -/
def F.SAP_SAT_samples : Fld := ⟨0x080, 0x054, 0, 0, 32⟩
/-- SAP_LATENCY.input (R296). -/
def F.SAP_LATENCY_input : Fld := ⟨0x080, 0x058, 0, 0, 16⟩
/-- SAP_LATENCY.output (R296). -/
def F.SAP_LATENCY_output : Fld := ⟨0x080, 0x058, 0, 16, 16⟩
/-- MAD_CFG.enable_in (R297). -/
def F.MAD_CFG_enable_in : Fld := ⟨0x090, 0x040, 0, 0, 1⟩
/-- MAD_CFG.enable_out (R297). -/
def F.MAD_CFG_enable_out : Fld := ⟨0x090, 0x040, 0, 1, 1⟩
/-- MAD_CFG.frame (R297). -/
def F.MAD_CFG_frame : Fld := ⟨0x090, 0x040, 0, 2, 2⟩
/-- MAD_CFG.ch56 (R297). -/
def F.MAD_CFG_ch56 : Fld := ⟨0x090, 0x040, 0, 4, 1⟩
/-- MAD_CFG.relation (R297). -/
def F.MAD_CFG_relation : Fld := ⟨0x090, 0x040, 0, 5, 2⟩
/-- MAD_CFG.half (R297). -/
def F.MAD_CFG_half : Fld := ⟨0x090, 0x040, 0, 7, 1⟩
/-- MAD_CFG.fifo_target (R297). -/
def F.MAD_CFG_fifo_target : Fld := ⟨0x090, 0x040, 0, 8, 5⟩
/-- MAD_IN_MASK_LO.mask (R297). -/
def F.MAD_IN_MASK_LO_mask : Fld := ⟨0x090, 0x044, 0, 0, 32⟩
/-- MAD_IN_MASK_HI.mask (R297). -/
def F.MAD_IN_MASK_HI_mask : Fld := ⟨0x090, 0x048, 0, 0, 32⟩
/-- MAD_OUT_MASK_LO.mask (R297). -/
def F.MAD_OUT_MASK_LO_mask : Fld := ⟨0x090, 0x04C, 0, 0, 32⟩
/-- MAD_OUT_MASK_HI.mask (R297). -/
def F.MAD_OUT_MASK_HI_mask : Fld := ⟨0x090, 0x050, 0, 0, 32⟩
/-- MAD_ERRORS.code (R297). -/
def F.MAD_ERRORS_code : Fld := ⟨0x090, 0x060, 0, 0, 16⟩
/-- MAD_ERRORS.parity (R297). -/
def F.MAD_ERRORS_parity : Fld := ⟨0x090, 0x060, 0, 16, 16⟩
/-- AES_CFG.enable_in (R298). -/
def F.AES_CFG_enable_in : Fld := ⟨0x094, 0x040, 128, 0, 1⟩
/-- AES_CFG.enable_out (R298). -/
def F.AES_CFG_enable_out : Fld := ⟨0x094, 0x040, 128, 1, 1⟩
/-- AES_CFG.relation (R298). -/
def F.AES_CFG_relation : Fld := ⟨0x094, 0x040, 128, 2, 2⟩
/-- AES_CFG.half (R298). -/
def F.AES_CFG_half : Fld := ⟨0x094, 0x040, 128, 4, 1⟩
/-- AES_CFG.v_mute (R298). -/
def F.AES_CFG_v_mute : Fld := ⟨0x094, 0x040, 128, 5, 1⟩
/-- AES_CFG.fifo_target (R298). -/
def F.AES_CFG_fifo_target : Fld := ⟨0x094, 0x040, 128, 6, 5⟩
/-- AES_STATUS.state (R298). -/
def F.AES_STATUS_state : Fld := ⟨0x094, 0x044, 128, 0, 5⟩
/-- AES_STATUS.pro (R298). -/
def F.AES_STATUS_pro : Fld := ⟨0x094, 0x044, 128, 5, 1⟩
/-- AES_STATUS.in_level (R298). -/
def F.AES_STATUS_in_level : Fld := ⟨0x094, 0x044, 128, 8, 6⟩
/-- AES_COUNTS.value (R298). -/
def F.AES_COUNTS_value : Fld := ⟨0x094, 0x048, 128, 0, 32⟩
/-- AES_SAT.value (R298). -/
def F.AES_SAT_value : Fld := ⟨0x094, 0x04C, 128, 0, 32⟩
/-- AES_LATENCY.value (R298). -/
def F.AES_LATENCY_value : Fld := ⟨0x094, 0x050, 128, 0, 32⟩
/-- AES_ERRORS.bit (R298). -/
def F.AES_ERRORS_bit : Fld := ⟨0x094, 0x054, 128, 0, 16⟩
/-- AES_ERRORS.validity (R298). -/
def F.AES_ERRORS_validity : Fld := ⟨0x094, 0x054, 128, 16, 16⟩
/-- AES_CS_ERR.crc (R298). -/
def F.AES_CS_ERR_crc : Fld := ⟨0x094, 0x058, 128, 0, 16⟩
/-- AES_RX_CS0.bytes (R298). -/
def F.AES_RX_CS0_bytes : Fld := ⟨0x094, 0x060, 128, 0, 32⟩
/-- AES_RX_CS1.bytes (R298). -/
def F.AES_RX_CS1_bytes : Fld := ⟨0x094, 0x064, 128, 0, 32⟩
/-- AES_RX_CS2.bytes (R298). -/
def F.AES_RX_CS2_bytes : Fld := ⟨0x094, 0x068, 128, 0, 32⟩
/-- AES_RX_CS3.bytes (R298). -/
def F.AES_RX_CS3_bytes : Fld := ⟨0x094, 0x06C, 128, 0, 32⟩
/-- AES_RX_CS4.bytes (R298). -/
def F.AES_RX_CS4_bytes : Fld := ⟨0x094, 0x070, 128, 0, 32⟩
/-- AES_RX_CS5.bytes (R298). -/
def F.AES_RX_CS5_bytes : Fld := ⟨0x094, 0x074, 128, 0, 32⟩
/-- AES_TX_CS0.bytes (R298). -/
def F.AES_TX_CS0_bytes : Fld := ⟨0x094, 0x080, 128, 0, 32⟩
/-- AES_TX_CS1.bytes (R298). -/
def F.AES_TX_CS1_bytes : Fld := ⟨0x094, 0x084, 128, 0, 32⟩
/-- AES_TX_CS2.bytes (R298). -/
def F.AES_TX_CS2_bytes : Fld := ⟨0x094, 0x088, 128, 0, 32⟩
/-- AES_TX_CS3.bytes (R298). -/
def F.AES_TX_CS3_bytes : Fld := ⟨0x094, 0x08C, 128, 0, 32⟩
/-- AES_TX_CS4.bytes (R298). -/
def F.AES_TX_CS4_bytes : Fld := ⟨0x094, 0x090, 128, 0, 32⟩
/-- AES_TX_CS5.bytes (R298). -/
def F.AES_TX_CS5_bytes : Fld := ⟨0x094, 0x094, 128, 0, 32⟩
/-- ASR_ALLOC.used (R299). -/
def F.ASR_ALLOC_used : Fld := ⟨0x095, 0x040, 0, 0, 7⟩
/-- ASR_SEL.kind (R299). -/
def F.ASR_SEL_kind : Fld := ⟨0x095, 0x044, 0, 0, 2⟩
/-- ASR_SEL.index (R299). -/
def F.ASR_SEL_index : Fld := ⟨0x095, 0x044, 0, 4, 4⟩
/-- ASR_RATIO.ratio (R299). -/
def F.ASR_RATIO_ratio : Fld := ⟨0x095, 0x048, 0, 0, 32⟩
/-- ASR_PORT.locked (R299). -/
def F.ASR_PORT_locked : Fld := ⟨0x095, 0x04C, 0, 0, 1⟩
/-- ASR_PORT.converters (R299). -/
def F.ASR_PORT_converters : Fld := ⟨0x095, 0x04C, 0, 1, 7⟩
/-- ASR_STEER.valid (R299). -/
def F.ASR_STEER_valid : Fld := ⟨0x095, 0x050, 0, 0, 1⟩
/-- ASR_STEER.kind (R299). -/
def F.ASR_STEER_kind : Fld := ⟨0x095, 0x050, 0, 1, 2⟩
/-- ASR_STEER.index (R299). -/
def F.ASR_STEER_index : Fld := ⟨0x095, 0x050, 0, 4, 4⟩
/-- ASR_STEER.error (R299). -/
def F.ASR_STEER_error : Fld := ⟨0x095, 0x050, 0, 16, 16⟩
/-- ASR_COUNTS.unlocks (R299). -/
def F.ASR_COUNTS_unlocks : Fld := ⟨0x095, 0x054, 0, 0, 16⟩
/-- STP_CFG.revertive (R333). -/
def F.STP_CFG_revertive : Fld := ⟨0x070, 0x040, 0, 0, 1⟩
/-- STP_CFG.forced (R333). -/
def F.STP_CFG_forced : Fld := ⟨0x070, 0x040, 0, 1, 1⟩
/-- STP_CFG.force (R333). -/
def F.STP_CFG_force : Fld := ⟨0x070, 0x040, 0, 2, 3⟩
/-- STP_CFG.hold_ocxo (R333). -/
def F.STP_CFG_hold_ocxo : Fld := ⟨0x070, 0x040, 0, 5, 1⟩
/-- STP_CFG.wtr_s (R333). -/
def F.STP_CFG_wtr_s : Fld := ⟨0x070, 0x040, 0, 16, 12⟩
/-- STP_PRIO.prio (R333). -/
def F.STP_PRIO_prio : Fld := ⟨0x070, 0x044, 0, 0, 32⟩
/-- STP_LIMITS.suspect_ppb (R333). -/
def F.STP_LIMITS_suspect_ppb : Fld := ⟨0x070, 0x048, 0, 0, 16⟩
/-- STP_LIMITS.hard_ppb (R333). -/
def F.STP_LIMITS_hard_ppb : Fld := ⟨0x070, 0x048, 0, 16, 16⟩
/-- STP_QUAL.drift_ppbs (R333). -/
def F.STP_QUAL_drift_ppbs : Fld := ⟨0x070, 0x04C, 0, 0, 16⟩
/-- STP_QUAL.qual_s (R333). -/
def F.STP_QUAL_qual_s : Fld := ⟨0x070, 0x04C, 0, 16, 8⟩
/-- STP_INPUT.wck_rate (R333). -/
def F.STP_INPUT_wck_rate : Fld := ⟨0x070, 0x050, 0, 0, 3⟩
/-- STP_INPUT.vsync_rate (R333). -/
def F.STP_INPUT_vsync_rate : Fld := ⟨0x070, 0x050, 0, 3, 4⟩
/-- STP_INPUT.pps_edge (R333). -/
def F.STP_INPUT_pps_edge : Fld := ⟨0x070, 0x050, 0, 7, 1⟩
/-- STP_INPUT.vsync_edge (R333). -/
def F.STP_INPUT_vsync_edge : Fld := ⟨0x070, 0x050, 0, 8, 1⟩
/-- STP_OFS.ofs (R333). -/
def F.STP_OFS_ofs : Fld := ⟨0x070, 0x060, 4, 0, 32⟩
/-- STP_PTP.role (R333). -/
def F.STP_PTP_role : Fld := ⟨0x070, 0x080, 0, 0, 2⟩
/-- STP_PTP.profile (R333). -/
def F.STP_PTP_profile : Fld := ⟨0x070, 0x080, 0, 2, 1⟩
/-- STP_PTP.p2p_a (R333). -/
def F.STP_PTP_p2p_a : Fld := ⟨0x070, 0x080, 0, 3, 1⟩
/-- STP_PTP.p2p_b (R333). -/
def F.STP_PTP_p2p_b : Fld := ⟨0x070, 0x080, 0, 4, 1⟩
/-- STP_PTP.en_a (R333). -/
def F.STP_PTP_en_a : Fld := ⟨0x070, 0x080, 0, 5, 1⟩
/-- STP_PTP.en_b (R333). -/
def F.STP_PTP_en_b : Fld := ⟨0x070, 0x080, 0, 6, 1⟩
/-- STP_PTP.domain (R333). -/
def F.STP_PTP_domain : Fld := ⟨0x070, 0x080, 0, 8, 8⟩
/-- STP_PTP.priority1 (R333). -/
def F.STP_PTP_priority1 : Fld := ⟨0x070, 0x080, 0, 16, 8⟩
/-- STP_PTP.priority2 (R333). -/
def F.STP_PTP_priority2 : Fld := ⟨0x070, 0x080, 0, 24, 8⟩
/-- STP_PTP_INT.log_sync (R333). -/
def F.STP_PTP_INT_log_sync : Fld := ⟨0x070, 0x084, 0, 0, 4⟩
/-- STP_PTP_INT.log_announce (R333). -/
def F.STP_PTP_INT_log_announce : Fld := ⟨0x070, 0x084, 0, 4, 4⟩
/-- STP_PTP_INT.log_delay (R333). -/
def F.STP_PTP_INT_log_delay : Fld := ⟨0x070, 0x084, 0, 8, 4⟩
/-- STP_PTP_INT.receipt (R333). -/
def F.STP_PTP_INT_receipt : Fld := ⟨0x070, 0x084, 0, 12, 4⟩
/-- STP_STATE.state (R333). -/
def F.STP_STATE_state : Fld := ⟨0x070, 0x090, 0, 0, 3⟩
/-- STP_STATE.selected (R333). -/
def F.STP_STATE_selected : Fld := ⟨0x070, 0x090, 0, 3, 4⟩
/-- STP_STATE.switching (R333). -/
def F.STP_STATE_switching : Fld := ⟨0x070, 0x090, 0, 7, 1⟩
/-- STP_STATE.audio_led (R333). -/
def F.STP_STATE_audio_led : Fld := ⟨0x070, 0x090, 0, 8, 1⟩
/-- STP_STATE.bw (R333). -/
def F.STP_STATE_bw : Fld := ⟨0x070, 0x090, 0, 12, 4⟩
/-- STP_STATE.clock_class (R333). -/
def F.STP_STATE_clock_class : Fld := ⟨0x070, 0x090, 0, 16, 8⟩
/-- STP_CAND.cand (R333). -/
def F.STP_CAND_cand : Fld := ⟨0x070, 0x094, 0, 0, 32⟩
/-- STP_CAND_SEL.k (R333). -/
def F.STP_CAND_SEL_k : Fld := ⟨0x070, 0x098, 0, 0, 3⟩
/-- STP_CAND_FREQ.value (R333). -/
def F.STP_CAND_FREQ_value : Fld := ⟨0x070, 0x09C, 0, 0, 32⟩
/-- STP_CAND_PHASE.value (R333). -/
def F.STP_CAND_PHASE_value : Fld := ⟨0x070, 0x0A0, 0, 0, 32⟩
/-- STP_CAND_WTR.remaining (R333). -/
def F.STP_CAND_WTR_remaining : Fld := ⟨0x070, 0x0A4, 0, 0, 12⟩
/-- STP_PTP_STATE.state_a (R333). -/
def F.STP_PTP_STATE_state_a : Fld := ⟨0x070, 0x0A8, 0, 0, 4⟩
/-- STP_PTP_STATE.state_b (R333). -/
def F.STP_PTP_STATE_state_b : Fld := ⟨0x070, 0x0A8, 0, 4, 4⟩
/-- STP_PTP_STATE.gm_class (R333). -/
def F.STP_PTP_STATE_gm_class : Fld := ⟨0x070, 0x0A8, 0, 8, 8⟩
/-- STP_PTP_STATE.steps (R333). -/
def F.STP_PTP_STATE_steps : Fld := ⟨0x070, 0x0A8, 0, 16, 8⟩
/-- STP_GM_ID_LO.id (R333). -/
def F.STP_GM_ID_LO_id : Fld := ⟨0x070, 0x0AC, 0, 0, 32⟩
/-- STP_GM_ID_HI.id (R333). -/
def F.STP_GM_ID_HI_id : Fld := ⟨0x070, 0x0B0, 0, 0, 32⟩
/-- STP_COUNTS.switches (R333). -/
def F.STP_COUNTS_switches : Fld := ⟨0x070, 0x0B4, 0, 0, 16⟩
/-- STP_COUNTS.disqualified (R333). -/
def F.STP_COUNTS_disqualified : Fld := ⟨0x070, 0x0B4, 0, 16, 16⟩
/-- SLP_BW.bw_acq (R334). -/
def F.SLP_BW_bw_acq : Fld := ⟨0x071, 0x040, 0, 0, 4⟩
/-- SLP_BW.bw_track (R334). -/
def F.SLP_BW_bw_track : Fld := ⟨0x071, 0x040, 0, 4, 4⟩
/-- SLP_BW.aud_bw (R334). -/
def F.SLP_BW_aud_bw : Fld := ⟨0x071, 0x040, 0, 8, 4⟩
/-- SLP_WINDOW.lock_ns (R334). -/
def F.SLP_WINDOW_lock_ns : Fld := ⟨0x071, 0x044, 0, 0, 16⟩
/-- SLP_WINDOW.lock_ppb (R334). -/
def F.SLP_WINDOW_lock_ppb : Fld := ⟨0x071, 0x044, 0, 16, 16⟩
/-- SLP_SLEW.slew_ppb (R334). -/
def F.SLP_SLEW_slew_ppb : Fld := ⟨0x071, 0x048, 0, 0, 16⟩
/-- SLP_SLEW.step_us (R334). -/
def F.SLP_SLEW_step_us : Fld := ⟨0x071, 0x048, 0, 16, 16⟩
/-- SLP_HOLD.avg_s (R334). -/
def F.SLP_HOLD_avg_s : Fld := ⟨0x071, 0x04C, 0, 0, 16⟩
/-- SLP_HOLD.max_h (R334). -/
def F.SLP_HOLD_max_h : Fld := ⟨0x071, 0x04C, 0, 16, 16⟩
/-- SLP_VCXO.kvco (R334). -/
def F.SLP_VCXO_kvco : Fld := ⟨0x071, 0x050, 0, 0, 16⟩
/-- SLP_VCXO.pull_ppm (R334). -/
def F.SLP_VCXO_pull_ppm : Fld := ⟨0x071, 0x050, 0, 16, 8⟩
/-- SLP_REF_ERR.value (R334). -/
def F.SLP_REF_ERR_value : Fld := ⟨0x071, 0x054, 0, 0, 32⟩
/-- SLP_AUD_CORR.value (R334). -/
def F.SLP_AUD_CORR_value : Fld := ⟨0x071, 0x058, 0, 0, 32⟩
/-- SLP_AVG48.code (R334). -/
def F.SLP_AVG48_code : Fld := ⟨0x071, 0x05C, 0, 0, 16⟩
/-- SLP_AVG48.valid (R334). -/
def F.SLP_AVG48_valid : Fld := ⟨0x071, 0x05C, 0, 16, 1⟩
/-- SLP_AVG44.code (R334). -/
def F.SLP_AVG44_code : Fld := ⟨0x071, 0x060, 0, 0, 16⟩
/-- SLP_AVG44.valid (R334). -/
def F.SLP_AVG44_valid : Fld := ⟨0x071, 0x060, 0, 16, 1⟩
/-- SLP_HOLD_TIME.seconds (R334). -/
def F.SLP_HOLD_TIME_seconds : Fld := ⟨0x071, 0x064, 0, 0, 32⟩
/-- TBS_NOW_NS.value (R335). -/
def F.TBS_NOW_NS_value : Fld := ⟨0x072, 0x040, 0, 0, 30⟩
/-- TBS_NOW_SEC_LO.now (R335). -/
def F.TBS_NOW_SEC_LO_now : Fld := ⟨0x072, 0x044, 0, 0, 32⟩
/-- TBS_NOW_SEC_HI.value (R335). -/
def F.TBS_NOW_SEC_HI_value : Fld := ⟨0x072, 0x048, 0, 0, 16⟩
/-- TBS_FREQ.f (R335). -/
def F.TBS_FREQ_f : Fld := ⟨0x072, 0x04C, 0, 0, 32⟩
/-- TBS_SET_NS.set (R335). -/
def F.TBS_SET_NS_set : Fld := ⟨0x072, 0x050, 0, 0, 30⟩
/-- TBS_SET_SEC_LO.set (R335). -/
def F.TBS_SET_SEC_LO_set : Fld := ⟨0x072, 0x054, 0, 0, 32⟩
/-- TBS_SET_SEC_HI.set (R335). -/
def F.TBS_SET_SEC_HI_set : Fld := ⟨0x072, 0x058, 0, 0, 16⟩
/-- TBS_SET_SEC_HI.go (R335). -/
def F.TBS_SET_SEC_HI_go : Fld := ⟨0x072, 0x058, 0, 31, 1⟩
/-- TBS_UTC.utc_offset (R335). -/
def F.TBS_UTC_utc_offset : Fld := ⟨0x072, 0x05C, 0, 0, 16⟩
/-- TBS_UTC.traceable (R335). -/
def F.TBS_UTC_traceable : Fld := ⟨0x072, 0x05C, 0, 16, 1⟩
/-- TBS_UTC.leap61 (R335). -/
def F.TBS_UTC_leap61 : Fld := ⟨0x072, 0x05C, 0, 17, 1⟩
/-- TBS_UTC.leap59 (R335). -/
def F.TBS_UTC_leap59 : Fld := ⟨0x072, 0x05C, 0, 18, 1⟩
/-- TBS_UTC.time_source (R335). -/
def F.TBS_UTC_time_source : Fld := ⟨0x072, 0x05C, 0, 24, 8⟩
/-- TBS_OUT_CFG.wck0 (R335). -/
def F.TBS_OUT_CFG_wck0 : Fld := ⟨0x072, 0x060, 0, 0, 3⟩
/-- TBS_OUT_CFG.wck1 (R335). -/
def F.TBS_OUT_CFG_wck1 : Fld := ⟨0x072, 0x060, 0, 3, 3⟩
/-- TBS_OUT_CFG.pps_en (R335). -/
def F.TBS_OUT_CFG_pps_en : Fld := ⟨0x072, 0x060, 0, 6, 1⟩
/-- TBS_OUT_CFG.frame_en (R335). -/
def F.TBS_OUT_CFG_frame_en : Fld := ⟨0x072, 0x060, 0, 7, 1⟩
/-- TBS_OUT_CFG.frame_rate (R335). -/
def F.TBS_OUT_CFG_frame_rate : Fld := ⟨0x072, 0x060, 0, 8, 4⟩
/-- TBS_OUT_CFG.pps_width (R335). -/
def F.TBS_OUT_CFG_pps_width : Fld := ⟨0x072, 0x060, 0, 12, 4⟩
/-- TBS_OUT_ALIGN.align (R335). -/
def F.TBS_OUT_ALIGN_align : Fld := ⟨0x072, 0x064, 0, 0, 5⟩
/-- TBS_OUT_STATUS.misaligned (R335). -/
def F.TBS_OUT_STATUS_misaligned : Fld := ⟨0x072, 0x068, 0, 0, 5⟩
/-- TBS_STEPS.steps (R335). -/
def F.TBS_STEPS_steps : Fld := ⟨0x072, 0x06C, 0, 0, 16⟩
/-- TBS_STEPS.sets (R335). -/
def F.TBS_STEPS_sets : Fld := ⟨0x072, 0x06C, 0, 16, 16⟩
/-- EDG_LEVEL.level (R336). -/
def F.EDG_LEVEL_level : Fld := ⟨0x073, 0x040, 0, 0, 9⟩
/-- EDG_LEVEL.dropped (R336). -/
def F.EDG_LEVEL_dropped : Fld := ⟨0x073, 0x040, 0, 16, 16⟩
/-- EDG_INFO.valid (R336). -/
def F.EDG_INFO_valid : Fld := ⟨0x073, 0x044, 0, 0, 1⟩
/-- EDG_INFO.source (R336). -/
def F.EDG_INFO_source : Fld := ⟨0x073, 0x044, 0, 1, 6⟩
/-- EDG_INFO.edge (R336). -/
def F.EDG_INFO_edge : Fld := ⟨0x073, 0x044, 0, 7, 1⟩
/-- EDG_NS.value (R336). -/
def F.EDG_NS_value : Fld := ⟨0x073, 0x048, 0, 0, 30⟩
/-- EDG_SEC_LO.stamp (R336). -/
def F.EDG_SEC_LO_stamp : Fld := ⟨0x073, 0x04C, 0, 0, 32⟩
/-- EDG_SEC_HI.value (R336). -/
def F.EDG_SEC_HI_value : Fld := ⟨0x073, 0x050, 0, 0, 16⟩
/-- EDG_ESI.stamp (R336). -/
def F.EDG_ESI_stamp : Fld := ⟨0x073, 0x054, 0, 0, 32⟩
/-- EDG_SRC.edge (R336). -/
def F.EDG_SRC_edge : Fld := ⟨0x073, 0x100, 4, 0, 2⟩
/-- EDG_SRC.fifo (R336). -/
def F.EDG_SRC_fifo : Fld := ⟨0x073, 0x100, 4, 2, 1⟩
/-- EDG_SRC.prescale (R336). -/
def F.EDG_SRC_prescale : Fld := ⟨0x073, 0x100, 4, 3, 8⟩
/-- EDG_SRC.glitch (R336). -/
def F.EDG_SRC_glitch : Fld := ⟨0x073, 0x100, 4, 11, 4⟩
/-- LTC_OUT_CFG.enable (R337). -/
def F.LTC_OUT_CFG_enable : Fld := ⟨0x074, 0x040, 0, 0, 1⟩
/-- LTC_OUT_CFG.rate (R337). -/
def F.LTC_OUT_CFG_rate : Fld := ⟨0x074, 0x040, 0, 1, 3⟩
/-- LTC_OUT_CFG.tz_min (R337). -/
def F.LTC_OUT_CFG_tz_min : Fld := ⟨0x074, 0x040, 0, 4, 12⟩
/-- LTC_OUT_USER.user (R337). -/
def F.LTC_OUT_USER_user : Fld := ⟨0x074, 0x044, 0, 0, 32⟩
/-- LTC_IN_CFG.enable (R337). -/
def F.LTC_IN_CFG_enable : Fld := ⟨0x074, 0x048, 0, 0, 1⟩
/-- LTC_IN_TIME.frames (R337). -/
def F.LTC_IN_TIME_frames : Fld := ⟨0x074, 0x04C, 0, 0, 5⟩
/-- LTC_IN_TIME.drop (R337). -/
def F.LTC_IN_TIME_drop : Fld := ⟨0x074, 0x04C, 0, 5, 1⟩
/-- LTC_IN_TIME.seconds (R337). -/
def F.LTC_IN_TIME_seconds : Fld := ⟨0x074, 0x04C, 0, 8, 6⟩
/-- LTC_IN_TIME.minutes (R337). -/
def F.LTC_IN_TIME_minutes : Fld := ⟨0x074, 0x04C, 0, 16, 6⟩
/-- LTC_IN_TIME.hours (R337). -/
def F.LTC_IN_TIME_hours : Fld := ⟨0x074, 0x04C, 0, 24, 5⟩
/-- LTC_IN_TIME.reverse (R337). -/
def F.LTC_IN_TIME_reverse : Fld := ⟨0x074, 0x04C, 0, 29, 1⟩
/-- LTC_IN_TIME.valid (R337). -/
def F.LTC_IN_TIME_valid : Fld := ⟨0x074, 0x04C, 0, 31, 1⟩
/-- LTC_IN_USER.value (R337). -/
def F.LTC_IN_USER_value : Fld := ⟨0x074, 0x050, 0, 0, 32⟩
/-- LTC_IN_STAMP_NS.value (R337). -/
def F.LTC_IN_STAMP_NS_value : Fld := ⟨0x074, 0x054, 0, 0, 30⟩
/-- LTC_IN_STAMP_SEC.value (R337). -/
def F.LTC_IN_STAMP_SEC_value : Fld := ⟨0x074, 0x058, 0, 0, 32⟩
/-- LTC_IN_ESI.value (R337). -/
def F.LTC_IN_ESI_value : Fld := ⟨0x074, 0x05C, 0, 0, 32⟩
/-- LTC_IN_STATUS.locked (R337). -/
def F.LTC_IN_STATUS_locked : Fld := ⟨0x074, 0x060, 0, 0, 1⟩
/-- LTC_IN_STATUS.rate (R337). -/
def F.LTC_IN_STATUS_rate : Fld := ⟨0x074, 0x060, 0, 1, 3⟩
/-- LTC_IN_STATUS.speed (R337). -/
def F.LTC_IN_STATUS_speed : Fld := ⟨0x074, 0x060, 0, 16, 12⟩
/-- LTC_IN_ERR.bad (R337). -/
def F.LTC_IN_ERR_bad : Fld := ⟨0x074, 0x064, 0, 0, 16⟩
/-- DAC_CFG.vref_ext (R338). -/
def F.DAC_CFG_vref_ext : Fld := ⟨0x078, 0x040, 0, 0, 1⟩
/-- DAC_CFG.steer48 (R338). -/
def F.DAC_CFG_steer48 : Fld := ⟨0x078, 0x040, 0, 1, 1⟩
/-- DAC_CFG.steer44 (R338). -/
def F.DAC_CFG_steer44 : Fld := ⟨0x078, 0x040, 0, 2, 1⟩
/-- DAC_CTRL.enable (R338). -/
def F.DAC_CTRL_enable : Fld := ⟨0x078, 0x080, 16, 0, 1⟩
/-- DAC_CTRL.range (R338). -/
def F.DAC_CTRL_range : Fld := ⟨0x078, 0x080, 16, 1, 1⟩
/-- DAC_CTRL.safe_hold (R338). -/
def F.DAC_CTRL_safe_hold : Fld := ⟨0x078, 0x080, 16, 2, 1⟩
/-- DAC_CTRL.step (R338). -/
def F.DAC_CTRL_step : Fld := ⟨0x078, 0x080, 16, 3, 10⟩
/-- DAC_CTRL.interval (R338). -/
def F.DAC_CTRL_interval : Fld := ⟨0x078, 0x080, 16, 16, 16⟩
/-- DAC_CODE.target (R338). -/
def F.DAC_CODE_target : Fld := ⟨0x078, 0x084, 16, 0, 16⟩
/-- DAC_PRESET.preset (R338). -/
def F.DAC_PRESET_preset : Fld := ⟨0x078, 0x088, 16, 0, 16⟩
/-- DAC_PRESET.safe (R338). -/
def F.DAC_PRESET_safe : Fld := ⟨0x078, 0x088, 16, 16, 16⟩
/-- DAC_STATUS.out (R338). -/
def F.DAC_STATUS_out : Fld := ⟨0x078, 0x08C, 16, 0, 16⟩
/-- DAC_STATUS.on (R338). -/
def F.DAC_STATUS_on : Fld := ⟨0x078, 0x08C, 16, 16, 1⟩
/-- DAC_STATUS.slewing (R338). -/
def F.DAC_STATUS_slewing : Fld := ⟨0x078, 0x08C, 16, 17, 1⟩
/-- DAC_STATUS.sc (R338). -/
def F.DAC_STATUS_sc : Fld := ⟨0x078, 0x08C, 16, 18, 1⟩
/-- DAC_STATUS.range_clip (R338). -/
def F.DAC_STATUS_range_clip : Fld := ⟨0x078, 0x08C, 16, 19, 1⟩
/-- DAC_STATUS.steering (R338). -/
def F.DAC_STATUS_steering : Fld := ⟨0x078, 0x08C, 16, 20, 1⟩
/-- NBR_CFG.pair_en (R364). -/
def F.NBR_CFG_pair_en : Fld := ⟨0x0A0, 0x040, 0, 0, 1⟩
/-- NBR_CFG.hb_blocks (R364). -/
def F.NBR_CFG_hb_blocks : Fld := ⟨0x0A0, 0x040, 0, 1, 4⟩
/-- NBR_CFG.rough_ok (R364). -/
def F.NBR_CFG_rough_ok : Fld := ⟨0x0A0, 0x040, 0, 5, 1⟩
/-- NBR_CFG.scan_rate (R364). -/
def F.NBR_CFG_scan_rate : Fld := ⟨0x0A0, 0x040, 0, 6, 4⟩
/-- NBR_CFG.copy_rate (R364). -/
def F.NBR_CFG_copy_rate : Fld := ⟨0x0A0, 0x040, 0, 10, 6⟩
/-- NBR_CFG.confirm (R364). -/
def F.NBR_CFG_confirm : Fld := ⟨0x0A0, 0x040, 0, 16, 16⟩
/-- NBR_STATE.role (R364). -/
def F.NBR_STATE_role : Fld := ⟨0x0A0, 0x044, 0, 0, 2⟩
/-- NBR_STATE.cond (R364). -/
def F.NBR_STATE_cond : Fld := ⟨0x0A0, 0x044, 0, 2, 3⟩
/-- NBR_STATE.lead (R364). -/
def F.NBR_STATE_lead : Fld := ⟨0x0A0, 0x044, 0, 5, 1⟩
/-- NBR_STATE.peer_role (R364). -/
def F.NBR_STATE_peer_role : Fld := ⟨0x0A0, 0x044, 0, 6, 2⟩
/-- NBR_STATE.dreba_alive (R364). -/
def F.NBR_STATE_dreba_alive : Fld := ⟨0x0A0, 0x044, 0, 8, 1⟩
/-- NBR_STATE.hb_alive (R364). -/
def F.NBR_STATE_hb_alive : Fld := ⟨0x0A0, 0x044, 0, 9, 1⟩
/-- NBR_STATE.reason (R364). -/
def F.NBR_STATE_reason : Fld := ⟨0x0A0, 0x044, 0, 12, 4⟩
/-- NBR_EPOCH.value (R364). -/
def F.NBR_EPOCH_value : Fld := ⟨0x0A0, 0x048, 0, 0, 32⟩
/-- NBR_DIVERGE_ESI.value (R364). -/
def F.NBR_DIVERGE_ESI_value : Fld := ⟨0x0A0, 0x04C, 0, 0, 32⟩
/-- NBR_COPY_DONE.chunks (R364). -/
def F.NBR_COPY_DONE_chunks : Fld := ⟨0x0A0, 0x050, 0, 0, 32⟩
/-- NBR_COPY_TOTAL.chunks (R364). -/
def F.NBR_COPY_TOTAL_chunks : Fld := ⟨0x0A0, 0x054, 0, 0, 32⟩
/-- NBR_COUNTS.divergences (R364). -/
def F.NBR_COUNTS_divergences : Fld := ⟨0x0A0, 0x058, 0, 0, 16⟩
/-- NBR_COUNTS.driven_drop (R364). -/
def F.NBR_COUNTS_driven_drop : Fld := ⟨0x0A0, 0x058, 0, 16, 16⟩
/-- NBR_SCAN.passes (R364). -/
def F.NBR_SCAN_passes : Fld := ⟨0x0A0, 0x05C, 0, 0, 16⟩
/-- NBR_SCAN.skipped (R364). -/
def F.NBR_SCAN_skipped : Fld := ⟨0x0A0, 0x05C, 0, 16, 16⟩
/-- NBR_ELDER_CFG.channel (R364). -/
def F.NBR_ELDER_CFG_channel : Fld := ⟨0x0A0, 0x060, 0, 0, 2⟩
/-- NBR_ELDER_CFG.elder_port (R364). -/
def F.NBR_ELDER_CFG_elder_port : Fld := ⟨0x0A0, 0x060, 0, 16, 16⟩
/-- NBR_ELDER_IP.addr (R364). -/
def F.NBR_ELDER_IP_addr : Fld := ⟨0x0A0, 0x064, 0, 0, 32⟩
/-- NBR_GRANT.value (R364). -/
def F.NBR_GRANT_value : Fld := ⟨0x0A0, 0x068, 0, 0, 32⟩
/-- NBR_GRANT_AT.value (R364). -/
def F.NBR_GRANT_AT_value : Fld := ⟨0x0A0, 0x06C, 0, 0, 32⟩
/-- NBR_GRANT_RESULT.code (R364). -/
def F.NBR_GRANT_RESULT_code : Fld := ⟨0x0A0, 0x070, 0, 0, 8⟩
/-- NBR_CTRL.resync (R364). -/
def F.NBR_CTRL_resync : Fld := ⟨0x0A0, 0x074, 0, 0, 1⟩
/-- NBR_CTRL.drill (R364). -/
def F.NBR_CTRL_drill : Fld := ⟨0x0A0, 0x074, 0, 1, 1⟩
/-- NBR_CTRL.declare (R364). -/
def F.NBR_CTRL_declare : Fld := ⟨0x0A0, 0x074, 0, 2, 1⟩
/-- NBR_MAP_BASE.value (R364). -/
def F.NBR_MAP_BASE_value : Fld := ⟨0x0A0, 0x078, 0, 0, 32⟩
/-- NBR_MAP.value (R364). -/
def F.NBR_MAP_value : Fld := ⟨0x0A0, 0x07C, 0, 0, 8⟩
/-- DRB_CFG.enable (R365). -/
def F.DRB_CFG_enable : Fld := ⟨0x0A1, 0x040, 0, 0, 1⟩
/-- DRB_CFG.asym_ns (R365). -/
def F.DRB_CFG_asym_ns : Fld := ⟨0x0A1, 0x040, 0, 16, 16⟩
/-- DRB_STATUS.up (R365). -/
def F.DRB_STATUS_up : Fld := ⟨0x0A1, 0x044, 0, 0, 1⟩
/-- DRB_STATUS.lock (R365). -/
def F.DRB_STATUS_lock : Fld := ⟨0x0A1, 0x044, 0, 1, 4⟩
/-- DRB_STATUS.aligned (R365). -/
def F.DRB_STATUS_aligned : Fld := ⟨0x0A1, 0x044, 0, 5, 1⟩
/-- DRB_STATUS.rtt_ns (R365). -/
def F.DRB_STATUS_rtt_ns : Fld := ⟨0x0A1, 0x044, 0, 16, 16⟩
/-- DRB_ERRORS.crc (R365). -/
def F.DRB_ERRORS_crc : Fld := ⟨0x0A1, 0x048, 0, 0, 16⟩
/-- DRB_ERRORS.downs (R365). -/
def F.DRB_ERRORS_downs : Fld := ⟨0x0A1, 0x048, 0, 16, 16⟩
/-- DRB_LOAD.peak (R365). -/
def F.DRB_LOAD_peak : Fld := ⟨0x0A1, 0x04C, 0, 0, 8⟩
/-- SYS_MODE.family (R384). -/
def F.SYS_MODE_family : Fld := ⟨0x000, 0x060, 0, 0, 1⟩
/-- SYS_MODE.multiple (R384). -/
def F.SYS_MODE_multiple : Fld := ⟨0x000, 0x060, 0, 1, 2⟩
/-- SYS_MODE.blend (R384). -/
def F.SYS_MODE_blend : Fld := ⟨0x000, 0x060, 0, 3, 1⟩
/-- SYS_MODE.service (R384). -/
def F.SYS_MODE_service : Fld := ⟨0x000, 0x060, 0, 4, 2⟩
/-- SYS_MODE.force (R384). -/
def F.SYS_MODE_force : Fld := ⟨0x000, 0x060, 0, 8, 1⟩
/-- SYS_MODE_STATE.family (R384). -/
def F.SYS_MODE_STATE_family : Fld := ⟨0x000, 0x064, 0, 0, 1⟩
/-- SYS_MODE_STATE.multiple (R384). -/
def F.SYS_MODE_STATE_multiple : Fld := ⟨0x000, 0x064, 0, 1, 2⟩
/-- SYS_MODE_STATE.blend (R384). -/
def F.SYS_MODE_STATE_blend : Fld := ⟨0x000, 0x064, 0, 3, 1⟩
/-- SYS_MODE_STATE.service (R384). -/
def F.SYS_MODE_STATE_service : Fld := ⟨0x000, 0x064, 0, 4, 2⟩
/-- SYS_MODE_STATE.role (R384). -/
def F.SYS_MODE_STATE_role : Fld := ⟨0x000, 0x064, 0, 6, 2⟩
/-- SYS_MODE_STATE.phase (R384). -/
def F.SYS_MODE_STATE_phase : Fld := ⟨0x000, 0x064, 0, 8, 3⟩
/-- SYS_MODE_STATE.kind (R384). -/
def F.SYS_MODE_STATE_kind : Fld := ⟨0x000, 0x064, 0, 11, 3⟩
/-- SYS_MODE_STATE.muted (R384). -/
def F.SYS_MODE_STATE_muted : Fld := ⟨0x000, 0x064, 0, 14, 1⟩
/-- SYS_MODE_STATE.muting (R384). -/
def F.SYS_MODE_STATE_muting : Fld := ⟨0x000, 0x064, 0, 15, 1⟩
/-- SYS_RESTART_ESI.esi (R384). -/
def F.SYS_RESTART_ESI_esi : Fld := ⟨0x000, 0x068, 0, 0, 32⟩
/-- SYS_RESTART_GAP.us (R384). -/
def F.SYS_RESTART_GAP_us : Fld := ⟨0x000, 0x06C, 0, 0, 24⟩
/-- SYS_MODE_COUNTS.restarts (R384). -/
def F.SYS_MODE_COUNTS_restarts : Fld := ⟨0x000, 0x070, 0, 0, 16⟩
/-- SYS_MODE_COUNTS.refused (R384). -/
def F.SYS_MODE_COUNTS_refused : Fld := ⟨0x000, 0x070, 0, 16, 16⟩
/-- GRN_BANK_PWR.bank (R417). -/
def F.GRN_BANK_PWR_bank : Fld := ⟨0x020, 0x040, 4, 0, 32⟩
/-- GRN_BANK_STATE.bank (R417). -/
def F.GRN_BANK_STATE_bank : Fld := ⟨0x020, 0x050, 4, 0, 32⟩
/-- GRN_ECC.corrected (R417). -/
def F.GRN_ECC_corrected : Fld := ⟨0x020, 0x060, 0, 0, 16⟩
/-- GRN_ECC.uncorrected (R417). -/
def F.GRN_ECC_uncorrected : Fld := ⟨0x020, 0x060, 0, 16, 16⟩
/-- GRN_HOLD.peak (R417). -/
def F.GRN_HOLD_peak : Fld := ⟨0x020, 0x064, 0, 0, 15⟩
/-- GRN_HOLD.full (R417). -/
def F.GRN_HOLD_full : Fld := ⟨0x020, 0x064, 0, 16, 16⟩
/-- GRN_IDLE.share (R417). -/
def F.GRN_IDLE_share : Fld := ⟨0x020, 0x068, 0, 0, 8⟩
/-- GRN_IDLE.bank (R417). -/
def F.GRN_IDLE_bank : Fld := ⟨0x020, 0x068, 0, 8, 6⟩
/-- GRN_SPARES.used (R417). -/
def F.GRN_SPARES_used : Fld := ⟨0x020, 0x070, 4, 0, 32⟩
/-- STR_STATUS.wiped (R417). -/
def F.STR_STATUS_wiped : Fld := ⟨0x021, 0x040, 0, 0, 1⟩
/-- STR_STATUS.cause (R417). -/
def F.STR_STATUS_cause : Fld := ⟨0x021, 0x040, 0, 1, 2⟩
/-- STR_STATUS.tamper0 (R417). -/
def F.STR_STATUS_tamper0 : Fld := ⟨0x021, 0x040, 0, 3, 1⟩
/-- STR_STATUS.tamper1 (R417). -/
def F.STR_STATUS_tamper1 : Fld := ⟨0x021, 0x040, 0, 4, 1⟩
/-- STR_STATUS.wiping (R417). -/
def F.STR_STATUS_wiping : Fld := ⟨0x021, 0x040, 0, 5, 1⟩
/-- STR_CTRL.tamper_en0 (R417). -/
def F.STR_CTRL_tamper_en0 : Fld := ⟨0x021, 0x044, 0, 0, 1⟩
/-- STR_CTRL.tamper_en1 (R417). -/
def F.STR_CTRL_tamper_en1 : Fld := ⟨0x021, 0x044, 0, 1, 1⟩
/-- STR_CTRL.wipe (R417). -/
def F.STR_CTRL_wipe : Fld := ⟨0x021, 0x044, 0, 2, 1⟩
/-- STR_COUNTS.denied (R417). -/
def F.STR_COUNTS_denied : Fld := ⟨0x021, 0x048, 0, 0, 16⟩
/-- STR_COUNTS.ecc (R417). -/
def F.STR_COUNTS_ecc : Fld := ⟨0x021, 0x048, 0, 16, 16⟩
/-- SWP_CFG.enable (R417). -/
def F.SWP_CFG_enable : Fld := ⟨0x022, 0x040, 0, 0, 1⟩
/-- SWP_CFG.rate (R417). -/
def F.SWP_CFG_rate : Fld := ⟨0x022, 0x040, 0, 1, 8⟩
/-- SWP_CFG.retries (R417). -/
def F.SWP_CFG_retries : Fld := ⟨0x022, 0x040, 0, 9, 3⟩
/-- SWP_POS.bank (R417). -/
def F.SWP_POS_bank : Fld := ⟨0x022, 0x044, 0, 0, 6⟩
/-- SWP_POS.row (R417). -/
def F.SWP_POS_row : Fld := ⟨0x022, 0x044, 0, 6, 10⟩
/-- SWP_COUNTS.passes (R417). -/
def F.SWP_COUNTS_passes : Fld := ⟨0x022, 0x048, 0, 0, 16⟩
/-- SWP_COUNTS.aborts (R417). -/
def F.SWP_COUNTS_aborts : Fld := ⟨0x022, 0x048, 0, 16, 16⟩
/-- SWP_FAIL.bank (R417). -/
def F.SWP_FAIL_bank : Fld := ⟨0x022, 0x04C, 0, 0, 6⟩
/-- SWP_FAIL.row (R417). -/
def F.SWP_FAIL_row : Fld := ⟨0x022, 0x04C, 0, 6, 10⟩
/-- SWP_FAIL.skipped (R417). -/
def F.SWP_FAIL_skipped : Fld := ⟨0x022, 0x04C, 0, 16, 1⟩
/-- SWP_FAIL.valid (R417). -/
def F.SWP_FAIL_valid : Fld := ⟨0x022, 0x04C, 0, 31, 1⟩
/-- CEL_SIZE.size (R418). -/
def F.CEL_SIZE_size : Fld := ⟨0x028, 0x040, 0, 0, 5⟩
/-- CEL_SIZE.channels (R418). -/
def F.CEL_SIZE_channels : Fld := ⟨0x028, 0x040, 0, 8, 4⟩
/-- CEL_CTRL.self_refresh (R418). -/
def F.CEL_CTRL_self_refresh : Fld := ⟨0x028, 0x044, 0, 0, 1⟩
/-- CEL_WM.wm_high (R418). -/
def F.CEL_WM_wm_high : Fld := ⟨0x028, 0x048, 0, 0, 7⟩
/-- CEL_WM.wm_low (R418). -/
def F.CEL_WM_wm_low : Fld := ⟨0x028, 0x048, 0, 8, 7⟩
/-- CEL_TEMP.temp (R418). -/
def F.CEL_TEMP_temp : Fld := ⟨0x028, 0x04C, 0, 0, 32⟩
/-- CEL_REF_STAT.debt_max (R418). -/
def F.CEL_REF_STAT_debt_max : Fld := ⟨0x028, 0x050, 0, 0, 8⟩
/-- CEL_REF_STAT.debt_peak (R418). -/
def F.CEL_REF_STAT_debt_peak : Fld := ⟨0x028, 0x050, 0, 8, 8⟩
/-- CEL_REF_STAT.stall_ns (R418). -/
def F.CEL_REF_STAT_stall_ns : Fld := ⟨0x028, 0x050, 0, 16, 16⟩
/-- CEL_ERR.range (R418). -/
def F.CEL_ERR_range : Fld := ⟨0x028, 0x054, 0, 0, 16⟩
/-- CEL_ERR.stalls (R418). -/
def F.CEL_ERR_stalls : Fld := ⟨0x028, 0x054, 0, 16, 16⟩
/-- CEQ_TARGET.target (R418). -/
def F.CEQ_TARGET_target : Fld := ⟨0x029, 0x040, 4, 0, 16⟩
/-- CEQ_PEAK.latency (R418). -/
def F.CEQ_PEAK_latency : Fld := ⟨0x029, 0x060, 4, 0, 16⟩
/-- CEQ_PEAK.urgent (R418). -/
def F.CEQ_PEAK_urgent : Fld := ⟨0x029, 0x060, 4, 16, 16⟩
/-- CET_STATUS.trained (R418). -/
def F.CET_STATUS_trained : Fld := ⟨0x02A, 0x040, 0, 0, 1⟩
/-- CET_STATUS.failed (R418). -/
def F.CET_STATUS_failed : Fld := ⟨0x02A, 0x040, 0, 1, 1⟩
/-- CET_STATUS.step (R418). -/
def F.CET_STATUS_step : Fld := ⟨0x02A, 0x040, 0, 2, 3⟩
/-- CET_STATUS.channel (R418). -/
def F.CET_STATUS_channel : Fld := ⟨0x02A, 0x040, 0, 5, 2⟩
/-- CET_TIME.ms (R418). -/
def F.CET_TIME_ms : Fld := ⟨0x02A, 0x044, 0, 0, 16⟩
/-- GLN_CFG.enable (R419). -/
def F.GLN_CFG_enable : Fld := ⟨0x02B, 0x040, 0, 0, 1⟩
/-- GLN_CFG.inputs (R419). -/
def F.GLN_CFG_inputs : Fld := ⟨0x02B, 0x040, 0, 1, 10⟩
/-- GLN_RING_BASE.value (R419). -/
def F.GLN_RING_BASE_value : Fld := ⟨0x02B, 0x044, 0, 0, 32⟩
/-- GLN_RING_SIZE.value (R419). -/
def F.GLN_RING_SIZE_value : Fld := ⟨0x02B, 0x048, 0, 0, 32⟩
/-- GLN_FRAME.bytes (R419). -/
def F.GLN_FRAME_bytes : Fld := ⟨0x02B, 0x04C, 0, 0, 32⟩
/-- GLN_FRAMES.n_frames (R419). -/
def F.GLN_FRAMES_n_frames : Fld := ⟨0x02B, 0x050, 0, 0, 32⟩
/-- GLN_WRITE_LO.frame (R419). -/
def F.GLN_WRITE_LO_frame : Fld := ⟨0x02B, 0x054, 0, 0, 32⟩
/-- GLN_WRITE_HI.frame (R419). -/
def F.GLN_WRITE_HI_frame : Fld := ⟨0x02B, 0x058, 0, 0, 32⟩
/-- GLN_MARK_AT.esi (R419). -/
def F.GLN_MARK_AT_esi : Fld := ⟨0x02B, 0x05C, 0, 0, 32⟩
/-- GLN_MARK_STATE.ready (R419). -/
def F.GLN_MARK_STATE_ready : Fld := ⟨0x02B, 0x060, 0, 0, 1⟩
/-- GLN_MARK_STATE.pending (R419). -/
def F.GLN_MARK_STATE_pending : Fld := ⟨0x02B, 0x060, 0, 1, 1⟩
/-- GLN_MARK_STATE.lost (R419). -/
def F.GLN_MARK_STATE_lost : Fld := ⟨0x02B, 0x060, 0, 2, 1⟩
/-- GLN_MARK_STATE.gap (R419). -/
def F.GLN_MARK_STATE_gap : Fld := ⟨0x02B, 0x060, 0, 3, 1⟩
/-- GLN_CURSOR_LO.value (R419). -/
def F.GLN_CURSOR_LO_value : Fld := ⟨0x02B, 0x064, 0, 0, 32⟩
/-- GLN_CURSOR_HI.value (R419). -/
def F.GLN_CURSOR_HI_value : Fld := ⟨0x02B, 0x068, 0, 0, 32⟩
/-- GLN_CURSOR_OFS.value (R419). -/
def F.GLN_CURSOR_OFS_value : Fld := ⟨0x02B, 0x06C, 0, 0, 32⟩
/-- GLN_READ_ESI.esi (R419). -/
def F.GLN_READ_ESI_esi : Fld := ⟨0x02B, 0x070, 0, 0, 32⟩
/-- GLN_ADV.frames (R419). -/
def F.GLN_ADV_frames : Fld := ⟨0x02B, 0x074, 0, 0, 20⟩
/-- GLN_LOST.samples (R419). -/
def F.GLN_LOST_samples : Fld := ⟨0x02B, 0x078, 0, 0, 32⟩
/-- GLN_DROPPED.frames (R419). -/
def F.GLN_DROPPED_frames : Fld := ⟨0x02B, 0x07C, 0, 0, 16⟩
/-- FAB_SYNC.sync (R451). -/
def F.FAB_SYNC_sync : Fld := ⟨0x008, 0x040, 0, 0, 32⟩
/-- FAB_QUAR.ports (R451). -/
def F.FAB_QUAR_ports : Fld := ⟨0x008, 0x044, 0, 0, 8⟩
/-- FAB_HOLD.holds (R451). -/
def F.FAB_HOLD_holds : Fld := ⟨0x008, 0x048, 0, 0, 32⟩
/-- FAB_OUT.now (R451). -/
def F.FAB_OUT_now : Fld := ⟨0x008, 0x050, 4, 0, 6⟩
/-- FAB_OUT.peak (R451). -/
def F.FAB_OUT_peak : Fld := ⟨0x008, 0x050, 4, 16, 6⟩
/-- DEF_TIMEOUT.cycles (R451). -/
def F.DEF_TIMEOUT_cycles : Fld := ⟨0x009, 0x040, 0, 0, 16⟩
/-- DEF_COUNTS.undecoded (R451). -/
def F.DEF_COUNTS_undecoded : Fld := ⟨0x009, 0x044, 0, 0, 16⟩
/-- DEF_COUNTS.timeouts (R451). -/
def F.DEF_COUNTS_timeouts : Fld := ⟨0x009, 0x044, 0, 16, 16⟩
/-- DEF_LATE.late (R451). -/
def F.DEF_LATE_late : Fld := ⟨0x009, 0x048, 0, 0, 16⟩
/-- DMA_CFG.poll (R452). -/
def F.DMA_CFG_poll : Fld := ⟨0x010, 0x040, 0, 0, 16⟩
/-- DMA_CFG.inflight (R452). -/
def F.DMA_CFG_inflight : Fld := ⟨0x010, 0x040, 0, 16, 3⟩
/-- DMA_BUSY_LO.bits (R452). -/
def F.DMA_BUSY_LO_bits : Fld := ⟨0x010, 0x044, 0, 0, 32⟩
/-- DMA_BUSY_HI.bits (R452). -/
def F.DMA_BUSY_HI_bits : Fld := ⟨0x010, 0x048, 0, 0, 32⟩
/-- DMA_SEL.channel (R452). -/
def F.DMA_SEL_channel : Fld := ⟨0x010, 0x04C, 0, 0, 6⟩
/-- DMA_CUR_LO.value (R452). -/
def F.DMA_CUR_LO_value : Fld := ⟨0x010, 0x050, 0, 0, 32⟩
/-- DMA_CUR_HI.value (R452). -/
def F.DMA_CUR_HI_value : Fld := ⟨0x010, 0x054, 0, 0, 8⟩
/-- DMA_CUR_RES.value (R452). -/
def F.DMA_CUR_RES_value : Fld := ⟨0x010, 0x058, 0, 0, 24⟩
/-- DMA_COUNTS.bad (R452). -/
def F.DMA_COUNTS_bad : Fld := ⟨0x010, 0x05C, 0, 0, 16⟩
/-- DMA_COUNTS.dropped (R452). -/
def F.DMA_COUNTS_dropped : Fld := ⟨0x010, 0x05C, 0, 16, 16⟩
/-- DMC_HEAD_LO.head (R452). -/
def F.DMC_HEAD_LO_head : Fld := ⟨0x011, 0x040, 12, 0, 32⟩
/-- DMC_CTRL.head_hi (R452). -/
def F.DMC_CTRL_head_hi : Fld := ⟨0x011, 0x044, 12, 0, 8⟩
/-- DMC_CTRL.go (R452). -/
def F.DMC_CTRL_go : Fld := ⟨0x011, 0x044, 12, 8, 1⟩
/-- DMC_CTRL.abort (R452). -/
def F.DMC_CTRL_abort : Fld := ⟨0x011, 0x044, 12, 9, 1⟩
/-- DMC_CTRL.prio (R452). -/
def F.DMC_CTRL_prio : Fld := ⟨0x011, 0x044, 12, 10, 2⟩
/-- DMC_CTRL.ring (R452). -/
def F.DMC_CTRL_ring : Fld := ⟨0x011, 0x044, 12, 12, 6⟩
/-- DMC_CTRL.budget (R452). -/
def F.DMC_CTRL_budget : Fld := ⟨0x011, 0x044, 12, 19, 13⟩
/-- DMC_STATE.state (R452). -/
def F.DMC_STATE_state : Fld := ⟨0x011, 0x048, 12, 0, 3⟩
/-- DMC_STATE.halt (R452). -/
def F.DMC_STATE_halt : Fld := ⟨0x011, 0x048, 12, 4, 4⟩
/-- DMC_STATE.count (R452). -/
def F.DMC_STATE_count : Fld := ⟨0x011, 0x048, 12, 8, 13⟩
/-- QUE_NEMPTY_LO.bits (R453). -/
def F.QUE_NEMPTY_LO_bits : Fld := ⟨0x018, 0x040, 0, 0, 32⟩
/-- QUE_NEMPTY_HI.bits (R453). -/
def F.QUE_NEMPTY_HI_bits : Fld := ⟨0x018, 0x044, 0, 0, 32⟩
/-- QUE_IRQ_EN_LO.bits (R453). -/
def F.QUE_IRQ_EN_LO_bits : Fld := ⟨0x018, 0x048, 0, 0, 32⟩
/-- QUE_IRQ_EN_HI.bits (R453). -/
def F.QUE_IRQ_EN_HI_bits : Fld := ⟨0x018, 0x04C, 0, 0, 32⟩
/-- QUE_STAT.level (R453). -/
def F.QUE_STAT_level : Fld := ⟨0x018, 0x300, 4, 0, 8⟩
/-- QUE_STAT.free (R453). -/
def F.QUE_STAT_free : Fld := ⟨0x018, 0x300, 4, 8, 8⟩
/-- QUE_STAT.count (R453). -/
def F.QUE_STAT_count : Fld := ⟨0x018, 0x300, 4, 16, 16⟩
/-- PAGE_ID.page_in_block (R464). -/
def F.PAGE_ID_page_in_block : Fld := ⟨0x000, 0x000, 0, 0, 8⟩
/-- PAGE_ID.instance (R464). -/
def F.PAGE_ID_instance : Fld := ⟨0x000, 0x000, 0, 8, 8⟩
/-- PAGE_ID.block_type (R464). -/
def F.PAGE_ID_block_type : Fld := ⟨0x000, 0x000, 0, 16, 16⟩
/-- PAGE_VER.version (R464). -/
def F.PAGE_VER_version : Fld := ⟨0x000, 0x004, 0, 0, 32⟩
/-- CTRL.enable (R464). -/
def F.CTRL_enable : Fld := ⟨0x000, 0x008, 0, 0, 1⟩
/-- CTRL.soft_reset (R464). -/
def F.CTRL_soft_reset : Fld := ⟨0x000, 0x008, 0, 1, 1⟩
/-- CTRL.freeze (R464). -/
def F.CTRL_freeze : Fld := ⟨0x000, 0x008, 0, 2, 1⟩
/-- STATUS.running (R464). -/
def F.STATUS_running : Fld := ⟨0x000, 0x00C, 0, 0, 1⟩
/-- STATUS.fault (R464). -/
def F.STATUS_fault : Fld := ⟨0x000, 0x00C, 0, 1, 1⟩
/-- STATUS.apply_pending (R464). -/
def F.STATUS_apply_pending : Fld := ⟨0x000, 0x00C, 0, 2, 1⟩
/-- STATUS.safe_state (R464). -/
def F.STATUS_safe_state : Fld := ⟨0x000, 0x00C, 0, 3, 1⟩
/-- IRQ_RAW.raw (R464). -/
def F.IRQ_RAW_raw : Fld := ⟨0x000, 0x010, 0, 0, 32⟩
/-- IRQ_ENABLE.enable (R464). -/
def F.IRQ_ENABLE_enable : Fld := ⟨0x000, 0x014, 0, 0, 32⟩
/-- IRQ_PENDING.pending (R464). -/
def F.IRQ_PENDING_pending : Fld := ⟨0x000, 0x018, 0, 0, 32⟩
/-- IRQ_TEST.test (R464). -/
def F.IRQ_TEST_test : Fld := ⟨0x000, 0x01C, 0, 0, 32⟩
/-- ERR_INFO.master (R464). -/
def F.ERR_INFO_master : Fld := ⟨0x000, 0x020, 0, 0, 3⟩
/-- ERR_INFO.write (R464). -/
def F.ERR_INFO_write : Fld := ⟨0x000, 0x020, 0, 3, 1⟩
/-- ERR_INFO.kind (R464). -/
def F.ERR_INFO_kind : Fld := ⟨0x000, 0x020, 0, 4, 4⟩
/-- ERR_INFO.valid (R464). -/
def F.ERR_INFO_valid : Fld := ⟨0x000, 0x020, 0, 31, 1⟩
/-- ERR_ADDR_LO.value (R464). -/
def F.ERR_ADDR_LO_value : Fld := ⟨0x000, 0x024, 0, 0, 32⟩
/-- ERR_ADDR_HI.value (R464). -/
def F.ERR_ADDR_HI_value : Fld := ⟨0x000, 0x028, 0, 0, 8⟩
/-- ERR_COUNT.value (R464). -/
def F.ERR_COUNT_value : Fld := ⟨0x000, 0x02C, 0, 0, 32⟩
/-- APPLY.apply (R464). -/
def F.APPLY_apply : Fld := ⟨0x000, 0x030, 0, 0, 32⟩
/-- APPLY_RESULT.code (R464). -/
def F.APPLY_RESULT_code : Fld := ⟨0x000, 0x034, 0, 0, 8⟩
/-- APPLY_RESULT.page (R464). -/
def F.APPLY_RESULT_page : Fld := ⟨0x000, 0x034, 0, 8, 8⟩
/-- APPLY_RESULT.seq (R464). -/
def F.APPLY_RESULT_seq : Fld := ⟨0x000, 0x034, 0, 16, 16⟩
/-- LOCK.locked (R464). -/
def F.LOCK_locked : Fld := ⟨0x000, 0x03C, 0, 0, 1⟩
/-- LOCK.key (R464). -/
def F.LOCK_key : Fld := ⟨0x000, 0x03C, 0, 16, 16⟩
/-- PCI_ID.vendor (R477). -/
def F.PCI_ID_vendor : Fld := ⟨0x0C0, 0x040, 0, 0, 16⟩
/-- PCI_ID.device (R477). -/
def F.PCI_ID_device : Fld := ⟨0x0C0, 0x040, 0, 16, 16⟩
/-- PCI_LINK.up (R477). -/
def F.PCI_LINK_up : Fld := ⟨0x0C0, 0x044, 0, 0, 1⟩
/-- PCI_LINK.speed (R477). -/
def F.PCI_LINK_speed : Fld := ⟨0x0C0, 0x044, 0, 1, 3⟩
/-- PCI_LINK.width (R477). -/
def F.PCI_LINK_width : Fld := ⟨0x0C0, 0x044, 0, 4, 3⟩
/-- PCI_LINK.bme (R477). -/
def F.PCI_LINK_bme : Fld := ⟨0x0C0, 0x044, 0, 7, 1⟩
/-- PCI_LINK.msix_en (R477). -/
def F.PCI_LINK_msix_en : Fld := ⟨0x0C0, 0x044, 0, 8, 1⟩
/-- PCI_LINK.fmask (R477). -/
def F.PCI_LINK_fmask : Fld := ⟨0x0C0, 0x044, 0, 9, 1⟩
/-- PCI_LINK.d3hot (R477). -/
def F.PCI_LINK_d3hot : Fld := ⟨0x0C0, 0x044, 0, 10, 1⟩
/-- PCI_OUT_BASE_LO.base (R477). -/
def F.PCI_OUT_BASE_LO_base : Fld := ⟨0x0C0, 0x048, 0, 12, 20⟩
/-- PCI_OUT_BASE_HI.base (R477). -/
def F.PCI_OUT_BASE_HI_base : Fld := ⟨0x0C0, 0x04C, 0, 0, 32⟩
/-- PCI_ERRORS.ur (R477). -/
def F.PCI_ERRORS_ur : Fld := ⟨0x0C0, 0x050, 0, 0, 16⟩
/-- PCI_ERRORS.cpl (R477). -/
def F.PCI_ERRORS_cpl : Fld := ⟨0x0C0, 0x050, 0, 16, 16⟩
/-- MSX_EOI.vector (R477). -/
def F.MSX_EOI_vector : Fld := ⟨0x0C1, 0x040, 0, 0, 8⟩
/-- MSX_COUNTS.sent (R477). -/
def F.MSX_COUNTS_sent : Fld := ⟨0x0C1, 0x044, 0, 0, 16⟩
/-- MSX_COUNTS.eoi (R477). -/
def F.MSX_COUNTS_eoi : Fld := ⟨0x0C1, 0x044, 0, 16, 16⟩
/-- INT_CFG.od (R477). -/
def F.INT_CFG_od : Fld := ⟨0x0C2, 0x040, 0, 0, 4⟩
/-- INT_ROUTE.even (R477). -/
def F.INT_ROUTE_even : Fld := ⟨0x0C2, 0x080, 4, 0, 16⟩
/-- INT_ROUTE.odd (R477). -/
def F.INT_ROUTE_odd : Fld := ⟨0x0C2, 0x080, 4, 16, 16⟩
/-- INT_PEND.bits (R477). -/
def F.INT_PEND_bits : Fld := ⟨0x0C2, 0x280, 4, 0, 32⟩
/-- INT_QVEC.value (R477). -/
def F.INT_QVEC_value : Fld := ⟨0x0C2, 0x2A0, 4, 0, 32⟩
/-- INT_QVEC_EN.value (R477). -/
def F.INT_QVEC_EN_value : Fld := ⟨0x0C2, 0x3A0, 4, 0, 32⟩
/-- INT_PIN.asserted (R477). -/
def F.INT_PIN_asserted : Fld := ⟨0x0C2, 0x3C0, 0, 0, 4⟩
/-- IIC_CFG.address (R477). -/
def F.IIC_CFG_address : Fld := ⟨0x0C9, 0x040, 0, 0, 7⟩
/-- IIC_CFG.enable (R477). -/
def F.IIC_CFG_enable : Fld := ⟨0x0C9, 0x040, 0, 7, 1⟩
/-- IIC_CFG.write_en (R477). -/
def F.IIC_CFG_write_en : Fld := ⟨0x0C9, 0x040, 0, 8, 1⟩
/-- IIC_COUNTS.accesses (R477). -/
def F.IIC_COUNTS_accesses : Fld := ⟨0x0C9, 0x044, 0, 0, 16⟩
/-- IIC_COUNTS.errors (R477). -/
def F.IIC_COUNTS_errors : Fld := ⟨0x0C9, 0x044, 0, 16, 16⟩
/-- UAR_CFG.div (R477). -/
def F.UAR_CFG_div : Fld := ⟨0x0CA, 0x040, 0, 0, 16⟩
/-- UAR_CFG.mode (R477). -/
def F.UAR_CFG_mode : Fld := ⟨0x0CA, 0x040, 0, 16, 2⟩
/-- UAR_COUNTS.accepted (R477). -/
def F.UAR_COUNTS_accepted : Fld := ⟨0x0CA, 0x044, 0, 0, 16⟩
/-- UAR_COUNTS.dropped (R477). -/
def F.UAR_COUNTS_dropped : Fld := ⟨0x0CA, 0x044, 0, 16, 16⟩
/-- GIO_DIR.bits (R477). -/
def F.GIO_DIR_bits : Fld := ⟨0x0CB, 0x040, 0, 0, 32⟩
/-- GIO_OUT.bits (R477). -/
def F.GIO_OUT_bits : Fld := ⟨0x0CB, 0x044, 0, 0, 32⟩
/-- GIO_OD.bits (R477). -/
def F.GIO_OD_bits : Fld := ⟨0x0CB, 0x04C, 0, 0, 32⟩
/-- GIO_RISE.bits (R477). -/
def F.GIO_RISE_bits : Fld := ⟨0x0CB, 0x058, 0, 0, 32⟩
/-- GIO_FALL.bits (R477). -/
def F.GIO_FALL_bits : Fld := ⟨0x0CB, 0x05C, 0, 0, 32⟩
/-- GIO_SAFE_EN.bits (R477). -/
def F.GIO_SAFE_EN_bits : Fld := ⟨0x0CB, 0x060, 0, 0, 32⟩
/-- GIO_SAFE.bits (R477). -/
def F.GIO_SAFE_bits : Fld := ⟨0x0CB, 0x064, 0, 0, 32⟩
/-- GIO_IN.bits (R477). -/
def F.GIO_IN_bits : Fld := ⟨0x0CB, 0x048, 0, 0, 32⟩
/-- GIO_PULL_LO.pull (R477). -/
def F.GIO_PULL_LO_pull : Fld := ⟨0x0CB, 0x050, 0, 0, 32⟩
/-- GIO_PULL_HI.pull (R477). -/
def F.GIO_PULL_HI_pull : Fld := ⟨0x0CB, 0x054, 0, 0, 32⟩
/-- SYS_HWTYPE.type (R510). -/
def F.SYS_HWTYPE_type : Fld := ⟨0x000, 0x040, 0, 0, 16⟩
/-- SYS_HWTYPE.revision (R510). -/
def F.SYS_HWTYPE_revision : Fld := ⟨0x000, 0x040, 0, 16, 8⟩
/-- SYS_HWTYPE.grade (R510). -/
def F.SYS_HWTYPE_grade : Fld := ⟨0x000, 0x040, 0, 24, 1⟩
/-- SYS_UID.uid (R510). -/
def F.SYS_UID_uid : Fld := ⟨0x000, 0x044, 4, 0, 32⟩
/-- SYS_LC.state (R510). -/
def F.SYS_LC_state : Fld := ⟨0x000, 0x054, 0, 0, 3⟩
/-- SYS_LC.debug_open (R510). -/
def F.SYS_LC_debug_open : Fld := ⟨0x000, 0x054, 0, 3, 1⟩
/-- SYS_BOOT.slot (R510). -/
def F.SYS_BOOT_slot : Fld := ⟨0x000, 0x058, 0, 0, 1⟩
/-- SYS_BOOT.recovery (R510). -/
def F.SYS_BOOT_recovery : Fld := ⟨0x000, 0x058, 0, 1, 1⟩
/-- SYS_BOOT.handover (R510). -/
def F.SYS_BOOT_handover : Fld := ⟨0x000, 0x058, 0, 2, 1⟩
/-- SYS_BOOT.stage (R510). -/
def F.SYS_BOOT_stage : Fld := ⟨0x000, 0x058, 0, 4, 4⟩
/-- SYS_FW_VER.version (R510). -/
def F.SYS_FW_VER_version : Fld := ⟨0x000, 0x05C, 0, 0, 32⟩
/-- QSP_CFG.mode (R510). -/
def F.QSP_CFG_mode : Fld := ⟨0x0C8, 0x040, 0, 0, 2⟩
/-- QSP_CFG.clock (R510). -/
def F.QSP_CFG_clock : Fld := ⟨0x0C8, 0x040, 0, 2, 8⟩
/-- QSP_CFG.size (R510). -/
def F.QSP_CFG_size : Fld := ⟨0x0C8, 0x040, 0, 10, 10⟩
/-- QSP_COUNTS.erases (R510). -/
def F.QSP_COUNTS_erases : Fld := ⟨0x0C8, 0x044, 0, 0, 16⟩
/-- QSP_COUNTS.failures (R510). -/
def F.QSP_COUNTS_failures : Fld := ⟨0x0C8, 0x044, 0, 16, 16⟩
/-- UPD_STATE.slot0 (R510). -/
def F.UPD_STATE_slot0 : Fld := ⟨0x0D0, 0x040, 0, 0, 3⟩
/-- UPD_STATE.slot1 (R510). -/
def F.UPD_STATE_slot1 : Fld := ⟨0x0D0, 0x040, 0, 3, 3⟩
/-- UPD_STATE.trials (R510). -/
def F.UPD_STATE_trials : Fld := ⟨0x0D0, 0x040, 0, 8, 8⟩
/-- UPD_STATE.seq (R510). -/
def F.UPD_STATE_seq : Fld := ⟨0x0D0, 0x040, 0, 16, 16⟩
/-- UPD_PROGRESS.next (R510). -/
def F.UPD_PROGRESS_next : Fld := ⟨0x0D0, 0x044, 0, 0, 16⟩
/-- UPD_PROGRESS.total (R510). -/
def F.UPD_PROGRESS_total : Fld := ⟨0x0D0, 0x044, 0, 16, 16⟩
/-- UPD_CONFIRM_CFG.window_s (R510). -/
def F.UPD_CONFIRM_CFG_window_s : Fld := ⟨0x0D0, 0x048, 0, 0, 12⟩
/-- UPD_CONFIRM_CFG.hold_s (R510). -/
def F.UPD_CONFIRM_CFG_hold_s : Fld := ⟨0x0D0, 0x048, 0, 12, 12⟩
/-- UPD_CONFIRM_CFG.host_confirm (R510). -/
def F.UPD_CONFIRM_CFG_host_confirm : Fld := ⟨0x0D0, 0x048, 0, 24, 1⟩
/-- UPD_CONFIRM_LEFT.value (R510). -/
def F.UPD_CONFIRM_LEFT_value : Fld := ⟨0x0D0, 0x04C, 0, 0, 32⟩
/-- UPD_RESULT.value (R510). -/
def F.UPD_RESULT_value : Fld := ⟨0x0D0, 0x050, 0, 0, 8⟩
/-- UPD_SCHEMA.schema (R510). -/
def F.UPD_SCHEMA_schema : Fld := ⟨0x0D0, 0x054, 0, 0, 8⟩
/-- UPD_SCHEMA.reset (R510). -/
def F.UPD_SCHEMA_reset : Fld := ⟨0x0D0, 0x054, 0, 8, 1⟩
/-- UPD_RECOVER.size (R510). -/
def F.UPD_RECOVER_size : Fld := ⟨0x0D0, 0x058, 0, 0, 25⟩
/-- FUS_ARB.counter (R510). -/
def F.FUS_ARB_counter : Fld := ⟨0x0D1, 0x040, 0, 0, 6⟩
/-- FUS_KEYS.programmed (R510). -/
def F.FUS_KEYS_programmed : Fld := ⟨0x0D1, 0x044, 0, 0, 4⟩
/-- FUS_KEYS.revoked (R510). -/
def F.FUS_KEYS_revoked : Fld := ⟨0x0D1, 0x044, 0, 4, 4⟩
/-- FUS_MAC_LO.mac (R510). -/
def F.FUS_MAC_LO_mac : Fld := ⟨0x0D1, 0x048, 0, 0, 32⟩
/-- FUS_MAC_HI.value (R510). -/
def F.FUS_MAC_HI_value : Fld := ⟨0x0D1, 0x04C, 0, 0, 16⟩
/-- FUS_STATUS.sensed (R510). -/
def F.FUS_STATUS_sensed : Fld := ⟨0x0D1, 0x050, 0, 0, 1⟩
/-- FUS_STATUS.blowing (R510). -/
def F.FUS_STATUS_blowing : Fld := ⟨0x0D1, 0x050, 0, 1, 1⟩
/-- FUS_STATUS.blow_error (R510). -/
def F.FUS_STATUS_blow_error : Fld := ⟨0x0D1, 0x050, 0, 2, 1⟩
/-- ROL_CFG.window_ms (R536). -/
def F.ROL_CFG_window_ms : Fld := ⟨0x0B0, 0x040, 0, 0, 16⟩
/-- ROL_CFG.flush_min (R536). -/
def F.ROL_CFG_flush_min : Fld := ⟨0x0B0, 0x040, 0, 16, 8⟩
/-- ROL_BASE_LO.base (R536). -/
def F.ROL_BASE_LO_base : Fld := ⟨0x0B0, 0x044, 0, 0, 32⟩
/-- ROL_BASE_HI.value (R536). -/
def F.ROL_BASE_HI_value : Fld := ⟨0x0B0, 0x048, 0, 0, 8⟩
/-- ROL_STATUS.first (R536). -/
def F.ROL_STATUS_first : Fld := ⟨0x0B0, 0x04C, 0, 0, 9⟩
/-- ROL_STATUS.mirror_live (R536). -/
def F.ROL_STATUS_mirror_live : Fld := ⟨0x0B0, 0x04C, 0, 9, 1⟩
/-- ROL_STATUS.pfail_free (R536). -/
def F.ROL_STATUS_pfail_free : Fld := ⟨0x0B0, 0x04C, 0, 16, 6⟩
/-- ROL_ENTRIES.value (R536). -/
def F.ROL_ENTRIES_value : Fld := ⟨0x0B0, 0x050, 0, 0, 32⟩
/-- ROL_COPY_SEQ.value (R536). -/
def F.ROL_COPY_SEQ_value : Fld := ⟨0x0B0, 0x054, 0, 0, 32⟩
/-- ROL_SEL.source (R536). -/
def F.ROL_SEL_source : Fld := ⟨0x0B0, 0x058, 0, 0, 8⟩
/-- ROL_SRC_COUNT.value (R536). -/
def F.ROL_SRC_COUNT_value : Fld := ⟨0x0B0, 0x05C, 0, 0, 32⟩
/-- ROL_SRC_OVERFLOW.value (R536). -/
def F.ROL_SRC_OVERFLOW_value : Fld := ⟨0x0B0, 0x060, 0, 0, 32⟩
/-- ROL_SRC_EXT.value (R536). -/
def F.ROL_SRC_EXT_value : Fld := ⟨0x0B0, 0x064, 0, 0, 32⟩
/-- ROL_SRC_EXT_ESI.value (R536). -/
def F.ROL_SRC_EXT_ESI_value : Fld := ⟨0x0B0, 0x068, 0, 0, 32⟩
/-- ROL_REP_D0.value (R536). -/
def F.ROL_REP_D0_value : Fld := ⟨0x0B0, 0x080, 0, 0, 32⟩
/-- ROL_REP_D1.value (R536). -/
def F.ROL_REP_D1_value : Fld := ⟨0x0B0, 0x084, 0, 0, 32⟩
/-- ROL_REP_VAL.value (R536). -/
def F.ROL_REP_VAL_value : Fld := ⟨0x0B0, 0x088, 0, 0, 32⟩
/-- ROL_REP_GO.source (R536). -/
def F.ROL_REP_GO_source : Fld := ⟨0x0B0, 0x08C, 0, 0, 8⟩
/-- ROL_REP_GO.code (R536). -/
def F.ROL_REP_GO_code : Fld := ⟨0x0B0, 0x08C, 0, 8, 8⟩
/-- ROL_REP_GO.has_value (R536). -/
def F.ROL_REP_GO_has_value : Fld := ⟨0x0B0, 0x08C, 0, 16, 1⟩
/-- ROL_REP_GO.class_en (R536). -/
def F.ROL_REP_GO_class_en : Fld := ⟨0x0B0, 0x08C, 0, 17, 1⟩
/-- ROL_REP_GO.class (R536). -/
def F.ROL_REP_GO_class : Fld := ⟨0x0B0, 0x08C, 0, 18, 2⟩
/-- FLT_CFG.auto_leave (R536). -/
def F.FLT_CFG_auto_leave : Fld := ⟨0x0B1, 0x040, 0, 0, 1⟩
/-- FLT_CFG.pin_degraded (R536). -/
def F.FLT_CFG_pin_degraded : Fld := ⟨0x0B1, 0x040, 0, 1, 1⟩
/-- FLT_CFG.fatal_reset (R536). -/
def F.FLT_CFG_fatal_reset : Fld := ⟨0x0B1, 0x040, 0, 2, 1⟩
/-- FLT_CFG.wdog_ms (R536). -/
def F.FLT_CFG_wdog_ms : Fld := ⟨0x0B1, 0x040, 0, 3, 10⟩
/-- FLT_STATE.failsafe (R536). -/
def F.FLT_STATE_failsafe : Fld := ⟨0x0B1, 0x044, 0, 0, 1⟩
/-- FLT_STATE.phase (R536). -/
def F.FLT_STATE_phase : Fld := ⟨0x0B1, 0x044, 0, 1, 2⟩
/-- FLT_STATE.fatal (R536). -/
def F.FLT_STATE_fatal : Fld := ⟨0x0B1, 0x044, 0, 3, 1⟩
/-- FLT_STATE.dump_halt (R536). -/
def F.FLT_STATE_dump_halt : Fld := ⟨0x0B1, 0x044, 0, 4, 1⟩
/-- FLT_STATE.dump_done (R536). -/
def F.FLT_STATE_dump_done : Fld := ⟨0x0B1, 0x044, 0, 5, 1⟩
/-- FLT_STATE.cause (R536). -/
def F.FLT_STATE_cause : Fld := ⟨0x0B1, 0x044, 0, 8, 5⟩
/-- FLT_STATE.fault_n (R536). -/
def F.FLT_STATE_fault_n : Fld := ⟨0x0B1, 0x044, 0, 16, 1⟩
/-- FLT_ACTIVE.bits (R536). -/
def F.FLT_ACTIVE_bits : Fld := ⟨0x0B1, 0x048, 0, 0, 32⟩
/-- FLT_LATCH.bits (R536). -/
def F.FLT_LATCH_bits : Fld := ⟨0x0B1, 0x04C, 0, 0, 32⟩
/-- FLT_ESCALATE.bits (R536). -/
def F.FLT_ESCALATE_bits : Fld := ⟨0x0B1, 0x050, 0, 0, 32⟩
/-- FLT_CTRL.enter (R536). -/
def F.FLT_CTRL_enter : Fld := ⟨0x0B1, 0x054, 0, 0, 1⟩
/-- FLT_CTRL.leave (R536). -/
def F.FLT_CTRL_leave : Fld := ⟨0x0B1, 0x054, 0, 1, 1⟩
/-- FLT_WDOG.key (R536). -/
def F.FLT_WDOG_key : Fld := ⟨0x0B1, 0x058, 0, 0, 16⟩
/-- FLT_ENTRY_ESI.value (R536). -/
def F.FLT_ENTRY_ESI_value : Fld := ⟨0x0B1, 0x05C, 0, 0, 32⟩
/-- FLT_COUNTS.entries (R536). -/
def F.FLT_COUNTS_entries : Fld := ⟨0x0B1, 0x060, 0, 0, 16⟩
/-- FLT_COUNTS.fatals (R536). -/
def F.FLT_COUNTS_fatals : Fld := ⟨0x0B1, 0x060, 0, 16, 16⟩
/-- PWR_DOMAIN.on (R555). -/
def F.PWR_DOMAIN_on : Fld := ⟨0x001, 0x040, 0, 0, 16⟩
/-- PWR_STATE.on (R555). -/
def F.PWR_STATE_on : Fld := ⟨0x001, 0x044, 0, 0, 16⟩
/-- PWR_STATE.switching (R555). -/
def F.PWR_STATE_switching : Fld := ⟨0x001, 0x044, 0, 16, 1⟩
/-- PWR_REFUSED.domain (R555). -/
def F.PWR_REFUSED_domain : Fld := ⟨0x001, 0x048, 0, 0, 4⟩
/-- CLK_STATUS.locked (R556). -/
def F.CLK_STATUS_locked : Fld := ⟨0x002, 0x040, 0, 0, 10⟩
/-- CLK_STATUS.vcxo48 (R556). -/
def F.CLK_STATUS_vcxo48 : Fld := ⟨0x002, 0x040, 0, 10, 1⟩
/-- CLK_STATUS.vcxo44 (R556). -/
def F.CLK_STATUS_vcxo44 : Fld := ⟨0x002, 0x040, 0, 11, 1⟩
/-- CLK_STATUS.synth (R556). -/
def F.CLK_STATUS_synth : Fld := ⟨0x002, 0x040, 0, 12, 1⟩
/-- CLK_MEAS_SEL.clock (R556). -/
def F.CLK_MEAS_SEL_clock : Fld := ⟨0x002, 0x044, 0, 0, 4⟩
/-- CLK_MEAS.khz (R556). -/
def F.CLK_MEAS_khz : Fld := ⟨0x002, 0x048, 0, 0, 32⟩
/-- RST_CAUSE.last (R557). -/
def F.RST_CAUSE_last : Fld := ⟨0x003, 0x040, 0, 0, 4⟩
/-- RST_CAUSE.last_partial (R557). -/
def F.RST_CAUSE_last_partial : Fld := ⟨0x003, 0x040, 0, 4, 4⟩
/-- RST_CTRL.chip (R557). -/
def F.RST_CTRL_chip : Fld := ⟨0x003, 0x044, 0, 0, 1⟩
/-- RST_CTRL.carter0 (R557). -/
def F.RST_CTRL_carter0 : Fld := ⟨0x003, 0x044, 0, 1, 1⟩
/-- RST_CTRL.carter1 (R557). -/
def F.RST_CTRL_carter1 : Fld := ⟨0x003, 0x044, 0, 2, 1⟩
/-- RST_CTRL.key (R557). -/
def F.RST_CTRL_key : Fld := ⟨0x003, 0x044, 0, 16, 16⟩
/-- RST_COUNTS.warm (R557). -/
def F.RST_COUNTS_warm : Fld := ⟨0x003, 0x048, 0, 0, 16⟩
/-- RST_COUNTS.partial (R557). -/
def F.RST_COUNTS_partial : Fld := ⟨0x003, 0x048, 0, 16, 16⟩
/-- THR_CFG.force (R558). -/
def F.THR_CFG_force : Fld := ⟨0x004, 0x040, 0, 0, 2⟩
/-- THR_CFG.release_us (R558). -/
def F.THR_CFG_release_us : Fld := ⟨0x004, 0x040, 0, 8, 8⟩
/-- THR_CFG.hyst_mv (R558). -/
def F.THR_CFG_hyst_mv : Fld := ⟨0x004, 0x040, 0, 16, 8⟩
/-- THR_TRIP.step1 (R558). -/
def F.THR_TRIP_step1 : Fld := ⟨0x004, 0x044, 0, 0, 8⟩
/-- THR_TRIP.step2 (R558). -/
def F.THR_TRIP_step2 : Fld := ⟨0x004, 0x044, 0, 8, 8⟩
/-- THR_TRIP.step3 (R558). -/
def F.THR_TRIP_step3 : Fld := ⟨0x004, 0x044, 0, 16, 8⟩
/-- THR_TRIP.under (R558). -/
def F.THR_TRIP_under : Fld := ⟨0x004, 0x044, 0, 24, 8⟩
/-- THR_STATE.step (R558). -/
def F.THR_STATE_step : Fld := ⟨0x004, 0x048, 0, 0, 2⟩
/-- THR_STATE.sensor (R558). -/
def F.THR_STATE_sensor : Fld := ⟨0x004, 0x048, 0, 2, 3⟩
/-- THR_STATE.under (R558). -/
def F.THR_STATE_under : Fld := ⟨0x004, 0x048, 0, 5, 1⟩
/-- THR_SENSE.now_mv (R558). -/
def F.THR_SENSE_now_mv : Fld := ⟨0x004, 0x060, 4, 0, 12⟩
/-- THR_SENSE.min_mv (R558). -/
def F.THR_SENSE_min_mv : Fld := ⟨0x004, 0x060, 4, 16, 12⟩
/-- THR_TIME.floor_us (R558). -/
def F.THR_TIME_floor_us : Fld := ⟨0x004, 0x04C, 0, 0, 32⟩
/-- THR_EVENTS.trips (R558). -/
def F.THR_EVENTS_trips : Fld := ⟨0x004, 0x050, 0, 0, 16⟩
/-- THR_EVENTS.under (R558). -/
def F.THR_EVENTS_under : Fld := ⟨0x004, 0x050, 0, 16, 16⟩
/-- MAD_STATUS.running (R297). -/
def F.MAD_STATUS_running : Fld := ⟨0x090, 0x054, 0, 0, 1⟩
/-- MAD_STATUS.locked (R297). -/
def F.MAD_STATUS_locked : Fld := ⟨0x090, 0x054, 0, 1, 1⟩
/-- MAD_STATUS.lost (R297). -/
def F.MAD_STATUS_lost : Fld := ⟨0x090, 0x054, 0, 2, 1⟩
/-- MAD_STATUS.ramp (R297). -/
def F.MAD_STATUS_ramp : Fld := ⟨0x090, 0x054, 0, 3, 1⟩
/-- MAD_STATUS.steering (R297). -/
def F.MAD_STATUS_steering : Fld := ⟨0x090, 0x054, 0, 4, 1⟩
/-- MAD_STATUS.in_level (R297). -/
def F.MAD_STATUS_in_level : Fld := ⟨0x090, 0x054, 0, 8, 6⟩
/-- MAD_STATUS.out_level (R297). -/
def F.MAD_STATUS_out_level : Fld := ⟨0x090, 0x054, 0, 16, 6⟩
/-- MAD_COUNTS.slips (R297). -/
def F.MAD_COUNTS_slips : Fld := ⟨0x090, 0x05C, 0, 0, 16⟩
/-- MAD_COUNTS.lost (R297). -/
def F.MAD_COUNTS_lost : Fld := ⟨0x090, 0x05C, 0, 16, 16⟩
/-- MAD_SAT.samples (R297). -/
def F.MAD_SAT_samples : Fld := ⟨0x090, 0x064, 0, 0, 32⟩
/-- MAD_LATENCY.input (R297). -/
def F.MAD_LATENCY_input : Fld := ⟨0x090, 0x068, 0, 0, 16⟩
/-- MAD_LATENCY.output (R297). -/
def F.MAD_LATENCY_output : Fld := ⟨0x090, 0x068, 0, 16, 16⟩
/-- APPLY_AT.at (R464). -/
def F.APPLY_AT_at : Fld := ⟨0x000, 0x038, 0, 0, 32⟩

/-- Registers of page 0x030. -/
def rows_030 : List RegRow :=
  [⟨0x040, 1, 0, 0x1FF0F, 0x0, 0x0, 0x0, 0x0, 0x0, 0x1000⟩,
   ⟨0x044, 1, 0, 0xFFFFFFFF, 0x0, 0x0, 0x0, 0x0, 0x0, 0x0⟩,
   ⟨0x048, 1, 0, 0xFFFFFFFF, 0x0, 0x0, 0x0, 0x0, 0x0, 0x0⟩,
   ⟨0x04C, 1, 0, 0xFFFFFFFF, 0x0, 0x0, 0x0, 0x0, 0x0, 0x0⟩,
   ⟨0x050, 1, 0, 0xFF, 0x0, 0x0, 0x0, 0x0, 0x0, 0x0⟩,
   ⟨0x054, 1, 0, 0xFFFFFFFF, 0x0, 0x0, 0x0, 0x0, 0x0, 0x0⟩,
   ⟨0x058, 1, 0, 0xFFFFFFFF, 0x0, 0x0, 0x0, 0x0, 0x0, 0x0⟩,
   ⟨0x05C, 1, 0, 0x0, 0xFFFF, 0x0, 0x0, 0x0, 0x0, 0x0⟩,
   ⟨0x060, 1, 0, 0x2, 0x0, 0x0, 0x0, 0x1, 0x0, 0x0⟩,
   ⟨0x064, 1, 0, 0xFFFFFFFF, 0x0, 0x0, 0x0, 0x0, 0x0, 0x0⟩,
   ⟨0x068, 1, 0, 0xFFFFFFFF, 0x0, 0x0, 0x0, 0x0, 0x0, 0x0⟩,
   ⟨0x06C, 1, 0, 0xFFFFFFFF, 0x0, 0x0, 0x0, 0x0, 0x0, 0x0⟩,
   ⟨0x070, 1, 0, 0xFFFF, 0x0, 0x0, 0x0, 0x0, 0x0, 0x0⟩,
   ⟨0x074, 1, 0, 0x3FFFFFFF, 0x0, 0x0, 0x0, 0x0, 0x0, 0x0⟩,
   ⟨0x078, 1, 0, 0x0, 0xFFFF0002, 0x0, 0x0, 0x1, 0x0, 0x100000⟩,
   ⟨0x07C, 1, 0, 0xFFFFFFFF, 0x0, 0x0, 0x0, 0x0, 0x0, 0x2FA0000⟩,
   ⟨0x080, 1, 0, 0x3F, 0x0, 0x0, 0x0, 0x0, 0x0, 0x0⟩,
   ⟨0x084, 1, 0, 0x0, 0x0, 0x0, 0x0, 0x0, 0xFFFF, 0x0⟩,
   ⟨0x088, 1, 0, 0x0, 0x0, 0x0, 0x0, 0x0, 0xFFFF, 0x0⟩]

/-- Registers of page 0x038. -/
def rows_038 : List RegRow :=
  [⟨0x040, 1, 0, 0x0, 0xFF, 0x0, 0x0, 0x0, 0x0, 0xA⟩,
   ⟨0x044, 1, 0, 0x7FFFFF, 0x0, 0x0, 0x0, 0x0, 0x0, 0x0⟩,
   ⟨0x048, 1, 0, 0x7FFFFF, 0x0, 0x0, 0x0, 0x0, 0x0, 0x0⟩,
   ⟨0x04C, 1, 0, 0x7FFFFF, 0x0, 0x0, 0x0, 0x0, 0x0, 0x0⟩,
   ⟨0x050, 1, 0, 0xFFFFFFFF, 0x0, 0x0, 0x0, 0x0, 0x0, 0x0⟩,
   ⟨0x054, 1, 0, 0xFFFFFF, 0x0, 0x0, 0x0, 0x0, 0x0, 0x0⟩,
   ⟨0x058, 1, 0, 0x0, 0x0, 0x0, 0x0, 0x0, 0x800FFFFF, 0x0⟩,
   ⟨0x05C, 1, 0, 0x0, 0x0, 0x0, 0x0, 0x0, 0xFFFFFFFF, 0x0⟩,
   ⟨0x060, 1, 0, 0xC00FFFFF, 0x0, 0x0, 0x0, 0x0, 0x0, 0x0⟩,
   ⟨0x064, 1, 0, 0x7FFF, 0x0, 0x0, 0x0, 0x0, 0x0, 0x0⟩,
   ⟨0x068, 1, 0, 0xFFFFFFFF, 0x0, 0x0, 0x0, 0x0, 0x0, 0x0⟩,
   ⟨0x06C, 1, 0, 0x0, 0xFFFFFFFF, 0x0, 0x0, 0x0, 0x0, 0xC805DC⟩]

/-- Registers of page 0x039. -/
def rows_039 : List RegRow :=
  [⟨0x040, 64, 4, 0x3F3F3F3F, 0x0, 0x0, 0x0, 0x0, 0x0, 0x0⟩]

/-- Registers of page 0x03A. -/
def rows_03A : List RegRow :=
  [⟨0x040, 64, 12, 0x0, 0xFFFF0007, 0x0, 0x0, 0x0, 0x0, 0x80000000⟩,
   ⟨0x044, 64, 12, 0x0, 0xFFFFFFFF, 0x0, 0x0, 0x0, 0x0, 0x0⟩,
   ⟨0x048, 64, 12, 0x0, 0xFFFFFFFF, 0x0, 0x0, 0x0, 0x0, 0x0⟩]

/-- Registers of page 0x03B. -/
def rows_03B : List RegRow :=
  [⟨0x040, 1, 0, 0x0, 0x3FFF, 0x0, 0x0, 0x0, 0x0, 0x0⟩,
   ⟨0x044, 1, 0, 0xFF7FFFFF, 0x0, 0x0, 0x0, 0x0, 0x0, 0x3FFF⟩,
   ⟨0x048, 1, 0, 0xFFFFFFFF, 0x0, 0x0, 0x0, 0x0, 0x0, 0x0⟩]

/-- Registers of page 0x031. -/
def rows_031 : List RegRow :=
  [⟨0x040, 1, 0, 0x3F, 0x0, 0x0, 0x0, 0x0, 0x0, 0x0⟩,
   ⟨0x044, 1, 0, 0x0, 0x0, 0x0, 0x0, 0x1, 0x0, 0x0⟩,
   ⟨0x048, 1, 0, 0x0, 0x0, 0xFFFF07FF, 0x0, 0x0, 0x0, 0x1⟩,
   ⟨0x04C, 1, 0, 0x0, 0x0, 0xFFFFFFFF, 0x0, 0x0, 0x0, 0x0⟩,
   ⟨0x050, 1, 0, 0x0, 0x0, 0xFFFFFF, 0x0, 0x0, 0x0, 0x0⟩,
   ⟨0x054, 1, 0, 0x0, 0x0, 0xFFFF, 0x0, 0x0, 0x0, 0x0⟩,
   ⟨0x058, 1, 0, 0xFFFFFFFF, 0x0, 0x0, 0x0, 0x0, 0x0, 0x0⟩,
   ⟨0x05C, 1, 0, 0xFFFFFFFF, 0x0, 0x0, 0x0, 0x0, 0x0, 0x0⟩,
   ⟨0x060, 1, 0, 0x0, 0x0, 0x0, 0x0, 0x0, 0xFFFFFFFF, 0x0⟩,
   ⟨0x070, 1, 0, 0xFFFFFF, 0x0, 0x0, 0x0, 0x0, 0x0, 0x0⟩,
   ⟨0x074, 1, 0, 0x7FFFFF, 0x0, 0x0, 0x0, 0x0, 0x0, 0x0⟩,
   ⟨0x078, 1, 0, 0x7FFFFF, 0x0, 0x0, 0x0, 0x0, 0x0, 0x0⟩,
   ⟨0x07C, 1, 0, 0x7FFFFF, 0x0, 0x0, 0x0, 0x0, 0x0, 0x0⟩,
   ⟨0x080, 1, 0, 0x7FFFFF, 0x0, 0x0, 0x0, 0x0, 0x0, 0x0⟩,
   ⟨0x084, 1, 0, 0x7FFFFF, 0x0, 0x0, 0x0, 0x0, 0x0, 0x0⟩,
   ⟨0x088, 1, 0, 0x7FFFFF, 0x0, 0x0, 0x0, 0x0, 0x0, 0x0⟩,
   ⟨0x08C, 1, 0, 0x7FFFFF, 0x0, 0x0, 0x0, 0x0, 0x0, 0x0⟩,
   ⟨0x090, 1, 0, 0x7FFFFF, 0x0, 0x0, 0x0, 0x0, 0x0, 0x0⟩,
   ⟨0x094, 1, 0, 0x7FFFFF, 0x0, 0x0, 0x0, 0x0, 0x0, 0x0⟩,
   ⟨0x098, 1, 0, 0x7FFFFF, 0x0, 0x0, 0x0, 0x0, 0x0, 0x0⟩]

/-- Registers of page 0x032. -/
def rows_032 : List RegRow :=
  [⟨0x040, 8, 4, 0x0, 0xFFFF, 0x0, 0x0, 0x0, 0x0, 0xA⟩,
   ⟨0x060, 1, 0, 0x0, 0xFF, 0x0, 0x0, 0x0, 0x0, 0x5⟩,
   ⟨0x064, 1, 0, 0xFFFFFFFF, 0x0, 0x0, 0x0, 0x0, 0x0, 0x0⟩]

/-- Registers of page 0x050. -/
def rows_050 : List RegRow :=
  [⟨0x040, 1, 0, 0xFFFFFFFF, 0x0, 0x0, 0x0, 0x0, 0x0, 0x0⟩,
   ⟨0x044, 1, 0, 0xFF, 0x0, 0x0, 0x0, 0x0, 0x0, 0x0⟩,
   ⟨0x048, 1, 0, 0xFFFFFFFF, 0x0, 0x0, 0x0, 0x0, 0x0, 0x0⟩,
   ⟨0x04C, 1, 0, 0x0, 0x3FF, 0x0, 0x0, 0x0, 0x0, 0x14⟩,
   ⟨0x050, 1, 0, 0x0, 0x0, 0x3, 0x0, 0x0, 0x0, 0x0⟩,
   ⟨0x054, 1, 0, 0x0, 0x0, 0xFFFFFFFF, 0x0, 0x0, 0x0, 0x0⟩,
   ⟨0x060, 4, 4, 0x0, 0x0, 0xFFFFFFFF, 0x0, 0x0, 0x0, 0x0⟩,
   ⟨0x070, 4, 4, 0x0, 0x0, 0xFFFFFFFF, 0x0, 0x0, 0x0, 0x0⟩,
   ⟨0x080, 4, 4, 0xFFFFFFFF, 0x0, 0x0, 0x0, 0x0, 0x0, 0x0⟩,
   ⟨0x090, 4, 4, 0xFFFFFFFF, 0x0, 0x0, 0x0, 0x0, 0x0, 0x0⟩,
   ⟨0x0A0, 1, 0, 0x0, 0x17F, 0x0, 0x0, 0x80000000, 0x0, 0x0⟩,
   ⟨0x0A4, 1, 0, 0x0, 0x1FFFFF, 0x0, 0x0, 0x0, 0x0, 0x0⟩,
   ⟨0x0A8, 1, 0, 0xFFFFFFF1, 0x0, 0x0, 0x0, 0x0, 0x0, 0x0⟩,
   ⟨0x0B0, 16, 4, 0xFFFFFFFF, 0x0, 0x0, 0x0, 0x0, 0x0, 0x0⟩,
   ⟨0x0F0, 1, 0, 0x0, 0x0, 0x0, 0x0, 0x0, 0x7FFFFF, 0x0⟩,
   ⟨0x0F4, 1, 0, 0x0, 0x0, 0x0, 0x0, 0x0, 0xFFFF, 0x0⟩,
   ⟨0x100, 1, 0, 0x0, 0xFFFFFFFF, 0x0, 0x0, 0x0, 0x0, 0x0⟩,
   ⟨0x104, 1, 0, 0x0, 0xFF, 0x0, 0x0, 0x0, 0x0, 0x0⟩,
   ⟨0x108, 1, 0, 0x0, 0xFFFFFFFF, 0x0, 0x0, 0x0, 0x0, 0x0⟩,
   ⟨0x10C, 1, 0, 0x0, 0xFF, 0x0, 0x0, 0x0, 0x0, 0x0⟩,
   ⟨0x110, 1, 0, 0x0, 0x3F, 0x0, 0x0, 0x80000000, 0x0, 0x10⟩,
   ⟨0x114, 1, 0, 0x1F03, 0x0, 0x0, 0x0, 0x0, 0x0, 0x0⟩]

/-- Registers of page 0x040 and the 15 pages after it. -/
def rows_040x16 : List RegRow :=
  [⟨0x040, 1, 0, 0xF, 0x0, 0x0, 0x0, 0x0, 0x0, 0x0⟩,
   ⟨0x044, 1, 0, 0x3FFF, 0x0, 0x0, 0x0, 0x0, 0x0, 0x0⟩,
   ⟨0x048, 1, 0, 0xFFFFF, 0x0, 0x0, 0x0, 0x0, 0x0, 0x0⟩,
   ⟨0x04C, 1, 0, 0xFFFFF, 0x0, 0x0, 0x0, 0x0, 0x0, 0x0⟩,
   ⟨0x050, 1, 0, 0xFFFFF, 0x0, 0x0, 0x0, 0x0, 0x0, 0x0⟩,
   ⟨0x054, 1, 0, 0xFFFF, 0x0, 0x0, 0x0, 0x0, 0x0, 0x0⟩,
   ⟨0x058, 1, 0, 0xFFFFF, 0x0, 0x0, 0x0, 0x0, 0x0, 0x0⟩,
   ⟨0x05C, 1, 0, 0x0, 0x0, 0x0, 0x0, 0x0, 0xFFFF, 0x0⟩,
   ⟨0x060, 1, 0, 0x0, 0x0, 0x0, 0x0, 0x0, 0x7FFFFF, 0xFFFFF⟩,
   ⟨0x064, 1, 0, 0xFFFFFFFF, 0x0, 0x0, 0x0, 0x0, 0x0, 0x0⟩,
   ⟨0x068, 1, 0, 0x0, 0x0, 0x0, 0x0, 0x0, 0xFFFFFFFF, 0x0⟩,
   ⟨0x06C, 1, 0, 0x0, 0x0, 0x0, 0x0, 0x0, 0xFFFFFFFF, 0x0⟩,
   ⟨0x070, 1, 0, 0x0, 0x0, 0x0, 0x0, 0x0, 0x800F007F, 0x0⟩,
   ⟨0x074, 1, 0, 0x0, 0x0, 0x0, 0x0, 0x0, 0xFFFFFFFF, 0x0⟩,
   ⟨0x080, 8, 4, 0x3FFF, 0x0, 0x0, 0x0, 0x0, 0x0, 0x0⟩,
   ⟨0x0C0, 1, 0, 0xFFFF, 0x0, 0x0, 0x0, 0x0, 0x0, 0x0⟩,
   ⟨0x100, 1, 0, 0x0, 0xFFFFFE5, 0x0, 0x0, 0x1A, 0x0, 0x0⟩,
   ⟨0x104, 1, 0, 0xFFFF, 0x0, 0x0, 0x0, 0x0, 0x0, 0x0⟩,
   ⟨0x108, 1, 0, 0x0, 0x1FFF, 0x0, 0x0, 0x0, 0x0, 0x0⟩,
   ⟨0x10C, 1, 0, 0xFFFFFFFF, 0x0, 0x0, 0x0, 0x0, 0x0, 0x0⟩,
   ⟨0x110, 1, 0, 0x0, 0x0, 0x0, 0x0, 0x0, 0xFFFF, 0x0⟩]

/-- Registers of page 0x040. -/
def rows_040 : List RegRow :=
  [⟨0x180, 1, 0, 0xFFFFF, 0x0, 0x0, 0x0, 0x0, 0x0, 0x0⟩,
   ⟨0x184, 1, 0, 0xFFFFF, 0x0, 0x0, 0x0, 0x0, 0x0, 0x0⟩,
   ⟨0x190, 8, 4, 0x800FFFFF, 0x0, 0x0, 0x0, 0x0, 0x0, 0x0⟩,
   ⟨0x1B0, 1, 0, 0xFFFFFFFF, 0x0, 0x0, 0x0, 0x0, 0x0, 0x0⟩,
   ⟨0x1B4, 1, 0, 0xFFFFFFFF, 0x0, 0x0, 0x0, 0x0, 0x0, 0x0⟩,
   ⟨0x1B8, 1, 0, 0x80000FFF, 0x0, 0x0, 0x0, 0x0, 0x0, 0x0⟩]

/-- Registers of page 0x060 and the 1 pages after it. -/
def rows_060x2 : List RegRow :=
  [⟨0x040, 1, 0, 0x0, 0x0, 0x1FFFFF, 0x0, 0x0, 0x0, 0x142⟩,
   ⟨0x044, 1, 0, 0x3F, 0x0, 0x0, 0x0, 0x0, 0x0, 0x0⟩,
   ⟨0x048, 1, 0, 0x0, 0x0, 0xFFFFFFFF, 0x0, 0x0, 0x0, 0x0⟩,
   ⟨0x04C, 1, 0, 0x0, 0x0, 0xFFFF, 0x0, 0x0, 0x0, 0x0⟩,
   ⟨0x050, 1, 0, 0x0, 0x0, 0xFFFFFFFF, 0x0, 0x0, 0x0, 0x0⟩,
   ⟨0x054, 1, 0, 0x0, 0x0, 0xFFFFFFFF, 0x0, 0x0, 0x0, 0x0⟩,
   ⟨0x058, 1, 0, 0x0, 0x0, 0xFFFFFFFF, 0x0, 0x0, 0x0, 0x0⟩,
   ⟨0x060, 4, 4, 0x0, 0x0, 0xFFFFFFFF, 0x0, 0x0, 0x0, 0x0⟩,
   ⟨0x070, 1, 0, 0x0, 0xFFFFFFFF, 0x0, 0x0, 0x0, 0x0, 0x0⟩,
   ⟨0x080, 1, 0, 0x0, 0x0, 0x0, 0x0, 0x0, 0xFFFFFFFF, 0x0⟩,
   ⟨0x084, 1, 0, 0x0, 0x0, 0x0, 0x0, 0x0, 0xFFFFFFFF, 0x0⟩,
   ⟨0x088, 1, 0, 0x0, 0x0, 0x0, 0x0, 0x0, 0xFFFFFFFF, 0x0⟩,
   ⟨0x08C, 1, 0, 0x0, 0x0, 0x0, 0x0, 0x0, 0xFFFFFFFF, 0x0⟩]

/-- Registers of page 0x062. -/
def rows_062 : List RegRow :=
  [⟨0x040, 1, 0, 0xFFFFFFFF, 0x0, 0x0, 0x0, 0x0, 0x0, 0x0⟩,
   ⟨0x044, 1, 0, 0xFFFFFFFF, 0x0, 0x0, 0x0, 0x0, 0x0, 0x0⟩,
   ⟨0x048, 1, 0, 0xFFFFFFFF, 0x0, 0x0, 0x0, 0x0, 0x0, 0x0⟩,
   ⟨0x060, 1, 0, 0x3FF1FFF, 0x0, 0x0, 0x0, 0x0, 0x0, 0x0⟩,
   ⟨0x064, 1, 0, 0x0, 0x0, 0x0, 0x0, 0x0, 0xFFFFFFFF, 0x0⟩,
   ⟨0x080, 16, 4, 0x0, 0x0, 0xFFFFFFFF, 0x0, 0x0, 0x0, 0x0⟩,
   ⟨0x0C0, 1, 0, 0x7F01FF, 0x0, 0x0, 0x0, 0x0, 0x0, 0x0⟩,
   ⟨0x100, 16, 4, 0xFFFFFFFF, 0x0, 0x0, 0x0, 0x0, 0x0, 0x0⟩,
   ⟨0x140, 1, 0, 0x0, 0x1FF, 0x0, 0x0, 0x0, 0x0, 0x0⟩,
   ⟨0x144, 1, 0, 0x0, 0x0, 0x0, 0x0, 0x0, 0xFFFFFFFF, 0x0⟩,
   ⟨0x148, 1, 0, 0x0, 0x0, 0x0, 0x0, 0x0, 0xFFFFFFFF, 0x0⟩,
   ⟨0x14C, 1, 0, 0x0, 0x0, 0x0, 0x0, 0x0, 0xFFFFFFFF, 0x0⟩,
   ⟨0x150, 1, 0, 0x0, 0x0, 0x0, 0x0, 0x0, 0xFFFFFFFF, 0x0⟩,
   ⟨0x154, 1, 0, 0x0, 0x0, 0x0, 0x0, 0x0, 0xFFFFFFFF, 0x7FFFFFFF⟩]

/-- Registers of page 0x063. -/
def rows_063 : List RegRow :=
  [⟨0x040, 1, 0, 0xFFFFFFFF, 0x0, 0x0, 0x0, 0x0, 0x0, 0x0⟩,
   ⟨0x044, 1, 0, 0xFFFF0001, 0x0, 0x0, 0x0, 0x0, 0x0, 0x0⟩,
   ⟨0x048, 1, 0, 0x0, 0x0, 0x0, 0x0, 0x0, 0xFFFFFFFF, 0x0⟩,
   ⟨0x060, 1, 0, 0x3FF1FFF, 0x0, 0x0, 0x0, 0x0, 0x0, 0x0⟩,
   ⟨0x080, 16, 4, 0x0, 0x0, 0xFFFFFFFF, 0x0, 0x0, 0x0, 0x0⟩,
   ⟨0x0C0, 1, 0, 0x7F01FF, 0x0, 0x0, 0x0, 0x0, 0x0, 0x0⟩,
   ⟨0x100, 16, 4, 0xFFFFFFFF, 0x0, 0x0, 0x0, 0x0, 0x0, 0x0⟩,
   ⟨0x140, 1, 0, 0x0, 0x1FF, 0x0, 0x0, 0x0, 0x0, 0x0⟩,
   ⟨0x144, 1, 0, 0x0, 0x0, 0x0, 0x0, 0x0, 0xFFFFFFFF, 0x0⟩,
   ⟨0x148, 1, 0, 0x0, 0x0, 0x0, 0x0, 0x0, 0xFFFFFFFF, 0x0⟩]

/-- Registers of page 0x064. -/
def rows_064 : List RegRow :=
  [⟨0x040, 1, 0, 0xFFFFFFFF, 0x0, 0x0, 0x0, 0x0, 0x0, 0x0⟩,
   ⟨0x044, 1, 0, 0xFFFFFFFF, 0x0, 0x0, 0x0, 0x0, 0x0, 0x0⟩,
   ⟨0x048, 1, 0, 0xFFFFFFFF, 0x0, 0x0, 0x0, 0x0, 0x0, 0x0⟩,
   ⟨0x04C, 1, 0, 0x0, 0x3F7FFFFF, 0x0, 0x0, 0x0, 0x0, 0x2E001F40⟩,
   ⟨0x050, 1, 0, 0x0, 0x0, 0x0, 0x0, 0xFF, 0x0, 0x0⟩,
   ⟨0x054, 1, 0, 0x0, 0x0, 0x0, 0x0, 0xFF, 0x0, 0x0⟩,
   ⟨0x058, 1, 0, 0x0, 0x0, 0x0, 0x0, 0x3FFF, 0x0, 0x0⟩,
   ⟨0x060, 16, 4, 0xFFFFFFFF, 0x0, 0x0, 0x0, 0x0, 0x0, 0x0⟩,
   ⟨0x0A0, 8, 8, 0x0, 0xFFFFF, 0x0, 0x0, 0x0, 0x0, 0x60000⟩,
   ⟨0x0A4, 8, 8, 0x0, 0x7FF, 0x0, 0x0, 0x0, 0x0, 0x0⟩,
   ⟨0x0E0, 1, 0, 0x7F, 0x0, 0x0, 0x0, 0x0, 0x0, 0x0⟩,
   ⟨0x0E4, 1, 0, 0x0, 0x7F, 0x0, 0x0, 0x0, 0x0, 0x0⟩,
   ⟨0x0E8, 1, 0, 0x0, 0x0, 0x0, 0x0, 0x0, 0xFFFFFFFF, 0x0⟩,
   ⟨0x0EC, 1, 0, 0x1FF, 0x0, 0x0, 0x0, 0x0, 0x0, 0x0⟩]

/-- Registers of page 0x065. -/
def rows_065 : List RegRow :=
  [⟨0x040, 1, 0, 0x0, 0x1F, 0x0, 0x0, 0x0, 0x0, 0x4⟩,
   ⟨0x044, 1, 0, 0x0, 0x0, 0x0, 0x0, 0x0, 0xFFFFFF7F, 0x0⟩,
   ⟨0x048, 1, 0, 0x3FFFFFFF, 0x0, 0x0, 0x0, 0x0, 0x0, 0x0⟩,
   ⟨0x04C, 1, 0, 0xFFFFFFFF, 0x0, 0x0, 0x0, 0x0, 0x0, 0x0⟩,
   ⟨0x050, 1, 0, 0xFFFF, 0x0, 0x0, 0x0, 0x0, 0x0, 0x0⟩,
   ⟨0x054, 1, 0, 0x1FF, 0x0, 0x0, 0x0, 0x0, 0xFFFF0000, 0x0⟩]

/-- Registers of page 0x080 and the 15 pages after it. -/
def rows_080x16 : List RegRow :=
  [⟨0x040, 1, 0, 0x0, 0x0, 0x3FFFFFF, 0x0, 0x0, 0x0, 0x801210⟩,
   ⟨0x044, 1, 0, 0x0, 0x0, 0xFFFFFFFF, 0x0, 0x0, 0x0, 0x0⟩,
   ⟨0x048, 1, 0, 0x0, 0x0, 0xFFFFFFFF, 0x0, 0x0, 0x0, 0x0⟩,
   ⟨0x04C, 1, 0, 0x3F3F1F, 0x0, 0x0, 0x0, 0x0, 0x0, 0x4⟩,
   ⟨0x050, 1, 0, 0x0, 0x0, 0x0, 0x0, 0x0, 0xFFFFFFFF, 0x0⟩,
   ⟨0x054, 1, 0, 0x0, 0x0, 0x0, 0x0, 0x0, 0xFFFFFFFF, 0x0⟩,
   ⟨0x058, 1, 0, 0xFFFFFFFF, 0x0, 0x0, 0x0, 0x0, 0x0, 0x0⟩]

/-- Registers of page 0x090 and the 3 pages after it. -/
def rows_090x4 : List RegRow :=
  [⟨0x040, 1, 0, 0x0, 0x0, 0x1FFF, 0x0, 0x0, 0x0, 0x400⟩,
   ⟨0x044, 1, 0, 0x0, 0x0, 0xFFFFFFFF, 0x0, 0x0, 0x0, 0x0⟩,
   ⟨0x048, 1, 0, 0x0, 0x0, 0xFFFFFFFF, 0x0, 0x0, 0x0, 0x0⟩,
   ⟨0x04C, 1, 0, 0x0, 0x0, 0xFFFFFFFF, 0x0, 0x0, 0x0, 0x0⟩,
   ⟨0x050, 1, 0, 0x0, 0x0, 0xFFFFFFFF, 0x0, 0x0, 0x0, 0x0⟩,
   ⟨0x060, 1, 0, 0x0, 0x0, 0x0, 0x0, 0x0, 0xFFFFFFFF, 0x0⟩,
   ⟨0x054, 1, 0, 0x3F3F1F, 0x0, 0x0, 0x0, 0x0, 0x0, 0x4⟩,
   ⟨0x05C, 1, 0, 0x0, 0x0, 0x0, 0x0, 0x0, 0xFFFFFFFF, 0x0⟩,
   ⟨0x064, 1, 0, 0x0, 0x0, 0x0, 0x0, 0x0, 0xFFFFFFFF, 0x0⟩,
   ⟨0x068, 1, 0, 0xFFFFFFFF, 0x0, 0x0, 0x0, 0x0, 0x0, 0x0⟩]

/-- Registers of page 0x094. -/
def rows_094 : List RegRow :=
  [⟨0x040, 2, 128, 0x0, 0x0, 0x7FF, 0x0, 0x0, 0x0, 0x100⟩,
   ⟨0x044, 2, 128, 0x3F3F, 0x0, 0x0, 0x0, 0x0, 0x0, 0x4⟩,
   ⟨0x048, 2, 128, 0x0, 0x0, 0x0, 0x0, 0x0, 0xFFFFFFFF, 0x0⟩,
   ⟨0x04C, 2, 128, 0x0, 0x0, 0x0, 0x0, 0x0, 0xFFFFFFFF, 0x0⟩,
   ⟨0x050, 2, 128, 0xFFFFFFFF, 0x0, 0x0, 0x0, 0x0, 0x0, 0x0⟩,
   ⟨0x054, 2, 128, 0x0, 0x0, 0x0, 0x0, 0x0, 0xFFFFFFFF, 0x0⟩,
   ⟨0x058, 2, 128, 0x0, 0x0, 0x0, 0x0, 0x0, 0xFFFF, 0x0⟩,
   ⟨0x060, 2, 128, 0xFFFFFFFF, 0x0, 0x0, 0x0, 0x0, 0x0, 0x0⟩,
   ⟨0x064, 2, 128, 0xFFFFFFFF, 0x0, 0x0, 0x0, 0x0, 0x0, 0x0⟩,
   ⟨0x068, 2, 128, 0xFFFFFFFF, 0x0, 0x0, 0x0, 0x0, 0x0, 0x0⟩,
   ⟨0x06C, 2, 128, 0xFFFFFFFF, 0x0, 0x0, 0x0, 0x0, 0x0, 0x0⟩,
   ⟨0x070, 2, 128, 0xFFFFFFFF, 0x0, 0x0, 0x0, 0x0, 0x0, 0x0⟩,
   ⟨0x074, 2, 128, 0xFFFFFFFF, 0x0, 0x0, 0x0, 0x0, 0x0, 0x0⟩,
   ⟨0x080, 2, 128, 0x0, 0x0, 0xFFFFFFFF, 0x0, 0x0, 0x0, 0x0⟩,
   ⟨0x084, 2, 128, 0x0, 0x0, 0xFFFFFFFF, 0x0, 0x0, 0x0, 0x0⟩,
   ⟨0x088, 2, 128, 0x0, 0x0, 0xFFFFFFFF, 0x0, 0x0, 0x0, 0x0⟩,
   ⟨0x08C, 2, 128, 0x0, 0x0, 0xFFFFFFFF, 0x0, 0x0, 0x0, 0x0⟩,
   ⟨0x090, 2, 128, 0x0, 0x0, 0xFFFFFFFF, 0x0, 0x0, 0x0, 0x0⟩,
   ⟨0x094, 2, 128, 0x0, 0x0, 0xFFFFFFFF, 0x0, 0x0, 0x0, 0x0⟩]

/-- Registers of page 0x095. -/
def rows_095 : List RegRow :=
  [⟨0x040, 1, 0, 0x7F, 0x0, 0x0, 0x0, 0x0, 0x0, 0x0⟩,
   ⟨0x044, 1, 0, 0x0, 0xF3, 0x0, 0x0, 0x0, 0x0, 0x0⟩,
   ⟨0x048, 1, 0, 0xFFFFFFFF, 0x0, 0x0, 0x0, 0x0, 0x0, 0x0⟩,
   ⟨0x04C, 1, 0, 0xFF, 0x0, 0x0, 0x0, 0x0, 0x0, 0x0⟩,
   ⟨0x050, 1, 0, 0xFFFF00F7, 0x0, 0x0, 0x0, 0x0, 0x0, 0x0⟩,
   ⟨0x054, 1, 0, 0x0, 0x0, 0x0, 0x0, 0x0, 0xFFFF, 0x0⟩]

/-- Registers of page 0x070. -/
def rows_070 : List RegRow :=
  [⟨0x040, 1, 0, 0x0, 0x0, 0xFFF003F, 0x0, 0x0, 0x0, 0x3C0001⟩,
   ⟨0x044, 1, 0, 0x0, 0x0, 0xFFFFFFFF, 0x0, 0x0, 0x0, 0x21⟩,
   ⟨0x048, 1, 0, 0x0, 0x0, 0xFFFFFFFF, 0x0, 0x0, 0x0, 0x138807D0⟩,
   ⟨0x04C, 1, 0, 0x0, 0x0, 0xFFFFFF, 0x0, 0x0, 0x0, 0x50032⟩,
   ⟨0x050, 1, 0, 0x0, 0x0, 0x1FF, 0x0, 0x0, 0x0, 0x111⟩,
   ⟨0x060, 8, 4, 0x0, 0x0, 0xFFFFFFFF, 0x0, 0x0, 0x0, 0x0⟩,
   ⟨0x080, 1, 0, 0x0, 0x0, 0xFFFFFF7F, 0x0, 0x0, 0x0, 0x80800060⟩,
   ⟨0x084, 1, 0, 0x0, 0x0, 0xFFFF, 0x0, 0x0, 0x0, 0x301D⟩,
   ⟨0x090, 1, 0, 0xFFF1FF, 0x0, 0x0, 0x0, 0x0, 0x0, 0xF80078⟩,
   ⟨0x094, 1, 0, 0xFFFFFFFF, 0x0, 0x0, 0x0, 0x0, 0x0, 0x0⟩,
   ⟨0x098, 1, 0, 0x0, 0x7, 0x0, 0x0, 0x0, 0x0, 0x0⟩,
   ⟨0x09C, 1, 0, 0xFFFFFFFF, 0x0, 0x0, 0x0, 0x0, 0x0, 0x0⟩,
   ⟨0x0A0, 1, 0, 0xFFFFFFFF, 0x0, 0x0, 0x0, 0x0, 0x0, 0x0⟩,
   ⟨0x0A4, 1, 0, 0xFFF, 0x0, 0x0, 0x0, 0x0, 0x0, 0x0⟩,
   ⟨0x0A8, 1, 0, 0xFFFFFF, 0x0, 0x0, 0x0, 0x0, 0x0, 0x11⟩,
   ⟨0x0AC, 1, 0, 0xFFFFFFFF, 0x0, 0x0, 0x0, 0x0, 0x0, 0x0⟩,
   ⟨0x0B0, 1, 0, 0xFFFFFFFF, 0x0, 0x0, 0x0, 0x0, 0x0, 0x0⟩,
   ⟨0x0B4, 1, 0, 0x0, 0x0, 0x0, 0x0, 0x0, 0xFFFFFFFF, 0x0⟩]

/-- Registers of page 0x071. -/
def rows_071 : List RegRow :=
  [⟨0x040, 1, 0, 0x0, 0x0, 0xFFF, 0x0, 0x0, 0x0, 0x360⟩,
   ⟨0x044, 1, 0, 0x0, 0x0, 0xFFFFFFFF, 0x0, 0x0, 0x0, 0x1F403E8⟩,
   ⟨0x048, 1, 0, 0x0, 0x0, 0xFFFFFFFF, 0x0, 0x0, 0x0, 0x641388⟩,
   ⟨0x04C, 1, 0, 0x0, 0x0, 0xFFFFFFFF, 0x0, 0x0, 0x0, 0x18012C⟩,
   ⟨0x050, 1, 0, 0x0, 0x0, 0xFFFFFF, 0x0, 0x0, 0x0, 0x320BEC⟩,
   ⟨0x054, 1, 0, 0xFFFFFFFF, 0x0, 0x0, 0x0, 0x0, 0x0, 0x0⟩,
   ⟨0x058, 1, 0, 0xFFFFFFFF, 0x0, 0x0, 0x0, 0x0, 0x0, 0x0⟩,
   ⟨0x05C, 1, 0, 0x1FFFF, 0x0, 0x0, 0x0, 0x0, 0x0, 0x0⟩,
   ⟨0x060, 1, 0, 0x1FFFF, 0x0, 0x0, 0x0, 0x0, 0x0, 0x0⟩,
   ⟨0x064, 1, 0, 0xFFFFFFFF, 0x0, 0x0, 0x0, 0x0, 0x0, 0x0⟩]

/-- Registers of page 0x072. -/
def rows_072 : List RegRow :=
  [⟨0x040, 1, 0, 0x3FFFFFFF, 0x0, 0x0, 0x0, 0x0, 0x0, 0x0⟩,
   ⟨0x044, 1, 0, 0xFFFFFFFF, 0x0, 0x0, 0x0, 0x0, 0x0, 0x0⟩,
   ⟨0x048, 1, 0, 0xFFFF, 0x0, 0x0, 0x0, 0x0, 0x0, 0x0⟩,
   ⟨0x04C, 1, 0, 0xFFFFFFFF, 0x0, 0x0, 0x0, 0x0, 0x0, 0x0⟩,
   ⟨0x050, 1, 0, 0x0, 0x0, 0x3FFFFFFF, 0x0, 0x0, 0x0, 0x0⟩,
   ⟨0x054, 1, 0, 0x0, 0x0, 0xFFFFFFFF, 0x0, 0x0, 0x0, 0x0⟩,
   ⟨0x058, 1, 0, 0x0, 0x0, 0x8000FFFF, 0x0, 0x0, 0x0, 0x0⟩,
   ⟨0x05C, 1, 0, 0x0, 0x0, 0xFF07FFFF, 0x0, 0x0, 0x0, 0xA0000025⟩,
   ⟨0x060, 1, 0, 0x0, 0x0, 0xFFFF, 0x0, 0x0, 0x0, 0xA200⟩,
   ⟨0x064, 1, 0, 0x0, 0x0, 0x0, 0x0, 0x1F, 0x0, 0x0⟩,
   ⟨0x068, 1, 0, 0x1F, 0x0, 0x0, 0x0, 0x0, 0x0, 0x0⟩,
   ⟨0x06C, 1, 0, 0x0, 0x0, 0x0, 0x0, 0x0, 0xFFFFFFFF, 0x0⟩]

/-- Registers of page 0x073. -/
def rows_073 : List RegRow :=
  [⟨0x040, 1, 0, 0x1FF, 0x0, 0x0, 0x0, 0x0, 0xFFFF0000, 0x0⟩,
   ⟨0x044, 1, 0, 0x0, 0x0, 0x0, 0x0, 0x0, 0xFF, 0x0⟩,
   ⟨0x048, 1, 0, 0x3FFFFFFF, 0x0, 0x0, 0x0, 0x0, 0x0, 0x0⟩,
   ⟨0x04C, 1, 0, 0xFFFFFFFF, 0x0, 0x0, 0x0, 0x0, 0x0, 0x0⟩,
   ⟨0x050, 1, 0, 0xFFFF, 0x0, 0x0, 0x0, 0x0, 0x0, 0x0⟩,
   ⟨0x054, 1, 0, 0xFFFFFFFF, 0x0, 0x0, 0x0, 0x0, 0x0, 0x0⟩,
   ⟨0x100, 38, 4, 0x0, 0x7FFF, 0x0, 0x0, 0x0, 0x0, 0x0⟩]

/-- Registers of page 0x074. -/
def rows_074 : List RegRow :=
  [⟨0x040, 1, 0, 0x0, 0x0, 0xFFFF, 0x0, 0x0, 0x0, 0x2⟩,
   ⟨0x044, 1, 0, 0x0, 0x0, 0xFFFFFFFF, 0x0, 0x0, 0x0, 0x0⟩,
   ⟨0x048, 1, 0, 0x0, 0x1, 0x0, 0x0, 0x0, 0x0, 0x0⟩,
   ⟨0x04C, 1, 0, 0xBF3F3F3F, 0x0, 0x0, 0x0, 0x0, 0x0, 0x0⟩,
   ⟨0x050, 1, 0, 0xFFFFFFFF, 0x0, 0x0, 0x0, 0x0, 0x0, 0x0⟩,
   ⟨0x054, 1, 0, 0x3FFFFFFF, 0x0, 0x0, 0x0, 0x0, 0x0, 0x0⟩,
   ⟨0x058, 1, 0, 0xFFFFFFFF, 0x0, 0x0, 0x0, 0x0, 0x0, 0x0⟩,
   ⟨0x05C, 1, 0, 0xFFFFFFFF, 0x0, 0x0, 0x0, 0x0, 0x0, 0x0⟩,
   ⟨0x060, 1, 0, 0xFFF000F, 0x0, 0x0, 0x0, 0x0, 0x0, 0x0⟩,
   ⟨0x064, 1, 0, 0x0, 0x0, 0x0, 0x0, 0x0, 0xFFFF, 0x0⟩]

/-- Registers of page 0x078. -/
def rows_078 : List RegRow :=
  [⟨0x040, 1, 0, 0x0, 0x0, 0x7, 0x0, 0x0, 0x0, 0x6⟩,
   ⟨0x080, 8, 16, 0x0, 0x0, 0xFFFF1FFF, 0x0, 0x0, 0x0, 0x640078⟩,
   ⟨0x084, 8, 16, 0x0, 0x0, 0xFFFF, 0x0, 0x0, 0x0, 0x0⟩,
   ⟨0x088, 8, 16, 0x0, 0xFFFFFFFF, 0x0, 0x0, 0x0, 0x0, 0x0⟩,
   ⟨0x08C, 8, 16, 0x13FFFF, 0x0, 0x0, 0xC0000, 0x0, 0x0, 0x0⟩]

/-- Registers of page 0x0A0. -/
def rows_0A0 : List RegRow :=
  [⟨0x040, 1, 0, 0x0, 0x0, 0xFFFFFFFF, 0x0, 0x0, 0x0, 0x1002064⟩,
   ⟨0x044, 1, 0, 0xF3FF, 0x0, 0x0, 0x0, 0x0, 0x0, 0x0⟩,
   ⟨0x048, 1, 0, 0xFFFFFFFF, 0x0, 0x0, 0x0, 0x0, 0x0, 0x0⟩,
   ⟨0x04C, 1, 0, 0x0, 0x0, 0x0, 0x0, 0x0, 0xFFFFFFFF, 0x0⟩,
   ⟨0x050, 1, 0, 0xFFFFFFFF, 0x0, 0x0, 0x0, 0x0, 0x0, 0x0⟩,
   ⟨0x054, 1, 0, 0xFFFFFFFF, 0x0, 0x0, 0x0, 0x0, 0x0, 0x0⟩,
   ⟨0x058, 1, 0, 0x0, 0x0, 0x0, 0x0, 0x0, 0xFFFFFFFF, 0x0⟩,
   ⟨0x05C, 1, 0, 0x0, 0x0, 0x0, 0x0, 0x0, 0xFFFFFFFF, 0x0⟩,
   ⟨0x060, 1, 0, 0x0, 0xFFFF0003, 0x0, 0x0, 0x0, 0x0, 0x0⟩,
   ⟨0x064, 1, 0, 0x0, 0xFFFFFFFF, 0x0, 0x0, 0x0, 0x0, 0x0⟩,
   ⟨0x068, 1, 0, 0x0, 0x0, 0x0, 0x0, 0xFFFFFFFF, 0x0, 0x0⟩,
   ⟨0x06C, 1, 0, 0x0, 0xFFFFFFFF, 0x0, 0x0, 0x0, 0x0, 0x0⟩,
   ⟨0x070, 1, 0, 0xFF, 0x0, 0x0, 0x0, 0x0, 0x0, 0x0⟩,
   ⟨0x074, 1, 0, 0x0, 0x0, 0x0, 0x0, 0x7, 0x0, 0x0⟩,
   ⟨0x078, 1, 0, 0xFFFFFFFF, 0x0, 0x0, 0x0, 0x0, 0x0, 0x0⟩,
   ⟨0x07C, 1, 0, 0xFF, 0x0, 0x0, 0x0, 0x0, 0x0, 0x0⟩]

/-- Registers of page 0x0A1. -/
def rows_0A1 : List RegRow :=
  [⟨0x040, 1, 0, 0x0, 0xFFFF0001, 0x0, 0x0, 0x0, 0x0, 0x0⟩,
   ⟨0x044, 1, 0, 0xFFFF003F, 0x0, 0x0, 0x0, 0x0, 0x0, 0x0⟩,
   ⟨0x048, 1, 0, 0x0, 0x0, 0x0, 0x0, 0x0, 0xFFFFFFFF, 0x0⟩,
   ⟨0x04C, 1, 0, 0x0, 0x0, 0x0, 0x0, 0x0, 0xFF, 0x0⟩]

/-- Registers of page 0x000. -/
def rows_000 : List RegRow :=
  [⟨0x060, 1, 0, 0x0, 0x0, 0x13F, 0x0, 0x0, 0x0, 0x0⟩,
   ⟨0x064, 1, 0, 0xFFFF, 0x0, 0x0, 0x0, 0x0, 0x0, 0x500⟩,
   ⟨0x068, 1, 0, 0xFFFFFFFF, 0x0, 0x0, 0x0, 0x0, 0x0, 0x0⟩,
   ⟨0x06C, 1, 0, 0xFFFFFF, 0x0, 0x0, 0x0, 0x0, 0x0, 0x0⟩,
   ⟨0x070, 1, 0, 0x0, 0x0, 0x0, 0x0, 0x0, 0xFFFFFFFF, 0x0⟩,
   ⟨0x040, 1, 0, 0x1FFFFFF, 0x0, 0x0, 0x0, 0x0, 0x0, 0x4096⟩,
   ⟨0x044, 4, 4, 0xFFFFFFFF, 0x0, 0x0, 0x0, 0x0, 0x0, 0x0⟩,
   ⟨0x054, 1, 0, 0xF, 0x0, 0x0, 0x0, 0x0, 0x0, 0x8⟩,
   ⟨0x058, 1, 0, 0xF7, 0x0, 0x0, 0x0, 0x0, 0x0, 0x0⟩,
   ⟨0x05C, 1, 0, 0xFFFFFFFF, 0x0, 0x0, 0x0, 0x0, 0x0, 0x0⟩]

/-- Registers of page 0x020. -/
def rows_020 : List RegRow :=
  [⟨0x040, 4, 4, 0x0, 0x0, 0xFFFFFFFF, 0x0, 0x0, 0x0, 0x0⟩,
   ⟨0x050, 4, 4, 0xFFFFFFFF, 0x0, 0x0, 0x0, 0x0, 0x0, 0x0⟩,
   ⟨0x060, 1, 0, 0x0, 0x0, 0x0, 0x0, 0x0, 0xFFFFFFFF, 0x0⟩,
   ⟨0x064, 1, 0, 0x0, 0x0, 0x0, 0x0, 0x0, 0xFFFF7FFF, 0x0⟩,
   ⟨0x068, 1, 0, 0x0, 0x0, 0x0, 0x0, 0x0, 0x3FFF, 0xFF⟩,
   ⟨0x070, 8, 4, 0xFFFFFFFF, 0x0, 0x0, 0x0, 0x0, 0x0, 0x0⟩]

/-- Registers of page 0x021. -/
def rows_021 : List RegRow :=
  [⟨0x040, 1, 0, 0x3E, 0x0, 0x0, 0x1, 0x0, 0x0, 0x0⟩,
   ⟨0x044, 1, 0, 0x0, 0x3, 0x0, 0x0, 0x4, 0x0, 0x3⟩,
   ⟨0x048, 1, 0, 0x0, 0x0, 0x0, 0x0, 0x0, 0xFFFFFFFF, 0x0⟩]

/-- Registers of page 0x022. -/
def rows_022 : List RegRow :=
  [⟨0x040, 1, 0, 0x0, 0xFFF, 0x0, 0x0, 0x0, 0x0, 0x811⟩,
   ⟨0x044, 1, 0, 0xFFFF, 0x0, 0x0, 0x0, 0x0, 0x0, 0x0⟩,
   ⟨0x048, 1, 0, 0x0, 0x0, 0x0, 0x0, 0x0, 0xFFFFFFFF, 0x0⟩,
   ⟨0x04C, 1, 0, 0x0, 0x0, 0x0, 0x0, 0x0, 0x8001FFFF, 0x0⟩]

/-- Registers of page 0x028. -/
def rows_028 : List RegRow :=
  [⟨0x040, 1, 0, 0xF1F, 0x0, 0x0, 0x0, 0x0, 0x0, 0x0⟩,
   ⟨0x044, 1, 0, 0x0, 0x1, 0x0, 0x0, 0x0, 0x0, 0x0⟩,
   ⟨0x048, 1, 0, 0x0, 0x0, 0x7F7F, 0x0, 0x0, 0x0, 0x1030⟩,
   ⟨0x04C, 1, 0, 0xFFFFFFFF, 0x0, 0x0, 0x0, 0x0, 0x0, 0x0⟩,
   ⟨0x050, 1, 0, 0xFF, 0x0, 0x0, 0x0, 0x0, 0xFFFFFF00, 0x60⟩,
   ⟨0x054, 1, 0, 0x0, 0x0, 0x0, 0x0, 0x0, 0xFFFFFFFF, 0x0⟩]

/-- Registers of page 0x029. -/
def rows_029 : List RegRow :=
  [⟨0x040, 8, 4, 0x0, 0xFFFF, 0x0, 0x0, 0x0, 0x0, 0x0⟩,
   ⟨0x060, 8, 4, 0x0, 0x0, 0x0, 0x0, 0x0, 0xFFFFFFFF, 0x0⟩]

/-- Registers of page 0x02A. -/
def rows_02A : List RegRow :=
  [⟨0x040, 1, 0, 0x7F, 0x0, 0x0, 0x0, 0x0, 0x0, 0x0⟩,
   ⟨0x044, 1, 0, 0xFFFF, 0x0, 0x0, 0x0, 0x0, 0x0, 0x0⟩]

/-- Registers of page 0x02B. -/
def rows_02B : List RegRow :=
  [⟨0x040, 1, 0, 0x0, 0x0, 0x7FF, 0x0, 0x0, 0x0, 0x0⟩,
   ⟨0x044, 1, 0, 0x0, 0x0, 0xFFFFFFFF, 0x0, 0x0, 0x0, 0x0⟩,
   ⟨0x048, 1, 0, 0x0, 0x0, 0xFFFFFFFF, 0x0, 0x0, 0x0, 0x0⟩,
   ⟨0x04C, 1, 0, 0xFFFFFFFF, 0x0, 0x0, 0x0, 0x0, 0x0, 0x0⟩,
   ⟨0x050, 1, 0, 0xFFFFFFFF, 0x0, 0x0, 0x0, 0x0, 0x0, 0x0⟩,
   ⟨0x054, 1, 0, 0xFFFFFFFF, 0x0, 0x0, 0x0, 0x0, 0x0, 0x0⟩,
   ⟨0x058, 1, 0, 0xFFFFFFFF, 0x0, 0x0, 0x0, 0x0, 0x0, 0x0⟩,
   ⟨0x05C, 1, 0, 0x0, 0xFFFFFFFF, 0x0, 0x0, 0x0, 0x0, 0x0⟩,
   ⟨0x060, 1, 0, 0xF, 0x0, 0x0, 0x0, 0x0, 0x0, 0x0⟩,
   ⟨0x064, 1, 0, 0xFFFFFFFF, 0x0, 0x0, 0x0, 0x0, 0x0, 0x0⟩,
   ⟨0x068, 1, 0, 0xFFFFFFFF, 0x0, 0x0, 0x0, 0x0, 0x0, 0x0⟩,
   ⟨0x06C, 1, 0, 0xFFFFFFFF, 0x0, 0x0, 0x0, 0x0, 0x0, 0x0⟩,
   ⟨0x070, 1, 0, 0xFFFFFFFF, 0x0, 0x0, 0x0, 0x0, 0x0, 0x0⟩,
   ⟨0x074, 1, 0, 0x0, 0x0, 0x0, 0x0, 0xFFFFF, 0x0, 0x0⟩,
   ⟨0x078, 1, 0, 0xFFFFFFFF, 0x0, 0x0, 0x0, 0x0, 0x0, 0x0⟩,
   ⟨0x07C, 1, 0, 0x0, 0x0, 0x0, 0x0, 0x0, 0xFFFF, 0x0⟩]

/-- Registers of page 0x008. -/
def rows_008 : List RegRow :=
  [⟨0x040, 1, 0, 0xFFFFFFFF, 0x0, 0x0, 0x0, 0x0, 0x0, 0x1⟩,
   ⟨0x044, 1, 0, 0xFF, 0x0, 0x0, 0x0, 0x0, 0x0, 0x0⟩,
   ⟨0x048, 1, 0, 0x0, 0x0, 0x0, 0x0, 0x0, 0xFFFFFFFF, 0x0⟩,
   ⟨0x050, 8, 4, 0x3F, 0x0, 0x0, 0x0, 0x0, 0x3F0000, 0x0⟩]

/-- Registers of page 0x009. -/
def rows_009 : List RegRow :=
  [⟨0x040, 1, 0, 0x0, 0xFFFF, 0x0, 0x0, 0x0, 0x0, 0x1000⟩,
   ⟨0x044, 1, 0, 0x0, 0x0, 0x0, 0x0, 0x0, 0xFFFFFFFF, 0x0⟩,
   ⟨0x048, 1, 0, 0x0, 0x0, 0x0, 0x0, 0x0, 0xFFFF, 0x0⟩]

/-- Registers of page 0x010. -/
def rows_010 : List RegRow :=
  [⟨0x040, 1, 0, 0x0, 0x7FFFF, 0x0, 0x0, 0x0, 0x0, 0x40064⟩,
   ⟨0x044, 1, 0, 0xFFFFFFFF, 0x0, 0x0, 0x0, 0x0, 0x0, 0x0⟩,
   ⟨0x048, 1, 0, 0xFFFFFFFF, 0x0, 0x0, 0x0, 0x0, 0x0, 0x0⟩,
   ⟨0x04C, 1, 0, 0x0, 0x3F, 0x0, 0x0, 0x0, 0x0, 0x0⟩,
   ⟨0x050, 1, 0, 0xFFFFFFFF, 0x0, 0x0, 0x0, 0x0, 0x0, 0x0⟩,
   ⟨0x054, 1, 0, 0xFF, 0x0, 0x0, 0x0, 0x0, 0x0, 0x0⟩,
   ⟨0x058, 1, 0, 0xFFFFFF, 0x0, 0x0, 0x0, 0x0, 0x0, 0x0⟩,
   ⟨0x05C, 1, 0, 0x0, 0x0, 0x0, 0x0, 0x0, 0xFFFFFFFF, 0x0⟩]

/-- Registers of page 0x011. -/
def rows_011 : List RegRow :=
  [⟨0x040, 64, 12, 0x0, 0xFFFFFFFF, 0x0, 0x0, 0x0, 0x0, 0x0⟩,
   ⟨0x044, 64, 12, 0x0, 0xFFFBFCFF, 0x0, 0x0, 0x300, 0x0, 0x80000000⟩,
   ⟨0x048, 64, 12, 0x1FFFF7, 0x0, 0x0, 0x0, 0x0, 0x0, 0x0⟩]

/-- Registers of page 0x018 and the 3 pages after it. -/
def rows_018x4 : List RegRow :=
  [⟨0x040, 1, 0, 0xFFFFFFFF, 0x0, 0x0, 0x0, 0x0, 0x0, 0x0⟩,
   ⟨0x044, 1, 0, 0xFFFFFFFF, 0x0, 0x0, 0x0, 0x0, 0x0, 0x0⟩,
   ⟨0x048, 1, 0, 0x0, 0xFFFFFFFF, 0x0, 0x0, 0x0, 0x0, 0x0⟩,
   ⟨0x04C, 1, 0, 0x0, 0xFFFFFFFF, 0x0, 0x0, 0x0, 0x0, 0x0⟩,
   ⟨0x300, 64, 4, 0xFFFF, 0x0, 0x0, 0x0, 0x0, 0xFFFF0000, 0x0⟩]

/-- Registers of every page (R464). -/
def rowsHeader : List RegRow :=
  [⟨0x000, 1, 0, 0xFFFFFFFF, 0x0, 0x0, 0x0, 0x0, 0x0, 0x0⟩,
   ⟨0x004, 1, 0, 0xFFFFFFFF, 0x0, 0x0, 0x0, 0x0, 0x0, 0x1⟩,
   ⟨0x008, 1, 0, 0x0, 0x7, 0x0, 0x0, 0x0, 0x0, 0x1⟩,
   ⟨0x00C, 1, 0, 0xF, 0x0, 0x0, 0x0, 0x0, 0x0, 0x0⟩,
   ⟨0x010, 1, 0, 0x0, 0x0, 0x0, 0xFFFFFFFF, 0x0, 0x0, 0x0⟩,
   ⟨0x014, 1, 0, 0x0, 0xFFFFFFFF, 0x0, 0x0, 0x0, 0x0, 0x0⟩,
   ⟨0x018, 1, 0, 0xFFFFFFFF, 0x0, 0x0, 0x0, 0x0, 0x0, 0x0⟩,
   ⟨0x01C, 1, 0, 0x0, 0x0, 0x0, 0x0, 0xFFFFFFFF, 0x0, 0x0⟩,
   ⟨0x020, 1, 0, 0x800000FF, 0x0, 0x0, 0x0, 0x0, 0x0, 0x0⟩,
   ⟨0x024, 1, 0, 0xFFFFFFFF, 0x0, 0x0, 0x0, 0x0, 0x0, 0x0⟩,
   ⟨0x028, 1, 0, 0xFF, 0x0, 0x0, 0x0, 0x0, 0x0, 0x0⟩,
   ⟨0x02C, 1, 0, 0xFFFFFFFF, 0x0, 0x0, 0x0, 0x0, 0x0, 0x0⟩,
   ⟨0x030, 1, 0, 0x0, 0x0, 0x0, 0x0, 0xFFFFFFFF, 0x0, 0x0⟩,
   ⟨0x034, 1, 0, 0xFFFFFFFF, 0x0, 0x0, 0x0, 0x0, 0x0, 0x0⟩,
   ⟨0x03C, 1, 0, 0x0, 0x1, 0x0, 0x0, 0xFFFF0000, 0x0, 0x0⟩,
   ⟨0x038, 1, 0, 0x0, 0xFFFFFFFF, 0x0, 0x0, 0x0, 0x0, 0x0⟩]

/-- Registers of page 0x0C0. -/
def rows_0C0 : List RegRow :=
  [⟨0x040, 1, 0, 0xFFFFFFFF, 0x0, 0x0, 0x0, 0x0, 0x0, 0x40961D7A⟩,
   ⟨0x044, 1, 0, 0x7FF, 0x0, 0x0, 0x0, 0x0, 0x0, 0x0⟩,
   ⟨0x048, 1, 0, 0x0, 0x0, 0xFFFFF000, 0x0, 0x0, 0x0, 0x0⟩,
   ⟨0x04C, 1, 0, 0x0, 0x0, 0xFFFFFFFF, 0x0, 0x0, 0x0, 0x0⟩,
   ⟨0x050, 1, 0, 0x0, 0x0, 0x0, 0x0, 0x0, 0xFFFFFFFF, 0x0⟩]

/-- Registers of page 0x0C1. -/
def rows_0C1 : List RegRow :=
  [⟨0x040, 1, 0, 0x0, 0x0, 0x0, 0x0, 0xFF, 0x0, 0x0⟩,
   ⟨0x044, 1, 0, 0x0, 0x0, 0x0, 0x0, 0x0, 0xFFFFFFFF, 0x0⟩]

/-- Registers of page 0x0C2. -/
def rows_0C2 : List RegRow :=
  [⟨0x040, 1, 0, 0x0, 0xF, 0x0, 0x0, 0x0, 0x0, 0xF⟩,
   ⟨0x080, 128, 4, 0x0, 0xFFFFFFFF, 0x0, 0x0, 0x0, 0x0, 0x0⟩,
   ⟨0x280, 8, 4, 0xFFFFFFFF, 0x0, 0x0, 0x0, 0x0, 0x0, 0x0⟩,
   ⟨0x2A0, 64, 4, 0x0, 0xFFFFFFFF, 0x0, 0x0, 0x0, 0x0, 0x0⟩,
   ⟨0x3A0, 8, 4, 0x0, 0xFFFFFFFF, 0x0, 0x0, 0x0, 0x0, 0x0⟩,
   ⟨0x3C0, 1, 0, 0xF, 0x0, 0x0, 0x0, 0x0, 0x0, 0x0⟩]

/-- Registers of page 0x0C9. -/
def rows_0C9 : List RegRow :=
  [⟨0x040, 1, 0, 0x0, 0x1FF, 0x0, 0x0, 0x0, 0x0, 0xDA⟩,
   ⟨0x044, 1, 0, 0x0, 0x0, 0x0, 0x0, 0x0, 0xFFFFFFFF, 0x0⟩]

/-- Registers of page 0x0CA. -/
def rows_0CA : List RegRow :=
  [⟨0x040, 1, 0, 0x0, 0x3FFFF, 0x0, 0x0, 0x0, 0x0, 0x121E9⟩,
   ⟨0x044, 1, 0, 0x0, 0x0, 0x0, 0x0, 0x0, 0xFFFFFFFF, 0x0⟩]

/-- Registers of page 0x0CB. -/
def rows_0CB : List RegRow :=
  [⟨0x040, 1, 0, 0x0, 0xFFFFFFFF, 0x0, 0x0, 0x0, 0x0, 0x0⟩,
   ⟨0x044, 1, 0, 0x0, 0xFFFFFFFF, 0x0, 0x0, 0x0, 0x0, 0x0⟩,
   ⟨0x04C, 1, 0, 0x0, 0xFFFFFFFF, 0x0, 0x0, 0x0, 0x0, 0x0⟩,
   ⟨0x058, 1, 0, 0x0, 0xFFFFFFFF, 0x0, 0x0, 0x0, 0x0, 0x0⟩,
   ⟨0x05C, 1, 0, 0x0, 0xFFFFFFFF, 0x0, 0x0, 0x0, 0x0, 0x0⟩,
   ⟨0x060, 1, 0, 0x0, 0xFFFFFFFF, 0x0, 0x0, 0x0, 0x0, 0x0⟩,
   ⟨0x064, 1, 0, 0x0, 0xFFFFFFFF, 0x0, 0x0, 0x0, 0x0, 0x0⟩,
   ⟨0x048, 1, 0, 0xFFFFFFFF, 0x0, 0x0, 0x0, 0x0, 0x0, 0x0⟩,
   ⟨0x050, 1, 0, 0x0, 0xFFFFFFFF, 0x0, 0x0, 0x0, 0x0, 0x0⟩,
   ⟨0x054, 1, 0, 0x0, 0xFFFFFFFF, 0x0, 0x0, 0x0, 0x0, 0x0⟩]

/-- Registers of page 0x0C8. -/
def rows_0C8 : List RegRow :=
  [⟨0x040, 1, 0, 0xFFFFF, 0x0, 0x0, 0x0, 0x0, 0x0, 0x64⟩,
   ⟨0x044, 1, 0, 0x0, 0x0, 0x0, 0x0, 0x0, 0xFFFFFFFF, 0x0⟩]

/-- Registers of page 0x0D0. -/
def rows_0D0 : List RegRow :=
  [⟨0x040, 1, 0, 0xFFFFFF3F, 0x0, 0x0, 0x0, 0x0, 0x0, 0x0⟩,
   ⟨0x044, 1, 0, 0xFFFFFFFF, 0x0, 0x0, 0x0, 0x0, 0x0, 0x0⟩,
   ⟨0x048, 1, 0, 0x0, 0x1FFFFFF, 0x0, 0x0, 0x0, 0x0, 0x3C258⟩,
   ⟨0x04C, 1, 0, 0xFFFFFFFF, 0x0, 0x0, 0x0, 0x0, 0x0, 0x0⟩,
   ⟨0x050, 1, 0, 0xFF, 0x0, 0x0, 0x0, 0x0, 0x0, 0x0⟩,
   ⟨0x054, 1, 0, 0x1FF, 0x0, 0x0, 0x0, 0x0, 0x0, 0x0⟩,
   ⟨0x058, 1, 0, 0x0, 0x0, 0x0, 0x0, 0x1FFFFFF, 0x0, 0x0⟩]

/-- Registers of page 0x0D1. -/
def rows_0D1 : List RegRow :=
  [⟨0x040, 1, 0, 0x3F, 0x0, 0x0, 0x0, 0x0, 0x0, 0x0⟩,
   ⟨0x044, 1, 0, 0xFF, 0x0, 0x0, 0x0, 0x0, 0x0, 0x1⟩,
   ⟨0x048, 1, 0, 0xFFFFFFFF, 0x0, 0x0, 0x0, 0x0, 0x0, 0x0⟩,
   ⟨0x04C, 1, 0, 0xFFFF, 0x0, 0x0, 0x0, 0x0, 0x0, 0x0⟩,
   ⟨0x050, 1, 0, 0x7, 0x0, 0x0, 0x0, 0x0, 0x0, 0x0⟩]

/-- Registers of page 0x0B0. -/
def rows_0B0 : List RegRow :=
  [⟨0x040, 1, 0, 0x0, 0xFFFFFF, 0x0, 0x0, 0x0, 0x0, 0x3C03E8⟩,
   ⟨0x044, 1, 0, 0xFFFFFFFF, 0x0, 0x0, 0x0, 0x0, 0x0, 0x0⟩,
   ⟨0x048, 1, 0, 0xFF, 0x0, 0x0, 0x0, 0x0, 0x0, 0x0⟩,
   ⟨0x04C, 1, 0, 0x3F03FF, 0x0, 0x0, 0x0, 0x0, 0x0, 0x0⟩,
   ⟨0x050, 1, 0, 0xFFFFFFFF, 0x0, 0x0, 0x0, 0x0, 0x0, 0x0⟩,
   ⟨0x054, 1, 0, 0xFFFFFFFF, 0x0, 0x0, 0x0, 0x0, 0x0, 0x0⟩,
   ⟨0x058, 1, 0, 0x0, 0xFF, 0x0, 0x0, 0x0, 0x0, 0x0⟩,
   ⟨0x05C, 1, 0, 0xFFFFFFFF, 0x0, 0x0, 0x0, 0x0, 0x0, 0x0⟩,
   ⟨0x060, 1, 0, 0xFFFFFFFF, 0x0, 0x0, 0x0, 0x0, 0x0, 0x0⟩,
   ⟨0x064, 1, 0, 0xFFFFFFFF, 0x0, 0x0, 0x0, 0x0, 0x0, 0x0⟩,
   ⟨0x068, 1, 0, 0xFFFFFFFF, 0x0, 0x0, 0x0, 0x0, 0x0, 0x0⟩,
   ⟨0x080, 1, 0, 0x0, 0xFFFFFFFF, 0x0, 0x0, 0x0, 0x0, 0x0⟩,
   ⟨0x084, 1, 0, 0x0, 0xFFFFFFFF, 0x0, 0x0, 0x0, 0x0, 0x0⟩,
   ⟨0x088, 1, 0, 0x0, 0xFFFFFFFF, 0x0, 0x0, 0x0, 0x0, 0x0⟩,
   ⟨0x08C, 1, 0, 0x0, 0x0, 0x0, 0x0, 0xFFFFF, 0x0, 0x0⟩]

/-- Registers of page 0x0B1. -/
def rows_0B1 : List RegRow :=
  [⟨0x040, 1, 0, 0x0, 0x1FFF, 0x0, 0x0, 0x0, 0x0, 0x324⟩,
   ⟨0x044, 1, 0, 0x11F3F, 0x0, 0x0, 0x0, 0x0, 0x0, 0x10000⟩,
   ⟨0x048, 1, 0, 0xFFFFFFFF, 0x0, 0x0, 0x0, 0x0, 0x0, 0x0⟩,
   ⟨0x04C, 1, 0, 0x0, 0x0, 0x0, 0xFFFFFFFF, 0x0, 0x0, 0x0⟩,
   ⟨0x050, 1, 0, 0x0, 0xFFFFFFFF, 0x0, 0x0, 0x0, 0x0, 0x0⟩,
   ⟨0x054, 1, 0, 0x0, 0x0, 0x0, 0x0, 0x3, 0x0, 0x0⟩,
   ⟨0x058, 1, 0, 0x0, 0x0, 0x0, 0x0, 0xFFFF, 0x0, 0x0⟩,
   ⟨0x05C, 1, 0, 0xFFFFFFFF, 0x0, 0x0, 0x0, 0x0, 0x0, 0x0⟩,
   ⟨0x060, 1, 0, 0x0, 0x0, 0x0, 0x0, 0x0, 0xFFFFFFFF, 0x0⟩]

/-- Registers of page 0x001. -/
def rows_001 : List RegRow :=
  [⟨0x040, 1, 0, 0x0, 0x0, 0xFFFF, 0x0, 0x0, 0x0, 0xFFFF⟩,
   ⟨0x044, 1, 0, 0x1FFFF, 0x0, 0x0, 0x0, 0x0, 0x0, 0x0⟩,
   ⟨0x048, 1, 0, 0xF, 0x0, 0x0, 0x0, 0x0, 0x0, 0x0⟩]

/-- Registers of page 0x002. -/
def rows_002 : List RegRow :=
  [⟨0x040, 1, 0, 0x1FFF, 0x0, 0x0, 0x0, 0x0, 0x0, 0x0⟩,
   ⟨0x044, 1, 0, 0x0, 0xF, 0x0, 0x0, 0x0, 0x0, 0x0⟩,
   ⟨0x048, 1, 0, 0xFFFFFFFF, 0x0, 0x0, 0x0, 0x0, 0x0, 0x0⟩]

/-- Registers of page 0x003. -/
def rows_003 : List RegRow :=
  [⟨0x040, 1, 0, 0xFF, 0x0, 0x0, 0x0, 0x0, 0x0, 0x0⟩,
   ⟨0x044, 1, 0, 0x0, 0x0, 0x0, 0x0, 0xFFFF0007, 0x0, 0x0⟩,
   ⟨0x048, 1, 0, 0xFFFFFFFF, 0x0, 0x0, 0x0, 0x0, 0x0, 0x0⟩]

/-- Registers of page 0x004. -/
def rows_004 : List RegRow :=
  [⟨0x040, 1, 0, 0x0, 0xFFFF03, 0x0, 0x0, 0x0, 0x0, 0xA0800⟩,
   ⟨0x044, 1, 0, 0x0, 0x0, 0xFFFFFFFF, 0x0, 0x0, 0x0, 0x415A6978⟩,
   ⟨0x048, 1, 0, 0x3F, 0x0, 0x0, 0x0, 0x0, 0x0, 0x0⟩,
   ⟨0x060, 8, 4, 0xFFF, 0x0, 0x0, 0x0, 0x0, 0xFFF0000, 0xFFF0000⟩,
   ⟨0x04C, 1, 0, 0x0, 0x0, 0x0, 0x0, 0x0, 0xFFFFFFFF, 0x0⟩,
   ⟨0x050, 1, 0, 0x0, 0x0, 0x0, 0x0, 0x0, 0xFFFFFFFF, 0x0⟩]

/-- The rows of a page: first page of the run, number of pages, its registers. A page may be in two runs (MIL0). -/
def regPages : List (Nat × Nat × List RegRow) :=
  [(0x000, 1, rows_000),
   (0x001, 1, rows_001),
   (0x002, 1, rows_002),
   (0x003, 1, rows_003),
   (0x004, 1, rows_004),
   (0x008, 1, rows_008),
   (0x009, 1, rows_009),
   (0x010, 1, rows_010),
   (0x011, 1, rows_011),
   (0x018, 4, rows_018x4),
   (0x020, 1, rows_020),
   (0x021, 1, rows_021),
   (0x022, 1, rows_022),
   (0x028, 1, rows_028),
   (0x029, 1, rows_029),
   (0x02A, 1, rows_02A),
   (0x02B, 1, rows_02B),
   (0x030, 1, rows_030),
   (0x031, 1, rows_031),
   (0x032, 1, rows_032),
   (0x038, 1, rows_038),
   (0x039, 1, rows_039),
   (0x03A, 1, rows_03A),
   (0x03B, 1, rows_03B),
   (0x040, 1, rows_040),
   (0x040, 16, rows_040x16),
   (0x050, 1, rows_050),
   (0x060, 2, rows_060x2),
   (0x062, 1, rows_062),
   (0x063, 1, rows_063),
   (0x064, 1, rows_064),
   (0x065, 1, rows_065),
   (0x070, 1, rows_070),
   (0x071, 1, rows_071),
   (0x072, 1, rows_072),
   (0x073, 1, rows_073),
   (0x074, 1, rows_074),
   (0x078, 1, rows_078),
   (0x080, 16, rows_080x16),
   (0x090, 4, rows_090x4),
   (0x094, 1, rows_094),
   (0x095, 1, rows_095),
   (0x0A0, 1, rows_0A0),
   (0x0A1, 1, rows_0A1),
   (0x0B0, 1, rows_0B0),
   (0x0B1, 1, rows_0B1),
   (0x0C0, 1, rows_0C0),
   (0x0C1, 1, rows_0C1),
   (0x0C2, 1, rows_0C2),
   (0x0C8, 1, rows_0C8),
   (0x0C9, 1, rows_0C9),
   (0x0CA, 1, rows_0CA),
   (0x0CB, 1, rows_0CB),
   (0x0D0, 1, rows_0D0),
   (0x0D1, 1, rows_0D1)]

/-- The 91 register pages of R459. -/
def pageExists (p : Nat) : Bool :=
  p ≤ 0x004 || p == 0x008 || p == 0x009 || p == 0x010 || p == 0x011 || (0x018 ≤ p && p ≤ 0x01B) ||
  (0x020 ≤ p && p ≤ 0x022) || (0x028 ≤ p && p ≤ 0x02B) || (0x030 ≤ p && p ≤ 0x032) || (0x038 ≤ p && p ≤ 0x03B) ||
  (0x040 ≤ p && p ≤ 0x04F) || p == 0x050 || (0x060 ≤ p && p ≤ 0x065) || (0x070 ≤ p && p ≤ 0x074) || p == 0x078 ||
  (0x080 ≤ p && p ≤ 0x095) || p == 0x0A0 || p == 0x0A1 || p == 0x0B0 || p == 0x0B1 || (0x0C0 ≤ p && p ≤ 0x0C2) ||
  (0x0C8 ≤ p && p ≤ 0x0CB) || p == 0x0D0 || p == 0x0D1

/-- The row of offset `x` in a list of rows, with the register index. -/
def rowAt : List RegRow → Nat → Option (RegRow × Nat)
  | [], _ => none
  | r :: t, x =>
    if r.count ≤ 1 then (if x = r.off then some (r, 0) else rowAt t x)
    else if r.off ≤ x ∧ (x - r.off) % r.stride = 0 ∧ (x - r.off) / r.stride < r.count
      then some (r, (x - r.off) / r.stride) else rowAt t x

/-- The rows of page `p` (its chapter's registers). -/
def rowsOfPage (p : Nat) : List RegRow :=
  regPages.foldr (fun e acc => if e.1 ≤ p ∧ p < e.1 + e.2.1 then e.2.2 ++ acc else acc) []

/-- The register at offset `x` of page `p`, if the map has one there. -/
def regRow (p x : Nat) : Option (RegRow × Nat) :=
  if x < 0x040 then (if pageExists p then rowAt rowsHeader x else none) else rowAt (rowsOfPage p) x

/-- PAGE_ID of page `p` (R460). -/
def pageId (p : Nat) : Nat :=
  if 0x040 ≤ p ∧ p ≤ 0x04F then 0x00400000 + (p - 0x040) * 256
  else if 0x080 ≤ p ∧ p ≤ 0x08F then 0x00800000 + (p - 0x080) * 256
  else if 0x090 ≤ p ∧ p ≤ 0x093 then 0x00900000 + (p - 0x090) * 256
  else if 0x060 ≤ p ∧ p ≤ 0x061 then 0x00600000 + (p - 0x060) * 256
  else if 0x038 ≤ p ∧ p ≤ 0x03B then 0x00380000 + (p - 0x038)
  else if 0x018 ≤ p ∧ p ≤ 0x01B then 0x00180000 + (p - 0x018)
  else p * 0x10000

/-- Reset of CEQ_TARGETp (R403), in units of 10 ns. -/
def ceqTargetReset (p : Nat) : Nat := [200, 800, 5000, 2000, 10000, 1000, 500, 0].getD p 0

/-- The reset value of the register whose store key is `k`. Registers whose reset is given per instance: PAGE_ID,
CEQ_TARGETp and DAC_CTRLn.safe_hold; registers the spec resets to fused or per-part values read 0 here
(DESIGN CHOICE, log entry 3), but for key slot 0, which is programmed at manufacture (R498). -/
def regReset (k : Nat) : Word :=
  let p := k / 0x1000
  let x := k % 0x1000
  if x = 0 then BitVec.ofNat 32 (if pageExists p then pageId p else 0)
  else match regRow p x with
    | none => 0
    | some (r, i) =>
      if p = 0x029 ∧ r.off = 0x040 then BitVec.ofNat 32 (ceqTargetReset i)
      else if p = 0x078 ∧ r.off = 0x080 ∧ i < 2 then BitVec.ofNat 32 (r.reset + 4)
      else BitVec.ofNat 32 r.reset

end Sys2Proof.Machine
end

