-- ==== Sys2Proof/Machine/Sparse.lean ====
section
/-! DEFINITION. A sparse store: a list of (key, value) pairs with strictly rising keys that lists no pair equal to
what an unlisted key reads as. Registers, in-force values and memory are held in this form. -/
namespace Sys2Proof.Machine

/-- What key `k` reads as: its listed value, else the default at `k`. -/
def sparseGet {α : Type} (dflt : Nat → α) : List (Nat × α) → Nat → α
  | [], k => dflt k
  | (a, v) :: t, k => if a = k then v else sparseGet dflt t k

/-- Remove every entry for `k`. -/
def sparseErase {α : Type} : List (Nat × α) → Nat → List (Nat × α)
  | [], _ => []
  | (a, v) :: t, k => if a = k then sparseErase t k else (a, v) :: sparseErase t k

/-- Put `(k, v)` before the first larger key. -/
def sparseInsert {α : Type} : List (Nat × α) → Nat → α → List (Nat × α)
  | [], k, v => [(k, v)]
  | (a, w) :: t, k, v => if k < a then (k, v) :: (a, w) :: t else (a, w) :: sparseInsert t k v

/-- Write `v` at `k`; writing the default removes the entry, so equal stores are equal lists. -/
def sparseSet {α : Type} [DecidableEq α] (dflt : Nat → α) (l : List (Nat × α)) (k : Nat) (v : α) : List (Nat × α) :=
  if v = dflt k then sparseErase l k else sparseInsert (sparseErase l k) k v

/-- The canonical form: keys strictly rising, no entry equal to its default. -/
abbrev SparseWf {α : Type} (dflt : Nat → α) (l : List (Nat × α)) : Prop :=
  l.Pairwise (fun a b => a.1 < b.1) ∧ ∀ e ∈ l, e.2 ≠ dflt e.1

end Sys2Proof.Machine
end

