-- ==== Sys2Proof/Syntax.lean ====
section
/-! DEFINITION. The commands of the Salzar: one constructor of `Instr` per row of the spec's table of operations and
events, with what comes from outside as operands, and the types of those operands. -/
namespace Sys2Proof

/-- A fabric master (R421): M0 host, M1 DMA, M2 Reeve, M3 and M4 Carters, M5 debug. -/
inductive Initiator where
  | host | dma | reeve | carter0 | carter1 | debug
  deriving DecidableEq, Repr

/-- The master port number of R421. -/
def Initiator.port : Initiator → Nat
  | .host => 0 | .dma => 1 | .reeve => 2 | .carter0 => 3 | .carter1 => 4 | .debug => 5


/-- A field word of a vector slot (R184) without its opcode: Mill, slot (false MAC0, true MAC1) and operands. -/
structure VecOp where
  mill : Nat
  mac1 : Bool
  vd : BitVec 5
  va : BitVec 5
  vb : BitVec 5
  acc : BitVec 3
  bx : Bool
  ua : Bool
  ub : Bool
  bc : Bool
  imm : BitVec 8
  deriving DecidableEq, Repr

/-- A field word of the load/store slot (R189) without its opcode. -/
structure LsOp where
  mill : Nat
  reg : BitVec 5
  p : BitVec 4
  m : BitVec 4
  pm : Bool
  am : BitVec 2
  p2 : BitVec 4
  m2 : BitVec 4
  en2 : Bool
  ss : BitVec 2
  deriving DecidableEq, Repr

/-- A field word of the scalar slot (R193) without its opcode. -/
structure ScOp where
  mill : Nat
  d : BitVec 4
  a : BitVec 4
  imm : BitVec 10
  deriving DecidableEq, Repr

/-- The slot a NOP or an illegal operation stands in; a NOP of the load/store slot may still update addresses (R190). -/
inductive SlotOp where
  | mac (mill : Nat) (mac1 : Bool)
  | ls (op : LsOp)
  | sc (mill : Nat)
  deriving DecidableEq, Repr

/-- What was measured of a Mill's Work period (R205, R218): audio cycles from its start to EOB if EOB issued, CORE cycles
without WAITE, and the segment cycle at which each mark issued, in mark order (marks beyond the list did not issue). -/
structure MillTimes where
  mill : Nat
  eob : Option Nat
  cycles : Nat
  marks : List Nat
  deriving DecidableEq, Repr


/-- A frame received by a local port, as its pins deliver it. The line holds BCLK periods of a SAP (DIN and FS at the rising
edge in bits 0 and 1, at the falling edge in bits 2 and 3), the 5-bit symbols of MADI after NRZI, or the half-bit levels of
AES3, from the start of the frame; `period` is the frame period in ps. -/
structure PortFrameIn where
  line : List Nat
  period : Nat
  deriving DecidableEq, Repr


/-- A decoded ST 12-1 frame on LTC_IN: time address and flags as LTC_IN_TIME lays them out, user bits, detected rate code,
speed in 0.1 % of nominal, time since its boundary in ns, and whether its biphase code and sync word are valid. -/
structure LtcIn where
  time : Nat
  user : Nat
  rate : Nat
  speed : Nat
  ago : Nat
  ok : Bool
  deriving DecidableEq, Repr


/-- A write record of a Dreba frame: address of a 32-byte unit, byte strobes, the 32 bytes (R363). -/
structure WriteRec where
  addr : Nat
  strobes : Nat
  data : List Byte
  deriving DecidableEq, Repr

/-- What a CTRL frame forwards (R344, R341, R350, R357): a staged set put in force with its APPLY_RESULT code, a write to a
pair-driven page, a swap descriptor, a restart, a Crier post, cancel or injection by the words of its queue entry, the
unit ID, the configuration digest, the pair-protocol range of the running image (R507). -/
inductive CtrlIn where
  | applied (page code : Nat) (regs : List (Nat × Nat))
  | write (page off value : Nat)
  | swap (s : Nat) (fenceAll : Bool) (count : Nat)
  | restart (kind mode : Nat)
  | crier (kind : Nat) (words : List Nat)
  | uid (value : Nat)
  | digest (value : Nat)
  | range (lo hi : Nat)
  deriving DecidableEq, Repr

/-- A TRAILER frame (R363): block index, engine ESI of its boundary, hot and long digests, pair epoch, role, condition,
fault declared, drill. -/
structure TrailerIn where
  block : Nat
  esi : Nat
  hot : Nat
  long : Nat
  epoch : Nat
  role : Nat
  cond : Nat
  fault : Bool
  drill : Bool
  deriving DecidableEq, Repr


/-- What GRANARY_READ reads, and what has happened to the memory before (R390): a length in bytes, and the 64-bit words whose bits
have flipped, each by its number, true where the error cannot be corrected. -/
structure GrnSpan where
  len : Nat
  upsets : List (Nat × Bool)
  deriving DecidableEq, Repr

/-- Where a request is addressed (R454, R455): a fabric address, or an offset of a BAR of the PCIe endpoint. -/
inductive FabricPath where
  | fabric (addr : Nat)
  | bar0 (off : Nat)
  | bar2 (off : Nat)
  | bar4 (off : Nat)
  deriving DecidableEq, Repr

/-- How the target of a request answers, as far as it comes from outside (R427, R428, R458): in time, with the bytes that host
memory gives a read; with an error of host memory; or not within DEF_TIMEOUT cycles. -/
inductive TargetAnswer where
  | done (data : List Byte)
  | error
  | silent
  deriving DecidableEq, Repr


/-- The commands: one constructor per row of the table of operations and events. -/
inductive Instr where
  /-- SAMPLE_STROBE (R9): At each sample strobe of the engine rate, divided from the audio clock, the engine ESI advances by exactly one. -/
  | sampleStrobe
  /-- BLOCK_START (R18): At each block boundary the audio domain raises the block-start event, and every domain's per-block work begins. -/
  | blockStart
  /-- SNAP_ARM (R42): A write of arm to ENG_SNAP_CTRL clears valid and arms a capture at the next block boundary. -/
  | snapArm
  /-- SNAP_CAPTURE (R42): At the armed boundary the engine ESI and the timebase are captured, valid sets and snap_done sets. -/
  | snapCapture
  /-- ENG_ESI_LO_READ (R42): A read of ENG_ESI_LO returns bits [31:0] and latches bits [63:32] for that initiator. -/
  | engEsiLoRead (ini : Initiator)
  /-- REALIGN_REQUEST (R43): A write of request to ENG_REALIGN starts a realign whose fade-out begins at the next block boundary, unless a realign is already in progress. -/
  | realignRequest (value : Word)
  /-- RESTART_BEGIN (R377): At boundary A of a rate change, realign or new Mill image, the checks pass, scheduled actions are cancelled and the fade-out begins. -/
  | restartBegin
  /-- RESTART_GAP (R377): At H the last faded block has been emitted, the engine ESI stops, fades end and the gap begins. -/
  | restartGap
  /-- RESTART_AT_B (R377): Once the gap work is complete, at the first block boundary B the engine ESI is loaded, ports start anew and the fade-in begins. -/
  | restartAtB
  /-- RESTART_DONE (R377): With the emit of the last fade-in block complete, the phase reads running and restart_done and realign_done set. -/
  | restartDone
  /-- LOOSE_WRITE_IN_FORCE (R76): At the first block boundary after a write to the Live bank completes, each written word comes into force. -/
  | looseWriteInForce
  /-- ROUTE_FADE_END (R55): After n_f samples a route fade or tap crossfade ends, and the new side is presented alone. -/
  | routeFadeEnd (dest : Nat)
  /-- DEFERRED_ROUTE_CHANGE (R59): A route change deferred for lack of a fade slot begins where the older fade ends, with the value then in force. -/
  | deferredRouteChange (dest : Nat)
  /-- GEN_MODE_WRITE (R70): A write of XRD_GEN_CTRLg that changes mode restarts the generator from aux at the next boundary, and arms an impulse in impulse mode. -/
  | genModeWrite (g : Nat) (value : Word)
  /-- GEN_AUX_WRITE (R70): A write of XRD_GEN_AUXg re-arms the impulse while the mode is impulse, and otherwise only changes aux. -/
  | genAuxWrite (g : Nat) (value : Word)
  /-- IMPULSE_FIRE (R70): An armed impulse emits one full-scale sample when data time reaches its expanded ESI. -/
  | impulseFire (g : Nat)
  /-- CARRY_FORWARD_READY (R120): When the carry-forward copy into Next completes, ready sets and the swap sample is fixed for next-boundary mode. -/
  | carryForwardReady
  /-- SWAP_START (R125): When the swap block enters Gather the descriptor is latched, the banks exchange roles and the outgoing bank is locked. -/
  | swapStart
  /-- SWAP_COMPLETE (R125): After emit and the last crossfade sample, the outgoing bank is unlocked, APPLY_RESULT reads DONE and swap_done sets. -/
  | swapComplete
  /-- SWAP_CANCEL (R124): A write of cancel to SCN_CTRL cancels an armed swap whose block has not entered Gather and releases the lock. -/
  | swapCancel
  /-- RAMP_END (R114): After n_r samples a level-word ramp reaches its target, and an off target becomes 0x8000. -/
  | rampEnd (offset : Nat)
  /-- DUAL_RUN_END (R135): After n_f samples a dual-run or tap crossfade stops its old run, and the new run continues alone. -/
  | dualRunEnd (strip : Nat) (unit : Nat)
  /-- PREPARE_GO (R162): A write of go to CHN_PREP starts computing the spectra of a slot, or refuses with BUSY, ACTIVE, LENGTH or CHANNEL. -/
  | prepareGo (value : Word)
  /-- PREPARE_DONE (R162): When every partition of a prepare is transformed, the slot becomes READY and prep_done sets. -/
  | prepareDone
  /-- TAIL_READY (R154): At the tail-ready point of a Work period the late segment of every Mill starts, and WAITE 0 is satisfied. -/
  | tailReady
  /-- SWITCH_CROSSFADE_START (R164): At sample c each switching channel starts crossfading from its old slot to its new slot. -/
  | switchCrossfadeStart
  /-- SWITCH_DONE (R165): When the last channel of a switch ends its crossfade, the old slots become inactive and switch_done sets. -/
  | switchDone
  /-- JOB_GO (R167): A write of go to CHN_JOB_CTRL starts a host transform job, unless a job is busy. -/
  | jobGo (value : Word)
  /-- JOB_DONE (R167): A transform job writes its result and E and sets job_done, or ends with err on a fabric error. -/
  | jobDone
  /-- NOP (R176): An all-zero slot field does nothing. -/
  | nop (op : SlotOp)
  /-- VMUL (R185): The accumulator takes the exact product of va and b in each lane. -/
  | vmul (op : VecOp)
  /-- VMAC (R185): The accumulator adds the exact product of va and b in each lane. -/
  | vmac (op : VecOp)
  /-- VMSU (R185): The accumulator subtracts the exact product of va and b in each lane. -/
  | vmsu (op : VecOp)
  /-- VMOVA (R185): The accumulator takes va scaled by 2 to the power imm. -/
  | vmova (op : VecOp)
  /-- VADDA (R185): The accumulator adds va scaled by 2 to the power imm. -/
  | vadda (op : VecOp)
  /-- VACC (R185): The accumulator adds another accumulator. -/
  | vacc (op : VecOp)
  /-- VCLRA (R185): The accumulator is cleared. -/
  | vclra (op : VecOp)
  /-- VREDA (R185): Every lane of the accumulator takes the sum of its eight lanes. -/
  | vreda (op : VecOp)
  /-- VRND (R185): vd takes the accumulator rounded by an immediate shift and saturated. -/
  | vrnd (op : VecOp)
  /-- VRNDV (R185): vd takes the accumulator rounded by a per-lane shift from vb and saturated. -/
  | vrndv (op : VecOp)
  /-- VACCW (R185): vd takes a 32-bit window of the accumulator. -/
  | vaccw (op : VecOp)
  /-- VRSBA (R185): vd takes the redundant sign bits of the 80-bit accumulator. -/
  | vrsba (op : VecOp)
  /-- VADD (R185): vd takes the saturated sum of va and vb. -/
  | vadd (op : VecOp)
  /-- VSUB (R185): vd takes the saturated difference of va and vb. -/
  | vsub (op : VecOp)
  /-- VADDW (R185): vd takes the wrapping sum of va and vb. -/
  | vaddw (op : VecOp)
  /-- VSUBW (R185): vd takes the wrapping difference of va and vb. -/
  | vsubw (op : VecOp)
  /-- VNEG (R185): vd takes the saturated negation of va. -/
  | vneg (op : VecOp)
  /-- VABS (R185): vd takes the saturated absolute value of va. -/
  | vabs (op : VecOp)
  /-- VMIN (R185): vd takes the minimum of va and vb. -/
  | vmin (op : VecOp)
  /-- VMAX (R185): vd takes the maximum of va and vb. -/
  | vmax (op : VecOp)
  /-- VAND (R185): vd takes the bitwise AND of va and vb. -/
  | vand (op : VecOp)
  /-- VOR (R185): vd takes the bitwise OR of va and vb. -/
  | vor (op : VecOp)
  /-- VXOR (R185): vd takes the bitwise XOR of va and vb. -/
  | vxor (op : VecOp)
  /-- VSHL (R185): vd takes va shifted left by k with saturation. -/
  | vshl (op : VecOp)
  /-- VASR (R185): vd takes va shifted right arithmetically by k. -/
  | vasr (op : VecOp)
  /-- VLSR (R185): vd takes va shifted right logically by k. -/
  | vlsr (op : VecOp)
  /-- VCMPLT (R185): vd takes an all-ones mask where va is less than vb. -/
  | vcmplt (op : VecOp)
  /-- VCMPEQ (R185): vd takes an all-ones mask where va equals vb. -/
  | vcmpeq (op : VecOp)
  /-- VSEL (R185): vd takes va or vb by bit 31 of its own mask in each lane. -/
  | vsel (op : VecOp)
  /-- VRSB (R185): vd takes the redundant sign bits of va. -/
  | vrsb (op : VecOp)
  /-- VROT (R185): vd takes va rotated across lanes by imm. -/
  | vrot (op : VecOp)
  /-- VBC (R185): vd takes one lane of va in every lane. -/
  | vbc (op : VecOp)
  /-- VADDI (R185): vd takes va plus the sign-extended immediate, saturated. -/
  | vaddi (op : VecOp)
  /-- VRSUBI (R185): vd takes the sign-extended immediate minus va, saturated. -/
  | vrsubi (op : VecOp)
  /-- VEXP (R186): vd and vd+1 take the gain pair of a level word. -/
  | vexp (op : VecOp)
  /-- VLG2 (R186): vd takes the table logarithm of the accumulator. -/
  | vlg2 (op : VecOp)
  /-- VSQRT (R186): vd takes the exact integer square root of the accumulator. -/
  | vsqrt (op : VecOp)
  /-- VDIV (R186): vd takes the accumulator divided by vb, and a zero divisor sets DIV0. -/
  | vdiv (op : VecOp)
  /-- LDV (R190): A vector register is loaded from eight contiguous words. -/
  | ldv (op : LsOp)
  /-- STV (R190): A vector register is stored to eight contiguous words. -/
  | stv (op : LsOp)
  /-- LDX (R190): A vector register is loaded with a lane stride. -/
  | ldx (op : LsOp)
  /-- STX (R190): A vector register is stored with a lane stride. -/
  | stx (op : LsOp)
  /-- LDHX (R190): Sign-extended halfwords are loaded with a lane stride. -/
  | ldhx (op : LsOp)
  /-- STHX (R190): Low halfwords are stored with a lane stride. -/
  | sthx (op : LsOp)
  /-- LDBC (R190): One word is loaded into every lane. -/
  | ldbc (op : LsOp)
  /-- LDS (R190): A scalar register is loaded. -/
  | lds (op : LsOp)
  /-- STS (R190): A scalar register is stored. -/
  | sts (op : LsOp)
  /-- LDA (R190): An accumulator is loaded from 16-byte lanes. -/
  | lda (op : LsOp)
  /-- STA (R190): An accumulator is stored as 16-byte lanes. -/
  | sta (op : LsOp)
  /-- LDHV (R190): Sign-extended contiguous halfwords are loaded. -/
  | ldhv (op : LsOp)
  /-- STHV (R190): Low halfwords are stored contiguously. -/
  | sthv (op : LsOp)
  /-- PMOD (R190): The address generators update their registers with no memory access. -/
  | pmod (op : LsOp)
  /-- ADD (R193): Sd takes Sa plus Sb. -/
  | addS (op : ScOp)
  /-- SUB (R193): Sd takes Sa minus Sb. -/
  | subS (op : ScOp)
  /-- ADDI (R193): Sd takes Sa plus the sign-extended immediate. -/
  | addi (op : ScOp)
  /-- AND (R193): Sd takes Sa AND Sb. -/
  | andS (op : ScOp)
  /-- OR (R193): Sd takes Sa OR Sb. -/
  | orS (op : ScOp)
  /-- XOR (R193): Sd takes Sa XOR Sb. -/
  | xorS (op : ScOp)
  /-- SHL (R193): Sd takes Sa shifted left. -/
  | shl (op : ScOp)
  /-- ASR (R193): Sd takes Sa shifted right arithmetically. -/
  | asr (op : ScOp)
  /-- LSR (R193): Sd takes Sa shifted right logically. -/
  | lsr (op : ScOp)
  /-- LI (R193): Sd takes the sign-extended immediate. -/
  | li (op : ScOp)
  /-- SLI (R193): Sd is shifted left by 10 and takes the immediate in its low bits. -/
  | sli (op : ScOp)
  /-- MIN (R193): Sd takes the signed minimum of Sa and Sb. -/
  | minS (op : ScOp)
  /-- MAX (R193): Sd takes the signed maximum of Sa and Sb. -/
  | maxS (op : ScOp)
  /-- MVP (R193): An address register takes a scalar. -/
  | mvp (op : ScOp)
  /-- MVM (R193): An offset register takes a scalar. -/
  | mvm (op : ScOp)
  /-- MVN (R193): A length register takes a scalar. -/
  | mvn (op : ScOp)
  /-- RDP (R193): A scalar takes an address register. -/
  | rdp (op : ScOp)
  /-- RDM (R193): A scalar takes an offset register. -/
  | rdm (op : ScOp)
  /-- RDN (R193): A scalar takes a length register. -/
  | rdn (op : ScOp)
  /-- VINS (R193): A scalar is inserted into one lane of a vector register. -/
  | vins (op : ScOp)
  /-- VEXT (R193): A scalar takes one lane of a vector register. -/
  | vext (op : ScOp)
  /-- LOOP (R194): The following body runs a fixed number of times, and an illegal nesting sets ILL. -/
  | loopS (op : ScOp)
  /-- EOB (R194): The block program ends, and the Mill idles until the next block-start event. -/
  | eob (op : ScOp)
  /-- BXCLR (R193): BX is set to 31. -/
  | bxclr (op : ScOp)
  /-- BXRD (R193): A scalar takes BX. -/
  | bxrd (op : ScOp)
  /-- RDB (R195): A scalar takes one of the block words of the block in Work. -/
  | rdb (op : ScOp)
  /-- STAT (R193): A scalar takes MSW. -/
  | statS (op : ScOp)
  /-- XFER (R196): The transfer described at a Mill-store address is queued. -/
  | xfer (op : ScOp)
  /-- WAITE (R198): The Mill stalls until the tail-ready point or until its transfers are complete. -/
  | waite (op : ScOp)
  /-- ILLEGAL_OPERATION (R188): An unlisted opcode does nothing and sets ILL. -/
  | illegalOperation (op : SlotOp)
  /-- XFER_COMPLETE (R196): A queued transfer completes, releases its protected range, or sets XFER_ERR on an error. -/
  | xferComplete (mill index : Nat) (err : Bool)
  /-- END_OF_WORK (R219): At the end of a Work period each Mill's misses are decided, and the sources of missing Mills are substituted. -/
  | endOfWork (times : List MillTimes) (lateTails : List Nat)
  /-- MILL_ABORT (R223): A program without EOB by the Work start of block n+4 is aborted, and the Mill becomes hung and is reloaded. -/
  | millAbort (mill : Nat)
  /-- MILL_RELOAD_DONE (R223): After the reload, a hung Mill restarts at the next block-start event with fresh state. -/
  | millReloadDone (mill : Nat)
  /-- HALT (R226): A write of halt in Maintenance halts the Mill at EOB, and outside Maintenance it is refused and counted. -/
  | halt (mill : Nat) (value : Word)
  /-- MILL_STEP (R226): A write of step runs one block on a halted Mill and halts it again. -/
  | millStep (mill : Nat) (value : Word)
  /-- BP_EN (R227): A write of bp_en arms a breakpoint at bp_pc after bp_hit issues. -/
  | bpEn (mill : Nat) (value : Word)
  /-- BREAKPOINT_FREEZE (R227): When the breakpoint bundle reaches its issue count, the Mill freezes. -/
  | breakpointFreeze (mill : Nat)
  /-- CONT (R227): A write of cont resumes issue on a frozen Mill. -/
  | cont (mill : Nat) (value : Word)
  /-- BSTEP (R227): A write of bstep issues exactly one bundle on a frozen Mill. -/
  | bstep (mill : Nat) (value : Word)
  /-- FRAME_RECEIVE (R231): A frame accepted by NETA or NETB is stamped and routed by the ordered tests, or discarded and counted. -/
  | frameReceive (port : Nat) (fcsOk : Bool) (corrected uncorrected : Nat) (data : List Byte)
  /-- PORT_LINK_CHANGE (R230): A port gains or loses block lock and link, and link_change sets. -/
  | portLinkChange (port : Nat) (lock link fecLock localFault remoteFault : Bool)
  /-- SPEED_SEEK (R230): In auto speed, after 500 ms without lock the port changes speed between 25 and 10 Gbit/s. -/
  | speedSeek (port : Nat)
  /-- PTP_EVENT_TRANSMIT (R234): A PTP event message is sent, stamped, and its stamp inserted in one-step mode or pushed to the PTS FIFO. -/
  | ptpEventTransmit (port msg : Nat)
  /-- PACKET_LAUNCH (R249): For each set of P emit samples a transmit stream builds and sends a packet, or holds it while gated. -/
  | packetLaunch (stream : Nat) (late behind : Bool)
  /-- MEMBERSHIP_REPORT (R241): The Carters send the unsolicited IGMPv3 or MLDv2 reports for a joined group. -/
  | membershipReport (port : Nat) (ipv6 : Bool) (group : Nat)
  /-- CRI_POST (R255): A write to CRI_POST posts a slot and starts MAC resolution, or is refused with post_refused. -/
  | criPost (value : Word)
  /-- CRI_CANCEL (R255): A write to CRI_CANCEL ends a POSTED slot with result 0x04. -/
  | criCancel (value : Word)
  /-- ARP_RETRY (R255): Every 250 ms an unresolved Crier destination is requested again. -/
  | arpRetry (slot : Nat)
  /-- CRIER_PTP_RELEASE (R256): A PTP-mode frame leaves at its PTP time, is stamped, and its result is written. -/
  | crierPtpRelease (slot : Nat)
  /-- CRIER_SWAP_RELEASE (R257): A swap-mode frame leaves at emit ESI S + 3 × L + offset. -/
  | crierSwapRelease (slot : Nat)
  /-- CRI_INJECT (R261): A write to CRI_INJECT makes the Reeve stamp the injected frame and handle it as a datagram of the named filter. -/
  | criInject (value : Word)
  /-- UART_FRAME (R475): A UART frame in frame mode is stamped and handled as an injected control frame, or dropped. -/
  | uartFrame (data : List Byte)
  /-- PTS_FIFO_INFO_READ (R265): A Carter read of PTS_FIFO_INFO pops the oldest PTP stamp and latches it. -/
  | ptsFifoInfoRead (ini : Initiator)
  /-- PORT_FRAME_RECEIVE (R269): A local port receives a complete input frame into its FIFO, checking codes, parity and framing. -/
  | portFrameReceive (port : Nat) (frame : PortFrameIn)
  /-- PORT_LOST (R272): A follower without frame starts for four frame periods becomes lost and conceals. -/
  | portLost (port : Nat)
  /-- PORT_LOCK (R272): After 16 consecutive good frames a port locks, its FIFOs are centred and its inputs ramp in. -/
  | portLock (port : Nat)
  /-- MASK_CHANGE (R281): At B a staged port set comes into force, with leaving and joining slots faded, or the port restarts. -/
  | maskChange (page : Nat)
  /-- ASRC_LOCK (R290): An asrc port locks once its measured ratio has settled. -/
  | asrcLock (port : Nat) (ratio : Nat)
  /-- TIMEBASE_ADVANCE (R300): At each TIME cycle the timebase advances by 2 ns × (1 + f). -/
  | timebaseAdvance
  /-- CANDIDATE_DEVIATION (R306): Every second each candidate's deviation is computed and its suspect and disqualification limits are applied. -/
  | candidateDeviation (freqs : List (Nat × Int))
  /-- CANDIDATE_QUALIFY (R305): A candidate present without a break for qual_s qualifies. -/
  | candidateQualify (k : Nat)
  /-- WAIT_TO_RESTORE_EXPIRY (R307): When wait-to-restore expires, the candidate becomes eligible and restored sets. -/
  | waitToRestoreExpiry (k : Nat)
  /-- SLEW_END (R309): When the phase slew of a switch brings the error into the lock window, the switch completes. -/
  | slewEnd
  /-- BANDWIDTH_STEP (R313): After 4/b seconds in the lock window the reference loop narrows one rung, and Locked is reached at bw_track. -/
  | bandwidthStep
  /-- LOCK_LOSS (R311): An error outside 8 × the lock window for 1 s returns Locked to Acquiring at bw_acq. -/
  | lockLoss
  /-- HOLDOVER_EXPIRY (R311): Holdover that lasts beyond max_h hours moves to Lost. -/
  | holdoverExpiry
  /-- AVERAGE_SAVE (R316): The Reeve saves the steering averages to the settings every 3600 s in Locked and on each entry to Holdover. -/
  | averageSave
  /-- ANNOUNCE_TIMEOUT (R317): When a better master's Announce times out, a PASSIVE grandmaster port returns to MASTER. -/
  | announceTimeout (port : Nat)
  /-- TBS_OUT_ALIGN (R323): A write to TBS_OUT_ALIGN aligns the selected outputs at their next grid instant. -/
  | tbsOutAlign (value : Word)
  /-- EDGE_CAPTURE (R324): A selected edge on a capture source is stamped and recorded in the FIFO or dropped, and is offered to cues and candidates. -/
  | edgeCapture (source : Nat) (falling : Bool) (held : Nat)
  /-- EDG_INFO_READ (R336): A read of EDG_INFO pops the oldest capture and latches its stamp. -/
  | edgInfoRead (ini : Initiator)
  /-- LTC_FRAME (R325): A decoded LTC frame latches its time address, user bits and boundary stamp, and in_frame sets. -/
  | ltcFrame (frame : LtcIn)
  /-- LTC_LOST (R325): After four expected frames without a sync word the LTC decoder is lost. -/
  | ltcLost
  /-- LTC_IN_TIME_READ (R337): A read of LTC_IN_TIME latches the user bits and stamps of that frame. -/
  | ltcInTimeRead (ini : Initiator)
  /-- TBS_NOW_NS_READ (R335): A read of TBS_NOW_NS latches the seconds for that initiator. -/
  | tbsNowNsRead (ini : Initiator)
  /-- DAC_SLEW_STEP (R328): Every slew interval each DAC output moves toward its target by at most step LSB. -/
  | dacSlewStep (channel : Nat)
  /-- DAC_OVERLOAD (R330): A DAC channel at its current limit sets sc and keeps driving at the limit. -/
  | dacOverload (channel : Nat)
  /-- DREBA_LINK_UP (R362): The Dreba link comes up when all lanes lock and align, unit IDs are exchanged and matching begins. -/
  | drebaLinkUp
  /-- DREBA_LINK_DOWN (R362): The link goes down on a lost lane or 16 CRC failures, and the condition becomes DETACHED. -/
  | drebaLinkDown (lane : Option Nat)
  /-- TIME_FRAME (R340): The follower takes a leader's time mark and follows it, stepping on the first mark. -/
  | timeFrame (seq esi ns rtt : Nat)
  /-- HOT_FRAME (R348): The Standby applies or compares the Active's HOT write records. -/
  | hotFrame (seq block : Nat) (recs : List WriteRec) (asrc : List (Nat × List Word))
  /-- LONG_FRAME (R351): In COPYING the Standby stores the Active's LONG writes. -/
  | longFrame (seq block : Nat) (recs : List WriteRec)
  /-- BANK_FRAME (R344): The Standby applies the Active's bank write from its in-force boundary. -/
  | bankFrame (seq boundary addr : Nat) (data : List Byte)
  /-- CTRL_FRAME (R344): The Standby applies forwarded staged sets, commands, swap descriptors and restarts on their boundaries. -/
  | ctrlFrame (seq boundary : Nat) (item : CtrlIn)
  /-- CHUNK_FRAME (R351): The Standby stores a copied chunk of HOT, LONG or BANK content. -/
  | chunkFrame (seq addr : Nat) (data : List Byte)
  /-- TRAILER_FRAME (R348): The Standby compares the hot and long digests of a block and records the peer's role and condition. -/
  | trailerFrame (seq : Nat) (trailer : TrailerIn)
  /-- SCAN_FRAME (R349): The Standby compares the Active's chunk hashes with its own. -/
  | scanFrame (seq block : Nat) (hashes : List (Nat × Nat))
  /-- ACK_FRAME (R363): The sender releases acknowledged frames from its replay buffer. -/
  | ackFrame (seq : Nat)
  /-- NAK_FRAME (R363): The sender resends from the failed frame out of its replay buffer. -/
  | nakFrame (seq : Nat)
  /-- TRAILER_TIMEOUT (R348): A trailer missing by the end of period n+2 makes the Standby DIVERGED with reason LINK. -/
  | trailerTimeout (block : Nat)
  /-- HEARTBEAT_PULSE (R352): An alive code or a fault declaration arrives on NB_HB_IN. -/
  | heartbeatPulse (fault : Bool)
  /-- FAILURE_RECOGNISED (R353): Both paths silent for hb_blocks, or a fault declaration, make the Standby recognise failure of the Active. -/
  | failureRecognised
  /-- COPY_EXIT (R351): With every chunk sent, the Standby leaves COPYING at boundary b and enters CONFIRMING. -/
  | copyExit
  /-- CONFIRM_CLEAN (R350): After confirm consecutive clean blocks the Standby becomes READY. -/
  | confirmClean
  /-- RECOPY (R350): At the next boundary after DIVERGED, with fewer than 3 failed copies, COPYING starts again. -/
  | recopy
  /-- NBR_GRANT_WRITE (R358): A grant written through the permitted channel is checked and scheduled, or refused. -/
  | nbrGrantWrite (channel : Nat) (value : Word) (grantAt : Option Word)
  /-- GRANT_TAKE_EFFECT (R360): At the selected boundary a grant changes the role and the pair epoch. -/
  | grantTakeEffect
  /-- RESYNC (R350): A write of resync to NBR_CTRL starts COPYING from DIVERGED. -/
  | resync (value : Word)
  /-- DRILL (R361): A write of drill on a qualified Active schedules a purposeful failure, or is refused. -/
  | drill (value : Word)
  /-- DRILL_FAIL (R361): At b_d the Active stops its heartbeats, gates its output and keeps computing. -/
  | drillFail
  /-- DECLARE (R354): A write of declare makes an Active declare a fault and take Standby. -/
  | declare (value : Word)
  /-- MODE_SET (R381): The mode command writes SYS_MODE and APPLY_AT, applies, and replies with the outcome. -/
  | modeSet (header : DWord) (mode applyAt : Word)
  /-- MODE_GET (R381): The mode command replies with SYS_MODE_STATE. -/
  | modeGet (header : DWord)
  /-- MODE_DISCARD (R381): The mode command discards the SYS staged set. -/
  | modeDiscard (header : DWord)
  /-- GRANARY_WRITE (R389): A write to the Granary keeps the earlier value of a Live word in the hold buffer, or waits when the buffer is full. -/
  | granaryWrite (ini : Initiator) (addr : Nat) (data : List Byte)
  /-- GRANARY_READ (R390): A Granary read corrects single-bit errors, and returns zeros with an error on an uncorrectable word. -/
  | granaryRead (ini : Initiator) (addr : Nat) (span : GrnSpan)
  /-- ECC_WRITEBACK (R390): A corrected word is written back in the bank's next idle cycle. -/
  | eccWriteback (word : Nat)
  /-- HOLD_WAIT_PROCEED (R389): At the next block boundary a write that waited for the hold buffer proceeds. -/
  | holdWaitProceed
  /-- SWEEPER_ROW_TEST (R393): Each block period the Sweeper saves, march-tests and restores rate rows. -/
  | sweeperRowTest (outcomes : List Nat)
  /-- TAMPER (R398): A tamper input held low for 1 µs while enabled wipes the Strongroom. -/
  | tamper (pin : Nat) (low : Bool)
  /-- STR_WIPE (R398): A write of wipe to STR_CTRL by the Reeve wipes the Strongroom. -/
  | strWipe (ini : Initiator)
  /-- WIPE_DONE (R398): When a wipe completes, wiped and its cause are recorded. -/
  | wipeDone
  /-- REFRESH_DEBT_TICK (R405): Every tREFI/16 a channel's refresh debt rises by one. -/
  | refreshDebtTick (channel : Nat) (idle : Bool)
  /-- SUPERVISORY_REFRESH (R405): Every tREFI an all-bank refresh is issued when the debt is near the limit. -/
  | supervisoryRefresh (channel : Nat)
  /-- MR4_POLL (R406): Every 16 ms MR4 is read and the refresh rate is classed. -/
  | mr4Poll (channel field need trfc : Nat)
  /-- WCK2DQ_POLL (R409): Every 64 ms the WCK2DQ oscillators are read and write timing is adjusted. -/
  | wck2dqPoll (channel : Nat)
  /-- SELF_REFRESH (R409): A write of self_refresh with the engine stopped puts the Cellar into self-refresh. -/
  | selfRefresh (value : Word)
  /-- TRAINING_COMPLETE (R408): Cellar training ends in success or failure, and the start goes on to load the configuration. -/
  | trainingComplete (ok : Bool) (channel step ms size : Nat)
  /-- GLEANER_FRAME_COMPLETE (R411): A frame's final header is written and the frame is complete. -/
  | gleanerFrameComplete
  /-- GLN_MARK_AT_WRITE (R413): A write to GLN_MARK_AT sets a rewind mark and clears lost, gap and GLN_LOST. -/
  | glnMarkAtWrite (value : Word)
  /-- MARK_READY (R413): The Reeve finds the mark's frame and sets ready, gap or pending. -/
  | markReady
  /-- GLN_ADV (R415): A write to GLN_ADV moves the cursor and the read position by the frames consumed. -/
  | glnAdv (value : Word)
  /-- GLN_WRITE_LO_READ (R419): A read of GLN_WRITE_LO latches the high word of w. -/
  | glnWriteLoRead (ini : Initiator)
  /-- GLN_CURSOR_LO_READ (R419): A read of GLN_CURSOR_LO latches the high word of the cursor. -/
  | glnCursorLoRead (ini : Initiator)
  /-- FABRIC_REQUEST (R424): A master's request is arbitrated, held back for ordering and performed at its target. -/
  | fabricRequest (ini : Initiator) (chan : Nat) (path : FabricPath) (write : Bool) (len : Nat) (data : List Byte) (answer : TargetAnswer)
  /-- TARGET_TIMEOUT (R428): A target silent for DEF_TIMEOUT cycles is answered with a timeout error by the default target. -/
  | targetTimeout (ini : Initiator) (chan : Nat)
  /-- MASTER_RESET (R429): A master reset finishes its bursts on its behalf and quarantines its port. -/
  | masterReset (ini : Initiator) (flr : Bool)
  /-- QUARANTINE_END (R429): When the last outstanding response returns, the quarantine ends and the master may issue again. -/
  | quarantineEnd (ini : Initiator)
  /-- FAB_SYNC_READ (R426): A read of FAB_SYNC returns once every earlier request of the reader is performed. -/
  | fabSyncRead (ini : Initiator)
  /-- DMA_GO (R432): A write of go starts a DMA channel at its head descriptor, or sets go_refused. -/
  | dmaGo (chan : Nat) (value : Word)
  /-- DMA_ABORT (R436): A write of abort halts a DMA channel by its state with reason ABORTED. -/
  | dmaAbort (chan : Nat) (value : Word)
  /-- DESCRIPTOR_FETCH (R433): A fetched descriptor is run, polled, or halts the channel for LOOP, BUDGET or FETCH_ERR. -/
  | descriptorFetch (chan : Nat) (answer : TargetAnswer)
  /-- DESCRIPTOR_COMPLETE (R433): When every write response is in, status and residue are written back and the channel goes on or idles. -/
  | descriptorComplete (chan : Nat) (answers : List TargetAnswer) (ahead begun : Nat)
  /-- DMA_POLL (R437): Every poll interval a channel in POLL fetches the descriptor again. -/
  | dmaPoll (chan : Nat) (answer : TargetAnswer)
  /-- EVENT_RING_ROOM (R445): An entry freed in a full event ring lets the waiting channel post and go on. -/
  | eventRingRoom (ring : Nat)
  /-- SOFT_RESET (R464): A write of CTRL.soft_reset resets the block as its chapter gives it. -/
  | softReset (page : Nat)
  /-- QUEUE_PUSH (R442): A write to a queue data port pushes an entry, overwriting or refusing by the queue class. -/
  | queuePush (ini : Initiator) (q part : Nat) (value : DWord)
  /-- QUEUE_POP (R443): A read of a queue data port pops an entry, or returns NV when empty. -/
  | queuePop (ini : Initiator) (q part : Nat)
  /-- COMMAND_TAKE (R449): The Reeve takes a complete command envelope, dispatches it by subsystem and posts its reply. -/
  | commandTake (q : Nat) (flashOk blowOk : Bool) (key : List Byte)
  /-- QUEUE_NOP (R450): The queue-service NOP command replies OK with result 0. -/
  | queueNop (header : DWord)
  /-- REGISTER_WRITE (R461): A plain write to a register without a row of its own updates fields by their access types, or is ignored and counted. -/
  | registerWrite (ini : Initiator) (page off : Nat) (value : Word)
  /-- SET_ALIAS_WRITE (R461): A write through the set-bits alias sets bits of RW and RWS fields as one read-modify-write. -/
  | setAliasWrite (ini : Initiator) (page off : Nat) (value : Word)
  /-- CLEAR_ALIAS_WRITE (R461): A write through the clear-bits alias clears bits of RW and RWS fields as one read-modify-write. -/
  | clearAliasWrite (ini : Initiator) (page off : Nat) (value : Word)
  /-- REGISTER_READ_CLEAR (R6): A plain read of an RC field returns it and returns the field to its reset value. -/
  | registerReadClear (ini : Initiator) (page off : Nat)
  /-- LOCK_WRITE (R465): A write to LOCK with the key changes the page lock. -/
  | lockWrite (ini : Initiator) (page : Nat) (value : Word)
  /-- IRQ_RAW_CLEAR (R464): Each 1 written to IRQ_RAW clears that event bit. -/
  | irqRawClear (ini : Initiator) (page : Nat) (value : Word)
  /-- IRQ_TEST_WRITE (R464): Each 1 written to IRQ_TEST sets that IRQ_RAW bit as the event would. -/
  | irqTestWrite (ini : Initiator) (page : Nat) (value : Word)
  /-- APPLY (R467): A write of 0x1 to APPLY takes the pending set, or is refused while a set is pending. -/
  | applyStaged (page : Nat)
  /-- APPLY_DISCARD (R469): A write of 0x2 to APPLY copies the in-force set to staged and cancels a pending set. -/
  | applyDiscard (page : Nat)
  /-- APPLY_DUE (R469): At its apply boundary a pending set is checked and put in force, or refused. -/
  | applyDue (page : Nat)
  /-- MSX_EOI (R473): A write to MSX_EOI resends the vector's message while its state is 1. -/
  | msxEoi (value : Word)
  /-- MSIX_UNMASK (R473): Clearing a vector or function mask sends a pending message whose state is still 1. -/
  | msixUnmask (vector : Option Nat)
  /-- I2C_ACCESS (R474): An I2C transaction performs 4-byte register reads or writes through the Reeve. -/
  | i2cAccess (addr : Nat) (write : Bool) (data : List Byte) (count : Nat)
  /-- UPD_RECOVER (R486): In recovery a write of the image size makes the boot ROM check and start the Granary image. -/
  | updRecover (value : Word)
  /-- RESET_RELEASE (R484): The release of RESET_N runs the start from fuse sensing to the first engine start. -/
  | resetRelease (tamper0 tamper1 : Bool)
  /-- WARM_RESET (R547): A warm reset resets every domain but always-on, and the start runs from step 2. -/
  | warmReset (cause : Nat)
  /-- CFG_LOAD (R508): The command checks a configuration container and holds it for its rate. -/
  | cfgLoad (header : DWord) (lo hi : Word)
  /-- CFG_SAVE (R508): The command writes a held configuration to the flash store. -/
  | cfgSave (header : DWord) (rate : Word) (flashOk : Bool)
  /-- CFG_START (R508): The command restarts the engine with the held configuration of the running rate. -/
  | cfgStart (header : DWord) (force : Bool) (applyAt : Word)
  /-- CFG_LIST (R508): The command replies with the held and stored configurations of each rate. -/
  | cfgList (header : DWord)
  /-- UPD_BEGIN (R501): The command starts or resumes a download into the idle slot. -/
  | updBegin (header : DWord) (size : Word) (flashOk : Bool)
  /-- UPD_WRITE (R501): The command programs one 64 KiB block and its progress entry. -/
  | updWrite (header : DWord) (n lo hi : Word) (flashOk : Bool)
  /-- UPD_VERIFY (R502): The command checks the downloaded image and marks the slot VERIFIED or REJECTED. -/
  | updVerify (header : DWord) (flashOk : Bool)
  /-- UPD_ACTIVATE (R504): The command activates a verified image by handover or by restart. -/
  | updActivate (header : DWord) (allow : Bool) (applyAt : Word) (flashOk : Bool)
  /-- UPD_CONFIRM (R503): The command counts toward confirmation of the trial image. -/
  | updConfirm (header : DWord)
  /-- UPD_STATUS (R508): The command replies with the update registers. -/
  | updStatus (header : DWord)
  /-- SET_SAVE (R508): The command writes a record list to both settings copies. -/
  | setSave (header : DWord) (lo hi len : Word) (flashOk : Bool)
  /-- SET_DEFAULTS (R508): The command resets every settings record other than device records. -/
  | setDefaults (header : DWord) (flashOk : Bool)
  /-- LC_ADVANCE (R497): The command checks a transition token, blows the life-cycle fuses, wipes the Strongroom and resets. -/
  | lcAdvance (header : DWord) (lo hi : Word) (key : List Byte) (blowOk : Bool)
  /-- PROV_KEY (R508): The command generates a unit key and replies with its public point. -/
  | provKey (header : DWord)
  /-- PROV_CERT (R508): The command stores the unit certificate. -/
  | provCert (header : DWord) (lo hi len : Word)
  /-- UNIT_SIGN (R508): The command signs a digest with the unit key. -/
  | unitSign (header : DWord) (lo hi : Word)
  /-- LIC_WRITE (R508): The command writes bytes to the licence area. -/
  | licWrite (header : DWord) (lo hi off len : Word)
  /-- LIC_READ (R508): The command copies bytes from the licence area. -/
  | licRead (header : DWord) (lo hi off len : Word)
  /-- HANDOVER (R504): At boundary b the control cores write their handover records and jump to the new firmware. -/
  | handover
  /-- IMAGE_CONFIRM (R503): After hold_s of health the trial image is confirmed and the anti-rollback counter advances. -/
  | imageConfirm (blowOk : Bool)
  /-- CONFIRM_EXPIRY (R503): At the end of the confirm window or a fatal error the trial falls back by reverse handover or a watchdog reset. -/
  | confirmExpiry
  /-- FAULT_INACTIVE (R511): When a fault's condition ends, or its timer runs out, the fault becomes inactive. -/
  | faultInactive (id : Nat)
  /-- LATCH_CLEAR (R511): A 1 written to FLT_LATCH clears the latch of an inactive fault. -/
  | latchClear (value : Word)
  /-- FLT_ENTER (R511): A write of enter to FLT_CTRL raises the HOST fault. -/
  | fltEnter (value : Word)
  /-- FLT_LEAVE (R517): A write of leave to FLT_CTRL permits leaving fail-safe, or is ignored while a latch is set. -/
  | fltLeave (ini : Initiator) (value : Word)
  /-- FAILSAFE_ENTRY (R514): At A_f the engine-wide fade-out starts and outputs move to their fail-safe states. -/
  | failsafeEntry
  /-- FAILSAFE_LEAVE (R517): At A_l with no Safe or Fatal latch set and leave permitted, sources fade back in. -/
  | failsafeLeave
  /-- PFAIL (R523): PFAIL_N falling latches PFAIL, starts the egress fade and writes the PFAIL record. -/
  | pfail
  /-- WDOG_KICK (R521): The Reeve's write of the key to FLT_WDOG restarts the watchdog interval. -/
  | wdogKick (ini : Initiator) (value : Word)
  /-- REEVE_WDOG_EXPIRY (R521): An interval without a kick raises REEVE_WDOG. -/
  | reeveWdogExpiry
  /-- CARTER_TIMEOUT (R521): A Carter that misses its 50 ms kick raises CARTER and is reloaded. -/
  | carterTimeout (carter : Nat)
  /-- DUMP_DONE (R522): The Reeve finishes the Cellar dump and sets dump_done. -/
  | dumpDone
  /-- FLASH_DUMP_DONE (R522): The flash dump is written, and the chip resets or stays halted by fatal_reset. -/
  | flashDumpDone (flashOk : Bool)
  /-- FATAL_TIMEOUT (R522): Without dump_done 5 s after the latch, the watchdog resets the chip. -/
  | fatalTimeout
  /-- ROLL_REPORT (R527): A report reaching the Roll intake updates counts and writes a detailed entry or coalesces. -/
  | rollReport (page code : Nat) (d0 d1 : Word) (value : Option Word) (held : Bool)
  /-- ROLL_WINDOW_END (R527): At each Roll window end every source's window count goes to its bin and is reset. -/
  | rollWindowEnd
  /-- ROL_REP_GO (R536): A write to ROL_REP_GO by a control core sends its report to the Roll. -/
  | rolRepGo (ini : Initiator) (value : Word)
  /-- ROLL_COPY (R532): Every flush_min minutes, and on entry to fail-safe, a Roll copy is written to flash. -/
  | rollCopy (flashOk : Bool)
  /-- ROLL_FLUSH (R535): The command writes a Roll copy to flash. -/
  | rollFlush (header : DWord) (flashOk : Bool)
  /-- ROLL_CLEAR (R535): The command clears the selected Roll counts and areas. -/
  | rollClear (header : DWord) (what : Word)
  /-- DUMP_INFO (R535): The command replies with the held dumps. -/
  | dumpInfo (header : DWord)
  /-- DUMP_COPY (R535): The command copies the flash dump to the Cellar. -/
  | dumpCopy (header : DWord) (lo hi : Word)
  /-- DUMP_CLEAR (R535): The command erases the flash dump area and clears the Cellar dump. -/
  | dumpClear (header : DWord) (flashOk : Bool)
  /-- PFAIL_COPY (R535): The command copies the PFAIL area to the Cellar. -/
  | pfailCopy (header : DWord) (lo hi : Word)
  /-- DOMAIN_SWITCH_DONE (R542): When every domain reaches its new state, APPLY_RESULT reads DONE. -/
  | domainSwitchDone
  /-- PLL_LOSS (R544): A loss of lock of a core PLL causes a warm reset with cause CLOCK. -/
  | pllLoss (pll : Nat)
  /-- VCXO_CHECK (R545): Every 1 ms the VCXO in use is measured, and the audio PLL moves to or from the synthesiser. -/
  | vcxoCheck (ppm : Option Int)
  /-- CHIP_RESET_WRITE (R548): The Reeve's keyed write of chip to RST_CTRL causes a warm chip reset. -/
  | chipResetWrite (ini : Initiator) (value : Word)
  /-- CARTER_RESET (R548): A write of carter0 or carter1 to RST_CTRL by the Reeve resets that Carter. -/
  | carterReset (ini : Initiator) (value : Word)
  /-- THROTTLE_TRIP (R550): A sensor below a trip level moves the throttle to the deepest tripped step, and under_floor sets below the under level. -/
  | throttleTrip (sensor mv : Nat)
  /-- THROTTLE_RELEASE (R550): After release_us above the level plus hysteresis, the throttle moves one step shallower. -/
  | throttleRelease (readings : List Nat) (floorUs : Nat)
  /-- PATH_SILENT (R353): At b + 40 µs a heartbeat missing on one path counts, and hb_blocks misses on a single path set path_alarm, or on an Active set peer_lost. -/
  | pathSilent
  /-- FW_FATAL (R511): The Reeve's firmware finds its own state inconsistent, or meets an uncorrectable error in its own memory, and raises the Fatal fault FW_FATAL. -/
  | fwFatal
  /-- PFAIL_N_RISE (R511): PFAIL_N returns high and starts the 100 ms during which it must stay high before the PFAIL fault becomes inactive. -/
  | pfailNRise
  /-- PLL_RELOCK (R544): Once every core PLL has relocked, the warm reset with cause CLOCK is released and the start runs from step 2. -/
  | pllRelock (pll : Nat)
  /-- PCIE_LINK_CHANGE (R457): The PCIe link comes up or goes down, including on loss of the PCIe reference; PCI_LINK changes, link_change sets, and on loss master M0 is reset. -/
  | pcieLinkChange (up : Bool) (speed width : Nat)
  /-- PCIE_CONFIG_WRITE (R456): A host configuration write changes Bus Master Enable, MSI-X enable or the power state, so that D3hot makes the BARs unreachable and BME = 0 fails outbound requests. -/
  | pcieConfigWrite (bme msixEn fmask d3hot : Bool)
  /-- LATE_RESPONSE (R428): A target response that arrives after its request timed out is discarded and counted in DEF_LATE, or, for PCIe, in PCI_ERRORS.cpl. -/
  | lateResponse (ini : Initiator)
  /-- ANNOUNCE_MESSAGE (R319): A port in MASTER sends an Announce at its interval, advertising priority, clockClass and time source, or holds it in role Standby or Proving. -/
  | announceMessage (port : Nat)
  /-- CANDIDATE_PRESENCE_LOSS (R304): A reference candidate whose signal stops or leaves its presence window stops being present and at once stops being qualified. -/
  | candidatePresenceLoss (k : Nat)
  /-- DREBA_CRC_ERROR (R363): A Dreba frame that fails its CRC is answered with a NAK and counted, and 16 such frames in a row take the link down. -/
  | drebaCrcError
  /-- GAP_HEARTBEAT (R380): During the gap of a restart each chip of a pair sends both heartbeats on the old block period, timed from the timebase. -/
  | gapHeartbeat
  /-- REVERSE_HANDOVER_TIMEOUT (R503): A reverse handover not completed within 1 s of the fallback leads to a watchdog reset that sets the confirm-expiry flag. -/
  | reverseHandoverTimeout
  /-- PFAIL_RECORD_WRITTEN (R531): The flash program of the PFAIL record completes, the slot is used, and pfail_written sets. -/
  | pfailRecordWritten
  deriving DecidableEq, Repr

end Sys2Proof
end

