-- ==== Sys2Proof/Machine/State.lean ====
section
/-! DEFINITION. The state of the Salzar as plain data: its registers, memories, buffers, engines and pins, and the
queue of the commands that wait. -/
namespace Sys2Proof.Machine


/-- A bus response as its master sees it: the data (bytes as a little-endian number) and whether it is an error
response. The model's own field holds the latest one. -/
structure Resp where
  ini : Initiator
  data : Nat
  err : Bool
  deriving DecidableEq, Repr

/-- What leaves the chip: frames, messages, pulses and codes, oldest first. The model's own record of its outputs. -/
inductive Out where
  /-- an Ethernet frame sent on port `port` (0 NETA, 1 NETB), with the timebase (ns since the epoch) at which it left -/
  | frame (port : Nat) (atNs : Nat) (data : List Byte)
  /-- the MSI-X message of a vector (R473) -/
  | msi (vector : Nat)
  /-- a write to host memory through PCIe (R458) -/
  | pcieWrite (addr : Nat) (data : List Byte)
  /-- a local-port output frame: port key (0–15 SAP, 16–19 MADI, 20–21 AES3), V = 0, the channel-status bit, a Z
  preamble, slot words (none: high impedance or inactive), and the frame as it stands on the line: BCLK periods of a SAP,
  5-bit symbols of MADI, half-bit levels of AES3 (R275, R285–R287) -/
  | portFrame (key : Nat) (valid c z : Bool) (slots : List (Option Nat)) (line : List Nat)
  /-- a frame sent over the Dreba link (R363): type, sequence number and content, and its bytes -/
  | dreba (kind : Nat) (data : List Nat) (frame : List Byte)
  /-- a heartbeat code on NB_HB_OUT (R352) -/
  | heartbeat (code : Nat)
  /-- an MR command, refresh or pattern to the LPDDR5 devices: channel, command -/
  | cellar (channel command : Nat)
  /-- a UART console line or an I2C response byte string -/
  | serial (data : List Byte)
  /-- a rising edge of a clock or pulse output (R322): output, instant and high time (ns) -/
  | clockOut (output atNs highNs : Nat)
  /-- an ST 12-1 frame that starts on LTC_OUT: instant (ns), time address as LTC_IN_TIME lays it out, user bits (R322) -/
  | ltc (atNs time user : Nat)
  /-- a DAC channel's output (R326, R328): channel, code, G, and the voltage in nV where the reference is the internal one -/
  | dac (channel code gain : Nat) (nv : Option Nat)
  /-- a message between control cores: recipient, kind, content -/
  | note (kind : Nat) (data : List Nat)
  deriving DecidableEq, Repr

/-- A pending set of a page (R467): the staged set as copied at acceptance, by offset within the page. -/
structure PendSet where
  page : Nat
  /-- the boundary at which it comes due -/
  due : Nat
  /-- the boundary was late (R15) -/
  late : Bool
  /-- non-zero APPLY_AT accepted in a gap and expanded at B (R468) -/
  atGap : Option Nat
  copy : List (Nat × Word)
  deriving DecidableEq, Repr

/-- Engine time (chapter *Engine time, blocks and Psiras tags*), beside its registers. -/
structure Eng where
  /-- the engine ESI (R9, R11) -/
  esi : DWord
  /-- bits [63:32] of the ESI latched per initiator by ENG_ESI_LO (R42), by master port -/
  esiLatch : List (Nat × Word)
  /-- a snapshot is armed (R42) -/
  snapArmed : Bool
  /-- a realign request waits for its boundary A (R43) -/
  realign : Bool
  /-- the sample blocks of the three buffer sets (R21): key set × 16384 + source index; absent blocks are zeros.
  Their tags stand in the Granary at R34's addresses. -/
  blocks : List (Nat × List Word)
  /-- Route-stage presentations of the block in Route, by destination: tag and samples (transmit staging) -/
  staged : List (Nat × Nat × List Word)
  /-- presentations of the block in Emit -/
  emitting : List (Nat × Nat × List Word)
  /-- presentations of the blocks in Emit and before it, by block index, newest first: what a packet still carries -/
  sent : List (Nat × List (Nat × Nat × List Word))
  /-- B of the current run: the ESI loaded at the latest start of the engine ESI (R10) -/
  start : Nat
  /-- scene and route count in force at the last sample of the latest blocks, by block index, newest first (R27) -/
  epochs : List (Nat × Nat × Nat)
  /-- sample periods of the audio clock in the latest restart gap (R378) -/
  gapTicks : Nat
  deriving DecidableEq, Repr

/-- A route fade or tap crossfade in progress (R55–R58, R65). -/
structure RFade where
  oldSrc : Nat
  oldPad : Nat
  newSrc : Nat
  newPad : Nat
  /-- the change sample, in data time -/
  start : Nat
  /-- n_f -/
  len : Nat
  /-- 0 equal-gain, 1 equal-power -/
  law : Nat
  /-- a tap crossfade (R65) -/
  tap : Bool
  deriving DecidableEq, Repr

/-- One Crossroads destination in force. -/
structure Dest where
  /-- the in-force patch-table entry (R48) -/
  entry : Nat
  /-- the source the destination is at, or is fading to -/
  src : Nat
  /-- fb in force from the latest route change (R52) -/
  fb : Bool
  /-- presentation delay in blocks (R63) -/
  pad : Nat
  /-- fades not yet presented to their end, oldest first (R58) -/
  fades : List RFade
  /-- a route change waits for the older of two fades to end, at this data time (R59) -/
  deferred : Option Nat
  deriving DecidableEq, Repr

/-- A test generator in force (R70). -/
structure Gen where
  mode : Nat
  level : Nat
  freq : Nat
  aux : Nat
  phase : Nat
  noise : Nat
  /-- the 64-bit ESI at which an armed impulse fires -/
  armed : Option Nat
  /-- the ESI at which the impulse of the block in Gather fired -/
  fired : Option Nat
  /-- a mode write waits for the next boundary -/
  modeWrite : Bool
  /-- an aux write waits for the next boundary -/
  auxWrite : Bool
  /-- a level or frequency write waits for the next boundary -/
  otherWrite : Bool
  deriving DecidableEq, Repr

/-- The state of one meter point (R103, R104). -/
structure Meter where
  power : Nat
  held : Int
  amp : Nat
  count : Nat
  deriving DecidableEq, Repr

/-- The Crossroads (chapter 2), beside its registers. -/
structure Xrd where
  /-- destinations in force; an absent one is unpatched -/
  dests : List (Nat × Dest)
  /-- source-table entries in force (R50); absent 0 -/
  srcTab : List (Nat × Nat)
  /-- group floors in force (R51); absent 0 -/
  groups : List (Nat × Nat)
  gens : List (Nat × Gen)
  /-- meter taps by tap number -/
  taps : List (Nat × Meter)
  /-- places at which history rings took their latest blocks, by source: block and address, newest first (R64) -/
  rings : List (Nat × List (Nat × Nat))
  /-- the sample at which the route count last advanced (R36) -/
  routeAt : Option Nat
  deriving DecidableEq, Repr

/-- Biquad state (R79). -/
structure Biquad where
  x1 : Int
  x2 : Int
  y1 : Int
  y2 : Int
  deriving DecidableEq, Repr

/-- The processing state of a strip that a dual-run copies (R134): biquads 0–14, gate, compressor and limiter. -/
structure Proc where
  bq : List Biquad
  gateP : Nat
  gateZ : Int
  gateOpen : Bool
  gateHold : Nat
  compP : Nat
  compZ : Int
  limZ : Int
  deriving DecidableEq, Repr

/-- A dual-run crossfade of one unit (R133–R136): the old run's fields (the record's words) and state. -/
structure DualRun where
  unit : Nat
  record : List Nat
  proc : Proc
  /-- the comp_makeup word applied at S - 1 (R136, R139) -/
  makeup : Nat
  /-- the old run of a dual-class insert program returns samples of its own (R217) -/
  program : Bool
  start : Nat
  len : Nat
  deriving DecidableEq, Repr

/-- How a send contributes to a bus or matrix (R100–R102): tap code, bank offset of the governing level word, and pan side
(0 none, 1 left, 2 right). -/
structure SendForm where
  tap : Nat
  levelAt : Nat
  side : Nat
  deriving DecidableEq, Repr

/-- A tap crossfade (R137): `which` 0 delay, 1 direct out, 2 + b the send to bus or matrix b; the old delay or direct
tap, or the old form of the send (none: it contributed nothing), with the pan gain and mute_sends it had at S - 1. Where a
send changes form without a crossfade, `len` is 0. -/
structure TapFade where
  which : Nat
  oldVal : Nat
  form : Option SendForm
  pan : Int
  muteSends : Bool
  start : Nat
  len : Nat
  deriving DecidableEq, Repr

/-- One active strip: kind × 4096 + index, kind 0 input, 1 bus, 2 matrix. -/
structure Strip where
  proc : Proc
  duals : List DualRun
  tapFades : List TapFade
  /-- meters: input, post-dynamics, post-fader -/
  meters : List Meter
  /-- delay line, newest first; held in the Cellar (R97) -/
  line : List Int
  /-- the signals of the latest blocks by block index: x1, x2, x3, x4, x5, x6, x8 of an input strip (R82); z1, z1, z2,
  z3 after insert A, z3, z4, z6 of a bus or matrix (R98); then the direct out of an input strip -/
  taps : List (Nat × List (List Int))
  /-- tags of an input strip's presented inputs, by block index (R27, R29) -/
  heard : List (Nat × Nat)
  /-- what was metered in the latest blocks, by block index: as the four fields below (R86, R105) -/
  metered : List (Nat × Int × Int × Nat × Nat)
  /-- metered in the block: most negative compressor and gate or limiter reductions, gate state, limiter clamps -/
  grComp : Int
  grGate : Int
  gateState : Nat
  clamps : Nat
  deriving DecidableEq, Repr

/-- A ramp of a level word (R114, R115), keyed by the bank byte offset of its word (the mute stage by its FLAGS word). -/
structure Ramp where
  start : Int
  delta : Int
  /-- data-time ESI of sample i = 0 -/
  at0 : Nat
  len : Nat
  /-- the target level word, 16 bits -/
  target : Nat
  /-- the level word applied before sample i = 0 -/
  before : Nat
  deriving DecidableEq, Repr

/-- A pan-gain ramp of a strip (R117), keyed by the bank byte offset of the strip's own pan word. -/
structure PanRamp where
  l0 : Int
  r0 : Int
  l1 : Int
  r1 : Int
  at0 : Nat
  len : Nat
  deriving DecidableEq, Repr

/-- The swap descriptor latched at n × L (R125). -/
structure SwapDesc where
  s : Nat
  fenceAll : Bool
  count : Nat
  /-- the new counts have advanced at S (R126) -/
  counted : Bool
  /-- the Mills and the Crossroads have switched at S -/
  switched : Bool
  /-- at least one route changes at S -/
  routes : Bool
  /-- the recalled words as the incoming bank held them at n × L: offset, recalled bits, word (R140) -/
  words : List (Nat × Nat × Word)
  deriving DecidableEq, Repr

/-- Scenes, safe-load and ramps (chapter 4) and strips (chapter 3), beside their registers. -/
structure Scn where
  /-- words of the Live bank in force, by bank byte offset (multiples of 4); unlisted 0 -/
  force : List (Nat × Word)
  /-- loose writes that wait for the next boundary, oldest first: Granary address of the word and its value (R76, R68) -/
  loose : List (Nat × Word)
  /-- fence table words of the armed swap (R129), by word offset -/
  fence : List (Nat × Word)
  /-- the swap sample once fixed (R121) -/
  swapAt : Option Nat
  /-- S fixed by ESI at the arm (R121 mode 0b00) -/
  armAt : Nat
  /-- a cue has fixed c (R122); a cue held until ready -/
  cue : Option Nat
  desc : Option SwapDesc
  /-- latest data time at which a dual-run or tap crossfade of the swap ends (R125 step 6) -/
  lastFade : Nat
  ramps : List (Nat × Ramp)
  panRamps : List (Nat × PanRamp)
  /-- the program order of the Work stage: keys of strips, and 3 × 4096 + v for convolution channel v -/
  program : List Nat
  /-- active strips -/
  strips : List (Nat × Strip)
  /-- insert-program parameter areas hosted at strip insert points: bank offset, bytes, strip key (R130) -/
  insAreas : List (Nat × Nat × Nat)
  deriving DecidableEq, Repr

/-- A Churn switch in force (R163–R166). -/
structure ChnSwitch where
  mode : Nat
  /-- switching channels with their target slots (0 A, 1 B) -/
  chans : List (Nat × Nat)
  /-- the boundary A -/
  start : Nat
  /-- the crossfade sample c, once fixed -/
  c : Option Nat
  /-- n_f of each crossfade, once it has started -/
  fade : Option Nat
  deriving DecidableEq, Repr

/-- The Churn (chapter 5), beside its registers, the Cellar areas of R158 and the Granary areas of R159. -/
structure Chn where
  /-- fast-group spectra in Churn working memory: key (channel × 2 + slot) × 4 + partition -/
  fast : List (Nat × List (Int × Int))
  /-- fast-group input spectra, newest first, by channel -/
  fastHist : List (Nat × List (List (Int × Int)))
  /-- group 0's frame in Churn working memory, oldest sample first, by channel (R150, R159) -/
  frames : List (Nat × List Int)
  /-- output segments of Cellar groups: key (channel × 2 + slot) × 32 + group; (first data time, samples) -/
  outs : List (Nat × List (Nat × List Int))
  /-- tails of the block in Work by channel × 2 + slot -/
  tails : List (Nat × List Int)
  /-- the latest L - 1 presented inputs, newest first, by channel (R148) -/
  past : List (Nat × List Int)
  /-- channels whose tail of the block in Work is written (R154) -/
  tailReady : Bool
  sw : Option ChnSwitch
  /-- length in taps of the prepare that runs (R162) -/
  prepLen : Nat
  /-- the running transform job: log2 of its points, inverse, source, destination (R167) -/
  job : Nat × Bool × Nat × Nat
  deriving DecidableEq, Repr


/-- One register lane or register of a Mill (R169). -/
inductive MReg where
  | v (i lane : Nat) | a (i lane : Nat) | p (i : Nat) | m (i : Nat) | n (i : Nat) | s (i : Nat)
  deriving DecidableEq, Repr

/-- A result that is not visible yet (R178): the bundle from which it is, the slot's rank (3 load/store, 2 MAC1, 1 MAC0,
0 scalar), the bundle that issued it, whether the MAC group wrote it, and the value as an unsigned number. -/
structure MWrite where
  at' : Nat
  rank : Nat
  issued : Nat
  mac : Bool
  dst : MReg
  val : Nat
  deriving DecidableEq, Repr

/-- A running loop (R194). -/
structure MLoop where
  first : Nat
  last : Nat
  remaining : Nat
  deriving DecidableEq, Repr

/-- A transfer in flight (R196); `out` moves out of the Mill store. -/
structure MXfer where
  far : Nat
  out : Bool
  local' : Nat
  len : Nat
  block : Nat
  deriving DecidableEq, Repr

/-- What a stalled Mill waits for (R182, R198): the tail-ready point, its transfers, or room for the transfer whose
descriptor stands at an address. -/
inductive MWait where
  | none | tail | xfers | room (addr : Nat)
  deriving DecidableEq, Repr

/-- What the scalar slot makes of the program counter after the bundle. -/
inductive MNext where
  | seq | loop (first last count : Nat) | eob
  deriving DecidableEq, Repr

/-- One Mill (R169, R170) beside its MIL page. Register lanes are sparse: an unlisted one is 0. -/
structure Mill where
  /-- V lanes by 8 × register + lane, 32 bits each -/
  v : List (Nat × Nat)
  /-- A lanes by 8 × register + lane, 80 bits each -/
  a : List (Nat × Nat)
  p : List (Nat × Nat)
  m : List (Nat × Nat)
  n : List (Nat × Nat)
  sc : List (Nat × Nat)
  bx : Nat
  msw : Nat
  pc : Nat
  /-- innermost first, at most four -/
  loops : List MLoop
  /-- bundles issued in this block -/
  k : Nat
  writes : List MWrite
  /-- smallest redundant-sign count written with bx = 1 in this bundle -/
  bxMin : Option Nat
  bxClr : Bool
  /-- flags set by the operations of this bundle -/
  flags : Nat
  next : MNext
  xfers : List MXfer
  wait : MWait
  /-- a block program runs: its EOB has not issued -/
  busy : Bool
  /-- the block whose program runs or ran last -/
  block : Nat
  /-- scene and route counts, and block words 2 and 3, of the block whose program runs (R195, R221) -/
  scene : Nat
  route : Nat
  swapOfs : Nat
  sinceSwap : Nat
  /-- MSW of the block has been handed to the MIL page -/
  handed : Bool
  /-- a store of the block hit a protected or foreign source after the deadline: source writes are dropped (R221) -/
  overrun : Bool
  /-- blocks skipped because a program still ran (R221) -/
  skipped : List Nat
  /-- blocks not run because the Mill was halted, stepped or frozen (cause 0x8) -/
  debugged : List Nat
  /-- own misses of the latest 64 blocks, newest first -/
  missed : List Bool
  /-- blocks since a miss of any kind -/
  clean : Nat
  /-- blocks of the four-block ramp that remain -/
  ramp : Nat
  /-- issues of the breakpoint bundle in this block -/
  bpSeen : Nat
  /-- the next block is stepped -/
  stepNext : Bool
  /-- the block that runs is stepped: the Mill halts after it (R226, R227) -/
  stepping : Bool
  /-- the reload after an abort is complete (R223) -/
  reloaded : Bool
  /-- aborted and not restarted: blocks report cause 0x7 -/
  aborted : Bool
  deriving DecidableEq, Repr

/-- One insert instance of the Mill image (R214): host word, latency, class, area, area size, state size. -/
structure Insert where
  host : Nat
  latency : Nat
  dual : Bool
  area : Nat
  size : Nat
  state : Nat
  deriving DecidableEq, Repr

/-- The Mills (chapters 6 and 7). -/
structure Mils where
  /-- by Mill number; an absent one is `Mill.fresh` -/
  mills : List (Nat × Mill)
  /-- sources under a substitute (0) or in the k-th block of a four-block ramp (k = 1–4), of R220 -/
  subst : List (Nat × Nat)
  inserts : List Insert
  /-- the tail-ready point of the current Work period has passed -/
  tail : Bool
  /-- bytes of source frames that programs wrote in this Work stage, by 512 × source + offset; an unlisted one reads 0 (R173) -/
  frames : List (Nat × Nat)
  deriving DecidableEq, Repr


/-- Counters of one stream (R263), shown through the STAT registers. -/
structure StreamStat where
  pktA : Nat
  pktB : Nat
  late : Nat
  early : Nat
  dup : Nat
  format : Nat
  concealed : Nat
  stale : Nat
  /-- smallest e - A; none until a packet matches -/
  margin : Option Int
  deriving DecidableEq, Repr

/-- A receive stream in force (R242–R248). -/
structure RxStream where
  /-- samples by stream data time V + j + offset: one raw word of w bytes for each channel -/
  ring : List (Nat × List Nat)
  /-- Psiras tags by block data time, one for each channel; 2^64 stands for a tag that R31 discards -/
  tags : List (Nat × List Nat)
  /-- stream data times marked late -/
  late : List Nat
  /-- the latest accepted sequence numbers, newest first, at most 1024 -/
  seqs : List Nat
  /-- under substitution: a substitute has been written on some channel and the last ramp has not ended -/
  concealing : Bool
  /-- a complete block has been presented since the stream was enabled (R248) -/
  started : Bool
  deriving DecidableEq, Repr

/-- A packet built by a transmit stream: stream, path (0 A, 1 B), port, first emit ESI and emit samples, and the frame from its
destination MAC address on. -/
structure TxPacket where
  stream : Nat
  path : Nat
  port : Nat
  e : Nat
  len : Nat
  data : List Byte
  deriving DecidableEq, Repr

/-- A membership (R241): port, IPv6, group, source addresses (none: EXCLUDE of no sources), unsolicited reports still to
send. -/
structure Member where
  port : Nat
  ipv6 : Bool
  group : Nat
  sources : List Nat
  reports : Nat
  deriving DecidableEq, Repr

/-- A stamp of a PTP event message (R265). -/
structure PtsStamp where
  info : Nat
  ns : Nat
  sec : Nat
  deriving DecidableEq, Repr

/-- A transmit stream that an APPLY disabled or changed and whose last packets still go: stream, boundary A, its
descriptor, and the first emit ESI of its next packet (R251). -/
structure TxEnding where
  stream : Nat
  until' : Nat
  desc : List Byte
  next : Nat
  deriving DecidableEq, Repr

/-- Network, streams and the Crier (chapter 8), beside their registers and Granary areas. -/
structure Net where
  rx : List (Nat × RxStream)
  rxStats : List (Nat × StreamStat)
  txStats : List (Nat × StreamStat)
  /-- packets held by the gate, oldest first (R252) -/
  held : List TxPacket
  /-- transmit streams in force: the least stream sample index that the next packet may start with -/
  txFrom : List (Nat × Nat)
  ending : List TxEnding
  /-- receive channels whose stream was disabled: they present one more substitute -/
  leaving : List Nat
  members : List Member
  /-- ARP and neighbour caches of the ports: port, IPv6 and address as one key, and the MAC address -/
  neighbours : List (Nat × Nat)
  /-- POSTED Crier slots in posting order -/
  posted : List Nat
  /-- swaps whose descriptor reached the Crier: low 16 bits of the new scene count, and S -/
  swaps : List (Nat × Nat)
  pts : List PtsStamp
  /-- Crier frames that fell due while the gate was closed: slot, engine ESI, and the frame of each port (R258, R356) -/
  crier : List (Nat × Nat × List (Nat × List Byte))
  deriving DecidableEq, Repr


/-- One input frame of a local port: slot or channel words as port words, the slots with an error, the inactive ones, and
validity V = 1. -/
structure PFrame where
  words : List Nat
  errs : List Nat
  inactive : List Nat
  invalid : Bool
  deriving DecidableEq, Repr

/-- An output frame on its way to the pins: its output mask, and for each position the sample with the factor and shift of
a mask fade (1 and 0 with none). -/
structure OutFrame where
  mask : Nat
  vals : List (Int × Nat × Nat)
  deriving DecidableEq, Repr

/-- A local port, beside its page; key 0–15 SAP, 16–19 MADI, 20–21 AES3. Slot words are none where a slot is at high
impedance or a channel inactive. -/
structure Port where
  /-- complete input frames waiting, oldest first; while the port is not locked, the latest 16 -/
  inFifo : List PFrame
  /-- frames read at strobes, by data time (port data time for a half-rate port), newest first -/
  gather : List (Nat × PFrame)
  /-- output frames waiting in the output FIFO of a SAP follower, oldest first -/
  outFifo : List OutFrame
  /-- frames that the output FIFO held when a restart began, as words and on the line (R295) -/
  drain : List (List (Option Nat) × List Nat)
  /-- latest engine samples by output position, newest first: for the decimator -/
  hist : List (Nat × List Int)
  /-- the slot words sent last, and the samples they were made from -/
  sentWords : List (Option Nat)
  sentVals : List Int
  /-- consecutive good frames, the period of the first of them in ps, consecutive framing failures -/
  good : Nat
  period : Nat
  bad : Nat
  /-- data times (the port's own) of samples that input slips affected -/
  slips : List Nat
  /-- samples sent since an output slip, and the samples sent before it -/
  outSlip : Option (Nat × List Int)
  /-- the output FIFO is re-centred at the next boundary -/
  outCentre : Bool
  /-- input and output positions that joined at boundary B of their ramp: position, B -/
  joins : List (Nat × Nat)
  joinsOut : List (Nat × Nat)
  /-- the port is silent until this boundary (restart of R295) -/
  silentTo : Option Nat
  /-- frame rate divided by Fs as measured, Q4.28 -/
  ratio : Nat
  asrcLocked : Bool
  /-- channel status being received: position within the block, bits so far -/
  csPos : Option Nat
  csAcc : Nat
  /-- the latest block shown -/
  rxCs : Option Nat
  /-- position of the transmitter within its 192-frame block, and the block it sends -/
  zPos : Nat
  txCs : Nat
  deriving DecidableEq, Repr

/-- The local ports and the ASRC bank (chapter 9): ports started, by key. -/
structure Ports where
  ports : List (Nat × Port)
  deriving DecidableEq, Repr


/-- A reference candidate of the Steeple (R304–R307). -/
structure Cand where
  present : Bool
  qualified : Bool
  suspect : Bool
  everQualified : Bool
  eligible : Bool
  /-- wait-to-restore seconds left, while it runs -/
  wtr : Option Nat
  /-- fractional frequency against REF25, in 0.1 ppb -/
  freq : Int
  /-- deviations of the latest 20 s, newest first, 0.1 ppb -/
  devs : List Int
  /-- seconds within the suspect limit -/
  calm : Nat
  /-- error against the timebase in ns (1/256 frame for the steering port) -/
  err : Int
  /-- clockIdentity of the grandmaster followed -/
  gm : Nat
  /-- the latest marking edge, in ns of TIME cycles since reset, and good periods in a row (R304) -/
  edge : Option Nat
  run : Nat
  deriving DecidableEq, Repr

/-- An edge capture (R324, R336). -/
structure EdgCapture where
  source : Nat
  falling : Bool
  ns : Nat
  esi : Nat
  deriving DecidableEq, Repr

/-- An LTC frame held by the decoder (R325). -/
structure LtcFrame where
  time : Nat
  user : Nat
  ns : Nat
  esi : Nat
  deriving DecidableEq, Repr

/-- A DAC channel beside DAC_STATUSn: the target, and a ×2-to-×1 change that waits for 0x7FFF (R329). -/
structure Dac where
  target : Nat
  range2 : Bool
  clipping : Bool
  deriving DecidableEq, Repr

/-- A foreign master that a PTP port hears (IEEE 1588-2019): the sender and rank of its latest Announce, the dataset in it,
and when its latest two came, in ns, newest first. -/
structure Foreign where
  sender : Nat
  rank : Nat
  gm : Nat
  gmClass : Nat
  steps : Nat
  body : List Byte
  heard : List Nat
  deriving DecidableEq, Repr

/-- A PTP port (R317, R321): rank of the best master it hears (the fields that the default best master clock algorithm
compares, most significant first), its grandmaster's identity, class and stepsRemoved, the latest Sync awaited, the
latest offset of a Sync before the path delay, the Delay_Req or Pdelay_Req in flight, and the latest path delays. -/
structure PtpPort where
  /-- foreign masters heard, latest first -/
  foreigns : List Foreign
  rank : Option Nat
  sender : Nat
  gm : Nat
  gmClass : Nat
  steps : Nat
  /-- sequence number, receive stamp and correction of a two-step Sync -/
  sync : Option (Nat × Nat × Int)
  diff : Int
  /-- sequence number and transmit stamp -/
  req : Option (Nat × Nat)
  /-- Pdelay_Resp awaiting its Follow_Up: sequence number, t4 - t1 - correction, t2 -/
  resp : Option (Nat × Int × Int)
  delays : List Int
  /-- sequence number, requester, receive stamp and correction of the latest Pdelay_Req -/
  preq : Option (Nat × Nat × Nat × Int)
  /-- the next sequence numbers of Sync, of Delay_Req and Pdelay_Req, and of Announce -/
  seqSync : Nat
  seqReq : Nat
  seqAnn : Nat
  /-- body of the Announce of the best master heard, as received: a boundary clock passes it on -/
  best : List Byte
  deriving DecidableEq, Repr

/-- The Steeple (chapter 10), beside its registers. -/
structure Stp where
  /-- the timebase, in units of 1e-10 ns since the epoch (R300) -/
  tb : Nat
  /-- TIME cycles since the first release of RESET_N: a time that neither f nor a step moves (R300) -/
  cycles : Nat
  cands : List (Nat × Cand)
  /-- f at each second in Acquiring or Locked, newest first, 0.1 ppb (R315) -/
  fHist : List Int
  /-- DAC output of channels 0 and 1 at each second, newest first (R316) -/
  codes48 : List Nat
  codes44 : List Nat
  /-- entered Acquiring or Locked for this many seconds since engine start -/
  tracked : Nat
  /-- the sign and offset of the slew that is added to f, or on the audio side to the VCXO correction, in 0.1 ppb (R309) -/
  slew : Int
  slewAudio : Bool
  /-- audio-loop correction reached by the DAC, 0.1 ppb -/
  corr : Int
  /-- blocks the correction has been held at a limit -/
  pulled : Nat
  fifo : List EdgCapture
  /-- edges seen by each source since its latest record -/
  edges : List (Nat × Nat)
  ltc : Option LtcFrame
  ltcSync : Nat
  dacs : List (Nat × Dac)
  /-- outputs whose alignment waits for their next grid instant (bits of TBS_OUT_ALIGN) -/
  aligning : Nat
  /-- a known edge of each output once aligned: its instant in units of 1e-10 ns, for a word clock the samples since it -/
  outs : List (Nat × Nat)
  /-- PTP ports NETA (0) and NETB (1) -/
  ptp : List (Nat × PtpPort)
  /-- time mark of the Dreba follow loop has been taken since the link came up (R340) -/
  marked : Bool
  /-- consecutive checks in which the VCXO in use was in range, while the synthesiser runs (R545) -/
  vcxoGood : Nat
  /-- an automatic-realign occasion: Acquiring was entered -/
  entered : Bool
  deriving DecidableEq, Repr


/-- A grant that waits for its boundary (R358). -/
structure Grant where
  code : Nat
  epoch : Nat
  due : Nat
  deriving DecidableEq, Repr

/-- A forwarded item that waits for its boundary. -/
structure CtrlItem where
  due : Nat
  item : CtrlIn
  deriving DecidableEq, Repr

/-- The Neighbour link (chapter 11), beside its registers. -/
structure Nbr where
  /-- digests of own engine writes by block period: hot and long (R343, R347) -/
  own : List (Nat × Nat × Nat)
  /-- hot digests of received HOT frames by block -/
  recv : List (Nat × Nat)
  /-- hot and long digests of received trailers by block -/
  trailers : List (Nat × Nat × Nat)
  peerEpoch : Nat
  peerUid : Option Nat
  peerFault : Bool
  peerDigest : Option Nat
  /-- the pair-protocol range of the Neighbour's running image (R507) -/
  peerRange : Option (Nat × Nat)
  /-- the condition held when the link went down, until a heartbeat comes by NB_HB alone (R355) -/
  condWas : Nat
  drebaMiss : Nat
  hbMiss : Nat
  drebaSeen : Bool
  hbSeen : Bool
  clean : Nat
  copiesFailed : Nat
  /-- a DIVERGED entry waits for the next boundary -/
  recopy : Bool
  grant : Option Grant
  drillAt : Option Nat
  drilling : Bool
  declareAt : Option Nat
  /-- bank writes of the Active that wait for the period before their boundary: boundary, address, bytes -/
  bankWait : List (Nat × Nat × List Byte)
  ctrlWait : List CtrlItem
  /-- 256-byte units that engine writes of the current period touched -/
  touched : List Nat
  /-- own chunk hashes: block period, chunk, and the hash, none where the chunk was written (R349) -/
  scans : List (Nat × Nat × Option Nat)
  /-- the next chunk that the Active copies (R351) -/
  copyNext : Nat
  /-- ASRC samples of the Active: block × 16384 + source (R291, R344) -/
  asrc : List (Nat × List Word)
  /-- bytes sent on the link in the current period -/
  txBytes : Nat
  /-- sent frames not acknowledged yet: sequence number, type, content, bytes -/
  replay : List (Nat × Nat × List Nat × List Byte)
  txSeq : Nat
  rxSeq : Nat
  crcRun : Nat
  /-- the Active declared its fault, and shows it until it has taken Standby (R352, R354) -/
  declared : Bool
  /-- the Active failed during the gap of this chip's restart: the Standby becomes Active at B (R380) -/
  promoteAtB : Bool
  deriving DecidableEq, Repr


/-- A gain run of R375: from `g0` to `g1` over `len` samples from data time `start`. -/
structure GainRun where
  g0 : Int
  g1 : Int
  start : Nat
  len : Nat
  deriving DecidableEq, Repr

/-- A restart in progress (R377): kind as SYS_MODE_STATE.kind, A, H once fixed (timebase, ns), the SYS_MODE word it puts in
force. -/
structure Restart where
  kind : Nat
  a : Nat
  h : Option Nat
  mode : Nat
  /-- a SYS APPLY or a mode command started it: its pending set stays until step 8 -/
  bySys : Bool
  /-- its boundary was late (R15) -/
  late : Bool
  /-- header word of the CFG_START command that waits for step 8 -/
  reply : Option Nat
  /-- data time at which the fade-in starts, once fixed -/
  inAt : Option Nat
  deriving DecidableEq, Repr

/-- A CFG_START that waits for its boundary (R384, R508). -/
structure CfgStart where
  due : Nat
  late : Bool
  force : Bool
  header : Nat
  deriving DecidableEq, Repr

/-- Operating modes (chapter 12) and the fades of chapters 12 and 17. -/
structure Modes where
  restart : Option Restart
  start : Option CfgStart
  /-- a restart of the leader or the Active that this chip follows (R341, R370): boundary, kind, SYS_MODE word -/
  follow : Option (Nat × Nat × Nat)
  /-- restart fade, fail-safe fade, Quiet mute, PFAIL egress fade -/
  fade : GainRun
  fsFade : GainRun
  quiet : GainRun
  egress : GainRun
  /-- header words of MODE_SET commands whose reply waits for the outcome of the SYS APPLY -/
  waiting : List Nat
  deriving DecidableEq, Repr



/-- A bank write that waits for room in the hold buffer (R389). -/
structure HoldWait where
  ini : Initiator
  chan : Nat
  addr : Nat
  data : List Byte
  deriving DecidableEq, Repr

/-- The Gleaner (R410–R415), beside GLN registers. -/
structure Gln where
  /-- w, the frame being written -/
  w : Nat
  /-- frames staged and not complete, oldest first: frame number, data time, dropped, and its tags and samples -/
  staged : List (Nat × Nat × Bool × List Byte)
  /-- data times of frames held, by frame number -/
  esis : List (Nat × Nat)
  /-- block of the previous frame -/
  last : Option Nat
  cursor : Option Nat
  /-- the read position and the mark, as data times -/
  readPos : Nat
  mark : Option Nat
  deriving DecidableEq, Repr

/-- Memories (chapter 13), beside their registers. -/
structure Memx where
  /-- 64-bit words with an uncorrectable error, by address / 8 -/
  poison : List Nat
  /-- 64-bit words with a single-bit error, by address / 8: the bit is corrected on read -/
  soft : List Nat
  /-- hold buffer: words of the Live bank written in this block period with their earlier value, by address / 8 -/
  hold : List (Nat × DWord)
  holdWait : List HoldWait
  /-- rows (bank × 1024 + row) mapped to spares -/
  spares : List Nat
  /-- rows that need a spare at their next visit -/
  marked : List Nat
  /-- rows with single-bit errors in some word since their last test: row, word -/
  oneBit : List (Nat × Nat)
  /-- the row under test, and its consecutive aborts -/
  testing : Option Nat
  aborts : Nat
  /-- cause of a Strongroom wipe in progress -/
  wiping : Option Nat
  /-- refresh debt, class and lower-class reads of each Cellar channel -/
  debts : List (Nat × Nat)
  lower : List (Nat × Nat)
  selfRefresh : Bool
  gln : Gln
  deriving DecidableEq, Repr

/-- A request of a fabric master (R423, R424). -/
structure FabReq where
  ini : Initiator
  /-- the ordering source within the master port: a DMA channel, else 0 (R421) -/
  chan : Nat
  write : Bool
  addr : Nat
  len : Nat
  data : List Byte
  answer : TargetAnswer
  deriving DecidableEq, Repr

/-- The fabric (R420–R429), beside its registers. -/
structure Fab where
  /-- requests accepted by a target and not answered yet, oldest first -/
  outstanding : List FabReq
  /-- requests held back for ordering or for the port limit, oldest first -/
  held : List FabReq
  /-- requests whose response came by timeout; a later response is late -/
  timedOut : List FabReq
  deriving DecidableEq, Repr

/-- One DMA channel (R430–R440), beside DMC_HEAD, DMC_CTRL and DMC_STATE. -/
structure DmaChan where
  /-- address of the current descriptor -/
  cur : Nat
  residue : Nat
  /-- descriptors started (R438); DMC_STATE.count shows its low bits -/
  count : Nat
  src : Nat
  dst : Nat
  next : Nat
  len : Nat
  event : Bool
  ring : Bool
  last : Bool
  /-- the descriptor that pointed here had ring = 1 (R437) -/
  byRing : Bool
  /-- the first error that came in the running descriptor: 1 to a read, 2 to a write (R434, R435); 0 none -/
  err : Nat
  /-- its bursts are issued, and responses to writes that wait for the hold buffer are still to come (R389, R433) -/
  copied : Bool
  /-- an abort is finishing (R436) -/
  aborting : Bool
  /-- the event that waits for room, and the halt reason it carries (R440) -/
  waiting : Option DWord
  deriving DecidableEq, Repr

/-- A command envelope being accepted by a command queue (R444). -/
structure Envelope where
  queue : Nat
  ini : Initiator
  remaining : Nat
  /-- the header was refused: the remaining words are refused too -/
  refused : Bool
  deriving DecidableEq, Repr

/-- The hardware queues (R441–R445), beside the QUE pages. -/
structure Que where
  /-- entries of each queue, oldest first; absent queues are empty -/
  entries : List (Nat × List DWord)
  /-- low halves written and held: queue × 8 + master port (R442) -/
  low : List (Nat × Word)
  /-- high halves latched by a read of the low half -/
  high : List (Nat × Word)
  envelopes : List Envelope
  /-- which DMA channels wait for room in an event ring, oldest first -/
  waiters : List Nat
  /-- entries whose producers other than DMA wait for room in an event ring, oldest first (R445) -/
  pushers : List (Nat × DWord)
  deriving DecidableEq, Repr

/-- The PCIe endpoint, MSI-X, I2C, UART and GPIO (chapter 15), beside their registers. -/
structure HostIf where
  /-- MSI-X table words that differ from reset: word index 4 × vector + word -/
  msix : List (Nat × Word)
  /-- vectors whose PBA bit is set (R473) -/
  pba : List Nat
  /-- the endpoint still answers Request Retry Status (R456) -/
  retry : Bool
  /-- Subsystem Vendor ID and, from bit 16, Subsystem ID (R456, R479) -/
  subsystem : Nat
  /-- GLN_WRITE_HI, GLN_CURSOR_HI and TBS_NOW_SEC latches per initiator: kind × 8 + master port -/
  latches : List (Nat × DWord)
  deriving DecidableEq, Repr


/-- A firmware image's facts (R481). -/
structure Image where
  version : Nat
  secVer : Nat
  schema : Nat
  hoVer : Nat
  hoMin : Nat
  pairLo : Nat
  pairHi : Nat
  keySlot : Nat
  /-- key slots its revocation list names -/
  revokes : Nat
  deriving DecidableEq, Repr

/-- An image slot of the boot record (R480). -/
structure Slot where
  state : Nat
  trials : Nat
  secVer : Nat
  size : Nat
  sha : Nat
  deriving DecidableEq, Repr

/-- The settings (R489). -/
structure Settings where
  avg48 : Option Nat
  avg44 : Option Nat
  spares : List Nat
  mode : Option Word
  /-- page, offset, value -/
  presets : List (Nat × Nat × Word)
  schema : Nat
  deriving DecidableEq, Repr

/-- Boot, life cycle and update (chapter 16), beside the registers, the flash and the Strongroom. -/
structure Boot where
  slot0 : Slot
  slot1 : Slot
  seq : Nat
  /-- the image that runs, and the one in the other half while it is resident -/
  running : Option Image
  previous : Option Image
  settings : Settings
  /-- held configurations by rate key (multiple × 2 + family), and stored ones: container bytes -/
  held : List (Nat × List Byte)
  stored : List (Nat × List Byte)
  /-- the configuration in force, as an engine start or a restart loaded it (R201, R223) -/
  inForce : List Byte
  /-- SHA-384 of the key in each fuse key slot -/
  keys : List (Nat × Nat)
  /-- a handover or a restart activation in progress: boundary b -/
  handover : Option Nat
  /-- the latest fallback is a reverse handover in progress -/
  reverse : Bool
  hostConfirmed : Bool
  /-- end of the confirm window (timebase, ns) -/
  confirmEnd : Option Nat
  /-- confirm-expiry flag (R485), kept in the always-on domain -/
  expiry : Bool
  /-- a PLL of R544 is out of lock and holds the reset -/
  heldReset : Bool
  /-- the unit key is present -/
  unitKey : Bool
  deriving DecidableEq, Repr


/-- One source of the Roll (R527, R530). -/
structure RollSrc where
  count : Nat
  overflow : Nat
  bins : List Nat
  ext : Nat
  extEsi : Nat
  /-- number of the latest detailed entry -/
  last : Option Nat
  win : Nat
  skipped : Nat
  deriving DecidableEq, Repr

/-- A detailed entry (R529). -/
structure RollEntry where
  esi : Nat
  ns : Nat
  firmware : Bool
  sec : Nat
  source : Nat
  code : Nat
  cls : Nat
  coalesced : Nat
  d0 : Nat
  d1 : Nat
  /-- it stands in the first area too -/
  first : Bool
  deriving DecidableEq, Repr

/-- Faults, the Roll and dumps (chapter 17), beside their registers. -/
structure Flt where
  /-- a fail-safe entry waits for its boundary -/
  entering : Bool
  /-- the first ESI at which that boundary may stand -/
  enterAt : Nat
  /-- A_f of the latest entry: its ESI, and the timebase there in ns -/
  entry : Nat × Nat
  /-- ID of the fault whose fatal sequence runs -/
  fatalId : Nat
  /-- PFAIL_N is low -/
  pfailLow : Bool
  /-- PFAIL_N fell in the gap of a restart: the egress fade starts at B -/
  egressDue : Bool
  /-- leave has been written since the last latch cleared -/
  leave : Bool
  /-- IDs whose fault counts as Safe because FLT_ESCALATE held their bit when they were raised -/
  escalated : List Nat
  wdogArmed : Bool
  /-- a dump is held in the Cellar and in flash: fault ID, class, ESI at A_f, size -/
  cellarDump : Option (Nat × Nat × Nat × Nat)
  flashDump : Option (Nat × Nat × Nat × Nat)
  srcs : List (Nat × RollSrc)
  /-- the latest 65 536 entries, by number k -/
  entries : List (Nat × RollEntry)
  /-- the first area, by number k -/
  first : List (Nat × RollEntry)
  /-- the report registers of the Reeve and each Carter: core × 4 + register -/
  reps : List (Nat × Word)
  windows : Nat
  /-- window_ms in force -/
  windowMs : Nat
  copySeq : Nat
  /-- valid PFAIL records, newest first: seq and ESI -/
  pfails : List (Nat × Nat)
  deriving DecidableEq, Repr

/-- Why the machine stops. -/
inductive Fault where
  /-- Raised by THROTTLE_TRIP when a sensor reads a core supply below 660 mV: R552 calls the behaviour undefined.
  Safe: the run stops where the spec gives no behaviour. -/
  | supplyBelowMinimum
  deriving DecidableEq, Repr

/-- Why a command is refused by the model. -/
inductive Refusal where
  /-- Raised by an arm of `exec` for a command without a meaning yet. Safe: nothing can be proved of it. -/
  | notModelled (mnemonic : String)
  deriving DecidableEq, Repr

/-- The whole machine. -/
structure State where
  /-- current values of registers, staged values of RWS fields: key page × 0x1000 + offset; unlisted reads `regReset` -/
  regs : List (Nat × Word)
  /-- in-force values of registers with RWS fields (R466); unlisted reads `regReset` -/
  live : List (Nat × Word)
  /-- pending sets (R467): page, boundary ESI, copy of the staged registers of the page -/
  pend : List PendSet
  /-- bytes of the memories by fabric address; unlisted reads 0 -/
  mem : List Host.Cell
  eng : Eng
  xrd : Xrd
  scn : Scn
  chn : Chn
  fab : Fab
  dma : List (Nat × DmaChan)
  que : Que
  host : HostIf
  mil : Mils
  net : Net
  ports : Ports
  stp : Stp
  nbr : Nbr
  modes : Modes
  memx : Memx
  boot : Boot
  flt : Flt
  /-- the latest bus response (model's own) -/
  resp : Option Resp
  /-- what has left the chip, oldest first (model's own) -/
  out : List Out
  /-- how many free values have been used (model's own) -/
  free : Nat
  /-- the commands that wait, first in first out -/
  pending : List Instr
  deriving DecidableEq, Repr

/-- The machine at the first release of RESET_N: registers at their reset values, no memory byte listed, every engine at
rest. What the spec gives no reset value for takes the value log entries 3, 4 and 6 name. -/
def State.reset : State where
  regs := []
  live := []
  pend := []
  mem := []
  eng := ⟨0, [], false, false, [], [], [], [], 0, [], 0⟩
  xrd := ⟨[], [], [], [], [], [], none⟩
  scn := { force := [], loose := [], fence := [], swapAt := none, armAt := 0, cue := none, desc := none, lastFade := 0,
           ramps := [], panRamps := [], program := [], strips := [], insAreas := [] }
  chn := ⟨[], [], [], [], [], [], false, none, 0, (0, false, 0, 0)⟩
  fab := ⟨[], [], []⟩
  dma := []
  que := ⟨[], [], [], [], [], []⟩
  host := ⟨[], [], true, 0, []⟩
  mil := ⟨[], [], [], false, []⟩
  net := ⟨[], [], [], [], [], [], [], [], [], [], [], [], []⟩
  ports := ⟨[]⟩
  stp := { tb := 0, cycles := 0, cands := [], fHist := [], codes48 := [], codes44 := [], tracked := 0, slew := 0, slewAudio := false, corr := 0, pulled := 0,
           fifo := [], edges := [], ltc := none, ltcSync := 0, dacs := [], aligning := 0, outs := [], ptp := [],
           marked := false, vcxoGood := 0, entered := false }
  nbr := { own := [], recv := [], trailers := [], peerEpoch := 0, peerUid := none, peerFault := false,
           peerDigest := none, peerRange := none, condWas := 0, drebaMiss := 0, hbMiss := 0, drebaSeen := false, hbSeen := false, clean := 0,
           copiesFailed := 0, recopy := false, grant := none, drillAt := none, drilling := false, declareAt := none,
           bankWait := [], ctrlWait := [], touched := [], scans := [], copyNext := 0, asrc := [], txBytes := 0,
           replay := [], txSeq := 0, rxSeq := 0, crcRun := 0, declared := false, promoteAtB := false }
  modes := ⟨none, none, none, ⟨0, 0, 0, 0⟩, ⟨32768, 32768, 0, 0⟩, ⟨32768, 32768, 0, 0⟩, ⟨32768, 32768, 0, 0⟩, []⟩
  memx := { poison := [], soft := [], hold := [], holdWait := [], spares := [], marked := [], oneBit := [],
            testing := none, aborts := 0, wiping := none, debts := [], lower := [], selfRefresh := false,
            gln := ⟨0, [], [], none, none, 0, none⟩ }
  boot := { slot0 := ⟨0, 0, 0, 0, 0⟩, slot1 := ⟨0, 0, 0, 0, 0⟩, seq := 0, running := none, previous := none,
            settings := ⟨none, none, [], none, [], 0⟩, held := [], stored := [], inForce := [], keys := [(0, Config.factoryKey.toNat)],
            handover := none, reverse := false, hostConfirmed := false, confirmEnd := none, expiry := false, heldReset := false,
            unitKey := false }
  flt := { entering := false, enterAt := 0, entry := (0, 0), fatalId := 0, pfailLow := false, egressDue := false, leave := false, escalated := [], wdogArmed := false, cellarDump := none, flashDump := none,
           srcs := [], entries := [], first := [], reps := [], windows := 0, windowMs := 1000, copySeq := 0, pfails := [] }
  resp := none
  out := []
  free := 0
  pending := []

end Sys2Proof.Machine
end

