-- ==== Sys2Proof/Machine/Ops.lean ====
section
/-! DEFINITION. The named operations over registers, memory, interrupts, free values and outputs. -/
namespace Sys2Proof.Machine

/-! ### Registers -/

/-- The current (staged) word of the register at key `k`. -/
def State.reg (s : State) (k : Nat) : Word := sparseGet regReset s.regs k

/-- Write the current (staged) word of a register. -/
def State.setReg (s : State) (k : Nat) (v : Word) : State := { s with regs := sparseSet regReset s.regs k v }

/-- The in-force word of the register at key `k` (R466). -/
def State.liveReg (s : State) (k : Nat) : Word := sparseGet regReset s.live k

/-- Put a word in force. -/
def State.setLive (s : State) (k : Nat) (v : Word) : State := { s with live := sparseSet regReset s.live k v }

/-- The value of a field (staged value of an RWS field). -/
def State.rd (s : State) (f : Fld) (n : Nat := 0) (i : Nat := 0) : Nat :=
  bitsOf (s.reg (f.key n i)).toNat f.lo f.width

/-- Write a field by the block's own path: the low `width` bits of `v`. -/
def State.wr (s : State) (f : Fld) (v : Nat) (n : Nat := 0) (i : Nat := 0) : State :=
  s.setReg (f.key n i) (BitVec.ofNat 32 (setBitsOf (s.reg (f.key n i)).toNat f.lo f.width v))

/-- The in-force value of an RWS field. -/
def State.lv (s : State) (f : Fld) (n : Nat := 0) (i : Nat := 0) : Nat :=
  bitsOf (s.liveReg (f.key n i)).toNat f.lo f.width

/-- Put a value of an RWS field in force and stage it (the Reeve's own path). -/
def State.wrBoth (s : State) (f : Fld) (v : Nat) (n : Nat := 0) (i : Nat := 0) : State :=
  (s.wr f v n i).setLive (f.key n i) (BitVec.ofNat 32 (setBitsOf (s.liveReg (f.key n i)).toNat f.lo f.width v))

/-- A one-bit field is 1. -/
def State.on (s : State) (f : Fld) (n : Nat := 0) (i : Nat := 0) : Bool := s.rd f n i == 1

/-- The in-force value of a one-bit field is 1. -/
def State.lon (s : State) (f : Fld) (n : Nat := 0) (i : Nat := 0) : Bool := s.lv f n i == 1

/-- Add `k` to a counter field, saturating at its largest value. -/
def State.bump (s : State) (f : Fld) (k : Nat := 1) (n : Nat := 0) (i : Nat := 0) : State :=
  s.wr f (min (s.rd f n i + k) (2 ^ f.width - 1)) n i

/-- Raise a peak field to at least `v`. -/
def State.peak (s : State) (f : Fld) (v : Nat) (n : Nat := 0) (i : Nat := 0) : State :=
  s.wr f (max (s.rd f n i) (min v (2 ^ f.width - 1))) n i

/-- Do `f` only when `c` holds. -/
def State.when (s : State) (c : Bool) (f : State → State) : State := if c then f s else s

/-! ### One part of the state changed by a function -/

/-- Change `eng`. -/
def State.modEng (s : State) (f : Eng → Eng) : State := { s with eng := f s.eng }
/-- Change `xrd`. -/
def State.modXrd (s : State) (f : Xrd → Xrd) : State := { s with xrd := f s.xrd }
/-- Change `scn`. -/
def State.modScn (s : State) (f : Scn → Scn) : State := { s with scn := f s.scn }
/-- Change `chn`. -/
def State.modChn (s : State) (f : Chn → Chn) : State := { s with chn := f s.chn }
/-- Change `fab`. -/
def State.modFab (s : State) (f : Fab → Fab) : State := { s with fab := f s.fab }
/-- Change `que`. -/
def State.modQue (s : State) (f : Que → Que) : State := { s with que := f s.que }
/-- Change `host`. -/
def State.modHost (s : State) (f : HostIf → HostIf) : State := { s with host := f s.host }
/-- Change `mil`. -/
def State.modMil (s : State) (f : Mils → Mils) : State := { s with mil := f s.mil }
/-- Change `net`. -/
def State.modNet (s : State) (f : Net → Net) : State := { s with net := f s.net }
/-- Change `stp`. -/
def State.modStp (s : State) (f : Stp → Stp) : State := { s with stp := f s.stp }
/-- Change `nbr`. -/
def State.modNbr (s : State) (f : Nbr → Nbr) : State := { s with nbr := f s.nbr }
/-- Change `modes`. -/
def State.modModes (s : State) (f : Modes → Modes) : State := { s with modes := f s.modes }
/-- Change `memx`. -/
def State.modMemx (s : State) (f : Memx → Memx) : State := { s with memx := f s.memx }
/-- Change `boot`. -/
def State.modBoot (s : State) (f : Boot → Boot) : State := { s with boot := f s.boot }
/-- Change `flt`. -/
def State.modFlt (s : State) (f : Flt → Flt) : State := { s with flt := f s.flt }

/-! ### Outputs, responses and free values -/

/-- Record that something left the chip. -/
def State.emit (s : State) (o : Out) : State := { s with out := s.out ++ [o] }

/-- Answer a bus access. -/
def State.respond (s : State) (ini : Initiator) (data : Nat) (err : Bool := false) : State :=
  { s with resp := some ⟨ini, data, err⟩ }

/-- Life-cycle states in which JTAG debug is open: BLANK, PROVISIONED and RETURNED (R496). -/
def debugOpen (life : Nat) : Bool := life == 0 || life == 1 || life == 3

/-- The port takes no requests: the debug port while JTAG debug is closed; one is then never formed and gets no answer (R496,
R421; DEDUCED, log entry 65). -/
def State.portShut (s : State) (ini : Initiator) : Bool := ini == .debug && !debugOpen (s.rd F.SYS_LC_state)

/-- Use up `k` free values: the next one is `Config` applied to the advanced counter. -/
def State.useFree (s : State) (k : Nat := 1) : State := { s with free := s.free + k }

/-! ### Queues: levels and classes (R441) -/

/-- The entries of queue `q`, oldest first. -/
def State.queue (s : State) (q : Nat) : List DWord := (assoc? s.que.entries q).getD []

/-- Replace the entries of queue `q`; an empty queue is not listed. -/
def State.setQueue (s : State) (q : Nat) (l : List DWord) : State :=
  { s with que := { s.que with entries := if l = [] then assocDel s.que.entries q else assocPut s.que.entries q l } }

/-- Depth by class: notice 64, command 32, event 128. -/
def queueDepth (q : Nat) : Nat := if q < 128 then 64 else if q < 192 then 32 else 128

/-! ### Interrupts (R471–R473) -/

/-- IRQ_PENDING of page `p`: IRQ_RAW AND IRQ_ENABLE (R464). -/
def State.irqPending (s : State) (p : Nat) : Nat :=
  ((s.reg (p * 0x1000 + 0x10)) &&& (s.reg (p * 0x1000 + 0x14))).toNat

/-- A page raises its request while IRQ_PENDING is not 0. -/
def State.requesting (s : State) (p : Nat) : Bool := s.irqPending p != 0

/-- The route of page `p` in INT_ROUTE: vector, pin, pin_en, msix_en. -/
def State.routeWord (s : State) (p : Nat) : Nat :=
  if p % 2 = 0 then s.rd F.INT_ROUTE_even 0 (p / 2) else s.rd F.INT_ROUTE_odd 0 (p / 2)

/-- The pages of R459, in order. -/
def allPages : List Nat := (List.range 0x0D2).filter pageExists

/-- The state of vector `v` (R473): a page routed to it with msix_en raises its request, or a queue that names it
and is enabled holds an entry. -/
def State.vectorState (s : State) (v : Nat) : Bool :=
  (allPages.any fun p => s.requesting p && bitsOf (s.routeWord p) 0 8 == v && bitAt (s.routeWord p) 11) ||
  (s.que.entries.any fun e => e.2 != [] && e.1 < 256 &&
    bitsOf (s.rd F.INT_QVEC_value 0 (e.1 / 4)) (8 * (e.1 % 4)) 8 == v &&
    bitAt (s.rd F.INT_QVEC_EN_value 0 (e.1 / 32)) (e.1 % 32))

/-- The vector's own mask bit: word 3 bit 0 of its MSI-X table entry, 1 at reset (log entry 12). -/
def State.vectorMasked (s : State) (v : Nat) : Bool :=
  bitAt (((assoc? s.host.msix (4 * v + 3)).getD 1).toNat) 0

/-- Send the message of `v`, or set its PBA bit while `v` or the function is masked (R473). -/
def State.sendVector (s : State) (v : Nat) : State :=
  if s.vectorMasked v || s.on F.PCI_LINK_fmask then
    { s with host := { s.host with pba := if v ∈ s.host.pba then s.host.pba else s.host.pba ++ [v] } }
  else
    ({ s with host := { s.host with pba := s.host.pba.filter (· != v) } }).bump F.MSX_COUNTS_sent |>.emit (.msi v)

/-- After a change from `old` to `s`, the vector states of `vs` that rose send their messages, and PBA bits of
vectors whose state fell clear (R473). -/
def State.settleVectors (s old : State) (vs : List Nat) : State :=
  if s.on F.PCI_LINK_msix_en then
    vs.foldl (fun t v =>
      if s.vectorState v && !old.vectorState v then t.sendVector v
      else if !s.vectorState v then { t with host := { t.host with pba := t.host.pba.filter (· != v) } } else t) s
  else s

/-- Set bits of IRQ_RAW of page `p` (R464); the page's vector may rise. -/
def State.raiseMask (s : State) (p m : Nat) : State :=
  State.settleVectors (s.setReg (p * 0x1000 + 0x10) (s.reg (p * 0x1000 + 0x10) ||| BitVec.ofNat 32 m)) s
    [bitsOf (s.routeWord p) 0 8]

/-- Event `b` of page `p` occurs: its IRQ_RAW bit sets. -/
def State.raise (s : State) (p b : Nat) : State := s.raiseMask p (2 ^ b)

/-- Clear bits of IRQ_RAW of page `p`. -/
def State.clearRaw (s : State) (p m : Nat) : State :=
  State.settleVectors
    (s.setReg (p * 0x1000 + 0x10) (s.reg (p * 0x1000 + 0x10) &&& ~~~ (BitVec.ofNat 32 m))) s
    [bitsOf (s.routeWord p) 0 8]

/-- IRQn_N is asserted while a page routed to pin n with pin_en raises its request (R472). -/
def State.pinAsserted (s : State) (n : Nat) : Bool :=
  allPages.any fun p => s.requesting p && bitsOf (s.routeWord p) 8 2 == n && bitAt (s.routeWord p) 10

/-! ### Memory: bytes by fabric address (R454) -/

/-- A byte that nothing has written reads 0 (log entry 4). -/
def memDefault (_ : Nat) : Byte := 0

/-- The byte at a fabric address. -/
def State.byte (s : State) (a : Nat) : Byte := sparseGet memDefault s.mem a

/-- Write one byte. -/
def State.setByte (s : State) (a : Nat) (b : Byte) : State := { s with mem := sparseSet memDefault s.mem a b }

/-- Read `n` bytes from `a`. -/
def State.bytes (s : State) (a n : Nat) : List Byte := (List.range n).map fun i => s.byte (a + i)

/-- Write bytes from `a` on. -/
def State.setBytes (s : State) (a : Nat) : List Byte → State
  | [] => s
  | b :: t => (s.setByte a b).setBytes (a + 1) t

/-- A little-endian word of `n` bytes at `a`. -/
def State.load (s : State) (a n : Nat) : Nat := ofLe (s.bytes a n)

/-- Store a little-endian word of `n` bytes at `a`. -/
def State.store (s : State) (a n v : Nat) : State := s.setBytes a (leBytes n v)

/-- The memory list is in canonical form. -/
abbrev MemoryWf (m : List Host.Cell) : Prop := SparseWf memDefault m

/-! ### Engine time -/

/-- The engine ESI as a number. -/
def State.now (s : State) : Nat := s.eng.esi.toNat

/-- The rate multiple 1, 2 or 4 (R17). -/
def State.mult (s : State) : Nat := 2 ^ s.rd F.ENG_RATE_multiple

/-- The engine rate in Hz (R17). -/
def State.fs (s : State) : Nat := (if s.on F.ENG_RATE_family then 44100 else 48000) * s.mult

/-- The block length L: 16, 32 or 64 samples (R2, R17). -/
def State.blockLen (s : State) : Nat := 16 * s.mult

/-- The engine runs: the ESI counts and blocks run. -/
def State.running (s : State) : Bool := s.on F.ENG_RATE_running

/-- Expand a 32-bit ESI value against `base`: the E with E mod 2^32 = v and -2^31 ≤ E - base < 2^31 (R14), taken
mod 2^64. -/
def expandEsi (base v : Nat) : Nat :=
  let d := (v + 2 ^ 32 - base % 2 ^ 32) % 2 ^ 32
  if d < 2 ^ 31 then (base + d) % 2 ^ 64 else (base + d + 2 ^ 64 - 2 ^ 32) % 2 ^ 64

/-- The first block boundary at or after `e`. -/
def ceilBlock (l e : Nat) : Nat := (e + l - 1) / l * l

/-- The first block boundary after `e`. -/
def nextBlock (l e : Nat) : Nat := (e / l + 1) * l

/-- A scheduled value was late: the late count and the late bit (R15). -/
def State.markLate (s : State) : State := (s.bump F.ENG_LATE_COUNT_late).raise 0x030 1

/-- The boundary a 32-bit APPLY_AT value selects, and whether it is late (R15, R468): 0 is the next boundary. -/
def State.pickBoundary (s : State) (v : Nat) : Nat × Bool :=
  let l := s.blockLen
  let first := nextBlock l s.now
  if v = 0 then (first, false)
  else
    let b := ceilBlock l (expandEsi s.now v)
    if b < first then (first, true) else (b, false)

/-- The ideal ESI at a timebase value (R8). -/
def idealEsi (fs sec ns : Nat) : Nat := (sec * 1000000000 + ns) * fs / 1000000000

/-! ### Frames over the Dreba link (R344, R363) -/

/-- The write records of `data` at `a` (R363): one for each 32-byte unit touched, a descriptor, the strobe mask of a partial
unit, then the unit. -/
def writeRecords (a : Nat) (data : List Byte) : List Byte :=
  (List.range ((a + data.length + 31) / 32 - a / 32)).flatMap fun (i : Nat) =>
    let u := (a / 32 + i) * 32
    let hit (j : Nat) : Bool := decide (a ≤ u + j) && decide (u + j < a + data.length)
    let strobes := (List.range 32).foldl (fun (m : Nat) (j : Nat) => m + b2n (hit j) * 2 ^ j) 0
    leBytes 8 (u % 2 ^ 40 + (if strobes = 2 ^ 32 - 1 then 0 else 2 ^ 48)) ++ (if strobes = 2 ^ 32 - 1 then [] else leBytes 4 strobes) ++
    (List.range 32).map fun (j : Nat) => if hit j then data.getD (u + j - a) 0 else 0

/-- The payload of a frame (R363): write records, the TRAILER's 64 bytes, chunk content; every other item is a number of 8
bytes, the lowest first (DESIGN CHOICE, log entry 60). -/
def drebaPayload (kind : Nat) (data : List Nat) : List Byte :=
  let at' (i : Nat) : Nat := data.getD i 0
  let bytes (l : List Nat) : List Byte := l.map fun (x : Nat) => BitVec.ofNat 8 x
  let words (l : List Nat) : List Byte := l.flatMap (leBytes 8)
  if (kind = 2 ∧ at' 1 ≠ 0) ∨ kind = 3 then writeRecords (at' 1) (bytes (data.drop 2))
  else if kind = 4 then leBytes 8 (at' 0) ++ writeRecords (at' 1) (bytes (data.drop 2))
  else if kind = 6 then leBytes 8 (at' 0) ++ leBytes 8 (data.length - 1) ++ bytes (data.drop 1)
  else if kind = 7 then
    leBytes 8 (at' 0) ++ leBytes 8 (at' 1) ++ leBytes 16 (at' 2) ++ leBytes 16 (at' 3) ++ leBytes 4 (at' 4) ++ leBytes 1 (at' 5) ++ leBytes 11 0
  else if kind = 8 then words (data.take 1) ++ (data.drop 1).flatMap (leBytes 16)
  else words data

/-- A frame on the Dreba link (R363): header, payload, and the CRC-32 over both. -/
def drebaFrame (kind seq block : Nat) (data : List Nat) : List Byte :=
  let raw := drebaPayload kind data
  let p := raw ++ List.replicate ((4 - raw.length % 4) % 4) 0
  let m := leBytes 8 (kind % 16 + p.length / 4 % 1024 * 2 ^ 4 + seq % 2 ^ 16 * 2 ^ 16 + block % 2 ^ 32 * 2 ^ 32) ++ p
  m ++ leBytes 4 (crc32 m)

/-- A frame leaves on the link. -/
def State.emitDreba (s : State) (kind seq : Nat) (data : List Nat) : State :=
  s.emit (.dreba kind (seq :: data) (drebaFrame kind seq (s.now / s.blockLen) data))

/-- Send a frame of a type with its payload while the link is up: it takes the next sequence number and stays in the
replay buffer until it is acknowledged. -/
def State.nbrSend (s : State) (kind : Nat) (data : List Nat) : State :=
  if s.on F.DRB_STATUS_up then
    let n := s.nbr
    let frame := drebaFrame kind n.txSeq (s.now / s.blockLen) data
    { s with nbr := { n with replay := n.replay ++ [(n.txSeq, kind, data, frame)], txSeq := (n.txSeq + 1) % 2 ^ 16, txBytes := n.txBytes + frame.length } }.emit
      (.dreba kind (n.txSeq :: data) frame)
  else s

/-- The chip leads its pair: the Active, or in Proving the chip to which the Elder has granted LEAD (R340). The Neighbour is
checked against it and takes its items (R344, R358; DEDUCED for Proving, log entry 61). -/
def State.leads (s : State) : Bool :=
  s.rd F.NBR_STATE_role == 1 || (s.rd F.NBR_STATE_role == 3 && s.on F.NBR_STATE_lead)

/-- The bytes of a number list. -/
def natBytes (l : List Byte) : List Nat := l.map fun (b : Byte) => b.toNat

/-! ### Scene banks (R107) -/

/-- First Granary address of a bank: 0 A, 1 B. -/
def bankBase (b : Nat) : Nat := if b = 0 then 0x01000000 else 0x01800000

/-- The bank an address lies in. -/
def bankOf (a : Nat) : Option Nat :=
  if 0x01000000 ≤ a ∧ a < 0x01800000 then some 0 else if 0x01800000 ≤ a ∧ a < 0x02000000 then some 1 else none

/-! ### Engine writes and digests (R342, R343, R347) -/

/-- The class of an address in the pair map: 1 HOT, 2 LONG, 0 none; the scene banks are BANK whatever it says (R342). -/
def State.mapClass (s : State) (a : Nat) : Nat :=
  let b := s.rd F.NBR_MAP_BASE_value
  if (bankOf a).isSome then 0 else
  ((List.range (s.load b 4)).find? fun i =>
    let e := b + 16 + 16 * i
    s.load e 5 ≤ a ∧ a < s.load e 5 + s.load (e + 8) 4).elim 0 fun i => s.load (b + 16 + 16 * i + 12) 1

/-- The byte at `a` holds bit 3, the origin bit, of a Psiras tag: byte 0 of a tag of the tag area (R34), or of a tag in a
history ring of the padding pool (R64). -/
def State.tagByte (s : State) (a : Nat) : Bool :=
  (decide (0x02FA0000 ≤ a) && decide (a < 0x03000000) && a % 8 == 0) ||
  s.xrd.srcTab.any fun (e : Nat × Nat) =>
    let slot := 4 * s.blockLen + 8
    let ring := s.rd F.XRD_POOL_BASE_base + bitsOf e.2 12 20 * 8
    decide (ring ≤ a) && decide (a < ring + bitsOf e.2 6 6 * slot) && (a - ring) % slot == 4 * s.blockLen

/-- Bytes from address `a` on as a digest takes them: bit 3 of every tag is 0 (R33). -/
def State.digestBytes (s : State) (a : Nat) (data : List Byte) : List Byte :=
  data.zipIdx.map fun (e : Byte × Nat) => if s.tagByte (a + e.2) then e.1 &&& 0xF7 else e.1

/-- The digest term of one 32-byte unit: strobed bytes at its address (R347). -/
def digestTerm (unit strobes : Nat) (bytes : List Byte) : Nat :=
  sha256 (beBytes 5 unit ++ beBytes 4 strobes ++ bytes) / 2 ^ 128

/-- The terms of a write to a class, summed mod 2^128. -/
def State.writeTerms (s : State) (cls a : Nat) (data : List Byte) : Nat :=
  ((List.range ((a + data.length + 31) / 32 - a / 32)).foldl (fun acc i =>
    let u := (a / 32 + i) * 32
    if s.mapClass u = cls then
      let bs := (List.range 32).map fun j => if a ≤ u + j ∧ u + j < a + data.length then data.getD (u + j - a) 0 else 0
      let st := (List.range 32).foldl (fun m j => if a ≤ u + j ∧ u + j < a + data.length then m + 2 ^ j else m) 0
      acc + digestTerm u st (s.digestBytes u bs)
    else acc) 0) % 2 ^ 128

/-! ### The pair map (R342, R349) -/

/-- Chunks of 64 KiB of a region (R349). -/
def chunksOf (base len : Nat) : List (Nat × Nat) :=
  (List.range ((len + 65535) / 65536)).map fun (i : Nat) => (base + 65536 * i, min 65536 (len - 65536 * i))

/-- Both scene banks as regions. -/
def bankRegions : List (Nat × Nat) := [(0x01000000, 0x800000), (0x01800000, 0x800000)]

/-- Regions of the pair map with their classes, in map order; the banks follow them (DEDUCED, log entry 31). -/
def State.pairRegions (s : State) : List (Nat × Nat × Nat) :=
  let b := s.rd F.NBR_MAP_BASE_value
  if s.rd F.NBR_MAP_value ≠ 0 then []
  else (List.range (s.load b 4)).map (fun (i : Nat) =>
    let e := b + 16 + 16 * i
    (s.load e 5, s.load (e + 8) 4, s.load (e + 12) 1)) ++ bankRegions.map fun (r : Nat × Nat) => (r.1, r.2, 3)

/-- Chunks that are copied (HOT, LONG, BANK) and chunks that are scanned (LONG, BANK) (R349, R351). -/
def State.copyChunks (s : State) : List (Nat × Nat) := s.pairRegions.flatMap fun (r : Nat × Nat × Nat) => chunksOf r.1 r.2.1
def State.scanChunks (s : State) : List (Nat × Nat) :=
  (s.pairRegions.filter fun (r : Nat × Nat × Nat) => r.2.2 != 1).flatMap fun (r : Nat × Nat × Nat) => chunksOf r.1 r.2.1

/-- The Standby is storing the Active's content only (R351). -/
def State.copying (s : State) : Bool := s.rd F.NBR_STATE_cond == 2 && !s.leads

/-- First of the model's own addresses for the two alias windows of BAR2: the Live window, then the Next window, above every
fabric address (R108). -/
def aliasBase : Nat := 2 ^ 48

/-- The physical address that an access through an alias window reaches as it completes: in the bank that is Live or Next at
that moment (R108). Other addresses stand for themselves. -/
def State.resolveAlias (s : State) (a : Nat) : Nat :=
  let live := s.rd F.SCN_STATE_live_bank
  if a < aliasBase then a
  else if a < aliasBase + 0x800000 then bankBase live + (a - aliasBase)
  else bankBase (1 - live) + (a - aliasBase - 0x800000)

/-- The 256-byte units of a span count as written in this block period: the scan skips their chunks (R349). -/
def State.touch (s : State) (a len : Nat) : State :=
  let units := (List.range ((a + len + 255) / 256 - a / 256)).map fun (i : Nat) => a / 256 + i
  { s with nbr := { s.nbr with touched := s.nbr.touched ++ units.filter fun (u : Nat) => !s.nbr.touched.contains u } }

/-- What an engine write leaves for the pair (R343): its terms join the digests of its block period, its units count as
written, and a leader sends it to its Neighbour: HOT always, LONG while its chunk has been copied (R344, R351). -/
def State.engineWrite (s : State) (a : Nat) (data : List Byte) : State :=
  if s.rd F.NBR_STATE_role = 0 ∨ data = [] then s
  else
    let n := s.now / s.blockLen
    let h := s.writeTerms 1 a data
    let g := s.writeTerms 2 a data
    let old := (s.nbr.own.find? fun e => e.1 == n).getD (n, 0, 0)
    let own := (s.nbr.own.filter fun (e : Nat × Nat × Nat) => e.1 != n) ++ [(n, (old.2.1 + h) % 2 ^ 128, (old.2.2 + g) % 2 ^ 128)]
    let s1 := ({ s with nbr := { s.nbr with own := own } } : State).touch a data.length
    if s.leads then
      let s2 := if s.mapClass a = 1 then s1.nbrSend 2 (n :: a :: natBytes data) else s1
      if s.rd F.NBR_STATE_cond = 2 ∧ s.mapClass a = 2 ∧
        (s.copyChunks.take s.nbr.copyNext).any (fun (c : Nat × Nat) => decide (c.1 ≤ a) && decide (a < c.1 + c.2)) then
        s2.nbrSend 3 (n :: a :: natBytes data)
      else s2
    else s1

/-- An engine write of `data` at `a` (R343): stored, unless the Standby is copying HOT and LONG content from the Active (R351). -/
def State.engineBytes (s : State) (a : Nat) (data : List Byte) : State :=
  if s.copying ∧ (s.mapClass a = 1 ∨ s.mapClass a = 2) then s else (s.setBytes a data).engineWrite a data

/-! ### Tags and sample blocks -/

/-- Address of the tag of source `src` in buffer set `k` (R34). -/
def tagAddr (k src : Nat) : Nat := 0x02FA0000 + (k * 16384 + src) * 8

/-- A tag laid out by R25. -/
def mkTag (src rateClass esi sceneEpoch routeEpoch cond : Nat) (clip origin : Bool) : Nat :=
  src % 16384 * 2 ^ 50 + rateClass % 4 * 2 ^ 48 + esi % 2 ^ 32 * 2 ^ 16 + sceneEpoch % 16 * 2 ^ 12 +
  routeEpoch % 16 * 2 ^ 8 + cond % 8 * 2 ^ 5 + b2n clip * 16 + b2n origin * 8

/-- Tag conditions (R25). -/
inductive Cond where
  | valid | concealed | fadeOut | fadeIn | safeMute | stale
  deriving DecidableEq, Repr

/-- The condition code in a tag. -/
def Cond.code : Cond → Nat
  | .valid => 0 | .concealed => 1 | .fadeOut => 2 | .fadeIn => 3 | .safeMute => 4 | .stale => 5

/-- Precedence of a condition code, larger first (R28). -/
def condRank (c : Nat) : Nat :=
  if c = 4 then 5 else if c = 5 then 4 else if c = 1 then 3 else if c = 2 then 2 else if c = 3 then 1 else 0

/-- The condition of higher precedence (R28). -/
def condMerge (a b : Nat) : Nat := if condRank a ≥ condRank b then a else b

/-- The condition field of a tag. -/
def tagCond (t : Nat) : Nat := bitsOf t 5 3

/-- A sample clips at either limit of its word (R25). -/
def clips (w : Word) : Bool := w == 0x7FFFFFFF || w == 0x80000000

/-- The rate class in force; 0b01 in Blend (R26). -/
def State.rateClass (s : State) : Nat := if s.on F.ENG_RATE_blend then 1 else s.rd F.ENG_RATE_multiple

/-- Origin bit: 1 in role Standby or Proving (R25; NBR_STATE.role codes of R364). -/
def State.originBit (s : State) : Bool := s.rd F.NBR_STATE_role == 2 || s.rd F.NBR_STATE_role == 3

/-- The samples of source `src` for block `n`. -/
def State.srcBlock (s : State) (n src : Nat) : List Word :=
  (assoc? s.eng.blocks (n % 3 * 16384 + src)).getD (List.replicate s.blockLen 0)

/-- The tag of source `src` for block `n`. -/
def State.srcTag (s : State) (n src : Nat) : Nat := s.load (tagAddr (n % 3) src) 8

/-- Write a source's samples and tag of block `n` (R26). -/
def State.putBlock (s : State) (n src : Nat) (smp : List Word) (tag : Nat) : State :=
  ({ s with eng := { s.eng with blocks := assocPut s.eng.blocks (n % 3 * 16384 + src) smp } } : State).engineBytes
    (tagAddr (n % 3) src) (leBytes 8 tag)

/-- Write a source of block `n` with a tag built for it: data time `esi`, condition and clip as given, epochs and
origin in force (R27). -/
def State.putSource (s : State) (n src esi cond : Nat) (clip : Bool) (smp : List Word) : State :=
  s.putBlock n src smp (mkTag src s.rateClass esi (s.rd F.ENG_SCENE_COUNT_scene_count)
    (s.rd F.ENG_ROUTE_COUNT_route_count) cond clip s.originBit)

/-! ### Words of the Granary (R385, R390) -/

/-- The Granary holds this fabric address (R385). -/
def inGranary (a : Nat) : Bool := 0x01000000 ≤ a && a < 0x03000000

/-- Bank and row of a Granary address (R385). -/
def granaryBank (a : Nat) : Nat := bitsOf (a - 0x01000000) 3 6
def granaryRow (a : Nat) : Nat := bitsOf (a - 0x01000000) 15 10

/-- A bank row as one number: bank × 1024 + row. -/
def rowOf (a : Nat) : Nat := granaryBank a * 1024 + granaryRow a

/-- The 64-bit words a span touches, by address / 8. -/
def wordsOf (a len : Nat) : List Nat := (List.range ((a + len + 7) / 8 - a / 8)).map fun i => a / 8 + i

/-- A word has an uncorrectable error (R390, R391). -/
def State.poisoned (s : State) (w : Nat) : Bool := w ∈ s.memx.poison

/-- An uncorrectable word read at `a`: counted and captured, with its row marked for a spare (R390, R395). -/
def State.eccNote (s : State) (a : Nat) : State :=
  let s1 := ((s.bump F.GRN_ECC_uncorrected).wr F.ERR_ADDR_LO_value (a % 2 ^ 32) 0x020).wr F.ERR_ADDR_HI_value (a / 2 ^ 32) 0x020
  let s2 := s1.raise 0x020 1
  let r := rowOf a
  { s2 with memx := { s2.memx with marked := if r ∈ s2.memx.marked then s2.memx.marked else s2.memx.marked ++ [r] } }

/-! ### Engine-wide fades (R375, R376, R514, R583) -/

/-- The gain of a run at data time `t` (R375): g0 before it, g1 after it. -/
def GainRun.gain (r : GainRun) (t : Nat) : Int :=
  if t < r.start then r.g0
  else if r.start + r.len ≤ t then r.g1
  else
    let d : Int := (r.g1 - r.g0) * ((t - r.start : Nat) + 1)
    r.g0 + (if d < 0 then -((-d) / r.len) else d / r.len)

/-- The condition a run gives at data time `t`: FADE_OUT while it falls, SAFE_MUTE at 0, FADE_IN while it rises (R29). -/
def GainRun.cond (r : GainRun) (t : Nat) : Nat :=
  if t < r.start ∨ r.start + r.len ≤ t then (if r.gain t = 0 then 4 else 0)
  else if r.g1 < r.g0 then 2 else 3

/-- A new run to `g1` over `n` samples from data time `c`, from the gain reached at the sample before (R372, R518). -/
def GainRun.turn (r : GainRun) (g1 : Int) (c n : Nat) : GainRun :=
  ⟨if c = 0 then r.g1 else r.gain (c - 1), g1, c, n⟩

/-- A gain at rest. -/
def GainRun.rest (g : Int) : GainRun := ⟨g, g, 0, 0⟩

/-- Scale one sample (R375). -/
def scaleBy (g x : Int) : Int := if g = 32768 then x else rndShift (x * g) 15

/-- The engine-wide gain at data time `t`: the smaller of the restart and the fail-safe gain, once (R583). -/
def State.engineGain (s : State) (t : Nat) : Int := min (s.modes.fade.gain t) (s.modes.fsFade.gain t)

/-- The condition that the engine-wide fades give a block from data time `e` (R29). -/
def State.fadeCond (s : State) (e : Nat) : Nat := condMerge (s.modes.fade.cond e) (s.modes.fsFade.cond e)

/-- The engine-wide fade on a block from data time `e`: scaled samples and the condition it gives the block (R29). -/
def State.fadeBlock (s : State) (e : Nat) (smp : List Word) : List Word × Nat :=
  let c := s.fadeCond e
  if c = 0 then (smp, 0)
  else (smp.zipIdx.map fun (x : Word × Nat) => BitVec.ofInt 32 (scaleBy (s.engineGain (e + x.2)) x.1.toInt), c)

/-- Write a source computed by the engine: the engine-wide fade acts first, clip comes from the output samples (R27,
R376). -/
def State.putOutput (s : State) (n src esi cond : Nat) (smp : List Word) : State :=
  let r := s.fadeBlock (n * s.blockLen) smp
  s.putSource n src esi (condMerge cond r.2) (r.1.any clips) r.1

/-- Write an ingress source of block `n`: a port's input or a receive channel, whose samples the engine-wide fade has scaled
before the writer's own substitutes and ramps (R376, R583); its tag takes the fade's condition when that is higher. -/
def State.putIngress (s : State) (n src cond : Nat) (smp : List Word) : State :=
  s.putSource n src (n * s.blockLen) (condMerge cond (s.fadeCond (n * s.blockLen))) false smp

/-! ### Substitutes and ramps (R220) -/

/-- log2 of the block length. -/
def State.lam (s : State) : Nat := s.blockLen.log2

/-- The last sample of source `src` in block `n - 1`. -/
def State.lastSample (s : State) (n src : Nat) : Int := ((s.srcBlock (n + 2) src).getLast?.getD 0).toInt

/-- The decaying substitute built from `a` (R220). -/
def State.decay (s : State) (a : Int) : List Word :=
  (List.range s.blockLen).map fun (i : Nat) => BitVec.ofInt 32 (rndShift (a * ((s.blockLen : Int) - 1 - (i : Int))) s.lam)

/-- Block `j` (0 to 3) of the four-block ramp on `smp` (R220). -/
def State.rampIn (s : State) (j : Nat) (smp : List Word) : List Word :=
  smp.zipIdx.map fun (x : Word × Nat) => satW (rndShift (x.1.toInt * ((j * s.blockLen + x.2 : Nat) + 1)) (s.lam + 2))

/-- Substitution state of a source: none at rest, some 0 after a substitute, some k before ramp block k. -/
def State.substOf (s : State) (src : Nat) : Option Nat := assoc? s.mil.subst src

/-- Set it. -/
def State.setSubst (s : State) (src : Nat) (x : Option Nat) : State :=
  { s with mil := { s.mil with subst := match x with
    | none => assocDel s.mil.subst src
    | some k => assocPut s.mil.subst src k } }

/-- The substitute samples of block `n` of a source: decaying first, zeros after (R220), and the state after it. -/
def State.substitute (s : State) (n src : Nat) : List Word × State :=
  (if s.substOf src = some 0 then List.replicate s.blockLen 0 else s.decay (s.lastSample n src), s.setSubst src (some 0))

/-- A good block of a source: scaled while the four-block ramp runs, with the condition FADE_IN (R220, R222); the flag
says that the ramp ends with this block. -/
def State.goodBlock (s : State) (src : Nat) (smp : List Word) : (List Word × Nat × Bool) × State :=
  match s.substOf src with
  | none => ((smp, 0, false), s)
  | some 0 => ((s.rampIn 0 smp, 3, false), s.setSubst src (some 1))
  | some k => ((s.rampIn k smp, 3, k == 3), s.setSubst src (if k < 3 then some (k + 1) else none))

/-! ### Port word conversions (R39, R40) -/

/-- An engine word to a port word of `w` bits: round half up, saturate. -/
def toPort (w : Nat) (x : Int) : Int := satTo w (rndShift x (28 - w))

/-- The port conversion saturated. -/
def portSaturates (w : Nat) (x : Int) : Bool := satTo w (rndShift x (28 - w)) != rndShift x (28 - w)

/-- A port word of `w` bits to an engine word. -/
def fromPort (w : Nat) (p : Nat) : Word := BitVec.ofInt 32 (signed w p * 2 ^ (28 - w))

end Sys2Proof.Machine
end

