-- ==== Sys2Proof/Machine/Arith.lean ====
section
/-! DEFINITION. The exact fixed-point arithmetic of chapters 2 to 4: square root, gain and logarithm tables, level
words, the fade mix, the sine table. -/
namespace Sys2Proof.Machine

/-- Bit-by-bit square root below `2^k`. -/
def isqrtGo (n : Nat) : Nat → Nat → Nat
  | 0, r => r
  | k + 1, r => if (r + 2 ^ k) * (r + 2 ^ k) ≤ n then isqrtGo n k (r + 2 ^ k) else isqrtGo n k r

/-- Floor of the exact square root (R55), for `n < 2^160`. -/
def isqrt (n : Nat) : Nat := isqrtGo n ((n.log2 + 2) / 2 + 1) 0

/-- Largest `y` among `r .. r + 2^k - 1` for which `ok y`, by bisection; `ok` holds at `r` and is downward closed. -/
def largest (ok : Nat → Bool) : Nat → Nat → Nat
  | 0, r => r
  | k + 1, r => if ok (r + 2 ^ k) then largest ok k (r + 2 ^ k) else largest ok k r

/-- `p[j]` of R77: 2^30 × 2^(j/1024) rounded half-up, the largest y with 2y - 1 ≤ 2^(31 + j/1024). -/
def pTab (j : Nat) : Nat :=
  if j = 0 then 2 ^ 30 else largest (fun y => (2 * y - 1) ^ 1024 ≤ 2 ^ (31744 + j)) 32 0

/-- `t2[j]` of R89: 65536 × log2(1 + j/1024) rounded half-up, the largest y with
2^(2y - 1) ≤ ((1024 + j)/1024)^131072. -/
def t2Tab (j : Nat) : Nat := (Nat.log2 ((1024 + j) ^ 131072) - 1310720 + 1) / 2

/-- The signed value of a 16-bit level word. -/
def levelVal (w : Nat) : Int := signed 16 w

/-- The gain pair (m, e) of a level word's value (R77). -/
def gainPair (v : Int) : Nat × Int :=
  let l : Int := (v * 174165 + 2048) / 4096
  let e : Int := l / 65536
  let f := (l - e * 65536).toNat
  let j := f / 64
  let r := f % 64
  ((pTab j : Nat) + ((pTab (j + 1) - pTab j) * r + 32) / 64, e)

/-- Apply a gain pair to a sample (R78). -/
def applyPair (m : Nat) (e : Int) (x : Int) : Int := satTo 32 (rndShift (x * m) (30 - e).toNat)

/-- Apply a level word given by its value; `off` gives zero (R78). -/
def applyVal (v : Int) (x : Int) : Int := let g := gainPair v; applyPair g.1 g.2 x

/-- Apply a 16-bit level word: 0x8000 is off (R78). -/
def applyLevel (w : Nat) (x : Int) : Int := if w % 65536 = 0x8000 then 0 else applyVal (levelVal w) x

/-- The magnitude of a sample, |-2^31| taken as 2^31 - 1 (R89). -/
def mag (x : Int) : Nat := min x.natAbs (2 ^ 31 - 1)

/-- `lg2(z, base)` of R89, for z > 0. -/
def lg2 (z base : Nat) : Int :=
  let n := z.log2
  let f := if n ≥ 16 then z / 2 ^ (n - 16) % 65536 else z * 2 ^ (16 - n) % 65536
  let j := f / 64
  let r := f % 64
  ((n : Int) - base) * 65536 + t2Tab j + (((t2Tab (j + 1) : Int) - t2Tab j) * r + 32) / 64

/-- Clamp to ±32767. -/
def clampLevel (x : Int) : Int := max (-32767) (min 32767 x)

/-- The level of an amplitude in 1/256 dB (R89). -/
def levelAmp (a : Nat) : Int := if a = 0 then -32767 else clampLevel ((lg2 a 27 * 98641 + 2 ^ 21) / 2 ^ 22)

/-- The level of a power value (R89). -/
def levelPow (p : Nat) : Int := if p = 0 then -32767 else clampLevel ((lg2 p 32 / 2 * 98641 + 2 ^ 21) / 2 ^ 22)

/-- The fade gains (g_old, g_new) of sample `i` of `n` (R55). -/
def fadeGains (law n i : Nat) : Nat × Nat :=
  let q := (i + 1) * 2 ^ 30 / (n + 1)
  if law = 0 then (32768 - q / 2 ^ 15, q / 2 ^ 15) else (isqrt (2 ^ 30 - q), isqrt q)

/-- The bit-exact mix of sample `i` of a fade of `n` samples (R55). -/
def fadeMix (law n i : Nat) (old new : Int) : Int :=
  let g := fadeGains law n i
  satTo 32 ((old * g.1 + new * g.2 + 2 ^ 14) / 2 ^ 15)

/-- A fade length in samples: (t × fs + 500) div 1000 (R55, R114). -/
def msSamples (t fs : Nat) : Nat := (t * fs + 500) / 1000

/-- Division truncating toward zero (R114's quot). -/
def quot (a : Int) (b : Nat) : Int := if a < 0 then -((-a) / b) else a / b

/-- π × 2^160, rounded down. -/
def piFix : Nat := 0x3243F6A8885A308D313198A2E03707344A4093822

/-- The Taylor series of the sine at `x / 2^160`, in units of 2^-160: the remaining terms from `t`. -/
def sinTerms (x2 : Nat) : Nat → Nat → Nat → Bool → Int
  | 0, _, _, _ => 0
  | k + 1, m, t, neg =>
    (if neg then -(t : Int) else t) + sinTerms x2 k (m + 1) (t * x2 / 2 ^ 160 / ((2 * m + 2) * (2 * m + 3))) (!neg)

/-- sin(π j / 2048) × 2^160 for 0 ≤ j ≤ 1024. -/
def sinFix (j : Nat) : Nat :=
  let x := piFix * j / 2048
  (sinTerms (x * x / 2 ^ 160) 30 0 x false).toNat

/-- A quarter of the sine table: `scale` × sin(2πj/4096) rounded half-up, 0 ≤ j ≤ 1024. -/
def sinQuarter (scale j : Nat) : Nat :=
  if j = 0 then 0 else if j = 1024 then scale else (scale * sinFix j * 2 + 2 ^ 160) / 2 ^ 161

/-- The sine table of R70: 0x0800_0000 × sin(2πj/4096), rounded half-up. -/
def sineTab (j : Nat) : Int :=
  let q := j % 4096
  let a := q % 2048
  let v := sinQuarter 0x08000000 (if a ≤ 1024 then a else 2048 - a)
  if q < 2048 then v else -(v : Int)

end Sys2Proof.Machine
end

