-- ==== Sys2Proof/Machine/Crossroads.lean ====
section
/-! DEFINITION. The Crossroads (chapter 2): slot-channel numbering, route changes and fades, alignment, checks, test
generators, meter taps, and the commands of its family. -/
namespace Sys2Proof.Machine

/-! ### Slot-channel numbering (R44–R47) -/

/-- A source index of the rate outside the reserved ranges (R45); `k` is the rate multiple. -/
def validSource (k src : Nat) : Bool := src < 4864 / k + 4 || (5120 / k ≤ src && src < 13760 / k)

/-- A source produced in the Work stage: strips, buses, matrices, insert sends, convolution outputs (R45). -/
def workSource (k src : Nat) : Bool := 5120 / k ≤ src && src < 13696 / k

/-- A destination presented in the Work stage: strip and convolution inputs and insert returns (R46, R47). -/
def workDest (k dst : Nat) : Bool := dst < 7808 / k

/-- A source index that stands for unpatched (R48). -/
def unpatched : Nat := 0x3FFF

/-- First source of test generators (R45). -/
def genBase (k : Nat) : Nat := 13696 / k

/-- First destination of meter taps (R46). -/
def tapBase (k : Nat) : Nat := 13440 / k

/-- First destination of Gleaner inputs (R46). -/
def gleanerBase (k : Nat) : Nat := 12928 / k

/-! ### Destinations in force -/

/-- An unpatched destination. -/
def Dest.none : Dest := ⟨unpatched, unpatched, false, 0, [], Option.none⟩

/-- The destination `d` in force. -/
def State.dest (s : State) (d : Nat) : Dest := (assoc? s.xrd.dests d).getD Dest.none

/-- Replace destination `d`. -/
def State.setDest (s : State) (d : Nat) (x : Dest) : State :=
  { s with xrd := { s.xrd with dests := assocPut s.xrd.dests d x } }

/-- Fields of a patch-table entry (R48). -/
def entrySrc (e : Nat) : Nat := bitsOf e 0 14
def entryLaw (e : Nat) : Nat := bitsOf e 14 1
def entryFb (e : Nat) : Bool := bitAt e 15
def entryFade (e : Nat) : Nat := bitsOf e 16 8
def entryGroup (e : Nat) : Nat := bitsOf e 24 8

/-- Declared latency d, history depth h and ring offset of a source (R50). -/
def State.srcWord (s : State) (src : Nat) : Nat := (assoc? s.xrd.srcTab src).getD 0
def State.srcLatency (s : State) (src : Nat) : Nat := bitsOf (s.srcWord src) 0 6
def State.srcHistory (s : State) (src : Nat) : Nat := bitsOf (s.srcWord src) 6 6
def State.srcRing (s : State) (src : Nat) : Nat := bitsOf (s.srcWord src) 12 20

/-- A group's floor in force (R51). -/
def State.groupFloor (s : State) (g : Nat) : Nat := bitsOf ((assoc? s.xrd.groups g).getD 0) 0 6

/-- The latency k_g of group `g` (R62): its floor, and the largest d among the sources patched to its members;
routes with fb belong to no group. Group 0 has none. The group field of an entry counts from the write on, also while the
entry's route change is deferred: until then the destination counts in that group with its old source (DESIGN CHOICE, log
entry 36). -/
def State.groupLatency (s : State) (g : Nat) : Nat :=
  if g = 0 then 0 else
    s.xrd.dests.foldl (fun m e =>
      if entryGroup e.2.entry == g && !e.2.fb && e.2.src != unpatched then max m (s.srcLatency e.2.src) else m)
      (s.groupFloor g)

/-- The presentation delay of a destination at source `src` (R63). -/
def State.padOf (s : State) (src : Nat) (fb : Bool) (group : Nat) : Nat :=
  if src = unpatched then 0 else if fb then 1 else if group = 0 then 0
  else s.groupLatency group - s.srcLatency src

/-- The fade length of an entry in samples (R55). -/
def State.fadeLen (s : State) (e : Nat) : Nat :=
  msSamples (if entryFade e = 0xFF then s.rd F.XRD_CFG_default_fade else entryFade e) s.fs

/-! ### Presentation (R49, R55–R58, R63, R64) -/

/-- Scene and route count in force for block `n` at its last sample (R27, R37). -/
def State.epochsOf (s : State) (n : Nat) : Nat × Nat :=
  (assoc? s.eng.epochs n).getD (s.rd F.ENG_SCENE_COUNT_scene_count, s.rd F.ENG_ROUTE_COUNT_route_count)

/-- Where the history ring holds block `n` of source `src`: the place at which it was written (R64). -/
def State.ringPlace (s : State) (src n : Nat) : Option Nat :=
  (assoc? s.xrd.rings src).bind fun (l : List (Nat × Nat)) => (l.find? fun (e : Nat × Nat) => e.1 == n).map Prod.snd

/-- The block and tag that source `src` wrote for block `n - p` (R63, R64): from where its history ring took that block, or
from a buffer set that still holds it. -/
def State.sideBlock (s : State) (n src p : Nat) : List Word × Nat :=
  let l := s.blockLen
  if src = unpatched then
    let e := s.epochsOf n
    (List.replicate l 0, mkTag (16384 / s.mult - 1) s.rateClass (n * l) e.1 e.2 0 false s.originBit)
  else match (if p = 0 then none else s.ringPlace src (n - p)) with
    | none => (s.srcBlock (n - p) src, s.srcTag (n - p) src)
    | some a => ((List.range l).map fun (i : Nat) => BitVec.ofNat 32 (s.load (a + 4 * i) 4), s.load (a + 4 * l) 8)

/-- Sample `i` of a side. -/
def State.sideSample (s : State) (n src p i : Nat) : Int := (at0 0 (s.sideBlock n src p).1 i).toInt

/-- Fades running at data time `t`, oldest first: one that has ended masks every earlier one (R55, R58). -/
def liveFades (t : Nat) (fs : List RFade) : List RFade :=
  fs.foldl (fun (out : List RFade) (f : RFade) =>
    if t < f.start then out else if f.start + f.len ≤ t then [] else out ++ [f]) []

/-- Fades still to be presented at data time `e`: those after the latest that has ended (R55). -/
def keptFades (e : Nat) (fs : List RFade) : List RFade :=
  fs.foldl (fun (out : List RFade) (f : RFade) => if f.start + f.len ≤ e then [] else out ++ [f]) []

/-- A change at the sample at which the latest change began takes its place (R140). -/
def Dest.overtake (x : Dest) (c : Nat) : Dest := match x.fades.getLast? with
  | some f => if f.start = c ∧ (f.oldSrc, f.oldPad) ≠ (f.newSrc, f.newPad) then { x with src := f.oldSrc, pad := f.oldPad, fades := x.fades.dropLast } else x
  | .none => x

/-- Begin a fade of destination `x` toward `src` with padding `pad` at data time `c`; a change that would need a third
concurrent fade is deferred to the end of the older one (R58, R59). -/
def Dest.beginFade (x : Dest) (src : Nat) (fb : Bool) (pad c len law : Nat) (tap : Bool) : Dest :=
  match x.deferred with
  | some _ => x
  | .none => match liveFades c x.fades with
    | f :: _ :: _ => { x with deferred := some (f.start + f.len) }
    | _ =>
      let y := x.overtake c
      if y.src = src ∧ y.pad = pad then { y with fb := fb }
      else { y with src := src, fb := fb, pad := pad, fades := y.fades ++ [⟨y.src, y.pad, src, pad, c, len, law, tap⟩] }

/-- A route change at data time `c` finds a fade slot (R59). -/
def Dest.hasSlot (x : Dest) (c : Nat) : Bool := x.deferred.isNone && decide ((liveFades c x.fades).length < 2)

/-- The route count advances once at a sample at which routes change (R36). -/
def State.advanceRoute (s : State) (c : Nat) : State :=
  if s.xrd.routeAt = some c then s
  else
    let t : State := { s with xrd := { s.xrd with routeAt := some c } }
    t.wr F.ENG_ROUTE_COUNT_route_count (s.rd F.ENG_ROUTE_COUNT_route_count + 1)

/-- A deferral is counted once, when the change is first deferred (R59). -/
def State.countDeferral (s : State) (old new : Dest) : State :=
  s.when (new.deferred.isSome && old.deferred.isNone) fun t => (t.bump F.XRD_COUNTS_deferred).raise 0x038 1

/-- Destination `d` as it stands at data time `e`: fades that have ended drop. -/
def State.destAdvance (s : State) (d e : Nat) : State :=
  let x := s.dest d
  let kept := keptFades e x.fades
  if kept.length = x.fades.length then s else s.setDest d { x with fades := kept }

/-- The value of destination `x` at sample `i` of block `n` (R55, R56, R58): each fade takes what the earlier ones give as
its old side. -/
def State.destSample (s : State) (x : Dest) (n i : Nat) : Int :=
  let e := n * s.blockLen + i
  match x.fades with
  | [] => s.sideSample n x.src x.pad i
  | f :: _ =>
    x.fades.foldl (fun (old : Int) (f : RFade) =>
      if e < f.start then old
      else if f.start + f.len ≤ e then s.sideSample n f.newSrc f.newPad i
      else fadeMix f.law f.len (e - f.start) old (s.sideSample n f.newSrc f.newPad i)) (s.sideSample n f.oldSrc f.oldPad i)

/-- The sides a destination uses somewhere in block `n`: those whose conditions and clip bits the tag merges (R55, R57);
the last is the newest. -/
def State.destSides (s : State) (x : Dest) (n : Nat) : List (Nat × Nat) :=
  let e0 := n * s.blockLen
  match x.fades with
  | [] => [(x.src, x.pad)]
  | f :: _ => x.fades.foldl (fun (a : List (Nat × Nat)) (f : RFade) =>
      if e0 + s.blockLen ≤ f.start then a
      else if f.start + f.len ≤ e0 then [(f.newSrc, f.newPad)] else a ++ [(f.newSrc, f.newPad)]) [(f.oldSrc, f.oldPad)]

/-- A presented tag carries the epochs in force for the block presented (R27). -/
def State.withEpochs (s : State) (n tag : Nat) : Nat :=
  let e := s.epochsOf n
  setBitsOf (setBitsOf tag 12 4 e.1) 8 4 e.2

/-- An uncorrectable word among those that a side is read from: the tag of its source's block, or its place in the history ring
(R390). -/
def State.sideBad (s : State) (n src p : Nat) : Option Nat :=
  if src = unpatched then none
  else
    let r : Nat × Nat := match (if p = 0 then none else s.ringPlace src (n - p)) with
      | none => (tagAddr ((n - p) % 3) src, 8)
      | some a => (a, 4 * s.blockLen + 8)
    ((wordsOf r.1 r.2).find? s.poisoned).map fun w => 8 * w

/-- What a destination presents for a block that an uncorrectable word belongs to: zeros tagged SAFE_MUTE, with the data time of
its source's block (R390). -/
def State.eccBlock (s : State) (x : Dest) (n : Nat) : List Word × Nat :=
  let e := s.epochsOf n
  (List.replicate s.blockLen 0, mkTag x.src s.rateClass ((n - x.pad - s.srcLatency x.src) * s.blockLen) e.1 e.2 4 false s.originBit)

/-- Present destination `d` for block `n`: samples with fades applied, and the tag (R27, R49, R55–R57, R63); zeros where a word
it needs has an uncorrectable error (R390). -/
def State.present (s : State) (d n : Nat) : (List Word × Nat) × State :=
  let l := s.blockLen
  let t := s.destAdvance d (n * l)
  let x := t.dest d
  match (t.destSides x n).findSome? fun (p : Nat × Nat) => t.sideBad n p.1 p.2 with
  | some a => (t.eccBlock x n, t.eccNote a)
  | none =>
  let smp := (List.range l).map fun (i : Nat) => BitVec.ofInt 32 (t.destSample x n i)
  let tags := (t.destSides x n).map fun (p : Nat × Nat) => (t.sideBlock n p.1 p.2).2
  let cond := tags.foldl (fun (c : Nat) (g : Nat) => condMerge c (tagCond g)) 0
  let clip := tags.any fun (g : Nat) => bitAt g 4
  ((smp, t.withEpochs n (setBitsOf (setBitsOf (tags.getLastD 0) 5 3 cond) 4 1 (b2n clip))), t)

/-! ### Route and latency changes (R52–R54, R58, R59, R62–R65) -/

/-- The field of XRD_GROUP_LATi that shows k_g (R72). -/
def groupLatField (g : Nat) : Fld := { F.XRD_GROUP_LAT_lat0.part 0 6 with lo := 8 * (g % 4) }

/-- The k_g registers follow the groups in use and those still shown, and group_latency sets when one changes (R72). -/
def State.updateGroupRegs (s : State) : State :=
  let shown := (List.range 256).filter fun (g : Nat) => s.rd (groupLatField g) 0 (g / 4) != 0
  let gs := (shown ++ (s.xrd.dests.map fun (e : Nat × Dest) => entryGroup e.2.entry) ++ s.xrd.groups.map Prod.fst).eraseDups
  gs.foldl (fun (t : State) (g : Nat) =>
    if g = 0 ∨ t.rd (groupLatField g) 0 (g / 4) = s.groupLatency g then t
    else (t.wr (groupLatField g) (s.groupLatency g) 0 (g / 4)).raise 0x038 3) s

/-- Begin, at change sample `c`, every route change and tap crossfade that the in-force tables now call for; `count`
advances the route count (a swap advances it at S itself, R126). -/
def State.applyRoutes (s : State) (c : Nat) (count : Bool := true) : State :=
  -- the sources first: each destination whose in-force source changes and that has a fade slot
  let s1 := { s with xrd := { s.xrd with dests := s.xrd.dests.map fun (e : Nat × Dest) =>
      let x := e.2
      if (entrySrc x.entry != x.src && x.hasSlot c : Bool) then
        (e.1, { x with src := entrySrc x.entry, fb := entryFb x.entry }) else e } }
  let changed := s.xrd.dests.any fun e => entrySrc e.2.entry != e.2.src && e.2.hasSlot c
  let s2 := s.xrd.dests.foldl (fun t e =>
      let x := e.2
      let isRoute := entrySrc x.entry != x.src
      let target := (s1.dest e.1).src
      let fb := (s1.dest e.1).fb
      let pad := s1.padOf target fb (entryGroup x.entry)
      if !isRoute && pad == x.pad then t
      else
        let y := x.beginFade target fb pad c (s.fadeLen x.entry) (entryLaw x.entry) (!isRoute)
        (t.setDest e.1 y).countDeferral x y) s
  (s2.when (changed && count) fun (t : State) => t.advanceRoute c).updateGroupRegs

/-- A deferred change of destination `d` begins at the sample where the older fade ends, with the value then in force; a k_g
that it changes is in force from that sample for every member of the group (R59, R65). -/
def State.beginDeferred (s : State) (d : Nat) : State :=
  match (s.dest d).deferred with
  | none => s
  | some c => (s.setDest d { s.dest d with deferred := none }).applyRoutes c

/-- The destination with the earliest deferred change that begins before data time `e`. -/
def State.nextDeferred (s : State) (e : Nat) : Option Nat :=
  (s.xrd.dests.foldl (fun (b : Option (Nat × Nat)) (x : Nat × Dest) => match x.2.deferred, b with
    | some c, none => if c < e then some (c, x.1) else none
    | some c, some y => if c < e ∧ c < y.1 then some (c, x.1) else b
    | none, _ => b) none).map Prod.snd

/-- Every deferred change that falls before data time `e` begins, in order of its sample, at most `fuel` of them (R59). -/
def State.beginDue (s : State) (e : Nat) : Nat → State
  | 0 => s
  | fuel + 1 => match s.nextDeferred e with
    | none => s
    | some d => (s.beginDeferred d).beginDue e fuel

/-- Changes that a destination can begin in one block. -/
def State.deferredFuel (s : State) : Nat := s.xrd.dests.length * s.blockLen

/-- A cancelled deferral: the destination keeps its source in force, and the entry in force names it again (R16, R60, R380). -/
def Dest.cancelDeferral (x : Dest) : Dest :=
  match x.deferred with
  | .none => x
  | some _ => { x with deferred := .none, entry := setBitsOf x.entry 0 14 x.src }

/-- The fades of a destination end at data time `c`, where its newest side stands alone (R60). -/
def Dest.cut (x : Dest) (c : Nat) : Dest :=
  if liveFades c x.fades = [] then x else { x with fades := x.fades ++ [⟨x.src, x.pad, x.src, x.pad, c, 0, 0, false⟩] }

/-- Every route fade and tap crossfade ends at data time `c`, and the changes that waited for a slot begin there (R59, R60). -/
def State.cutFades (s : State) (c : Nat) : State :=
  let u := s.beginDue c s.deferredFuel
  let t : State := { u with xrd := { u.xrd with dests := u.xrd.dests.map fun (e : Nat × Dest) =>
    (e.1, { e.2.cut c with deferred := e.2.deferred.map fun (_ : Nat) => c }) } }
  t.beginDue (c + 1) t.deferredFuel

/-! ### Checks (R67–R69) -/

/-- The bytes of a source's history ring (R64). -/
def State.ringBytes (s : State) (w : Nat) : Nat := bitsOf w 6 6 * (4 * s.blockLen + 8)

/-- POOL: the ring of `src` reaches beyond the pool or overlaps another ring. -/
def State.poolBad (s : State) (src w : Nat) : Bool :=
  bitsOf w 6 6 != 0 &&
  (bitsOf w 12 20 * 8 + s.ringBytes w > s.rd F.XRD_POOL_SIZE_size ||
   s.xrd.srcTab.any fun e => e.1 != src && bitsOf e.2 6 6 != 0 &&
     bitsOf e.2 12 20 * 8 < bitsOf w 12 20 * 8 + s.ringBytes w &&
     bitsOf w 12 20 * 8 < bitsOf e.2 12 20 * 8 + s.ringBytes e.2)

/-- Tier of a source in the owner table (R204) and read tier of a destination in the read-tier table (R208). -/
def State.tierOf (s : State) (src : Nat) : Nat := bitsOf (s.load (s.rd F.MIL_OWN_BASE_base + 2 * src) 2) 4 3
def State.readTier (s : State) (d : Nat) : Nat := bitsOf (s.load (s.rd F.MIL_RTIER_BASE_base + d) 1) 4 4

/-- A route from a Work-stage source to a Work-stage destination that is not in program order needs fb (R23, R67, R208). -/
def State.needsFb (s : State) (src d : Nat) : Bool :=
  workSource s.mult src && workDest s.mult d && !decide (s.tierOf src < s.readTier d)

/-- Reason code of a patch entry on its own: SRC_RANGE, FADE, ORDER; 0 none (R67). Of several that hold, the first in this
order is reported, and HISTORY after them; for a source entry LATENCY, POOL, HISTORY: the spec gives no order (DESIGN CHOICE,
log entry 38). -/
def State.entryReason (s : State) (d e : Nat) : Nat :=
  if entrySrc e != unpatched && !validSource s.mult (entrySrc e) then 1
  else if entryFade e > 200 ∧ entryFade e ≠ 0xFF then 2
  else if entrySrc e != unpatched && (entryFb e != s.needsFb (entrySrc e) d) then 5
  else 0

/-- HISTORY over all destinations, with the tables of `s` taken as in force (R67). -/
def State.historyBad (s : State) : Bool :=
  s.xrd.dests.any fun e =>
    let src := entrySrc e.2.entry
    let fb := if src != e.2.src then entryFb e.2.entry else e.2.fb
    src != unpatched && !fb && s.padOf src false (entryGroup e.2.entry) > s.srcHistory src

/-- `s` with every destination at its entry's source: the tables as they stand once every change has begun. -/
def State.settledRoutes (s : State) : State :=
  { s with xrd := { s.xrd with dests := s.xrd.dests.map fun (e : Nat × Dest) =>
      (e.1, { e.2 with src := entrySrc e.2.entry, fb := if entrySrc e.2.entry != e.2.src then entryFb e.2.entry else e.2.fb }) } }

/-- Record a refused loose write (R68): table 0 patch, 1 source, 2 group. -/
def State.xrdRefuse (s : State) (table index reason : Nat) : State :=
  let s1 := if s.on F.XRD_REFUSED_valid then s else
    (((s.wr F.XRD_REFUSED_index index).wr F.XRD_REFUSED_table table).wr F.XRD_REFUSED_reason reason).wr F.XRD_REFUSED_valid 1
  (s1.bump F.XRD_COUNTS_refused).raise 0x038 0

/-- A loose write of a patch-table entry: its refusal (table, index, reason), if any, and the tables with it in force (R52,
R67). -/
def State.loosePatch (s : State) (d e : Nat) : Option (Nat × Nat × Nat) × State :=
  let r := s.entryReason d e
  let t := s.setDest d { s.dest d with entry := e }
  (if r ≠ 0 then some (0, d, r) else if t.settledRoutes.historyBad then some (0, d, 4) else none, t)

/-- A loose write of a source-table entry (R50, R67). -/
def State.looseSource (s : State) (src w : Nat) : Option (Nat × Nat × Nat) × State :=
  let t : State := { s with xrd := { s.xrd with srcTab := assocPut s.xrd.srcTab src w } }
  (if bitsOf w 0 6 > 32 then some (1, src, 3)
   else if t.poolBad src w then some (1, src, 6)
   else if t.settledRoutes.historyBad then some (1, src, 4) else none, t)

/-- A destination that would need more padding than its source's history holds, with the tables of `s` settled (R67). -/
def State.lacksHistory (s : State) (x : Dest) : Bool :=
  x.src != unpatched && !x.fb && decide (s.srcHistory x.src < s.padOf x.src false (entryGroup x.entry))

/-- A loose write of one word of the group table: the entries of groups `4 * w` to `4 * w + 3`, where group 0 is ignored. It
is checked as a whole, and either all of its entries take effect or it is refused once, with the first of its groups that
fails (R51, R67, R68). -/
def State.looseGroups (s : State) (w v : Nat) : Option (Nat × Nat × Nat) × State :=
  let news := ((List.range 4).map fun (b : Nat) => (4 * w + b, bitsOf v (8 * b) 8)).filter fun (e : Nat × Nat) =>
    e.1 != 0 && (assoc? s.xrd.groups e.1).getD 0 != e.2
  let t : State := { s with xrd := { s.xrd with groups := news.foldl (fun (l : List (Nat × Nat)) (e : Nat × Nat) => assocPut l e.1 e.2) s.xrd.groups } }
  let u := t.settledRoutes
  let lacking (e : Nat × Nat) : Bool := u.xrd.dests.any fun (x : Nat × Dest) => entryGroup x.2.entry == e.1 && u.lacksHistory x.2
  (match news.find? fun (e : Nat × Nat) => decide (32 < bitsOf e.2 0 6) with
   | some e => some (2, e.1, 3)
   | none => if news ≠ [] ∧ u.historyBad then some (2, ((news.find? lacking).orElse fun _ => news.head?).elim (4 * w) Prod.fst, 4) else none,
   t)

/-- The check of one loose word of the Live bank at byte offset `o`: its refusal, and the tables with it in force. A word
outside the Crossroads tables changes none of them (R48, R50, R51). -/
def State.looseXrdWord (s : State) (o : Nat) (v : Word) : Option (Nat × Nat × Nat) × State :=
  let k := s.mult
  let p := s.rd F.XRD_PATCH_OFS_offset
  let q := s.rd F.XRD_SRC_OFS_offset
  let g := s.rd F.XRD_GROUP_OFS_offset
  if s.rd F.SCN_BANK_SIZE_size = 0 then (none, s)
  else if p ≤ o ∧ o < p + 65536 / k then s.loosePatch ((o - p) / 4) v.toNat
  else if q ≤ o ∧ o < q + 65536 / k then s.looseSource ((o - q) / 4) v.toNat
  else if g ≤ o ∧ o < g + 256 then s.looseGroups ((o - g) / 4) v.toNat
  else (none, s)

/-- The offset lies in a Crossroads table of the bank. -/
def State.inXrdTables (s : State) (o : Nat) : Bool :=
  let k := s.mult
  let p := s.rd F.XRD_PATCH_OFS_offset
  let q := s.rd F.XRD_SRC_OFS_offset
  let g := s.rd F.XRD_GROUP_OFS_offset
  (p ≤ o && o < p + 65536 / k) || (q ≤ o && o < q + 65536 / k) || (g ≤ o && o < g + 256)

/-- The entry of lowest index for which `f` gives a reason. -/
def firstReason {α : Type} (l : List (Nat × α)) (f : Nat → α → Nat) : Option (Nat × Nat) :=
  l.foldl (fun (b : Option (Nat × Nat)) (e : Nat × α) =>
    if f e.1 e.2 = 0 then b else match b with
      | some y => if e.1 < y.1 then some (e.1, f e.1 e.2) else b
      | none => some (e.1, f e.1 e.2)) none

/-- The first failing check of a whole set of tables, as (table, index, reason): the patch, source and group tables in turn,
each by rising index (R67, R69). -/
def State.checkTables (s : State) : Option (Nat × Nat × Nat) :=
  let t := s.settledRoutes
  let patch (d : Nat) (x : Dest) : Nat :=
    if s.entryReason d x.entry ≠ 0 then s.entryReason d x.entry
    else if t.lacksHistory (t.dest d) then 4 else 0
  let source (i w : Nat) : Nat := if 32 < bitsOf w 0 6 then 3 else if s.poolBad i w then 6 else 0
  let group (g v : Nat) : Nat := if g ≠ 0 ∧ 32 < bitsOf v 0 6 then 3 else 0
  match firstReason s.xrd.dests patch with
  | some e => some (0, e)
  | none => match firstReason s.xrd.srcTab source with
    | some e => some (1, e)
    | none => (firstReason s.xrd.groups group).map fun (e : Nat × Nat) => (2, e)

/-- XRD_CHECK after an arm check (R69). -/
def State.recordCheck (s : State) (r : Option (Nat × Nat × Nat)) : State :=
  match r with
  | none => ((((s.wr F.XRD_CHECK_index 0).wr F.XRD_CHECK_table 0).wr F.XRD_CHECK_reason 0).wr F.XRD_CHECK_failed 0).wr
      F.XRD_CHECK_done 1
  | some (t, i, k) => (((((s.wr F.XRD_CHECK_index i).wr F.XRD_CHECK_table t).wr F.XRD_CHECK_reason k).wr
      F.XRD_CHECK_failed 1).wr F.XRD_CHECK_done 1).raise 0x038 2

/-- Every route fade and tap crossfade ends, and a change that was deferred is cancelled; each destination stands at its
in-force source and padding (R60). -/
def State.endFades (s : State) : State :=
  let t : State := { s with xrd := { s.xrd with dests := s.xrd.dests.map fun (e : Nat × Dest) =>
      (e.1, { e.2.cancelDeferral with fades := [] }) } }
  { t with xrd := { t.xrd with dests := t.xrd.dests.map fun (e : Nat × Dest) =>
      (e.1, { e.2 with pad := t.padOf e.2.src e.2.fb (entryGroup e.2.entry) }) } }

/-! ### Test generators (R70) -/

/-- A generator at reset. -/
def Gen.none : Gen := ⟨0, 0x8000, 0, 0, 0, 1, Option.none, Option.none, false, false, false⟩

/-- Generator `g`. -/
def State.gen (s : State) (g : Nat) : Gen := (assoc? s.xrd.gens g).getD Gen.none

/-- Replace generator `g`. -/
def State.setGen (s : State) (g : Nat) (x : Gen) : State :=
  { s with xrd := { s.xrd with gens := assocPut s.xrd.gens g x } }

/-- A mode write comes into force: phase and noise restart from aux (a seed of 0 is taken as 1). -/
def Gen.restart (x : Gen) (aux : Nat) : Gen :=
  { x with phase := aux, noise := if aux = 0 then 1 else aux }

/-- Generator `g` with the values of its registers (R70). -/
def State.genRegs (s : State) (g : Nat) : Gen :=
  { s.gen g with mode := s.rd F.XRD_GEN_CTRL_mode 0 g, level := s.rd F.XRD_GEN_CTRL_level 0 g, freq := s.rd F.XRD_GEN_FREQ_freq 0 g,
                 aux := s.rd F.XRD_GEN_AUX_aux 0 g, modeWrite := false, auxWrite := false, otherWrite := false }

/-- A generator starts again at boundary `b`, as at a mode write, with what its registers hold. An impulse armed before stays
armed across a realign, unless its ESI lies before `b`; it is dropped where `drop` holds, at a rate change or an engine start. A
mode or aux write in the gap arms at `b` (R70). A restart for a new Mill image keeps what a realign keeps (log entry 39). -/
def State.genStart (s : State) (drop : Bool) (b g : Nat) : State :=
  let x := s.gen g
  let y := (s.genRegs g).restart (s.rd F.XRD_GEN_AUX_aux 0 g)
  let written := x.modeWrite || x.auxWrite || x.mode != y.mode || x.aux != y.aux
  let kept := if drop then Option.none else x.armed.filter fun (e : Nat) => decide (b ≤ e)
  s.setGen g { y with armed := if y.mode = 3 ∧ written then some (expandEsi b y.aux) else kept, fired := Option.none }

/-- Generator register writes that wait come into force at the block boundary (R70). -/
def State.genBoundary (s : State) (g : Nat) : State :=
  let x := s.gen g
  if !(x.modeWrite || x.auxWrite || x.otherWrite) then s
  else
    let y := s.genRegs g
    let y := if x.modeWrite then { y.restart y.aux with armed := Option.none } else y
    let y := if y.mode = 3 ∧ (x.modeWrite ∨ x.auxWrite) then { y with armed := some (expandEsi s.now y.aux) } else y
    s.setGen g y

/-- One xorshift step of the noise generator. -/
def xorshift (x : Nat) : Nat :=
  let a := x ^^^ (x * 2 ^ 13 % 2 ^ 32)
  let b := a ^^^ (a / 2 ^ 17)
  b ^^^ (b * 2 ^ 5 % 2 ^ 32)

/-- The sine output at a phase. -/
def genSine (phase : Nat) : Int :=
  let j : Nat := phase / 2 ^ 20
  let f : Nat := phase % 2 ^ 20
  sineTab j + ((sineTab (j + 1) - sineTab j) * (f : Int) + 2 ^ 19) / 2 ^ 20

/-- One sample of a generator at data time `e`, before the level, and the generator after it. -/
def Gen.sample (x : Gen) (e : Nat) : Int × Gen :=
  if x.mode = 1 then (genSine x.phase, { x with phase := (x.phase + x.freq) % (2 ^ 32 : Nat) })
  else if x.mode = 2 then (signed 32 (xorshift x.noise) / (16 : Int), { x with noise := xorshift x.noise })
  else if x.mode = 3 then
    (if x.armed = some e ∨ x.fired = some e then 0x08000000 else 0,
     if x.armed = some e then { x with armed := Option.none, fired := some e } else x)
  else if x.mode = 4 then (0x08000000, x)
  else (0, x)

/-- A block of `l` samples of a generator from data time `e`, with the level applied. -/
def Gen.block (x : Gen) (e : Nat) : Nat → List Word × Gen
  | 0 => ([], x)
  | l + 1 =>
    let r := x.sample e
    let t := r.2.block (e + 1) l
    (BitVec.ofInt 32 (applyLevel x.level r.1) :: t.1, t.2)

/-- Test generators of the rate (R45, R72): 64 at ×1, 32 at ×2, 16 at ×4. -/
def State.numGens (s : State) : Nat := 64 / s.mult

/-- Generators write block `n` (Gather). -/
def State.genBlocks (s : State) (n : Nat) : State :=
  (s.xrd.gens.filter fun (e : Nat × Gen) => decide (e.1 < s.numGens)).foldl (fun t e =>
    let r := e.2.block (n * s.blockLen) s.blockLen
    (t.setGen e.1 { r.2 with fired := r.2.fired.filter fun f => decide ((n + 1) * s.blockLen ≤ f) }).putOutput n (genBase s.mult + e.1) (n * s.blockLen) 0 r.1) s

/-! ### Meters (R71, R103, R104) -/

/-- A meter at engine start. -/
def Meter.zero : Meter := ⟨0, -32767 * 256, 0, 0⟩

/-- The RMS shift r_m by rate multiple (R103). -/
def rmsShift (k : Nat) : Nat := if k = 1 then 14 else if k = 2 then 15 else 16

/-- One block of a meter: (peak, RMS value), and the meter with its hold run (R103, R104). -/
def Meter.block (m : Meter) (k fs l hold decay : Nat) (xs : List Int) : (Nat × Nat) × Meter :=
  let pk := xs.foldl (fun a x => max a (mag x)) 0
  let p := xs.foldl (fun (p : Int) x => p + ((x * x) / 2 ^ 22 - p) / 2 ^ rmsShift k) (m.power : Int)
  let rms := min (isqrt (p.toNat * 2 ^ 22)) (2 ^ 31 - 1)
  let hb := (hold * fs + 500 * l) / (1000 * l)
  let dd := (decay * 65536 * l + 5 * fs) / (10 * fs)
  let m' : Meter :=
    if pk ≥ m.amp then
      ⟨p.toNat, if pk = 0 then -32767 * 256 else (lg2 pk 27 * 98641 + 2 ^ 13) / 2 ^ 14, pk, 0⟩
    else if m.count < hb then ⟨p.toNat, m.held, m.amp, m.count + 1⟩
    else
      let h := m.held - dd
      ⟨p.toNat, h, if h ≤ -32767 * 256 then 0 else (applyVal ((h + 128) / 256) 0x08000000).toNat, m.count⟩
  ((pk, rms), m')

/-- Meter tap `t` of a block: its 16-byte record (R71). -/
def State.meterTap (s : State) (t : Nat) (smp : List Word) (tag : Nat) : State :=
  let m := (assoc? s.xrd.taps t).getD Meter.zero
  let r := m.block s.mult s.fs s.blockLen (s.rd F.XRD_MTAP_CFG_hold_ms) (s.rd F.XRD_MTAP_CFG_decay) (smp.map (·.toInt))
  let a := s.rd F.XRD_MTAP_BASE_base + 16 * t
  ({ s with xrd := { s.xrd with taps := assocPut s.xrd.taps t r.2 } } : State).engineBytes a
    (leBytes 4 r.1.1 ++ leBytes 4 r.1.2 ++ leBytes 4 r.2.amp ++ leBytes 4 (bitsOf tag 16 32))

/-- Sources with a history ring keep block `n` in it, and the place it was written to is kept with it, so that a later change
of `h` or of the ring serves it as it was written (R64). -/
def State.writeHistory (s : State) (n : Nat) : State :=
  s.xrd.srcTab.foldl (fun t e =>
    let h := bitsOf e.2 6 6
    if h = 0 then t
    else
      let a := s.rd F.XRD_POOL_BASE_base + bitsOf e.2 12 20 * 8 + n % h * (4 * s.blockLen + 8)
      let kept := ((n, a) :: (assoc? t.xrd.rings e.1).getD []).take 32
      let u : State := { t with xrd := { t.xrd with rings := assocPut t.xrd.rings e.1 kept } }
      u.engineBytes a ((s.srcBlock n e.1).foldr (fun w acc => leBytes 4 w.toNat ++ acc) (leBytes 8 (s.srcTag n e.1)))) s

/-- Network transmit and local output destinations (R46). -/
def egressDest (k d : Nat) : Bool := 7808 / k ≤ d && d < 12672 / k + 4

/-- The Quiet mute, then the PFAIL egress fade, on the presentation of an egress destination (R372, R523, R583). -/
def State.egressScale (s : State) (n : Nat) (p : List Word × Nat) : List Word × Nat :=
  let e := n * s.blockLen
  let c := condMerge (s.modes.quiet.cond e) (s.modes.egress.cond e)
  if c = 0 then p
  else
    (p.1.zipIdx.map (fun (x : Word × Nat) => BitVec.ofInt 32
      (scaleBy (s.modes.egress.gain (e + x.2)) (scaleBy (s.modes.quiet.gain (e + x.2)) x.1.toInt))),
     setBitsOf p.2 5 3 (condMerge (tagCond p.2) c))

/-- The Route stage of block `n`: every route-stage destination is presented; meter taps are measured; the block
staged before goes to Emit (R20, R47, R71). -/
def State.routeStage (s : State) (n : Nat) : State :=
  let k := s.mult
  let s0 := { s with eng := { s.eng with emitting := s.eng.staged, staged := [], sent := ((s.now / s.blockLen, s.eng.staged) :: s.eng.sent).take 8 } }
  let s1 := s0.xrd.dests.foldl (fun t e =>
    if workDest k e.1 then t
    else
      let r := t.present e.1 n
      let q := if egressDest k e.1 then t.egressScale n r.1 else r.1
      { r.2 with eng := { r.2.eng with staged := assocPut r.2.eng.staged e.1 (q.2, q.1) } }) s0
  if s.rd F.XRD_MTAP_BASE_base = 0 then s1
  else
    (List.range (2048 / k)).foldl (fun t i =>
      match assoc? s1.eng.staged (tapBase k + i) with
      | some p => t.meterTap i p.2 p.1
      | none => let z := s.sideBlock n unpatched 0; t.meterTap i z.1 z.2) s1

/-- The data time at which destination `d` is presented now. -/
def State.presentTime (s : State) (d : Nat) : Nat :=
  let l := s.blockLen
  s.now / l * l - (if workDest s.mult d then l else 2 * l)

/-- Destinations with a fade running at the latest block boundary (XRD_FADES). -/
def State.countFades (s : State) : State :=
  s.wr F.XRD_FADES_active (s.xrd.dests.filter fun (e : Nat × Dest) => liveFades (s.now / s.blockLen * s.blockLen) e.2.fades != []).length

/-! ### Commands -/

/-- ROUTE_FADE_END (R55, R59): after n_f samples of pipeline time the fade ends and the new side stands alone; a change
that waited for the slot begins where the older fade ended. -/
def execRouteFadeEnd (dest : Nat) (s : State) : Host.Outcome State Fault Refusal :=
  let t := s.destAdvance dest (s.presentTime dest)
  .next (if (t.dest dest).deferred.any fun (c : Nat) => decide (c ≤ s.presentTime dest) then t.beginDeferred dest else t).countFades

/-- A swap's routes are still to come into force at a sample up to `c` (R125). -/
def State.swapBefore (s : State) (c : Nat) : Bool := s.scn.desc.any fun (d : SwapDesc) => !d.switched && decide (d.s ≤ c)

/-- DEFERRED_ROUTE_CHANGE (R59): a deferred change begins at the sample where the older of the two fades ends, once the
engine ESI has reached it. -/
def execDeferredRouteChange (dest : Nat) (s : State) : Host.Outcome State Fault Refusal :=
  .next (match (s.dest dest).deferred with
    | some c => if c ≤ s.now ∧ !s.swapBefore c then s.beginDeferred dest else s
    | none => s)

/-- GEN_MODE_WRITE (R70): a write of XRD_GEN_CTRLg; a change of mode restarts the generator from aux at the next block
boundary and arms an impulse in impulse mode; a change of level alone restarts nothing. -/
def execGenModeWrite (g : Nat) (value : Word) (s : State) : Host.Outcome State Fault Refusal :=
  let changes := bitsOf value.toNat 0 3 != s.rd F.XRD_GEN_CTRL_mode 0 g
  let x := s.gen g
  .next (if g < s.numGens then
    ((s.wr F.XRD_GEN_CTRL_mode (bitsOf value.toNat 0 3) 0 g).wr F.XRD_GEN_CTRL_level (bitsOf value.toNat 16 16) 0 g).setGen g
      { x with modeWrite := x.modeWrite || changes, otherWrite := true }
    else s)

/-- GEN_AUX_WRITE (R70): a write of XRD_GEN_AUXg; while the mode is impulse it arms the impulse again at the next
block boundary. -/
def execGenAuxWrite (g : Nat) (value : Word) (s : State) : Host.Outcome State Fault Refusal :=
  .next (if g < s.numGens then (s.wr F.XRD_GEN_AUX_aux value.toNat 0 g).setGen g { s.gen g with auxWrite := true } else s)

/-- IMPULSE_FIRE (R70): when data time reaches the armed ESI, the impulse fires, once per arming. -/
def execImpulseFire (g : Nat) (s : State) : Host.Outcome State Fault Refusal :=
  let x := s.gen g
  .next (if s.running && x.mode == 3 && x.armed == some s.now then
      s.setGen g { x with armed := Option.none, fired := some s.now }
    else s)

end Sys2Proof.Machine
end

