-- ==== Sys2Proof/Machine/Strips.lean ====
section
/-! DEFINITION. Channel strips, buses, matrices and the send field (chapter 3): the arithmetic of every stage, the sends,
the meters, and the Work of a block for the active strips. -/
namespace Sys2Proof.Machine

/-! ### Records in force (R73–R75, R87, R88) -/

/-- The word in force at bank byte offset `o` (a multiple of 4). -/
def State.force (s : State) (o : Nat) : Nat := (sparseGet (fun _ => (0 : Word)) s.scn.force o).toNat

/-- Put a word in force. -/
def State.setForce (s : State) (o : Nat) (v : Word) : State :=
  { s with scn := { s.scn with force := sparseSet (fun _ => (0 : Word)) s.scn.force o v } }

/-- The 16-bit field in force at bank byte offset `o`. -/
def State.forceHalf (s : State) (o : Nat) : Nat := bitsOf (s.force (o / 4 * 4)) (8 * (o % 4)) 16

/-- Counts of R74. -/
def numInputs (k : Nat) : Nat := 2048 / k
def numBuses (k : Nat) : Nat := 512 / k
def numMatrices (k : Nat) : Nat := 256 / k

/-- Kind of a strip key: 0 input, 1 bus, 2 matrix. -/
def stripKind (key : Nat) : Nat := key / 4096
def stripIdx (key : Nat) : Nat := key % 4096

/-- Bank offset of a strip's record (R73). -/
def State.recBase (s : State) (key : Nat) : Nat :=
  (if stripKind key = 0 then s.rd F.SCN_IN_BASE_offset
   else if stripKind key = 1 then s.rd F.SCN_BUS_BASE_offset else s.rd F.SCN_MTX_BASE_offset) + 512 * stripIdx key

/-- The 128 words of a strip's record in force. -/
def State.record (s : State) (key : Nat) : List Nat := (List.range 128).map fun i => s.force (s.recBase key + 4 * i)

/-- Record fields. -/
def recWord (r : List Nat) (o : Nat) : Nat := r.getD (o / 4) 0
def recHalf (r : List Nat) (o : Nat) : Nat := bitsOf (recWord r o) (8 * (o % 4)) 16
def recSigned (r : List Nat) (o : Nat) : Int := max (-32767) (signed 16 (recHalf r o))
def recFlag (r : List Nat) (i : Nat) : Bool := bitAt (recWord r 0) i
def recFlag2 (r : List Nat) (i : Nat) : Bool := bitAt (recWord r 0x38) i
/-- A time coefficient, Q1.31, at most 2^31 (R79). -/
def recCoef (r : List Nat) (o : Nat) : Nat := min (recWord r o) (2 ^ 31)
/-- lat and sum_lat (R86, R87), 0–32; a bus or matrix lat below sum_lat is used as sum_lat. -/
def recSumLat (r : List Nat) : Nat := min (bitsOf (recWord r 0x3C) 8 8) 32
def recLat (kind : Nat) (r : List Nat) : Nat :=
  let l := min (bitsOf (recWord r 0x3C) 0 8) 32
  if kind = 0 then l else max l (recSumLat r)

/-! ### Strip state -/

/-- A biquad, dynamics and a strip at engine start: zeros (R79, R90–R92, R103). -/
def Biquad.zero : Biquad := ⟨0, 0, 0, 0⟩
def Proc.zero : Proc := ⟨List.replicate 15 Biquad.zero, 0, 0, false, 0, 0, 0, 0⟩
def Strip.zero : Strip :=
  ⟨Proc.zero, [], [], List.replicate 3 Meter.zero, [], [], [], [], 0, 0, 0, 0⟩

/-- The strip of a key, if active. -/
def State.strip? (s : State) (key : Nat) : Option Strip := assoc? s.scn.strips key

/-- Replace an active strip, keeping program order. -/
def State.setStrip (s : State) (key : Nat) (x : Strip) : State :=
  { s with scn := { s.scn with strips := s.scn.strips.map fun (e : Nat × Strip) => if e.1 = key then (key, x) else e } }

/-! ### Biquads (R79, R84) -/

/-- One sample of biquad `i` of a record: its output and next state. -/
def bqStep (r : List Nat) (i : Nat) (b : Biquad) (x : Int) : Int × Biquad :=
  let c (j : Nat) : Int := signed 32 (recWord r (0x40 + 20 * i + 4 * j))
  let acc := c 0 * x + c 1 * b.x1 + c 2 * b.x2 + c 3 * b.y1 + c 4 * b.y2
  let y := satTo 32 ((acc + 2 ^ 28) / 2 ^ 29)
  (y, ⟨x, b.x1, y, b.y1⟩)

/-- Biquad `i` on a processing state: a disabled biquad passes its input, its state advances all the same (R84). -/
def procBq (r : List Nat) (i : Nat) (p : Proc) (x : Int) : Int × Proc :=
  let t := bqStep r i (at0 Biquad.zero p.bq i) x
  (if recFlag2 r i then t.1 else x, { p with bq := setAt p.bq i t.2 })

/-- One strip in flight through a sample: its record, state, dual-runs, data time, signal and makeup word. -/
structure Lane where
  record : List Nat
  proc : Proc
  duals : List DualRun
  e : Nat
  x : Int
  makeup : Nat
  /-- reductions, clamps and gate state of this sample, for the meters -/
  grComp : Int
  grGate : Int
  clamped : Bool
  deriving DecidableEq, Repr

/-- The dual-run of `unit` that runs at the lane's sample. -/
def Lane.dual? (a : Lane) (unit : Nat) : Option DualRun :=
  a.duals.find? fun d => d.unit == unit && d.start ≤ a.e && a.e < d.start + d.len

/-- Store a dual-run's advanced old state. -/
def Lane.setDual (a : Lane) (unit : Nat) (p : Proc) : Lane :=
  { a with duals := a.duals.map fun (d : DualRun) => if d.unit = unit then { d with proc := p } else d }

/-- Biquad `i` of a lane with its dual-run (R133–R135). -/
def Lane.bq (a : Lane) (i : Nat) : Lane :=
  let t := procBq a.record i a.proc a.x
  match a.dual? i with
  | none => { a with proc := t.2, x := t.1 }
  | some d =>
    let o := procBq d.record i d.proc a.x
    ({ a with proc := t.2, x := fadeMix 0 d.len (a.e - d.start) o.1 t.1 }).setDual i o.2

/-- The EQ bands 7–14 in series; with eq_on = 0 the section's output is its input (R84). -/
def eqRun (r : List Nat) (p : Proc) (x : Int) : Int × Proc :=
  let t := (List.range 8).foldl (fun (a : Int × Proc) i => procBq r (7 + i) a.2 a.1) (x, p)
  (if recFlag2 r 15 then t.1 else x, t.2)

/-- The EQ of a lane: bands with their own dual-runs, or a dual-run of the whole EQ section for eq_on (R133, R136). -/
def Lane.eq (a : Lane) : Lane :=
  match a.dual? 15 with
  | some d =>
    let t := eqRun a.record a.proc a.x
    let o := eqRun d.record d.proc a.x
    ({ a with proc := t.2, x := fadeMix 0 d.len (a.e - d.start) o.1 t.1 }).setDual 15 o.2
  | none =>
    let t := (List.range 8).foldl (fun (b : Lane) i => b.bq (7 + i)) a
    { t with x := if recFlag2 a.record 15 then t.x else a.x }

/-! ### Dynamics (R89–R95) -/

/-- The detector: (level, next power) for key `k` (R90). -/
def detect (rms : Bool) (r : Nat) (p : Nat) (k : Int) : Int × Nat :=
  if rms then
    let p' := ((p : Int) + ((k * k) / 2 ^ 22 - p) / 2 ^ r).toNat
    (levelPow p', p')
  else (levelAmp (mag k), p)

/-- The smoother (R91): next z, for a target g and coefficient c. -/
def smooth (z g : Int) (c : Nat) : Int := z + ((g * 256 - z) * c + 2 ^ 30) / 2 ^ 31

/-- The smoothed reduction g_s (R91). -/
def smoothed (z : Int) : Int := (z + 128) / 256

/-- One sample of the gate's decision (R92): target, open flag, hold counter. -/
def gateStep (r : List Nat) (opened : Bool) (hc : Nat) (l : Int) : Int × Bool × Nat :=
  let t := recSigned r 0x10
  let h : Int := recHalf r 0x12
  let range : Int := min (recHalf r 0x14) 32767
  let ratio : Int := recHalf r 0x16
  let hold := recWord r 0x18
  let st : Bool × Nat :=
    if l ≥ t then (true, hold)
    else if l < t - h then (if hc > 0 then (opened, hc - 1) else (false, hc))
    else if opened then (true, hold) else (opened, hc)
  let g : Int := if st.1 then 0 else if recFlag r 12 then -(min range (((t - l) * ratio + 128) / 256)) else -range
  (g, st.1, st.2)

/-- The compressor's target (R93). -/
def compTarget (r : List Nat) (l : Int) : Int :=
  let t := recSigned r 0x24
  let s : Int := min (recHalf r 0x26) 32768
  let w : Int := min (recHalf r 0x28) 6144
  let o := l - t
  let u := o + w / 2
  if u ≤ 0 then 0
  else if u ≥ w then -((o * s + 2 ^ 14) / 2 ^ 15)
  else -((u * u * s + w * 32768) / (2 * w * 32768))

/-- A pair of linked strips shares its dynamics (R88, R95). -/
def sharesDyn (even : List Nat) : Bool := recFlag even 5 && recFlag even 6

/-- A record of the odd strip with the dynamics fields (section DYN of R87 and R88) of the even one. -/
def dynOverlay (even odd : List Nat) : List Nat :=
  let mix (m a b : Nat) : Nat := (a &&& m) ||| (b &&& (0xFFFFFFFF - m))
  (List.range 128).map fun i =>
    let a := at0 0 even i
    let b := at0 0 odd i
    if i = 0 then mix 0xF803 a b
    else if i = 14 then mix 0x00FF0070 a b
    else if (4 ≤ i ∧ i < 13) ∨ (36 ≤ i ∧ i < 51) then a else b

/-- The record a strip runs by: where a pair shares its dynamics, the odd strip takes the even strip's dynamics fields
(R95). -/
def State.laneRecord (s : State) (key : Nat) : List Nat :=
  if key % 2 = 1 ∧ sharesDyn (s.record (key - 1)) then dynOverlay (s.record (key - 1)) (s.record key) else s.record key

/-- Levels with sharing: the larger of the two for both. -/
def sharedLevels (shared : Bool) (ls : List Int) : List Int :=
  if shared then let m := ls.foldl max (-32767); ls.map fun _ => m else ls

/-- The gate over one strip or a pair (R83, R90–R92, R95): per strip (record, state, key), giving the state and g_s. Each strip
of a pair keeps its own RMS power P for its own level, and continues with it when sharing ends; where a swap starts the sharing,
the even strip's z, open flag and hold counter serve both (DESIGN CHOICE, log entry 48). -/
def gateCore (shared : Bool) (xs : List (List Nat × Proc × Int)) : List (Proc × Int) :=
  let rec0 := (xs.head?.map (·.1)).getD []
  let p0 := (xs.head?.map (·.2.1)).getD Proc.zero
  let det := xs.map fun t => detect (recFlag t.1 13) (bitsOf (recWord t.1 0x38) 16 4) t.2.1.gateP t.2.2
  let ls := sharedLevels shared (det.map (·.1))
  (xs.zip (det.zip ls)).map fun t =>
    let r := if shared then rec0 else t.1.1
    let p := if shared then p0 else t.1.2.1
    let g := gateStep r p.gateOpen p.gateHold t.2.2
    let z := smooth p.gateZ g.1 (if g.1 * 256 > p.gateZ then recCoef r 0x1C else recCoef r 0x20)
    ({ t.1.2.1 with gateP := t.2.1.2, gateZ := z, gateOpen := g.2.1, gateHold := g.2.2 }, smoothed z)

/-- The compressor over one strip or a pair (R90, R91, R93, R95). -/
def compCore (shared : Bool) (xs : List (List Nat × Proc × Int)) : List (Proc × Int) :=
  let rec0 := (xs.head?.map (·.1)).getD []
  let p0 := (xs.head?.map (·.2.1)).getD Proc.zero
  let det := xs.map fun t => detect (recFlag t.1 15) (bitsOf (recWord t.1 0x38) 20 4) t.2.1.compP t.2.2
  let ls := sharedLevels shared (det.map (·.1))
  (xs.zip (det.zip ls)).map fun t =>
    let r := if shared then rec0 else t.1.1
    let p := if shared then p0 else t.1.2.1
    let g := compTarget r t.2.2
    let z := smooth p.compZ g (if g * 256 < p.compZ then recCoef r 0x2C else recCoef r 0x30)
    ({ t.1.2.1 with compP := t.2.1.2, compZ := z }, smoothed z)

/-- The limiter over one strip or a pair (R91, R94, R95). -/
def limCore (shared : Bool) (xs : List (List Nat × Proc × Int)) : List (Proc × Int) :=
  let rec0 := (xs.head?.map (·.1)).getD []
  let p0 := (xs.head?.map (·.2.1)).getD Proc.zero
  let ls := sharedLevels shared (xs.map fun t => levelAmp (mag t.2.2))
  (xs.zip ls).map fun t =>
    let r := if shared then rec0 else t.1.1
    let p := if shared then p0 else t.1.2.1
    let g := min 0 (recSigned r 0x10 - t.2)
    let z := smooth p.limZ g (if g * 256 < p.limZ then recCoef r 0x1C else recCoef r 0x20)
    ({ t.1.2.1 with limZ := z }, smoothed z)

/-- Gate gain (R91): g_s clamped to -32767…0; a disabled gate applies 0 dB. -/
def gateApply (r : List Nat) (gs x : Int) : Int := if recFlag r 11 then applyVal (max (-32767) (min 0 gs)) x else x

/-- Compressor gain (R91): g_s + comp_makeup clamped; off with comp_makeup 0x8000; 0 dB when disabled. -/
def compApply (r : List Nat) (makeup : Nat) (gs x : Int) : Int :=
  if !recFlag r 14 then x
  else if makeup = 0x8000 then 0 else applyVal (clampLevel (gs + levelVal makeup)) x

/-- The limiter's clamp a_c (R94). -/
def limCeiling (r : List Nat) : Int := applyVal (recSigned r 0x10) 0x08000000

/-- Limiter gain and clamp (R94): the sample and whether it was clamped. -/
def limApply (r : List Nat) (gs x : Int) : Int × Bool :=
  if !recFlag r 11 then (x, false)
  else
    let y := applyVal (max (-32767) (min 0 gs)) x
    let c := limCeiling r
    if y > c then (c, true) else if y < -c then (-c, true) else (y, false)

/-- The old run of a dynamics unit over the lanes: the dual-run's record and state where one runs. -/
def oldRuns (unit : Nat) (as : List Lane) (keys : List Int) : List (List Nat × Proc × Int) :=
  (as.zip keys).map fun t => match t.1.dual? unit with
    | some d => (d.record, d.proc, t.2)
    | none => (t.1.record, t.1.proc, t.2)

/-- Mix an old run's output into the lane (R135) and keep the old run's state. -/
def Lane.mixOld (a : Lane) (unit : Nat) (oldOut : Int) (oldProc : Proc) : Lane :=
  match a.dual? unit with
  | none => a
  | some d => ({ a with x := fadeMix 0 d.len (a.e - d.start) oldOut a.x }).setDual unit oldProc

/-- The gate stage of the lanes: key through biquads 4 and 5 (R83), shared where linked (R95), dual-run 16. -/
def gateLanes (shared : Bool) (as : List Lane) : List Lane :=
  let keyed := as.map fun a => (a.bq 4).bq 5
  let keys := keyed.map (·.x)
  let bases := (as.zip keyed).map fun (t : Lane × Lane) => { t.2 with x := t.1.x }
  let new := gateCore shared ((bases.zip keys).map fun t => (t.1.record, t.1.proc, t.2))
  let old := gateCore shared (oldRuns 16 bases keys)
  let r0 := (as.head?.map (·.record)).getD []
  (bases.zip (new.zip old)).map fun t =>
    let r := if shared then r0 else t.1.record
    let a := { t.1 with proc := { t.2.1.1 with bq := t.1.proc.bq }, x := gateApply r t.2.1.2 t.1.x, grGate := t.2.1.2 }
    let ro := match t.1.dual? 16 with | some d => d.record | none => r
    a.mixOld 16 (gateApply ro t.2.2.2 t.1.x) t.2.2.1

/-- The compressor stage of the lanes: key through biquad 6, dual-run 17. -/
def compLanes (shared : Bool) (as : List Lane) : List Lane :=
  let keyed := as.map fun a => a.bq 6
  let keys := keyed.map (·.x)
  let bases := (as.zip keyed).map fun (t : Lane × Lane) => { t.2 with x := t.1.x }
  let new := compCore shared ((bases.zip keys).map fun t => (t.1.record, t.1.proc, t.2))
  let old := compCore shared (oldRuns 17 bases keys)
  let r0 := (as.head?.map (·.record)).getD []
  let m0 := (as.head?.map (·.makeup)).getD 0
  (bases.zip (new.zip old)).map fun t =>
    let r := if shared then r0 else t.1.record
    let m := if shared then m0 else t.1.makeup
    let a := { t.1 with proc := { t.2.1.1 with bq := t.1.proc.bq }, x := compApply r m t.2.1.2 t.1.x, grComp := t.2.1.2 }
    let old := match t.1.dual? 17 with | some d => (d.record, d.makeup) | none => (r, m)
    a.mixOld 17 (compApply old.1 old.2 t.2.2.2 t.1.x) t.2.2.1

/-- The limiter stage of the lanes, dual-run 16 on buses and matrices. -/
def limLanes (shared : Bool) (as : List Lane) : List Lane :=
  let keys := as.map (·.x)
  let new := limCore shared ((as.zip keys).map fun t => (t.1.record, t.1.proc, t.2))
  let sharedOld := match as.head?.bind fun a => a.dual? 16 with
    | some d => as.length == 2 && sharesDyn d.record
    | none => shared
  let old := limCore sharedOld (oldRuns 16 as keys)
  let r0 := (as.head?.map (·.record)).getD []
  (as.zip (new.zip old)).map fun t =>
    let r := if shared then r0 else t.1.record
    let y := limApply r t.2.1.2 t.1.x
    let a := { t.1 with proc := t.2.1.1, x := y.1, grGate := t.2.1.2, clamped := y.2 }
    let ro := match t.1.dual? 16 with | some d => d.record | none => r
    a.mixOld 16 (limApply ro t.2.2.2 t.1.x).1 t.2.2.1

/-- The stages of the dynamics-and-EQ section in their order (R83, R88, R98): 0 gate, 1 compressor, 2 EQ. -/
def sectionOrder (kind : Nat) (r : List Nat) : List Nat :=
  if kind = 0 then
    match bitsOf (recWord r 0) 0 2 with
    | 0 => [0, 1, 2] | 1 => [0, 2, 1] | 2 => [2, 0, 1] | _ => [2, 1, 0]
  else if recFlag r 0 then [1, 2] else [2, 1]

/-- Run the section over the lanes. -/
def runSection (order : List Nat) (shared : Bool) (as : List Lane) : List Lane :=
  order.foldl (fun xs o =>
    if o = 0 then gateLanes shared xs else if o = 1 then compLanes shared xs else xs.map Lane.eq) as

/-- The section of the lanes: a pair that shares its dynamics runs together in the even strip's order, other strips each in
their own (R83, R95). -/
def runStrips (kind : Nat) (shared : Bool) (as : List Lane) : List Lane :=
  if shared then runSection (sectionOrder kind ((as.head?.map (·.record)).getD [])) true as
  else as.flatMap fun (a : Lane) => runSection (sectionOrder kind a.record) false [a]

/-- The lanes form a pair that shares its dynamics (R95). -/
def pairShares (as : List Lane) : Bool := as.length == 2 && sharesDyn ((as.head?.map (·.record)).getD [])

/-- The section with its section-level dual-run 21 (R133, R136): the old run uses every old field. -/
def sectionLanes (kind : Nat) (as : List Lane) : List Lane :=
  let inner := as.any fun a => (a.dual? 21).isSome
  if !inner then runStrips kind (pairShares as) as
  else
    let bare := as.map fun (a : Lane) => { a with duals := [] }
    let new := runStrips kind (pairShares as) bare
    let olds := as.map fun a => match a.dual? 21 with
      | some d => { a with record := d.record, proc := d.proc, makeup := d.makeup, duals := [] }
      | none => { a with duals := [] }
    let oldOut := runStrips kind (pairShares olds) olds
    (as.zip (new.zip oldOut)).map fun t =>
      ({ t.2.1 with duals := t.1.duals }).mixOld 21 t.2.2.x t.2.2.proc

/-! ### Ramps (R114–R118) -/

/-- FLOOR of R114. -/
def rampFloor : Int := -24576 * 256

/-- The ramp value a level word stands for (R114). -/
def rampTarget (w : Nat) : Int := if w % 65536 = 0x8000 then rampFloor else 256 * levelVal w

/-- cur of a ramp at data time `e` (R114). -/
def Ramp.curAt (r : Ramp) (e : Nat) : Int :=
  if e < r.at0 then r.start
  else if e - r.at0 ≥ r.len then r.start + r.delta
  else r.start + quot (r.delta * (e - r.at0 + 1 : Nat)) r.len

/-- The word a ramp applies at data time `e`, 16 bits (R114, R115). -/
def Ramp.wordAt (r : Ramp) (e : Nat) : Nat :=
  if e < r.at0 then r.before
  else if e - r.at0 ≥ r.len then r.target
  else if r.target = 0x8000 ∧ e - r.at0 = r.len - 1 then 0x8000
  else unsigned 16 ((r.curAt e + 128) / 256)

/-- The applied level word at bank offset `o` whose settled word is `w`, at data time `e`. -/
def State.levelAt (s : State) (o w e : Nat) : Nat :=
  match assoc? s.scn.ramps o with
  | none => w
  | some r => r.wordAt e

/-- Start, restart or retarget the ramp of the word at `o` at data time `c` (R114, R115): `old` the settled word in force
before, `new` the new one, `n` the ramp length. A change between equal values with no ramp running is a step at `c`: a ramp of
no samples. -/
def State.rampTo (s : State) (o old new c n : Nat) : State :=
  let put (r : Ramp) : State := { s with scn := { s.scn with ramps := assocPut s.scn.ramps o r } }
  match (assoc? s.scn.ramps o).filter fun (r : Ramp) => decide (c < r.at0 + r.len) with
  | some r =>
    if rampTarget r.target = rampTarget new then put { r with target := new }
    else put ⟨r.curAt (c - 1), rampTarget new - r.curAt (c - 1), c, n, new, r.wordAt (c - 1)⟩
  | none =>
    if old = new then s
    else if rampTarget old = rampTarget new then put ⟨rampTarget new, 0, c, 0, new, old⟩
    else put ⟨rampTarget old, rampTarget new - rampTarget old, c, n, new, old⟩

/-- Ramp kinds (R143): the time of kind `k`, or SCN_SWAP_RAMP for a ramp that starts at a swap (R118). -/
def State.rampLen (s : State) (kind : Nat) (atSwap : Bool) : Nat :=
  let t := s.rd F.RMP_TIME_ms 0 kind
  let w := s.lv F.SCN_SWAP_RAMP_ms
  msSamples (if atSwap ∧ w ≠ 0 then w else t) s.fs

/-- The applied mute word of a strip at data time `e`: unity or off, ramped (R81, R116). -/
def State.muteAt (s : State) (key : Nat) (r : List Nat) (e : Nat) : Nat :=
  s.levelAt (s.recBase key) (if recFlag r 3 then 0x8000 else 0) e

/-! ### Pan (R96, R117) -/

/-- Pan gains of a pan word and law (R96). -/
def panGains (law : Nat) (pan : Int) : Nat × Nat :=
  let q := ((pan + 32767).toNat * 2 ^ 30) / 65534
  let linR := q / 2 ^ 15
  let linL := 32768 - linR
  let powR := isqrt q
  let powL := isqrt (2 ^ 30 - q)
  if law = 0 then (powL, powR)
  else if law = 1 then (isqrt (linL * powL), isqrt (linR * powR))
  else if law = 2 then (linL, linR)
  else (min 32768 ((2 ^ 30 - q) / 2 ^ 14), min 32768 (q / 2 ^ 14))

/-- The pan gains of a record. -/
def recPan (r : List Nat) : Nat × Nat := panGains (bitsOf (recWord r 0) 7 2) (recSigned r 8)

/-- The pan gains that pan, pan_law and link give input strip `key`: a linked pair takes the even strip's word and law (R96,
R102). -/
def State.panGoal (s : State) (key : Nat) : Nat × Nat :=
  let even := key / 2 * 2
  recPan (if recFlag (s.record even) 5 then s.record even else s.record key)

/-- A pan-gain ramp at data time `e` (R117). -/
def PanRamp.at' (r : PanRamp) (e : Nat) : Int × Int :=
  if e < r.at0 then (r.l0, r.r0)
  else if e - r.at0 ≥ r.len then (r.l1, r.r1)
  else (r.l0 + quot ((r.l1 - r.l0) * (e - r.at0 + 1 : Nat)) r.len, r.r0 + quot ((r.r1 - r.r0) * (e - r.at0 + 1 : Nat)) r.len)

/-- The pan gains of strip `key` at data time `e` (R117). -/
def State.panAt (s : State) (key e : Nat) : Int × Int :=
  match assoc? s.scn.panRamps (s.recBase key + 8) with
  | none => let g := s.panGoal key; (g.1, g.2)
  | some r => r.at' e

/-- A pan-gain ramp of strip `key` from what it applies before data time `c` to what its fields now give, over `n` samples. -/
def State.panRampTo (s : State) (key : Nat) (from' : Int × Int) (c n : Nat) : State :=
  let g := s.panGoal key
  { s with scn := { s.scn with panRamps := assocPut s.scn.panRamps (s.recBase key + 8) ⟨from'.1, from'.2, g.1, g.2, c, n⟩ } }

/-- Apply a pan gain (R96). -/
def applyPan (g x : Int) : Int := (x * g + 2 ^ 14) / 2 ^ 15

/-! ### The send field (R99–R102) -/

/-- Bank offset of the level word of send `i` (R99); `mtx` for bus-to-matrix. -/
def State.sendAt (s : State) (mtx : Bool) (i : Nat) : Nat :=
  (if mtx then s.rd F.SCN_BM_SEND_offset else s.rd F.SCN_IB_SEND_offset) + 2 * i

/-- The tap code of send `i` (R99). -/
def State.tapCode (s : State) (mtx : Bool) (i : Nat) : Nat :=
  bitsOf (s.force ((if mtx then s.rd F.SCN_BM_TAP_offset else s.rd F.SCN_IB_TAP_offset) + 4 * (i / 16))) (2 * (i % 16)) 2

/-- How strip `key` sends to bus or matrix `b`, by the fields in force (R99–R102). -/
def State.sendForm (s : State) (key b : Nat) : Option SendForm :=
  let k := s.mult
  if stripKind key = 0 then
    let nb := numBuses k
    let si := stripIdx key
    let be := b / 2 * 2
    let pair := recFlag (s.record (4096 + be)) 5
    let govern := s.tapCode false (si * nb + be) == 2
    if pair && govern then
      -- a panned send to the pair, governed by the entry at (s, b even)
      let even := si / 2 * 2
      let linked := recFlag (s.record even) 5
      if !linked then some ⟨2, s.sendAt false (si * nb + be), if b = be then 1 else 2⟩
      else if si = even ∧ b = be then some ⟨2, s.sendAt false (si * nb + be), 1⟩
      else if si ≠ even ∧ b ≠ be then some ⟨2, s.sendAt false (si * nb + be), 2⟩
      else none
    else
      let t := s.tapCode false (si * nb + b)
      some ⟨if t = 2 then 3 else t, s.sendAt false (si * nb + b), 0⟩
  else
    let i := stripIdx key * numMatrices k + b
    let t := s.tapCode true i
    some ⟨if t = 2 then 3 else t, s.sendAt true i, 0⟩

/-- The tap signal of a tap code from a strip's signals (R100). -/
def tapSignal (sigs : List (List Int)) (tap : Nat) (i : Nat) : Int :=
  at0 0 (at0 [] sigs (if tap = 0 then 1 else if tap = 1 then 5 else 6)) i

/-- A contribution in a given form at data time `e`, sample `i` of its block (R100, R101): the level word as it ramps, the mute
word `mute` where mute_sends asks for it, and the pan gains `g`. -/
def State.contribution (s : State) (muteSends : Bool) (mute : Nat) (g : Int × Int) (sigs : List (List Int)) (f : Option SendForm) (e i : Nat) : Int :=
  match f with
  | none => 0
  | some f =>
    let y := applyLevel (s.levelAt f.levelAt (s.forceHalf f.levelAt) e) (tapSignal sigs f.tap i)
    let y := if muteSends && f.tap < 2 then applyLevel mute y else y
    if f.side = 0 then y else applyPan (if f.side = 1 then g.1 else g.2) y

/-- What strip `key` adds to bus or matrix `b` at data time `e` (block `t`, sample `i`), tap crossfades included
(R101, R137); `db` the receiver's sum_lat. A bus formed block `t` in its pipeline block `t` + sum_lat (R86). A loose step of a
field that does not ramp acts on what the receiver sums from the boundary on (DESIGN CHOICE, log entry 49). -/
def State.sendSample (s : State) (key b db t i : Nat) : Int :=
  match s.strip? key with
  | none => 0
  | some st =>
    let r := s.record key
    if recLat (stripKind key) r > db then 0
    else
      let e := t * s.blockLen + i
      let own := t + (if stripKind key = 0 then 0 else recSumLat r)
      let sigs := (assoc? st.taps own).getD []
      let mute := s.muteAt key r (own * s.blockLen + i)
      let new := s.contribution (recFlag r 4) mute (s.panAt key e) sigs (s.sendForm key b) e i
      match st.tapFades.find? (fun f => f.which == 2 + b && e < f.start + f.len) with
      | none => new
      | some f =>
        let old := s.contribution f.muteSends mute (f.pan, f.pan) sigs f.form e i
        if e < f.start then old else fadeMix 0 f.len (e - f.start) old new

/-- The input of bus or matrix `key` at sample `i` of data-time block `t`: the exact sum, saturated once (R101). -/
def State.sumSends (s : State) (key t i : Nat) : Int :=
  let db := recSumLat (s.record key)
  let senders := s.scn.strips.filter fun e => stripKind e.1 + 1 == stripKind key
  satTo 32 (senders.foldl (fun a e => a + s.sendSample e.1 (stripIdx key) db t i) 0)

/-! ### One sample of a strip or a linked pair -/

/-- Crossroads source indexes of a strip (R45): direct out or output, insert send x. -/
def State.stripSource (s : State) (key : Nat) : Nat :=
  let k := s.mult
  (if stripKind key = 0 then 5120 / k else if stripKind key = 1 then 7168 / k else 7680 / k) + stripIdx key
def State.stripInsertSource (s : State) (key x : Nat) : Nat :=
  let k := s.mult
  (if stripKind key = 0 then 7936 / k else if stripKind key = 1 then 12032 / k else 13056 / k) + 2 * stripIdx key + x
/-- Crossroads destinations of a strip (R46): input, insert return x. -/
def State.stripReturnDest (s : State) (key x : Nat) : Nat :=
  let k := s.mult
  (if stripKind key = 0 then 2176 / k else if stripKind key = 1 then 6272 / k else 7296 / k) + 2 * stripIdx key + x

/-- Insert point `x` (R85): off ignores the return; on with an unpatched return uses the send itself. -/
def insertValue (on patched : Bool) (send ret : Int) : Int := if on && patched then ret else send

/-- An insert point of a lane with its dual-run 19 or 20, whose old run has `old` returned (R133, R217). -/
def Lane.insert (a : Lane) (x : Nat) (patched : Bool) (ret old : Int) : Lane :=
  let y := insertValue (recFlag a.record (16 + x)) patched a.x ret
  match a.dual? (19 + x) with
  | none => { a with x := y }
  | some d => { a with x := fadeMix 0 d.len (a.e - d.start) (insertValue (recFlag d.record (16 + x)) patched a.x old) y }

/-- Polarity with its dual-run 18 (R82, R133). -/
def Lane.polarity (a : Lane) : Lane :=
  let flip (r : List Nat) (x : Int) : Int := if recFlag r 2 then satTo 32 (-x) else x
  match a.dual? 18 with
  | none => { a with x := flip a.record a.x }
  | some d => { a with x := fadeMix 0 d.len (a.e - d.start) (flip d.record a.x) (flip a.record a.x) }

/-- Delay of D samples from a line that holds the newest sample first (R97), with its tap crossfade (R137). -/
def delayValue (line : List Int) (d : Nat) : Int := at0 0 line d

/-- What a strip feeds into one sample: its input and its insert returns, those of old runs too, with whether each return is
patched. -/
structure StripIn where
  x : Int
  retA : Int
  retB : Int
  oldA : Int
  oldB : Int
  patchedA : Bool
  patchedB : Bool
  deriving DecidableEq, Repr

/-- Clamped delay of a record (R97). -/
def State.delayOf (s : State) (r : List Nat) : Nat := min (recWord r 0xC) (2 * s.fs)

/-- One sample at data time `e` of the strips `keys` (one strip, or a linked pair) of one kind: the strips after it, and
per strip the signals [x1, x2, x3, x4, x5, x6, x8]. -/
def State.stripSample (s : State) (kind : Nat) (keys : List Nat) (sts : List Strip) (ins : List StripIn) (e : Nat) :
    List (Strip × List Int) :=
  let recs := keys.map s.laneRecord
  let lanes0 := (keys.zip (recs.zip (sts.zip ins))).map fun t =>
    let x := t.2.2.2.x
    let x := if kind = 0 then applyLevel (s.levelAt (s.recBase t.1 + 4) (recHalf t.2.1 4) e) x else x
    ({ record := t.2.1, proc := t.2.2.1.proc, duals := t.2.2.1.duals, e := e, x := x,
       makeup := s.levelAt (s.recBase t.1 + 0x2A) (recHalf t.2.1 0x2A) e,
       grComp := 0, grGate := 0, clamped := false } : Lane)
  let lanes1 := if kind = 0 then lanes0.map Lane.polarity else lanes0
  let lanes2 := if kind = 0 then lanes1.map (fun a => (((a.bq 0).bq 1).bq 2).bq 3) else lanes1
  let lanes3 := sectionLanes kind lanes2
  let lanes4 := (lanes3.zip ins).map fun t => t.1.insert 0 t.2.patchedA t.2.retA t.2.oldA
  let lanes5 := (lanes4.zip ins).map fun t => t.1.insert 1 t.2.patchedB t.2.retB t.2.oldB
  let lined := (lanes5.zip sts).map fun t => ((t.1.x :: t.2.line).take (2 * s.fs + 1))
  let lanes6 := (lanes5.zip (lined.zip sts)).map fun (t : Lane × (List Int × Strip)) =>
    let y := delayValue t.2.1 (s.delayOf t.1.record)
    let y := match t.2.2.tapFades.find? (fun f => f.which == 0 && f.start ≤ e && e < f.start + f.len) with
      | none => y
      | some f => fadeMix 0 f.len (e - f.start) (delayValue t.2.1 f.oldVal) y
    { t.1 with x := y }
  let lanes7 := (lanes6.zip keys).map fun (t : Lane × Nat) =>
    let y := applyLevel (s.levelAt (s.recBase t.2 + 6) (recHalf t.1.record 6) e) t.1.x
    { t.1 with x := applyLevel (s.muteAt t.2 t.1.record e) y }
  let r0 := (recs.head?).getD []
  let lanes8 := if kind = 0 then lanes7 else limLanes (keys.length == 2 && sharesDyn r0) lanes7
  let idx := List.range keys.length
  idx.map fun j =>
    let st := at0 Strip.zero sts j
    let fin := at0 (Lane.mk [] Proc.zero [] 0 0 0 0 0 false) lanes8 j
    let sec := at0 fin lanes3 j
    let x (ls : List Lane) : Int := (at0 fin ls j).x
    let gs := if kind = 0 then sec.grGate else fin.grGate
    let on11 := recFlag fin.record 11
    ({ st with proc := fin.proc, duals := fin.duals, line := at0 [] lined j,
               grComp := if recFlag fin.record 14 then min st.grComp (max (-32767) sec.grComp) else st.grComp,
               grGate := if on11 then min st.grGate (max (-32767) gs) else st.grGate,
               gateState := (if fin.proc.gateOpen then (if fin.proc.gateHold = recWord fin.record 0x18 then 1 else 2) else 0),
               clamps := if fin.clamped then min (st.clamps + 1) 65535 else st.clamps },
     [x lanes1, x lanes2, x lanes3, x lanes4, x lanes5, x lanes6, x lanes8])

/-! ### A block of a strip (R82, R98, R103–R106) -/

/-- Strips that run together: a linked even strip takes its odd neighbour when the pair shares its dynamics. -/
def State.stripGroup (s : State) (key : Nat) : List Nat :=
  let oldShared := ((s.strip? key).map fun st => st.duals.any fun d => d.unit == 21 && sharesDyn d.record).getD false
  if key % 2 = 0 ∧ (sharesDyn (s.record key) ∨ oldShared) ∧ (s.strip? (key + 1)).isSome then [key, key + 1]
  else [key]

/-- The meter record of a strip (R105). -/
def stripMeterAt (key : Nat) : Nat :=
  (if stripKind key = 0 then 0x02F40000 else if stripKind key = 1 then 0x02F60000 else 0x02F68000) + 64 * stripIdx key

/-- Strip `key` has a lat above a receiver's sum_lat somewhere it sends to (R101). -/
def State.latMismatch (s : State) (key : Nat) : Bool :=
  s.scn.strips.any fun e => stripKind e.1 == stripKind key + 1 &&
    recLat (stripKind key) (s.record key) > recSumLat (s.record e.1) &&
    (match s.sendForm key (stripIdx e.1) with
     | some f => s.forceHalf f.levelAt != 0x8000
     | none => false)

/-- Write the meter record of a strip for the signals of one block, and its meters' next state (R103–R106). -/
def State.stripMeters (s : State) (key : Nat) (st : Strip) (sigs : List (List Int)) (esi : Nat) : State × Strip :=
  let r := s.record key
  let pt (j i : Nat) := (at0 Meter.zero st.meters j).block s.mult s.fs s.blockLen (recHalf r 0x34) (recHalf r 0x36) (at0 [] sigs i)
  let a := pt 0 0
  let b := pt 1 2
  let c := pt 2 6
  let clip (i : Nat) : Nat := b2n ((at0 [] sigs i).any fun x => x == 2 ^ 31 - 1 || x == -(2 ^ 31))
  let status := (if stripKind key = 0 then st.gateState else 0) + 4 * clip 0 + 8 * clip 2 + 16 * clip 6 +
    32 * b2n (s.latMismatch key) + 65536 * st.clamps
  let m := stripMeterAt key
  let words := [a.1.1, a.1.2, a.2.amp, b.1.1, b.1.2, b.2.amp, c.1.1, c.1.2, c.2.amp,
    unsigned 16 st.grComp + 65536 * unsigned 16 st.grGate, status, esi % 2 ^ 32, 0, 0, 0, 0]
  (s.engineBytes m (words.foldr (fun w acc => leBytes 4 w ++ acc) []), { st with meters := [a.2, b.2, c.2] })

/-- The direct-out signal index of a tap (R82, R88). -/
def directSignal (tap : Nat) : Nat := if tap = 0 then 0 else if tap = 1 then 4 else if tap = 2 then 5 else 6

/-- The direct out of an input strip at sample `i` of data-time block `t`: tap, tap crossfade, direct_level. -/
def State.directSample (s : State) (key : Nat) (st : Strip) (sigs : List (List Int)) (t i : Nat) : Int :=
  let r := s.record key
  let e := t * s.blockLen + i
  let v (tap : Nat) : Int := at0 0 (at0 [] sigs (directSignal tap)) i
  let y := match st.tapFades.find? (fun f => f.which == 1 && f.start ≤ e && e < f.start + f.len) with
    | none => v (bitsOf (recWord r 0) 9 2)
    | some f => fadeMix 0 f.len (e - f.start) (v f.oldVal) (v (bitsOf (recWord r 0) 9 2))
  applyLevel (s.levelAt (s.recBase key + 0xA) (recHalf r 0xA) e) y

/-- Samples `lo … hi - 1` of block `n` for a group of strips: each strip's signals are appended. A strip's own ramps and
crossfades stand at n × L + i; for a bus or matrix, whose samples are `sum_lat` blocks older, that is the block in Work and not
the data time of the samples (DESIGN CHOICE, log entry 50). -/
def State.stripSpan (s : State) (keys : List Nat) (n lo hi : Nat) (ins : Nat → List StripIn) : State :=
  let kind := stripKind (keys.headD 0)
  let l := s.blockLen
  let sts := keys.map fun k => (s.strip? k).getD Strip.zero
  let sigs := sts.map fun st => ((assoc? st.taps n).getD (List.replicate 7 [])).take 7
  let r := (List.range (hi - lo)).foldl (fun (a : List Strip × List (List (List Int))) j =>
      let i := lo + j
      let t := s.stripSample kind keys a.1 (ins i) (n * l + i)
      (t.map (·.1), (a.2.zip t).map fun p => (p.1.zip p.2.2).map fun q => q.1 ++ [q.2])) (sts, sigs)
  (keys.zip (r.1.zip r.2)).foldl (fun (t : State) (p : Nat × Strip × List (List Int)) =>
    let before := at0 [] ((assoc? p.2.1.taps n).getD []) 7
    let direct := if kind = 0 then (List.range (hi - lo)).map fun (j : Nat) => s.directSample p.1 p.2.1 p.2.2 n (lo + j) else []
    t.setStrip p.1 { p.2.1 with taps := (assocPut p.2.1.taps n (p.2.2 ++ [before ++ direct])).filter fun (q : Nat × List (List Int)) => decide (n < q.1 + 40) }) s

/-- Key of an insert's host strip. -/
def Insert.hostKey (i : Insert) : Nat := bitsOf i.host 0 2 * 4096 + bitsOf i.host 3 11

/-- The insert instance that point `x` of a strip hosts (R214). -/
def State.hosted (s : State) (key x : Nat) : Option Insert :=
  s.mil.inserts.find? fun (i : Insert) => i.hostKey == key && bitsOf i.host 2 1 == x

/-- The output block of a run of an insert program, whose place in the Mill store the spec does not give: free values (R214,
log entry 28). -/
def State.programBlock (s : State) : List Word × State :=
  ((List.range s.blockLen).map fun (i : Nat) => (Config.freeValue (s.free + i)).setWidth 32, s.useFree s.blockLen)

/-- What returns at insert point `x` of a strip, to the new run and to an old one, and whether something does: the patched
return destination, or the output of the insert program that the point hosts; the old run of a dual-class program has an
output of its own (R84, R214, R217). -/
def State.insertReturn (s : State) (key x n : Nat) : (List Word × List Word × Bool) × State :=
  if (s.hosted key x).isSome then
    let p := s.programBlock
    if (s.strip? key).any fun (st : Strip) => st.duals.any fun (d : DualRun) => d.unit == 19 + x && d.program then
      let q := p.2.programBlock
      ((p.1, q.1, true), q.2)
    else ((p.1, p.1, true), p.2)
  else
    let r := s.present (s.stripReturnDest key x) n
    ((r.1.1, r.1.1, bitsOf r.1.2 50 14 != 16384 / s.mult - 1), r.2)

/-- An input strip's destination is presented for block `n`; its tag is kept for the outputs of that block (R27, R29). -/
def State.hearInput (s : State) (key n : Nat) : (List Word × Nat) × State :=
  let x := s.present (stripIdx key) n
  match x.2.strip? key with
  | none => x
  | some st => (x.1, x.2.setStrip key { st with heard := (assocPut st.heard n x.1.2).filter fun (q : Nat × Nat) => decide (n < q.1 + 40) })

/-- The inputs of a group for block `n`: presented destinations (input strips), sums (buses, matrices), insert
returns. The Crossroads presents each destination as it is read (R20). -/
def State.stripInputs (s : State) (keys : List Nat) (n : Nat) : List (Nat → StripIn) × State :=
  keys.foldl (fun (a : List (Nat → StripIn) × State) k =>
    let t := a.2
    let db := recSumLat (t.record k)
    let x := if stripKind k = 0 then t.hearInput k n
      else (((List.range t.blockLen).map fun i => BitVec.ofInt 32 (t.sumSends k (n - db) i), 0), t)
    let ra := x.2.insertReturn k 0 n
    let rb := ra.2.insertReturn k 1 n
    let v (l : List Word) (j : Nat) : Int := (at0 0 l j).toInt
    (a.1 ++ [fun j => ⟨v x.1.1 j, v ra.1.1 j, v rb.1.1 j, v ra.1.2.1 j, v rb.1.2.1 j, ra.1.2.2, rb.1.2.2⟩], rb.2)) ([], s)

/-- The Work of one active strip (with its partner when they share dynamics) for samples `lo … hi - 1` of block `n`. -/
def State.stripWork (s : State) (key n lo hi : Nat) : State :=
  -- the odd member of a pair that shares its dynamics runs with the even one
  if (s.strip? key).isNone ∨ (key % 2 = 1 ∧ s.stripGroup (key - 1) = [key - 1, key]) then s
  else
    let g := s.stripGroup key
    let i := s.stripInputs g n
    i.2.stripSpan g n lo hi fun j => i.1.map fun x => x j

/-- What the tags of a strip's outputs for block `n` say: data time and condition of the input block that produced them for an
input strip, `lat` blocks before; the data time of the sums and VALID for a bus or matrix (R27, R29, R86). -/
def State.stripTime (s : State) (key n : Nat) : Nat × Nat :=
  let l := s.blockLen
  let b := n - recLat (stripKind key) (s.record key)
  match (s.strip? key).bind fun (st : Strip) => assoc? st.heard b with
  | some tag => if stripKind key = 0 then (b * l - (b * l + 2 ^ 32 - bitsOf tag 16 32) % 2 ^ 32, tagCond tag) else (b * l, 0)
  | none => (b * l, 0)

/-- Write a source computed by the engine from sample `lo` of the block on; the samples before it stand as an earlier part of
the block's Work wrote them (R112, R125). -/
def State.putOutputFrom (s : State) (lo n src esi cond : Nat) (smp : List Word) : State :=
  let r := s.fadeBlock (n * s.blockLen) smp
  let out := (if lo = 0 then [] else (s.srcBlock n src).take lo) ++ r.1.drop lo
  s.putSource n src esi (condMerge cond r.2) (out.any clips) out

/-- The sources of one strip for block `n` from sample `lo` on, with tags (R26, R27, R86). -/
def State.stripOutput (s : State) (key n lo : Nat) : State :=
  match s.strip? key with
  | none => s
  | some st =>
    let r := s.record key
    let b := n - recLat (stripKind key) r + (if stripKind key = 0 then 0 else recSumLat r)
    let sigs := (assoc? st.taps b).getD (List.replicate 8 (List.replicate s.blockLen 0))
    let t := s.stripTime key n
    let smp (j : Nat) : List Word := (at0 [] sigs j).map (BitVec.ofInt 32 ·)
    ((s.putOutputFrom lo n (s.stripSource key) t.1 t.2 (smp (if stripKind key = 0 then 7 else 6))).putOutputFrom lo n
      (s.stripInsertSource key 0) t.1 t.2 (smp 2)).putOutputFrom lo n (s.stripInsertSource key 1) t.1 t.2 (smp 3)

/-- The meters of one strip for block `n`: those of the block `lat` before it, which its outputs carry (R86, R103–R106). -/
def State.stripMeterBlock (s : State) (key n : Nat) : State :=
  match s.strip? key with
  | none => s
  | some st =>
    let r := s.record key
    let b := n - recLat (stripKind key) r + (if stripKind key = 0 then 0 else recSumLat r)
    let sigs := (assoc? st.taps b).getD (List.replicate 7 [])
    let kept := (assocPut st.metered n (st.grComp, st.grGate, st.gateState, st.clamps)).filter
      fun (q : Nat × Int × Int × Nat × Nat) => decide (n < q.1 + 40)
    let q := (assoc? kept b).getD (0, 0, 0, 0)
    let m := s.stripMeters key { st with grComp := q.1, grGate := q.2.1, gateState := q.2.2.1, clamps := q.2.2.2 } sigs (s.stripTime key n).1
    m.1.setStrip key { m.2 with metered := kept, grComp := 0, grGate := 0, gateState := st.gateState, clamps := 0 }

end Sys2Proof.Machine
end

