-- ==== Sys2Proof/Machine/Scenes.lean ====
section
/-! DEFINITION. Scenes, safe-load and ramps (chapter 4): the two banks and their locks, loose writes, arming, the
swap sample, Fence masks, dual-runs and tap crossfades, and the commands of the family. -/
namespace Sys2Proof.Machine

/-! ### Banks (R107–R111) -/

/-- The Live bank (R107). -/
def State.liveBank (s : State) : Nat := s.rd F.SCN_STATE_live_bank

/-- A bank is locked (R111). -/
def State.bankLocked (s : State) (b : Nat) : Bool :=
  if b = 0 then s.on F.SCN_STATE_locked_a else s.on F.SCN_STATE_locked_b

/-- Lock or unlock a bank. -/
def State.lockBank (s : State) (b v : Nat) : State :=
  if b = 0 then s.wr F.SCN_STATE_locked_a v else s.wr F.SCN_STATE_locked_b v

/-- A write discarded by a lock is counted (R111). -/
def State.lockDrop (s : State) : State := (s.bump F.SCN_COUNTS_lock_drop).raise 0x031 4

/-! ### Fence masks (R129–R131) -/

/-- The fence word in force for the armed swap at table byte offset `o`. -/
def State.fenceWord (s : State) (o : Nat) : Nat := (sparseGet (fun _ => (0 : Word)) s.scn.fence (o / 4 * 4)).toNat

/-- The strip word of a strip: every group with fence_all (R129, R130). -/
def State.stripFence (s : State) (key : Nat) : Nat :=
  if s.lon F.SCN_ARM_fence_all then 0x3FF
  else
    let o := (if stripKind key = 0 then 0x840 else if stripKind key = 1 then 0x1840 else 0x1C40) + 2 * stripIdx key
    bitsOf (s.fenceWord o) (8 * (o % 4)) 16

/-- The bits of the record word at record offset `o` that a strip word recalls (R87, R88, R130, R131). -/
def recordMask (kind sw o : Nat) : Nat :=
  let i (b m : Nat) : Nat := if bitAt sw b then m else 0
  let inp (m : Nat) : Nat := if kind = 0 then m else 0
  if o = 0 then i 2 (if kind = 0 then 0xF843 else 0xC841) ||| i 0 (inp 0x4) |||
      i 6 (if kind = 0 then 0x7B8 else 0x38) ||| i 4 0x30000
  else if o = 0x4 then i 0 (inp 0xFFFF) ||| i 6 0xFFFF0000
  else if o = 0x8 then i 6 (inp 0xFFFFFFFF)
  else if o = 0xC then i 5 0xFFFFFFFF
  else if o = 0x10 then i 2 (if kind = 0 then 0xFFFFFFFF else 0xFFFF)
  else if o = 0x14 ∨ o = 0x18 then i 2 (inp 0xFFFFFFFF)
  else if o ≤ 0x30 then i 2 0xFFFFFFFF
  else if o = 0x34 then i 7 0xFFFFFFFF
  else if o = 0x38 then i 1 (inp 0xF) ||| i 2 (if kind = 0 then 0xFF0070 else 0xFF0040) ||| i 3 0xFF80
  else if o = 0x3C then i 8 (if kind = 0 then 0xFF else 0xFFFF)
  else if o < 0x90 then i 1 (inp 0xFFFFFFFF)
  else if o < 0xB8 then i 2 (inp 0xFFFFFFFF)
  else if o < 0xCC then i 2 0xFFFFFFFF
  else if o < 0x16C then i 3 0xFFFFFFFF
  else 0

/-- The bits of the bank word at offset `o` that the armed swap recalls; 0 for words of no group (R129). -/
def State.recallMask (s : State) (o : Nat) : Nat :=
  let k := s.mult
  let all := s.lon F.SCN_ARM_fence_all
  let ib := s.rd F.SCN_IN_BASE_offset
  let bb := s.rd F.SCN_BUS_BASE_offset
  let mb := s.rd F.SCN_MTX_BASE_offset
  let nIn := numInputs k
  let nb := numBuses k
  let nm := numMatrices k
  let rec3 (base kind : Nat) : Nat :=
    recordMask kind (s.stripFence (kind * 4096 + (o - base) / 512)) ((o - base) % 512)
  let send (sender : Nat) : Nat := if bitAt (s.stripFence sender) 9 then 0xFFFFFFFF else 0
  let sl := s.rd F.SCN_IB_SEND_offset
  let st := s.rd F.SCN_IB_TAP_offset
  let ml := s.rd F.SCN_BM_SEND_offset
  let mt := s.rd F.SCN_BM_TAP_offset
  let p := s.rd F.XRD_PATCH_OFS_offset
  let q := s.rd F.XRD_SRC_OFS_offset
  let g := s.rd F.XRD_GROUP_OFS_offset
  if ib ≤ o ∧ o < ib + 512 * nIn then rec3 ib 0
  else if bb ≤ o ∧ o < bb + 512 * nb then rec3 bb 1
  else if mb ≤ o ∧ o < mb + 512 * nm then rec3 mb 2
  else if sl ≤ o ∧ o < sl + 2 * nIn * nb then send ((o - sl) / 2 / nb)
  else if st ≤ o ∧ o < st + nIn * nb / 4 then send ((o - st) * 4 / nb)
  else if ml ≤ o ∧ o < ml + 2 * nb * nm then send (4096 + (o - ml) / 2 / nm)
  else if mt ≤ o ∧ o < mt + nb * nm / 4 then send (4096 + (o - mt) * 4 / nm)
  else if p ≤ o ∧ o < p + 65536 / k then
    let d := (o - p) / 4
    if all || bitAt (s.fenceWord (0x40 + d / 8)) (8 * (d / 8 % 4) + d % 8) then 0xFFFFFFFF else 0
  else if q ≤ o ∧ o < q + 65536 / k then if all || bitAt (s.fenceWord 0) 0 then 0xFFFFFFFF else 0
  else if g ≤ o ∧ o < g + 256 then if all || bitAt (s.fenceWord 0) 1 then 0xFFFFFFFF else 0
  else match s.scn.insAreas.find? (fun a => a.1 ≤ o && o < a.1 + a.2.1) with
    | some a => if bitAt (s.stripFence a.2.2) 4 then 0xFFFFFFFF else 0
    | none => 0

/-! ### Word changes: ramps and steps (R76, R112, R114) -/

/-- The ramped halves of the bank word at offset `o`: (byte offset of the half, ramp kind) (R80, R143). -/
def State.rampedHalves (s : State) (o : Nat) : List (Nat × Nat) :=
  let k := s.mult
  let inRecs (base n : Nat) : Bool := base ≤ o && o < base + 512 * n
  let fields (base kind : Nat) : List (Nat × Nat) :=
    let r := (o - base) % 512
    if r = 0x4 then (if kind = 0 then [(o, 0), (o + 2, 1)] else [(o + 2, 1)])
    else if r = 0x8 then (if kind = 0 then [(o + 2, 2)] else [])
    else if r = 0x28 then [(o + 2, 3)]
    else []
  let sl := s.rd F.SCN_IB_SEND_offset
  let ml := s.rd F.SCN_BM_SEND_offset
  if inRecs (s.rd F.SCN_IN_BASE_offset) (numInputs k) then fields (s.rd F.SCN_IN_BASE_offset) 0
  else if inRecs (s.rd F.SCN_BUS_BASE_offset) (numBuses k) then fields (s.rd F.SCN_BUS_BASE_offset) 1
  else if inRecs (s.rd F.SCN_MTX_BASE_offset) (numMatrices k) then fields (s.rd F.SCN_MTX_BASE_offset) 2
  else if sl ≤ o ∧ o < sl + 2 * numInputs k * numBuses k then [(o, 4), (o + 2, 4)]
  else if ml ≤ o ∧ o < ml + 2 * numBuses k * numMatrices k then [(o, 5), (o + 2, 5)]
  else []

/-- The word is a record's FLAGS word. -/
def State.isFlags (s : State) (o : Nat) : Bool :=
  let k := s.mult
  let at' (base n : Nat) : Bool := base ≤ o && o < base + 512 * n && (o - base) % 512 == 0
  at' (s.rd F.SCN_IN_BASE_offset) (numInputs k) || at' (s.rd F.SCN_BUS_BASE_offset) (numBuses k) ||
    at' (s.rd F.SCN_MTX_BASE_offset) (numMatrices k)

/-- A bank word comes into force at data time `c`: ramps start on its ramped level words and on the mute bit, every
other field steps (R76, R80, R81, R112). -/
def State.forceChange (s : State) (o : Nat) (v : Word) (c : Nat) (atSwap : Bool) : State :=
  let old := s.force o
  let s1 := (s.rampedHalves o).foldl (fun t h =>
    t.rampTo h.1 (bitsOf old (8 * (h.1 % 4)) 16) (bitsOf v.toNat (8 * (h.1 % 4)) 16) c (t.rampLen h.2 atSwap)) s
  let s2 := if s.isFlags o then
      s1.rampTo o (if bitAt old 3 then 0x8000 else 0) (if bitAt v.toNat 3 then 0x8000 else 0) c (s1.rampLen 6 atSwap)
    else s1
  s2.setForce o v

/-- Put the shared detectors of a pair that begins to share on the odd strip (R95). -/
def State.beginSharing (s old : State) : State :=
  s.scn.strips.foldl (fun t e =>
    if e.1 % 2 = 0 ∧ sharesDyn (s.record e.1) ∧ ¬ sharesDyn (old.record e.1) then
      match t.strip? e.1, t.strip? (e.1 + 1) with
      | some a, some b => t.setStrip (e.1 + 1) { b with proc := { b.proc with
          gateP := a.proc.gateP, gateZ := a.proc.gateZ, gateOpen := a.proc.gateOpen, gateHold := a.proc.gateHold,
          compP := a.proc.compP, compZ := a.proc.compZ, limZ := a.proc.limZ } }
      | _, _ => t
    else t) s

/-! ### Loose writes (R68, R76, R120, R140) -/

/-- A swap is armed and its banks have not yet exchanged roles (R120). -/
def State.armed (s : State) : Bool := s.rd F.SCN_STATE_phase == 1 || s.rd F.SCN_STATE_phase == 2

/-- Bank `b` is the outgoing bank of a swap, and what is in force in it goes into the other bank: while the arm is in force,
and for a word of a boundary up to n × L of the swap that takes it (R120, R140). -/
def State.mirrors (s : State) (b : Nat) : Bool :=
  s.armed || (b != s.liveBank && s.scn.desc.any fun (d : SwapDesc) => !d.switched)

/-- One loose word comes into force at boundary `c`, and its carried-forward bits are mirrored into the other bank until the
swap sample (R120). -/
def State.looseWord (s : State) (a : Nat) (v : Word) (c : Nat) : State :=
  match bankOf a with
  | none => s
  | some b =>
    let o := a - bankBase b
    let s2 := match s.looseXrdWord o v with
      | (some r, _) => s.xrdRefuse r.1 r.2.1 r.2.2
      | (none, t) => t.forceChange o v c false
    if s.mirrors b then
      let other := bankBase (1 - b) + o
      let m := s.recallMask o
      s2.store other 4 (((s2.load other 4) &&& m) ||| (s2.force o &&& (0xFFFFFFFF - m)))
    else s2

/-- At boundary `c` a pan ramp that runs starts again toward what loose writes made of pan, pan_law and link; one that has ended
is over, so that the gains step (R96, R112, R115, R117). -/
def State.panSteps (s old : State) (c : Nat) : State :=
  (s.scn.strips.map Prod.fst).foldl (fun (t : State) (key : Nat) =>
    match assoc? s.scn.panRamps (s.recBase key + 8) with
    | none => t
    | some r =>
      if s.panGoal key = old.panGoal key then t
      else if c < r.at0 + r.len then t.panRampTo key (r.at' (c - 1)) c (s.rampLen 7 false)
      else { t with scn := { t.scn with panRamps := assocDel t.scn.panRamps (s.recBase key + 8) } }) s

/-- Every loose write that waits comes into force at boundary `c`, one by one, oldest first; then the route and tap
changes they call for begin (R53, R65, R68). -/
def State.looseInForce (s : State) (c : Nat) : State :=
  let t := s.scn.loose.foldl (fun (t : State) w => t.looseWord w.1 w.2 c) { s with scn := { s.scn with loose := [] } }
  ((t.beginSharing s).panSteps s c).applyRoutes c

/-! ### Arming (R119–R124) -/

/-- Word offsets that either bank or the words in force list. -/
def State.bankOffsets (s : State) : List Nat :=
  (((s.mem.filter fun (c : Host.Cell) => (bankOf c.1).isSome).map fun (c : Host.Cell) => (c.1 - bankBase ((bankOf c.1).getD 0)) / 4 * 4) ++
    s.scn.force.map Prod.fst).eraseDups

/-- The carry-forward copy: every word of Next that the mask leaves out takes the value in force in Live (R120). -/
def State.carryForward (s : State) : State :=
  let next := bankBase (1 - s.liveBank)
  s.bankOffsets.foldl (fun t o =>
    let m := s.recallMask o
    t.store (next + o) 4 (((s.load (next + o) 4) &&& m) ||| (s.force o &&& (0xFFFFFFFF - m)))) s

/-- The words that the armed swap recalls, as Next holds them now: offset, recalled bits, word (R129, R140). -/
def State.recalledWords (s : State) : List (Nat × Nat × Word) :=
  let next := bankBase (1 - s.liveBank)
  (s.bankOffsets.filter fun (o : Nat) => s.recallMask o != 0).map fun (o : Nat) => (o, s.recallMask o, BitVec.ofNat 32 (s.load (next + o) 4))

/-- A word with its recalled bits replaced. -/
def recallBits (old : Nat) (w : Nat × Word) : Nat := (w.2.toNat &&& w.1) ||| (old &&& (0xFFFFFFFF - w.1))

/-- One recalled word in the Crossroads tables (R48, R50, R51). -/
def State.recallTable (s : State) (w : Nat × Nat × Word) : State :=
  let k := s.mult
  let o := w.1
  let p := s.rd F.XRD_PATCH_OFS_offset
  let q := s.rd F.XRD_SRC_OFS_offset
  let g := s.rd F.XRD_GROUP_OFS_offset
  if p ≤ o ∧ o < p + 65536 / k then
    let d := (o - p) / 4
    s.setDest d { s.dest d with entry := recallBits (s.dest d).entry w.2 }
  else if q ≤ o ∧ o < q + 65536 / k then
    { s with xrd := { s.xrd with srcTab := assocPut s.xrd.srcTab ((o - q) / 4) (recallBits (s.srcWord ((o - q) / 4)) w.2) } }
  else if g ≤ o ∧ o < g + 256 then
    { s with xrd := { s.xrd with groups := (List.range 4).foldl (fun (l : List (Nat × Nat)) (b : Nat) =>
      let v := bitsOf (w.2.2.toNat &&& w.2.1) (8 * b) 8
      if bitsOf w.2.1 (8 * b) 8 = 0 ∨ v = (assoc? l (o - g + b)).getD 0 then l else assocPut l (o - g + b) v) s.xrd.groups } }
  else s

/-- The Crossroads tables as they would stand after a swap that recalls `ws` (R69). -/
def State.tablesWith (s : State) (ws : List (Nat × Nat × Word)) : State := ws.foldl State.recallTable s

/-- The refusal code of an arm whose staged set `live` would be in force; 0 accepts (R119, R142). -/
def State.armRefusal (s : State) : Nat :=
  if s.rd F.SCN_STATE_phase ≠ 0 then 0x10
  else if s.lv F.SCN_ARM_mode = 3 ∨ s.lv F.SCN_ARM_edge = 3 then 0x11
  else if s.lv F.SCN_SWAP_RAMP_ms > 30000 then 0x12
  else if s.rd F.SCN_BANK_SIZE_size = 0 then 0x14
  else 0

/-- The arm comes into force at a boundary: Next is locked, the fence table is read, the Crossroads check runs and the
carry-forward copy starts (R69, R111, R119, R129). Answers the refusal code, 0 when armed. -/
def State.armSwap (s : State) : Nat × State :=
  let r := s.armRefusal
  if r ≠ 0 then (r, (s.bump F.SCN_COUNTS_refused).raise 0x031 3)
  else
    let next := 1 - s.liveBank
    let fo := bankBase next + s.rd F.SCN_FENCE_OFS_offset
    let fence := if s.lon F.SCN_ARM_fence_all then []
      else (List.range 1936).foldl (fun (l : List (Nat × Word)) i =>
        let v := BitVec.ofNat 32 (s.load (fo + 4 * i) 4)
        if v = 0 then l else l ++ [(4 * i, v)]) []
    let at1 := expandEsi s.now (s.lv F.SCN_SWAP_AT_esi)
    let s1 := { s with scn := { s.scn with fence := fence, cue := none, swapAt := none, armAt := at1 } }
    let chk := (s1.tablesWith s1.recalledWords).checkTables
    let s2 := s1.recordCheck chk
    if chk.isSome then (0x13, ({ s2 with scn := { s2.scn with fence := s.scn.fence } }.bump F.SCN_COUNTS_refused).raise 0x031 3)
    else (0, ((((s2.lockBank next 1).wr F.SCN_STATE_phase 1).wr F.SCN_STATE_ready 0).raise 0x031 0))

/-- The swap sample is fixed; a swap whose block has already entered Gather is late and takes the next reachable one
(R121, R123, R15). -/
def State.fixSwap (s : State) (r S : Nat) : State :=
  let l := s.blockLen
  if S / l * l ≥ r then { s with scn := { s.scn with swapAt := some S } }
  else
    let t := { s with scn := { s.scn with swapAt := some ((r / l + 2) * l) } }
    ((((t.wr F.APPLY_RESULT_code 0x03 0x031).wr F.APPLY_RESULT_page 1 0x031).raise 0x031 5)).markLate

/-- CARRY_FORWARD_READY (R120, R121): the copy is complete, ready sets, and r fixes the swap sample unless it waits for
a cue. -/
def execCarryForwardReady (s : State) : Host.Outcome State Fault Refusal :=
  .next (if s.rd F.SCN_STATE_phase = 1 then
      let r := s.now
      let l := s.blockLen
      let t := (s.carryForward.wr F.SCN_STATE_phase 2).wr F.SCN_STATE_ready 1
      let mode := s.lv F.SCN_ARM_mode
      if mode = 0 then t.fixSwap r s.scn.armAt
      else if mode = 1 then t.fixSwap r ((r / l + 2) * l)
      else match s.scn.cue with
        | some _ => t.fixSwap r ((r / l + 2) * l + s.lv F.SCN_CUE_DELAY_delay)
        | none => t
    else s)

/-- A cue event at engine ESI `c` for the arm in force (R122): the first one fixes S; one before ready is held. -/
def State.cueEvent (s : State) (c : Nat) : State :=
  if s.armed ∧ s.lv F.SCN_ARM_mode = 2 ∧ s.scn.cue = none then
    let t := { s with scn := { s.scn with cue := some c } }
    if s.rd F.SCN_STATE_phase = 2 then t.fixSwap s.now ((c / s.blockLen + 2) * s.blockLen + s.lv F.SCN_CUE_DELAY_delay)
    else t
  else s

/-- An edge on GPIO `g` (rising or not) offered as a cue (R122). -/
def State.gpioCue (s : State) (g : Nat) (rising : Bool) (c : Nat) : State :=
  let edge := s.lv F.SCN_ARM_edge
  if s.lv F.SCN_ARM_cue_src = 0 ∧ s.lv F.SCN_ARM_gpio = g ∧ (edge = 2 ∨ (edge = 0 ∧ rising) ∨ (edge = 1 ∧ ¬ rising))
  then s.cueEvent c else s

/-- An inbound cue frame offered as a cue (R122). -/
def State.frameCue (s : State) (id c : Nat) : State :=
  if s.lv F.SCN_ARM_cue_src = 1 ∧ s.lv F.SCN_ARM_cue_id = id then s.cueEvent c else s

/-- Cancel the armed swap: CANCELLED, Next unlocked; words already copied keep their values (R124). -/
def State.cancelSwap (s : State) : State :=
  if s.armed then
    let t := { s with scn := { s.scn with swapAt := none, cue := none } }
    ((((t.lockBank (1 - s.liveBank) 0).wr F.SCN_STATE_phase 0).wr F.SCN_STATE_ready 0).wr F.APPLY_RESULT_code 0x04 0x031).raise
      0x031 6
  else s

/-! ### The swap (R125–R128, R132–R137) -/

/-- The units whose fields differ between an old and a new record (R133, R136). -/
def changedUnits (kind : Nat) (old new : List Nat) (sharing : Bool) : List Nat :=
  let fd (i : Nat) : Bool := recFlag old i != recFlag new i
  let bqDiff (i : Nat) : Bool := (List.range 5).any (fun j => recWord old (0x40 + 20 * i + 4 * j) != recWord new (0x40 + 20 * i + 4 * j)) ||
    recFlag2 old i != recFlag2 new i
  let order := if kind = 0 then bitsOf (recWord old 0) 0 2 != bitsOf (recWord new 0) 0 2 else fd 0
  let sec := order || sharing || fd 6
  let eqOn := recFlag2 old 15 != recFlag2 new 15
  let bqs := (List.range 15).filter fun i => bqDiff i && (kind == 0 || i ≥ 6) && !(sec && i ≥ 4) && !(eqOn && i ≥ 7)
  bqs ++ (if eqOn && !sec then [15] else []) ++
    (if kind = 0 then (if (fd 11 || fd 12) && !sec then [16] else []) else (if fd 11 || sharing then [16] else [])) ++
    (if fd 14 && !sec then [17] else []) ++ (if kind = 0 && fd 2 then [18] else []) ++
    (if fd 16 then [19] else []) ++ (if fd 17 then [20] else []) ++ (if sec then [21] else [])

/-- The receivers a strip of kind `k` can feed, among the active strips. -/
def State.receivers (s : State) (key : Nat) : List Nat :=
  (s.scn.strips.filter fun e => stripKind e.1 == stripKind key + 1).map fun e => stripIdx e.1

/-- The word in force of the level word that governs a send is off (R137). -/
def State.sendOff (s : State) (f : Option SendForm) : Bool := f.any fun (g : SendForm) => s.forceHalf g.levelAt == 0x8000

/-- The comp_makeup word that strip `key` applies at data time `e`: the even strip's where the pair shares its dynamics (R95). -/
def State.makeupAt (s : State) (key e : Nat) : Nat :=
  let even := key / 2 * 2
  let from' := if sharesDyn (s.record even) then even else key
  s.levelAt (s.recBase from' + 0x2A) (recHalf (s.record from') 0x2A) e

/-- The insert points of strip `key` (as units 19 and 20) whose dual-class program finds a word of its area changed since
`old` (R217). -/
def State.changedPrograms (s old : State) (key : Nat) : List Nat :=
  [0, 1].filterMap fun x => (s.hosted key x).bind fun (i : Insert) =>
    if i.dual && (List.range (i.size / 4)).any (fun w => s.force (i.area + 4 * w) != old.force (i.area + 4 * w)) then some (19 + x)
    else none

/-- Start the dual-runs, tap crossfades and pan ramp of one strip at swap sample `S` (R117, R133–R137): `old` the state
before the words changed. The last crossfade sample counts these dual-runs and tap crossfades, and not the fades and tap
crossfades of the Crossroads (DESIGN CHOICE, log entry 51). -/
def State.stripSwitch (s old : State) (key S : Nat) : State :=
  match old.strip? key with
  | none => s
  | some st =>
    let kind := stripKind key
    let ro := old.laneRecord key
    let rn := s.laneRecord key
    let even := key / 2 * 2
    let sharing := sharesDyn (old.record even) != sharesDyn (s.record even)
    let n := msSamples (s.rd F.RMP_XFADE_ms) s.fs
    let makeup := old.makeupAt key (S - 1)
    let programs := s.changedPrograms old key
    let units := changedUnits kind ro rn sharing
    let duals := if n = 0 then [] else (units ++ programs.filter fun u => !units.contains u).map fun u =>
      (⟨u, ro, st.proc, makeup, programs.contains u, S, n⟩ : DualRun)
    let direct := bitsOf (recWord ro 0) 9 2
    let pan := old.panAt key (S - 1)
    let muteSends := recFlag (old.record key) 4
    let taps : List TapFade :=
      (if old.delayOf ro ≠ s.delayOf rn then [⟨0, old.delayOf ro, none, 0, false, S, n⟩] else []) ++
      (if kind = 0 ∧ direct ≠ bitsOf (recWord rn 0) 9 2 then [⟨1, direct, none, 0, false, S, n⟩] else []) ++
      (s.receivers key).foldl (fun (a : List TapFade) b =>
        let fo := old.sendForm key b
        let fn := s.sendForm key b
        let g : Int := match fo with
          | some f => if f.side = 1 then pan.1 else if f.side = 2 then pan.2 else 0
          | none => 0
        if fo = fn then a else a ++ [⟨2 + b, 0, fo, g, muteSends, S, if old.sendOff fo || s.sendOff fn then 0 else n⟩]) []
    let t := s.setStrip key { st with
      duals := st.duals.filter (fun d => duals.all fun e => e.unit != d.unit) ++ duals,
      tapFades := st.tapFades.filter (fun f => taps.all fun e => e.which != f.which) ++ taps }
    let t := if kind = 0 ∧ s.panGoal key ≠ old.panGoal key then t.panRampTo key pan S (s.rampLen 7 true) else t
    if duals = [] ∧ (taps.all fun (f : TapFade) => f.len == 0) then t
    else { t with scn := { t.scn with lastFade := max t.scn.lastFade (S + n - 1) } }

/-- The scene switches at swap sample `S`: every recalled word of the incoming bank comes into force, with ramps, route
changes, dual-runs and tap crossfades from S (R112, R113, R125, R132). The words are those that the bank held at n × L; what a
write through the Live alias changes later comes into force at its own boundary (R140). -/
def State.switchScene (s : State) (S : Nat) : State :=
  let ws := (s.scn.desc.map fun (d : SwapDesc) => d.words).getD []
  let changed := ws.filterMap fun (w : Nat × Nat × Word) =>
    let v := recallBits (s.force w.1) w.2
    if v = s.force w.1 then none else some (w.1, v)
  let s1 := changed.foldl (fun t c => t.forceChange c.1 (BitVec.ofNat 32 c.2) S true) { s with xrd := (s.tablesWith ws).xrd }
  let s2 := s1.applyRoutes S (!((s.scn.desc.map (·.counted)).getD false))
  let s3 := (s.scn.strips.map (·.1)).foldl (fun (t : State) k => t.stripSwitch s k S) s2
  { s3 with scn := { s3.scn with desc := s3.scn.desc.map fun (d : SwapDesc) => { d with switched := true } } }

/-- Does the armed swap change a route? -/
def State.swapChangesRoute (s : State) : Bool :=
  (s.tablesWith s.recalledWords).xrd.dests.any fun e => entrySrc e.2.entry != (s.dest e.1).src

/-- The data time before which no Work has still to form a sample: blocks before the one now in Work, and as many more as the
largest sum_lat, since a bus or matrix forms contributions of that long ago (R101). -/
def State.formedBefore (s : State) : Nat :=
  let late := s.scn.strips.foldl (fun (m : Nat) (e : Nat × Strip) => max m (recSumLat (s.record e.1))) 0
  (s.now / s.blockLen - 1 - late) * s.blockLen

/-- RAMP_END (R114): after n_r samples the ramp of the word at `offset` is over and the target stands. -/
def execRampEnd (offset : Nat) (s : State) : Host.Outcome State Fault Refusal :=
  let done := s.formedBefore
  let ended (r : Option Nat) : Bool := r.any fun (e : Nat) => decide (e ≤ done)
  .next { s with scn := { s.scn with
    ramps := if ended ((assoc? s.scn.ramps offset).map fun (r : Ramp) => r.at0 + r.len) then assocDel s.scn.ramps offset else s.scn.ramps,
    panRamps := if ended ((assoc? s.scn.panRamps offset).map fun (r : PanRamp) => r.at0 + r.len) then assocDel s.scn.panRamps offset
      else s.scn.panRamps } }

/-- DUAL_RUN_END (R135, R137): after n_f samples the old run of a unit (below 32) or the old tap (32 + which) stops. -/
def execDualRunEnd (strip unit : Nat) (s : State) : Host.Outcome State Fault Refusal :=
  let done := s.formedBefore
  .next (match s.strip? strip with
    | none => s
    | some st => s.setStrip strip { st with
        duals := st.duals.filter (fun d => !(d.unit == unit && d.start + d.len ≤ done)),
        tapFades := st.tapFades.filter (fun f => !(f.which + 32 == unit && f.start + f.len ≤ done)) })

/-- LOOSE_WRITE_IN_FORCE (R76, R53, R68): at a block boundary every word written to the Live bank since the last one
comes into force, checked one by one. BLOCK_START of the boundary comes before it: what it puts in force counts from the block
that now enters Gather, and not for the block that enters Work (log entry 8). -/
def execLooseWriteInForce (s : State) : Host.Outcome State Fault Refusal :=
  .next (if s.now % s.blockLen = 0 then s.looseInForce s.now else s)

/-- The swap is complete (R111, R125 step 6): the outgoing bank is unlocked, APPLY_RESULT reads DONE, swap_done sets. -/
def State.finishSwap (s : State) : State :=
  let t := { s with scn := { s.scn with desc := none, swapAt := none, lastFade := 0 } }
  ((((t.lockBank (1 - s.liveBank) 0).wr F.SCN_STATE_phase 0).wr F.SCN_STATE_ready 0).wr F.APPLY_RESULT_code 0x02 0x031).raise 0x031 2

/-- SWAP_COMPLETE (R125 step 6): at the later of (n + 3) × L and the Work-stage end of the block that holds the last
crossfade sample, the outgoing bank is unlocked and the swap is done. -/
def execSwapComplete (s : State) : Host.Outcome State Fault Refusal :=
  let l := s.blockLen
  .next (match s.scn.desc with
    | none => s
    | some d =>
      if s.rd F.SCN_STATE_phase = 3 ∧ (d.s / l + 3) * l ≤ s.now ∧ (s.scn.lastFade = 0 ∨ (s.scn.lastFade / l + 2) * l ≤ s.now) then s.finishSwap
      else s)

end Sys2Proof.Machine
end

