-- ==== Sys2Proof/Machine/Churn.lean ====
section
/-! DEFINITION. The Churn (chapter 5): transforms, partitioned convolution, tails, slots, switches and transform jobs. -/
namespace Sys2Proof.Machine

/-! ### Transforms (R145–R147) -/

/-- sin(π a / b) × 2^160 for 0 ≤ a ≤ b / 2. -/
def sinFixOf (a b : Nat) : Nat :=
  let x := piFix * a / b
  (sinTerms (x * x / 2 ^ 160) 30 0 x false).toNat

/-- 2^30 × sin(2πt / 65536) rounded half-up (R145). -/
def twSin (t : Nat) : Int :=
  let q := t % 65536
  let a := q % 32768
  let b := if a ≤ 16384 then a else 32768 - a
  let v : Nat := if b = 0 then 0 else if b = 16384 then 2 ^ 30 else (2 ^ 30 * sinFixOf b 32768 * 2 + 2 ^ 160) / 2 ^ 161
  if q < 32768 then v else -(v : Int)

/-- 2^30 × cos(2πt / 65536) rounded half-up (R145). -/
def twCos (t : Nat) : Int := twSin (t + 16384)

/-- Redundant sign bits of a `w`-bit value. -/
def rsbOf (w : Nat) (x : Int) : Nat :=
  let m := if x < 0 then (-x - 1).toNat else x.toNat
  if m = 0 then w - 1 else w - 2 - m.log2

/-- The fewest redundant sign bits of any component of an array (R146). -/
def rsbArr (w : Nat) (a : List (Int × Int)) : Nat :=
  a.foldl (fun m c => min m (min (rsbOf w c.1) (rsbOf w c.2))) (w - 1)

/-- rnd of R146. -/
def rndS (v : Int) (s : Nat) : Int := rndShift v s

/-- twid of R146 for a transform of `n` points; `sg` 1 forward, -1 inverse. -/
def twid (n : Nat) (sg : Int) (v : Int × Int) (x : Nat) : Int × Int :=
  let t := (x * (65536 / n)) % 65536
  let c := twCos t
  let d := -sg * twSin t
  if t = 0 then v
  else (satTo 32 ((v.1 * c - v.2 * d + 2 ^ 29) / 2 ^ 30), satTo 32 ((v.1 * d + v.2 * c + 2 ^ 29) / 2 ^ 30))

/-- One radix-4 pass at `span` over one group of `span` points starting at `base` (R146). -/
def radix4 (n : Nat) (sg : Int) (span s base : Nat) (a : Array (Int × Int)) : Array (Int × Int) :=
  let q := span / 4
  (List.range q).foldl (fun (a : Array (Int × Int)) j =>
    let g (m : Nat) : Int × Int := a.getD (base + j + m * q) (0, 0)
    let x0 := g 0; let x1 := g 1; let x2 := g 2; let x3 := g 3
    let t0 := (x0.1 + x2.1, x0.2 + x2.2)
    let t1 := (x0.1 - x2.1, x0.2 - x2.2)
    let t2 := (x1.1 + x3.1, x1.2 + x3.2)
    let t3 := (x1.1 - x3.1, x1.2 - x3.2)
    let u := [(t0.1 + t2.1, t0.2 + t2.2), (t1.1 + sg * t3.2, t1.2 - sg * t3.1),
              (t0.1 - t2.1, t0.2 - t2.2), (t1.1 - sg * t3.2, t1.2 + sg * t3.1)]
    (List.range 4).foldl (fun (b : Array (Int × Int)) m =>
      let um := u.getD m (0, 0)
      let v := (satTo 32 (rndS um.1 s), satTo 32 (rndS um.2 s))
      b.setIfInBounds (base + j + m * q) (twid n sg v (j * m * (n / span)))) a) a

/-- The passes of R146 from `span` down, with the exponent so far. -/
def passes (n : Nat) (sg : Int) : Nat → Nat → Array (Int × Int) → Nat → Array (Int × Int) × Nat
  | 0, _, a, e => (a, e)
  | k + 1, span, a, e =>
    if span ≥ 4 then
      let s := 3 - rsbArr 32 a.toList
      passes n sg k (span / 4) ((List.range (n / span)).foldl (fun b i => radix4 n sg span s (i * span) b) a) (e + s)
    else if span = 2 then
      let s := 1 - rsbArr 32 a.toList
      ((List.range (n / 2)).foldl (fun (b : Array (Int × Int)) i =>
        let p := b.getD (2 * i) (0, 0)
        let r := b.getD (2 * i + 1) (0, 0)
        (b.setIfInBounds (2 * i) (satTo 32 (rndS (p.1 + r.1) s), satTo 32 (rndS (p.2 + r.2) s))).setIfInBounds
          (2 * i + 1) (satTo 32 (rndS (p.1 - r.1) s), satTo 32 (rndS (p.2 - r.2) s))) a, e + s)
    else (a, e)

/-- `q` base-4 digits of `u` reversed. -/
def rev4 : Nat → Nat → Nat
  | 0, _ => 0
  | q + 1, u => u % 4 * 4 ^ q + rev4 q (u / 4)

/-- The output bin that position `pos` holds for N = 2^p (R147). -/
def binOf (p pos : Nat) : Nat :=
  let q := p / 2
  if p % 2 = 0 then rev4 q pos else pos % 2 * 4 ^ q + rev4 q (pos / 2)

/-- A transform of 2^p points: bins in natural order and the block exponent (R146, R147). -/
def transform (p : Nat) (inverse : Bool) (x : List (Int × Int)) : List (Int × Int) × Nat :=
  let n := 2 ^ p
  let r := passes n (if inverse then -1 else 1) 20 n x.toArray 0
  let out := (List.range n).foldl (fun (b : Array (Int × Int)) pos =>
    b.setIfInBounds (binOf p pos) (r.1.getD pos (0, 0))) (Array.replicate n (0, 0))
  (out.toList, r.2)

/-! ### Spectra (R150, R151) -/

/-- resc of R150. -/
def resc (v : Int) (d : Int) : Int := if d ≥ 0 then satTo 32 (v * 2 ^ d.toNat) else satTo 32 (rndS v (-d).toNat)

/-- Transform size N_g of a group with P taps (R150). -/
def groupPoints (p : Nat) : Nat := max 64 (2 * p)

/-- A forward spectrum in the packed form of R150: entry 0 holds DC and Nyquist; `ref` is log2 of the reference. -/
def packSpectrum (n ref : Nat) (fr : List Int) : List (Int × Int) :=
  let t := transform n.log2 false (fr.map fun v => (v, 0))
  let d : Int := (t.2 : Int) - ref
  let xs := t.1.map fun c => (resc c.1 d, resc c.2 d)
  (List.range (n / 2)).map fun k =>
    if k = 0 then ((xs.getD 0 (0, 0)).1, (xs.getD (n / 2) (0, 0)).1) else xs.getD k (0, 0)

/-- Compact 16 entries: mantissas and the shift g (R151). -/
def compact16 (es : List (Int × Int)) : List (Int × Int) × Nat :=
  let g := 16 - rsbArr 32 es
  (es.map fun c => (satTo 16 (rndS c.1 g), satTo 16 (rndS c.2 g)), g)

/-- Bytes of a Cellar spectrum record of P entries (R158). -/
def recordBytes (p : Nat) : Nat := (4 * p + p / 16 + 63) / 64 * 64

/-- A spectrum as a Cellar record: entry words, exponent bytes, padding (R151, R158). -/
def spectrumRecord (p : Nat) (es : List (Int × Int)) : List Byte :=
  let parts := (List.range (p / 16)).map fun u => compact16 ((es.drop (16 * u)).take 16)
  let words := parts.foldr (fun c acc => c.1.foldr (fun m a => leBytes 4 (unsigned 16 m.1 + 65536 * unsigned 16 m.2) ++ a) acc) []
  let exps := parts.map fun c => BitVec.ofNat 8 c.2
  words ++ exps ++ List.replicate (recordBytes p - 4 * p - p / 16) 0

/-- The entries a Cellar record stands for: each mantissa shl its group's exponent (R151). -/
def State.readRecord (s : State) (a p : Nat) : List (Int × Int) :=
  (List.range p).map fun k =>
    let w := s.load (a + 4 * k) 4
    let g := s.load (a + 4 * p + k / 16) 1
    (signed 16 w * 2 ^ g, signed 16 (w / 65536) * 2 ^ g)

/-! ### Plans and areas (R149, R156–R159) -/

/-- Address of a channel's table entry (R156). -/
def State.chanEntry (s : State) (v : Nat) : Nat :=
  s.rd F.CHN_TABLE_LO_table + s.rd F.CHN_TABLE_HI_value * 2 ^ 32 + 256 * v

/-- Groups of a channel: (P_g, M_g, O_g) (R157). A channel beyond the rate or without a table has none. -/
def State.chanGroups (s : State) (v : Nat) : List (Nat × Nat × Nat) :=
  if s.rd F.CHN_TABLE_LO_table = 0 ∧ s.rd F.CHN_TABLE_HI_value = 0 then []
  else
    let a := s.chanEntry v
    (List.range (min (s.load (a + 4) 1) 28)).map fun g =>
      let d := s.load (a + 0x20 + 8 * g) 8
      (s.blockLen * 2 ^ bitsOf d 0 4, bitsOf d 8 8, bitsOf d 32 32)

/-- Cover of a channel's plan. -/
def State.chanCover (s : State) (v : Nat) : Nat := s.load (s.chanEntry v) 4

/-- The largest P_g of a channel. -/
def State.chanPmax (s : State) (v : Nat) : Nat := (s.chanGroups v).foldl (fun m g => max m g.1) 0

/-- Cellar address of an area offset field (R156): units of 256 bytes from the Cellar base. -/
def State.chanArea (s : State) (v field : Nat) : Nat := 0x100000000 + 256 * s.load (s.chanEntry v + field) 4

/-- Cellar address of the slot record of partition `i` of Cellar group `g` (R158). -/
def State.slotRecordAt (s : State) (v slot g i : Nat) : Nat :=
  let gs := s.chanGroups v
  s.chanArea v (if slot = 0 then 0x08 else 0x0C) +
    ((gs.drop 1).take (g - 1)).foldl (fun a x => a + x.2.1 * recordBytes x.1) 0 +
    i * recordBytes (at0 (0, 0, 0) gs g).1

/-- Cellar address of group g's output buffer; its spectrum ring follows it (R158). -/
def State.histAt (s : State) (v g : Nat) : Nat :=
  let gs := s.chanGroups v
  s.chanArea v 0x10 + 8 * s.chanPmax v +
    ((gs.drop 1).take (g - 1)).foldl (fun a x => a + 8 * x.1 + x.2.1 * recordBytes x.1) 0

/-- Granary address of channel v's area (R159). -/
def State.chanGranary (s : State) (v : Nat) : Nat := s.rd F.CHN_GRN_BASE_base + 1024 * v

/-- The active slot of a channel. -/
def State.activeSlot (s : State) (v : Nat) : Nat := bitsOf (s.rd F.CHN_ACTIVE_bits 0 (v / 32)) (v % 32) 1

/-- The channel runs both slots (CHN_XFADING). -/
def State.chanXfading (s : State) (v : Nat) : Bool := bitAt (s.rd F.CHN_XFADING_bits 0 (v / 32)) (v % 32)

/-- Slots that run on a channel. -/
def State.runningSlots (s : State) (v : Nat) : List Nat :=
  if s.chanXfading v then [0, 1] else [s.activeSlot v]

/-- The slot state code of R162. -/
def State.slotState (s : State) (v slot : Nat) : Nat :=
  s.rd (F.CHN_SLOT_STATE_a.part (2 * (v % 8) + slot) 2) 0 (v / 8)

/-- Set a slot's state. -/
def State.setSlotState (s : State) (v slot code : Nat) : State :=
  s.wr (F.CHN_SLOT_STATE_a.part (2 * (v % 8) + slot) 2) code 0 (v / 8)

/-- Channels in use at the rate (R4, R156). -/
def State.chansUsed (s : State) : List Nat := (List.range (128 / s.mult)).filter fun v => s.chanGroups v != []

/-! ### Frames and tails (R150, R152–R154) -/

/-- The input sample of data time `t` from the input ring (R158). -/
def State.ringSample (s : State) (v t : Nat) : Int :=
  signed 32 (s.load (s.chanArea v 0x10 + 4 * (t % (2 * s.chanPmax v))) 4)

/-- A Cellar group's frame of `n` samples, from the input ring, that ends at data time `tEnd`; samples before data time 0
are 0. -/
def State.frame (s : State) (v tEnd n : Nat) : List Int :=
  (List.range n).map fun i => if tEnd + 1 + i < n then 0 else s.ringSample v (tEnd + 1 + i - n)

/-- Combine spectra X_i with partitions H_i and transform back: the P output samples of R152. -/
def combine (p : Nat) (xh : List (List (Int × Int) × List (Int × Int))) : List Int :=
  let n := groupPoints p
  let half := n / 2
  let acc := (List.range half).map fun k => xh.foldl (fun (a : Int × Int) q =>
    let x := at0 (0, 0) q.1 k
    let h := at0 (0, 0) q.2 k
    if k = 0 then (a.1 + x.1 * h.1, a.2 + x.2 * h.2)
    else (a.1 + x.1 * h.1 - x.2 * h.2, a.2 + x.1 * h.2 + x.2 * h.1)) (0, 0)
  let a := 48 - rsbArr 80 acc
  let lim (v : Int) : Int := max (-(2 ^ 31 - 1)) (min (2 ^ 31 - 1) (rndS v a))
  let y := acc.map fun c => (lim c.1, lim c.2)
  let z := (List.range n).map fun k =>
    if k = 0 then ((at0 (0, 0) y 0).1, 0)
    else if k = half then ((at0 (0, 0) y 0).2, 0)
    else if k < half then at0 (0, 0) y k
    else let c := at0 (0, 0) y (n - k); (c.1, -c.2)
  let t := transform n.log2 true z
  let sh : Int := (a : Int) + t.2 + p.log2 - 29
  (List.range p).map fun i => resc (at0 (0, 0) t.1 (n - p + i)).1 sh

/-- Group 0's contribution to the block after the frame that ends at `tEnd`, for one slot, and its history (R150, R152). -/
def State.fastGroup (s : State) (v slot : Nat) : List Int :=
  match (s.chanGroups v).head? with
  | none => []
  | some g =>
    let hist := (assoc? s.chn.fastHist v).getD []
    combine g.1 ((List.range g.2.1).map fun i =>
      (at0 [] hist i, (assoc? s.chn.fast ((v * 2 + slot) * 4 + i)).getD []))

/-- A Cellar group whose frame completes at `tEnd`: its spectrum goes to the ring, and for each running slot the output
segment c_g is formed (R150–R152, R154). The result stands at once; the spec spreads the work without changing it. -/
def State.cellarGroup (s : State) (v g tEnd : Nat) : State :=
  let x := at0 (0, 0, 0) (s.chanGroups v) g
  let p := x.1
  let m := x.2.1
  let n := groupPoints p
  let idx := (tEnd + 1) / p
  let ringAt (i : Nat) : Nat := s.histAt v g + 8 * p + ((idx + m - i % m) % m) * recordBytes p
  let s1 := s.engineBytes (ringAt 0) (spectrumRecord p (packSpectrum n n.log2 (s.frame v tEnd n)))
  (s.runningSlots v).foldl (fun t slot =>
    let c := combine p ((List.range m).map fun i => (s1.readRecord (ringAt i) p, s1.readRecord (s1.slotRecordAt v slot g i) p))
    let t0 := tEnd + 1 + x.2.2 - p
    let key := (v * 2 + slot) * 32 + g
    let old := ((assoc? t.chn.outs key).getD []).filter fun (e : Nat × List Int) => e.1 + p + p > tEnd
    let t := { t with chn := { t.chn with outs := assocPut t.chn.outs key (old ++ [(t0, c)]) } }
    t.engineBytes (s.histAt v g + 4 * (t0 % (2 * p))) (c.foldr (fun w acc => leBytes 4 (unsigned 32 w) ++ acc) [])) s1

/-- c_g at data time `t` (R152). -/
def State.groupOut (s : State) (v slot g t : Nat) : Int :=
  match ((assoc? s.chn.outs ((v * 2 + slot) * 32 + g)).getD []).find? (fun e => e.1 ≤ t && t < e.1 + e.2.length) with
  | some e => at0 0 e.2 (t - e.1)
  | none => 0

/-! ### Slots and prepares (R162) -/

/-- The partitions of a channel's plan as (group, partition). -/
def State.partList (s : State) (v : Nat) : List (Nat × Nat) :=
  (s.chanGroups v).zipIdx.flatMap fun x => (List.range x.1.2.1).map fun i => (x.2, i)

/-- Tap `j` of a response of `len` taps in the staging area; beyond the length it is 0 (R158, R162). -/
def State.stagedTap (s : State) (v len j : Nat) : Int :=
  if j < len then signed 32 (s.load (s.chanArea v 0x14 + 4 * j) 4) else 0

/-- The spectrum of one partition goes to a slot, from the staging taps as they stand (R150, R151, R158, R159, R162). -/
def State.computePart (s : State) (v slot len : Nat) (gi : Nat × Nat) : State :=
  let x := at0 (0, 0, 0) (s.chanGroups v) gi.1
  let n := groupPoints x.1
  let sp := packSpectrum n x.1.log2
    ((List.range n).map fun j => if j < x.1 then s.stagedTap v len (x.2.2 + gi.2 * x.1 + j) else 0)
  if gi.1 = 0 then s.modChn fun c => { c with fast := assocPut c.fast ((v * 2 + slot) * 4 + gi.2) sp }
  else s.engineBytes (s.slotRecordAt v slot gi.1 gi.2) (spectrumRecord x.1 sp)

/-- Up to `k` further partitions of a slot are transformed (R162). -/
def State.computeParts (s : State) (v slot len k : Nat) : State :=
  let todo := ((s.partList v).drop (s.rd F.CHN_PREP_STATUS_done)).take k
  (todo.foldl (fun (t : State) gi => t.computePart v slot len gi) s).wr F.CHN_PREP_STATUS_done
    (s.rd F.CHN_PREP_STATUS_done + todo.length)

/-- Taps 0 to L - 1 go to the slot's head area (R159, R162). -/
def State.copyHead (s : State) (v slot len : Nat) : State :=
  (List.range s.blockLen).foldl (fun (t : State) j =>
    t.engineBytes (s.chanGranary v + 256 * slot + 4 * j) (leBytes 4 (unsigned 32 (s.stagedTap v len j)))) s

/-- The rest of a prepare: the head, and every partition that is not transformed yet (R162). -/
def State.computeSlot (s : State) (v slot len : Nat) : State :=
  (s.copyHead v slot len).computeParts v slot len (s.partList v).length

/-- A running prepare uses the idle capacity of a block period: a free number of its partitions, short of the last (R162,
log entry 56). -/
def State.prepareShare (s : State) : State :=
  if !s.on F.CHN_PREP_STATUS_busy then s
  else
    let v := s.rd F.CHN_PREP_STATUS_channel
    let left := (s.partList v).length - s.rd F.CHN_PREP_STATUS_done
    (s.computeParts v (s.rd F.CHN_PREP_STATUS_slot) s.chn.prepLen ((Config.freeValue s.free).toNat % max left 1)).useFree

/-! ### The Churn at a block (R152–R154) -/

/-- The Churn's occupancy of a block period, which the spec leaves to the chip: a free value of 16 bits, at whose highest
CHN_LOAD stands (R168, log entry 56). -/
def State.showChurnLoad (s : State) : State :=
  if s.chansUsed = [] then s
  else (s.peak F.CHN_LOAD_peak ((Config.freeValue s.free).toNat % 65536)).useFree

/-- CHURN_FRAME at the start of Work of block `n`: frames that end with block n - 1 are complete; group 0 transforms at
once the newest samples that its working memory and the input ring hold, Cellar groups form their segments; the tail of block n is the sum over all groups (R153, R154). -/
def State.churnFrame (s : State) (n : Nat) : State :=
  let l := s.blockLen
  s.chansUsed.foldl (fun t v =>
    if n = 0 then t
    else
      let tEnd := n * l - 1
      let gs := t.chanGroups v
      let p0 := (gs.head?.map (·.1)).getD l
      let m0 := (gs.head?.map (·.2.1)).getD 0
      let n0 := groupPoints p0
      let held := List.replicate n0 0 ++ (assoc? t.chn.frames v).getD [] ++ t.frame v tEnd l
      let fr := held.drop (held.length - n0)
      let hist := (packSpectrum n0 n0.log2 fr :: (assoc? t.chn.fastHist v).getD []).take m0
      let t1 := t.modChn fun c =>
        { c with frames := assocPut c.frames v fr, fastHist := assocPut c.fastHist v hist }
      let t2 := (List.range gs.length).foldl (fun (u : State) g =>
        if g = 0 ∨ n * l % (at0 (l, 0, 0) gs g).1 ≠ 0 then u else u.cellarGroup v g tEnd) t1
      (t2.runningSlots v).foldl (fun (u : State) slot =>
        let f := t2.fastGroup v slot
        let tail := (List.range l).map fun i => satTo 32 ((List.range gs.length).foldl (fun a g =>
          a + (if g = 0 then at0 0 f i else t2.groupOut v slot g (n * l + i))) 0)
        { u with chn := { u.chn with tails := assocPut u.chn.tails (v * 2 + slot) tail } }) t2)
    (s.prepareShare.showChurnLoad.modChn fun c => { c with tailReady := false })

/-! ### The channel output (R148, R164, R165) -/

/-- Convolution source and destination of channel v (R45, R46). -/
def State.chanSource (s : State) (v : Nat) : Nat := 13568 / s.mult + v
def State.chanDest (s : State) (v : Nat) : Nat := 2048 / s.mult + v

/-- One output sample of a slot (R148): head FIR over the newest-first inputs, plus the tail. -/
def State.slotSample (s : State) (v slot i : Nat) (xs : List Int) : Int :=
  let h := s.chanGranary v + 256 * slot
  let acc := (List.range s.blockLen).foldl (fun a j => a + signed 32 (s.load (h + 4 * j) 4) * at0 0 xs j) 0
  satTo 32 (satTo 32 ((acc + 2 ^ 28) / 2 ^ 29) + at0 0 ((assoc? s.chn.tails (v * 2 + slot)).getD []) i)

/-- The crossfade length of a switch (R165). -/
def State.chanFadeLen (s : State) : Nat := msSamples (s.rd F.CHN_CFG_xfade_ms) s.fs

/-- The output sample of channel v at data time `e` (R148, R164, R165). -/
def State.chanSample (s : State) (v e i : Nat) (xs : List Int) : Int :=
  let old := s.activeSlot v
  match s.chn.sw with
  | some w =>
    match assoc? w.chans v, w.c with
    | some target, some c =>
      let n := w.fade.getD s.chanFadeLen
      if e < c ∨ target = old then s.slotSample v old i xs
      else if e - c ≥ n then s.slotSample v target i xs
      else fadeMix 0 n (e - c) (s.slotSample v old i xs) (s.slotSample v target i xs)
    | _, _ => s.slotSample v old i xs
  | none => s.slotSample v old i xs

/-- Work of channel v for block n: the presented input goes to the input ring, the output source is written (R148,
R154, R27, R29). -/
def State.chanWork (s : State) (v n : Nat) : State :=
  let l := s.blockLen
  let p := s.present (s.chanDest v) n
  let xs := p.1.1.map (·.toInt)
  let past := (assoc? s.chn.past v).getD []
  let r := (List.range l).foldl (fun (a : List Word × List Int) i =>
    let now := (at0 0 xs i :: a.2).take l
    (a.1 ++ [BitVec.ofInt 32 (s.chanSample v (n * l + i) i now)], now)) ([], past)
  let s1 := { p.2 with chn := { p.2.chn with past := assocPut p.2.chn.past v (r.2.take (l - 1)) } }
  let ring := s1.chanArea v 0x10
  let s2 := (List.range l).foldl (fun (t : State) i => t.engineBytes (ring + 4 * ((n * l + i) % (2 * s1.chanPmax v))) (leBytes 4 (unsigned 32 (at0 0 xs i)))) s1
  s2.putOutput n (s2.chanSource v) (bitsOf p.1.2 16 32) (tagCond p.1.2) r.1

/-! ### Prepare commands (R162) -/

/-- The slot is active, or is either side of a switch in force (R162). -/
def State.slotBusy (s : State) (v slot : Nat) : Bool :=
  s.activeSlot v == slot ||
  (match s.chn.sw with
   | some w => (assoc? w.chans v).isSome
   | none => false)

/-- The refusal code of a prepare; 0 starts it (R162). Where several cases hold the first of BUSY, CHANNEL, ACTIVE, LENGTH
shows: DESIGN CHOICE, log entry 55. -/
def State.prepareRefusal (s : State) (v slot len : Nat) : Nat :=
  if s.on F.CHN_PREP_STATUS_busy then 1
  else if v ≥ 128 / s.mult ∨ s.chanGroups v = [] then 4
  else if s.slotBusy v slot then 2
  else if len = 0 ∨ len > s.chanCover v then 3
  else 0

/-- PREPARE_GO (R162): a write of CHN_PREP with go starts the prepare of a slot or is refused; LENGTH fails the slot. -/
def execPrepareGo (value : Word) (s : State) : Host.Outcome State Fault Refusal :=
  let v := bitsOf value.toNat 0 7
  let slot := bitsOf value.toNat 8 1
  let s1 := (s.wr F.CHN_PREP_channel v).wr F.CHN_PREP_slot slot
  let r := s1.prepareRefusal v slot (s1.rd F.CHN_PREP_LEN_taps)
  .next (if !bitAt value.toNat 31 then s1
    else if r = 0 then
      (((((s1.wr F.CHN_PREP_STATUS_busy 1).wr F.CHN_PREP_STATUS_channel v).wr F.CHN_PREP_STATUS_slot slot).wr
        F.CHN_PREP_STATUS_done 0).setSlotState v slot 1).modChn fun c => { c with prepLen := s.rd F.CHN_PREP_LEN_taps }
    else
      let s2 := if r = 1 then s1
        else (s1.wr F.CHN_PREP_STATUS_channel v).wr F.CHN_PREP_STATUS_slot slot
      ((s2.wr F.CHN_PREP_STATUS_result r).when (r == 3) (·.setSlotState v slot 3)).raise 0x050 1)

/-- PREPARE_DONE (R162): every partition is transformed, the slot is READY and prep_done sets. -/
def execPrepareDone (s : State) : Host.Outcome State Fault Refusal :=
  let v := s.rd F.CHN_PREP_STATUS_channel
  let slot := s.rd F.CHN_PREP_STATUS_slot
  .next (if s.on F.CHN_PREP_STATUS_busy then
      ((((s.computeSlot v slot s.chn.prepLen).wr
        F.CHN_PREP_STATUS_busy 0).wr F.CHN_PREP_STATUS_result 0).setSlotState v slot 2).raise 0x050 0
    else s)

/-! ### Switches (R163–R166) -/

/-- Channels the in-force switch registers select whose target is not already active, with targets (R163). -/
def State.switchTargets (s : State) : List (Nat × Nat) :=
  ((List.range 128).filter fun v => bitAt (s.lv F.CHN_SW_MASK_bits 0 (v / 32)) (v % 32)).filterMap fun v =>
    let t := bitsOf (s.lv F.CHN_SW_SLOT_bits 0 (v / 32)) (v % 32) 1
    if t = s.activeSlot v then none else some (v, t)

/-- The crossfade limit of R161. -/
def State.switchLimit (s : State) : Nat := 16 / s.mult

/-- The refusal code of a switch at boundary A; 0 accepts (R163, R168). Where several cases hold the first of REF_NOSWAP,
REF_BUSY for a switch in force, REF_SLOT, REF_BUSY for a channel, REF_COUNT shows: DESIGN CHOICE, log entry 54. -/
def State.switchRefusal (s : State) : Nat :=
  let ts := s.switchTargets
  if s.lv F.CHN_SW_CTRL_mode = 3 ∨ (s.lv F.CHN_SW_CTRL_mode = 2 ∧ ¬ s.armed) then 0x13
  else if s.chn.sw.isSome then 0x11
  else if ts.any fun t => s.slotState t.1 t.2 != 2 then 0x10
  else if ts.any fun t => s.chanXfading t.1 then 0x11
  else if ts.length > s.switchLimit then 0x12
  else 0

/-- Set or clear the XFADING bits of channels. -/
def State.setXfading (s : State) (vs : List Nat) (b : Bool) : State :=
  vs.foldl (fun t v => t.wr (F.CHN_XFADING_bits.part (v % 32) 1) (b2n b) 0 (v / 32)) s

/-- A + 2 × P_max over the channels of a switch (R164). -/
def State.switchLeast (s : State) (w : ChnSwitch) : Nat :=
  w.start + 2 * (w.chans.foldl (fun m t => max m (s.chanPmax t.1)) 0)

/-- c as fixed by a candidate, never before A + 2 × P_max (R164): the sample and whether it was moved. -/
def State.switchSample (s : State) (w : ChnSwitch) (cand : Nat) : Nat × Bool :=
  let least := s.switchLeast w
  if cand < least then (least, true) else (cand, false)

/-- Fix c of the switch in force, reporting LATE when it moves (R164, R15). -/
def State.fixSwitch (s : State) (cand : Nat) : State :=
  match s.chn.sw with
  | none => s
  | some w =>
    let c := s.switchSample w cand
    let t := { s with chn := { s.chn with sw := some { w with c := some c.1 } } }
    t.when c.2 fun u => (u.wr F.APPLY_RESULT_code 0x03 0x050).markLate

/-- The switch comes into force at boundary A (R163, R164): refusal code, 0 in force. -/
def State.beginSwitch (s : State) (a : Nat) : Nat × State :=
  let r := s.switchRefusal
  if r ≠ 0 then (r, s.raise 0x050 5)
  else
    let ts := s.switchTargets
    if ts = [] then (0, (s.wr F.APPLY_RESULT_code 0x02 0x050).raise 0x050 2)
    else
      let w : ChnSwitch := ⟨s.lv F.CHN_SW_CTRL_mode, ts, a, none, none⟩
      let t := ({ s with chn := { s.chn with sw := some w } }.setXfading (ts.map Prod.fst) true).wr F.APPLY_RESULT_code 0x01 0x050
      (0, if w.mode = 0 then t.fixSwitch (s.switchLeast w)
          else if w.mode = 1 then t.fixSwitch (expandEsi s.now (s.lv F.CHN_SW_AT_esi)) else t)

/-- A mode 0b10 switch takes c = S as its swap takes effect (R164). -/
def State.switchAtSwap (s : State) (S : Nat) : State :=
  match s.chn.sw with
  | some w => if w.mode = 2 ∧ w.c = none then s.fixSwitch S else s
  | none => s

/-- The switch ends: with `toNew` its channels stand at their new slots (R165, R166). -/
def State.endSwitch (s : State) (toNew : Bool) (code : Nat) : State :=
  match s.chn.sw with
  | none => s
  | some w =>
    let t := if toNew then w.chans.foldl (fun (u : State) c => u.wr (F.CHN_ACTIVE_bits.part (c.1 % 32) 1) c.2 0 (c.1 / 32)) s else s
    ({ t with chn := { t.chn with sw := none } }.setXfading (w.chans.map Prod.fst) false).wr F.APPLY_RESULT_code code 0x050

/-- A swap's cancellation cancels the switch that waits for it (R166); once the swap took effect c is fixed. -/
def State.cancelSwitchOfSwap (s : State) : State :=
  match s.chn.sw with
  | some w => if w.mode = 2 ∧ w.c = none then s.endSwitch false 0x04 else s
  | none => s

/-- A realign or rate change: before c the switch is cancelled; during a crossfade it ends at the new slot, which ends
the set's last crossfade (R165, R166). -/
def State.switchAtRestart (s : State) : State :=
  match s.chn.sw with
  | some w =>
    if w.fade.isSome || (w.c.any fun c => decide (c ≤ s.now)) then (s.endSwitch true 0x02).raise 0x050 2
    else s.endSwitch false 0x04
  | none => s

/-- SWITCH_CROSSFADE_START (R164, R165): at sample c each switching channel starts from its old to its new slot. -/
def execSwitchCrossfadeStart (s : State) : Host.Outcome State Fault Refusal :=
  .next (match s.chn.sw with
    | some w => if (w.c.map fun c => decide (c ≤ s.now)) == some true && w.fade.isNone then
        { s with chn := { s.chn with sw := some { w with fade := some s.chanFadeLen } } } else s
    | none => s)

/-- SWITCH_DONE (R165): the last channel's crossfade has ended with the Work of its last sample; old slots are inactive, READY and intact. -/
def execSwitchDone (s : State) : Host.Outcome State Fault Refusal :=
  .next (match s.chn.sw with
    | some w => match w.c, w.fade with
      | some c, some n => if c + n + s.blockLen ≤ s.now then (s.endSwitch true 0x02).raise 0x050 2 else s
      | _, _ => s
    | none => s)

/-- SWAP_CANCEL (R124, R166): a write of cancel cancels an armed swap whose block has not entered Gather, and a switch
that waits for it. -/
def execSwapCancel (s : State) : Host.Outcome State Fault Refusal :=
  .next (if s.armed then s.cancelSwap.cancelSwitchOfSwap else s)

/-! ### Transform jobs (R167) -/

/-- JOB_GO (R167): a write of CHN_JOB_CTRL with go starts a job unless one is busy; a size outside 6–16 is refused with
err. go has no effect while a job is busy. The job takes its size, direction and addresses as it starts. -/
def execJobGo (value : Word) (s : State) : Host.Outcome State Fault Refusal :=
  let p := bitsOf value.toNat 0 5
  let s1 := (s.wr F.CHN_JOB_CTRL_log2n p).wr F.CHN_JOB_CTRL_inverse (bitsOf value.toNat 5 1)
  .next (if !bitAt value.toNat 31 then s1
    else if s.on F.CHN_JOB_STATUS_busy then s1
    else if p < 6 ∨ p > 16 then s1.wr F.CHN_JOB_STATUS_err 1
    else ((s1.wr F.CHN_JOB_STATUS_busy 1).wr F.CHN_JOB_STATUS_err 0).modChn fun c => { c with job := (p, bitAt value.toNat 5,
      s.rd F.CHN_JOB_SRC_LO_addr + s.rd F.CHN_JOB_SRC_HI_value * 2 ^ 32, s.rd F.CHN_JOB_DST_LO_addr + s.rd F.CHN_JOB_DST_HI_value * 2 ^ 32) })

/-- Histories, rings and output buffers are cleared at an engine start, a rate change and a realign (R160). -/
def State.churnClear (s : State) : State :=
  let cleared := s.chansUsed.foldl (fun (t : State) v =>
    let len := ((s.chanGroups v).drop 1).foldl (fun a g => a + 8 * g.1 + g.2.1 * recordBytes g.1) (8 * s.chanPmax v)
    let base := s.chanArea v 0x10
    { t with mem := t.mem.filter fun (c : Host.Cell) => !(base ≤ c.1 && c.1 < base + len) }) s
  { cleared with chn := { cleared.chn with fastHist := [], frames := [], outs := [], tails := [], past := [] } }

end Sys2Proof.Machine
end

