-- ==== Sys2Proof/Machine/Faults.lean ====
section
/-! DEFINITION. The timebase as a number, the Parish Roll intake (R525–R530), raising a fault and its class (R511–R514),
and FAULT_N (R520). -/
namespace Sys2Proof.Machine

/-! ### The timebase -/

/-- The timebase in ns since the epoch (R8, R300). -/
def State.tbNs (s : State) : Nat := s.stp.tb / 10 ^ 10

/-- Seconds and nanoseconds of an instant. -/
def secOf (ns : Nat) : Nat := ns / 1000000000
def nsOf (ns : Nat) : Nat := ns % 1000000000

/-! ### The Roll -/

/-- A Roll source at the first release of RESET_N. -/
def RollSrc.zero : RollSrc := ⟨0, 0, List.replicate 8 0, 0, 0, none, 0, 0⟩

/-- Add one, saturating at 2^32 - 1. -/
def sat32Inc (x : Nat) : Nat := min (x + 1) (2 ^ 32 - 1)

/-- Source `p` of the Roll. -/
def State.rollSrc (s : State) (p : Nat) : RollSrc := (assoc? s.flt.srcs p).getD RollSrc.zero

/-- The Roll area's fabric address. -/
def State.rollBase (s : State) : Nat := s.rd F.ROL_BASE_LO_base + s.rd F.ROL_BASE_HI_value * 2 ^ 32

/-- The 32 bytes of a detailed entry (R529). -/
def RollEntry.bytes (e : RollEntry) : List Byte :=
  leBytes 8 e.esi ++ leBytes 4 (e.ns + (if e.firmware then 2 ^ 30 else 0)) ++ leBytes 4 e.sec ++
  leBytes 1 e.source ++ leBytes 1 e.code ++ leBytes 1 (e.cls + (if e.first then 4 else 0)) ++ leBytes 1 0 ++ leBytes 4 e.coalesced ++
  leBytes 4 e.d0 ++ leBytes 4 e.d1

/-- The 64 bytes of a source table entry (R530). -/
def RollSrc.bytes (r : RollSrc) : List Byte :=
  leBytes 4 r.count ++ leBytes 4 r.overflow ++ r.bins.foldr (fun b a => leBytes 4 b ++ a) [] ++
  leBytes 4 r.ext ++ leBytes 4 r.extEsi ++ leBytes 4 (r.last.getD 0xFFFFFFFF) ++ leBytes 4 r.win ++ leBytes 8 0

/-- Entry `k` goes to its areas of the mirror (R530). -/
def State.mirrorEntry (s : State) (k : Nat) (e : RollEntry) : State :=
  if s.on F.ROL_STATUS_mirror_live then
    let b := s.rollBase
    let s1 := if e.first then s.setBytes (b + 0x5000 + 32 * k) e.bytes else s
    (s1.setBytes (b + 0x7000 + 32 * (k % 4096)) e.bytes).setBytes (b + 0x40000 + 32 * (k % 65536)) e.bytes
  else s

/-- Write a detailed entry under the next number k. Below 256 it goes to the first area too, whose entries nothing overwrites
until a clear (R530; DEDUCED, log entry 66). -/
def State.rollEntry (s : State) (e : RollEntry) : State :=
  let k := s.rd F.ROL_ENTRIES_value
  let x := { e with first := decide (k < 256) && (assoc? s.flt.first k).isNone }
  let old := if k < 65536 then s.flt.entries else assocDel s.flt.entries (k - 65536)
  let first := if x.first then assocPut s.flt.first k x else s.flt.first
  let s1 := { s with flt := { s.flt with entries := assocPut old k x, first := first } }
  ((s1.wr F.ROL_ENTRIES_value (k + 1)).wr F.ROL_STATUS_first first.length).mirrorEntry k x |>.raise 0x0B0 0

/-- The Roll intake on one report (R526–R528): the counts, at most one detailed entry per source and window, the
extreme. -/
def State.rollIn (s : State) (src code cls d0 d1 : Nat) (value : Option Nat) (firmware held : Bool) : State :=
  let r := s.rollSrc src
  let detail := r.win = 0 ∧ held
  let r1 := { r with count := sat32Inc r.count, win := r.win + 1 }
  let r2 := if detail then { r1 with skipped := 0, last := some (s.rd F.ROL_ENTRIES_value) }
    else { r1 with skipped := r.skipped + 1, overflow := sat32Inc r.overflow }
  let r3 := match value with
    | some v => if v > r.ext then { r2 with ext := v % 2 ^ 32, extEsi := s.now % 2 ^ 32 } else r2
    | none => r2
  let s1 := { s with flt := { s.flt with srcs := assocPut s.flt.srcs src r3 } }
  if detail then
    s1.rollEntry ⟨s.now, nsOf s.tbNs, firmware, secOf s.tbNs % 2 ^ 32, src, code % 256, cls % 4, r.skipped, d0, d1, false⟩
  else s1.raise 0x0B0 1

/-- A hardware report with no value. -/
def State.rollHw (s : State) (src code : Nat) (d0 d1 : Nat := 0) : State := s.rollIn src code 0 d0 d1 none false true

/-- A firmware decision, reported by the UPD page (R525). -/
def State.rollFw (s : State) (code : Nat) (d0 d1 : Nat := 0) : State := s.rollIn 0xD0 code 0 d0 d1 none true true

/-! ### Faults -/

/-- The class of a fault ID (R511): 0 Notice, 1 Degraded, 2 Safe, 3 Fatal. -/
def faultClass (id : Nat) : Nat :=
  if 1 ≤ id ∧ id ≤ 5 then 2 else if 6 ≤ id ∧ id ≤ 9 then 1 else if id = 0x0D ∨ id = 0x0E then 3 else 0

/-- The class a latched fault acts as: Safe when its escalation bit was set as it was raised (R513). -/
def State.actsAs (s : State) (id : Nat) : Nat := if id ∈ s.flt.escalated then 2 else faultClass id

/-- IDs whose latch is set. -/
def State.latched (s : State) : List Nat := (List.range 16).filter fun i => bitAt (s.rd F.FLT_LATCH_bits) i

/-- A Safe or Fatal latch bit is set. -/
def State.unsafeLatched (s : State) : Bool := s.latched.any fun i => decide (2 ≤ s.actsAs i)

/-- FAULT_N as R520 drives it. A PLL's loss of lock is no RESET_N. -/
def State.faultLow (s : State) : Bool :=
  (decide (s.rd F.SYS_BOOT_stage < 6) && !s.boot.heldReset) || s.unsafeLatched ||
  (s.on F.FLT_CFG_pin_degraded && s.latched.any fun i => s.actsAs i == 1)

/-- Outputs stand in their fail-safe states: from A_f, until the emit of the first block that fades in (R515, R517). -/
def State.outputsSafe (s : State) : Bool :=
  let ph := s.rd F.FLT_STATE_phase
  (s.on F.FLT_STATE_failsafe && ((ph == 1 && !s.flt.entering) || ph == 2)) || (ph == 3 && decide (s.now < s.modes.fsFade.start + 3 * s.blockLen))

/-- Local outputs send zeros: from the emit of the first SAFE_MUTE block, until the emit of the first that fades in (R515,
R517). -/
def State.heldSafe (s : State) : Bool :=
  let ph := s.rd F.FLT_STATE_phase
  ph == 2 || (ph == 3 && decide (s.now < s.modes.fsFade.start + 3 * s.blockLen))

/-- Show FAULT_N in FLT_STATE. -/
def State.showFaultN (s : State) : State := s.wr F.FLT_STATE_fault_n (b2n s.faultLow)

/-- An Active declares a fault: from the boundary after, it takes role Standby (R354, R519). -/
def State.declareFault (s : State) : State :=
  if s.rd F.NBR_STATE_role = 1 ∧ s.nbr.declareAt = none then
    { s with nbr := { s.nbr with declareAt := some (nextBlock s.blockLen s.now), declared := true } }
  else s

/-- Fail-safe is entered as a Safe or Fatal latch sets: an armed swap is cancelled with its switch, and the entry waits
for A_f (R514, R516). phase shows a fade-out from the latch on. -/
def State.enterFailsafe (s : State) (id : Nat) : State :=
  if s.on F.FLT_STATE_failsafe then { s with flt := { s.flt with leave := false } }
  else
    let s1 := if s.armed then s.cancelSwap.cancelSwitchOfSwap else s
    let s2 := { s1 with flt := { s1.flt with entering := true, enterAt := if s.running then nextBlock s.blockLen s.now else 0, leave := false } }
    let s3 := if s2.rd F.FLT_STATE_phase = 0 then s2.wr F.FLT_STATE_phase 1 else s2
    ((((s3.wr F.FLT_STATE_failsafe 1).wr F.FLT_STATE_cause id).bump F.FLT_COUNTS_entries).raise 0x0B1 0).declareFault

/-- The fatal sequence of fault `id` starts (R522 step 1); a second Fatal fault changes nothing else. -/
def State.startFatal (s : State) (id : Nat) : State :=
  if s.on F.FLT_STATE_fatal then s
  else (((s.wr F.FLT_STATE_fatal 1).bump F.FLT_COUNTS_fatals).raise 0x0B1 3).modFlt fun (f : Flt) => { f with fatalId := id }

/-- A fault is raised (R511–R514): recorded in the Roll under its own class, latched, and acting by its class. -/
def State.raiseFault (s : State) (id : Nat) (active : Bool) (d0 : Nat := 0) : State :=
  let cls := faultClass id
  let esc := bitAt (s.rd F.FLT_ESCALATE_bits) id && decide (cls < 2)
  let s1 := s.rollIn 0x0B1 id cls d0 0 none false true
  let s2 := s1.wr (F.FLT_LATCH_bits.part id 1) 1
  let s3 := if active then s2.wr (F.FLT_ACTIVE_bits.part id 1) 1 else s2
  let s4 := if esc then { s3 with flt := { s3.flt with escalated := if id ∈ s3.flt.escalated then s3.flt.escalated else s3.flt.escalated ++ [id] } }
    else s3
  let s5 := if esc ∨ 2 ≤ cls then s4.enterFailsafe id else if cls = 1 then s4.raise 0x0B1 2 else s4
  (if cls = 3 then s5.startFatal id else s5).showFaultN

/-- A fault's condition ends (R511). -/
def State.faultInactive (s : State) (id : Nat) : State := s.wr (F.FLT_ACTIVE_bits.part id 1) 0

end Sys2Proof.Machine
end

