-- ==== Sys2Proof/Machine/Flash.lean ====
section
/-! DEFINITION. The boot flash as the Reeve and the boot ROM use it (R478–R480, R488): the boot header and its partitions,
pairs of copies chosen by sequence number, boot records, and the settings. -/
namespace Sys2Proof.Machine

/-! ### Header and partitions (R479) -/

/-- The boot header in flash is valid (R479). -/
def State.flashHeader (s : State) : Bool :=
  s.load 0x20000000 4 == 0x44485A53 && s.load 0x20000004 2 == 1 && s.load 0x20000090 4 == crc32 (s.bytes 0x20000000 0x90)

/-- The partition of a type: address in the flash window, and size. -/
def State.flashPart (s : State) (ty : Nat) : Option (Nat × Nat) :=
  if !s.flashHeader then none
  else ((List.range 8).find? fun (i : Nat) => s.load (0x20000010 + 16 * i) 4 == ty).map fun (i : Nat) =>
    (0x20000000 + s.load (0x20000014 + 16 * i) 4, s.load (0x20000018 + 16 * i) 4)

/-- Sectors erased and failures, as QSP_COUNTS shows them. -/
def State.flashErased (s : State) (k : Nat) : State := s.bump F.QSP_COUNTS_erases k
def State.flashFailed (s : State) : State := s.bump F.QSP_COUNTS_failures

/-! ### Pairs of copies (R480) -/

/-- Sequence number `a` is later than `b` by serial arithmetic. -/
def laterSeq (a b : Nat) : Bool := let d := (a + 2 ^ 32 - b % 2 ^ 32) % 2 ^ 32; decide (0 < d) && decide (d < 2 ^ 31)

/-- The current copy of two, by which are valid and their sequence numbers. -/
def currentCopy (v0 v1 : Bool) (q0 q1 : Nat) : Option Nat :=
  if v0 && v1 then some (if laterSeq q1 q0 then 1 else 0) else if v0 then some 0 else if v1 then some 1 else none

/-! ### Boot records -/

/-- Address of boot-record copy `k`. -/
def recAddr (k : Nat) : Nat := 0x20010000 + 0x10000 * k

/-- A boot-record copy has its magic and CRC. -/
def State.recValid (s : State) (k : Nat) : Bool :=
  s.load (recAddr k) 4 == 0x52425A53 && s.load (recAddr k + 0x88) 4 == crc32 (s.bytes (recAddr k) 0x88)

/-- The current boot record. -/
def State.currentRec (s : State) : Option Nat :=
  currentCopy (s.recValid 0) (s.recValid 1) (s.load (recAddr 0 + 4) 4) (s.load (recAddr 1 + 4) 4)

/-- An empty slot. -/
def Slot.empty : Slot := ⟨0, 0, 0, 0, 0⟩

/-- Slot `i` of the record at `a`. -/
def State.bootSlotAt (s : State) (a i : Nat) : Slot :=
  let o := a + 8 + 64 * i
  ⟨s.load o 1, s.load (o + 1) 1, s.load (o + 2) 1, s.load (o + 4) 4, ofBe (s.bytes (o + 8) 48)⟩

/-- The bytes of a slot. -/
def Slot.bytes (x : Slot) : List Byte :=
  leBytes 1 x.state ++ leBytes 1 x.trials ++ leBytes 1 x.secVer ++ leBytes 1 0 ++ leBytes 4 x.size ++ beBytes 48 x.sha ++ leBytes 8 0

/-- An image slot. -/
def State.bootSlot (s : State) (i : Nat) : Slot := if i = 0 then s.boot.slot0 else s.boot.slot1

/-- UPD_STATE shows the boot record (R510). -/
def State.showRecord (s : State) : State :=
  let b := s.boot
  let t := if b.slot0.state = 3 then b.slot0.trials else if b.slot1.state = 3 then b.slot1.trials else 0
  (((s.wr F.UPD_STATE_slot0 b.slot0.state).wr F.UPD_STATE_slot1 b.slot1.state).wr F.UPD_STATE_trials t).wr F.UPD_STATE_seq b.seq

/-- Write the boot record with slot `i` changed: the other copy's sector is erased and programmed with seq + 1. -/
def State.putSlot (s : State) (i : Nat) (x : Slot) : State :=
  let k := match s.currentRec with | some 0 => 1 | _ => 0
  let seq := (s.boot.seq + 1) % 2 ^ 32
  let s1 := s.modBoot fun (b : Boot) => if i = 0 then { b with slot0 := x, seq := seq } else { b with slot1 := x, seq := seq }
  let body := leBytes 4 0x52425A53 ++ leBytes 4 seq ++ s1.boot.slot0.bytes ++ s1.boot.slot1.bytes
  let s2 := (s1.mem.filter fun (c : Host.Cell) => !(decide (recAddr k ≤ c.1) && decide (c.1 < recAddr k + 0x10000)))
  ((({ s1 with mem := s2 } : State).setBytes (recAddr k) (body ++ leBytes 4 (crc32 body))).flashErased 1).showRecord

/-- The boot ROM reads both boot records. -/
def State.readRecords (s : State) : State :=
  (match s.currentRec with
    | some k => s.modBoot fun (b : Boot) =>
        { b with slot0 := s.bootSlotAt (recAddr k) 0, slot1 := s.bootSlotAt (recAddr k) 1, seq := s.load (recAddr k + 4) 4 }
    | none => s.modBoot fun (b : Boot) => { b with slot0 := Slot.empty, slot1 := Slot.empty, seq := 0 }).showRecord

/-! ### Settings (R488, R489) -/

/-- One record: tag, length, value padded to four bytes. -/
def settingBytes (tag : Nat) (v : List Byte) : List Byte :=
  leBytes 2 tag ++ leBytes 2 v.length ++ v ++ List.replicate ((4 - v.length % 4) % 4) 0

/-- The records of a list up to the tag 0xFFFF: tag and value. -/
def parseRecords : Nat → List Byte → List (Nat × List Byte)
  | 0, _ => []
  | fuel + 1, l =>
    let tag := ofLe (l.take 2)
    let n := ofLe ((l.drop 2).take 2)
    if l = [] ∨ tag = 0xFFFF then []
    else (tag, (l.drop 4).take n) :: parseRecords fuel (l.drop (4 + (n + 3) / 4 * 4))

/-- Words of a record's value. -/
def wordsOfBytes (v : List Byte) : List Nat := (List.range (v.length / 4)).map fun (i : Nat) => ofLe ((v.drop (4 * i)).take 4)

/-- Entries of a preset record: page, offset, value (R489). -/
def presetsOf (v : List Byte) : List (Nat × Nat × Word) :=
  (List.range (v.length / 8)).map fun (i : Nat) =>
    (ofLe ((v.drop (8 * i)).take 2), ofLe ((v.drop (8 * i + 2)).take 2), BitVec.ofNat 32 (ofLe ((v.drop (8 * i + 4)).take 4)))

/-- No settings. -/
def Settings.none : Settings := ⟨.none, .none, [], .none, [], 0⟩

/-- A record is taken into the settings. The spec gives the values of the device records no layout: two words of averages
with 0xFFFFFFFF for none, and one word for each spare row (log entry 41). -/
def Settings.take (x : Settings) (r : Nat × List Byte) : Settings :=
  let ws := wordsOfBytes r.2
  let opt (v : Nat) : Option Nat := if v = 0xFFFFFFFF then .none else some v
  if r.1 = 1 then { x with avg48 := opt (ws.getD 0 0xFFFFFFFF), avg44 := opt (ws.getD 1 0xFFFFFFFF) }
  else if r.1 = 2 then { x with spares := ws }
  else if r.1 = 0x101 then { x with mode := some (BitVec.ofNat 32 (ofLe (r.2.take 4))) }
  else if r.1 = 0x102 then { x with presets := presetsOf r.2 }
  else x

/-- The records that hold the settings. -/
def Settings.records (x : Settings) : List Byte :=
  (if x.avg48 = .none ∧ x.avg44 = .none then [] else settingBytes 1 (leBytes 4 (x.avg48.getD 0xFFFFFFFF) ++ leBytes 4 (x.avg44.getD 0xFFFFFFFF))) ++
  (if x.spares = [] then [] else settingBytes 2 (x.spares.flatMap fun (r : Nat) => leBytes 4 r)) ++
  (match x.mode with | some m => settingBytes 0x101 (leBytes 4 m.toNat) | .none => []) ++
  (if x.presets = [] then [] else settingBytes 0x102 (x.presets.flatMap fun (e : Nat × Nat × Word) =>
    leBytes 2 e.1 ++ leBytes 2 e.2.1 ++ leBytes 4 e.2.2.toNat))

/-- Length of the record list in a copy, up to the ending tag. -/
def recordsLength (rs : List (Nat × List Byte)) : Nat := rs.foldl (fun (a : Nat) (r : Nat × List Byte) => a + 4 + (r.2.length + 3) / 4 * 4) 0

/-- Copy `k` of the settings partition at `a`: its records, where its magic and CRC are right. -/
def State.settingsCopy (s : State) (a : Nat) : Option (List (Nat × List Byte)) :=
  let rs := parseRecords 0x40000 (s.bytes (a + 16) (0x100000 - 16))
  if s.load a 4 == 0x54535A53 && s.load (a + 12) 4 == crc32 (s.bytes (a + 16) (recordsLength rs)) then some rs else none

/-- The current copy of the settings: 0 or 1. -/
def State.currentSettings (s : State) (a : Nat) : Option Nat :=
  currentCopy (s.settingsCopy a).isSome (s.settingsCopy (a + 0x100000)).isSome (s.load (a + 4) 4) (s.load (a + 0x100004) 4)

/-- Write the settings: the other copy takes seq + 1 (R488). -/
def State.saveSettings (s : State) (x : Settings) : State :=
  let s1 := s.modBoot fun (b : Boot) => { b with settings := x }
  match s1.flashPart 3 with
  | none => s1
  | some p =>
    let cur := s1.currentSettings p.1
    let k := match cur with | some 0 => 1 | _ => 0
    let seq := match cur with | some c => (s1.load (p.1 + 0x100000 * c + 4) 4 + 1) % 2 ^ 32 | none => 1
    let a := p.1 + 0x100000 * k
    let body := x.records
    let kept := s1.mem.filter fun (c : Host.Cell) => !(decide (a ≤ c.1) && decide (c.1 < a + 0x100000))
    (({ s1 with mem := kept } : State).setBytes a
      (leBytes 4 0x54535A53 ++ leBytes 4 seq ++ leBytes 1 x.schema ++ leBytes 3 0 ++ leBytes 4 (crc32 body) ++ body ++ leBytes 2 0xFFFF)).flashErased 16

/-- The settings as flash holds them (R488). -/
def State.readSettings (s : State) : State :=
  match s.flashPart 3 with
  | none => s.modBoot fun (b : Boot) => { b with settings := Settings.none }
  | some p =>
    match s.currentSettings p.1 with
    | none => s.modBoot fun (b : Boot) => { b with settings := Settings.none }
    | some k =>
      let a := p.1 + 0x100000 * k
      let x := ((s.settingsCopy a).getD []).foldl Settings.take Settings.none
      s.modBoot fun (b : Boot) => { b with settings := { x with schema := s.load (a + 8) 1 } }

end Sys2Proof.Machine
end

