-- ==== Sys2Proof/Machine/Memory.lean ====
section
/-! DEFINITION. The memories (chapter 13): Granary writes with the hold buffer and the bank locks, ECC, the Sweeper, the
Strongroom, Cellar refresh, and the Gleaner. -/
namespace Sys2Proof.Machine

/-! ### The Granary (R385–R391) -/

/-- The bank of an address is On (R392). -/
def State.bankOn (s : State) (a : Nat) : Bool :=
  let b := granaryBank a
  let p := s.rd (F.GRN_BANK_STATE_bank.part (b % 16) 2) 0 (b / 16)
  p == 0 || p == 3

/-- Words that need a new entry of the hold buffer for a write of `len` bytes at `a` (R389). -/
def State.newHolds (s : State) (a len : Nat) : List Nat :=
  if bankOf a = some s.liveBank then (wordsOf a len).filter fun w => (assoc? s.memx.hold w).isNone else []

/-- Keep the earlier value of Live words for the windows until the next boundary (R389). -/
def State.keepHolds (s : State) (ws : List Nat) : State :=
  let h := ws.foldl (fun (h : List (Nat × DWord)) w => assocPut h w (BitVec.ofNat 64 (s.load (w * 8) 8))) s.memx.hold
  ({ s with memx := { s.memx with hold := h } }).peak F.GRN_HOLD_peak h.length

/-- A span in its pieces on either side of the end of a scene bank. -/
def bankPieces (a : Nat) (data : List Byte) : List (Nat × List Byte) :=
  let k := 0x800000 - a % 0x800000
  if data.length ≤ k then [(a, data)] else [(a, data.take k), (a + k, data.drop k)]

/-- The 32-bit words of a span. -/
def words32 (a len : Nat) : List Nat := (List.range ((a + len + 3) / 4 - a / 4)).map fun i => (a / 4 + i) * 4

/-- Store bytes in the Granary; words of the Live bank wait as loose writes for the next boundary (R76, R389). An Active
sends its bank writes to the Standby with their boundary (R344). -/
def State.granaryStore (s : State) (a : Nat) (data : List Byte) : State :=
  let full := (wordsOf a data.length).filter fun w => a ≤ w * 8 && w * 8 + 8 ≤ a + data.length
  let s1 := s.setBytes a data
  let s2 := { s1 with memx := { s1.memx with
    poison := s1.memx.poison.filter (fun w => !(full.contains w)),
    soft := s1.memx.soft.filter (fun w => !((wordsOf a data.length).contains w)) } }
  let s3 := if (bankOf a).isSome ∧ s.leads then s2.nbrSend 4 (nextBlock s.blockLen s.now :: a :: natBytes data) else s2
  let s3 := if (bankOf a).isSome ∧ s.rd F.NBR_STATE_role ≠ 0 then s3.touch a data.length else s3
  if bankOf a = some s.liveBank then
    { s3 with scn := { s3.scn with loose := s3.scn.loose ++
        (words32 a data.length).map fun w => (w, BitVec.ofNat 32 (s3.load w 4)) } }
  else s3

/-- An engine write is stored, unless the Standby is copying HOT and LONG content from the Active (R351). -/
def State.engineStore (s : State) (a : Nat) (data : List Byte) : State :=
  if s.copying ∧ (s.mapClass a = 1 ∨ s.mapClass a = 2) then s else (s.granaryStore a data).engineWrite a data

/-- An earlier write of the same source waits for the hold buffer, so this one waits behind it (R389). -/
def State.waitsBehind (s : State) (ini : Initiator) (chan : Nat := 0) : Bool :=
  s.memx.holdWait.any fun w => w.ini == ini && w.chan == chan

/-- A write that finds the hold buffer full waits at the Granary port; a block period in which one does counts (R389, R417). -/
def State.queueHold (s : State) (w : HoldWait) : State :=
  let t : State := { s with memx := { s.memx with holdWait := s.memx.holdWait ++ [w] } }
  if s.memx.holdWait = [] then (t.bump F.GRN_HOLD_full).raise 0x020 4 else t

/-- What became of a Granary write. -/
inductive GrnResult where
  | done | dropped | waits | error
  deriving DecidableEq, Repr

/-- From A to B of a restart, writes to either bank are discarded (R377 step 1); the Reeve's own loads apart. locked_a and locked_b
do not show it (DESIGN CHOICE, log entry 53). -/
def State.restartLocks (s : State) : Bool :=
  match s.modes.restart with
  | some r => r.kind != 4 && s.rd F.SYS_MODE_STATE_phase != 4
  | none => false

/-- A write by a master to the Granary (R108, R111, R345, R389, R391, R392): a write through an alias that waits keeps the alias. `chan` tells
the sources of one master port apart. -/
def State.granaryWrite (s : State) (ini : Initiator) (addr : Nat) (data : List Byte) (chan : Nat := 0) : GrnResult × State :=
  let a := s.resolveAlias addr
  if s.waitsBehind ini chan then (.waits, s.queueHold ⟨ini, chan, addr, data⟩)
  else if !s.bankOn a then (.error, s)
  else
    let inBank := (bankOf a).isSome
    let locked := match bankOf a with
      | some b => s.bankLocked b || (s.restartLocks && ini != Initiator.reeve)
      | none => false
    let driven := inBank && s.rd F.NBR_STATE_role == 2 && (ini == Initiator.host || ini == Initiator.dma || ini == Initiator.debug || ini == Initiator.reeve)
    if driven then (.dropped, s.bump F.NBR_COUNTS_driven_drop)
    else if locked then (.dropped, s.lockDrop)
    else
      let partialBad := (wordsOf a data.length).any fun w =>
        s.poisoned w && !(a ≤ w * 8 && w * 8 + 8 ≤ a + data.length)
      if partialBad then (.error, s)
      else
        let need := s.newHolds a data.length
        if s.memx.hold.length + need.length > 16384 then
          (.waits, s.queueHold ⟨ini, chan, addr, data⟩)
        else (.done, (s.keepHolds need).granaryStore a data)


/-- GRANARY_WRITE (R389): the write is performed, discarded, answered with an error, or waits for the hold buffer. -/
def execGranaryWrite (ini : Initiator) (addr : Nat) (data : List Byte) (s : State) : Host.Outcome State Fault Refusal :=
  .next (if s.portShut ini then s
    else if !(inGranary addr && inGranary (addr + data.length - 1)) ∨ data = [] then s.respond ini 0 true
    else
      let r := s.granaryWrite ini addr data
      match r.1 with
      | .waits => r.2
      | .error => r.2.respond ini 0 true
      | _ => r.2.respond ini 0)

/-- A waiting bank write of a Mill or a transfer (channel 100 + Mill), which no master's response follows (R389). -/
def State.engineHeldWrite (s : State) (w : HoldWait) : State :=
  if (bankOf w.addr).any s.bankLocked then s.lockDrop
  else
    let need := s.newHolds w.addr w.data.length
    if s.memx.hold.length + need.length > 16384 then s.queueHold w
    else (s.keepHolds need).engineStore w.addr w.data

/-- A read by a fabric master that meets an uncorrectable word: counted, captured, reported (R390, R391). -/
def State.eccUncorr (s : State) (ini : Initiator) (a : Nat) : State :=
  (((s.eccNote a).wr F.ERR_INFO_master ini.port 0x020).wr F.ERR_INFO_valid 1 0x020).raiseFault 0x0B false (a % 2 ^ 32)

/-- A read by engine hardware or a Mill that meets an uncorrectable word (R390, R391). -/
def State.eccEngine (s : State) (a : Nat) : State := (s.eccNote a).raiseFault 0x0B false (a % 2 ^ 32)

/-- A single-bit error is corrected on the read and counted; two different words of a row mark it for a spare (R390,
R395). -/
def State.eccCorr (s : State) (w : Nat) : State :=
  let r := rowOf (w * 8)
  let other := s.memx.oneBit.any fun e => e.1 == r && e.2 != w
  let s1 := ((s.bump F.GRN_ECC_corrected).raise 0x020 0).rollHw 0x020 0 (w * 8)
  { s1 with memx := { s1.memx with
      oneBit := if (r, w) ∈ s1.memx.oneBit then s1.memx.oneBit else s1.memx.oneBit ++ [(r, w)],
      marked := if other ∧ r ∉ s1.memx.marked then s1.memx.marked ++ [r] else s1.memx.marked } }

/-- The single-bit errors that a read of a span corrects (R390). -/
def State.eccSoft (s : State) (a len : Nat) : State :=
  ((wordsOf a len).filter fun w => w ∈ s.memx.soft).foldl State.eccCorr s

/-- A Granary read by a master (R390, R392): none is an error response. -/
def State.granaryRead (s : State) (ini : Initiator) (a len : Nat) : Option Nat × State :=
  if !s.bankOn a then (none, s)
  else
    let s1 := s.eccSoft a len
    if (wordsOf a len).any s.poisoned then (none, s1.eccUncorr ini a) else (some (s1.load a len), s1)

/-- Bits of Granary words that flipped since they were written, as a read finds them: one bit, or more than the check bits
correct (`true`). What flips a bit is outside the block; a word keeps its error until it is written (R390, R391). -/
def State.upset (s : State) (us : List (Nat × Bool)) : State :=
  us.foldl (fun (t : State) (u : Nat × Bool) =>
    if !inGranary (8 * u.1) then t
    else if u.2 then { t with memx := { t.memx with poison := if u.1 ∈ t.memx.poison then t.memx.poison else t.memx.poison ++ [u.1] } }
    else { t with memx := { t.memx with soft := if u.1 ∈ t.memx.soft then t.memx.soft else t.memx.soft ++ [u.1] } }) s

/-- GRANARY_READ (R390): single-bit errors are corrected; an uncorrectable word reads as zeros with an error response. The
words that `span` names have flipped bits. -/
def execGranaryRead (ini : Initiator) (addr : Nat) (span : GrnSpan) (s : State) : Host.Outcome State Fault Refusal :=
  let len := span.len
  let u := s.upset span.upsets
  .next (if s.portShut ini then u
    else if !(inGranary addr && inGranary (addr + len - 1)) ∨ len = 0 then u.respond ini 0 true
    else match u.granaryRead ini addr len with
      | (some v, t) => t.respond ini v
      | (none, t) => t.respond ini 0 true)

/-- ECC_WRITEBACK (R390): the corrected word is written back; the soft error is gone. -/
def execEccWriteback (word : Nat) (s : State) : Host.Outcome State Fault Refusal :=
  .next { s with memx := { s.memx with soft := s.memx.soft.filter (· != word) } }

/-! ### The Sweeper (R393–R396) -/

/-- Spares in use in a bank (GRN_SPARESi). -/
def State.sparesUsed (s : State) (b : Nat) : Nat := s.rd (F.GRN_SPARES_used.part (b % 8) 4) 0 (b / 8)

/-- Hold the first failing or skipped row since the last read. -/
def State.sweepFail (s : State) (r skipped : Nat) : State :=
  if s.on F.SWP_FAIL_valid then s
  else (((s.wr F.SWP_FAIL_bank (r / 1024)).wr F.SWP_FAIL_row (r % 1024)).wr F.SWP_FAIL_skipped skipped).wr F.SWP_FAIL_valid 1

/-- Map row `r` to a spare, or find the bank's spares used up (R395). -/
def State.mapSpare (s : State) (r : Nat) : State :=
  let b := r / 1024
  if r ∈ s.memx.spares then s
  else if s.sparesUsed b < 8 then
    let s1 := s.wr (F.GRN_SPARES_used.part (b % 8) 4) (s.sparesUsed b + 1) 0 (b / 8)
    let s2 := { s1 with memx := { s1.memx with spares := s1.memx.spares ++ [r] } }
    let s3 := s2.saveSettings { s2.boot.settings with spares := s2.memx.spares }
    (s3.raise 0x020 2).rollHw 0x020 2 r
  else (s.raise 0x020 3).raiseFault 0x07 false r

/-- The next row to test: bank 0–63 within a row, then the next row (R394). -/
def State.sweepNext (s : State) : State :=
  let b := s.rd F.SWP_POS_bank
  let w := s.rd F.SWP_POS_row
  let s1 := { s with memx := { s.memx with aborts := 0 } }
  if b < 63 then s1.wr F.SWP_POS_bank (b + 1)
  else if w < 1023 then (s1.wr F.SWP_POS_bank 0).wr F.SWP_POS_row (w + 1)
  else (((s1.wr F.SWP_POS_bank 0).wr F.SWP_POS_row 0).bump F.SWP_COUNTS_passes).raise 0x022 0

/-- One row's test: outcome 0 passes, 1 fails the march, 2 aborted by a write (R393, R395). -/
def State.sweepRow (s : State) (outcome : Nat) : State :=
  let r := s.rd F.SWP_POS_bank * 1024 + s.rd F.SWP_POS_row
  let limit := max 1 (s.rd F.SWP_CFG_retries)
  if outcome = 2 then
    let s1 := { s.bump F.SWP_COUNTS_aborts with memx := { (s.bump F.SWP_COUNTS_aborts).memx with aborts := s.memx.aborts + 1 } }
    if s.memx.aborts + 1 ≥ limit then ((s1.sweepFail r 1).raise 0x022 2).sweepNext else s1
  else
    let s1 := if outcome = 1 then (s.sweepFail r 0).raise 0x022 1 else s
    let s2 := if outcome = 1 ∨ r ∈ s.memx.marked then s1.mapSpare r else s1
    { s2 with memx := { s2.memx with marked := s2.memx.marked.filter (· != r),
                                     oneBit := s2.memx.oneBit.filter (fun e => e.1 != r) } }.sweepNext

/-- SWEEPER_ROW_TEST (R393): the rows of one block period, at most `rate` of them, each with the outcome the cells gave;
every row is restored. -/
def execSweeperRowTest (outcomes : List Nat) (s : State) : Host.Outcome State Fault Refusal :=
  .next (if s.on F.SWP_CFG_enable then (outcomes.take (s.rd F.SWP_CFG_rate)).foldl State.sweepRow s else s)

/-! ### The Strongroom (R397–R399) -/

/-- First and one past the last address of the Strongroom. -/
def strBase : Nat := 0x04000000
def strEnd : Nat := 0x04040000

/-- A wipe starts with its cause. -/
def State.startWipe (s : State) (cause : Nat) : State :=
  ({ s with memx := { s.memx with wiping := some cause } }).wr F.STR_STATUS_wiping 1

/-- TAMPER (R398, R511): a tamper input held low for 1 µs while its enable is 1 wipes the Strongroom; its release shows
in STR_STATUS. -/
def execTamper (pin : Nat) (low : Bool) (s : State) : Host.Outcome State Fault Refusal :=
  let s1 := if pin = 0 then s.wr F.STR_STATUS_tamper0 (b2n low) else s.wr F.STR_STATUS_tamper1 (b2n low)
  let en := if pin = 0 then s.on F.STR_CTRL_tamper_en0 else s.on F.STR_CTRL_tamper_en1
  .next (if low && en then (s1.startWipe (min pin 1)).raiseFault 0x0C false pin else s1)

/-- STR_WIPE (R398): the Reeve's write of wipe. -/
def execStrWipe (ini : Initiator) (s : State) : Host.Outcome State Fault Refusal :=
  .next (if ini = .reeve then s.startWipe 3 else s)

/-- The MAC address after the one whose bytes, the first lowest, are `mac`: its last byte is the least significant (R499). -/
def nextMac (mac : Nat) : Nat := ofLe (beBytes 6 ((ofBe (leBytes 6 mac) + 1) % 2 ^ 48))

/-- NETA and NETB take the unit's addresses from the Strongroom (R262, R499). -/
def State.loadMacs (s : State) : State :=
  [0, 1].foldl (fun (t : State) p =>
    (t.wrBoth F.NT_MAC_LO_mac (s.load (strBase + 36 + 6 * p) 4) p).wrBoth F.NT_MAC_HI_mac (s.load (strBase + 40 + 6 * p) 2) p) s

/-- The identity record rebuilt from the fuses (R499): type, revision and grade, unit ID, serial number, MAC addresses. -/
def State.identity (s : State) : State :=
  let id := s.reg 0x40
  let s1 := s.store strBase 4 id.toNat
  let s2 := (List.range 4).foldl (fun (t : State) k => t.store (strBase + 4 + 4 * k) 4 (s.rd F.SYS_UID_uid 0 k)) s1
  let mac := s.rd F.FUS_MAC_LO_mac + s.rd F.FUS_MAC_HI_value * 2 ^ 32
  (s2.store (strBase + 36) 6 mac).store (strBase + 42) 6 (nextMac mac)

/-- A wipe ends: every word reads zero, wiped and the cause are recorded (R398). -/
def State.wipeEnd (s : State) (c : Nat) : State :=
  let s1 := { s with mem := s.mem.filter (fun (x : Host.Cell) => !(strBase ≤ x.1 && x.1 < strEnd)),
                     memx := { s.memx with wiping := none },
                     boot := { s.boot with unitKey := false } }
  ((((s1.wr F.STR_STATUS_wiping 0).wr F.STR_STATUS_wiped 1).wr F.STR_STATUS_cause c).raise 0x021 0).rollHw 0x021 0 c

/-- WIPE_DONE (R398, R499): the wipe ends, and the Reeve rebuilds the identity record. -/
def execWipeDone (s : State) : Host.Outcome State Fault Refusal :=
  .next (match s.memx.wiping with
    | none => s
    | some c => (s.wipeEnd c).identity)

/-! ### The Cellar (R400–R409) -/

/-- Refresh debt of a channel. -/
def State.debt (s : State) (c : Nat) : Nat := (assoc? s.memx.debts c).getD 0

/-- Set it. -/
def State.setDebt (s : State) (c d : Nat) : State :=
  ({ s with memx := { s.memx with debts := assocPut s.memx.debts c d } }).peak F.CEL_REF_STAT_debt_peak d

/-- Class of a channel: 0 normal, 1 double, 2 hot (CEL_TEMP). -/
def State.celClass (s : State) (c : Nat) : Nat := s.rd { F.CEL_TEMP_temp with lo := 8 * c + 5, width := 2 }

/-- The refresh-debt limit in force (R405). -/
def State.debtLimit (s : State) (c : Nat) : Nat :=
  if s.celClass c = 0 then s.rd F.CEL_REF_STAT_debt_max / 2 else s.rd F.CEL_REF_STAT_debt_max

/-- REFRESH_DEBT_TICK (R405): the debt rises by one; a per-bank refresh goes to a bank with no queued request. -/
def execRefreshDebtTick (channel : Nat) (idle : Bool) (s : State) : Host.Outcome State Fault Refusal :=
  .next (if channel < 4 then
      let d := s.debt channel + 1
      let s1 := s.setDebt channel d
      if idle then (s1.setDebt channel (d - 1)).emit (.cellar channel 1) else s1
    else s)

/-- SUPERVISORY_REFRESH (R405): an all-bank refresh when the debt is at or above the limit less 16. -/
def execSupervisoryRefresh (channel : Nat) (s : State) : Host.Outcome State Fault Refusal :=
  .next (if channel < 4 ∧ s.debt channel + 16 ≥ s.debtLimit channel then
      (s.setDebt channel (s.debt channel - 16)).emit (.cellar channel 2)
    else s)

/-- The recount at a rise of the refresh rate by `k` steps, with the stall it may call for (R407). -/
def State.refreshRecount (s : State) (c k trfc : Nat) : State :=
  let d := s.debt c * 2 ^ k
  let m := s.rd F.CEL_REF_STAT_debt_max
  if d ≤ m then s.setDebt c d
  else
    let r := (d - m + 15) / 16
    let ns := r * trfc
    let s1 := (List.range r).foldl (fun (t : State) _ => t.emit (.cellar c 2)) (s.setDebt c d)
    let s2 := ((s1.setDebt c (d - 16 * r)).peak F.CEL_REF_STAT_stall_ns ns).bump F.CEL_ERR_stalls
    (s2.raise 0x028 1).rollIn 0x028 1 0 c ns (some ns) false true

/-- Class `k` comes into force on a channel (R406). -/
def State.setCelClass (s : State) (c k : Nat) : State :=
  let s1 := s.wr { F.CEL_TEMP_temp with lo := 8 * c + 5, width := 2 } k
  let s2 := if k = 1 then s1.raise 0x028 0 else if k = 2 then (s1.raise 0x028 2).raiseFault 0x04 true c else s1
  if (List.range 4).all fun i => s2.celClass i != 2 then s2.faultInactive 0x04 else s2

/-- MR4_POLL (R406, R407): the refresh-rate field of MR4 of a channel and the class of rate the device needs by it (0 the
1× rate or less, 1 up to 2×, 2 more or too hot); a rise acts at once, a fall after two reads in a row that give the lower class. -/
def execMr4Poll (channel field need trfc : Nat) (s : State) : Host.Outcome State Fault Refusal :=
  .next (if channel < 4 then
      let old := s.celClass channel
      let s1 := s.wr { F.CEL_TEMP_temp with lo := 8 * channel, width := 5 } field
      let seen := (assoc? s.memx.lower channel).getD 0
      let mark := min need 2 + 1
      let keep (t : State) (n : Nat) : State := { t with memx := { t.memx with lower := assocPut t.memx.lower channel n } }
      if old < min need 2 then (keep (s1.setCelClass channel (min need 2)) 0).refreshRecount channel (min need 2 - old) trfc
      else if min need 2 < old then
        if seen = mark then keep (s1.setCelClass channel (min need 2)) 0 else keep s1 mark
      else keep s1 0
    else s)

/-- WCK2DQ_POLL (R409): the oscillators of a channel are read and its write timing adjusted, at no stall. -/
def execWck2dqPoll (channel : Nat) (s : State) : Host.Outcome State Fault Refusal :=
  .next (if channel < 4 then s.emit (.cellar channel 3) else s)

/-- SELF_REFRESH (R409): a write of CEL_CTRL; self-refresh is entered only while the engine is stopped. -/
def execSelfRefresh (value : Word) (s : State) : Host.Outcome State Fault Refusal :=
  .next (if bitAt value.toNat 0 && s.running then s
    else ({ s with memx := { s.memx with selfRefresh := bitAt value.toNat 0 } }).wr F.CEL_CTRL_self_refresh (bitsOf value.toNat 0 1))

/-! ### The Gleaner (R410–R415) -/

/-- Inputs recorded, n. -/
def State.glnInputs (s : State) : Nat := s.lv F.GLN_CFG_inputs

/-- frame_bytes of R410. -/
def frameBytes (n l : Nat) : Nat := (64 + 8 * n + 4 * l * n + 63) / 64 * 64

/-- Fabric address of frame `k`. -/
def State.frameAddr (s : State) (k : Nat) : Nat :=
  0x100000000 + s.lv F.GLN_RING_BASE_value * 64 + k % max 1 (s.rd F.GLN_FRAMES_n_frames) * s.rd F.GLN_FRAME_bytes

/-- Show w, the cursor and the read position. -/
def State.showGln (s : State) : State :=
  let g := s.memx.gln
  let c := g.cursor.getD 0
  ((((s.wr F.GLN_WRITE_LO_frame (g.w % 2 ^ 32)).wr F.GLN_CURSOR_LO_value (c % 2 ^ 32)).wr F.GLN_CURSOR_OFS_value
    (c % max 1 (s.rd F.GLN_FRAMES_n_frames) * s.rd F.GLN_FRAME_bytes)).wr F.GLN_READ_ESI_esi (g.readPos % 2 ^ 32))

/-- A reset of the ring (R412): it is empty, the mark is cleared and k restarts at 0. -/
def State.glnReset (s : State) : State :=
  let fb := frameBytes s.glnInputs s.blockLen
  let s1 := (s.wr F.GLN_FRAME_bytes fb).wr F.GLN_FRAMES_n_frames (s.lv F.GLN_RING_SIZE_value * 64 / fb)
  let s2 := { s1 with memx := { s1.memx with gln := ⟨0, [], [], none, none, 0, none⟩ } }
  ((((s2.wr F.GLN_MARK_STATE_ready 0).wr F.GLN_MARK_STATE_pending 0).wr F.GLN_MARK_STATE_lost 0).wr F.GLN_MARK_STATE_gap 0).showGln

/-- The 64 bytes of a frame header. -/
def frameHeader (esi k n flags l : Nat) : List Byte :=
  leBytes 8 esi ++ leBytes 8 k ++ leBytes 2 n ++ leBytes 2 flags ++ leBytes 4 l ++ leBytes 40 0

/-- Frame w is written to the ring as far as it goes before its final header: an invalid header, then tags and samples (R411). -/
def State.glnWrite (s : State) : State := match s.memx.gln.staged with
  | [] => s
  | f :: _ =>
    let a := s.frameAddr f.1
    (s.setBytes a (frameHeader (2 ^ 64 - 1) f.1 s.glnInputs 0 s.blockLen)).setBytes (a + 64) f.2.2.2

/-- Stage the presentation of block `n` to the Gleaner inputs; a block that finds eight frames staged is dropped. Frames are
written to the ring one after the other (R411, R30). -/
def State.gleanerStage (s : State) (n : Nat) : State :=
  if !s.lon F.GLN_CFG_enable ∨ s.rd F.GLN_FRAMES_n_frames = 0 then s
  else
    let g := s.memx.gln
    let k := g.w + g.staged.length
    let cnt := s.glnInputs
    let full := decide (8 ≤ g.staged.length)
    let ins := (List.range cnt).map fun r =>
      (assoc? s.eng.staged (gleanerBase s.mult + r)).getD (0, List.replicate s.blockLen 0)
    let tags := ins.foldr (fun e acc => leBytes 8 (if full then setBitsOf e.1 5 3 1 else e.1) ++ acc) []
    let smps := if full then [] else ins.foldr (fun e acc => e.2.foldr (fun w b => leBytes 4 w.toNat ++ b) acc) []
    let s1 : State := { s with memx := { s.memx with gln := { g with staged := g.staged ++ [(k, n * s.blockLen, full, tags ++ smps)] } } }
    let s2 := if g.staged = [] then s1.glnWrite else s1
    if full then (s2.bump F.GLN_DROPPED_frames).raise 0x02B 2 else s2

/-- The mark is overtaken when the cursor frame is w - N or older (R414). -/
def State.overtake (s : State) : State :=
  let g := s.memx.gln
  let n := s.rd F.GLN_FRAMES_n_frames
  match g.cursor with
  | none => s
  | some c =>
    if c + n ≤ g.w then
      let c' := g.w + 1 - n
      let e := (assoc? g.esis c').getD g.readPos
      let s1 := { s with memx := { s.memx with gln := { g with cursor := some c', readPos := e } } }
      let s2 := ((s1.wr F.GLN_LOST_samples (min (s.rd F.GLN_LOST_samples + (e - g.readPos)) (2 ^ 32 - 1))).wr F.GLN_MARK_STATE_lost 1).raise 0x02B 1
      (s2.rollHw 0x02B 1 (e - g.readPos)).showGln
    else s

/-- Find the frame of the mark (R413). -/
def State.findMark (s : State) : State :=
  let g := s.memx.gln
  match g.mark with
  | none => s
  | some m =>
    let l := s.blockLen
    let ready (t : State) : State := ((t.wr F.GLN_MARK_STATE_ready 1).wr F.GLN_MARK_STATE_pending 0).raise 0x02B 0
    let place (c e : Nat) : State := { s with memx := { s.memx with gln := { g with cursor := some c, readPos := e, mark := none } } }
    let n := s.rd F.GLN_FRAMES_n_frames
    let held := g.esis.filter fun e => decide (g.w + 1 ≤ e.1 + n)
    match held.find? (fun e => decide (e.2 ≤ m) && decide (m < e.2 + l)) with
    | some e => (ready (place e.1 m)).showGln
    | none =>
      match held.find? (fun e => decide (m < e.2)) with
      | some e =>
        if (held.head?.map (·.1)) = some e.1 ∧ g.w ≥ n then
          let t := ((ready (place e.1 e.2)).wr F.GLN_MARK_STATE_lost 1).raise 0x02B 1
          ((t.wr F.GLN_LOST_samples (min (s.rd F.GLN_LOST_samples + (e.2 - m)) (2 ^ 32 - 1))).rollHw 0x02B 1 (e.2 - m)).showGln
        else (ready ((place e.1 m).wr F.GLN_MARK_STATE_gap 1)).showGln
      | none => s.wr F.GLN_MARK_STATE_pending 1

/-- GLEANER_FRAME_COMPLETE (R411, R414): the oldest staged frame's final header is written; w moves on, and a cursor it
meets is overtaken; a pending mark may be found. -/
def execGleanerFrameComplete (s : State) : Host.Outcome State Fault Refusal :=
  .next (match s.memx.gln.staged with
    | [] => s
    | f :: rest =>
      let g := s.memx.gln
      let l := s.blockLen
      let gap := g.last != some f.2.1
      let s1 := s.setBytes (s.frameAddr f.1) (frameHeader f.2.1 f.1 s.glnInputs (1 + 2 * b2n f.2.2.1 + 4 * b2n gap) l)
      let n := s.rd F.GLN_FRAMES_n_frames
      let es := (if g.esis.length ≥ n then g.esis.drop 1 else g.esis) ++ [(f.1, f.2.1)]
      let s2 := { s1 with memx := { s1.memx with gln := { g with w := g.w + 1, staged := rest, esis := es, last := some (f.2.1 + l) } } }
      let s3 := s2.glnWrite.showGln.overtake
      if s3.on F.GLN_MARK_STATE_pending then s3.findMark else s3)

/-- GLN_MARK_AT_WRITE (R413): a new mark replaces the old one and clears lost, gap and GLN_LOST. -/
def execGlnMarkAtWrite (value : Word) (s : State) : Host.Outcome State Fault Refusal :=
  let s1 := { s with memx := { s.memx with gln := { s.memx.gln with mark := some (expandEsi s.now value.toNat), cursor := none } } }
  .next ((((((s1.wr F.GLN_MARK_AT_esi value.toNat).wr F.GLN_MARK_STATE_ready 0).wr F.GLN_MARK_STATE_pending 0).wr
    F.GLN_MARK_STATE_lost 0).wr F.GLN_MARK_STATE_gap 0).wr F.GLN_LOST_samples 0)

/-- MARK_READY (R413): within 1 ms the Reeve finds the mark's frame. -/
def execMarkReady (s : State) : Host.Outcome State Fault Refusal := .next s.findMark

/-- GLN_ADV (R415): the cursor and the read position move on by the frames consumed, at most to w. -/
def execGlnAdv (value : Word) (s : State) : Host.Outcome State Fault Refusal :=
  let g := s.memx.gln
  .next (match g.cursor with
    | none => s
    | some c =>
      let k := min (bitsOf value.toNat 0 20) (g.w - c)
      ({ s with memx := { s.memx with gln := { g with cursor := some (c + k), readPos := g.readPos + k * s.blockLen } } }).showGln)

/-- A 64-bit value read low half first: the low word answers and the high word is latched (GLN_WRITE, GLN_CURSOR). -/
def State.latchRead (s : State) (ini : Initiator) (kind v : Nat) (lo hi : Fld) : State :=
  let s1 := { s with host := { s.host with latches := assocPut s.host.latches (kind * 8 + ini.port) (BitVec.ofNat 64 (v / 2 ^ 32)) } }
  ((s1.wr lo (v % 2 ^ 32)).wr hi (v / 2 ^ 32 % 2 ^ 32)).respond ini (v % 2 ^ 32)

/-- GLN_WRITE_LO_READ (R419): the low word of w, latching the high word. -/
def execGlnWriteLoRead (ini : Initiator) (s : State) : Host.Outcome State Fault Refusal :=
  .next (if s.portShut ini then s else s.latchRead ini 0 s.memx.gln.w F.GLN_WRITE_LO_frame F.GLN_WRITE_HI_frame)

/-- GLN_CURSOR_LO_READ (R419): the low word of the cursor, latching the high word. -/
def execGlnCursorLoRead (ini : Initiator) (s : State) : Host.Outcome State Fault Refusal :=
  .next (if s.portShut ini then s else s.latchRead ini 1 (s.memx.gln.cursor.getD 0) F.GLN_CURSOR_LO_value F.GLN_CURSOR_HI_value)

end Sys2Proof.Machine
end

