-- ==== Sys2Proof/Machine/Mill.lean ====
section
/-! DEFINITION. The Mill datapath (chapter 6): registers, memory as a program sees it, result latencies, the operations of
the vector, load/store and scalar slots, and the decoding of a bundle. -/
namespace Sys2Proof.Machine

/-! ### Mill state -/

/-- A Mill with every register at its block-start value (R170) and no program. -/
def Mill.fresh : Mill :=
  { v := [], a := [], p := [], m := [], n := [], sc := [], bx := 31, msw := 0, pc := 0, loops := [], k := 0, writes := [],
    bxMin := none, bxClr := false, flags := 0, next := .seq, xfers := [], wait := .none, busy := false, block := 0,
    scene := 0, route := 0, swapOfs := 0xFFFFFFFF, sinceSwap := 0xFFFFFFFF, handed := true, overrun := false, skipped := [], debugged := [], missed := [], clean := 64,
    ramp := 0, bpSeen := 0, stepNext := false, stepping := false, reloaded := false, aborted := false }

/-- Mill `n`. -/
def State.mill (s : State) (n : Nat) : Mill := (assoc? s.mil.mills n).getD Mill.fresh

/-- Replace Mill `n`. -/
def State.setMill (s : State) (n : Nat) (m : Mill) : State :=
  { s with mil := { s.mil with mills := assocPut s.mil.mills n m } }

/-- The operations of a Mill issue: its program runs, no wait holds it, and it is not halted, frozen or hung (R182, R226,
R227). -/
def State.millIssues (s : State) (n : Nat) : Bool :=
  n < 16 && (s.mill n).busy && (s.mill n).wait == .none &&
  (s.rd F.MIL_STATE_state n == 1 || s.rd F.MIL_STATE_state n == 3)

/-- Sparse lanes read 0. -/
def laneGet (l : List (Nat × Nat)) (k : Nat) : Nat := sparseGet (fun _ => 0) l k
def laneSet (l : List (Nat × Nat)) (k v : Nat) : List (Nat × Nat) := sparseSet (fun _ => 0) l k v

/-- The visible value of a register. -/
def Mill.get (m : Mill) : MReg → Nat
  | .v i l => laneGet m.v (8 * i + l)
  | .a i l => laneGet m.a (8 * i + l)
  | .p i => laneGet m.p i
  | .m i => laneGet m.m i
  | .n i => laneGet m.n i
  | .s i => laneGet m.sc i

/-- Make a value visible. -/
def Mill.put (m : Mill) (r : MReg) (x : Nat) : Mill :=
  match r with
  | .v i l => { m with v := laneSet m.v (8 * i + l) (x % 2 ^ 32) }
  | .a i l => { m with a := laneSet m.a (8 * i + l) (x % 2 ^ 80) }
  | .p i => { m with p := laneSet m.p i (x % 2 ^ 32) }
  | .m i => { m with m := laneSet m.m i (x % 2 ^ 32) }
  | .n i => { m with n := laneSet m.n i (x % 2 ^ 32) }
  | .s i => { m with sc := laneSet m.sc i (x % 2 ^ 32) }

/-- A V lane as signed 32 bits, an A lane as signed 80 bits. -/
def Mill.vl (m : Mill) (i l : Nat) : Nat := m.get (.v i l)
def Mill.vi (m : Mill) (i l : Nat) : Int := signed 32 (m.vl i l)
def Mill.ai (m : Mill) (i l : Nat) : Int := signed 80 (m.get (.a i l))

/-- Set MSW flags; they are visible from the next bundle (log entry 21). -/
def Mill.flag (m : Mill) (bit : Nat) (c : Bool) : Mill := if c then { m with flags := m.flags ||| 2 ^ bit } else m

/-- Issue a write that becomes visible λ bundles later (R178). -/
def Mill.push (m : Mill) (lam rank : Nat) (mac : Bool) (dst : MReg) (x : Nat) : Mill :=
  { m with writes := m.writes ++ [⟨m.k + lam, rank, m.k, mac, dst, x⟩] }

/-- An accumulator lane through the forwarding path of R179: the newest MAC-group write issued in an earlier bundle, else
the visible value. -/
def Mill.fwd (m : Mill) (i l : Nat) : Int :=
  let c := m.writes.filter fun w => w.mac && w.dst == .a i l && w.issued < m.k
  match c.foldl (fun (b : Option MWrite) w => match b with
      | none => some w
      | some x => if x.issued < w.issued ∨ (x.issued = w.issued ∧ x.rank ≤ w.rank) then some w else some x) none with
  | some w => signed 80 w.val
  | none => m.ai i l

/-! ### The vector slots (R183–R188) -/

/-- The rank of a vector slot (R180). -/
def vecRank (op : VecOp) : Nat := if op.mac1 then 2 else 1

/-- Operand b of lane `l`: vb, or its broadcast (R184). -/
def Mill.opb (m : Mill) (op : VecOp) (l : Nat) : Nat := if op.bc then m.vl op.vb.toNat (op.imm.toNat % 8) else m.vl op.vb.toNat l

/-- value(x, u) of R183. -/
def opValue (u : Bool) (x : Nat) : Int := if u then (x : Int) else signed 32 x

/-- prod of lane `l`. -/
def Mill.prod (m : Mill) (op : VecOp) (l : Nat) : Int :=
  opValue op.ua (m.vl op.va.toNat l) * opValue op.ub (m.opb op l)

/-- A MAC-group result: wrap80 of `f` in every lane, visible after three bundles (R178, R183). -/
def Mill.macAll (m : Mill) (op : VecOp) (f : Nat → Int) : Mill :=
  (List.range 8).foldl (fun (t : Mill) l => t.push 3 (vecRank op) true (.a op.acc.toNat l) (unsigned 80 (f l))) m

/-- Keep the fewest redundant sign bits written with bx = 1 in the bundle (R187). -/
def Mill.noteBx (m : Mill) (op : VecOp) (xs : List Nat) : Mill :=
  if op.bx then
    let r := xs.foldl (fun (a : Nat) x => min a (rsbOf 32 (signed 32 x))) 31
    { m with bxMin := some (match m.bxMin with | some b => min b r | none => r) }
  else m

/-- Write words to a vector register after λ bundles. -/
def Mill.putVec (m : Mill) (op : VecOp) (lam reg : Nat) (xs : List Nat) : Mill :=
  (xs.zipIdx.foldl (fun (t : Mill) (x : Nat × Nat) => t.push lam (vecRank op) false (.v reg x.2) (x.1 % 2 ^ 32)) m).noteBx op xs

/-- A saturating vector result: SAT when a lane differs from its exact value (R183). -/
def Mill.satVec (m : Mill) (op : VecOp) (lam : Nat) (f : Nat → Int) : Mill :=
  let xs := (List.range 8).map f
  (m.flag 0 (xs.any fun x => satTo 32 x != x)).putVec op lam op.vd.toNat (xs.map fun x => unsigned 32 (satTo 32 x))

/-- A vector result that does not saturate. -/
def Mill.rawVec (m : Mill) (op : VecOp) (lam : Nat) (f : Nat → Nat) : Mill :=
  m.putVec op lam op.vd.toNat ((List.range 8).map f)

/-- The shift count k of VSHL, VASR and VLSR (R184, R185). -/
def Mill.shiftK (m : Mill) (op : VecOp) (l : Nat) : Nat :=
  if bitAt op.imm.toNat 5 then (max 0 (min 31 (signed 32 (m.opb op l)))).toNat else op.imm.toNat % 32

/-- An arithmetic right shift of an integer. -/
def asr (x : Int) (k : Nat) : Int := x / 2 ^ k

def Mill.vmul (op : VecOp) (m : Mill) : Mill := m.macAll op (m.prod op)
def Mill.vmac (op : VecOp) (m : Mill) : Mill := m.macAll op fun l => m.fwd op.acc.toNat l + m.prod op l
def Mill.vmsu (op : VecOp) (m : Mill) : Mill := m.macAll op fun l => m.fwd op.acc.toNat l - m.prod op l
def Mill.vmova (op : VecOp) (m : Mill) : Mill :=
  m.macAll op fun l => opValue op.ua (m.vl op.va.toNat l) * 2 ^ (op.imm.toNat % 64)
def Mill.vadda (op : VecOp) (m : Mill) : Mill :=
  m.macAll op fun l => m.fwd op.acc.toNat l + opValue op.ua (m.vl op.va.toNat l) * 2 ^ (op.imm.toNat % 64)
def Mill.vacc (op : VecOp) (m : Mill) : Mill := m.macAll op fun l => m.fwd op.acc.toNat l + m.fwd (op.va.toNat % 8) l
def Mill.vclra (op : VecOp) (m : Mill) : Mill := m.macAll op fun _ => 0
def Mill.vreda (op : VecOp) (m : Mill) : Mill :=
  m.macAll op fun _ => (List.range 8).foldl (fun (a : Int) l => a + m.ai op.acc.toNat l) 0
def Mill.vrnd (op : VecOp) (m : Mill) : Mill := m.satVec op 2 fun l => rndShift (m.ai op.acc.toNat l) (op.imm.toNat % 64)
def Mill.vrndv (op : VecOp) (m : Mill) : Mill :=
  m.satVec op 2 fun l => rndShift (m.ai op.acc.toNat l) (max 0 (min 63 (signed 32 (m.opb op l)))).toNat
def Mill.vaccw (op : VecOp) (m : Mill) : Mill :=
  m.rawVec op 2 fun l => unsigned 32 (asr (m.ai op.acc.toNat l) (op.imm.toNat % 128))
def Mill.vrsba (op : VecOp) (m : Mill) : Mill := m.rawVec op 2 fun l => rsbOf 80 (m.ai op.acc.toNat l)
def Mill.vadd (op : VecOp) (m : Mill) : Mill := m.satVec op 1 fun l => m.vi op.va.toNat l + signed 32 (m.opb op l)
def Mill.vsub (op : VecOp) (m : Mill) : Mill := m.satVec op 1 fun l => m.vi op.va.toNat l - signed 32 (m.opb op l)
def Mill.vaddw (op : VecOp) (m : Mill) : Mill := m.rawVec op 1 fun l => (m.vl op.va.toNat l + m.opb op l) % 2 ^ 32
def Mill.vsubw (op : VecOp) (m : Mill) : Mill := m.rawVec op 1 fun l => (m.vl op.va.toNat l + 2 ^ 32 - m.opb op l) % 2 ^ 32
def Mill.vneg (op : VecOp) (m : Mill) : Mill := m.satVec op 1 fun l => -m.vi op.va.toNat l
def Mill.vabs (op : VecOp) (m : Mill) : Mill := m.satVec op 1 fun l => ((m.vi op.va.toNat l).natAbs : Int)
def Mill.vmin (op : VecOp) (m : Mill) : Mill :=
  m.rawVec op 1 fun l => unsigned 32 (min (m.vi op.va.toNat l) (signed 32 (m.opb op l)))
def Mill.vmax (op : VecOp) (m : Mill) : Mill :=
  m.rawVec op 1 fun l => unsigned 32 (max (m.vi op.va.toNat l) (signed 32 (m.opb op l)))
def Mill.vand (op : VecOp) (m : Mill) : Mill := m.rawVec op 1 fun l => m.vl op.va.toNat l &&& m.opb op l
def Mill.vor (op : VecOp) (m : Mill) : Mill := m.rawVec op 1 fun l => m.vl op.va.toNat l ||| m.opb op l
def Mill.vxor (op : VecOp) (m : Mill) : Mill := m.rawVec op 1 fun l => m.vl op.va.toNat l ^^^ m.opb op l
def Mill.vshl (op : VecOp) (m : Mill) : Mill := m.satVec op 1 fun l => m.vi op.va.toNat l * 2 ^ m.shiftK op l
def Mill.vasr (op : VecOp) (m : Mill) : Mill := m.rawVec op 1 fun l => unsigned 32 (asr (m.vi op.va.toNat l) (m.shiftK op l))
def Mill.vlsr (op : VecOp) (m : Mill) : Mill := m.rawVec op 1 fun l => m.vl op.va.toNat l / 2 ^ m.shiftK op l
def Mill.vcmplt (op : VecOp) (m : Mill) : Mill :=
  m.rawVec op 1 fun l => if m.vi op.va.toNat l < signed 32 (m.opb op l) then 0xFFFFFFFF else 0
def Mill.vcmpeq (op : VecOp) (m : Mill) : Mill :=
  m.rawVec op 1 fun l => if m.vl op.va.toNat l = m.opb op l then 0xFFFFFFFF else 0
def Mill.vsel (op : VecOp) (m : Mill) : Mill :=
  m.rawVec op 1 fun l => if bitAt (m.vl op.vd.toNat l) 31 then m.vl op.va.toNat l else m.opb op l
def Mill.vrsb (op : VecOp) (m : Mill) : Mill := m.rawVec op 1 fun l => rsbOf 32 (m.vi op.va.toNat l)
def Mill.vrot (op : VecOp) (m : Mill) : Mill := m.rawVec op 1 fun l => m.vl op.va.toNat ((l + op.imm.toNat % 8) % 8)
def Mill.vbc (op : VecOp) (m : Mill) : Mill := m.rawVec op 1 fun _ => m.vl op.va.toNat (op.imm.toNat % 8)
def Mill.vaddi (op : VecOp) (m : Mill) : Mill := m.satVec op 1 fun l => m.vi op.va.toNat l + op.imm.toInt
def Mill.vrsubi (op : VecOp) (m : Mill) : Mill := m.satVec op 1 fun l => op.imm.toInt - m.vi op.va.toNat l

/-- The gain pair of a level word by R186: off gives (0, 0). -/
def vexpPair (x : Nat) : Nat × Int := if x % 65536 = 0x8000 then (0, 0) else gainPair (signed 16 x)

/-- VEXP with an odd vd, which R184 rules out: both registers take free values (log entry 22). -/
def Mill.vexp (f0 f1 : Nat) (op : VecOp) (m : Mill) : Mill :=
  let d := op.vd.toNat
  if d % 2 = 1 then
    let w (f l : Nat) : Nat := bitsOf f (32 * l) 32
    (m.putVec op 4 d ((List.range 8).map (w f0))).putVec op 4 ((d + 1) % 32) ((List.range 8).map (w f1))
  else
    let ps := (List.range 8).map fun l => vexpPair (m.vl op.va.toNat l)
    (m.putVec op 4 d (ps.map fun p => p.1 % 2 ^ 32)).putVec op 4 (d + 1) (ps.map fun p => unsigned 32 p.2)

def Mill.vlg2 (op : VecOp) (m : Mill) : Mill :=
  m.rawVec op 4 fun l =>
    let z := m.get (.a op.acc.toNat l) % 2 ^ 64
    if z = 0 then 0x80000000 else unsigned 32 (lg2 z (op.imm.toNat % 64))
def Mill.vsqrt (op : VecOp) (m : Mill) : Mill :=
  let r (l : Nat) : Nat := isqrt (m.get (.a op.acc.toNat l) % 2 ^ 64)
  (m.flag 0 ((List.range 8).any fun l => decide (2 ^ 31 ≤ r l))).rawVec op 4 fun l => min (r l) (2 ^ 31 - 1)

/-- The exact quotient of a lane of VDIV: floor, or truncated with imm[0] = 1 (R186). -/
def vdivExact (tr : Bool) (d q : Int) : Int := if tr then Int.tdiv d q else Int.fdiv d q

def Mill.vdiv (op : VecOp) (m : Mill) : Mill :=
  let d (l : Nat) : Int := m.ai op.acc.toNat l
  let q (l : Nat) : Int := signed 32 (m.opb op l)
  let exact (l : Nat) : Int :=
    if q l = 0 then (if d l > 0 then 2 ^ 31 - 1 else if d l < 0 then -(2 ^ 31) else 0)
    else vdivExact (bitAt op.imm.toNat 0) (d l) (q l)
  (m.flag 1 ((List.range 8).any fun l => q l == 0)).satVec op 12 exact

/-- The operation of a vector opcode (R185); none where the opcode is not listed. -/
def vecOpcode (op : Nat) : Option (Nat → Nat → VecOp → Mill → Mill) :=
  match op with
  | 0x00 => some fun _ _ _ m => m
  | 0x01 => some fun _ _ => Mill.vmul
  | 0x02 => some fun _ _ => Mill.vmac
  | 0x03 => some fun _ _ => Mill.vmsu
  | 0x04 => some fun _ _ => Mill.vmova
  | 0x05 => some fun _ _ => Mill.vadda
  | 0x06 => some fun _ _ => Mill.vacc
  | 0x07 => some fun _ _ => Mill.vclra
  | 0x08 => some fun _ _ => Mill.vreda
  | 0x10 => some fun _ _ => Mill.vrnd
  | 0x11 => some fun _ _ => Mill.vrndv
  | 0x12 => some fun _ _ => Mill.vaccw
  | 0x13 => some fun _ _ => Mill.vrsba
  | 0x20 => some fun _ _ => Mill.vadd
  | 0x21 => some fun _ _ => Mill.vsub
  | 0x22 => some fun _ _ => Mill.vaddw
  | 0x23 => some fun _ _ => Mill.vsubw
  | 0x24 => some fun _ _ => Mill.vneg
  | 0x25 => some fun _ _ => Mill.vabs
  | 0x26 => some fun _ _ => Mill.vmin
  | 0x27 => some fun _ _ => Mill.vmax
  | 0x28 => some fun _ _ => Mill.vand
  | 0x29 => some fun _ _ => Mill.vor
  | 0x2A => some fun _ _ => Mill.vxor
  | 0x2B => some fun _ _ => Mill.vshl
  | 0x2C => some fun _ _ => Mill.vasr
  | 0x2D => some fun _ _ => Mill.vlsr
  | 0x2E => some fun _ _ => Mill.vcmplt
  | 0x2F => some fun _ _ => Mill.vcmpeq
  | 0x30 => some fun _ _ => Mill.vsel
  | 0x31 => some fun _ _ => Mill.vrsb
  | 0x32 => some fun _ _ => Mill.vrot
  | 0x33 => some fun _ _ => Mill.vbc
  | 0x34 => some fun _ _ => Mill.vaddi
  | 0x35 => some fun _ _ => Mill.vrsubi
  | 0x38 => some Mill.vexp
  | 0x39 => some fun _ _ => Mill.vlg2
  | 0x3A => some fun _ _ => Mill.vsqrt
  | 0x3B => some fun _ _ => Mill.vdiv
  | _ => none

/-- Issue a vector operation on Mill `n`. -/
def State.vecRun (s : State) (n : Nat) (f : Mill → Mill) : State := s.setMill n (f (s.mill n))

/-- A vector operation commanded by its row. -/
def State.vecCmd (s : State) (op : VecOp) (f : VecOp → Mill → Mill) : Host.Outcome State Fault Refusal :=
  .next (if s.millIssues op.mill then s.vecRun op.mill (f op) else s)

/-! ### Memory as a program sees it (R171–R175, R197) -/

/-- What an address of the program's byte space names. -/
inductive MTarget where
  | bytes (a : Nat)
  | scene (old : Bool) (x : Nat)
  | dest (d off : Nat)
  | source (src off : Nat)
  deriving DecidableEq, Repr

/-- The target of `len` bytes at `x`, with the latency of a load from it (R171, R178); none is an address error. -/
def millTarget (n x len : Nat) : Option (MTarget × Nat) :=
  if x + len ≤ 0x100000 then some (.bytes (0x08000000 + n * 0x100000 + x), 3)
  else if 0x01000000 ≤ x ∧ x + len ≤ 0x03000000 then some (.bytes x, 8)
  else if 0x03000000 ≤ x ∧ x + len ≤ 0x03800000 then some (.scene false (x - 0x03000000), 8)
  else if 0x03800000 ≤ x ∧ x + len ≤ 0x04000000 then some (.scene true (x - 0x03800000), 8)
  else if 0x04000000 ≤ x ∧ x + len ≤ 0x04800000 then some (.dest ((x - 0x04000000) / 512) (x % 512), 12)
  else if 0x05000000 ≤ x ∧ x + len ≤ 0x05800000 then some (.source ((x - 0x05000000) / 512) (x % 512), 12)
  else none

/-- The bank that is Live for the block in Work (R172): until the swap block is worked, the outgoing one. -/
def State.workBank (s : State) : Nat :=
  match s.scn.desc with
  | some d => if d.switched then s.liveBank else 1 - s.liveBank
  | none => s.liveBank

/-- Little-endian bytes of a frame at an offset: samples, then the tag at 256 (R173). -/
def frameBytesAt (smp : List Word) (tag off len : Nat) : Nat :=
  ofLe ((List.range len).map fun i =>
    let o := off + i
    if o < 4 * smp.length then BitVec.ofNat 8 ((at0 0 smp (o / 4)).toNat / 2 ^ (8 * (o % 4)))
    else if 256 ≤ o ∧ o < 264 then BitVec.ofNat 8 (tag / 2 ^ (8 * (o - 256)))
    else 0)

/-- Writes of Mill `n` that wait for the hold buffer, oldest first: later loads of the Mill read them (R181, R389). -/
def State.millQueued (s : State) (n : Nat) : List HoldWait := s.memx.holdWait.filter fun w => w.chan == 100 + n

/-- A byte of memory as Mill `n` reads it: of its newest waiting write, else of memory. -/
def State.millByte (s : State) (n a : Nat) : Byte :=
  match (s.millQueued n).reverse.find? fun w => decide (w.addr ≤ a) && decide (a < w.addr + w.data.length) with
  | some w => at0 0 w.data (a - w.addr)
  | none => s.byte a

/-- A byte of a bank as the windows read it: the held value of a word written in this block period, else memory (R389). -/
def State.heldByte (s : State) (a : Nat) : Byte :=
  match assoc? s.memx.hold (a / 8) with
  | some w => BitVec.ofNat 8 (w.toNat / 2 ^ (8 * (a % 8)))
  | none => s.byte a

/-- Read `len` bytes of a target of Mill `n` for the block `b` in Work; the flag says an uncorrectable word read as zeros
(R199). -/
def State.millRead (s : State) (n b : Nat) (t : MTarget) (len : Nat) : Nat × Bool :=
  match t with
  | .bytes a =>
    if (wordsOf a len).any s.poisoned then (0, true) else (ofLe ((List.range len).map fun i => s.millByte n (a + i)), false)
  | .scene old x =>
    let a := bankBase (if old then 1 - s.workBank else s.workBank) + x
    if (wordsOf a len).any s.poisoned then (0, true)
    else if old then (ofLe ((List.range len).map fun i => s.heldByte (a + i)), false)
    else (ofLe ((List.range len).map fun i => BitVec.ofNat 8 (s.force ((x + i) / 4 * 4) / 2 ^ (8 * ((x + i) % 4)))), false)
  | .dest d off =>
    if workDest s.mult d then let p := (s.present d b).1; (frameBytesAt p.1 p.2 off len, false) else (0, false)
  | .source src off =>
    (ofLe ((List.range len).map fun i => BitVec.ofNat 8 (sparseGet (fun _ => 0) s.mil.frames (512 * src + off + i))), false)

/-- A Mill's read of Granary words corrects single-bit errors, and reports an uncorrectable one (R390). -/
def State.millEcc (s : State) (t : MTarget) (len : Nat) : State :=
  let seen (a : Nat) : State :=
    if !inGranary a then s
    else if (wordsOf a len).any s.poisoned then (s.eccSoft a len).eccEngine a else s.eccSoft a len
  match t with
  | .bytes a => seen a
  | .scene old x => seen (bankBase (if old then 1 - s.workBank else s.workBank) + x)
  | .dest _ _ | .source _ _ => s

/-- The owner-table entry of source `src` (R204). -/
def State.ownerEntry (s : State) (src : Nat) : Nat := s.load (s.rd F.MIL_OWN_BASE_base + 2 * src) 2

/-- The schedule gives source `src` to Mill `n` (R204). -/
def State.owns (s : State) (n src : Nat) : Bool :=
  bitAt (s.ownerEntry src) 7 && bitsOf (s.ownerEntry src) 0 4 == n

/-- Mill `n` takes the next block-start event: no program of an earlier block runs, and it is not halted, frozen or hung, a
step and a finished reload apart (R221, R223, R226, R227). A Mill without a program takes none away (R203). -/
def State.millTakes (s : State) (n : Nat) : Bool :=
  let st := s.rd F.MIL_STATE_state n
  if st = 0 then true
  else if st = 5 then (s.mill n).reloaded
  else !(s.mill n).busy && (st != 2 || (s.mill n).stepNext)

/-- The Mill that serves source `src` takes the next block-start event, so what it serves advances (R221, R226). -/
def State.servedNow (s : State) (src : Nat) : Bool :=
  !bitAt (s.ownerEntry src) 7 || s.millTakes (bitsOf (s.ownerEntry src) 0 4)

/-- Replace bytes of a block of samples. -/
def patchBlock (smp : List Word) (off : Nat) (data : List Byte) : List Word :=
  data.zipIdx.foldl (fun (t : List Word) (b : Byte × Nat) =>
    let o := off + b.2
    setAt t (o / 4) (BitVec.ofNat 32 (setBitsOf (at0 0 t (o / 4)).toNat (8 * (o % 4)) 8 b.1.toNat))) smp

/-- Bytes that a program writes to a source frame in this Work stage (R173). -/
def State.frameWrite (s : State) (k : Nat) (data : List Byte) : State :=
  { s with mil := { s.mil with frames := data.zipIdx.foldl (fun (l : List (Nat × Nat)) (b : Byte × Nat) =>
      sparseSet (fun _ => 0) l (k + b.2) b.1.toNat) s.mil.frames } }

/-- A program's write to plain memory: a locked bank drops it, and one that finds the hold buffer full, or a write of the Mill
waiting there, waits behind it (R111, R389). -/
def State.millWrite (s : State) (n a : Nat) (data : List Byte) : State :=
  match bankOf a with
  | some b =>
    if s.bankLocked b then s.lockDrop
    else if s.millQueued n ≠ [] ∨ s.memx.hold.length + (s.newHolds a data.length).length > 16384 then
      s.queueHold ⟨.reeve, 100 + n, a, data⟩
    else (s.keepHolds (s.newHolds a data.length)).engineStore a data
  | none => s.engineStore a data

/-- A program's store of bytes to a target; none is an address error (R171–R173, R221). -/
def State.millStore (s : State) (n : Nat) (t : MTarget) (data : List Byte) : Option State :=
  let m := s.mill n
  match t with
  | .bytes a => some ((bankPieces a data).foldl (fun (t : State) p => t.millWrite n p.1 p.2) s)
  | .scene _ _ | .dest _ _ => none
  | .source src off =>
    if !s.owns n src then none
    else if m.overrun then some s
    else if off + data.length ≤ 4 * s.blockLen then
      let t := s.frameWrite (512 * src + off) data
      some { t with eng := { t.eng with blocks := assocPut t.eng.blocks (m.block % 3 * 16384 + src) (patchBlock (s.srcBlock m.block src) off data) } }
    else if 256 ≤ off ∧ off + data.length ≤ 264 then
      some ((s.frameWrite (512 * src + off) data).engineBytes (tagAddr (m.block % 3) src + (off - 256)) data)
    else none

/-- A byte of the Mill store lies in a transfer in flight (R197). -/
def Mill.guarded (m : Mill) (x len : Nat) : Bool :=
  m.xfers.any fun t => decide (x < t.local' + t.len) && decide (t.local' < x + len)

/-- An access of `len` bytes at `x` is aligned, mapped and not protected: its target and latency. -/
def State.millAccess (s : State) (n x len : Nat) : Option (MTarget × Nat) :=
  if x % min len 32 ≠ 0 ∨ (s.mill n).guarded x len then none else millTarget n x len

/-- Addresses of the eight elements of an access of form `stride` bytes from `x`, wrapping at 32 bits. -/
def laneAddr (x : Nat) (stride : Int) (l : Nat) : Nat := unsigned 32 ((x : Int) + l * stride)

/-- The latency of a load from the region of address `x`, mapped or not (R178). -/
def loadLatency (x : Nat) : Nat := if x < 0x01000000 then 3 else if x < 0x04000000 then 8 else 12

/-- A contiguous access of `whole` bytes at `x` that moves elements of `w` bytes is aligned, not protected, and every byte of it
is mapped, in one region or in neighbouring ones (R171, R175, R197). -/
def State.spanOk (s : State) (n x whole w : Nat) (addrs : List Nat) : Bool :=
  x % min whole 32 == 0 && !(s.mill n).guarded x whole && addrs.all fun a => (millTarget n a w).isSome

/-- Load elements (destination, address), of `w` bytes: each checked alone (`whole` none) or all with one contiguous access of
`whole` bytes at `x`; a failing access writes zeros and sets ADDR, an uncorrectable one zeros and ECC (R175, R190). -/
def State.loadElems (s : State) (n x : Nat) (whole : Option Nat) (w : Nat) (conv : Nat → Nat)
    (els : List (MReg × Nat)) : State :=
  let target (a : Nat) : Option (MTarget × Nat) := match whole with
    | none => s.millAccess n a w
    | some len => if s.spanOk n x len w (els.map (·.2)) then millTarget n a w else none
  let u := s.setMill n (els.foldl (fun (m : Mill) (e : MReg × Nat) =>
    match target e.2 with
    | none => (m.push (loadLatency e.2) 3 false e.1 0).flag 2 true
    | some t =>
      let r := s.millRead n m.block t.1 w
      (m.push t.2 3 false e.1 (if r.2 then 0 else conv r.1)).flag 4 r.2) (s.mill n))
  els.foldl (fun (t : State) (e : MReg × Nat) => match target e.2 with
    | none => t
    | some x => t.millEcc x.1 w) u

/-- Store elements (address, value) of `w` bytes, each checked alone; an offending one writes nothing and sets ADDR (R175,
R190). -/
def State.storeElems (s : State) (n w : Nat) (els : List (Nat × Nat)) : State :=
  els.foldl (fun (t : State) e =>
    ((t.millAccess n e.1 w).bind fun a => t.millStore n a.1 (leBytes w e.2)).getD (t.setMill n ((t.mill n).flag 2 true))) s

/-- Store contiguous bytes at `x` with one access; one that breaks a rule writes nothing and sets ADDR (R171, R173, R175). -/
def State.storeSpan (s : State) (n x : Nat) (data : List Byte) : State :=
  ((s.millAccess n x data.length).bind fun a => s.millStore n a.1 data).getD (s.setMill n ((s.mill n).flag 2 true))

/-! ### Address generators (R191, R192) -/

/-- Reverse the low `w` bits. -/
def revBits : Nat → Nat → Nat
  | 0, _ => 0
  | w + 1, x => x % 2 * 2 ^ w + revBits w (x / 2)

/-- log2 of the smallest power of two at or above `n`. -/
def clog2 (n : Nat) : Nat := if n ≤ 1 then 0 else (n - 1).log2 + 1

/-- The post-modify of R191 in mode 0 linear, 1 modulo, 2 bit-reverse. -/
def agUpdate (mode p m n : Nat) : Nat :=
  if mode = 0 ∨ n = 0 then unsigned 32 ((p : Int) + signed 32 m)
  else
    let w := clog2 n
    let k := 2 ^ w
    let b := p / k * k
    if mode = 1 then (b + (((p - b : Nat) + signed 32 m : Int) % (n : Int)).toNat) % 2 ^ 32
    else (b + revBits w ((revBits w (p - b) + revBits w (m % k)) % k)) % 2 ^ 32

/-- Both address generators, AG0's update first; visible in the next bundle (R192). -/
def Mill.agRun (op : LsOp) (ag0 : Bool) (m : Mill) : Mill :=
  let p0 := m.get (.p op.p.toNat)
  let r0 := agUpdate op.am.toNat p0 (m.get (.m op.m.toNat)) (m.get (.n op.p.toNat))
  let first := ag0 && op.pm
  let src2 := if first ∧ op.p2 = op.p then r0 else m.get (.p op.p2.toNat)
  let r1 := agUpdate op.am.toNat src2 (m.get (.m op.m2.toNat)) (m.get (.n op.p2.toNat))
  let m1 := if first ∧ !(op.en2 ∧ op.p2 = op.p) then m.push 1 3 false (.p op.p.toNat) r0 else m
  if op.en2 then m1.push 1 3 false (.p op.p2.toNat) r1 else m1

/-- A load/store operation: the access at Pp, then the address generators; addressing mode 0b11 is illegal (R188, R189). -/
def State.lsRun (s : State) (op : LsOp) (ag0 : Bool) (access : Nat → State → State) : State :=
  let n := op.mill
  if op.am = 3 then s.setMill n ((s.mill n).flag 3 true)
  else
    let s1 := access ((s.mill n).get (.p op.p.toNat)) s
    s1.setMill n ((s1.mill n).agRun op ag0)

/-- The lane stride M(12 + ss), signed. -/
def Mill.stride (m : Mill) (op : LsOp) : Int := signed 32 (m.get (.m (12 + op.ss.toNat)))

/-- Sign-extend a halfword into a word. -/
def sext16 (x : Nat) : Nat := unsigned 32 (signed 16 x)

def lsLdv (op : LsOp) (s : State) : State := s.lsRun op true fun x t =>
  t.loadElems op.mill x (some 32) 4 id ((List.range 8).map fun l => (.v op.reg.toNat l, x + 4 * l))
def lsStv (op : LsOp) (s : State) : State := s.lsRun op true fun x t =>
  t.storeSpan op.mill x ((List.range 8).flatMap fun l => leBytes 4 ((t.mill op.mill).vl op.reg.toNat l))
def lsLdx (op : LsOp) (s : State) : State := s.lsRun op true fun x t =>
  t.loadElems op.mill x none 4 id ((List.range 8).map fun l => (.v op.reg.toNat l, laneAddr x ((t.mill op.mill).stride op) l))
def lsStx (op : LsOp) (s : State) : State := s.lsRun op true fun x t =>
  t.storeElems op.mill 4 ((List.range 8).map fun l =>
    (laneAddr x ((t.mill op.mill).stride op) l, (t.mill op.mill).vl op.reg.toNat l))
def lsLdhx (op : LsOp) (s : State) : State := s.lsRun op true fun x t =>
  t.loadElems op.mill x none 2 sext16 ((List.range 8).map fun l => (.v op.reg.toNat l, laneAddr x ((t.mill op.mill).stride op) l))
def lsSthx (op : LsOp) (s : State) : State := s.lsRun op true fun x t =>
  t.storeElems op.mill 2 ((List.range 8).map fun l =>
    (laneAddr x ((t.mill op.mill).stride op) l, (t.mill op.mill).vl op.reg.toNat l % 65536))
def lsLdbc (op : LsOp) (s : State) : State := s.lsRun op true fun x t =>
  t.loadElems op.mill x (some 4) 4 id ((List.range 8).map fun l => (.v op.reg.toNat l, x))
def lsLds (op : LsOp) (s : State) : State := s.lsRun op true fun x t =>
  t.loadElems op.mill x (some 4) 4 id [(.s (op.reg.toNat % 16), x)]
def lsSts (op : LsOp) (s : State) : State := s.lsRun op true fun x t =>
  t.storeSpan op.mill x (leBytes 4 ((t.mill op.mill).get (.s (op.reg.toNat % 16))))
def lsLda (op : LsOp) (s : State) : State := s.lsRun op true fun x t =>
  t.loadElems op.mill x (some 128) 10 id ((List.range 8).map fun l => (.a (op.reg.toNat % 8) l, x + 16 * l))
def lsSta (op : LsOp) (s : State) : State := s.lsRun op true fun x t =>
  t.storeSpan op.mill x ((List.range 8).flatMap fun l => leBytes 16 (unsigned 128 ((t.mill op.mill).ai (op.reg.toNat % 8) l)))
def lsLdhv (op : LsOp) (s : State) : State := s.lsRun op true fun x t =>
  t.loadElems op.mill x none 2 sext16 ((List.range 8).map fun l => (.v op.reg.toNat l, laneAddr x 2 l))
def lsSthv (op : LsOp) (s : State) : State := s.lsRun op true fun x t =>
  t.storeElems op.mill 2 ((List.range 8).map fun l => (laneAddr x 2 l, (t.mill op.mill).vl op.reg.toNat l % 65536))
def lsPmod (op : LsOp) (s : State) : State := s.lsRun op true fun _ t => t
def lsNop (op : LsOp) (s : State) : State := s.lsRun op false fun _ t => t

/-- The operation of a load/store opcode (R190). -/
def lsOpcode (op : Nat) : Option (LsOp → State → State) :=
  match op with
  | 0x00 => some lsNop
  | 0x01 => some lsLdv
  | 0x02 => some lsStv
  | 0x03 => some lsLdx
  | 0x04 => some lsStx
  | 0x05 => some lsLdhx
  | 0x06 => some lsSthx
  | 0x07 => some lsLdbc
  | 0x08 => some lsLds
  | 0x09 => some lsSts
  | 0x0A => some lsLda
  | 0x0B => some lsSta
  | 0x0C => some lsLdhv
  | 0x0D => some lsSthv
  | 0x0E => some lsPmod
  | _ => none

/-- A load/store operation commanded by its row. -/
def State.lsCmd (s : State) (op : LsOp) (f : LsOp → State → State) : Host.Outcome State Fault Refusal :=
  .next (if s.millIssues op.mill then f op s else s)

/-! ### The end of a bundle (R178, R180, R187, R194) -/

/-- Two writes of one slot meet on a register in a bundle: R180 names no winner (log entry 23). -/
def twins (ws : List MWrite) (w : MWrite) : Bool := ws.any fun x => x.dst == w.dst && x.rank == w.rank && x.issued != w.issued

/-- Make the writes of bundle `k` visible, the higher-ranked slot last (R180); a meeting within one slot leaves a free
value. -/
def Mill.commit (free : Nat) (m : Mill) : Mill :=
  let due := m.writes.filter fun w => w.at' ≤ m.k
  let ordered := (List.range 4).foldl (fun (a : List MWrite) r => a ++ due.filter fun w => w.rank == r) []
  let m1 := { m with writes := m.writes.filter fun w => !(w.at' ≤ m.k) }
  ordered.zipIdx.foldl (fun (t : Mill) (w : MWrite × Nat) =>
    t.put w.1.dst (if twins due w.1 then (Config.freeValue (free + w.2)).toNat else w.1.val)) m1

/-- How many writes of the bundle leave free values. -/
def Mill.twinCount (m : Mill) : Nat :=
  let due := m.writes.filter fun w => w.at' ≤ m.k
  if due.any (twins due) then due.length else 0

/-- The program counter after a bundle in sequence: the ends of loop bodies return or close, innermost first (R194). -/
def loopNext (pc : Nat) : List MLoop → Nat × List MLoop
  | [] => (pc + 1, [])
  | l :: rest =>
    if l.last = pc then
      if l.remaining > 1 then (l.first, { l with remaining := l.remaining - 1 } :: rest) else loopNext pc rest
    else (pc + 1, l :: rest)

/-- The block program of Mill `n` ends: it idles, or halts for the debugger, a step or a dump; dump_halt sets once no
Mill has an EOB to come (R194, R226, R227, R522). -/
def State.millEnd (s : State) (n : Nat) : State :=
  let m := s.mill n
  let dump := s.on F.FLT_STATE_fatal
  let halt := s.on F.MIL_DEBUG_halt n || m.stepping || dump
  let s1 := s.setMill n { m with busy := false, wait := .none, stepping := false }
  let s2 := if halt then (s1.wr F.MIL_STATE_state 2 n).raise (0x040 + n) 3 else s1
  if dump ∧ (List.range 16).all (fun i => s2.rd F.MIL_STATE_state i == 2 || s2.rd F.MIL_STATE_state i == 0 || s2.rd F.MIL_STATE_state i == 5) then
    s2.wr F.FLT_STATE_dump_halt 1 else s2

/-- The bundle is complete: latencies advance by one, flags and BX settle, the program counter moves on. -/
def State.millAdvance (s : State) (n : Nat) : State :=
  let m0 := s.mill n
  let hit := decide (m0.pc = s.rd F.MIL_DEBUG_bp_pc n)
  let m1 := { m0 with k := m0.k + 1, msw := m0.msw ||| m0.flags, flags := 0,
                      bx := match m0.bxMin with | some b => min m0.bx b | none => if m0.bxClr then 31 else m0.bx,
                      bxMin := none, bxClr := false, next := .seq, bpSeen := m0.bpSeen + b2n hit }
  let c := m1.twinCount
  let m2 := m1.commit s.free
  let s1 := s.useFree c
  match m0.next with
  | .eob => (s1.setMill n m2).millEnd n
  | nx =>
    let r : Nat × List MLoop := match nx with
      | .loop f l c => (m0.pc + 1, ⟨f, l, c⟩ :: m0.loops)
      | _ => loopNext m0.pc m0.loops
    let m3 := { m2 with pc := r.1 % 8192, loops := r.2 }
    let s2 := (s1.setMill n m3).wr F.MIL_DBG_PC_pc (r.1 % 8192) n |>.wr F.MIL_DBG_PC_depth r.2.length n
    if 8192 ≤ r.1 then (s2.setMill n { m3 with msw := m3.msw ||| 8 }).millEnd n else s2

/-! ### The scalar and control slot (R193–R198) -/

/-- Sb named by imm[9:6]. -/
def scB (op : ScOp) : Nat := bitsOf op.imm.toNat 6 4

/-- A scalar result, visible after λ bundles. -/
def State.scPut (s : State) (n lam : Nat) (dst : MReg) (x : Nat) : State := s.setMill n ((s.mill n).push lam 0 false dst x)

/-- A scalar ALU operation: Sd takes `f` of the Mill's registers. -/
def scAlu (op : ScOp) (f : Mill → Nat) (s : State) : State := s.scPut op.mill 1 (.s op.d.toNat) (f (s.mill op.mill) % 2 ^ 32)

def Mill.sa (m : Mill) (op : ScOp) : Nat := m.get (.s op.a.toNat)
def Mill.sb (m : Mill) (op : ScOp) : Nat := m.get (.s (scB op))

def scAdd (op : ScOp) (s : State) : State := scAlu op (fun m => m.sa op + m.sb op) s
def scSub (op : ScOp) (s : State) : State := scAlu op (fun m => m.sa op + 2 ^ 32 - m.sb op) s
def scAddi (op : ScOp) (s : State) : State := scAlu op (fun m => unsigned 32 ((m.sa op : Int) + op.imm.toInt)) s
def scAnd (op : ScOp) (s : State) : State := scAlu op (fun m => m.sa op &&& m.sb op) s
def scOr (op : ScOp) (s : State) : State := scAlu op (fun m => m.sa op ||| m.sb op) s
def scXor (op : ScOp) (s : State) : State := scAlu op (fun m => m.sa op ^^^ m.sb op) s
def scShl (op : ScOp) (s : State) : State := scAlu op (fun m => m.sa op * 2 ^ (op.imm.toNat % 32)) s
def scAsr (op : ScOp) (s : State) : State := scAlu op (fun m => unsigned 32 (asr (signed 32 (m.sa op)) (op.imm.toNat % 32))) s
def scLsr (op : ScOp) (s : State) : State := scAlu op (fun m => m.sa op / 2 ^ (op.imm.toNat % 32)) s
def scLi (op : ScOp) (s : State) : State := scAlu op (fun _ => unsigned 32 op.imm.toInt) s
def scSli (op : ScOp) (s : State) : State :=
  scAlu op (fun m => (m.get (.s op.d.toNat) * 1024 % 2 ^ 32) ||| op.imm.toNat) s
def scMin (op : ScOp) (s : State) : State := scAlu op (fun m => unsigned 32 (min (signed 32 (m.sa op)) (signed 32 (m.sb op)))) s
def scMax (op : ScOp) (s : State) : State := scAlu op (fun m => unsigned 32 (max (signed 32 (m.sa op)) (signed 32 (m.sb op)))) s
def scMvp (op : ScOp) (s : State) : State := s.scPut op.mill 2 (.p op.d.toNat) ((s.mill op.mill).sa op)
def scMvm (op : ScOp) (s : State) : State := s.scPut op.mill 2 (.m op.d.toNat) ((s.mill op.mill).sa op)
def scMvn (op : ScOp) (s : State) : State := s.scPut op.mill 2 (.n op.d.toNat) ((s.mill op.mill).sa op)
def scRdp (op : ScOp) (s : State) : State := scAlu op (fun m => m.get (.p op.a.toNat)) s
def scRdm (op : ScOp) (s : State) : State := scAlu op (fun m => m.get (.m op.a.toNat)) s
def scRdn (op : ScOp) (s : State) : State := scAlu op (fun m => m.get (.n op.a.toNat)) s
def scVins (op : ScOp) (s : State) : State :=
  s.scPut op.mill 1 (.v (bitsOf op.imm.toNat 5 5) (op.imm.toNat % 8)) ((s.mill op.mill).sa op)
def scVext (op : ScOp) (s : State) : State := scAlu op (fun m => m.vl (bitsOf op.imm.toNat 5 5) (op.imm.toNat % 8)) s
def scBxrd (op : ScOp) (s : State) : State := scAlu op (fun m => m.bx) s
def scStat (op : ScOp) (s : State) : State := scAlu op (fun m => m.msw) s
def scBxclr (op : ScOp) (s : State) : State := s.setMill op.mill { s.mill op.mill with bxClr := true }
def scIll (n : Nat) (s : State) : State := s.setMill n ((s.mill n).flag 3 true)
def scEob (op : ScOp) (s : State) : State := s.setMill op.mill { s.mill op.mill with next := .eob }

/-- LOOP (R194): a fifth level, or a body that ends beyond the enclosing one, is illegal. -/
def scLoop (op : ScOp) (s : State) : State :=
  let m := s.mill op.mill
  let last := m.pc + op.d.toNat * 16 + op.a.toNat + 1
  let inside := match m.loops with | [] => true | l :: _ => decide (last ≤ l.last)
  if m.loops.length ≥ 4 ∨ !inside then scIll op.mill s
  else s.setMill op.mill { m with next := .loop (m.pc + 1) last (if op.imm = 0 then 1024 else op.imm.toNat) }

/-- The block words of R195 for the block of Mill `n`. -/
def State.blockWord (s : State) (n i : Nat) : Nat :=
  let m := s.mill n
  let e := m.block * s.blockLen
  match i with
  | 0 => e % 2 ^ 32
  | 1 => e / 2 ^ 32 % 2 ^ 32
  | 2 => m.swapOfs
  | 3 => m.sinceSwap
  | 4 => m.scene
  | 5 => m.route
  | 6 => n
  | 7 => s.blockLen
  | 8 => s.rateClass
  | 9 => b2n s.originBit
  | 10 => s.fs
  | _ => 0

def scRdb (op : ScOp) (s : State) : State :=
  s.scPut op.mill 1 (.s op.d.toNat) (s.blockWord op.mill (op.imm.toNat % 16))

/-- Every transfer queued in the block that runs is complete; late ones of earlier blocks do not count (R198). -/
def Mill.xfersDone (m : Mill) : Bool := m.xfers.all fun t => t.block != m.block

/-- Queue the transfer described at Mill-store address `x` (R196): the descriptor is read at issue. -/
def State.queueXfer (s : State) (n x : Nat) : State :=
  let m := s.mill n
  if x % 16 ≠ 0 ∨ x + 16 > 0x100000 ∨ m.guarded x 16 then s.setMill n (m.flag 2 true)
  else
    let a := 0x08000000 + n * 0x100000 + x
    if (wordsOf a 16).any s.poisoned then s.setMill n (m.flag 4 true)
    else
      let far := s.load a 4 + bitsOf (s.load (a + 4) 4) 0 8 * 2 ^ 32
      let out := bitAt (s.load (a + 4) 4) 8
      let loc := bitsOf (s.load (a + 8) 4) 0 20
      let len := bitsOf (s.load (a + 12) 4) 0 16
      let top := 0x100000000 + s.rd F.CEL_SIZE_size * 0x20000000
      let ok := far % 32 = 0 ∧ loc % 32 = 0 ∧ len % 32 = 0 ∧ loc + len ≤ 0x100000 ∧
        ((inGranary far ∧ far + len ≤ 0x03000000) ∨ (0x100000000 ≤ far ∧ far + len ≤ top))
      if len = 0 then s
      else if ok then s.setMill n { m with xfers := m.xfers ++ [⟨far, out, loc, len, m.block⟩] }
      else
        -- an access above the installed Cellar counts there too (R400)
        (s.setMill n (m.flag 5 true)).when (decide (far % 32 = 0) && decide (loc % 32 = 0) && decide (len % 32 = 0) && decide (loc + len ≤ 0x100000) &&
          decide (0x100000000 ≤ far)) fun (t : State) => (t.bump F.CEL_ERR_range).raise 0x028 3

/-- XFER (R196, R182): with 64 transfers in flight the Mill stalls until one completes. -/
def scXfer (op : ScOp) (s : State) : State :=
  let m := s.mill op.mill
  if m.xfers.length ≥ 64 then s.setMill op.mill { m with wait := .room (m.sa op) } else s.queueXfer op.mill (m.sa op)

/-- WAITE (R198): events 2 and 3 are illegal; a wait already satisfied costs nothing. -/
def scWaite (op : ScOp) (s : State) : State :=
  let m := s.mill op.mill
  match op.imm.toNat % 4 with
  | 0 => if s.mil.tail then s else s.setMill op.mill { m with wait := .tail }
  | 1 => if m.xfersDone then s else s.setMill op.mill { m with wait := .xfers }
  | _ => scIll op.mill s

/-- The operation of a scalar opcode (R193). -/
def scOpcode (op : Nat) : Option (ScOp → State → State) :=
  match op with
  | 0x00 => some fun _ s => s
  | 0x01 => some scAdd
  | 0x02 => some scSub
  | 0x03 => some scAddi
  | 0x04 => some scAnd
  | 0x05 => some scOr
  | 0x06 => some scXor
  | 0x07 => some scShl
  | 0x08 => some scAsr
  | 0x09 => some scLsr
  | 0x0A => some scLi
  | 0x0B => some scSli
  | 0x0C => some scMin
  | 0x0D => some scMax
  | 0x10 => some scMvp
  | 0x11 => some scMvm
  | 0x12 => some scMvn
  | 0x13 => some scRdp
  | 0x14 => some scRdm
  | 0x15 => some scRdn
  | 0x16 => some scVins
  | 0x17 => some scVext
  | 0x18 => some scLoop
  | 0x19 => some scEob
  | 0x1A => some scBxclr
  | 0x1B => some scBxrd
  | 0x1C => some scRdb
  | 0x1D => some scStat
  | 0x1E => some scXfer
  | 0x1F => some scWaite
  | _ => none

/-- The scalar slot issues last: its bundle is complete unless the Mill now waits. -/
def State.scFinish (s : State) (n : Nat) : State := if (s.mill n).wait = .none then s.millAdvance n else s

/-- A scalar operation commanded by its row. -/
def State.scCmd (s : State) (op : ScOp) (f : ScOp → State → State) : Host.Outcome State Fault Refusal :=
  .next (if s.millIssues op.mill then (f op s).scFinish op.mill else s)

/-! ### Bundles in instruction memory (R176, R184, R189, R193) -/

/-- The operands of a 36-bit vector field. -/
def vecFields (n : Nat) (mac1 : Bool) (w : Nat) : VecOp :=
  ⟨n, mac1, BitVec.ofNat 5 (bitsOf w 25 5), BitVec.ofNat 5 (bitsOf w 20 5), BitVec.ofNat 5 (bitsOf w 15 5),
   BitVec.ofNat 3 (bitsOf w 12 3), bitAt w 11, bitAt w 10, bitAt w 9, bitAt w 8, BitVec.ofNat 8 w⟩

/-- The operands of a 32-bit load/store field. -/
def lsFields (n w : Nat) : LsOp :=
  ⟨n, BitVec.ofNat 5 (bitsOf w 22 5), BitVec.ofNat 4 (bitsOf w 18 4), BitVec.ofNat 4 (bitsOf w 14 4), bitAt w 13,
   BitVec.ofNat 2 (bitsOf w 11 2), BitVec.ofNat 4 (bitsOf w 7 4), BitVec.ofNat 4 (bitsOf w 3 4), bitAt w 2, BitVec.ofNat 2 w⟩

/-- The operands of a 24-bit scalar field. -/
def scFields (n w : Nat) : ScOp := ⟨n, BitVec.ofNat 4 (bitsOf w 14 4), BitVec.ofNat 4 (bitsOf w 10 4), BitVec.ofNat 10 w⟩

/-- One vector field issues. -/
def State.vecField (s : State) (n : Nat) (mac1 : Bool) (w : Nat) : State :=
  let op := vecFields n mac1 w
  match vecOpcode (bitsOf w 30 6) with
  | some f =>
    let s1 := if bitsOf w 30 6 = 0x38 ∧ op.vd.toNat % 2 = 1 then s.useFree 2 else s
    s1.vecRun n (f (Config.freeValue s.free).toNat (Config.freeValue (s.free + 1)).toNat op)
  | none => s.setMill n ((s.mill n).flag 3 true)

/-- The bundle at the program counter issues as a whole. -/
def State.issueBundle (s : State) (n : Nat) : State :=
  let w := s.load (0x09000000 + n * 0x20000 + 16 * (s.mill n).pc) 16
  let s1 := (s.vecField n false (bitsOf w 92 36)).vecField n true (bitsOf w 56 36)
  let ls := bitsOf w 24 32
  let s2 := match lsOpcode (bitsOf ls 27 5) with
    | some f => f (lsFields n ls) s1
    | none => s1.setMill n ((s1.mill n).flag 3 true)
  let sc := bitsOf w 0 24
  (match scOpcode (bitsOf sc 18 6) with
    | some f => f (scFields n sc) s2
    | none => scIll n s2).scFinish n

/-! ### Commands: the operations -/

/-- NOP (R176): the slot does nothing; a load/store NOP may update addresses by AG1 (R190); the scalar slot's NOP completes
its bundle. -/
def execNop (op : SlotOp) (s : State) : Host.Outcome State Fault Refusal :=
  .next (match op with
    | .mac _ _ => s
    | .ls o => if s.millIssues o.mill then lsNop o s else s
    | .sc n => if s.millIssues n then s.millAdvance n else s)

/-- ILLEGAL_OPERATION (R188): the slot does nothing and ILL sets. -/
def execIllegalOperation (op : SlotOp) (s : State) : Host.Outcome State Fault Refusal :=
  .next (match op with
    | .mac n _ => if s.millIssues n then scIll n s else s
    | .ls o => if s.millIssues o.mill then scIll o.mill s else s
    | .sc n => if s.millIssues n then (scIll n s).millAdvance n else s)

/-- VEXP (R186). -/
def execVexp (op : VecOp) (s : State) : Host.Outcome State Fault Refusal :=
  .next (if s.millIssues op.mill then
      (if op.vd.toNat % 2 = 1 then s.useFree 2 else s).vecRun op.mill
        (Mill.vexp (Config.freeValue s.free).toNat (Config.freeValue (s.free + 1)).toNat op)
    else s)

/-- VMUL (R185): The accumulator takes the exact product of va and b in each lane. -/
def execVmul (op : VecOp) (s : State) : Host.Outcome State Fault Refusal := s.vecCmd op Mill.vmul

/-- VMAC (R185): The accumulator adds the exact product of va and b in each lane. -/
def execVmac (op : VecOp) (s : State) : Host.Outcome State Fault Refusal := s.vecCmd op Mill.vmac

/-- VMSU (R185): The accumulator subtracts the exact product of va and b in each lane. -/
def execVmsu (op : VecOp) (s : State) : Host.Outcome State Fault Refusal := s.vecCmd op Mill.vmsu

/-- VMOVA (R185): The accumulator takes va scaled by 2 to the power imm. -/
def execVmova (op : VecOp) (s : State) : Host.Outcome State Fault Refusal := s.vecCmd op Mill.vmova

/-- VADDA (R185): The accumulator adds va scaled by 2 to the power imm. -/
def execVadda (op : VecOp) (s : State) : Host.Outcome State Fault Refusal := s.vecCmd op Mill.vadda

/-- VACC (R185): The accumulator adds another accumulator. -/
def execVacc (op : VecOp) (s : State) : Host.Outcome State Fault Refusal := s.vecCmd op Mill.vacc

/-- VCLRA (R185): The accumulator is cleared. -/
def execVclra (op : VecOp) (s : State) : Host.Outcome State Fault Refusal := s.vecCmd op Mill.vclra

/-- VREDA (R185): Every lane of the accumulator takes the sum of its eight lanes. -/
def execVreda (op : VecOp) (s : State) : Host.Outcome State Fault Refusal := s.vecCmd op Mill.vreda

/-- VRND (R185): vd takes the accumulator rounded by an immediate shift and saturated. -/
def execVrnd (op : VecOp) (s : State) : Host.Outcome State Fault Refusal := s.vecCmd op Mill.vrnd

/-- VRNDV (R185): vd takes the accumulator rounded by a per-lane shift from vb and saturated. -/
def execVrndv (op : VecOp) (s : State) : Host.Outcome State Fault Refusal := s.vecCmd op Mill.vrndv

/-- VACCW (R185): vd takes a 32-bit window of the accumulator. -/
def execVaccw (op : VecOp) (s : State) : Host.Outcome State Fault Refusal := s.vecCmd op Mill.vaccw

/-- VRSBA (R185): vd takes the redundant sign bits of the 80-bit accumulator. -/
def execVrsba (op : VecOp) (s : State) : Host.Outcome State Fault Refusal := s.vecCmd op Mill.vrsba

/-- VADD (R185): vd takes the saturated sum of va and vb. -/
def execVadd (op : VecOp) (s : State) : Host.Outcome State Fault Refusal := s.vecCmd op Mill.vadd

/-- VSUB (R185): vd takes the saturated difference of va and vb. -/
def execVsub (op : VecOp) (s : State) : Host.Outcome State Fault Refusal := s.vecCmd op Mill.vsub

/-- VADDW (R185): vd takes the wrapping sum of va and vb. -/
def execVaddw (op : VecOp) (s : State) : Host.Outcome State Fault Refusal := s.vecCmd op Mill.vaddw

/-- VSUBW (R185): vd takes the wrapping difference of va and vb. -/
def execVsubw (op : VecOp) (s : State) : Host.Outcome State Fault Refusal := s.vecCmd op Mill.vsubw

/-- VNEG (R185): vd takes the saturated negation of va. -/
def execVneg (op : VecOp) (s : State) : Host.Outcome State Fault Refusal := s.vecCmd op Mill.vneg

/-- VABS (R185): vd takes the saturated absolute value of va. -/
def execVabs (op : VecOp) (s : State) : Host.Outcome State Fault Refusal := s.vecCmd op Mill.vabs

/-- VMIN (R185): vd takes the minimum of va and vb. -/
def execVmin (op : VecOp) (s : State) : Host.Outcome State Fault Refusal := s.vecCmd op Mill.vmin

/-- VMAX (R185): vd takes the maximum of va and vb. -/
def execVmax (op : VecOp) (s : State) : Host.Outcome State Fault Refusal := s.vecCmd op Mill.vmax

/-- VAND (R185): vd takes the bitwise AND of va and vb. -/
def execVand (op : VecOp) (s : State) : Host.Outcome State Fault Refusal := s.vecCmd op Mill.vand

/-- VOR (R185): vd takes the bitwise OR of va and vb. -/
def execVor (op : VecOp) (s : State) : Host.Outcome State Fault Refusal := s.vecCmd op Mill.vor

/-- VXOR (R185): vd takes the bitwise XOR of va and vb. -/
def execVxor (op : VecOp) (s : State) : Host.Outcome State Fault Refusal := s.vecCmd op Mill.vxor

/-- VSHL (R185): vd takes va shifted left by k with saturation. -/
def execVshl (op : VecOp) (s : State) : Host.Outcome State Fault Refusal := s.vecCmd op Mill.vshl

/-- VASR (R185): vd takes va shifted right arithmetically by k. -/
def execVasr (op : VecOp) (s : State) : Host.Outcome State Fault Refusal := s.vecCmd op Mill.vasr

/-- VLSR (R185): vd takes va shifted right logically by k. -/
def execVlsr (op : VecOp) (s : State) : Host.Outcome State Fault Refusal := s.vecCmd op Mill.vlsr

/-- VCMPLT (R185): vd takes an all-ones mask where va is less than vb. -/
def execVcmplt (op : VecOp) (s : State) : Host.Outcome State Fault Refusal := s.vecCmd op Mill.vcmplt

/-- VCMPEQ (R185): vd takes an all-ones mask where va equals vb. -/
def execVcmpeq (op : VecOp) (s : State) : Host.Outcome State Fault Refusal := s.vecCmd op Mill.vcmpeq

/-- VSEL (R185): vd takes va or vb by bit 31 of its own mask in each lane. -/
def execVsel (op : VecOp) (s : State) : Host.Outcome State Fault Refusal := s.vecCmd op Mill.vsel

/-- VRSB (R185): vd takes the redundant sign bits of va. -/
def execVrsb (op : VecOp) (s : State) : Host.Outcome State Fault Refusal := s.vecCmd op Mill.vrsb

/-- VROT (R185): vd takes va rotated across lanes by imm. -/
def execVrot (op : VecOp) (s : State) : Host.Outcome State Fault Refusal := s.vecCmd op Mill.vrot

/-- VBC (R185): vd takes one lane of va in every lane. -/
def execVbc (op : VecOp) (s : State) : Host.Outcome State Fault Refusal := s.vecCmd op Mill.vbc

/-- VADDI (R185): vd takes va plus the sign-extended immediate, saturated. -/
def execVaddi (op : VecOp) (s : State) : Host.Outcome State Fault Refusal := s.vecCmd op Mill.vaddi

/-- VRSUBI (R185): vd takes the sign-extended immediate minus va, saturated. -/
def execVrsubi (op : VecOp) (s : State) : Host.Outcome State Fault Refusal := s.vecCmd op Mill.vrsubi

/-- VLG2 (R186): vd takes the table logarithm of the accumulator. -/
def execVlg2 (op : VecOp) (s : State) : Host.Outcome State Fault Refusal := s.vecCmd op Mill.vlg2

/-- VSQRT (R186): vd takes the exact integer square root of the accumulator. -/
def execVsqrt (op : VecOp) (s : State) : Host.Outcome State Fault Refusal := s.vecCmd op Mill.vsqrt

/-- VDIV (R186): vd takes the accumulator divided by vb, and a zero divisor sets DIV0. -/
def execVdiv (op : VecOp) (s : State) : Host.Outcome State Fault Refusal := s.vecCmd op Mill.vdiv

/-- LDV (R190): A vector register is loaded from eight contiguous words. -/
def execLdv (op : LsOp) (s : State) : Host.Outcome State Fault Refusal := s.lsCmd op lsLdv

/-- STV (R190): A vector register is stored to eight contiguous words. -/
def execStv (op : LsOp) (s : State) : Host.Outcome State Fault Refusal := s.lsCmd op lsStv

/-- LDX (R190): A vector register is loaded with a lane stride. -/
def execLdx (op : LsOp) (s : State) : Host.Outcome State Fault Refusal := s.lsCmd op lsLdx

/-- STX (R190): A vector register is stored with a lane stride. -/
def execStx (op : LsOp) (s : State) : Host.Outcome State Fault Refusal := s.lsCmd op lsStx

/-- LDHX (R190): Sign-extended halfwords are loaded with a lane stride. -/
def execLdhx (op : LsOp) (s : State) : Host.Outcome State Fault Refusal := s.lsCmd op lsLdhx

/-- STHX (R190): Low halfwords are stored with a lane stride. -/
def execSthx (op : LsOp) (s : State) : Host.Outcome State Fault Refusal := s.lsCmd op lsSthx

/-- LDBC (R190): One word is loaded into every lane. -/
def execLdbc (op : LsOp) (s : State) : Host.Outcome State Fault Refusal := s.lsCmd op lsLdbc

/-- LDS (R190): A scalar register is loaded. -/
def execLds (op : LsOp) (s : State) : Host.Outcome State Fault Refusal := s.lsCmd op lsLds

/-- STS (R190): A scalar register is stored. -/
def execSts (op : LsOp) (s : State) : Host.Outcome State Fault Refusal := s.lsCmd op lsSts

/-- LDA (R190): An accumulator is loaded from 16-byte lanes. -/
def execLda (op : LsOp) (s : State) : Host.Outcome State Fault Refusal := s.lsCmd op lsLda

/-- STA (R190): An accumulator is stored as 16-byte lanes. -/
def execSta (op : LsOp) (s : State) : Host.Outcome State Fault Refusal := s.lsCmd op lsSta

/-- LDHV (R190): Sign-extended contiguous halfwords are loaded. -/
def execLdhv (op : LsOp) (s : State) : Host.Outcome State Fault Refusal := s.lsCmd op lsLdhv

/-- STHV (R190): Low halfwords are stored contiguously. -/
def execSthv (op : LsOp) (s : State) : Host.Outcome State Fault Refusal := s.lsCmd op lsSthv

/-- PMOD (R190): The address generators update their registers with no memory access. -/
def execPmod (op : LsOp) (s : State) : Host.Outcome State Fault Refusal := s.lsCmd op lsPmod

/-- ADD (R193): Sd takes Sa plus Sb. -/
def execAddS (op : ScOp) (s : State) : Host.Outcome State Fault Refusal := s.scCmd op scAdd

/-- SUB (R193): Sd takes Sa minus Sb. -/
def execSubS (op : ScOp) (s : State) : Host.Outcome State Fault Refusal := s.scCmd op scSub

/-- ADDI (R193): Sd takes Sa plus the sign-extended immediate. -/
def execAddi (op : ScOp) (s : State) : Host.Outcome State Fault Refusal := s.scCmd op scAddi

/-- AND (R193): Sd takes Sa AND Sb. -/
def execAndS (op : ScOp) (s : State) : Host.Outcome State Fault Refusal := s.scCmd op scAnd

/-- OR (R193): Sd takes Sa OR Sb. -/
def execOrS (op : ScOp) (s : State) : Host.Outcome State Fault Refusal := s.scCmd op scOr

/-- XOR (R193): Sd takes Sa XOR Sb. -/
def execXorS (op : ScOp) (s : State) : Host.Outcome State Fault Refusal := s.scCmd op scXor

/-- SHL (R193): Sd takes Sa shifted left. -/
def execShl (op : ScOp) (s : State) : Host.Outcome State Fault Refusal := s.scCmd op scShl

/-- ASR (R193): Sd takes Sa shifted right arithmetically. -/
def execAsr (op : ScOp) (s : State) : Host.Outcome State Fault Refusal := s.scCmd op scAsr

/-- LSR (R193): Sd takes Sa shifted right logically. -/
def execLsr (op : ScOp) (s : State) : Host.Outcome State Fault Refusal := s.scCmd op scLsr

/-- LI (R193): Sd takes the sign-extended immediate. -/
def execLi (op : ScOp) (s : State) : Host.Outcome State Fault Refusal := s.scCmd op scLi

/-- SLI (R193): Sd is shifted left by 10 and takes the immediate in its low bits. -/
def execSli (op : ScOp) (s : State) : Host.Outcome State Fault Refusal := s.scCmd op scSli

/-- MIN (R193): Sd takes the signed minimum of Sa and Sb. -/
def execMinS (op : ScOp) (s : State) : Host.Outcome State Fault Refusal := s.scCmd op scMin

/-- MAX (R193): Sd takes the signed maximum of Sa and Sb. -/
def execMaxS (op : ScOp) (s : State) : Host.Outcome State Fault Refusal := s.scCmd op scMax

/-- MVP (R193): An address register takes a scalar. -/
def execMvp (op : ScOp) (s : State) : Host.Outcome State Fault Refusal := s.scCmd op scMvp

/-- MVM (R193): An offset register takes a scalar. -/
def execMvm (op : ScOp) (s : State) : Host.Outcome State Fault Refusal := s.scCmd op scMvm

/-- MVN (R193): A length register takes a scalar. -/
def execMvn (op : ScOp) (s : State) : Host.Outcome State Fault Refusal := s.scCmd op scMvn

/-- RDP (R193): A scalar takes an address register. -/
def execRdp (op : ScOp) (s : State) : Host.Outcome State Fault Refusal := s.scCmd op scRdp

/-- RDM (R193): A scalar takes an offset register. -/
def execRdm (op : ScOp) (s : State) : Host.Outcome State Fault Refusal := s.scCmd op scRdm

/-- RDN (R193): A scalar takes a length register. -/
def execRdn (op : ScOp) (s : State) : Host.Outcome State Fault Refusal := s.scCmd op scRdn

/-- VINS (R193): A scalar is inserted into one lane of a vector register. -/
def execVins (op : ScOp) (s : State) : Host.Outcome State Fault Refusal := s.scCmd op scVins

/-- VEXT (R193): A scalar takes one lane of a vector register. -/
def execVext (op : ScOp) (s : State) : Host.Outcome State Fault Refusal := s.scCmd op scVext

/-- LOOP (R194): The following body runs a fixed number of times, and an illegal nesting sets ILL. -/
def execLoopS (op : ScOp) (s : State) : Host.Outcome State Fault Refusal := s.scCmd op scLoop

/-- EOB (R194): The block program ends, and the Mill idles until the next block-start event. -/
def execEob (op : ScOp) (s : State) : Host.Outcome State Fault Refusal := s.scCmd op scEob

/-- BXCLR (R193): BX is set to 31. -/
def execBxclr (op : ScOp) (s : State) : Host.Outcome State Fault Refusal := s.scCmd op scBxclr

/-- BXRD (R193): A scalar takes BX. -/
def execBxrd (op : ScOp) (s : State) : Host.Outcome State Fault Refusal := s.scCmd op scBxrd

/-- RDB (R195): A scalar takes one of the block words of the block in Work. -/
def execRdb (op : ScOp) (s : State) : Host.Outcome State Fault Refusal := s.scCmd op scRdb

/-- STAT (R193): A scalar takes MSW. -/
def execStatS (op : ScOp) (s : State) : Host.Outcome State Fault Refusal := s.scCmd op scStat

/-- XFER (R196): The transfer described at a Mill-store address is queued. -/
def execXfer (op : ScOp) (s : State) : Host.Outcome State Fault Refusal := s.scCmd op scXfer

/-- WAITE (R198): The Mill stalls until the tail-ready point or until its transfers are complete. -/
def execWaite (op : ScOp) (s : State) : Host.Outcome State Fault Refusal := s.scCmd op scWaite

end Sys2Proof.Machine
end

