-- ==== Sys2Proof/Machine/Image.lean ====
section
/-! DEFINITION. The two files the Reeve loads: the Mill image (R202, R203) and the configuration container (R492–R495),
with their checks, and the load of one Mill. -/
namespace Sys2Proof.Machine

/-- A little-endian number of `n` bytes at offset `o` of a file. -/
def leAt (c : List Byte) (o n : Nat) : Nat := ofLe ((c.drop o).take n)

/-- The file with `n` bytes at `o` taken as 0. -/
def zeroedAt (c : List Byte) (o n : Nat) : List Byte := c.take o ++ List.replicate n 0 ++ c.drop (o + n)

/-- Every byte of `[lo, hi)` reads 0 again. -/
def State.clearMem (s : State) (lo hi : Nat) : State :=
  { s with mem := s.mem.filter fun (c : Host.Cell) => !(lo ≤ c.1 && c.1 < hi) }

/-! ### The Mill image -/

/-- Offset of Mill n's entry. -/
def milEntry (n : Nat) : Nat := 0x40 + 64 * n

/-- Marks in use, and the deadline and segment of mark k. -/
def milMarks (c : List Byte) : Nat := leAt c 7 1
def milMarkEnd (c : List Byte) (k : Nat) : Nat := bitsOf (leAt c (0x10 + 4 * k) 4) 0 20
def milMarkLate (c : List Byte) (k : Nat) : Bool := bitAt (leAt c (0x10 + 4 * k) 4) 31
def milMarkPc (c : List Byte) (n k : Nat) : Nat := leAt c (milEntry n + 0x1C + 2 * k) 2

/-- The bundles of Mill n's program. -/
def milProg (c : List Byte) (n : Nat) : List Nat :=
  (List.range (leAt c (milEntry n + 4) 2)).map fun i => leAt c (leAt c (milEntry n) 4 + 16 * i) 16

/-- The segments of Mill n: (Mill-store address, length, image offset). -/
def milSegs (c : List Byte) (n : Nat) : List (Nat × Nat × Nat) :=
  (List.range (leAt c (milEntry n + 6) 2)).map fun i =>
    let o := leAt c (milEntry n + 8) 4 + 16 * i
    (leAt c o 4, leAt c (o + 4) 4, leAt c (o + 8) 4)

/-- Scalar opcode of a bundle. -/
def scOpOf (w : Nat) : Nat := bitsOf w 18 6

/-- Loop bodies: (first, last, trips, the LOOP's own pc) (R194). -/
def loopBodies (p : List Nat) : List (Nat × Nat × Nat × Nat) :=
  p.zipIdx.filterMap fun (x : Nat × Nat) =>
    if scOpOf x.1 = 0x18 then
      some (x.2 + 1, x.2 + bitsOf x.1 14 4 * 16 + bitsOf x.1 10 4 + 1,
        (if bitsOf x.1 0 10 = 0 then 1024 else bitsOf x.1 0 10), x.2)
    else none

/-- A bundle lies in the body. -/
def inBody (b : Nat × Nat × Nat × Nat) (pc : Nat) : Bool := b.1 ≤ pc && pc ≤ b.2.1

/-- A LOOP that breaks R194: a fifth level, or a body that ends beyond the enclosing one. -/
def badLoops (p : List Nat) : Bool :=
  let bs := loopBodies p
  bs.any fun b =>
    let outer := bs.filter fun o => inBody o b.2.2.2
    4 ≤ outer.length || outer.any fun o => o.2.1 < b.2.1

/-- How often a bundle issues: the product of the trips of the bodies it lies in. -/
def tripsAt (bs : List (Nat × Nat × Nat × Nat)) (pc : Nat) : Nat :=
  (bs.filter fun b => inBody b pc).foldl (fun a b => a * b.2.2.1) 1

/-- Positions of a scalar operation with an event or any immediate. -/
def scPositions (p : List Nat) (f : Nat → Bool) : List Nat :=
  (p.zipIdx.filter fun (x : Nat × Nat) => f x.1).map (·.2)

/-- WAITE with event `e`. -/
def isWait (e w : Nat) : Bool := scOpOf w == 0x1F && bitsOf w 0 2 == e

/-- WAIT: the program breaks R207: one WAITE 0, outside the loops, between the early and the late marks; WAITE 1 and EOB after
the last mark, with an EOB there, and a WAITE 1 where the program queues transfers. -/
def badWaits (c : List Byte) (n : Nat) : Bool :=
  let p := milProg c n
  let bs := loopBodies p
  let w0 := scPositions p (isWait 0)
  let ks := List.range (milMarks c)
  let lastMark := ks.foldl (fun a k => max a (milMarkPc c n k)) 0
  match w0 with
  | [w] => bs.any (fun b => inBody b w) ||
      ks.any (fun k => if milMarkLate c k then decide (milMarkPc c n k ≤ w) else decide (w ≤ milMarkPc c n k)) ||
      (scPositions p fun w => isWait 1 w || scOpOf w == 0x19).any (fun x => decide (x ≤ lastMark)) ||
      !(p.any fun w => scOpOf w == 0x19) || (p.any (fun w => scOpOf w == 0x1E) && !(p.any (isWait 1)))
  | _ => true

/-- MARK: positions and deadlines of the marks. -/
def badMarks (c : List Byte) (n : Nat) : Bool :=
  let bs := loopBodies (milProg c n)
  let m := milMarks c
  m < 1 || m > 8 ||
  (List.range 8).any (fun k => if k < m then milMarkPc c n k == 0xFFFF || bs.any fun b => inBody b (milMarkPc c n k)
    else milMarkPc c n k != 0xFFFF) ||
  (List.range (m - 1)).any fun k =>
    decide (milMarkPc c n (k + 1) ≤ milMarkPc c n k) || (milMarkLate c k && !milMarkLate c (k + 1)) ||
    (milMarkLate c k == milMarkLate c (k + 1) && decide (milMarkEnd c (k + 1) ≤ milMarkEnd c k))

/-- XFER: more than 63 transfers issue before the last mark, counting loop trips. -/
def badXfers (c : List Byte) (n : Nat) : Bool :=
  let p := milProg c n
  let bs := loopBodies p
  let lastMark := (List.range (milMarks c)).foldl (fun a k => max a (milMarkPc c n k)) 0
  decide (63 < ((scPositions p fun w => scOpOf w == 0x1E).filter (· < lastMark)).foldl (fun a pc => a + tripsAt bs pc) 0)

/-- Registers a vector field writes, with the latency (R178). -/
def vecWrites (w : Nat) : List (Nat × MReg) :=
  let op := bitsOf w 30 6
  let d := bitsOf w 25 5
  if 1 ≤ op ∧ op ≤ 8 then [(3, .a (bitsOf w 12 3) 0)]
  else if 0x10 ≤ op ∧ op ≤ 0x13 then [(2, .v d 0)]
  else if 0x20 ≤ op ∧ op ≤ 0x35 then [(1, .v d 0)]
  else if op = 0x38 then [(4, .v d 0), (4, .v ((d + 1) % 32) 0)]
  else if op = 0x39 ∨ op = 0x3A then [(4, .v d 0)]
  else if op = 0x3B then [(12, .v d 0)]
  else []

/-- Registers a scalar field writes, with the latency. -/
def scWrites (w : Nat) : List (Nat × MReg) :=
  let op := scOpOf w
  let d := bitsOf w 14 4
  if (1 ≤ op ∧ op ≤ 0x0D) ∨ (0x13 ≤ op ∧ op ≤ 0x15) ∨ op = 0x17 ∨ (0x1B ≤ op ∧ op ≤ 0x1D) then [(1, .s d)]
  else if op = 0x10 then [(2, .p d)]
  else if op = 0x11 then [(2, .m d)]
  else if op = 0x12 then [(2, .n d)]
  else if op = 0x16 then [(1, .v (bitsOf w 5 5) 0)]
  else []

/-- Registers a load/store field at bundle `pc` writes: address registers it post-modifies, and a load's destination with the
latency of the region that the check finds its address in (R178, R190; log entry 24). -/
def lsWrites (pc w : Nat) : List (Nat × MReg) :=
  let op := bitsOf w 27 5
  let d := bitsOf w 22 5
  let p := bitsOf w 18 4
  let p2 := bitsOf w 7 4
  let first := bitAt w 13 && 1 ≤ op && op ≤ 0x0E
  let region := Config.loadRegion w pc
  let lam := if region = 0 then 3 else if region = 1 then 8 else 12
  if bitsOf w 11 2 = 3 ∨ op > 0x0E then []
  else (if first && !(bitAt w 2 && p2 == p) then [(1, .p p)] else []) ++ (if bitAt w 2 then [(1, .p p2)] else []) ++
    (if op = 1 ∨ op = 3 ∨ op = 5 ∨ op = 7 ∨ op = 0xC then [(lam, .v d 0)] else if op = 8 then [(lam, .s (d % 16))]
     else if op = 0xA then [(lam, .a (d % 8) 0)] else [])

/-- Every register write of a bundle. -/
def bundleWrites (pc w : Nat) : List (Nat × MReg) :=
  vecWrites (bitsOf w 92 36) ++ vecWrites (bitsOf w 56 36) ++ lsWrites pc (bitsOf w 24 32) ++ scWrites (bitsOf w 0 24)

/-- Walk the issue order of a program, loops run out: two writes of one register become visible in one bundle. -/
def slotWalk (p : Array Nat) : Nat → Nat → List MLoop → Nat → List (Nat × MReg) → Bool
  | 0, _, _, _, _ => false
  | fuel + 1, pc, loops, k, due =>
    if 8192 ≤ pc then false
    else
      let w := p.getD pc 0
      let ws := (bundleWrites pc w).map fun (x : Nat × MReg) => (k + x.1, x.2)
      let clash := (ws.zipIdx.any fun (x : (Nat × MReg) × Nat) => due.contains x.1 || (ws.take x.2).contains x.1)
      if clash then true
      else if scOpOf w = 0x19 then false
      else
        let r : Nat × List MLoop :=
          if scOpOf w = 0x18 then
            (pc + 1, ⟨pc + 1, pc + bitsOf w 14 4 * 16 + bitsOf w 10 4 + 1, if bitsOf w 0 10 = 0 then 1024 else bitsOf w 0 10⟩ :: loops)
          else loopNext pc loops
        slotWalk p fuel r.1 r.2 (k + 1) ((due ++ ws).filter fun x => k + 1 < x.1 + 1)

/-- SLOT, up to the most bundles any admitted budget holds. -/
def badSlots (c : List Byte) (n : Nat) : Bool := slotWalk (milProg c n).toArray 425001 0 [] 0 []

/-- Budget B, tail-ready T_tr and dual-run reserve R_v of a family (R209). -/
def milBudget (family : Nat) : Nat := if family = 0 then 390000 else 425000
def milTtr (family : Nat) : Nat := if family = 0 then 200000 else 217687
def milDual (family : Nat) : Nat := if family = 0 then 58500 else 63750

/-- BUDGET: a Mill breaks R210. -/
def badBudget (c : List Byte) (family n : Nat) : Bool :=
  let e := leAt c (milEntry n + 0xC) 4
  let l := leAt c (milEntry n + 0x10) 4
  let d := leAt c (milEntry n + 0x14) 4
  !(e ≤ milTtr family && milTtr family + l ≤ milBudget family && d ≤ milDual family &&
    e + l ≤ milBudget family - milDual family + d)

/-- Owner-table entry of a source and read-tier byte of a destination in an image. -/
def milOwner (c : List Byte) (src : Nat) : Nat := leAt c (leAt c 0x30 4 + 2 * src) 2
def milRtier (c : List Byte) (d : Nat) : Nat := leAt c (leAt c 0x34 4 + d) 1

/-- OWNER: a Work-stage source has no owner (R204). One entry names one owner, so none has two. -/
def badOwner (c : List Byte) (k : Nat) : Bool :=
  (List.range (13696 / k - 5120 / k)).any fun i => !bitAt (milOwner c (5120 / k + i)) 7

/-- OWNER: a store of Mill n's program meets a source frame outside its own sources (R173, R203; log entry 24). -/
def badStores (c : List Byte) (n : Nat) : Bool :=
  (milProg c n).zipIdx.any fun (x : Nat × Nat) =>
    let ls := bitsOf x.1 24 32
    [2, 4, 6, 9, 0xB, 0xD].contains (bitsOf ls 27 5) && Config.foreignStore ls x.2

/-- The producers the tables imply for Mill n: owners of sources of a tier below the read tier of a destination it reads. -/
def impliedDepend (c : List Byte) (k n : Nat) : List Nat :=
  let top := (List.range (7808 / k)).foldl (fun a d =>
    if bitsOf (milRtier c d) 0 4 = n then max a (bitsOf (milRtier c d) 4 4) else a) 0
  (List.range 16).filter fun m => (List.range (13696 / k - 5120 / k)).any fun i =>
    let e := milOwner c (5120 / k + i)
    bitAt e 7 && bitsOf e 0 4 == m && decide (bitsOf e 4 3 < top)

/-- ORDER: the depend mask differs from those producers; a Mill's own bit is not compared (log entry 24). -/
def badOrder (c : List Byte) (k n : Nat) : Bool :=
  let mask := leAt c (milEntry n + 0x18) 2
  (List.range 16).any fun m => m != n && bitAt mask m != (impliedDepend c k n).contains m

/-- GRANARY: summed bank claims above 75 % of a bank's cycles in a block period at the floor (R212). -/
def badClaims (c : List Byte) (family : Nat) : Bool :=
  let limit := if family = 0 then 300000 else 326530
  (List.range 64).any fun b => decide (limit < (List.range 16).foldl (fun a n =>
    a + leAt c (leAt c (milEntry n + 0x2C) 4 + 4 * b) 4) 0)

/-- FORMAT. -/
def badMilFormat (c : List Byte) : Bool :=
  !(leAt c 0 4 == 0x534C494D && leAt c 4 2 == 1 && leAt c 8 4 == c.length && leAt c 0xC 4 == crc32 (zeroedAt c 0xC 4))

/-- LENGTH. -/
def badLength (c : List Byte) (n : Nat) : Bool :=
  let len := leAt c (milEntry n + 4) 2
  len < 1 || len > 8192 || (milSegs c n).any fun g => decide (0x100000 < g.1 + g.2.1)

/-- The first failing check of a Mill image for rate key `rate` (bits [2:0]: family, multiple), with its Mill; (0, 0) where
every check passes (R203). -/
def milCheck (c : List Byte) (rate : Nat) : Nat × Nat :=
  let fam := rate % 2
  let k := 2 ^ (rate / 2 % 4)
  let per (code : Nat) (f : Nat → Bool) : Option (Nat × Nat) := ((List.range 16).find? f).map fun (n : Nat) => (code, n)
  let checks : List (Unit → Option (Nat × Nat)) := [
    fun _ => if badMilFormat c then some (1, 0) else none,
    fun _ => if bitsOf (leAt c 6 1) 0 3 ≠ rate % 8 then some (2, 0) else none,
    fun _ => per 3 (badLength c),
    fun _ => per 4 (badSlots c),
    fun _ => per 5 fun n => badLoops (milProg c n),
    fun _ => per 6 (badWaits c),
    fun _ => per 7 (badMarks c),
    fun _ => per 8 (badXfers c),
    fun _ => per 9 (badBudget c fam),
    fun _ => if badOwner c k then some (0xA, 0) else per 0xA (badStores c),
    fun _ => per 0xB (badOrder c k),
    fun _ => if badClaims c fam then some (0xC, 0) else none]
  (checks.findSome? fun f => f ()).getD (0, 0)

/-- Load one Mill's program and Mill-store image (R201, R223). -/
def State.loadMill (s : State) (c : List Byte) (n : Nat) : State :=
  let ib := 0x09000000 + n * 0x20000
  let sb := 0x08000000 + n * 0x100000
  let s1 := (s.clearMem ib (ib + 0x20000)).clearMem sb (sb + 0x100000)
  let s2 := s1.setBytes ib ((c.drop (leAt c (milEntry n) 4)).take (16 * leAt c (milEntry n + 4) 2))
  (milSegs c n).foldl (fun (t : State) (g : Nat × Nat × Nat) => t.setBytes (sb + g.1) ((c.drop g.2.2).take g.2.1)) s2

/-- The MIL registers of Mill n (R229). -/
def State.loadMillRegs (s : State) (c : List Byte) (n : Nat) : State :=
  let e := milEntry n
  let s1 := (((s.wr F.MIL_PROG_LEN_bundles (leAt c (e + 4) 2) n).wr F.MIL_ADMIT_EARLY_cycles (leAt c (e + 0xC) 4) n).wr
    F.MIL_ADMIT_LATE_cycles (leAt c (e + 0x10) 4) n).wr F.MIL_ADMIT_DUAL_cycles (leAt c (e + 0x14) 4) n
  let s2 := (List.range 8).foldl (fun (t : State) k =>
    let pc := milMarkPc c n k
    (t.wr F.MIL_MARK_PC_pc (if pc = 0xFFFF then 0 else pc) n k).wr F.MIL_MARK_PC_used (b2n (pc != 0xFFFF)) n k) s1
  ((s2.wr F.MIL_DEPEND_mask (leAt c (e + 0x18) 2) n).wr F.MIL_STATE_state 1 n).wr F.MIL_STATE_recovering 0 n

/-- The insert instances of an image (R214). -/
def milInserts (c : List Byte) : List Insert :=
  (List.range (leAt c 0x3C 2)).map fun i =>
    let o := leAt c 0x38 4 + 16 * i
    ⟨leAt c o 2, leAt c (o + 2) 1, leAt c (o + 3) 1 == 1, leAt c (o + 4) 4, leAt c (o + 8) 4, leAt c (o + 12) 4⟩

/-- Load a whole Mill image (R201): programs, stores, tables at their addresses, registers, insert instances. -/
def State.loadMillImage (s : State) (c : List Byte) : State :=
  let k := s.mult
  let s1 := (List.range 16).foldl (fun (t : State) n => ((t.loadMill c n).loadMillRegs c n).setMill n Mill.fresh) s
  let s2 := (s1.setBytes (s1.rd F.MIL_OWN_BASE_base) ((c.drop (leAt c 0x30 4)).take (32768 / k))).setBytes
    (s1.rd F.MIL_RTIER_BASE_base) ((c.drop (leAt c 0x34 4)).take (16384 / k))
  let s3 := (List.range 8).foldl (fun (t : State) i =>
    (t.wr F.MIL_MARK_END_end (milMarkEnd c i) 0 i).wr F.MIL_MARK_END_segment (b2n (milMarkLate c i)) 0 i) s2
  let fam := leAt c 6 1 % 2
  let s4 := (((s3.wr F.MIL_BUDGET_budget (milBudget fam)).wr F.MIL_TTR_ttr (milTtr fam)).wr F.MIL_LOAD_code 0).wr F.MIL_LOAD_mill 0 |>.wr F.MIL_LOAD_loaded 1
  let ins := milInserts c
  { s4 with mil := { s4.mil with inserts := ins, subst := [], tail := false, frames := [] },
            scn := { s4.scn with insAreas := ins.map fun (i : Insert) => (i.area, i.size, i.hostKey) } }

/-! ### The configuration container -/

/-- Sections: (type, offset, length, target). -/
def cfgSections (c : List Byte) : List (Nat × Nat × Nat × Nat) :=
  (List.range (leAt c 7 1)).map fun i =>
    let o := 0x40 + 16 * i
    (leAt c o 4, leAt c (o + 4) 4, leAt c (o + 8) 4, leAt c (o + 12) 4)

/-- Content of the first section of a type; none where the container has none. -/
def cfgSection (c : List Byte) (ty : Nat) : Option (List Byte) :=
  ((cfgSections c).find? fun x => x.1 == ty).map fun (x : Nat × Nat × Nat × Nat) => (c.drop x.2.1).take x.2.2.1

/-- The key a container is held under: bits [2:0] of its rate, family and multiple (R494). -/
def cfgKey (c : List Byte) : Nat := bitsOf (leAt c 6 1) 0 3

/-- Word `i` of the layout record (R493). -/
def layoutWord (c : List Byte) (i : Nat) : Nat := leAt ((cfgSection c 2).getD []) (4 * i) 4

/-- The registers of the layout record, in order (R493). -/
def layoutRegs : List Nat :=
  [F.SCN_BANK_SIZE_size.key 0 0, F.SCN_IN_BASE_offset.key 0 0, F.SCN_BUS_BASE_offset.key 0 0, F.SCN_MTX_BASE_offset.key 0 0,
   F.SCN_IB_SEND_offset.key 0 0, F.SCN_IB_TAP_offset.key 0 0, F.SCN_BM_SEND_offset.key 0 0, F.SCN_BM_TAP_offset.key 0 0,
   F.SCN_FENCE_OFS_offset.key 0 0, F.SCN_INS_OFS_offset.key 0 0, F.SCN_INS_SIZE_size.key 0 0, F.XRD_PATCH_OFS_offset.key 0 0,
   F.XRD_SRC_OFS_offset.key 0 0, F.XRD_GROUP_OFS_offset.key 0 0, F.XRD_POOL_BASE_base.key 0 0, F.XRD_POOL_SIZE_size.key 0 0,
   F.XRD_MTAP_BASE_base.key 0 0, F.CHN_TABLE_LO_table.key 0 0, F.CHN_TABLE_HI_value.key 0 0, F.CHN_GRN_BASE_base.key 0 0,
   F.SRX_TABLE_BASE_base.key 0 0, F.SRX_POOL_BASE_value.key 0 0, F.SRX_POOL_SIZE_value.key 0 0, F.STX_TABLE_BASE_base.key 0 0,
   F.CRI_POOL_BASE_base.key 0 0, F.CRI_RX_BASE_base.key 0 0, F.CRI_INJ_BASE_base.key 0 0, F.MIL_OWN_BASE_base.key 0 0,
   F.MIL_RTIER_BASE_base.key 0 0, F.NBR_MAP_BASE_value.key 0 0]

/-- One past the last byte of the installed Cellar. -/
def State.cellarEnd (s : State) : Nat := 0x100000000 + s.rd F.CEL_SIZE_size * 0x20000000

/-- `n` bytes at `a` lie in the installed Cellar. -/
def State.inCellar (s : State) (a n : Nat) : Bool := decide (0x100000000 ≤ a) && decide (a + n ≤ s.cellarEnd)

/-- `n` bytes at `a` lie in the Granary or the installed Cellar: where a command's buffer may stand (log entry 64). -/
def State.inBuffer (s : State) (a n : Nat) : Bool := (decide (0x01000000 ≤ a) && decide (a + n ≤ 0x03000000)) || s.inCellar a n

/-- Items the layout places, with their sizes at rate multiple `k`: (address, bytes). -/
def layoutItems (c : List Byte) (k : Nat) : List (Nat × Nat) :=
  let w (i : Nat) : Nat := layoutWord c i
  let table := match cfgSection c 4 with | some t => [(w 17 + w 18 * 2 ^ 32, t.length)] | none => []
  let map := match cfgSection c 5 with | some t => [(w 29, t.length)] | none => []
  ([(w 14, w 15), (w 16, if w 16 = 0 then 0 else 16 * (2048 / k)), (w 19, if table = [] then 0 else 1024 * (128 / k)),
    (w 20, if w 20 = 0 then 0 else 0x20000), (w 21, w 22), (w 23, if w 23 = 0 then 0 else 0x20000),
    (w 24, if w 24 = 0 then 0 else 256 * 1536), (w 25, if w 25 = 0 then 0 else 128 * 1536), (w 26, if w 26 = 0 then 0 else 1472),
    (w 27, 32768 / k), (w 28, 16384 / k)] ++ table ++ map ++
    ((cfgSections c).filter fun x => x.1 == 6).map fun (x : Nat × Nat × Nat × Nat) => (x.2.2.2, x.2.2.1)).filter fun x => x.2 != 0

/-- The item lies in the Granary or the installed Cellar. -/
def State.itemInside (s : State) (x : Nat × Nat) : Bool :=
  (0x01000000 ≤ x.1 && x.1 + x.2 ≤ 0x03000000) || (0x100000000 ≤ x.1 && x.1 + x.2 ≤ s.cellarEnd)

/-- The item meets a span. -/
def meets (x : Nat × Nat) (lo hi : Nat) : Bool := decide (x.1 < hi) && decide (lo < x.1 + x.2)

/-- The item meets a fixed area of R386, the configuration hold or the top 64 MiB of the Cellar. -/
def State.itemFixed (s : State) (x : Nat × Nat) : Bool :=
  meets x 0x01000000 0x02000000 || meets x 0x02F40000 0x02F6C000 || meets x 0x02FA0000 0x03000000 ||
  meets x (s.cellarEnd - 0x14000000) s.cellarEnd

/-- An entry of the Churn channel table breaks a rule of R149 other than its Load rule. -/
def badPlan (l fs : Nat) (e : List Byte) : Bool :=
  let cover := leAt e 0 4
  let ng := leAt e 4 1
  let g (i : Nat) : Nat × Nat × Nat × Nat :=
    let d := leAt e (0x20 + 8 * i) 8
    (l * 2 ^ bitsOf d 0 4, bitsOf d 8 8, bitsOf d 32 32, bitsOf d 0 4)
  ng != 0 && (ng > 28 ||
    (List.range ng).any (fun i =>
      let x := g i
      x.2.2.2 > 10 || x.1 > 16384 || x.2.1 < 1 || x.2.2.1 % x.1 != 0 ||
      (i == 0 && (x.1 != l || x.2.2.1 != l || x.2.1 > 3)) ||
      (i != 0 && (x.2.2.1 != (g (i - 1)).2.2.1 + (g (i - 1)).2.1 * (g (i - 1)).1 || x.1 < (g (i - 1)).1 ||
        x.1 < 2 * l || x.2.2.1 < 2 * x.1))) ||
    cover > 10 * fs + 16384 || cover != (List.range ng).foldl (fun a i => a + (g i).2.1 * (g i).1) l)

/-- What the groups (P_g, M_g) of a plan in use take (R149): Churn cycles, and Cellar traffic in eighths of a byte per
sample: 2 × M_g records of 4.0625 × P_g bytes and 4 × P_g samples a hop for each Cellar group, and the input ring (R161). -/
def planLoad (gs : List (Nat × Nat)) : Nat × Nat :=
  ((gs.map fun g => Config.churnCycles g.1 g.2).sum, 32 + ((gs.drop 1).map fun g => 65 * g.2 + 128).sum)

/-- The groups of a channel-table entry. -/
def planGroups (l : Nat) (e : List Byte) : List (Nat × Nat) :=
  (List.range (leAt e 4 1)).map fun g => let d := leAt e (0x20 + 8 * g) 8; (l * 2 ^ bitsOf d 0 4, bitsOf d 8 8)

/-- The canonical plan of 10 s for a rate (R161). -/
def canonicalGroups (l fs : Nat) : List (Nat × Nat) :=
  ((l, 3) :: (List.range (9 - (l / 16).log2)).map fun j => (l * 2 ^ (j + 1), 2)) ++
    [(16384, (10 * fs - 32768 + 16383) / 16384)]

/-- All plans of a channel table need more Churn cycles or Cellar bandwidth than the canonical plans on every channel (the
Load rule of R149). -/
def overLoad (k fs : Nat) (t : List Byte) : Bool :=
  let used := ((List.range (t.length / 256)).map fun v => t.drop (256 * v)).filter fun e => leAt e 4 1 != 0
  let sum := (used.map fun e => planLoad (planGroups (16 * k) e))
  let one := planLoad (canonicalGroups (16 * k) fs)
  used != [] && (decide (128 / k * one.2 < (sum.map (·.2)).sum) || decide (128 / k * one.1 < (sum.map (·.1)).sum))

/-- Entries of a pair map: (address, length, class). -/
def mapEntries (m : List Byte) : List (Nat × Nat × Nat) :=
  (List.range (leAt m 0 4)).map fun i => (leAt m (16 + 16 * i) 5, leAt m (24 + 16 * i) 4, leAt m (28 + 16 * i) 1)

/-- The check of a pair map as NBR_MAP gives it (R342, R364): 0 accepted, 1 a format error, 2 entries that overlap or leave the
Granary, the Mill stores and the Cellar, 3 a hot_bound above 2 MiB. -/
def State.mapCheck (s : State) (m : List Byte) : Nat :=
  let es := mapEntries m
  let inside (e : Nat × Nat × Nat) : Bool := s.itemInside (e.1, e.2.1) || (0x08000000 ≤ e.1 && e.1 + e.2.1 ≤ 0x09000000)
  if m.length < 16 ∨ m.length < 16 + 16 * leAt m 0 4 ∨
    es.any (fun (e : Nat × Nat × Nat) => e.1 % 256 != 0 || e.2.1 % 256 != 0 || (e.2.2 != 1 && e.2.2 != 2)) then 1
  else if es.any (fun e => !inside e) ∨
    es.zipIdx.any (fun (e : (Nat × Nat × Nat) × Nat) => (es.take e.2).any fun f => meets (e.1.1, e.1.2.1) f.1 (f.1 + f.2.1)) then 2
  else if 0x200000 < leAt m 4 4 then 3 else 0

/-- The engine rate of a rate key. -/
def keyFs (key : Nat) : Nat := (if key % 2 = 1 then 44100 else 48000) * 2 ^ (key / 2 % 4)

/-- The rule of R495 that a container breaks first, counted from 1 in the order listed there; 0 where none. -/
def State.cfgCheck (s : State) (c : List Byte) : Nat :=
  let key := cfgKey c
  let k := 2 ^ (key / 2 % 4)
  let secs := cfgSections c
  let count (ty : Nat) : Nat := (secs.filter fun x => x.1 == ty).length
  let items := layoutItems c k
  if !(leAt c 0 4 == 0x47464E43 && leAt c 4 2 == 1 && leAt c 8 4 == c.length && leAt c 0xC 4 == crc32 (zeroedAt c 0xC 4) &&
       key / 2 % 4 != 3 && 2 ≤ leAt c 7 1 && leAt c 7 1 ≤ 16 && c.length ≤ 40 * 2 ^ 20) then 1
  else if count 1 ≠ 1 ∨ count 2 ≠ 1 ∨ count 3 ≠ 1 ∨ 1 < count 4 ∨ 1 < count 5 ∨ 8 < count 6 ∨ 1 < count 7 then 2
  else if secs.any (fun x => decide (c.length < x.2.1 + x.2.2.1)) || items.any (fun x => !s.itemInside x) then 3
  else if items.any s.itemFixed then 4
  else if (milCheck ((cfgSection c 1).getD []) key).1 ≠ 0 then 5
  else if (match cfgSection c 4 with
      | some t => ((List.range (t.length / 256)).any fun v => badPlan (16 * k) (keyFs key) (t.drop (256 * v))) ||
          overLoad k (keyFs key) t
      | none => false) then 6
  else if (match cfgSection c 5 with | some m => s.mapCheck m != 0 | none => false) then 7
  else if decide (layoutWord c 0 < ((cfgSection c 3).getD []).length) then 8
  else 0

/-- A refused configuration whose Mill image fails R203: MIL_LOAD names the check and the Mill, and load_error sets. The check
of a refused pair map shows in NBR_MAP while no configuration is in force (R342). -/
def State.loadRefused (s : State) (c : List Byte) : State :=
  let k := milCheck ((cfgSection c 1).getD []) (cfgKey c)
  if s.cfgCheck c = 5 then ((s.wr F.MIL_LOAD_code k.1).wr F.MIL_LOAD_mill k.2).raise 0x040 6
  else if s.cfgCheck c = 7 ∧ s.boot.inForce = [] then s.wr F.NBR_MAP_value (s.mapCheck ((cfgSection c 5).getD []))
  else s

/-- The Reeve was started from recovery and no image is CONFIRMED in the flash yet: it loads no configuration (R486). -/
def State.unconfirmed (s : State) : Bool := s.on F.SYS_BOOT_recovery && s.boot.slot0.state != 4 && s.boot.slot1.state != 4

/-- The rate key of SYS_MODE in force: family and multiple. -/
def State.rateKey (s : State) : Nat := s.rd F.ENG_RATE_family + 2 * s.rd F.ENG_RATE_multiple

/-- The configuration held for a rate key (R494). -/
def State.heldCfg (s : State) (key : Nat) : Option (List Byte) := assoc? s.boot.held key

/-- The held configuration that an engine start can load for a rate (DEDUCED of R486, log entry 63). -/
def State.startCfg (s : State) (key : Nat) : Option (List Byte) := if s.unconfirmed then none else s.heldCfg key

end Sys2Proof.Machine
end

