-- ==== Sys2Proof/Machine/MillProg.lean ====
section
/-! DEFINITION. Mill programs and schedules (chapter 7): block starts, transfers, the end-of-Work decision with its
substitutions, aborts and reloads, and the debug controls. -/
namespace Sys2Proof.Machine

/-- Mills with a loaded program. -/
def State.loadedMills (s : State) : List Nat := (List.range 16).filter fun n => s.rd F.MIL_STATE_state n != 0

/-- The block in Work now (R20): the one whose Work period began at the latest boundary. -/
def State.workBlock (s : State) : Nat := s.now / s.blockLen - 1

/-! ### Waits and transfers (R182, R196–R198) -/

/-- A wait that is satisfied ends, and the bundle that waited is complete. -/
def State.millWake (s : State) (n : Nat) : State :=
  let m := s.mill n
  let go (t : State) : State := t.millAdvance n
  match m.wait with
  | .none => s
  | .tail => if s.mil.tail then go (s.setMill n { m with wait := .none }) else s
  | .xfers => if m.xfersDone then go (s.setMill n { m with wait := .none }) else s
  | .room a => if m.xfers.length < 64 then go ((s.setMill n { m with wait := .none }).queueXfer n a) else s

/-- A transfer's bytes are written: a locked bank drops them, and a full hold buffer makes them wait (R111, R389). -/
def State.xferWrite (s : State) (n dst : Nat) (data : List Byte) : State :=
  let room := s.newHolds dst data.length
  if (bankOf dst).any s.bankLocked then s.lockDrop
  else if s.memx.hold.length + room.length > 16384 then s.queueHold ⟨.reeve, 100 + n, dst, data⟩
  else (s.keepHolds room).engineStore dst data

/-- A transfer of Mill `n` moves its bytes: none where its target answers with an error. -/
def State.moveXfer (s : State) (n : Nat) (t : MXfer) : Option State :=
  let loc := 0x08000000 + n * 0x100000 + t.local'
  let src := if t.out then loc else t.far
  let dst := if t.out then t.far else loc
  if (inGranary t.far && !s.bankOn t.far) || (wordsOf src t.len).any s.poisoned then none
  else
    let data := s.bytes src t.len
    some ((bankPieces dst data).foldl (fun (u : State) p => u.xferWrite n p.1 p.2) s)

/-- XFER_COMPLETE (R196, R197): the transfer at `index` of those in flight completes and its range is released; a fabric
error (`err`) sets XFER_ERR. -/
def execXferComplete (mill index : Nat) (err : Bool) (s : State) : Host.Outcome State Fault Refusal :=
  let m := s.mill mill
  .next (match m.xfers[index]? with
    | none => s
    | some t =>
      let s1 := s.setMill mill { m with xfers := m.xfers.eraseIdx index }
      let s2 := match (if err then none else s1.moveXfer mill t) with
        | some u => u
        | none =>
          let v := s1.setMill mill { s1.mill mill with msw := (s1.mill mill).msw ||| 32 }
          if !err && !t.out && inGranary t.far && s1.bankOn t.far then v.eccEngine t.far else v
      s2.millWake mill)

/-- TAIL_READY (R154, R198): at the tail-ready point the tails of the block in Work are complete and stand in the
channels' Granary areas; the late segments start and WAITE 0 is satisfied. -/
def execTailReady (s : State) : Host.Outcome State Fault Refusal :=
  let s1 := s.chn.tails.foldl (fun (t : State) (e : Nat × List Int) =>
    let a := t.chanGranary (e.1 / 2) + 512 + 256 * (e.1 % 2)
    t.engineBytes a (e.2.foldr (fun x acc => leBytes 4 (unsigned 32 x) ++ acc) [])) s
  let s2 := { s1 with mil := { s1.mil with tail := true }, chn := { s1.chn with tailReady := true } }
  .next ((List.range 16).foldl State.millWake s2)

/-! ### Block starts (R170, R221, R226–R228) -/

/-- MSW goes to the MIL page (R199). -/
def State.handMsw (s : State) (n : Nat) : State :=
  let m := s.mill n
  let s1 := s.wr F.MIL_MSW_msw m.msw n
  (s1.wr F.MIL_MSW_ACC_msw (s1.rd F.MIL_MSW_ACC_msw n ||| m.msw) n).setMill n { m with handed := true }

/-- Block words 2 and 3 of block `b`: the swap offset in the swap block, and in later blocks the time since S, until the swap is
complete (R195). -/
def State.swapPlace (s : State) (b : Nat) : Nat × Nat :=
  let l := s.blockLen
  match s.scn.desc with
  | some d => if d.s / l = b then (d.s % l, 0xFFFFFFFF)
    else if d.s / l < b then (0xFFFFFFFF, (b * l - d.s) % 2 ^ 32) else (0xFFFFFFFF, 0xFFFFFFFF)
  | none => (0xFFFFFFFF, 0xFFFFFFFF)

/-- Block `b` starts on an idle Mill (R170). -/
def State.millRun (s : State) (n b : Nat) : State :=
  let s1 := if (s.mill n).handed then s else s.handMsw n
  let m := s1.mill n
  let fresh : Mill := { Mill.fresh with
    busy := true, block := b, scene := s.rd F.ENG_SCENE_COUNT_scene_count, route := s.rd F.ENG_ROUTE_COUNT_route_count,
    swapOfs := (s.swapPlace b).1, sinceSwap := (s.swapPlace b).2, handed := false, xfers := m.xfers, skipped := m.skipped, debugged := m.debugged, missed := m.missed, clean := m.clean,
    ramp := m.ramp }
  ((s1.setMill n fresh).wr F.MIL_DBG_PC_pc 0 n).wr F.MIL_DBG_PC_depth 0 n

/-- The block-start event of block `b` at Mill `n`: it runs, is skipped, or is left out by the debugger or a hang. -/
def State.millBlockStart (s : State) (n b : Nat) : State :=
  let m := s.mill n
  let st := s.rd F.MIL_STATE_state n
  let dbg (t : State) : State := t.setMill n { t.mill n with debugged := (t.mill n).debugged ++ [b] }
  if st = 0 then s
  else if st = 5 then
    if m.reloaded then ((s.setMill n { m with aborted := false, reloaded := false }).wr F.MIL_STATE_state 1 n).millRun n b
    else s
  else if m.busy then (if st = 4 then dbg s else s.setMill n { m with skipped := m.skipped ++ [b] })
  else if st = 2 then
    if m.stepNext then
      let t := ((s.setMill n { m with stepNext := false }).wr F.MIL_STATE_state 3 n).millRun n b
      dbg (t.setMill n { t.mill n with stepping := true })
    else dbg s
  else s.millRun n b

/-- A hung Mill runs again: its fault ends once no Mill is hung (R511). -/
def State.millHungEnds (s : State) : State :=
  if (List.range 16).any fun n => s.rd F.MIL_STATE_state n == 5 then s else s.faultInactive 0x06

/-- Every Mill takes the block-start event of block `b`. -/
def State.millStarts (s : State) (b : Nat) : State :=
  ((List.range 16).foldl (fun (t : State) n => t.millBlockStart n b)
    { s with mil := { s.mil with tail := false, frames := [] } }).millHungEnds

/-! ### The end of Work (R155, R218–R224) -/

/-- Marks of the schedule: those with a bundle on Mill `n`. -/
def State.marksUsed (s : State) (n : Nat) : List Nat := (List.range 8).filter fun k => s.on F.MIL_MARK_PC_used n k

/-- The first mark of a Mill that was not met (R205). -/
def State.markMissed (s : State) (n : Nat) (t : MillTimes) : Option Nat :=
  (s.marksUsed n).find? fun k => match t.marks[k]? with
    | some c => decide (s.rd F.MIL_MARK_END_end 0 k < c)
    | none => true

/-- The own causes of a Mill in block `b` (R218), lowest code first, and cause 0x8 of the debugger (R226). -/
def State.ownCauses (s : State) (n b : Nat) (t : Option MillTimes) : List Nat :=
  let m := s.mill n
  if s.rd F.MIL_STATE_state n = 0 then []
  else if m.skipped.contains b then [6]
  else if m.aborted then [7]
  else
    let ran := m.block == b
    let late := match t with | some x => (match x.eob with | some e => decide (32112 < e) | none => true) | none => false
    let mark := match t with | some x => (s.markMissed n x).isSome | none => false
    (if ran && late then [1] else []) ++ (if ran && mark then [2] else []) ++
    (if m.xfers.any fun x => x.block == b then [3] else []) ++
    (if ran && bitsOf m.msw 2 4 != 0 then [4] else []) ++ (if m.debugged.contains b then [8] else [])

/-- All causes with the dependent ones: 5 for a producer with cause 2, 4, 6 or 7, and 8 for a dependant of a debugged Mill. -/
def State.allCauses (s : State) (own : Nat → List Nat) (n : Nat) : List Nat :=
  if s.rd F.MIL_STATE_state n = 0 then []
  else
    let dep (f : Nat → Bool) : Bool := (List.range 16).any fun p => p != n && bitAt (s.rd F.MIL_DEPEND_mask n) p && (own p).any f
    own n ++ (if dep fun c => c == 2 || c == 4 || c == 6 || c == 7 then [5] else []) ++
      (if dep (fun c => c == 8) && !(own n).contains 8 then [8] else [])

/-- The measurements of a Mill's Work period go to its page (R229). -/
def State.millMeasures (s : State) (b : Nat) (t : MillTimes) : State :=
  let n := t.mill
  if n ≥ 16 ∨ (s.mill n).block ≠ b then s
  else
    let e := t.eob.getD 0xFFFF
    let s1 := ((s.wr F.MIL_LAST_EOB_eob e n).peak F.MIL_PEAK_eob e n).wr F.MIL_LAST_CYC_cycles t.cycles n
    (s.marksUsed n).foldl (fun (u : State) k =>
      let slack := match t.marks[k]? with | some c => u.rd F.MIL_MARK_END_end 0 k - c | none => 0
      if slack < u.rd F.MIL_SLACK_slack n then (u.wr F.MIL_SLACK_slack slack n).wr F.MIL_SLACK_mark k n else u) s1

/-- A miss of Mill `n` in block `b` is counted, held as the first since the last read, raised and recorded (R218, R224). -/
def State.recordMiss (s : State) (n b : Nat) (causes : List Nat) (mark producer : Nat) : State :=
  let c := causes.headD 0
  let own := causes.any fun x => x != 5 && x != 8
  let dep := causes.contains 5
  let esi := b * s.blockLen % 2 ^ 32
  let s1 := if s.on F.MIL_MISS_INFO_valid n then s else
    ((((s.wr F.MIL_MISS_INFO_cause c n).wr F.MIL_MISS_INFO_mark (if c = 2 then mark else 0) n).wr
      F.MIL_MISS_INFO_producer (if c = 5 then producer else 0) n).wr F.MIL_MISS_INFO_valid 1 n).wr F.MIL_MISS_ESI_esi esi n
  let s2 := if own then (s1.bump F.MIL_MISS_own 1 n).raise (0x040 + n) 0 else s1
  let s3 := if dep then (s2.bump F.MIL_MISS_dependent 1 n).raise (0x040 + n) 1 else s2
  let s4 := if causes.contains 4 then s3.raise (0x040 + n) 2 else s3
  s4.rollHw (0x040 + n) c n esi

/-- The decision for one Mill: its history and its four-block ramp (R219, R222, R224). -/
def State.decideMill (s : State) (n b : Nat) (causes : List Nat) (mark producer : Nat) : State :=
  let m := s.mill n
  let own := causes.any fun x => x != 5 && x != 8
  let past := (own :: m.missed).take 64
  let tidy := { m with missed := past, skipped := m.skipped.filter (fun x => decide (b < x)),
                       debugged := m.debugged.filter (fun x => decide (b < x)) }
  if causes = [] then
    let s1 := s.setMill n { tidy with clean := min (m.clean + 1) 64, ramp := m.ramp - 1 }
    if m.ramp = 0 then s1
    else if m.ramp = 1 then (s1.wr F.MIL_STATE_recovering 0 n).raise (0x040 + n) 5
    else s1.wr F.MIL_STATE_recovering 1 n
  else
    let s1 := (s.setMill n { tidy with clean := 0, ramp := 4 }).wr F.MIL_STATE_recovering 0 n
    let s2 := s1.recordMiss n b causes mark producer
    if own && 8 ≤ (past.filter id).length then s2.raiseFault 0x03 true n else s2

/-- The substitute of a source of block `b` with a SAFE_MUTE tag as its Mill's own tag would have been (R220). -/
def State.substituteSource (s : State) (b src : Nat) : State :=
  let r := s.substitute b src
  let e := s.epochsOf b
  r.2.putBlock b src r.1 (mkTag src s.rateClass ((b - s.srcLatency src) * s.blockLen) e.1 e.2 4 false s.originBit)

/-- A good block of a Work-stage source under a four-block ramp (R220, R222). -/
def State.rampSource (s : State) (b src : Nat) : State :=
  let r := s.goodBlock src (s.srcBlock b src)
  let t := s.srcTag b src
  r.2.putBlock b src r.1.1 (setBitsOf t 5 3 (condMerge (tagCond t) r.1.2.1))

/-- END_OF_WORK (R155, R218–R222, R224): at the end of the Work period of block b the measurements and MSW are handed
over, every Mill's misses are decided, and the sources of missing Mills and late tails are substituted. `times` holds
what was measured of the Mills' programs; a Mill it does not name finished on time (log entry 25). `lateTails` are the
channels whose tail was incomplete at the combine. -/
def execEndOfWork (times : List MillTimes) (lateTails : List Nat) (s : State) : Host.Outcome State Fault Refusal :=
  if !s.running ∨ s.now % s.blockLen ≠ 0 ∨ s.now < 2 * s.blockLen then .next s
  else
    let b := s.now / s.blockLen - 2
    let timeOf (n : Nat) : Option MillTimes := times.find? fun t => t.mill == n
    let own (n : Nat) : List Nat := s.ownCauses n b (timeOf n)
    let all (n : Nat) : List Nat := s.allCauses own n
    let s1 := times.foldl (fun (t : State) x => t.millMeasures b x) s
    -- programs end, MSW is handed over; a program without EOB runs on and its source writes are dropped
    let s2 := (List.range 16).foldl (fun (t : State) n =>
      let m := t.mill n
      let ends := match timeOf n with | some x => x.eob.isSome | none => t.rd F.MIL_STATE_state n == 1 || t.rd F.MIL_STATE_state n == 3
      let t1 := if m.busy && ends then t.millEnd n else if m.busy then t.setMill n { m with overrun := true } else t
      if !(t1.mill n).busy && !(t1.mill n).handed then t1.handMsw n else t1) s1
    let s3 := s.loadedMills.foldl (fun (t : State) n =>
      let mark := ((timeOf n).bind (s.markMissed n)).getD 0
      let producer := ((List.range 16).find? fun p => p != n && bitAt (s.rd F.MIL_DEPEND_mask n) p &&
        (own p).any fun c => c == 2 || c == 4 || c == 6 || c == 7).getD 0
      t.decideMill n b (all n) mark producer) s2
    -- Mill instability ends after 64 clean blocks
    let s4 := if s3.loadedMills.all fun n => (s3.mill n).clean == 64 then s3.faultInactive 0x03 else s3
    let missing := s.loadedMills.filter fun n => all n != []
    let lateSrcs := (lateTails.filter fun v => v < 128 / s.mult).map s.chanSource
    let bad := ((if missing = [] then [] else
      (List.range (13696 / s.mult)).filter fun src => missing.any fun n => s.owns n src) ++ lateSrcs).eraseDups
    let ramping := (s.mil.subst.map (·.1)).filter fun src => workSource s.mult src && !bad.contains src
    let s5 := lateTails.foldl (fun (t : State) v =>
      ((((t.bump F.CHN_LATE_blocks).when (t.rd F.CHN_LATE_blocks == 0) (·.wr F.CHN_LATE_channel v))).raise 0x050 3).raiseFault 0x0A false v) s4
    let s6 := bad.foldl (fun (t : State) src => t.substituteSource b src) s5
    .next (ramping.foldl (fun (t : State) src => t.rampSource b src) s6)

/-- MILL_ABORT (R223): a program without EOB by the Work start event of block n + 4 is aborted and the Mill hangs. -/
def execMillAbort (mill : Nat) (s : State) : Host.Outcome State Fault Refusal :=
  let m := s.mill mill
  .next (if s.running ∧ mill < 16 ∧ m.busy ∧ m.block + 4 ≤ s.workBlock ∧ s.rd F.MIL_STATE_state mill ≠ 4 then
      let m1 := { m with busy := false, wait := .none, xfers := [], aborted := true, reloaded := false,
                         skipped := m.skipped.filter fun x => decide (x < m.block + 4) }
      (((s.setMill mill m1).wr F.MIL_STATE_state 5 mill).raise (0x040 + mill) 4).raiseFault 0x06 true mill
    else s)

/-- The long state of the strips and channels a Mill serves starts anew (R223): filters, detectors and histories zero, the ramps
of their words and of their sends settled, no dual-run or tap crossfade. -/
def State.clearServed (s : State) (n : Nat) : State :=
  let served (key : Nat) : Bool := s.owns n (s.stripSource key)
  let strips := s.scn.strips.map fun (e : Nat × Strip) =>
    if served e.1 then (e.1, { e.2 with proc := Proc.zero, duals := [], tapFades := [], line := [], taps := [], heard := [] }) else e
  let inRec (o : Nat) : Bool := s.scn.strips.any fun e => served e.1 && ((s.recBase e.1 ≤ o && o < s.recBase e.1 + 512) ||
    (s.receivers e.1).any fun b => (s.sendForm e.1 b).any fun (f : SendForm) => f.levelAt == o)
  { s with scn := { s.scn with strips := strips, ramps := s.scn.ramps.filter (fun (e : Nat × Ramp) => !inRec e.1),
                               panRamps := s.scn.panRamps.filter (fun (e : Nat × PanRamp) => !inRec e.1) },
           chn := { s.chn with past := s.chn.past.filter fun (e : Nat × List Int) => !s.owns n (s.chanSource e.1) } }

/-- MILL_RELOAD_DONE (R223): the Reeve has reloaded program and store from the configuration in force and cleared the
Mill's histories; the Mill restarts at the next block-start event. -/
def execMillReloadDone (mill : Nat) (s : State) : Host.Outcome State Fault Refusal :=
  .next (if mill < 16 ∧ s.rd F.MIL_STATE_state mill = 5 then
      let s1 := match cfgSection s.boot.inForce 1 with
        | some img => s.loadMill img mill
        | none => s
      let s2 := s1.clearServed mill
      s2.setMill mill { s2.mill mill with reloaded := true }
    else s)

/-! ### Debugging (R225–R228) -/

/-- Maintenance service is in force. -/
def State.maintenance (s : State) : Bool := s.rd F.SYS_MODE_STATE_service == 2

/-- A debug write outside Maintenance is ignored and counted (R225). -/
def State.debugRefused (s : State) (n : Nat) : State := (s.bump F.MIL_DBG_REFUSED_count 1 n).raise (0x040 + n) 7

/-- A Mill leaves the halted state: it takes block starts again. -/
def State.millResume (s : State) (n : Nat) : State :=
  if s.rd F.MIL_STATE_state n = 2 ∧ !s.on F.FLT_STATE_fatal then s.wr F.MIL_STATE_state 1 n else s

/-- The plain fields of a MIL_DEBUG write. -/
def State.debugFields (s : State) (n v : Nat) : State :=
  (s.wr F.MIL_DEBUG_bp_pc (bitsOf v 5 13) n).wr F.MIL_DEBUG_bp_hit (bitsOf v 18 10) n

/-- halt written: with 1 the Mill halts at EOB, at once when it is idle; with 0 it resumes (R226, R228). -/
def State.haltWrite (s : State) (n v : Nat) : State :=
  let s1 := s.wr F.MIL_DEBUG_halt (bitsOf v 0 1) n
  if bitAt v 0 then
    if s1.rd F.MIL_STATE_state n = 1 ∧ !(s1.mill n).busy then (s1.wr F.MIL_STATE_state 2 n).raise (0x040 + n) 3 else s1
  else s1.millResume n

/-- step written (R226). -/
def State.stepWrite (s : State) (n : Nat) : State :=
  if s.rd F.MIL_STATE_state n = 2 then s.setMill n { s.mill n with stepNext := true } else s

/-- A frozen Mill issues again: as a stepped block where it was one (R226, R227). -/
def State.contWrite (s : State) (n : Nat) : State :=
  if s.rd F.MIL_STATE_state n = 4 then s.wr F.MIL_STATE_state (if (s.mill n).stepping then 3 else 1) n else s

/-- bstep written: exactly one bundle issues and the Mill freezes again; an EOB ends the program; while the bundle issued before
waits, no bundle can issue (R182, R227). -/
def State.bstepWrite (s : State) (n : Nat) : State :=
  if s.rd F.MIL_STATE_state n = 4 ∧ (s.mill n).wait = .none then
    let s1 := (s.contWrite n).issueBundle n
    if (s1.mill n).busy then s1.wr F.MIL_STATE_state 4 n else s1
  else s

/-- A write of MIL_DEBUG of Mill `n` (R225–R227). -/
def State.millDebugWrite (s : State) (n v : Nat) : State :=
  if n ≥ 16 then s
  else if !s.maintenance then
    if bitsOf v 0 5 = 0 then (((s.wr F.MIL_DEBUG_halt 0 n).wr F.MIL_DEBUG_bp_en 0 n).debugFields n v).millResume n
    else s.debugRefused n
  else
    let s1 := ((s.wr F.MIL_DEBUG_bp_en (bitsOf v 2 1) n).debugFields n v).haltWrite n v
    let s2 := if bitAt v 1 then s1.stepWrite n else s1
    let s3 := if bitAt v 3 then s2.contWrite n else s2
    if bitAt v 4 then s3.bstepWrite n else s3

/-- HALT (R226): a write of MIL_DEBUG that gives halt. -/
def execHalt (mill : Nat) (value : Word) (s : State) : Host.Outcome State Fault Refusal := .next (s.millDebugWrite mill value.toNat)

/-- MILL_STEP (R226): a write of MIL_DEBUG with step. -/
def execMillStep (mill : Nat) (value : Word) (s : State) : Host.Outcome State Fault Refusal := .next (s.millDebugWrite mill value.toNat)

/-- BP_EN (R227): a write of MIL_DEBUG that arms the breakpoint. -/
def execBpEn (mill : Nat) (value : Word) (s : State) : Host.Outcome State Fault Refusal := .next (s.millDebugWrite mill value.toNat)

/-- CONT (R227): a write of MIL_DEBUG with cont. -/
def execCont (mill : Nat) (value : Word) (s : State) : Host.Outcome State Fault Refusal := .next (s.millDebugWrite mill value.toNat)

/-- BSTEP (R227): a write of MIL_DEBUG with bstep. -/
def execBstep (mill : Nat) (value : Word) (s : State) : Host.Outcome State Fault Refusal := .next (s.millDebugWrite mill value.toNat)

/-- BREAKPOINT_FREEZE (R227): with bp_en set, the Mill freezes before it issues the (bp_hit + 1)-th issue of the bundle at
bp_pc in the block. -/
def execBreakpointFreeze (mill : Nat) (s : State) : Host.Outcome State Fault Refusal :=
  let m := s.mill mill
  .next (if mill < 16 ∧ m.busy ∧ s.on F.MIL_DEBUG_bp_en mill ∧ m.pc = s.rd F.MIL_DEBUG_bp_pc mill ∧
      m.bpSeen = s.rd F.MIL_DEBUG_bp_hit mill ∧ (s.rd F.MIL_STATE_state mill = 1 ∨ s.rd F.MIL_STATE_state mill = 3) then
      ((s.setMill mill { m with debugged := if m.debugged.contains m.block then m.debugged else m.debugged ++ [m.block] }).wr
        F.MIL_STATE_state 4 mill).raise (0x040 + mill) 3
    else s)

/-- Leaving Maintenance, every halted or frozen Mill resumes, a stepped block among them, and halt and bp_en clear; so does a
restart (R228). -/
def State.debugEnds (s : State) : State :=
  (List.range 16).foldl (fun (t : State) n =>
    let u := (t.wr F.MIL_DEBUG_halt 0 n).wr F.MIL_DEBUG_bp_en 0 n
    let u := u.setMill n { u.mill n with stepping := false, stepNext := false }
    let u := if u.rd F.MIL_STATE_state n = 3 then u.wr F.MIL_STATE_state 1 n else u.contWrite n
    u.millResume n) s

/-- The register MIL_DBG_SEL names, while the Mill is halted or frozen (R228, R229). -/
def State.millDbgData (s : State) (n : Nat) : Nat :=
  let m := s.mill n
  let r := s.rd F.MIL_DBG_SEL_reg n
  let l := s.rd F.MIL_DBG_SEL_lane n
  let p := s.rd F.MIL_DBG_SEL_part n
  if s.rd F.MIL_STATE_state n ≠ 2 ∧ s.rd F.MIL_STATE_state n ≠ 4 then 0
  else if r < 0x20 then m.get (.v r l)
  else if r < 0x28 then
    let a := m.get (.a (r - 0x20) l)
    if p = 0 then bitsOf a 0 32 else if p = 1 then bitsOf a 32 32 else if p = 2 then unsigned 32 (signed 16 (a / 2 ^ 64)) else 0
  else if 0x30 ≤ r ∧ r < 0x40 then m.get (.p (r - 0x30))
  else if 0x40 ≤ r ∧ r < 0x50 then m.get (.m (r - 0x40))
  else if 0x50 ≤ r ∧ r < 0x60 then m.get (.n (r - 0x50))
  else if 0x60 ≤ r ∧ r < 0x70 then m.get (.s (r - 0x60))
  else if r = 0x70 then m.bx
  else if r = 0x71 then m.msw
  else 0

end Sys2Proof.Machine
end

