-- ==== Sys2Proof/Machine/Apply.lean ====
section
/-! DEFINITION. Pending sets of staged registers: coming into force, refusal, cancelling and discarding (R466–R470). -/
namespace Sys2Proof.Machine

/-- The pending set of a page. -/
def State.pendOf (s : State) (page : Nat) : Option PendSet := s.pend.find? fun p => p.page == page

/-- A pending set has come due: its boundary is reached, or the engine is stopped without a configuration (R468). -/
def State.pendDue (s : State) (p : PendSet) : Bool :=
  if s.running then decide (p.due ≤ s.now) else s.rd F.SYS_MODE_STATE_phase == 5

/-- The pending set leaves; APPLY_RESULT takes `code` and apply_pending clears (R467). -/
def State.endPend (s : State) (page code : Nat) : State :=
  (({ s with pend := s.pend.filter fun p => p.page != page }.wr F.STATUS_apply_pending 0 page).wr F.APPLY_RESULT_code code page)

/-- The words of a set come into force on its page (R469). -/
def State.putInForce (s : State) (page : Nat) (copy : List (Nat × Word)) : State :=
  copy.foldl (fun (t : State) (e : Nat × Word) => t.setLive (page * 0x1000 + e.1) e.2) s

/-- A pending set comes into force from its boundary: DONE, or LATE with the late count and bit (R15, R470). -/
def State.enforce (s : State) (p : PendSet) : State :=
  let t := (s.putInForce p.page p.copy).endPend p.page (if p.late then 0x03 else 0x02)
  if p.late then t.markLate else t

/-- A value of a pending set, or of the in-force set where the pending set does not hold the word. -/
def PendSet.word (p : PendSet) (s : State) (off : Nat) : Word := (assoc? p.copy off).getD (s.liveReg (p.page * 0x1000 + off))

/-- Every word with RWS fields of a page, staged (R466). -/
def State.stagedSet (s : State) (page : Nat) : List (Nat × Word) :=
  (rowsOfPage page).foldr (fun (r : RegRow) acc => if r.rws = 0 then acc else
    ((List.range r.count).map fun (i : Nat) =>
      let off := r.off + r.stride * i
      (off, s.reg (page * 0x1000 + off) &&& BitVec.ofNat 32 r.rws)) ++ acc) []

/-- The page has RWS fields. -/
def hasStaged (page : Nat) : Bool := (rowsOfPage page).any fun r => r.rws != 0

/-- The staged set takes the in-force values (APPLY 0x2). -/
def State.unstage (s : State) (page : Nat) : State :=
  (rowsOfPage page).foldl (fun (t : State) (r : RegRow) => if r.rws = 0 then t else
    (List.range r.count).foldl (fun (u : State) (i : Nat) =>
      let k := page * 0x1000 + r.off + r.stride * i
      u.setReg k ((u.reg k &&& ~~~(BitVec.ofNat 32 r.rws)) ||| (u.liveReg k &&& BitVec.ofNat 32 r.rws))) t) s

end Sys2Proof.Machine
end

