-- ==== Sys2Proof/Machine/PortLine.lean ====
section
/-! DEFINITION. Port frames at the pins: the serial form of SAP, MADI and AES3 frames in both directions (R275, R277, R279,
R283–R287). -/
namespace Sys2Proof.Machine

/-- A port's settings (R275–R289). -/
structure PortCfg where
  inOn : Bool
  outOn : Bool
  leader : Bool
  format : Nat
  slots : Nat
  width : Nat
  word : Nat
  relation : Nat
  half : Bool
  target : Nat
  frame : Nat
  ch56 : Bool
  vMute : Bool
  doutZ : Bool
  /-- fs_delay, fs_width, fs_inv and bclk_inv, from bit 0: the form of FS and BCLK at the pins -/
  pins : Nat
  reserved : Bool
  inMask : Nat
  outMask : Nat
  deriving DecidableEq, Repr

/-- Sample frames that one port frame carries (R283). -/
def PortCfg.perFrame (c : PortCfg) : Nat := if c.frame = 2 then 2 else if c.frame = 3 then 4 else 1

/-- Engine samples for each port sample. -/
def PortCfg.step (c : PortCfg) : Nat := if c.half then 2 else 1

/-- A frame read from the line: slot or subframe words, subframes with code (or biphase) violations and with parity
errors, inactive subframes, V = 1 in some subframe, C of subframe 1, a Z preamble, and correct synchronisation. -/
structure LineFrame where
  words : List Nat
  codeErrs : List Nat
  parityErrs : List Nat
  inactive : List Nat
  invalid : Bool
  c : Bool
  z : Bool
  framed : Bool
  deriving DecidableEq, Repr

/-- A number from its bits, most significant first. -/
def msbFirst (l : List Bool) : Nat := l.foldl (fun (a : Nat) (b : Bool) => 2 * a + b2n b) 0

/-- The `n` low bits of a number, least significant first. -/
def lsbBits (n x : Nat) : List Bool := (List.range n).map (bitAt x)

/-- An odd number of ones. -/
def oddOnes (l : List Bool) : Bool := l.foldl (· != ·) false

/-! ### Serial audio -/

def PortCfg.fsInv (c : PortCfg) : Bool := bitAt c.pins 2
def PortCfg.bclkInv (c : PortCfg) : Bool := bitAt c.pins 3

/-- BCLK periods from the FS edge to the MSB of slot 0 (R275). -/
def PortCfg.msbDelay (c : PortCfg) : Nat := if c.format = 0 ∨ (c.format = 2 ∧ bitAt c.pins 0) then 1 else 0

/-- FS before the inversion of fs_inv during BCLK period `i` of a frame that a leader drives (R275, R276): half the frame
in I2S and left-justified formats, a pulse of one BCLK or one slot in TDM. -/
def PortCfg.fsLevel (c : PortCfg) (i : Nat) : Bool :=
  if c.format = 0 then decide (c.width ≤ i)
  else if c.format = 1 then decide (i < c.width)
  else decide (i < if bitAt c.pins 1 then c.width else 1)

/-- FS and data of BCLK period `i` as a follower samples them: an entry of the line holds DIN and FS at the rising edge in
bits 0 and 1, and at the falling edge in bits 2 and 3 (R277). -/
def PortCfg.dinAt (c : PortCfg) (line : List Nat) (i : Nat) : Bool := bitAt (line.getD i 0) (if c.bclkInv then 2 else 0)
def PortCfg.fsAt (c : PortCfg) (line : List Nat) (i : Nat) : Bool := bitAt (line.getD i 0) (if c.bclkInv then 3 else 1) != c.fsInv

/-- A SAP frame from its BCLK periods, the first at its FS edge, the last ones in the next frame. The frame is whole when
it begins at that edge and the next one comes after slots × slot width periods (R272, R275). -/
def sapFrame (c : PortCfg) (line : List Nat) : LineFrame :=
  let start := c.fsLevel 0
  let next := (List.range line.length).find? fun (i : Nat) => decide (0 < i) && c.fsAt line i == start && c.fsAt line (i - 1) != start
  { words := (List.range c.slots).map fun (n : Nat) =>
      msbFirst ((List.range c.word).map fun (b : Nat) => c.dinAt line (c.msbDelay + n * c.width + b)),
    codeErrs := [], parityErrs := [], inactive := [], invalid := false, c := false, z := false,
    framed := c.fsAt line 0 == start && next == some (c.slots * c.width) }

/-- The bits of a slot: the word in the first bits, MSB first, then zeros (R275). -/
def slotBits (c : PortCfg) (w : Nat) : List Bool := (lsbBits c.word w).reverse ++ List.replicate (c.width - c.word) false

/-- The BCLK periods of a SAP frame with slot words `words`, after a frame with words `last`. Bit 0 of an entry is DOUT,
bit 1 says that DOUT is driven (R279), bit 2 is FS at the pin, where a leader drives it, bit 3 says that the period begins
at the rising edge of BCLK, which launches the data (R277). -/
def sapLine (c : PortCfg) (last words : List (Option Nat)) : List Nat :=
  let bits (w : List (Option Nat)) : List Nat := (List.range c.slots).flatMap fun (n : Nat) => match w.getD n (some 0) with
    | some x => (slotBits c x).map fun (b : Bool) => b2n b + 2
    | none => List.replicate c.width 0
  let n := c.slots * c.width
  let data := (bits last).drop (n - c.msbDelay) ++ (bits words).take (n - c.msbDelay)
  data.zipIdx.map fun (x : Nat × Nat) =>
    x.1 + (if c.leader then 4 * b2n (c.fsLevel x.2 != c.fsInv) else 0) + 8 * b2n c.bclkInv

/-! ### MADI -/

/-- The 4B5B data symbols of 0 to 15 (PRESUMED from AES10, log entry 20). -/
def symbols45 : List Nat := [0x1E, 0x09, 0x14, 0x15, 0x0A, 0x0B, 0x0E, 0x0F, 0x12, 0x13, 0x16, 0x17, 0x1A, 0x1B, 0x1C, 0x1D]

/-- The two 5-bit groups of a sync symbol (log entry 20). -/
def syncPair : List Nat := [0x18, 0x11]

/-- Bits of a subframe as symbols of four bits each, the first bit of four the most significant. -/
def subframeSymbols (x : Nat) : List Nat :=
  (List.range 8).map fun (i : Nat) => symbols45.getD (msbFirst (lsbBits 4 (bitsOf x (4 * i) 4))) 0

/-- A subframe from its eight symbols, and whether one of them is no data symbol. -/
def symbolsSubframe (l : List Nat) : Nat × Bool :=
  (((l.zipIdx.map fun (x : Nat × Nat) => (msbFirst (lsbBits 4 ((symbols45.findIdx? (· == x.1)).getD 0))) * 2 ^ (4 * x.2)).foldl (· + ·) 0),
   l.any fun (x : Nat) => !symbols45.contains x)

/-- Subframes of a port frame. -/
def PortCfg.subframes (c : PortCfg) : Nat := c.slots * c.perFrame

/-- A MADI frame from the 5-bit symbols of its line: sync symbols are removed, the rest are subframes; synchronisation is
right when they are as many as the frame mode has, the first and no other with its frame-sync bit (R284). -/
def madiFrame (c : PortCfg) (line : List Nat) : LineFrame :=
  let data := line.filter fun (x : Nat) => !syncPair.contains x
  let subs := (List.range (data.length / 8)).map fun (i : Nat) => symbolsSubframe ((data.drop (8 * i)).take 8)
  let at' (i : Nat) : Nat := (subs.getD i (0, false)).1
  let pick (p : Nat → Bool) : List Nat := (List.range subs.length).filter p
  { words := subs.map fun (x : Nat × Bool) => bitsOf x.1 4 24,
    codeErrs := pick fun (i : Nat) => (subs.getD i (0, false)).2,
    parityErrs := pick fun (i : Nat) => !(subs.getD i (0, false)).2 && oddOnes (lsbBits 28 (at' i / 16)),
    inactive := pick fun (i : Nat) => !bitAt (at' i) 1,
    invalid := false, c := false, z := false,
    framed := data.length == 8 * c.subframes && (List.range subs.length).all fun (i : Nat) => bitAt (at' i) 0 == (i == 0) }

/-- Even parity in bit 31 over bits 4 to 31. -/
def evenParity (x : Nat) : Nat := x + 2 ^ 31 * b2n (oddOnes (lsbBits 27 (x / 16)))

/-- Subframe `i` of a MADI frame: bit 0 frame sync, bit 1 active, bit 2 the second of a pair, bit 3 block start (the
mode bits of AES10, log entry 20), audio in bits 4 to 27, V in bit 28, U and C 0, even parity (R283, R285). -/
def madiSubframe (i : Nat) (block valid : Bool) (w : Option Nat) : Nat :=
  match w with
  | none => b2n (i == 0)
  | some x => evenParity (b2n (i == 0) + 2 + 4 * (i % 2) + 8 * b2n block + 16 * (x % 2 ^ 24) + 2 ^ 28 * b2n (!valid))

/-- The symbols of a MADI frame: a sync symbol, then its subframes; sync symbols fill the line up to the next frame (R285). -/
def madiLine (block valid : Bool) (words : List (Option Nat)) : List Nat :=
  syncPair ++ (words.zipIdx.flatMap fun (x : Option Nat × Nat) => subframeSymbols (madiSubframe x.2 block valid x.1))

/-! ### AES3 -/

/-- The preambles X (subframe 1), Y (subframe 2) and Z (subframe 1, block start) as line levels after level 0 (log entry
20). -/
def preambleX : List Nat := [1, 1, 1, 0, 0, 0, 1, 0]
def preambleY : List Nat := [1, 1, 1, 0, 0, 1, 0, 0]
def preambleZ : List Nat := [1, 1, 1, 0, 1, 0, 0, 0]

/-- Biphase-mark levels of bits after level `l`: a transition at the start of every bit, and one in the middle of a one. -/
def biphase (l : Bool) : List Bool → List Nat
  | [] => []
  | b :: rest => b2n (!l) :: b2n (!l != b) :: biphase (!l != b) rest

/-- A subframe from its 64 line levels: preamble, bits in time slots 4 to 31, and whether a transition is missing. -/
def aesSubframe (levels : List Nat) : List Nat × Nat × Bool :=
  let inv := levels.getD 0 0 != 1
  let level (i : Nat) : Bool := (levels.getD i 0 == 1) != inv
  let bits := (List.range 28).map fun (i : Nat) => level (8 + 2 * i) != level (9 + 2 * i)
  ((List.range 8).map fun (i : Nat) => b2n (level i),
   (bits.zipIdx.map fun (x : Bool × Nat) => b2n x.1 * 2 ^ (x.2 + 4)).foldl (· + ·) 0,
   (List.range 28).any fun (i : Nat) => level (7 + 2 * i) == level (8 + 2 * i))

/-- An AES3 frame from its 128 line levels (R286). -/
def aesFrame (line : List Nat) : LineFrame :=
  let a := aesSubframe (line.take 64)
  let b := aesSubframe (line.drop 64)
  let pick (p : List Nat × Nat × Bool → Bool) : List Nat := (if p a then [0] else []) ++ (if p b then [1] else [])
  { words := [bitsOf a.2.1 4 24, bitsOf b.2.1 4 24],
    codeErrs := pick fun (x : List Nat × Nat × Bool) => x.2.2,
    parityErrs := pick fun (x : List Nat × Nat × Bool) => !x.2.2 && oddOnes (lsbBits 28 (x.2.1 / 16)),
    inactive := [], invalid := bitAt a.2.1 28 || bitAt b.2.1 28, c := bitAt a.2.1 30, z := a.1 == preambleZ,
    framed := line.length == 128 && (a.1 == preambleX || a.1 == preambleZ) && b.1 == preambleY }

/-- A subframe of an AES3 frame: 24 audio bits, V, U 0, C and even parity (R286, R287). -/
def aesBits (valid c : Bool) (w : Option Nat) : List Bool :=
  (lsbBits 28 (evenParity (16 * (w.getD 0 % 2 ^ 24) + 2 ^ 28 * b2n (!valid) + 2 ^ 30 * b2n c) / 16))

/-- The line levels of an AES3 frame. Even parity brings the line back to level 0 before each preamble. -/
def aesLine (valid c z : Bool) (words : List (Option Nat)) : List Nat :=
  (if z then preambleZ else preambleX) ++ biphase false (aesBits valid c (words.getD 0 none)) ++
  preambleY ++ biphase false (aesBits valid c (words.getD 1 none))

/-! ### The channel-status block of an engine start (R287) -/

/-- A professional block that states the port rate `rate` in Hz and a 24-bit word length, all else 0: byte 0 has bit 0 and
the basic rate, byte 2 the word length, byte 4 the rate where byte 0 cannot give it (layout of AES3, log entry 20). -/
def startStatus (rate : Nat) : Nat :=
  let base := if rate = 48000 then 0x80 else if rate = 44100 then 0x40 else 0
  let ext := if rate = 96000 then 2 else if rate = 192000 then 3 else if rate = 88200 then 10 else if rate = 176400 then 11 else 0
  1 + base + 0x2C * 2 ^ 16 + ext * 8 * 2 ^ 32

end Sys2Proof.Machine
end

