-- ==== Sys2Proof/Machine/Ports.lean ====
section
/-! DEFINITION. The local ports (chapter 9): serial audio, MADI and AES3, their FIFOs, locks, slips, masks and fades, the
ASRC bank and the 2:1 converters of Blend mode. -/
namespace Sys2Proof.Machine

/-! ### Keys, registers and settings -/

/-- Keys 0–15 are SAP0–15, 16–19 MADI0–3, 20–21 AES0–1. -/
def portKeys : List Nat := List.range 22

def isSap (k : Nat) : Bool := k < 16
def isMadi (k : Nat) : Bool := 16 ≤ k && k < 20

/-- The page of a port and the offset of its part of the page. -/
def portPage (k : Nat) : Nat := if isSap k then 0x080 + k else if isMadi k then 0x090 + (k - 16) else 0x094
def portOff (k : Nat) : Nat := if k < 20 then 0 else 0x80 * (k - 20)

/-- Fields of the status, counts, saturation and latency registers, which every kind has (R296–R298). -/
def portStatus (k lo w : Nat) : Fld := ⟨portPage k, (if isSap k then 0x04C else if isMadi k then 0x054 else 0x044) + portOff k, 0, lo, w⟩
def portCounts (k lo : Nat) : Fld := ⟨portPage k, (if isSap k then 0x050 else if isMadi k then 0x05C else 0x048) + portOff k, 0, lo, 16⟩
def portSat (k : Nat) : Fld := ⟨portPage k, (if isSap k then 0x054 else if isMadi k then 0x064 else 0x04C) + portOff k, 0, 0, 32⟩
def portLatency (k lo : Nat) : Fld := ⟨portPage k, (if isSap k then 0x058 else if isMadi k then 0x068 else 0x050) + portOff k, 0, lo, 16⟩

/-- The IRQ bit of event `b` (0 locked, 1 lost, 2 slip, 3 applied, 4 refused, 5 rx_error, 6 cs_change) of a port. -/
def portIrq (k b : Nat) : Nat :=
  if k < 20 then b
  else if b = 3 then 16 else if b = 4 then 17 else 8 * (k - 20) + (if b = 5 then 3 else if b = 6 then 4 else b)

def State.raisePort (s : State) (k b : Nat) : State := s.raise (portPage k) (portIrq k b)

/-- Read the settings of port `k` from words by page offset. -/
def portCfg (k : Nat) (get : Nat → Nat) : PortCfg :=
  if isSap k then
    let c := get 0x040
    { inOn := bitAt c 0, outOn := bitAt c 0, leader := bitAt c 1, format := bitsOf c 2 2, slots := bitsOf c 4 5 + 1,
      width := 16 + 8 * bitsOf c 9 2, word := 16 + 4 * bitsOf c 11 2, relation := bitsOf c 13 2, half := bitAt c 15,
      target := bitsOf c 21 5, frame := 0, ch56 := false, vMute := false, doutZ := bitAt c 20, pins := bitsOf c 16 4,
      reserved := bitsOf c 2 2 == 3 || bitsOf c 9 2 == 3 || bitsOf c 11 2 == 3 || bitsOf c 13 2 == 3,
      inMask := get 0x044, outMask := get 0x048 }
  else if isMadi k then
    let c := get 0x040
    { inOn := bitAt c 0, outOn := bitAt c 1, leader := false, format := 0,
      slots := if bitsOf c 2 2 = 0 then (if bitAt c 4 then 56 else 64) else if bitsOf c 2 2 = 3 then 16 else 32,
      width := 32, word := 24, relation := bitsOf c 5 2, half := bitAt c 7, target := bitsOf c 8 5, frame := bitsOf c 2 2,
      ch56 := bitAt c 4, vMute := false, doutZ := false, pins := 0, reserved := bitsOf c 5 2 == 3,
      inMask := get 0x044 + get 0x048 * 2 ^ 32, outMask := get 0x04C + get 0x050 * 2 ^ 32 }
  else
    let c := get (0x040 + portOff k)
    { inOn := bitAt c 0, outOn := bitAt c 1, leader := false, format := 0, slots := 2, width := 32, word := 24,
      relation := bitsOf c 2 2, half := bitAt c 4, target := bitsOf c 6 5, frame := 0, ch56 := false, vMute := bitAt c 5,
      doutZ := false, pins := 0, reserved := bitsOf c 2 2 == 3,
      inMask := if bitAt c 0 then 3 else 0, outMask := if bitAt c 1 then 3 else 0 }

/-- Settings in force. -/
def State.portNow (s : State) (k : Nat) : PortCfg := portCfg k fun (o : Nat) => (s.liveReg (portPage k * 0x1000 + o)).toNat

/-- Settings of a pending set. -/
def State.portNew (s : State) (k : Nat) (p : PendSet) : PortCfg := portCfg k fun (o : Nat) => (p.word s o).toNat

/-- The set bits of a mask, in ascending order: slot or channel of compacted position j (R279). -/
def maskSlots (m : Nat) : List Nat := (List.range 64).filter fun (i : Nat) => bitAt m i

/-- Positions of a port: 32 / k, 64 / k, or two (R44, R279). -/
def portPositions (mult k : Nat) : Nat := if isSap k then 32 / mult else if isMadi k then 64 / mult else 2

/-- First source and first destination of a port (R45, R46). -/
def portSource (mult k : Nat) : Nat :=
  if isSap k then 4096 / mult + 32 / mult * k else if isMadi k then 4608 / mult + 64 / mult * (k - 16) else 4864 / mult + 2 * (k - 20)
def portDest (mult k : Nat) : Nat :=
  if isSap k then 11904 / mult + 32 / mult * k else if isMadi k then 12416 / mult + 64 / mult * (k - 16)
  else 12672 / mult + 2 * (k - 20)

/-- A port that has not started. -/
def Port.zero : Port :=
  { inFifo := [], gather := [], outFifo := [], drain := [], hist := [], sentWords := [], sentVals := [], good := 0, period := 0, bad := 0,
    slips := [], outSlip := none, outCentre := false, joins := [], joinsOut := [], silentTo := none, ratio := 0, asrcLocked := false,
    csPos := none, csAcc := 0, rxCs := none, zPos := 0, txCs := 0 }

def State.port (s : State) (k : Nat) : Port := (assoc? s.ports.ports k).getD Port.zero
def State.setPort (s : State) (k : Nat) (p : Port) : State := { s with ports := ⟨assocPut s.ports.ports k p⟩ }

/-- The port is locked (R272). -/
def State.portLocked (s : State) (k : Nat) : Bool := s.on (portStatus k 1 1)

/-- The in-force set is enabled and the port is past any restart gap. -/
def State.portRuns (s : State) (k : Nat) : Bool :=
  s.running && (let c := s.portNow k; c.inOn || c.outOn) && (s.port k).silentTo.isNone

/-- Converters a port holds: one per set bit of its masks while its relation is asrc (R289). -/
def PortCfg.converters (c : PortCfg) : Nat :=
  if c.relation = 2 then
    (if c.inOn then (maskSlots c.inMask).length else 0) + (if c.outOn then (maskSlots c.outMask).length else 0)
  else 0

/-- Converters that ports other than those of page `p` hold. -/
def State.otherConverters (s : State) (p : Nat) : Nat :=
  (portKeys.filter fun (k : Nat) => portPage k != p).foldl (fun (n : Nat) (k : Nat) => n + (s.portNow k).converters) 0

/-- A port other than those of page `p` that has relation steer. -/
def State.otherSteers (s : State) (p : Nat) : Bool :=
  portKeys.any fun (k : Nat) => portPage k != p && (s.portNow k).relation == 1

/-! ### Checks (R295) -/

/-- The half-rate rule is broken. -/
def State.badRate (s : State) (c : PortCfg) : Bool := c.half && (!s.on F.ENG_RATE_blend || c.relation == 2)

/-- A mask breaks R279. -/
def State.badMask (s : State) (k : Nat) (c : PortCfg) : Bool :=
  [c.inMask, c.outMask].any fun (m : Nat) =>
    decide (portPositions s.mult k < (maskSlots m).length) || (maskSlots m).any fun (i : Nat) => decide (c.slots ≤ i)

/-- A SAP setting breaks R276. -/
def State.badSapFormat (s : State) (c : PortCfg) : Bool :=
  let k := if c.half then 1 else s.mult
  let bits := c.slots * c.width
  (if c.format = 2 then decide (c.slots < 2 ∨ 32 / k < c.slots) else c.slots != 2) || decide (c.width < c.word) ||
  decide (50000000 < bits * (s.fs / c.step)) ||
  (c.leader && (c.relation != 0 || 2 ^ c.slots.log2 != c.slots || c.width == 24 || decide (2048 / k / bits < 2)))

/-- A setting breaks R276 or R283, or uses a reserved code. -/
def State.badFormat (s : State) (k : Nat) (c : PortCfg) : Bool :=
  c.reserved || (isSap k && s.badSapFormat c) ||
  (isMadi k && ((if c.frame = 0 then !(s.mult == 1 || c.half) else c.half || (if c.frame = 3 then s.mult != 4 else s.mult != 2)) ||
    (c.ch56 && c.frame != 0)))

/-- The outcome code of a pending set of a port page: 0x02 where the check passes, else the first refusal that applies
in the order of the codes (log entry 26). -/
def State.portCheck (s : State) (page : Nat) (cs : List (Nat × PortCfg)) : Nat :=
  if cs.any fun (e : Nat × PortCfg) => s.badRate e.2 then 0x10
  else if cs.any fun (e : Nat × PortCfg) => s.badMask e.1 e.2 then 0x11
  else if cs.any fun (e : Nat × PortCfg) => s.badFormat e.1 e.2 then 0x12
  else
    let steers := (cs.filter fun (e : Nat × PortCfg) => e.2.relation == 1).length
    if 1 < steers ∨ (steers = 1 ∧ s.otherSteers page) then 0x13
    else if 64 < s.otherConverters page + cs.foldl (fun (n : Nat) (e : Nat × PortCfg) => n + e.2.converters) 0 then 0x14
    else if cs.any fun (e : Nat × PortCfg) => decide (e.2.target < 2 ∨ 16 < e.2.target) then 0x15
    else 0x02

/-- The ports of a page with their pending settings. -/
def State.pendingPorts (s : State) (p : PendSet) : List (Nat × PortCfg) :=
  (portKeys.filter fun (k : Nat) => portPage k == p.page).map fun (k : Nat) => (k, s.portNew k p)

/-- The settings of port `k` that come into force at boundary `b`, if a pending set due then passes its check. -/
def State.portChange (s : State) (k b : Nat) : Option PortCfg :=
  match s.pendOf (portPage k) with
  | some p => if p.due = b ∧ s.portCheck p.page (s.pendingPorts p) = 0x02 ∧ s.portNew k p ≠ s.portNow k then some (s.portNew k p) else none
  | none => none

/-- A change other than of the masks restarts the port (R295). -/
def restarts (old new : PortCfg) : Bool := !({ new with inMask := old.inMask, outMask := old.outMask } == old)

/-- Position `j` of a port leaves before the change from `old` to `new`: its slot goes or changes (R281). -/
def leaving (old new : PortCfg) (m : PortCfg → Nat) (j : Nat) : Bool :=
  j < (maskSlots (m old)).length && (restarts old new || (maskSlots (m old))[j]? != (maskSlots (m new))[j]?)

/-! ### The 2:1 converters (R292–R294) -/

/-- c_m of R292 for m = 1, 3, …, 23: 2^31 × w(m) × sin(πm/2)/(πm), rounded half-up, with
w(m) = 0.42 + 0.5 cos(πm/24) + 0.08 cos(πm/12). -/
def halfBand : List Int :=
  [678777924, -213843897, 114481078, -68715418, 42135964, -25353376, 14589535, -7842305, 3816456, -1584031, 476177, -46115]

/-- The sum over odd m from −23 to 23 of c_m × x(m). -/
def halfBandSum (x : Int → Int) : Int :=
  (halfBand.zipIdx.map fun (c : Int × Nat) => c.1 * (x (2 * (c.2 : Int) + 1) + x (-(2 * (c.2 : Int) + 1)))).foldl (· + ·) 0

/-- The engine sample of data time `t` from port samples `x` (R293). -/
def interpolate (x : Int → Int) (t : Int) : Int :=
  if (t - 24) % 2 = 0 then x ((t - 24) / 2)
  else satTo 32 (rndShift (halfBandSum fun (m : Int) => x ((t - 24 - m) / 2)) 30)

/-- Port sample `i` from engine samples `x` by emit ESI (R294). -/
def decimate (x : Int → Int) (i : Int) : Int :=
  satTo 32 (rndShift (2 ^ 30 * x (2 * i - 24) + halfBandSum fun (m : Int) => x (2 * i - 24 - m)) 31)

/-! ### Slips, loss and lock (R271–R273) -/

/-- A ramp of R271, R272 or R281 runs on some position of a port. -/
def State.portRamps (s : State) (k : Nat) : Bool :=
  let p := s.port k
  let l := s.blockLen
  (List.range (portPositions s.mult k)).any (fun (j : Nat) => match s.substOf (portSource s.mult k + j) with
    | some (_ + 1) => true
    | _ => false) ||
  (p.joins ++ p.joinsOut).any (fun (e : Nat × Nat) => decide (e.2 ≤ s.now) && decide (s.now < e.2 + 4 * l)) ||
  p.outSlip.any fun (o : Nat × List Int) => decide (l / (s.portNow k).step ≤ o.1)

/-- STATUS shows the state and levels of a port (R296–R298). -/
def State.showPort (s : State) (k : Nat) : State :=
  let p := s.port k
  let c := s.portNow k
  let s1 := (s.wr (portStatus k 0 1) (b2n (s.portRuns k))).wr (portStatus k 8 6) p.inFifo.length
  let s2 := (s1.wr (portStatus k 3 1) (b2n (s.portRamps k))).wr (portStatus k 4 1) (b2n (c.relation == 1 && (c.inOn || c.outOn)))
  if isSap k then s2.wr (portStatus k 16 6) p.outFifo.length else s2

/-- Latencies of R270 in engine samples, rounded up: port samples at the port's rate, the block periods of the ASRC
bank, the 24 samples of a 2:1 converter. -/
def State.showLatency (s : State) (k : Nat) : State :=
  let c := s.portNow k
  let ratio := if c.relation = 2 ∧ (s.port k).ratio ≠ 0 then (s.port k).ratio else 2 ^ 28
  let eng (x : Nat) : Nat := (x * c.step * 2 ^ 28 + ratio - 1) / ratio +
    (if c.relation = 2 then 2 * s.blockLen else 0) + (if c.half then 24 else 0)
  (s.wr (portLatency k 0) (eng (if c.leader then 2 else c.target + 2))).wr (portLatency k 16)
    (eng (if isSap k ∧ !c.leader then c.target + 1 else 1))

/-- ASR_ALLOC, ASR_PORT, ASR_RATIO and ASR_STEER as they stand (R299). -/
def State.showAsrc (s : State) : State :=
  let kind := s.rd F.ASR_SEL_kind
  let i := s.rd F.ASR_SEL_index
  let sel : Option Nat := if kind = 0 then some i else if kind = 1 ∧ i < 4 then some (16 + i) else if kind = 2 ∧ i < 2 then some (20 + i) else none
  let s1 := s.wr F.ASR_ALLOC_used (s.otherConverters 0)
  let s2 := match sel with
    | some k =>
      let asrc := (s.portNow k).relation == 2
      ((s1.wr F.ASR_RATIO_ratio (if asrc then (s.port k).ratio else 0)).wr F.ASR_PORT_locked (b2n (asrc && (s.port k).asrcLocked))).wr
        F.ASR_PORT_converters (s.portNow k).converters
    | none => ((s1.wr F.ASR_RATIO_ratio 0).wr F.ASR_PORT_locked 0).wr F.ASR_PORT_converters 0
  match portKeys.find? fun (k : Nat) => (s.portNow k).relation == 1 && ((s.portNow k).inOn || (s.portNow k).outOn) with
  | some k => ((s2.wr F.ASR_STEER_valid (b2n (s.portLocked k))).wr F.ASR_STEER_kind (if isSap k then 0 else if isMadi k then 1 else 2)).wr
      F.ASR_STEER_index (if isSap k then k else if isMadi k then k - 16 else k - 20)
  | none => s2.wr F.ASR_STEER_valid 0

/-- An input slip: the samples read now are affected (R271; at a write DEDUCED, log entry 27). -/
def State.inSlip (s : State) (k : Nat) : State :=
  let p := s.port k
  ((s.setPort k { p with slips := (s.now / (s.portNow k).step + 1) :: p.slips }).bump (portCounts k 0)).raisePort k 2

/-- An output slip of a SAP follower (R271). -/
def State.outSlips (s : State) (k : Nat) : State :=
  let p := s.port k
  ((s.setPort k { p with outSlip := some (0, p.sentVals), outCentre := true }).bump (portCounts k 0)).raisePort k 2

/-- The last `n` elements of a list. -/
def lastN {α : Type} (n : Nat) (l : List α) : List α := l.drop (l.length - n)

/-- A frame that repeats the samples sent last. -/
def Port.lastSent (p : Port) (mask : Nat) : OutFrame := ⟨mask, p.sentVals.map fun (x : Int) => (x, 1, 0)⟩

/-- At the boundary (n + 1) × L FIFOs that slipped before it are re-centred to fifo_target: the read point moves over the
frames held and those read just before (DEDUCED, log entry 27). -/
def State.recentre (s : State) (n k : Nat) : State :=
  let p := s.port k
  let c := s.portNow k
  let lo := n * s.blockLen / c.step
  let hi := (n + 1) * s.blockLen / c.step
  let p1 := if p.slips.any fun (t : Nat) => decide (lo < t) && decide (t ≤ hi) then
      { p with inFifo := lastN c.target (((p.gather.take c.target).map fun (g : Nat × PFrame) => g.2).reverse ++ p.inFifo) }
    else p
  let p2 := if p1.outCentre then
      { p1 with outCentre := false, outFifo := lastN c.target (List.replicate c.target (p1.lastSent c.outMask) ++ p1.outFifo) }
    else p1
  s.setPort k { p2 with slips := p2.slips.filter fun (t : Nat) => decide (hi ≤ t) }

/-- The steering port is not locked: its candidate of the Steeple is unqualified at once (R268). -/
def State.steerLost (s : State) (k : Nat) : State :=
  if (s.portNow k).relation = 1 then
    match assoc? s.stp.cands 7 with
    | some c => { s with stp := { s.stp with cands := assocPut s.stp.cands 7 { c with present := false, qualified := false, eligible := false, wtr := none, run := 0, devs := [], calm := 0 } } }
    | none => s
  else s

/-- An asrc port leaves the locked state (R299). -/
def State.asrcUnlock (s : State) (k : Nat) : State :=
  if (s.port k).asrcLocked then
    ((s.setPort k { s.port k with asrcLocked := false, ratio := 0 }).bump F.ASR_COUNTS_unlocks).raise 0x095 1
  else s

/-- A port becomes lost (R272). -/
def State.losePort (s : State) (k : Nat) : State :=
  if s.portLocked k then
    let s0 := s.asrcUnlock k
    let s1 := s0.setPort k { s0.port k with inFifo := [], outFifo := [], good := 0, bad := 0, csPos := none }
    let s2 := (((s1.wr (portStatus k 1 1) 0).wr (portStatus k 2 1) 1).bump (portCounts k 16)).raisePort k 1
    ((s2.steerLost k).showPort k).showAsrc
  else s

/-- A port starts anew (R273): not locked, silent FIFOs, CONCEALED zeros until it locks; a leader counts as locked. -/
def State.startPort (s : State) (k : Nat) : State :=
  let c := s.portNow k
  let s0 := s.asrcUnlock k
  let s1 := (s0.setPort k { Port.zero with txCs := (s.port k).txCs }).when (!(c.leader && c.inOn)) fun (t : State) => t.steerLost k
  let s2 := (s1.wr (portStatus k 1 1) (b2n (c.leader && c.inOn))).wr (portStatus k 2 1) (b2n (!(c.leader && c.inOn)))
  let base := portSource s.mult k
  let s3 := (List.range (portPositions s.mult k)).foldl (fun (t : State) (j : Nat) =>
    t.setSubst (base + j) (if c.inOn ∧ j < (maskSlots c.inMask).length then some 0 else none)) s2
  (s3.showPort k).showLatency k

/-- Firmware loads the channel-status block of an engine start into AES_TX_CSa_k (R287), after the presets of the configuration
(DESIGN CHOICE, log entry 58). -/
def State.startTxStatus (s : State) (a : Nat) : State :=
  let b := startStatus (s.fs / (s.portNow (20 + a)).step)
  (List.range 6).foldl (fun (t : State) (i : Nat) =>
    let o := 0x094 * 0x1000 + 0x080 + 4 * i + 0x80 * a
    (t.setReg o (BitVec.ofNat 32 (bitsOf b (32 * i) 32))).setLive o (BitVec.ofNat 32 (bitsOf b (32 * i) 32))) s

/-- Every port starts anew: an engine start (`fresh`), a rate change, a realign (R273). -/
def State.startPorts (s : State) (fresh : Bool) : State :=
  (portKeys.foldl (fun (t : State) (k : Nat) => t.startPort k)
    (s.when fresh fun (t : State) => (t.startTxStatus 0).startTxStatus 1)).showAsrc

/-! ### Input blocks (Gather) -/

/-- The port word of slot `c` in the frame of data time `t`, as an engine sample; absent frames are silent. -/
def Port.sample (p : Port) (w c : Nat) (t : Nat) : Int :=
  match assoc? p.gather t with
  | some f => (fromPort w (f.words.getD c 0)).toInt
  | none => 0

/-- Where the converted samples of input position `j` of port `k` for block `n` wait. -/
def State.asrcKey (s : State) (k j n : Nat) : Nat := n * 16384 + portSource s.mult k + j

/-- The samples of slot `c`, at position `j`, in block `n`; through the ASRC bank those converted for the block (R291). -/
def State.slotBlock (s : State) (k : Nat) (c : PortCfg) (slot j n : Nat) : List Word :=
  let p := s.port k
  let l := s.blockLen
  if c.relation = 2 then (assoc? s.nbr.asrc (s.asrcKey k j n)).getD (List.replicate l 0)
  else if c.half then
    (List.range l).map fun (i : Nat) =>
      BitVec.ofInt 32 (interpolate (fun (x : Int) => if x < 0 then 0 else p.sample c.word slot x.toNat) ((n * l + i : Nat) : Int))
  else (List.range l).map fun (i : Nat) => BitVec.ofInt 32 (p.sample c.word slot (n * l + i))

/-- The bank converts the samples of block `n` for each input position of an asrc port, two block periods ahead (R270); they
are free values. An Active sends them to its Standby, which converts none of its own (R291, R344). -/
def State.convert (s : State) (k : Nat) (c : PortCfg) (n : Nat) : State :=
  if c.relation ≠ 2 ∨ !c.inOn ∨ !(s.port k).asrcLocked ∨ s.rd F.NBR_STATE_role = 2 then s
  else (List.range (maskSlots c.inMask).length).foldl (fun (t : State) (j : Nat) =>
    let smp := (List.range t.blockLen).map fun (i : Nat) => ((Config.freeValue (t.free + i)).setWidth 32 : Word)
    let u := t.useFree t.blockLen
    ({ u with nbr := { u.nbr with asrc := assocPut u.nbr.asrc (t.asrcKey k j n) smp } } : State).when t.leads fun (v : State) =>
      v.nbrSend 2 (n :: 0 :: (portSource v.mult k + j) :: smp.map fun (w : Word) => w.toNat)) s

/-- The ratio word of an asrc port for the next block: the measured ratio, a free value (R290). -/
def State.measureRatio (s : State) (k : Nat) (c : PortCfg) : State :=
  if c.relation = 2 ∧ (s.port k).asrcLocked then
    ((s.setPort k { s.port k with ratio := (Config.freeValue s.free).toNat % 2 ^ 32 }).useFree).showLatency k
  else s

/-- The port samples of block `n` all came, and none of slot `slot` was bad (R271, R272, R284, R286, R288). -/
def State.slotGood (s : State) (k : Nat) (c : PortCfg) (slot j n : Nat) : Bool :=
  let p := s.port k
  let lo := n * s.blockLen / c.step
  let hi := (n + 1) * s.blockLen / c.step
  let frames := if c.relation = 2 then p.gather else p.gather.filter fun (g : Nat × PFrame) => decide (lo ≤ g.1) && decide (g.1 < hi)
  (if c.relation = 2 then s.rd F.NBR_STATE_role == 2 || (s.portLocked k && p.asrcLocked)
   else frames.length == hi - lo && !(p.slips.any fun (t : Nat) => decide (lo ≤ t) && decide (t < hi))) &&
  (c.relation != 2 || (assoc? s.nbr.asrc (s.asrcKey k j n)).isSome) &&
  frames.all fun (g : Nat × PFrame) => !g.2.errs.contains slot && !(c.vMute && g.2.invalid)

/-- One position of a port for block `n`: the engine-wide fade, substitute or ramp by R220, then the mask fades of R281,
tagged by R28 and R282 (R376, R583). -/
def State.gatherPosition (s : State) (k n j : Nat) (c : PortCfg) (next : Option PortCfg) : State :=
  let l := s.blockLen
  let src := portSource s.mult k + j
  match (if c.inOn then (maskSlots c.inMask)[j]? else none) with
  | none => (s.setSubst src none).putIngress n src 0 (List.replicate l 0)
  | some slot =>
    let ok := s.slotGood k c slot j n && (s.port k).silentTo.isNone
    let r : (List Word × Nat) × State :=
      if ok then let g := s.goodBlock src (s.fadeBlock (n * l) (s.slotBlock k c slot j n)).1; ((g.1.1, g.1.2.1), g.2)
      else let g := s.substitute n src; ((g.1, 1), g.2)
    let leave := match next with
      | some x => leaving c x (·.inMask) j
      | none => false
    let joined := (assoc? (s.port k).joins j).bind fun (b : Nat) => if b ≤ n * l ∧ n * l < b + 4 * l then some ((n * l - b) / l) else none
    let m : List Word × Nat :=
      if leave then (r.1.1.zipIdx.map fun (x : Word × Nat) => BitVec.ofInt 32 (rndShift (x.1.toInt * ((l : Int) - 1 - (x.2 : Int))) s.lam), 2)
      else match joined with
        | some q => (s.rampIn q r.1.1, 3)
        | none => (r.1.1, 0)
    r.2.putIngress n src (condMerge r.1.2 m.2) m.1

/-- The Gather stage of a port ends for block `n` (R20, R272): its positions are written, FIFOs that slipped are
re-centred, and the ASRC bank goes on. -/
def State.gatherPort (s : State) (n k : Nat) : State :=
  let l := s.blockLen
  let c := s.portNow k
  let next := s.portChange k ((n + 1) * l)
  let s1 := (List.range (portPositions s.mult k)).foldl (fun (t : State) (j : Nat) => t.gatherPosition k n j c next) s
  if !(c.inOn || c.outOn) then s1
  else
    let s2 := if isMadi k ∨ isSap k then s1 else
      let v := (s1.port k).gather.any fun (g : Nat × PFrame) =>
        g.2.invalid && (c.relation == 2 || (decide (n * l / c.step ≤ g.1) && decide (g.1 < (n + 1) * l / c.step)))
      s1.when v fun (t : State) => t.bump { F.AES_ERRORS_validity with lo := 16, width := 16 } 1 0 (k - 20)
    let s3 := s2.recentre n k
    let s4 := s3.setPort k { s3.port k with gather := if c.relation = 2 then [] else (s3.port k).gather.take 128 }
    let s5 := (s4.measureRatio k c).convert k c (n + 2)
    let s6 := match (s5.port k).silentTo with
      | some b => if b ≤ (n + 1) * l then s5.setPort k { s5.port k with silentTo := none, drain := [] } else s5
      | none => s5
    s6.showPort k

/-- The Gather stage of every local port ends for block `n`. -/
def State.gatherPorts (s : State) (n : Nat) : State :=
  let t := (portKeys.foldl (fun (t : State) (k : Nat) => t.gatherPort n k) s).showAsrc
  { t with nbr := { t.nbr with asrc := t.nbr.asrc.filter fun (e : Nat × List Word) => decide (n < e.1 / 16384) } }

/-! ### Output samples (Emit) -/

/-- The chip drives its port outputs: not in roles Standby and Proving, nor in a drill (R274, R361). -/
def State.drivesPorts (s : State) : Bool := !s.originBit && !s.nbr.drilling

/-- The engine sample of emit ESI `e` at destination `d`. At the strobe of a boundary the block of that ESI still waits for
the boundary. -/
def State.emitSample (s : State) (d e : Nat) : Int :=
  match assoc? (if e = s.now ∧ e % s.blockLen = 0 then s.eng.staged else s.eng.emitting) d with
  | some x => ((x.2.getD (e % s.blockLen) 0)).toInt
  | none => 0

/-- The engine sample of output position `j` for emit ESI `e`. -/
def State.outSample (s : State) (k j e : Nat) : Int :=
  if (s.port k).silentTo.isSome then 0 else s.emitSample (portDest s.mult k + j) e

/-- The factor and shift of the mask fades of R281 on output position `j` at emit ESI `e`, counted in port samples. -/
def State.maskGain (s : State) (k j e : Nat) (c : PortCfg) : Nat × Nat :=
  let l := s.blockLen / c.step
  let leave := match s.portChange k (nextBlock s.blockLen e) with
    | some y => leaving c y (·.outMask) j
    | none => false
  if leave then (l - 1 - e % s.blockLen / c.step, l.log2)
  else match assoc? (s.port k).joinsOut j with
    | some b => if b ≤ e ∧ e < b + 4 * s.blockLen then ((e - b) / c.step + 1, l.log2 + 2) else (1, 0)
    | none => (1, 0)

/-- Push the engine samples of emit ESI `e` into the decimator's history: the latest 49 (R294). -/
def State.pushHist (s : State) (k e : Nat) (c : PortCfg) : State :=
  let n := (maskSlots c.outMask).length
  let p := s.port k
  s.setPort k { p with hist := (List.range n).map fun (j : Nat) =>
    (j, (s.outSample k j e :: (assoc? p.hist j).getD []).take 49) }

/-- The value that output position `j` sends for the frame that carries emit ESI `e`: a free value through the ASRC
bank, the decimator's output on a half-rate port, whose history ends at the ESI before the strobe, else the engine
sample. -/
def State.outValue (s : State) (k j e : Nat) (c : PortCfg) : Int :=
  if c.relation = 2 then ((Config.freeValue (s.free + j)).setWidth 32).toInt
  else if c.half then
    let h := (assoc? (s.port k).hist j).getD []
    decimate (fun (x : Int) => if x < s.now then h.getD ((s.now : Int) - 1 - x).toNat 0 else 0) ((e / 2 : Nat) : Int)
  else s.outSample k j e

/-- The output frame that carries emit ESI `e` (R269, R279). -/
def State.outFrame (s : State) (k e : Nat) (c : PortCfg) : OutFrame × State :=
  let n := (maskSlots c.outMask).length
  (⟨c.outMask, (List.range n).map fun (j : Nat) => (if s.heldSafe then 0 else s.outValue k j e c, s.maskGain k j e c)⟩,
   s.useFree (if c.relation = 2 then n else 0))

/-- The shape of an output slip on sample `x` of a position: the decaying block, then the four-block ramp (R271). -/
def slipShape (l : Nat) (slip : Option (Nat × List Int)) (j : Nat) (x : Int) : Int :=
  match slip with
  | none => x
  | some (q, last) =>
    if q < l then rndShift (last.getD j 0 * ((l : Int) - 1 - (q : Int))) l.log2
    else satTo 32 (rndShift (x * ((q - l : Nat) + 1)) (l.log2 + 2))

/-- An output frame becomes slot words: the shape of a slip first, the mask fade after it, then the conversion, whose
saturated samples are counted (R41, R271, R278, R279, R282). -/
def State.frameWords (s : State) (k : Nat) (c : PortCfg) (f : OutFrame) : List (Option Nat) × State :=
  let p := s.port k
  let l := s.blockLen / c.step
  let vals := f.vals.zipIdx.map fun (x : (Int × Nat × Nat) × Nat) =>
    let y := slipShape l p.outSlip x.2 x.1.1
    if x.1.2.2 = 0 then y else satTo 32 (rndShift (y * x.1.2.1) x.1.2.2)
  let slots := maskSlots f.mask
  let words := (List.range c.slots).map fun (i : Nat) => match slots.findIdx? (· == i) with
    | some j => some (unsigned c.word (toPort c.word (vals.getD j 0)))
    | none => if isSap k ∧ !c.doutZ then some 0 else none
  let slip := p.outSlip.bind fun (o : Nat × List Int) => if o.1 + 1 < 5 * l then some (o.1 + 1, o.2) else none
  (words, (s.setPort k { p with outSlip := slip, sentVals := vals }).bump (portSat k) (vals.filter (portSaturates c.word)).length)

/-- The slot words of the frame that carries emit ESI `e`. -/
def State.outWords (s : State) (k e : Nat) (c : PortCfg) : List (Option Nat) × State :=
  let f := s.outFrame k e c
  f.2.frameWords k c f.1

/-- CRCC of AES3 channel status: x^8 + x^4 + x^3 + x^2 + 1, from all ones, over bytes 0 to 22, least significant bit
first (PRESUMED, log entry 20). -/
def crcc (block : Nat) : Nat :=
  (List.range 184).foldl (fun (r : Nat) (i : Nat) =>
    let fb := bitAt r 0 != bitAt block i
    if fb then (r / 2) ^^^ 0xB8 else r / 2) 0xFF

/-- The channel-status block in force for transmission, byte 23 replaced by its CRCC (R287). -/
def State.txStatus (s : State) (a : Nat) : Nat :=
  let b := (List.range 6).foldr (fun (i : Nat) (acc : Nat) =>
    (s.liveReg (0x094 * 0x1000 + 0x080 + 4 * i + 0x80 * a)).toNat + acc * 2 ^ 32) 0
  b % 2 ^ 184 + crcc b * 2 ^ 184

/-- A frame leaves the port, on the line as its kind has it. An AES3 transmitter takes its channel-status block in force at
each Z preamble (R275, R285, R287). -/
def State.sendFrame (s : State) (k : Nat) (c : PortCfg) (words : List (Option Nat)) : State :=
  let p := s.port k
  let valid := !s.heldSafe && s.running
  let z := p.zPos == 0
  if isSap k then
    (s.setPort k { p with sentWords := words }).when s.drivesPorts fun (t : State) =>
      t.emit (.portFrame k true false false words (sapLine c p.sentWords words))
  else if isMadi k then
    (s.setPort k { p with sentWords := words, zPos := (p.zPos + 1) % 192 }).when s.drivesPorts fun (t : State) =>
      t.emit (.portFrame k valid false false words (madiLine z valid words))
  else
    let cs := if z then s.txStatus (k - 20) else p.txCs
    (s.setPort k { p with sentWords := words, zPos := (p.zPos + 1) % 192, txCs := cs }).when s.drivesPorts fun (t : State) =>
      t.emit (.portFrame k valid (bitAt cs p.zPos) z words (aesLine valid (bitAt cs p.zPos) z words))

/-- A frame of zeros in a restart gap (R378); the framing of leaders and transmitters keeps running. -/
def State.gapFrame (s : State) (k : Nat) : State :=
  let c := s.portNow k
  if !c.outOn ∨ s.rd F.SYS_MODE_STATE_phase ≠ 3 then s
  else
    let slots := maskSlots c.outMask
    let words := (List.range c.slots).map fun (i : Nat) => if slots.contains i ∨ (isSap k ∧ !c.doutZ) then some 0 else none
    s.sendFrame k c (words.flatMap fun (w : Option Nat) => List.replicate c.perFrame w)

/-- Leaders and transmitters at a sample period of the audio clock in a restart gap (R378). -/
def State.gapPorts (s : State) : State :=
  let t := s.modEng fun (e : Eng) => { e with gapTicks := e.gapTicks + 1 }
  (portKeys.filter fun (k : Nat) => let c := s.portNow k; (c.leader || !isSap k) && s.eng.gapTicks % (c.step * c.perFrame) == 0).foldl
    (fun (u : State) (k : Nat) => u.gapFrame k) t

/-! ### Strobes (R269) -/

/-- The input side of a port at the strobe of engine ESI `e`: the oldest frame has data time e + 1. At a boundary the steering
port reports its level error just before the read (R268). -/
def State.strobeIn (s : State) (k e : Nat) (c : PortCfg) : State :=
  let p := s.port k
  if !c.inOn ∨ c.relation = 2 ∨ !s.portLocked k then s
  else
    let s1 := if c.relation = 1 ∧ e % s.blockLen = 0 then
        s.wr F.ASR_STEER_error (unsigned 16 (((p.inFifo.length : Int) - c.target) * 256))
      else s
    match p.inFifo with
    | f :: rest => s1.setPort k { p with inFifo := rest, gather := (e / c.step + 1, f) :: p.gather }
    | [] => if c.leader then s1 else s1.inSlip k

/-- Frames of several engine samples (R283): the words of the sample frames that end with emit ESI `e`, sample by
sample within each channel. -/
def State.multiWords (s : State) (k e : Nat) (c : PortCfg) : List (Option Nat) × State :=
  let m := c.perFrame
  let r := (List.range m).foldl (fun (a : List (List (Option Nat)) × State) (i : Nat) =>
    let w := a.2.outWords k (e + 1 + i - m) c
    (a.1 ++ [w.1], w.2)) (([], s) : List (List (Option Nat)) × State)
  ((List.range (m * c.slots)).map fun (x : Nat) => ((r.1.getD (x % m) []).getD (x / m) none), r.2)

/-- The output side at the strobe of engine ESI `e`: a leader or transmitter starts a frame, which carries emit ESI e − 1; the
sample of emit ESI e goes to the output FIFO of a SAP follower. -/
def State.strobeOut (s : State) (k e : Nat) (c : PortCfg) : State :=
  if !c.outOn ∨ (s.port k).silentTo.isSome then s
  else if isSap k ∧ !c.leader then
    if c.relation = 2 ∨ !s.portLocked k then s
    else
      let w := s.outFrame k e c
      let p := w.2.port k
      if 2 * c.target + 2 ≤ p.outFifo.length then w.2.outSlips k
      else w.2.setPort k { p with outFifo := p.outFifo ++ [w.1] }
  else if (c.relation = 2 ∧ s.portLocked k) ∨ e = 0 then s
  else if c.perFrame = 1 then let w := s.outWords k (e - 1) c; w.2.sendFrame k c w.1
  else if e % c.perFrame = 0 ∧ c.perFrame ≤ e then let w := s.multiWords k (e - 1) c; w.2.sendFrame k c w.1
  else s

/-- A port at the strobe of engine ESI `e`; a half-rate port acts at even ESIs (R13, R269). -/
def State.strobePort (s : State) (e k : Nat) : State :=
  let c := s.portNow k
  if !(c.inOn || c.outOn) then s
  else
    let s1 := if c.half ∧ c.outOn ∧ 0 < e then s.pushHist k (e - 1) c else s
    (if c.half ∧ e % 2 = 1 then s1 else (s1.strobeIn k e c).strobeOut k e c).showPort k

/-- Every port at the strobe of engine ESI `e`. -/
def State.strobePorts (s : State) (e : Nat) : State := portKeys.foldl (fun (t : State) (k : Nat) => t.strobePort e k) s

/-! ### Commands -/

/-- A received frame as its port reads the line (R275, R284, R286). -/
def lineFrame (k : Nat) (c : PortCfg) (line : List Nat) : LineFrame :=
  if isSap k then sapFrame c line else if isMadi k then madiFrame c line else aesFrame line

/-- The sample frames of a received port frame: the words of a channel lie in adjacent subframes in the modes with
several samples a frame (R283). -/
def sampleFrames (f : LineFrame) (m : Nat) : List PFrame :=
  let bad := f.codeErrs ++ f.parityErrs
  (List.range m).map fun (i : Nat) =>
    { words := (List.range (f.words.length / m)).map fun (j : Nat) => if f.inactive.contains (m * j + i) then 0 else f.words.getD (m * j + i) 0,
      errs := (bad.filter fun (x : Nat) => x % m == i).map (· / m),
      inactive := (f.inactive.filter fun (x : Nat) => x % m == i).map (· / m), invalid := f.invalid }

/-- The period of frames the port expects in relations sync and steer, in ps. -/
def State.expectedPeriod (s : State) (c : PortCfg) : Nat := 1000000000000 * c.perFrame * c.step / s.fs

/-- Two periods agree to within ±2 %. -/
def near (a b : Nat) : Bool := decide (50 * a ≤ 51 * b) && decide (49 * b ≤ 50 * a)

/-- Errors of a received frame are counted (R284, R286). -/
def State.countErrors (s : State) (k : Nat) (f : LineFrame) : State :=
  if isSap k ∨ (f.codeErrs = [] ∧ f.parityErrs = []) then s
  else
    let s1 := if isMadi k then (s.bump F.MAD_ERRORS_code f.codeErrs.length (k - 16)).bump F.MAD_ERRORS_parity f.parityErrs.length (k - 16)
      else s.bump { F.AES_ERRORS_bit with lo := 0, width := 16 } (f.codeErrs ++ f.parityErrs).eraseDups.length 0 (k - 20)
    s1.raisePort k 5

/-- A complete channel-status block of an AES3 port (R287): shown unless a professional block fails its CRCC. -/
def State.csBlock (s : State) (k block : Nat) : State :=
  let a := k - 20
  let pro := bitAt block 0
  if pro ∧ block / 2 ^ 184 ≠ crcc block then s.bump F.AES_CS_ERR_crc 1 0 a
  else
    let s1 := (List.range 6).foldl (fun (t : State) (i : Nat) =>
      t.setReg (0x094 * 0x1000 + 0x060 + 4 * i + 0x80 * a) (BitVec.ofNat 32 (bitsOf block (32 * i) 32))) s
    let s2 := (s1.wr F.AES_STATUS_pro (b2n pro) 0 a).setPort k { s1.port k with rxCs := some block }
    if (s.port k).rxCs = some block then s2 else s2.raisePort k 6

/-- The channel-status bit of a frame joins the block; a Z preamble starts one. -/
def State.csBit (s : State) (k : Nat) (c z : Bool) : State :=
  let p := s.port k
  let pos := if z then some 0 else p.csPos
  match pos with
  | none => s
  | some q =>
    let acc := (if q = 0 then 0 else p.csAcc) + b2n c * 2 ^ q
    if q = 191 then (s.setPort k { p with csPos := none, csAcc := 0 }).csBlock k acc
    else s.setPort k { p with csPos := some (q + 1), csAcc := acc }

/-- A frame period that the port accepts: ±2 % of the expected period in relations sync and steer, 8 to 200 kHz and 0.25 to
4 times Fs in relation asrc (R266, R272), and 28 to 216 kHz for AES3 (R286). -/
def State.periodFits (s : State) (k : Nat) (c : PortCfg) (period : Nat) : Bool :=
  let u := 1000000000000 * c.perFrame
  (if c.relation = 2 then decide (8000 * period ≤ u) && decide (u ≤ 200000 * period) && decide (s.fs * period ≤ 4 * u) && decide (u ≤ 4 * s.fs * period)
   else near period (s.expectedPeriod c)) &&
  (k < 20 || (decide (28000 * period ≤ u) && decide (u ≤ 216000 * period)))

/-- A good or bad frame for the lock: good frames in a row with agreeing periods (R272). -/
def State.frameGood (s : State) (k : Nat) (c : PortCfg) (framed : Bool) (period : Nat) : State :=
  let p := s.port k
  if !framed then s.setPort k { p with good := 0, bad := p.bad + 1 }
  else if !s.periodFits k c period then s.setPort k { p with good := 0, bad := 0 }
  else if p.good = 0 ∨ !near period p.period then s.setPort k { p with good := 1, period := period, bad := 0 }
  else s.setPort k { p with good := min 16 (p.good + 1), bad := 0 }

/-- The SAP follower's output at a received frame start (R269). -/
def State.followOut (s : State) (k : Nat) (c : PortCfg) : State :=
  if !c.outOn then s
  else if c.relation = 2 then
    let w := s.outWords k 0 c
    w.2.sendFrame k c w.1
  else
    let p := s.port k
    match p.outFifo with
    | f :: rest =>
      let r := (s.setPort k { p with outFifo := rest }).frameWords k c f
      r.2.sendFrame k c r.1
    | [] =>
      let r := (s.outSlips k).frameWords k c (p.lastSent c.outMask)
      r.2.sendFrame k c r.1

/-- A SAP follower in the silent block of a restart sends what its output FIFO held when the restart began, then zeros
(R295). -/
def State.drainFrame (s : State) (k : Nat) : State :=
  let p := s.port k
  match p.drain with
  | [] => s
  | d :: rest => (s.setPort k { p with drain := rest }).when s.drivesPorts fun (t : State) => t.emit (.portFrame k true false false d.1 d.2)

/-- PORT_FRAME_RECEIVE (R269, R271, R272, R284, R286–R288): a complete input frame. While the port is not locked its
latest frames are kept for the lock; a locked follower writes its FIFO, or slips when it is full. A SAP follower sends
its output frame, in a restart gap one of zeros (R378); framing failures lose the port. -/
def execPortFrameReceive (port : Nat) (frame : PortFrameIn) (s : State) : Host.Outcome State Fault Refusal :=
  let c := s.portNow port
  .next (if 22 ≤ port ∨ !(c.inOn || c.outOn) then s
    else if !s.running then (if isSap port ∧ !c.leader then s.gapFrame port else s)
    else if (s.port port).silentTo.isSome then s.drainFrame port
    else
      let f := lineFrame port c frame.line
      let s1 := (s.frameGood port c f.framed frame.period).countErrors port f
      let s2 := if 20 ≤ port then s1.csBit port f.c f.z else s1
      let p := s2.port port
      if !f.framed then (if isSap port ∨ (isMadi port ∧ 4 ≤ p.bad) then (if c.leader then s2 else s2.losePort port) else s2)
      else
        let fs := sampleFrames f c.perFrame
        let s3 := if c.relation = 2 then s2.setPort port { p with gather := if c.inOn then fs.map (fun (f : PFrame) => (s.now + 1, f)) ++ p.gather else [] }
          else if c.leader then s2.setPort port { p with inFifo := lastN 2 (p.inFifo ++ fs) }
          else if !s2.portLocked port then s2.setPort port { p with inFifo := lastN 16 (p.inFifo ++ fs) }
          else if !c.inOn then s2
          else if 2 * c.target + 2 < p.inFifo.length + fs.length then s2.inSlip port
          else s2.setPort port { p with inFifo := p.inFifo ++ fs }
        let s4 := if isSap port ∧ !c.leader ∧ s3.portLocked port then s3.followOut port c
          else if !isSap port ∧ c.relation = 2 ∧ c.outOn ∧ s3.portLocked port then
            let w := s3.multiWords port 0 c
            w.2.sendFrame port c w.1
          else s3
        s4.showPort port)

/-- PORT_LOST (R272): no frame start for four expected frame periods. -/
def execPortLost (port : Nat) (s : State) : Host.Outcome State Fault Refusal :=
  .next (if port < 22 ∧ !(s.portNow port).leader then s.losePort port else s)

/-- PORT_LOCK (R272): after 16 good frames whose periods agree the port locks, its FIFOs centred to fifo_target. -/
def execPortLock (port : Nat) (s : State) : Host.Outcome State Fault Refusal :=
  let c := s.portNow port
  let p := s.port port
  .next (if port < 22 ∧ s.portRuns port ∧ !c.leader ∧ p.good = 16 ∧ !s.portLocked port ∧ (c.relation ≠ 2 ∨ p.asrcLocked) then
      let q := if isSap port ∧ c.relation ≠ 2 then
          List.replicate c.target (⟨c.outMask, (maskSlots c.outMask).map fun (_ : Nat) => (0, 1, 0)⟩ : OutFrame) else []
      let s1 := s.setPort port { p with inFifo := lastN c.target p.inFifo, slips := [], outFifo := q }
      ((((s1.wr (portStatus port 1 1) 1).wr (portStatus port 2 1) 0).raisePort port 0).showPort port).showAsrc
    else s)

/-- ASRC_LOCK (R290): once the measured ratio of an asrc port has settled, with its frames good, the port locks. -/
def execAsrcLock (port ratio : Nat) (s : State) : Host.Outcome State Fault Refusal :=
  let c := s.portNow port
  let p := s.port port
  .next (if port < 22 ∧ s.portRuns port ∧ c.relation = 2 ∧ p.good = 16 ∧ !p.asrcLocked then
      let s1 := (s.setPort port { p with asrcLocked := true, ratio := ratio, gather := [] }).raise 0x095 0
      ((((s1.wr (portStatus port 1 1) 1).wr (portStatus port 2 1) 0).raisePort port 0).showPort port).showLatency port |>.showAsrc
    else s)

/-- A port takes new settings at boundary `b`: it runs on with its masks changed, or restarts, silent for one block
(R281, R295). -/
def State.changePort (s : State) (k b : Nat) (old : PortCfg) : State :=
  let new := s.portNow k
  if new = old then s
  else if restarts old new then
    let drain := (s.port k).outFifo.foldl (fun (a : List (List (Option Nat) × List Nat) × State) (f : OutFrame) =>
      let w := a.2.frameWords k old f
      let last := (a.2.port k).sentWords
      (a.1 ++ [(w.1, sapLine old last w.1)], w.2.setPort k { w.2.port k with sentWords := w.1 })) (([], s) : List (List (Option Nat) × List Nat) × State)
    let t := drain.2.startPort k
    (t.setPort k { t.port k with silentTo := some (b + s.blockLen), drain := drain.1 }).showPort k
  else
    let joined (m : PortCfg → Nat) : List (Nat × Nat) :=
      ((List.range (maskSlots (m new)).length).filter fun (j : Nat) => (maskSlots (m old))[j]? != (maskSlots (m new))[j]?).map fun (j : Nat) => (j, b)
    let p := s.port k
    let joins (l : List (Nat × Nat)) (m : PortCfg → Nat) : List (Nat × Nat) :=
      (l.filter fun (e : Nat × Nat) => decide (b < e.2 + 4 * s.blockLen) && !((joined m).any fun (x : Nat × Nat) => x.1 == e.1)) ++ joined m
    (s.setPort k { p with joins := joins p.joins (·.inMask), joinsOut := joins p.joinsOut (·.outMask) }).showPort k

/-- The pending set of a SAP, MAD or AES page comes due: it is checked and comes into force, its slots joining, or its ports
restarting; a set that fails is refused (R280, R281, R295). -/
def State.portsDue (s : State) (page : Nat) (p : PendSet) : State :=
  let code := s.portCheck page (s.pendingPorts p)
  let ks := portKeys.filter fun (k : Nat) => portPage k == page
  if code = 0x02 then
    let s1 := s.enforce p
    let s2 := ks.foldl (fun (t : State) (k : Nat) => t.changePort k p.due (s.portNow k)) s1
    let s3 := ks.foldl (fun (t : State) (k : Nat) => t.showLatency k) s2
    (s3.showAsrc).raise page (if page = 0x094 then 16 else 3)
  else (s.endPend page code).raise page (if page = 0x094 then 17 else 4)

/-- MASK_CHANGE (R280): at B the pending set of a SAP, MAD or AES page comes due. -/
def execMaskChange (page : Nat) (s : State) : Host.Outcome State Fault Refusal :=
  .next (match s.pendOf page with
    | none => s
    | some p => if page < 0x080 ∨ 0x094 < page ∨ !s.pendDue p then s else s.portsDue page p)

end Sys2Proof.Machine
end

