-- ==== Sys2Proof/Machine/Steeple.lean ====
section
/-! DEFINITION. The Steeple (chapter 10): timebase, reference candidates and their selection, the two loops, clock outputs,
edge capture, LTC and the DAC. -/
namespace Sys2Proof.Machine

/-! ### Candidates -/

/-- A candidate that nothing has reported. -/
def Cand.none : Cand :=
  { present := false, qualified := false, suspect := false, everQualified := false, eligible := false, wtr := Option.none,
    freq := 0, devs := [], calm := 0, err := 0, gm := 0, edge := Option.none, run := 0 }

def State.cand (s : State) (k : Nat) : Cand := (assoc? s.stp.cands k).getD Cand.none
def State.setCand (s : State) (k : Nat) (c : Cand) : State := { s with stp := { s.stp with cands := assocPut s.stp.cands k c } }

/-- A PTP port that has heard and sent nothing. -/
def PtpPort.zero : PtpPort :=
  { foreigns := [], rank := Option.none, sender := 0, gm := 0, gmClass := 0, steps := 0, sync := Option.none, diff := 0, req := Option.none, resp := Option.none,
    delays := [], preq := Option.none, seqSync := 0, seqReq := 0, seqAnn := 0, best := [] }

/-- PTP port of NETA (0) or NETB (1). -/
def State.ptp (s : State) (p : Nat) : PtpPort := (assoc? s.stp.ptp p).getD PtpPort.zero
def State.setPtp (s : State) (p : Nat) (x : PtpPort) : State := { s with stp := { s.stp with ptp := assocPut s.stp.ptp p x } }

/-- portState of a PTP port, coded as in IEEE 1588: 1 INITIALIZING, 3 DISABLED, 4 LISTENING, 6 MASTER, 7 PASSIVE,
9 SLAVE. -/
def State.ptpState (s : State) (p : Nat) : Nat := s.rd ((F.STP_PTP_STATE_state_a).part p 4)
def State.setPtpState (s : State) (p v : Nat) : State := s.wr ((F.STP_PTP_STATE_state_a).part p 4) v

/-- The selected candidate. -/
def State.selected (s : State) : Option Nat := if s.rd F.STP_STATE_selected < 8 then some (s.rd F.STP_STATE_selected) else none

/-- States of R311. -/
def stFree : Nat := 0
def stAcquiring : Nat := 1
def stLocked : Nat := 2
def stHoldover : Nat := 3
def stLost : Nat := 4

def State.stpState (s : State) : Nat := s.rd F.STP_STATE_state

/-- The frequency adjustment f in force, 0.1 ppb (R300). -/
def State.freq (s : State) : Int := signed 32 (s.rd F.TBS_FREQ_f)
def State.setFreq (s : State) (f : Int) : State := s.wr F.TBS_FREQ_f (unsigned 32 f)

/-- This chip follows its Neighbour's time (R340): the link is up, the chip does not lead, and it is Standby, or in
Proving a leader's marks arrive. -/
def State.followsTime (s : State) : Bool :=
  s.rd F.NBR_STATE_cond != 0 && !s.on F.NBR_STATE_lead &&
  (s.rd F.NBR_STATE_role == 2 || (s.rd F.NBR_STATE_role == 3 && s.stp.marked))

/-- clockClass by state and traceable (R319). -/
def State.clockClass (s : State) : Nat :=
  let t := s.lon F.TBS_UTC_traceable
  if s.stpState = 2 then (if t then 6 else 13) else if s.stpState = 3 then (if t then 7 else 14) else 248

/-- Holdover with an OCXO: hold_ocxo and TEN_IN present (R315). -/
def State.ocxo (s : State) : Bool := s.lon F.STP_CFG_hold_ocxo && (s.cand 5).present

/-- The Steeple runs audio-led (R303). -/
def State.audioLed (s : State) : Bool :=
  (s.selected == some 7 && (s.stpState == 1 || s.stpState == 2)) || ((s.stpState == 3 || s.stpState == 4) && !s.ocxo)

/-- The PTP port whose grandmaster is followed: the selected candidate's, else the first in SLAVE. -/
def State.followedPort (s : State) : Option Nat :=
  match s.selected with
  | some k => if k < 2 ∧ s.ptpState k = 9 then some k else [0, 1].find? fun (p : Nat) => s.ptpState p == 9
  | none => [0, 1].find? fun (p : Nat) => s.ptpState p == 9

/-- STP registers that show candidates, state and the grandmaster followed (R333). -/
def State.showStp (s : State) : State :=
  let word := (List.range 8).foldl (fun (w : Nat) (k : Nat) =>
    let c := s.cand k
    w + (b2n c.present + 2 * b2n c.qualified + 4 * b2n c.suspect + 8 * b2n c.wtr.isSome) * 2 ^ (4 * k)) 0
  let k := s.rd F.STP_CAND_SEL_k
  let c := s.cand k
  let s1 := ((s.wr F.STP_CAND_cand word).wr F.STP_CAND_FREQ_value (unsigned 32 (c.devs.headD 0))).wr F.STP_CAND_PHASE_value
    (if k = 5 ∨ k = 7 then 0 else unsigned 32 (satTo 32 c.err))
  let s2 := ((s1.wr F.STP_CAND_WTR_remaining (c.wtr.getD 0)).wr F.STP_GM_ID_LO_id (if k < 2 then c.gm / 2 ^ 32 else 0)).wr F.STP_GM_ID_HI_id
    (if k < 2 then c.gm % 2 ^ 32 else 0)
  let gm := s.followedPort.map s.ptp
  let s3 := (s2.wr F.STP_PTP_STATE_gm_class ((gm.map fun (q : PtpPort) => q.gmClass % 256).getD 0)).wr F.STP_PTP_STATE_steps
    ((gm.map fun (q : PtpPort) => min q.steps 255).getD 0)
  (s3.wr F.STP_STATE_audio_led (b2n s.audioLed)).wr F.STP_STATE_clock_class s.clockClass

/-- A change of state (R311). -/
def State.stpGo (s : State) (st : Nat) : State :=
  if s.stpState = st then s
  else
    let s1 := ((s.wr F.STP_STATE_state st).raise 0x070 0).rollHw 0x070 0 st (s.rd F.STP_STATE_selected)
    let s2 := if st = stAcquiring then { s1.wr F.STP_STATE_bw (s.lv F.SLP_BW_bw_acq) with stp := { s1.stp with entered := true } } else s1
    if st = stHoldover then s2.wr F.SLP_HOLD_TIME_seconds 0 else if st = stLost then s2 else s2.wr F.SLP_HOLD_TIME_seconds 0

/-- A candidate stops being qualified: wait-to-restore restarts from zero the next time (R305, R307). Its suspect flag stands
until the deviation has stayed within the limit (R306). -/
def Cand.unqualify (c : Cand) : Cand := { c with qualified := false, eligible := false, wtr := Option.none }

/-- A candidate stops being present (R304, R305). -/
def State.losePresence (s : State) (k : Nat) : State :=
  (s.setCand k { (s.cand k).unqualify with present := false, run := 0, devs := [], calm := 0 }).showStp

/-- A candidate becomes present. -/
def State.gainPresence (s : State) (k : Nat) : State :=
  if (s.cand k).present then s else (s.setCand k { s.cand k with present := true }).showStp

/-- The median of a list of frequencies: the mean of the middle two, rounded down, for an even count (DEDUCED, log entry
29). -/
def median (l : List Int) : Int :=
  let a := l.mergeSort (fun (x y : Int) => decide (x ≤ y))
  if a.length % 2 = 1 then a.getD (a.length / 2) 0 else (a.getD (a.length / 2 - 1) 0 + a.getD (a.length / 2) 0) / 2

/-- The mean of a list, rounded down. -/
def meanOf (l : List Int) : Int := if l = [] then 0 else l.foldl (· + ·) 0 / l.length

/-- The holdover model exists: 60 s in Acquiring or Locked since engine start (R315). -/
def State.modelExists (s : State) : Bool := 60 ≤ s.stp.tracked

/-- The holdover model: the mean of f over the latest avg_s seconds in Acquiring or Locked, without the last 2 s. -/
def State.model (s : State) : Int := meanOf ((s.stp.fHist.drop 2).take (s.lv F.SLP_HOLD_avg_s))

/-- The reference value of candidate `k` (R306), none while neither two other candidates nor a model exist. -/
def State.devReference (s : State) (k : Nat) : Option Int :=
  let others := (List.range 8).filter fun (i : Nat) => i != k && (s.cand i).qualified
  if 2 ≤ others.length then some (median (others.map fun (i : Nat) => (s.cand i).freq))
  else if s.modelExists then some s.model else none

/-- A disqualification (R306). -/
def State.disqualify (s : State) (k : Nat) : State :=
  if (s.cand k).qualified then
    (((s.setCand k (s.cand k).unqualify).bump F.STP_COUNTS_disqualified).raise 0x070 3).rollHw 0x070 3 k
  else s

/-- Candidate `k` has frequency `f` this second; beyond ±200 ppm it is not present, and TEN_IN is present within them
(R304). -/
def State.measureFreq (s : State) (k : Nat) (f : Int) : State :=
  if f < -2000000 ∨ 2000000 < f then s.losePresence k
  else
    let s0 := if k = 5 then s.gainPresence 5 else s
    s0.setCand k { s0.cand k with freq := f }

/-- The deviation `d` of candidate `k`, and its limits (R306). -/
def State.deviate (s : State) (k : Nat) (d : Int) : State :=
  let c := s.cand k
  let devs := (d :: c.devs).take 20
  let sus := decide ((s.lv F.STP_LIMITS_suspect_ppb : Int) * 10 < d.natAbs)
  let calm := if sus then 0 else c.calm + 1
  let c1 := { c with devs := devs, calm := calm, suspect := sus || (c.suspect && decide (calm < 10)) }
  let s2 := (s.setCand k c1).when (sus && !c.suspect) fun (t : State) => t.raise 0x070 2
  let drift : Int := if 20 ≤ devs.length then meanOf (devs.take 10) - meanOf (devs.drop 10) else 0
  if (s.lv F.STP_LIMITS_hard_ppb : Int) * 10 < d.natAbs ∨ (s.lv F.STP_QUAL_drift_ppbs : Int) * 100 < drift.natAbs then s2.disqualify k
  else s2

/-- The steering average of a channel (R316). -/
def State.averageCode (l : List Nat) : Nat := if l = [] then 0 else (l.foldl (· + ·) 0) / l.length

/-- What each second of the timebase brings: histories of f and of the VCXO codes, wait-to-restore and Holdover times. -/
def State.stpSecond (s : State) : State :=
  let avg := s.lv F.SLP_HOLD_avg_s
  let following := s.stpState == 1 || s.stpState == 2
  let s1 := if following then
      { s with stp := { s.stp with fHist := (s.freq :: s.stp.fHist).take (avg + 2), tracked := s.stp.tracked + 1 } }
    else s
  let s2 := if s.stpState = 3 ∨ s.stpState = 4 then s1.bump F.SLP_HOLD_TIME_seconds else s1
  let fam := s.on F.ENG_RATE_family
  let averaged := !s.audioLed && s.stpState != 3
  let c48 := if averaged ∧ !fam then (s.rd F.DAC_STATUS_out 0 0 :: s.stp.codes48).take avg else s.stp.codes48
  let c44 := if averaged ∧ fam then (s.rd F.DAC_STATUS_out 0 1 :: s.stp.codes44).take avg else s.stp.codes44
  let cs := s2.stp.cands.map fun (e : Nat × Cand) => (e.1, { e.2 with wtr := e.2.wtr.map fun (w : Nat) => w - 1 })
  let s3 := { s2 with stp := { s2.stp with codes48 := c48, codes44 := c44, cands := cs } }
  (((s3.wr F.SLP_AVG48_code (State.averageCode c48)).wr F.SLP_AVG48_valid (b2n (decide (avg ≤ c48.length)))).wr
    F.SLP_AVG44_code (State.averageCode c44)).wr F.SLP_AVG44_valid (b2n (decide (avg ≤ c44.length)))

/-- CANDIDATE_DEVIATION (R306): each second the deviation of each candidate whose frequency was measured is computed, against
the frequencies and qualifications of that second, and the limits are applied. -/
def execCandidateDeviation (freqs : List (Nat × Int)) (s : State) : Host.Outcome State Fault Refusal :=
  let s1 := freqs.foldl (fun (t : State) (e : Nat × Int) =>
    if e.1 < 8 ∧ (e.1 = 5 ∨ (t.cand e.1).present) then t.measureFreq e.1 e.2 else t) s
  let ks := (List.range 8).filter fun (k : Nat) => (s1.cand k).present && freqs.any fun (e : Nat × Int) => e.1 == k
  let s2 := ks.foldl (fun (t : State) (k : Nat) => match s1.devReference k with
    | some r => t.deviate k ((s1.cand k).freq - r)
    | none => t) s1
  .next s2.stpSecond.showStp

/-- CANDIDATE_QUALIFY (R305, R307): a candidate present and within the hard limits for qual_s seconds qualifies; unless it
qualifies for the first time since engine start, its wait-to-restore starts. -/
def execCandidateQualify (k : Nat) (s : State) : Host.Outcome State Fault Refusal :=
  let c := s.cand k
  .next (if k < 8 ∧ c.present ∧ !c.qualified then
      (s.setCand k (if c.everQualified then { c with qualified := true, wtr := some (s.lv F.STP_CFG_wtr_s) }
        else { c with qualified := true, everQualified := true, eligible := true })).showStp
    else s)

/-- CANDIDATE_PRESENCE_LOSS (R304, R305): the signal stops or leaves its presence window. -/
def execCandidatePresenceLoss (k : Nat) (s : State) : Host.Outcome State Fault Refusal :=
  .next (if k < 8 ∧ (s.cand k).present then s.losePresence k else s)

/-- WAIT_TO_RESTORE_EXPIRY (R307): the candidate becomes eligible and restored sets. -/
def execWaitToRestoreExpiry (k : Nat) (s : State) : Host.Outcome State Fault Refusal :=
  let c := s.cand k
  .next (if c.qualified ∧ c.wtr.isSome then ((s.setCand k { c with wtr := none, eligible := true }).raise 0x070 4).showStp else s)

/-! ### Clock outputs (R322, R323) -/

/-- One second in units of the timebase count. -/
def second : Nat := 10 ^ 19

/-- Frame rates of TBS_OUT_CFG as numerator and denominator. -/
def frameRate (c : Nat) : Nat × Nat :=
  [(24000, 1001), (24, 1), (25, 1), (30000, 1001), (30, 1), (48000, 1001), (48, 1), (50, 1), (60000, 1001), (60, 1)].getD c (25, 1)

/-- Rates of LTC_OUT_CFG. -/
def ltcRate (c : Nat) : Nat × Nat := [(24, 1), (25, 1), (30000, 1001), (30000, 1001), (30, 1)].getD c (25, 1)

/-- The rate of timebase output `k`: 2 PPS_OUT, 3 FRAME_OUT, 4 LTC_OUT. -/
def State.outRate (s : State) (k : Nat) : Nat × Nat :=
  if k = 2 then (1, 1) else if k = 3 then frameRate (s.lv F.TBS_OUT_CFG_frame_rate) else ltcRate (s.lv F.LTC_OUT_CFG_rate)

/-- An output runs. -/
def State.outOn (s : State) (k : Nat) : Bool :=
  if k = 0 then s.lv F.TBS_OUT_CFG_wck0 != 0 else if k = 1 then s.lv F.TBS_OUT_CFG_wck1 != 0
  else if k = 2 then s.lon F.TBS_OUT_CFG_pps_en else if k = 3 then s.lon F.TBS_OUT_CFG_frame_en else s.lon F.LTC_OUT_CFG_enable

/-- Grid instants passed by a count. -/
def gridIndex (r : Nat × Nat) (tb : Nat) : Nat := tb * r.1 / (r.2 * second)
/-- The instant of grid index `i`. -/
def gridInstant (r : Nat × Nat) (i : Nat) : Nat := (i * r.2 * second + r.1 - 1) / r.1

/-- The known edge of an output, and its change. -/
def State.outEdge (s : State) (k : Nat) : Option Nat := assoc? s.stp.outs k
def State.setOutEdge (s : State) (k v : Nat) : State := { s with stp := { s.stp with outs := assocPut s.stp.outs k v } }

/-- The time address of the LTC frame that starts at `tb` (R322): TAI minus utc_offset plus tz_min; with a rate of
29.97 the frames are numbered from local midnight (DEDUCED, log entry 30), with drop-frame numbering at rate 0b011. -/
def State.ltcTime (s : State) (tb : Nat) : Nat :=
  let code := s.lv F.LTC_OUT_CFG_rate
  let r := ltcRate code
  let shift : Int := -(s.lv F.TBS_UTC_utc_offset : Int) + 60 * signed 12 (s.lv F.LTC_OUT_CFG_tz_min)
  let secs : Int := ((tb / second : Nat) : Int) + shift
  let day : Nat := (secs % 86400).toNat
  let frac := tb % second
  let fps := (r.1 + r.2 - 1) / r.2
  let n0 := (day * second + frac) * r.1 / (r.2 * second)
  let n := if code = 3 then
      let d := n0 / 17982
      let m := n0 % 17982
      n0 + 18 * d + (if m < 2 then 0 else 2 * ((m - 2) / 1798))
    else n0
  let f := n % fps
  let t := if r.2 = 1 then day else n / fps % 86400
  f + (if code = 3 then 2 ^ 5 else 0) + t % 60 * 2 ^ 8 + t / 60 % 60 * 2 ^ 16 + t / 3600 * 2 ^ 24

/-- How long PPS_OUT or FRAME_OUT stays high after its edge, in ns (R322). -/
def State.highTime (s : State) (k : Nat) : Nat := if k = 2 then max 1 (s.lv F.TBS_OUT_CFG_pps_width) * 1000000 else 10000

/-- Edges of timebase output `k` while the count moves from `old` to the present one: alignment at a grid instant, then a
rising edge at each period after the known edge. -/
def State.timeOutput (s : State) (old k : Nat) : State :=
  let r := s.outRate k
  let tb := s.stp.tb
  let i := gridIndex r tb
  let s1 := if bitAt s.stp.aligning k ∧ gridIndex r old < i then
      ({ s with stp := { s.stp with aligning := setBitsOf s.stp.aligning k 1 0 } }.setOutEdge k (gridInstant r i)).wr
        ((F.TBS_OUT_STATUS_misaligned).part k 1) 0
    else s
  match s1.outEdge k with
  | none => s1
  | some o =>
    if o ≤ tb ∧ (old < o ∨ gridIndex r (old - o) < gridIndex r (tb - o)) then
      let t := o + gridInstant r (gridIndex r (tb - o))
      if k = 4 then s1.emit (.ltc (t / 10 ^ 10) (s1.ltcTime t) (s1.lv F.LTC_OUT_USER_user)) else s1.emit (.clockOut k (t / 10 ^ 10) (s1.highTime k))
    else s1

/-- An output is off its grid, or meets it (R323). -/
def State.showAligned (s : State) (k : Nat) (off : Bool) : State :=
  let f := (F.TBS_OUT_STATUS_misaligned).part k 1
  if off then (s.wr f 1).when (!s.on f) fun (t : State) => t.raise 0x072 1 else s.wr f 0

/-- A timebase output whose edges no longer meet the grid within 8 ns is misaligned (R323). -/
def State.checkAligned (s : State) (k : Nat) : State :=
  match s.outEdge k with
  | none => s
  | some o =>
    let r := s.outRate k
    let i := gridIndex r o
    let off := min (o - gridInstant r i) (gridInstant r (i + 1) - o)
    if s.outOn k then s.showAligned k (decide (8 * 10 ^ 10 < off)) else s

/-- The timebase jumps from its value to `tb`: every output runs on from its own last edge (R314, R323). -/
def State.jumpTime (s : State) (tb : Nat) : State :=
  let old := s.stp.tb
  let outs := s.stp.outs.map fun (e : Nat × Nat) => if 2 ≤ e.1 then (e.1, e.2 + tb - min old (e.2 + tb)) else e
  let s1 := { s with stp := { s.stp with tb := tb, outs := outs } }
  [2, 3, 4].foldl (fun (t : State) (k : Nat) => t.checkAligned k) s1

/-- A step of the timebase by the whole error in ns (R314). -/
def State.stepTime (s : State) (err : Int) : State :=
  ((s.jumpTime (((s.stp.tb : Int) - err * 10 ^ 10).toNat)).bump F.TBS_STEPS_steps).raise 0x072 0

/-- TIMEBASE_ADVANCE (R300, R322): one TIME cycle adds 2 ns × (1 + f); timebase outputs whose instants pass give their
edges. -/
def execTimebaseAdvance (s : State) : Host.Outcome State Fault Refusal :=
  let old := s.stp.tb
  let s1 := { s with stp := { s.stp with tb := ((old : Int) + 2 * 10 ^ 10 + 2 * s.freq).toNat, cycles := s.stp.cycles + 1 } }
  .next ([2, 3, 4].foldl (fun (t : State) (k : Nat) => if t.outOn k then t.timeOutput old k else t) s1)

/-- The frequency of a word-clock code (TBS_OUT_CFG). -/
def State.wckRate (s : State) (c : Nat) : Nat :=
  let base := if s.on F.ENG_RATE_family then 44100 else 48000
  if c = 1 then base else if c = 2 then 2 * base else if c = 3 then 4 * base else s.fs

/-- Word-clock output `k` at an audio-clock sample period, which has the strobe of engine ESI `e` while the engine runs
(R322, R323): aligned, its edge stands where e × f / Fs is an integer; then an edge follows each period after its own last
one, in a restart gap too. Above Fs the edges between strobes are equally spaced. In a gap the phase counts whole sample periods (DEDUCED, log
entry 67). -/
def State.wordClock (s : State) (e : Option Nat) (k : Nat) : State :=
  let f := s.wckRate (if k = 0 then s.lv F.TBS_OUT_CFG_wck0 else s.lv F.TBS_OUT_CFG_wck1)
  let d := max 1 (s.fs / f)
  let edge (t : State) : State := (List.range (max 1 (f / t.fs))).foldl (fun (u : State) (i : Nat) =>
    u.emit (.clockOut k (u.tbNs + i * 1000000000 / f) (500000000 / f))) (t.setOutEdge k 0)
  let grid := e.any fun (x : Nat) => x % d == 0
  if bitAt s.stp.aligning k ∧ grid then
    (edge { s with stp := { s.stp with aligning := setBitsOf s.stp.aligning k 1 0 } }).showAligned k false
  else match s.outEdge k with
    | none => s
    | some n => if d ≤ n + 1 then (edge s).when e.isSome fun (t : State) => t.showAligned k (!grid) else s.setOutEdge k (n + 1)

/-- The word clocks at an audio-clock sample period. -/
def State.wordClocks (s : State) (e : Option Nat) : State :=
  [0, 1].foldl (fun (t : State) (k : Nat) => if t.outOn k then t.wordClock e k else t) s

/-- The outputs that a write of TBS_OUT_ALIGN selects align at their next grid instant (R323). -/
def State.outAlign (s : State) (v : Nat) : State := { s with stp := { s.stp with aligning := s.stp.aligning ||| bitsOf v 0 5 } }

/-- TBS_OUT_ALIGN (R323): the selected outputs align. -/
def execTbsOutAlign (value : Word) (s : State) : Host.Outcome State Fault Refusal := .next (s.outAlign value.toNat)

/-! ### Selection (R308–R312) -/

/-- The lock window of a reference, in its own unit: ns, 0.1 ppb, or 1/256 frame (R311). -/
def State.window (s : State) (k : Nat) : Nat :=
  if k = 5 then s.lv F.SLP_WINDOW_lock_ppb * 10 else if k = 7 then 64 else s.lv F.SLP_WINDOW_lock_ns

/-- The reference-loop error: of the selected candidate, or of the Neighbour's marks for a follower (key 8). -/
def State.refKey (s : State) : Option Nat := if s.followsTime then some 8 else s.selected
def State.refErr (s : State) (k : Nat) : Int := if k = 5 then (s.cand 5).freq - s.freq else (s.cand k).err

/-- Eligible for selection: qualified, wait-to-restore over, priority not 0. -/
def State.priority (s : State) (k : Nat) : Nat := s.lv ((F.STP_PRIO_prio).part k 4)
def State.canSelect (s : State) (k : Nat) : Bool := (s.cand k).eligible && (s.cand k).qualified && s.priority k != 0

/-- The best eligible candidate (R308). -/
def State.bestCand (s : State) : Option Nat :=
  (List.range 8).foldl (fun (b : Option Nat) (k : Nat) =>
    if s.canSelect k then
      match b with
      | none => some k
      | some j => if s.priority k < s.priority j then some k else b
    else b) none

/-- Follow candidate `k` from now: f takes its frequency, a slew removes its error (R309); from Free run or Lost an error
above step_us is stepped (R314). -/
def State.follow (s : State) (k : Nat) (f : Int) : State :=
  let from' := s.stpState
  let s1 := s.wr F.STP_STATE_switching 1
  let s2 := if from' = stAcquiring ∨ from' = stLocked then s1 else s1.stpGo stAcquiring
  let err := s2.refErr k
  let stepped := (from' = stFree ∨ from' = stLost) ∧ k ≠ 5 ∧ k ≠ 7 ∧ (s.lv F.SLP_SLEW_step_us : Int) * 1000 < err.natAbs
  let s3 := if stepped then (s2.stepTime err).setCand k { s2.cand k with err := 0 } else s2
  let d : Int := (s.lv F.SLP_SLEW_slew_ppb : Int) * 10
  let slew : Int := if stepped ∨ err = 0 ∨ k = 5 then 0 else if err < 0 then d else -d
  ({ s3 with stp := { s3.stp with slew := slew, slewAudio := false } }.setFreq (f + slew)).showStp

/-- A switch to candidate `k` (R309). One to or from the steering port is slewed on the audio side, where the error is the
level error; a full FIFO asks for a faster engine (DEDUCED, log entry 59). -/
def State.switchRef (s : State) (k : Nat) : State :=
  let t := (s.wr F.STP_STATE_selected k).follow k (s.cand k).freq
  if k = 7 ∨ s.selected = some 7 then
    let d : Int := (s.lv F.SLP_SLEW_slew_ppb : Int) * 10
    let err := (s.cand 7).err
    { t with stp := { t.stp with slew := if err = 0 then 0 else if err < 0 then -d else d, slewAudio := true } }.setFreq (s.cand k).freq
  else t

/-- The candidate whose error ends the slew in progress. -/
def State.slewKey (s : State) : Option Nat := if s.stp.slewAudio then some 7 else s.refKey

/-- The reference is lost and none is eligible: Holdover on the model, or Lost (R311). -/
def State.loseRef (s : State) : State :=
  let s1 := (s.wr F.STP_STATE_selected 0xF).wr F.STP_STATE_switching 0
  let s2 := { s1 with stp := { s1.stp with slew := 0, slewAudio := false } }
  (if s.modelExists then (s2.stpGo stHoldover).setFreq s.model else s2.stpGo stLost).showStp

/-- REFERENCE_SELECT (R308, R310): at every block boundary. A chip that has stopped following its Neighbour and finds no
candidate enters Holdover (R356 step 6). -/
def State.selectRef (s : State) : State :=
  let forced := s.lon F.STP_CFG_forced
  let best := if forced then (if s.canSelect (s.lv F.STP_CFG_force) then some (s.lv F.STP_CFG_force) else none) else s.bestCand
  match s.selected with
  | none => (match best with
    | some k => s.switchRef k
    | none => if s.stpState = 1 ∨ s.stpState = 2 then s.loseRef else s)
  | some c =>
    if !(s.cand c).qualified then
      match best with
      | some k => s.switchRef k
      | none => s.loseRef
    else if s.on F.STP_STATE_switching then s
    else match best with
      | some k => if k ≠ c ∧ (forced ∨ s.lon F.STP_CFG_revertive) then s.switchRef k else s
      | none => s

/-- How many times the family base rate AES0's frames come at: 1, 2 or 4 (R304). -/
def State.aesMult (s : State) : Option Nat :=
  let base := if s.on F.ENG_RATE_family then 44100 else 48000
  [1, 2, 4].find? fun (m : Nat) => near (s.port 20).period (1000000000000 / (base * m))

/-- Candidates that ports give (R268, R304): the steering port's level error and lock; AES11 on AES0. -/
def State.portCands (s : State) : State :=
  let s1 := if s.on F.ASR_STEER_valid then
      (s.setCand 7 { s.cand 7 with err := signed 16 (s.rd F.ASR_STEER_error) }).gainPresence 7
    else if (s.cand 7).present then s.losePresence 7 else s
  let aes := s1.portLocked 20 && (s1.aesMult).isSome
  if aes then s1.gainPresence 3 else if (s1.cand 3).present then s1.losePresence 3 else s1

/-! ### The loops (R301–R303, R313) -/

/-- The reference loop at a block boundary: f is the loop's output, a free value (its filter is not given), while it
follows; during a slew f stands; in Free run f is 0 (R301, R309, R311). -/
def State.refLoop (s : State) : State :=
  let st := s.stpState
  let s1 := match s.refKey with
    | some k => s.wr F.SLP_REF_ERR_value (unsigned 32 (satTo 32 (s.refErr k)))
    | none => s
  if st = stFree then s1.setFreq 0
  else if s.on F.STP_STATE_switching then s1
  else (s1.setFreq ((Config.freeValue s1.free).setWidth 32).toInt).useFree

/-- Division rounding to nearest, halves up. -/
def rndDiv (a b : Int) : Int := if b < 0 then (2 * -a - b) / (2 * -b) else (2 * a + b) / (2 * b)

/-- The VCXO code for a correction in ppb (R302). -/
def vcxoCode (preset : Nat) (corr kvco : Int) : Nat := (max 0 (min 0xFFFF ((preset : Int) + rndDiv (corr * 1000) kvco))).toNat

def State.dac (s : State) (n : Nat) : Dac := (assoc? s.stp.dacs n).getD ⟨0, false, false⟩
def State.setDac (s : State) (n : Nat) (d : Dac) : State := { s with stp := { s.stp with dacs := assocPut s.stp.dacs n d } }

/-- The audio loop (R302): the correction is the loop's output, a free value within ±pull_ppm; the code follows the
formula. In Free run the VCXO holds its preset; audio-led in Holdover its code is the steering average (R303). A slew on the audio side is
part of the correction (R309). -/
def State.audioLoop (s : State) : State :=
  let ch := s.rd F.ENG_RATE_family
  let lim : Int := (s.lv F.SLP_VCXO_pull_ppm : Int) * 1000
  let hold := (s.stpState == 3 || s.stpState == 4) && !s.ocxo
  let other := s.setDac (1 - ch) { s.dac (1 - ch) with target := s.rd F.DAC_PRESET_preset 0 (1 - ch) }
  let s0 := if s.lon (if ch = 0 then F.DAC_CFG_steer44 else F.DAC_CFG_steer48) then other else s
  if !s.lon (if ch = 0 then F.DAC_CFG_steer48 else F.DAC_CFG_steer44) then s0
  else if s.stpState = 0 then s0.setDac ch { s0.dac ch with target := s.rd F.DAC_PRESET_preset 0 ch }
  else if hold then
    s0.setDac ch { s0.dac ch with target := s.rd (if ch = 0 then F.SLP_AVG48_code else F.SLP_AVG44_code) }
  else
    let raw := ((Config.freeValue s0.free).setWidth 32).toInt + (if s.stp.slewAudio then s.stp.slew / 10 else 0)
    let corr := max (-lim) (min lim raw)
    let kv := signed 16 (s.lv F.SLP_VCXO_kvco)
    let code := if kv = 0 then ((Config.freeValue (s0.free + 1)).setWidth 16).toNat else vcxoCode (s.rd F.DAC_PRESET_preset 0 ch) corr kv
    let s1 := ((s0.setDac ch { s0.dac ch with target := code }).useFree 2).wr F.SLP_AUD_CORR_value (unsigned 32 (corr * 10))
    let limited := decide (raw ≤ -lim) || decide (lim ≤ raw)
    let n := if limited then s.stp.pulled + 1 else 0
    let s2 := { s1 with stp := { s1.stp with corr := corr * 10, pulled := n } }
    if limited ∧ s.fs ≤ n * s.blockLen ∧ s.stp.pulled * s.blockLen < s.fs then s2.raise 0x071 1 else s2

/-- What the Steeple does at a block boundary (R302, R308): the audio loop, the candidates of the ports, selection and the
reference loop. A follower of its Neighbour's time selects nothing (R340). -/
def State.steepleBlock (s : State) : State :=
  let s1 := s.audioLoop.portCands
  (if s1.followsTime then s1 else s1.selectRef).refLoop.showStp

/-- SLEW_END (R309, R310): the error lies within the lock window; the switch is complete. -/
def execSlewEnd (s : State) : Host.Outcome State Fault Refusal :=
  .next (match s.slewKey with
    | none => s
    | some k =>
      if s.on F.STP_STATE_switching ∧ (s.refErr k).natAbs ≤ s.window k then
        let f := if s.stp.slewAudio then s.freq else s.freq - s.stp.slew
        let s1 := { s with stp := { s.stp with slew := 0, slewAudio := false } }
        (((s1.setFreq f).wr F.STP_STATE_switching 0).bump F.STP_COUNTS_switches).raise 0x070 1
      else s)

/-- BANDWIDTH_STEP (R313): within the window for 4 / b seconds the loop narrows one rung; at bw_track it is Locked. -/
def execBandwidthStep (s : State) : Host.Outcome State Fault Refusal :=
  .next (match s.refKey with
    | none => s
    | some k =>
      if s.stpState = stAcquiring ∧ !s.on F.STP_STATE_switching ∧ (s.refErr k).natAbs ≤ s.window k then
        let b := s.rd F.STP_STATE_bw
        let t := s.lv F.SLP_BW_bw_track
        let s1 := if b < t then (s.wr F.STP_STATE_bw (b + 1)).raise 0x071 0 else s
        (if t ≤ b + 1 then s1.stpGo stLocked else s1).showStp
      else s)

/-- LOCK_LOSS (R311): the error outside 8 × the lock window for 1 s, with no switch in progress. -/
def execLockLoss (s : State) : Host.Outcome State Fault Refusal :=
  .next (match s.refKey with
    | none => s
    | some k =>
      if s.stpState = stLocked ∧ !s.on F.STP_STATE_switching ∧ 8 * s.window k < (s.refErr k).natAbs then (s.stpGo stAcquiring).showStp
      else s)

/-- HOLDOVER_EXPIRY (R311, R312): max_h hours of Holdover, where max_h is not 0. -/
def execHoldoverExpiry (s : State) : Host.Outcome State Fault Refusal :=
  let h := s.lv F.SLP_HOLD_max_h
  .next (if s.stpState = stHoldover ∧ h ≠ 0 ∧ h * 3600 ≤ s.rd F.SLP_HOLD_TIME_seconds then (s.stpGo stLost).showStp else s)

/-- AVERAGE_SAVE (R316): in Locked or on entry to Holdover both steering averages go to the settings. -/
def execAverageSave (s : State) : Host.Outcome State Fault Refusal :=
  .next (if s.stpState = stLocked ∨ s.stpState = stHoldover then
      s.saveSettings { s.boot.settings with avg48 := some (s.rd F.SLP_AVG48_code), avg44 := some (s.rd F.SLP_AVG44_code) }
    else s)

/-! ### APPLY on STP, SLP, TBS, LTC and DAC (R332) -/

/-- The value of a field in a pending set. -/
def PendSet.fld (p : PendSet) (s : State) (f : Fld) (i : Nat := 0) : Nat := bitsOf (p.word s (f.off + f.stride * i)).toNat f.lo f.width

/-- Ranges of the PTP profile (R318). -/
def badPtp (s : State) (p : PendSet) : Bool :=
  let st := p.fld s F.STP_PTP_profile == 1
  let i4 (f : Fld) : Int := signed 4 (p.fld s f)
  let out (v lo hi : Int) : Bool := decide (v < lo) || decide (hi < v)
  let sync := i4 F.STP_PTP_INT_log_sync
  let rec' : Int := p.fld s F.STP_PTP_INT_receipt
  decide (127 < p.fld s F.STP_PTP_domain) || out rec' 2 10 ||
  (if st then out sync (-7) (-1) || out (i4 F.STP_PTP_INT_log_announce) (-3) 1 || out (i4 F.STP_PTP_INT_log_delay) sync (sync + 5)
   else out sync (-4) 1 || out (i4 F.STP_PTP_INT_log_announce) 0 4 || out (i4 F.STP_PTP_INT_log_delay) (-3) 5) ||
  (p.fld s F.STP_PTP_role == 2 && p.fld s F.STP_PTP_en_a + p.fld s F.STP_PTP_en_b == 1)

/-- The outcome of a pending set of a Steeple page: 0x02, or the first refusal of R332 in the order of the codes. -/
def State.stpCheck (s : State) (p : PendSet) : Nat :=
  let f (x : Fld) : Nat := p.fld s x
  if p.page = 0x070 then
    if f F.STP_CFG_forced = 1 ∧ bitsOf (f F.STP_PRIO_prio) (4 * f F.STP_CFG_force) 4 = 0 then 0x10
    else if f F.STP_LIMITS_hard_ppb ≤ f F.STP_LIMITS_suspect_ppb ∨ 3600 < f F.STP_CFG_wtr_s ∨ f F.STP_QUAL_qual_s = 0 then 0x11
    else if badPtp s p then 0x12
    else if 4 < f F.STP_INPUT_wck_rate ∨ 9 < f F.STP_INPUT_vsync_rate then 0x13 else 0x02
  else if p.page = 0x071 then
    if f F.SLP_BW_bw_track < f F.SLP_BW_bw_acq ∨ 9 < f F.SLP_BW_bw_acq ∨ 9 < f F.SLP_BW_bw_track ∨ 9 < f F.SLP_BW_aud_bw ∨
      f F.SLP_SLEW_slew_ppb < 10 ∨ 50000 < f F.SLP_SLEW_slew_ppb ∨ f F.SLP_HOLD_avg_s < 60 ∨ 3600 < f F.SLP_HOLD_avg_s then 0x11
    else 0x02
  else if p.page = 0x072 then
    if 4 < f F.TBS_OUT_CFG_wck0 ∨ 4 < f F.TBS_OUT_CFG_wck1 ∨ 9 < f F.TBS_OUT_CFG_frame_rate then 0x13
    else if f F.TBS_SET_SEC_HI_go = 1 ∧ !s.followsTime ∧ (s.selected = some 0 ∨ s.selected = some 1) ∧ (s.stpState = 1 ∨ s.stpState = 2)
    then 0x14 else 0x02
  else if p.page = 0x074 then
    let tz := signed 12 (f F.LTC_OUT_CFG_tz_min)
    if 4 < f F.LTC_OUT_CFG_rate ∨ tz < -1440 ∨ 1440 < tz then 0x13 else 0x02
  else 0x02

/-- Outputs that are enabled now and were not before align; one whose rate changes runs on from its own last edge (R323). -/
def State.alignNew (s old : State) : State :=
  let bits := (List.range 5).foldl (fun (w : Nat) (k : Nat) => if s.outOn k ∧ !old.outOn k then w + 2 ^ k else w) 0
  let gone := (List.range 5).filter fun (k : Nat) => !s.outOn k
  let s1 := { s with stp := { s.stp with aligning := s.stp.aligning ||| bits, outs := s.stp.outs.filter fun (e : Nat × Nat) => !gone.contains e.1 } }
  [3, 4].foldl (fun (t : State) (k : Nat) =>
    match old.outEdge k with
    | none => t
    | some o =>
      if t.outRate k = old.outRate k ∨ !t.outOn k then t
      else
        let r := old.outRate k
        (t.setOutEdge k (if o ≤ t.stp.tb then o + gridInstant r (gridIndex r (t.stp.tb - o)) else o)).checkAligned k) s1

/-- A PTP role comes into force (R317): each enabled port takes its first state. -/
def State.ptpRole (s : State) : State :=
  let role := s.lv F.STP_PTP_role
  [0, 1].foldl (fun (t : State) (p : Nat) =>
    let en := if p = 0 then t.lon F.STP_PTP_en_a else t.lon F.STP_PTP_en_b
    let t1 := t.setPtpState p (if role = 0 then 1 else if !en then 3 else if role = 1 then 6 else 4)
    let t2 := t1.setPtp p PtpPort.zero
    if (t2.cand p).present then t2.losePresence p else t2) s

/-- A channel outputs `code`: V = code × G × V_ref / 65536, known where V_ref is the internal 1.2 V (R326). -/
def State.emitDac (s : State) (n code : Nat) : State :=
  let g := if (s.dac n).range2 then 2 else 1
  s.emit (.dac n code g (if s.lon F.DAC_CFG_vref_ext then none else some (code * g * 1200000000 / 65536)))

/-- The output code of a channel changes. -/
def State.outDac (s : State) (n code : Nat) : State := (s.wr F.DAC_STATUS_out code 0 n).emitDac n code

/-- The gain of a channel switches from ×2 to ×1 with the output at `out`, at most 0x7FFF; its target is in the new range
already (R329). -/
def State.gainDown (s : State) (n out : Nat) : State :=
  (s.setDac n { s.dac n with range2 := false, clipping := false }).outDac n (2 * out)

/-- A channel's range changes at a boundary (R329). A ×2-to-×1 change that waits for the output to fall keeps its target in
the new range; back in ×2 the change is withdrawn. -/
def State.dacRange (s : State) (n : Nat) (r2 : Bool) (fresh : Option Nat) : State :=
  let d := s.dac n
  let out := s.rd F.DAC_STATUS_out 0 n
  let set (t : State) (x : Dac) : State := t.setDac n x
  if d.clipping then
    if r2 then set s { d with clipping := false, target := fresh.getD ((d.target + 1) / 2) }
    else set s { d with target := fresh.getD d.target }
  else if r2 = d.range2 then set s { d with target := fresh.getD d.target }
  else if r2 then (set s { d with range2 := true, target := fresh.getD ((d.target + 1) / 2) }).outDac n ((out + 1) / 2)
  else
    let t := set s { d with target := fresh.getD (min (2 * d.target) 0xFFFE) }
    if 0x7FFF < out then t.setDac n { t.dac n with clipping := true } else t.gainDown n out

/-- A DAC channel's settings change at a boundary (R327, R329): enable starts at the preset code, with no slew; a code
counts where it differs from the one in force before or the channel steered until now, and never on a steering channel (at a
range change DEDUCED, log entry 67). -/
def State.dacChange (s old : State) (n : Nat) : State :=
  let on := s.lon F.DAC_CTRL_enable 0 n
  let was := old.lon F.DAC_CTRL_enable 0 n
  let r2 := s.lon F.DAC_CTRL_range 0 n
  let steers := n < 2 && s.lon (if n = 0 then F.DAC_CFG_steer48 else F.DAC_CFG_steer44)
  let code := s.lv F.DAC_CODE_target 0 n
  let steered := n < 2 && old.lon (if n = 0 then F.DAC_CFG_steer48 else F.DAC_CFG_steer44)
  let fresh := if !steers ∧ (code ≠ old.lv F.DAC_CODE_target 0 n ∨ steered) then some code else none
  let d := s.dac n
  let s0 := s.wr F.DAC_STATUS_steering (b2n (steers && on)) 0 n
  if !on then (s0.setDac n { d with target := if steers then d.target else code, range2 := r2, clipping := false }).wr F.DAC_STATUS_on 0 0 n
  else if !was then
    let preset := s.rd F.DAC_PRESET_preset 0 n
    ((s0.setDac n ⟨if steers then preset else code, r2, false⟩).wr F.DAC_STATUS_on 1 0 n).outDac n preset
  else
    let t := s0.dacRange n r2 fresh
    if s.lon F.DAC_CFG_vref_ext = old.lon F.DAC_CFG_vref_ext then t else t.emitDac n (t.rd F.DAC_STATUS_out 0 n)

/-- A pending set of STP, SLP, TBS, LTC or DAC comes due (R332, R339): refused, or in force with what its change starts. -/
def State.applySteeple (s : State) (p : PendSet) : State :=
  let code := s.stpCheck p
  if code ≠ 0x02 then s.endPend p.page code
  else
    let t := s.enforce p
    if p.page = 0x070 then
      let t1 := if t.lv F.STP_INPUT_wck_rate = 0 ∧ (t.cand 2).present then t.losePresence 2 else t
      (if t1.liveReg 0x70080 = s.liveReg 0x70080 then t1 else t1.ptpRole).showStp
    else if p.page = 0x072 then
      let t1 := t.alignNew s
      if t.lon F.TBS_SET_SEC_HI_go ∧ !s.followsTime then
        let sec := t.lv F.TBS_SET_SEC_LO_set + t.lv F.TBS_SET_SEC_HI_set * 2 ^ 32
        (t1.jumpTime ((sec * 1000000000 + t.lv F.TBS_SET_NS_set) * 10 ^ 10)).bump F.TBS_STEPS_sets |>.showStp
      else t1.showStp
    else if p.page = 0x074 then t.alignNew s
    else if p.page = 0x078 then (List.range 8).foldl (fun (u : State) (n : Nat) => u.dacChange s n) t
    else t

/-! ### Edge capture and LTC (R324, R325) -/

/-- The period a phase candidate expects, in ns × its rate numerator, and its candidate: 2 WCK_IN, 4 VSYNC_IN, 6 PPS_IN. -/
def State.candRate (s : State) (k : Nat) : Nat × Nat :=
  if k = 2 then (s.wckRate (s.lv F.STP_INPUT_wck_rate), 1)
  else if k = 3 then ((if s.on F.ENG_RATE_family then 44100 else 48000) * s.aesMult.getD 1, 1)
  else if k = 4 then frameRate (s.lv F.STP_INPUT_vsync_rate) else (1, 1)

/-- The error of an edge stamp against the nearest anchor, wrapped into (−period/2, period/2] (R304). -/
def anchorErr (r : Nat × Nat) (t : Int) : Int :=
  let i := t * r.1 / (r.2 * 1000000000)
  let a := i * (r.2 * 1000000000) / r.1
  let b := (i + 1) * (r.2 * 1000000000) / r.1
  if 2 * (t - a) ≤ b - a then t - a else t - b

/-- A marking edge of phase candidate `k` at stamp `ns`: its error, and presence by its latest periods, which are measured
in TIME cycles (R304). -/
def State.candEdge (s : State) (k ns : Nat) : State :=
  let r := s.candRate k
  let c := s.cand k
  let t := 2 * s.stp.cycles
  let tol : Nat := if k = 6 then 1000 else r.2 * 1000000 / r.1
  let per := r.2 * 1000000000 / r.1
  let good := match c.edge with
    | some e => decide (e ≤ t) && decide (t - e ≤ per + tol) && decide (per ≤ t - e + tol)
    | none => false
  let run := if good then min 16 (c.run + 1) else 0
  let err := anchorErr r ((ns : Int) + signed 32 (s.lv F.STP_OFS_ofs 0 k))
  let s1 := s.setCand k { c with err := err, edge := some t, run := run }
  if k = 3 then s1
  else if (if k = 6 then 2 else 16) ≤ run then s1.gainPresence k
  else if c.present ∧ !good then s1.losePresence k else s1

/-- The candidate that an edge of a source marks (R304). -/
def State.markedCand (s : State) (source : Nat) (falling : Bool) : Option Nat :=
  if source = 32 ∧ !falling ∧ s.lv F.STP_INPUT_wck_rate ≠ 0 then some 2
  else if source = 37 then some 3
  else if source = 35 ∧ falling = s.lon F.STP_INPUT_vsync_edge then some 4
  else if source = 34 ∧ falling = s.lon F.STP_INPUT_pps_edge then some 6
  else none

/-- Record a capture in the FIFO, or drop it (R324). -/
def State.pushCapture (s : State) (c : EdgCapture) : State :=
  if 256 ≤ s.stp.fifo.length then (s.bump F.EDG_LEVEL_dropped).raise 0x073 1
  else
    let s1 := { s with stp := { s.stp with fifo := s.stp.fifo ++ [c] } }
    (s1.wr F.EDG_LEVEL_level s1.stp.fifo.length).raise 0x073 0

/-- The GPIO page sees an edge of pin `g` (R476, R477). -/
def State.gpioEdge (s : State) (g : Nat) (falling : Bool) : State :=
  let s1 := s.wr ((F.GIO_IN_bits).part g 1) (b2n !falling)
  if bitAt (s.rd (if falling then F.GIO_FALL_bits else F.GIO_RISE_bits)) g then s1.raise 0x0CB g else s1

/-- EDGE_CAPTURE (R324, R304, R122): an edge on a capture source, whose level held for `held` ns; a GPIO pulse shorter than
the glitch filter is ignored. Selected edges count for the FIFO; cues and candidates take theirs directly. -/
def execEdgeCapture (source : Nat) (falling : Bool) (held : Nat) (s : State) : Host.Outcome State Fault Refusal :=
  .next (if 38 ≤ source then s
    else
      let ns := s.tbNs / 2 * 2
      let s0 := if source < 32 then s.gpioEdge source falling else s
      if source < 32 ∧ held < 20 * s.rd F.EDG_SRC_glitch 0 source then s0
      else
        let s1 := if source < 32 then s0.gpioCue source (!falling) s.now else s0
        let s2 := match s1.markedCand source falling with
          | some k => s1.candEdge k ns
          | none => s1
        let sel := s.rd F.EDG_SRC_edge 0 source
        let wanted := if source = 33 then !falling && sel != 0 else sel == 3 || (sel == 1 && !falling) || (sel == 2 && falling)
        if wanted ∧ s.on F.EDG_SRC_fifo 0 source then
          let n := (assoc? s2.stp.edges source).getD 0 + 1
          let every := if source = 33 then 10000000 else s.rd F.EDG_SRC_prescale 0 source + 1
          let s3 := { s2 with stp := { s2.stp with edges := assocPut s2.stp.edges source (if every ≤ n then 0 else n) } }
          if every ≤ n then s3.pushCapture ⟨source, falling, ns, s.now % 2 ^ 32⟩ else s3
        else s2)

/-- EDG_INFO_READ (R336): the oldest entry pops and its stamp is latched; an empty FIFO answers 0. -/
def execEdgInfoRead (ini : Initiator) (s : State) : Host.Outcome State Fault Refusal :=
  .next (if s.portShut ini then s else match s.stp.fifo with
    | [] => s.respond ini 0
    | c :: rest =>
      let s1 := { s with stp := { s.stp with fifo := rest } }
      let s2 := ((((s1.wr F.EDG_LEVEL_level rest.length).wr F.EDG_NS_value (nsOf c.ns)).wr F.EDG_SEC_LO_stamp (secOf c.ns % 2 ^ 32)).wr
        F.EDG_SEC_HI_value (secOf c.ns / 2 ^ 32)).wr F.EDG_ESI_stamp c.esi
      s2.respond ini (1 + 2 * c.source + 128 * b2n c.falling))

/-- LTC_FRAME (R325): a frame is decoded; two valid sync words in a row lock the decoder, and each frame of a locked
decoder is held with its boundary stamp. -/
def execLtcFrame (frame : LtcIn) (s : State) : Host.Outcome State Fault Refusal :=
  .next (if !s.on F.LTC_IN_CFG_enable then s
    else if !frame.ok then ({ s with stp := { s.stp with ltcSync := 0 } }).bump F.LTC_IN_ERR_bad
    else
      let n := min 2 (s.stp.ltcSync + 1)
      let s1 := { s with stp := { s.stp with ltcSync := n } }
      if n < 2 ∧ !s.on F.LTC_IN_STATUS_locked then s1
      else
        let ns := s.tbNs - frame.ago
        let held : LtcFrame := ⟨frame.time % 2 ^ 30, frame.user % 2 ^ 32, ns, (s.now - frame.ago * s.fs / 1000000000) % 2 ^ 32⟩
        let s2 := if s.on F.LTC_IN_STATUS_locked then s1 else (s1.wr F.LTC_IN_STATUS_locked 1).raise 0x074 1
        let s3 := (s2.wr F.LTC_IN_STATUS_rate frame.rate).wr F.LTC_IN_STATUS_speed frame.speed
        (({ s3 with stp := { s3.stp with ltc := some held } }).setReg 0x7404C (BitVec.ofNat 32 (held.time + 2 ^ 31))).raise 0x074 0)

/-- LTC_LOST (R325): four expected frames without a sync word. -/
def execLtcLost (s : State) : Host.Outcome State Fault Refusal :=
  .next (if s.on F.LTC_IN_STATUS_locked then
      (({ s with stp := { s.stp with ltcSync := 0 } }).wr F.LTC_IN_STATUS_locked 0).raise 0x074 2
    else s)

/-- LTC_IN_TIME_READ (R337): the held frame's time address, latching its user bits and stamps. -/
def execLtcInTimeRead (ini : Initiator) (s : State) : Host.Outcome State Fault Refusal :=
  let v := (s.reg 0x7404C).toNat
  .next (if s.portShut ini then s else match s.stp.ltc with
    | none => s.respond ini v
    | some f => ((((s.wr F.LTC_IN_USER_value f.user).wr F.LTC_IN_STAMP_NS_value (nsOf f.ns)).wr F.LTC_IN_STAMP_SEC_value (secOf f.ns % 2 ^ 32)).wr
        F.LTC_IN_ESI_value f.esi).respond ini v)

/-- TBS_NOW_NS_READ (R335): the timebase's nanoseconds, latching its seconds for that initiator. -/
def execTbsNowNsRead (ini : Initiator) (s : State) : Host.Outcome State Fault Refusal :=
  let ns := s.tbNs
  let s1 := { s with host := { s.host with latches := assocPut s.host.latches (2 * 8 + ini.port) (BitVec.ofNat 64 (secOf ns)) } }
  .next (if s.portShut ini then s else s1.respond ini (nsOf ns))

/-! ### The DAC (R327–R331) -/

/-- The code a channel moves toward: the safe code or its present code in fail-safe (R331), 0x7FFF before a ×2-to-×1
change (R329), else its target. -/
def State.dacGoal (s : State) (n : Nat) : Nat :=
  let d := s.dac n
  let out := s.rd F.DAC_STATUS_out 0 n
  if s.outputsSafe then (if s.lon F.DAC_CTRL_safe_hold 0 n then out else s.rd F.DAC_PRESET_safe 0 n)
  else if d.clipping then 0x7FFF else d.target

/-- DAC_SLEW_STEP (R328, R329): the output code moves toward its goal by at most `step` LSB; a pending ×2-to-×1 change
switches the gain once the output is at 0x7FFF or below. -/
def execDacSlewStep (channel : Nat) (s : State) : Host.Outcome State Fault Refusal :=
  let n := channel
  .next (if 8 ≤ n ∨ !s.on F.DAC_STATUS_on 0 n then s
    else
      let out := s.rd F.DAC_STATUS_out 0 n
      let goal := s.dacGoal n
      let step := s.lv F.DAC_CTRL_step 0 n + 1
      let next := if out < goal then min goal (out + step) else max goal (out - step)
      if (s.dac n).clipping ∧ !s.outputsSafe ∧ min out next ≤ 0x7FFF then
        ((s.gainDown n (min out next)).wr F.DAC_STATUS_range_clip 1 0 n).raise 0x078 1
      else if next = out then s
      else s.outDac n next)

/-- DAC_STATUSn with its slewing bit: the output of a channel that is on is not yet at its goal (R338). -/
def State.dacView (s : State) (n w : Nat) : Nat :=
  setBitsOf w 17 1 (b2n (s.on F.DAC_STATUS_on 0 n && s.rd F.DAC_STATUS_out 0 n != s.dacGoal n))

/-- DAC_OVERLOAD (R330): a channel at its current limit sets sc and drives on. -/
def execDacOverload (channel : Nat) (s : State) : Host.Outcome State Fault Refusal :=
  .next (if channel < 8 ∧ s.on F.DAC_STATUS_on 0 channel then (s.wr F.DAC_STATUS_sc 1 0 channel).raise 0x078 0 else s)

end Sys2Proof.Machine
end

