-- ==== Sys2Proof/Machine/Neighbour.lean ====
section
/-! DEFINITION. The Neighbour link (chapter 11): frames, digests and the scan, conditions of the Standby, heartbeats,
grants, drills and demotion. What needs the streams or the register bus stands in Pair. -/
namespace Sys2Proof.Machine

/-! ### Role and condition -/

/-- The role, shown on the NBR and SYS pages (R364, R367). -/
def State.setRole (s : State) (r : Nat) : State := (s.wr F.NBR_STATE_role r).wr F.SYS_MODE_STATE_role r
def State.role (s : State) : Nat := s.rd F.NBR_STATE_role
def State.nbrCond (s : State) : Nat := s.rd F.NBR_STATE_cond

/-- The chip is checked against its Neighbour: Standby, or follower in Proving (R350). -/
def State.checked (s : State) : Bool := s.role == 2 || (s.role == 3 && !s.on F.NBR_STATE_lead)

/-- A change of condition (R350): cond_change, the Roll, and for DIVERGED its count, reason and block. -/
def State.setCond (s : State) (c reason : Nat) : State :=
  if s.nbrCond = c then s
  else
    let s1 := ((s.wr F.NBR_STATE_cond c).raise 0x0A0 0).rollHw 0x0A0 0 c reason
    if c = 5 then
      let s3 := (s1.wr F.NBR_STATE_reason reason).bump F.NBR_COUNTS_divergences
      { s3 with nbr := { s3.nbr with recopy := true, clean := 0, copiesFailed := s3.nbr.copiesFailed + (if s.nbrCond = 3 then 1 else 0) } }
    else if c = 2 then
      ({ s1 with nbr := { s1.nbr with recopy := false, clean := 0 } }.wr F.NBR_COPY_DONE_chunks 0).wr F.NBR_COPY_TOTAL_chunks s1.copyChunks.length
    else if c = 3 then { s1 with nbr := { s1.nbr with clean := 0 } }
    else if c = 4 then { s1 with nbr := { s1.nbr with copiesFailed := 0 } }
    else s1

/-- A check fails or an item is late: CONFIRMING and READY become DIVERGED; NBR_DIVERGE_ESI names the first block found since
its last read (R346, R348–R350, R364). -/
def State.diverge (s : State) (reason block : Nat) : State :=
  if s.checked ∧ (s.nbrCond = 3 ∨ s.nbrCond = 4) then
    (s.setCond 5 reason).when (s.rd F.NBR_DIVERGE_ESI_value == 0) fun (t : State) => t.wr F.NBR_DIVERGE_ESI_value (block * s.blockLen % 2 ^ 32)
  else s

/-- The unit ID (R357). -/
def State.unitId (s : State) : Nat := (List.range 4).foldr (fun (i : Nat) (a : Nat) => s.rd F.SYS_UID_uid 0 i + a * 2 ^ 32) 0

/-- The configuration digest (R350, R492): SHA-256 of the configuration in force, or before an engine start of the one held for
the rate; 0 without one. -/
def State.cfgDigest (s : State) : Nat :=
  if s.boot.inForce ≠ [] then sha256 s.boot.inForce else (s.heldCfg s.rateKey).elim 0 sha256

/-- MATCHING ends when the digests are equal, the map is accepted and the engine runs; unequal digests hold it (R350). -/
def State.tryCopy (s : State) : State :=
  if s.nbrCond ≠ 1 ∨ s.leads then s
  else match s.nbr.peerDigest with
    | none => s
    | some d =>
      if d ≠ s.cfgDigest then s.wr F.NBR_STATE_reason 6
      else if s.rd F.NBR_MAP_value = 0 ∧ s.running then s.setCond 2 0 else s

/-- The chip takes role Standby after a fault declaration or a dual-Active resolution (R354, R357). -/
def State.demote (s : State) : State :=
  let s1 := ((s.setRole 2).wr F.NBR_STATE_lead 0).raise 0x0A0 4
  ({ s1 with nbr := { s1.nbr with declareAt := none } }.setCond 5 7).wr F.NBR_STATE_reason 7

/-! ### Receiving frames in order (R363) -/

/-- The digest of write records: bit 3 of every tag counts as 0 (R33, R347). -/
def State.recTerms (s : State) (recs : List WriteRec) : Nat :=
  recs.foldl (fun (a : Nat) (r : WriteRec) => (a + digestTerm r.addr r.strobes (s.digestBytes r.addr r.data)) % 2 ^ 128) 0

/-- Store the strobed bytes of write records. -/
def State.storeRecs (s : State) (recs : List WriteRec) : State :=
  recs.foldl (fun (t : State) (r : WriteRec) =>
    r.data.zipIdx.foldl (fun (u : State) (b : Byte × Nat) => if bitAt r.strobes b.2 then u.setByte (r.addr + b.2) b.1 else u) t) s

/-- A frame received while the link is up: the next in order acts and is acknowledged; any other is a repeat or follows a
failed frame, and is dropped (R363). -/
def State.nbrRecv (s : State) (seq : Nat) (act : State → State) : State :=
  if s.on F.DRB_STATUS_up ∧ seq = s.nbr.rxSeq then
    let s1 := { s with nbr := { s.nbr with rxSeq := (seq + 1) % 2 ^ 16, crcRun := 0 } }
    (act s1).emitDreba 9 seq []
  else s

/-- TIME_FRAME (R340, R314): a mark of the leader. The follower takes the link delay, steps by the whole error on the first
mark, and follows the later ones. -/
def execTimeFrame (seq esi ns rtt : Nat) (s : State) : Host.Outcome State Fault Refusal :=
  .next (s.nbrRecv seq fun (t : State) =>
    let t1 := t.wr F.DRB_STATUS_rtt_ns rtt
    if t1.role = 1 ∨ t1.role = 0 ∨ t1.on F.NBR_STATE_lead then t1
    else
      let delay : Int := (rtt / 2 : Nat) + signed 16 (t1.rd F.DRB_CFG_asym_ns)
      let err : Int := (t1.tbNs : Int) - ((ns : Int) + delay)
      if !t1.stp.marked then
        let t2 := t1.stepTime err
        let t3 := { t2 with stp := { t2.stp with marked := true } }
        (((t3.setCand 8 { t3.cand 8 with err := 0, present := true, qualified := true }).wr F.STP_STATE_selected 0xF).wr F.STP_STATE_switching 0
          |>.stpGo stAcquiring).showStp
      else t1.setCand 8 { t1.cand 8 with err := err, edge := some esi })

/-- HOT_FRAME (R344, R348, R351): HOT writes and ASRC samples of the Active. They join the received hot digest; in COPYING
they are stored. ASRC samples that arrive after Gather of the block before are late. -/
def execHotFrame (seq block : Nat) (recs : List WriteRec) (asrc : List (Nat × List Word)) (s : State) : Host.Outcome State Fault Refusal :=
  .next (s.nbrRecv seq fun (t : State) =>
    if !t.checked then t
    else
      let old := (assoc? t.nbr.recv block).getD 0
      let keep := (t.nbr.asrc.filter fun (e : Nat × List Word) => decide (t.now / t.blockLen ≤ e.1 / 16384 + 1)) ++
        asrc.map fun (e : Nat × List Word) => (block * 16384 + e.1, e.2)
      let t1 := { t with nbr := { t.nbr with recv := assocPut (t.nbr.recv.filter fun (e : Nat × Nat) => decide (block ≤ e.1 + 16)) block ((old + t.recTerms recs) % 2 ^ 128), asrc := keep } }
      let t2 := if t.copying then t1.storeRecs recs else t1
      if asrc ≠ [] ∧ block * t.blockLen ≤ t.now then t2.diverge 4 block else t2)

/-- LONG_FRAME (R351): in COPYING the Active's LONG writes are stored. -/
def execLongFrame (seq block : Nat) (recs : List WriteRec) (s : State) : Host.Outcome State Fault Refusal :=
  .next (s.nbrRecv seq fun (t : State) => if t.checked ∧ t.copying ∧ block ≤ t.now then t.storeRecs recs else t)

/-- A bank write of the Active whose boundary is `b` (R344, R346): stored in the period before `b`, or at once where it is
later, in force from `b` while its first use is still to come, and late after that. -/
def State.bankItem (s : State) (b a : Nat) (data : List Byte) : State :=
  let l := s.blockLen
  if s.now + l < b then { s with nbr := { s.nbr with bankWait := s.nbr.bankWait ++ [(b, a, data)] } }
  else
    let t := s.granaryStore a data
    if s.now < b then t
    else if s.now < b + l then t.looseInForce b
    else t.diverge 4 (b / l)

/-- BANK_FRAME (R344, R346): a write of the Active to either bank, in force from its boundary. -/
def execBankFrame (seq boundary addr : Nat) (data : List Byte) (s : State) : Host.Outcome State Fault Refusal :=
  .next (s.nbrRecv seq fun (t : State) => if t.checked ∧ (bankOf addr).isSome then t.bankItem boundary addr data else t)

/-- CHUNK_FRAME (R351): a chunk of HOT, LONG or BANK content is stored in COPYING. -/
def execChunkFrame (seq addr : Nat) (data : List Byte) (s : State) : Host.Outcome State Fault Refusal :=
  .next (s.nbrRecv seq fun (t : State) =>
    if t.checked ∧ t.copying then
      let t1 := t.setBytes addr data
      if t.copyChunks.any fun (c : Nat × Nat) => c.1 + c.2 == addr + data.length then t1.bump F.NBR_COPY_DONE_chunks else t1
    else t)

/-- Compare the digests of block period `n` once own digests and the trailer are held (R348). -/
def State.checkBlock (s : State) (n : Nat) : State :=
  match s.nbr.own.find? (fun (e : Nat × Nat × Nat) => e.1 == n), s.nbr.trailers.find? (fun (e : Nat × Nat × Nat) => e.1 == n) with
  | some o, some t =>
    if !s.checked ∨ s.now / s.blockLen ≤ n ∨ (s.nbrCond ≠ 3 ∧ s.nbrCond ≠ 4) then s
    else if o.2.1 ≠ t.2.1 ∨ (assoc? s.nbr.recv n).getD 0 ≠ t.2.1 then s.diverge 1 n
    else if o.2.2 ≠ t.2.2 then s.diverge 2 n
    else { s with nbr := { s.nbr with clean := s.nbr.clean + 1 } }
  | _, _ => s

/-- The Neighbour's latest trailer is recorded. -/
def State.noteTrailer (s : State) (tr : TrailerIn) : State :=
  let n := s.nbr
  let ts := (n.trailers.filter fun (e : Nat × Nat × Nat) => decide (tr.block ≤ e.1 + 16) && e.1 != tr.block) ++ [(tr.block, tr.hot, tr.long)]
  let m : Nbr := { n with drebaSeen := true, peerEpoch := tr.epoch, peerFault := n.peerFault || tr.fault, trailers := ts }
  ({ s with nbr := m } : State).wr F.NBR_STATE_peer_role tr.role

/-- A former Active in a drill takes Standby with condition CONFIRMING at the takeover (R361). -/
def State.endDrill (s : State) : State :=
  let t := (s.setRole 2).wr F.NBR_STATE_lead 0
  let n : Nbr := { t.nbr with drilling := false, drillAt := none }
  ({ t with nbr := n } : State).setCond 3 0

/-- Two Actives: the chip with the lower pair epoch, or at equal epochs the lower unit ID, takes Standby at the next
boundary (R357). -/
def State.dualActive (s : State) (epoch : Nat) : State :=
  let own := s.rd F.NBR_EPOCH_value
  let lower := decide (own < epoch) || (own == epoch && decide (s.unitId < s.nbr.peerUid.getD 0))
  let t := s.raise 0x0A0 5
  if lower then ({ t with nbr := { t.nbr with declareAt := some (nextBlock s.blockLen s.now) } } : State) else t

/-- An Active reports the condition that its Neighbour's trailers give; a Neighbour that enters COPYING is copied from the
first chunk (R350, R351). -/
def State.peerCond (s : State) (c : Nat) : State :=
  let t := s.setCond c 0
  if c = 2 ∧ s.nbrCond ≠ 2 then ({ t with nbr := { t.nbr with copyNext := 0 } } : State) else t

/-- TRAILER_FRAME (R348, R352, R357): the Neighbour's heartbeat, role, condition and digests of a block period. -/
def execTrailerFrame (seq : Nat) (trailer : TrailerIn) (s : State) : Host.Outcome State Fault Refusal :=
  .next (s.nbrRecv seq fun (t : State) =>
    let u := t.noteTrailer trailer
    if !u.leads then u.checkBlock trailer.block
    else if trailer.role ≠ 1 then u.peerCond trailer.cond
    else if u.nbr.drilling then u.endDrill
    else u.dualActive trailer.epoch)

/-- SCAN_FRAME (R349): the Active's chunk hashes against the Standby's own of the same period; a chunk that either wrote is
skipped. -/
def execScanFrame (seq block : Nat) (hashes : List (Nat × Nat)) (s : State) : Host.Outcome State Fault Refusal :=
  .next (s.nbrRecv seq fun (t : State) =>
    (t.nbr.scans.filter fun (e : Nat × Nat × Option Nat) => e.1 == block).foldl (fun (u : State) (e : Nat × Nat × Option Nat) =>
      match assoc? hashes e.2.1, e.2.2 with
      | some h, some own => if h = own then u else u.diverge 3 block
      | _, _ => u.bump F.NBR_SCAN_skipped) t)

/-- ACK_FRAME (R363): frames up to the sequence number leave the replay buffer. -/
def execAckFrame (seq : Nat) (s : State) : Host.Outcome State Fault Refusal :=
  .next { s with nbr := { s.nbr with replay := s.nbr.replay.filter fun (e : Nat × Nat × List Nat × List Byte) => decide ((seq + 2 ^ 16 - e.1) % 2 ^ 16 ≥ 2 ^ 15) } }

/-- NAK_FRAME (R363): frames are sent again from the failed one on. -/
def execNakFrame (seq : Nat) (s : State) : Host.Outcome State Fault Refusal :=
  .next ((s.nbr.replay.filter fun (e : Nat × Nat × List Nat × List Byte) => decide ((e.1 + 2 ^ 16 - seq) % 2 ^ 16 < 2 ^ 15)).foldl
    (fun (t : State) (e : Nat × Nat × List Nat × List Byte) => t.emit (.dreba e.2.1 (e.1 :: e.2.2.1) e.2.2.2)) s)

/-- The link goes down (R362, R350): DETACHED, and a follow loop without its marks holds over (R340). -/
def State.linkDown (s : State) (laneFault : Bool) : State :=
  if !s.on F.DRB_STATUS_up then s
  else
    let s1 := ((((s.wr F.DRB_STATUS_up 0).wr F.DRB_STATUS_aligned 0).bump F.DRB_ERRORS_downs).raise 0x0A1 0).when laneFault fun (t : State) => t.raise 0x0A1 1
    let follow := s.followsTime
    let n : Nbr := { s1.nbr with replay := [], crcRun := 0, condWas := s.nbrCond, peerDigest := none, trailers := [], recv := [], scans := [] }
    let s2 : State := { s1 with nbr := n, stp := { s1.stp with marked := false } }
    let s3 := s2.setCond 0 0
    if follow ∧ (s.stpState = 1 ∨ s.stpState = 2) then s3.loseRef else s3

/-- DREBA_CRC_ERROR (R363, R362): a NAK and a count; 16 in a row take the link down. -/
def execDrebaCrcError (s : State) : Host.Outcome State Fault Refusal :=
  .next (if s.on F.DRB_STATUS_up then
      let s1 := ({ s with nbr := { s.nbr with crcRun := s.nbr.crcRun + 1 } }.bump F.DRB_ERRORS_crc).emitDreba 0xA s.nbr.rxSeq []
      if 16 ≤ s1.nbr.crcRun then s1.linkDown false else s1
    else s)

/-- A new link session: sequence numbers restart, and what the Neighbour last told is forgotten (R363). -/
def State.newSession (s : State) : State := s.modNbr fun (n : Nbr) =>
  { n with replay := [], txSeq := 0, rxSeq := 0, crcRun := 0, condWas := 0, peerUid := none, peerDigest := none,
           copiesFailed := 0 }

/-- What each chip tells its Neighbour in CTRL frames as the link comes up (R350, R357, R507): its unit ID, its
configuration digest, and the pair-protocol range of its image; a leader that runs names a boundary at which the follower
joins (R341; kind 5, where 4 is a start of both chips). -/
def State.introduce (s : State) : State :=
  let s1 := (s.nbrSend 5 [4, s.unitId]).nbrSend 5 [5, s.cfgDigest]
  let s2 := match s.boot.running with
    | some im => s1.nbrSend 5 [7, im.pairLo, im.pairHi]
    | none => s1
  if s.running ∧ s.leads then
    s2.nbrSend 5 [3, nextBlock s.blockLen s.now, 5, (s.reg 0x64).toNat % 64]
  else s2

/-- DREBA_LINK_UP (R362, R350, R357): all lanes lock and align; unit IDs and configuration digests are exchanged; a paired
chip starts MATCHING. -/
def execDrebaLinkUp (s : State) : Host.Outcome State Fault Refusal :=
  .next (if s.on F.DRB_STATUS_up ∨ !s.on F.DRB_CFG_enable then s
    else
      let s1 := (((s.wr F.DRB_STATUS_up 1).wr F.DRB_STATUS_lock 0xF).wr F.DRB_STATUS_aligned 1).raise 0x0A1 0
      let s2 := s1.newSession.introduce
      if s2.lon F.NBR_CFG_pair_en ∧ s2.nbrCond = 0 then s2.setCond 1 0 else s2)

/-- DREBA_LINK_DOWN (R362): a lane loses block lock. -/
def execDrebaLinkDown (lane : Option Nat) (s : State) : Host.Outcome State Fault Refusal :=
  let s1 := match lane with
    | some i => s.wr ((F.DRB_STATUS_lock).part i 1) 0
    | none => s
  .next (s1.linkDown lane.isSome)

/-- TRAILER_TIMEOUT (R348): no trailer of block period `block` by the end of period block + 2. -/
def execTrailerTimeout (block : Nat) (s : State) : Host.Outcome State Fault Refusal :=
  .next (if s.nbr.trailers.any (fun (e : Nat × Nat × Nat) => e.1 == block) ∨ s.now < (block + 3) * s.blockLen then s else s.diverge 5 block)

/-! ### Copy exit, confirmation, recopy (R350, R351) -/

/-- COPY_EXIT (R351): every chunk is in and the trailer of the block period before this boundary has been applied. -/
def execCopyExit (s : State) : Host.Outcome State Fault Refusal :=
  let l := s.blockLen
  .next (if s.checked ∧ s.nbrCond = 2 ∧ s.now % l = 0 ∧ s.rd F.NBR_COPY_TOTAL_chunks ≤ s.rd F.NBR_COPY_DONE_chunks ∧
      s.nbr.trailers.any (fun (e : Nat × Nat × Nat) => e.1 + 1 == s.now / l) then s.setCond 3 0 else s)

/-- CONFIRM_CLEAN (R350): `confirm` consecutive clean blocks make the Standby READY. -/
def execConfirmClean (s : State) : Host.Outcome State Fault Refusal :=
  .next (if s.checked ∧ s.nbrCond = 3 ∧ s.lv F.NBR_CFG_confirm ≤ s.nbr.clean then s.setCond 4 0 else s)

/-- RECOPY (R350): at the boundary after DIVERGED, with fewer than 3 failed copies. -/
def execRecopy (s : State) : Host.Outcome State Fault Refusal :=
  .next (if s.checked ∧ s.nbrCond = 5 ∧ s.nbr.recopy ∧ s.nbr.copiesFailed < 3 then s.setCond 2 0 else s)

/-- A write of NBR_CTRL: resync (R350), drill (R361) and declare (R354). -/
def State.nbrCtrl (s : State) (v : Nat) : State :=
  let s1 := if bitAt v 0 ∧ s.checked ∧ s.nbrCond = 5 then s.setCond 2 0 else s
  let s2 := if bitAt v 1 then
      if s1.role = 1 ∧ s1.rd F.SYS_MODE_STATE_service = 1 ∧ s1.nbrCond = 4 ∧ s1.lv F.NBR_CFG_hb_blocks ≤ 2 then
        { s1 with nbr := { s1.nbr with drillAt := some (nextBlock s1.blockLen s1.now) } }
      else s1.raise 0x0A0 7
    else s1
  if bitAt v 2 then s2.declareFault else s2

/-- RESYNC (R350): a write of NBR_CTRL. -/
def execResync (value : Word) (s : State) : Host.Outcome State Fault Refusal := .next (s.nbrCtrl value.toNat)

/-- DRILL (R361): a write of NBR_CTRL. -/
def execDrill (value : Word) (s : State) : Host.Outcome State Fault Refusal := .next (s.nbrCtrl value.toNat)

/-- DECLARE (R354): a write of NBR_CTRL. -/
def execDeclare (value : Word) (s : State) : Host.Outcome State Fault Refusal := .next (s.nbrCtrl value.toNat)

/-- DRILL_FAIL (R361): at b_d the Active stops its heartbeats and gates its output, and computes on. -/
def execDrillFail (s : State) : Host.Outcome State Fault Refusal :=
  .next (match s.nbr.drillAt with
    | some b => if b ≤ s.now ∧ s.role = 1 then { s with nbr := { s.nbr with drilling := true, drillAt := none } } else s
    | none => s)

/-! ### Heartbeats (R352, R353) -/

/-- HEARTBEAT_PULSE (R352): an alive code or a fault declaration on NB_HB_IN. -/
def execHeartbeatPulse (fault : Bool) (s : State) : Host.Outcome State Fault Refusal :=
  .next { s with nbr := { s.nbr with hbSeen := true, peerFault := s.nbr.peerFault || fault } }

/-- Silent boundaries for failure (R353). -/
def State.hbBlocks (s : State) : Nat := s.lv F.NBR_CFG_hb_blocks + 1

/-- PATH_SILENT (R353): at b + 40 µs the heartbeats of both paths are counted; a path silent for hb_blocks boundaries sets
path_alarm, or on an Active peer_lost. -/
def execPathSilent (s : State) : Host.Outcome State Fault Refusal :=
  .next (if s.role = 0 then s
    else
      let n := s.nbr
      let d := if n.drebaSeen then 0 else n.drebaMiss + 1
      let h := if n.hbSeen then 0 else n.hbMiss + 1
      let hb := s.hbBlocks
      let was := if n.hbSeen then 0 else n.condWas
      let s1 := { s with nbr := { n with drebaMiss := d, hbMiss := h, drebaSeen := false, hbSeen := false, condWas := was } }
      let s2 := (s1.wr F.NBR_STATE_dreba_alive (b2n (decide (d < hb)))).wr F.NBR_STATE_hb_alive (b2n (decide (h < hb)))
      let now' := (d == hb && n.drebaMiss < hb) || (h == hb && n.hbMiss < hb)
      if !now' then s2
      else if s.role = 1 then s2.raise 0x0A0 2
      else if d < hb ∨ h < hb then (s2.raise 0x0A0 1).rollHw 0x0A0 1 d h else s2)

/-- A failure of the Active is there to recognise: both paths silent, or a fault declaration (R353). -/
def State.activeFailed (s : State) : Bool :=
  s.role == 2 && (s.nbr.peerFault || (s.hbBlocks ≤ s.nbr.drebaMiss && s.hbBlocks ≤ s.nbr.hbMiss))

/-! ### Grants (R358–R360) -/

/-- A grant word arrives through a channel (0 PCIe, 1 I2C, 2 UDP): checked, and scheduled or refused. -/
def State.grantWrite (s : State) (channel v : Nat) (at' : Option Nat) : State :=
  if s.rd F.NBR_ELDER_CFG_channel ≠ channel ∨ !s.lon F.NBR_CFG_pair_en then s
  else
    let s0 := match at' with
      | some a => s.wr F.NBR_GRANT_AT_value a
      | none => s
    let code := bitsOf v 0 3
    let epoch := bitsOf v 8 24
    let ref := if code = 0 ∨ 4 < code ∨ (code = 1 ∧ s.role ≠ 3) then 0x12
      else if code = 2 ∧ epoch ≤ s.rd F.NBR_EPOCH_value then 0x10
      else if code = 2 ∧ s.rd F.NBR_STATE_peer_role = 1 ∧ epoch ≤ s.nbr.peerEpoch ∧ s.on F.DRB_STATUS_up then 0x11 else 0
    if ref ≠ 0 then s0.wr F.NBR_GRANT_RESULT_code ref
    else
      let b := s0.pickBoundary (s0.rd F.NBR_GRANT_AT_value)
      { s0 with nbr := { s0.nbr with grant := some ⟨code, epoch, b.1⟩ } }.when b.2 fun (t : State) => (t.wr F.APPLY_RESULT_code 0x03 0x0A0).markLate

/-- NBR_GRANT_WRITE (R358–R360). -/
def execNbrGrantWrite (channel : Nat) (value : Word) (grantAt : Option Word) (s : State) : Host.Outcome State Fault Refusal :=
  .next (s.grantWrite channel value.toNat (grantAt.map fun (w : Word) => w.toNat))

/-- GRANT_TAKE_EFFECT (R358, R360, R367): at its boundary a grant changes role, lead and pair epoch; packets held in
Proving are not sent again. -/
def execGrantTakeEffect (s : State) : Host.Outcome State Fault Refusal :=
  .next (match s.nbr.grant with
    | none => s
    | some g =>
      if s.running ∧ s.now < g.due then s
      else
        let s1 := ({ s with nbr := { s.nbr with grant := none } }.wr F.NBR_GRANT_RESULT_code 0x02).raise 0x0A0 6
        if g.code = 1 then s1.wr F.NBR_STATE_lead 1
        else if g.code = 2 then
          let s2 := ((s1.setRole 1).wr F.NBR_STATE_lead 1).wr F.NBR_EPOCH_value g.epoch
          { s2 with net := { s2.net with held := [] } }
        else (s1.setRole (if g.code = 3 then 2 else 3)).wr F.NBR_STATE_lead 0)

/-! ### What a chip of a pair does at a block boundary -/

/-- Own digests of the period that ends: terms of the writes whose addresses the spec gives, and a free value for those
whose places Ramsum chooses (log entry 32). -/
def State.closeDigests (s : State) (n : Nat) : State :=
  let old := (s.nbr.own.find? fun e => e.1 == n).getD (n, 0, 0)
  let x := (Config.freeValue s.free).toNat
  let own := (s.nbr.own.filter fun (e : Nat × Nat × Nat) => e.1 != n && decide (n ≤ e.1 + 16)) ++
    [(n, (old.2.1 + x % 2 ^ 128) % 2 ^ 128, (old.2.2 + x / 2 ^ 128) % 2 ^ 128)]
  { s with nbr := { s.nbr with own := own } }.useFree

/-- The chunks hashed in block period `n` (R33, R349), none for a chunk that an engine write touched. -/
def State.scanPeriod (s : State) (n : Nat) : List (Nat × Nat × Option Nat) :=
  let cs := s.scanChunks
  if cs = [] then []
  else (List.range (s.lv F.NBR_CFG_scan_rate)).map fun (j : Nat) =>
    let i := (n * s.lv F.NBR_CFG_scan_rate + j) % cs.length
    let c := cs.getD i (0, 0)
    (n, i, if s.nbr.touched.any (fun (u : Nat) => decide (c.1 ≤ u * 256) && decide (u * 256 < c.1 + c.2)) then none
      else some (sha256 (s.digestBytes c.1 (s.bytes c.1 c.2)) / 2 ^ 128))

/-- Send the chunks of a copy in this period (R351): copy_rate chunks, in frames of at most 1024 bytes. -/
def State.sendChunks (s : State) : State :=
  let cs := (s.copyChunks.drop s.nbr.copyNext).take (s.lv F.NBR_CFG_copy_rate)
  let s1 := cs.foldl (fun (t : State) (c : Nat × Nat) =>
    (List.range ((c.2 + 1023) / 1024)).foldl (fun (u : State) (i : Nat) =>
      let a := c.1 + 1024 * i
      u.nbrSend 6 (a :: natBytes (u.bytes a (min 1024 (c.1 + c.2 - a))))) t) s
  { s1 with nbr := { s1.nbr with copyNext := s.nbr.copyNext + cs.length } }

/-- Transmit use of the link over the period, in 1/256 of capacity: 4 × 28.125 GBd × 64/66 (R362, R365). -/
def State.drebaLoad (s : State) : Nat := s.nbr.txBytes * 8 * 256 * 11 * s.fs / (1200000000000 * s.blockLen)

/-- What the chip of a pair does at boundary `b` (R340, R348–R354): a demotion due, digests, scan, frames and heartbeats. The
leader sends time marks, and a follower that takes them sends marks back for the round trip. -/
def State.nbrBlock (s : State) (b : Nat) : State :=
  if s.role = 0 then { s with nbr := { s.nbr with touched := [], own := [] } }
  else
    let n := b / s.blockLen - 1
    let s1 := s.closeDigests n
    let own := (s1.nbr.own.find? fun e => e.1 == n).getD (n, 0, 0)
    let scan := s1.scanPeriod n
    let wraps := scan.any fun (e : Nat × Nat × Option Nat) => e.2.1 + 1 == s1.scanChunks.length
    let s2 := ({ s1 with nbr := { s1.nbr with touched := [], scans := (s1.nbr.scans.filter fun (e : Nat × Nat × Option Nat) => decide (n ≤ e.1 + 4)) ++ scan } }).when wraps
      fun (t : State) => t.bump F.NBR_SCAN_passes
    let s3 := if s2.leads ∨ s2.followsTime then s2.nbrSend 1 [b, s2.tbNs] else s2
    let skipped := (scan.filter fun (e : Nat × Nat × Option Nat) => e.2.2.isNone).length
    let s4 := if s3.leads then
        let t := if s3.nbrCond = 2 then s3.sendChunks else s3
        (t.nbrSend 8 (n :: scan.flatMap fun (e : Nat × Nat × Option Nat) => match e.2.2 with
          | some h => [e.2.1, h]
          | none => [])).bump F.NBR_SCAN_skipped skipped
      else s3
    let s5 := if s4.nbr.drilling then s4
      else
        let t := s4.nbrSend 7 [n, b, own.2.1, own.2.2, s4.rd F.NBR_EPOCH_value, s4.role + 4 * (if s4.checked then s4.nbrCond else 0) + 32 * b2n s4.nbr.declared]
        t.emit (.heartbeat (if s4.nbr.declared then 1 else 0))
    let s6 := s5.peak F.DRB_LOAD_peak (min 255 s5.drebaLoad)
    let s7 := s6.when (decide (95 * 256 < 100 * s5.drebaLoad)) fun (t : State) => t.raise 0x0A1 2
    let s8 := { s7 with nbr := { s7.nbr with txBytes := 0 } }
    let s9 := match s8.nbr.declareAt with
      | some d => if d ≤ b then { s8.demote with nbr := { s8.demote.nbr with declared := false } } else s8
      | none => s8
    let due := s9.nbr.bankWait.filter fun (e : Nat × Nat × List Byte) => decide (e.1 ≤ b + s9.blockLen)
    let s10 := { s9 with nbr := { s9.nbr with bankWait := s9.nbr.bankWait.filter fun (e : Nat × Nat × List Byte) => decide (b + s9.blockLen < e.1) } }
    let s11 := due.foldl (fun (t : State) (e : Nat × Nat × List Byte) => t.granaryStore e.2.1 e.2.2) s10
    s11.checkBlock n

end Sys2Proof.Machine
end

