-- ==== Sys2Proof/Machine/Queues.lean ====
section
/-! DEFINITION. The hardware queues (R441–R447) and the error capture of a page header (R464). -/
namespace Sys2Proof.Machine

/-- An error on a register page: captured in its header, each error overwriting it, and counted (R464). -/
def State.captureErr (s : State) (page master : Nat) (write : Bool) (kind addr : Nat) : State :=
  ((((((s.wr F.ERR_INFO_master master page).wr F.ERR_INFO_write (b2n write) page).wr F.ERR_INFO_kind kind page).wr
    F.ERR_INFO_valid 1 page).wr F.ERR_ADDR_LO_value (addr % 2 ^ 32) page).wr F.ERR_ADDR_HI_value (addr / 2 ^ 32) page).bump
    F.ERR_COUNT_value 1 page

/-- The QUE page of queue `q`, and its index there (R453). -/
def quePage (q : Nat) : Nat := 0x018 + q / 64

/-- The fabric address of the data port of queue `q` (R453, R454). -/
def quePort (q : Nat) : Nat := 0x10000000 + quePage q * 0x1000 + 0x100 + 8 * (q % 64)

/-- Put the entries of queue `q`, with the nonempty event where it leaves the empty state (R453), and settle its MSI-X
vector (R473). -/
def State.putQueue (s : State) (q : Nat) (l : List DWord) : State :=
  let en := if q % 64 < 32 then s.rd F.QUE_IRQ_EN_LO_bits (q / 64) else s.rd F.QUE_IRQ_EN_HI_bits (q / 64)
  let t := State.settleVectors (s.setQueue q l) s [bitsOf (s.rd F.INT_QVEC_value 0 (q / 4)) (8 * (q % 4)) 8]
  if s.queue q = [] ∧ l ≠ [] ∧ bitAt en (q % 32) then t.raise (quePage q) 0 else t

/-- A push to a notice queue: a full queue loses its oldest entry (R443). -/
def State.notice (s : State) (q : Nat) (e : DWord) : State :=
  let l := s.queue q
  if l.length < queueDepth q then s.putQueue q (l ++ [e])
  else ((s.putQueue q (l.drop 1 ++ [e])).bump F.QUE_STAT_count 1 (q / 64) (q % 64)).raise (quePage q) 1

/-- A push to an event ring with room (R445). -/
def State.eventPush (s : State) (q : Nat) (e : DWord) : State := s.putQueue q (s.queue q ++ [e])

/-- A free entry of a queue. -/
def State.queueRoom (s : State) (q : Nat) : Bool := decide ((s.queue q).length < queueDepth q)

/-- A word refused by a command queue (R444). -/
def State.refuseWord (s : State) (q : Nat) : State :=
  (s.bump F.QUE_STAT_count 1 (q / 64) (q % 64)).raise (quePage q) 2

/-- The envelope state of initiator `ini` at command queue `q`: refused words still to come. -/
def State.envelope (s : State) (q : Nat) (f : Envelope → Bool) : Option Envelope :=
  s.que.envelopes.find? fun (e : Envelope) => e.queue == q && f e

/-- Replace the envelopes of a queue that `f` selects. -/
def State.setEnvelope (s : State) (q : Nat) (f : Envelope → Bool) (x : Option Envelope) : State :=
  let rest := s.que.envelopes.filter fun (e : Envelope) => !(e.queue == q && f e)
  s.modQue fun (u : Que) => { u with envelopes := rest ++ (match x with | some e => if e.remaining = 0 then [] else [e] | none => []) }

/-- A word pushed to a command queue (R444): an argument of the accepted header, a word of a refused command, a header,
or a write of another initiator while a command is being taken. -/
def State.commandPush (s : State) (q : Nat) (ini : Initiator) (e : DWord) : State :=
  let mine (x : Envelope) : Bool := x.ini == ini && x.refused
  match s.envelope q mine with
  | some x => (s.refuseWord q).setEnvelope q mine (some { x with remaining := x.remaining - 1 })
  | none =>
    let n := bitsOf e.toNat 16 4
    match s.envelope q (fun (x : Envelope) => !x.refused) with
    | some x =>
      if x.ini = ini then
        (s.putQueue q (s.queue q ++ [e])).setEnvelope q (fun (y : Envelope) => !y.refused) (some { x with remaining := x.remaining - 1 })
      else (s.refuseWord q).setEnvelope q mine (some ⟨q, ini, n, true⟩)
    | none =>
      if (s.queue q).length + n + 1 ≤ queueDepth q then
        (s.putQueue q (s.queue q ++ [e])).setEnvelope q (fun (y : Envelope) => !y.refused) (some ⟨q, ini, n, false⟩)
      else (s.refuseWord q).setEnvelope q mine (some ⟨q, ini, n, true⟩)

/-- May an initiator push to queue `q` (R441)? -/
def mayPush (q : Nat) (ini : Initiator) : Bool :=
  if q < 128 then ini == .reeve || ini == .carter0 || ini == .carter1
  else if q < 192 then true
  else if q < 248 then false
  else ini == .carter0 || ini == .carter1

/-- May an initiator pop queue `q` (R441)? -/
def mayPop (q : Nat) (ini : Initiator) : Bool :=
  if q < 128 then true else if q < 192 then ini == .reeve else if q < 248 then true else ini == .carter0 || ini == .carter1

/-- A 64-bit entry pushed through the data port (R441, R443, R444). Bit [63] of a valid entry is 0 (R446). The producer of an event
ring that is full waits (R445). -/
def State.pushEntry (s : State) (q : Nat) (ini : Initiator) (e : DWord) : State :=
  if !mayPush q ini then s.captureErr (quePage q) ini.port true 0x8 (quePort q)
  else if q < 128 then s.notice q e
  else if q < 192 then s.commandPush q ini e
  else if s.queueRoom q then s.eventPush q e
  else ((s.bump F.QUE_STAT_count 1 (q / 64) (q % 64)).raise (quePage q) 3).modQue fun (u : Que) => { u with pushers := u.pushers ++ [(q, e)] }

/-- The entry a read of an empty queue returns (R443). -/
def nvEntry : DWord := 0x8000000000000000

/-- The oldest entry that waits for room in event ring `q` is pushed (R445). -/
def State.pushWaiting (s : State) (q : Nat) : State :=
  match s.que.pushers.find? fun (x : Nat × DWord) => x.1 == q with
  | none => s
  | some x => if s.queueRoom q then (s.modQue fun (u : Que) => { u with pushers := u.pushers.erase x }).eventPush q x.2 else s

/-- A 64-bit entry popped through the data port (R441, R443). -/
def State.popEntry (s : State) (q : Nat) (ini : Initiator) : DWord × State :=
  if !mayPop q ini then (nvEntry, s.captureErr (quePage q) ini.port false 0x8 (quePort q))
  else match s.queue q with
    | [] => (nvEntry, s)
    | e :: l => (e, (s.putQueue q l).pushWaiting q)

/-- The key of a held or latched half. -/
def halfKey (q : Nat) (ini : Initiator) : Nat := q * 8 + ini.port

/-- A write of the data port: part 0 the whole entry, 1 its low half, 2 its high half (R442). -/
def State.portWrite (s : State) (q part : Nat) (ini : Initiator) (v : DWord) : State :=
  if part = 0 then s.pushEntry q ini v
  else if part = 1 then s.modQue fun (u : Que) => { u with low := assocPut u.low (halfKey q ini) (v.setWidth 32) }
  else match assoc? s.que.low (halfKey q ini) with
    | none => s.captureErr (quePage q) ini.port true 0x9 (quePort q + 4)
    | some lo =>
      (s.modQue fun (u : Que) => { u with low := assocDel u.low (halfKey q ini) }).pushEntry q ini
        (BitVec.ofNat 64 (lo.toNat + v.toNat % 2 ^ 32 * 2 ^ 32))

/-- A read of the data port: part 0 the whole entry, 1 its low half, 2 its high half (R442). -/
def State.portRead (s : State) (q part : Nat) (ini : Initiator) : Nat × State :=
  if part = 0 then let r := s.popEntry q ini; (r.1.toNat, r.2)
  else if part = 1 then
    let r := s.popEntry q ini
    (r.1.toNat % 2 ^ 32, r.2.modQue fun (u : Que) => { u with high := assocPut u.high (halfKey q ini) (BitVec.ofNat 32 (r.1.toNat / 2 ^ 32)) })
  else (((assoc? s.que.high (halfKey q ini)).getD 0).toNat, s)

/-- QUEUE_PUSH (R441–R444). -/
def execQueuePush (ini : Initiator) (q part : Nat) (value : DWord) (s : State) : Host.Outcome State Fault Refusal :=
  .next (if q < 256 ∧ part < 3 ∧ !s.portShut ini then s.portWrite q part ini value else s)

/-- QUEUE_POP (R441–R443): the read's data answer the initiator. -/
def execQueuePop (ini : Initiator) (q part : Nat) (s : State) : Host.Outcome State Fault Refusal :=
  .next (if q < 256 ∧ part < 3 ∧ !s.portShut ini then let r := s.portRead q part ini; r.2.respond ini r.1 else s)

/-! ### Replies (R446, R449) -/

/-- A command's header as R448 lays it out. -/
structure CmdHead where
  subsystem : Nat
  command : Nat
  n : Nat
  replyQ : Nat
  quiet : Bool
  tag : Nat
  deriving DecidableEq, Repr

/-- The fields of a header word. -/
def cmdHead (h : Nat) : CmdHead :=
  ⟨bitsOf h 0 8, bitsOf h 8 8, bitsOf h 16 4, bitsOf h 20 7, bitAt h 27, bitsOf h 32 16⟩

/-- The reply to the command with header word `h`: a reply entry with result word 0 and continuations with the rest;
quiet suppresses a reply with status OK (R446, R448, R449). -/
def State.reply (s : State) (h status : Nat) (ws : List Nat) : State :=
  let c := cmdHead h
  if c.quiet ∧ status = 0 then s
  else
    let first := 2 ^ 60 + (ws.length - 1) % 16 * 2 ^ 56 + status % 256 * 2 ^ 48 + c.tag * 2 ^ 32 + ws.headD 0 % 2 ^ 32
    (ws.drop 1).foldl (fun (t : State) (w : Nat) => t.notice c.replyQ (BitVec.ofNat 64 (2 * 2 ^ 60 + c.tag * 2 ^ 32 + w % 2 ^ 32)))
      (s.notice c.replyQ (BitVec.ofNat 64 first))

/-- QUEUE_NOP (R450): OK with result word 0 equal to 0. -/
def execQueueNop (header : DWord) (s : State) : Host.Outcome State Fault Refusal := .next (s.reply header.toNat 0 [0])

end Sys2Proof.Machine
end

