-- ==== Sys2Proof/Machine/NetFrame.lean ====
section
/-! DEFINITION. Frames of NETA and NETB: fields, checksums, building and parsing (R231), stamps (R232), the Carters' address
caches (R255). Byte lists run from the destination MAC address on, without padding and FCS. -/
namespace Sys2Proof.Machine

/-! ### Fields -/

/-- The number in `n` bytes at `i`, most significant first. -/
def beAt (l : List Byte) (i n : Nat) : Nat := ofBe ((l.drop i).take n)

/-- Bytes `i` to `i + n - 1`. -/
def slice (l : List Byte) (i n : Nat) : List Byte := (l.drop i).take n

/-- Every byte is 0. -/
def allZero (l : List Byte) : Bool := l.all fun (b : Byte) => b == 0

/-- The Internet checksum of a byte string (RFC 1071; PRESUMED, log entry 20). -/
def checksum (l : List Byte) : Nat :=
  let sum := (List.range ((l.length + 1) / 2)).foldl (fun (a : Nat) (i : Nat) => a + (l.getD (2 * i) 0).toNat * 256 + (l.getD (2 * i + 1) 0).toNat) 0
  let f1 := sum % 65536 + sum / 65536
  65535 - (f1 % 65536 + f1 / 65536)

/-! ### A port's own addresses (R262) -/

/-- MAC address of port `p`, first byte in [7:0] of NTx_MAC_LO. -/
def State.macOf (s : State) (p : Nat) : List Byte := leBytes 4 (s.lv F.NT_MAC_LO_mac p) ++ leBytes 2 (s.lv F.NT_MAC_HI_mac p)

/-- IP address of port `p`; all zero is off. Registers hold the bytes in order from [7:0] (log entry 33). -/
def State.ipOf (s : State) (p : Nat) (v6 : Bool) : List Byte :=
  if v6 then leBytes 4 (s.lv F.NT_IP6_addr p 0) ++ leBytes 4 (s.lv F.NT_IP6_addr p 1) ++ leBytes 4 (s.lv F.NT_IP6_addr p 2) ++ leBytes 4 (s.lv F.NT_IP6_addr p 3)
  else leBytes 4 (s.lv F.NT_IP4_addr p)

/-- A multicast address. -/
def isGroup (v6 : Bool) (a : List Byte) : Bool :=
  let b := (a.headD 0).toNat
  if v6 then b == 0xFF else decide (224 ≤ b ∧ b < 240)

/-- The MAC address derived from a multicast address (R239, R255). -/
def groupMac (v6 : Bool) (a : List Byte) : List Byte :=
  if v6 then [0x33, 0x33] ++ a.drop 12
  else [0x01, 0x00, 0x5E, BitVec.ofNat 8 ((a.getD 1 0).toNat % 128)] ++ a.drop 2

/-- The broadcast MAC address. -/
def broadcastMac : List Byte := List.replicate 6 0xFF

/-! ### Building -/

/-- An Ethernet frame of port `p`, with its 802.1Q tag while vlan_en is set (R231). -/
def State.ethFrame (s : State) (p : Nat) (dst : List Byte) (etype : Nat) (body : List Byte) : List Byte :=
  dst ++ s.macOf p ++
  (if s.lon F.NT_CFG_vlan_en p then beBytes 2 0x8100 ++ beBytes 2 (s.lv F.NT_CFG_pcp p * 8192 + s.lv F.NT_CFG_vid p) else []) ++
  beBytes 2 etype ++ body

/-- An IP packet: IPv4 with DF and no options, identification 0; IPv6 with no extension headers (R231). -/
def ipPacket (v6 : Bool) (dscp ttl proto : Nat) (src dst payload : List Byte) : List Byte :=
  if v6 then
    beBytes 4 (6 * 2 ^ 28 + dscp * 2 ^ 22) ++ beBytes 2 payload.length ++ beBytes 1 proto ++ beBytes 1 ttl ++ src ++ dst ++ payload
  else
    let h (c : Nat) : List Byte := [0x45, BitVec.ofNat 8 (dscp * 4)] ++ beBytes 2 (20 + payload.length) ++ beBytes 2 0 ++ beBytes 2 0x4000 ++
      beBytes 1 ttl ++ beBytes 1 proto ++ beBytes 2 c ++ src ++ dst
    h (checksum (h 0)) ++ payload

/-- The checksum of an upper-layer payload with its pseudo header. -/
def upperSum (proto : Nat) (src dst payload : List Byte) : Nat :=
  checksum (src ++ dst ++ beBytes 4 payload.length ++ beBytes 4 proto ++ payload)

/-- The one's complement sum of a byte string of even length, 0 to 65534. -/
def onesSum (l : List Byte) : Nat := (65535 - checksum l) % 65535

/-- A UDP datagram whose message the port changed after its checksum was formed, from `built` to `sent`: two bytes after the
message, 0 as built, restore the sum (R234). -/
def udpCorrected (src dst : List Byte) (sport dport : Nat) (built sent : List Byte) : List Byte :=
  let fix := (65535 + onesSum built - onesSum sent) % 65535
  let h (c : Nat) (m : List Byte) (x : Nat) : List Byte :=
    beBytes 2 sport ++ beBytes 2 dport ++ beBytes 2 (10 + m.length) ++ beBytes 2 c ++ m ++ beBytes 2 x
  let c := upperSum 17 src dst (h 0 built 0)
  h (if c = 0 then 65535 else c) sent fix

/-- A UDP datagram with its checksum (log entry 35); `sum` false leaves it zero. -/
def udpDatagram (sum : Bool) (src dst : List Byte) (sport dport : Nat) (payload : List Byte) : List Byte :=
  let h (c : Nat) : List Byte := beBytes 2 sport ++ beBytes 2 dport ++ beBytes 2 (8 + payload.length) ++ beBytes 2 c ++ payload
  let c := upperSum 17 src dst (h 0)
  h (if !sum then 0 else if c = 0 then 65535 else c)

/-- An ICMPv6 message with its checksum. -/
def icmp6 (src dst : List Byte) (type : Nat) (rest : List Byte) : List Byte :=
  let h (c : Nat) : List Byte := beBytes 1 type ++ beBytes 1 0 ++ beBytes 2 c ++ rest
  h (upperSum 58 src dst (h 0))

/-- A message checksummed alone: type, code 0, checksum, rest (ICMP, IGMP). -/
def plainSummed (type : Nat) (rest : List Byte) : List Byte :=
  let h (c : Nat) : List Byte := beBytes 1 type ++ beBytes 1 0 ++ beBytes 2 c ++ rest
  h (checksum (h 0))

/-- The EtherType of an IP version. -/
def ipType (v6 : Bool) : Nat := if v6 then 0x86DD else 0x0800

/-- A frame leaves port `p` while its link is up. -/
def State.sendFrameOn (s : State) (p : Nat) (data : List Byte) : State :=
  if s.on F.NT_STATUS_link p then (s.bump F.NT_TX_FRAMES_frames 1 p).emit (.frame p s.tbNs data) else s

/-! ### Stamps (R232) -/

/-- A corrected hardware stamp of port `p` now, in ns since the epoch. -/
def State.stamp (s : State) (p : Nat) (tx : Bool) : Nat :=
  ((s.tbNs : Int) + signed 16 (if tx then s.rd F.NT_TS_CORR_tx p else s.rd F.NT_TS_CORR_rx p)).toNat

/-! ### Address caches -/

/-- The cache key of an address on a port. -/
def cacheKey (p : Nat) (v6 : Bool) (a : List Byte) : Nat := p * 2 ^ 129 + b2n v6 * 2 ^ 128 + ofBe a

/-- The Carters learn an address. -/
def State.learn (s : State) (p : Nat) (v6 : Bool) (a mac : List Byte) : State :=
  if allZero a then s else s.modNet fun (n : Net) => { n with neighbours := assocPut n.neighbours (cacheKey p v6 a) (ofBe mac) }

/-- The address whose MAC a unicast IPv4 packet needs: the destination, or the gateway outside the port's subnet. -/
def State.nextHop (s : State) (p : Nat) (v6 : Bool) (a : List Byte) : List Byte :=
  let m := leBytes 4 (s.lv F.NT_IP4_MASK_addr p)
  let gw := leBytes 4 (s.lv F.NT_IP4_GW_addr p)
  if !v6 ∧ (a.zip m).map (fun (x : Byte × Byte) => x.1 &&& x.2) ≠ ((s.ipOf p false).zip m).map (fun (x : Byte × Byte) => x.1 &&& x.2) ∧ !allZero gw then gw else a

/-- The destination MAC of an address on port `p`: derived, or from the cache. -/
def State.macFor (s : State) (p : Nat) (v6 : Bool) (a : List Byte) : Option (List Byte) :=
  if isGroup v6 a then some (groupMac v6 a)
  else (assoc? s.net.neighbours (cacheKey p v6 (s.nextHop p v6 a))).map fun (m : Nat) => beBytes 6 m

/-- The body of an ARP message. -/
def arpBody (op : Nat) (sha spa tha tpa : List Byte) : List Byte :=
  beBytes 2 1 ++ beBytes 2 0x0800 ++ [6, 4] ++ beBytes 2 op ++ sha ++ spa ++ tha ++ tpa

/-- The solicited-node group of an IPv6 address. -/
def solicitedNode (a : List Byte) : List Byte := beBytes 12 0xFF0200000000000000000001 ++ [0xFF] ++ a.drop 13

/-- The all-nodes group. -/
def allNodes : List Byte := beBytes 16 0xFF020000000000000000000000000001

/-- An IPv6 control message of port `p`, hop limit 255 or 1. -/
def State.sendIcmp6 (s : State) (p hop : Nat) (mac dst : List Byte) (type : Nat) (rest : List Byte) : State :=
  let src := s.ipOf p true
  s.sendFrameOn p (s.ethFrame p mac 0x86DD (ipPacket true 0 hop 58 src dst (icmp6 src dst type rest)))

/-- The Carters ask for the MAC of an address: an ARP request or a neighbour solicitation. -/
def State.askMac (s : State) (p : Nat) (v6 : Bool) (a : List Byte) : State :=
  let t := s.nextHop p v6 a
  if v6 then
    s.sendIcmp6 p 255 (groupMac true (solicitedNode t)) (solicitedNode t) 135 (beBytes 4 0 ++ t ++ [1, 1] ++ s.macOf p)
  else s.sendFrameOn p (s.ethFrame p broadcastMac 0x0806 (arpBody 1 (s.macOf p) (s.ipOf p false) (beBytes 6 0) t))

/-- The announcement of a changed address: a gratuitous ARP or an unsolicited neighbour advertisement (R241). -/
def State.announceIp (s : State) (p : Nat) (v6 : Bool) : State :=
  let a := s.ipOf p v6
  if allZero a then s
  else if v6 then s.sendIcmp6 p 255 (groupMac true allNodes) allNodes 136 (beBytes 4 0x20000000 ++ a ++ [2, 1] ++ s.macOf p)
  else s.sendFrameOn p (s.ethFrame p broadcastMac 0x0806 (arpBody 1 (s.macOf p) a (beBytes 6 0) a))

/-! ### Parsing (R231) -/

/-- An IP packet taken in. -/
structure IpIn where
  v6 : Bool
  src : List Byte
  dst : List Byte
  proto : Nat
  data : List Byte
  deriving DecidableEq, Repr

/-- The frame's EtherType and body; a tagged frame is accepted with vlan_en and its VID (R231). -/
def State.untag (s : State) (p : Nat) (d : List Byte) : Option (Nat × List Byte) :=
  let t := beAt d 12 2
  if t = 0x8100 then
    if s.lon F.NT_CFG_vlan_en p ∧ beAt d 14 2 % 4096 = s.lv F.NT_CFG_vid p then some (beAt d 16 2, d.drop 18) else none
  else some (t, d.drop 14)

/-- The IP packet of a frame; fragments and IPv4 packets with options give none. An ICMPv6 message behind a Hop-by-Hop header, as
MLD is sent with its Router Alert, is taken as such (RFC 3810; PRESUMED, log entry 20). -/
def parseIp (etype : Nat) (b : List Byte) : Option IpIn :=
  if etype = 0x0800 ∧ beAt b 0 1 = 0x45 ∧ 20 ≤ b.length ∧ beAt b 6 2 % 0x4000 = 0 then
    some ⟨false, slice b 12 4, slice b 16 4, beAt b 9 1, (b.take (beAt b 2 2)).drop 20⟩
  else if etype = 0x86DD ∧ beAt b 0 1 / 16 = 6 ∧ 40 ≤ b.length then
    let data := (b.drop 40).take (beAt b 4 2)
    if beAt b 6 1 = 0 ∧ beAt data 0 1 = 58 then
      some ⟨true, slice b 8 16, slice b 24 16, 58, data.drop (8 * (beAt data 1 1 + 1))⟩
    else some ⟨true, slice b 8 16, slice b 24 16, beAt b 6 1, data⟩
  else none

/-- The payload of a UDP datagram. -/
def udpPayload (d : List Byte) : List Byte := (d.take (beAt d 4 2)).drop 8

/-- The broadcast address of the port's IPv4 subnet. -/
def State.subnetBroadcast (s : State) (p : Nat) : List Byte :=
  ((s.ipOf p false).zip (leBytes 4 (s.lv F.NT_IP4_MASK_addr p))).map fun (x : Byte × Byte) => (x.1 &&& x.2) ||| ~~~x.2

/-- The IP destination is the port's own address, or a group, or broadcast (R231). -/
def State.forUs (s : State) (p : Nat) (i : IpIn) : Bool :=
  isGroup i.v6 i.dst || (i.dst == s.ipOf p i.v6 && !allZero i.dst) ||
  (!i.v6 && (i.dst == List.replicate 4 (0xFF : Byte) || (!allZero (s.ipOf p false) && i.dst == s.subnetBroadcast p)))

end Sys2Proof.Machine
end

