-- ==== Sys2Proof/Machine/Streams.lean ====
section
/-! DEFINITION. Media streams (R235–R254): descriptors and their check, receive rings and block conditions, packets. -/
namespace Sys2Proof.Machine

/-! ### Descriptors (R238, R239) -/

/-- The path fields of a descriptor. -/
structure PathD where
  dst : List Byte
  src : List Byte
  mac : List Byte
  macGiven : Bool
  dport : Nat
  sport : Nat
  port : Nat
  v6 : Bool
  deriving DecidableEq, Repr

/-- A stream descriptor. -/
structure StreamD where
  enable : Bool
  dual : Bool
  format : Nat
  half : Bool
  ptime : Nat
  channels : Nat
  dscp : Nat
  first : Nat
  pt : Nat
  ttl : Nat
  ssrc : Nat
  extId : Nat
  offset : Nat
  a : PathD
  b : PathD
  deriving DecidableEq, Repr

/-- The path fields at byte `o`. -/
def parsePath (tx : Bool) (d : List Byte) (o : Nat) : PathD :=
  let w := leAt d (o + 0x20) 4
  let x := leAt d (o + 0x24) 4
  let v6 := if tx then bitAt x 17 else bitAt w 17
  let n := if v6 then 16 else 4
  ⟨slice d o n, slice d (o + 0x10) n, slice d (o + 0x10) 6, bitAt (leAt d (o + 0x14) 4) 16, w % 65536, w / 65536,
    if tx then bitsOf x 16 1 else bitsOf w 16 1, v6⟩

/-- The descriptor in 128 bytes. -/
def parseStream (tx : Bool) (d : List Byte) : StreamD :=
  let w0 := leAt d 0 4
  let w1 := leAt d 4 4
  let w3 := leAt d 12 4
  { enable := bitAt w0 0, dual := bitAt w0 1, format := bitsOf w0 2 2, half := bitAt w0 4, ptime := bitsOf w0 5 2,
    channels := bitsOf w0 8 7, dscp := bitsOf w0 16 6, first := bitsOf w1 0 13, pt := bitsOf w1 16 7, ttl := bitsOf w1 24 8,
    ssrc := leAt d 8 4, extId := bitsOf w3 0 8, offset := bitsOf w3 16 14, a := parsePath tx d 0x10, b := parsePath tx d 0x40 }

/-- The staged, or in-force, bytes of descriptor `i`. -/
def State.streamBytes (s : State) (tx live : Bool) (i : Nat) : List Byte :=
  s.bytes ((if tx then s.rd F.STX_TABLE_BASE_base else s.rd F.SRX_TABLE_BASE_base) + (if live then 0x10000 else 0) + 128 * i) 128

/-- Stream `i` in force and enabled (SRX_ACTIVE, STX_ACTIVE). -/
def State.streamOn (s : State) (tx : Bool) (i : Nat) : Bool :=
  bitAt (if tx then s.rd F.STX_ACTIVE_bits 0 (i / 32) else s.rd F.SRX_ACTIVE_bits 0 (i / 32)) (i % 32)

/-- The in-force descriptor of stream `i`. -/
def State.stream (s : State) (tx : Bool) (i : Nat) : StreamD := parseStream tx (s.streamBytes tx true i)

/-- Streams in force, ascending. -/
def State.streams (s : State) (tx : Bool) : List Nat := (List.range 512).filter fun (i : Nat) => s.streamOn tx i

/-- The paths a stream uses. -/
def StreamD.paths (d : StreamD) : List (Nat × PathD) := (0, d.a) :: (if d.dual then [(1, d.b)] else [])

/-- Bytes of a sample (R237). -/
def StreamD.width (d : StreamD) : Nat := d.format + 2

/-- Stream multiple k_s (R236). -/
def StreamD.ks (d : StreamD) (s : State) : Nat := if d.half then 1 else s.mult

/-- Engine samples for each stream sample. -/
def StreamD.step (d : StreamD) : Nat := if d.half then 2 else 1

/-- P (R236). -/
def StreamD.samples (d : StreamD) (s : State) : Nat := [6, 12, 16, 48].getD d.ptime 48 * d.ks s

/-- Elements of a Psiras stream (R253). -/
def StreamD.elements (d : StreamD) : Nat := (d.channels + 30) / 31

/-- Bytes of the header extension: 4 and the elements padded to a multiple of 4 (R253). -/
def StreamD.extBytes (d : StreamD) : Nat := if d.format = 2 then 4 + (2 * d.elements + 8 * d.channels + 3) / 4 * 4 else 0

/-- Bytes of the IP packet on a path (R237). -/
def StreamD.packetBytes (d : StreamD) (s : State) (p : PathD) : Nat :=
  (if p.v6 then 40 else 20) + 20 + d.extBytes + d.channels * d.samples s * d.width

/-- Ring bytes of a receive stream (R244): the pool is divided by these, and the rings themselves are lists of Net.rx, whose
bytes do not stand in the Granary (DESIGN CHOICE, log entry 57). -/
def StreamD.ringBytes (d : StreamD) (s : State) : Nat :=
  d.channels * d.width * (d.offset + 2 * d.samples s + s.blockLen / d.step) +
  (if d.format = 2 then d.channels * 8 * ((d.offset + 2 * d.samples s + s.blockLen) / s.blockLen + 1) else 0)

/-- Load of a path on its port in bit/s, times 48 (R240). -/
def StreamD.load48 (d : StreamD) (s : State) (p : PathD) : Nat :=
  (d.packetBytes s p + 42) * 8 * (s.fs / s.mult) * [8, 4, 3, 1].getD d.ptime 1

/-! ### The check (R240) -/

/-- What earlier streams of the set use. -/
structure StreamSum where
  chans : List (Nat × Nat)
  pool : Nat
  loads : List Nat
  deriving DecidableEq, Repr

/-- The sum with a stream added. -/
def StreamSum.add (u : StreamSum) (s : State) (d : StreamD) : StreamSum :=
  ⟨(d.first, d.first + d.channels) :: u.chans, u.pool + d.ringBytes s,
    d.paths.foldl (fun (l : List Nat) (p : Nat × PathD) => setAt l p.2.port (at0 0 l p.2.port + d.load48 s p.2)) u.loads⟩

/-- The load limit of a port in bit/s, times 48. -/
def State.loadLimit (s : State) (port : Nat) : Nat := (if s.lv F.NT_CFG_speed port = 0 then 22500000000 else 9000000000) * 48

/-- The first rule that a descriptor breaks after those of `u`, 0 for none (R240). -/
def StreamD.reason (d : StreamD) (s : State) (tx : Bool) (u : StreamSum) : Nat :=
  let p := d.samples s
  let jumbo := d.paths.all fun (x : Nat × PathD) => s.lon F.NT_CFG_jumbo x.2.port
  let v := u.add s d
  if d.format = 3 then 0x17
  else if d.half ∧ (!s.on F.ENG_RATE_blend ∨ d.format = 2) then 0x10
  else if d.channels = 0 ∨ 64 < d.channels ∨ 4096 / s.mult < d.first + d.channels ∨
    (!tx ∧ u.chans.any fun (c : Nat × Nat) => decide (d.first < c.2) && decide (c.1 < d.first + d.channels)) then 0x11
  else if d.paths.any fun (x : Nat × PathD) => decide ((if jumbo then 9000 else 1500) < d.packetBytes s x.2) then 0x12
  else if !tx ∧ (d.offset < p ∨ (d.format = 2 ∧ d.offset % s.blockLen ≠ 0)) then 0x13
  else if !tx ∧ s.rd F.SRX_POOL_SIZE_value < v.pool then 0x14
  else if d.pt < 96 ∨ (d.dual ∧ d.a.port = d.b.port) ∨ (d.format = 2 ∧ (d.extId = 0 ∨ 255 < d.extId + d.elements - 1)) ∨
    (tx ∧ d.paths.any fun (x : Nat × PathD) => allZero x.2.dst) then 0x15
  else if tx ∧ [0, 1].any fun (q : Nat) => decide (s.loadLimit q < at0 0 v.loads q) then 0x16
  else if d.format = 2 ∧ d.ptime ≠ 2 then 0x17
  else 0

/-- The descriptor of stream `i` that would be in force with the marks `dirty`. -/
def State.wouldBe (s : State) (tx : Bool) (dirty : Nat → Bool) (i : Nat) : StreamD :=
  parseStream tx (s.streamBytes tx (!dirty i) i)

/-- The first failing stream and its first failing rule (R240). -/
def State.streamCheck (s : State) (tx : Bool) (dirty : Nat → Bool) : Option (Nat × Nat) :=
  ((List.range 512).foldl (fun (a : StreamSum × Option (Nat × Nat)) (i : Nat) =>
    if a.2.isSome ∨ !(dirty i || s.streamOn tx i) then a
    else
      let d := s.wouldBe tx dirty i
      if !d.enable then a
      else
        let r := d.reason s tx a.1
        if r = 0 then (a.1.add s d, none) else (a.1, some (i, r))) (⟨[], 0, [0, 0]⟩, none)).2

/-! ### Memberships (R241) -/

/-- Groups that the receive paths in force use: port, IPv6, group, and the sources their paths name, none as 0. -/
def State.wantedGroups (s : State) : List (Nat × Bool × Nat × Nat) :=
  (s.streams false).foldr (fun (i : Nat) (acc : List (Nat × Bool × Nat × Nat)) =>
    let d := s.stream false i
    (d.paths.filter (fun (p : Nat × PathD) => isGroup p.2.v6 p.2.dst)).map
      (fun (p : Nat × PathD) => (p.2.port, p.2.v6, ofBe p.2.dst, ofBe p.2.src)) ++ acc) []

/-- One record of an IGMPv3 or MLDv2 report: type, group, sources (RFC 3376, RFC 3810; PRESUMED, log entry 20). -/
def groupRecord (v6 : Bool) (type group : Nat) (sources : List Nat) : List Byte :=
  let n := if v6 then 16 else 4
  beBytes 1 type ++ beBytes 1 0 ++ beBytes 2 sources.length ++ beBytes n group ++
  sources.foldr (fun (a : Nat) (acc : List Byte) => beBytes n a ++ acc) []

/-- Send a report with one record. -/
def State.sendReport (s : State) (port : Nat) (v6 : Bool) (record : List Byte) : State :=
  let body := beBytes 2 0 ++ beBytes 2 1 ++ record
  if v6 then
    let dst := beBytes 16 0xFF020000000000000000000000000016
    s.sendIcmp6 port 1 (groupMac true dst) dst 143 body
  else
    let dst := beBytes 4 0xE0000016
    s.sendFrameOn port (s.ethFrame port (groupMac false dst) 0x0800 (ipPacket false 0 1 2 (s.ipOf port false) dst (plainSummed 0x22 body)))

/-- The join record of a membership: EXCLUDE of no sources, or its sources. -/
def Member.join (m : Member) : List Byte := if m.sources = [] then groupRecord m.ipv6 4 m.group [] else groupRecord m.ipv6 5 m.group m.sources

/-- The leave record. -/
def Member.leave (m : Member) : List Byte := if m.sources = [] then groupRecord m.ipv6 3 m.group [] else groupRecord m.ipv6 6 m.group m.sources

/-- The current-state record that answers a query. -/
def Member.state (m : Member) : List Byte := if m.sources = [] then groupRecord m.ipv6 2 m.group [] else groupRecord m.ipv6 1 m.group m.sources

/-- The memberships follow the paths in force: a group joined or changed has two reports to send, one no longer used is
left at once. -/
def State.updateMembers (s : State) : State :=
  let want := s.wantedGroups
  let keys := (want.map fun (w : Nat × Bool × Nat × Nat) => (w.1, w.2.1, w.2.2.1)).eraseDups
  let new : List Member := keys.map fun (k : Nat × Bool × Nat) =>
    let srcs := (want.filter fun (w : Nat × Bool × Nat × Nat) => (w.1, w.2.1, w.2.2.1) == k).map fun (w : Nat × Bool × Nat × Nat) => w.2.2.2
    let m : Member := ⟨k.1, k.2.1, k.2.2, if srcs.contains 0 then [] else srcs.eraseDups, 2⟩
    match s.net.members.find? fun (o : Member) => o.port == m.port && o.ipv6 == m.ipv6 && o.group == m.group && o.sources == m.sources with
    | some o => o
    | none => m
  let gone := s.net.members.filter fun (o : Member) => !new.any fun (m : Member) => m.port == o.port && m.ipv6 == o.ipv6 && m.group == o.group
  gone.foldl (fun (t : State) (m : Member) => t.sendReport m.port m.ipv6 m.leave) (s.modNet fun (n : Net) => { n with members := new })

/-- Every membership is reported anew (R241). -/
def State.renewMembers (s : State) : State :=
  s.modNet fun (n : Net) => { n with members := n.members.map fun (m : Member) => { m with reports := 2 } }

/-- MEMBERSHIP_REPORT (R241): one of the two unsolicited reports of a joined group. -/
def execMembershipReport (port : Nat) (ipv6 : Bool) (group : Nat) (s : State) : Host.Outcome State Fault Refusal :=
  let is (m : Member) : Bool := m.port == port && m.ipv6 == ipv6 && m.group == group && m.reports != 0
  .next (match s.net.members.find? is with
    | some m => (s.modNet fun (n : Net) => { n with members := n.members.map fun (o : Member) => if is o then { o with reports := o.reports - 1 } else o }).sendReport port ipv6 m.join
    | none => s)

/-! ### Streams in force -/

/-- A receive stream that holds nothing. -/
def RxStream.zero : RxStream := ⟨[], [], [], [], false, false⟩

def State.rxStream (s : State) (i : Nat) : RxStream := (assoc? s.net.rx i).getD RxStream.zero
def State.setRx (s : State) (i : Nat) (x : RxStream) : State := s.modNet fun (n : Net) => { n with rx := assocPut n.rx i x }

/-- Counters that start at their reset values (R263). -/
def StreamStat.zero : StreamStat := ⟨0, 0, 0, 0, 0, 0, 0, 0, none⟩

def State.rxStat (s : State) (i : Nat) : StreamStat := (assoc? s.net.rxStats i).getD StreamStat.zero
def State.txStat (s : State) (i : Nat) : StreamStat := (assoc? s.net.txStats i).getD StreamStat.zero
def State.modRxStat (s : State) (i : Nat) (f : StreamStat → StreamStat) : State :=
  s.modNet fun (n : Net) => { n with rxStats := assocPut n.rxStats i (f (s.rxStat i)) }
def State.modTxStat (s : State) (i : Nat) (f : StreamStat → StreamStat) : State :=
  s.modNet fun (n : Net) => { n with txStats := assocPut n.txStats i (f (s.txStat i)) }

/-- A 16-bit saturating count. -/
def sat16Inc (x : Nat) (k : Nat := 1) : Nat := min (x + k) 65535

/-- ACTIVE and TOTAL after the in-force array has changed (R263). -/
def State.showStreams (s : State) (tx : Bool) : State :=
  let on := (List.range 512).filter fun (i : Nat) => (s.stream tx i).enable
  let ch := on.foldl (fun (n : Nat) (i : Nat) => n + (s.stream tx i).channels) 0
  let s1 := (List.range 16).foldl (fun (t : State) (w : Nat) =>
    let bits := (on.filter fun (i : Nat) => i / 32 == w).foldl (fun (b : Nat) (i : Nat) => b + 2 ^ (i % 32)) 0
    t.wr (if tx then F.STX_ACTIVE_bits else F.SRX_ACTIVE_bits) bits 0 w) s
  if tx then (s1.wr F.STX_TOTAL_channels ch).wr F.STX_TOTAL_streams on.length
  else (s1.wr F.SRX_TOTAL_channels ch).wr F.SRX_TOTAL_streams on.length

/-- The channels of a receive stream. -/
def StreamD.chans (d : StreamD) : List Nat := (List.range d.channels).map fun (c : Nat) => d.first + c

/-- A receive descriptor comes into force: the old stream leaves, the new one starts empty (R248). -/
def State.enforceRx (s : State) (i : Nat) (new : List Byte) : State :=
  let old := s.streamBytes false true i
  if old = new then s
  else
    let d := parseStream false old
    let lv := if d.enable then d.chans else []
    (s.modNet fun (n : Net) => { n with leaving := n.leaving ++ lv, rx := assocDel n.rx i }).setBytes
      (s.rd F.SRX_TABLE_BASE_base + 0x10000 + 128 * i) new

/-- A transmit descriptor comes into force at boundary `a`: the old stream goes on to its last packet before `a`, the new
one starts with its first packet at or after `a` (R251); its unicast MAC addresses are asked for. -/
def State.enforceTx (s : State) (a i : Nat) (new : List Byte) : State :=
  let old := s.streamBytes true true i
  if old = new then s
  else
    let d := parseStream true old
    let e := parseStream true new
    let s1 := if d.enable then s.modNet fun (n : Net) => { n with ending := n.ending ++ [⟨i, a, old, (assoc? n.txFrom i).getD 0⟩] } else s
    let s2 := s1.setBytes (s.rd F.STX_TABLE_BASE_base + 0x10000 + 128 * i) new
    let p := max 1 (e.samples s)
    let start := ((a / e.step) + p - 1) / p * p
    let s3 := s2.modNet fun (n : Net) => { n with txFrom := if e.enable then assocPut n.txFrom i start else assocDel n.txFrom i }
    if e.enable then
      e.paths.foldl (fun (t : State) (q : Nat × PathD) =>
        if !q.2.macGiven ∧ (t.macFor q.2.port q.2.v6 q.2.dst).isNone then t.askMac q.2.port q.2.v6 q.2.dst else t) s3
    else s3

/-- An APPLY of the SRX or STX page that is due at boundary `p.due` (R238, R240). -/
def State.applyStreams (s : State) (tx : Bool) (p : PendSet) : State :=
  let dirty (i : Nat) : Bool := bitAt (p.word s (0x080 + 4 * (i / 32))).toNat (i % 32)
  let page := if tx then 0x063 else 0x062
  match s.streamCheck tx dirty with
  | some r =>
    let s1 := if tx then (s.wr F.STX_REFUSED_stream r.1).wr F.STX_REFUSED_reason r.2 else (s.wr F.SRX_REFUSED_stream r.1).wr F.SRX_REFUSED_reason r.2
    (s1.endPend page r.2).raise page (if tx then 0 else 3)
  | none =>
    let marked := (List.range 512).filter dirty
    let s1 := marked.foldl (fun (t : State) (i : Nat) =>
      let new := s.streamBytes tx false i
      if tx then t.enforceTx p.due i new else t.enforceRx i new) s
    let s2 := (List.range 16).foldl (fun (t : State) (w : Nat) =>
      let k := page * 0x1000 + 0x080 + 4 * w
      t.setReg k (t.reg k &&& ~~~(p.word s (0x080 + 4 * w)))) s1
    let s3 := s2.showStreams tx
    let s4 := if tx then s3 else s3.updateMembers
    let s5 := s4.enforce p
    (List.range 16).foldl (fun (t : State) (w : Nat) => t.setLive (page * 0x1000 + 0x080 + 4 * w) 0) s5

/-- Every stream is disabled in both directions (R248): a rate change. -/
def State.disableStreams (s : State) : State :=
  let clr (t : State) (tx : Bool) : State :=
    (t.streams tx).foldl (fun (u : State) (i : Nat) =>
      u.setBytes ((if tx then u.rd F.STX_TABLE_BASE_base else u.rd F.SRX_TABLE_BASE_base) + 0x10000 + 128 * i)
        [BitVec.ofNat 8 ((u.streamBytes tx true i).headD 0).toNat &&& 0xFE]) t
  let s1 := clr (clr s false) true
  ((s1.modNet fun (n : Net) => { n with rx := [], txFrom := [], ending := [], leaving := [], held := [] }).showStreams false).showStreams true |>.updateMembers

/-! ### Receive (R242–R248, R254) -/

/-- An RTP packet: payload type, sequence number, timestamp, SSRC, extension elements, payload (R235). -/
structure RtpIn where
  pt : Nat
  seq : Nat
  ts : Nat
  ssrc : Nat
  elems : List (Nat × List Byte)
  data : List Byte
  deriving DecidableEq, Repr

/-- Elements of a header extension of the one-byte (`two` false) or two-byte form (RFC 8285). -/
def extElements (two : Bool) : Nat → List Byte → List (Nat × List Byte)
  | 0, _ => []
  | n + 1, l => match l with
    | [] => []
    | b :: rest =>
      if b = 0 then extElements two n rest
      else if two then
        let len := (rest.headD 0).toNat
        (b.toNat, (rest.drop 1).take len) :: extElements two n (rest.drop (1 + len))
      else if b.toNat / 16 = 15 then []
      else
        let len := b.toNat % 16 + 1
        (b.toNat / 16, rest.take len) :: extElements two n (rest.drop len)

/-- The RTP packet in a UDP payload: version 2, CSRC entries skipped, padding removed, extension parsed (R235). -/
def parseRtp (u : List Byte) : Option RtpIn :=
  if u.length < 12 ∨ beAt u 0 1 / 64 ≠ 2 then none
  else
    let b0 := beAt u 0 1
    let body := u.drop (12 + 4 * (b0 % 16))
    let x := bitAt b0 4
    let n := if x then 4 * beAt body 2 2 else 0
    let prof := beAt body 0 2
    let ext := if x then slice body 4 n else []
    let elems := if prof = 0xBEDE then extElements false (n + 1) ext else if prof / 16 = 0x100 then extElements true (n + 1) ext else []
    let rest := if x then body.drop (4 + n) else body
    let pad := if bitAt b0 5 then (rest.getLast?.getD 0).toNat else 0
    some ⟨beAt u 1 1 % 128, beAt u 2 2, beAt u 4 4, beAt u 8 4, elems, rest.take (rest.length - pad)⟩

/-- The datagram on `port` is a packet of path `p` of `d` (R242). -/
def State.onPath (s : State) (d : StreamD) (p : PathD) (port : Nat) (i : IpIn) (r : RtpIn) : Bool :=
  let own := s.ipOf port p.v6
  p.port == port && p.v6 == i.v6 && beAt i.data 2 2 == p.dport &&
  (if allZero p.dst then i.dst == own && !allZero own else i.dst == p.dst) &&
  (allZero p.src || i.src == p.src) && r.pt == d.pt && (d.ssrc == 0 || r.ssrc == d.ssrc)

/-- The first path of stream `k` that a datagram belongs to. -/
def State.pathOf (s : State) (k port : Nat) (i : IpIn) (r : RtpIn) : Option Nat :=
  let d := s.stream false k
  (d.paths.find? fun (p : Nat × PathD) => s.onPath d p.2 port i r).map fun (p : Nat × PathD) => p.1

/-- Element `j` of a Psiras stream as tags, none where it is missing or of another length (R253). -/
def psirasElement (d : StreamD) (r : RtpIn) (j : Nat) : Option (List Nat) :=
  let n := min 31 (d.channels - 31 * j)
  match r.elems.find? fun (e : Nat × List Byte) => e.1 == d.extId + j with
  | some e => if e.2.length = 8 * n then some ((List.range n).map fun (i : Nat) => beAt e.2 (8 * i) 8) else none
  | none => none

/-- The tags of a Psiras packet, none where an element is missing. -/
def psirasTags (d : StreamD) (r : RtpIn) : Option (List Nat) :=
  (List.range d.elements).foldl (fun (a : Option (List Nat)) (j : Nat) =>
    match a, psirasElement d r j with
    | some l, some t => some (l ++ t)
    | _, _ => none) (some [])

/-- TAG_CHECK (R31): a tag kept, with its reserved bits cleared, or 2^64 for a discard; and whether it was in error. -/
def State.checkTag (s : State) (t : Nat) : Nat × Bool :=
  if bitsOf t 48 2 = 3 ∨ bitsOf t 48 2 ≠ s.rateClass ∨ 6 ≤ tagCond t then (2 ^ 64, true)
  else if t % 8 ≠ 0 then (t / 8 * 8, true) else (t, false)

/-- Count erroneous tags; the first error after a read sets tag_error (R31, R42). -/
def State.tagErrors (s : State) (n : Nat) : State :=
  if n = 0 then s
  else
    let t := s.bump F.ENG_TAG_ERR_tag_err n
    if s.rd F.ENG_TAG_ERR_tag_err = 0 then t.raise 0x030 3 else t

/-- Data time of a stream data time (R243): engine samples, with the converter delay of 24 for a half-rate stream. -/
def StreamD.dataTime (d : StreamD) (x : Nat) : Nat := if d.half then 2 * x + 24 else x

/-- The accepted samples of a packet are written where nothing is held yet (R243). -/
def RxStream.accept (x : RxStream) (d : StreamD) (first n seq : Nat) (data : List Byte) (tags : Option (List Nat)) : RxStream :=
  let w := d.width
  let smp : List (Nat × List Nat) := (List.range n).map fun (j : Nat) =>
    (first + j, (List.range d.channels).map fun (c : Nat) => beAt data ((j * d.channels + c) * w) w)
  { x with ring := x.ring ++ smp.filter (fun (e : Nat × List Nat) => !(x.ring.any fun (o : Nat × List Nat) => o.1 == e.1)),
           tags := (match tags with
             | some t => if x.tags.any (fun (o : Nat × List Nat) => o.1 == first) then x.tags else x.tags ++ [(first, t)]
             | none => x.tags),
           seqs := (seq :: x.seqs).take 1024 }

/-- A packet that passed the format test (R243): duplicate, late, early or accepted. For a half-rate stream the early
window is counted in engine samples (DEDUCED, log entry 34). -/
def State.rtpTests (s : State) (k path : Nat) (d : StreamD) (r : RtpIn) (tags : Option (List Nat)) : State :=
  let a := s.now
  let p := d.samples s
  let first := expandEsi (a / d.step) r.ts + d.offset
  let e := d.dataTime first
  let x := s.rxStream k
  let m : Int := (e : Int) - a
  let s0 := s.modRxStat k fun (u : StreamStat) => { u with margin := some (match u.margin with | some v => min v m | none => m) }
  if x.seqs.contains r.seq then s0.modRxStat k fun (u : StreamStat) => { u with dup := sat16Inc u.dup }
  else if e ≤ a then
    ((s0.setRx k { x with late := ((List.range p).map fun (j : Nat) => first + j) ++ x.late }).modRxStat k
      fun (u : StreamStat) => { u with late := sat16Inc u.late }).raise 0x062 0
  else if a + (d.offset + 2 * p) * d.step + s.blockLen ≤ d.dataTime (first + p - 1) then
    s0.modRxStat k fun (u : StreamStat) => { u with early := sat16Inc u.early }
  else
    let checked := (tags.getD []).map fun (t : Nat) => s.checkTag t
    let bad := (checked.filter fun (c : Nat × Bool) => c.1 == 2 ^ 64).length
    let s1 := (s0.setRx k (x.accept d first p r.seq r.data (tags.map fun (_ : List Nat) => checked.map fun (c : Nat × Bool) => c.1))).modRxStat k
      fun (u : StreamStat) => if path = 0 then { u with pktA := sat16Inc u.pktA } else { u with pktB := sat16Inc u.pktB }
    (s1.tagErrors (checked.filter fun (c : Nat × Bool) => c.2).length).bump F.SRX_DISCARD_tag bad

/-- STREAM_PACKET_RECEIVE (R242): a datagram of stream `k` on a path; one of another format is discarded. -/
def State.rtpReceive (s : State) (k path : Nat) (r : RtpIn) : State :=
  let d := s.stream false k
  let tags := if d.format = 2 then psirasTags d r else none
  let bad := r.data.length != d.channels * d.samples s * d.width ||
    (d.format == 2 && (tags.isNone || (expandEsi s.now r.ts + d.offset) % s.blockLen != 0))
  if bad then (s.bump F.SRX_DISCARD_format).modRxStat k fun (u : StreamStat) => { u with format := sat16Inc u.format }
  else s.rtpTests k path d r tags

/-- The engine word of a raw sample (R40). -/
def rawWord (format raw : Nat) : Word := if format = 2 then BitVec.ofNat 32 raw else fromPort (if format = 0 then 16 else 24) raw

/-- The sample of channel `c` at stream data time `x`. -/
def RxStream.sample (r : RxStream) (format c : Nat) (x : Int) : Int :=
  if x < 0 then 0 else (rawWord format (at0 0 ((assoc? r.ring x.toNat).getD []) c)).toInt

/-- The stream data times that block `n` needs. -/
def StreamD.needs (d : StreamD) (l n : Nat) : List Nat :=
  if d.half then
    let lo := (n * l - 46) / 2
    (List.range ((n * l + l - 2) / 2 + 1 - lo)).map fun (i : Nat) => lo + i
  else (List.range l).map fun (i : Nat) => n * l + i

/-- What a stream gives for block `n` (R245): 0 all present, 1 some missing, 5 some missing and marked late, which before the
first complete block is 1 too (R248); codes of R25. -/
def State.rxBlockCond (s : State) (x : RxStream) (d : StreamD) (n : Nat) : Nat :=
  let missing := (d.needs s.blockLen n).filter fun (t : Nat) => (assoc? x.ring t).isNone
  if missing = [] then 0 else if x.started ∧ missing.any fun (t : Nat) => x.late.contains t then 5 else 1

/-- The samples of channel `c` of a stream for block `n`. -/
def rxSamples (x : RxStream) (d : StreamD) (l n c : Nat) : List Word :=
  (List.range l).map fun (i : Nat) =>
    if d.half then BitVec.ofInt 32 (interpolate (fun (t : Int) => x.sample d.format c t) ((n * l + i : Nat) : Int))
    else BitVec.ofInt 32 (x.sample d.format c ((n * l + i : Nat) : Int))

/-- One receive channel of block `n` (R245, R246, R254): written with its tag; the flag says that it is substituted. -/
def State.rxChannel (s : State) (x : RxStream) (d : StreamD) (cond n c : Nat) : State × Bool :=
  let l := s.blockLen
  let src := d.first + c
  let wire := if d.format = 2 then at0 (2 ^ 64) ((assoc? x.tags (n * l)).getD []) c else 0
  if cond ≠ 0 ∨ wire = 2 ^ 64 then
    let r := s.substitute n src
    (r.2.putIngress n src (if cond = 0 then 1 else cond) r.1, true)
  else
    let f := s.fadeBlock (n * l) (rxSamples x d l n c)
    let g := s.goodBlock src f.1
    let t := g.2
    (t.putBlock n src g.1.1 (mkTag src t.rateClass (n * l) (t.rd F.ENG_SCENE_COUNT_scene_count) (t.rd F.ENG_ROUTE_COUNT_route_count)
      (condMerge (condMerge g.1.2.1 f.2) (tagCond wire)) (bitAt wire 4) (if d.format = 2 then bitAt wire 3 else t.originBit)), false)

/-- RECEIVE_BLOCK_CONDITION for one stream (R245): its channels, counters and events, and what its ring still needs. conceal
sets with the first substituted block of a channel, resume when no channel is under substitution or ramp any more (R246). -/
def State.rxStreamBlock (s : State) (n k : Nat) : State :=
  let d := s.stream false k
  let x := s.rxStream k
  let l := s.blockLen
  let cond := s.rxBlockCond x d n
  let r := (List.range d.channels).foldl (fun (a : State × Bool) (c : Nat) =>
    let u := a.1.rxChannel x d cond n c
    (u.1, a.2 || u.2)) (s, false)
  let first := r.2 ∧ !x.concealing
  let done := x.concealing ∧ !r.2 ∧ d.chans.all fun (c : Nat) => (assoc? r.1.mil.subst c).isNone
  let keep := (n * l - 46) / d.step
  let s1 := r.1.setRx k { ring := x.ring.filter (fun (e : Nat × List Nat) => decide (keep ≤ e.1)),
                          tags := x.tags.filter (fun (e : Nat × List Nat) => decide (n * l ≤ e.1)),
                          late := x.late.filter (fun (t : Nat) => decide (keep ≤ t)), seqs := x.seqs,
                          concealing := if r.2 then true else if done then false else x.concealing,
                          started := x.started || cond == 0 }
  let s2 := if cond = 1 then s1.modRxStat k fun (u : StreamStat) => { u with concealed := sat16Inc u.concealed }
    else if cond = 5 then s1.modRxStat k fun (u : StreamStat) => { u with stale := sat16Inc u.stale } else s1
  (s2.when first fun (t : State) => t.raise 0x062 1).when done fun (t : State) => t.raise 0x062 2

/-- The receive channels of block `n` (R245, R248): those of streams in force, one more substitute for those whose stream
was disabled, zeros tagged VALID for the others. -/
def State.rxBlock (s : State) (n : Nat) : State :=
  let on := s.streams false
  let covered := on.foldr (fun (k : Nat) (acc : List Nat) => (s.stream false k).chans ++ acc) []
  let s1 := on.foldl (fun (t : State) (k : Nat) => t.rxStreamBlock n k) s
  let l := s.blockLen
  let s2 := (List.range (4096 / s.mult)).foldl (fun (t : State) (c : Nat) =>
    if covered.contains c then t
    else if s.net.leaving.contains c then
      let r := t.substitute n c
      (r.2.setSubst c none).putIngress n c 1 r.1
    else (t.setSubst c none).putIngress n c 0 (List.replicate l 0)) s1
  s2.modNet fun (u : Net) => { u with leaving := [] }

/-! ### Transmit (R249–R253) -/

/-- Transmission is gated (R252, R366). -/
def State.gated (s : State) : Bool := s.rd F.NBR_STATE_role == 2 || s.rd F.NBR_STATE_role == 3 || s.nbr.drilling

/-- Packets that the gate still keeps: those of the last 3 × L emit samples (R252). -/
def State.heldNow (s : State) : List TxPacket :=
  s.net.held.filter fun (h : TxPacket) => decide (s.now < h.e + h.len + 3 * s.blockLen)

/-- STX_GATE as it reads now (R252). -/
def State.gateWord (s : State) : Nat := b2n s.gated + min s.heldNow.length 65535 * 65536

/-- STX_GATE (R252). -/
def State.showGate (s : State) : State :=
  (s.wr F.STX_GATE_gated (b2n s.gated)).wr F.STX_GATE_held (min s.heldNow.length 65535)

/-- The presented block of transmit channel `c` in emit block `m`: tag and samples. -/
def State.sentBlock (s : State) (m c : Nat) : Nat × List Word :=
  match assoc? ((assoc? s.eng.sent m).getD []) (7808 / s.mult + c) with
  | some b => b
  | none => let z := s.sideBlock (m - 3) unpatched 0; (z.2, z.1)

/-- The presented sample of transmit channel `c` at emit ESI `x`. -/
def State.sentSample (s : State) (c : Nat) (x : Int) : Int :=
  if x < 0 then 0 else (at0 0 (s.sentBlock (x.toNat / s.blockLen) c).2 (x.toNat % s.blockLen)).toInt

/-- The stream sample of channel `c` with index `i` (R13, R294). -/
def State.streamSample (s : State) (d : StreamD) (c i : Nat) : Int :=
  if d.half then decimate (fun (x : Int) => s.sentSample (d.first + c) x) i else s.sentSample (d.first + c) i

/-- Bits of a port word; 32 for Psiras. -/
def StreamD.wordBits (d : StreamD) : Nat := if d.format = 0 then 16 else if d.format = 1 then 24 else 32

/-- The header extension of a Psiras packet (R253): the presented tags with esi set to the emit ESI. -/
def State.psirasExt (s : State) (d : StreamD) (e : Nat) : List Byte :=
  if d.format ≠ 2 then []
  else
    let tag (c : Nat) : List Byte := beBytes 8 (setBitsOf (s.sentBlock (e / s.blockLen) (d.first + c)).1 16 32 (e % 2 ^ 32))
    let el (i : Nat) : List Byte :=
      let n := min 31 (d.channels - 31 * i)
      [BitVec.ofNat 8 (d.extId + i), BitVec.ofNat 8 (8 * n)] ++ (List.range n).foldr (fun (c : Nat) (a : List Byte) => tag (31 * i + c) ++ a) []
    let all := (List.range d.elements).foldr (fun (i : Nat) (a : List Byte) => el i ++ a) []
    let n := d.extBytes - 4
    beBytes 2 0x1000 ++ beBytes 2 (n / 4) ++ all ++ List.replicate (n - all.length) (0 : Byte)

/-- The RTP packet of the set that starts with stream sample index `e`, and its saturated samples (R249, R253). -/
def State.rtpPacket (s : State) (d : StreamD) (e : Nat) : List Byte × Nat :=
  let p := d.samples s
  let vals := (List.range p).foldr (fun (j : Nat) (a : List Int) => (List.range d.channels).map (fun (c : Nat) => s.streamSample d c (e + j)) ++ a) []
  let w := d.wordBits
  let conv (v : Int) : List Byte := beBytes d.width (if d.format = 2 then unsigned 32 v else unsigned w (toPort w v))
  let sat := if d.format = 2 then 0 else (vals.filter (portSaturates w)).length
  (beBytes 1 (0x80 + (if d.format = 2 then 0x10 else 0)) ++ beBytes 1 d.pt ++ beBytes 2 (e / p % 65536) ++ beBytes 4 (e % 2 ^ 32) ++ beBytes 4 d.ssrc ++
    s.psirasExt d e ++ vals.foldr (fun (v : Int) (a : List Byte) => conv v ++ a) [], sat)

/-- The frame of a packet on a path, while its destination MAC is known. -/
def State.packetFrame (s : State) (d : StreamD) (p : PathD) (rtp : List Byte) : Option (List Byte) :=
  let mac := if p.macGiven then some p.mac else s.macFor p.port p.v6 p.dst
  let src := s.ipOf p.port p.v6
  mac.map fun (m : List Byte) => s.ethFrame p.port m (ipType p.v6) (ipPacket p.v6 d.dscp d.ttl 17 src p.dst (udpDatagram true src p.dst p.sport p.dport rtp))

/-- Send, or hold at the gate, the packet of stream `k` that starts with stream sample index `e`. The gate keeps the
packets of the last 3 × L emit samples (R252). -/
def State.sendPacket (s : State) (k : Nat) (d : StreamD) (e : Nat) : State :=
  let r := s.rtpPacket d e
  let s1 := (s.bump F.STX_SAT_samples r.2).when (r.2 != 0) fun (t : State) => t.raise 0x063 2
  let s2 := d.paths.foldl (fun (t : State) (q : Nat × PathD) =>
    match t.packetFrame d q.2 r.1 with
    | none => t
    | some f =>
      if t.gated then t.modNet fun (n : Net) => { n with held := n.held ++ [⟨k, q.1, q.2.port, e * d.step, d.samples s * d.step, f⟩] }
      else (t.modTxStat k fun (u : StreamStat) => if q.1 = 0 then { u with pktA := sat16Inc u.pktA } else { u with pktB := sat16Inc u.pktB }).sendFrameOn q.2.port f) s1
  (s2.modNet fun (n : Net) => { n with held := s2.heldNow }).showGate

/-- PACKET_LAUNCH (R249–R252): the next packet of a stream whose P samples have been emitted; a stream that ends goes on to
its last packet before the boundary. -/
def execPacketLaunch (stream : Nat) (late behind : Bool) (s : State) : Host.Outcome State Fault Refusal :=
  let counts (t : State) : State :=
    if t.gated then t
    else
      let u := t.modTxStat stream fun (x : StreamStat) => { x with late := sat16Inc x.late (b2n late), early := sat16Inc x.early (b2n behind) }
      if late then u.raise 0x063 1 else u
  let ends := s.net.ending.find? fun (x : TxEnding) => x.stream == stream
  .next (match ends with
    | some x =>
      let d := parseStream true x.desc
      let p := d.samples s
      if s.now < (x.next + p) * d.step then s
      else
        let rest := s.net.ending.filter fun (y : TxEnding) => y != x
        if x.until' ≤ x.next * d.step then s.modNet fun (n : Net) => { n with ending := rest }
        else counts ((s.modNet fun (n : Net) => { n with ending := if x.until' ≤ (x.next + p) * d.step then rest else { x with next := x.next + p } :: rest }).sendPacket stream d x.next)
    | none =>
      match assoc? s.net.txFrom stream with
      | none => s
      | some e =>
        let d := s.stream true stream
        let p := d.samples s
        if !s.running ∨ s.now < (e + p) * d.step then s
        else counts ((s.modNet fun (n : Net) => { n with txFrom := assocPut n.txFrom stream (e + p) }).sendPacket stream d e))

end Sys2Proof.Machine
end

