-- ==== Sys2Proof/Machine/Crier.lean ====
section
/-! DEFINITION. The Crier (R255–R261): timed frames and captured frames. -/
namespace Sys2Proof.Machine

/-! ### Slots (R255) -/

/-- The Granary address of slot `i`. -/
def State.slotAt (s : State) (i : Nat) : Nat := s.rd F.CRI_POOL_BASE_base + 1536 * i

/-- The header and payload of a slot. -/
structure CriSlot where
  mode : Nat
  ports : Nat
  v6 : Bool
  length : Nat
  /-- PTP time in ns since the epoch -/
  when : Nat
  offset : Nat
  scene : Nat
  udpPort : Nat
  addr : List Byte
  deriving DecidableEq, Repr

/-- The slot as host software filled it. -/
def State.criSlot (s : State) (i : Nat) : CriSlot :=
  let a := s.slotAt i
  let w0 := s.load a 4
  let w1 := s.load (a + 4) 4
  let w2 := s.load (a + 8) 4
  let w3 := s.load (a + 12) 4
  let v6 := bitAt w0 4
  ⟨bitsOf w0 0 2, bitsOf w0 2 2, v6, bitsOf w0 16 11, (w2 + w3 % 65536 * 2 ^ 32) * 1000000000 + bitsOf w1 0 30, bitsOf w1 0 24, w2 % 65536,
    w3 / 65536, s.bytes (a + 16) (if v6 then 16 else 4)⟩

/-- The ports a slot sends on. -/
def CriSlot.portList (c : CriSlot) : List Nat := [0, 1].filter fun (p : Nat) => bitAt c.ports p

/-- A header value that a post refuses. -/
def CriSlot.refused (c : CriSlot) : Bool :=
  !(c.mode == 1 || c.mode == 2) || c.ports == 0 || c.length == 0 || decide ((if c.v6 then 1452 else 1472) < c.length)

/-- State code of a slot in CRI_SLOT_STATE. -/
def State.slotCode (s : State) (i : Nat) : Nat := s.rd ((F.CRI_SLOT_STATE_s).part (i % 16) 2) 0 (i / 16)
def State.setSlotCode (s : State) (i v : Nat) : State := s.wr ((F.CRI_SLOT_STATE_s).part (i % 16) 2) v 0 (i / 16)

/-- The POSTED slots change. -/
def State.setPosted (s : State) (l : List Nat) : State :=
  (s.modNet fun (n : Net) => { n with posted := l }).wr F.CRI_PENDING_posted l.length

/-- A slot ends with a result: sent (0x01, 0x02), or dropped or cancelled (R255, R264). An Active names it to its Standby
(R344). -/
def State.endSlot (s : State) (i result : Nat) : State :=
  let s1 := ((s.store (s.slotAt i + 1) 1 result).setPosted (s.net.posted.filter (· != i))).setSlotCode i (if result ≤ 2 then 2 else 3)
  let s2 := s1.raise 0x064 (if result ≤ 2 then 0 else 1)
  if s.leads then s2.nbrSend 5 [6, s.now, i, result] else s2

/-- The frame of a slot on port `p`; the spec names no TTL for it. -/
def State.criFrame (s : State) (i : Nat) (c : CriSlot) (p : Nat) (mac : List Byte) : List Byte :=
  let src := s.ipOf p c.v6
  let ttl := (Config.freeValue s.free).toNat % 256
  s.ethFrame p mac (ipType c.v6) (ipPacket c.v6 (s.rd F.CRI_CFG_dscp) ttl 17 src c.addr
    (udpDatagram true src c.addr (s.rd F.CRI_CFG_src_port) c.udpPort (s.bytes (s.slotAt i + 32) c.length)))

/-- The gate keeps a Crier frame as it keeps packets, over the last 3 × L emit samples (R258, R252). -/
def State.holdCrier (s : State) (i : Nat) (frames : List (Nat × List Byte)) : State :=
  s.modNet fun (n : Net) => { n with crier := n.crier.filter (fun (e : Nat × Nat × List (Nat × List Byte)) =>
    decide (s.now < e.2.1 + 3 * s.blockLen)) ++ [(i, s.now, frames)] }

/-- A slot falls due: with no route it ends with 0x05; else its frame leaves on each port, unless gated (R258), the slot
takes the stamp of NETA, or of its one port, and the result. -/
def State.releaseSlot (s : State) (i result : Nat) : State :=
  let c := s.criSlot i
  let ps := c.portList
  if ps.any fun (p : Nat) => (s.macFor p c.v6 c.addr).isNone then s.endSlot i 0x05
  else
    let st := s.stamp (ps.headD 0) true
    let frames := ps.map fun (p : Nat) => (p, s.criFrame i c p ((s.macFor p c.v6 c.addr).getD []))
    let s1 := if s.gated then s.holdCrier i frames else frames.foldl (fun (t : State) (f : Nat × List Byte) => t.sendFrameOn f.1 f.2) s
    let s2 := ((s1.useFree).store (s.slotAt i + 4) 4 (nsOf st)).store (s.slotAt i + 8) 4 (secOf st % 2 ^ 32)
    s2.endSlot i result

/-- The release instant of a swap-mode slot whose swap's descriptor has reached the Crier (R257). -/
def State.swapDue (s : State) (c : CriSlot) : Option Nat :=
  (assoc? s.net.swaps c.scene).map fun (S : Nat) => S + 3 * s.blockLen + c.offset

/-- The MAC addresses that a slot still lacks are asked for. -/
def State.askSlot (s : State) (c : CriSlot) : State :=
  c.portList.foldl (fun (t : State) (p : Nat) => if (t.macFor p c.v6 c.addr).isNone then t.askMac p c.v6 c.addr else t) s

/-- CRI_POST (R255–R257). -/
def execCriPost (value : Word) (s : State) : Host.Outcome State Fault Refusal :=
  let i := value.toNat % 256
  let c := s.criSlot i
  .next (if s.slotCode i = 1 ∨ c.refused then s.raise 0x064 5
    else
      let s1 := ((s.store (s.slotAt i + 1) 1 0).setSlotCode i 1).setPosted (s.net.posted ++ [i])
      let s2 := s1.askSlot c
      if c.mode = 1 then
        if c.when < s.tbNs then s2.releaseSlot i 0x02 else s2
      else match s.swapDue c with
        | none => s2
        | some d => if d < s.now then s2.endSlot i 0x03 else if d = s.now then s2.releaseSlot i 0x02 else s2)

/-- CRI_CANCEL (R255): a POSTED slot ends with 0x04. -/
def execCriCancel (value : Word) (s : State) : Host.Outcome State Fault Refusal :=
  let i := value.toNat % 256
  .next (if s.slotCode i = 1 then s.endSlot i 0x04 else s)

/-- ARP_RETRY (R255): an unresolved destination of a POSTED slot is asked for again. -/
def execArpRetry (slot : Nat) (s : State) : Host.Outcome State Fault Refusal :=
  .next (if s.net.posted.contains slot then s.askSlot (s.criSlot slot) else s)

/-- CRIER_PTP_RELEASE (R256): a PTP-mode frame at or after its time; more than 10 µs behind it is late. -/
def execCrierPtpRelease (slot : Nat) (s : State) : Host.Outcome State Fault Refusal :=
  let c := s.criSlot slot
  .next (if s.net.posted.contains slot ∧ c.mode = 1 ∧ c.when ≤ s.tbNs then
      s.releaseSlot slot (if c.when + 10000 < s.tbNs then 0x02 else 0x01)
    else s)

/-- CRIER_SWAP_RELEASE (R257): a swap-mode frame at the strobe of emit ESI S + 3 × L + offset. -/
def execCrierSwapRelease (slot : Nat) (s : State) : Host.Outcome State Fault Refusal :=
  let c := s.criSlot slot
  .next (if s.net.posted.contains slot ∧ c.mode = 2 then
      match s.swapDue c with
      | some d => if d ≤ s.now then s.releaseSlot slot (if d = s.now then 0x01 else 0x02) else s
      | none => s
    else s)

/-- A swap's descriptor reaches the Crier (R257): frames that wait for an earlier count are dropped with 0x03. -/
def State.crierSwap (s : State) (count S : Nat) : State :=
  let waiting := s.net.posted.filter fun (i : Nat) =>
    let c := s.criSlot i
    let d := (count % 65536 + 65536 - c.scene) % 65536
    c.mode == 2 && (assoc? s.net.swaps c.scene).isNone && decide (0 < d) && decide (d < 2 ^ 15)
  (waiting.foldl (fun (t : State) (i : Nat) => t.endSlot i 0x03) s).modNet fun (n : Net) => { n with swaps := assocPut n.swaps (count % 65536) S }

/-! ### Captured frames (R259–R261) -/

/-- A datagram of filter `k` with its stamp: a cue filter offers its match value to the scenes page, and the next entry of
the ring takes the datagram, with a notice, unless the ring is full. -/
def State.criCapture (s : State) (k port : Nat) (firmware : Bool) (ns sport : Nat) (addr payload : List Byte) : State :=
  let kept := payload.take 1488
  let o := s.rd F.CRI_RX_MATCH_match_ofs 0 k
  let cue := s.on F.CRI_RX_FILT_cue 0 k
  let found := cue && decide (o + 2 ≤ kept.length)
  let m := if found then beAt kept o 2 else 0
  let s1 := if cue then
      let t := (s.bump F.CRI_COUNTS_cues).raise 0x064 4
      if found then t.frameCue m s.now else t
    else s
  let h := s.rd F.CRI_RX_HEAD_index
  if (h + 1) % 128 = s.rd F.CRI_RX_TAIL_index then (s1.bump F.CRI_COUNTS_rx_drop).raise 0x064 3
  else
    let a := s.rd F.CRI_RX_BASE_base + 1536 * h
    let w0 := kept.length + k * 2 ^ 11 + b2n firmware * 2 ^ 14 + port * 2 ^ 15 + m * 2 ^ 16
    let head := leBytes 4 w0 ++ leBytes 4 (nsOf ns) ++ leBytes 4 (secOf ns % 2 ^ 32) ++ leBytes 2 (secOf ns / 2 ^ 32) ++ leBytes 2 sport ++
      leBytes 4 (s.now % 2 ^ 32) ++ leBytes 4 (payload.length + b2n (decide (1488 < payload.length)) * 2 ^ 16) ++
      (addr ++ List.replicate (16 - addr.length) (0 : Byte))
    let s2 := (s1.setBytes a head).setBytes (a + 0x30) kept
    let e := 0x064 * 2 ^ 48 + m * 2 ^ 16 + b2n firmware * 2 ^ 11 + k * 2 ^ 8 + h
    ((s2.wr F.CRI_RX_HEAD_index ((h + 1) % 128)).notice (s.rd F.CRI_CFG_rx_queue) (BitVec.ofNat 64 e)).raise 0x064 2

/-- The first filter in use that takes a datagram to UDP port `dport` on port `p` (R259). -/
def State.filterOf (s : State) (p dport : Nat) : Option Nat :=
  (List.range 8).find? fun (k : Nat) => s.on F.CRI_RX_FILT_en 0 k && s.rd F.CRI_RX_FILT_udp_port 0 k == dport && bitAt (s.rd F.CRI_RX_FILT_ports 0 k) p

/-- CRI_INJECT (R261): the Reeve stamps the payload of the injection buffer and handles it as of the named filter. -/
def execCriInject (value : Word) (s : State) : Host.Outcome State Fault Refusal :=
  let n := min (bitsOf value.toNat 0 11) 1536
  .next (s.criCapture (bitsOf value.toNat 11 3) 0 true s.tbNs 0 [] (s.bytes (s.rd F.CRI_INJ_BASE_base) n))

/-- UART_FRAME (R475): in frame mode a frame of a filter number and 1–1472 payload bytes is handled as an injected one;
any other is dropped and counted. -/
def execUartFrame (data : List Byte) (s : State) : Host.Outcome State Fault Refusal :=
  let k := (data.headD 0).toNat
  .next (if s.rd F.UAR_CFG_mode ≠ 2 then s
    else if data.length < 2 ∨ 1473 < data.length ∨ 7 < k then s.bump F.UAR_COUNTS_dropped
    else (s.bump F.UAR_COUNTS_accepted).criCapture k 0 true s.tbNs 0 [] (data.drop 1))

end Sys2Proof.Machine
end

