-- ==== Sys2Proof/Machine/Ptp.lean ====
section
/-! DEFINITION. The PTP ports (R234, R265, R317–R321): messages sent and received, best master, delay exchanges, the PTS
FIFO. Message layouts follow IEEE 1588-2019 (PRESUMED, log entry 20). -/
namespace Sys2Proof.Machine

/-! ### The PTS FIFO (R265) -/

/-- A stamp enters the FIFO of 256; when it is full the stamp is dropped and counted. -/
def State.pushStamp (s : State) (p msg domain seq ns : Nat) (tx : Bool) : State :=
  if s.net.pts.length < 256 then
    let e : PtsStamp := ⟨b2n tx * 2 + p * 4 + msg % 16 * 8 + domain % 256 * 2 ^ 8 + seq % 65536 * 2 ^ 16, nsOf ns, secOf ns⟩
    let l := s.net.pts ++ [e]
    (s.modNet fun (n : Net) => { n with pts := l }).wr F.PTS_FIFO_LEVEL_level l.length
  else (s.bump F.PTS_FIFO_LEVEL_dropped).raise 0x065 0

/-- The Carters read the stamp FIFO; a read by any other initiator returns 0 and pops nothing (R265). -/
def isCarter (i : Initiator) : Bool := i == .carter0 || i == .carter1

/-- A read of PTS_FIFO_INFO: a Carter pops the oldest entry and latches its stamp; any other initiator reads 0. -/
def State.ptsInfoRead (s : State) (ini : Initiator) : Nat × State :=
  if isCarter ini then
    match s.net.pts with
    | [] => (0, s)
    | e :: l =>
      (e.info + 1, ((((s.modNet fun (n : Net) => { n with pts := l }).wr F.PTS_FIFO_LEVEL_level l.length).wr F.PTS_FIFO_NS_value e.ns).wr
        F.PTS_FIFO_SEC_LO_stamp (e.sec % 2 ^ 32)).wr F.PTS_FIFO_SEC_HI_value (e.sec / 2 ^ 32))
  else (0, s)

/-- PTS_FIFO_INFO_READ (R265). -/
def execPtsFifoInfoRead (ini : Initiator) (s : State) : Host.Outcome State Fault Refusal :=
  .next (if s.portShut ini then s else let r := s.ptsInfoRead ini; r.2.respond ini r.1)

/-! ### Identity and state -/

/-- clockIdentity: the MAC address of NETA with FF FE in its middle (PRESUMED, log entry 20). -/
def State.clockId (s : State) : List Byte := let m := s.macOf 0; m.take 3 ++ [0xFF, 0xFE] ++ m.drop 3

/-- portIdentity of a port. -/
def State.portId (s : State) (p : Nat) : List Byte := s.clockId ++ beBytes 2 (p + 1)

/-- Role of STP_PTP in force; a port takes part while it is not 0 and the port is enabled (R317). -/
def State.ptpOn (s : State) (p : Nat) : Bool :=
  s.lv F.STP_PTP_role != 0 && (if p = 0 then s.lon F.STP_PTP_en_a else s.lon F.STP_PTP_en_b)

/-- The port measures delay peer to peer. -/
def State.p2p (s : State) (p : Nat) : Bool := if p = 0 then s.lon F.STP_PTP_p2p_a else s.lon F.STP_PTP_p2p_b

/-- The port sends one-step (PTS_CFG). -/
def State.oneStep (s : State) (p : Nat) : Bool := if p = 0 then s.on F.PTS_CFG_one_step_a else s.on F.PTS_CFG_one_step_b

/-- A port in MASTER sends nothing in role Standby or Proving (R320). -/
def State.ptpGated (s : State) (p : Nat) : Bool := s.ptpState p == 6 && (s.rd F.NBR_STATE_role == 2 || s.rd F.NBR_STATE_role == 3)

/-! ### Sending -/

/-- A message: header and body. -/
def State.ptpMessage (s : State) (p type flags : Nat) (corr : Int) (seq control : Nat) (logInt : Nat) (body : List Byte) : List Byte :=
  [BitVec.ofNat 8 type, 0x12] ++ beBytes 2 (34 + body.length) ++ beBytes 1 (s.lv F.STP_PTP_domain) ++ [0] ++ beBytes 2 flags ++
  beBytes 8 (unsigned 64 corr) ++ beBytes 4 0 ++ s.portId p ++ beBytes 2 seq ++ beBytes 1 control ++ beBytes 1 logInt ++ body

/-- A timestamp of 10 bytes. -/
def ptpStamp (ns : Nat) : List Byte := beBytes 6 (secOf ns) ++ beBytes 4 (nsOf ns)

/-- A message leaves on the port's transport: the first of UDP/IPv4, UDP/IPv6 and IEEE 802.3 that PTS_CFG enables (log
entry 37). A one-step event `m`, which the port made of what the Carters built (`built`), takes UDP checksum zero over IPv4, and
over IPv6 two more bytes that correct the checksum (R234). The spec names neither DSCP nor TTL. -/
def State.ptpSend (s : State) (p : Nat) (event peer : Bool) (built : Option (List Byte)) (m : List Byte) : State :=
  let port := if event then 319 else 320
  let x := (Config.freeValue s.free).toNat
  let ip (v6 : Bool) (dst datagram : List Byte) : State :=
    (s.useFree).sendFrameOn p (s.ethFrame p (groupMac v6 dst) (ipType v6) (ipPacket v6 (x % 64) (x / 64 % 256) 17 (s.ipOf p v6) dst datagram))
  if s.on F.PTS_CFG_udp4 then
    let dst := beBytes 4 (if peer then 0xE000006B else 0xE0000181)
    ip false dst (udpDatagram built.isNone (s.ipOf p false) dst port port m)
  else if s.on F.PTS_CFG_udp6 then
    let dst := if peer then beBytes 16 0xFF02000000000000000000000000006B else beBytes 16 0xFF0E0000000000000000000000000181
    ip true dst (match built with
      | some b => udpCorrected (s.ipOf p true) dst port port b m
      | none => udpDatagram true (s.ipOf p true) dst port port m)
  else if s.on F.PTS_CFG_l2 then s.sendFrameOn p (s.ethFrame p (if peer then beBytes 6 0x0180C200000E else beBytes 6 0x011B19000000) 0x88F7 m)
  else s

/-- logMessageInterval codes of STP_PTP_INT as bytes. -/
def logByte (v : Nat) : Nat := unsigned 8 (signed 4 v)

/-- Send a Sync, and in two-step operation its Follow_Up (R234). -/
def State.sendSync (s : State) (p : Nat) : State :=
  let q := s.ptp p
  let st := s.stamp p true
  let s1 := s.setPtp p { q with seqSync := (q.seqSync + 1) % 65536 }
  let li := logByte (s.lv F.STP_PTP_INT_log_sync)
  let built := s.ptpMessage p 0 0 0 q.seqSync 0 li (ptpStamp 0)
  if s.oneStep p then s1.ptpSend p true false (some built) (s.ptpMessage p 0 0 0 q.seqSync 0 li (ptpStamp st))
  else
    ((s1.ptpSend p true false none (s.ptpMessage p 0 0x0200 0 q.seqSync 0 li (ptpStamp 0))).pushStamp p 0 (s.lv F.STP_PTP_domain) q.seqSync st true).ptpSend
      p false false none (s.ptpMessage p 8 0 0 q.seqSync 2 li (ptpStamp st))

/-- Send a Delay_Req or Pdelay_Req; its stamp goes to the PTS FIFO and to the exchange. -/
def State.sendDelayReq (s : State) (p : Nat) (peer : Bool) : State :=
  let q := s.ptp p
  let st := s.stamp p true
  let type := if peer then 2 else 1
  let body := ptpStamp 0 ++ (if peer then List.replicate 10 (0 : Byte) else [])
  let s1 := s.setPtp p { q with seqReq := (q.seqReq + 1) % 65536, req := some (q.seqReq, st), resp := none }
  (s1.ptpSend p true peer none (s.ptpMessage p type 0 0 q.seqReq (if peer then 5 else 1) 0x7F body)).pushStamp p type (s.lv F.STP_PTP_domain) q.seqReq st true

/-- Answer the latest Pdelay_Req: in one-step operation the port adds the turnaround time to correctionField, which starts as
the request's, else that goes in the Follow_Up with the stamps (R234; IEEE 1588-2019, PRESUMED, log entry 20). -/
def State.sendPdelayResp (s : State) (p : Nat) : State :=
  match (s.ptp p).preq with
  | none => s
  | some (seq, who, t2, corr) =>
    let t3 := s.stamp p true
    let s1 := s.setPtp p { s.ptp p with preq := none }
    let id := beBytes 10 who
    if s.oneStep p then
      s1.ptpSend p true true (some (s.ptpMessage p 3 0 corr seq 5 0x7F (ptpStamp 0 ++ id)))
        (s.ptpMessage p 3 0 (corr + ((t3 : Int) - t2) * 65536) seq 5 0x7F (ptpStamp 0 ++ id))
    else
      ((s1.ptpSend p true true none (s.ptpMessage p 3 0x0200 0 seq 5 0x7F (ptpStamp t2 ++ id))).pushStamp p 3 (s.lv F.STP_PTP_domain) seq t3 true).ptpSend
        p false true none (s.ptpMessage p 10 0 corr seq 5 0x7F (ptpStamp t3 ++ id))

/-- PTP_EVENT_TRANSMIT (R234, R320): Sync of a master, Delay_Req of an end-to-end slave, Pdelay_Req of a peer-to-peer
port, Pdelay_Resp to a request that came. -/
def execPtpEventTransmit (port msg : Nat) (s : State) : Host.Outcome State Fault Refusal :=
  .next (if 2 ≤ port ∨ !s.ptpOn port ∨ s.ptpGated port then s
    else if msg = 0 then (if s.ptpState port = 6 then s.sendSync port else s)
    else if msg = 1 then (if s.ptpState port = 9 ∧ !s.p2p port then s.sendDelayReq port false else s)
    else if msg = 2 then (if s.p2p port then s.sendDelayReq port true else s)
    else if msg = 3 then s.sendPdelayResp port
    else s)

/-- The dataset this clock advertises as grandmaster (R319): priority1, clockClass, accuracy, variance, priority2, own
identity. -/
def State.ownDataset (s : State) (cls : Nat) : List Byte :=
  beBytes 1 (s.lv F.STP_PTP_priority1) ++ beBytes 1 cls ++ [0xFE, 0xFF, 0xFF] ++ beBytes 1 (s.lv F.STP_PTP_priority2) ++ s.clockId

/-- ANNOUNCE_MESSAGE (R319, R320): a MASTER port advertises its own dataset; a boundary clock that follows a master passes
that dataset on with stepsRemoved one higher. -/
def execAnnounceMessage (port : Nat) (s : State) : Host.Outcome State Fault Refusal :=
  .next (if 2 ≤ port ∨ !s.ptpOn port ∨ s.ptpState port ≠ 6 ∨ s.ptpGated port then s
    else
      let q := s.ptp port
      let li := logByte (s.lv F.STP_PTP_INT_log_announce)
      let slave := [0, 1].find? fun (p : Nat) => s.ptpState p == 9
      let s1 := s.setPtp port { q with seqAnn := (q.seqAnn + 1) % 65536 }
      let own := 0x08 + b2n (s.lon F.TBS_UTC_leap61) + 2 * b2n (s.lon F.TBS_UTC_leap59) + 4 + b2n (s.lon F.TBS_UTC_traceable) * 0x30
      let ownBody := ptpStamp 0 ++ beBytes 2 (s.lv F.TBS_UTC_utc_offset) ++ [0] ++ s.ownDataset s.clockClass ++ beBytes 2 0 ++ beBytes 1 (s.lv F.TBS_UTC_time_source)
      match (if s.lv F.STP_PTP_role = 2 then slave else none) with
      | none => s1.ptpSend port false false none (s.ptpMessage port 11 own 0 q.seqAnn 5 li ownBody)
      | some m =>
        let b := (s.ptp m).best
        let body := b.take 27 ++ beBytes 2 (beAt b 27 2 + 1) ++ b.drop 29
        s1.ptpSend port false false none (s.ptpMessage port 11 ((s.ptp m).gmClass / 256) 0 q.seqAnn 5 li (body.take 30)))

/-! ### Receiving -/

/-- The order of the default best master clock algorithm as one number, smaller is better: priority1, class, accuracy,
variance, priority2, identity, stepsRemoved, sender. -/
def datasetRank (dataset : List Byte) (steps sender : Nat) : Nat := ofBe dataset * 2 ^ 96 + steps * 2 ^ 80 + sender

/-- A port enters a state; leaving SLAVE its candidate stops being present, entering it the candidate is present with its
grandmaster (R304, R305, R317). -/
def State.portGo (s : State) (p st : Nat) : State :=
  let s1 := s.setPtpState p st
  if st = 9 then
    let q := s.ptp p
    let s2 := if (s1.cand p).present ∧ (s1.cand p).gm ≠ q.gm then s1.losePresence p else s1
    ((s2.setCand p { s2.cand p with gm := q.gm }).gainPresence p).showStp
  else (if (s1.cand p).present then s1.losePresence p else s1).showStp

/-- States of a boundary clock's ports from what they hear (R317): the clock's own dataset better than all, both are
MASTER; else the port of the best master is SLAVE, and the other PASSIVE where it hears the same grandmaster, else
MASTER. -/
def State.boundaryStates (s : State) : State :=
  let own := datasetRank (s.ownDataset s.clockClass) 0 (ofBe (s.portId 0))
  let rank (p : Nat) : Option Nat := if s.ptpOn p then (s.ptp p).rank else none
  let best := match rank 0, rank 1 with
    | none, none => none
    | some _, none => some 0
    | none, some _ => some 1
    | some a, some b => some (if a ≤ b then 0 else 1)
  let go (t : State) (p st : Nat) : State := if t.ptpOn p then t.portGo p st else t
  match best with
  | none => go (go s 0 6) 1 6
  | some p =>
    if own < (rank p).getD 0 then go (go s 0 6) 1 6
    else
      let o := 1 - p
      let same := (rank o).isSome && (s.ptp o).gm == (s.ptp p).gm
      go (go s o (if same then 7 else 6)) p 9

/-- Four announce intervals in ns: the time in which a foreign master's two Announces must come (IEEE 1588-2019; PRESUMED, log
entry 20). -/
def State.foreignWindow (s : State) : Nat :=
  let n := signed 4 (s.lv F.STP_PTP_INT_log_announce)
  if n < 0 then 4000000000 / 2 ^ n.natAbs else 4000000000 * 2 ^ n.natAbs

/-- The best foreign master of a port: of those with two Announces in the window and fewer than 255 steps removed, the one
of the lowest rank. -/
def State.bestForeign (s : State) (p : Nat) : Option Foreign :=
  ((s.ptp p).foreigns.filter fun (f : Foreign) => decide (2 ≤ f.heard.length) && decide (f.steps < 255)).foldl
    (fun (b : Option Foreign) (f : Foreign) => match b with
      | some x => if f.rank < x.rank then some f else b
      | none => some f) none

/-- A port takes its best foreign master as the one it hears, or none; its measurements begin anew with another sender. -/
def State.heedBest (s : State) (p : Nat) : State :=
  let q := s.ptp p
  s.setPtp p (match s.bestForeign p with
    | none => { q with rank := none, sync := none }
    | some f => { q with rank := some f.rank, sender := f.sender, gm := f.gm, gmClass := f.gmClass, steps := f.steps, best := f.body,
                         delays := if q.sender = f.sender then q.delays else [], sync := if q.sender = f.sender then q.sync else none })

/-- The states that a port's best master gives by its role (R317): a grandmaster's port is PASSIVE while it hears a better
one, a follower's is SLAVE to its own best, a boundary clock's ports decide together. -/
def State.roleStates (s : State) (p : Nat) : State :=
  let role := s.lv F.STP_PTP_role
  match (s.ptp p).rank with
  | some r =>
    if role = 1 then
      if r < datasetRank (s.ownDataset s.clockClass) 0 (ofBe (s.portId p)) then
        (if s.ptpState p = 7 then s else (s.portGo p 7).raise 0x070 5)
      else if s.ptpState p = 7 then s.portGo p 6 else s
    else if role = 2 then s.boundaryStates
    else s.portGo p 9
  | none => if role = 2 then s.boundaryStates else if role = 3 then s.portGo p 4 else if s.ptpState p = 7 then s.portGo p 6 else s

/-- An Announce is heard (R317, R318): it joins its sender's record, of which a port keeps eight, and the port's best master
is found again. -/
def State.announceHeard (s : State) (p : Nat) (m : List Byte) : State :=
  let body := m.drop 34
  let sender := ofBe (slice m 20 10)
  let dataset := slice body 13 14
  let q := s.ptp p
  let now := 2 * s.stp.cycles
  let fresh (l : List Nat) : List Nat := l.filter fun (t : Nat) => decide (now < t + s.foreignWindow)
  let old := ((q.foreigns.find? fun (f : Foreign) => f.sender == sender).map fun (f : Foreign) => f.heard).getD []
  let f : Foreign := ⟨sender, datasetRank dataset (beAt body 27 2) sender, ofBe (dataset.drop 6), beAt dataset 1 1 + 256 * beAt m 6 2,
    beAt body 27 2, body, (now :: fresh old).take 2⟩
  let s1 := s.setPtp p { q with foreigns := (f :: q.foreigns.filter fun (x : Foreign) => x.sender != sender && (fresh x.heard != [] || x.sender == q.sender)).take 8 }
  let t := s1.heedBest p
  if (t.ptp p).rank.isNone ∧ q.rank.isNone then t else t.roleStates p

/-- ANNOUNCE_TIMEOUT (R317): no Announce of the best master came for announceReceiptTimeout intervals; its records go, and the
port's state follows from the masters still heard. -/
def execAnnounceTimeout (port : Nat) (s : State) : Host.Outcome State Fault Refusal :=
  .next (if 2 ≤ port ∨ s.ptpState port < 4 ∨ s.lv F.STP_PTP_role = 0 then s
    else
      let q := s.ptp port
      ((s.setPtp port { q with foreigns := q.foreigns.filter fun (f : Foreign) => f.sender != q.sender }).heedBest port).roleStates port)

/-- The mean path delay (R321): the latest 8 exchanges without those more than 500 ns above the smallest. -/
def PtpPort.meanDelay (q : PtpPort) : Option Int :=
  match q.delays.min? with
  | none => none
  | some lo => some (meanOf (q.delays.filter fun (d : Int) => decide (d ≤ lo + 500)))

/-- A Sync has been measured (R321): its offset, once a path delay is known, becomes the candidate's error. -/
def State.offsetMeasured (s : State) (p : Nat) (diff : Int) : State :=
  let s1 := s.setPtp p { s.ptp p with diff := diff, sync := none }
  match (s.ptp p).meanDelay with
  | none => s1
  | some d => (s1.setCand p { s1.cand p with err := diff - d + signed 32 (s.lv F.STP_OFS_ofs 0 p) }).showStp

/-- A delay exchange is complete. -/
def State.delayMeasured (s : State) (p : Nat) (d : Int) : State :=
  s.setPtp p { s.ptp p with delays := (d :: (s.ptp p).delays).take 8, req := none, resp := none }

/-- A timestamp of a message in ns. -/
def ptpTime (m : List Byte) (o : Nat) : Int := (beAt m o 6 * 1000000000 + beAt m (o + 6) 4 : Nat)

/-- correctionField in ns. -/
def ptpCorr (m : List Byte) : Int := signed 64 (beAt m 8 8) / 65536

/-- A Pdelay_Resp to our own request (IEEE 1588). -/
def State.pdelayHeard (s : State) (p : Nat) (m : List Byte) (stamp : Nat) : State :=
  let q := s.ptp p
  let seq := beAt m 30 2
  match q.req with
  | some (n, t1) =>
    if n ≠ seq ∨ slice m 44 10 ≠ s.portId p then s
    else if bitAt (beAt m 6 1) 1 then s.setPtp p { q with resp := some (seq, (stamp : Int) - t1 - ptpCorr m, ptpTime m 34) }
    else s.delayMeasured p (((stamp : Int) - t1 - ptpCorr m) / 2)
  | none => s

/-- PTP_MESSAGE_RECEIVE (R234, R317, R321): an event message is stamped; the Carters handle the message. -/
def State.ptpReceive (s : State) (p : Nat) (m : List Byte) : State :=
  let type := beAt m 0 1 % 16
  let seq := beAt m 30 2
  let st := s.stamp p false
  let s1 := if type < 4 then s.pushStamp p type (beAt m 4 1) seq st false else s
  let q := s.ptp p
  if !s.ptpOn p ∨ m.length < 44 ∨ beAt m 1 1 % 16 ≠ 2 ∨ beAt m 4 1 ≠ s.lv F.STP_PTP_domain ∨ slice m 20 8 = s.clockId then s1
  else
    let fromMaster := s.ptpState p == 9 && ofBe (slice m 20 10) == q.sender
    if type = 11 then s1.announceHeard p m
    else if type = 0 ∧ fromMaster then
      if bitAt (beAt m 6 1) 1 then s1.setPtp p { q with sync := some (seq, st, ptpCorr m) }
      else s1.offsetMeasured p ((st : Int) - ptpTime m 34 - ptpCorr m)
    else if type = 8 ∧ fromMaster then
      match q.sync with
      | some (n, t2, c) => if n = seq then s1.offsetMeasured p ((t2 : Int) - ptpTime m 34 - c - ptpCorr m) else s1
      | none => s1
    else if type = 9 ∧ fromMaster ∧ slice m 44 10 = s.portId p then
      match q.req with
      | some (n, t3) => if n = seq then s1.delayMeasured p ((q.diff + (ptpTime m 34 - (t3 : Int) - ptpCorr m)) / 2) else s1
      | none => s1
    else if type = 1 ∧ s.ptpState p = 6 ∧ !s.p2p p ∧ !s.ptpGated p then
      s1.ptpSend p false false none (s.ptpMessage p 9 0 (signed 64 (beAt m 8 8)) seq 3 (logByte (s.lv F.STP_PTP_INT_log_delay)) (ptpStamp st ++ slice m 20 10))
    else if type = 2 ∧ s.p2p p then s1.setPtp p { q with preq := some (seq, ofBe (slice m 20 10), st, signed 64 (beAt m 8 8)) }
    else if type = 3 ∧ s.p2p p then s1.pdelayHeard p m st
    else if type = 10 ∧ s.p2p p then
      match q.resp with
      | some (n, x, t2) => if n = seq then s1.delayMeasured p ((x - (ptpTime m 34 - t2) - ptpCorr m) / 2) else s1
      | none => s1
    else s1

end Sys2Proof.Machine
end

