-- ==== Sys2Proof/Machine/Network.lean ====
section
/-! DEFINITION. NETA and NETB (R230–R232, R262): frames received and routed, the Carters' answers, link and speed. -/
namespace Sys2Proof.Machine

/-! ### The Carters' answers (R231, R241) -/

/-- An ARP message: its sender is learnt; a request for the port's address is answered. -/
def State.arpHeard (s : State) (p : Nat) (b : List Byte) : State :=
  let sha := slice b 8 6
  let spa := slice b 14 4
  let own := s.ipOf p false
  let s1 := s.learn p false spa sha
  if beAt b 6 2 = 1 ∧ slice b 24 4 = own ∧ !allZero own then
    s1.sendFrameOn p (s.ethFrame p sha 0x0806 (arpBody 2 (s.macOf p) own sha spa))
  else s1

/-- An ICMPv6 message of test 2: neighbour discovery, echo, MLD. -/
def State.icmp6Heard (s : State) (p : Nat) (mac : List Byte) (i : IpIn) : State :=
  let t := beAt i.data 0 1
  let own := s.ipOf p true
  let target := slice i.data 8 16
  if t = 135 then
    let s1 := s.learn p true i.src mac
    if target = own ∧ !allZero own then
      s1.sendIcmp6 p 255 mac i.src 136 (beBytes 4 0x60000000 ++ own ++ [2, 1] ++ s.macOf p)
    else s1
  else if t = 136 then s.learn p true target (if beAt i.data 24 1 = 2 then slice i.data 26 6 else mac)
  else if t = 128 then
    if i.dst = own ∧ !allZero own then (s.useFree).sendIcmp6 p ((Config.freeValue s.free).toNat % 256) mac i.src 129 (i.data.drop 4) else s
  else if t = 130 then
    let g := beAt i.data 8 16
    (s.net.members.filter fun (m : Member) => m.port == p && m.ipv6 && (g == 0 || m.group == g)).foldl
      (fun (u : State) (m : Member) => u.sendReport p true m.state) s
  else s

/-- The ICMPv6 types of test 2: echo, neighbour discovery, MLD. -/
def icmp6Taken (t : Nat) : Bool := [128, 129, 130, 131, 132, 133, 134, 135, 136, 137, 143].contains t

/-- An ICMP echo request to the port's address is answered. -/
def State.icmpHeard (s : State) (p : Nat) (mac : List Byte) (i : IpIn) : State :=
  let own := s.ipOf p false
  if beAt i.data 0 1 = 8 ∧ i.dst = own ∧ !allZero own then
    (s.useFree).sendFrameOn p (s.ethFrame p mac 0x0800 (ipPacket false 0 ((Config.freeValue s.free).toNat % 256) 1 own i.src (plainSummed 0 (i.data.drop 4))))
  else s

/-- An IGMP query is answered with the state of each membership it asks for. -/
def State.igmpHeard (s : State) (p : Nat) (i : IpIn) : State :=
  let g := beAt i.data 4 4
  if beAt i.data 0 1 = 0x11 then
    (s.net.members.filter fun (m : Member) => m.port == p && !m.ipv6 && (g == 0 || m.group == g)).foldl
      (fun (u : State) (m : Member) => u.sendReport p false m.state) s
  else s

/-! ### Routing (R231) -/

/-- A frame that no test takes is discarded and counted. -/
def State.unmatched (s : State) (p : Nat) : State := s.bump F.NT_RX_ERR_unmatched 1 p

/-- Tests 3 to 6 on a UDP datagram to an address of the port or a group. -/
def State.routeUdp (s : State) (p : Nat) (i : IpIn) : State :=
  let u := udpPayload i.data
  let dport := beAt i.data 2 2
  let elder := leBytes 4 (s.rd F.NBR_ELDER_IP_addr)
  if !i.v6 ∧ i.dst = s.ipOf p false ∧ dport = s.rd F.NBR_ELDER_CFG_elder_port ∧ s.rd F.NBR_ELDER_CFG_channel = 2 ∧ (allZero elder ∨ elder = i.src) then
    if u.length = 8 then s.grantWrite 2 (beAt u 0 4) (some (beAt u 4 4)) else s
  else
    let r := parseRtp u
    let hits : List (Nat × Nat) := match r with
      | none => []
      | some x => (s.streams false).filterMap fun (k : Nat) => (s.pathOf k p i x).map fun (q : Nat) => (k, q)
    match r with
    | some x =>
      if hits ≠ [] then hits.foldl (fun (t : State) (h : Nat × Nat) => t.rtpReceive h.1 h.2 x) s
      else match s.filterOf p dport with
        | some k => s.criCapture k p false (s.stamp p false) (beAt i.data 0 2) i.src u
        | none => s.unmatched p
    | none => match s.filterOf p dport with
      | some k => s.criCapture k p false (s.stamp p false) (beAt i.data 0 2) i.src u
      | none => s.unmatched p

/-- The tests of R231 in order on an accepted frame. -/
def State.routeFrame (s : State) (p etype : Nat) (mac body : List Byte) : State :=
  if etype = 0x88F7 then (if s.on F.PTS_CFG_l2 then s.ptpReceive p body else s.unmatched p)
  else if etype = 0x0806 then s.arpHeard p body
  else match parseIp etype body with
    | none => s.unmatched p
    | some i =>
      let dport := beAt i.data 2 2
      if i.proto = 17 ∧ (dport = 319 ∨ dport = 320) ∧ (if i.v6 then s.on F.PTS_CFG_udp6 else s.on F.PTS_CFG_udp4) then s.ptpReceive p (udpPayload i.data)
      else if i.v6 ∧ i.proto = 58 ∧ icmp6Taken (beAt i.data 0 1) then s.icmp6Heard p mac i
      else if !i.v6 ∧ i.proto = 1 ∧ (beAt i.data 0 1 = 8 ∨ beAt i.data 0 1 = 0) then s.icmpHeard p mac i
      else if !i.v6 ∧ i.proto = 2 then s.igmpHeard p i
      else if i.proto = 17 ∧ s.forUs p i then s.routeUdp p i
      else s.unmatched p

/-- FRAME_RECEIVE (R231, R232, R262): `data` runs from the destination MAC address to before the FCS; FEC blocks corrected
and uncorrectable since the frame before are counted. -/
def execFrameReceive (port : Nat) (fcsOk : Bool) (corrected uncorrected : Nat) (data : List Byte) (s : State) :
    Host.Outcome State Fault Refusal :=
  .next (if 2 ≤ port ∨ !s.on F.NT_STATUS_link port then s
    else
      let s0 := (s.bump F.NT_FEC_corrected corrected port).bump F.NT_FEC_uncorrected uncorrected port
      let s1 := s0.when (uncorrected != 0) fun (t : State) => t.raise (0x060 + port) 2
      let limit := if s.lon F.NT_CFG_jumbo port then 9022 else 1522
      if !fcsOk ∨ limit < data.length + 4 ∨ data.length + 4 < 64 then s1.bump F.NT_RX_ERR_crc 1 port
      else
        let s2 := s1.bump F.NT_RX_FRAMES_frames 1 port
        let dst := data.take 6
        if (data.headD 0).toNat % 2 = 0 ∧ dst ≠ s.macOf port then s2.unmatched port
        else match s.untag port data with
          | none => s2.unmatched port
          | some (etype, body) => s2.routeFrame port etype (slice data 6 6) body)

/-! ### Link and speed (R230) -/

/-- RS-FEC cannot run at 10 Gbit/s; there the port runs without FEC (R230). -/
def State.fecRuns (s : State) (p : Nat) : Bool :=
  let f := s.lv F.NT_CFG_fec p
  f == 1 || (f == 2 && !s.on F.NT_STATUS_speed p)

/-- The link state of a port changes. -/
def State.linkChange (s : State) (p : Nat) (lock link fecLock localFault remoteFault : Bool) : State :=
  let up := lock && link
  let s1 := (((((s.wr F.NT_STATUS_link (b2n up) p).wr F.NT_STATUS_block_lock (b2n lock) p).wr F.NT_STATUS_fec_lock (b2n (lock && fecLock && s.fecRuns p)) p).wr
    F.NT_STATUS_local_fault (b2n localFault) p).wr F.NT_STATUS_remote_fault (b2n remoteFault) p)
  let s2 := s1.when (s.on F.NT_STATUS_link p != up || s.on F.NT_STATUS_block_lock p != lock) fun (t : State) => t.raise (0x060 + p) 0
  s2.when ((localFault && !s.on F.NT_STATUS_local_fault p) || (remoteFault && !s.on F.NT_STATUS_remote_fault p)) fun (t : State) => t.raise (0x060 + p) 1

/-- PORT_LINK_CHANGE (R230). -/
def execPortLinkChange (port : Nat) (lock link fecLock localFault remoteFault : Bool) (s : State) : Host.Outcome State Fault Refusal :=
  .next (if port < 2 then s.linkChange port lock link fecLock localFault remoteFault else s)

/-- SPEED_SEEK (R230): in auto speed a port without lock changes between 25 and 10 Gbit/s. -/
def execSpeedSeek (port : Nat) (s : State) : Host.Outcome State Fault Refusal :=
  .next (if port < 2 ∧ 2 ≤ s.lv F.NT_CFG_speed port ∧ !s.on F.NT_STATUS_block_lock port then
      s.wr F.NT_STATUS_speed (1 - s.rd F.NT_STATUS_speed port) port
    else s)

/-! ### APPLY on the NT pages (R262) -/

/-- Some packet of a stream in force on port `p` exceeds 1500 bytes. -/
def State.bigPackets (s : State) (p : Nat) : Bool :=
  [false, true].any fun (tx : Bool) => (s.streams tx).any fun (i : Nat) =>
    let d := s.stream tx i
    d.paths.any fun (q : Nat × PathD) => q.2.port == p && decide (1500 < d.packetBytes s q.2)

/-- The transmit load in force on port `p`, times 48. -/
def State.portLoad (s : State) (p : Nat) : Nat :=
  (s.streams true).foldl (fun (n : Nat) (i : Nat) =>
    let d := s.stream true i
    d.paths.foldl (fun (m : Nat) (q : Nat × PathD) => if q.2.port = p then m + d.load48 s q.2 else m) n) 0

/-- The outcome of a pending set of an NT page (R262). -/
def State.ntCheck (s : State) (p : PendSet) : Nat :=
  let n := p.page - 0x060
  let speed := p.fld s F.NT_CFG_speed
  if p.fld s F.NT_CFG_fec = 2 ∧ speed = 1 then 0x10
  else if p.fld s F.NT_CFG_jumbo = 0 ∧ s.bigPackets n then 0x11
  else if speed ≠ 0 ∧ 9000000000 * 48 < s.portLoad n then 0x12 else 0x02

/-- An APPLY of an NT page that is due (R241, R262): a changed address is announced and memberships are renewed; a speed
that no longer fits takes the link down. -/
def State.applyNt (s : State) (p : PendSet) : State :=
  let n := p.page - 0x060
  let code := s.ntCheck p
  if code ≠ 0x02 then s.endPend p.page code
  else
    let t := s.enforce p
    let again (v6 : Bool) (u : State) : State :=
      if t.ipOf n v6 ≠ s.ipOf n v6 ∨ t.macOf n ≠ s.macOf n then (u.announceIp n v6).renewMembers else u
    let u := again true (again false t)
    let speed := u.lv F.NT_CFG_speed n
    if speed < 2 ∧ u.rd F.NT_STATUS_speed n ≠ speed then (u.linkChange n false false false false false).wr F.NT_STATUS_speed speed n else u

/-- An APPLY of a network page that is due (R238, R262). -/
def State.applyNetwork (s : State) (p : PendSet) : State :=
  if p.page = 0x062 then s.applyStreams false p else if p.page = 0x063 then s.applyStreams true p else s.applyNt p

end Sys2Proof.Machine
end

