-- ==== Sys2Proof/Machine/Registers.lean ====
section
/-! DEFINITION. A register page as its bus sees it (R460–R466): which pages answer, access masks, reads with their
computed views, plain stores with the limits their fields hold, and counted errors. -/
namespace Sys2Proof.Machine

/-! ### Power domains of pages (R540) -/

/-- The switched domain of a page: none for the always-on domain. -/
def pageDomain (p : Nat) : Option Nat :=
  if 0x040 ≤ p ∧ p < 0x050 then some ((p - 0x040) / 4)
  else if p = 0x050 then some 4
  else if p = 0x020 ∨ p = 0x022 ∨ p = 0x008 ∨ p = 0x009 ∨ p = 0x010 ∨ p = 0x011 ∨ (0x018 ≤ p ∧ p < 0x01C) ∨
    (0x062 ≤ p ∧ p < 0x066) ∨ p = 0x0A0 then some 5
  else if p = 0x030 ∨ p = 0x031 ∨ p = 0x032 ∨ (0x038 ≤ p ∧ p < 0x03C) ∨ p = 0x02B then some 6
  else if 0x028 ≤ p ∧ p < 0x02B then some 7
  else if p = 0x060 then some 8
  else if p = 0x061 then some 9
  else if p = 0x0A1 then some 10
  else if p = 0x0C0 ∨ p = 0x0C1 then some 11
  else if 0x080 ≤ p ∧ p < 0x095 then some 12
  else if p = 0x095 then some 13
  else if p = 0x078 then some 14
  else if p = 0x070 ∨ p = 0x071 ∨ p = 0x073 ∨ p = 0x074 ∨ p = 0x0C2 ∨ (0x0C8 ≤ p ∧ p < 0x0CC) ∨ p = 0x0D0 ∨ p = 0x0B0 then some 15
  else none

/-- A switched domain is on. -/
def State.domainOn (s : State) (d : Nat) : Bool := s.rd (F.PWR_STATE_on.part d 1) == 1

/-- The domain of a page is on. -/
def State.pageOn (s : State) (p : Nat) : Bool := match pageDomain p with
  | none => true
  | some d => s.domainOn d

/-! ### Errors and masks -/

/-- A counted error of a page (R463, R464); the DEF page captures by R427. -/
def State.pageError (s : State) (p : Nat) (ini : Initiator) (write : Bool) (kind addr : Nat) : State :=
  if p = 0x009 then
    let s1 := s.bump F.ERR_COUNT_value 1 0x009
    if bitAt (s.reg 0x9010).toNat 0 then s1
    else (((((s1.wr F.ERR_INFO_master ini.port 0x009).wr F.ERR_INFO_write (b2n write) 0x009).wr F.ERR_INFO_kind kind 0x009).wr
      F.ERR_INFO_valid 1 0x009).wr F.ERR_ADDR_LO_value (addr % 2 ^ 32) 0x009).wr F.ERR_ADDR_HI_value (addr / 2 ^ 32) 0x009
      |>.raise 0x009 0
  else s.captureErr p ini.port write kind addr

/-- The event bits that a page's chapter assigns (R464); the others are RSV. -/
def irqBits (p : Nat) : Nat :=
  if p = 0x000 then 0xF else if p = 0x001 then 1 else if p = 0x002 ∨ p = 0x004 then 7
  else if p = 0x008 then 3 else if p = 0x009 then 1 else if p = 0x010 then 0x1F else if 0x018 ≤ p ∧ p < 0x01C then 0xF
  else if p = 0x020 then 0x1F else if p = 0x021 then 3 else if p = 0x022 then 7
  else if p = 0x028 then 0xF else if p = 0x02A then 3 else if p = 0x02B then 7
  else if p = 0x030 then 0x1F else if p = 0x031 then 0x7F else if p = 0x038 then 0xF
  else if p = 0x040 then 0xFF else if 0x041 ≤ p ∧ p < 0x050 then 0xBF
  else if p = 0x050 then 0x3F else if p = 0x060 ∨ p = 0x061 then 7 else if p = 0x062 then 0xF else if p = 0x063 then 7
  else if p = 0x064 then 0x3F else if p = 0x065 then 1
  else if p = 0x070 then 0x3F else if p = 0x071 ∨ p = 0x072 ∨ p = 0x073 then 3 else if p = 0x074 then 7 else if p = 0x078 then 3
  else if 0x080 ≤ p ∧ p < 0x090 then 0x1F else if 0x090 ≤ p ∧ p < 0x094 then 0x3F else if p = 0x094 then 0x31F1F
  else if p = 0x095 then 3 else if p = 0x0A0 then 0xFF else if p = 0x0A1 then 7
  else if p = 0x0B0 then 0xF else if p = 0x0B1 then 0x1F else if p = 0x0C0 then 7 else if p = 0x0CB then 0xFFFFFFFF
  else if p = 0x0D0 then 0x1F else 0

/-- The registers that act only at their plain offset (R462). -/
def plainOnly (p x : Nat) : Bool :=
  (0x018 ≤ p && p < 0x01C && 0x100 ≤ x && x < 0x300) || (p == 0x065 && x == 0x044) || (p == 0x073 && x == 0x044) ||
  (p == 0x030 && x == 0x044) || (p == 0x072 && x == 0x040) || (p == 0x02B && (x == 0x054 || x == 0x064)) ||
  (p == 0x074 && x == 0x04C)

/-- The fabric address of offset `x` of page `p` (R454). -/
def pageAddr (p x : Nat) : Nat := 0x10000000 + p * 0x1000 + x

/-- The access masks of offset `x` of page `p`, where event bits that the chapter does not assign are RSV;
the queue data ports (R453) among them. -/
def pageRow (p x : Nat) : Option RegRow :=
  if 0x018 ≤ p ∧ p < 0x01C ∧ 0x100 ≤ x ∧ x < 0x300 then some ⟨x, 1, 0, 0, 0xFFFFFFFF, 0, 0, 0, 0, 0⟩
  else match regRow p x with
  | none => none
  | some (r, _) =>
    if 0x010 ≤ x ∧ x ≤ 0x01C then
      let m := irqBits p
      some { r with ro := r.ro &&& m, rw := r.rw &&& m, w1c := r.w1c &&& m, wo := r.wo &&& m }
    else some r

/-- The access masks of offset `x` of page `p` at the rate in force: registers of test generators that the rate does not have
are RSV (R72). -/
def State.rowAt (s : State) (p x : Nat) : Option RegRow :=
  if p = 0x03A ∧ 0x040 ≤ x ∧ 64 / s.mult ≤ (x - 0x040) / 12 then none else pageRow p x

/-- Bits of a row that are not RSV. -/
def RegRow.known (r : RegRow) : Nat := r.ro ||| r.rw ||| r.rws ||| r.w1c ||| r.wo ||| r.rc

/-! ### Reads -/

/-- The packed statistics of the selected stream (R263). -/
def statWord (a b : Nat) : Nat := min a 0xFFFF + min b 0xFFFF * 2 ^ 16

/-- The smallest margin as SRX_STAT_ARRIVAL shows it. -/
def marginWord (m : Option Int) : Nat := (match m with | none => (0x7FFFFFFF : Int) | some x => satTo 32 x) |>.emod (2 ^ 32) |>.toNat

/-- Source of the Roll that ROL_SEL names, as its registers show it (R536). -/
def State.rollView (s : State) (x : Nat) : Nat :=
  let r := s.rollSrc (s.rd F.ROL_SEL_source)
  if x = 0x05C then r.count else if x = 0x060 then r.overflow else if x = 0x064 then r.ext else r.extEsi

/-- The DMA channel state beside its registers. -/
def DmaChan.fresh : DmaChan := ⟨0, 0, 0, 0, 0, 0, 0, false, false, false, false, 0, false, false, none⟩
def State.dmaChan (s : State) (c : Nat) : DmaChan := (assoc? s.dma c).getD DmaChan.fresh

/-- Bits of the channels in a state other than IDLE and HALTED, from channel `lo` on. -/
def State.dmaBusy (s : State) (lo : Nat) : Nat :=
  (List.range 32).foldl (fun (a : Nat) (i : Nat) =>
    let st := s.rd F.DMC_STATE_state 0 (lo + i)
    a + (if st ≠ 0 ∧ st ≠ 5 then 2 ^ i else 0)) 0

/-- Queues of page `p` that hold an entry, from queue `lo` of the page on. -/
def State.queNempty (s : State) (p lo : Nat) : Nat :=
  (List.range 32).foldl (fun (a : Nat) (i : Nat) => a + (if s.queue ((p - 0x018) * 64 + lo + i) ≠ [] then 2 ^ i else 0)) 0

/-- Transactions outstanding on a master port (FAB_OUTm): those without an answer, and writes that wait at the Granary. -/
def State.portOut (s : State) (m : Nat) : Nat :=
  (s.fab.outstanding.filter fun (r : FabReq) => r.ini.port == m).length +
  (s.memx.holdWait.filter fun (w : HoldWait) => w.ini.port == m && decide (w.chan < 100)).length

/-- XRD_DEST_STATE and XRD_DEST_FADE of the selected destination (R72). -/
def State.destView (s : State) : Nat :=
  let x := s.dest (s.rd F.XRD_DEST_SEL_dest)
  x.src % 2 ^ 14 + min (liveFades (s.now / s.blockLen * s.blockLen) x.fades).length 2 * 2 ^ 14 + (if x.fb then 1 else x.pad % 64) * 2 ^ 16 + b2n x.fb * 2 ^ 22 + entryGroup x.entry * 2 ^ 24
def State.destFades (s : State) : Nat :=
  let b := s.now / s.blockLen * s.blockLen
  let left : List Nat := (liveFades b (s.dest (s.rd F.XRD_DEST_SEL_dest)).fades).map fun (f : RFade) => min 0xFFFF (f.start + f.len - b)
  left.getD 0 0 + left.getD 1 0 * 2 ^ 16

/-- Bits of registers whose values the model does not compute, and which read as free values: STATUS.running and STATUS.fault of
the common header, whose conditions no chapter names, and what only durations inside the chip show: the smallest idle share of a
Granary bank and the longest Cellar latencies (R403, R417, R464; log entries 8 and 62). -/
def freeBits (p x : Nat) : Nat :=
  if x = 0x00C then 3 else if p = 0x020 ∧ x = 0x068 then 0x3FFF else if p = 0x029 ∧ 0x060 ≤ x ∧ x < 0x080 then 0xFFFFFFFF else 0

/-- A read of this register takes a free value (CLK_MEAS among them). -/
def readsFree (p x : Nat) : Bool := freeBits p x != 0 || (p == 0x002 && x == 0x048)

/-- The value of a 4-byte register for an initiator: stored words, and the views that its chapter computes from the
machine. RC fields are not cleared here. -/
def State.view (s : State) (ini : Initiator) (p x : Nat) : Nat :=
  let w := (s.reg (p * 0x1000 + x)).toNat
  if p = 0x065 ∧ 0x044 ≤ x ∧ x ≤ 0x054 ∧ !isCarter ini then 0
  else if x = 0x018 then s.irqPending p
  else if 0x040 ≤ p ∧ p < 0x050 ∧ x = 0x008 then setBitsOf w 2 1 (s.rd F.MIL_DEBUG_halt (p - 0x040))
  else if p = 0x030 ∧ x = 0x044 then s.now % 2 ^ 32
  else if p = 0x030 ∧ x = 0x048 then ((assoc? s.eng.esiLatch ini.port).getD 0).toNat
  else if p = 0x02B ∧ x = 0x058 then ((assoc? s.host.latches (0 * 8 + ini.port)).getD 0).toNat % 2 ^ 32
  else if p = 0x02B ∧ x = 0x068 then ((assoc? s.host.latches (1 * 8 + ini.port)).getD 0).toNat % 2 ^ 32
  else if p = 0x072 ∧ x = 0x044 then ((assoc? s.host.latches (2 * 8 + ini.port)).getD 0).toNat % 2 ^ 32
  else if p = 0x072 ∧ x = 0x048 then ((assoc? s.host.latches (2 * 8 + ini.port)).getD 0).toNat / 2 ^ 32 % 2 ^ 16
  else if p = 0x062 ∧ 0x144 ≤ x ∧ x ≤ 0x154 then
    let t := s.rxStat (s.rd F.SRX_STAT_SEL_stream)
    if x = 0x144 then statWord t.pktA t.pktB else if x = 0x148 then statWord t.late t.early
    else if x = 0x14C then statWord t.dup t.format else if x = 0x150 then statWord t.concealed t.stale else marginWord t.margin
  else if p = 0x063 ∧ 0x144 ≤ x ∧ x ≤ 0x148 then
    let t := s.txStat (s.rd F.STX_STAT_SEL_stream)
    if x = 0x144 then statWord t.pktA t.pktB else statWord t.late t.early
  else if p = 0x008 ∧ 0x050 ≤ x ∧ x < 0x070 then setBitsOf w 0 6 (s.portOut ((x - 0x050) / 4))
  else if p = 0x010 ∧ x = 0x044 then s.dmaBusy 0
  else if p = 0x010 ∧ x = 0x048 then s.dmaBusy 32
  else if p = 0x010 ∧ x = 0x050 then (s.dmaChan (s.rd F.DMA_SEL_channel)).cur % 2 ^ 32
  else if p = 0x010 ∧ x = 0x054 then (s.dmaChan (s.rd F.DMA_SEL_channel)).cur / 2 ^ 32
  else if p = 0x010 ∧ x = 0x058 then (s.dmaChan (s.rd F.DMA_SEL_channel)).residue
  else if 0x018 ≤ p ∧ p < 0x01C ∧ x = 0x040 then s.queNempty p 0
  else if 0x018 ≤ p ∧ p < 0x01C ∧ x = 0x044 then s.queNempty p 32
  else if 0x018 ≤ p ∧ p < 0x01C ∧ 0x300 ≤ x ∧ x < 0x400 then
    let q := (p - 0x018) * 64 + (x - 0x300) / 4
    let n := (s.queue q).length
    setBitsOf (setBitsOf w 0 8 n) 8 8 (queueDepth q - n)
  else if p = 0x0C2 ∧ 0x280 ≤ x ∧ x < 0x2A0 then
    (List.range 32).foldl (fun (a : Nat) (i : Nat) => a + (if s.requesting ((x - 0x280) / 4 * 32 + i) then 2 ^ i else 0)) 0
  else if p = 0x0C2 ∧ x = 0x3C0 then (List.range 4).foldl (fun (a : Nat) (i : Nat) => a + (if s.pinAsserted i then 2 ^ i else 0)) 0
  else if p = 0x0B0 ∧ 0x05C ≤ x ∧ x ≤ 0x068 then s.rollView x
  else if 0x040 ≤ p ∧ p < 0x050 ∧ x = 0x108 ∧ s.rd F.MIL_STATE_state (p - 0x040) ≠ 2 ∧ s.rd F.MIL_STATE_state (p - 0x040) ≠ 4 then 0
  else if 0x040 ≤ p ∧ p < 0x050 ∧ x = 0x10C then s.millDbgData (p - 0x040)
  else if p = 0x063 ∧ x = 0x044 then s.gateWord
  else if p = 0x078 ∧ 0x080 ≤ x ∧ x < 0x100 ∧ x % 16 = 12 then s.dacView ((x - 0x080) / 16) w
  else if p = 0x03B ∧ x = 0x044 then s.destView
  else if p = 0x03B ∧ x = 0x048 then s.destFades
  else if p = 0x0D0 ∧ x = 0x04C then (match s.boot.confirmEnd with | some e => (e - s.tbNs + 999999999) / 1000000000 | none => 0)
  else if p = 0x002 ∧ x = 0x048 then (if s.rd F.CLK_MEAS_SEL_clock = 0xF then 0 else (Config.freeValue s.free).toNat % 2 ^ 32)
  else (w &&& ((2 ^ 32 - 1) ^^^ freeBits p x)) ||| ((Config.freeValue s.free).toNat &&& freeBits p x)

/-- What a plain read of offset `x` returns: staged values of RWS fields, current values of others, zeros for WO and
reserved bits (R461, R463). -/
def State.plainValue (s : State) (ini : Initiator) (p x : Nat) : Nat :=
  match s.rowAt p x with
  | none => 0
  | some r => s.view ini p x &&& (r.known &&& ((2 ^ 32 - 1) ^^^ r.wo))

/-- What the live view of offset `x` returns: in-force values of RWS fields, current values of others; 0 for the
registers of R462. -/
def State.liveValue (s : State) (ini : Initiator) (p x : Nat) : Nat :=
  match s.rowAt p x with
  | none => 0
  | some r => if plainOnly p x then 0 else
    let cur := s.view ini p x &&& (r.known &&& ((2 ^ 32 - 1) ^^^ r.wo))
    (cur &&& ((2 ^ 32 - 1) ^^^ r.rws)) ||| ((s.liveReg (p * 0x1000 + x)).toNat &&& r.rws)

/-- The RC fields of a register return to their reset values after a plain read (R6); those of the selected stream and
its margin with them. -/
def State.clearRc (s : State) (p x : Nat) : State :=
  match s.rowAt p x with
  | none => s
  | some r =>
    if r.rc = 0 then s
    else if p = 0x062 ∧ 0x144 ≤ x ∧ x ≤ 0x154 then
      let i := s.rd F.SRX_STAT_SEL_stream
      let t := s.rxStat i
      let u : StreamStat :=
        if x = 0x144 then { t with pktA := 0, pktB := 0 } else if x = 0x148 then { t with late := 0, early := 0 }
        else if x = 0x14C then { t with dup := 0, format := 0 } else if x = 0x150 then { t with concealed := 0, stale := 0 }
        else { t with margin := none }
      s.modNet fun (n : Net) => { n with rxStats := assocPut n.rxStats i u }
    else if p = 0x063 ∧ 0x144 ≤ x ∧ x ≤ 0x148 then
      let i := s.rd F.STX_STAT_SEL_stream
      let t := s.txStat i
      let u : StreamStat := if x = 0x144 then { t with pktA := 0, pktB := 0 } else { t with late := 0, early := 0 }
      s.modNet fun (n : Net) => { n with txStats := assocPut n.txStats i u }
    else
      let k := p * 0x1000 + x
      let rc := BitVec.ofNat 32 r.rc
      s.setReg k ((s.reg k &&& ~~~rc) ||| (regReset k &&& rc))

/-! ### Stores -/

/-- Fields that hold a limit: what a write of a value outside it stores (R72, R115, R137, R168, R333, R427, R510, R520, R525). -/
def clampReg (p x : Nat) (v : Nat) : Nat :=
  if p = 0x038 ∧ x = 0x040 then setBitsOf v 0 8 (min (bitsOf v 0 8) 200)
  else if p = 0x032 ∧ 0x040 ≤ x ∧ x < 0x060 then setBitsOf v 0 16 (max 1 (min (bitsOf v 0 16) 2000))
  else if p = 0x032 ∧ x = 0x060 then setBitsOf v 0 8 (max 1 (min (bitsOf v 0 8) 50))
  else if p = 0x050 ∧ x = 0x04C then setBitsOf v 0 10 (max 1 (min (bitsOf v 0 10) 1000))
  else if p = 0x0B0 ∧ x = 0x040 then setBitsOf v 0 16 (max 10 (min (bitsOf v 0 16) 60000))
  else if p = 0x0B1 ∧ x = 0x040 then setBitsOf v 3 10 (max 10 (min (bitsOf v 3 10) 1000))
  else if p = 0x0D0 ∧ x = 0x048 then
    setBitsOf (setBitsOf v 0 12 (max 60 (min (bitsOf v 0 12) 3600))) 12 12 (max 10 (min (bitsOf v 12 12) 600))
  else if p = 0x009 ∧ x = 0x040 then setBitsOf v 0 16 (max 16 (bitsOf v 0 16))
  else if p = 0x078 ∧ 0x080 ≤ x ∧ x < 0x100 ∧ x % 16 = 0 then setBitsOf v 16 16 (max 1 (bitsOf v 16 16))
  else v

/-- Store the RW and RWS bits `m` of a write of `v` to offset `x` of page `p`, in its current (staged) word. -/
def State.storeBits (s : State) (p x m v : Nat) : State :=
  let k := p * 0x1000 + x
  let new := ((s.reg k).toNat &&& ((2 ^ 32 - 1) ^^^ m)) ||| (v &&& m)
  s.setReg k (BitVec.ofNat 32 (clampReg p x new))

/-- Clear the W1C bits that a write of `v` clears (R6); IRQ_RAW settles its vector. -/
def State.clearW1c (s : State) (p x v : Nat) : State :=
  match s.rowAt p x with
  | none => s
  | some r =>
    if x = 0x010 then s.clearRaw p (v &&& r.w1c)
    else
      let k := p * 0x1000 + x
      s.setReg k (s.reg k &&& ~~~(BitVec.ofNat 32 (v &&& r.w1c)))

/-- IRQ_TEST sets raw bits as the events would (R464). -/
def State.testIrq (s : State) (p v : Nat) : State := s.raiseMask p (v &&& irqBits p)

end Sys2Proof.Machine
end

