-- ==== Sys2Proof/Machine/Modes.lean ====
section
/-! DEFINITION. APPLY on every page (R467–R470), the checks of pages that no earlier file holds, and the operating modes:
service changes, restarts and the mode commands (chapter 12). -/
namespace Sys2Proof.Machine

/-! ### Outcomes on the SYS page (R381, R383) -/

/-- MODE_SET commands that wait are answered (R381). -/
def State.answerModes (s : State) (status code : Nat) : State :=
  s.modes.waiting.foldl (fun (t : State) (h : Nat) => t.reply h status [code]) (s.modModes fun (m : Modes) => { m with waiting := [] })

/-- A refused SYS APPLY or mode command is counted and reported (R383). -/
def State.countModeRefusal (s : State) : State := (s.bump F.SYS_MODE_COUNTS_refused).raise 0x000 3

/-- The pending set of the SYS page ends without coming into force. -/
def State.sysEnds (s : State) (code : Nat) (refusal : Bool) : State :=
  ((s.endPend 0x000 code).when refusal State.countModeRefusal).answerModes 4 code

/-- SYS_MODE of a pending set. -/
def PendSet.mode (p : PendSet) (s : State) : Nat := (p.word s 0x060).toNat

/-- Family and multiple of a SYS_MODE word, as a rate key. -/
def modeKey (m : Nat) : Nat := bitsOf m 0 3

/-- A rate change: family or multiple differs from those in force (R373). -/
def State.changesRate (s : State) (m : Nat) : Bool := modeKey m != s.rateKey

/-- A half-rate port or stream is in force or staged (R373). -/
def State.anyHalf (s : State) : Bool :=
  ((List.range 16).any fun (n : Nat) => s.lon F.SAP_CFG_half n || s.on F.SAP_CFG_half n) ||
  ((List.range 4).any fun (n : Nat) => s.lon F.MAD_CFG_half n || s.on F.MAD_CFG_half n) ||
  ((List.range 2).any fun (i : Nat) => s.lon F.AES_CFG_half 0 i || s.on F.AES_CFG_half 0 i) ||
  [false, true].any fun (tx : Bool) =>
    ((s.streams tx).any fun (i : Nat) => (s.stream tx i).half) ||
    ((List.range 512).any fun (i : Nat) => let d := parseStream tx (s.streamBytes tx false i); d.enable && d.half)

/-- A restart runs. -/
def State.restarting (s : State) : Bool := s.modes.restart.isSome

/-- The gap of a restart (R377 steps 4 and 5). -/
def State.inGap (s : State) : Bool := !s.running && s.rd F.SYS_MODE_STATE_phase == 3

/-- A SYS_MODE word of the leader as a follower takes it: a Standby takes it whole, a chip in Proving keeps its own service
(R341, R370). -/
def State.followMode (s : State) (m : Nat) : Nat :=
  if s.role = 2 then m else setBitsOf m 4 2 (s.rd F.SYS_MODE_STATE_service)

/-- The refusal of a SYS_MODE word at its boundary: the first that holds, with REF_BUSY right after the mode check; 0 where none (R370,
R373, R380, R383, R384). -/
def State.sysCheck (s : State) (m : Nat) : Nat :=
  let service := bitsOf m 4 2
  let rate := s.changesRate m
  if bitsOf m 1 2 = 3 ∨ (bitAt m 3 ∧ bitsOf m 1 2 ≠ 1) then 0x10
  else if rate ∧ s.restarting then 0x14
  else if rate ∧ (s.startCfg (modeKey m)).isNone then 0x11
  else if rate ∧ s.rd F.SYS_MODE_STATE_service = 0 ∧ !bitAt m 8 ∧ s.rd F.SYS_MODE_STATE_phase ≠ 5 then 0x12
  else if s.on F.ENG_RATE_blend ∧ !bitAt m 3 ∧ s.anyHalf then 0x13
  else if s.role = 2 ∧ (rate ∨ service ≠ s.rd F.SYS_MODE_STATE_service ∨ (bitAt m 3) != s.on F.ENG_RATE_blend) then 0x15
  else 0

/-- A service comes into force at a boundary: debug ends with Maintenance, and Quiet starts the mute fade at the data time
of the Route stage that begins there (R371, R372). -/
def State.setService (s : State) (v : Nat) : State :=
  let old := s.rd F.SYS_MODE_STATE_service
  let s1 := s.wr F.SYS_MODE_STATE_service v
  let s2 := if old = 2 ∧ v ≠ 2 then s1.debugEnds else s1
  if (old == 3) == (v == 3) then s2
  else
    let g1 : Int := if v = 3 then 0 else 32768
    let run := if s.running then s.modes.quiet.turn g1 (s.now - 2 * s.blockLen) (msSamples 10 s.fs) else GainRun.rest g1
    s2.modModes fun (n : Modes) => { n with quiet := run }

/-- Blend comes into force or leaves (R373). -/
def State.setBlend (s : State) (b : Nat) : State := (s.wr F.SYS_MODE_STATE_blend b).wr F.ENG_RATE_blend b

/-- The rate of a SYS_MODE word comes into force: ENG_RATE and SYS_MODE_STATE (R42, R383). -/
def State.setRate (s : State) (m : Nat) : State :=
  let s1 := (((s.wr F.SYS_MODE_STATE_family (bitsOf m 0 1)).wr F.SYS_MODE_STATE_multiple (bitsOf m 1 2)).wr
    F.ENG_RATE_family (bitsOf m 0 1)).wr F.ENG_RATE_multiple (bitsOf m 1 2)
  (s1.setBlend (bitsOf m 3 1)).wr F.ENG_RATE_block_len s1.blockLen

/-! ### The restart sequence (R375–R380) -/

/-- F of R375: 30 blocks in the 48 kHz family, 28 in the 44.1 kHz family. -/
def State.fadeBlocks (s : State) : Nat := if s.on F.ENG_RATE_family then 28 else 30

def State.setPhase (s : State) (p : Nat) : State := s.wr F.SYS_MODE_STATE_phase p

/-- Route changes that fall due from A on are cancelled: the deferred ones, whose entries in force name the source in force
again, and loose words of the patch table that wait (R16, R380). -/
def State.cancelRoutes (s : State) : State :=
  let p := s.rd F.XRD_PATCH_OFS_offset
  let waiting := s.xrd.dests.filter fun (e : Nat × Dest) => e.2.deferred.isSome
  let back (t : State) (e : Nat × Dest) : State :=
    let y := e.2.cancelDeferral
    (t.setDest e.1 y).setForce (p + 4 * e.1) (BitVec.ofNat 32 y.entry)
  let inPatch (a : Nat) : Bool := (bankOf a).any fun (k : Nat) =>
    decide (bankBase k + p ≤ a) && decide (a < bankBase k + p + 65536 / s.mult)
  (waiting.foldl back s).modScn fun (c : Scn) => { c with loose := c.loose.filter fun (e : Nat × Word) => !inPatch e.1 }

/-- A handover that waits for its boundary is cancelled: the running image stays, and the slot is VERIFIED as before the
command (R16; log entry 40). A reverse handover is no scheduled action. -/
def State.cancelHandover (s : State) : State :=
  if s.boot.handover.isSome ∧ !s.boot.reverse then
    let i := 1 - s.rd F.SYS_BOOT_slot
    (s.putSlot i { s.bootSlot i with state := 2, trials := 0 }).modBoot fun (c : Boot) => { c with handover := none }
  else s

/-- Scheduled actions are cancelled: pending sets but the one that started the restart, an armed swap, a Churn switch, route
changes, a grant, a handover, Crier frames that wait for a swap whose descriptor is known, and a CFG_START that waits (R16,
R377, R380). -/
def State.cancelScheduled (s : State) (keepSys : Bool) : State :=
  let s1 := (s.pend.filter fun (p : PendSet) => !(keepSys && p.page == 0)).foldl (fun (t : State) (p : PendSet) =>
    if p.page = 0 then t.sysEnds 0x04 false else t.endPend p.page 0x04) s
  let s2 := (if s1.armed then s1.cancelSwap else s1).switchAtRestart.cancelRoutes.cancelHandover
  let s3 := if s2.nbr.grant.isSome then
      (s2.modNbr fun (n : Nbr) => { n with grant := none }).wr F.APPLY_RESULT_code 0x04 0x0A0 else s2
  let s4 := (s3.net.posted.filter fun (i : Nat) => (s3.criSlot i).mode == 2 && (s3.swapDue (s3.criSlot i)).isSome).foldl
    (fun (t : State) (i : Nat) => t.endSlot i 0x04) s3
  match s4.modes.start with
  | some c => (s4.reply c.header 4 [0x04]).modModes fun (m : Modes) => { m with start := none }
  | none => s4

/-- Step 1 at A: the restart begins with its fade-out. The leader or Active of a pair names it to its Neighbour (R341,
R370). -/
def State.restartBegin (s : State) (r : Restart) : State :=
  let s1 := s.cancelScheduled r.bySys
  let n := s1.fadeBlocks * s1.blockLen
  let s2 := s1.modModes fun (m : Modes) =>
    { m with restart := some r, follow := none, start := none, fade := ⟨32768, 0, r.a, n⟩ }
  let s3 := s2.modEng fun (e : Eng) => { e with realign := false }
  let s4 := (((s3.setPhase 1).wr F.SYS_MODE_STATE_kind r.kind).raise 0x000 1).bump F.SYS_MODE_COUNTS_restarts
  let s5 := if s4.leads then s4.nbrSend 5 [3, r.a, r.kind, r.mode] else s4
  s5.setService (bitsOf r.mode 4 2)

/-- Words of a section as a bank table in force: offset and value of each word that is not 0. -/
def sectionWords (c : List Byte) : List (Nat × Word) :=
  ((List.range ((c.length + 3) / 4)).map fun (i : Nat) => (4 * i, BitVec.ofNat 32 (leAt c (4 * i) 4))).filter
    fun (e : Nat × Word) => e.2 != 0

/-- A swap still under way is complete. The initial scene is written to both banks and comes into force: record words, the Crossroads tables, and every strip
at rest, in the program order of the owner table (R107, R201, R378). -/
def State.loadScene (s : State) (sc mil : List Byte) : State :=
  let k := s.mult
  let u := if s.scn.desc.isSome then s.finishSwap else s
  let s1 := ((u.clearMem (bankBase 0) (bankBase 0 + 0x1000000)).setBytes (bankBase 0) sc).setBytes (bankBase 1) sc
  let word (o : Nat) : Nat := leAt sc o 4
  let dests : List (Nat × Dest) := (List.range (16384 / k)).map fun (d : Nat) =>
    let e := word (s.rd F.XRD_PATCH_OFS_offset + 4 * d)
    (d, { Dest.none with entry := e, src := entrySrc e, fb := entrySrc e != unpatched && entryFb e })
  let srcs : List (Nat × Nat) := ((List.range (16384 / k)).map fun (i : Nat) => (i, word (s.rd F.XRD_SRC_OFS_offset + 4 * i))).filter
    fun (e : Nat × Nat) => e.2 != 0
  let grps : List (Nat × Nat) := ((List.range 256).map fun (g : Nat) => (g, leAt sc (s.rd F.XRD_GROUP_OFS_offset + g) 1)).filter
    fun (e : Nat × Nat) => e.2 != 0
  let keys := (List.range (numInputs k)) ++ ((List.range (numBuses k)).map fun (i : Nat) => 4096 + i) ++
    ((List.range (numMatrices k)).map fun (i : Nat) => 8192 + i)
  let convs := (List.range (128 / k)).map fun (v : Nat) => 12288 + v
  let source (key : Nat) : Nat := if key < 12288 then s.stripSource key else s.chanSource (key - 12288)
  let tier (key : Nat) : Nat := bitsOf (milOwner mil (source key)) 4 3
  let prog := (List.range 8).flatMap fun (t : Nat) => (keys ++ convs).filter fun (key : Nat) => tier key == t
  let s2 := s1.modScn fun (c : Scn) =>
    { c with force := sectionWords sc, loose := [], fence := [], swapAt := none, cue := none, ramps := [], panRamps := [],
             program := prog, strips := keys.map fun (key : Nat) => (key, Strip.zero) }
  let s3 := s2.modXrd fun (x : Xrd) => { x with dests := dests, srcTab := srcs, groups := grps, taps := [] }
  s3.endFades.updateGroupRegs

/-- The state of chapters 2, 3 and 5 that a gap clears: delay lines, Churn rings and histories, padding rings, and the
sample blocks in flight (R378). -/
def State.clearLongState (s : State) : State :=
  let pool := s.rd F.XRD_POOL_BASE_base
  let s1 := if s.rd F.XRD_POOL_SIZE_size = 0 then s else s.clearMem pool (pool + s.rd F.XRD_POOL_SIZE_size)
  let s2 := s1.churnClear.modScn fun (c : Scn) => { c with strips := c.strips.map fun (e : Nat × Strip) => (e.1, { e.2 with line := [], taps := [], heard := [] }) }
  s2.modEng fun (e : Eng) => { e with blocks := [], staged := [], emitting := [], sent := [] }

/-- The Reeve loads a configuration (R201, R378, R492, R493): layout, Mill image, scene, Churn table with every slot EMPTY,
pair map, Granary data. Register presets follow once every page can answer. -/
def State.loadTables (s : State) (c : List Byte) : State :=
  let s0 := s.modBoot fun (b : Boot) => { b with inForce := c }
  let s1 := layoutRegs.zipIdx.foldl (fun (t : State) (e : Nat × Nat) =>
    let m := match regRow (e.1 / 0x1000) (e.1 % 0x1000) with | some r => r.1.ro | none => 0
    t.setReg e.1 (BitVec.ofNat 32 (layoutWord c e.2 &&& m))) s0
  let mil := (cfgSection c 1).getD []
  let s2 := (s1.loadMillImage mil).loadScene ((cfgSection c 3).getD []) mil
  let table := s2.rd F.CHN_TABLE_LO_table + s2.rd F.CHN_TABLE_HI_value * 2 ^ 32
  let s3 := match cfgSection c 4 with
    | some t => s2.setBytes table t
    | none => s2.clearMem table (table + 256 * 128)
  let s4 := (List.range 16).foldl (fun (t : State) (i : Nat) => t.wr F.CHN_SLOT_STATE_a 0 0 i) s3
  let s5 := (List.range 4).foldl (fun (t : State) (i : Nat) => (t.wr F.CHN_ACTIVE_bits 0 0 i).wr F.CHN_XFADING_bits 0 0 i) s4
  let s6 := s5.modChn fun c => { State.reset.chn with prepLen := c.prepLen, job := c.job }
  let s7 := match cfgSection c 5 with
    | some m => (s6.setBytes (s6.rd F.NBR_MAP_BASE_value) m).wr F.NBR_MAP_value 0
    | none => s6.wr F.NBR_MAP_value 0xFF
  (cfgSections c).foldl (fun (t : State) (e : Nat × Nat × Nat × Nat) =>
    if e.1 = 6 then t.setBytes e.2.2.2 ((c.drop e.2.1).take e.2.2.1) else t) s7

/-- The VCXO of the new family starts at its preset, and the other holds its own (R302, R327, R378). -/
def State.startVcxo (s : State) : State :=
  let s1 := [0, 1].foldl (fun (t : State) (ch : Nat) =>
    let p := t.rd F.DAC_PRESET_preset 0 ch
    let t1 := t.setDac ch { t.dac ch with target := p }
    if t1.on F.DAC_STATUS_on 0 ch then t1.outDac ch p else t1) s
  s1.modStp fun (x : Stp) => { x with corr := 0 }

/-! ### Pages whose checks no earlier file holds -/

/-- A domain may be off (R540). -/
def State.domainFree (s : State) (d : Nat) : Bool :=
  if d < 5 ∨ d = 6 ∨ d = 7 then !s.running
  else if d = 8 ∨ d = 9 then
    let p := d - 8
    !([false, true].any fun (tx : Bool) => (s.streams tx).any fun (i : Nat) => (s.stream tx i).paths.any fun (q : Nat × PathD) => q.2.port == p) &&
    !(s.rd F.STP_PTP_role != 0 && (if p = 0 then s.lon F.STP_PTP_en_a else s.lon F.STP_PTP_en_b))
  else if d = 10 then !s.lon F.NBR_CFG_pair_en
  else if d = 11 then !s.on F.PCI_LINK_up
  else if d = 12 then !(portKeys.any fun (k : Nat) => (s.portNow k).inOn || (s.portNow k).outOn)
  else if d = 13 then s.rd F.ASR_ALLOC_used == 0 && !(portKeys.any fun (k : Nat) => (s.portNow k).half && ((s.portNow k).inOn || (s.portNow k).outOn))
  else if d = 14 then !((List.range 8).any fun (n : Nat) => s.lon F.DAC_CTRL_enable 0 n)
  else false

/-- Registers of the pages of a domain return to their reset values; the queues, ports and link of the domain lose their
state (R542). -/
def State.clearPage (s : State) (p : Nat) : State :=
  let inPage (e : Nat × Word) : Bool := e.1 / 0x1000 == p
  { s with regs := s.regs.filter (fun (e : Nat × Word) => !inPage e), live := s.live.filter (fun (e : Nat × Word) => !inPage e),
           pend := s.pend.filter fun (q : PendSet) => q.page != p }

/-- The pages of a domain. -/
def domainPages (d : Nat) : List Nat := allPages.filter fun (p : Nat) => pageDomain p == some d

/-- A domain turns off: its state is lost (R542). -/
def State.domainOff (s : State) (d : Nat) : State :=
  let s1 := (domainPages d).foldl State.clearPage s
  let s2 :=
    if d < 4 then
      let s3 := s1.modMil fun (m : Mils) => { m with mills := m.mills.filter fun (e : Nat × Mill) => e.1 / 4 != d }
      (s3.clearMem (0x08000000 + 4 * d * 0x100000) (0x08000000 + 4 * (d + 1) * 0x100000)).clearMem
        (0x09000000 + 4 * d * 0x20000) (0x09000000 + 4 * (d + 1) * 0x20000)
    else if d = 4 then { s1 with chn := State.reset.chn }
    else if d = 6 then
      { s1 with xrd := State.reset.xrd, scn := State.reset.scn, eng := { s1.eng with blocks := [], staged := [], emitting := [], sent := [] },
                memx := { s1.memx with gln := ⟨0, [], [], none, none, 0, none⟩ } }
    else if d = 7 then
      ({ s1 with mem := s1.mem.filter fun (c : Host.Cell) => decide (c.1 < 0x100000000) } : State).modMemx
        (fun (m : Memx) => { m with debts := [], lower := [], selfRefresh := false }) |>.wr F.ROL_STATUS_mirror_live 0
    else if d = 11 then s1.modHost fun (h : HostIf) => { h with msix := [], pba := [] }
    else if d = 10 then s1.linkDown false
    else if d = 12 then { s1 with ports := ⟨[]⟩ }
    else if d = 14 then s1.modStp fun (x : Stp) => { x with dacs := [] }
    else s1
  s2.wr (F.PWR_STATE_on.part d 1) 0

/-- PWR comes due (R542, R554). -/
def State.pwrDue (s : State) (p : PendSet) : State :=
  let want := (p.word s 0x040).toNat
  let off := (List.range 16).filter fun (d : Nat) => !bitAt want d
  if off.any fun (d : Nat) => d == 5 || d == 15 then s.endPend 0x001 0x10
  else match off.find? fun (d : Nat) => !s.domainFree d with
    | some d => (s.wr F.PWR_REFUSED_domain d).endPend 0x001 0x11
    | none =>
      let s1 := (off.filter fun (d : Nat) => s.domainOn d).foldl State.domainOff (s.putInForce 0x001 p.copy)
      let s2 := (s1.wr F.PWR_STATE_switching 1).wr F.APPLY_RESULT_code 0x01 0x001
      if p.late then s2.markLate else s2

/-- THR (R554): the levels fall strictly from step 1 to under, and the hysteresis is not 0. -/
def State.thrDue (s : State) (p : PendSet) : State :=
  let w := (p.word s 0x044).toNat
  let lv (i : Nat) : Nat := bitsOf w (8 * i) 8
  if lv 1 < lv 0 ∧ lv 2 < lv 1 ∧ lv 3 < lv 2 ∧ s.rd F.THR_CFG_hyst_mv ≠ 0 then s.enforce p else s.endPend 0x004 0x10

/-- GRN (R392, R396, R416): banks leave On only while the engine is stopped; a bank that goes to Off loses its contents and
its spare rows, and comes back reading zeros. -/
def State.grnDue (s : State) (p : PendSet) : State :=
  let want (b : Nat) : Nat := bitsOf (p.word s (0x040 + 4 * (b / 16))).toNat (2 * (b % 16)) 2
  let isOn (x : Nat) : Bool := x == 0 || x == 3
  if s.running ∧ (List.range 64).any fun (b : Nat) => !isOn (want b) then s.endPend 0x020 0x10
  else
    let offs := (List.range 64).filter fun (b : Nat) => want b == 2
    let s1 := s.enforce p
    let lost (a : Nat) : Bool := inGranary a && offs.contains (granaryBank a)
    let s2 : State := { s1 with mem := s1.mem.filter (fun (c : Host.Cell) => !lost c.1), memx := { s1.memx with
      poison := s1.memx.poison.filter (fun (w : Nat) => !lost (w * 8)), soft := s1.memx.soft.filter (fun (w : Nat) => !lost (w * 8)),
      spares := s1.memx.spares.filter fun (r : Nat) => !offs.contains (r / 1024) } }
    let s3 := offs.foldl (fun (t : State) (b : Nat) => t.wr (F.GRN_SPARES_used.part (b % 8) 4) 0 0 (b / 8)) s2
    (List.range 4).foldl (fun (t : State) (i : Nat) => t.setReg (F.GRN_BANK_STATE_bank.key 0 i) (t.liveReg (F.GRN_BANK_PWR_bank.key 0 i))) s3

/-- CEL (R416). -/
def State.celDue (s : State) (p : PendSet) : State :=
  let w := (p.word s 0x048).toNat
  if bitsOf w 0 7 ≤ bitsOf w 8 7 ∨ 64 < bitsOf w 0 7 then s.endPend 0x028 0x11 else s.enforce p

/-- GLN (R410, R412, R416): the ring lies in the installed Cellar below its top 64 MiB and holds 16 frames, and n is
within the rate's count; the ring is reset. -/
def State.glnDue (s : State) (p : PendSet) : State :=
  let n := bitsOf (p.word s 0x040).toNat 1 10
  let base := 0x100000000 + (p.word s 0x044).toNat * 64
  let size := (p.word s 0x048).toNat * 64
  if s.cellarEnd < base + size + 0x4000000 ∨ size / frameBytes n s.blockLen < 16 then s.endPend 0x02B 0x12
  else if 512 / s.mult < n then s.endPend 0x02B 0x13
  else (s.enforce p).glnReset

/-- SCN (R119, R142): the set comes into force with the arm, or is refused. An arm of a late APPLY_AT reads ARMED, and counts as
late on the ENG page alone; the page bit of APPLY_RESULT, LATE for a late swap, clears at a refused arm too (DESIGN CHOICE, log
entry 52). -/
def State.scnDue (s : State) (p : PendSet) : State :=
  let r := ((s.putInForce 0x031 p.copy).wr F.APPLY_RESULT_page 0 0x031).armSwap
  if r.1 ≠ 0 then ({ r.2 with live := s.live } : State).endPend 0x031 r.1
  else (r.2.endPend 0x031 0x01).when p.late State.markLate

/-- CHN (R163): the set comes into force with the switch, or is refused. -/
def State.chnDue (s : State) (p : PendSet) : State :=
  let r := (s.putInForce 0x050 p.copy).beginSwitch p.due
  if r.1 ≠ 0 then ({ r.2 with live := s.live } : State).endPend 0x050 r.1
  else
    let t := r.2.endPend 0x050 (r.2.rd F.APPLY_RESULT_code 0x050)
    if p.late then (t.wr F.APPLY_RESULT_code 0x03 0x050).markLate else t

/-- The transmit gate opens: held packets go out in emit order (R356 step 2). -/
def State.openGate (s : State) : State :=
  let s1 := s.heldNow.foldl (fun (t : State) (h : TxPacket) =>
    (t.modTxStat h.stream fun (u : StreamStat) => if h.path = 0 then { u with pktA := sat16Inc u.pktA } else { u with pktB := sat16Inc u.pktB }).sendFrameOn
      h.port h.data) s
  (s1.modNet fun (n : Net) => { n with held := [] }).showGate

/-- NBR (R364, R367): 0x10 for hb_blocks or copy_rate 0, 0x11 for pair_en 0 outside role Active while the link is up. -/
def State.nbrDue (s : State) (p : PendSet) : State :=
  let w := (p.word s 0x040).toNat
  let was := s.lon F.NBR_CFG_pair_en
  if bitsOf w 1 4 = 0 ∨ bitsOf w 10 6 = 0 then s.endPend 0x0A0 0x10
  else if was ∧ !bitAt w 0 ∧ s.role ≠ 1 ∧ s.on F.DRB_STATUS_up then s.endPend 0x0A0 0x11
  else
    let s1 := s.enforce p
    if !was ∧ bitAt w 0 then
      let s2 := s1.setRole 3
      if s2.on F.DRB_STATUS_up ∧ s2.nbrCond = 0 then (s2.setCond 1 0).showGate else s2.showGate
    else if was ∧ !bitAt w 0 then (((s1.setRole 0).wr F.NBR_STATE_lead 0).setCond 0 0).openGate
    else s1

/-! ### The SYS page comes due -/

/-- The restart that a SYS set starts (R377). From a stopped engine it is an engine start. -/
def PendSet.restart (p : PendSet) (s : State) : Restart :=
  ⟨1, p.due, none, p.mode s, true, p.late, none, none⟩

/-- An engine start from stopped (R377, R484): the gap begins at once. What counts since engine start begins again: the
holdover model and first qualifications (R307, R315). -/
def State.startEngine (s : State) (mode : Nat) (bySys : Bool) (reply : Option Nat) (c : List Byte) : State :=
  let s1 := (s.setRate mode).setService (bitsOf mode 4 2)
  let s2 := s1.modModes fun (m : Modes) =>
    { m with restart := some ⟨4, s1.now, some s1.tbNs, mode, bySys, false, reply, none⟩, fade := GainRun.rest 0 }
  let s3 := ((s2.setPhase 3).wr F.SYS_MODE_STATE_kind 4).bump F.SYS_MODE_COUNTS_restarts
  let s4 := s3.modStp fun (x : Stp) => { x with tracked := 0, fHist := [], cands := x.cands.map fun (e : Nat × Cand) => (e.1, { e.2 with everQualified := false }) }
  (((s4.wr F.SCN_STATE_live_bank 0).wr F.SCN_STATE_phase 0).loadTables c).clearLongState.glnReset.startVcxo

/-- The SYS set comes due (R371, R373, R377): refused, in force at once, or the start of a restart. -/
def State.sysDue (s : State) (p : PendSet) : State :=
  let m := p.mode s
  let code := s.sysCheck m
  if code ≠ 0 then s.sysEnds code true
  else if s.changesRate m then
    if s.rd F.SYS_MODE_STATE_phase = 5 then
      match s.startCfg (modeKey m) with
      | some c => (s.putInForce 0x000 p.copy).startEngine m true none c
      | none => s
    else ((s.putInForce 0x000 p.copy).when p.late State.markLate).restartBegin (p.restart s)
  else
    let t := (((s.enforce p).setService (bitsOf m 4 2)).setBlend (bitsOf m 3 1)).raise 0x000 0
    t.answerModes 0 (if p.late then 0x03 else 0x02)

/-- A pending set comes due on its page (R469). An Active forwards what came into force of a pair-driven page (R344). -/
def State.comeDue (s : State) (p : PendSet) : State :=
  let n := p.page
  if n = 0x000 then s.sysDue p
  else if n = 0x001 then s.pwrDue p
  else if n = 0x004 then s.thrDue p
  else if n = 0x020 then s.grnDue p
  else if n = 0x028 then s.celDue p
  else if n = 0x02B then s.glnDue p
  else if n = 0x031 then s.scnDue p
  else if n = 0x050 then s.chnDue p
  else if 0x060 ≤ n ∧ n < 0x064 then s.applyNetwork p
  else if 0x070 ≤ n ∧ n < 0x079 then s.applySteeple p
  else if 0x080 ≤ n ∧ n < 0x095 then s.portsDue n p
  else if n = 0x0A0 then s.nbrDue p
  else s.enforce p

/-- Pages whose staged sets are pair-driven (R345). -/
def pairDriven (p : Nat) : Bool :=
  p == 0x030 || p == 0x031 || p == 0x032 || (0x038 ≤ p && p < 0x03C) || p == 0x050 || p == 0x062 || p == 0x063 || p == 0x064 ||
  (0x080 ≤ p && p < 0x096)

/-- An Active names a set that came into force to the Standby, with its code and boundary (R344). -/
def State.forwardSet (s : State) (p : PendSet) : State :=
  if s.leads ∧ (pairDriven p.page ∨ p.page = 0) then
    s.nbrSend 5 ([0, s.now, p.page, s.rd F.APPLY_RESULT_code p.page] ++ p.copy.flatMap fun (e : Nat × Word) => [e.1, e.2.toNat])
  else s

/-- The pending set of a page comes due and is forwarded. -/
def State.applyDue (s : State) (page : Nat) : State :=
  match s.pendOf page with
  | none => s
  | some p =>
    if !s.pendDue p ∨ (page = 0 ∧ s.modes.restart.any fun (r : Restart) => r.bySys) then s else (s.comeDue p).forwardSet p

/-! ### APPLY 0x1 and 0x2 (R467–R469) -/

/-- The boundary that APPLY_AT selects: on port pages by R280, else by R468. -/
def State.applyBoundary (s : State) (page v : Nat) : Nat × Bool :=
  if 0x080 ≤ page ∧ page < 0x095 then
    let l := s.blockLen
    let first := ceilBlock l (s.now + l)
    if v = 0 then (first, false)
    else
      let b := ceilBlock l (expandEsi s.now v)
      if b < s.now + l then (first, true) else (b, false)
  else s.pickBoundary v

/-- APPLY 0x1: the staged set is copied and waits for its boundary, or is refused at once. -/
def State.applyTake (s : State) (page : Nat) : State :=
  let refuse (code : Nat) : State := (s.wr F.APPLY_RESULT_code code page).when (page == 0) State.countModeRefusal
  let at' := s.rd F.APPLY_AT_at page
  let stopped : Bool := !s.running && s.rd F.SYS_MODE_STATE_phase == 5
  let gap := !s.running && !stopped
  if !hasStaged page then s
  else if (s.pendOf page).isSome then refuse 0x0F
  else if stopped ∧ at' ≠ 0 then refuse 0x0E
  else
    let b : Nat × Bool := if stopped then (s.now, false) else if gap then (0, false) else s.applyBoundary page at'
    let p : PendSet := ⟨page, b.1, b.2, if gap then some at' else none, s.stagedSet page⟩
    let s1 : State := { s with pend := s.pend ++ [p] }
    let s2 := ((s1.wr F.STATUS_apply_pending 1 page).wr F.APPLY_RESULT_code 0x01 page).wr F.APPLY_RESULT_seq (s.rd F.APPLY_RESULT_seq page + 1) page
    let s3 := if page = 0 then s2.wr F.SYS_MODE_force 0 else s2
    if stopped then s3.applyDue page else s3

/-- APPLY 0x2: the staged set takes the in-force values; a set that has not come due is cancelled. -/
def State.applyDiscard (s : State) (page : Nat) : State :=
  if !hasStaged page then s
  else
    let s1 := s.unstage page
    let s2 := s1.wr F.APPLY_RESULT_seq (s.rd F.APPLY_RESULT_seq page + 1) page
    let running := page == 0 && s.modes.restart.any fun (r : Restart) => r.bySys
    if (s.pendOf page).isSome ∧ !running then
      if page = 0 then s2.sysEnds 0x05 false else s2.endPend page 0x05
    else s2.wr F.APPLY_RESULT_code 0x05 page

/-- APPLY (R467, R468): a write of 0x1 to the register of a page. -/
def execApplyStaged (page : Nat) (s : State) : Host.Outcome State Fault Refusal := .next (s.applyTake page)

/-- APPLY_DISCARD (R469): a write of 0x2. -/
def execApplyDiscard (page : Nat) (s : State) : Host.Outcome State Fault Refusal := .next (s.applyDiscard page)

/-- APPLY_DUE (R469): at its boundary the pending set of a page is checked and put in force, or refused. -/
def execApplyDue (page : Nat) (s : State) : Host.Outcome State Fault Refusal := .next (s.applyDue page)

/-! ### Promotion (R356) -/

/-- A Crier frame of the held window leaves at once, with result 0x02 (R356 step 3). -/
def State.sendHeldCrier (s : State) : State :=
  let due := s.net.crier.filter fun (e : Nat × Nat × List (Nat × List Byte)) => decide (s.now < e.2.1 + 3 * s.blockLen)
  due.foldl (fun (t : State) (e : Nat × Nat × List (Nat × List Byte)) =>
    let u := e.2.2.foldl (fun (v : State) (f : Nat × List Byte) => v.sendFrameOn f.1 f.2) t
    if u.slotCode e.1 = 1 then u else u.store (u.slotAt e.1 + 1) 1 0x02)
    (s.modNet fun (n : Net) => { n with crier := [] })

/-- Promotion (R356): role Active, the next pair epoch, an open gate. The Steeple stops following at the next boundary, and
local outputs at their next frame start, by the role. -/
def State.promote (s : State) : State :=
  let s1 := ((s.setRole 1).wr F.NBR_STATE_lead 1).wr F.NBR_EPOCH_value (s.rd F.NBR_EPOCH_value + 1)
  let s2 := (s1.modNbr fun (n : Nbr) => { n with peerFault := false, condWas := 0, ctrlWait := [] }).raise 0x0A0 3
  s2.openGate.sendHeldCrier

/-- The Standby whose Active failed during the gap becomes Active at B, with no held packets to send (R380). -/
def State.promoteAtB (s : State) : State :=
  ((s.modNbr fun (n : Nbr) => { n with promoteAtB := false }).modNet fun (n : Net) => { n with held := [], crier := [] }).promote

/-! ### Restart rows (R377–R380) -/

/-- Pages that take the register presets of a configuration: ENG, RMP, XRD, CHN, SRX, STX, CRI, SAP, MAD, AES, ASR and GLN (R492). -/
def cfgPresetPage (p : Nat) : Bool :=
  p == 0x030 || p == 0x032 || (0x038 ≤ p && p ≤ 0x03B) || p == 0x050 || p == 0x062 || p == 0x063 || p == 0x064 ||
  (0x080 ≤ p && p < 0x096) || p == 0x02B

/-- Register presets of the configuration come into force, each page's staged ones through its own check (R492). One of another
page is skipped (log entry 64). -/
def State.loadPresets (s : State) (c : List Byte) : State :=
  let sec := (cfgSection c 7).getD []
  let es : List (Nat × Nat × Nat) := (List.range (sec.length / 8)).map fun (i : Nat) => (leAt sec (8 * i) 2, leAt sec (8 * i + 2) 2, leAt sec (8 * i + 4) 4)
  let s1 := (es.filter fun (e : Nat × Nat × Nat) => cfgPresetPage e.1).foldl (fun (t : State) (e : Nat × Nat × Nat) => match t.rowAt e.1 e.2.1 with
    | some r => t.storeBits e.1 e.2.1 (r.rw ||| r.rws) e.2.2
    | none => t) s
  let pages := ((es.filter fun (e : Nat × Nat × Nat) => cfgPresetPage e.1 && hasStaged e.1).map fun (e : Nat × Nat × Nat) => e.1).eraseDups
  pages.foldl (fun (t : State) (p : Nat) =>
    if (t.pendOf p).isSome then t
    else
      let q : PendSet := ⟨p, t.now, false, none, t.stagedSet p⟩
      ({ t with pend := t.pend ++ [q] } : State).comeDue q) s1

/-- RESTART_BEGIN (R377 step 1): at boundary A the SYS set, a realign, a CFG_START or the leader's restart that is due is
checked and begins. -/
def execRestartBegin (s : State) : Host.Outcome State Fault Refusal :=
  let due (b : Nat) : Bool := s.running && decide (b ≤ s.now)
  let cur := bitsOf (s.reg 0x64).toNat 0 6
  let follow := s.modes.follow.filter fun f => due f.1
  let rate := (s.pendOf 0).filter fun p => due p.due && s.changesRate (p.mode s)
  let start := s.modes.start.filter fun c => due c.due
  .next (if s.restarting ∨ !s.running then s
    else match follow, rate, start with
      | some f, _, _ => s.restartBegin ⟨f.2.1, f.1, none, s.followMode f.2.2, false, false, none, none⟩
      | none, some p, _ => (s.sysDue p).forwardSet p
      | none, none, some c =>
        if s.rd F.SYS_MODE_STATE_service = 0 ∧ !c.force then
          (s.modModes fun (m : Modes) => { m with start := none }).reply c.header 4 [0x12]
        else (s.restartBegin ⟨3, c.due, none, cur, false, c.late, some c.header, none⟩).when c.late State.markLate
      | none, none, none => if s.eng.realign ∧ s.now % s.blockLen = 0 then s.restartBegin ⟨2, s.now, none, cur, false, false, none, none⟩ else s)

/-- REALIGN_REQUEST (R43): a write of ENG_REALIGN; request starts a realign at the next block boundary, with no further
effect while a restart runs. -/
def execRealignRequest (value : Word) (s : State) : Host.Outcome State Fault Refusal :=
  let s1 := s.storeBits 0x030 0x078 0xFFFF0002 value.toNat
  .next (if bitAt value.toNat 0 ∧ !s.restarting ∧ s.running then s1.modEng fun (e : Eng) => { e with realign := true } else s1)

/-- RESTART_GAP (R377 step 4, R378): at H the engine stops; fades end, and the gap's work is done: the configuration of
the target rate, cleared delay lines and rings, the VCXO of the family. -/
def execRestartGap (s : State) : Host.Outcome State Fault Refusal :=
  .next (match s.modes.restart with
    | none => s
    | some r =>
      let h := r.a + (s.fadeBlocks + 3) * s.blockLen
      if r.h.isSome ∨ !s.running ∨ s.now < h then s
      else
        let family := bitsOf (s.reg 0x64).toNat 0 1
        let s1 := ((s.wr F.ENG_RATE_running 0).setPhase 3).endFades.debugEnds
        let s2 := if r.kind = 1 then s1.disableStreams else s1
        let s3 := s2.modModes fun (m : Modes) =>
          { m with restart := some { r with h := some s.tbNs }, quiet := GainRun.rest m.quiet.g1, egress := GainRun.rest m.egress.g1,
                   fade := GainRun.rest 0, fsFade := GainRun.rest m.fsFade.g1 }
        let s4 := s3.setRate r.mode
        let s5 := if r.kind = 1 ∨ r.kind = 3 then
            (match s4.heldCfg (modeKey r.mode) with
            | some c => (s4.loadTables c).glnReset
            | none => s4)
          else s4
        let s6 := s5.clearLongState
        if bitsOf r.mode 0 1 = family then s6 else s6.startVcxo)

/-- RESTART_AT_B (R10, R377 step 6, R379): the gap work is done; at the first block boundary B of the new rate the ESI is
loaded, ports start anew, generators restart from aux, sets accepted in the gap take their boundaries, and the fade-in
begins unless fail-safe holds. -/
def execRestartAtB (s : State) : Host.Outcome State Fault Refusal :=
  .next (match s.modes.restart with
    | none => s
    | some r =>
      match r.h with
      | none => s
      | some h =>
        if s.rd F.SYS_MODE_STATE_phase ≠ 3 then s
        else
          let l := s.blockLen
          let b := ceilBlock l (idealEsi s.fs (secOf s.tbNs) (nsOf s.tbNs))
          let held := s.on F.FLT_STATE_failsafe
          let s1 := (s.modEng fun (e : Eng) => { e with esi := BitVec.ofNat 64 b, start := b }).wr F.ENG_RATE_running 1
          let s2 := (s1.setPhase 4).modModes fun (m : Modes) =>
            { m with follow := none, restart := some { r with inAt := if held then none else some b },
                     fade := if held then GainRun.rest 0 else ⟨0, 32768, b, s1.fadeBlocks * l⟩,
                     egress := if s1.flt.egressDue then m.egress.turn 0 (b - 2 * l) (msSamples 2 s1.fs) else m.egress }
          let rate := r.kind == 1
          let both := r.kind != 4 || s.modes.follow.any fun (x : Nat × Nat × Nat) => x.2.1 == 4
          let set (p : PendSet) : PendSet := match p.atGap with
            | some 0 => { p with due := b, atGap := none }
            | some v => let e := ceilBlock l (expandEsi b v); { p with due := max b e, late := decide (e < b), atGap := none }
            | none => if p.page = 0 ∧ r.bySys then p else { p with due := if rate then b else max b p.due }
          let s3 : State := { s2 with pend := s2.pend.map set }
          let s4 := if (r.kind = 1 ∨ r.kind = 3 ∨ r.kind = 4) ∧ s3.boot.inForce ≠ [] then s3.loadPresets s3.boot.inForce else s3
          let s5 := (List.range s4.numGens).foldl (fun (t : State) (g : Nat) => t.genStart (r.kind == 1 || r.kind == 4) b g) (s4.startPorts (r.kind == 4))
          let s6 := (s5.strobePorts b).modStp fun (x : Stp) => { x with aligning := x.aligning ||| (if r.kind = 4 then 0x1F else if rate then 3 else 0) }
          let s7 := s6.modNet fun (n : Net) => { n with txFrom := n.txFrom.map fun (e : Nat × Nat) =>
            (e.1, let d := s6.stream true e.1; let q := d.samples s6 * d.step; (b + q - 1) / q * q / d.step) }
          let s8 := (s7.wr F.SYS_RESTART_ESI_esi (b % 2 ^ 32)).wr F.SYS_RESTART_GAP_us (min ((s.tbNs - h) / 1000) (2 ^ 24 - 1))
          let s8 := if r.kind = 4 then s8.wr F.SYS_BOOT_stage 11 else s8
          let s8 := if r.kind = 4 ∧ s8.leads then s8.nbrSend 5 [3, b, 4, r.mode] else s8
          let s9 := if r.kind = 4 ∧ s8.lon F.NBR_CFG_pair_en ∧ s8.role = 0 then s8.setRole 3 else s8
          let s10 := if both ∧ s9.checked ∧ s9.nbrCond ≠ 0 then s9.setCond 3 0 else s9
          let s11 := s10.modFlt fun (f : Flt) => { f with egressDue := false }
          s11.when s11.nbr.promoteAtB State.promoteAtB)

/-- RESTART_DONE (R377 step 8): the emit of the last fade-in block is complete. -/
def execRestartDone (s : State) : Host.Outcome State Fault Refusal :=
  .next (match s.modes.restart with
    | none => s
    | some r =>
      match r.inAt with
      | none => s
      | some b =>
        if s.rd F.SYS_MODE_STATE_phase ≠ 4 ∨ s.now < b + (s.fadeBlocks + 3) * s.blockLen then s
        else
          let code := if r.late then 0x03 else 0x02
          let s1 := ((s.modModes fun (m : Modes) => { m with restart := none, fade := GainRun.rest 32768 }).setPhase 0).raise 0x000 2
          let s2 := if r.kind = 2 then s1.raise 0x030 2 else s1
          let s3 := if r.bySys then
((s2.endPend 0x000 code).raise 0x000 0).answerModes 0 code
            else s2
          match r.reply with
          | some h => s3.reply h 0 [code]
          | none => s3)

/-- GAP_HEARTBEAT (R380): in the gap each chip of a pair sends both heartbeats, timed from the timebase. -/
def execGapHeartbeat (s : State) : Host.Outcome State Fault Refusal :=
  .next (if s.running ∨ s.role = 0 ∨ s.rd F.SYS_MODE_STATE_phase ≠ 3 ∨ s.nbr.drilling then s
    else
      let t := s.nbrSend 7 [s.now / s.blockLen, s.now, 0, 0, s.rd F.NBR_EPOCH_value, s.role + 4 * (if s.checked then s.nbrCond else 0) + 32 * b2n s.nbr.declared]
      t.emit (.heartbeat (if s.nbr.declared then 1 else 0)))

/-! ### Mode commands (R381) -/

/-- MODE_SET (R381): SYS_MODE and APPLY_AT are written and APPLY 0x1 follows; the reply waits for its outcome. -/
def execModeSet (header : DWord) (mode applyAt : Word) (s : State) : Host.Outcome State Fault Refusal :=
  .next (if s.on F.LOCK_locked 0x000 then s.reply header.toNat 6 [0]
    else
      let s1 := (s.storeBits 0x000 0x060 0x13F mode.toNat).wr F.APPLY_AT_at applyAt.toNat
      let s2 := s1.applyTake 0x000
      let code := s2.rd F.APPLY_RESULT_code 0x000
      if (s1.pendOf 0).isSome ∨ code = 0x0E then s2.reply header.toNat 4 [code]
      else if (s2.pendOf 0).isSome then s2.modModes fun (m : Modes) => { m with waiting := m.waiting ++ [header.toNat] }
      else s2.reply header.toNat (if code = 0x02 ∨ code = 0x03 then 0 else 4) [code])

/-- MODE_GET (R381): the reply carries SYS_MODE_STATE. -/
def execModeGet (header : DWord) (s : State) : Host.Outcome State Fault Refusal := .next (s.reply header.toNat 0 [(s.reg 0x64).toNat])

/-- MODE_DISCARD (R381): APPLY 0x2 on the SYS page. -/
def execModeDiscard (header : DWord) (s : State) : Host.Outcome State Fault Refusal :=
  .next (if s.on F.LOCK_locked 0x000 then s.reply header.toNat 6 [0]
    else (s.applyDiscard 0x000).reply header.toNat 0 [0])

end Sys2Proof.Machine
end

