-- ==== Sys2Proof/Machine/FailSafe.lean ====
section
/-! DEFINITION. Fail-safe, power failure, watchdogs, the Roll's reports and copies, and dumps (chapter 17), but for what
resets the chip. -/
namespace Sys2Proof.Machine

/-! ### GPIO outputs (R476) -/

/-- The level that pin `g` drives, none while it does not drive: GPIO_OUT, or in fail-safe its safe value or its last
state; an open-drain pin drives 0 only. -/
def State.gpioDrive (s : State) (g : Nat) : Option Nat :=
  if !bitAt (s.rd F.GIO_DIR_bits) g then none
  else
    let v := if s.outputsSafe then (if bitAt (s.rd F.GIO_SAFE_EN_bits) g then bitsOf (s.rd F.GIO_SAFE_bits) g 1 else bitsOf (s.rd F.GIO_IN_bits) g 1)
      else bitsOf (s.rd F.GIO_OUT_bits) g 1
    if bitAt (s.rd F.GIO_OD_bits) g ∧ v = 1 then none else some v

/-- GIO_IN follows the pins the chip drives; a level that changes is an edge of its pin (R476, R477). -/
def State.gpioDrives (s : State) : State :=
  (List.range 32).foldl (fun (t : State) (g : Nat) => match s.gpioDrive g with
    | some v => if v = bitsOf (s.rd F.GIO_IN_bits) g 1 then t else t.gpioEdge g (v == 0)
    | none => t) s

/-! ### Faults and fail-safe (R511–R520) -/

/-- The condition of a fault holds now, as far as the machine's own state shows it (R511). -/
def State.faultHolds (s : State) (id : Nat) : Bool :=
  if id = 0x01 then s.flt.pfailLow
  else if id = 0x03 then s.loadedMills.any fun (n : Nat) => (s.mill n).clean != 64
  else if id = 0x04 then (List.range 4).any fun (c : Nat) => s.celClass c == 2
  else if id = 0x06 then (List.range 16).any fun (n : Nat) => s.rd F.MIL_STATE_state n == 5
  else if id = 0x08 then s.stpState == 4
  else false

/-- FAULT_INACTIVE (R511): the condition has ended, or its timer has run out. -/
def execFaultInactive (id : Nat) (s : State) : Host.Outcome State Fault Refusal :=
  .next (if 1 ≤ id ∧ id < 16 ∧ !s.faultHolds id then s.faultInactive id else s)

/-- Clear latch bits of inactive faults; a Fatal latch clears only at a reset. A leave counts from the last Safe latch that cleared
(R511, R517; DEDUCED, log entry 66). -/
def State.clearLatch (s : State) (v : Nat) : State :=
  let ids := (List.range 16).filter fun (i : Nat) => bitAt v i && bitAt (s.rd F.FLT_LATCH_bits) i && !bitAt (s.rd F.FLT_ACTIVE_bits) i && faultClass i != 3
  let s1 := ids.foldl (fun (t : State) (i : Nat) => t.wr (F.FLT_LATCH_bits.part i 1) 0) s
  let s2 := s1.modFlt fun (f : Flt) => { f with escalated := f.escalated.filter fun (i : Nat) => !ids.contains i }
  (if ids.any fun (i : Nat) => decide (2 ≤ s.actsAs i) then s2.modFlt fun (f : Flt) => { f with leave := false } else s2).showFaultN

/-- LATCH_CLEAR (R511): a write of FLT_LATCH. -/
def execLatchClear (value : Word) (s : State) : Host.Outcome State Fault Refusal := .next (s.clearLatch value.toNat)

/-- A write of FLT_CTRL: enter raises HOST; leave permits leaving, or is ignored and counted while a Safe or Fatal latch is
set (R511, R517). -/
def State.fltCtrl (s : State) (ini : Initiator) (v : Nat) : State :=
  let s1 := if bitAt v 0 then s.raiseFault 0x02 false else s
  if !bitAt v 1 then s1
  else if s1.unsafeLatched then s1.captureErr 0x0B1 ini.port true 0x8 (pageAddr 0x0B1 0x054)
  else s1.modFlt fun (f : Flt) => { f with leave := true }

/-- FLT_ENTER (R511): a write of enter. -/
def execFltEnter (value : Word) (s : State) : Host.Outcome State Fault Refusal := .next (s.fltCtrl .host value.toNat)

/-- FLT_LEAVE (R517): a write of leave. -/
def execFltLeave (ini : Initiator) (value : Word) (s : State) : Host.Outcome State Fault Refusal := .next (if s.portShut ini then s else s.fltCtrl ini value.toNat)

/-- FAILSAFE_ENTRY (R514–R518): at A_f, the first boundary after the latch (of a stopped engine, its first: DEDUCED, log entry
66), the fade-out starts from the gain reached, route fades end and outputs move to their fail-safe states. -/
def execFailsafeEntry (s : State) : Host.Outcome State Fault Refusal :=
  .next (if !s.flt.entering ∨ !s.running ∨ s.now % s.blockLen ≠ 0 ∨ s.now < s.flt.enterAt then s
    else
      let n := s.fadeBlocks * s.blockLen
      let s1 := (s.cutFades s.now).modModes fun (m : Modes) => { m with fsFade := m.fsFade.turn 0 s.now n }
      let s2 := (s1.modFlt fun (f : Flt) => { f with entering := false, entry := (s.now, s.tbNs) }).wr F.FLT_STATE_phase 1
      let s3 := (s2.wr F.FLT_ENTRY_ESI_value (s.now % 2 ^ 32)).gpioDrives
      [0x078, 0x0CB].foldl (fun (t : State) (p : Nat) => t.wr F.STATUS_safe_state 1 p) s3)

/-- Leaving is permitted at this boundary (R517). -/
def State.mayLeave (s : State) : Bool :=
  s.on F.FLT_STATE_failsafe && !s.flt.entering && !s.unsafeLatched && (s.on F.FLT_CFG_auto_leave || s.flt.leave)

/-- FAILSAFE_LEAVE (R517, R518, R380): at A_l, later than A_f, sources fade in from the gain reached; where a restart passed
its B under fail-safe, its fade-in starts here instead. -/
def execFailsafeLeave (s : State) : Host.Outcome State Fault Refusal :=
  .next (if !s.mayLeave ∨ !s.running ∨ s.now % s.blockLen ≠ 0 ∨ s.now ≤ s.modes.fsFade.start then s
    else
      let n := s.fadeBlocks * s.blockLen
      let late := s.modes.restart.any fun (r : Restart) => r.inAt.isNone && s.rd F.SYS_MODE_STATE_phase == 4
      let s1 := if late then
          s.modModes fun (m : Modes) => { m with fade := ⟨0, 32768, s.now, n⟩, fsFade := ⟨32768, 32768, s.now, 0⟩,
                                                 restart := m.restart.map fun (r : Restart) => { r with inAt := some s.now } }
        else s.modModes fun (m : Modes) => { m with fsFade := m.fsFade.turn 32768 s.now n }
      ((s1.wr F.FLT_STATE_failsafe 0).wr F.FLT_STATE_phase 3).raise 0x0B1 1)

/-- What fail-safe does by itself at a boundary: held once the faded blocks have left, outputs return with the first block
that fades in, normal when the fade-in has left (R515, R517, R536). -/
def State.failsafeBlock (s : State) : State :=
  let ph := s.rd F.FLT_STATE_phase
  let l := s.blockLen
  let f := s.modes.fsFade
  let ports := (List.range 0x15).map fun (i : Nat) => 0x080 + i
  if ph = 1 ∧ !s.flt.entering ∧ f.start + f.len + 3 * l ≤ s.now then
    ports.foldl (fun (t : State) (p : Nat) => t.wr F.STATUS_safe_state 1 p) (s.wr F.FLT_STATE_phase 2)
  else if ph = 3 then
    let s1 := if f.start + 3 * l ≤ s.now ∧ s.on F.STATUS_safe_state 0x0CB then
        ([0x078, 0x0CB] ++ ports).foldl (fun (t : State) (p : Nat) => t.wr F.STATUS_safe_state 0 p) s.gpioDrives
      else s
    if f.start + f.len + 3 * l ≤ s.now then s1.wr F.FLT_STATE_phase 0 else s1
  else s

/-! ### The Roll (R525–R532) -/

/-- Entry number `k` as the last area holds it; zeros where none. -/
def State.entryBytes (s : State) (k : Nat) : List Byte :=
  ((assoc? s.flt.entries k).map RollEntry.bytes).getD (leBytes 32 0)

/-- The Roll's header (R530), with the CRC of a flash copy. -/
def State.rollHeader (s : State) (seq crc : Nat) : List Byte :=
  let ns := s.tbNs
  leBytes 4 0x4C525A53 ++ leBytes 4 seq ++ leBytes 4 (s.rd F.ROL_ENTRIES_value) ++ leBytes 4 s.flt.windows ++ leBytes 4 s.flt.windowMs ++
    leBytes 4 0 ++ leBytes 8 s.now ++ leBytes 8 (secOf ns) ++ leBytes 4 (nsOf ns) ++ leBytes 16 0 ++ leBytes 4 crc ++ leBytes 4032 0

/-- The Roll without the extended ring (R530): header with `seq` and, in a flash copy, the CRC. -/
def State.rollImage (s : State) (seq : Nat) (flash : Bool) : List Byte :=
  let n := s.rd F.ROL_ENTRIES_value
  let body := ((List.range 256).flatMap fun (p : Nat) => (s.rollSrc p).bytes) ++
    ((List.range 256).flatMap fun (k : Nat) => ((assoc? s.flt.first k).map RollEntry.bytes).getD (leBytes 32 0)) ++
    ((List.range 4096).flatMap fun (i : Nat) =>
      if i < n then s.entryBytes (i + (n - 1 - i) / 4096 * 4096) else leBytes 32 0)
  s.rollHeader seq (if flash then crc32 body else 0) ++ body

/-- The source table goes to the mirror at each window end, with the header (R530; DEDUCED, log entry 66). -/
def State.mirrorSources (s : State) : State :=
  if s.on F.ROL_STATUS_mirror_live then
    (s.setBytes (s.rollBase + 0x1000) ((List.range 256).flatMap fun (p : Nat) => (s.rollSrc p).bytes)).setBytes s.rollBase
      (s.rollHeader s.flt.copySeq 0)
  else s

/-- After training the on-chip Roll is copied to the mirror (R530). -/
def State.startMirror (s : State) : State :=
  let base := s.cellarEnd - 0x4000000
  let s1 := ((s.wr F.ROL_BASE_LO_base (base % 2 ^ 32)).wr F.ROL_BASE_HI_value (base / 2 ^ 32)).setBytes base (s.rollImage s.flt.copySeq false)
  let s2 := s1.flt.entries.foldl (fun (t : State) (e : Nat × RollEntry) => t.setBytes (base + 0x40000 + 32 * (e.1 % 65536)) e.2.bytes) s1
  s2.wr F.ROL_STATUS_mirror_live 1

/-- ROLL_REPORT (R525–R528): a report of the page of a block reaches the intake; `held` says that its detail was held. -/
def execRollReport (page code : Nat) (d0 d1 : Word) (value : Option Word) (held : Bool) (s : State) : Host.Outcome State Fault Refusal :=
  .next (if page < 256 then s.rollIn page (code % 256) 0 d0.toNat d1.toNat (value.map fun (w : Word) => w.toNat) false held else s)

/-- The bin of a window count: k with 4^k ≤ win < 4^(k+1), at most 7 (R527). -/
def rollBin (win : Nat) : Nat := min 7 (Nat.log2 win / 2)

/-- ROLL_WINDOW_END (R527): every source's window count goes to its bin, and window_ms comes into force (R536). -/
def execRollWindowEnd (s : State) : Host.Outcome State Fault Refusal :=
  let close (r : RollSrc) : RollSrc :=
    if r.win = 0 then r else { r with bins := r.bins.modify (rollBin r.win) sat32Inc, win := 0 }
  let s1 := s.modFlt fun (f : Flt) => { f with srcs := f.srcs.map (fun (e : Nat × RollSrc) => (e.1, close e.2)), windows := f.windows + 1, windowMs := s.rd F.ROL_CFG_window_ms }
  .next s1.mirrorSources

/-- The report registers of a control core, by master port. -/
def State.repWord (s : State) (ini : Initiator) (i : Nat) : Nat := ((assoc? s.flt.reps (4 * ini.port + i)).getD 0).toNat

/-- A control core. -/
def controlCore (i : Initiator) : Bool := i == .reeve || i == .carter0 || i == .carter1

/-- A write of ROL_REP_GO (R525, R536): the report of a control core; of any other master ignored and counted. -/
def State.repGo (s : State) (ini : Initiator) (v : Nat) : State :=
  if !controlCore ini then s.captureErr 0x0B0 ini.port true 0x8 (pageAddr 0x0B0 0x08C)
  else
    let value := if bitAt v 16 then some (s.repWord ini 2) else none
    s.rollIn (bitsOf v 0 8) (bitsOf v 8 8) (if bitAt v 17 then bitsOf v 18 2 else 0) (s.repWord ini 0) (s.repWord ini 1) value true true

/-- ROL_REP_GO (R536). -/
def execRolRepGo (ini : Initiator) (value : Word) (s : State) : Host.Outcome State Fault Refusal := .next (if s.portShut ini then s else s.repGo ini value.toNat)

/-- A Roll copy goes to the slot not written last, with seq + 1 and a CRC (R531, R532). -/
def State.rollCopy (s : State) : State :=
  match s.flashPart 5 with
  | none => s
  | some p =>
    let seq := s.flt.copySeq + 1
    let s1 := (s.setBytes (p.1 + 0x20000 + 0x40000 * (seq % 2)) (s.rollImage seq true)).flashErased 4
    ((s1.modFlt fun (f : Flt) => { f with copySeq := seq }).wr F.ROL_COPY_SEQ_value seq).raise 0x0B0 2

/-- ROLL_COPY (R532): every flush_min minutes, and on entry to fail-safe. -/
def execRollCopy (flashOk : Bool) (s : State) : Host.Outcome State Fault Refusal := .next (if flashOk then s.rollCopy else s.flashFailed)

/-- ROLL_FLUSH (R535): OK once the copy is written. -/
def execRollFlush (header : DWord) (flashOk : Bool) (s : State) : Host.Outcome State Fault Refusal :=
  .next (if flashOk ∧ (s.flashPart 5).isSome then s.rollCopy.reply header.toNat 0 [0] else s.flashFailed.reply header.toNat 4 [0x11])

/-- Clear the selected parts of the Roll (R535). -/
def State.rollClear (s : State) (w : Nat) : State :=
  let s1 := if bitAt w 0 then
      s.modFlt fun (f : Flt) => { f with srcs := f.srcs.map fun (e : Nat × RollSrc) =>
        (e.1, { e.2 with count := 0, overflow := 0, bins := List.replicate 8 0, ext := 0, extEsi := 0 }) }
    else s
  let s2 := if bitAt w 1 then
      (s1.modFlt fun (f : Flt) => { f with first := [] }).wr F.ROL_STATUS_first 0
    else s1
  let s3 := if bitAt w 2 then
      (s2.modFlt fun (f : Flt) => { f with entries := [], srcs := f.srcs.map fun (e : Nat × RollSrc) => (e.1, { e.2 with last := none }) }).wr
        F.ROL_ENTRIES_value 0
    else s2
  if s3.on F.ROL_STATUS_mirror_live then
    let b := s3.rollBase
    let s4 := if bitAt w 1 then s3.clearMem (b + 0x5000) (b + 0x7000) else s3
    let s5 := if bitAt w 2 then (s4.clearMem (b + 0x7000) (b + 0x27000)).clearMem (b + 0x40000) (b + 0x240000) else s4
    s5.mirrorSources
  else s3

/-- ROLL_CLEAR (R535). -/
def execRollClear (header : DWord) (what : Word) (s : State) : Host.Outcome State Fault Refusal :=
  .next ((s.rollClear what.toNat).reply header.toNat 0 [0])

/-! ### Power failure (R523, R531) -/

/-- PFAIL (R523): PFAIL_N low for 1 µs latches the fault, and the egress fade starts at the next boundary: in the gap of a restart
at B. -/
def execPfail (s : State) : Host.Outcome State Fault Refusal :=
  let s1 := (s.raiseFault 0x01 true).modFlt fun (f : Flt) => { f with pfailLow := true, egressDue := f.egressDue || !s.running }
  let l := s.blockLen
  .next (if s1.running then
      s1.modModes fun (m : Modes) => { m with egress := m.egress.turn 0 (nextBlock l s.now - 2 * l) (msSamples 2 s.fs) }
    else s1)

/-- PFAIL_N_RISE (R511): PFAIL_N is high again; the fault stays active for the 100 ms that FAULT_INACTIVE ends. The spec
gives the egress fade no end, so its gain stays. -/
def execPfailNRise (s : State) : Host.Outcome State Fault Refusal :=
  .next (s.modFlt fun (f : Flt) => { f with pfailLow := false })

/-- PFAIL slots of the dump partition that hold a record. -/
def State.pfailUsed (s : State) (base : Nat) : List Nat := (List.range 32).filter fun (i : Nat) => s.load (base + 4096 * i) 4 == 0x46505A53

/-- The record of R531. -/
def State.pfailRecord (s : State) (seq : Nat) : List Byte :=
  let ns := s.tbNs
  let n := s.rd F.ROL_ENTRIES_value
  let head := leBytes 4 0x46505A53 ++ leBytes 4 seq ++ leBytes 8 s.now ++ leBytes 8 (secOf ns) ++ leBytes 4 (nsOf ns) ++
    leBytes 4 (s.rd F.FLT_LATCH_bits) ++ leBytes 4 (s.reg 0xB1044).toNat ++ leBytes 28 0
  let body := head ++ ((List.range 256).flatMap fun (p : Nat) => leBytes 4 (s.rollSrc p).count ++ leBytes 4 (s.rollSrc p).overflow) ++
    ((List.range 60).flatMap fun (i : Nat) => if i < n then s.entryBytes (n - 1 - i) else leBytes 32 0)
  body ++ leBytes 4 (crc32 body) ++ leBytes 60 0

/-- PFAIL_RECORD_WRITTEN (R531): the record stands in the next erased slot; the last slot of a sector erases the other
sector. -/
def execPfailRecordWritten (s : State) : Host.Outcome State Fault Refusal :=
  .next (match s.flashPart 5 with
    | none => s
    | some p =>
      let used := s.pfailUsed p.1
      let seq := (s.flt.pfails.head?.map fun (e : Nat × Nat) => e.1 + 1).getD 1
      let i := (seq - 1) % 32
      if used.contains i then s
      else
        let s1 := s.setBytes (p.1 + 4096 * i) (s.pfailRecord seq)
        let s2 := if i % 16 = 15 then let o := p.1 + 0x10000 * (1 - i / 16); (s1.clearMem o (o + 0x10000)).flashErased 1 else s1
        let s3 := s2.modFlt fun (f : Flt) => { f with pfails := (seq, s.now) :: f.pfails.take 31 }
        (s3.wr F.ROL_STATUS_pfail_free (32 - (s3.pfailUsed p.1).length)).raise 0x0B0 3)

/-- Copy `n` bytes from `a` to `b`, by the cells that differ from an unwritten byte. -/
def State.copySpan (s : State) (a b n : Nat) : State :=
  let cells := s.mem.filter fun (c : Host.Cell) => decide (a ≤ c.1) && decide (c.1 < a + n)
  cells.foldl (fun (t : State) (c : Host.Cell) => t.setByte (b + (c.1 - a)) c.2) (s.clearMem b (b + n))

/-- PFAIL_COPY (R535): the 128 KiB area goes to the Cellar; the reply carries the seq of the latest record. -/
def execPfailCopy (header : DWord) (lo hi : Word) (s : State) : Host.Outcome State Fault Refusal :=
  let b := lo.toNat + hi.toNat * 2 ^ 32
  .next (match s.flashPart 5 with
    | none => s.reply header.toNat 4 [0x11]
    | some p => if !s.inCellar b 0x20000 then s.reply header.toNat 3 [0]
        else (s.copySpan p.1 b 0x20000).reply header.toNat 0 [(s.flt.pfails.head?.map fun (e : Nat × Nat) => e.1).getD 0])

/-! ### Watchdogs (R521) -/

/-- WDOG_KICK (R521): the Reeve's key restarts the interval and, at the first after a start, the watchdog; anything else
is ignored and counted. -/
def State.wdogKick (s : State) (ini : Initiator) (v : Nat) : State :=
  if ini = .reeve ∧ v % 65536 = 0x5744 then s.modFlt fun (f : Flt) => { f with wdogArmed := true }
  else s.captureErr 0x0B1 ini.port true 0x8 (pageAddr 0x0B1 0x058)

def execWdogKick (ini : Initiator) (value : Word) (s : State) : Host.Outcome State Fault Refusal := .next (if s.portShut ini then s else s.wdogKick ini value.toNat)

/-- A master port is quarantined by the reset of its master (R429). -/
def State.masterReset (s : State) (ini : Initiator) : State :=
  let bit := (F.FAB_QUAR_ports).part ini.port 1
  if s.on bit then s
  else
    let mine (r : FabReq) : Bool := r.ini == ini
    let s1 := s.modFab fun (f : Fab) => { f with held := f.held.filter fun (r : FabReq) => !mine r }
    let s2 := (s1.wr bit 1).raise 0x008 0
    if s2.fab.outstanding.any mine ∨ s2.memx.holdWait.any (fun (w : HoldWait) => w.ini == ini && decide (w.chan < 100)) then s2 else (s2.wr bit 0).raise 0x008 1

/-- REEVE_WDOG_EXPIRY (R521, R522 step 3): an interval without a kick raises REEVE_WDOG; the Reeve alone is reset and its
sections reloaded. -/
def execReeveWdogExpiry (s : State) : Host.Outcome State Fault Refusal :=
  .next (if !s.flt.wdogArmed then s
    else
      let s1 := (s.modFlt fun (f : Flt) => { f with wdogArmed := false }).raiseFault 0x0D false
      ((s1.wr F.RST_CAUSE_last_partial 5).bump F.RST_COUNTS_partial))

/-- CARTER_TIMEOUT (R521): a Carter that misses its kick raises CARTER; it is reloaded and restarted, its master reset. -/
def execCarterTimeout (carter : Nat) (s : State) : Host.Outcome State Fault Refusal :=
  .next (if 2 ≤ carter then s
    else ((s.raiseFault 0x09 true carter).bump F.RST_COUNTS_partial).masterReset (if carter = 0 then .carter0 else .carter1))

/-- FW_FATAL (R511). -/
def execFwFatal (s : State) : Host.Outcome State Fault Refusal := .next (s.raiseFault 0x0E false)

/-! ### Dumps (R522, R533–R535) -/

/-- One page as section 1 holds it: through the set-bits alias, then the live view; zeros while its domain is off. -/
def State.dumpPage (s : State) (p : Nat) : List Byte :=
  if !s.pageOn p then leBytes 2048 0
  else
    ((List.range 256).flatMap fun (i : Nat) => leBytes 4 (if plainOnly p (4 * i) then 0 else s.plainValue .reeve p (4 * i))) ++
    ((List.range 256).flatMap fun (i : Nat) => leBytes 4 (s.liveValue .reeve p (4 * i)))

/-- The selections of MIL_DBG_SEL that name a register, in order: register, lane, part. -/
def dbgSelections : List (Nat × Nat × Nat) :=
  ((List.range 0x20).flatMap fun (r : Nat) => (List.range 8).map fun (l : Nat) => (r, l, 0)) ++
  ((List.range 8).flatMap fun (r : Nat) => (List.range 8).flatMap fun (l : Nat) => [(0x20 + r, l, 0), (0x20 + r, l, 1), (0x20 + r, l, 2)]) ++
  ((List.range 0x42).map fun (r : Nat) => (0x30 + r, 0, 0))

/-- One Mill in section 2. -/
def State.dumpMill (s : State) (n : Nat) : List Byte :=
  let words := dbgSelections.map fun (x : Nat × Nat × Nat) =>
    (((s.wr F.MIL_DBG_SEL_reg x.1 n).wr F.MIL_DBG_SEL_lane x.2.1 n).wr F.MIL_DBG_SEL_part x.2.2 n).millDbgData n
  let bs := words.flatMap fun (w : Nat) => leBytes 4 w
  bs ++ leBytes (4096 - bs.length) 0

/-- One queue in section 3. -/
def State.dumpQueue (s : State) (q : Nat) : List Byte :=
  let es := s.queue q
  leBytes 4 (s.view .reeve (quePage q) (0x300 + 4 * (q % 64))) ++ leBytes 4 0 ++
    (List.range 128).flatMap fun (i : Nat) => leBytes 8 (es.getD i nvEntry).toNat

/-- Bytes of the control cores' data memories, which the model does not hold: free values. -/
def State.coreBytes (s : State) : List Byte := (List.range 0xC0000).map fun (i : Nat) => (Config.freeValue (s.free + i)).setWidth 8

/-- The sections of a dump: type, length, source address. -/
def dumpSections (flash : Bool) : List (Nat × Nat × Nat) :=
  [(1, 0x2D800, 0x10000000), (2, 0x10000, 0), (3, 0x40800, 0x10018000), (4, 0x27000, 0), (5, 0xC0000, 0)] ++
  (if flash then [] else [(6, 0x1000000, 0x08000000), (7, 0x2000000, 0x01000000)])

/-- Write a dump at `base`: header, sections, CRC (R533). -/
def State.writeDump (s : State) (base : Nat) (flash : Bool) : State :=
  let secs := dumpSections flash
  let size := secs.foldl (fun (a : Nat) (x : Nat × Nat × Nat) => a + x.2.1) 256
  let id := s.flt.fatalId
  let ns := s.flt.entry.2
  let table := (secs.foldl (fun (a : Nat × List Byte) (x : Nat × Nat × Nat) =>
    (a.1 + x.2.1, a.2 ++ leBytes 4 x.1 ++ leBytes 4 a.1 ++ leBytes 4 x.2.1 ++ leBytes 4 x.2.2)) (256, ([] : List Byte))).2
  let head := leBytes 4 0x50445A53 ++ leBytes 2 1 ++ leBytes 2 secs.length ++ leBytes 4 size ++ leBytes 4 0 ++ leBytes 1 id ++
    leBytes 1 (faultClass id) ++ leBytes 2 0 ++ leBytes 4 (s.rd F.SYS_FW_VER_version) ++ leBytes 8 s.flt.entry.1 ++ leBytes 4 (secOf ns) ++
    leBytes 4 (nsOf ns) ++ leBytes 16 s.unitId ++ leBytes 8 (s.rd F.SYS_BOOT_slot) ++ table
  let front := head ++ leBytes (256 - head.length) 0 ++ (allPages.flatMap fun (p : Nat) => s.dumpPage p) ++
    ((List.range 16).flatMap fun (n : Nat) => s.dumpMill n) ++ ((List.range 256).flatMap fun (q : Nat) => s.dumpQueue q) ++
    s.rollImage s.flt.copySeq false ++ s.coreBytes
  let s1 := (s.setBytes base front).useFree 0xC0000
  let s2 := if flash then s1
    else (s1.copySpan 0x08000000 (base + front.length) 0x1000000).copySpan 0x01000000 (base + front.length + 0x1000000) 0x2000000
  s2.store (base + 0xC) 4 (crc32 (s2.bytes base size))

/-- The fault that started the fatal sequence, as a dump records it: ID, class, ESI at A_f, size. -/
def State.dumpFacts (s : State) (flash : Bool) : Nat × Nat × Nat × Nat :=
  let id := s.flt.fatalId
  (id, faultClass id, s.flt.entry.1, (dumpSections flash).foldl (fun (a : Nat) (x : Nat × Nat × Nat) => a + x.2.1) 256)

/-- DUMP_DONE (R522 step 4): after the dump halt, where the engine runs, the Reeve has written the Cellar dump. -/
def execDumpDone (s : State) : Host.Outcome State Fault Refusal :=
  .next (if !s.on F.FLT_STATE_fatal ∨ s.on F.FLT_STATE_dump_done ∨ (s.running ∧ !s.on F.FLT_STATE_dump_halt) then s
    else
      let s1 := (s.writeDump (s.cellarEnd - 0x4000000 + 0x400000) false).modFlt fun (f : Flt) => { f with cellarDump := some (s.dumpFacts false) }
      (s1.wr F.FLT_STATE_dump_done 1).raise 0x0B1 4)

/-- The flash dump is written where the area is erased; else the skip is recorded (R522 step 5, R534). -/
def State.flashDumpWrite (s : State) (flashOk : Bool) : State :=
  match s.flashPart 5, s.flt.flashDump with
  | some p, none =>
    if flashOk then (s.writeDump (p.1 + 0xA0000) true).modFlt fun (f : Flt) => { f with flashDump := some (s.dumpFacts true) }
    else s.flashFailed
  | _, _ => s.rollFw 7 s.flt.fatalId

/-- DUMP_INFO (R535). -/
def execDumpInfo (header : DWord) (s : State) : Host.Outcome State Fault Refusal :=
  let f := s.flt
  let d := (if f.cellarDump.isSome then f.cellarDump else f.flashDump).getD (0, 0, 0, 0)
  .next (s.reply header.toNat 0 [b2n f.cellarDump.isSome + 2 * b2n f.flashDump.isSome, d.2.2.2, d.1 + 256 * d.2.1, d.2.2.1 % 2 ^ 32])

/-- DUMP_COPY (R535). -/
def execDumpCopy (header : DWord) (lo hi : Word) (s : State) : Host.Outcome State Fault Refusal :=
  let b := lo.toNat + hi.toNat * 2 ^ 32
  .next (match s.flashPart 5, s.flt.flashDump with
    | some p, some d => if !s.inCellar b d.2.2.2 then s.reply header.toNat 3 [0]
        else (s.copySpan (p.1 + 0xA0000) b d.2.2.2).reply header.toNat 0 [0]
    | _, _ => s.reply header.toNat 4 [0x10])

/-- DUMP_CLEAR (R535): the flash area is erased and the Cellar dump's magic cleared. -/
def execDumpClear (header : DWord) (flashOk : Bool) (s : State) : Host.Outcome State Fault Refusal :=
  .next (match s.flashPart 5 with
    | none => s.reply header.toNat 4 [0x11]
    | some p =>
      if !flashOk then s.flashFailed.reply header.toNat 4 [0x11]
      else
        let s1 := (s.clearMem (p.1 + 0xA0000) (p.1 + 0x2A0000)).flashErased 32
        let s2 := if s1.flt.cellarDump.isSome then s1.store (s.cellarEnd - 0x4000000 + 0x400000) 4 0 else s1
        (s2.modFlt fun (f : Flt) => { f with cellarDump := none, flashDump := none }).reply header.toNat 0 [0])

end Sys2Proof.Machine
end

