-- ==== Sys2Proof/Machine/Boot.lean ====
section
/-! DEFINITION. Firmware images and their checks (R481–R483), the start from a reset (R484–R491), and cold and warm resets
(R546–R548). -/
namespace Sys2Proof.Machine

/-! ### Firmware images (R481, R482) -/

/-- Sections of an image: type, length, offset. -/
def imageSections (c : List Byte) : List (Nat × Nat × Nat) :=
  (List.range (leAt c 0x15 1)).map fun (i : Nat) => (leAt c (0x90 + 16 * i) 4, leAt c (0x94 + 16 * i) 4, leAt c (0x98 + 16 * i) 4)

/-- The key slots that an image's revocation list names (R498). -/
def imageRevokes (c : List Byte) : Nat :=
  match (imageSections c).find? fun (x : Nat × Nat × Nat) => x.1 == 5 with
  | some x => leAt c x.2.2 1 % 16
  | none => 0

/-- The facts of an image. -/
def imageOf (c : List Byte) : Image :=
  { version := leAt c 8 4, secVer := leAt c 0xC 1, schema := leAt c 0xD 1, hoVer := leAt c 0xE 1, hoMin := leAt c 0xF 1,
    pairLo := leAt c 0x10 2, pairHi := leAt c 0x12 2, keySlot := leAt c 0x14 1, revokes := imageRevokes c }

/-- A section breaks R481, R482 check 1 or the form of R498. -/
def badSection (c : List Byte) (x : Nat × Nat × Nat) : Bool :=
  decide (c.length < x.2.2 + x.2.1) ||
  ((x.1 == 1 || x.1 == 3) && decide (0x40000 < x.2.1)) || ((x.1 == 2 || x.1 == 4) && decide (0x20000 < x.2.1)) ||
  (x.1 == 5 && !(x.2.1 == 4 && decide (leAt c x.2.2 4 < 16)))

/-- The first check of R482 that an image fails, 1–6; 0 where it is valid. `size` is the slot's recorded size. -/
def State.imageCheck (s : State) (c : List Byte) (size : Nat) : Nat :=
  let n := leAt c 0x15 1
  let secs := imageSections c
  let key := (c.drop 0x2C).take 97
  let unit := leAt c 0x1C 16
  let life := s.rd F.SYS_LC_state
  if !(leAt c 0 4 == 0x4D524946 && leAt c 4 2 == 1 && leAt c 0x18 4 == size && c.length == size && decide (size ≤ 0x1000000) &&
       decide (1 ≤ n) && decide (n ≤ 8) && decide (0x90 + 16 * n + 96 ≤ size)) ||
     secs.any (badSection c) || decide (1 < (secs.filter fun (x : Nat × Nat × Nat) => x.1 == 5).length) then 1
  else if leAt c 6 2 ≠ 0x4096 then 2
  else if !(decide (leAt c 0x14 1 < 4) && bitAt (s.rd F.FUS_KEYS_programmed) (leAt c 0x14 1) && !bitAt (s.rd F.FUS_KEYS_revoked) (leAt c 0x14 1) &&
       assoc? s.boot.keys (leAt c 0x14 1) == some (sha384 key)) then 3
  else if !ecVerify key (sha384 (c.take (size - 96))) (ofBe ((c.drop (size - 96)).take 48)) (ofBe ((c.drop (size - 48)).take 48)) then 4
  else if !(unit == s.unitId && unit != 0) && !(unit == 0 && life != 0 && life != 3) then 5
  else if leAt c 0xC 1 < s.rd F.FUS_ARB_counter then 6
  else 0

/-- The image in slot `i`, from the second sector of its partition on (R501). -/
def State.slotImage (s : State) (i : Nat) : Option (List Byte) :=
  (s.flashPart (1 + i)).map fun (p : Nat × Nat) => s.bytes (p.1 + 0x10000) (s.bootSlot i).size

/-- Slot `i` holds an image that the boot ROM can start: valid, in a life-cycle state that boots images (R482, R496). -/
def State.startable (s : State) (i : Nat) : Bool :=
  match s.slotImage i with
  | some c => s.imageCheck c (s.bootSlot i).size == 0 && s.rd F.SYS_LC_state != 4
  | none => false

/-! ### The download in progress (R501) -/

/-- The slot that is LOADING. -/
def State.loadingSlot (s : State) : Option Nat :=
  if s.boot.slot0.state = 1 then some 0 else if s.boot.slot1.state = 1 then some 1 else none

/-- Blocks of an image of a size. -/
def blocksOf (size : Nat) : Nat := (size + 0xFFFF) / 0x10000

/-- The next unwritten block of slot `i`: the first without a valid progress entry. -/
def State.nextBlockOf (s : State) (i : Nat) : Nat :=
  let total := blocksOf (s.bootSlot i).size
  match s.flashPart (1 + i) with
  | none => 0
  | some p => ((List.range total).find? fun (n : Nat) =>
      !(s.load (p.1 + 8 * n) 4 == n && s.load (p.1 + 8 * n + 4) 4 == crc32 (s.bytes (p.1 + 0x10000 * (n + 1)) 0x10000))).getD total

/-- UPD_PROGRESS shows the download. -/
def State.showProgress (s : State) : State :=
  match s.loadingSlot with
  | some i => (s.wr F.UPD_PROGRESS_next (s.nextBlockOf i)).wr F.UPD_PROGRESS_total (blocksOf (s.bootSlot i).size)
  | none => s

/-! ### Settings at a start (R490, R491) -/

/-- Settings of another schema keep their device records only (R491). -/
def State.checkSchema (s : State) (schema : Nat) : State :=
  let x := s.boot.settings
  let held : Bool := match s.flashPart 3 with | some p => (s.currentSettings p.1).isSome | none => false
  let s1 := if held && x.schema != schema then
      (((s.saveSettings { x with mode := none, presets := [], schema := schema }).wr F.UPD_SCHEMA_reset 1).raise 0x0D0 4).rollFw 4 schema
    else s.modBoot fun (b : Boot) => { b with settings := { x with schema := schema } }
  s1.wr F.UPD_SCHEMA_schema schema

/-- Pages that take register presets (R490). -/
def presetPage (p : Nat) : Bool :=
  p == 0x060 || p == 0x061 || p == 0x065 || (0x070 ≤ p && p ≤ 0x074) || p == 0x078 || p == 0x0A0 || p == 0x0A1 || p == 0x0C2 ||
  p == 0x0C9 || p == 0x0CA || p == 0x0CB

/-- The Reeve's write of `v` at offset `x` of a preset page through its plain view: the header's registers and those that act
have their effect (R323, R350, R361, R464, R465, R467, R473); row `r` stores the rest. -/
def State.presetWrite (s : State) (p x v : Nat) (r : RegRow) : State :=
  if x = 0x010 then s.clearRaw p (v &&& irqBits p)
  else if x = 0x01C then s.testIrq p v
  else if x = 0x030 then if v = 1 then s.applyTake p else if v = 2 then s.applyDiscard p else s
  else if x = 0x03C then if bitsOf v 16 16 = 0x4C4B then s.wr F.LOCK_locked (v % 2) p else s
  else if p = 0x072 ∧ x = 0x064 then s.outAlign v
  else if p = 0x0A0 ∧ x = 0x074 then s.nbrCtrl v
  else
    let t := (s.storeBits p x (r.rw ||| r.rws) v).clearW1c p x v
    if x = 0x014 then State.settleVectors t s [bitsOf (t.routeWord p) 0 8]
    else if p = 0x0C2 ∧ 0x080 ≤ x then State.settleVectors t s (List.range 256) else t

/-- One preset written through the plain view, or skipped and recorded in the Roll. -/
def State.preset (s : State) (e : Nat × Nat × Word) : State :=
  match presetPage e.1, pageRow e.1 e.2.1 with
  | true, some r => s.presetWrite e.1 e.2.1 e.2.2.toNat r
  | true, none => s
  | false, _ => s.rollFw 5 (e.1 * 0x1000 + e.2.1) e.2.2.toNat

/-- The Reeve loads the settings: device records, SYS_MODE, presets, each staged page with an APPLY (R490, R316, R396). -/
def State.loadSettings (s : State) (schema : Nat) : State :=
  let s1 := s.readSettings.checkSchema schema
  let x := s1.boot.settings
  let dac (t : State) (ch : Nat) (v : Option Nat) : State := match v with | some a => t.wr F.DAC_PRESET_preset a 0 ch | none => t
  let s2 := (dac (dac s1 0 x.avg48) 1 x.avg44).modMemx fun (m : Memx) => { m with spares := x.spares }
  let s3 := x.spares.foldl (fun (t : State) (r : Nat) =>
    let b := r / 1024
    t.wr (F.GRN_SPARES_used.part (b % 8) 4) (t.sparesUsed b + 1) 0 (b / 8)) s2
  let s4 := match x.mode with | some m => s3.setReg 0x60 (m &&& 0x13F) | none => s3
  let s5 := x.presets.foldl State.preset s4
  let pages := ((x.presets.map fun (e : Nat × Nat × Word) => e.1).filter fun (p : Nat) => presetPage p && hasStaged p).eraseDups
  ((pages.foldl State.applyTake s5).showStp).gpioDrives

/-! ### The start (R484–R487) -/

/-- A start that fails after step 6: BOOT is raised and the stage names the step (R487). -/
def State.startFails (s : State) (step : Nat) : State := (s.wr F.SYS_BOOT_stage step).raiseFault 0x05 true

/-- Steps 6 to 8: the Reeve starts image `c` of slot `i`, powers every domain, starts training, and loads the settings and
the identity record (R484). A TRIAL slot opens its confirm window (R503); an image of recovery runs from no slot (R486). -/
def State.reeveStarts (s : State) (c : List Byte) (i : Nat) : State :=
  let im := imageOf c
  let trial := (s.bootSlot i).state == 3 && !s.on F.SYS_BOOT_recovery
  let s1 := s.modBoot fun (b : Boot) =>
    { b with running := some im, previous := none,
             confirmEnd := if trial then some (s.tbNs + s.rd F.UPD_CONFIRM_CFG_window_s * 1000000000) else none }
  let s2 := (((s1.wr F.SYS_FW_VER_version im.version).wr F.SYS_BOOT_slot i).wr F.PWR_STATE_on 0xFFFF).wr F.CET_STATUS_step 1
  let s3 := ((s2.wr F.SYS_BOOT_stage 8).loadSettings im.schema).identity.loadMacs
  s3.showFaultN.showProgress

/-- No image can be started: recovery, with the latest step of R484 that was reached (R486, R510). -/
def State.enterRecovery (s : State) (step : Nat) : State := ((s.wr F.SYS_BOOT_recovery 1).wr F.SYS_BOOT_stage step).raiseFault 0x05 true

/-- The slot in TRIAL. -/
def State.trialSlot (s : State) : Option Nat :=
  if s.boot.slot0.state = 3 then some 0 else if s.boot.slot1.state = 3 then some 1 else none

/-- The slot in CONFIRMED. -/
def State.confirmedSlot (s : State) : Option Nat :=
  if s.boot.slot0.state = 4 then some 0 else if s.boot.slot1.state = 4 then some 1 else none

/-- A TRIAL slot falls back: REJECTED (R485, R500, R503). -/
def State.rejectTrial (s : State) (i : Nat) : State := (s.putSlot i { s.bootSlot i with state := 5 }).raise 0x0D0 3

/-- The boot ROM counts or rejects a trial and names the slot to start (R485). -/
def State.chooseSlot (s : State) : Option Nat × State :=
  let s1 := if s.boot.expiry then
      (match s.trialSlot with | some i => s.rejectTrial i | none => s).modBoot fun (b : Boot) => { b with expiry := false }
    else s
  match s1.trialSlot with
  | some i =>
    let x := s1.bootSlot i
    if x.trials < 2 then (some i, s1.putSlot i { x with trials := x.trials + 1 })
    else let t := s1.rejectTrial i; (t.confirmedSlot, t)
  | none => (s1.confirmedSlot, s1)

/-- The image to start: the chosen slot's, or the other slot's where that one is passed over (R485). -/
def State.pickImage (s : State) (chosen : Option Nat) : Option Nat :=
  match chosen with
  | none => none
  | some i =>
    let o := 1 - i
    let st := (s.bootSlot o).state
    if s.startable i then some i else if 2 ≤ st ∧ st ≤ 4 ∧ s.startable o then some o else none

/-- The flash mode, and the subsystem IDs of a valid header (R478, R479, R484 steps 2 and 3). -/
def State.readHeader (s : State) : State :=
  if s.flashHeader then
    (((s.wr F.QSP_CFG_mode (s.load 0x20000006 1)).wr F.QSP_CFG_clock (s.load 0x20000007 1)).wr F.QSP_CFG_size (s.load 0x20000008 4 / 0x100000)).modHost
      fun (h : HostIf) => { h with subsystem := s.load 0x2000000C 4 }
  else s

/-- The Roll's and the dump's facts that flash keeps (R531, R532). -/
def State.showFlashRoll (s : State) : State :=
  match s.flashPart 5 with
  | none => s
  | some p => (s.wr F.ROL_COPY_SEQ_value s.flt.copySeq).wr F.ROL_STATUS_pfail_free (32 - (s.pfailUsed p.1).length)

/-- The start from step 2 on, to the Reeve's wait for training (R484), or recovery. Every PLL but the PCIe one has locked
(log entry 42). -/
def State.startFrom2 (s : State) : State :=
  let s1 := ((s.wr F.PWR_STATE_on 0x8820).wr F.CLK_STATUS_locked 0x3DF).readHeader.showFlashRoll
  if !s1.flashHeader then s1.enterRecovery 2
  else
    let r := (s1.wr F.SYS_BOOT_stage 4).readRecords.chooseSlot
    match r.2.pickImage r.1 with
    | none => r.2.enterRecovery (if r.1.isSome then 5 else 4)
    | some i => r.2.reeveStarts ((r.2.slotImage i).getD []) i

/-! ### Resets (R546–R548) -/

/-- Memory that a reset keeps: the flash and the Strongroom (R546). -/
def keptCell (a : Nat) : Bool := (0x20000000 ≤ a && a < 0x40000000) || (strBase ≤ a && a < strEnd)

/-- What outlives any reset: non-volatile storage, fuses and the model's own fields. -/
def State.resetBase (s : State) (keep : Nat → Bool) : State :=
  { State.reset with
    regs := s.regs.filter fun (e : Nat × Word) => keep e.1,
    live := s.live.filter fun (e : Nat × Word) => keep e.1,
    mem := s.mem.filter fun (c : Host.Cell) => keptCell c.1,
    boot := { State.reset.boot with keys := s.boot.keys, stored := s.boot.stored, settings := s.boot.settings, unitKey := s.boot.unitKey },
    flt := { State.reset.flt with copySeq := s.flt.copySeq, pfails := s.flt.pfails, flashDump := s.flt.flashDump },
    resp := s.resp, out := s.out, free := s.free, pending := s.pending }

/-- The identity and fuse registers (R510). -/
def fuseReg (k : Nat) : Bool := (0x40 ≤ k && k ≤ 0x54) || (0xD1040 ≤ k && k ≤ 0xD104C)

/-- RESET_RELEASE (R546, R399, R484): RESET_N rises; a tamper input held low wipes the Strongroom before the boot ROM reads
it, and the start runs. -/
def execResetRelease (tamper0 tamper1 : Bool) (s : State) : Host.Outcome State Fault Refusal :=
  let s1 := ((s.resetBase fuseReg).wr F.FUS_STATUS_sensed 1).wr F.SYS_BOOT_stage 1
  let s2 := (s1.wr F.STR_STATUS_tamper0 (b2n tamper0)).wr F.STR_STATUS_tamper1 (b2n tamper1)
  let pin := if tamper0 then 0 else 1
  .next ((s2.when (tamper0 || tamper1) fun (t : State) => (t.wipeEnd pin).raiseFault 0x0C false pin).startFrom2)

/-- The registers of the always-on domain (R540). -/
def alwaysOn (k : Nat) : Bool := (pageDomain (k / 0x1000)).isNone

/-- A warm chip reset up to its release (R547, R548): the always-on domain survives but for its pending sets, the Fatal
latches and what the start sets anew. -/
def State.warmClear (s : State) (cause : Nat) : State :=
  let s0 := s.pend.foldl (fun (t : State) (p : PendSet) => t.endPend p.page 0x04) s
  let b := s0.resetBase alwaysOn
  let s1 : State := { b with
    stp := { b.stp with tb := s.stp.tb }, memx := { b.memx with wiping := s.memx.wiping },
    boot := { b.boot with expiry := s.boot.expiry },
    flt := { b.flt with escalated := s.flt.escalated, pfailLow := s.flt.pfailLow, windows := s.flt.windows } }
  let s2 := [0x40, 0x44, 0x48].foldl (fun (t : State) (x : Nat) => t.setReg (0x1000 + x) (regReset (0x1000 + x))) s1
  let s3 := [0x58, 0x5C, 0x60, 0x64].foldl (fun (t : State) (k : Nat) => (t.setReg k (regReset k)).setLive k (regReset k)) (s2.setLive 0x1040 (regReset 0x1040))
  let s4 := [13, 14].foldl (fun (t : State) (i : Nat) => t.wr (F.FLT_LATCH_bits.part i 1) 0) s3
  let s5 := [3, 4, 6, 8, 9].foldl (fun (t : State) (i : Nat) => t.wr (F.FLT_ACTIVE_bits.part i 1) 0) s4
  let held := s5.unsafeLatched
  let s6 := ((((s5.wr F.FLT_STATE_failsafe (b2n held)).wr F.FLT_STATE_phase (if held then 2 else 0)).wr F.FLT_STATE_fatal 0).wr
    F.FLT_STATE_dump_halt 0).wr F.FLT_STATE_dump_done 0
  let s7 := if held then s6.modModes fun (m : Modes) => { m with fsFade := GainRun.rest 0 } else s6
  (((s7.wr F.RST_CAUSE_last cause).wr F.RST_CAUSE_last_partial 0).bump F.RST_COUNTS_warm).showFaultN

/-- A warm chip reset; one requested while another is in progress has no effect (R547, R548). -/
def State.warmReset (s : State) (cause : Nat) : State :=
  if s.boot.heldReset then s else (s.warmClear cause).startFrom2

/-- WARM_RESET (R547): a warm reset of cause 0x1–0x4. -/
def execWarmReset (cause : Nat) (s : State) : Host.Outcome State Fault Refusal :=
  .next (if 1 ≤ cause ∧ cause ≤ 4 then s.warmReset cause else s)

/-- UPD_RECOVER (R486): in recovery the image in the Granary is checked and started; the flash is not written. -/
def State.recoverImage (s : State) (size : Nat) : State :=
  let c := s.bytes 0x01000000 size
  if s.on F.SYS_BOOT_recovery ∧ s.boot.running.isNone ∧ s.rd F.SYS_LC_state ≠ 4 ∧ s.imageCheck c size = 0 then s.reeveStarts c 0 else s

def execUpdRecover (value : Word) (s : State) : Host.Outcome State Fault Refusal := .next (s.recoverImage (bitsOf value.toNat 0 25))

/-! ### The end of a start (R408, R484 steps 9–11) -/

/-- The Reeve fills the hold from the store, reads and checks the configuration for the rate in SYS_MODE, and starts the engine
(R484 steps 9–11, R487, R494). -/
def State.startConfig (s : State) : State :=
  let m := s.reg 0x60
  let s1 := s.modBoot fun (b : Boot) => { b with held := b.stored.filter fun (e : Nat × List Byte) => s.cfgCheck e.2 == 0 }
  match assoc? s.boot.stored (modeKey m.toNat) with
  | none => s1.startFails 9
  | some c =>
    if s.cfgCheck c ≠ 0 then (s1.loadRefused c).startFails 9
    else ((s1.wr F.SYS_BOOT_stage 10).setLive 0x60 (m &&& 0x3F)).startEngine m.toNat false none c

/-- TRAINING_COMPLETE (R408, R400, R484 step 9, R530): training succeeds with the installed size in units of 512 MiB, or
fails at a step of a channel; a start in progress goes on. -/
def execTrainingComplete (ok : Bool) (channel step ms size : Nat) (s : State) : Host.Outcome State Fault Refusal :=
  let starting : Bool := s.rd F.SYS_BOOT_stage == 8
  let s0 := s.wr F.CET_TIME_ms (min ms 0xFFFF)
  .next (if !s.domainOn 7 then s
    else if ok then
      let s1 := ((s0.wr F.CET_STATUS_trained 1).wr F.CET_STATUS_failed 0).wr F.CET_STATUS_step 0
      let s2 := (((s1.wr F.CEL_SIZE_size size).wr F.CEL_SIZE_channels 15).raise 0x02A 0).startMirror
      if starting ∧ !s2.unconfirmed then (s2.wr F.SYS_BOOT_stage 9).startConfig else s2
    else
      let s1 := (((s0.wr F.CET_STATUS_trained 0).wr F.CET_STATUS_failed 1).wr F.CET_STATUS_step step).wr F.CET_STATUS_channel channel
      let s2 := s1.raise 0x02A 1
      if starting then s2.startFails 9 else s2)

end Sys2Proof.Machine
end

