-- ==== Sys2Proof/Machine/Update.lean ====
section
/-! DEFINITION. The commands of subsystem 0x01 (R508, R509): configurations, field update, settings, life cycle, keys and
licences, with confirmation, fallback and handover (R500–R507). -/
namespace Sys2Proof.Machine

/-- A fabric address given as two words. -/
def addrOf (lo hi : Word) : Nat := lo.toNat + hi.toNat * 2 ^ 32

/-- A refused command (R509). -/
def State.refuse (s : State) (h code : Nat) : State := s.reply h 4 [code]

/-- The outcome of an update command: UPD_RESULT takes its code, 0 for accepted (R509). -/
def State.updRefuse (s : State) (h code : Nat) : State := (s.wr F.UPD_RESULT_value code).refuse h code
def State.updOk (s : State) (h : Nat) (ws : List Nat) : State := (s.wr F.UPD_RESULT_value 0).reply h 0 ws

/-- A flash operation that failed: counted, and refused with FLASH. -/
def State.updFlash (s : State) (h : Nat) : State := s.flashFailed.updRefuse h 0x14

/-! ### Configurations (R494, R495, R508) -/

/-- The 32 bytes of a digest. -/
def digestBytes (d : Nat) : List Byte := beBytes 32 d

/-- Word `i` of a digest, its bytes in order, the first lowest (log entry 43). -/
def digestWord (d i : Nat) : Nat := ofLe (((digestBytes d).drop (4 * i)).take 4)

/-- CFG_LOAD (R495, R508): a container in the Cellar that keeps every rule is held for its rate. At an address outside the Cellar
there is none: its header is wrong. -/
def execCfgLoad (header : DWord) (lo hi : Word) (s : State) : Host.Outcome State Fault Refusal :=
  let a := addrOf lo hi
  let size := s.load (a + 8) 4
  let c := if 40 * 2 ^ 20 < size ∨ !s.inCellar a (max 64 size) then [] else s.bytes a size
  let rule := s.cfgCheck c
  .next (if rule ≠ 0 then (s.loadRefused c).reply header.toNat 4 [0x30, rule]
    else (s.modBoot fun (b : Boot) => { b with held := assocPut b.held (cfgKey c) c }).reply header.toNat 0
      ((List.range 8).map fun (i : Nat) => digestWord (sha256 c) i))

/-- Bytes that the configuration store would hold with `c` under `key`. -/
def storeSize (stored : List (Nat × List Byte)) : Nat := stored.foldl (fun (a : Nat) (e : Nat × List Byte) => a + e.2.length) 0

/-- CFG_SAVE (R494, R508): the held configuration of a rate goes to the store. Without one, the command is refused with the
code that SYS APPLY_RESULT gives a rate without configuration (log entry 44). -/
def execCfgSave (header : DWord) (rate : Word) (flashOk : Bool) (s : State) : Host.Outcome State Fault Refusal :=
  let key := bitsOf rate.toNat 0 3
  .next (match s.heldCfg key, s.flashPart 4 with
    | none, _ => s.refuse header.toNat 0x11
    | some _, none => s.refuse header.toNat 0x14
    | some c, some p =>
      let stored := assocPut s.boot.stored key c
      if p.2 < storeSize stored then s.refuse header.toNat 0x12
      else if !flashOk then s.flashFailed.refuse header.toNat 0x14
      else (s.modBoot fun (b : Boot) => { b with stored := stored }).reply header.toNat 0 [0])

/-- CFG_START (R384, R508): a restart with the held configuration of the running rate at the boundary of APPLY_AT, or the
engine start from stopped. -/
def execCfgStart (header : DWord) (force : Bool) (applyAt : Word) (s : State) : Host.Outcome State Fault Refusal :=
  let stopped : Bool := !s.running && s.rd F.SYS_MODE_STATE_phase == 5
  .next (match s.startCfg s.rateKey with
    | none => s.refuse header.toNat 0x11
    | some c =>
      if stopped then
        if applyAt ≠ 0 then s.refuse header.toNat 0x0E else s.startEngine (bitsOf (s.reg 0x64).toNat 0 6) false (some header.toNat) c
      else if s.rd F.SYS_MODE_STATE_service = 0 ∧ !force then s.refuse header.toNat 0x12
      else if s.restarting then s.refuse header.toNat 0x14
      else if s.role = 2 then s.refuse header.toNat 0x15
      else if s.modes.start.isSome then s.refuse header.toNat 0x0F
      else
        let b := s.pickBoundary applyAt.toNat
        s.modModes fun (m : Modes) => { m with start := some ⟨b.1, b.2, force, header.toNat⟩ })

/-- CFG_LIST (R508): one word for each of the six rates, in the order of their codes. -/
def execCfgList (header : DWord) (s : State) : Host.Outcome State Fault Refusal :=
  let word (key : Nat) : Nat :=
    let d := match s.heldCfg key, assoc? s.boot.stored key with
      | some c, _ => digestWord (sha256 c) 0
      | none, some c => digestWord (sha256 c) 0
      | none, none => 0
    b2n (s.heldCfg key).isSome + 2 * b2n (assoc? s.boot.stored key).isSome + d % 2 ^ 24 * 2 ^ 8
  .next (s.reply header.toNat 0 ((List.range 6).map word))

/-! ### Download and verification (R500–R502) -/

/-- The slot that does not run. -/
def State.idleSlot (s : State) : Nat := 1 - s.rd F.SYS_BOOT_slot

/-- UPD_BEGIN (R500, R501): a download into the idle slot starts, or resumes where its size matches. -/
def execUpdBegin (header : DWord) (size : Word) (flashOk : Bool) (s : State) : Host.Outcome State Fault Refusal :=
  let h := header.toNat
  let i := s.idleSlot
  let x := s.bootSlot i
  .next (match s.flashPart (1 + i) with
    | none => s.updRefuse h 0x14
    | some p =>
      if s.trialSlot.isSome then s.updRefuse h 0x10
      else if x.state = 4 ∨ (x.state = 1 ∧ x.size ≠ size.toNat) then s.updRefuse h 0x11
      else if x.state = 1 then s.showProgress.updOk h [i, s.nextBlockOf i]
      else if p.2 < size.toNat + 0x10000 then s.updRefuse h 0x12
      else if !flashOk then s.updFlash h
      else
        let s1 := s.putSlot i { Slot.empty with state := 1, size := size.toNat }
        let s2 := ((s1.clearMem p.1 (p.1 + 0x10000)).flashErased 1).showProgress
        s2.updOk h [i, s2.nextBlockOf i])

/-- UPD_WRITE (R501): the next unwritten block is programmed from its buffer with its progress entry; an earlier one is
answered OK with nothing written. -/
def execUpdWrite (header : DWord) (n lo hi : Word) (flashOk : Bool) (s : State) : Host.Outcome State Fault Refusal :=
  let h := header.toNat
  let a := addrOf lo hi
  .next (match s.loadingSlot with
    | none => s.updRefuse h 0x11
    | some i =>
      match s.flashPart (1 + i) with
      | none => s.updRefuse h 0x14
      | some p =>
        let next := s.nextBlockOf i
        let k := n.toNat
        if k < next then s.updOk h [next]
        else if next < k ∨ blocksOf (s.bootSlot i).size ≤ k then s.updRefuse h 0x13
        else if !s.inCellar a 0x10000 then s.reply h 3 [0]
        else if !flashOk then s.updFlash h
        else
          let s1 := (s.copySpan a (p.1 + 0x10000 * (k + 1)) 0x10000).flashErased 1
          let s2 := (s1.store (p.1 + 8 * k) 4 k).store (p.1 + 8 * k + 4) 4 (crc32 (s.bytes a 0x10000))
          s2.showProgress.updOk h [s2.nextBlockOf i])

/-- UPD_VERIFY (R482, R500, R502): the slot becomes VERIFIED with its hash and security version, or REJECTED. -/
def execUpdVerify (header : DWord) (flashOk : Bool) (s : State) : Host.Outcome State Fault Refusal :=
  let h := header.toNat
  .next (match s.loadingSlot with
    | none => s.updRefuse h 0x11
    | some i =>
      match s.slotImage i with
      | none => s.updRefuse h 0x14
      | some c =>
        let x := s.bootSlot i
        let k := s.imageCheck c x.size
        if !flashOk then s.updFlash h
        else if k ≠ 0 then (s.putSlot i { x with state := 5 }).updRefuse h (0x1F + k)
        else
          let im := imageOf c
          ((s.putSlot i { x with state := 2, secVer := im.secVer, sha := sha384 c }).raise 0x0D0 0).updOk h [im.version])

/-! ### Activation, confirmation and fallback (R503–R507) -/

/-- The new image and the Neighbour's running image have no pair-protocol version in common, on a pair with its link up
(R507). A range the Neighbour has not given yet excludes nothing (log entry 45). -/
def State.pairExcludes (s : State) (im : Image) : Bool :=
  s.lon F.NBR_CFG_pair_en && s.on F.DRB_STATUS_up &&
  (match s.nbr.peerRange with
    | some r => decide (im.pairHi < r.1) || decide (r.2 < im.pairLo)
    | none => false)

/-- The running image can hand over to `im` (R504). -/
def State.canHandOver (s : State) (im : Image) : Bool :=
  match s.boot.running with
  | some r => decide (im.hoMin ≤ r.hoVer) && decide (r.hoVer ≤ im.hoVer)
  | none => false

/-- UPD_ACTIVATE (R504, R505, R507): the verified image is activated by handover at the boundary of APPLY_AT, or by a restart
where that is allowed; the fail-safe fade then runs, and the chip reset follows as WARM_RESET with cause 0x1. -/
def execUpdActivate (header : DWord) (allow : Bool) (applyAt : Word) (flashOk : Bool) (s : State) : Host.Outcome State Fault Refusal :=
  let h := header.toNat
  let i := s.idleSlot
  let x := s.bootSlot i
  .next (if s.trialSlot.isSome then s.updRefuse h 0x10
    else if x.state ≠ 2 then s.updRefuse h 0x11
    else
      let im := imageOf ((s.slotImage i).getD [])
      if s.pairExcludes im then s.updRefuse h 0x16
      else if s.canHandOver im then
        if !flashOk then s.updFlash h
        else
          let b : Nat × Bool := if s.running then s.pickBoundary applyAt.toNat else (s.now, false)
          let s1 := (s.putSlot i { x with state := 3, trials := 1 }).modBoot fun (c : Boot) => { c with handover := some b.1, hostConfirmed := false }
          (s1.when b.2 State.markLate).updOk h [0]
      else if !allow ∨ s.rd F.SYS_MODE_STATE_service = 0 then s.updRefuse h 0x15
      else if !flashOk then s.updFlash h
      else
        let s1 := s.putSlot i { x with state := 3, trials := 0 }
        let l := s1.blockLen
        let s2 := if s1.running then s1.modModes fun (m : Modes) => { m with fsFade := m.fsFade.turn 0 (nextBlock l s1.now) (s1.fadeBlocks * l) } else s1
        s2.updOk h [1])

/-- HANDOVER (R504, R491): at boundary b every control core jumps to its other half; the new image runs, its confirm window
starts and `activated` sets. A reverse handover returns to the old image (R503). -/
def execHandover (s : State) : Host.Outcome State Fault Refusal :=
  .next (match s.boot.handover with
    | none => s
    | some b =>
      if s.running ∧ s.now < b then s
      else
        let i := s.idleSlot
        let enter (im : Image) (t : State) : State :=
          (((t.wr F.SYS_BOOT_slot i).wr F.SYS_BOOT_handover 1).wr F.SYS_FW_VER_version im.version).checkSchema im.schema
        if s.boot.reverse then
          match s.boot.previous with
          | some im => enter im (s.modBoot fun (c : Boot) =>
              { c with running := some im, previous := none, handover := none, reverse := false, confirmEnd := none })
          | none => s
        else
          let im := imageOf ((s.slotImage i).getD [])
          let until' := s.tbNs + s.rd F.UPD_CONFIRM_CFG_window_s * 1000000000
          (enter im (s.modBoot fun (c : Boot) =>
            { c with running := some im, previous := s.boot.running, handover := none, confirmEnd := some until' })).raise 0x0D0 1)

/-- Commands are taken: not from one block before the boundary of a handover until it has run (R504). -/
def State.takesCommands (s : State) : Bool :=
  match s.boot.handover with
  | some b => s.running && decide (s.now + s.blockLen < b)
  | none => s.boot.running.isSome

/-- UPD_CONFIRM (R503): counts toward the confirmation of the slot in TRIAL. -/
def execUpdConfirm (header : DWord) (s : State) : Host.Outcome State Fault Refusal :=
  .next (if s.trialSlot.isNone then s.updRefuse header.toNat 0x11
    else (s.modBoot fun (b : Boot) => { b with hostConfirmed := true }).updOk header.toNat [0])

/-- UPD_STATUS (R508): the update registers as they stand. -/
def execUpdStatus (header : DWord) (s : State) : Host.Outcome State Fault Refusal :=
  .next (s.updOk header.toNat ([0x040, 0x044, 0x04C, 0x050].map fun (x : Nat) => s.plainValue .reeve 0x0D0 x))

/-- What R503 asks of the machine for confirmation, beside the hold_s seconds that the sender times. -/
def State.healthy (s : State) : Bool :=
  !(s.latched.any fun (i : Nat) => i == 3 || faultClass i == 3) && s.on F.CET_STATUS_trained &&
  (s.running || (s.heldCfg (modeKey (s.reg 0x60).toNat)).isNone) && (!s.on F.UPD_CONFIRM_CFG_host_confirm || s.boot.hostConfirmed)

/-- A fuse blow verifies, or sets blow_error with the FUSE notice and its Roll entry (R498, R511). -/
def State.fuseBlow (s : State) (ok : Bool) (done : State → State) : State :=
  if ok then done (s.wr F.FUS_STATUS_blow_error 0) else (s.wr F.FUS_STATUS_blow_error 1).raiseFault 0x0F false

/-- Confirmation (R483, R498, R500, R502): the record, then the anti-rollback counter, then the revocations. -/
def State.confirmImage (s : State) (i : Nat) (im : Image) (blowOk : Bool) : State :=
  let o := 1 - i
  let counter := max (s.rd F.FUS_ARB_counter) im.secVer
  let y := s.bootSlot o
  let y1 := if 2 ≤ y.state ∧ y.state ≤ 4 then { y with state := if y.secVer < counter then 5 else 2 } else y
  let s1 := s.modBoot fun (b : Boot) => if o = 0 then { b with slot0 := y1 } else { b with slot1 := y1 }
  let s2 := s1.putSlot i { s1.bootSlot i with state := 4, trials := 0 }
  let s3 := if s2.rd F.FUS_ARB_counter < im.secVer then s2.fuseBlow blowOk (fun (t : State) => t.wr F.FUS_ARB_counter im.secVer) else s2
  let own := bitAt im.revokes im.keySlot
  let mask := if own then im.revokes - 2 ^ im.keySlot else im.revokes
  let s4 := if own then s3.rollFw 6 im.keySlot else s3
  let s5 := if mask = 0 then s4 else s4.fuseBlow blowOk (fun (t : State) => t.wr F.FUS_KEYS_revoked (t.rd F.FUS_KEYS_revoked ||| mask))
  (s5.modBoot fun (b : Boot) => { b with previous := none, confirmEnd := none, hostConfirmed := false }).raise 0x0D0 2

/-- IMAGE_CONFIRM (R503): after hold_s seconds of health, within the window, the trial image that runs is confirmed. -/
def execImageConfirm (blowOk : Bool) (s : State) : Host.Outcome State Fault Refusal :=
  .next (match s.trialSlot, s.boot.running with
    | some i, some im =>
      if i = s.rd F.SYS_BOOT_slot ∧ s.boot.confirmEnd.isSome ∧ s.healthy then s.confirmImage i im blowOk else s
    | _, _ => s)

/-- CONFIRM_EXPIRY (R503): at the end of the window, or at the first fatal error before confirmation, the image falls back by
reverse handover while the old halves are resident, and otherwise by the update watchdog. -/
def execConfirmExpiry (s : State) : Host.Outcome State Fault Refusal :=
  .next (match s.trialSlot with
    | none => s
    | some i =>
      if s.boot.confirmEnd.isNone ∨ s.boot.reverse then s
      else if s.boot.previous.isSome then
        let b := if s.running then nextBlock s.blockLen s.now else s.now
        (s.rejectTrial i).modBoot fun (c : Boot) => { c with handover := some b, reverse := true }
      else (s.modBoot fun (c : Boot) => { c with expiry := true }).warmReset 2)

/-- REVERSE_HANDOVER_TIMEOUT (R503): a reverse handover not complete within 1 s ends in the watchdog reset. -/
def execReverseHandoverTimeout (s : State) : Host.Outcome State Fault Refusal :=
  .next (if s.boot.reverse then (s.modBoot fun (c : Boot) => { c with expiry := true }).warmReset 2 else s)

/-! ### Settings (R489, R508) -/

/-- The settings `x` are saved and the command answered: SIZE where the records exceed a copy, FLASH where the write fails or the
flash has no settings partition (R488, R509). -/
def State.answerSettings (s : State) (h : Nat) (x : Settings) (flashOk : Bool) : State :=
  if 0x100000 - 18 < x.records.length then s.refuse h 0x12
  else if !flashOk ∨ (s.flashPart 3).isNone then s.flashFailed.refuse h 0x14
  else (s.saveSettings x).reply h 0 [0]

/-- SET_SAVE (R489): the records of SYS_MODE and of register presets in the list are saved; records of other tags are not its
to write (log entry 64). -/
def execSetSave (header : DWord) (lo hi len : Word) (flashOk : Bool) (s : State) : Host.Outcome State Fault Refusal :=
  let rs := (parseRecords 0x40000 (s.bytes (addrOf lo hi) len.toNat)).filter fun (r : Nat × List Byte) => r.1 == 0x101 || r.1 == 0x102
  .next (if 0x100000 - 16 < len.toNat then s.refuse header.toNat 0x12
    else if !s.inBuffer (addrOf lo hi) len.toNat then s.reply header.toNat 3 [0]
    else s.answerSettings header.toNat (rs.foldl Settings.take s.boot.settings) flashOk)

/-- SET_DEFAULTS (R508): every record other than device records becomes absent. -/
def execSetDefaults (header : DWord) (flashOk : Bool) (s : State) : Host.Outcome State Fault Refusal :=
  .next (s.answerSettings header.toNat { s.boot.settings with mode := none, presets := [] } flashOk)

/-! ### Life cycle, keys and licences (R496–R499, R508) -/

/-- A transition token is right for this unit and signed by the key of fuse slot 0, given as `key` (R497). -/
def State.tokenOk (s : State) (t key : List Byte) : Bool :=
  leAt t 0 4 == 0x4B434C53 && leAt t 4 16 == s.unitId && leAt t 21 1 == s.rd F.SYS_LC_state && decide (leAt t 21 1 < leAt t 20 1) &&
  decide (leAt t 20 1 ≤ 4) && assoc? s.boot.keys 0 == some (sha384 key) &&
  ecVerify key (sha384 (t.take 160)) (ofBe ((t.drop 160).take 48)) (ofBe ((t.drop 208).take 48))

/-- LC_ADVANCE (R497, R398): in Maintenance with the engine stopped, a right token blows the state fuses and the Strongroom
wipes; the chip reset follows as WARM_RESET with cause 0x1. `key` is the signing key, of which the fuses hold the hash. -/
def execLcAdvance (header : DWord) (lo hi : Word) (key : List Byte) (blowOk : Bool) (s : State) : Host.Outcome State Fault Refusal :=
  let h := header.toNat
  let t := s.bytes (addrOf lo hi) 256
  .next (if s.running ∨ s.rd F.SYS_MODE_STATE_service ≠ 2 then s.reply h 6 [0]
    else if !s.inBuffer (addrOf lo hi) 256 then s.reply h 3 [0]
    else if !s.tokenOk t key then s.refuse h 0x11
    else
      let life2 := leAt t 20 1
      let s1 := s.fuseBlow blowOk fun (u : State) =>
        let t := (u.wr F.SYS_LC_state life2).wr F.SYS_LC_debug_open (b2n (debugOpen life2))
        if life2 ≤ 1 then t else (t.wr F.STR_CTRL_tamper_en0 1).wr F.STR_CTRL_tamper_en1 1
      (s1.startWipe 2).reply h 0 [0])

/-- The unit key's scalar: a random number the spec leaves open (log entry 5). -/
def keyScalar (k : Nat) : Nat := ((Config.freeValue k).toNat + (Config.freeValue (k + 1)).toNat * 2 ^ 256) % (ecN - 1) + 1

/-- PROV_KEY (R499, R508): a new unit key goes to its record; the reply carries the public point compressed in 13 words. -/
def execProvKey (header : DWord) (s : State) : Host.Outcome State Fault Refusal :=
  let h := header.toNat
  let life := s.rd F.SYS_LC_state
  .next (if life ≠ 1 ∧ life ≠ 2 then s.reply h 6 [0]
    else if s.boot.unitKey then s.refuse h 0x11
    else if s.memx.wiping.isSome then s.reply h 5 [0]
    else
      let d := keyScalar s.free
      let q := (ecMul d ecG).getD (0, 0)
      let s1 := (s.useFree 2).setBytes (strBase + 0x1000) (beBytes 48 d ++ beBytes 48 q.1 ++ beBytes 48 q.2)
      let point := leBytes 1 (2 + q.2 % 2) ++ beBytes 48 q.1 ++ leBytes 3 0
      (s1.modBoot fun (b : Boot) => { b with unitKey := true }).reply h 0 ((List.range 13).map fun (i : Nat) => leAt point (4 * i) 4))

/-- PROV_CERT (R499): the certificate, zero-padded. -/
def execProvCert (header : DWord) (lo hi len : Word) (s : State) : Host.Outcome State Fault Refusal :=
  let h := header.toNat
  .next (if 4032 < len.toNat then s.refuse h 0x12
    else if !s.inBuffer (addrOf lo hi) len.toNat then s.reply h 3 [0]
    else if s.memx.wiping.isSome then s.reply h 5 [0]
    else ((s.clearMem (strBase + 0x40) (strBase + 0x1000)).setBytes (strBase + 0x40) (s.bytes (addrOf lo hi) len.toNat)).reply h 0 [0])

/-- UNIT_SIGN (R508): a signature over a digest; its twelve words hold r and s, whose random part and packing the spec leaves
open (log entry 46). -/
def execUnitSign (header : DWord) (lo hi : Word) (s : State) : Host.Outcome State Fault Refusal :=
  .next (if !s.boot.unitKey then s.refuse header.toNat 0x11
    else if !s.inBuffer (addrOf lo hi) 48 then s.reply header.toNat 3 [0]
    else
      let words := (List.range 12).map fun (i : Nat) => (Config.freeValue (s.free + i)).toNat % 2 ^ 32
      (s.useFree 12).reply header.toNat 0 words)

/-- The licence area (R499). -/
def licBase : Nat := strBase + 0x2000
def licSize : Nat := 248 * 1024

/-- LIC_WRITE (R499). -/
def execLicWrite (header : DWord) (lo hi off len : Word) (s : State) : Host.Outcome State Fault Refusal :=
  let h := header.toNat
  .next (if licSize < off.toNat + len.toNat then s.refuse h 0x12
    else if !s.inBuffer (addrOf lo hi) len.toNat then s.reply h 3 [0]
    else if s.memx.wiping.isSome then s.reply h 5 [0]
    else (s.setBytes (licBase + off.toNat) (s.bytes (addrOf lo hi) len.toNat)).reply h 0 [0])

/-- LIC_READ (R499). -/
def execLicRead (header : DWord) (lo hi off len : Word) (s : State) : Host.Outcome State Fault Refusal :=
  let h := header.toNat
  .next (if licSize < off.toNat + len.toNat then s.refuse h 0x12
    else if !s.inBuffer (addrOf lo hi) len.toNat then s.reply h 3 [0]
    else if s.memx.wiping.isSome then s.reply h 5 [0]
    else (s.granaryStore (addrOf lo hi) (s.bytes (licBase + off.toNat) len.toNat)).reply h 0 [0])

end Sys2Proof.Machine
end

