-- ==== Sys2Proof/Machine/Power.lean ====
section
/-! DEFINITION. Power domains, clocks, reset sources and the throttle (chapter 18), and the fatal sequence's resets
(R522). -/
namespace Sys2Proof.Machine

/-! ### Domains (R542) -/

/-- DOMAIN_SWITCH_DONE (R542): every domain has reached its new state; those turned on come up at reset values, and
PD_CELLAR trains anew. -/
def execDomainSwitchDone (s : State) : Host.Outcome State Fault Refusal :=
  .next (if !s.on F.PWR_STATE_switching then s
    else
      let want := s.lv F.PWR_DOMAIN_on
      let cellar := bitAt want 7 && !s.domainOn 7
      let late := (s.pendOf 0x001).any fun (p : PendSet) => p.late
      let s1 := ((s.wr F.PWR_STATE_on want).wr F.PWR_STATE_switching 0).when cellar fun (t : State) => t.wr F.CET_STATUS_step 1
      (s1.endPend 0x001 (if late then 0x03 else 0x02)).raise 0x001 0)

/-! ### Clocks (R544, R545) -/

/-- The PCIe link comes up with its speed and width, or goes down, which resets master M0 (R457). Up, it leaves Request Retry
Status once the boot ROM has released it (R456). -/
def State.pcieLink (s : State) (up : Bool) (speed width : Nat) : State :=
  if !s.domainOn 11 ∨ (!up ∧ !s.on F.PCI_LINK_up) then s
  else
    let s1 := if up then ((s.wr F.PCI_LINK_up 1).wr F.PCI_LINK_speed speed).wr F.PCI_LINK_width width else s.setReg 0xC0044 0
    let s2 := s1.raise 0x0C0 0
    if up then (s2.wr (F.CLK_STATUS_locked.part 5 1) 1).modHost fun (h : HostIf) => { h with retry := h.retry && decide (s2.rd F.SYS_BOOT_stage < 3) && !s2.on F.SYS_BOOT_recovery }
    else s2.masterReset .host

/-- A PLL of R544 whose loss of lock resets the chip: CORE, FABRIC, CTRL, CELLAR, TIME, PERIPH. -/
def corePll (i : Nat) : Bool := i ≤ 3 || i == 8 || i == 9

/-- PLL_LOSS (R544, R548): a core PLL loses lock, and the chip is held in a warm reset with cause CLOCK; a loss of the PCIe
reference takes the link down. -/
def execPllLoss (pll : Nat) (s : State) : Host.Outcome State Fault Refusal :=
  .next (if 10 ≤ pll then s
    else
      let bit := F.CLK_STATUS_locked.part pll 1
      if corePll pll then
        if s.boot.heldReset then s.wr bit 0
        else (((s.warmClear 4).wr bit 0).modBoot fun (b : Boot) => { b with heldReset := true }).showFaultN
      else if pll = 5 then ((s.wr bit 0).raise 0x002 2).pcieLink false 0 0
      else s.wr bit 0)

/-- PLL_RELOCK (R544): the PLL is locked again; once every core PLL is, the reset is released and the start runs. -/
def execPllRelock (pll : Nat) (s : State) : Host.Outcome State Fault Refusal :=
  .next (if 10 ≤ pll then s
    else
      let s1 := s.wr (F.CLK_STATUS_locked.part pll 1) 1
      if s1.boot.heldReset ∧ (List.range 10).all fun (i : Nat) => !corePll i || s1.on (F.CLK_STATUS_locked.part i 1) then
        (s1.modBoot fun (b : Boot) => { b with heldReset := false }).startFrom2
      else s1)

/-- The audio PLL returns to the VCXO once it has been in range for 1 s (R545). -/
def State.vcxoReturns (s : State) : State :=
  if s.on F.CLK_STATUS_synth ∧ 1000 ≤ s.stp.vcxoGood then
    ((s.wr F.CLK_STATUS_synth 0).raise 0x002 1).modStp fun (x : Stp) => { x with vcxoGood := 0 }
  else s

/-- VCXO_CHECK (R545): the millisecond's measurement of the VCXO in use, in ppm from nominal, none where it is absent. -/
def execVcxoCheck (ppm : Option Int) (s : State) : Host.Outcome State Fault Refusal :=
  let bit := if s.on F.ENG_RATE_family then F.CLK_STATUS_vcxo44 else F.CLK_STATUS_vcxo48
  let good : Bool := match ppm with | some x => decide (x.natAbs ≤ 1000) | none => false
  .next (if good then
      let s1 := s.wr bit 1
      if s1.on F.CLK_STATUS_synth then
        let s2 := s1.modStp fun (x : Stp) => { x with vcxoGood := x.vcxoGood + 1 }
        if s2.running then s2 else s2.vcxoReturns
      else s1
    else
      let s1 := (s.wr bit 0).modStp fun (x : Stp) => { x with vcxoGood := 0 }
      if s1.on F.CLK_STATUS_synth then s1 else ((s1.wr F.CLK_STATUS_synth 1).raise 0x002 0).rollHw 0x002 0)

/-! ### Reset sources (R548, R522) -/

/-- A Carter reset by the Reeve. -/
def State.carterReset (s : State) (n : Nat) : State :=
  (s.bump F.RST_COUNTS_partial).masterReset (if n = 0 then .carter0 else .carter1)

/-- A write of RST_CTRL (R557): the Reeve's chip reset with its key, and its Carter resets; every other write is ignored and
counted. -/
def State.rstCtrl (s : State) (ini : Initiator) (v : Nat) : State :=
  let keyed := bitsOf v 16 16 == 0x5253
  if ini != .reeve || (bitAt v 0 && !keyed) then s.captureErr 0x003 ini.port true 0x8 (pageAddr 0x003 0x044)
  else if bitAt v 0 then s.warmReset 1
  else (s.when (bitAt v 1) (State.carterReset · 0)).when (bitAt v 2) (State.carterReset · 1)

/-- CHIP_RESET_WRITE (R548, R557). -/
def execChipResetWrite (ini : Initiator) (value : Word) (s : State) : Host.Outcome State Fault Refusal := .next (if s.portShut ini then s else s.rstCtrl ini value.toNat)

/-- CARTER_RESET (R548, R557). -/
def execCarterReset (ini : Initiator) (value : Word) (s : State) : Host.Outcome State Fault Refusal := .next (if s.portShut ini then s else s.rstCtrl ini value.toNat)

/-- FLASH_DUMP_DONE (R522 steps 5 and 6): the flash dump is written or its skip recorded, and the chip resets where
fatal_reset is 1. -/
def execFlashDumpDone (flashOk : Bool) (s : State) : Host.Outcome State Fault Refusal :=
  .next (if !s.on F.FLT_STATE_fatal ∨ !s.on F.FLT_STATE_dump_done then s
    else
      let s1 := s.flashDumpWrite flashOk
      if s1.on F.FLT_CFG_fatal_reset then s1.warmReset 1 else s1)

/-- FATAL_TIMEOUT (R522): 5 s after the latch without dump_done. -/
def execFatalTimeout (s : State) : Host.Outcome State Fault Refusal :=
  .next (if s.on F.FLT_STATE_fatal ∧ !s.on F.FLT_STATE_dump_done then s.warmReset 3 else s)

/-! ### The throttle (R549–R553) -/

/-- Trip level of step `k` in mV; step 4 is the under level. -/
def State.tripLevel (s : State) (k : Nat) : Nat := 600 + bitsOf (s.liveReg 0x4044).toNat (8 * (k - 1)) 8

/-- The deepest step that a reading trips, with the forced step. -/
def State.trippedStep (s : State) (mv : Nat) : Nat :=
  max (if mv < s.tripLevel 3 then 3 else if mv < s.tripLevel 2 then 2 else if mv < s.tripLevel 1 then 1 else 0) (s.rd F.THR_CFG_force)

/-- A deeper step is entered at once (R550). -/
def State.throttleTo (s : State) (k sensor : Nat) : State :=
  if k ≤ s.rd F.THR_STATE_step then s
  else
    let s1 := (((s.wr F.THR_STATE_step k).wr F.THR_STATE_sensor sensor).bump F.THR_EVENTS_trips).raise 0x004 0
    if k = 3 then s1.raise 0x004 1 else s1

/-- A sensor's reading. -/
def State.sense (s : State) (i mv : Nat) : State :=
  (s.wr F.THR_SENSE_now_mv mv 0 i).wr F.THR_SENSE_min_mv (min (s.rd F.THR_SENSE_min_mv 0 i) mv) 0 i

/-- THR_STATE.under follows the sensors' readings; its rise is the under_floor event (R552). A reading of 0 is a sensor that
has not read yet. -/
def State.underFloor (s : State) : State :=
  let now := (List.range 8).any fun (i : Nat) => s.rd F.THR_SENSE_now_mv 0 i != 0 && decide (s.rd F.THR_SENSE_now_mv 0 i < s.tripLevel 4)
  let s1 := s.wr F.THR_STATE_under (b2n now)
  if now && !s.on F.THR_STATE_under then ((s1.bump F.THR_EVENTS_under).raise 0x004 2).rollHw 0x004 2 else s1

/-- THROTTLE_TRIP (R549, R550, R552): a sensor's reading in mV trips a step or the under level; below 660 mV the spec calls
the behaviour undefined. -/
def execThrottleTrip (sensor mv : Nat) (s : State) : Host.Outcome State Fault Refusal :=
  if mv < 660 then .fault .supplyBelowMinimum
  else .next (if 8 ≤ sensor then s else (((s.sense sensor (min mv 0xFFF)).throttleTo (s.trippedStep mv) sensor).underFloor))

/-- THROTTLE_RELEASE (R550, R553): every sensor has read above the step's level plus the hysteresis for release_us, and the
throttle moves one step shallower, not above the forced one; `floorUs` is the time spent at the floor when it leaves it. -/
def execThrottleRelease (readings : List Nat) (floorUs : Nat) (s : State) : Host.Outcome State Fault Refusal :=
  let k := s.rd F.THR_STATE_step
  let s1 := ((List.range 8).foldl (fun (t : State) (i : Nat) => t.sense i (min (readings.getD i 0) 0xFFF)) s).underFloor
  let clear := (List.range 8).all fun (i : Nat) => decide (s.tripLevel k + s.rd F.THR_CFG_hyst_mv < readings.getD i 0)
  .next (if k = 0 ∨ k ≤ s.rd F.THR_CFG_force ∨ !clear then s1
    else
      let s2 := s1.wr F.THR_STATE_step (k - 1)
      if k = 3 then (s2.bump F.THR_TIME_floor_us floorUs).rollIn 0x004 1 0 0 0 (some floorUs) false true else s2)

end Sys2Proof.Machine
end

