-- ==== Sys2Proof/Machine/Bus.lean ====
section
/-! DEFINITION. Accesses to register pages (R460–R465): writes through the four views with their side effects, reads with
theirs, locks, and the registers that act when they are written. -/
namespace Sys2Proof.Machine

/-- The next state a command answers; the state itself where it stops. -/
def State.done (s : State) (o : Host.Outcome State Fault Refusal) : State := match o with
  | .next t => t
  | _ => s

/-! ### DMA channels as their control register moves them (R432, R436, R452) -/

/-- Put a channel's state beside its registers. -/
def State.setDma (s : State) (c : Nat) (x : DmaChan) : State := { s with dma := assocPut s.dma c x }

/-- States of a channel. -/
def dmIdle : Nat := 0
def dmFetch : Nat := 1
def dmCopy : Nat := 2
def dmPoll : Nat := 3
def dmEventWait : Nat := 4
def dmHalted : Nat := 5

def State.dmState (s : State) (c : Nat) : Nat := s.rd F.DMC_STATE_state 0 c
def State.setDm (s : State) (c st : Nat) : State := s.wr F.DMC_STATE_state st 0 c

/-- Event ring of a channel. -/
def State.dmRing (s : State) (c : Nat) : Nat := 192 + s.rd F.DMC_CTRL_ring 0 c

/-- An event entry (R440). -/
def dmaEntry (c status halt addr : Nat) : DWord :=
  BitVec.ofNat 64 (c % 64 * 2 ^ 56 + status % 256 * 2 ^ 48 + halt % 16 * 2 ^ 40 + addr % 2 ^ 40)

/-- What a channel does once its event, if any, is posted: run on to the next descriptor (halt 0), END to IDLE, or halt. -/
def State.dmaAfter (s : State) (c halt : Nat) : State :=
  if halt = 0 then
    let x := s.dmaChan c
    (s.setDma c { x with cur := x.next, byRing := x.ring, err := 0, waiting := none }).setDm c dmFetch
  else
    let s1 := ((s.setDma c { s.dmaChan c with waiting := none, aborting := false }).wr F.DMC_STATE_halt halt 0 c).setDm c (if halt = 1 then dmIdle else dmHalted)
    if halt = 1 then s1 else
      let s2 := s1.raise 0x010 2
      if halt = 2 then s2.raise 0x010 3 else s2

/-- Post an event, or wait for room in the ring (R440, R445); then go on by `halt`. -/
def State.dmaPost (s : State) (c status halt addr : Nat) : State :=
  let q := s.dmRing c
  let e := dmaEntry c status halt addr
  if s.queueRoom q then ((s.eventPush q e).raise 0x010 0).dmaAfter c halt
  else
    let s1 := ((s.setDma c { s.dmaChan c with waiting := some e }).setDm c dmEventWait).modQue fun (u : Que) => { u with waiters := u.waiters ++ [c] }
    (s1.bump F.QUE_STAT_count 1 (q / 64) (q % 64)).raise (quePage q) 3

/-- A halt that concerns the descriptor address `addr` and wrote nothing back. -/
def State.dmaHalt (s : State) (c halt addr : Nat) : State := s.dmaPost c 0 halt addr

/-- go (R432). -/
def State.dmaGo (s : State) (c : Nat) : State :=
  let st := s.dmState c
  if (st = dmIdle ∨ st = dmHalted) ∧ s.rd F.DMC_CTRL_ring 0 c ≤ 55 then
    let head := s.rd F.DMC_HEAD_LO_head 0 c + s.rd F.DMC_CTRL_head_hi 0 c * 2 ^ 32
    (((s.setDma c { DmaChan.fresh with cur := head }).wr F.DMC_STATE_halt 0 0 c).wr F.DMC_STATE_count 0 0 c).setDm c dmFetch
  else s.raise 0x010 4

/-- abort (R436): COPY and FETCH finish what has begun; POLL and EVENT_WAIT halt at once. -/
def State.dmaAbort (s : State) (c : Nat) : State :=
  let st := s.dmState c
  let x := s.dmaChan c
  if st = dmCopy ∨ st = dmFetch then s.setDma c { x with aborting := true }
  else if st = dmPoll then s.dmaHalt c 2 x.cur
  else if st = dmEventWait then
    let s1 := s.modQue fun (u : Que) => { u with waiters := u.waiters.filter fun (d : Nat) => d != c }
    (s1.bump F.DMA_COUNTS_dropped).dmaAfter c 2
  else s

/-- A write of DMC_CTRLc: its fields, then go, then abort. -/
def State.dmcCtrl (s : State) (c v : Nat) : State :=
  let s1 := s.storeBits 0x011 (0x044 + 12 * c) 0xFFFBFCFF v
  let s2 := if bitAt v 8 then s1.dmaGo c else s1
  if bitAt v 9 then s2.dmaAbort c else s2

/-- DMA_GO (R432): a write of DMC_CTRLc. -/
def execDmaGo (chan : Nat) (value : Word) (s : State) : Host.Outcome State Fault Refusal :=
  .next (if chan < 64 then s.dmcCtrl chan value.toNat else s)

/-- DMA_ABORT (R436): a write of DMC_CTRLc. -/
def execDmaAbort (chan : Nat) (value : Word) (s : State) : Host.Outcome State Fault Refusal :=
  .next (if chan < 64 then s.dmcCtrl chan value.toNat else s)

/-- The DMA page's soft reset (R429, R452): master M1 is reset, and every channel is IDLE with halt reason ABORTED. -/
def State.dmaReset (s : State) : State :=
  let s1 := ({ s.masterReset .dma with dma := [] }).modQue fun (u : Que) => { u with waiters := [] }
  (List.range 64).foldl (fun (t : State) (c : Nat) => (t.setDm c dmIdle).wr F.DMC_STATE_halt 2 0 c) s1

/-- CTRL.soft_reset of a page: only the DMA page's chapter gives it an effect, and its reset clears the page's lock (R464,
R465). -/
def State.softReset (s : State) (p : Nat) : State := if p = 0x010 then s.dmaReset.wr F.LOCK_locked 0 0x010 else s

/-- SOFT_RESET (R464). -/
def execSoftReset (page : Nat) (s : State) : Host.Outcome State Fault Refusal := .next (s.softReset page)

/-! ### MSI-X (R473) -/

/-- MSX_EOI (R473): the message of the vector is sent again while its state is 1. -/
def State.msxEoi (s : State) (v : Nat) : State :=
  if s.on F.PCI_LINK_msix_en ∧ s.vectorState v then
    let t := s.sendVector v
    if s.vectorMasked v || s.on F.PCI_LINK_fmask then t else t.bump F.MSX_COUNTS_eoi
  else s

def execMsxEoi (value : Word) (s : State) : Host.Outcome State Fault Refusal := .next (s.msxEoi (value.toNat % 256))

/-- Messages that a mask held back go out once it clears, if their vector state is still 1 (R473). -/
def State.sendHeld (s : State) : State :=
  if s.on F.PCI_LINK_msix_en ∧ !s.on F.PCI_LINK_fmask then
    s.host.pba.foldl (fun (t : State) (v : Nat) => if t.vectorMasked v then t else if t.vectorState v then t.sendVector v else t) s
  else s

/-- A word of the MSI-X table: address, data and vector control of each vector. -/
def State.msixWord (s : State) (i : Nat) : Nat := ((assoc? s.host.msix i).getD (if i % 4 = 3 then 1 else 0)).toNat

/-- A host write to the MSI-X table. -/
def State.msixWrite (s : State) (i v : Nat) : State :=
  (s.modHost fun (h : HostIf) => { h with msix := assocPut h.msix i (BitVec.ofNat 32 (if i % 4 = 3 then v % 2 else v)) }).sendHeld

/-- MSIX_UNMASK (R473): the mask bit of a vector, or the function mask, clears. -/
def execMsixUnmask (vector : Option Nat) (s : State) : Host.Outcome State Fault Refusal :=
  .next (match vector with
    | some v => if v < 256 then s.msixWrite (4 * v + 3) 0 else s
    | none => (s.wr F.PCI_LINK_fmask 0).sendHeld)

/-! ### Writes (R461–R465) -/

/-- Which register of a stepped run an offset names. -/
def runIndex (x base stride count : Nat) : Option Nat :=
  if base ≤ x ∧ (x - base) % stride = 0 ∧ (x - base) / stride < count then some ((x - base) / stride) else none

/-- STR_CTRL (R398, R399): the tamper enables take a write in BLANK and PROVISIONED only; wipe is the Reeve's. -/
def State.strCtrl (s : State) (ini : Initiator) (v : Nat) : State :=
  let s1 := if s.rd F.SYS_LC_state ≤ 1 then s.storeBits 0x021 0x044 3 v else s
  if bitAt v 2 then s1.done (execStrWipe ini s1) else s1

/-- Registers outside the header that act when they are written at their plain offset: the state after, by their chapters;
none for a register that only stores. -/
def State.actWrite (s : State) (ini : Initiator) (p x v : Nat) : Option State :=
  let w : Word := BitVec.ofNat 32 v
  if p = 0x003 ∧ x = 0x044 then some (s.rstCtrl ini v)
  else if p = 0x011 then (runIndex x 0x044 12 64).map fun (c : Nat) => s.dmcCtrl c v
  else if 0x018 ≤ p ∧ p < 0x01C ∧ 0x100 ≤ x ∧ x < 0x300 then
    some (s.portWrite ((p - 0x018) * 64 + (x - 0x100) / 8) (1 + (x - 0x100) / 4 % 2) ini (BitVec.ofNat 64 v))
  else if p = 0x021 ∧ x = 0x044 then some (s.strCtrl ini v)
  else if p = 0x028 ∧ x = F.CEL_CTRL_self_refresh.off then some (s.done (execSelfRefresh w s))
  else if p = 0x02B ∧ x = F.GLN_MARK_AT_esi.off then some (s.done (execGlnMarkAtWrite w s))
  else if p = 0x02B ∧ x = 0x074 then some (s.done (execGlnAdv w s))
  else if p = 0x030 ∧ x = 0x060 then
    some (if bitAt v 0 then (s.wr F.ENG_SNAP_CTRL_valid 0).modEng fun (e : Eng) => { e with snapArmed := true } else s)
  else if p = 0x030 ∧ x = 0x078 then some (s.done (execRealignRequest w s))
  else if p = 0x031 ∧ x = 0x044 then some (if bitAt v 0 then s.done (execSwapCancel s) else s)
  else if 0x040 ≤ p ∧ p < 0x050 ∧ x = 0x100 then some (s.millDebugWrite (p - 0x040) v)
  else if p = 0x050 ∧ x = 0x0A0 then some (s.done (execPrepareGo w s))
  else if p = 0x050 ∧ x = 0x110 then some (s.done (execJobGo w s))
  else if p = 0x064 ∧ x = 0x050 then some (s.done (execCriPost w s))
  else if p = 0x064 ∧ x = 0x054 then some (s.done (execCriCancel w s))
  else if p = 0x064 ∧ x = 0x058 then some (s.done (execCriInject w s))
  else if p = 0x072 ∧ x = 0x064 then some (s.done (execTbsOutAlign w s))
  else if p = 0x0A0 ∧ x = 0x068 then some (if ini = .host then s.grantWrite 0 v none else s)
  else if p = 0x0A0 ∧ x = 0x074 then some (s.nbrCtrl v)
  else if p = 0x0B0 ∧ 0x080 ≤ x ∧ x < 0x08C then
    some ((if controlCore ini then s.modFlt fun (f : Flt) => { f with reps := assocPut f.reps (4 * ini.port + (x - 0x080) / 4) w } else s).storeBits
      p x 0xFFFFFFFF v)
  else if p = 0x0B0 ∧ x = 0x08C then some (s.repGo ini v)
  else if p = 0x0B1 ∧ x = F.FLT_LATCH_bits.off then some (s.clearLatch v)
  else if p = 0x0B1 ∧ x = 0x054 then some (s.fltCtrl ini v)
  else if p = 0x0B1 ∧ x = 0x058 then some (s.wdogKick ini v)
  else if p = 0x0C1 ∧ x = 0x040 then some (s.msxEoi (v % 256))
  else if p = 0x0D0 ∧ x = 0x058 then some (s.recoverImage (bitsOf v 0 25))
  else none

/-- A generator register's write (R70). -/
def State.genWrite (s : State) (p x v : Nat) : Option State :=
  let w : Word := BitVec.ofNat 32 v
  if p ≠ F.XRD_GEN_CTRL_mode.page then none
  else match runIndex x F.XRD_GEN_CTRL_mode.off F.XRD_GEN_CTRL_mode.stride 64, runIndex x F.XRD_GEN_AUX_aux.off F.XRD_GEN_AUX_aux.stride 64,
      runIndex x F.XRD_GEN_FREQ_freq.off F.XRD_GEN_FREQ_freq.stride 64 with
    | some g, _, _ => some (s.done (execGenModeWrite g w s))
    | _, some g, _ => some (s.done (execGenAuxWrite g w s))
    | _, _, some g => some ((s.wr F.XRD_GEN_FREQ_freq v 0 g).setGen g { s.gen g with otherWrite := true })
    | none, none, none => none

/-- What follows a plain store: requests and vectors that it changes, selections shown, pins driven, a forced throttle step,
FAULT_N (R464, R473, R476, R520, R550). -/
def State.afterWrite (s old : State) (p x : Nat) : State :=
  if x = 0x014 then State.settleVectors s old [bitsOf (s.routeWord p) 0 8]
  else if p = 0x0C2 ∧ 0x080 ≤ x then State.settleVectors s old (List.range 256)
  else if p = 0x004 ∧ x = 0x040 then s.throttleTo (s.rd F.THR_CFG_force) (s.rd F.THR_STATE_sensor)
  else if p = 0x070 ∧ x = 0x098 then s.showStp
  else if p = 0x095 ∧ x = 0x044 then s.showAsrc
  else if p = 0x0CB then s.gpioDrives
  else if p = 0x0B1 ∧ x = 0x040 then s.showFaultN
  else s

/-- A write of the common header's registers that act (R464, R465, R467). -/
def State.headerWrite (s : State) (ini : Initiator) (p x v : Nat) : Option State :=
  let err (kind : Nat) : State := s.pageError p ini true kind (pageAddr p x)
  if x = 0x008 then
    let s1 := s.storeBits p 0x008 5 v
    let s2 := if 0x040 ≤ p ∧ p < 0x050 then
        s1.millDebugWrite (p - 0x040) (setBitsOf (s1.reg (p * 0x1000 + 0x100)).toNat 0 1 (bitsOf v 2 1)) else s1
    some (if bitAt v 1 then s2.softReset p else s2)
  else if x = 0x010 then some (s.clearRaw p (v &&& irqBits p))
  else if x = 0x01C then some (s.testIrq p v)
  else if x = 0x030 then
    some (if v = 1 then s.applyTake p else if v = 2 then s.applyDiscard p else if hasStaged p then err 4 else s)
  else if x = 0x03C then
    some (if bitsOf v 16 16 = 0x4C4B then s.wr F.LOCK_locked (v % 2) p else err 1)
  else none

/-- A write reaches a register at its plain offset: by its own action, or stored by the access types of its fields. -/
def State.regWrite (s : State) (ini : Initiator) (p x v : Nat) : State :=
  match s.headerWrite ini p x v with
  | some t => t
  | none =>
    match s.actWrite ini p x v with
    | some t => t
    | none =>
      match s.genWrite p x v with
      | some t => t
      | none =>
        match s.rowAt p x with
        | none => s
        | some r => ((s.storeBits p x (r.rw ||| r.rws) v).clearW1c p x v).afterWrite s p x

/-- Offsets whose writes a lock stops (R465). -/
def lockedAt (x view : Nat) : Bool :=
  view == 1 || view == 2 || decide (0x040 ≤ x) || x == 0x008 || x == 0x014 || x == 0x01C || x == 0x030 || x == 0x038

/-- The value that an alias write gives the RW and RWS bits `m` of a register (R461). -/
def aliasValue (old m v view : Nat) : Nat := if view = 1 then (old &&& m) ||| (v &&& m) else (old &&& m) &&& ((2 ^ 32 - 1) ^^^ v)

/-- A 4-byte write to offset `o` of page `p` (R461–R465), with the Active's forwarding and the Standby's drop on pair-driven
pages (R344, R345). -/
def State.pageWrite (s : State) (ini : Initiator) (p o v : Nat) : State :=
  let x := o % 0x400
  let view := o / 0x400
  let err (t : State) (kind : Nat) : State := t.pageError p ini true kind (pageAddr p o)
  if plainOnly p x ∧ view ≠ 0 then err s 5
  else if view = 3 then err s 3
  else match s.rowAt p x with
    | none => if s.on F.LOCK_locked p ∧ lockedAt x view then err s 1 else if v ≠ 0 then err s 0 else s
    | some r =>
      if s.on F.LOCK_locked p ∧ lockedAt x view then err s 1
      else
        let writable := r.rw ||| r.rws ||| r.wo
        if s.role = 2 ∧ pairDriven p ∧ writable ≠ 0 then s.bump F.NBR_COUNTS_driven_drop
        else
          let s1 := if v &&& ((2 ^ 32 - 1) ^^^ r.known) ≠ 0 then err s 0 else s
          let m := r.rw ||| r.rws
          let s2 := if view = 0 then s1.regWrite ini p x v
            else if m = 0 then s1
            else s1.regWrite ini p x (aliasValue (s1.view ini p x) m v view)
          if s.leads ∧ pairDriven p ∧ (r.rw ||| r.wo) ≠ 0 ∧ x ≠ 0x030 then s2.nbrSend 5 [1, nextBlock s.blockLen s.now, p, o, v] else s2

/-! ### Reads -/

/-- A plain read of offset `x`: registers that pop or latch first, then computed views; RC fields clear (R6, R462). -/
def State.regRead (s : State) (ini : Initiator) (p x : Nat) : Nat × State :=
  let by' (o : Host.Outcome State Fault Refusal) : Nat × State := let t := s.done o; ((t.resp.map fun (r : Resp) => r.data).getD 0, t)
  if 0x018 ≤ p ∧ p < 0x01C ∧ 0x100 ≤ x ∧ x < 0x300 then s.portRead ((p - 0x018) * 64 + (x - 0x100) / 8) (1 + (x - 0x100) / 4 % 2) ini
  else if p = 0x030 ∧ x = 0x044 then
    (s.now % 2 ^ 32, s.modEng fun (e : Eng) => { e with esiLatch := assocPut e.esiLatch ini.port (BitVec.ofNat 32 (s.now / 2 ^ 32)) })
  else if p = 0x065 ∧ x = 0x044 then s.ptsInfoRead ini
  else if p = 0x065 ∧ 0x044 ≤ x ∧ x ≤ 0x054 ∧ !isCarter ini then (0, s)
  else if p = 0x073 ∧ x = 0x044 then by' (execEdgInfoRead ini s)
  else if p = 0x074 ∧ x = 0x04C then by' (execLtcInTimeRead ini s)
  else if p = 0x072 ∧ x = 0x040 then by' (execTbsNowNsRead ini s)
  else if p = 0x02B ∧ x = 0x054 then by' (execGlnWriteLoRead ini s)
  else if p = 0x02B ∧ x = 0x064 then by' (execGlnCursorLoRead ini s)
  else if p = 0x0B0 ∧ 0x080 ≤ x ∧ x < 0x08C ∧ controlCore ini then (s.repWord ini ((x - 0x080) / 4), s)
  else
    (s.plainValue ini p x, (s.when (readsFree p x) State.useFree).clearRc p x)

/-- A 4-byte read of offset `o` of page `p` (R461, R462). -/
def State.pageRead (s : State) (ini : Initiator) (p o : Nat) : Nat × State :=
  let x := o % 0x400
  let view := o / 0x400
  if view = 0 then s.regRead ini p x
  else if plainOnly p x then (0, s)
  else (if view = 3 then s.liveValue ini p x else s.plainValue ini p x, s.when (readsFree p x) State.useFree)

/-- ENG_ESI_LO_READ (R42). -/
def execEngEsiLoRead (ini : Initiator) (s : State) : Host.Outcome State Fault Refusal :=
  let r := s.regRead ini 0x030 0x044
  .next (if s.portShut ini then s else r.2.respond ini r.1)

/-- SNAP_ARM (R42): a write of arm clears valid and arms a capture. -/
def execSnapArm (s : State) : Host.Outcome State Fault Refusal := .next (s.pageWrite .host 0x030 0x060 1)

end Sys2Proof.Machine
end

