-- ==== Sys2Proof/Machine/Fabric.lean ====
section
/-! DEFINITION. The system fabric (R420–R429): what each target answers a request, hold-back and timeouts, master resets; the
BARs of the PCIe endpoint (R455–R458) and the I2C interface (R474). -/
namespace Sys2Proof.Machine

/-! ### Targets (R420, R423, R454) -/

/-- Target port of an address: 0 Granary, 1 Cellar, 2 Mill memories, 3 PCIe outbound, 4 bridge 0, 5 bridge 1, 6 default. -/
def fabTarget (a : Nat) : Nat :=
  if inGranary a ∨ aliasBase ≤ a then 0
  else if 0x100000000 ≤ a ∧ a < 0x300000000 then 1
  else if 0x08000000 ≤ a ∧ a < 0x09200000 then 2
  else if 0x8000000000 ≤ a ∧ a < 0x10000000000 then 3
  else if 0x10000000 ≤ a ∧ a < 0x10080000 then 4
  else if a < 0x10000 ∨ (strBase ≤ a ∧ a < strEnd) ∨ (0x10080000 ≤ a ∧ a < 0x11000000) ∨ (0x20000000 ≤ a ∧ a < 0x40000000) then 5
  else 6

/-- A size that the fast layer takes: 1–256 bytes within one 256-byte span. -/
def fastSize (a n : Nat) : Bool := decide (1 ≤ n) && decide (n ≤ 256) && a / 256 == (a + n - 1) / 256

/-- An error that the default target answers (R427, R428): kind 0 undecoded, 1 timeout, 2 hairpin, 3 illegal size. The Reeve
records its own in the Roll. -/
def State.defError (s : State) (ini : Initiator) (write : Bool) (kind a : Nat) : State :=
  let s1 := s.pageError 0x009 ini write kind a
  let s2 := if kind = 1 then s1.bump F.DEF_COUNTS_timeouts else s1.bump F.DEF_COUNTS_undecoded
  if ini = .reeve then s2.rollIn 0x009 kind 0 (a % 2 ^ 32) (a / 2 ^ 32) none true true else s2

/-- The naturally aligned beats of a request to a register page: address and size, 8 or 4 (R423). -/
def pageBeats : Nat → Nat → Nat → List (Nat × Nat)
  | 0, _, _ => []
  | fuel + 1, a, n =>
    if n < 4 then [] else if a % 8 = 0 ∧ 8 ≤ n then (a, 8) :: pageBeats fuel (a + 8) (n - 8) else (a, 4) :: pageBeats fuel (a + 4) (n - 4)

/-- Page and offset of a page address. -/
def pageOf (a : Nat) : Nat := (a - 0x10000000) / 0x1000
def offOf (a : Nat) : Nat := (a - 0x10000000) % 0x1000

/-- The data port of a queue at a page address, for an 8-byte beat. -/
def portAt (a : Nat) : Option Nat :=
  let p := pageOf a
  let o := offOf a
  if 0x018 ≤ p ∧ p < 0x01C ∧ 0x100 ≤ o ∧ o < 0x300 then some ((p - 0x018) * 64 + (o - 0x100) / 8) else none

/-- One beat of a read: the lower register first (R423, R442). -/
def State.readBeat (s : State) (ini : Initiator) (b : Nat × Nat) : Nat × State :=
  let p := pageOf b.1
  let o := offOf b.1
  if b.2 = 4 then s.pageRead ini p o
  else match portAt b.1 with
    | some q => s.portRead q 0 ini
    | none =>
      let lo := s.pageRead ini p o
      let hi := lo.2.pageRead ini p (o + 4)
      (lo.1 % 2 ^ 32 + hi.1 % 2 ^ 32 * 2 ^ 32, hi.2)

/-- One beat of a write. -/
def State.writeBeat (s : State) (ini : Initiator) (b : Nat × Nat) (v : Nat) : State :=
  let p := pageOf b.1
  let o := offOf b.1
  if b.2 = 4 then s.pageWrite ini p o (v % 2 ^ 32)
  else match portAt b.1 with
    | some q => if s.on F.LOCK_locked p then s.pageError p ini true 1 b.1 else s.portWrite q 0 ini (BitVec.ofNat 64 v)
    | none => (s.pageWrite ini p o (v % 2 ^ 32)).pageWrite ini p (o + 4) (v / 2 ^ 32 % 2 ^ 32)

/-- A register page answers: on the page list, its domain on; else the default target does. -/
def State.pageAnswers (s : State) (a : Nat) : Bool := pageExists (pageOf a) && s.pageOn (pageOf a)

/-- Sizes that a register page takes: 4 bytes at a multiple of 4, or whole 8-byte beats at a multiple of 8 (R423). -/
def pageSize (a n : Nat) : Bool := (n == 4 && a % 4 == 0) || (n != 0 && n % 8 == 0 && a % 8 == 0)

/-- An access to the Cellar lies in the installed size of a trained Cellar (R400, R455). -/
def State.cellarHas (s : State) (a n : Nat) : Bool := s.domainOn 7 && s.on F.CET_STATUS_trained && decide (a + n ≤ s.cellarEnd)

/-- An error of the Cellar: above the installed size it counts in CEL_ERR (R400). -/
def State.cellarError (s : State) : State := if s.on F.CET_STATUS_trained then (s.bump F.CEL_ERR_range).raise 0x028 3 else s

/-- An access wakes the Cellar from self-refresh (R409). -/
def State.cellarWake (s : State) : State := if s.memx.selfRefresh then s.modMemx fun (m : Memx) => { m with selfRefresh := false } else s

/-- Host address of a fabric address (R458). -/
def State.outAddr (s : State) (a : Nat) : Nat :=
  s.lv F.PCI_OUT_BASE_LO_base * 2 ^ 12 + s.lv F.PCI_OUT_BASE_HI_base * 2 ^ 32 + (a - 0x8000000000)

/-- An outbound request ends in an error or a timeout (R458, R477). -/
def State.outError (s : State) : State := (s.bump F.PCI_ERRORS_cpl).raise 0x0C0 2

/-- The Mill of a store or instruction-memory address, and whether its domain is on. -/
def millOf (a : Nat) : Nat := if a < 0x09000000 then (a - 0x08000000) / 0x100000 else (a - 0x09000000) / 0x20000

/-- Mill n's instruction memory takes writes: unloaded, hung, or in the gap of a restart (R454). -/
def State.imemOpen (s : State) (n : Nat) : Bool :=
  s.rd F.MIL_STATE_state n == 0 || s.rd F.MIL_STATE_state n == 5 || s.rd F.SYS_MODE_STATE_phase == 3

/-- A read of `n` bytes at a fabric address: the bytes as a little-endian number, or none for an error response. -/
def State.fabRead (s : State) (ini : Initiator) (addr n : Nat) (ans : TargetAnswer) : Option Nat × State :=
  let a := s.resolveAlias addr
  let t := fabTarget a
  if ans = .silent then (none, (s.defError ini false 1 a).when (t == 3) State.outError)
  else if t = 3 ∧ ini = .host then (none, s.defError ini false 2 a)
  else if t ≤ 3 ∧ !fastSize a n then (none, s.defError ini false 3 a)
  else if t = 0 then s.granaryRead ini a n
  else if t = 1 then
    if s.cellarHas a n then (some (s.load a n), s.cellarWake) else (none, s.cellarError)
  else if t = 2 then
    if s.domainOn (millOf a / 4) then (some (s.load a n), s) else (none, s.defError ini false 0 a)
  else if t = 3 then
    if !s.on F.PCI_LINK_bme then (none, s.outError)
    else match ans with
      | .done d => (some (ofLe (d.take n) % 2 ^ (8 * n)), s)
      | _ => (none, s.outError)
  else if t = 6 then (none, s.defError ini false 0 a)
  else if a < 0x10000 then (some (ofLe ((List.range n).map fun (i : Nat) => Config.romByte (a + i))), s)
  else if strBase ≤ a ∧ a < strEnd then
    if s.memx.wiping.isSome then (none, s)
    else if a + n ≤ strBase + 0x1000 ∨ (ini = .reeve ∧ a + n ≤ strEnd) then (some (s.load a n), s)
    else (none, s.bump F.STR_COUNTS_denied)
  else if 0x20000000 ≤ a then (some (s.load a n), s)
  else if !s.pageAnswers a then (none, s.defError ini false 0 a)
  else if !pageSize a n then (none, s.pageError (pageOf a) ini false 2 a)
  else
    let r := (pageBeats n a n).foldl (fun (x : Nat × Nat × State) (b : Nat × Nat) =>
      let y := x.2.2.readBeat ini b
      (x.1 + 1, x.2.1 + y.1 * 2 ^ (8 * (b.1 - a)), y.2)) (0, 0, s)
    (some r.2.1, r.2.2)

/-- What became of a write: done, an error response, or a wait for the Granary's hold buffer (R389). -/
inductive WrResult where
  | done | error | waits
  deriving DecidableEq, Repr

/-- A write of bytes at a fabric address; `chan` tells the sources of one master port apart. -/
def State.fabWrite (s : State) (ini : Initiator) (addr : Nat) (data : List Byte) (ans : TargetAnswer) (chan : Nat := 0) :
    WrResult × State :=
  let a := s.resolveAlias addr
  let t := fabTarget a
  let n := data.length
  if ans = .silent then (.error, (s.defError ini true 1 a).when (t == 3) State.outError)
  else if t = 3 ∧ ini = .host then (.error, s.defError ini true 2 a)
  else if t ≤ 3 ∧ !fastSize a n then (.error, s.defError ini true 3 a)
  else if t = 0 then
    let r := s.granaryWrite ini addr data chan
    match r.1 with
    | .error => (.error, r.2)
    | .waits => (.waits, r.2)
    | _ => (.done, r.2)
  else if t = 1 then
    if s.cellarHas a n then (.done, s.cellarWake.setBytes a data) else (.error, s.cellarError)
  else if t = 2 then
    if !s.domainOn (millOf a / 4) then (.error, s.defError ini true 0 a)
    else if 0x09000000 ≤ a ∧ !s.imemOpen (millOf a) then (.error, s)
    else (.done, s.setBytes a data)
  else if t = 3 then
    if !s.on F.PCI_LINK_bme ∨ ans = .error then (.error, s.outError) else (.done, s.emit (.pcieWrite (s.outAddr a) data))
  else if t = 6 then (.error, s.defError ini true 0 a)
  else if a < 0x10000 ∨ 0x20000000 ≤ a then (.error, s)
  else if strBase ≤ a ∧ a < strEnd then
    if s.memx.wiping.isSome then (.error, s)
    else if ini = .reeve ∧ a + n ≤ strEnd then (.done, s.setBytes a data)
    else (.error, s.bump F.STR_COUNTS_denied)
  else if !s.pageAnswers a then (.error, s.defError ini true 0 a)
  else if !pageSize a n then (.error, s.pageError (pageOf a) ini true 2 a)
  else (.done, (pageBeats n a n).foldl (fun (x : State) (b : Nat × Nat) => x.writeBeat ini b (ofLe ((data.drop (b.1 - a)).take b.2))) s)

/-! ### Requests, hold-back and timeouts (R421, R424, R425, R428) -/

/-- A request from the host that ends in an error counts in PCI_ERRORS.ur (R457). -/
def State.answerReq (s : State) (ini : Initiator) (data : Nat) (err : Bool) : State :=
  (if err ∧ ini = .host then s.bump F.PCI_ERRORS_ur else s).respond ini data err

/-- A request is performed at its target and answered; a silent target leaves it outstanding. -/
def State.runReq (s : State) (r : FabReq) : State :=
  let s1 := s.peak F.FAB_OUT_peak (s.portOut r.ini.port + 1) 0 r.ini.port
  if r.answer = .silent then s1.modFab fun (f : Fab) => { f with outstanding := f.outstanding ++ [r] }
  else if r.write then
    let x := s1.fabWrite r.ini r.addr r.data r.answer r.chan
    match x.1 with
    | .done => x.2.answerReq r.ini 0 false
    | .error => x.2.answerReq r.ini 0 true
    | .waits => x.2
  else
    let x := s1.fabRead r.ini r.addr r.len r.answer
    match x.1 with
    | some v => x.2.answerReq r.ini v false
    | none => x.2.answerReq r.ini 0 true

/-- Two requests of one ordering source (R421). -/
def sameSource (a b : FabReq) : Bool := a.ini == b.ini && a.chan == b.chan

/-- A request is taken unless its port is shut, and is accepted, or held back for its source's earlier requests, a write of its source that waits for the hold buffer, or
a limit; `first` when it is new. A quarantined port accepts none (R389, R424, R425, R429). -/
def State.acceptReq (s : State) (r : FabReq) (first : Bool) : State :=
  if s.portShut r.ini then s
  else if bitAt (s.rd F.FAB_QUAR_ports) r.ini.port then s.bump F.FAB_HOLD_holds
  else
    let before := (s.fab.outstanding ++ s.fab.held).filter (sameSource r)
    let waits := s.waitsBehind r.ini r.chan
    let full := decide (32 ≤ s.portOut r.ini.port) || decide (256 ≤ s.fab.outstanding.length)
    if before ≠ [] ∨ waits ∨ full then
      let s1 := s.modFab fun (f : Fab) => { f with held := f.held ++ [r] }
      if first && ((waits && fabTarget r.addr != 0) || before.any fun (b : FabReq) => fabTarget b.addr != fabTarget r.addr) then s1.bump F.FAB_HOLD_holds else s1
    else s.runReq r

/-- Held requests go ahead in their order as far as they can. -/
def State.retryHeld (s : State) : State :=
  s.fab.held.foldl (fun (t : State) (r : FabReq) => t.acceptReq r false) (s.modFab fun (f : Fab) => { f with held := [] })

/-- Take the first request that `f` selects out of a list. -/
def takeReq (f : FabReq → Bool) : List FabReq → Option (FabReq × List FabReq)
  | [] => none
  | r :: l => if f r then some (r, l) else (takeReq f l).map fun (x : FabReq × List FabReq) => (x.1, r :: x.2)

/-- A quarantine ends once no response of its port is outstanding (R429 step 4). -/
def State.quarantineEnd (s : State) (ini : Initiator) : State :=
  let bit := F.FAB_QUAR_ports.part ini.port 1
  if s.on bit ∧ !(s.fab.outstanding.any fun (r : FabReq) => r.ini == ini) ∧
      !(s.memx.holdWait.any fun (w : HoldWait) => w.ini == ini && decide (w.chan < 100)) then ((s.wr bit 0).raise 0x008 1).retryHeld else s

/-- A write that waited for the hold buffer is performed and answered, or waits on behind its source's earlier ones. Responses to a
quarantined port are discarded (R389, R429). -/
def State.holdProceed (s : State) (w : HoldWait) : State :=
  if s.waitsBehind w.ini w.chan then s.queueHold w
  else if 100 ≤ w.chan then s.engineHeldWrite w
  else
    let r := s.granaryWrite w.ini w.addr w.data w.chan
    if r.1 = .waits then r.2
    else if bitAt (s.rd F.FAB_QUAR_ports) w.ini.port then r.2.quarantineEnd w.ini
    else r.2.answerReq w.ini 0 (r.1 = .error)

/-- HOLD_WAIT_PROCEED (R389): after a boundary the waiting writes proceed in order while the buffer has room, and the requests
behind them go ahead. -/
def execHoldWaitProceed (s : State) : Host.Outcome State Fault Refusal :=
  .next (s.memx.holdWait.foldl State.holdProceed { s with memx := { s.memx with holdWait := [] } }).retryHeld

/-- TARGET_TIMEOUT (R428): the oldest silent request of a source is answered by the default target with kind timeout. -/
def execTargetTimeout (ini : Initiator) (chan : Nat) (s : State) : Host.Outcome State Fault Refusal :=
  .next (match takeReq (fun (r : FabReq) => r.ini == ini && r.chan == chan) s.fab.outstanding with
    | none => s
    | some x =>
      let r := x.1
      let s1 := s.modFab fun (f : Fab) => { f with outstanding := x.2, timedOut := f.timedOut ++ [r] }
      let s2 := (s1.defError ini r.write 1 (s1.resolveAlias r.addr)).when (fabTarget r.addr == 3) State.outError
      if bitAt (s.rd F.FAB_QUAR_ports) ini.port then s2.quarantineEnd ini
      else (s2.answerReq ini 0 true).retryHeld)

/-- LATE_RESPONSE (R428, R458): the response to a request that timed out comes and is discarded; a write was performed by its
target. -/
def execLateResponse (ini : Initiator) (s : State) : Host.Outcome State Fault Refusal :=
  .next (match takeReq (fun (r : FabReq) => r.ini == ini) s.fab.timedOut with
    | none => s
    | some x =>
      let r := x.1
      let s1 := s.modFab fun (f : Fab) => { f with timedOut := x.2 }
      let s2 := if r.write then (s1.fabWrite ini r.addr r.data (.done [])).2 else s1
      if fabTarget r.addr = 3 then s2.bump F.PCI_ERRORS_cpl else s2.bump F.DEF_LATE_late)

/-- MASTER_RESET (R429, R457, R477): a master is reset; `flr` is a function-level reset of the PCIe endpoint. The Reeve is reset
by its watchdog alone. -/
def execMasterReset (ini : Initiator) (flr : Bool) (s : State) : Host.Outcome State Fault Refusal :=
  .next (if ini = .reeve then s
    else if ini = .dma then s.dmaReset
    else if ini = .host ∧ flr then
      let s1 := (((s.wr F.PCI_LINK_bme 0).wr F.PCI_LINK_msix_en 0).wr F.PCI_LINK_fmask 0).wr F.PCI_LINK_d3hot 0
      ((s1.modHost fun (h : HostIf) => { h with msix := [], pba := [] }).raise 0x0C0 1).masterReset .host
    else s.masterReset ini)

/-- QUARANTINE_END (R429): the last outstanding response of the port returns and is discarded. -/
def execQuarantineEnd (ini : Initiator) (s : State) : Host.Outcome State Fault Refusal :=
  .next (if bitAt (s.rd F.FAB_QUAR_ports) ini.port then
      (s.modFab fun (f : Fab) => { f with outstanding := f.outstanding.filter fun (r : FabReq) => r.ini != ini }).quarantineEnd ini
    else s)

/-- FAB_SYNC_READ (R426): the barrier's read takes its place behind every earlier request of its source. -/
def execFabSyncRead (ini : Initiator) (s : State) : Host.Outcome State Fault Refusal :=
  .next (s.acceptReq ⟨ini, 0, false, 0x10008040, 4, [], .done []⟩ true)

/-! ### The BARs (R455–R457) and requests -/

/-- The fabric address of a BAR offset, or the model's own address of an alias window; none where the endpoint answers with an
error (R108, R455). In recovery only BAR0 and
BAR2 are served (R486). -/
def State.barAddr (s : State) : FabricPath → Option Nat
  | .fabric a => some a
  | .bar0 o => if o < 0xFFE000 then some (0x10000000 + o) else none
  | .bar2 o =>
    if o < 0x2000000 then some (0x01000000 + o)
    else if o < 0x3000000 then some (aliasBase + (o - 0x2000000))
    else none
  | .bar4 o => if o < 0x200000000 ∧ !(s.on F.SYS_BOOT_recovery && s.boot.running.isNone) then some (0x100000000 + o) else none

/-- The MSI-X table and PBA in BAR0 (R456): a read of 4 bytes. -/
def State.msixRead (s : State) (o : Nat) : Nat :=
  if o < 0xFFF000 then s.msixWord ((o - 0xFFE000) / 4)
  else
    let i := (o - 0xFFF000) / 4
    if i < 8 then (List.range 32).foldl (fun (a : Nat) (k : Nat) => a + (if s.host.pba.contains (32 * i + k) then 2 ^ k else 0)) 0 else 0

/-- FABRIC_REQUEST (R424, R454–R458): a request of a master by fabric address, or of the host through a BAR. -/
def execFabricRequest (ini : Initiator) (chan : Nat) (path : FabricPath) (write : Bool) (len : Nat) (data : List Byte)
    (answer : TargetAnswer) (s : State) : Host.Outcome State Fault Refusal :=
  let n := if write then data.length else len
  let send (a : Nat) : State := s.acceptReq ⟨ini, chan, write, a, n, data, answer⟩ true
  let no : State := if s.portShut ini then s else s.answerReq ini 0 true
  let bar (x : Option Nat) : State :=
    if ini ≠ .host ∨ !s.on F.PCI_LINK_up ∨ s.on F.PCI_LINK_d3hot then no
    else match x with
      | some a => send a
      | none => no
  .next (match path with
    | .fabric a => if a < aliasBase ∨ s.portShut ini then send a else (s.defError ini write 0 a).answerReq ini 0 true
    | .bar0 o =>
      if 0xFFE000 ≤ o ∧ o < 0x1000000 ∧ ini = .host ∧ s.on F.PCI_LINK_up ∧ !s.on F.PCI_LINK_d3hot then
        if write then
          (if o < 0xFFF000 then (List.range (n / 4)).foldl (fun (t : State) (i : Nat) =>
            t.msixWrite ((o - 0xFFE000) / 4 + i) (ofLe ((data.drop (4 * i)).take 4))) s else s).respond ini 0
        else s.respond ini ((List.range (n / 4)).foldl (fun (a : Nat) (i : Nat) => a + s.msixRead (o + 4 * i) * 2 ^ (32 * i)) 0)
      else bar (s.barAddr path)
    | .bar2 _ => bar (s.barAddr path)
    | .bar4 _ => bar (s.barAddr path))

/-! ### Rows of single register accesses -/

/-- REGISTER_WRITE (R461): a 4-byte plain write to a register. -/
def execRegisterWrite (ini : Initiator) (page off : Nat) (value : Word) (s : State) : Host.Outcome State Fault Refusal :=
  .next (s.acceptReq ⟨ini, 0, true, pageAddr page (off % 0x400), 4, leBytes 4 value.toNat, .done []⟩ true)

/-- SET_ALIAS_WRITE (R461). -/
def execSetAliasWrite (ini : Initiator) (page off : Nat) (value : Word) (s : State) : Host.Outcome State Fault Refusal :=
  .next (s.acceptReq ⟨ini, 0, true, pageAddr page (0x400 + off % 0x400), 4, leBytes 4 value.toNat, .done []⟩ true)

/-- CLEAR_ALIAS_WRITE (R461). -/
def execClearAliasWrite (ini : Initiator) (page off : Nat) (value : Word) (s : State) : Host.Outcome State Fault Refusal :=
  .next (s.acceptReq ⟨ini, 0, true, pageAddr page (0x800 + off % 0x400), 4, leBytes 4 value.toNat, .done []⟩ true)

/-- REGISTER_READ_CLEAR (R6): a 4-byte plain read. -/
def execRegisterReadClear (ini : Initiator) (page off : Nat) (s : State) : Host.Outcome State Fault Refusal :=
  .next (s.acceptReq ⟨ini, 0, false, pageAddr page (off % 0x400), 4, [], .done []⟩ true)

/-- LOCK_WRITE (R465). -/
def execLockWrite (ini : Initiator) (page : Nat) (value : Word) (s : State) : Host.Outcome State Fault Refusal :=
  .next (s.acceptReq ⟨ini, 0, true, pageAddr page 0x03C, 4, leBytes 4 value.toNat, .done []⟩ true)

/-- IRQ_RAW_CLEAR (R464). -/
def execIrqRawClear (ini : Initiator) (page : Nat) (value : Word) (s : State) : Host.Outcome State Fault Refusal :=
  .next (s.acceptReq ⟨ini, 0, true, pageAddr page 0x010, 4, leBytes 4 value.toNat, .done []⟩ true)

/-- IRQ_TEST_WRITE (R464). -/
def execIrqTestWrite (ini : Initiator) (page : Nat) (value : Word) (s : State) : Host.Outcome State Fault Refusal :=
  .next (s.acceptReq ⟨ini, 0, true, pageAddr page 0x01C, 4, leBytes 4 value.toNat, .done []⟩ true)

/-! ### I2C (R474) -/

/-- One I2C access counts; an error counts too. -/
def State.i2cCount (s : State) (err : Bool) : State :=
  let t := s.bump F.IIC_COUNTS_accesses
  if err then t.bump F.IIC_COUNTS_errors else t

/-- One 4-byte I2C write at page address `a`, as the Reeve. NBR_GRANT and NBR_GRANT_AT take it where the Elder's channel is
I2C. -/
def State.i2cWrite (s : State) (a v : Nat) : State :=
  let elder := s.rd F.NBR_ELDER_CFG_channel == 1
  if a = 0xA0068 ∧ elder then (s.grantWrite 1 v none).i2cCount false
  else if s.on F.IIC_CFG_write_en ∨ (a = 0xA006C ∧ elder) then
    let r := s.fabWrite .reeve (0x10000000 + a) (leBytes 4 v) (.done [])
    r.2.i2cCount (r.1 == .error)
  else s.i2cCount false

/-- Four bytes read through I2C: zeros where the access meets an error. -/
def State.i2cRead (s : State) (a : Nat) : List Byte × State :=
  let r := s.fabRead .reeve (0x10000000 + a) 4 (.done [])
  (leBytes 4 (r.1.getD 0), r.2.i2cCount r.1.isNone)

/-- I2C_ACCESS (R474): a transaction to the address in IIC_CFG writes the groups of four bytes, or reads `count` groups. An
offset that is not a multiple of 4 is refused with a counted NAK; an incomplete last group is dropped and counted. -/
def execI2cAccess (addr : Nat) (write : Bool) (data : List Byte) (count : Nat) (s : State) : Host.Outcome State Fault Refusal :=
  let at' (i : Nat) : Nat := (addr + 4 * i) % 2 ^ 24
  .next (if !s.on F.IIC_CFG_enable ∨ 2 ^ 24 ≤ addr then s
    else if addr % 4 ≠ 0 then s.bump F.IIC_COUNTS_errors
    else if write then
      let s1 := (List.range (data.length / 4)).foldl (fun (t : State) (i : Nat) => t.i2cWrite (at' i) (ofLe ((data.drop (4 * i)).take 4))) s
      if data.length % 4 ≠ 0 then s1.bump F.IIC_COUNTS_errors else s1
    else
      let r := (List.range count).foldl (fun (x : List Byte × State) (i : Nat) =>
        let y := x.2.i2cRead (at' i)
        (x.1 ++ y.1, y.2)) (([] : List Byte), s)
      r.2.emit (.serial r.1))

/-! ### The PCIe endpoint (R456, R457) -/

/-- PCIE_LINK_CHANGE (R456, R457). -/
def execPcieLinkChange (up : Bool) (speed width : Nat) (s : State) : Host.Outcome State Fault Refusal :=
  .next (s.pcieLink up speed width)

/-- PCIE_CONFIG_WRITE (R456, R473): the host's configuration bits; a function mask that clears sends what it held back. -/
def execPcieConfigWrite (bme msixEn fmask d3hot : Bool) (s : State) : Host.Outcome State Fault Refusal :=
  .next (if !s.on F.PCI_LINK_up ∨ s.host.retry then s
    else ((((s.wr F.PCI_LINK_bme (b2n bme)).wr F.PCI_LINK_msix_en (b2n msixEn)).wr F.PCI_LINK_fmask (b2n fmask)).wr
      F.PCI_LINK_d3hot (b2n d3hot)).sendHeld)

end Sys2Proof.Machine
end

