-- ==== Sys2Proof/Machine/Dma.lean ====
section
/-! DEFINITION. How DMA channels run their descriptors (R430–R440). Which channel issues next, and when responses return, is
what the events of this file come in the order of. -/
namespace Sys2Proof.Machine

/-- The number of descriptors a channel has started. -/
def State.setCount (s : State) (c n : Nat) : State := (s.setDma c { s.dmaChan c with count := n }).wr F.DMC_STATE_count n 0 c

/-- The budget of a channel (R438). -/
def State.budget (s : State) (c : Nat) : Nat := let b := s.rd F.DMC_CTRL_budget 0 c; if b = 0 then 8192 else b

/-- A fetched descriptor, 32 bytes as a number, is run, polled for, or halts the channel (R431, R437, R438). -/
def State.takeDescriptor (s : State) (c v : Nat) : State :=
  let x := s.dmaChan c
  let w := bitsOf v 192 32
  if bitsOf v 248 8 ≠ 0 then if x.byRing then s.setDm c dmPoll else s.dmaHalt c 3 x.cur
  else if x.count = s.budget c then s.dmaHalt c 4 x.cur
  else
    let y := { x with src := bitsOf v 0 40, dst := bitsOf v 64 40, next := bitsOf v 128 40, len := bitsOf w 0 24, residue := bitsOf w 0 24,
                      event := bitAt w 24, ring := bitAt w 25, last := bitAt w 26, err := 0 }
    ((s.setDma c y).setCount c (x.count + 1)).setDm c dmCopy

/-- Master M1 may issue. -/
def State.dmaMay (s : State) : Bool := !bitAt (s.rd F.FAB_QUAR_ports) 1

/-- The DMA master has transactions outstanding: how many at most is a free value of 1 to 32 (R421, R430; log entry 8). -/
def State.dmaPeak (s : State) : State := (s.peak F.FAB_OUT_peak (1 + (Config.freeValue s.free).toNat % 32) 0 1).useFree

/-- DESCRIPTOR_FETCH (R433, R436, R437, R439): the fetch completes. -/
def execDescriptorFetch (chan : Nat) (answer : TargetAnswer) (s : State) : Host.Outcome State Fault Refusal :=
  let x := s.dmaChan chan
  .next (if 64 ≤ chan ∨ s.dmState chan ≠ dmFetch ∨ !s.dmaMay then s
    else if x.aborting then s.dmaHalt chan 2 x.cur
    else if x.cur % 32 ≠ 0 then s.dmaHalt chan 5 x.cur
    else
      let r := s.dmaPeak.fabRead .dma x.cur 32 answer
      match r.1 with
      | none => r.2.dmaHalt chan 5 x.cur
      | some v => r.2.takeDescriptor chan v)

/-- DMA_POLL (R437): every poll interval the descriptor is fetched again. -/
def execDmaPoll (chan : Nat) (answer : TargetAnswer) (s : State) : Host.Outcome State Fault Refusal :=
  let x := s.dmaChan chan
  .next (if 64 ≤ chan ∨ s.dmState chan ≠ dmPoll ∨ !s.dmaMay then s
    else
      let r := s.dmaPeak.fabRead .dma x.cur 32 answer
      match r.1 with
      | none => r.2.dmaHalt chan 5 x.cur
      | some v => r.2.takeDescriptor chan v)

/-- The bursts of a copy: source, destination and bytes; none crosses a 256-byte boundary of the destination (R433). -/
def burstsOf : Nat → Nat → Nat → Nat → List (Nat × Nat × Nat)
  | 0, _, _, _ => []
  | fuel + 1, src, dst, len =>
    if len = 0 then []
    else let n := min len (256 - dst % 256); (src, dst, n) :: burstsOf fuel (src + n) (dst + n) (len - n)

/-- A copy as it runs: bytes of write beats issued, the first error (0 none, 1 read, 2 write), bursts that are still issued
before the error's response arrives, and the answers of host memory to come. -/
structure CopyRun where
  st : State
  chan : Nat
  answers : List TargetAnswer
  issued : Nat
  err : Nat
  left : Nat

/-- The answer of the target at `a`: host memory's next one. -/
def CopyRun.ans (x : CopyRun) (a : Nat) : TargetAnswer × CopyRun :=
  if fabTarget a = 3 then (x.answers.headD (.done []), { x with answers := x.answers.drop 1 }) else (.done [], x)

/-- One fabric read of a burst; none once a part has failed. -/
def CopyRun.readPart (x : CopyRun) (a n : Nat) : Option (List Byte) × CopyRun :=
  if n = 0 then (some [], x)
  else
    let y := x.ans a
    let r := y.2.st.fabRead .dma a n y.1
    (r.1.map (leBytes n), { y.2 with st := r.2 })

/-- One burst: its source in one or two reads, then its write (R433, R434). -/
def CopyRun.burst (x : CopyRun) (b : Nat × Nat × Nat) : CopyRun :=
  if x.err ≠ 0 ∧ x.left = 0 then x
  else
    let x0 := if x.err ≠ 0 then { x with left := x.left - 1 } else x
    let fail (y : CopyRun) (k : Nat) : CopyRun := if y.err = 0 then { y with err := k } else y
    let n1 := min b.2.2 (256 - b.1 % 256)
    let p := x0.readPart b.1 n1
    match p.1 with
    | none => fail p.2 1
    | some d1 =>
      let q := p.2.readPart (b.1 + n1) (b.2.2 - n1)
      match q.1 with
      | none => fail q.2 1
      | some d2 =>
        let y := q.2.ans b.2.1
        let w := y.2.st.fabWrite .dma b.2.1 (d1 ++ d2) y.1 y.2.chan
        let z := { y.2 with st := w.2, issued := y.2.issued + b.2.2 }
        if w.1 = .error then fail z 2 else z

/-- Status of a descriptor (R431, R434–R436). -/
def copyStatus (err residue : Nat) (aborting : Bool) : Nat :=
  if err ≠ 0 then (if residue = 0 then 0x83 else if err = 1 then 0x81 else 0x82) else if aborting then 0x02 else 0x01

/-- The bursts of the descriptor are issued: what they wrote, the residue, and the first error (R433, R434, R436). -/
def State.dmaCopy (s : State) (c : Nat) (answers : List TargetAnswer) (ahead begun : Nat) : CopyRun × State :=
  let x := s.dmaChan c
  let all := burstsOf (x.len / 256 + 2) x.src x.dst x.len
  let bursts := if x.aborting then all.take begun else all
  let r := bursts.foldl CopyRun.burst ⟨s, c, answers, 0, 0, min ahead (s.rd F.DMA_CFG_inflight)⟩
  (r, r.st.setDma c { r.st.dmaChan c with residue := x.len - r.issued, err := r.err, copied := true })

/-- Every response to the descriptor's bursts is in: the descriptor is written back and its event posted (R433–R436, R438,
R440). -/
def State.dmaFinish (s : State) (c : Nat) (r : CopyRun) : State :=
  let x := s.dmaChan c
  let status := copyStatus x.err x.residue x.aborting
  let s1 := if 0x81 ≤ status then (s.bump F.DMA_COUNTS_bad).raise 0x010 1 else s
  let s2 := s1.setDma c { x with copied := false }
  let s3 := if x.ring then s2.setCount c 0 else s2
  let back := r.ans (x.cur + 0x1C)
  let w := s3.fabWrite .dma (x.cur + 0x1C) (leBytes 4 (x.residue + status * 2 ^ 24)) back.1 c
  if w.1 = .error then w.2.dmaHalt c 5 x.cur
  else
    let halt := if x.aborting then 2 else if x.last then 1 else 0
    if x.event ∨ 0x81 ≤ status ∨ halt = 2 then w.2.dmaPost c status halt x.cur else w.2.dmaAfter c halt

/-- DESCRIPTOR_COMPLETE (R433–R436, R438, R440): the bursts are issued and every response is in. `answers` are those of host
memory, `ahead` how many bursts were issued after one that failed before its error arrived, at most the bursts in flight; an abort
lets the `begun` bursts finish whose write beats have begun. Where writes wait for the hold buffer (R389) the channel stays in
COPY, and the command completes the descriptor once they are performed. -/
def execDescriptorComplete (chan : Nat) (answers : List TargetAnswer) (ahead begun : Nat) (s : State) : Host.Outcome State Fault Refusal :=
  .next (if 64 ≤ chan ∨ s.dmState chan ≠ dmCopy then s
    else
      let s0 := s.dmaPeak
      let r := if (s.dmaChan chan).copied then (⟨s0, chan, answers, 0, 0, 0⟩, s0) else s0.dmaCopy chan answers ahead begun
      if r.2.waitsBehind .dma chan then r.2 else r.2.dmaFinish chan r.1)

/-- EVENT_RING_ROOM (R440): an entry of the ring is free, and the channel that has waited longest posts and goes on. -/
def execEventRingRoom (ring : Nat) (s : State) : Host.Outcome State Fault Refusal :=
  let q := 192 + ring
  .next (if 56 ≤ ring ∨ !s.queueRoom q then s
    else match s.que.waiters.find? fun (c : Nat) => s.dmRing c == q with
      | none => s
      | some c =>
        match (s.dmaChan c).waiting with
        | none => s
        | some e =>
          let s1 := s.modQue fun (u : Que) => { u with waiters := u.waiters.filter fun (d : Nat) => d != c }
          ((s1.eventPush q e).raise 0x010 0).dmaAfter c (bitsOf e.toNat 40 4))

end Sys2Proof.Machine
end

