-- ==== Sys2Proof/Machine/Block.lean ====
section
/-! DEFINITION. Samples, blocks and swaps: what the sample strobe, the block-start event, a snapshot, a swap and a Churn
job do. -/
namespace Sys2Proof.Machine

/-! ### Samples (R9, R35, R126) -/

/-- The scene count, and the route count where the swap changes a route, advance at swap sample S (R35, R36, R126). -/
def State.advanceSwap (s : State) : State :=
  match s.scn.desc with
  | none => s
  | some d =>
    if d.counted ∨ d.s ≠ s.now then s
    else
      let s1 := s.wr F.ENG_SCENE_COUNT_scene_count d.count
      let s2 := if d.routes then s1.advanceRoute s.now else s1
      s2.modScn fun (c : Scn) => { c with desc := c.desc.map fun (x : SwapDesc) => { x with counted := true } }

/-- SAMPLE_STROBE (R9): the engine ESI advances by one; a swap sample is counted; ports start their frames, clock outputs
that the audio clock drives follow (R39, R267, R269, R323). While the engine is stopped the audio clock still counts a
sample period for the word clocks and, in a restart gap, the frames of zeros (R378). -/
def execSampleStrobe (s : State) : Host.Outcome State Fault Refusal :=
  .next (if !s.running then s.gapPorts.wordClocks none
    else
      let s1 := (s.modEng fun (e : Eng) => { e with esi := e.esi + 1 }).advanceSwap
      let e := s1.now
      (s1.strobePorts e).wordClocks (some e))

/-- SNAP_CAPTURE (R42): at the boundary an armed snapshot takes the engine ESI and the timebase. -/
def execSnapCapture (s : State) : Host.Outcome State Fault Refusal :=
  .next (if !(s.eng.snapArmed && s.running && s.now % s.blockLen == 0) then s
    else
      let sec := secOf s.tbNs
      let s1 := (s.wr F.ENG_SNAP_ESI_LO_snap_esi s.now).wr F.ENG_SNAP_ESI_HI_snap_esi (s.now / 2 ^ 32)
      let s2 := ((s1.wr F.ENG_SNAP_SEC_LO_sec_lo sec).wr F.ENG_SNAP_SEC_HI_sec_hi (sec / 2 ^ 32)).wr F.ENG_SNAP_NS_ns (nsOf s.tbNs)
      ((s2.modEng fun (e : Eng) => { e with snapArmed := false }).wr F.ENG_SNAP_CTRL_valid 1).raise 0x030 4)

/-! ### The swap (R125) -/

/-- Step 1 at n × L: the descriptor of a swap at `S` is latched, the banks exchange roles, the outgoing bank is locked;
step 2: the Crier takes the descriptor, and an Active names it to its Standby (R125, R127, R164, R344). -/
def State.latchSwap (s : State) (S : Nat) (fenceAll : Bool) (count : Nat) : State :=
  let live := s.liveBank
  let d : SwapDesc := ⟨S, fenceAll, count, false, false, s.swapChangesRoute, s.recalledWords⟩
  let s1 := s.modScn fun (c : Scn) => { c with desc := some d }
  let s2 := ((s1.lockBank (1 - live) 0).lockBank live 1).wr F.SCN_STATE_live_bank (1 - live)
  let s3 := (((s2.wr F.SCN_STATE_phase 3).raise 0x031 1).wr F.SCN_LAST_LO_esi S).wr F.SCN_LAST_HI_esi (S / 2 ^ 32)
  let s4 := (s3.switchAtSwap S).crierSwap count S
  let s5 := if s.leads then s4.nbrSend 5 [2, s.now, S, b2n fenceAll, count] else s4
  s5.advanceSwap

/-- SWAP_START (R125): the swap block of a ready swap enters Gather. -/
def execSwapStart (s : State) : Host.Outcome State Fault Refusal :=
  .next (match s.scn.swapAt with
    | none => s
    | some S =>
      if s.running ∧ s.rd F.SCN_STATE_phase = 2 ∧ s.now = S / s.blockLen * s.blockLen then
        s.latchSwap S (s.lon F.SCN_ARM_fence_all) ((s.rd F.ENG_SCENE_COUNT_scene_count + 1) % 2 ^ 32)
      else s)

/-! ### The block-start event (R18, R20) -/

/-- The Crossroads source of a strip or convolution channel by its key in the program. -/
def State.keySource (s : State) (key : Nat) : Nat := if key < 12288 then s.stripSource key else s.chanSource (key - 12288)

/-- Samples `lo … hi - 1` of block `n` in the program order (R23): strips with their outputs, and convolution channels,
whose block is whole once its second part has run. What a Mill serves that skips the block, or is halted, frozen or hung, stays
as it is (R221, R226). -/
def State.workSpan (s : State) (n lo hi : Nat) : State :=
  s.scn.program.foldl (fun (t : State) (key : Nat) =>
    if !s.servedNow (s.keySource key) then t
    else if key < 12288 then (t.stripWork key n lo hi).stripOutput key n lo
    else if t.chanGroups (key - 12288) = [] then
      t.putOutput n (t.chanSource (key - 12288)) (n * t.blockLen) 0 (List.replicate t.blockLen 0)
    else
      let u := t.chanWork (key - 12288) n
      if hi < t.blockLen then { u with chn := t.chn } else u) s

/-- Deferred route changes that fall before data time `e` begin (R59). -/
def State.routesUntil (s : State) (e : Nat) : State := s.beginDue e s.deferredFuel

/-- The Work stage of block `n`: old scene before the swap sample that the block contains, new scene from it on (R125);
deferred route changes of the block begin in order with the swap (R59). -/
def State.workBlockN (s : State) (n : Nat) : State :=
  let l := s.blockLen
  let whole (t : State) : State := (t.routesUntil ((n + 1) * l)).workSpan n 0 l
  let s1 := match s.scn.desc with
    | none => whole s
    | some d =>
      if d.switched ∨ d.s / l ≠ n then whole s
      else if d.s % l = 0 then whole ((s.routesUntil d.s).switchScene d.s)
      else ((((s.routesUntil d.s).workSpan n 0 (d.s % l)).switchScene d.s).routesUntil ((n + 1) * l)).workSpan n (d.s % l) l
  s1.scn.program.foldl (fun (t : State) (key : Nat) =>
    if key < 12288 && s1.servedNow (s1.keySource key) then t.stripMeterBlock key n else t) s1

/-- The scene and route count in force at the last sample of block `n` are kept for its later stages (R27). -/
def State.keepEpochs (s : State) (n : Nat) : State :=
  s.modEng fun (e : Eng) =>
    { e with epochs := ((n, s.rd F.ENG_SCENE_COUNT_scene_count, s.rd F.ENG_ROUTE_COUNT_route_count) :: e.epochs).take 4 }

/-- Uncorrectable words that engine hardware met since `old` are reported as a fault (R391). -/
def State.eccReport (s old : State) : State :=
  s.when (decide (old.rd F.GRN_ECC_uncorrected < s.rd F.GRN_ECC_uncorrected)) fun (t : State) =>
    t.raiseFault 0x0B false (t.rd F.ERR_ADDR_LO_value 0x020)

/-- The stages that begin at boundary (n + 1) × L: Route of block n - 1, the end of Gather and the Work of block n (R20,
R22, R47, R64, R245, R411). Blocks before the first one of the run have none. -/
def State.stages (s : State) (n : Nat) : State :=
  let first := s.eng.start / s.blockLen
  let s1 := if first < n then (((s.routeStage (n - 1)).writeHistory (n - 1)).gleanerStage (n - 1)).eccReport s else s
  if n < first then s1
  else (((((((s1.keepEpochs n).genBlocks n).rxBlock n).gatherPorts n).churnFrame n).workBlockN n).eccReport s1).millStarts n

/-- The ENG registers of a boundary, and the tick (R8, R42). -/
def State.engBoundary (s : State) : State :=
  let l := s.blockLen
  let b := s.now / l
  let ideal : Int := ((s.tbNs * s.fs * 65536 / 1000000000 : Nat) : Int)
  let s1 := s.wr F.ENG_PHASE_phase (unsigned 32 (satTo 32 (ideal - (s.now * 65536 : Nat))))
  let s2 := ((s1.wr F.ENG_BUF_SET_gather_set (b % 3)).wr F.ENG_BUF_SET_work_set ((b + 2) % 3)).wr F.ENG_BUF_SET_route_set ((b + 1) % 3)
  let s3 := (s2.wr F.ENG_EPOCH_scene_epoch (s.rd F.ENG_SCENE_COUNT_scene_count)).wr F.ENG_EPOCH_route_epoch (s.rd F.ENG_ROUTE_COUNT_route_count)
  let div := s.rd F.ENG_TICK_div
  if div ≠ 0 ∧ b % div = 0 then s3.raise 0x030 0 else s3

/-- An automatic realign is asked for at the first boundary after entry to Acquiring (R43). -/
def State.autoRealign (s : State) : State :=
  if !s.stp.entered then s
  else
    let s1 := s.modStp fun (x : Stp) => { x with entered := false }
    let far := decide (s.rd F.ENG_REALIGN_limit * 65536 < (signed 32 (s.rd F.ENG_PHASE_phase)).natAbs)
    if s.on F.ENG_REALIGN_auto_realign ∧ s.rd F.SYS_MODE_STATE_service ≠ 0 ∧ far ∧ !s.restarting then
      s1.modEng fun (e : Eng) => { e with realign := true }
    else s1

/-- Registers that count what runs (R72, R118): ramps, crossfades and route fades. -/
def State.showRunning (s : State) : State :=
  let b := s.now / s.blockLen * s.blockLen
  let ramps := (s.scn.ramps.filter fun (e : Nat × Ramp) => decide (b < e.2.at0 + e.2.len)).length +
    (s.scn.panRamps.filter fun (e : Nat × PanRamp) => decide (b < e.2.at0 + e.2.len)).length
  let fades := s.scn.strips.foldl (fun (a : Nat) (e : Nat × Strip) => a + (e.2.duals.filter fun (d : DualRun) => decide (b < d.start + d.len)).length +
    (e.2.tapFades.filter fun (f : TapFade) => decide (b < f.start + f.len)).length) 0
  ((s.wr F.RMP_ACTIVE_ramps (min ramps 65535)).wr F.RMP_ACTIVE_xfades (min fades 65535)).countFades

/-- The phase of a restart, the Quiet mute as it shows, and the last step of a start (R372, R377 step 3, R384, R484 step
12). -/
def State.showModes (s : State) : State :=
  let l := s.blockLen
  let s1 := match s.modes.restart with
    | some r => if s.rd F.SYS_MODE_STATE_phase = 1 ∧ r.a + s.fadeBlocks * l ≤ s.now then s.setPhase 2 else s
    | none => s
  let q := s.modes.quiet
  let t := s.now - 2 * l
  let muting := decide (q.start ≤ t) && decide (t < q.start + q.len)
  let s2 := (s1.wr F.SYS_MODE_STATE_muting (b2n muting)).wr F.SYS_MODE_STATE_muted (b2n (!muting && q.gain t == 0))
  if s.rd F.SYS_BOOT_stage = 11 ∧ s.eng.start + 3 * l ≤ s.now then (s2.wr F.SYS_BOOT_stage 12).faultInactive 0x05 else s2

/-! ### Churn host jobs (R167) -/

/-- The Churn reaches the Granary and the Cellar (R420): whether `n` bytes at `a` can be read or written there. -/
def State.churnReach (s : State) (a n : Nat) : Bool :=
  (inGranary a && inGranary (a + n - 1) && (wordsOf a n).all fun (w : Nat) => s.bankOn (8 * w)) ||
  (decide (0x100000000 ≤ a) && s.cellarHas a n)

/-- The points of a job at `a`, or none where one cannot be read. -/
def State.jobRead (s : State) (a n : Nat) : Option (List (Int × Int)) :=
  if (List.range n).all fun (i : Nat) => s.churnReach (a + 8 * i) 8 && !(wordsOf (a + 8 * i) 8).any s.poisoned then
    some ((List.range n).map fun (i : Nat) => (signed 32 (s.load (a + 8 * i) 4), signed 32 (s.load (a + 8 * i + 4) 4)))
  else none

/-- One point of a result. -/
def State.jobPoint (s : State) (a : Nat) (x : Int × Int) : State :=
  let data := leBytes 4 (unsigned 32 x.1) ++ leBytes 4 (unsigned 32 x.2)
  if inGranary a then s.engineHeldWrite ⟨.reeve, 100, a, data⟩ else s.setBytes a data

/-- JOB_DONE (R167): the running job's result is written in natural order with its block exponent, or the job ends in
error at the first point it cannot reach. -/
def execJobDone (s : State) : Host.Outcome State Fault Refusal :=
  let n := 2 ^ s.chn.job.1
  let src := s.chn.job.2.2.1
  let dst := s.chn.job.2.2.2
  .next (if !s.on F.CHN_JOB_STATUS_busy then s
    else
      let s1 := s.wr F.CHN_JOB_STATUS_busy 0
      match s.jobRead src n with
      | none => (s1.wr F.CHN_JOB_STATUS_err 1).raise 0x050 4
      | some x =>
        let r := transform s.chn.job.1 s.chn.job.2.1 x
        let ok := ((List.range n).takeWhile fun (i : Nat) => s.churnReach (dst + 8 * i) 8).length
        let s2 := ((r.1.take ok).zipIdx).foldl (fun (t : State) (e : (Int × Int) × Nat) => t.jobPoint (dst + 8 * e.2) e.1) s1
        let s3 := if ok < n then s2.wr F.CHN_JOB_STATUS_err 1 else s2
        (s3.wr F.CHN_JOB_STATUS_exp r.2).raise 0x050 4)

end Sys2Proof.Machine
end

