-- ==== Sys2Proof/Machine/Pair.lean ====
section
/-! DEFINITION. The pair (chapter 11): what the Active forwards and the Standby takes as its own, and the takeover. -/
namespace Sys2Proof.Machine

/-! ### Forwarded items (R344–R346) -/

/-- A forwarded write to a field of a pair-driven page, by its plain offset or an alias of it (R344). -/
def State.ctrlWrite (s : State) (page off value : Nat) : State :=
  let x := off % 0x400
  let view := off / 0x400
  match s.rowAt page x with
  | none => s
  | some r =>
    if view = 0 then s.regWrite .reeve page x value
    else s.regWrite .reeve page x (aliasValue (s.view .reeve page x) (r.rw ||| r.rws) value view)

/-- A staged set that came into force on the Active, with its APPLY_RESULT (R344). A SYS set carries service and Blend, of
which a follower in Proving takes Blend alone (R370); its restarts come as items of their own (R341). -/
def State.ctrlApplied (s : State) (due page code : Nat) (regs : List (Nat × Nat)) : State :=
  let copy := regs.map fun (e : Nat × Nat) => (e.1, BitVec.ofNat 32 e.2)
  let p : PendSet := ⟨page, due, false, none, copy⟩
  if code = 0 ∨ 3 < code then s.wr F.APPLY_RESULT_code code page
  else if page = 0 then
    let m := p.mode s
    let own := copy.map fun (e : Nat × Word) => if e.1 = 0x060 then (e.1, BitVec.ofNat 32 (s.followMode e.2.toNat)) else e
    if s.changesRate m then s
    else (((s.putInForce 0x000 own).setService (bitsOf (s.followMode m) 4 2)).setBlend (bitsOf m 3 1)).raise 0x000 0
  else
    let staged := copy.foldl (fun (t : State) (e : Nat × Word) => t.setReg (page * 0x1000 + e.1) e.2) s
    (staged.comeDue p).wr F.APPLY_RESULT_code code page

/-- A Crier item by its kind: 0 post, 1 cancel, 2 injection, 3 a slot's result (R344). -/
def State.ctrlCrier (s : State) (kind : Nat) (words : List Nat) : State :=
  let w : Word := BitVec.ofNat 32 (words.headD 0)
  let i := words.headD 0
  if kind = 0 then s.done (execCriPost w s)
  else if kind = 1 then s.done (execCriCancel w s)
  else if kind = 2 then s.done (execCriInject w s)
  else
    let s1 := s.modNet fun (n : Net) => { n with crier := n.crier.filter fun (e : Nat × Nat × List (Nat × List Byte)) => e.1 != i }
    if s.slotCode i = 1 then s1.endSlot i (words.getD 1 0) else s1

/-- A restart that the leader or the Active names (R341, R370): a stopped chip starts its engine, one that runs restarts at
the same boundary. -/
def State.ctrlRestart (s : State) (boundary kind mode : Nat) : State :=
  if s.running then s.modModes fun (m : Modes) => { m with follow := some (boundary, if kind = 4 ∨ kind = 5 then 2 else kind, mode) }
  else if s.rd F.SYS_MODE_STATE_phase = 5 then
    match s.heldCfg (modeKey mode) with
    | some c => (s.startEngine (s.followMode mode) false none c).modModes fun (m : Modes) => { m with follow := if kind = 4 then some (boundary, 4, mode) else none }
    | none => s
  else s

/-- An item acts. -/
def State.ctrlAct (s : State) (boundary : Nat) (item : CtrlIn) : State :=
  match item with
  | .applied page code regs => s.ctrlApplied boundary page code regs
  | .write page off value => s.ctrlWrite page off value
  | .swap S fenceAll count => if s.scn.desc.isSome then s else s.latchSwap S fenceAll count
  | .restart kind mode => s.ctrlRestart boundary kind mode
  | .crier kind words => s.ctrlCrier kind words
  | .uid value => s.modNbr fun (n : Nbr) => { n with peerUid := some value }
  | .digest value => (s.modNbr fun (n : Nbr) => { n with peerDigest := some value }).tryCopy
  | .range lo hi => s.modNbr fun (n : Nbr) => { n with peerRange := some (lo, hi) }

/-- An item that does not wait for its boundary. -/
def ctrlAtOnce : CtrlIn → Bool
  | .restart _ _ => true
  | .uid _ => true
  | .digest _ => true
  | .range _ _ => true
  | _ => false

/-- The item waits for a boundary. -/
def State.ctrlLater (s : State) (due : Nat) (item : CtrlIn) : State :=
  s.modNbr fun (n : Nbr) => { n with ctrlWait := n.ctrlWait ++ [⟨due, item⟩] }

/-- CTRL_FRAME (R341, R344, R346): an item for boundary `boundary` acts then; one that comes after it acts at once while its
first use is still to come, and later than that at the next boundary, as LATE_ITEM. -/
def execCtrlFrame (seq boundary : Nat) (item : CtrlIn) (s : State) : Host.Outcome State Fault Refusal :=
  .next (s.nbrRecv seq fun (t : State) =>
    if ctrlAtOnce item then (if t.leads ∧ item matches .restart _ _ then t else t.ctrlAct boundary item)
    else if !t.checked then t
    else if t.now < boundary then t.ctrlLater boundary item
    else if t.now < boundary + t.blockLen then t.ctrlAct boundary item
    else (t.ctrlLater (nextBlock t.blockLen t.now) item).diverge 4 (boundary / t.blockLen))

/-- Items that wait act at their boundary, in the order they came. -/
def State.ctrlDue (s : State) : State :=
  let due := s.nbr.ctrlWait.filter fun (c : CtrlItem) => decide (c.due ≤ s.now)
  let rest := s.nbr.ctrlWait.filter fun (c : CtrlItem) => decide (s.now < c.due)
  due.foldl (fun (t : State) (c : CtrlItem) => t.ctrlAct c.due c.item) (s.modNbr fun (n : Nbr) => { n with ctrlWait := rest })

/-! ### Takeover (R353, R355) -/

/-- The condition by which a takeover is decided: that of R350, or the one held as the link went down with the Active's
heartbeats (log entry 47). -/
def State.takeoverCond (s : State) : Nat := if s.nbrCond = 0 then s.nbr.condWas else s.nbrCond

/-- FAILURE_RECOGNISED (R353, R355): the Standby promotes when READY, or when CONFIRMING or DIVERGED with rough_ok; else it
sets peer_lost and waits for the Elder. In the gap of a restart it finishes the restart first, and becomes Active at B
(R380). -/
def execFailureRecognised (s : State) : Host.Outcome State Fault Refusal :=
  let c := s.takeoverCond
  .next (if !s.activeFailed then s
    else if c = 4 ∨ ((c = 3 ∨ c = 5) ∧ s.lon F.NBR_CFG_rough_ok) then
      (if s.inGap then s.modNbr fun (n : Nbr) => { n with promoteAtB := true } else s.promote)
    else s.raise 0x0A0 2)

end Sys2Proof.Machine
end

