-- ==== Sys2Proof/Machine/Boundary.lean ====
section
/-! DEFINITION. The block-start event as a whole. -/
namespace Sys2Proof.Machine

/-- BLOCK_START (R18): at a block boundary the ENG registers and the tick; the hold buffer empties; the stages of the
pipeline; generators take what was written to them; the Steeple, the pair, fail-safe and the restart go on. -/
def execBlockStart (s : State) : Host.Outcome State Fault Refusal :=
  let l := s.blockLen
  .next (if !(s.running && s.now % l == 0) then s
    else
      let s1 := s.engBoundary.modMemx fun (m : Memx) => { m with hold := [] }
      let s2 := if s.now < s.eng.start + l then s1 else s1.stages (s.now / l - 1)
      let s3 := s2.xrd.gens.foldl (fun (t : State) (e : Nat × Gen) => t.genBoundary e.1) s2
      let s4 := s3.autoRealign.steepleBlock.ctrlDue
      (s4.nbrBlock s4.now).failsafeBlock.vcxoReturns.showRunning.showModes)

end Sys2Proof.Machine
end

