-- ==== Sys2Proof/Machine/Commands.lean ====
section
/-! DEFINITION. The Reeve takes a command from a command queue and has its subsystem run it (R448–R450). -/
namespace Sys2Proof.Machine

/-- The commands of a subsystem with their argument counts (R381, R450, R508, R534); none for an unknown subsystem. -/
def subsystemCommands (sub : Nat) : Option (List (Nat × Nat)) :=
  if sub = 0x00 then some [(1, 2), (2, 0), (3, 0)]
  else if sub = 0x01 then
    some [(0x01, 2), (0x02, 1), (0x03, 2), (0x04, 0), (0x10, 1), (0x11, 3), (0x12, 0), (0x13, 2), (0x14, 0), (0x15, 0), (0x20, 3),
          (0x21, 0), (0x30, 2), (0x31, 0), (0x32, 3), (0x33, 2), (0x34, 4), (0x35, 4)]
  else if sub = 0x02 then some [(1, 0), (2, 1), (3, 0), (4, 2), (5, 0), (6, 2)]
  else if sub = 0x3F then some [(1, 0)]
  else none

/-- The status that the Reeve answers before a subsystem sees the command: 1 NO_SUBSYSTEM, 2 NO_COMMAND, 3 ARGS, 0 none
(R449). -/
def commandStatus (c : CmdHead) : Nat :=
  match subsystemCommands c.subsystem with
  | none => 1
  | some l => match assoc? l c.command with
    | none => 2
    | some n => if n = c.n then 0 else 3

/-- What a command brings with it from outside the queue: whether flash writes and fuse blows take, and a signing key. -/
structure CmdEnv where
  flashOk : Bool
  blowOk : Bool
  key : List Byte
  deriving DecidableEq, Repr

/-- Commands 0x01–0x1F of subsystem 0x01: configurations and update. -/
def State.runUpdate (s : State) (h : DWord) (cmd : Nat) (w : Nat → Word) (e : CmdEnv) : Host.Outcome State Fault Refusal :=
  if cmd = 0x01 then execCfgLoad h (w 0) (w 1) s
  else if cmd = 0x02 then execCfgSave h (w 0) e.flashOk s
  else if cmd = 0x03 then execCfgStart h (bitAt (w 0).toNat 0) (w 1) s
  else if cmd = 0x04 then execCfgList h s
  else if cmd = 0x10 then execUpdBegin h (w 0) e.flashOk s
  else if cmd = 0x11 then execUpdWrite h (w 0) (w 1) (w 2) e.flashOk s
  else if cmd = 0x12 then execUpdVerify h e.flashOk s
  else if cmd = 0x13 then execUpdActivate h (bitAt (w 0).toNat 0) (w 1) e.flashOk s
  else if cmd = 0x14 then execUpdConfirm h s
  else execUpdStatus h s

/-- Commands 0x20–0x35 of subsystem 0x01: settings, life cycle and unit secrets. -/
def State.runUnit (s : State) (h : DWord) (cmd : Nat) (w : Nat → Word) (e : CmdEnv) : Host.Outcome State Fault Refusal :=
  if cmd = 0x20 then execSetSave h (w 0) (w 1) (w 2) e.flashOk s
  else if cmd = 0x21 then execSetDefaults h e.flashOk s
  else if cmd = 0x30 then execLcAdvance h (w 0) (w 1) e.key e.blowOk s
  else if cmd = 0x31 then execProvKey h s
  else if cmd = 0x32 then execProvCert h (w 0) (w 1) (w 2) s
  else if cmd = 0x33 then execUnitSign h (w 0) (w 1) s
  else if cmd = 0x34 then execLicWrite h (w 0) (w 1) (w 2) (w 3) s
  else execLicRead h (w 0) (w 1) (w 2) (w 3) s

/-- Commands of subsystem 0x02: the Roll and dumps. -/
def State.runFaults (s : State) (h : DWord) (cmd : Nat) (w : Nat → Word) (e : CmdEnv) : Host.Outcome State Fault Refusal :=
  if cmd = 1 then execRollFlush h e.flashOk s
  else if cmd = 2 then execRollClear h (w 0) s
  else if cmd = 3 then execDumpInfo h s
  else if cmd = 4 then execDumpCopy h (w 0) (w 1) s
  else if cmd = 5 then execDumpClear h e.flashOk s
  else execPfailCopy h (w 0) (w 1) s

/-- Commands of subsystem 0x00: modes. -/
def State.runModes (s : State) (h : DWord) (cmd : Nat) (w : Nat → Word) : Host.Outcome State Fault Refusal :=
  if cmd = 1 then execModeSet h (w 0) (w 1) s
  else if cmd = 2 then execModeGet h s
  else execModeDiscard h s

/-- A command whose code and argument count its subsystem knows. -/
def State.runCommand (s : State) (h : DWord) (w : Nat → Word) (e : CmdEnv) : State :=
  let c := cmdHead h.toNat
  if c.subsystem = 0x00 then s.done (s.runModes h c.command w)
  else if c.subsystem = 0x01 then
    if c.command < 0x20 then s.done (s.runUpdate h c.command w e) else s.done (s.runUnit h c.command w e)
  else if c.subsystem = 0x02 then s.done (s.runFaults h c.command w e)
  else s.done (execQueueNop h s)

/-- COMMAND_TAKE (R449, R450): the oldest complete envelope of command queue `q` leaves it, and its command runs or is
answered with a status. -/
def execCommandTake (q : Nat) (flashOk blowOk : Bool) (key : List Byte) (s : State) : Host.Outcome State Fault Refusal :=
  .next (if q < 128 ∨ 192 ≤ q ∨ !s.takesCommands then s
    else match s.queue q with
      | [] => s
      | h :: t =>
        let c := cmdHead h.toNat
        if t.length < c.n then s
        else
          let s1 := s.putQueue q (t.drop c.n)
          let w (i : Nat) : Word := (t.getD i 0).setWidth 32
          let st := commandStatus c
          if st = 0 then s1.runCommand h w ⟨flashOk, blowOk, key⟩ else s1.reply h.toNat st [0])

end Sys2Proof.Machine
end

