-- ==== Sys2Proof/Machine/Dispatch.lean ====
section
/-! DEFINITION. One arm per command: the meaning it calls. -/
namespace Sys2Proof.Machine

/-- The effect of a command on everything but the queue. -/
def exec (i : Instr) (s : State) : Host.Outcome State Fault Refusal :=
  match i with
  | .sampleStrobe => Sys2Proof.Machine.execSampleStrobe s
  | .blockStart => Sys2Proof.Machine.execBlockStart s
  | .snapArm => Sys2Proof.Machine.execSnapArm s
  | .snapCapture => Sys2Proof.Machine.execSnapCapture s
  | .engEsiLoRead ini => Sys2Proof.Machine.execEngEsiLoRead ini s
  | .realignRequest value => Sys2Proof.Machine.execRealignRequest value s
  | .restartBegin => Sys2Proof.Machine.execRestartBegin s
  | .restartGap => Sys2Proof.Machine.execRestartGap s
  | .restartAtB => Sys2Proof.Machine.execRestartAtB s
  | .restartDone => Sys2Proof.Machine.execRestartDone s
  | .looseWriteInForce => Sys2Proof.Machine.execLooseWriteInForce s
  | .routeFadeEnd dest => Sys2Proof.Machine.execRouteFadeEnd dest s
  | .deferredRouteChange dest => Sys2Proof.Machine.execDeferredRouteChange dest s
  | .genModeWrite g value => Sys2Proof.Machine.execGenModeWrite g value s
  | .genAuxWrite g value => Sys2Proof.Machine.execGenAuxWrite g value s
  | .impulseFire g => Sys2Proof.Machine.execImpulseFire g s
  | .carryForwardReady => Sys2Proof.Machine.execCarryForwardReady s
  | .swapStart => Sys2Proof.Machine.execSwapStart s
  | .swapComplete => Sys2Proof.Machine.execSwapComplete s
  | .swapCancel => Sys2Proof.Machine.execSwapCancel s
  | .rampEnd offset => Sys2Proof.Machine.execRampEnd offset s
  | .dualRunEnd strip unit => Sys2Proof.Machine.execDualRunEnd strip unit s
  | .prepareGo value => Sys2Proof.Machine.execPrepareGo value s
  | .prepareDone => Sys2Proof.Machine.execPrepareDone s
  | .tailReady => Sys2Proof.Machine.execTailReady s
  | .switchCrossfadeStart => Sys2Proof.Machine.execSwitchCrossfadeStart s
  | .switchDone => Sys2Proof.Machine.execSwitchDone s
  | .jobGo value => Sys2Proof.Machine.execJobGo value s
  | .jobDone => Sys2Proof.Machine.execJobDone s
  | .nop op => Sys2Proof.Machine.execNop op s
  | .vmul op => Sys2Proof.Machine.execVmul op s
  | .vmac op => Sys2Proof.Machine.execVmac op s
  | .vmsu op => Sys2Proof.Machine.execVmsu op s
  | .vmova op => Sys2Proof.Machine.execVmova op s
  | .vadda op => Sys2Proof.Machine.execVadda op s
  | .vacc op => Sys2Proof.Machine.execVacc op s
  | .vclra op => Sys2Proof.Machine.execVclra op s
  | .vreda op => Sys2Proof.Machine.execVreda op s
  | .vrnd op => Sys2Proof.Machine.execVrnd op s
  | .vrndv op => Sys2Proof.Machine.execVrndv op s
  | .vaccw op => Sys2Proof.Machine.execVaccw op s
  | .vrsba op => Sys2Proof.Machine.execVrsba op s
  | .vadd op => Sys2Proof.Machine.execVadd op s
  | .vsub op => Sys2Proof.Machine.execVsub op s
  | .vaddw op => Sys2Proof.Machine.execVaddw op s
  | .vsubw op => Sys2Proof.Machine.execVsubw op s
  | .vneg op => Sys2Proof.Machine.execVneg op s
  | .vabs op => Sys2Proof.Machine.execVabs op s
  | .vmin op => Sys2Proof.Machine.execVmin op s
  | .vmax op => Sys2Proof.Machine.execVmax op s
  | .vand op => Sys2Proof.Machine.execVand op s
  | .vor op => Sys2Proof.Machine.execVor op s
  | .vxor op => Sys2Proof.Machine.execVxor op s
  | .vshl op => Sys2Proof.Machine.execVshl op s
  | .vasr op => Sys2Proof.Machine.execVasr op s
  | .vlsr op => Sys2Proof.Machine.execVlsr op s
  | .vcmplt op => Sys2Proof.Machine.execVcmplt op s
  | .vcmpeq op => Sys2Proof.Machine.execVcmpeq op s
  | .vsel op => Sys2Proof.Machine.execVsel op s
  | .vrsb op => Sys2Proof.Machine.execVrsb op s
  | .vrot op => Sys2Proof.Machine.execVrot op s
  | .vbc op => Sys2Proof.Machine.execVbc op s
  | .vaddi op => Sys2Proof.Machine.execVaddi op s
  | .vrsubi op => Sys2Proof.Machine.execVrsubi op s
  | .vexp op => Sys2Proof.Machine.execVexp op s
  | .vlg2 op => Sys2Proof.Machine.execVlg2 op s
  | .vsqrt op => Sys2Proof.Machine.execVsqrt op s
  | .vdiv op => Sys2Proof.Machine.execVdiv op s
  | .ldv op => Sys2Proof.Machine.execLdv op s
  | .stv op => Sys2Proof.Machine.execStv op s
  | .ldx op => Sys2Proof.Machine.execLdx op s
  | .stx op => Sys2Proof.Machine.execStx op s
  | .ldhx op => Sys2Proof.Machine.execLdhx op s
  | .sthx op => Sys2Proof.Machine.execSthx op s
  | .ldbc op => Sys2Proof.Machine.execLdbc op s
  | .lds op => Sys2Proof.Machine.execLds op s
  | .sts op => Sys2Proof.Machine.execSts op s
  | .lda op => Sys2Proof.Machine.execLda op s
  | .sta op => Sys2Proof.Machine.execSta op s
  | .ldhv op => Sys2Proof.Machine.execLdhv op s
  | .sthv op => Sys2Proof.Machine.execSthv op s
  | .pmod op => Sys2Proof.Machine.execPmod op s
  | .addS op => Sys2Proof.Machine.execAddS op s
  | .subS op => Sys2Proof.Machine.execSubS op s
  | .addi op => Sys2Proof.Machine.execAddi op s
  | .andS op => Sys2Proof.Machine.execAndS op s
  | .orS op => Sys2Proof.Machine.execOrS op s
  | .xorS op => Sys2Proof.Machine.execXorS op s
  | .shl op => Sys2Proof.Machine.execShl op s
  | .asr op => Sys2Proof.Machine.execAsr op s
  | .lsr op => Sys2Proof.Machine.execLsr op s
  | .li op => Sys2Proof.Machine.execLi op s
  | .sli op => Sys2Proof.Machine.execSli op s
  | .minS op => Sys2Proof.Machine.execMinS op s
  | .maxS op => Sys2Proof.Machine.execMaxS op s
  | .mvp op => Sys2Proof.Machine.execMvp op s
  | .mvm op => Sys2Proof.Machine.execMvm op s
  | .mvn op => Sys2Proof.Machine.execMvn op s
  | .rdp op => Sys2Proof.Machine.execRdp op s
  | .rdm op => Sys2Proof.Machine.execRdm op s
  | .rdn op => Sys2Proof.Machine.execRdn op s
  | .vins op => Sys2Proof.Machine.execVins op s
  | .vext op => Sys2Proof.Machine.execVext op s
  | .loopS op => Sys2Proof.Machine.execLoopS op s
  | .eob op => Sys2Proof.Machine.execEob op s
  | .bxclr op => Sys2Proof.Machine.execBxclr op s
  | .bxrd op => Sys2Proof.Machine.execBxrd op s
  | .rdb op => Sys2Proof.Machine.execRdb op s
  | .statS op => Sys2Proof.Machine.execStatS op s
  | .xfer op => Sys2Proof.Machine.execXfer op s
  | .waite op => Sys2Proof.Machine.execWaite op s
  | .illegalOperation op => Sys2Proof.Machine.execIllegalOperation op s
  | .xferComplete mill index err => Sys2Proof.Machine.execXferComplete mill index err s
  | .endOfWork times lateTails => Sys2Proof.Machine.execEndOfWork times lateTails s
  | .millAbort mill => Sys2Proof.Machine.execMillAbort mill s
  | .millReloadDone mill => Sys2Proof.Machine.execMillReloadDone mill s
  | .halt mill value => Sys2Proof.Machine.execHalt mill value s
  | .millStep mill value => Sys2Proof.Machine.execMillStep mill value s
  | .bpEn mill value => Sys2Proof.Machine.execBpEn mill value s
  | .breakpointFreeze mill => Sys2Proof.Machine.execBreakpointFreeze mill s
  | .cont mill value => Sys2Proof.Machine.execCont mill value s
  | .bstep mill value => Sys2Proof.Machine.execBstep mill value s
  | .frameReceive port fcsOk corrected uncorrected data => Sys2Proof.Machine.execFrameReceive port fcsOk corrected uncorrected data s
  | .portLinkChange port lock link fecLock localFault remoteFault => Sys2Proof.Machine.execPortLinkChange port lock link fecLock localFault remoteFault s
  | .speedSeek port => Sys2Proof.Machine.execSpeedSeek port s
  | .ptpEventTransmit port msg => Sys2Proof.Machine.execPtpEventTransmit port msg s
  | .packetLaunch stream late behind => Sys2Proof.Machine.execPacketLaunch stream late behind s
  | .membershipReport port ipv6 group => Sys2Proof.Machine.execMembershipReport port ipv6 group s
  | .criPost value => Sys2Proof.Machine.execCriPost value s
  | .criCancel value => Sys2Proof.Machine.execCriCancel value s
  | .arpRetry slot => Sys2Proof.Machine.execArpRetry slot s
  | .crierPtpRelease slot => Sys2Proof.Machine.execCrierPtpRelease slot s
  | .crierSwapRelease slot => Sys2Proof.Machine.execCrierSwapRelease slot s
  | .criInject value => Sys2Proof.Machine.execCriInject value s
  | .uartFrame data => Sys2Proof.Machine.execUartFrame data s
  | .ptsFifoInfoRead ini => Sys2Proof.Machine.execPtsFifoInfoRead ini s
  | .portFrameReceive port frame => Sys2Proof.Machine.execPortFrameReceive port frame s
  | .portLost port => Sys2Proof.Machine.execPortLost port s
  | .portLock port => Sys2Proof.Machine.execPortLock port s
  | .maskChange page => Sys2Proof.Machine.execMaskChange page s
  | .asrcLock port ratio => Sys2Proof.Machine.execAsrcLock port ratio s
  | .timebaseAdvance => Sys2Proof.Machine.execTimebaseAdvance s
  | .candidateDeviation freqs => Sys2Proof.Machine.execCandidateDeviation freqs s
  | .candidateQualify k => Sys2Proof.Machine.execCandidateQualify k s
  | .waitToRestoreExpiry k => Sys2Proof.Machine.execWaitToRestoreExpiry k s
  | .slewEnd => Sys2Proof.Machine.execSlewEnd s
  | .bandwidthStep => Sys2Proof.Machine.execBandwidthStep s
  | .lockLoss => Sys2Proof.Machine.execLockLoss s
  | .holdoverExpiry => Sys2Proof.Machine.execHoldoverExpiry s
  | .averageSave => Sys2Proof.Machine.execAverageSave s
  | .announceTimeout port => Sys2Proof.Machine.execAnnounceTimeout port s
  | .tbsOutAlign value => Sys2Proof.Machine.execTbsOutAlign value s
  | .edgeCapture source falling held => Sys2Proof.Machine.execEdgeCapture source falling held s
  | .edgInfoRead ini => Sys2Proof.Machine.execEdgInfoRead ini s
  | .ltcFrame frame => Sys2Proof.Machine.execLtcFrame frame s
  | .ltcLost => Sys2Proof.Machine.execLtcLost s
  | .ltcInTimeRead ini => Sys2Proof.Machine.execLtcInTimeRead ini s
  | .tbsNowNsRead ini => Sys2Proof.Machine.execTbsNowNsRead ini s
  | .dacSlewStep channel => Sys2Proof.Machine.execDacSlewStep channel s
  | .dacOverload channel => Sys2Proof.Machine.execDacOverload channel s
  | .drebaLinkUp => Sys2Proof.Machine.execDrebaLinkUp s
  | .drebaLinkDown lane => Sys2Proof.Machine.execDrebaLinkDown lane s
  | .timeFrame seq esi ns rtt => Sys2Proof.Machine.execTimeFrame seq esi ns rtt s
  | .hotFrame seq block recs asrc => Sys2Proof.Machine.execHotFrame seq block recs asrc s
  | .longFrame seq block recs => Sys2Proof.Machine.execLongFrame seq block recs s
  | .bankFrame seq boundary addr data => Sys2Proof.Machine.execBankFrame seq boundary addr data s
  | .ctrlFrame seq boundary item => Sys2Proof.Machine.execCtrlFrame seq boundary item s
  | .chunkFrame seq addr data => Sys2Proof.Machine.execChunkFrame seq addr data s
  | .trailerFrame seq trailer => Sys2Proof.Machine.execTrailerFrame seq trailer s
  | .scanFrame seq block hashes => Sys2Proof.Machine.execScanFrame seq block hashes s
  | .ackFrame seq => Sys2Proof.Machine.execAckFrame seq s
  | .nakFrame seq => Sys2Proof.Machine.execNakFrame seq s
  | .trailerTimeout block => Sys2Proof.Machine.execTrailerTimeout block s
  | .heartbeatPulse fault => Sys2Proof.Machine.execHeartbeatPulse fault s
  | .failureRecognised => Sys2Proof.Machine.execFailureRecognised s
  | .copyExit => Sys2Proof.Machine.execCopyExit s
  | .confirmClean => Sys2Proof.Machine.execConfirmClean s
  | .recopy => Sys2Proof.Machine.execRecopy s
  | .nbrGrantWrite channel value grantAt => Sys2Proof.Machine.execNbrGrantWrite channel value grantAt s
  | .grantTakeEffect => Sys2Proof.Machine.execGrantTakeEffect s
  | .resync value => Sys2Proof.Machine.execResync value s
  | .drill value => Sys2Proof.Machine.execDrill value s
  | .drillFail => Sys2Proof.Machine.execDrillFail s
  | .declare value => Sys2Proof.Machine.execDeclare value s
  | .modeSet header mode applyAt => Sys2Proof.Machine.execModeSet header mode applyAt s
  | .modeGet header => Sys2Proof.Machine.execModeGet header s
  | .modeDiscard header => Sys2Proof.Machine.execModeDiscard header s
  | .granaryWrite ini addr data => Sys2Proof.Machine.execGranaryWrite ini addr data s
  | .granaryRead ini addr span => Sys2Proof.Machine.execGranaryRead ini addr span s
  | .eccWriteback word => Sys2Proof.Machine.execEccWriteback word s
  | .holdWaitProceed => Sys2Proof.Machine.execHoldWaitProceed s
  | .sweeperRowTest outcomes => Sys2Proof.Machine.execSweeperRowTest outcomes s
  | .tamper pin low => Sys2Proof.Machine.execTamper pin low s
  | .strWipe ini => Sys2Proof.Machine.execStrWipe ini s
  | .wipeDone => Sys2Proof.Machine.execWipeDone s
  | .refreshDebtTick channel idle => Sys2Proof.Machine.execRefreshDebtTick channel idle s
  | .supervisoryRefresh channel => Sys2Proof.Machine.execSupervisoryRefresh channel s
  | .mr4Poll channel field need trfc => Sys2Proof.Machine.execMr4Poll channel field need trfc s
  | .wck2dqPoll channel => Sys2Proof.Machine.execWck2dqPoll channel s
  | .selfRefresh value => Sys2Proof.Machine.execSelfRefresh value s
  | .trainingComplete ok channel step ms size => Sys2Proof.Machine.execTrainingComplete ok channel step ms size s
  | .gleanerFrameComplete => Sys2Proof.Machine.execGleanerFrameComplete s
  | .glnMarkAtWrite value => Sys2Proof.Machine.execGlnMarkAtWrite value s
  | .markReady => Sys2Proof.Machine.execMarkReady s
  | .glnAdv value => Sys2Proof.Machine.execGlnAdv value s
  | .glnWriteLoRead ini => Sys2Proof.Machine.execGlnWriteLoRead ini s
  | .glnCursorLoRead ini => Sys2Proof.Machine.execGlnCursorLoRead ini s
  | .fabricRequest ini chan path write len data answer => Sys2Proof.Machine.execFabricRequest ini chan path write len data answer s
  | .targetTimeout ini chan => Sys2Proof.Machine.execTargetTimeout ini chan s
  | .masterReset ini flr => Sys2Proof.Machine.execMasterReset ini flr s
  | .quarantineEnd ini => Sys2Proof.Machine.execQuarantineEnd ini s
  | .fabSyncRead ini => Sys2Proof.Machine.execFabSyncRead ini s
  | .dmaGo chan value => Sys2Proof.Machine.execDmaGo chan value s
  | .dmaAbort chan value => Sys2Proof.Machine.execDmaAbort chan value s
  | .descriptorFetch chan answer => Sys2Proof.Machine.execDescriptorFetch chan answer s
  | .descriptorComplete chan answers ahead begun => Sys2Proof.Machine.execDescriptorComplete chan answers ahead begun s
  | .dmaPoll chan answer => Sys2Proof.Machine.execDmaPoll chan answer s
  | .eventRingRoom ring => Sys2Proof.Machine.execEventRingRoom ring s
  | .softReset page => Sys2Proof.Machine.execSoftReset page s
  | .queuePush ini q part value => Sys2Proof.Machine.execQueuePush ini q part value s
  | .queuePop ini q part => Sys2Proof.Machine.execQueuePop ini q part s
  | .commandTake q flashOk blowOk key => Sys2Proof.Machine.execCommandTake q flashOk blowOk key s
  | .queueNop header => Sys2Proof.Machine.execQueueNop header s
  | .registerWrite ini page off value => Sys2Proof.Machine.execRegisterWrite ini page off value s
  | .setAliasWrite ini page off value => Sys2Proof.Machine.execSetAliasWrite ini page off value s
  | .clearAliasWrite ini page off value => Sys2Proof.Machine.execClearAliasWrite ini page off value s
  | .registerReadClear ini page off => Sys2Proof.Machine.execRegisterReadClear ini page off s
  | .lockWrite ini page value => Sys2Proof.Machine.execLockWrite ini page value s
  | .irqRawClear ini page value => Sys2Proof.Machine.execIrqRawClear ini page value s
  | .irqTestWrite ini page value => Sys2Proof.Machine.execIrqTestWrite ini page value s
  | .applyStaged page => Sys2Proof.Machine.execApplyStaged page s
  | .applyDiscard page => Sys2Proof.Machine.execApplyDiscard page s
  | .applyDue page => Sys2Proof.Machine.execApplyDue page s
  | .msxEoi value => Sys2Proof.Machine.execMsxEoi value s
  | .msixUnmask vector => Sys2Proof.Machine.execMsixUnmask vector s
  | .i2cAccess addr write data count => Sys2Proof.Machine.execI2cAccess addr write data count s
  | .updRecover value => Sys2Proof.Machine.execUpdRecover value s
  | .resetRelease tamper0 tamper1 => Sys2Proof.Machine.execResetRelease tamper0 tamper1 s
  | .warmReset cause => Sys2Proof.Machine.execWarmReset cause s
  | .cfgLoad header lo hi => Sys2Proof.Machine.execCfgLoad header lo hi s
  | .cfgSave header rate flashOk => Sys2Proof.Machine.execCfgSave header rate flashOk s
  | .cfgStart header force applyAt => Sys2Proof.Machine.execCfgStart header force applyAt s
  | .cfgList header => Sys2Proof.Machine.execCfgList header s
  | .updBegin header size flashOk => Sys2Proof.Machine.execUpdBegin header size flashOk s
  | .updWrite header n lo hi flashOk => Sys2Proof.Machine.execUpdWrite header n lo hi flashOk s
  | .updVerify header flashOk => Sys2Proof.Machine.execUpdVerify header flashOk s
  | .updActivate header allow applyAt flashOk => Sys2Proof.Machine.execUpdActivate header allow applyAt flashOk s
  | .updConfirm header => Sys2Proof.Machine.execUpdConfirm header s
  | .updStatus header => Sys2Proof.Machine.execUpdStatus header s
  | .setSave header lo hi len flashOk => Sys2Proof.Machine.execSetSave header lo hi len flashOk s
  | .setDefaults header flashOk => Sys2Proof.Machine.execSetDefaults header flashOk s
  | .lcAdvance header lo hi key blowOk => Sys2Proof.Machine.execLcAdvance header lo hi key blowOk s
  | .provKey header => Sys2Proof.Machine.execProvKey header s
  | .provCert header lo hi len => Sys2Proof.Machine.execProvCert header lo hi len s
  | .unitSign header lo hi => Sys2Proof.Machine.execUnitSign header lo hi s
  | .licWrite header lo hi off len => Sys2Proof.Machine.execLicWrite header lo hi off len s
  | .licRead header lo hi off len => Sys2Proof.Machine.execLicRead header lo hi off len s
  | .handover => Sys2Proof.Machine.execHandover s
  | .imageConfirm blowOk => Sys2Proof.Machine.execImageConfirm blowOk s
  | .confirmExpiry => Sys2Proof.Machine.execConfirmExpiry s
  | .faultInactive id => Sys2Proof.Machine.execFaultInactive id s
  | .latchClear value => Sys2Proof.Machine.execLatchClear value s
  | .fltEnter value => Sys2Proof.Machine.execFltEnter value s
  | .fltLeave ini value => Sys2Proof.Machine.execFltLeave ini value s
  | .failsafeEntry => Sys2Proof.Machine.execFailsafeEntry s
  | .failsafeLeave => Sys2Proof.Machine.execFailsafeLeave s
  | .pfail => Sys2Proof.Machine.execPfail s
  | .wdogKick ini value => Sys2Proof.Machine.execWdogKick ini value s
  | .reeveWdogExpiry => Sys2Proof.Machine.execReeveWdogExpiry s
  | .carterTimeout carter => Sys2Proof.Machine.execCarterTimeout carter s
  | .dumpDone => Sys2Proof.Machine.execDumpDone s
  | .flashDumpDone flashOk => Sys2Proof.Machine.execFlashDumpDone flashOk s
  | .fatalTimeout => Sys2Proof.Machine.execFatalTimeout s
  | .rollReport page code d0 d1 value held => Sys2Proof.Machine.execRollReport page code d0 d1 value held s
  | .rollWindowEnd => Sys2Proof.Machine.execRollWindowEnd s
  | .rolRepGo ini value => Sys2Proof.Machine.execRolRepGo ini value s
  | .rollCopy flashOk => Sys2Proof.Machine.execRollCopy flashOk s
  | .rollFlush header flashOk => Sys2Proof.Machine.execRollFlush header flashOk s
  | .rollClear header what => Sys2Proof.Machine.execRollClear header what s
  | .dumpInfo header => Sys2Proof.Machine.execDumpInfo header s
  | .dumpCopy header lo hi => Sys2Proof.Machine.execDumpCopy header lo hi s
  | .dumpClear header flashOk => Sys2Proof.Machine.execDumpClear header flashOk s
  | .pfailCopy header lo hi => Sys2Proof.Machine.execPfailCopy header lo hi s
  | .domainSwitchDone => Sys2Proof.Machine.execDomainSwitchDone s
  | .pllLoss pll => Sys2Proof.Machine.execPllLoss pll s
  | .vcxoCheck ppm => Sys2Proof.Machine.execVcxoCheck ppm s
  | .chipResetWrite ini value => Sys2Proof.Machine.execChipResetWrite ini value s
  | .carterReset ini value => Sys2Proof.Machine.execCarterReset ini value s
  | .throttleTrip sensor mv => Sys2Proof.Machine.execThrottleTrip sensor mv s
  | .throttleRelease readings floorUs => Sys2Proof.Machine.execThrottleRelease readings floorUs s
  | .pathSilent => Sys2Proof.Machine.execPathSilent s
  | .fwFatal => Sys2Proof.Machine.execFwFatal s
  | .pfailNRise => Sys2Proof.Machine.execPfailNRise s
  | .pllRelock pll => Sys2Proof.Machine.execPllRelock pll s
  | .pcieLinkChange up speed width => Sys2Proof.Machine.execPcieLinkChange up speed width s
  | .pcieConfigWrite bme msixEn fmask d3hot => Sys2Proof.Machine.execPcieConfigWrite bme msixEn fmask d3hot s
  | .lateResponse ini => Sys2Proof.Machine.execLateResponse ini s
  | .announceMessage port => Sys2Proof.Machine.execAnnounceMessage port s
  | .candidatePresenceLoss k => Sys2Proof.Machine.execCandidatePresenceLoss k s
  | .drebaCrcError => Sys2Proof.Machine.execDrebaCrcError s
  | .gapHeartbeat => Sys2Proof.Machine.execGapHeartbeat s
  | .reverseHandoverTimeout => Sys2Proof.Machine.execReverseHandoverTimeout s
  | .pfailRecordWritten => Sys2Proof.Machine.execPfailRecordWritten s

end Sys2Proof.Machine
end

