-- ==== Sys2Proof/Safety.lean ====
section
/-! DEFINITION. The terms claims are made in: the canonical form of the stores, the parts of the state, what a command
keeps, and completion. -/
namespace Sys2Proof.Machine

/-- The three sparse stores are in canonical form: registers, in-force values and memory (chapters *Host interface and
registers* and *Memory*; equal contents are equal data). -/
def State.Canonical (s : State) : Prop :=
  SparseWf regReset s.regs ∧ SparseWf regReset s.live ∧ MemoryWf s.mem

/-- The kinds of state the spec gives the chip, one for each field of `State` (INVENTORY.md, State). -/
inductive Part where
  | regs | live | pend | mem | eng | xrd | scn | chn | fab | dma | que | host | mil | net | ports | stp | nbr | modes | memx
  | boot | flt | resp | out | free | pending
  deriving DecidableEq, Repr

/-- Part `p` of two states is the same. -/
def State.same : Part → State → State → Prop
  | .regs, s, t => t.regs = s.regs
  | .live, s, t => t.live = s.live
  | .pend, s, t => t.pend = s.pend
  | .mem, s, t => t.mem = s.mem
  | .eng, s, t => t.eng = s.eng
  | .xrd, s, t => t.xrd = s.xrd
  | .scn, s, t => t.scn = s.scn
  | .chn, s, t => t.chn = s.chn
  | .fab, s, t => t.fab = s.fab
  | .dma, s, t => t.dma = s.dma
  | .que, s, t => t.que = s.que
  | .host, s, t => t.host = s.host
  | .mil, s, t => t.mil = s.mil
  | .net, s, t => t.net = s.net
  | .ports, s, t => t.ports = s.ports
  | .stp, s, t => t.stp = s.stp
  | .nbr, s, t => t.nbr = s.nbr
  | .modes, s, t => t.modes = s.modes
  | .memx, s, t => t.memx = s.memx
  | .boot, s, t => t.boot = s.boot
  | .flt, s, t => t.flt = s.flt
  | .resp, s, t => t.resp = s.resp
  | .out, s, t => t.out = s.out
  | .free, s, t => t.free = s.free
  | .pending, s, t => t.pending = s.pending

/-- Event `b` of page `p` is recorded in its IRQ_RAW (R464). -/
def State.raw (s : State) (p b : Nat) : Bool := bitAt (s.reg (p * 0x1000 + 0x10)).toNat b

/-- Every register outside `ks` (page × 0x1000 + offset) reads in `t` as in `s`. -/
def RegsBut (ks : List Nat) (s t : State) : Prop := ∀ k, k ∉ ks → t.reg k = s.reg k

/-- Every byte of memory outside `n` bytes from `a` reads in `t` as in `s`. -/
def BytesBut (a n : Nat) (s t : State) : Prop := ∀ x, (x < a ∨ a + n ≤ x) → t.byte x = s.byte x

/-- The entries of a reply (R446, R449): the reply entry with status and result word 0, then one continuation for each
further result word. -/
def replyWords (h status : Nat) (ws : List Nat) : List DWord :=
  BitVec.ofNat 64 (2 ^ 60 + (ws.length - 1) % 16 * 2 ^ 56 + status % 256 * 2 ^ 48 + bitsOf h 32 16 * 2 ^ 32 + ws.headD 0 % 2 ^ 32) ::
    (ws.drop 1).map fun (w : Nat) => BitVec.ofNat 64 (2 * 2 ^ 60 + bitsOf h 32 16 * 2 ^ 32 + w % 2 ^ 32)

/-- From `s` to `t` the command with header `h` is answered with status `status` and result words `ws`: its notice queue
holds the reply's entries after those it held. -/
def Replies (h : DWord) (status : Nat) (ws : List Nat) (s t : State) : Prop :=
  t.queue (bitsOf h.toNat 20 7) = s.queue (bitsOf h.toNat 20 7) ++ replyWords h.toNat status ws

/-- A reply of `n` entries to header `h` is wanted and finds room in its notice queue (R441, R443, R448). -/
def ReplyRoom (h : DWord) (n : Nat) (s : State) : Prop :=
  bitAt h.toNat 27 = false ∧ (s.queue (bitsOf h.toNat 20 7)).length + n ≤ 64

/-- Every part of `l` is in `m`. -/
def covers (m l : List Part) : Bool := l.all fun p => m.any fun q => decide (p = q)

/-- Every part but the queue of waiting commands. -/
def statePartsAll : List Part :=
  [.regs, .live, .pend, .mem, .eng, .xrd, .scn, .chn, .fab, .dma, .que, .host, .mil, .net, .ports, .stp, .nbr, .modes, .memx, .boot,
    .flt, .resp, .out, .free]

/-- The parts of the state that a command can change (the part frame of every row of the table). -/
def partsOf : Instr → List Part
  | .sampleStrobe =>
    [.regs, .eng, .xrd, .scn, .host, .ports, .stp, .out, .free]
  | .blockStart | .snapArm | .ctrlFrame _ _ _ | .flashDumpDone _ | .lateResponse _ =>
    [.regs, .live, .pend, .mem, .eng, .xrd, .scn, .chn, .fab, .dma, .que, .host, .mil, .net, .ports, .stp, .nbr,
    .modes, .memx, .boot, .flt, .out, .free]
  | .snapCapture =>
    [.regs, .eng, .host, .out]
  | .engEsiLoRead _ =>
    [.regs, .eng, .que, .host, .net, .stp, .resp, .out, .free]
  | .realignRequest _ =>
    [.regs, .eng]
  | .restartBegin =>
    [.regs, .live, .pend, .mem, .eng, .xrd, .scn, .chn, .que, .host, .mil, .net, .stp, .nbr, .modes, .memx, .boot,
    .out]
  | .restartGap =>
    [.regs, .mem, .eng, .xrd, .scn, .chn, .host, .mil, .net, .stp, .modes, .memx, .boot, .out]
  | .restartAtB | .commandTake _ _ _ _ =>
    [.regs, .live, .pend, .mem, .eng, .xrd, .scn, .chn, .que, .host, .mil, .net, .ports, .stp, .nbr, .modes, .memx,
    .boot, .flt, .out, .free]
  | .restartDone | .modeDiscard _ | .applyDiscard _ =>
    [.regs, .pend, .que, .host, .modes, .out]
  | .looseWriteInForce =>
    [.regs, .mem, .xrd, .scn, .host, .out]
  | .routeFadeEnd _ | .deferredRouteChange _ =>
    [.regs, .xrd, .host, .out]
  | .genModeWrite _ _ | .genAuxWrite _ _ =>
    [.regs, .xrd]
  | .impulseFire _ =>
    [.xrd]
  | .carryForwardReady =>
    [.regs, .mem, .scn, .host, .out]
  | .swapStart =>
    [.regs, .mem, .xrd, .scn, .chn, .host, .net, .nbr, .out]
  | .swapComplete =>
    [.regs, .scn, .host, .out]
  | .swapCancel =>
    [.regs, .scn, .chn, .host, .out]
  | .rampEnd _ | .dualRunEnd _ _ =>
    [.scn]
  | .prepareGo _ | .switchDone =>
    [.regs, .chn, .host, .out]
  | .prepareDone =>
    [.regs, .mem, .chn, .host, .nbr, .out]
  | .tailReady =>
    [.regs, .mem, .chn, .host, .mil, .nbr, .out, .free]
  | .switchCrossfadeStart =>
    [.chn]
  | .jobGo _ =>
    [.regs, .chn]
  | .jobDone =>
    [.regs, .mem, .scn, .host, .nbr, .memx, .out]
  | .nop _ | .addS _ | .subS _ | .addi _ | .andS _ | .orS _ | .xorS _ | .shl _ | .asr _ | .lsr _ | .li _ | .sli _ |
    .minS _ | .maxS _ | .mvp _ | .mvm _ | .mvn _ | .rdp _ | .rdm _ | .rdn _ | .vins _ | .vext _ | .loopS _ | .eob _
    | .bxclr _ | .bxrd _ | .rdb _ | .statS _ | .xfer _ | .waite _ | .illegalOperation _ =>
    [.regs, .host, .mil, .out, .free]
  | .vmul _ | .vmac _ | .vmsu _ | .vmova _ | .vadda _ | .vacc _ | .vclra _ | .vreda _ | .vrnd _ | .vrndv _ | .vaccw
    _ | .vrsba _ | .vadd _ | .vsub _ | .vaddw _ | .vsubw _ | .vneg _ | .vabs _ | .vmin _ | .vmax _ | .vand _ | .vor
    _ | .vxor _ | .vshl _ | .vasr _ | .vlsr _ | .vcmplt _ | .vcmpeq _ | .vsel _ | .vrsb _ | .vrot _ | .vbc _ |
    .vaddi _ | .vrsubi _ | .vlg2 _ | .vsqrt _ | .vdiv _ | .pmod _ =>
    [.mil]
  | .vexp _ =>
    [.mil, .free]
  | .ldv _ | .ldx _ | .ldhx _ | .ldbc _ | .lds _ | .lda _ | .ldhv _ =>
    [.regs, .mem, .scn, .chn, .host, .mil, .nbr, .memx, .flt, .out]
  | .stv _ | .stx _ | .sthx _ | .sts _ | .sta _ | .sthv _ =>
    [.regs, .mem, .eng, .scn, .host, .mil, .nbr, .memx, .out]
  | .xferComplete _ _ _ =>
    [.regs, .mem, .scn, .chn, .host, .mil, .nbr, .memx, .flt, .out, .free]
  | .endOfWork _ _ =>
    [.regs, .mem, .eng, .scn, .chn, .host, .mil, .nbr, .flt, .out]
  | .millAbort _ =>
    [.regs, .mem, .scn, .chn, .host, .mil, .nbr, .flt, .out]
  | .millReloadDone _ =>
    [.mem, .scn, .chn, .mil]
  | .halt _ _ | .millStep _ _ | .bpEn _ _ | .cont _ _ | .bstep _ _ =>
    [.regs, .mem, .eng, .scn, .chn, .host, .mil, .nbr, .memx, .flt, .out, .free]
  | .breakpointFreeze _ =>
    [.regs, .host, .mil, .out]
  | .frameReceive _ _ _ _ _ =>
    [.regs, .mem, .scn, .que, .host, .net, .stp, .nbr, .out, .free]
  | .portLinkChange _ _ _ _ _ _ | .dacOverload _ | .msxEoi _ | .msixUnmask _ | .pcieConfigWrite _ _ _ _ =>
    [.regs, .host, .out]
  | .speedSeek _ | .faultInactive _ =>
    [.regs]
  | .ptpEventTransmit _ _ =>
    [.regs, .host, .net, .stp, .out, .free]
  | .packetLaunch _ _ _ =>
    [.regs, .host, .net, .out]
  | .membershipReport _ _ _ =>
    [.regs, .net, .out]
  | .criPost _ | .crierPtpRelease _ | .crierSwapRelease _ =>
    [.regs, .mem, .host, .net, .nbr, .out, .free]
  | .criCancel _ | .failureRecognised =>
    [.regs, .mem, .host, .net, .nbr, .out]
  | .arpRetry _ =>
    [.regs, .out]
  | .criInject _ | .uartFrame _ =>
    [.regs, .mem, .scn, .que, .host, .out]
  | .ptsFifoInfoRead _ =>
    [.regs, .net, .resp]
  | .portFrameReceive _ _ =>
    [.regs, .host, .ports, .stp, .out, .free]
  | .portLost _ =>
    [.regs, .host, .ports, .stp, .out]
  | .portLock _ | .asrcLock _ _ =>
    [.regs, .host, .ports, .out]
  | .maskChange _ =>
    [.regs, .live, .pend, .host, .mil, .ports, .stp, .out]
  | .timebaseAdvance =>
    [.regs, .stp, .out]
  | .candidateDeviation _ | .bandwidthStep | .lockLoss | .holdoverExpiry | .vcxoCheck _ =>
    [.regs, .mem, .host, .stp, .flt, .out]
  | .candidateQualify _ | .candidatePresenceLoss _ =>
    [.regs, .stp]
  | .waitToRestoreExpiry _ | .slewEnd | .announceTimeout _ | .ltcFrame _ | .ltcLost | .dacSlewStep _ =>
    [.regs, .host, .stp, .out]
  | .averageSave =>
    [.regs, .mem, .boot]
  | .tbsOutAlign _ =>
    [.stp]
  | .edgeCapture _ _ _ =>
    [.regs, .scn, .host, .stp, .out]
  | .edgInfoRead _ =>
    [.regs, .stp, .resp]
  | .ltcInTimeRead _ =>
    [.regs, .resp]
  | .tbsNowNsRead _ =>
    [.host, .resp]
  | .drebaLinkUp | .hotFrame _ _ _ _ | .trailerFrame _ _ | .scanFrame _ _ _ | .trailerTimeout _ | .copyExit |
    .confirmClean | .recopy | .resync _ | .drill _ | .declare _ | .pathSilent =>
    [.regs, .mem, .host, .nbr, .flt, .out]
  | .drebaLinkDown _ | .timeFrame _ _ _ _ | .drebaCrcError =>
    [.regs, .mem, .host, .stp, .nbr, .flt, .out]
  | .longFrame _ _ _ =>
    [.mem, .nbr, .out]
  | .bankFrame _ _ _ _ =>
    [.regs, .mem, .xrd, .scn, .host, .nbr, .memx, .flt, .out]
  | .chunkFrame _ _ _ =>
    [.regs, .mem, .nbr, .out]
  | .ackFrame _ | .heartbeatPulse _ | .drillFail =>
    [.nbr]
  | .nakFrame _ | .wck2dqPoll _ =>
    [.out]
  | .nbrGrantWrite _ _ _ =>
    [.regs, .host, .nbr, .out]
  | .grantTakeEffect =>
    [.regs, .host, .net, .nbr, .out]
  | .modeSet _ _ _ | .applyStaged _ | .applyDue _ | .updRecover _ | .pllRelock _ =>
    [.regs, .live, .pend, .mem, .eng, .xrd, .scn, .chn, .que, .host, .mil, .net, .ports, .stp, .nbr, .modes, .memx,
    .boot, .flt, .out]
  | .modeGet _ | .queuePush _ _ _ _ | .queueNop _ | .cfgList _ | .updStatus _ | .dumpInfo _ =>
    [.regs, .que, .host, .out]
  | .granaryWrite _ _ _ =>
    [.regs, .mem, .scn, .host, .nbr, .memx, .resp, .out]
  | .granaryRead _ _ _ =>
    [.regs, .mem, .scn, .chn, .host, .nbr, .memx, .flt, .resp, .out]
  | .eccWriteback _ =>
    [.memx]
  | .holdWaitProceed | .fabricRequest _ _ _ _ _ _ _ | .targetTimeout _ _ | .quarantineEnd _ | .fabSyncRead _ |
    .descriptorComplete _ _ _ _ | .registerWrite _ _ _ _ | .setAliasWrite _ _ _ _ | .clearAliasWrite _ _ _ _ |
    .registerReadClear _ _ _ | .lockWrite _ _ _ | .irqRawClear _ _ _ | .irqTestWrite _ _ _ | .i2cAccess _ _ _ _ =>
    statePartsAll
  | .sweeperRowTest _ =>
    [.regs, .mem, .scn, .chn, .host, .nbr, .memx, .boot, .flt, .out]
  | .tamper _ _ | .mr4Poll _ _ _ _ =>
    [.regs, .mem, .scn, .chn, .host, .nbr, .memx, .flt, .out]
  | .strWipe _ | .selfRefresh _ | .glnMarkAtWrite _ | .glnAdv _ =>
    [.regs, .memx]
  | .wipeDone =>
    [.regs, .mem, .host, .memx, .boot, .flt, .out]
  | .refreshDebtTick _ _ | .supervisoryRefresh _ =>
    [.regs, .memx, .out]
  | .trainingComplete _ _ _ _ _ =>
    [.regs, .live, .mem, .eng, .xrd, .scn, .chn, .host, .mil, .stp, .nbr, .modes, .memx, .boot, .flt, .out]
  | .gleanerFrameComplete | .markReady =>
    [.regs, .mem, .host, .memx, .flt, .out]
  | .glnWriteLoRead _ | .glnCursorLoRead _ =>
    [.regs, .host, .resp]
  | .masterReset _ _ | .softReset _ =>
    [.regs, .fab, .dma, .que, .host, .out]
  | .dmaGo _ _ | .dmaAbort _ _ | .eventRingRoom _ =>
    [.regs, .dma, .que, .host, .out]
  | .descriptorFetch _ _ | .dmaPoll _ _ =>
    [.regs, .mem, .eng, .scn, .chn, .dma, .que, .host, .net, .stp, .nbr, .memx, .flt, .resp, .out, .free]
  | .queuePop _ _ _ =>
    [.regs, .que, .host, .resp, .out]
  | .resetRelease _ _ | .warmReset _ | .confirmExpiry | .fatalTimeout | .pllLoss _ | .chipResetWrite _ _ |
    .carterReset _ _ | .reverseHandoverTimeout =>
    [.regs, .live, .pend, .mem, .eng, .xrd, .scn, .chn, .fab, .dma, .que, .host, .mil, .net, .ports, .stp, .nbr,
    .modes, .memx, .boot, .flt, .out]
  | .cfgLoad _ _ _ | .cfgSave _ _ _ | .updConfirm _ =>
    [.regs, .que, .host, .boot, .out]
  | .cfgStart _ _ _ =>
    [.regs, .mem, .eng, .xrd, .scn, .chn, .que, .host, .mil, .stp, .modes, .memx, .boot, .out]
  | .updBegin _ _ _ | .updVerify _ _ | .setSave _ _ _ _ _ | .setDefaults _ _ =>
    [.regs, .mem, .que, .host, .boot, .out]
  | .updWrite _ _ _ _ _ | .provCert _ _ _ _ | .licWrite _ _ _ _ _ | .dumpCopy _ _ _ | .pfailCopy _ _ _ =>
    [.regs, .mem, .que, .host, .out]
  | .updActivate _ _ _ _ =>
    [.regs, .mem, .que, .host, .modes, .boot, .out]
  | .lcAdvance _ _ _ _ _ =>
    [.regs, .mem, .scn, .chn, .que, .host, .nbr, .memx, .flt, .out]
  | .provKey _ =>
    [.regs, .mem, .que, .host, .boot, .out, .free]
  | .unitSign _ _ _ =>
    [.regs, .que, .host, .out, .free]
  | .licRead _ _ _ _ _ =>
    [.regs, .mem, .scn, .que, .host, .nbr, .memx, .out]
  | .handover =>
    [.regs, .mem, .host, .boot, .flt, .out]
  | .imageConfirm _ =>
    [.regs, .mem, .scn, .chn, .host, .nbr, .boot, .flt, .out]
  | .latchClear _ | .wdogKick _ _ =>
    [.regs, .flt]
  | .fltEnter _ | .fltLeave _ _ | .reeveWdogExpiry | .fwFatal =>
    [.regs, .mem, .scn, .chn, .host, .nbr, .flt, .out]
  | .failsafeEntry =>
    [.regs, .xrd, .host, .modes, .flt, .out]
  | .failsafeLeave =>
    [.regs, .host, .modes, .out]
  | .pfail =>
    [.regs, .mem, .scn, .chn, .host, .nbr, .modes, .flt, .out]
  | .carterTimeout _ =>
    [.regs, .mem, .scn, .chn, .fab, .host, .nbr, .flt, .out]
  | .dumpDone =>
    [.regs, .mem, .host, .flt, .out, .free]
  | .rollReport _ _ _ _ _ _ | .rolRepGo _ _ | .rollCopy _ | .throttleTrip _ _ | .throttleRelease _ _ |
    .pfailRecordWritten =>
    [.regs, .mem, .host, .flt, .out]
  | .rollWindowEnd =>
    [.mem, .flt]
  | .rollFlush _ _ | .rollClear _ _ | .dumpClear _ _ =>
    [.regs, .mem, .que, .host, .flt, .out]
  | .domainSwitchDone =>
    [.regs, .pend, .host, .out]
  | .pfailNRise =>
    [.flt]
  | .pcieLinkChange _ _ _ =>
    [.regs, .fab, .host, .out]
  | .announceMessage _ =>
    [.regs, .stp, .out, .free]
  | .gapHeartbeat =>
    [.nbr, .out]

/-- Going from `s` to `t` changes no part outside `m`, keeps the stores canonical, uses free values in order, and takes back
nothing that has left the chip. -/
structure Keeps (m : List Part) (s t : State) : Prop where
  same : ∀ p, covers m [p] = false → State.same p s t
  canon : s.Canonical → t.Canonical
  free : s.free ≤ t.free
  out : s.out <+: t.out

/-- The command `c` completes in `s` with a next state for which `P` holds. -/
def Completes (c : Instr) (s : State) (P : State → Prop) : Prop := ∃ t, exec c s = .next t ∧ P t

/-! ### Mill operations (R178, R183, R187) -/

/-- sat32 of R183. -/
def sat32 (v : Int) : Int := min (max v (-2 ^ 31)) (2 ^ 31 - 1)

/-- rnd of R183: round half up. -/
def rnd (v : Int) (n : Nat) : Int := if n = 0 then v else (v + 2 ^ (n - 1)) / 2 ^ n

/-- `r` is the number of redundant sign bits of the `w`-bit value `x` (rsb and rsb80 of R183): `x` fits in `w - r` signed bits
and in no fewer. -/
def RedundantSign (w : Nat) (x : Int) (r : Nat) : Prop :=
  r < w ∧ -2 ^ (w - 1 - r) ≤ x ∧ x < 2 ^ (w - 1 - r) ∧
    (r + 1 < w → ¬(-2 ^ (w - 2 - r) ≤ x ∧ x < 2 ^ (w - 2 - r)))

/-- The Mill after a vector operation gives lane `l` of register `reg` the word `f l`, `lam` bundles later: eight writes wait,
and BX settles on the fewest redundant sign bits when bx = 1 (R178, R187). -/
def Mill.gives (m : Mill) (op : VecOp) (lam reg : Nat) (f : Nat → Nat) : Mill :=
  { m with
    writes := m.writes ++ (List.range 8).map fun l =>
      (⟨m.k + lam, if op.mac1 then 2 else 1, m.k, false, .v reg l, f l % 2 ^ 32⟩ : MWrite)
    bxMin := if op.bx then
        some (min (m.bxMin.getD 31) ((List.range 8).foldl (fun a l => min a (rsbOf 32 (signed 32 (f l)))) 31))
      else m.bxMin }

/-- The Mill after a saturating vector operation with exact results `f l`: SAT sets where a lane saturated (R183). -/
def Mill.givesSat (m : Mill) (op : VecOp) (lam : Nat) (f : Nat → Int) : Mill :=
  ({ m with flags := if (List.range 8).all fun l => decide (sat32 (f l) = f l) then m.flags else m.flags ||| 1 } : Mill).gives op lam
    op.vd.toNat fun l => unsigned 32 (sat32 (f l))

/-- The Mill after a MAC-group operation: lane `l` of its accumulator takes wrap80 of `f l`, three bundles later (R178,
R183). -/
def Mill.accumulates (m : Mill) (op : VecOp) (f : Nat → Int) : Mill :=
  { m with
    writes := m.writes ++ (List.range 8).map fun l =>
      (⟨m.k + 3, if op.mac1 then 2 else 1, m.k, true, .a op.acc.toNat l, (f l % 2 ^ 80).toNat⟩ : MWrite) }

/-- One element of a load (R175, R190, R199): the write that waits and the flags it sets. An access that breaks a rule gives
zeros and ADDR (bit 2), an uncorrectable word zeros and ECC (bit 4). -/
def State.loadElem (s : State) (n w : Nat) (conv : Nat → Nat) (dst : MReg) (a : Nat) : Option (MTarget × Nat) → MWrite × Nat
  | none => (⟨(s.mill n).k + loadLatency a, 3, (s.mill n).k, false, dst, 0⟩, 4)
  | some (tg, lam) =>
    let r := s.millRead n (s.mill n).block tg w
    (⟨(s.mill n).k + lam, 3, (s.mill n).k, false, dst, if r.2 then 0 else conv r.1⟩, if r.2 then 16 else 0)

/-- The writes of both address generators (R191, R192): AG0's update first, AG1's on its result when both name one register. -/
def Mill.agWrites (m : Mill) (op : LsOp) (ag0 : Bool) : List MWrite :=
  let upd (r : BitVec 4) (old : Nat) (off : BitVec 4) : Nat :=
    agUpdate op.am.toNat old (m.get (.m off.toNat)) (m.get (.n r.toNat))
  let mod0 := ag0 && op.pm
  let p0 := upd op.p (m.get (.p op.p.toNat)) op.m
  let same := mod0 && op.p2 == op.p
  let p1 := upd op.p2 (if same then p0 else m.get (.p op.p2.toNat)) op.m2
  (if mod0 && !(op.en2 && op.p2 == op.p) then [(⟨m.k + 1, 3, m.k, false, .p op.p.toNat, p0⟩ : MWrite)] else []) ++
  (if op.en2 then [(⟨m.k + 1, 3, m.k, false, .p op.p2.toNat, p1⟩ : MWrite)] else [])

/-- The Mill after a load of the elements `es` (write and flags, in lane order) and the address generators' updates. -/
def Mill.loads (m : Mill) (op : LsOp) (es : List (MWrite × Nat)) : Mill :=
  { m with writes := m.writes ++ es.map (·.1) ++ m.agWrites op true, flags := es.foldl (fun f e => f ||| e.2) m.flags }

/-- `t` is `s` after a load of the elements `es`: the Mill alone changes, but for the report of bit errors that the load meets
(R390). -/
def State.LoadedTo (s : State) (op : LsOp) (es : List (MWrite × Nat)) (t : State) : Prop :=
  t.mil = (s.setMill op.mill ((s.mill op.mill).loads op es)).mil ∧ t.eng = s.eng ∧ t.xrd = s.xrd ∧
  (s.memx.poison = [] → s.memx.soft = [] → t = s.setMill op.mill ((s.mill op.mill).loads op es))

/-- Memory reads in `t` as in `s` after the pieces of `els` (address, bytes) are stored in order. -/
def StoredInOrder (els : List (Nat × List Byte)) (s t : State) : Prop :=
  ∀ y, t.byte y = (els.foldl (fun (u : State) (e : Nat × List Byte) => u.setBytes e.1 e.2) s).byte y

/-- No write to `r` that waits falls due at the end of the bundle. -/
def Mill.Quiet (m : Mill) (r : MReg) : Prop := ∀ w ∈ m.writes, w.at' ≤ m.k + 1 → w.dst ≠ r

/-- The register has this lane: lanes are 0 to 7 (R169). -/
def MReg.Lane : MReg → Prop
  | .v _ l => l < 8
  | .a _ l => l < 8
  | _ => True

/-- Every waiting write of the Mill comes from one of the four slots and names a lane that exists. -/
def Mill.WritesOk (m : Mill) : Prop := ∀ w ∈ m.writes, w.rank < 4 ∧ w.dst.Lane

/-- A Churn switch names channels that exist (R157: 128 channels). -/
def State.SwitchOk (s : State) : Prop := ∀ w, s.chn.sw = some w → ∀ c ∈ w.chans, c.1 < 128

/-- Fault `id` is latched (R511). -/
def State.latch (s : State) (id : Nat) : Bool := bitAt (s.rd F.FLT_LATCH_bits) id

/-- The positions of the Sweeper: bank and row (R394). -/
def State.sweepAt (s : State) : Nat × Nat := (s.rd F.SWP_POS_bank, s.rd F.SWP_POS_row)

end Sys2Proof.Machine
end

