-- ==== Sys2Proof/Certificates/Slice0/Obligations.lean ====
section
/-! DEFINITION. The statements about the chip, for the provers: one for each family of the commands of
spec/opcode_table.json and each kind of state, then the statements over all commands. Each names the rules it formalises, and the
log entry of notes/assumptions/ where a clause rests on a choice of the model. -/

open Sys2Proof Sys2Proof.Machine

/-- R185, R178, R180, R183, R184: on a Mill that issues, the saturating vector operations give every lane of vd the saturated
exact result, one bundle later (the extraction operations VRND and VRNDV two, the division twelve); SAT sets where a lane
saturates and nothing else of the machine changes. -/
def Obligations.SaturatingVectorResults : Prop :=
  ∀ (op : VecOp) (s : State), s.millIssues op.mill = true →
    let m := s.mill op.mill
    let a := fun l => m.vi op.va.toNat l
    let b := fun l => signed 32 (if op.bc then m.vl op.vb.toNat (op.imm.toNat % 8) else m.vl op.vb.toNat l)
    let k := fun l => if op.imm.getLsbD 5 then (max 0 (min 31 (b l))).toNat else op.imm.toNat % 32
    let acc := fun l => m.ai op.acc.toNat l
    let sat := fun lam f => Host.Outcome.next (s.setMill op.mill (m.givesSat op lam f))
    exec (.vadd op) s = sat 1 (fun l => a l + b l) ∧
    exec (.vsub op) s = sat 1 (fun l => a l - b l) ∧
    exec (.vneg op) s = sat 1 (fun l => -a l) ∧
    exec (.vabs op) s = sat 1 (fun l => max (a l) (-a l)) ∧
    exec (.vshl op) s = sat 1 (fun l => a l * 2 ^ k l) ∧
    exec (.vaddi op) s = sat 1 (fun l => a l + op.imm.toInt) ∧
    exec (.vrsubi op) s = sat 1 (fun l => op.imm.toInt - a l) ∧
    exec (.vrnd op) s = sat 2 (fun l => rnd (acc l) (op.imm.toNat % 64)) ∧
    exec (.vrndv op) s = sat 2 (fun l => rnd (acc l) (max 0 (min 63 (b l))).toNat) ∧
    exec (.vdiv op) s = Host.Outcome.next (s.setMill op.mill
      (({ m with flags := if (List.range 8).any fun l => decide (b l = 0) then m.flags ||| 2 else m.flags } : Mill).givesSat op 12
        fun l => if b l = 0 then (if 0 < acc l then 2 ^ 31 - 1 else if acc l < 0 then -2 ^ 31 else 0)
          else if op.imm.getLsbD 0 then (acc l).tdiv (b l) else (acc l).fdiv (b l)))

/-- R185, R178: on a Mill that issues, the vector operations that do not saturate give every lane of vd the word of the
table; a compare gives all ones or all zeros. -/
def Obligations.PlainVectorResults : Prop :=
  ∀ (op : VecOp) (s : State), s.millIssues op.mill = true →
    let m := s.mill op.mill
    let va := fun l => m.vl op.va.toNat l
    let vb := fun l => if op.bc then m.vl op.vb.toNat (op.imm.toNat % 8) else m.vl op.vb.toNat l
    let a := fun l => signed 32 (va l)
    let b := fun l => signed 32 (vb l)
    let k := fun l => if op.imm.getLsbD 5 then (max 0 (min 31 (b l))).toNat else op.imm.toNat % 32
    let acc := fun l => m.ai op.acc.toNat l
    let gives := fun lam f => Host.Outcome.next (s.setMill op.mill (m.gives op lam op.vd.toNat f))
    exec (.vaddw op) s = gives 1 (fun l => (va l + vb l) % 2 ^ 32) ∧
    exec (.vsubw op) s = gives 1 (fun l => (va l + 2 ^ 32 - vb l) % 2 ^ 32) ∧
    exec (.vmin op) s = gives 1 (fun l => if a l ≤ b l then va l else vb l) ∧
    exec (.vmax op) s = gives 1 (fun l => if a l ≤ b l then vb l else va l) ∧
    exec (.vand op) s = gives 1 (fun l => va l &&& vb l) ∧
    exec (.vor op) s = gives 1 (fun l => va l ||| vb l) ∧
    exec (.vxor op) s = gives 1 (fun l => va l ^^^ vb l) ∧
    exec (.vasr op) s = gives 1 (fun l => unsigned 32 (a l / 2 ^ k l)) ∧
    exec (.vlsr op) s = gives 1 (fun l => va l / 2 ^ k l) ∧
    exec (.vcmplt op) s = gives 1 (fun l => if a l < b l then 0xFFFFFFFF else 0) ∧
    exec (.vcmpeq op) s = gives 1 (fun l => if va l = vb l then 0xFFFFFFFF else 0) ∧
    exec (.vsel op) s = gives 1 (fun l => if signed 32 (m.vl op.vd.toNat l) < 0 then va l else vb l) ∧
    exec (.vrot op) s = gives 1 (fun l => va ((l + op.imm.toNat % 8) % 8)) ∧
    exec (.vbc op) s = gives 1 (fun _ => va (op.imm.toNat % 8)) ∧
    exec (.vaccw op) s = gives 2 (fun l => unsigned 32 (acc l / 2 ^ (op.imm.toNat % 128))) ∧
    (∃ f, exec (.vrsb op) s = gives 1 f ∧ ∀ l < 8, RedundantSign 32 (a l) (f l)) ∧
    (∃ f, exec (.vrsba op) s = gives 2 f ∧ ∀ l < 8, RedundantSign 80 (acc l) (f l))

/-- R185, R179, R183: on a Mill that issues, a MAC-group operation gives every lane of its accumulator wrap80 of the exact
result, three bundles later; accumulates read through the forwarding path, VREDA reads the visible lanes. An accumulate sees
the newest MAC-group write issued in an earlier bundle, whatever the distance; with none waiting it sees the visible value. -/
def Obligations.AccumulatorResults : Prop :=
  (
    ∀ (op : VecOp) (s : State), s.millIssues op.mill = true →
      let m := s.mill op.mill
      let a := fun l => if op.ua then (m.vl op.va.toNat l : Int) else signed 32 (m.vl op.va.toNat l)
      let wb := fun l => if op.bc then m.vl op.vb.toNat (op.imm.toNat % 8) else m.vl op.vb.toNat l
      let b := fun l => if op.ub then (wb l : Int) else signed 32 (wb l)
      let acc := fun l => m.fwd op.acc.toNat l
      let gives := fun f => Host.Outcome.next (s.setMill op.mill (m.accumulates op f))
      exec (.vmul op) s = gives (fun l => a l * b l) ∧
      exec (.vmac op) s = gives (fun l => acc l + a l * b l) ∧
      exec (.vmsu op) s = gives (fun l => acc l - a l * b l) ∧
      exec (.vmova op) s = gives (fun l => a l * 2 ^ (op.imm.toNat % 64)) ∧
      exec (.vadda op) s = gives (fun l => acc l + a l * 2 ^ (op.imm.toNat % 64)) ∧
      exec (.vacc op) s = gives (fun l => acc l + m.fwd (op.va.toNat % 8) l) ∧
      exec (.vclra op) s = gives (fun _ => 0) ∧
      exec (.vreda op) s = gives (fun _ => m.ai op.acc.toNat 0 + m.ai op.acc.toNat 1 + m.ai op.acc.toNat 2 + m.ai op.acc.toNat 3 +
        m.ai op.acc.toNat 4 + m.ai op.acc.toNat 5 + m.ai op.acc.toNat 6 + m.ai op.acc.toNat 7)) ∧
  (
    ∀ (m : Mill) (i l : Nat),
      ((∀ w ∈ m.writes, w.mac = true → w.dst = .a i l → m.k ≤ w.issued) → m.fwd i l = m.ai i l) ∧
      ∀ (ws : List MWrite) (w : MWrite), w.mac = true → w.dst = .a i l → w.issued < m.k →
        (∀ x ∈ ws, x.mac = true → x.dst = .a i l → x.issued < m.k → x.issued < w.issued ∨ (x.issued = w.issued ∧ x.rank ≤ w.rank)) →
        ({ m with writes := ws ++ [w] } : Mill).fwd i l = signed 80 w.val)

/-- R186, R178: on a Mill that issues, VLG2, VSQRT and VEXP give their results four bundles later. VSQRT gives the exact
integer square root, held to 2^31 - 1; VLG2 gives 0x8000_0000 for zero and lg2 of R89 otherwise; VEXP gives the gain pair of
R77 in vd and vd + 1, and (0, 0) for the off word. An odd vd, which R184 rules out, takes free values (log entry 22). -/
def Obligations.SpecialFunctionResults : Prop :=
  ∀ (op : VecOp) (s : State), s.millIssues op.mill = true →
    let m := s.mill op.mill
    let z := fun l => m.get (.a op.acc.toNat l) % 2 ^ 64
    let v := fun l => signed 16 (m.vl op.va.toNat l)
    (∃ r : Nat → Nat, (∀ l, r l ^ 2 ≤ z l ∧ z l < (r l + 1) ^ 2) ∧
      exec (.vsqrt op) s = .next (s.setMill op.mill
        (({ m with flags := if (List.range 8).all fun l => decide (r l < 2 ^ 31) then m.flags else m.flags ||| 1 } : Mill).gives op 4
          op.vd.toNat fun l => min (r l) (2 ^ 31 - 1)))) ∧
    exec (.vlg2 op) s = .next (s.setMill op.mill
      (m.gives op 4 op.vd.toNat fun l => if z l = 0 then 0x80000000 else unsigned 32 (lg2 (z l) (op.imm.toNat % 64)))) ∧
    (op.vd.toNat % 2 = 0 → exec (.vexp op) s = .next (s.setMill op.mill
      ((m.gives op 4 op.vd.toNat fun l => if v l = -32768 then 0 else (gainPair (v l)).1 % 2 ^ 32).gives op 4
        (op.vd.toNat + 1) fun l => if v l = -32768 then 0 else unsigned 32 (gainPair (v l)).2))) ∧
    (op.vd.toNat % 2 = 1 → exec (.vexp op) s = .next ((s.useFree 2).setMill op.mill
      ((m.gives op 4 op.vd.toNat fun l => bitsOf (Config.freeValue s.free).toNat (32 * l) 32).gives op 4
        ((op.vd.toNat + 1) % 32) fun l => bitsOf (Config.freeValue (s.free + 1)).toNat (32 * l) 32)))

/-- R171, R175, R178, R197: what an access of a Mill program reaches, and the latency of a load from it. A misaligned access,
one that meets a transfer in flight, and one to any other address reach nothing. -/
def Obligations.MillAddressMap : Prop :=
  ∀ (s : State) (n x len : Nat), 0 < len →
    let ok := x % min len 32 = 0 ∧ (s.mill n).guarded x len = false
    (ok → x + len ≤ 0x100000 → s.millAccess n x len = some (.bytes (0x08000000 + n * 0x100000 + x), 3)) ∧
    (ok → 0x01000000 ≤ x → x + len ≤ 0x03000000 → s.millAccess n x len = some (.bytes x, 8)) ∧
    (ok → 0x03000000 ≤ x → x + len ≤ 0x03800000 → s.millAccess n x len = some (.scene false (x - 0x03000000), 8)) ∧
    (ok → 0x03800000 ≤ x → x + len ≤ 0x04000000 → s.millAccess n x len = some (.scene true (x - 0x03800000), 8)) ∧
    (ok → 0x04000000 ≤ x → x + len ≤ 0x04800000 →
      s.millAccess n x len = some (.dest ((x - 0x04000000) / 512) (x % 512), 12)) ∧
    (ok → 0x05000000 ≤ x → x + len ≤ 0x05800000 →
      s.millAccess n x len = some (.source ((x - 0x05000000) / 512) (x % 512), 12)) ∧
    (ok → (0x100000 < x + len ∧ x < 0x01000000) ∨ (0x04800000 < x + len ∧ x < 0x05000000) ∨ 0x05800000 < x + len →
      s.millAccess n x len = none) ∧
    (¬ok → s.millAccess n x len = none)

/-- R190, R174, R175, R178, R192: on a Mill that issues, with a legal addressing mode, each load gives its register the
elements the table names, read at the address Pp holds at issue, after the latency of what it reads; a contiguous access is
checked as a whole and reaches neighbouring regions, a strided one and the halfwords are checked element by element; the
address generators update once; nothing else changes but the report of a bit error that the load meets. -/
def Obligations.LoadResults : Prop :=
  ∀ (op : LsOp) (s : State), s.millIssues op.mill = true → op.am ≠ 3 →
    let n := op.mill
    let m := s.mill n
    let x := m.get (.p op.p.toNat)
    let t := signed 32 (m.get (.m (12 + op.ss.toNat)))
    let lane := fun l => (((x : Int) + l * t) % 2 ^ 32).toNat
    let whole := fun (len w step k l : Nat) => if x % min len 32 = 0 ∧ m.guarded x len = false ∧
      (∀ i, i < k → (millTarget n (x + step * i) w).isSome = true) then millTarget n (x + step * l) w else none
    let half := fun v => unsigned 32 (signed 16 v)
    let lane8 := fun (f : Nat → MWrite × Nat) => (List.range 8).map f
    (∃ u, exec (.ldv op) s = .next u ∧ s.LoadedTo op
      (lane8 fun l => s.loadElem n 4 id (.v op.reg.toNat l) (x + 4 * l) (whole 32 4 4 8 l)) u) ∧
    (∃ u, exec (.ldx op) s = .next u ∧ s.LoadedTo op
      (lane8 fun l => s.loadElem n 4 id (.v op.reg.toNat l) (lane l) (s.millAccess n (lane l) 4)) u) ∧
    (∃ u, exec (.ldhx op) s = .next u ∧ s.LoadedTo op
      (lane8 fun l => s.loadElem n 2 half (.v op.reg.toNat l) (lane l) (s.millAccess n (lane l) 2)) u) ∧
    (∃ u, exec (.ldbc op) s = .next u ∧ s.LoadedTo op
      (lane8 fun l => s.loadElem n 4 id (.v op.reg.toNat l) x (s.millAccess n x 4)) u) ∧
    (∃ u, exec (.lds op) s = .next u ∧ s.LoadedTo op [s.loadElem n 4 id (.s (op.reg.toNat % 16)) x (s.millAccess n x 4)] u) ∧
    (∃ u, exec (.lda op) s = .next u ∧ s.LoadedTo op
      (lane8 fun l => s.loadElem n 10 id (.a (op.reg.toNat % 8) l) (x + 16 * l) (whole 128 10 16 8 l)) u) ∧
    (∃ u, exec (.ldhv op) s = .next u ∧ s.LoadedTo op
      (lane8 fun l => s.loadElem n 2 half (.v op.reg.toNat l) ((x + 2 * l) % 2 ^ 32) (s.millAccess n ((x + 2 * l) % 2 ^ 32) 2)) u) ∧
    exec (.pmod op) s = .next (s.setMill n (m.loads op []))

/-- R190, R171, R172, R173, R110, R174, R181, R192, R221: on a Mill that issues, with a legal addressing mode, every store
completes; one whose access is aligned, mapped and unprotected puts its bytes into memory, little-endian, and no other byte
changes, nor any register, source or bank in force; the address generators update once. Here every byte lies in a Mill
store or in the Granary outside the scene banks, and no copy from the Active holds engine writes back (R351); the second
half says where the other stores go. A locked bank drops it and counts; a scene window, a destination, a source the schedule
gives to another Mill and bytes outside samples and tag break the rules; a Mill in overrun drops its source writes; a store
to an own source changes that source's samples of the block in Work, or its tag, and the frame reads back what this Work
stage wrote. -/
def Obligations.Stores : Prop :=
  (
    ∀ (op : LsOp) (s : State), s.millIssues op.mill = true → op.am ≠ 3 →
      let n := op.mill
      let m := s.mill n
      let x := m.get (.p op.p.toNat)
      let t := signed 32 (m.get (.m (12 + op.ss.toNat)))
      let lane := fun l => (((x : Int) + l * t) % 2 ^ 32).toNat
      let word := fun l => m.vl op.reg.toNat l
      let plain := fun (q : Option (MTarget × Nat)) (a len : Nat) =>
        (bankOf a = none ∧ bankOf (a + len - 1) = none) ∧ ∃ lam, q = some (MTarget.bytes a, lam)
      let stores := fun (els : List (Nat × List Byte)) (u : State) => StoredInOrder els s u ∧ u.regs = s.regs ∧ u.eng = s.eng ∧ u.scn = s.scn ∧
        u.mil = (s.setMill n { m with writes := m.writes ++ m.agWrites op true }).mil
      (∀ a : Nat → Nat,
        (∃ u, exec (.stv op) s = .next u ∧ (s.copying = false → plain (s.millAccess n x 32) (a 0) 32 →
          stores [(a 0, (List.range 8).flatMap fun l => leBytes 4 (word l))] u)) ∧
        (∃ u, exec (.stx op) s = .next u ∧ (s.copying = false → (∀ l, l < 8 → plain (s.millAccess n (lane l) 4) (a l) 4) →
          stores ((List.range 8).map fun l => (a l, leBytes 4 (word l))) u)) ∧
        (∃ u, exec (.sthx op) s = .next u ∧ (s.copying = false → (∀ l, l < 8 → plain (s.millAccess n (lane l) 2) (a l) 2) →
          stores ((List.range 8).map fun l => (a l, leBytes 2 (word l % 65536))) u)) ∧
        (∃ u, exec (.sts op) s = .next u ∧ (s.copying = false → plain (s.millAccess n x 4) (a 0) 4 →
          stores [(a 0, leBytes 4 (m.get (.s (op.reg.toNat % 16))))] u)) ∧
        (∃ u, exec (.sta op) s = .next u ∧ (s.copying = false → plain (s.millAccess n x 128) (a 0) 128 →
          stores [(a 0, (List.range 8).flatMap fun l => leBytes 16 ((m.ai (op.reg.toNat % 8) l) % 2 ^ 128).toNat)] u)) ∧
        (∃ u, exec (.sthv op) s = .next u ∧ (s.copying = false → (∀ l, l < 8 → plain (s.millAccess n ((x + 2 * l) % 2 ^ 32) 2) (a l) 2) →
          stores ((List.range 8).map fun l => (a l, leBytes 2 (word l % 65536))) u)))) ∧
  (
    ∀ (s : State) (n a off d src b : Nat) (old : Bool) (data : List Byte),
      let m := s.mill n
      (bankOf a = some b → a % 0x800000 + data.length ≤ 0x800000 → s.bankLocked b = true →
        s.millStore n (.bytes a) data = some s.lockDrop) ∧
      s.millStore n (.scene old off) data = none ∧
      s.millStore n (.dest d off) data = none ∧
      (s.owns n src = false → s.millStore n (.source src off) data = none) ∧
      (s.owns n src = true → m.overrun = true → s.millStore n (.source src off) data = some s) ∧
      (s.owns n src = true → m.overrun = false → off + data.length ≤ 4 * s.blockLen →
        ∃ u, s.millStore n (.source src off) data = some u ∧ u.mem = s.mem ∧ u.regs = s.regs ∧
          u.eng = { s.eng with blocks := assocPut s.eng.blocks (m.block % 3 * 16384 + src) (patchBlock (s.srcBlock m.block src) off data) } ∧
          ∀ i, i < data.length → u.millRead n m.block (.source src (off + i)) 1 = ((data.getD i 0).toNat, false)) ∧
      (s.owns n src = true → m.overrun = false → 4 * s.blockLen < off + data.length → off < 256 ∨ 264 < off + data.length →
        s.millStore n (.source src off) data = none) ∧
      (s.owns n src = true → m.overrun = false → 256 ≤ off → off + data.length ≤ 264 → s.blockLen ≤ 64 →
        s.copying = false → ∃ u, s.millStore n (.source src off) data = some u ∧ u.eng.blocks = s.eng.blocks ∧
          StoredInOrder [(0x02FA0000 + (m.block % 3 * 16384 + src) * 8 + (off - 256), data)] s u ∧
          ∀ i, i < data.length → u.millRead n m.block (.source src (off + i)) 1 = ((data.getD i 0).toNat, false)))

/-- R175: an access of a Mill program that is not aligned to its transfer size, or to 32 bytes where it is larger, is an
address error: ADDR sets, its load writes zeros to its destination, and its store writes nothing. A word-vector access is one
access, a strided or halfword one an access per lane. -/
def Obligations.MisalignedAccesses : Prop :=
  ∀ (op : LsOp) (s : State), s.millIssues op.mill = true → op.am ≠ 3 →
    let n := op.mill
    let m := s.mill n
    let x := m.get (.p op.p.toNat)
    let t := signed 32 (m.get (.m (12 + op.ss.toNat)))
    let lane := fun l => (((x : Int) + l * t) % 2 ^ 32).toNat
    let zero := fun dst a =>
      ((⟨m.k + (if a < 0x01000000 then 3 else if a < 0x04000000 then 8 else 12), 3, m.k, false, dst, 0⟩ : MWrite), 4)
    let nothing := fun (u : State) => u.mem = s.mem ∧ u.regs = s.regs ∧ u.eng = s.eng ∧
      u.mil = (s.setMill n { m with writes := m.writes ++ m.agWrites op true, flags := m.flags ||| 4 }).mil
    (x % 32 ≠ 0 →
      (∃ u, exec (.ldv op) s = .next u ∧ s.LoadedTo op ((List.range 8).map fun l => zero (.v op.reg.toNat l) (x + 4 * l)) u) ∧
      (∃ u, exec (.stv op) s = .next u ∧ nothing u) ∧
      (∃ u, exec (.lda op) s = .next u ∧ s.LoadedTo op ((List.range 8).map fun l => zero (.a (op.reg.toNat % 8) l) (x + 16 * l)) u) ∧
      (∃ u, exec (.sta op) s = .next u ∧ nothing u)) ∧
    (x % 2 = 1 → x < 2 ^ 32 →
      (∃ u, exec (.ldhv op) s = .next u ∧ s.LoadedTo op
        ((List.range 8).map fun l => zero (.v op.reg.toNat l) ((x + 2 * l) % 2 ^ 32)) u) ∧
      (∃ u, exec (.sthv op) s = .next u ∧ nothing u)) ∧
    (x % 4 ≠ 0 →
      (∃ u, exec (.ldbc op) s = .next u ∧ s.LoadedTo op ((List.range 8).map fun l => zero (.v op.reg.toNat l) x) u) ∧
      (∃ u, exec (.lds op) s = .next u ∧ s.LoadedTo op [zero (.s (op.reg.toNat % 16)) x] u) ∧
      (∃ u, exec (.sts op) s = .next u ∧ nothing u)) ∧
    (∀ l, l < 8 →
      (lane l % 4 ≠ 0 → Completes (.ldx op) s fun u => (u.mill n).flags / 4 % 2 = 1 ∧
        (zero (.v op.reg.toNat l) (lane l)).1 ∈ (u.mill n).writes) ∧
      (lane l % 2 ≠ 0 → Completes (.ldhx op) s fun u => (u.mill n).flags / 4 % 2 = 1 ∧
        (zero (.v op.reg.toNat l) (lane l)).1 ∈ (u.mill n).writes)) ∧
    (s.copying = false → ∀ a : Nat → Nat,
      let plain := fun (w l : Nat) => (bankOf (a l) = none ∧ bankOf (a l + w - 1) = none) ∧
        ∃ lam, s.millAccess n (lane l) w = some (MTarget.bytes (a l), lam)
      let aligned := fun (w : Nat) => (List.range 8).filter fun l => lane l % w = 0
      let stores := fun (c : Instr) (w : Nat) => (∀ l, l < 8 → lane l % w = 0 → plain w l) → (∃ l, l < 8 ∧ lane l % w ≠ 0) →
        Completes c s fun u => StoredInOrder ((aligned w).map fun l => (a l, leBytes w (m.vl op.reg.toNat l % 256 ^ w))) s u ∧
          (u.mill n).flags / 4 % 2 = 1
      stores (.stx op) 4 ∧ stores (.sthx op) 2)

/-- R193, R178, R180, R195: on a Mill that issues, a scalar ALU operation completes its bundle, and from the next bundle Sd
reads the result of the table, wrapped mod 2^32; here no other write to Sd falls due with it (R180 says which would remain).
VINS writes one V lane in the same way; MVP, MVM and MVN write theirs one bundle later. A bundle ends. Every result whose
latency has run becomes visible, the load/store slot's over MAC1's over MAC0's over the scalar slot's, and a register that
no due write names keeps its value; writes not yet due go on waiting. -/
def Obligations.ScalarResults : Prop :=
  (
    ∀ (op : ScOp) (s : State), s.millIssues op.mill = true →
      let n := op.mill
      let m := s.mill n
      let d := op.d.toNat
      let sa := m.get (.s op.a.toNat)
      let sb := m.get (.s (op.imm.toNat / 64))
      let i := op.imm.toNat
      let takes := fun c v => m.Quiet (.s d) → Completes c s fun t => (t.mill n).get (.s d) = v % 2 ^ 32 ∧ t.mem = s.mem
      let later := fun c r v => Completes c s fun t =>
        (⟨m.k + 2, 0, m.k, false, r, v⟩ : MWrite) ∈ (t.mill n).writes ∧ (m.Quiet r → (t.mill n).get r = m.get r) ∧ t.mem = s.mem
      takes (.addS op) (sa + sb) ∧
      takes (.subS op) (sa + 2 ^ 32 - sb) ∧
      takes (.addi op) (((sa : Int) + op.imm.toInt) % 2 ^ 32).toNat ∧
      takes (.andS op) (sa &&& sb) ∧
      takes (.orS op) (sa ||| sb) ∧
      takes (.xorS op) (sa ^^^ sb) ∧
      takes (.shl op) (sa * 2 ^ (i % 32)) ∧
      takes (.asr op) (signed 32 sa / 2 ^ (i % 32) % 2 ^ 32).toNat ∧
      takes (.lsr op) (sa / 2 ^ (i % 32)) ∧
      takes (.li op) (op.imm.toInt % 2 ^ 32).toNat ∧
      takes (.sli op) ((m.get (.s d) * 2 ^ 10 % 2 ^ 32) ||| i) ∧
      takes (.minS op) (if signed 32 sa ≤ signed 32 sb then sa else sb) ∧
      takes (.maxS op) (if signed 32 sa ≤ signed 32 sb then sb else sa) ∧
      takes (.rdp op) (m.get (.p op.a.toNat)) ∧
      takes (.rdm op) (m.get (.m op.a.toNat)) ∧
      takes (.rdn op) (m.get (.n op.a.toNat)) ∧
      takes (.vext op) (m.vl (i / 32) (i % 8)) ∧
      takes (.bxrd op) m.bx ∧
      takes (.statS op) m.msw ∧
      takes (.rdb op) (s.blockWord n (i % 16)) ∧
      (m.WritesOk → m.Quiet (.v (i / 32) (i % 8)) → Completes (.vins op) s fun t =>
        (t.mill n).get (.v (i / 32) (i % 8)) = sa % 2 ^ 32 ∧ t.mem = s.mem) ∧
      later (.mvp op) (.p d) sa ∧
      later (.mvm op) (.m d) sa ∧
      later (.mvn op) (.n d) sa) ∧
  (
    ∀ (s : State) (n : Nat) (r : MReg), (s.mill n).WritesOk → r.Lane →
      let m := s.mill n
      let due := m.writes.filter fun w => decide (w.at' ≤ m.k + 1)
      let t := s.millAdvance n
      (m.Quiet r → (t.mill n).get r = m.get r) ∧
      (∀ w ∈ due, w.dst = r → (∀ x ∈ due, x.dst = r → x.rank < w.rank ∨ x = w) →
        (t.mill n).get r = w.val % 2 ^ (match r with | .a _ _ => 80 | _ => 32)) ∧
      (t.mill n).writes = m.writes.filter (fun w => decide (m.k + 1 < w.at')) ∧
      (t.mill n).k = m.k + 1)

/-- R176, R190, R188: an empty vector field does nothing; an empty load/store field does no access, and AG1 may still
update; an empty scalar field completes the bundle. An opcode that no table lists does nothing but set ILL (MSW bit 3) at
the end of the bundle, and so does addressing mode 0b11. That a flag of the bundle stands in MSW from its end on is the
model's choice (log entry 21). -/
def Obligations.NopAndIllegal : Prop :=
  ∀ (s : State) (n : Nat) (mac1 : Bool) (op : LsOp),
    exec (.nop (.mac n mac1)) s = .next s ∧
    ((s.mill n).flags.testBit 3 = true → ((s.millAdvance n).mill n).msw.testBit 3 = true) ∧
    (s.millIssues n = true →
      exec (.nop (.sc n)) s = .next (s.millAdvance n) ∧
      exec (.illegalOperation (.mac n mac1)) s = .next (s.setMill n { s.mill n with flags := (s.mill n).flags ||| 8 }) ∧
      exec (.illegalOperation (.sc n)) s =
        .next ((s.setMill n { s.mill n with flags := (s.mill n).flags ||| 8 }).millAdvance n)) ∧
    (s.millIssues op.mill = true →
      let m := s.mill op.mill
      let ill := s.setMill op.mill { m with flags := m.flags ||| 8 }
      (op.am ≠ 3 → exec (.nop (.ls op)) s = .next (s.setMill op.mill { m with writes := m.writes ++ m.agWrites op false })) ∧
      exec (.illegalOperation (.ls op)) s = .next ill ∧
      (op.am = 3 → exec (.nop (.ls op)) s = .next ill ∧ exec (.ldv op) s = .next ill ∧ exec (.ldx op) s = .next ill ∧
        exec (.ldhx op) s = .next ill ∧ exec (.ldbc op) s = .next ill ∧ exec (.lds op) s = .next ill ∧
        exec (.lda op) s = .next ill ∧ exec (.ldhv op) s = .next ill ∧ exec (.stv op) s = .next ill ∧
        exec (.stx op) s = .next ill ∧ exec (.sthx op) s = .next ill ∧ exec (.sts op) s = .next ill ∧
        exec (.sta op) s = .next ill ∧ exec (.sthv op) s = .next ill ∧ exec (.pmod op) s = .next ill))

/-- R194, R187, R196, R198, R182: the control operations of the scalar slot on a Mill that issues. LOOP enters its body or,
with a fifth level or a body beyond the one around it, only sets ILL; EOB ends the program; BXCLR sets BX to 31 unless BX is
updated in the same bundle; XFER queues the transfer its descriptor names, or stalls with 64 in flight; a descriptor that
breaks R171, R175 or R197 sets ADDR, an unsound one XFER_ERR; WAITE stalls until its event, costs nothing when it has
passed (for event 1: no transfer queued in this block is in flight), and is illegal for events 2 and 3. -/
def Obligations.ControlResults : Prop :=
  ∀ (op : ScOp) (s : State), s.millIssues op.mill = true →
    let n := op.mill
    let m := s.mill n
    let last := m.pc + op.d.toNat * 16 + op.a.toNat + 1
    let legal := m.loops.length < 4 ∧ ∀ l, m.loops.head? = some l → last ≤ l.last
    let ends := fun (m' : Mill) => Host.Outcome.next ((s.setMill n m').millAdvance n)
    let x := m.get (.s op.a.toNat)
    let at' := 0x08000000 + n * 0x100000 + x
    let far := s.load at' 4 + s.load (at' + 4) 4 % 256 * 2 ^ 32
    let loc := s.load (at' + 8) 4 % 2 ^ 20
    let len := s.load (at' + 12) 4 % 2 ^ 16
    let top := 0x100000000 + s.rd F.CEL_SIZE_size * 0x20000000
    let sound := len % 32 = 0 ∧ far % 32 = 0 ∧ loc % 32 = 0 ∧ loc + len ≤ 0x100000 ∧
      ((0x01000000 ≤ far ∧ far + len ≤ 0x03000000) ∨ (0x100000000 ≤ far ∧ far + len ≤ top))
    (legal → exec (.loopS op) s = ends { m with next := .loop (m.pc + 1) last (if op.imm = 0 then 1024 else op.imm.toNat) }) ∧
    (¬legal → exec (.loopS op) s = ends { m with flags := m.flags ||| 8 }) ∧
    (Completes (.eob op) s fun t => (t.mill n).busy = false ∧ t.mem = s.mem) ∧
    (Completes (.bxclr op) s fun t => (t.mill n).bx = (match m.bxMin with | some b => min m.bx b | none => 31) ∧ t.mem = s.mem) ∧
    (64 ≤ m.xfers.length → exec (.xfer op) s = .next (s.setMill n { m with wait := .room x })) ∧
    (m.xfers.length < 64 → x % 16 ≠ 0 ∨ 0x100000 < x + 16 ∨ m.guarded x 16 = true →
      exec (.xfer op) s = ends { m with flags := m.flags ||| 4 }) ∧
    (m.xfers.length < 64 → x % 16 = 0 → x + 16 ≤ 0x100000 → m.guarded x 16 = false →
      ((wordsOf at' 16).any s.poisoned = true → exec (.xfer op) s = ends { m with flags := m.flags ||| 16 }) ∧
      ((wordsOf at' 16).any s.poisoned = false →
        (len = 0 → exec (.xfer op) s = .next (s.millAdvance n)) ∧
        (0 < len → sound → exec (.xfer op) s =
          ends { m with xfers := m.xfers ++ [⟨far, (s.load (at' + 4) 4).testBit 8, loc, len, m.block⟩] }) ∧
        (0 < len → ¬sound → far < 0x100000000 → exec (.xfer op) s = ends { m with flags := m.flags ||| 32 }) ∧
        (0 < len → ¬sound → Completes (.xfer op) s fun t =>
          t.mil = ((s.setMill n { m with flags := m.flags ||| 32 }).millAdvance n).mil ∧ t.mem = s.mem))) ∧
    (op.imm.toNat % 4 = 0 → s.mil.tail = false → exec (.waite op) s = .next (s.setMill n { m with wait := .tail })) ∧
    (op.imm.toNat % 4 = 0 → s.mil.tail = true → exec (.waite op) s = .next (s.millAdvance n)) ∧
    (op.imm.toNat % 4 = 1 → (∃ y, y ∈ m.xfers ∧ y.block = m.block) → exec (.waite op) s = .next (s.setMill n { m with wait := .xfers })) ∧
    (op.imm.toNat % 4 = 1 → (∀ y, y ∈ m.xfers → y.block ≠ m.block) → exec (.waite op) s = .next (s.millAdvance n)) ∧
    (2 ≤ op.imm.toNat % 4 → exec (.waite op) s = ends { m with flags := m.flags ||| 8 })

/-- R194, R176: where a program goes after a bundle: on to the next one, back to the first bundle of the innermost body that
ends here while passes remain, into a body after its LOOP; EOB, and a program counter that passes bundle 8191, end it. -/
def Obligations.ProgramCounter : Prop :=
  ∀ (s : State) (n : Nat),
    let m := s.mill n
    let t := (s.millAdvance n).mill n
    (m.next = .eob → t.busy = false) ∧
    (∀ f l c, m.next = .loop f l c → m.pc + 1 < 8192 → t.pc = m.pc + 1 ∧ t.loops = ⟨f, l, c⟩ :: m.loops) ∧
    (m.next = .seq → (∀ l, m.loops.head? = some l → l.last ≠ m.pc) → m.pc + 1 < 8192 → t.pc = m.pc + 1 ∧ t.loops = m.loops) ∧
    (∀ l rest, m.next = .seq → m.loops = l :: rest → l.last = m.pc → 1 < l.remaining → l.first < 8192 →
      t.pc = l.first ∧ t.loops = { l with remaining := l.remaining - 1 } :: rest) ∧
    (∀ l, m.next = .seq → m.loops = [l] → l.last = m.pc → l.remaining ≤ 1 → m.pc + 1 < 8192 → t.pc = m.pc + 1 ∧ t.loops = []) ∧
    (m.next = .seq → m.loops = [] → m.pc = 8191 → t.busy = false ∧ t.msw.testBit 3 = true)

/-- R196, R197, R198: a transfer that completes leaves the list of those in flight, so that its range is released. Without an
error it moves its bytes between the Cellar and the Mill store and changes no other byte; a fabric error sets XFER_ERR and
moves nothing. A Mill that waits for its transfers goes on once none of its own block is left. -/
def Obligations.MillTransfers : Prop :=
  ∀ (s : State) (n i : Nat) (e : Bool),
    let m := s.mill n
    ((s.mill n).xfers[i]? = none → Completes (.xferComplete n i e) s fun t => t = s) ∧
    (∀ x, m.xfers[i]? = some x →
      let loc := 0x08000000 + n * 0x100000 + x.local'
      (m.wait = .none → Completes (.xferComplete n i true) s fun t =>
        t.mill n = { m with xfers := m.xfers.eraseIdx i, msw := m.msw ||| 32 } ∧ t.mem = s.mem ∧ t.regs = s.regs ∧
        ∀ k, k ≠ n → t.mill k = s.mill k) ∧
      (m.wait = .none → n < 16 → x.local' + x.len ≤ 0x100000 → 2 ^ 32 ≤ x.far → s.copying = false → s.memx.hold.length ≤ 16384 →
        (x.out = false → (wordsOf x.far x.len).any s.poisoned = false → Completes (.xferComplete n i false) s fun t =>
          t.mill n = { m with xfers := m.xfers.eraseIdx i } ∧ (∀ k, k < x.len → t.byte (loc + k) = s.byte (x.far + k)) ∧
          BytesBut loc x.len s t) ∧
        (x.out = true → (wordsOf loc x.len).any s.poisoned = false → Completes (.xferComplete n i false) s fun t =>
          t.mill n = { m with xfers := m.xfers.eraseIdx i } ∧ (∀ k, k < x.len → t.byte (x.far + k) = s.byte (loc + k)) ∧
          BytesBut x.far x.len s t)) ∧
      (m.wait = .xfers → (∀ y, y ∈ m.xfers.eraseIdx i → y.block ≠ m.block) →
        Completes (.xferComplete n i true) s fun t => (t.mill n).wait = .none) ∧
      (m.wait = .xfers → (∃ y, y ∈ m.xfers.eraseIdx i ∧ y.block = m.block) →
        Completes (.xferComplete n i true) s fun t => (t.mill n).wait = .xfers))

/-- R155, R218, R219, R220, R222, R224: at the end of a Work period every loaded Mill is decided. A Mill without a cause
counts a clean block and its four-block ramp goes down by one; a Mill that missed begins its ramp anew, remembers the miss,
counts it as own or dependent, and shows the first cause since the last read. Every source a missing Mill owns, and the
source of every channel whose tail was late, takes its substitute with a SAFE_MUTE tag. The period takes part of two
boundaries: it ends nowhere else. -/
def Obligations.EndOfWorkDecisions : Prop :=
  ∀ (s : State) (times : List MillTimes) (tails : List Nat),
    let b := s.now / s.blockLen - 2
    let own := fun n => s.ownCauses n b (times.find? fun x => x.mill == n)
    let causes := s.allCauses own
    let ownMiss := fun n => (causes n).any fun c => c != 5 && c != 8
    let late := (tails.filter fun v => v < 128 / s.mult).map s.chanSource
    (s.running = false ∨ s.now % s.blockLen ≠ 0 ∨ s.now < 2 * s.blockLen → Completes (.endOfWork times tails) s fun t => t = s) ∧
    (s.running = true → s.now % s.blockLen = 0 → 2 * s.blockLen ≤ s.now → Completes (.endOfWork times tails) s fun t =>
      (∀ n, n < 16 → s.rd F.MIL_STATE_state n ≠ 0 →
        (t.mill n).missed = (ownMiss n :: (s.mill n).missed).take 64 ∧
        (causes n = [] → (t.mill n).clean = min ((s.mill n).clean + 1) 64 ∧ (t.mill n).ramp = (s.mill n).ramp - 1 ∧
          t.rd F.MIL_MISS_own n = s.rd F.MIL_MISS_own n ∧ ((s.mill n).ramp = 1 → t.raw (0x040 + n) 5 = true)) ∧
        (causes n ≠ [] → (t.mill n).clean = 0 ∧ (t.mill n).ramp = 4 ∧ t.on F.MIL_STATE_recovering n = false ∧
          t.on F.MIL_MISS_INFO_valid n = true ∧
          (s.on F.MIL_MISS_INFO_valid n = false → t.rd F.MIL_MISS_INFO_cause n = (causes n).headD 0 ∧
            t.rd F.MIL_MISS_ESI_esi n = b * s.blockLen % 2 ^ 32)) ∧
        (ownMiss n = true → t.raw (0x040 + n) 0 = true ∧ t.rd F.MIL_MISS_own n = min (s.rd F.MIL_MISS_own n + 1) 0xFFFF) ∧
        (5 ∈ causes n → t.raw (0x040 + n) 1 = true ∧ t.rd F.MIL_MISS_dependent n = min (s.rd F.MIL_MISS_dependent n + 1) 0xFFFF)) ∧
      (∀ src, (src ∈ late ∨ (src < 13696 / s.mult ∧ ∃ n, n < 16 ∧ causes n ≠ [] ∧ s.owns n src = true)) →
        t.srcBlock b src = (s.substitute b src).1 ∧ tagCond (t.srcTag b src) = 4))

/-- R223, R225, R226, R227: A program without EOB by the Work start event four blocks on is aborted: the Mill reads hung,
abort sets and MILL_HUNG is raised. After the reload it runs again from the next block start event. A breakpoint freezes the
Mill before the issue it names. Debug writes act in Maintenance only; elsewhere a write that would act is ignored, counted
and reported. An idle Mill halts at once, a busy one at its EOB; a step runs one block on a halted Mill; an armed breakpoint
takes its program counter and hit count; cont lets a frozen Mill go on; bstep issues exactly one bundle and the Mill is
frozen again. -/
def Obligations.MillDebugging : Prop :=
  (
    ∀ (s : State) (n b : Nat), n < 16 →
      let m := s.mill n
      let st := s.rd F.MIL_STATE_state n
      (s.running = true → m.busy = true → m.block + 4 ≤ s.workBlock → st ≠ 4 → s.SwitchOk → Completes (.millAbort n) s fun t =>
        (t.mill n).busy = false ∧ (t.mill n).aborted = true ∧ (t.mill n).xfers = [] ∧ t.rd F.MIL_STATE_state n = 5 ∧
        t.raw (0x040 + n) 4 = true ∧ t.latch 0x06 = true ∧ ∀ k, k ≠ n → t.mill k = s.mill k) ∧
      (s.running = false ∨ m.busy = false ∨ s.workBlock < m.block + 4 ∨ st = 4 → Completes (.millAbort n) s fun t => t = s) ∧
      (st ≠ 5 → Completes (.millReloadDone n) s fun t => t = s) ∧
      (st = 5 → Completes (.millReloadDone n) s fun t => t.regs = s.regs ∧ (t.mill n).reloaded = true ∧
        (∀ k x, s.strip? k = some x → t.owns n (t.stripSource k) = true → ∃ y, t.strip? k = some y ∧ y.proc = Proc.zero ∧ y.duals = []) ∧
        ((t.millBlockStart n b).mill n).busy = true ∧ ((t.millBlockStart n b).mill n).pc = 0 ∧ ((t.millBlockStart n b).mill n).block = b ∧
        (t.millBlockStart n b).rd F.MIL_STATE_state n = 1) ∧
      (m.busy = true → s.on F.MIL_DEBUG_bp_en n = true → m.pc = s.rd F.MIL_DEBUG_bp_pc n → m.bpSeen = s.rd F.MIL_DEBUG_bp_hit n →
        (st = 1 ∨ st = 3) → Completes (.breakpointFreeze n) s fun t =>
          t.rd F.MIL_STATE_state n = 4 ∧ t.raw (0x040 + n) 3 = true ∧ t.mill n = { m with debugged := (t.mill n).debugged } ∧
          m.block ∈ (t.mill n).debugged ∧ t.millIssues n = false) ∧
      (m.busy = false ∨ s.on F.MIL_DEBUG_bp_en n = false ∨ m.pc ≠ s.rd F.MIL_DEBUG_bp_pc n ∨ m.bpSeen ≠ s.rd F.MIL_DEBUG_bp_hit n →
        Completes (.breakpointFreeze n) s fun t => t = s)) ∧
  (
    ∀ (s : State) (n b : Nat) (v : Word), n < 16 →
      let st := s.rd F.MIL_STATE_state n
      let m := s.mill n
      (∀ c ∈ [Instr.halt n v, .millStep n v, .bpEn n v, .cont n v, .bstep n v],
        (s.maintenance = false → v.toNat % 32 ≠ 0 → Completes c s fun t =>
          t.rd F.MIL_DBG_REFUSED_count n = min (s.rd F.MIL_DBG_REFUSED_count n + 1) 0xFFFF ∧ t.raw (0x040 + n) 7 = true ∧
          t.mil = s.mil ∧ t.rd F.MIL_STATE_state n = st ∧ t.on F.MIL_DEBUG_halt n = s.on F.MIL_DEBUG_halt n ∧
          t.on F.MIL_DEBUG_bp_en n = s.on F.MIL_DEBUG_bp_en n ∧ t.rd F.MIL_DEBUG_bp_pc n = s.rd F.MIL_DEBUG_bp_pc n ∧
          t.rd F.MIL_DEBUG_bp_hit n = s.rd F.MIL_DEBUG_bp_hit n) ∧
        (s.maintenance = true → v.toNat % 32 < 8 → Completes c s fun t =>
          t.rd F.MIL_DEBUG_bp_pc n = v.toNat / 32 % 2 ^ 13 ∧ t.rd F.MIL_DEBUG_bp_hit n = v.toNat / 2 ^ 18 % 2 ^ 10 ∧
          t.on F.MIL_DEBUG_bp_en n = bitAt v.toNat 2 ∧ t.on F.MIL_DEBUG_halt n = bitAt v.toNat 0)) ∧
      (s.maintenance = true → v.toNat % 32 = 1 → st = 1 →
        (m.busy = false → Completes (.halt n v) s fun t => t.rd F.MIL_STATE_state n = 2 ∧ t.raw (0x040 + n) 3 = true ∧ t.mil = s.mil) ∧
        (m.busy = true → Completes (.halt n v) s fun t => t.rd F.MIL_STATE_state n = 1 ∧ t.mil = s.mil ∧
          (t.millEnd n).rd F.MIL_STATE_state n = 2)) ∧
      (s.maintenance = true → v.toNat % 32 = 3 → st = 2 → m.busy = false → Completes (.millStep n v) s fun t =>
        t.rd F.MIL_STATE_state n = 2 ∧ (t.millBlockStart n b).rd F.MIL_STATE_state n = 3 ∧ ((t.millBlockStart n b).mill n).busy = true ∧
        ((t.millBlockStart n b).millEnd n).rd F.MIL_STATE_state n = 2) ∧
      (s.maintenance = true → v.toNat % 32 = 4 → st = 1 → Completes (.bpEn n v) s fun t =>
        t.on F.MIL_DEBUG_bp_en n = true ∧ t.rd F.MIL_STATE_state n = 1 ∧ t.mil = s.mil) ∧
      (s.maintenance = true → v.toNat % 32 = 8 → st = 4 → Completes (.cont n v) s fun t =>
        t.rd F.MIL_STATE_state n = (if m.stepping then 3 else 1) ∧ t.mil = s.mil) ∧
      (s.maintenance = true → v.toNat % 32 = 16 → st = 4 → m.busy = true → m.wait = .none → m.next = .seq → m.loops = [] → m.pc < 8191 →
        s.load (0x09000000 + n * 0x20000 + 16 * m.pc) 16 = 0 → Completes (.bstep n v) s fun t =>
          t.rd F.MIL_STATE_state n = 4 ∧ (t.mill n).k = m.k + 1 ∧ (t.mill n).pc = m.pc + 1 ∧ (t.mill n).busy = true))

/-- R9, R42, R126: each strobe of a running engine advances the engine ESI by exactly one, and the scene count advances at
the swap sample and at no other; a stopped engine counts nothing. An armed snapshot takes the ESI and the timebase at the
next boundary, and once only. A read of ENG_ESI_LO answers the low half and latches the high half for the master that reads.
A request of the debug port while it is shut is never formed (log entry 65). -/
def Obligations.EngineSamples : Prop :=
  ∀ (s : State) (ini : Initiator),
    (s.running = false → Completes .sampleStrobe s fun t => t.eng.esi = s.eng.esi ∧ t.eng.blocks = s.eng.blocks ∧ t.mem = s.mem ∧ t.scn = s.scn ∧
      t.xrd = s.xrd ∧ t.rd F.ENG_SCENE_COUNT_scene_count = s.rd F.ENG_SCENE_COUNT_scene_count) ∧
    (s.running = true → Completes .sampleStrobe s fun t => t.eng.esi = s.eng.esi + 1 ∧ t.eng.blocks = s.eng.blocks ∧ t.mem = s.mem ∧
      (∀ d, s.scn.desc = some d → d.counted = false → d.s = (s.eng.esi + 1).toNat →
        t.rd F.ENG_SCENE_COUNT_scene_count = d.count % 2 ^ 32 ∧ t.scn.desc = some { d with counted := true }) ∧
      ((∀ d, s.scn.desc = some d → d.counted = true ∨ d.s ≠ (s.eng.esi + 1).toNat) →
        t.rd F.ENG_SCENE_COUNT_scene_count = s.rd F.ENG_SCENE_COUNT_scene_count ∧
        t.rd F.ENG_ROUTE_COUNT_route_count = s.rd F.ENG_ROUTE_COUNT_route_count)) ∧
    (s.on F.LOCK_locked 0x030 = false → s.rd F.NBR_STATE_role ≠ 2 → Completes .snapArm s fun t =>
      t.eng = { s.eng with snapArmed := true } ∧ t.on F.ENG_SNAP_CTRL_valid = false ∧ RegsBut [F.ENG_SNAP_CTRL_valid.key 0 0] s t) ∧
    (s.on F.LOCK_locked 0x030 = false → s.rd F.NBR_STATE_role = 2 → Completes .snapArm s fun t =>
      t.eng = s.eng ∧ t.rd F.NBR_COUNTS_driven_drop = min (s.rd F.NBR_COUNTS_driven_drop + 1) 0xFFFF) ∧
    (s.eng.snapArmed = true → s.running = true → s.now % s.blockLen = 0 → Completes .snapCapture s fun t =>
      t.rd F.ENG_SNAP_ESI_LO_snap_esi = s.now % 2 ^ 32 ∧ t.rd F.ENG_SNAP_ESI_HI_snap_esi = s.now / 2 ^ 32 ∧
      t.rd F.ENG_SNAP_SEC_LO_sec_lo = s.tbNs / 10 ^ 9 % 2 ^ 32 ∧ t.rd F.ENG_SNAP_SEC_HI_sec_hi = s.tbNs / 10 ^ 9 / 2 ^ 32 % 2 ^ 16 ∧
      t.rd F.ENG_SNAP_NS_ns = s.tbNs % 10 ^ 9 ∧ t.on F.ENG_SNAP_CTRL_valid = true ∧ t.raw 0x030 4 = true ∧
      t.eng = { s.eng with snapArmed := false }) ∧
    (s.eng.snapArmed = false ∨ s.running = false ∨ s.now % s.blockLen ≠ 0 → Completes .snapCapture s fun t => t = s) ∧
    (s.portShut ini = true → Completes (.engEsiLoRead ini) s fun t => t = s) ∧
    (s.portShut ini = false → Completes (.engEsiLoRead ini) s fun t => t.resp = some ⟨ini, s.now % 2 ^ 32, false⟩ ∧
      ((assoc? t.eng.esiLatch ini.port).getD 0).toNat = s.now / 2 ^ 32 ∧ t.regs = s.regs ∧ t.eng.esi = s.eng.esi)

/-- R18, R20, R21, R42: at a block boundary of a running engine, here with no pair, the hold buffer empties, the buffer sets
turn, ENG_EPOCH shows the low bits of the counts, the tick sets at every multiple of div, and no sample is counted; away
from a boundary or while the engine is stopped nothing happens. -/
def Obligations.BlockStarts : Prop :=
  ∀ s : State,
    let b := s.now / s.blockLen
    (s.running = false ∨ s.now % s.blockLen ≠ 0 → Completes .blockStart s fun t => t = s) ∧
    (s.running = true → s.now % s.blockLen = 0 → s.rd F.NBR_STATE_role = 0 → s.nbr.ctrlWait = [] → s.nbr.bankWait = [] →
      Completes .blockStart s fun t => t.eng.esi = s.eng.esi ∧ t.memx.hold = [] ∧
        t.rd F.ENG_BUF_SET_gather_set = b % 3 ∧ t.rd F.ENG_BUF_SET_work_set = (b + 2) % 3 ∧ t.rd F.ENG_BUF_SET_route_set = (b + 1) % 3 ∧
        t.rd F.ENG_EPOCH_scene_epoch = s.rd F.ENG_SCENE_COUNT_scene_count % 16 ∧
        t.rd F.ENG_EPOCH_route_epoch = s.rd F.ENG_ROUTE_COUNT_route_count % 16 ∧
        (s.rd F.ENG_TICK_div ≠ 0 → b % s.rd F.ENG_TICK_div = 0 → t.raw 0x030 0 = true))

/-- R43, R377 step 1, R371: a realign is asked for by ENG_REALIGN, and has no further effect while a restart runs. At
boundary A a restart begins with its fade-out from full gain: a realign, the restart that the leader names, or a CFG_START;
its kind and phase show, restart_begin sets, and a change of rate begins for the pending SYS set. In service Show a
CFG_START without force is refused. -/
def Obligations.RestartBegins : Prop :=
  ∀ (s : State) (v : Word),
    let cur := (s.reg 0x64).toNat % 64
    let begins := fun (t : State) (r : Restart) =>
      t.modes.restart = some r ∧ t.modes.fade.g0 = 32768 ∧ t.modes.fade.g1 = 0 ∧ t.modes.fade.start = r.a ∧ t.eng.realign = false ∧
      t.rd F.SYS_MODE_STATE_phase = 1 ∧ t.rd F.SYS_MODE_STATE_kind = r.kind % 8 ∧ t.raw 0x000 1 = true
    (Completes (.realignRequest v) s fun t => t.rd F.ENG_REALIGN_limit = v.toNat / 2 ^ 16 ∧ t.on F.ENG_REALIGN_auto_realign = bitAt v.toNat 1 ∧
      t.eng.realign = (s.eng.realign || (bitAt v.toNat 0 && s.modes.restart.isNone && s.running)) ∧
      RegsBut [F.ENG_REALIGN_limit.key 0 0] s t) ∧
    (s.modes.restart.isSome = true ∨ s.running = false → Completes .restartBegin s fun t => t = s) ∧
    (s.modes.restart = none → s.running = true →
      (∀ b k m, s.modes.follow = some (b, k, m) → b ≤ s.now → Completes .restartBegin s fun t =>
        begins t ⟨k, b, none, s.followMode m, false, false, none, none⟩) ∧
      (∀ p, s.modes.follow = none → s.pendOf 0 = some p → p.due ≤ s.now → s.changesRate (p.mode s) = true → s.sysCheck (p.mode s) = 0 →
        s.rd F.SYS_MODE_STATE_phase ≠ 5 → p.late = false → Completes .restartBegin s fun t =>
          begins t ⟨1, p.due, none, p.mode s, true, false, none, none⟩) ∧
      (∀ c, s.modes.follow = none → s.pendOf 0 = none → s.modes.start = some c → c.due ≤ s.now → c.late = false →
        (s.rd F.SYS_MODE_STATE_service ≠ 0 ∨ c.force = true → Completes .restartBegin s fun t =>
          begins t ⟨3, c.due, none, cur, false, false, some c.header, none⟩) ∧
        (s.rd F.SYS_MODE_STATE_service = 0 → c.force = false → ReplyRoom (BitVec.ofNat 64 c.header) 1 s → c.header < 2 ^ 64 →
          Completes .restartBegin s fun t => t.modes.start = none ∧ t.modes.restart = none ∧
            Replies (BitVec.ofNat 64 c.header) 4 [0x12] s t)) ∧
      (s.modes.follow = none → s.pendOf 0 = none → s.modes.start = none → s.now % s.blockLen = 0 → s.eng.realign = true →
        Completes .restartBegin s fun t => begins t ⟨2, s.now, none, cur, false, false, none, none⟩))

/-- R377 steps 4 to 8, R10, R378, R379: at H of a restart the engine stops, ENG_RATE.running reads 0, the phase reads gap and
the sample blocks in flight are cleared. At B the ESI is the first block boundary at or after the ideal ESI of the timebase,
the engine runs, the fade-in begins unless fail-safe holds, and the gap is reported. Once the last fade-in block has left,
the phase reads running, restart_done sets, for a realign realign_done too, and the SYS set that began it reads DONE. In the
gap each chip of a pair goes on sending heartbeats. Shown for a realign where the work of the gap differs. -/
def Obligations.RestartRuns : Prop :=
  ∀ (s : State) (r : Restart), s.modes.restart = some r →
    let l := s.blockLen
    let f := (if s.on F.ENG_RATE_family then 28 else 30) * l
    let b := ceilBlock l (idealEsi s.fs (s.tbNs / 10 ^ 9) (s.tbNs % 10 ^ 9))
    (s.running = false ∨ s.now < r.a + f + 3 * l ∨ r.h.isSome = true → Completes .restartGap s fun t => t = s) ∧
    (r.h = none → s.running = true → r.a + f + 3 * l ≤ s.now → Completes .restartGap s fun t =>
      t.modes.restart = some { r with h := some s.tbNs } ∧ t.eng.esi = s.eng.esi ∧ t.eng.blocks = [] ∧ t.eng.staged = [] ∧
      (r.kind = 2 → t.running = false ∧ t.rd F.SYS_MODE_STATE_phase = 3)) ∧
    (r.h = none ∨ s.rd F.SYS_MODE_STATE_phase ≠ 3 → Completes .restartAtB s fun t => t = s) ∧
    (∀ h, r.h = some h → s.rd F.SYS_MODE_STATE_phase = 3 → r.kind = 2 → Completes .restartAtB s fun t =>
      t.eng.esi = BitVec.ofNat 64 b ∧ t.eng.start = b ∧ t.running = true ∧ t.rd F.SYS_MODE_STATE_phase = 4 ∧
      t.rd F.SYS_RESTART_ESI_esi = b % 2 ^ 32 ∧ t.rd F.SYS_RESTART_GAP_us = min ((s.tbNs - h) / 1000) 0xFFFFFF ∧
      (s.on F.FLT_STATE_failsafe = false → t.modes.restart = some { r with inAt := some b } ∧ t.modes.fade = ⟨0, 32768, b, f⟩) ∧
      (s.on F.FLT_STATE_failsafe = true → t.modes.restart = some { r with inAt := none } ∧ t.modes.fade.g1 = 0)) ∧
    (r.inAt = none ∨ s.rd F.SYS_MODE_STATE_phase ≠ 4 → Completes .restartDone s fun t => t = s) ∧
    (∀ c, r.inAt = some c → s.rd F.SYS_MODE_STATE_phase = 4 → c + f + 3 * l ≤ s.now → r.reply = none → s.modes.waiting = [] →
      Completes .restartDone s fun t => t.modes.restart = none ∧ t.modes.fade.g1 = 32768 ∧ t.rd F.SYS_MODE_STATE_phase = 0 ∧
        t.raw 0x000 2 = true ∧ (r.kind = 2 → t.raw 0x030 2 = true) ∧
        (r.bySys = true → t.pendOf 0 = none ∧ t.raw 0x000 0 = true ∧ t.rd F.APPLY_RESULT_code = if r.late then 0x03 else 0x02)) ∧
    (s.running = false → s.rd F.NBR_STATE_role ≠ 0 → s.rd F.SYS_MODE_STATE_phase = 3 → s.nbr.drilling = false →
      Completes .gapHeartbeat s fun t => t.regs = s.regs ∧ t.out.getLast? = some (.heartbeat (if s.nbr.declared then 1 else 0)) ∧
        (s.on F.DRB_STATUS_up = true → t.out.length = s.out.length + 2 ∧ t.nbr.txSeq = (s.nbr.txSeq + 1) % 2 ^ 16))

/-- R381, R384, R467: MODE_SET stages SYS_MODE and leaves it pending for the boundary of its APPLY_AT, and its reply waits;
with a set pending it is refused at once. MODE_GET answers SYS_MODE_STATE. MODE_DISCARD takes the staged set back. A locked
SYS page refuses both. -/
def Obligations.ModeCommands : Prop :=
  ∀ (s : State) (h : DWord) (m v : Word), ReplyRoom h 1 s →
    (s.on F.LOCK_locked 0x000 = true →
      (Completes (.modeSet h m v) s fun t => Replies h 6 [0] s t ∧ t.pend = s.pend ∧ t.reg 0x60 = s.reg 0x60) ∧
      (Completes (.modeDiscard h) s fun t => Replies h 6 [0] s t ∧ t.pend = s.pend ∧ t.reg 0x60 = s.reg 0x60)) ∧
    (s.on F.LOCK_locked 0x000 = false → s.pendOf 0 = none → s.running = true → Completes (.modeSet h m v) s fun t =>
      ∃ p, t.pend = s.pend ++ [p] ∧ p.page = 0 ∧ (p.due, p.late) = s.pickBoundary v.toNat ∧ p.mode s = m.toNat &&& 0x13F ∧
        t.modes.waiting = s.modes.waiting ++ [h.toNat] ∧ t.on F.SYS_MODE_force = false ∧ t.on F.STATUS_apply_pending = true ∧
        t.rd F.APPLY_RESULT_code = 0x01 ∧ t.reg 0x64 = s.reg 0x64) ∧
    (s.on F.LOCK_locked 0x000 = false → (s.pendOf 0).isSome = true → Completes (.modeSet h m v) s fun t =>
      Replies h 4 [0x0F] s t ∧ t.pend = s.pend ∧ t.raw 0x000 3 = true) ∧
    (Completes (.modeGet h) s fun t => Replies h 0 [(s.reg 0x64).toNat] s t) ∧
    (s.on F.LOCK_locked 0x000 = false → s.modes.waiting = [] → s.modes.restart = none → Completes (.modeDiscard h) s fun t =>
      Replies h 0 [0] s t ∧ t.pendOf 0 = none ∧ t.reg 0x60 &&& 0x13F = s.liveReg 0x60 &&& 0x13F ∧ t.liveReg 0x60 = s.liveReg 0x60)

/-- R466, R467, R468, R469, R470, R416: APPLY copies the staged set of a page and leaves it pending for its boundary, or
refuses a second one; a discard gives the staged fields their values in force and cancels the pending set. A set that has
come due comes into force word by word, DONE or LATE, and a set that fails its page's check leaves the values in force as
they were. -/
def Obligations.StagedSets : Prop :=
  ∀ (s : State) (page : Nat),
    (hasStaged page = false → Completes (.applyStaged page) s (fun t => t = s) ∧ Completes (.applyDiscard page) s fun t => t = s) ∧
    (hasStaged page = true → page ≠ 0 →
      ((s.pendOf page).isSome = true → Completes (.applyStaged page) s fun t =>
        t.pend = s.pend ∧ t.live = s.live ∧ t.rd F.APPLY_RESULT_code page = 0x0F ∧ RegsBut [F.APPLY_RESULT_code.key page 0] s t) ∧
      (s.pendOf page = none → s.running = true → Completes (.applyStaged page) s fun t =>
        ∃ p, t.pend = s.pend ++ [p] ∧ p.page = page ∧ p.copy = s.stagedSet page ∧
          (page < 0x080 ∨ 0x095 ≤ page → (p.due, p.late) = s.pickBoundary (s.rd F.APPLY_AT_at page)) ∧
          t.live = s.live ∧ t.on F.STATUS_apply_pending page = true ∧ t.rd F.APPLY_RESULT_code page = 0x01 ∧
          t.rd F.APPLY_RESULT_seq page = (s.rd F.APPLY_RESULT_seq page + 1) % 2 ^ 16 ∧
          RegsBut [F.APPLY_RESULT_code.key page 0, F.STATUS_apply_pending.key page 0] s t) ∧
      (Completes (.applyDiscard page) s fun t =>
        t.pendOf page = none ∧ t.live = s.live ∧ t.rd F.APPLY_RESULT_code page = 0x05 ∧
        ∀ x r, pageRow page x = some r → t.reg (page * 0x1000 + x) &&& BitVec.ofNat 32 r.rws = s.liveReg (page * 0x1000 + x) &&& BitVec.ofNat 32 r.rws)) ∧
    (∀ p, s.pendOf page = some p → s.running = true → s.now < p.due → Completes (.applyDue page) s fun t => t = s) ∧
    (∀ p, s.pendOf page = some p → s.running = true → p.due ≤ s.now →
      let wm := (p.word s 0x048).toNat
      let bad := wm % 128 ≤ wm / 256 % 128 ∨ 64 < wm % 128
      (page = 0xC0 ∨ (page = 0x28 ∧ ¬bad) → Completes (.applyDue page) s fun t =>
        t.pendOf page = none ∧ t.on F.STATUS_apply_pending page = false ∧
        ((p.copy.map Prod.fst).Nodup → ∀ e ∈ p.copy, t.liveReg (page * 0x1000 + e.1) = e.2) ∧
        (∀ k, (∀ e ∈ p.copy, k ≠ page * 0x1000 + e.1) → t.liveReg k = s.liveReg k) ∧
        t.rd F.APPLY_RESULT_code page = (if p.late then 0x03 else 0x02) ∧
        (p.late = true → t.raw 0x030 1 = true ∧ t.rd F.ENG_LATE_COUNT_late = min (s.rd F.ENG_LATE_COUNT_late + 1) 0xFFFF)) ∧
      (page = 0x28 → bad → Completes (.applyDue page) s fun t =>
        t.pendOf page = none ∧ t.live = s.live ∧ t.rd F.APPLY_RESULT_code page = 0x11))

/-- R53, R55, R56, R59, R68, R76, R120: at a block boundary the word that waits for the Live bank comes into force. A word
outside the Crossroads tables comes into force alone, and while the carry-forward mirrors, in its carried bits in the other
bank too; a patch-table entry that fails a check is refused and recorded, and the entry in force stays; one that passes and
names another source begins, at this boundary, a fade from the old source to the new one with the length and law of the
entry, and the route count advances once. After n_f samples the new side stands alone. A deferred change begins at the
sample at which the older of the two fades ends, with the entry then in force. -/
def Obligations.RouteChanges : Prop :=
  ∀ (s : State) (d : Nat),
    let x := s.dest d
    let p := s.rd F.XRD_PATCH_OFS_offset
    (s.now % s.blockLen ≠ 0 → Completes .looseWriteInForce s fun t => t = s) ∧
    (∀ a v b, s.now % s.blockLen = 0 → s.scn.loose = [(a, v)] → bankOf a = some b →
      (s.inXrdTables (a - bankBase b) = false → Completes .looseWriteInForce s fun t =>
        t.scn.loose = [] ∧ t.force (a - bankBase b) = v.toNat ∧ (∀ o, o ≠ a - bankBase b → t.force o = s.force o) ∧
        (s.mirrors b = false → t.mem = s.mem) ∧
        (s.mirrors b = true → (a - bankBase b) % 4 = 0 → let m := s.recallMask (a - bankBase b)
          let other := bankBase (1 - b) + (a - bankBase b)
          t.load other 4 = (s.load other 4 &&& m) ||| (v.toNat &&& (0xFFFFFFFF - m)))) ∧
      (s.rd F.SCN_BANK_SIZE_size ≠ 0 → a = bankBase b + p + 4 * d → 4 * d < 65536 / s.mult → (s.xrd.dests.map Prod.fst).Pairwise (· < ·) →
        (s.entryReason d v.toNat ≠ 0 → Completes .looseWriteInForce s fun t =>
          (t.dest d).entry = x.entry ∧ t.raw 0x038 0 = true ∧ t.on F.XRD_REFUSED_valid = true ∧ t.scn.loose = [] ∧
          t.rd F.XRD_COUNTS_refused = min (s.rd F.XRD_COUNTS_refused + 1) 0xFFFF ∧
          (s.on F.XRD_REFUSED_valid = false → t.rd F.XRD_REFUSED_index = d ∧ t.rd F.XRD_REFUSED_table = 0 ∧
            t.rd F.XRD_REFUSED_reason = s.entryReason d v.toNat)) ∧
        (s.entryReason d v.toNat = 0 → ((s.setDest d { x with entry := v.toNat }).settledRoutes).historyBad = false →
          x.fades = [] → x.deferred = none → entrySrc v.toNat ≠ x.src → Completes .looseWriteInForce s fun t =>
            (t.dest d).entry = v.toNat ∧ (t.dest d).src = entrySrc v.toNat ∧ (t.dest d).fb = entryFb v.toNat ∧
            (t.dest d).fades = [⟨x.src, x.pad, entrySrc v.toNat, (t.dest d).pad, s.now, s.fadeLen v.toNat, entryLaw v.toNat, false⟩] ∧
            (s.xrd.routeAt ≠ some s.now →
              t.rd F.ENG_ROUTE_COUNT_route_count = (s.rd F.ENG_ROUTE_COUNT_route_count + 1) % 2 ^ 32)))) ∧
    (∀ f, x.fades = [f] → x.deferred = none → Completes (.routeFadeEnd d) s fun t =>
      (f.start + f.len ≤ s.presentTime d → t.dest d = { x with fades := [] }) ∧
      (s.presentTime d < f.start + f.len → t.dest d = x) ∧
      (∀ e, e ≠ d → t.dest e = s.dest e) ∧ RegsBut [F.XRD_FADES_active.key 0 0] s t) ∧
    (x.deferred = none → Completes (.deferredRouteChange d) s fun t => t = s) ∧
    (∀ c, x.deferred = some c →
      (s.now < c → Completes (.deferredRouteChange d) s fun t => t = s) ∧
      (∀ f g, c ≤ s.now → s.swapBefore c = false → x.fades = [f, g] → f.start + f.len = c → g.start < c → c < g.start + g.len →
        entrySrc x.entry ≠ x.src → Completes (.deferredRouteChange d) s fun t =>
          (t.dest d).deferred = none ∧ (t.dest d).src = entrySrc x.entry ∧ (t.dest d).fb = entryFb x.entry ∧
          (t.dest d).fades = [f, g, ⟨x.src, x.pad, entrySrc x.entry, (t.dest d).pad, c, s.fadeLen x.entry, entryLaw x.entry, false⟩] ∧
          (∀ e, e ≠ d → (t.dest e).entry = (s.dest e).entry) ∧
          (∀ e, e ≠ d → entrySrc (s.dest e).entry = (s.dest e).src →
            (s.dest e).pad = t.padOf (s.dest e).src (s.dest e).fb (entryGroup (s.dest e).entry) → t.dest e = s.dest e) ∧
          (s.xrd.routeAt ≠ some c →
            t.rd F.ENG_ROUTE_COUNT_route_count = (s.rd F.ENG_ROUTE_COUNT_route_count + 1) % 2 ^ 32)))

/-- R70: a write of mode and level, or of aux, comes into force at the next block boundary. There a change of mode restarts
the generator from aux (a noise seed of 0 is taken as 1) and, in impulse mode, arms the impulse at the ESI that aux names; a
change of level alone restarts nothing; a write of aux arms again while the mode is impulse, and otherwise changes only aux.
The armed impulse fires once, at its ESI. -/
def Obligations.Generators : Prop :=
  ∀ (s : State) (g : Nat) (v : Word),
    let x := s.gen g
    (64 ≤ g → Completes (.genModeWrite g v) s (fun t => t = s) ∧ Completes (.genAuxWrite g v) s fun t => t = s) ∧
    (g < 64 →
      (Completes (.genModeWrite g v) s fun t =>
        t.rd F.XRD_GEN_CTRL_mode 0 g = v.toNat % 8 ∧ t.rd F.XRD_GEN_CTRL_level 0 g = v.toNat / 2 ^ 16 ∧
        RegsBut [F.XRD_GEN_CTRL_mode.key 0 g] s t ∧ (∀ h, h ≠ g → t.gen h = s.gen h) ∧
        let y := (t.genBoundary g).gen g
        y.mode = v.toNat % 8 ∧ y.level = v.toNat / 2 ^ 16 ∧
        (v.toNat % 8 ≠ s.rd F.XRD_GEN_CTRL_mode 0 g → y.phase = s.rd F.XRD_GEN_AUX_aux 0 g ∧
          y.noise = (if s.rd F.XRD_GEN_AUX_aux 0 g = 0 then 1 else s.rd F.XRD_GEN_AUX_aux 0 g) ∧
          y.armed = (if v.toNat % 8 = 3 then some (expandEsi s.now (s.rd F.XRD_GEN_AUX_aux 0 g)) else none)) ∧
        (v.toNat % 8 = s.rd F.XRD_GEN_CTRL_mode 0 g → x.modeWrite = false → x.auxWrite = false →
          y.phase = x.phase ∧ y.noise = x.noise ∧ y.armed = x.armed)) ∧
      (Completes (.genAuxWrite g v) s fun t =>
        t.rd F.XRD_GEN_AUX_aux 0 g = v.toNat ∧ RegsBut [F.XRD_GEN_AUX_aux.key 0 g] s t ∧ (∀ h, h ≠ g → t.gen h = s.gen h) ∧
        (x.modeWrite = false →
          let y := (t.genBoundary g).gen g
          y.aux = v.toNat ∧ y.phase = x.phase ∧ y.noise = x.noise ∧
          y.armed = (if s.rd F.XRD_GEN_CTRL_mode 0 g = 3 then some (expandEsi s.now v.toNat) else x.armed)))) ∧
    (s.running = true → x.mode = 3 → x.armed = some s.now → Completes (.impulseFire g) s fun t =>
      t.gen g = { x with armed := none, fired := some s.now } ∧ ((t.gen g).sample s.now).1 = 0x08000000 ∧
      (∀ h, h ≠ g → t.gen h = s.gen h) ∧ t.regs = s.regs) ∧
    (s.running = false ∨ x.mode ≠ 3 ∨ x.armed ≠ some s.now → Completes (.impulseFire g) s fun t => t = s)

/-- R111, R114, R120, R121, R124, R125, R135, R137, R166: once the carry-forward copy is whole, every word of Next holds, in
the bits that the Fence leaves out, the value in force, ready sets, and in next-boundary mode the swap sample is the
boundary two blocks after the present one. When the swap block enters Gather the banks exchange roles, the outgoing bank is
locked, the incoming one is free, and the swap sample is shown. At the swap's end the outgoing bank is unlocked and the arm
reads DONE. A cancel before the swap starts unlocks Next and reads CANCELLED. A cancel before the swap block enters Gather
unlocks Next, reads CANCELLED and takes a waiting switch with it; once no arm stands it does nothing. A ramp that has run
its n_r samples by the oldest sample that Work has still to form is over and its target stands; a dual-run or tap crossfade
that has run its n_f samples leaves the strip, whose other fades and state go on. -/
def Obligations.Swaps : Prop :=
  (
    ∀ s : State,
      let l := s.blockLen
      let b := s.liveBank
      (s.rd F.SCN_STATE_phase ≠ 1 → Completes .carryForwardReady s fun t => t = s) ∧
      (s.rd F.SCN_STATE_phase = 1 → Completes .carryForwardReady s fun t =>
        t.rd F.SCN_STATE_phase = 2 ∧ t.on F.SCN_STATE_ready = true ∧ t.liveBank = b ∧
        (s.lv F.SCN_ARM_mode = 1 → t.scn.swapAt = some ((s.now / l + 2) * l)) ∧
        (s.lv F.SCN_ARM_mode = 0 → s.now ≤ s.scn.armAt / l * l → t.scn.swapAt = some s.scn.armAt) ∧
        (s.lv F.SCN_ARM_mode = 0 → s.scn.armAt / l * l < s.now → t.scn.swapAt = some ((s.now / l + 2) * l) ∧ t.raw 0x031 5 = true) ∧
        (2 ≤ s.lv F.SCN_ARM_mode → s.scn.cue = none → t.scn.swapAt = s.scn.swapAt) ∧
        (∀ o, o % 4 = 0 → o < 0x800000 → t.load (bankBase (1 - b) + o) 4 =
          s.load (bankBase (1 - b) + o) 4 &&& s.recallMask o ||| s.force o &&& (0xFFFFFFFF - s.recallMask o)) ∧
        BytesBut (bankBase (1 - b)) 0x800000 s t) ∧
      (s.scn.swapAt = none ∨ s.running = false ∨ s.rd F.SCN_STATE_phase ≠ 2 → Completes .swapStart s fun t => t = s) ∧
      (∀ S, s.scn.swapAt = some S → s.running = true → s.rd F.SCN_STATE_phase = 2 → s.now = S / l * l → s.role ≠ 1 →
        Completes .swapStart s fun t => t.liveBank = 1 - b ∧ t.bankLocked b = true ∧ t.bankLocked (1 - b) = false ∧
          t.rd F.SCN_STATE_phase = 3 ∧ t.raw 0x031 1 = true ∧ t.rd F.SCN_LAST_LO_esi = S % 2 ^ 32 ∧ t.rd F.SCN_LAST_HI_esi = S / 2 ^ 32 % 2 ^ 32 ∧
          (∃ e, t.scn.desc = some e ∧ e.s = S ∧ e.fenceAll = s.lon F.SCN_ARM_fence_all ∧ e.switched = false ∧
            e.count = (s.rd F.ENG_SCENE_COUNT_scene_count + 1) % 2 ^ 32 ∧ e.routes = s.swapChangesRoute) ∧
          t.scn.force = s.scn.force ∧ t.scn.ramps = s.scn.ramps) ∧
      (s.scn.desc = none → Completes .swapComplete s fun t => t = s) ∧
      (∀ d, s.scn.desc = some d →
        (s.rd F.SCN_STATE_phase = 3 → (d.s / l + 3) * l ≤ s.now → (s.scn.lastFade = 0 ∨ (s.scn.lastFade / l + 2) * l ≤ s.now) →
          Completes .swapComplete s fun t => t.bankLocked (1 - b) = false ∧ t.bankLocked b = s.bankLocked b ∧ t.rd F.SCN_STATE_phase = 0 ∧
            t.on F.SCN_STATE_ready = false ∧ t.rd F.APPLY_RESULT_code 0x031 = 0x02 ∧ t.raw 0x031 2 = true ∧ t.scn.desc = none ∧
            t.scn.swapAt = none ∧ t.liveBank = b) ∧
        (s.rd F.SCN_STATE_phase ≠ 3 ∨ s.now < (d.s / l + 3) * l ∨ (s.scn.lastFade ≠ 0 ∧ s.now < (s.scn.lastFade / l + 2) * l) →
          Completes .swapComplete s fun t => t = s))) ∧
  (
    ∀ (s : State) (o k u : Nat),
      let b := s.liveBank
      let at' := s.formedBefore
      (s.armed = false → Completes .swapCancel s fun t => t = s) ∧
      (s.armed = true → Completes .swapCancel s fun t =>
        t.bankLocked (1 - b) = false ∧ t.bankLocked b = s.bankLocked b ∧ t.liveBank = b ∧ t.rd F.SCN_STATE_phase = 0 ∧
        t.on F.SCN_STATE_ready = false ∧ t.rd F.APPLY_RESULT_code 0x031 = 0x04 ∧ t.raw 0x031 6 = true ∧ t.scn.swapAt = none ∧
        t.scn.cue = none ∧ t.mem = s.mem ∧
        (∀ w, s.chn.sw = some w → w.mode = 2 → w.c = none → t.chn.sw = none ∧ t.rd F.APPLY_RESULT_code 0x050 = 0x04) ∧
        (∀ w, s.chn.sw = some w → w.mode ≠ 2 ∨ w.c ≠ none → t.chn = s.chn)) ∧
      (Completes (.rampEnd o) s fun t =>
        (∀ r, assoc? s.scn.ramps o = some r → r.at0 + r.len ≤ at' → assoc? t.scn.ramps o = none ∧ ∀ w e, t.levelAt o w e = w) ∧
        (∀ r, assoc? s.scn.ramps o = some r → at' < r.at0 + r.len → assoc? t.scn.ramps o = some r) ∧
        (∀ r, assoc? s.scn.panRamps o = some r → r.at0 + r.len ≤ at' → assoc? t.scn.panRamps o = none) ∧
        (∀ r, assoc? s.scn.panRamps o = some r → at' < r.at0 + r.len → assoc? t.scn.panRamps o = some r) ∧
        (∀ x, x ≠ o → assoc? t.scn.ramps x = assoc? s.scn.ramps x ∧ assoc? t.scn.panRamps x = assoc? s.scn.panRamps x) ∧
        t.scn.force = s.scn.force ∧ t.regs = s.regs) ∧
      (s.strip? k = none → Completes (.dualRunEnd k u) s fun t => t = s) ∧
      (∀ x, s.strip? k = some x → Completes (.dualRunEnd k u) s fun t =>
        (∃ y, t.strip? k = some y ∧ y.proc = x.proc ∧
          (∀ d, d ∈ y.duals ↔ d ∈ x.duals ∧ ¬(d.unit = u ∧ d.start + d.len ≤ at')) ∧
          (∀ f, f ∈ y.tapFades ↔ f ∈ x.tapFades ∧ ¬(f.which + 32 = u ∧ f.start + f.len ≤ at'))) ∧
        (∀ j, j ≠ k → t.strip? j = s.strip? j) ∧ t.regs = s.regs ∧ t.mem = s.mem))

/-- R162, R167: a write of go to CHN_PREP starts the prepare of a slot (busy, PREPARING), or refuses it with BUSY, ACTIVE,
LENGTH or CHANNEL and sets prep_refused; LENGTH fails the slot. When every partition is transformed the slot is READY, its
head taps stand in the channel's Granary area (zeros beyond the length the prepare started with) and prep_done sets. A job
starts, with the size, direction and addresses of that moment, unless one is busy, when only the RW fields are written; a
size outside 6 to 16 is refused with err; when it ends, its result in natural order and its block exponent are written, or
err is set (at a destination it cannot reach, with the points before it written), and job_done sets. -/
def Obligations.ChurnPreparesAndJobs : Prop :=
  ∀ (s : State) (v : Word),
    let c := v.toNat % 128
    let slot := v.toNat / 256 % 2
    let r := s.prepareRefusal c slot (s.rd F.CHN_PREP_LEN_taps)
    let pc := s.rd F.CHN_PREP_STATUS_channel
    let ps := s.rd F.CHN_PREP_STATUS_slot
    let taps := s.rd F.CHN_PREP_LEN_taps
    let p := v.toNat % 32
    let q := s.chn.job.1
    let src := s.chn.job.2.2.1
    let dst := s.chn.job.2.2.2
    let out := fun x => transform q s.chn.job.2.1 x
    let point := fun x i => unsigned 32 (at0 (0, 0) (out x).1 i).1 + unsigned 32 (at0 (0, 0) (out x).1 i).2 * 2 ^ 32
    (bitAt v.toNat 31 = false → Completes (.prepareGo v) s fun t =>
      t.rd F.CHN_PREP_channel = c ∧ t.rd F.CHN_PREP_slot = slot ∧ RegsBut [F.CHN_PREP_channel.key 0 0] s t) ∧
    (bitAt v.toNat 31 = true → r = 0 → Completes (.prepareGo v) s fun t =>
      t.on F.CHN_PREP_STATUS_busy = true ∧ t.rd F.CHN_PREP_STATUS_channel = c ∧ t.rd F.CHN_PREP_STATUS_slot = slot ∧
      t.rd F.CHN_PREP_STATUS_done = 0 ∧ t.slotState c slot = 1 ∧ t.raw 0x050 1 = s.raw 0x050 1 ∧ t.chn.prepLen = taps) ∧
    (bitAt v.toNat 31 = true → r ≠ 0 → Completes (.prepareGo v) s fun t =>
      t.rd F.CHN_PREP_STATUS_result = r ∧ t.raw 0x050 1 = true ∧ t.chn = s.chn ∧
      (r ≠ 1 → t.rd F.CHN_PREP_STATUS_channel = c ∧ t.rd F.CHN_PREP_STATUS_slot = slot) ∧ t.on F.CHN_PREP_STATUS_busy = s.on F.CHN_PREP_STATUS_busy ∧
      t.slotState c slot = (if r = 3 then 3 else s.slotState c slot)) ∧
    (s.on F.CHN_PREP_STATUS_busy = false → Completes .prepareDone s fun t => t = s) ∧
    (s.on F.CHN_PREP_STATUS_busy = true → s.chanGranary pc + 1024 ≤ 2 ^ 32 → s.blockLen ≤ 64 → Completes .prepareDone s fun t =>
      t.slotState pc ps = 2 ∧ t.on F.CHN_PREP_STATUS_busy = false ∧ t.rd F.CHN_PREP_STATUS_result = 0 ∧ t.raw 0x050 0 = true ∧
      (s.rd F.CHN_PREP_STATUS_done ≤ (s.partList pc).length →
        t.rd F.CHN_PREP_STATUS_done = (s.partList pc).length % 2 ^ 16) ∧
      (s.copying = false → ∀ j, j < s.blockLen → t.load (s.chanGranary pc + 256 * ps + 4 * j) 4 =
        if j < s.chn.prepLen then s.load (s.chanArea pc 0x14 + 4 * j) 4 else 0)) ∧
    (bitAt v.toNat 31 = true → s.on F.CHN_JOB_STATUS_busy = true → Completes (.jobGo v) s fun t =>
      t.rd F.CHN_JOB_CTRL_log2n = p ∧ t.rd F.CHN_JOB_CTRL_inverse = v.toNat / 32 % 2 ∧ t.chn = s.chn ∧
      RegsBut [F.CHN_JOB_CTRL_log2n.key 0 0] s t) ∧
    (bitAt v.toNat 31 = true → s.on F.CHN_JOB_STATUS_busy = false → Completes (.jobGo v) s fun t =>
      t.rd F.CHN_JOB_CTRL_log2n = p ∧ t.rd F.CHN_JOB_CTRL_inverse = v.toNat / 32 % 2 ∧
      (6 ≤ p ∧ p ≤ 16 → t.on F.CHN_JOB_STATUS_busy = true ∧ t.on F.CHN_JOB_STATUS_err = false ∧
        t.chn.job = (p, bitAt v.toNat 5, s.rd F.CHN_JOB_SRC_LO_addr + s.rd F.CHN_JOB_SRC_HI_value * 2 ^ 32,
          s.rd F.CHN_JOB_DST_LO_addr + s.rd F.CHN_JOB_DST_HI_value * 2 ^ 32)) ∧
      (p < 6 ∨ 16 < p → t.on F.CHN_JOB_STATUS_busy = false ∧ t.on F.CHN_JOB_STATUS_err = true) ∧
      RegsBut [F.CHN_JOB_CTRL_log2n.key 0 0, F.CHN_JOB_STATUS_busy.key 0 0] s t) ∧
    (s.on F.CHN_JOB_STATUS_busy = false → Completes .jobDone s fun t => t = s) ∧
    (s.on F.CHN_JOB_STATUS_busy = true → s.jobRead src (2 ^ q) = none → Completes .jobDone s fun t =>
      t.on F.CHN_JOB_STATUS_busy = false ∧ t.on F.CHN_JOB_STATUS_err = true ∧ t.raw 0x050 4 = true ∧ t.mem = s.mem) ∧
    (∀ x k, s.on F.CHN_JOB_STATUS_busy = true → s.jobRead src (2 ^ q) = some x → 2 ^ 32 ≤ dst → k ≤ 2 ^ q →
      (∀ i, i < k → s.churnReach (dst + 8 * i) 8 = true) → (k = 2 ^ q ∨ s.churnReach (dst + 8 * k) 8 = false) →
      Completes .jobDone s fun t =>
        t.on F.CHN_JOB_STATUS_busy = false ∧ t.raw 0x050 4 = true ∧ t.rd F.CHN_JOB_STATUS_exp = (out x).2 % 32 ∧
        t.on F.CHN_JOB_STATUS_err = (s.on F.CHN_JOB_STATUS_err || decide (k < 2 ^ q)) ∧
        (∀ i, i < k → t.load (dst + 8 * i) 8 = point x i) ∧ BytesBut dst (8 * k) s t)

/-- R154, R164, R165, R198: at the tail-ready point the tails of the block in Work stand in the channels' Granary areas and
the wait for them ends. At sample c the switching channels begin their crossfade of n_f samples. When Work of its last sample
is over, each channel stands at its new slot, no channel crossfades, every slot state is as it was, the switch reads DONE and
switch_done sets. -/
def Obligations.ChurnSwitches : Prop :=
  ∀ s : State,
    (Completes .tailReady s fun t => t.mil.tail = true ∧ t.chn.tailReady = true ∧
      (∀ n, n < 16 → (s.mill n).wait = .tail → (t.mill n).wait = .none) ∧
      (∀ n, (s.mill n).wait = .none → t.mill n = s.mill n) ∧
      (s.copying = false → s.blockLen ≤ 64 → (s.chn.tails.map Prod.fst).Nodup → (∀ e ∈ s.chn.tails, e.2.length = s.blockLen) →
        ∀ e ∈ s.chn.tails, ∀ i, i < s.blockLen →
          t.load (s.chanGranary (e.1 / 2) + 512 + 256 * (e.1 % 2) + 4 * i) 4 = unsigned 32 (at0 0 e.2 i))) ∧
    (∀ w c, s.chn.sw = some w → w.c = some c → c ≤ s.now → w.fade = none → Completes .switchCrossfadeStart s fun t =>
      t.chn.sw = some { w with fade := some s.chanFadeLen } ∧ t.regs = s.regs ∧ t.mem = s.mem) ∧
    ((∀ w c, s.chn.sw = some w → w.c = some c → w.fade = none → s.now < c) → Completes .switchCrossfadeStart s fun t => t = s) ∧
    (∀ w c n, s.chn.sw = some w → w.c = some c → w.fade = some n →
      (s.now < c + n + s.blockLen → Completes .switchDone s fun t => t = s) ∧
      (c + n + s.blockLen ≤ s.now → s.SwitchOk → (w.chans.map Prod.fst).Nodup → Completes .switchDone s fun t =>
        t.chn.sw = none ∧ t.raw 0x050 2 = true ∧ t.rd F.APPLY_RESULT_code 0x050 = 0x02 ∧
        (∀ e ∈ w.chans, t.activeSlot e.1 = e.2 % 2 ∧ t.chanXfading e.1 = false) ∧
        (∀ v, v < 128 → (∀ e ∈ w.chans, e.1 ≠ v) → t.activeSlot v = s.activeSlot v ∧ t.chanXfading v = s.chanXfading v) ∧
        (∀ v k, v < 128 → k < 2 → t.slotState v k = s.slotState v k) ∧ t.mem = s.mem))

/-- R389, R76, R344, R392, R391, R111, R345: a master's Granary write that no rule turns away stores its bytes and no other,
is answered, and, in the Live bank, comes into force with the next boundary: its words wait as loose writes and their
earlier values are held. Granary writes that are turned away store nothing: a bank that is not On and a partial write to an
uncorrectable word answer with an error, a locked bank and a bank the Active drives discard and count, a write that needs
room in a full hold buffer waits, and so does every later write of that source. A request of the debug port while it is shut
is never formed (R496; log entry 65). -/
def Obligations.GranaryWrites : Prop :=
  (
    ∀ (ini : Initiator) (a : Nat) (data : List Byte) (s : State),
      let n := data.length
      s.portShut ini = false → data ≠ [] → 0x01000000 ≤ a → a + n ≤ 0x03000000 → s.bankOn a = true → s.waitsBehind ini = false →
      (∀ b, bankOf a = some b → s.bankLocked b = false ∧ (s.restartLocks = true → ini = .reeve) ∧
        (s.rd F.NBR_STATE_role = 2 → ini = .carter0 ∨ ini = .carter1)) →
      (∀ w ∈ wordsOf a n, s.poisoned w = true → a ≤ w * 8 ∧ w * 8 + 8 ≤ a + n) →
      s.memx.hold.length + (s.newHolds a n).length ≤ 16384 →
      Completes (.granaryWrite ini a data) s fun t =>
        t.bytes a n = data ∧ BytesBut a n s t ∧ t.resp = some ⟨ini, 0, false⟩ ∧
        RegsBut [F.GRN_HOLD_peak.key 0 0] s t ∧
        (∀ w ∈ wordsOf a n, a ≤ w * 8 → w * 8 + 8 ≤ a + n → t.poisoned w = false) ∧
        (bankOf a = some s.liveBank →
          t.scn.loose = s.scn.loose ++ (words32 a n).map (fun w => (w, BitVec.ofNat 32 (t.load w 4))) ∧
          ∀ w ∈ s.newHolds a n, assoc? t.memx.hold w = some (BitVec.ofNat 64 (s.load (w * 8) 8))) ∧
        (bankOf a ≠ some s.liveBank → t.scn = s.scn ∧ t.memx.hold = s.memx.hold)) ∧
  (
    ∀ (ini : Initiator) (a : Nat) (data : List Byte) (s : State),
      let n := data.length
      let c := Instr.granaryWrite ini a data
      let err := fun t => t = s.respond ini 0 true
      (s.portShut ini = true → Completes c s fun t => t = s) ∧
      (s.portShut ini = false → data = [] ∨ a < 0x01000000 ∨ 0x03000000 < a + n → Completes c s err) ∧
      (s.portShut ini = false → data ≠ [] → 0x01000000 ≤ a → a + n ≤ 0x03000000 →
        (s.waitsBehind ini = true → Completes c s fun t =>
          t = { s with memx := { s.memx with holdWait := s.memx.holdWait ++ [⟨ini, 0, a, data⟩] } }) ∧
        (s.waitsBehind ini = false → s.bankOn a = false → Completes c s err) ∧
        (s.waitsBehind ini = false → s.bankOn a = true →
          (∀ b, bankOf a = some b → s.rd F.NBR_STATE_role = 2 → ini = .host ∨ ini = .dma ∨ ini = .debug ∨ ini = .reeve →
            Completes c s fun t => t.mem = s.mem ∧ t.scn = s.scn ∧ t.resp = some ⟨ini, 0, false⟩ ∧
              t.rd F.NBR_COUNTS_driven_drop = min (s.rd F.NBR_COUNTS_driven_drop + 1) 0xFFFF) ∧
          (∀ b, bankOf a = some b → s.bankLocked b = true ∨ (s.restartLocks = true ∧ ini ≠ .reeve) → s.rd F.NBR_STATE_role ≠ 2 →
            Completes c s fun t => t.mem = s.mem ∧ t.scn = s.scn ∧ t.resp = some ⟨ini, 0, false⟩ ∧
              t.rd F.SCN_COUNTS_lock_drop = min (s.rd F.SCN_COUNTS_lock_drop + 1) 0xFFFF) ∧
          (bankOf a = none → (∃ w ∈ wordsOf a n, s.poisoned w = true ∧ ¬(a ≤ w * 8 ∧ w * 8 + 8 ≤ a + n)) → Completes c s err) ∧
          (bankOf a = some s.liveBank → s.bankLocked s.liveBank = false → s.restartLocks = false → s.rd F.NBR_STATE_role ≠ 2 →
            (∀ w ∈ wordsOf a n, s.poisoned w = false) → 16384 < s.memx.hold.length + (s.newHolds a n).length →
            Completes c s fun t => t.mem = s.mem ∧ t.scn = s.scn ∧ t.resp = s.resp ∧
              t.memx.holdWait = s.memx.holdWait ++ [⟨ini, 0, a, data⟩] ∧ (s.memx.holdWait = [] → t.raw 0x020 4 = true ∧
                t.rd F.GRN_HOLD_full = min (s.rd F.GRN_HOLD_full + 1) 0xFFFF)))))

/-- R390, R391, R392: a Granary read returns its bytes; a single flipped bit is corrected and counted; an uncorrectable word
gives zeros with an error response, is counted, captured and recorded, and marks its row; a bank that is not On answers with
an error. A corrected word is written back. After a boundary a waiting write leaves the wait, is performed and answered, and
in the Live bank waits for the next boundary. That bits flip comes with the command (log entry 62). -/
def Obligations.GranaryReads : Prop :=
  ∀ (ini : Initiator) (a n : Nat) (us : List (Nat × Bool)) (s : State), 0 < n → 0x01000000 ≤ a → a + n ≤ 0x03000000 →
    let c := Instr.granaryRead ini a ⟨n, us⟩
    let u := s.upset us
    let ws := wordsOf a n
    (u.mem = s.mem ∧ u.regs = s.regs ∧ (∀ w, u.poisoned w = true ↔ s.poisoned w = true ∨ ((w, true) ∈ us ∧ inGranary (8 * w) = true)) ∧
      (∀ w, w ∈ u.memx.soft ↔ w ∈ s.memx.soft ∨ ((w, false) ∈ us ∧ inGranary (8 * w) = true))) ∧
    (s.portShut ini = true → Completes c s fun t => t = u) ∧
    (s.portShut ini = false →
      (s.bankOn a = false → Completes c s fun t => t = u.respond ini 0 true) ∧
      (s.bankOn a = true → (∀ w ∈ ws, u.poisoned w = false) →
        ((∀ w ∈ ws, w ∉ u.memx.soft) → Completes c s fun t => t = u.respond ini (s.load a n)) ∧
        (∀ w, ws.filter (fun x => decide (x ∈ u.memx.soft)) = [w] → Completes c s fun t =>
          t.resp = some ⟨ini, s.load a n, false⟩ ∧ t.mem = s.mem ∧ t.memx.soft = u.memx.soft ∧ t.raw 0x020 0 = true ∧
          t.rd F.GRN_ECC_corrected = min (s.rd F.GRN_ECC_corrected + 1) 0xFFFF)) ∧
      (s.bankOn a = true → (∃ w ∈ ws, u.poisoned w = true) →
        Completes c s fun t => t.resp = some ⟨ini, 0, true⟩ ∧ t.raw 0x020 1 = true ∧ rowOf a ∈ t.memx.marked ∧ t.mem = s.mem ∧
          t.memx.poison = u.memx.poison ∧ t.rd F.GRN_ECC_uncorrected = min (s.rd F.GRN_ECC_uncorrected + 1) 0xFFFF)) ∧
    (∀ w, Completes (.eccWriteback w) s fun t => t.mem = s.mem ∧ t.regs = s.regs ∧ t.memx.poison = s.memx.poison ∧
      t.memx.soft = s.memx.soft.filter (· != w)) ∧
    (s.memx.holdWait = [] → s.fab.held = [] → Completes .holdWaitProceed s fun t => t = s) ∧
    (∀ w : HoldWait, s.memx.holdWait = [w] → s.fab.held = [] → w.chan < 100 → w.addr < aliasBase → s.bankOn w.addr = true →
      (∀ b, bankOf w.addr = some b → s.bankLocked b = false ∧ s.restartLocks = false ∧ s.rd F.NBR_STATE_role ≠ 2) →
      (∀ v ∈ wordsOf w.addr w.data.length, s.poisoned v = false) →
      s.memx.hold.length + (s.newHolds w.addr w.data.length).length ≤ 16384 → bitAt (s.rd F.FAB_QUAR_ports) w.ini.port = false →
      Completes .holdWaitProceed s fun t => t.memx.holdWait = [] ∧ t.bytes w.addr w.data.length = w.data ∧
        BytesBut w.addr w.data.length s t ∧ t.resp = some ⟨w.ini, 0, false⟩ ∧
        (bankOf w.addr = some s.liveBank → t.scn.loose = s.scn.loose ++
          (words32 w.addr w.data.length).map (fun x => (x, BitVec.ofNat 32 (t.load x 4)))))

/-- R393, R394, R395: the Sweeper's visit of the row at its position. A row that passes is restored and the position moves
on, bank 0 to 63 within a row, then the next row, and a pass ends after row 1023. A failing row is mapped to a spare of its
bank at this visit and the map is saved; with all eight in use the row keeps its place, spare_exhausted sets and a memory
fault is raised. A row under test that is written to is tried again, and after `retries` aborts in a row it is skipped and
counted. A disabled Sweeper tests nothing. -/
def Obligations.SweeperRows : Prop :=
  ∀ s : State, s.SwitchOk →
    let b := s.rd F.SWP_POS_bank
    let w := s.rd F.SWP_POS_row
    let r := b * 1024 + w
    let moves := fun t : State =>
      (b < 63 → t.sweepAt = (b + 1, w)) ∧ (b = 63 → w < 1023 → t.sweepAt = (0, w + 1)) ∧
      (b = 63 → w = 1023 → t.sweepAt = (0, 0) ∧ t.raw 0x022 0 = true ∧
        t.rd F.SWP_COUNTS_passes = min (s.rd F.SWP_COUNTS_passes + 1) 0xFFFF)
    (s.on F.SWP_CFG_enable = false → ∀ os, Completes (.sweeperRowTest os) s fun t => t = s) ∧
    (s.on F.SWP_CFG_enable = true → 0 < s.rd F.SWP_CFG_rate →
      (r ∉ s.memx.marked → Completes (.sweeperRowTest [0]) s fun t => moves t ∧ t.mem = s.mem ∧ t.memx.spares = s.memx.spares) ∧
      (r ∉ s.memx.spares → s.sparesUsed b < 8 → Completes (.sweeperRowTest [1]) s fun t =>
        moves t ∧ t.memx.spares = s.memx.spares ++ [r] ∧ t.sparesUsed b = s.sparesUsed b + 1 ∧
        t.boot.settings.spares = t.memx.spares ∧ t.raw 0x020 2 = true ∧ t.raw 0x022 1 = true) ∧
      (r ∉ s.memx.spares → 8 ≤ s.sparesUsed b → Completes (.sweeperRowTest [1]) s fun t =>
        moves t ∧ t.memx.spares = s.memx.spares ∧ t.raw 0x020 3 = true ∧ t.latch 0x07 = true) ∧
      (s.memx.aborts + 1 < max 1 (s.rd F.SWP_CFG_retries) → Completes (.sweeperRowTest [2]) s fun t =>
        t.sweepAt = (b, w) ∧ t.memx.aborts = s.memx.aborts + 1 ∧ t.mem = s.mem ∧ t.memx.spares = s.memx.spares ∧
        t.rd F.SWP_COUNTS_aborts = min (s.rd F.SWP_COUNTS_aborts + 1) 0xFFFF) ∧
      (max 1 (s.rd F.SWP_CFG_retries) ≤ s.memx.aborts + 1 → Completes (.sweeperRowTest [2]) s fun t =>
        moves t ∧ t.memx.aborts = 0 ∧ t.raw 0x022 2 = true ∧ t.mem = s.mem ∧ t.memx.spares = s.memx.spares))

/-- R398, R511: a tamper input that is low while its enable is 1 starts a wipe of the Strongroom with its cause and latches
fault 0x0C; with the enable 0, and on its release, only STR_STATUS shows the input. A write of wipe counts from the Reeve
alone. The end of a wipe leaves zeros above the identity record, records wiped and the cause, and keeps every byte outside
the Strongroom while the Roll's mirror is not live. -/
def Obligations.StrongroomWipes : Prop :=
  ∀ (s : State) (ini : Initiator) (pin : Nat) (low : Bool), s.SwitchOk → pin < 2 →
    let en := if pin = 0 then s.on F.STR_CTRL_tamper_en0 else s.on F.STR_CTRL_tamper_en1
    let shown := fun t : State => (if pin = 0 then t.on F.STR_STATUS_tamper0 else t.on F.STR_STATUS_tamper1) = low
    (low = true → en = true → Completes (.tamper pin low) s fun t =>
      shown t ∧ t.memx.wiping = some pin ∧ t.on F.STR_STATUS_wiping = true ∧ t.latch 0x0C = true) ∧
    (low = false ∨ en = false → Completes (.tamper pin low) s fun t =>
      shown t ∧ t.memx = s.memx ∧ t.flt = s.flt ∧ RegsBut [F.STR_STATUS_wiped.key 0 0] s t) ∧
    (Completes (.strWipe .reeve) s fun t => t.memx.wiping = some 3 ∧ t.on F.STR_STATUS_wiping = true ∧
      RegsBut [F.STR_STATUS_wiped.key 0 0] s t) ∧
    (ini ≠ .reeve → Completes (.strWipe ini) s fun t => t = s) ∧
    (s.memx.wiping = none → Completes .wipeDone s fun t => t = s) ∧
    (∀ c, s.memx.wiping = some c → s.on F.ROL_STATUS_mirror_live = false → Completes .wipeDone s fun t =>
      t.memx.wiping = none ∧ t.on F.STR_STATUS_wiping = false ∧ t.on F.STR_STATUS_wiped = true ∧
      t.rd F.STR_STATUS_cause = c % 4 ∧ t.raw 0x021 0 = true ∧ t.boot.unitKey = false ∧
      (∀ a, 0x04000030 ≤ a → a < 0x04040000 → t.byte a = 0) ∧
      (∀ a, a < 0x04000000 ∨ 0x04040000 ≤ a → t.byte a = s.byte a))

/-- R405, R406, R407, R409: the Cellar's refresh on a channel. A tick raises the debt by one, and a per-bank refresh to an
idle bank takes that one again; at or above the limit less 16 an all-bank refresh takes 16. A poll whose class is higher
puts it in force at once and counts the debt again at the new rate; a lower class takes effect with its second read. Hot
latches the thermal fault. Write-timing polls go to the devices and change nothing else; self-refresh is entered only while
the engine is stopped. -/
def Obligations.CellarRefresh : Prop :=
  ∀ (s : State) (ch field need trfc : Nat) (v : Word), s.SwitchOk → ch < 4 →
    let d := s.debt ch
    let k := min need 2 - s.celClass ch
    let sees := fun (t : State) => t.debt ch = d * 2 ^ k
    (Completes (.refreshDebtTick ch false) s fun t => t.debt ch = d + 1 ∧ t.out = s.out) ∧
    (Completes (.refreshDebtTick ch true) s fun t => t.debt ch = d ∧ t.out = s.out ++ [.cellar ch 1]) ∧
    (s.debtLimit ch ≤ d + 16 → Completes (.supervisoryRefresh ch) s fun t => t.debt ch = d - 16 ∧ t.out = s.out ++ [.cellar ch 2]) ∧
    (d + 16 < s.debtLimit ch → Completes (.supervisoryRefresh ch) s fun t => t = s) ∧
    (s.celClass ch < min need 2 → d * 2 ^ k ≤ s.rd F.CEL_REF_STAT_debt_max →
      Completes (.mr4Poll ch field need trfc) s fun t => t.celClass ch = min need 2 ∧ sees t ∧
        (need = 1 → t.raw 0x028 0 = true) ∧ (2 ≤ need → t.raw 0x028 2 = true ∧ t.latch 0x04 = true)) ∧
    (s.celClass ch < min need 2 → s.rd F.CEL_REF_STAT_debt_max < d * 2 ^ k →
      Completes (.mr4Poll ch field need trfc) s fun t => t.celClass ch = min need 2 ∧
        t.debt ch ≤ s.rd F.CEL_REF_STAT_debt_max ∧ t.raw 0x028 1 = true) ∧
    (min need 2 < s.celClass ch → assoc? s.memx.lower ch ≠ some (min need 2 + 1) →
      Completes (.mr4Poll ch field need trfc) s fun t => t.celClass ch = s.celClass ch ∧ assoc? t.memx.lower ch = some (min need 2 + 1)) ∧
    (min need 2 < s.celClass ch → assoc? s.memx.lower ch = some (min need 2 + 1) →
      Completes (.mr4Poll ch field need trfc) s fun t => t.celClass ch = min need 2 ∧ assoc? t.memx.lower ch = some 0) ∧
    (Completes (.wck2dqPoll ch) s fun t => t = s.emit (.cellar ch 3)) ∧
    (bitAt v.toNat 0 = true → s.running = true → Completes (.selfRefresh v) s fun t => t = s) ∧
    (bitAt v.toNat 0 = true → s.running = false → Completes (.selfRefresh v) s fun t =>
      t.memx.selfRefresh = true ∧ t.on F.CEL_CTRL_self_refresh = true ∧ RegsBut [F.CEL_CTRL_self_refresh.key 0 0] s t) ∧
    (bitAt v.toNat 0 = false → Completes (.selfRefresh v) s fun t =>
      t.memx.selfRefresh = false ∧ t.on F.CEL_CTRL_self_refresh = false ∧ RegsBut [F.CEL_CTRL_self_refresh.key 0 0] s t)

/-- R410, R411, R414: the Gleaner's oldest staged frame is complete: its final header stands at its place in the ring as one
64-byte write, with valid, dropped and gap as the frame is, and the next staged frame starts behind an invalid header; w
moves on by one; a cursor that is not met stays, and one at w - N or older moves to the oldest frame still held, with lost,
mark_lost and the samples lost. -/
def Obligations.GleanerFrames : Prop :=
  ∀ (s : State) (k e : Nat) (dropped : Bool) (body : List Byte) (rest : List (Nat × Nat × Bool × List Byte)),
    let g := s.memx.gln
    let n := s.rd F.GLN_FRAMES_n_frames
    let flags := 1 + (if dropped then 2 else 0) + (if g.last = some e then 0 else 4)
    let at' := fun (j : Nat) => 0x100000000 + s.lv F.GLN_RING_BASE_value * 64 + j % n * s.rd F.GLN_FRAME_bytes
    let a := at' k
    let header := fun (esi j fl : Nat) =>
      leBytes 8 esi ++ leBytes 8 j ++ leBytes 2 s.glnInputs ++ leBytes 2 fl ++ leBytes 4 s.blockLen ++ leBytes 40 0
    (g.staged = [] → Completes .gleanerFrameComplete s fun t => t = s) ∧
    (g.staged = (k, e, dropped, body) :: rest → 0 < n → s.on F.GLN_MARK_STATE_pending = false →
      (g.cursor = none ∨ (∃ c, g.cursor = some c ∧ g.w + 1 < c + n) → Completes .gleanerFrameComplete s fun t =>
        (rest = [] → t.bytes a 64 = header e k flags ∧ BytesBut a 64 s t) ∧
        (∀ x, rest.head? = some x → x.1 % n ≠ k % n → 64 + x.2.2.2.length ≤ s.rd F.GLN_FRAME_bytes →
          t.bytes a 64 = header e k flags ∧ t.bytes (at' x.1) 64 = header (2 ^ 64 - 1) x.1 0 ∧
          t.bytes (at' x.1 + 64) x.2.2.2.length = x.2.2.2 ∧
          (∀ y, (y < a ∨ a + 64 ≤ y) → (y < at' x.1 ∨ at' x.1 + (64 + x.2.2.2.length) ≤ y) → t.byte y = s.byte y)) ∧
        t.memx.gln.w = g.w + 1 ∧ t.memx.gln.staged = rest ∧ t.memx.gln.cursor = g.cursor ∧
        t.rd F.GLN_WRITE_LO_frame = (g.w + 1) % 2 ^ 32 ∧
        RegsBut [F.GLN_WRITE_LO_frame.key 0 0, F.GLN_CURSOR_LO_value.key 0 0, F.GLN_CURSOR_OFS_value.key 0 0, F.GLN_READ_ESI_esi.key 0 0] s t) ∧
      (∀ c p, g.cursor = some c → c + n ≤ g.w + 1 →
        assoc? ((if n ≤ g.esis.length then g.esis.drop 1 else g.esis) ++ [(k, e)]) (g.w + 2 - n) = some p → g.readPos ≤ p →
        Completes .gleanerFrameComplete s fun t =>
          t.memx.gln.w = g.w + 1 ∧ t.memx.gln.cursor = some (g.w + 2 - n) ∧ t.memx.gln.readPos = p ∧
          t.on F.GLN_MARK_STATE_lost = true ∧ t.raw 0x02B 1 = true ∧
          t.rd F.GLN_LOST_samples = min (s.rd F.GLN_LOST_samples + (p - g.readPos)) 0xFFFFFFFF))

/-- R413, R414: a write of GLN_MARK_AT replaces the mark by the expanded ESI and clears lost, gap and GLN_LOST. The Reeve
then finds its frame: the frame that holds the mark becomes the cursor and the read position starts at the mark; a mark past
every frame is pending; one that falls where nothing was recorded takes the next frame, with gap; one older than a full ring
is overtaken at once. -/
def Obligations.GleanerMarks : Prop :=
  ∀ (s : State) (v : Word) (m k e : Nat) (pre post : List (Nat × Nat)),
    let g := s.memx.gln
    let n := s.rd F.GLN_FRAMES_n_frames
    let l := s.blockLen
    let found := fun (t : State) (c p : Nat) => t.memx.gln.cursor = some c ∧ t.memx.gln.readPos = p ∧ t.memx.gln.mark = none ∧
      t.on F.GLN_MARK_STATE_ready = true ∧ t.on F.GLN_MARK_STATE_pending = false ∧ t.raw 0x02B 0 = true
    (Completes (.glnMarkAtWrite v) s fun t =>
      t.memx.gln = { g with mark := some (expandEsi s.now v.toNat), cursor := none } ∧
      t.on F.GLN_MARK_STATE_ready = false ∧ t.on F.GLN_MARK_STATE_lost = false ∧ t.on F.GLN_MARK_STATE_gap = false ∧
      t.rd F.GLN_LOST_samples = 0 ∧ t.rd F.GLN_MARK_AT_esi = v.toNat ∧
      RegsBut [F.GLN_MARK_AT_esi.key 0 0, F.GLN_MARK_STATE_ready.key 0 0, F.GLN_LOST_samples.key 0 0] s t) ∧
    (g.mark = none → Completes .markReady s fun t => t = s) ∧
    (g.mark = some m → (∀ x ∈ g.esis, g.w + 1 ≤ x.1 + n) →
      (g.esis = pre ++ (k, e) :: post → (∀ x ∈ pre, x.2 + l ≤ m) → e ≤ m → m < e + l →
        Completes .markReady s fun t => found t k m ∧ t.mem = s.mem) ∧
      ((∀ x ∈ g.esis, x.2 + l ≤ m) → Completes .markReady s fun t =>
        t.on F.GLN_MARK_STATE_pending = true ∧ t.memx = s.memx ∧ t.mem = s.mem) ∧
      (g.esis = pre ++ (k, e) :: post → pre ≠ [] → (∀ x ∈ pre, x.2 + l ≤ m ∧ x.1 ≠ k) → (∀ x ∈ post, m < x.2) → m < e →
        Completes .markReady s fun t => found t k m ∧ t.on F.GLN_MARK_STATE_gap = true) ∧
      (g.esis = (k, e) :: post → n ≤ g.w → (∀ x ∈ g.esis, m < x.2) → Completes .markReady s fun t =>
        found t k e ∧ t.on F.GLN_MARK_STATE_lost = true ∧ t.raw 0x02B 1 = true ∧
        t.rd F.GLN_LOST_samples = min (s.rd F.GLN_LOST_samples + (e - m)) 0xFFFFFFFF))

/-- R415, R419: GLN_ADV moves the cursor and the read position on by the frames consumed and stops at the frame being
written; the low halves of w and of the cursor answer a read and latch the high halves for the master that reads. A request
of the debug port while it is shut is never formed (log entry 65). -/
def Obligations.GleanerReading : Prop :=
  ∀ (s : State) (v : Word) (ini : Initiator) (c : Nat),
    let g := s.memx.gln
    let f := v.toNat % 2 ^ 20
    let latch := fun (t : State) (kind : Nat) => ((assoc? t.host.latches (kind * 8 + ini.port)).getD 0).toNat
    (g.cursor = none → Completes (.glnAdv v) s fun t => t = s) ∧
    (g.cursor = some c → c ≤ g.w → Completes (.glnAdv v) s fun t =>
      t.memx.gln.cursor = some (min (c + f) g.w) ∧ t.memx.gln.readPos = g.readPos + min f (g.w - c) * s.blockLen ∧
      t.memx.gln.w = g.w ∧ t.mem = s.mem ∧ t.rd F.GLN_CURSOR_LO_value = min (c + f) g.w % 2 ^ 32) ∧
    (s.portShut ini = true → Completes (.glnWriteLoRead ini) s (fun t => t = s) ∧ Completes (.glnCursorLoRead ini) s fun t => t = s) ∧
    (s.portShut ini = false → g.w < 2 ^ 64 → Completes (.glnWriteLoRead ini) s fun t => t.resp = some ⟨ini, g.w % 2 ^ 32, false⟩ ∧ latch t 0 = g.w / 2 ^ 32 ∧
      t.memx = s.memx ∧ RegsBut [F.GLN_WRITE_LO_frame.key 0 0, F.GLN_WRITE_HI_frame.key 0 0] s t) ∧
    (s.portShut ini = false → g.cursor = some c → c < 2 ^ 64 → Completes (.glnCursorLoRead ini) s fun t => t.resp = some ⟨ini, c % 2 ^ 32, false⟩ ∧ latch t 1 = c / 2 ^ 32 ∧
      t.memx = s.memx ∧ RegsBut [F.GLN_CURSOR_LO_value.key 0 0, F.GLN_CURSOR_HI_value.key 0 0] s t)

/-- R230, R231, R232, R262, R265: a frame with a bad FCS or length counts as crc and goes no further; an accepted one
counts, and one that no test takes counts as unmatched. An ARP request for the port's address is answered to its sender,
which is learnt. A PTP event message is stamped at its arrival and its stamp enters the FIFO, from which only a Carter's
read of PTS_FIFO_INFO takes the oldest and latches it. A request of the debug port while it is shut is never formed (log
entry 65). A change of lock or link, a fault that appears, shows in NTx_STATUS and raises its event; in auto speed a port
without lock changes its speed. -/
def Obligations.NetworkPorts : Prop :=
  ∀ (s : State) (p c u : Nat) (data : List Byte) (ini : Initiator), p < 2 →
    let limit := if s.lon F.NT_CFG_jumbo p then 9022 else 1522
    let mine := (data.headD 0).toNat % 2 = 1 ∨ data.take 6 = s.macOf p
    (∀ ok, s.on F.NT_STATUS_link p = false → Completes (.frameReceive p ok c u data) s fun t => t = s) ∧
    (s.on F.NT_STATUS_link p = true →
      (∀ ok, (ok = false ∨ limit < data.length + 4 ∨ data.length + 4 < 64) → Completes (.frameReceive p ok c u data) s fun t =>
        t.rd F.NT_RX_ERR_crc p = min (s.rd F.NT_RX_ERR_crc p + 1) 0xFFFF ∧ t.rd F.NT_RX_FRAMES_frames p = s.rd F.NT_RX_FRAMES_frames p ∧
        t.rd F.NT_FEC_corrected p = min (s.rd F.NT_FEC_corrected p + c) 0xFFFF ∧ (u ≠ 0 → t.raw (0x060 + p) 2 = true) ∧
        t.net = s.net ∧ t.mem = s.mem) ∧
      (data.length + 4 ≤ limit → 64 ≤ data.length + 4 →
        ((¬mine ∨ s.untag p data = none) → Completes (.frameReceive p true c u data) s fun t =>
          t.rd F.NT_RX_ERR_unmatched p = min (s.rd F.NT_RX_ERR_unmatched p + 1) 0xFFFF ∧
          t.rd F.NT_RX_FRAMES_frames p = min (s.rd F.NT_RX_FRAMES_frames p + 1) 0xFFFFFFFF ∧ t.net = s.net ∧ t.mem = s.mem) ∧
        (∀ b, mine → s.untag p data = some (0x0806, b) → beAt b 6 2 = 1 → slice b 24 4 = s.ipOf p false → allZero (s.ipOf p false) = false →
          Completes (.frameReceive p true c 0 data) s fun t =>
            t.out = s.out ++ [.frame p s.tbNs (s.ethFrame p (slice b 8 6) 0x0806
              (arpBody 2 (s.macOf p) (s.ipOf p false) (slice b 8 6) (slice b 14 4)))] ∧
            (allZero (slice b 14 4) = false → assoc? t.net.neighbours (cacheKey p false (slice b 14 4)) = some (ofBe (slice b 8 6))) ∧
            t.mem = s.mem) ∧
        (∀ b, mine → s.untag p data = some (0x88F7, b) → s.on F.PTS_CFG_l2 = true → s.ptpOn p = false → beAt b 0 1 % 16 < 4 →
          s.net.pts.length < 256 → Completes (.frameReceive p true c u data) s fun t =>
            t.net.pts = s.net.pts ++ [⟨p * 4 + beAt b 0 1 % 16 * 8 + beAt b 4 1 % 256 * 2 ^ 8 + beAt b 30 2 % 65536 * 2 ^ 16,
              s.stamp p false % 10 ^ 9, s.stamp p false / 10 ^ 9⟩] ∧
            t.rd F.PTS_FIFO_LEVEL_level = s.net.pts.length + 1))) ∧
    (∀ lock link fec lf rf, Completes (.portLinkChange p lock link fec lf rf) s fun t =>
      t.on F.NT_STATUS_link p = (lock && link) ∧ t.on F.NT_STATUS_block_lock p = lock ∧ t.on F.NT_STATUS_local_fault p = lf ∧
      t.on F.NT_STATUS_remote_fault p = rf ∧ t.on F.NT_STATUS_fec_lock p = (lock && fec && s.fecRuns p) ∧
      ((s.on F.NT_STATUS_link p ≠ (lock && link) ∨ s.on F.NT_STATUS_block_lock p ≠ lock) → t.raw (0x060 + p) 0 = true) ∧
      ((lf = true ∧ s.on F.NT_STATUS_local_fault p = false ∨ rf = true ∧ s.on F.NT_STATUS_remote_fault p = false) →
        t.raw (0x060 + p) 1 = true)) ∧
    (2 ≤ s.lv F.NT_CFG_speed p → s.on F.NT_STATUS_block_lock p = false → Completes (.speedSeek p) s fun t =>
      t.rd F.NT_STATUS_speed p = 1 - s.rd F.NT_STATUS_speed p ∧ RegsBut [F.NT_STATUS_speed.key p 0] s t) ∧
    ((s.lv F.NT_CFG_speed p < 2 ∨ s.on F.NT_STATUS_block_lock p = true) → Completes (.speedSeek p) s fun t => t = s) ∧
    (s.portShut ini = true → Completes (.ptsFifoInfoRead ini) s fun t => t = s) ∧
    (s.portShut ini = false → ini ≠ .carter0 → ini ≠ .carter1 → Completes (.ptsFifoInfoRead ini) s fun t =>
      t.resp = some ⟨ini, 0, false⟩ ∧ t.net = s.net ∧ t.regs = s.regs) ∧
    ((ini = .carter0 ∨ ini = .carter1) →
      (s.net.pts = [] → Completes (.ptsFifoInfoRead ini) s fun t => t.resp = some ⟨ini, 0, false⟩ ∧ t.net = s.net ∧ t.regs = s.regs) ∧
      (∀ e l, s.net.pts = e :: l → Completes (.ptsFifoInfoRead ini) s fun t =>
        t.resp = some ⟨ini, e.info + 1, false⟩ ∧ t.net.pts = l ∧ t.rd F.PTS_FIFO_NS_value = e.ns % 2 ^ 30 ∧
        t.rd F.PTS_FIFO_SEC_LO_stamp = e.sec % 2 ^ 32 ∧ t.rd F.PTS_FIFO_SEC_HI_value = e.sec / 2 ^ 32 % 2 ^ 16 ∧
        t.rd F.PTS_FIFO_LEVEL_level = l.length % 2 ^ 9))

/-- R234, R241, R249, R252, R265, R319, R320: a master's Sync leaves with its stamp, in two-step operation followed by a
Follow_Up and recorded in the FIFO; a delay request is stamped and awaited; a port that takes no part or is gated sends
nothing. A master port sends its Announce. A transmit stream whose P samples have been emitted sends its packet and goes on
by P, or, gated, holds it. A joined group sends one of its unsolicited reports. -/
def Obligations.PtpAndPackets : Prop :=
  ∀ (s : State) (p k : Nat) (late behind v6 : Bool),
    let q := s.ptp p
    let d := s.stream true k
    let P := d.samples s
    ((2 ≤ p ∨ s.ptpOn p = false ∨ s.ptpGated p = true) →
      (∀ m, Completes (.ptpEventTransmit p m) s fun t => t = s) ∧ Completes (.announceMessage p) s fun t => t = s) ∧
    (p < 2 → s.ptpOn p = true → s.ptpGated p = false → s.on F.NT_STATUS_link p = true → s.on F.PTS_CFG_udp4 = true →
      (s.ptpState p = 6 → s.oneStep p = true → Completes (.ptpEventTransmit p 0) s fun t =>
        t.out.length = s.out.length + 1 ∧ t.net.pts = s.net.pts ∧ (t.ptp p).seqSync = (q.seqSync + 1) % 65536) ∧
      (s.ptpState p = 6 → s.oneStep p = false → s.net.pts.length < 256 → Completes (.ptpEventTransmit p 0) s fun t =>
        t.out.length = s.out.length + 2 ∧ (t.ptp p).seqSync = (q.seqSync + 1) % 65536 ∧
        t.net.pts = s.net.pts ++ [⟨2 + p * 4 + s.lv F.STP_PTP_domain % 256 * 2 ^ 8 + q.seqSync % 65536 * 2 ^ 16,
          s.stamp p true % 10 ^ 9, s.stamp p true / 10 ^ 9⟩]) ∧
      (s.ptpState p = 9 → s.p2p p = false → s.net.pts.length < 256 → Completes (.ptpEventTransmit p 1) s fun t =>
        t.out.length = s.out.length + 1 ∧ (t.ptp p).req = some (q.seqReq, s.stamp p true) ∧ t.net.pts.length = s.net.pts.length + 1) ∧
      (s.p2p p = true → s.net.pts.length < 256 → Completes (.ptpEventTransmit p 2) s fun t =>
        t.out.length = s.out.length + 1 ∧ (t.ptp p).req = some (q.seqReq, s.stamp p true) ∧ t.net.pts.length = s.net.pts.length + 1) ∧
      (∀ r, q.preq = some r → s.oneStep p = true → Completes (.ptpEventTransmit p 3) s fun t =>
        t.out.length = s.out.length + 1 ∧ (t.ptp p).preq = none) ∧
      (s.ptpState p = 6 → Completes (.announceMessage p) s fun t =>
        t.out.length = s.out.length + 1 ∧ (t.ptp p).seqAnn = (q.seqAnn + 1) % 65536 ∧ t.net = s.net)) ∧
    ((∀ e ∈ s.net.ending, e.stream ≠ k) → assoc? s.net.txFrom k = none → Completes (.packetLaunch k late behind) s fun t => t = s) ∧
    (∀ e, (∀ x ∈ s.net.ending, x.stream ≠ k) → assoc? s.net.txFrom k = some e →
      ((s.running = false ∨ s.now < (e + P) * d.step) → Completes (.packetLaunch k late behind) s fun t => t = s) ∧
      (s.running = true → (e + P) * d.step ≤ s.now →
        Completes (.packetLaunch k late behind) s (fun t => assoc? t.net.txFrom k = some (e + P) ∧
          t.rd F.STX_SAT_samples = min (s.rd F.STX_SAT_samples + (s.rtpPacket d e).2) 0xFFFFFFFF) ∧
        (∀ f, d.dual = false → s.packetFrame d d.a (s.rtpPacket d e).1 = some f → s.on F.NT_STATUS_link d.a.port = true →
          (s.gated = false → (s.rtpPacket d e).2 = 0 → Completes (.packetLaunch k false behind) s fun t =>
            t.out = s.out ++ [.frame d.a.port s.tbNs f] ∧ (t.txStat k).pktA = min ((s.txStat k).pktA + 1) 0xFFFF) ∧
          (s.gated = true → s.now < (e + P) * d.step + 3 * s.blockLen → Completes (.packetLaunch k late behind) s fun t =>
            (⟨k, 0, d.a.port, e * d.step, P * d.step, f⟩ : TxPacket) ∈ t.net.held ∧ t.on F.STX_GATE_gated = true ∧
            ∀ f', Out.frame d.a.port s.tbNs f' ∈ t.out → Out.frame d.a.port s.tbNs f' ∈ s.out)))) ∧
    (∀ g, (∀ m ∈ s.net.members, m.port = p → m.ipv6 = v6 → m.group = g → m.reports = 0) →
      Completes (.membershipReport p v6 g) s fun t => t = s) ∧
    (∀ g, (∃ m ∈ s.net.members, m.port = p ∧ m.ipv6 = v6 ∧ m.group = g ∧ m.reports ≠ 0) → s.on F.NT_STATUS_link p = true →
      Completes (.membershipReport p v6 g) s fun t => t.out.length = s.out.length + 1 ∧
        t.net.members = s.net.members.map fun o =>
          if o.port = p ∧ o.ipv6 = v6 ∧ o.group = g ∧ o.reports ≠ 0 then { o with reports := o.reports - 1 } else o)

/-- R255, R256, R257, R261, R475: a post takes a slot (POSTED, its result cleared), or is refused; a cancel ends it with
0x04. A destination without a MAC address is asked for again. A PTP-mode slot leaves at or after its time, a swap-mode slot
at its emit ESI, on each of its ports, with its stamp and its result: 0x01 on time, 0x02 late, 0x05 without a route. An
injected frame, or one of the UART, is captured as a datagram of its filter, or dropped and counted when the ring is full. -/
def Obligations.CrierFrames : Prop :=
  ∀ (s : State) (v : Word) (i : Nat) (data : List Byte),
    let j := v.toNat % 256
    let result := fun (t : State) (x : Nat) => (t.byte (t.slotAt x + 1)).toNat
    let ended := fun (x r : Nat) (t : State) => result t x = r ∧ t.slotCode x = (if r ≤ 2 then 2 else 3) ∧ x ∉ t.net.posted ∧
      t.raw 0x064 (if r ≤ 2 then 0 else 1) = true
    let leaves := fun (r : Nat) (t : State) => ended i r t ∧ t.load (t.slotAt i + 4) 4 = s.stamp ((s.criSlot i).portList.headD 0) true % 10 ^ 9 ∧
      (s.gated = false → ∀ q ∈ (s.criSlot i).portList, s.on F.NT_STATUS_link q = true →
        .frame q s.tbNs (s.criFrame i (s.criSlot i) q ((s.macFor q (s.criSlot i).v6 (s.criSlot i).addr).getD [])) ∈ t.out)
    let routed := ∀ q ∈ (s.criSlot i).portList, (s.macFor q (s.criSlot i).v6 (s.criSlot i).addr).isSome = true
    let h := s.rd F.CRI_RX_HEAD_index
    let full := (h + 1) % 128 = s.rd F.CRI_RX_TAIL_index
    let captured := fun (k : Nat) (payload : List Byte) (t : State) =>
      (full → t.rd F.CRI_COUNTS_rx_drop = min (s.rd F.CRI_COUNTS_rx_drop + 1) 0xFFFF ∧ t.raw 0x064 3 = true ∧ t.rd F.CRI_RX_HEAD_index = h ∧ t.mem = s.mem) ∧
      (¬full → t.rd F.CRI_RX_HEAD_index = (h + 1) % 128 ∧ t.raw 0x064 2 = true ∧
        (t.queue (s.rd F.CRI_CFG_rx_queue)).getLast? = some (BitVec.ofNat 64 (0x064 * 2 ^ 48 + 2 ^ 11 + k * 2 ^ 8 + h)) ∧
        ∀ x, x < min payload.length 1488 → t.byte (s.rd F.CRI_RX_BASE_base + 1536 * h + 0x30 + x) = payload.getD x 0)
    ((s.slotCode j = 1 ∨ (s.criSlot j).refused = true) → Completes (.criPost v) s fun t =>
      t.raw 0x064 5 = true ∧ t.net = s.net ∧ t.mem = s.mem ∧ t.slotCode j = s.slotCode j) ∧
    (s.slotCode j ≠ 1 → (s.criSlot j).refused = false →
      ((s.criSlot j).mode = 1 ∧ s.tbNs ≤ (s.criSlot j).when ∨ (s.criSlot j).mode = 2 ∧ s.swapDue (s.criSlot j) = none) →
      Completes (.criPost v) s fun t => t.slotCode j = 1 ∧ t.net.posted = s.net.posted ++ [j] ∧ result t j = 0 ∧
        BytesBut (s.slotAt j + 1) 1 s t) ∧
    (s.slotCode j = 1 → Completes (.criCancel v) s fun t => ended j 4 t ∧ BytesBut (s.slotAt j + 1) 1 s t) ∧
    (s.slotCode j ≠ 1 → Completes (.criCancel v) s fun t => t = s) ∧
    ((i ∉ s.net.posted ∨ routed) → Completes (.arpRetry i) s fun t => t = s) ∧
    (i ∈ s.net.posted → (s.criSlot i).portList = [0] → ¬routed → s.on F.NT_STATUS_link 0 = true → Completes (.arpRetry i) s fun t =>
      t.out.length = s.out.length + 1 ∧ t.net = s.net ∧ t.mem = s.mem) ∧
    (i < 256 → i ∈ s.net.posted → (s.criSlot i).mode = 1 → (s.criSlot i).when ≤ s.tbNs →
      (routed → Completes (.crierPtpRelease i) s (leaves (if (s.criSlot i).when + 10000 < s.tbNs then 2 else 1))) ∧
      (¬routed → Completes (.crierPtpRelease i) s (ended i 5))) ∧
    ((i ∉ s.net.posted ∨ (s.criSlot i).mode ≠ 1 ∨ s.tbNs < (s.criSlot i).when) → Completes (.crierPtpRelease i) s fun t => t = s) ∧
    (∀ e, i < 256 → i ∈ s.net.posted → (s.criSlot i).mode = 2 → s.swapDue (s.criSlot i) = some e →
      (e ≤ s.now → routed → Completes (.crierSwapRelease i) s (leaves (if e = s.now then 1 else 2))) ∧
      (s.now < e → Completes (.crierSwapRelease i) s fun t => t = s)) ∧
    (s.on F.CRI_RX_FILT_cue 0 (v.toNat / 2 ^ 11 % 8) = false → Completes (.criInject v) s
      (captured (v.toNat / 2 ^ 11 % 8) (s.bytes (s.rd F.CRI_INJ_BASE_base) (min (v.toNat % 2 ^ 11) 1536)))) ∧
    (s.rd F.UAR_CFG_mode ≠ 2 → Completes (.uartFrame data) s fun t => t = s) ∧
    (s.rd F.UAR_CFG_mode = 2 →
      ((data.length < 2 ∨ 1473 < data.length ∨ 7 < (data.headD 0).toNat) → Completes (.uartFrame data) s fun t =>
        t.rd F.UAR_COUNTS_dropped = min (s.rd F.UAR_COUNTS_dropped + 1) 0xFFFF ∧ RegsBut [F.UAR_COUNTS_dropped.key 0 0] s t ∧ t.mem = s.mem) ∧
      (2 ≤ data.length → data.length ≤ 1473 → (data.headD 0).toNat ≤ 7 → s.on F.CRI_RX_FILT_cue 0 (data.headD 0).toNat = false →
        Completes (.uartFrame data) s fun t => t.rd F.UAR_COUNTS_accepted = min (s.rd F.UAR_COUNTS_accepted + 1) 0xFFFF ∧
          captured (data.headD 0).toNat (data.drop 1) t))

/-- R269, R271, R272, R275, R284, R286, R290, R295: the line of a received frame is read by the port's kind. A complete frame
of a follower counts toward its lock while its period fits, and waits in the FIFO; of a locked follower it enters the FIFO,
or the port slips when there is no room; a SAP follower sends its next output frame with it, each masked slot with its
sample in the port's form on the line. After 16 good frames the port locks with its FIFO centred; an asrc port locks once
its ratio has settled. A port that loses its frames is lost: its FIFOs empty and the loss is counted and reported. In the
silent block of a restart a SAP follower sends what its output FIFO held. -/
def Obligations.LocalPortFrames : Prop :=
  ∀ (s : State) (k : Nat) (f : PortFrameIn) (ratio : Nat), k < 22 →
    let c := s.portNow k
    let p := s.port k
    let g := lineFrame k c f.line
    let locked := fun t : State => t.on (portStatus k 1 1)
    let on := c.inOn = true ∨ c.outOn = true
    let takes := s.running = true ∧ on ∧ p.silentTo = none
    let framed := g.framed = true ∧ c.perFrame = 1
    (¬on → Completes (.portFrameReceive k f) s fun t => t = s) ∧
    (s.running = false → (isSap k = false ∨ c.leader = true ∨ c.outOn = false ∨ s.rd F.SYS_MODE_STATE_phase ≠ 3) →
      Completes (.portFrameReceive k f) s fun t => t = s) ∧
    (s.running = true → on → p.silentTo ≠ none →
      (p.drain = [] → Completes (.portFrameReceive k f) s fun t => t = s) ∧
      (∀ d rest, p.drain = d :: rest → s.drivesPorts = true → Completes (.portFrameReceive k f) s fun t =>
        (t.port k).drain = rest ∧ t.out = s.out ++ [.portFrame k true false false d.1 d.2] ∧ t.regs = s.regs)) ∧
    (takes → framed → c.leader = false → c.relation ≠ 2 →
      (locked s = false → Completes (.portFrameReceive k f) s fun t =>
        (t.port k).inFifo = lastN 16 (p.inFifo ++ sampleFrames g 1) ∧ locked t = false ∧
        (s.periodFits k c f.period = true → 0 < p.good → near f.period p.period = true → (t.port k).good = min 16 (p.good + 1)) ∧
        (s.periodFits k c f.period = false → (t.port k).good = 0)) ∧
      (locked s = true → c.inOn = true → c.outOn = false → Completes (.portFrameReceive k f) s fun t =>
        (p.inFifo.length < 2 * c.target + 2 → (t.port k).inFifo = p.inFifo ++ sampleFrames g 1) ∧
        (2 * c.target + 2 ≤ p.inFifo.length → (t.port k).inFifo = p.inFifo ∧ (t.port k).slips = (s.now / c.step + 1) :: p.slips ∧
          t.rd (portCounts k 0) = min (s.rd (portCounts k 0) + 1) 0xFFFF ∧ t.raw (portPage k) (portIrq k 2) = true)) ∧
      (∀ w rest, isSap k = true → locked s = true → c.outOn = true → p.outFifo = w :: rest → p.outSlip = none → s.drivesPorts = true →
        (∀ x ∈ w.vals, x.2.2 = 0) → Completes (.portFrameReceive k f) s fun t => (t.port k).outFifo = rest ∧
          ∃ words, .portFrame k true false false words (sapLine c p.sentWords words) ∈ t.out ∧ words.length = c.slots ∧
            ∀ i j, i < c.slots → (maskSlots w.mask)[j]? = some i →
              words[i]? = some (some (unsigned c.word (toPort c.word (w.vals.getD j (0, 1, 0)).1))))) ∧
    (takes → g.framed = false → isSap k = true → c.leader = false → locked s = true → Completes (.portFrameReceive k f) s fun t =>
      locked t = false ∧ (t.port k).inFifo = [] ∧ (t.port k).outFifo = []) ∧
    ((c.leader = true ∨ locked s = false) → Completes (.portLost k) s fun t => t = s) ∧
    (c.leader = false → locked s = true → Completes (.portLost k) s fun t =>
      locked t = false ∧ t.on (portStatus k 2 1) = true ∧ (t.port k).inFifo = [] ∧ (t.port k).outFifo = [] ∧ (t.port k).good = 0 ∧
      t.rd (portCounts k 16) = min (s.rd (portCounts k 16) + 1) 0xFFFF ∧ t.raw (portPage k) (portIrq k 1) = true ∧ t.mem = s.mem ∧
      ∀ j, j ≠ k → t.port j = s.port j) ∧
    (s.portRuns k = true → c.leader = false → p.good = 16 → locked s = false → (c.relation = 2 → p.asrcLocked = true) →
      Completes (.portLock k) s fun t => locked t = true ∧ t.on (portStatus k 2 1) = false ∧ t.raw (portPage k) (portIrq k 0) = true ∧
        (t.port k).inFifo = lastN c.target p.inFifo ∧ ∀ j, j ≠ k → t.port j = s.port j) ∧
    ((s.portRuns k = false ∨ c.leader = true ∨ p.good ≠ 16 ∨ locked s = true ∨ c.relation = 2 ∧ p.asrcLocked = false) →
      Completes (.portLock k) s fun t => t = s) ∧
    (s.portRuns k = true → c.relation = 2 → p.good = 16 → p.asrcLocked = false → Completes (.asrcLock k ratio) s fun t =>
      locked t = true ∧ (t.port k).asrcLocked = true ∧ (t.port k).ratio = ratio ∧ t.raw 0x095 0 = true ∧
      t.raw (portPage k) (portIrq k 0) = true) ∧
    ((s.portRuns k = false ∨ c.relation ≠ 2 ∨ p.good ≠ 16 ∨ p.asrcLocked = true) → Completes (.asrcLock k ratio) s fun t => t = s)

/-- R280, R281, R295: the pending set of a port page comes into force at its boundary, DONE or LATE, and `applied` sets;
slots that join ramp in from that boundary, and a change of any other setting restarts the port, silent for one block. A set
that fails its check is refused with its code and leaves the settings in force as they were. Nothing happens before the
boundary. -/
def Obligations.PortSettings : Prop :=
  ∀ (s : State) (page : Nat),
    (s.pendOf page = none → Completes (.maskChange page) s fun t => t = s) ∧
    (∀ p, s.pendOf page = some p →
      ((page < 0x080 ∨ 0x094 < page ∨ s.pendDue p = false) → Completes (.maskChange page) s fun t => t = s) ∧
      (0x080 ≤ page → page ≤ 0x094 → s.pendDue p = true →
        let code := s.portCheck page (s.pendingPorts p)
        (code ≠ 0x02 → Completes (.maskChange page) s fun t =>
          t.live = s.live ∧ t.pendOf page = none ∧ t.rd F.APPLY_RESULT_code page = code ∧ t.on F.STATUS_apply_pending page = false ∧
          t.raw page (if page = 0x094 then 17 else 4) = true ∧ t.ports = s.ports) ∧
        (code = 0x02 → Completes (.maskChange page) s fun t =>
          t.pendOf page = none ∧ t.rd F.APPLY_RESULT_code page = (if p.late then 0x03 else 0x02) ∧
          t.raw page (if page = 0x094 then 16 else 3) = true ∧
          ((p.copy.map Prod.fst).Nodup → ∀ e ∈ p.copy, t.liveReg (page * 0x1000 + e.1) = e.2) ∧
          ∀ k, k < 22 → portPage k = page →
            let old := s.portNow k
            let new := t.portNow k
            (new = old → t.port k = s.port k) ∧
            (restarts old new = true → (t.port k).silentTo = some (p.due + s.blockLen) ∧ (t.port k).inFifo = [] ∧ (t.port k).good = 0) ∧
            (restarts old new = false → new ≠ old → ∀ j, j < (maskSlots new.inMask).length →
              (maskSlots old.inMask)[j]? ≠ (maskSlots new.inMask)[j]? → (j, p.due) ∈ (t.port k).joins))))

/-- R304, R305, R306, R307, R309, R311, R313, R315, R316, R317: a candidate's deviation is its frequency against the
reference value; beyond suspect_ppb it is suspect, beyond hard_ppb it is disqualified, beyond 200 ppm it is not present.
Each second counts the wait-to-restore and Holdover times down and up and keeps the history of f. A candidate within its
limits qualifies, and after the first time waits before it is eligible. A slew ends, the bandwidth steps and locks, lock is
lost, Holdover expires, the averages are saved. When an Announce times out its sender's records go: the port hears the best
of the masters left, or none, and takes its role's state. -/
def Obligations.SteepleReference : Prop :=
  ∀ (s : State) (k port : Nat) (f r : Int),
    let c := s.cand k
    let d := f - r
    let suspect := (s.lv F.STP_LIMITS_suspect_ppb : Int) * 10 < d.natAbs
    let hard := (s.lv F.STP_LIMITS_hard_ppb : Int) * 10 < d.natAbs
    let within := fun (j : Nat) => (s.refErr j).natAbs ≤ s.window j
    let role := s.lv F.STP_PTP_role
    let left := (s.ptp port).foreigns.filter fun (x : Foreign) => x.sender != (s.ptp port).sender
    let usable := fun (x : Foreign) => 2 ≤ x.heard.length ∧ x.steps < 255
    (Completes (.candidateDeviation []) s fun t =>
      (∀ i, t.cand i = { s.cand i with wtr := (s.cand i).wtr.map fun (w : Nat) => w - 1 }) ∧
      ((s.stpState = 1 ∨ s.stpState = 2) → t.stp.tracked = s.stp.tracked + 1 ∧
        t.stp.fHist = (s.freq :: s.stp.fHist).take (s.lv F.SLP_HOLD_avg_s + 2)) ∧
      ((s.stpState = 3 ∨ s.stpState = 4) → t.rd F.SLP_HOLD_TIME_seconds = min (s.rd F.SLP_HOLD_TIME_seconds + 1) 0xFFFFFFFF ∧
        t.stp.fHist = s.stp.fHist)) ∧
    (k < 8 → c.present = true →
      ((f < -2000000 ∨ 2000000 < f) → Completes (.candidateDeviation [(k, f)]) s fun t =>
        (t.cand k).present = false ∧ (t.cand k).qualified = false ∧ (t.cand k).wtr = none) ∧
      (-2000000 ≤ f → f ≤ 2000000 → s.devReference k = some r → Completes (.candidateDeviation [(k, f)]) s fun t =>
        (t.cand k).freq = f ∧ (t.cand k).devs = (d :: c.devs).take 20 ∧ (t.cand k).present = true ∧
        (suspect → c.suspect = false → t.raw 0x070 2 = true) ∧
        (hard → c.qualified = true → (t.cand k).qualified = false ∧ (t.cand k).wtr = none ∧ t.raw 0x070 3 = true ∧
          t.rd F.STP_COUNTS_disqualified = min (s.rd F.STP_COUNTS_disqualified + 1) 0xFFFF) ∧
        (¬hard → c.devs.length < 19 → (t.cand k).qualified = c.qualified ∧ (suspect → (t.cand k).suspect = true)))) ∧
    (-2000000 ≤ f → f ≤ 2000000 → Completes (.candidateDeviation [(5, f)]) s fun t => (t.cand 5).present = true ∧ (t.cand 5).freq = f) ∧
    (k < 8 → c.present = true → c.qualified = false → Completes (.candidateQualify k) s fun t =>
      t.cand k = (if c.everQualified then { c with qualified := true, wtr := some (s.lv F.STP_CFG_wtr_s) }
        else { c with qualified := true, everQualified := true, eligible := true }) ∧ ∀ j, j ≠ k → t.cand j = s.cand j) ∧
    ((8 ≤ k ∨ c.present = false ∨ c.qualified = true) → Completes (.candidateQualify k) s fun t => t = s) ∧
    (c.qualified = true → c.wtr.isSome = true → Completes (.waitToRestoreExpiry k) s fun t =>
      t.cand k = { c with wtr := none, eligible := true } ∧ t.raw 0x070 4 = true ∧ ∀ j, j ≠ k → t.cand j = s.cand j) ∧
    ((c.qualified = false ∨ c.wtr = none) → Completes (.waitToRestoreExpiry k) s fun t => t = s) ∧
    (k < 8 → c.present = true → Completes (.candidatePresenceLoss k) s fun t =>
      (t.cand k).present = false ∧ (t.cand k).qualified = false ∧ (t.cand k).eligible = false ∧ ∀ j, j ≠ k → t.cand j = s.cand j) ∧
    ((8 ≤ k ∨ c.present = false) → Completes (.candidatePresenceLoss k) s fun t => t = s) ∧
    (s.slewKey = none → Completes .slewEnd s fun t => t = s) ∧
    (∀ j, s.slewKey = some j →
      (s.on F.STP_STATE_switching = true → within j → Completes .slewEnd s fun t =>
        t.freq = signed 32 (unsigned 32 (if s.stp.slewAudio then s.freq else s.freq - s.stp.slew)) ∧ t.stp.slew = 0 ∧
        t.stp.slewAudio = false ∧ t.on F.STP_STATE_switching = false ∧
        t.rd F.STP_COUNTS_switches = min (s.rd F.STP_COUNTS_switches + 1) 0xFFFF ∧ t.raw 0x070 1 = true) ∧
      ((s.on F.STP_STATE_switching = false ∨ ¬within j) → Completes .slewEnd s fun t => t = s)) ∧
    (∀ j, s.refKey = some j →
      (s.stpState = 1 → s.on F.STP_STATE_switching = false → within j → Completes .bandwidthStep s fun t =>
        (s.rd F.STP_STATE_bw < s.lv F.SLP_BW_bw_track → t.rd F.STP_STATE_bw = s.rd F.STP_STATE_bw + 1 ∧ t.raw 0x071 0 = true) ∧
        (s.lv F.SLP_BW_bw_track ≤ s.rd F.STP_STATE_bw + 1 → t.stpState = 2 ∧ t.raw 0x070 0 = true) ∧
        (s.rd F.STP_STATE_bw + 1 < s.lv F.SLP_BW_bw_track → t.stpState = 1)) ∧
      (s.stpState = 2 → s.on F.STP_STATE_switching = false → 8 * s.window j < (s.refErr j).natAbs → Completes .lockLoss s fun t =>
        t.stpState = 1 ∧ t.rd F.STP_STATE_bw = s.lv F.SLP_BW_bw_acq ∧ t.raw 0x070 0 = true) ∧
      ((s.stpState ≠ 2 ∨ (s.refErr j).natAbs ≤ 8 * s.window j) → Completes .lockLoss s fun t => t = s)) ∧
    (s.stpState = 3 → s.lv F.SLP_HOLD_max_h ≠ 0 → s.lv F.SLP_HOLD_max_h * 3600 ≤ s.rd F.SLP_HOLD_TIME_seconds → Completes .holdoverExpiry s fun t =>
      t.stpState = 4 ∧ t.raw 0x070 0 = true ∧ t.freq = s.freq) ∧
    ((s.stpState ≠ 3 ∨ s.lv F.SLP_HOLD_max_h = 0) → Completes .holdoverExpiry s fun t => t = s) ∧
    ((s.stpState = 2 ∨ s.stpState = 3) → Completes .averageSave s fun t => t.boot.settings =
      { s.boot.settings with avg48 := some (s.rd F.SLP_AVG48_code), avg44 := some (s.rd F.SLP_AVG44_code) }) ∧
    (s.stpState ≠ 2 → s.stpState ≠ 3 → Completes .averageSave s fun t => t = s) ∧
    ((2 ≤ port ∨ s.ptpState port < 4 ∨ role = 0) → Completes (.announceTimeout port) s fun t => t = s) ∧
    (port < 2 → 4 ≤ s.ptpState port → role ≠ 0 →
      ((∀ x ∈ left, ¬usable x) → Completes (.announceTimeout port) s fun t =>
        (t.ptp port).rank = none ∧ (t.ptp port).sync = none ∧ (t.ptp port).foreigns = left ∧
        (role = 1 → t.ptpState port = if s.ptpState port = 7 then 6 else s.ptpState port) ∧
        (role = 2 → s.ptpOn port = true → (s.ptpOn (1 - port) = false ∨ (s.ptp (1 - port)).rank = none) → t.ptpState port = 6) ∧
        (role = 3 → t.ptpState port = 4 ∧ (t.cand port).present = false)) ∧
      ((∃ x ∈ left, usable x) → Completes (.announceTimeout port) s fun t => ∃ x ∈ left, usable x ∧
        (t.ptp port).rank = some x.rank ∧ (t.ptp port).sender = x.sender ∧ (∀ y ∈ left, usable y → x.rank ≤ y.rank) ∧
        (role = 3 → t.ptpState port = 9 ∧ (t.cand port).present = true ∧ (t.cand port).gm = x.gm)))

/-- R300, R304, R322, R323, R324, R325, R328, R329, R330, R335, R336, R337: each TIME cycle the timebase advances by 2 ns ×
(1 + f), and an output's edges follow its known edge. An edge is stamped, counted and captured, marks its candidate, or is
dropped and counted when the FIFO is full; a glitch is ignored. Reads of the FIFO, of the LTC time and of the time latch
what belongs to them. A request of the debug port while it is shut is never formed (log entry 65). An LTC decoder locks on
the second frame. A DAC code moves toward its goal by at most its step; a range change switches the gain, and doubles the
code, once it is at most 0x7FFF; an overload is shown. -/
def Obligations.SteepleSignals : Prop :=
  ∀ (s : State) (v : Word) (source held n : Nat) (falling : Bool) (ini : Initiator) (fr : LtcIn),
    let tb := ((s.stp.tb : Int) + 2 * 10 ^ 10 + 2 * s.freq).toNat
    let sel := s.rd F.EDG_SRC_edge 0 source
    let wanted := s.on F.EDG_SRC_fifo 0 source = true ∧
      (if source = 33 then falling = false ∧ sel ≠ 0 else sel = 3 ∨ (sel = 1 ∧ falling = false) ∨ (sel = 2 ∧ falling = true))
    let every := if source = 33 then 10000000 else s.rd F.EDG_SRC_prescale 0 source + 1
    let seen := (assoc? s.stp.edges source).getD 0 + 1
    let locked := s.on F.LTC_IN_STATUS_locked = true
    let out := s.rd F.DAC_STATUS_out 0 n
    let goal := s.dacGoal n
    let step := s.lv F.DAC_CTRL_step 0 n + 1
    let next := if out < goal then min goal (out + step) else max goal (out - step)
    let low := min out next
    let gain := (s.dac n).clipping = true ∧ low ≤ 0x7FFF ∧ s.outputsSafe = false
    let volts := fun (code g : Nat) => if s.lon F.DAC_CFG_vref_ext then none else some (code * g * 1200000000 / 65536)
    let stamp := s.tbNs / 2 * 2
    (Completes .timebaseAdvance s fun t => t.stp.tb = tb ∧ t.stp.cycles = s.stp.cycles + 1 ∧
      (∀ o, s.lon F.TBS_OUT_CFG_pps_en = true → bitAt s.stp.aligning 2 = false → s.outEdge 2 = some o → o ≤ s.stp.tb →
        (s.stp.tb - o) / second < (tb - o) / second → .clockOut 2 ((o + (tb - o) / second * second) / 10 ^ 10) (max 1 (s.lv F.TBS_OUT_CFG_pps_width) * 1000000) ∈ t.out) ∧
      (s.outOn 2 = false → s.outOn 3 = false → s.outOn 4 = false → t.out = s.out ∧ t.regs = s.regs)) ∧
    (Completes (.tbsOutAlign v) s fun t => t.stp.aligning = s.stp.aligning ||| bitsOf v.toNat 0 5 ∧ t.stp.tb = s.stp.tb ∧ t.regs = s.regs) ∧
    (38 ≤ source → Completes (.edgeCapture source falling held) s fun t => t = s) ∧
    (source < 32 → held < 20 * s.rd F.EDG_SRC_glitch 0 source → Completes (.edgeCapture source falling held) s fun t =>
      t.stp = s.stp ∧ t.scn = s.scn ∧ t.rd (F.GIO_IN_bits.part source 1) = b2n (!falling)) ∧
    (source < 38 → (source < 32 → 20 * s.rd F.EDG_SRC_glitch 0 source ≤ held) → Completes (.edgeCapture source falling held) s fun t =>
      (∀ k, s.markedCand source falling = some k → (t.cand k).edge = some (2 * s.stp.cycles) ∧
        (t.cand k).err = anchorErr (s.candRate k) ((stamp : Int) + signed 32 (s.lv F.STP_OFS_ofs 0 k))) ∧
      (¬wanted → t.stp.fifo = s.stp.fifo ∧ t.stp.edges = s.stp.edges) ∧
      (wanted → seen < every → t.stp.fifo = s.stp.fifo ∧ assoc? t.stp.edges source = some seen) ∧
      (wanted → every ≤ seen → assoc? t.stp.edges source = some 0 ∧
        (s.stp.fifo.length < 256 → t.stp.fifo = s.stp.fifo ++ [⟨source, falling, stamp, s.now % 2 ^ 32⟩] ∧
          t.rd F.EDG_LEVEL_level = s.stp.fifo.length + 1 ∧ t.raw 0x073 0 = true) ∧
        (256 ≤ s.stp.fifo.length → t.stp.fifo = s.stp.fifo ∧ t.rd F.EDG_LEVEL_dropped = min (s.rd F.EDG_LEVEL_dropped + 1) 0xFFFF ∧
          t.raw 0x073 1 = true))) ∧
    (s.portShut ini = true → ∀ c ∈ [Instr.edgInfoRead ini, .ltcInTimeRead ini, .tbsNowNsRead ini], Completes c s fun t => t = s) ∧
    (s.portShut ini = false → s.stp.fifo = [] → Completes (.edgInfoRead ini) s fun t => t.resp = some ⟨ini, 0, false⟩ ∧ t.stp = s.stp ∧ t.regs = s.regs) ∧
    (∀ c l, s.portShut ini = false → s.stp.fifo = c :: l → Completes (.edgInfoRead ini) s fun t => t.resp = some ⟨ini, 1 + 2 * c.source + 128 * b2n c.falling, false⟩ ∧
      t.stp.fifo = l ∧ t.rd F.EDG_NS_value = nsOf c.ns % 2 ^ 30 ∧ t.rd F.EDG_SEC_LO_stamp = secOf c.ns % 2 ^ 32 ∧
      t.rd F.EDG_SEC_HI_value = secOf c.ns / 2 ^ 32 % 2 ^ 16 ∧ t.rd F.EDG_ESI_stamp = c.esi % 2 ^ 32 ∧
      t.rd F.EDG_LEVEL_level = l.length % 2 ^ 9) ∧
    (s.on F.LTC_IN_CFG_enable = false → Completes (.ltcFrame fr) s fun t => t = s) ∧
    (s.on F.LTC_IN_CFG_enable = true →
      (fr.ok = false → Completes (.ltcFrame fr) s fun t => t.stp.ltcSync = 0 ∧ t.stp.ltc = s.stp.ltc ∧
        t.rd F.LTC_IN_ERR_bad = min (s.rd F.LTC_IN_ERR_bad + 1) 0xFFFF) ∧
      (fr.ok = true → s.stp.ltcSync = 0 → ¬locked → Completes (.ltcFrame fr) s fun t => t.stp.ltcSync = 1 ∧ t.stp.ltc = s.stp.ltc ∧ t.regs = s.regs) ∧
      (fr.ok = true → (locked ∨ 1 ≤ s.stp.ltcSync) → Completes (.ltcFrame fr) s fun t =>
        t.stp.ltc = some ⟨fr.time % 2 ^ 30, fr.user % 2 ^ 32, s.tbNs - fr.ago, (s.now - fr.ago * s.fs / 1000000000) % 2 ^ 32⟩ ∧
        (t.reg 0x7404C).toNat = fr.time % 2 ^ 30 + 2 ^ 31 ∧ t.on F.LTC_IN_STATUS_locked = true ∧ t.raw 0x074 0 = true ∧
        t.rd F.LTC_IN_STATUS_rate = fr.rate % 8 ∧ (¬locked → t.raw 0x074 1 = true))) ∧
    (locked → Completes .ltcLost s fun t => t.on F.LTC_IN_STATUS_locked = false ∧ t.stp.ltcSync = 0 ∧ t.raw 0x074 2 = true) ∧
    (¬locked → Completes .ltcLost s fun t => t = s) ∧
    (s.portShut ini = false → Completes (.ltcInTimeRead ini) s fun t => t.resp = some ⟨ini, (s.reg 0x7404C).toNat, false⟩ ∧ (s.stp.ltc = none → t.regs = s.regs) ∧
      ∀ f, s.stp.ltc = some f → t.rd F.LTC_IN_USER_value = f.user % 2 ^ 32 ∧ t.rd F.LTC_IN_STAMP_NS_value = nsOf f.ns % 2 ^ 30 ∧
        t.rd F.LTC_IN_STAMP_SEC_value = secOf f.ns % 2 ^ 32 ∧ t.rd F.LTC_IN_ESI_value = f.esi % 2 ^ 32) ∧
    (s.portShut ini = false → Completes (.tbsNowNsRead ini) s fun t => t.resp = some ⟨ini, nsOf s.tbNs, false⟩ ∧
      assoc? t.host.latches (16 + ini.port) = some (BitVec.ofNat 64 (secOf s.tbNs)) ∧ t.regs = s.regs) ∧
    ((8 ≤ n ∨ s.on F.DAC_STATUS_on 0 n = false) → Completes (.dacSlewStep n) s (fun t => t = s) ∧ Completes (.dacOverload n) s fun t => t = s) ∧
    (n < 8 → s.on F.DAC_STATUS_on 0 n = true →
      (¬gain → Completes (.dacSlewStep n) s fun t => t.rd F.DAC_STATUS_out 0 n = next % 2 ^ 16 ∧
        (goal < 2 ^ 16 → bitAt (t.dacView n 0) 17 = decide (next ≠ goal)) ∧
        t.out = (if next = out then s.out
          else s.out ++ [.dac n next (if (s.dac n).range2 then 2 else 1) (volts next (if (s.dac n).range2 then 2 else 1))])) ∧
      (gain → Completes (.dacSlewStep n) s fun t => t.rd F.DAC_STATUS_out 0 n = 2 * low ∧ (t.dac n).range2 = false ∧
        (t.dac n).clipping = false ∧ t.on F.DAC_STATUS_range_clip 0 n = true ∧ t.raw 0x078 1 = true ∧
        .dac n (2 * low) 1 (volts (2 * low) 1) ∈ t.out) ∧
      Completes (.dacOverload n) s fun t => t.on F.DAC_STATUS_sc 0 n = true ∧ t.raw 0x078 0 = true ∧ t.rd F.DAC_STATUS_out 0 n = out)

/-- R340, R344, R346, R348, R349, R351, R357, R363: a frame that is not the next in order is dropped; the next one acts and
is acknowledged. A follower steps to the first time mark and follows the later ones. The Standby sums the Active's HOT
writes, stores its HOT, LONG and chunk content in COPYING and its bank writes always, and keeps its items until their
boundary. Digests or hashes that differ make it DIVERGED, HOT, LONG or SCAN; a late item LATE_ITEM. An Active reports its
Neighbour's condition, ends its drill, or finds itself one of two Actives. -/
def Obligations.NeighbourFrames : Prop :=
  ∀ (s : State) (seq esi ns rtt block addr page code : Nat) (recs : List WriteRec) (asrc : List (Nat × List Word)) (data : List Byte)
      (item : CtrlIn) (tr : TrailerIn) (hashes : List (Nat × Nat)),
    let up := s.on F.DRB_STATUS_up = true
    let inOrder := up ∧ seq = s.nbr.rxSeq
    let sent := fun (kind : Nat) (data : List Nat) (t : State) => ∃ b, .dreba kind (seq :: data) (drebaFrame kind seq b data) ∈ t.out
    let acked := fun (t : State) => t.nbr.rxSeq = (seq + 1) % 2 ^ 16 ∧ t.nbr.crcRun = 0 ∧ sent 9 [] t
    let follower := s.role ≠ 0 ∧ s.role ≠ 1 ∧ s.on F.NBR_STATE_lead = false
    let err : Int := (s.tbNs : Int) - ((ns : Int) + ((rtt / 2 : Nat) + signed 16 (s.rd F.DRB_CFG_asym_ns)))
    let held := s.checked = true ∧ (s.nbrCond = 3 ∨ s.nbrCond = 4)
    let diverged := fun (r : Nat) (t : State) => t.nbrCond = 5 ∧ t.rd F.NBR_STATE_reason = r ∧ t.raw 0x0A0 0 = true
    let copies := s.checked = true ∧ s.copying = true
    let received := (assoc? s.nbr.recv block).getD 0
    let scanned := s.nbr.scans.filter fun (e : Nat × Nat × Option Nat) => e.1 == block
    let differs := fun (e : Nat × Nat × Option Nat) => ∃ h own, assoc? hashes e.2.1 = some h ∧ e.2.2 = some own ∧ h ≠ own
    let lower := s.rd F.NBR_EPOCH_value < tr.epoch ∨ (s.rd F.NBR_EPOCH_value = tr.epoch ∧ s.unitId < s.nbr.peerUid.getD 0)
    (¬inOrder → ∀ c ∈ [Instr.timeFrame seq esi ns rtt, .hotFrame seq block recs asrc, .longFrame seq block recs, .bankFrame seq block addr data,
      .ctrlFrame seq block item, .chunkFrame seq addr data, .trailerFrame seq tr, .scanFrame seq block hashes], Completes c s fun t => t = s) ∧
    (inOrder →
      (Completes (.timeFrame seq esi ns rtt) s fun t => acked t ∧ t.rd F.DRB_STATUS_rtt_ns = rtt % 2 ^ 16 ∧
        (¬follower → t.stp = s.stp) ∧
        (follower → s.stp.marked = false → t.stp.marked = true ∧ t.stp.tb = ((s.stp.tb : Int) - err * 10 ^ 10).toNat ∧ t.raw 0x072 0 = true ∧
          t.rd F.TBS_STEPS_steps = min (s.rd F.TBS_STEPS_steps + 1) 0xFFFF ∧ t.rd F.STP_STATE_selected = 0xF ∧ t.stpState = 1) ∧
        (follower → s.stp.marked = true → t.stp.tb = s.stp.tb ∧ (t.cand 8).err = err)) ∧
      (Completes (.hotFrame seq block recs asrc) s fun t => acked t ∧
        (s.checked = false → t.mem = s.mem ∧ t.nbr.recv = s.nbr.recv ∧ t.nbr.asrc = s.nbr.asrc) ∧
        (s.checked = true → assoc? t.nbr.recv block = some ((received + s.recTerms recs) % 2 ^ 128)) ∧
        (s.checked = true → ∀ e ∈ asrc, (block * 16384 + e.1, e.2) ∈ t.nbr.asrc) ∧
        (s.checked = true → asrc = [] → t.mem = if s.copying then (s.storeRecs recs).mem else s.mem) ∧
        (held → asrc ≠ [] → block * s.blockLen ≤ s.now → diverged 4 t)) ∧
      (Completes (.longFrame seq block recs) s fun t => acked t ∧ t.regs = s.regs ∧
        (copies → block ≤ s.now → t.mem = (s.storeRecs recs).mem) ∧ (¬(copies ∧ block ≤ s.now) → t.mem = s.mem)) ∧
      (Completes (.bankFrame seq block addr data) s fun t =>
        ((s.checked = false ∨ bankOf addr = none) → acked t ∧ t.mem = s.mem ∧ t.nbr.bankWait = s.nbr.bankWait) ∧
        (s.checked = true → bankOf addr ≠ none → s.now + s.blockLen < block →
          acked t ∧ t.mem = s.mem ∧ t.nbr.bankWait = s.nbr.bankWait ++ [(block, addr, data)]) ∧
        (s.checked = true → bankOf addr ≠ none → block ≤ s.now → s.now < block + s.blockLen → acked t ∧ t.nbr.bankWait = s.nbr.bankWait) ∧
        (s.checked = true → bankOf addr ≠ none → s.now < block → block ≤ s.now + s.blockLen → acked t ∧ t.mem = (s.setBytes addr data).mem) ∧
        (held → bankOf addr ≠ none → block + s.blockLen ≤ s.now → diverged 4 t)) ∧
      (Completes (.chunkFrame seq addr data) s fun t => acked t ∧
        (copies → t.mem = (s.setBytes addr data).mem) ∧ (¬copies → t.mem = s.mem ∧ t.regs = s.regs)) ∧
      (∀ v, Completes (.ctrlFrame seq block (.uid v)) s fun t => acked t ∧ t.nbr.peerUid = some v) ∧
      (∀ lo hi, Completes (.ctrlFrame seq block (.range lo hi)) s fun t => acked t ∧ t.nbr.peerRange = some (lo, hi)) ∧
      (ctrlAtOnce item = false →
        (s.checked = false → Completes (.ctrlFrame seq block item) s fun t => acked t ∧ t.nbr.ctrlWait = s.nbr.ctrlWait ∧ t.regs = s.regs) ∧
        (s.checked = true → s.now < block → Completes (.ctrlFrame seq block item) s fun t =>
          acked t ∧ t.nbr.ctrlWait = s.nbr.ctrlWait ++ [⟨block, item⟩] ∧ t.regs = s.regs) ∧
        (held → block + s.blockLen ≤ s.now → Completes (.ctrlFrame seq block item) s fun t =>
          acked t ∧ t.nbr.ctrlWait = s.nbr.ctrlWait ++ [⟨nextBlock s.blockLen s.now, item⟩] ∧ diverged 4 t)) ∧
      (∀ regs, s.checked = true → block ≤ s.now → s.now < block + s.blockLen → 3 < code →
        Completes (.ctrlFrame seq block (.applied page code regs)) s fun t => acked t ∧ t.rd F.APPLY_RESULT_code page = code % 256) ∧
      (Completes (.trailerFrame seq tr) s fun t => acked t ∧ t.rd F.NBR_STATE_peer_role = tr.role % 4 ∧ t.nbr.peerEpoch = tr.epoch ∧
        t.nbr.drebaSeen = true ∧ t.nbr.peerFault = (s.nbr.peerFault || tr.fault) ∧
        (∀ oh ol, s.leads = false → held → tr.block < s.now / s.blockLen → tr.block = block →
          s.nbr.own.find? (fun (e : Nat × Nat × Nat) => e.1 == block) = some (block, oh, ol) →
          ((oh ≠ tr.hot ∨ received ≠ tr.hot) → diverged 1 t) ∧
          (oh = tr.hot → received = tr.hot → ol ≠ tr.long → diverged 2 t) ∧
          (oh = tr.hot → received = tr.hot → ol = tr.long → t.nbrCond = s.nbrCond ∧ t.nbr.clean = s.nbr.clean + 1)) ∧
        (s.leads = true → tr.role ≠ 1 → t.nbrCond = tr.cond % 8 ∧ t.role = s.role ∧ (tr.cond = 2 → s.nbrCond ≠ 2 → t.nbr.copyNext = 0)) ∧
        (s.leads = true → tr.role = 1 → s.nbr.drilling = true → t.role = 2 ∧ t.nbrCond = 3 ∧ t.nbr.drilling = false) ∧
        (s.leads = true → tr.role = 1 → s.nbr.drilling = false → t.raw 0x0A0 5 = true ∧
          t.nbr.declareAt = if lower then some (nextBlock s.blockLen s.now) else s.nbr.declareAt)) ∧
      (Completes (.scanFrame seq block hashes) s fun t => acked t ∧
        (held → (∃ e ∈ scanned, differs e) → diverged 3 t) ∧
        ((∀ e ∈ scanned, ¬differs e) → t.nbrCond = s.nbrCond ∧
          t.rd F.NBR_SCAN_skipped = min (s.rd F.NBR_SCAN_skipped +
            (scanned.filter fun e => (assoc? hashes e.2.1).isNone || e.2.2.isNone).length) 0xFFFF)))

/-- R348, R350, R351, R352, R354, R361, R362, R363: the link comes up, its sequence numbers restart, unit ID and
configuration digest are told, and a paired chip that was DETACHED is MATCHING; it goes down on a lost lane or on 16 CRC
failures in a row, and the condition is DETACHED. An ACK releases frames, a NAK resends from the failed one on. A missing
trailer makes the Standby DIVERGED with reason LINK; a finished copy CONFIRMING, `confirm` clean blocks READY, a boundary or
resync COPYING again. A drill and a declaration are scheduled or refused. -/
def Obligations.NeighbourLink : Prop :=
  ∀ (s : State) (seq block : Nat) (lane : Option Nat) (v : Word),
    let up := s.on F.DRB_STATUS_up = true
    let sent := fun (kind seq : Nat) (data : List Nat) (t : State) =>
      .dreba kind (seq :: data) (drebaFrame kind seq (s.now / s.blockLen) data) ∈ t.out
    let diverged := fun (r : Nat) (t : State) => t.nbrCond = 5 ∧ t.rd F.NBR_STATE_reason = r ∧ t.raw 0x0A0 0 = true ∧
      t.rd F.NBR_COUNTS_divergences = min (s.rd F.NBR_COUNTS_divergences + 1) 0xFFFF ∧ t.nbr.recopy = true
    let changed := fun (c : Nat) (t : State) => t.nbrCond = c ∧ t.raw 0x0A0 0 = true
    let down := fun (t : State) => t.on F.DRB_STATUS_up = false ∧ t.nbrCond = 0 ∧ t.nbr.replay = [] ∧ t.stp.marked = false ∧ t.raw 0x0A1 0 = true ∧
      t.rd F.DRB_ERRORS_downs = min (s.rd F.DRB_ERRORS_downs + 1) 0xFFFF
    let late := (block + 3) * s.blockLen ≤ s.now ∧ ∀ e ∈ s.nbr.trailers, e.1 ≠ block
    let exit := s.checked = true ∧ s.nbrCond = 2 ∧ s.now % s.blockLen = 0 ∧ s.rd F.NBR_COPY_TOTAL_chunks ≤ s.rd F.NBR_COPY_DONE_chunks ∧
      ∃ e ∈ s.nbr.trailers, e.1 + 1 = s.now / s.blockLen
    let may := s.role = 1 ∧ s.rd F.SYS_MODE_STATE_service = 1 ∧ s.nbrCond = 4 ∧ s.lv F.NBR_CFG_hb_blocks ≤ 2
    ((up ∨ s.on F.DRB_CFG_enable = false) → Completes .drebaLinkUp s fun t => t = s) ∧
    (¬up → s.on F.DRB_CFG_enable = true → Completes .drebaLinkUp s fun t => t.on F.DRB_STATUS_up = true ∧ t.rd F.DRB_STATUS_lock = 0xF ∧
      t.raw 0x0A1 0 = true ∧ t.nbr.rxSeq = 0 ∧ t.nbr.crcRun = 0 ∧ sent 5 0 [4, s.unitId] t ∧ sent 5 1 [5, s.cfgDigest] t ∧
      (s.lon F.NBR_CFG_pair_en = true → s.nbrCond = 0 → changed 1 t) ∧
      ((s.lon F.NBR_CFG_pair_en = false ∨ s.nbrCond ≠ 0) → t.nbrCond = s.nbrCond)) ∧
    (up → Completes (.drebaLinkDown lane) s fun t => down t ∧
      ∀ i, lane = some i → i < 4 → t.rd (F.DRB_STATUS_lock.part i 1) = 0 ∧ t.raw 0x0A1 1 = true) ∧
    (¬up → Completes (.drebaLinkDown lane) s fun t => t.on F.DRB_STATUS_up = false ∧ t.nbr = s.nbr ∧ RegsBut [F.DRB_STATUS_lock.key 0 0] s t) ∧
    (¬up → Completes .drebaCrcError s fun t => t = s) ∧
    (up → Completes .drebaCrcError s fun t => sent 0xA s.nbr.rxSeq [] t ∧ t.rd F.DRB_ERRORS_crc = min (s.rd F.DRB_ERRORS_crc + 1) 0xFFFF ∧
      (s.nbr.crcRun + 1 < 16 → t.nbr.crcRun = s.nbr.crcRun + 1 ∧ t.on F.DRB_STATUS_up = true ∧ t.nbrCond = s.nbrCond) ∧
      (16 ≤ s.nbr.crcRun + 1 → down t)) ∧
    (Completes (.ackFrame seq) s fun t => t.regs = s.regs ∧
      ∀ e, e ∈ t.nbr.replay ↔ e ∈ s.nbr.replay ∧ 2 ^ 15 ≤ (seq + 2 ^ 16 - e.1) % 2 ^ 16) ∧
    (Completes (.nakFrame seq) s fun t => t.nbr = s.nbr ∧ t.out = s.out ++
      (s.nbr.replay.filter fun e => decide ((e.1 + 2 ^ 16 - seq) % 2 ^ 16 < 2 ^ 15)).map fun e => .dreba e.2.1 (e.1 :: e.2.2.1) e.2.2.2) ∧
    (late → s.checked = true → (s.nbrCond = 3 ∨ s.nbrCond = 4) → Completes (.trailerTimeout block) s (diverged 5)) ∧
    ((¬late ∨ s.checked = false ∨ (s.nbrCond ≠ 3 ∧ s.nbrCond ≠ 4)) → Completes (.trailerTimeout block) s fun t => t = s) ∧
    (exit → Completes .copyExit s fun t => changed 3 t ∧ t.nbr.clean = 0) ∧
    (¬exit → Completes .copyExit s fun t => t = s) ∧
    (s.checked = true → s.nbrCond = 3 → s.lv F.NBR_CFG_confirm ≤ s.nbr.clean → Completes .confirmClean s fun t =>
      changed 4 t ∧ t.nbr.copiesFailed = 0) ∧
    ((s.nbrCond ≠ 3 ∨ s.nbr.clean < s.lv F.NBR_CFG_confirm) → Completes .confirmClean s fun t => t = s) ∧
    (s.checked = true → s.nbrCond = 5 → s.nbr.recopy = true → s.nbr.copiesFailed < 3 → Completes .recopy s fun t =>
      changed 2 t ∧ t.rd F.NBR_COPY_DONE_chunks = 0 ∧ t.nbr.recopy = false) ∧
    ((s.nbrCond ≠ 5 ∨ s.nbr.recopy = false ∨ 3 ≤ s.nbr.copiesFailed) → Completes .recopy s fun t => t = s) ∧
    (∀ c ∈ [Instr.resync v, .drill v, .declare v],
      (v.toNat % 8 = 0 → Completes c s fun t => t = s) ∧
      (v.toNat % 8 = 1 → s.checked = true → s.nbrCond = 5 → Completes c s fun t => changed 2 t ∧ t.rd F.NBR_COPY_DONE_chunks = 0) ∧
      (v.toNat % 8 = 1 → (s.checked = false ∨ s.nbrCond ≠ 5) → Completes c s fun t => t = s) ∧
      (v.toNat % 8 = 2 → may → Completes c s fun t => t.nbr.drillAt = some (nextBlock s.blockLen s.now) ∧ t.regs = s.regs) ∧
      (v.toNat % 8 = 2 → ¬may → Completes c s fun t => t.raw 0x0A0 7 = true ∧ t.nbr = s.nbr) ∧
      (v.toNat % 8 = 4 → s.role = 1 → s.nbr.declareAt = none → Completes c s fun t =>
        t.nbr.declareAt = some (nextBlock s.blockLen s.now) ∧ t.nbr.declared = true ∧ t.regs = s.regs) ∧
      (v.toNat % 8 = 4 → (s.role ≠ 1 ∨ s.nbr.declareAt ≠ none) → Completes c s fun t => t = s)) ∧
    (∀ b, s.nbr.drillAt = some b → b ≤ s.now → s.role = 1 → Completes .drillFail s fun t =>
      t.nbr.drilling = true ∧ t.nbr.drillAt = none ∧ t.regs = s.regs) ∧
    ((s.nbr.drillAt = none ∨ s.role ≠ 1) → Completes .drillFail s fun t => t = s)

/-- R352, R353, R355, R356, R358, R359, R360: a heartbeat counts; hb_blocks boundaries without one make a path silent, which
shows, and raises path_alarm, or peer_lost on an Active. A Standby that recognises failure promotes when READY, or with
rough_ok when CONFIRMING or DIVERGED: role Active, the next pair epoch, the gate open; else it sets peer_lost. A grant
through the Elder's channel is scheduled for its boundary or refused with its code, and there changes role, lead and pair
epoch. -/
def Obligations.NeighbourTakeover : Prop :=
  ∀ (s : State) (fault : Bool) (ch : Nat) (v : Word) (at' : Option Word),
    let n := s.nbr
    let hb := s.hbBlocks
    let d := if n.drebaSeen then 0 else n.drebaMiss + 1
    let h := if n.hbSeen then 0 else n.hbMiss + 1
    let falls := (d = hb ∧ n.drebaMiss < hb) ∨ (h = hb ∧ n.hbMiss < hb)
    let c := s.takeoverCond
    let promotes := c = 4 ∨ ((c = 3 ∨ c = 5) ∧ s.lon F.NBR_CFG_rough_ok = true)
    let code := v.toNat % 8
    let epoch := v.toNat / 256
    let bad := code = 0 ∨ 4 < code ∨ (code = 1 ∧ s.role ≠ 3)
    let old := code = 2 ∧ epoch ≤ s.rd F.NBR_EPOCH_value
    let dual := code = 2 ∧ s.rd F.NBR_STATE_peer_role = 1 ∧ epoch ≤ n.peerEpoch ∧ s.on F.DRB_STATUS_up = true
    let atWord := match at' with | some w => w.toNat | none => s.rd F.NBR_GRANT_AT_value
    (Completes (.heartbeatPulse fault) s fun t => t.nbr.hbSeen = true ∧ t.nbr.peerFault = (n.peerFault || fault) ∧
      t.nbr.drebaMiss = n.drebaMiss ∧ t.nbr.hbMiss = n.hbMiss ∧ t.regs = s.regs) ∧
    (s.role = 0 → Completes .pathSilent s fun t => t = s) ∧
    (s.role ≠ 0 → Completes .pathSilent s fun t => t.nbr.drebaMiss = d ∧ t.nbr.hbMiss = h ∧ t.nbr.drebaSeen = false ∧ t.nbr.hbSeen = false ∧
      t.on F.NBR_STATE_dreba_alive = decide (d < hb) ∧ t.on F.NBR_STATE_hb_alive = decide (h < hb) ∧ t.role = s.role ∧
      (falls → s.role = 1 → t.raw 0x0A0 2 = true) ∧
      (falls → s.role ≠ 1 → (d < hb ∨ h < hb) → t.raw 0x0A0 1 = true) ∧
      (¬falls → RegsBut [F.NBR_STATE_role.key 0 0] s t)) ∧
    (s.activeFailed = false → Completes .failureRecognised s fun t => t = s) ∧
    (s.activeFailed = true →
      (promotes → (∀ x ∈ s.net.held, x.port < 2) → (∀ x ∈ s.net.crier, ∀ f ∈ x.2.2, f.1 < 2) → Completes .failureRecognised s fun t => t.role = 1 ∧ t.rd F.NBR_EPOCH_value = (s.rd F.NBR_EPOCH_value + 1) % 2 ^ 32 ∧
        t.rd F.SYS_MODE_STATE_role = 1 ∧ t.raw 0x0A0 3 = true ∧ t.net.held = [] ∧ t.net.crier = [] ∧ t.nbr.peerFault = false) ∧
      (¬promotes → Completes .failureRecognised s fun t => t.raw 0x0A0 2 = true ∧ t.role = s.role ∧ t.net = s.net ∧ t.nbr = s.nbr)) ∧
    ((s.rd F.NBR_ELDER_CFG_channel ≠ ch ∨ s.lon F.NBR_CFG_pair_en = false) → Completes (.nbrGrantWrite ch v at') s fun t => t = s) ∧
    (s.rd F.NBR_ELDER_CFG_channel = ch → s.lon F.NBR_CFG_pair_en = true →
      (bad → Completes (.nbrGrantWrite ch v at') s fun t => t.rd F.NBR_GRANT_RESULT_code = 0x12 ∧ t.nbr = s.nbr) ∧
      (¬bad → old → Completes (.nbrGrantWrite ch v at') s fun t => t.rd F.NBR_GRANT_RESULT_code = 0x10 ∧ t.nbr = s.nbr) ∧
      (¬bad → ¬old → dual → Completes (.nbrGrantWrite ch v at') s fun t => t.rd F.NBR_GRANT_RESULT_code = 0x11 ∧ t.nbr = s.nbr) ∧
      (¬bad → ¬old → ¬dual → Completes (.nbrGrantWrite ch v at') s fun t =>
        t.nbr.grant = some ⟨code, epoch, (s.pickBoundary atWord).1⟩ ∧ ((s.pickBoundary atWord).2 = true → t.raw 0x030 1 = true ∧ t.rd F.APPLY_RESULT_code 0x0A0 = 3) ∧
        t.rd F.NBR_GRANT_AT_value = atWord ∧ t.role = s.role)) ∧
    (n.grant = none → Completes .grantTakeEffect s fun t => t = s) ∧
    (∀ g, n.grant = some g →
      (s.running = true → s.now < g.due → Completes .grantTakeEffect s fun t => t = s) ∧
      ((s.running = false ∨ g.due ≤ s.now) → Completes .grantTakeEffect s fun t =>
        t.nbr.grant = none ∧ t.rd F.NBR_GRANT_RESULT_code = 2 ∧ t.raw 0x0A0 6 = true ∧
        (g.code = 1 → t.role = s.role ∧ t.on F.NBR_STATE_lead = true) ∧
        (g.code = 2 → t.role = 1 ∧ t.on F.NBR_STATE_lead = true ∧ t.rd F.NBR_EPOCH_value = g.epoch % 2 ^ 32 ∧ t.net.held = []) ∧
        (g.code = 3 → t.role = 2 ∧ t.on F.NBR_STATE_lead = false) ∧
        (g.code = 4 → t.role = 3 ∧ t.on F.NBR_STATE_lead = false) ∧
        (g.code ≠ 2 → t.rd F.NBR_EPOCH_value = s.rd F.NBR_EPOCH_value)))

/-- R420, R421, R423, R424, R425, R426, R427, R428, R429, R455, R458: a request goes ahead unless its source has earlier
ones or a limit is reached, and then it is held; a quarantined port issues none. The Cellar is read and written within its
size; an address no target decodes, an illegal size and a hairpin are answered by the default target with an error and
counted; a silent target leaves the request outstanding until it times out, and a late response is discarded and counted. A
BAR maps to its fabric address, of the bank that is Live or Next as the access completes where it is an alias window, or is
answered with an error. The debug port issues nothing while it is shut. A master reset drops its held requests and
quarantines its port until nothing is outstanding. -/
def Obligations.FabricRequests : Prop :=
  ∀ (s : State) (ini : Initiator) (chan a n : Nat) (path : FabricPath) (write flr : Bool) (data : List Byte) (ans : TargetAnswer),
    let quarantined := bitAt (s.rd F.FAB_QUAR_ports) ini.port = true
    let len := if write then data.length else n
    let r : FabReq := ⟨ini, chan, write, a, len, data, ans⟩
    let clear := (∀ x ∈ s.fab.outstanding ++ s.fab.held, sameSource r x = false) ∧ s.portOut ini.port < 32 ∧ s.fab.outstanding.length < 256 ∧
      s.waitsBehind ini chan = false
    let shut := s.portShut ini = true
    let noneOut := (∀ x ∈ s.fab.outstanding, x.ini ≠ ini) ∧ ∀ w ∈ s.memx.holdWait, w.ini = ini → 100 ≤ w.chan
    let request := Instr.fabricRequest ini chan (.fabric a) write n data ans
    let answered := fun (v : Nat) (e : Bool) (t : State) => t.resp = some ⟨ini, v, e⟩ ∧ t.fab = s.fab
    let refused := fun (t : State) => answered 0 true t ∧ t.rd F.DEF_COUNTS_undecoded = min (s.rd F.DEF_COUNTS_undecoded + 1) 0xFFFF ∧
      (ini ≠ .reeve → t.mem = s.mem)
    let quarBit := F.FAB_QUAR_ports.part ini.port 1
    let plainReset := Instr.masterReset ini flr
    (shut → (∀ x, Completes (.fabricRequest ini chan x write n data ans) s fun t => t = s) ∧ Completes (.fabSyncRead ini) s fun t => t = s) ∧
    (¬shut → aliasBase ≤ a → Completes request s refused) ∧
    (¬shut → a < aliasBase → quarantined → Completes request s fun t => t.fab = s.fab ∧ t.mem = s.mem ∧ t.resp = s.resp ∧
      t.rd F.FAB_HOLD_holds = min (s.rd F.FAB_HOLD_holds + 1) 0xFFFFFFFF ∧ RegsBut [F.FAB_HOLD_holds.key 0 0] s t) ∧
    (¬shut → a < aliasBase → ¬quarantined → ¬clear → Completes request s fun t =>
      t.fab.held = s.fab.held ++ [r] ∧ t.fab.outstanding = s.fab.outstanding ∧ t.mem = s.mem ∧ t.resp = s.resp ∧ RegsBut [F.FAB_HOLD_holds.key 0 0] s t) ∧
    (¬shut → a < aliasBase → ¬quarantined → clear →
      (ans = .silent → Completes request s fun t => t.fab.outstanding = s.fab.outstanding ++ [r] ∧ t.fab.held = s.fab.held ∧ t.mem = s.mem ∧
        t.resp = s.resp) ∧
      (ans ≠ .silent →
        (fabTarget a = 6 → Completes request s refused) ∧
        (fabTarget a = 3 → ini = .host → Completes request s refused) ∧
        (fabTarget a ≤ 2 → fastSize a len = false → Completes request s refused) ∧
        (fabTarget a = 1 → fastSize a len = true → s.cellarHas a len = true →
          (write = true → Completes request s fun t => answered 0 false t ∧ t.mem = (s.setBytes a data).mem) ∧
          (write = false → Completes request s fun t => answered (s.load a len) false t ∧ t.mem = s.mem)) ∧
        (fabTarget a = 1 → fastSize a len = true → s.cellarHas a len = false → Completes request s fun t => answered 0 true t ∧ t.mem = s.mem) ∧
        (∀ d, fabTarget a = 3 → ini ≠ .host → fastSize a len = true → ans = .done d → s.on F.PCI_LINK_bme = true →
          (write = true → Completes request s fun t => answered 0 false t ∧ t.out = s.out ++ [.pcieWrite (s.outAddr a) data] ∧ t.mem = s.mem) ∧
          (write = false → Completes request s fun t => answered (ofLe (d.take len) % 2 ^ (8 * len)) false t ∧ t.mem = s.mem)))) ∧
    ((∀ o, path = .bar0 o → o < 0xFFE000) → (∀ x, path ≠ .fabric x) →
      (s.on F.PCI_LINK_up = true → s.on F.PCI_LINK_d3hot = false → s.barAddr path = some a →
        (a < aliasBase →
          exec (.fabricRequest .host chan path write n data ans) s = exec (.fabricRequest .host chan (.fabric a) write n data ans) s) ∧
        (aliasBase ≤ a → ini = .host → clear → ¬quarantined → ans ≠ .silent → (write = true → (s.granaryWrite .host a data chan).1 ≠ .waits) →
          exec (.fabricRequest .host chan path write n data ans) s =
            exec (.fabricRequest .host chan (.fabric (s.resolveAlias a)) write n data ans) s)) ∧
      (¬shut → (ini ≠ .host ∨ s.on F.PCI_LINK_up = false ∨ s.on F.PCI_LINK_d3hot = true ∨ s.barAddr path = none) →
        Completes (.fabricRequest ini chan path write n data ans) s fun t => answered 0 true t ∧ t.mem = s.mem)) ∧
    ((∀ x ∈ s.fab.outstanding, x.ini ≠ ini ∨ x.chan ≠ chan) → Completes (.targetTimeout ini chan) s fun t => t = s) ∧
    (∀ x l, s.fab.outstanding = x :: l → x.ini = ini → x.chan = chan → s.fab.held = [] → ¬quarantined → Completes (.targetTimeout ini chan) s fun t =>
      t.fab.outstanding = l ∧ t.fab.timedOut = s.fab.timedOut ++ [x] ∧ t.resp = some ⟨ini, 0, true⟩ ∧
      t.rd F.DEF_COUNTS_timeouts = min (s.rd F.DEF_COUNTS_timeouts + 1) 0xFFFF ∧ (ini ≠ .reeve → t.mem = s.mem)) ∧
    ((∀ x ∈ s.fab.timedOut, x.ini ≠ ini) → Completes (.lateResponse ini) s fun t => t = s) ∧
    (∀ x l, s.fab.timedOut = x :: l → x.ini = ini →
      (x.write = false → fabTarget x.addr ≠ 3 → Completes (.lateResponse ini) s fun t => t.fab.timedOut = l ∧ t.resp = s.resp ∧ t.mem = s.mem ∧
        t.rd F.DEF_LATE_late = min (s.rd F.DEF_LATE_late + 1) 0xFFFF) ∧
      (x.write = true → fabTarget x.addr = 1 → fastSize x.addr x.data.length = true → s.cellarHas x.addr x.data.length = true →
        Completes (.lateResponse ini) s fun t => t.fab.timedOut = l ∧ t.resp = s.resp ∧ t.mem = (s.setBytes x.addr x.data).mem ∧
          t.rd F.DEF_LATE_late = min (s.rd F.DEF_LATE_late + 1) 0xFFFF)) ∧
    (Completes (.masterReset .reeve flr) s fun t => t = s) ∧
    (ini ≠ .reeve → ini ≠ .dma →
      (quarantined → (ini = .host → flr = false) → Completes plainReset s fun t => t = s) ∧
      (¬quarantined → Completes plainReset s fun t =>
        t.fab.held = s.fab.held.filter (fun x => !(x.ini == ini)) ∧ t.fab.outstanding = s.fab.outstanding ∧ t.raw 0x008 0 = true ∧
        (¬noneOut → t.on quarBit = true) ∧ (noneOut → t.on quarBit = false ∧ t.raw 0x008 1 = true))) ∧
    (Completes (.masterReset .host true) s fun t => t.on F.PCI_LINK_bme = false ∧ t.on F.PCI_LINK_msix_en = false ∧
      t.on F.PCI_LINK_fmask = false ∧ t.on F.PCI_LINK_d3hot = false ∧ t.host.msix = [] ∧ t.host.pba = [] ∧ t.raw 0x0C0 1 = true) ∧
    (Completes (.masterReset .dma flr) s fun t => t.dma = [] ∧ t.que.waiters = [] ∧ ∀ c, c < 64 → t.dmState c = 0 ∧ t.rd F.DMC_STATE_halt 0 c = 2) ∧
    (quarantined → s.fab.held = [] → Completes (.quarantineEnd ini) s fun t =>
      ((∀ w ∈ s.memx.holdWait, w.ini = ini → 100 ≤ w.chan) → t.on quarBit = false ∧ t.raw 0x008 1 = true) ∧
      t.fab.outstanding = s.fab.outstanding.filter fun x => x.ini != ini) ∧
    (¬quarantined → Completes (.quarantineEnd ini) s fun t => t = s) ∧
    (¬shut → ¬quarantined → chan = 0 → clear → s.pageOn 0x008 = true → Completes (.fabSyncRead ini) s fun t =>
      answered (s.plainValue ini 0x008 0x040) false t ∧ t.mem = s.mem) ∧
    (¬shut → ¬quarantined → chan = 0 → ¬clear → Completes (.fabSyncRead ini) s fun t =>
      t.resp = s.resp ∧ t.fab.held = s.fab.held ++ [⟨ini, 0, false, 0x10008040, 4, [], .done []⟩])

/-- R430, R431, R432, R433, R434, R435, R436, R437, R438, R440, R445, R452: go starts an idle or halted channel at its head,
or sets go_refused; abort lets a fetch or copy finish, halts a poll at once, and drops the event of a channel that waits. A
fetched descriptor runs, is polled for where it came through the ring, or halts the channel: LOOP, BUDGET, FETCH_ERR. A copy
that ends writes its status and residue back, posts its event, and goes on or idles; room in a ring lets the channel that
waits post and go on. The page's soft reset idles all channels. -/
def Obligations.DmaRuns : Prop :=
  ∀ (s : State) (chan page : Nat) (v : Word) (ans : TargetAnswer) (answers : List TargetAnswer) (ahead begun ring : Nat),
    let x := s.dmaChan chan
    let q := 192 + s.rd F.DMC_CTRL_ring 0 chan
    let qv := 192 + v.toNat / 2 ^ 12 % 2 ^ 6
    let halted := fun (h : Nat) (t : State) => t.dmState chan = 5 ∧ t.rd F.DMC_STATE_halt 0 chan = h ∧ t.raw 0x010 2 = true ∧ t.raw 0x010 0 = true
    let posted := fun (k status h : Nat) (t : State) => t.queue k = s.queue k ++ [dmaEntry chan status h x.cur]
    let quarantined := bitAt (s.rd F.FAB_QUAR_ports) 1 = true
    let d := s.load x.cur 32
    let cell := fun (a n : Nat) => fabTarget a = 1 ∧ fastSize a n = true ∧ s.cellarHas a n = true
    let fetches := fun (c : Instr) =>
      (cell x.cur 32 →
        (d / 2 ^ 248 ≠ 0 → x.byRing = true → Completes c s fun t => t.dmState chan = 3 ∧ t.dma = s.dma ∧ t.queue q = s.queue q) ∧
        (d / 2 ^ 248 ≠ 0 → x.byRing = false → s.queueRoom q = true → Completes c s fun t => halted 3 t ∧ posted q 0 3 t) ∧
        (d / 2 ^ 248 = 0 → x.count = s.budget chan → s.queueRoom q = true → Completes c s fun t => halted 4 t ∧ posted q 0 4 t) ∧
        (d / 2 ^ 248 = 0 → x.count ≠ s.budget chan → Completes c s fun t => t.dmState chan = 2 ∧ t.mem = s.mem ∧
          (t.dmaChan chan).src = d % 2 ^ 40 ∧ (t.dmaChan chan).dst = d / 2 ^ 64 % 2 ^ 40 ∧ (t.dmaChan chan).next = d / 2 ^ 128 % 2 ^ 40 ∧
          (t.dmaChan chan).len = d / 2 ^ 192 % 2 ^ 24 ∧ (t.dmaChan chan).event = bitAt d 216 ∧ (t.dmaChan chan).ring = bitAt d 217 ∧
          (t.dmaChan chan).last = bitAt d 218 ∧ (t.dmaChan chan).count = x.count + 1)) ∧
      (fabTarget x.cur = 6 → s.queueRoom q = true → Completes c s fun t => halted 5 t ∧ posted q 0 5 t)
    (64 ≤ chan → ∀ c ∈ [Instr.dmaGo chan v, .dmaAbort chan v, .descriptorFetch chan ans, .dmaPoll chan ans,
      .descriptorComplete chan answers ahead begun], Completes c s fun t => t = s) ∧
    (chan < 64 → ∀ c ∈ [Instr.dmaGo chan v, .dmaAbort chan v],
      (bitAt v.toNat 8 = true → bitAt v.toNat 9 = false →
        ((s.dmState chan = 0 ∨ s.dmState chan = 5) → qv ≤ 247 → Completes c s fun t => t.dmState chan = 1 ∧ t.rd F.DMC_STATE_halt 0 chan = 0 ∧
          t.dmaChan chan = { DmaChan.fresh with cur := s.rd F.DMC_HEAD_LO_head 0 chan + v.toNat % 256 * 2 ^ 32 } ∧
          t.rd F.DMC_CTRL_ring 0 chan = v.toNat / 2 ^ 12 % 2 ^ 6) ∧
        ((s.dmState chan ≠ 0 ∧ s.dmState chan ≠ 5 ∨ 247 < qv) → Completes c s fun t => t.raw 0x010 4 = true ∧ t.dma = s.dma ∧
          t.dmState chan = s.dmState chan)) ∧
      (bitAt v.toNat 8 = false → bitAt v.toNat 9 = true →
        ((s.dmState chan = 1 ∨ s.dmState chan = 2) → Completes c s fun t => t.dmaChan chan = { x with aborting := true } ∧
          t.dmState chan = s.dmState chan) ∧
        (s.dmState chan = 3 → s.queueRoom qv = true → Completes c s fun t => halted 2 t ∧ posted qv 0 2 t ∧ t.raw 0x010 3 = true) ∧
        (s.dmState chan = 4 → Completes c s fun t => t.dmState chan = 5 ∧ t.rd F.DMC_STATE_halt 0 chan = 2 ∧ (t.dmaChan chan).waiting = none ∧
          t.que.waiters = s.que.waiters.filter (fun y => y != chan) ∧ t.rd F.DMA_COUNTS_dropped = min (s.rd F.DMA_COUNTS_dropped + 1) 0xFFFF) ∧
        ((s.dmState chan = 0 ∨ s.dmState chan = 5) → Completes c s fun t => t.dma = s.dma ∧ t.dmState chan = s.dmState chan)) ∧
      (bitAt v.toNat 8 = false → bitAt v.toNat 9 = false → Completes c s fun t => t.dma = s.dma ∧ RegsBut [F.DMC_CTRL_ring.key 0 chan] s t)) ∧
    (chan < 64 →
      ((s.dmState chan ≠ 1 ∨ quarantined) → Completes (.descriptorFetch chan ans) s fun t => t = s) ∧
      ((s.dmState chan ≠ 3 ∨ quarantined) → Completes (.dmaPoll chan ans) s fun t => t = s) ∧
      (s.dmState chan = 1 → ¬quarantined → x.aborting = true → s.queueRoom q = true → Completes (.descriptorFetch chan ans) s fun t =>
        halted 2 t ∧ posted q 0 2 t) ∧
      (s.dmState chan = 1 → ¬quarantined → x.aborting = false → x.cur % 32 ≠ 0 → s.queueRoom q = true →
        Completes (.descriptorFetch chan ans) s fun t => halted 5 t ∧ posted q 0 5 t) ∧
      (s.dmState chan = 1 → ¬quarantined → x.aborting = false → x.cur % 32 = 0 → ans ≠ .silent → fetches (.descriptorFetch chan ans)) ∧
      (s.dmState chan = 3 → ¬quarantined → ans ≠ .silent → fetches (.dmaPoll chan ans)) ∧
      (s.dmState chan ≠ 2 → Completes (.descriptorComplete chan answers ahead begun) s fun t => t = s) ∧
      (s.dmState chan = 2 → x.copied = true → s.waitsBehind .dma chan = true → Completes (.descriptorComplete chan answers ahead begun) s
        fun t => t.dmState chan = 2 ∧ t.dma = s.dma ∧ t.mem = s.mem) ∧
      (s.dmState chan = 2 → x.copied = false → s.waitsBehind .dma chan = false → x.aborting = false → 0 < x.len → cell (x.cur + 28) 4 →
        (cell x.src x.len → cell x.dst x.len → (x.event = true → s.queueRoom q = true) → Completes (.descriptorComplete chan answers ahead begun) s fun t =>
          t.mem = ((s.setBytes x.dst (s.bytes x.src x.len)).store (x.cur + 28) 4 (2 ^ 24)).mem ∧
          (x.event = true → posted q 1 (if x.last then 1 else 0) t) ∧ (x.event = false → t.queue q = s.queue q) ∧
          (x.last = true → t.dmState chan = 0 ∧ t.rd F.DMC_STATE_halt 0 chan = 1) ∧
          (x.last = false → t.dmState chan = 1 ∧ (t.dmaChan chan).cur = x.next ∧ (t.dmaChan chan).byRing = x.ring)) ∧
        (fabTarget x.src = 6 → x.src % 256 + x.len ≤ 256 → x.dst % 256 + x.len ≤ 256 → s.queueRoom q = true →
          Completes (.descriptorComplete chan answers ahead begun) s fun t =>
            t.mem = (s.store (x.cur + 28) 4 (x.len + 0x81 * 2 ^ 24)).mem ∧ posted q 0x81 (if x.last then 1 else 0) t ∧
            t.rd F.DMA_COUNTS_bad = min (s.rd F.DMA_COUNTS_bad + 1) 0xFFFF ∧ t.raw 0x010 1 = true))) ∧
    ((56 ≤ ring ∨ s.queueRoom (192 + ring) = false ∨ ∀ c ∈ s.que.waiters, s.dmRing c ≠ 192 + ring) →
      Completes (.eventRingRoom ring) s fun t => t = s) ∧
    (∀ l e, ring < 56 → s.queueRoom (192 + ring) = true → s.que.waiters = chan :: l → chan < 64 → s.dmRing chan = 192 + ring → x.waiting = some e →
      Completes (.eventRingRoom ring) s fun t => t.queue (192 + ring) = s.queue (192 + ring) ++ [e] ∧ t.que.waiters = l.filter (fun y => y != chan) ∧
        (t.dmaChan chan).waiting = none ∧ t.raw 0x010 0 = true ∧
        t.dmState chan = (if e.toNat / 2 ^ 40 % 16 = 0 then 1 else if e.toNat / 2 ^ 40 % 16 = 1 then 0 else 5)) ∧
    (Completes (.softReset 0x010) s fun t => t.dma = [] ∧ t.que.waiters = [] ∧ t.on F.LOCK_locked 0x010 = false ∧
      ∀ c, c < 64 → t.dmState c = 0 ∧ t.rd F.DMC_STATE_halt 0 c = 2) ∧
    (page ≠ 0x010 → Completes (.softReset page) s fun t => t = s)

/-- R441, R442, R443, R444, R446, R448, R449, R450: an entry is pushed whole or by its high half; a notice queue that is
full loses its oldest entry, a command queue refuses a command that does not fit, a full event ring refuses the entry, and
an initiator that may not push is counted. A pop answers the oldest entry, or NV from an empty queue. A complete envelope
leaves its queue and runs; an unknown subsystem or command, or a wrong count of arguments, is answered with its status. A
request of the debug port while it is shut is never formed (log entry 65). -/
def Obligations.QueuesAndCommands : Prop :=
  ∀ (s : State) (ini : Initiator) (q part : Nat) (v e h : DWord) (flashOk blowOk : Bool) (key : List Byte),
    let l := s.queue q
    let whole := (part = 0 ∧ e = v) ∨
      (part = 2 ∧ ∃ lo, assoc? s.que.low (halfKey q ini) = some lo ∧ e = BitVec.ofNat 64 (lo.toNat + v.toNat % 2 ^ 32 * 2 ^ 32))
    let push := Instr.queuePush ini q part v
    let counted := fun (k : Nat) (t : State) => t.rd F.ERR_INFO_kind (quePage q) = k ∧
      t.rd F.ERR_COUNT_value (quePage q) = min (s.rd F.ERR_COUNT_value (quePage q) + 1) 0xFFFFFFFF
    let refused := fun (b : Nat) (t : State) => t.raw (quePage q) b = true ∧
      t.rd F.QUE_STAT_count (q / 64) (q % 64) = min (s.rd F.QUE_STAT_count (q / 64) (q % 64) + 1) 0xFFFF
    let c := cmdHead h.toNat
    let w := fun (i : Nat) => (((l.drop 1).getD i 0).setWidth 32 : Word)
    ((256 ≤ q ∨ 3 ≤ part ∨ s.portShut ini = true) → Completes push s (fun t => t = s) ∧ Completes (.queuePop ini q part) s fun t => t = s) ∧
    (q < 256 → part < 3 → s.portShut ini = false →
      (part = 1 → Completes push s fun t => t.que.entries = s.que.entries ∧ t.regs = s.regs ∧
        assoc? t.que.low (halfKey q ini) = some (v.setWidth 32)) ∧
      (part = 2 → assoc? s.que.low (halfKey q ini) = none → Completes push s fun t => t.que = s.que ∧ counted 9 t) ∧
      (whole → mayPush q ini = false → Completes push s fun t => t.queue q = l ∧ counted 8 t) ∧
      (whole → mayPush q ini = true → Completes push s fun t =>
        (q < 128 → l.length < 64 → t.queue q = l ++ [e]) ∧
        (q < 128 → 64 ≤ l.length → t.queue q = l.drop 1 ++ [e] ∧ refused 1 t) ∧
        (128 ≤ q → q < 192 → (∀ x ∈ s.que.envelopes, x.queue ≠ q) → l.length + e.toNat / 2 ^ 16 % 16 + 1 ≤ 32 → t.queue q = l ++ [e]) ∧
        (128 ≤ q → q < 192 → (∀ x ∈ s.que.envelopes, x.queue ≠ q) → 32 < l.length + e.toNat / 2 ^ 16 % 16 + 1 → t.queue q = l ∧ refused 2 t) ∧
        (192 ≤ q → l.length < 128 → t.queue q = l ++ [e]) ∧
        (192 ≤ q → 128 ≤ l.length → t.queue q = l ∧ refused 3 t) ∧
        ∀ r, r ≠ q → t.queue r = s.queue r) ∧
      (part < 2 → mayPop q ini = false → Completes (.queuePop ini q part) s fun t => t.queue q = l ∧ counted 8 t ∧
        t.resp = some ⟨ini, if part = 0 then nvEntry.toNat else nvEntry.toNat % 2 ^ 32, false⟩) ∧
      (part < 2 → mayPop q ini = true → Completes (.queuePop ini q part) s fun t => t.queue q = l.drop 1 ∧
        (part = 0 → t.resp = some ⟨ini, (l.headD nvEntry).toNat, false⟩) ∧
        (part = 1 → t.resp = some ⟨ini, (l.headD nvEntry).toNat % 2 ^ 32, false⟩ ∧
          assoc? t.que.high (halfKey q ini) = some (BitVec.ofNat 32 ((l.headD nvEntry).toNat / 2 ^ 32)))) ∧
      (part = 2 → Completes (.queuePop ini q part) s fun t => t.que = s.que ∧ t.regs = s.regs ∧
        t.resp = some ⟨ini, ((assoc? s.que.high (halfKey q ini)).getD 0).toNat, false⟩)) ∧
    (ReplyRoom h 1 s → Completes (.queueNop h) s fun t => Replies h 0 [0] s t ∧ t.mem = s.mem) ∧
    (bitAt h.toNat 27 = true → Completes (.queueNop h) s fun t => t = s) ∧
    ((q < 128 ∨ 192 ≤ q ∨ s.takesCommands = false ∨ l = []) → Completes (.commandTake q flashOk blowOk key) s fun t => t = s) ∧
    (128 ≤ q → q < 192 → s.takesCommands = true → l.head? = some h →
      (l.length < c.n + 1 → Completes (.commandTake q flashOk blowOk key) s fun t => t = s) ∧
      (c.n + 1 ≤ l.length → commandStatus c ≠ 0 → ReplyRoom h 1 s → Completes (.commandTake q flashOk blowOk key) s fun t =>
        t.queue q = l.drop (c.n + 1) ∧ Replies h (commandStatus c) [0] s t ∧ t.mem = s.mem) ∧
      (c.n + 1 ≤ l.length → commandStatus c = 0 → Completes (.commandTake q flashOk blowOk key) s fun t =>
        t = (s.putQueue q (l.drop (c.n + 1))).runCommand h w ⟨flashOk, blowOk, key⟩))

/-- R6, R460, R461, R463, R464, R465: a plain write stores the RW and staged bits of a register, clears the W1C bits written
1 and leaves the rest; a set or clear alias does so for the bits written 1 alone; reserved bits written 1 are counted as an
error. A read returns the plain value and returns RC fields to reset. A locked page ignores and counts a write; LOCK takes
the key only. IRQ_RAW clears and IRQ_TEST sets the bits written 1. A Standby drops the write on a pair-driven page. A
request of the debug port while it is shut is never formed (log entry 65). -/
def Obligations.RegisterAccess : Prop :=
  ∀ (s : State) (ini : Initiator) (page off : Nat) (v : Word) (r : RegRow),
    let k := page * 0x1000 + off
    let old := (s.reg k).toNat
    let m := r.rw ||| r.rws
    let ones := 2 ^ 32 - 1
    let path := bitAt (s.rd F.FAB_QUAR_ports) ini.port = false ∧ (∀ x ∈ s.fab.outstanding ++ s.fab.held, ¬(x.ini = ini ∧ x.chan = 0)) ∧
      s.portOut ini.port < 32 ∧ s.fab.outstanding.length < 256 ∧ s.portShut ini = false ∧ s.waitsBehind ini 0 = false
    let answers := pageExists page = true ∧ s.pageOn page = true ∧ page ≠ 0x008 ∧ page ≠ 0x009 ∧ page < 0x1000
    let own := 0x040 ≤ off ∧ off < 0x400 ∧ off % 4 = 0 ∧ pageRow page off = some r
    let acts := (s.actWrite ini page off v.toNat).isSome = true ∨ (s.genWrite page off v.toNat).isSome = true ∨
      page ∈ [0x004, 0x070, 0x095, 0x0B1, 0x0C2, 0x0CB]
    let open' := s.on F.LOCK_locked page = false ∧ (s.role = 2 → pairDriven page = false)
    let known := v.toNat &&& (ones ^^^ r.known) = 0
    let served := fun (t : State) => t.resp = some ⟨ini, 0, false⟩ ∧ t.fab = s.fab
    let counted := fun (kind : Nat) (t : State) => t.rd F.ERR_INFO_kind page = kind ∧ t.on F.ERR_INFO_valid page = true ∧
      t.rd F.ERR_INFO_master page = ini.port ∧ t.rd F.ERR_COUNT_value page = min (s.rd F.ERR_COUNT_value page + 1) 0xFFFFFFFF
    let fabOut := F.FAB_OUT_peak.key 0 ini.port
    let header := [0x020, 0x024, 0x028, 0x02C].map fun x => page * 0x1000 + x
    let stores := fun (new : Nat) (ks : List Nat) (t : State) => (t.reg k).toNat = new ∧ RegsBut (fabOut :: k :: ks) s t
    (s.portShut ini = true → ∀ c ∈ [Instr.registerWrite ini page off v, .setAliasWrite ini page off v, .clearAliasWrite ini page off v,
      .registerReadClear ini page off, .lockWrite ini page v, .irqRawClear ini page v, .irqTestWrite ini page v], Completes c s fun t => t = s) ∧
    (path → answers →
      (own → ¬acts → open' →
        (known → Completes (.registerWrite ini page off v) s fun t => served t ∧ t.mem = s.mem ∧
          stores (clampReg page off ((old &&& (ones ^^^ m)) ||| (v.toNat &&& m)) % 2 ^ 32 &&& (ones ^^^ (v.toNat &&& r.w1c) % 2 ^ 32)) [] t) ∧
        (¬known → Completes (.registerWrite ini page off v) s fun t => served t ∧ counted 0 t ∧
          stores (clampReg page off ((old &&& (ones ^^^ m)) ||| (v.toNat &&& m)) % 2 ^ 32 &&& (ones ^^^ (v.toNat &&& r.w1c) % 2 ^ 32)) header t) ∧
        (known → plainOnly page off = false → m ≠ 0 → m ≤ ones → m &&& r.w1c = 0 → s.view ini page off = old →
          (∀ x, (s.actWrite ini page off x).isSome = false ∧ (s.genWrite page off x).isSome = false) →
          Completes (.setAliasWrite ini page off v) s (fun t => served t ∧ t.mem = s.mem ∧
            stores (clampReg page off (old ||| (v.toNat &&& m)) % 2 ^ 32) [] t) ∧
          Completes (.clearAliasWrite ini page off v) s fun t => served t ∧ t.mem = s.mem ∧
            stores (clampReg page off (old &&& (ones ^^^ (v.toNat &&& m))) % 2 ^ 32) [] t)) ∧
      (own → plainOnly page off = false → s.on F.LOCK_locked page = true → ∀ c ∈ [Instr.registerWrite ini page off v,
        .setAliasWrite ini page off v, .clearAliasWrite ini page off v], Completes c s fun t =>
          served t ∧ counted 1 t ∧ t.mem = s.mem ∧ RegsBut (fabOut :: header) s t) ∧
      (own → plainOnly page off = false → s.on F.LOCK_locked page = false → s.role = 2 → pairDriven page = true → m ||| r.wo ≠ 0 →
        Completes (.registerWrite ini page off v) s fun t => served t ∧ t.mem = s.mem ∧ RegsBut [fabOut, F.NBR_COUNTS_driven_drop.key 0 0] s t ∧
          t.rd F.NBR_COUNTS_driven_drop = min (s.rd F.NBR_COUNTS_driven_drop + 1) 0xFFFF) ∧
      (own → plainOnly page off = false → page ∉ [0x002, 0x062, 0x063, 0x0B0] → Completes (.registerReadClear ini page off) s fun t =>
        t.resp = some ⟨ini, s.plainValue ini page off, false⟩ ∧ t.fab = s.fab ∧ t.mem = s.mem ∧
        t.reg k = (s.reg k &&& ~~~BitVec.ofNat 32 r.rc) ||| (regReset k &&& BitVec.ofNat 32 r.rc) ∧ RegsBut [fabOut, k] s t) ∧
      (pageRow page 0x03C = some r → known → (s.role = 2 → pairDriven page = false) →
        (v.toNat / 2 ^ 16 = 0x4C4B → Completes (.lockWrite ini page v) s fun t => served t ∧ t.on F.LOCK_locked page = decide (v.toNat % 2 = 1) ∧
          RegsBut [fabOut, F.LOCK_locked.key page 0] s t) ∧
        (v.toNat / 2 ^ 16 ≠ 0x4C4B → Completes (.lockWrite ini page v) s fun t => served t ∧ counted 1 t ∧ RegsBut (fabOut :: header) s t)) ∧
      (pageRow page 0x010 = some r → known → (s.role = 2 → pairDriven page = false) → Completes (.irqRawClear ini page v) s fun t =>
        served t ∧ t.reg (page * 0x1000 + 0x10) = s.reg (page * 0x1000 + 0x10) &&& ~~~BitVec.ofNat 32 (v.toNat &&& irqBits page) ∧
        RegsBut [fabOut, page * 0x1000 + 0x10, F.MSX_COUNTS_sent.key 0 0] s t) ∧
      (pageRow page 0x01C = some r → known → open' → Completes (.irqTestWrite ini page v) s fun t =>
        served t ∧ t.reg (page * 0x1000 + 0x10) = s.reg (page * 0x1000 + 0x10) ||| BitVec.ofNat 32 (v.toNat &&& irqBits page) ∧
        RegsBut [fabOut, page * 0x1000 + 0x10, F.MSX_COUNTS_sent.key 0 0] s t) ∧
      (pageRow page 0x01C = some r → s.on F.LOCK_locked page = true → Completes (.irqTestWrite ini page v) s fun t =>
        served t ∧ counted 1 t ∧ RegsBut (fabOut :: header) s t))

/-- R456, R457, R473, R474: a message that MSX_EOI asks for again goes out while its vector state is 1, or sets its PBA bit
while masked; a mask that clears lets a held message go. An I2C access performs 4-byte register reads or writes as the Reeve
and counts them, writes only where enabled; one that is not aligned counts an error. The link comes up with its speed and
width or goes down and clears; configuration writes need the link. -/
def Obligations.HostInterface : Prop :=
  ∀ (s u : State) (v : Word) (n addr x speed width : Nat) (data : List Byte) (bme msixEn fmask d3hot : Bool),
    let k := v.toNat % 256
    let masked := s.vectorMasked k = true ∨ s.on F.PCI_LINK_fmask = true
    let reads := s.on F.IIC_CFG_enable = true ∧ addr < 2 ^ 24 ∧ addr % 4 = 0
    let link := F.PCI_LINK_up.key 0 0
    let counts := F.IIC_COUNTS_accesses.key 0 0
    ((s.on F.PCI_LINK_msix_en = false ∨ s.vectorState k = false) → Completes (.msxEoi v) s fun t => t = s) ∧
    (s.on F.PCI_LINK_msix_en = true → s.vectorState k = true →
      (¬masked → Completes (.msxEoi v) s fun t => t.out = s.out ++ [.msi k] ∧ k ∉ t.host.pba ∧
        t.rd F.MSX_COUNTS_eoi = min (s.rd F.MSX_COUNTS_eoi + 1) 0xFFFF ∧ t.rd F.MSX_COUNTS_sent = min (s.rd F.MSX_COUNTS_sent + 1) 0xFFFF) ∧
      (masked → Completes (.msxEoi v) s fun t => t.out = s.out ∧ k ∈ t.host.pba ∧ t.regs = s.regs)) ∧
    (256 ≤ n → Completes (.msixUnmask (some n)) s fun t => t = s) ∧
    (n < 256 → Completes (.msixUnmask (some n)) s fun t => t.vectorMasked n = false ∧
      (∀ j, j ≠ n → t.vectorMasked j = s.vectorMasked j) ∧
      (s.on F.PCI_LINK_msix_en = true → s.on F.PCI_LINK_fmask = false → n ∈ s.host.pba → s.vectorState n = true → .msi n ∈ t.out)) ∧
    (Completes (.msixUnmask none) s fun t => t.on F.PCI_LINK_fmask = false ∧
      (s.on F.PCI_LINK_msix_en = true → n ∈ s.host.pba → s.vectorMasked n = false → s.vectorState n = true → .msi n ∈ t.out)) ∧
    ((s.on F.IIC_CFG_enable = false ∨ 2 ^ 24 ≤ addr) → ∀ write, Completes (.i2cAccess addr write data n) s fun t => t = s) ∧
    (s.on F.IIC_CFG_enable = true → addr < 2 ^ 24 → addr % 4 ≠ 0 → ∀ write, Completes (.i2cAccess addr write data n) s fun t =>
      t.rd F.IIC_COUNTS_errors = min (s.rd F.IIC_COUNTS_errors + 1) 0xFFFF ∧ t.mem = s.mem ∧ t.out = s.out ∧
      RegsBut [F.IIC_COUNTS_errors.key 0 0] s t) ∧
    (reads →
      (s.fabRead .reeve (0x10000000 + addr) 4 (.done []) = (some x, u) → Completes (.i2cAccess addr false data 1) s fun t =>
        t.out = u.out ++ [.serial (leBytes 4 x)] ∧ RegsBut [counts] u t ∧
        t.rd F.IIC_COUNTS_accesses = min (u.rd F.IIC_COUNTS_accesses + 1) 0xFFFF ∧ t.rd F.IIC_COUNTS_errors = u.rd F.IIC_COUNTS_errors) ∧
      (s.fabRead .reeve (0x10000000 + addr) 4 (.done []) = (none, u) → Completes (.i2cAccess addr false data 1) s fun t =>
        t.out = u.out ++ [.serial (leBytes 4 0)] ∧ t.rd F.IIC_COUNTS_errors = min (u.rd F.IIC_COUNTS_errors + 1) 0xFFFF) ∧
      (addr ≠ 0xA0068 → s.on F.IIC_CFG_write_en = true → data.length = 4 →
        s.fabWrite .reeve (0x10000000 + addr) data (.done []) = (.done, u) → Completes (.i2cAccess addr true data 0) s fun t =>
          RegsBut [counts] u t ∧ t.mem = u.mem ∧ t.rd F.IIC_COUNTS_accesses = min (u.rd F.IIC_COUNTS_accesses + 1) 0xFFFF) ∧
      (addr ≠ 0xA0068 → addr ≠ 0xA006C → s.on F.IIC_CFG_write_en = false → data.length = 4 → Completes (.i2cAccess addr true data 0) s fun t =>
        RegsBut [counts] s t ∧ t.mem = s.mem ∧ t.rd F.IIC_COUNTS_accesses = min (s.rd F.IIC_COUNTS_accesses + 1) 0xFFFF)) ∧
    (s.domainOn 11 = false → ∀ up, Completes (.pcieLinkChange up speed width) s fun t => t = s) ∧
    (s.domainOn 11 = true →
      (Completes (.pcieLinkChange true speed width) s fun t => t.on F.PCI_LINK_up = true ∧ t.rd F.PCI_LINK_speed = speed % 8 ∧
        t.rd F.PCI_LINK_width = width % 8 ∧ t.raw 0x0C0 0 = true) ∧
      (s.on F.PCI_LINK_up = false → Completes (.pcieLinkChange false speed width) s fun t => t = s) ∧
      (s.on F.PCI_LINK_up = true → Completes (.pcieLinkChange false speed width) s fun t => t.reg link = 0 ∧ t.raw 0x0C0 0 = true)) ∧
    ((s.on F.PCI_LINK_up = false ∨ s.host.retry = true) → Completes (.pcieConfigWrite bme msixEn fmask d3hot) s fun t => t = s) ∧
    (s.on F.PCI_LINK_up = true → s.host.retry = false → Completes (.pcieConfigWrite bme msixEn fmask d3hot) s fun t =>
      t.on F.PCI_LINK_bme = bme ∧ t.on F.PCI_LINK_msix_en = msixEn ∧ t.on F.PCI_LINK_fmask = fmask ∧ t.on F.PCI_LINK_d3hot = d3hot ∧
      (msixEn = true → fmask = false → n ∈ s.host.pba → s.vectorMasked n = false → s.vectorState n = true → .msi n ∈ t.out))

/-- R494, R495, R500, R501, R502, R503, R504, R505, R507, R508, R509: the configuration and update commands. A container that
keeps every rule is held for its rate, a held one is stored, and the held one of the running rate starts the engine or a
restart. A download begins in the idle slot or resumes, its next block is programmed with its progress entry, and a slot
whose image passes every check is VERIFIED, else REJECTED. A VERIFIED slot is activated by handover where the images allow
it, else by restart where that is allowed. A refused command answers its code, and UPD_RESULT shows it. CFG_SAVE without a
held configuration answers 0x11 (the model's choice, log entry 44), a peer range not given excludes nothing (log entry 45),
digest words hold bytes in order (log entry 43). -/
def Obligations.UpdateCommands : Prop :=
  ∀ (s : State) (h : DWord) (x1 x2 x3 : Word) (ok : Bool), ReplyRoom h 1 s →
    let a := x2.toNat + x3.toNat * 2 ^ 32
    let i := s.idleSlot
    let x := s.bootSlot i
    let code := fun (k : Nat) (t : State) => Replies h 4 [k] s t ∧ t.mem = s.mem ∧ t.boot.held = s.boot.held ∧ t.boot.stored = s.boot.stored
    let refused := fun (k : Nat) (t : State) => code k t ∧ t.boot = s.boot ∧ t.rd F.UPD_RESULT_value = k
    let flash := fun (t : State) => t.boot = s.boot ∧ t.rd F.QSP_COUNTS_failures = min (s.rd F.QSP_COUNTS_failures + 1) 0xFFFF
    let accepted := fun (ws : List Nat) (t : State) => Replies h 0 ws s t ∧ t.rd F.UPD_RESULT_value = 0
    let wrong := fun (t : State) => Replies h 3 [0] s t ∧ t.mem = s.mem ∧ t.boot = s.boot
    let stopped := s.running = false ∧ s.rd F.SYS_MODE_STATE_phase = 5
    let show' := s.rd F.SYS_MODE_STATE_service = 0
    let size := s.load (a + 8) 4
    let c := if 40 * 2 ^ 20 < size ∨ a < 2 ^ 32 ∨ s.cellarEnd < a + max 64 size then [] else s.bytes a size
    let outside := a < 2 ^ 32 ∨ s.cellarEnd < a + 64
    -- configurations
    ((outside → ReplyRoom h 2 s → Completes (.cfgLoad h x2 x3) s fun t => Replies h 4 [0x30, 1] s t) ∧
     (s.cfgCheck c ≠ 0 → ReplyRoom h 2 s → Completes (.cfgLoad h x2 x3) s fun t =>
        Replies h 4 [0x30, s.cfgCheck c] s t ∧ t.mem = s.mem ∧ t.boot = s.boot ∧
        (s.cfgCheck c = 5 → t.rd F.MIL_LOAD_code = (milCheck ((cfgSection c 1).getD []) (cfgKey c)).1 % 256)) ∧
     (s.cfgCheck c = 0 → ReplyRoom h 8 s → Completes (.cfgLoad h x2 x3) s fun t =>
        Replies h 0 ((List.range 8).map fun j => ofLe (((beBytes 32 (sha256 c)).drop (4 * j)).take 4)) s t ∧ t.mem = s.mem ∧
        t.heldCfg (cfgKey c) = some c ∧ ∀ k, k ≠ cfgKey c → t.heldCfg k = s.heldCfg k)) ∧
    (let key := x1.toNat % 8
     (s.heldCfg key = none → Completes (.cfgSave h x1 ok) s (code 0x11)) ∧
     ∀ d p, s.heldCfg key = some d →
      (s.flashPart 4 = none → Completes (.cfgSave h x1 ok) s (code 0x14)) ∧
      (s.flashPart 4 = some p →
        let total := (assocPut s.boot.stored key d).foldl (fun (n : Nat) (e : Nat × List Byte) => n + e.2.length) 0
        (p.2 < total → Completes (.cfgSave h x1 ok) s (code 0x12)) ∧
        (total ≤ p.2 → Completes (.cfgSave h x1 false) s fun t => code 0x14 t ∧ flash t) ∧
        (total ≤ p.2 → Completes (.cfgSave h x1 true) s fun t => Replies h 0 [0] s t ∧ assoc? t.boot.stored key = some d ∧
          (∀ k, k ≠ key → assoc? t.boot.stored k = assoc? s.boot.stored k) ∧ t.mem = s.mem ∧ t.boot.held = s.boot.held))) ∧
    (ReplyRoom h 6 s → Completes (.cfgList h) s fun t => t.mem = s.mem ∧ t.boot = s.boot ∧
      Replies h 0 ((List.range 6).map fun k =>
        let d := match s.heldCfg k with | some e => some e | none => assoc? s.boot.stored k
        b2n (s.heldCfg k).isSome + 2 * b2n (assoc? s.boot.stored k).isSome +
          256 * match d with | some e => ofLe ((beBytes 32 (sha256 e)).take 4) % 2 ^ 24 | none => 0) s t) ∧
    (∀ force, let start := Instr.cfgStart h force x1
      (s.startCfg s.rateKey = none → Completes start s (code 0x11)) ∧
      ((s.startCfg s.rateKey).isSome = true →
        (stopped → x1 ≠ 0 → Completes start s (code 0x0E)) ∧
        (stopped → x1 = 0 → Completes start s fun t => t.rd F.SYS_MODE_STATE_phase = 3 ∧ t.rd F.SYS_MODE_STATE_kind = 4 ∧
          t.modes.restart = some ⟨4, s.now, some s.tbNs, (s.reg 0x64).toNat % 64, false, false, some h.toNat, none⟩) ∧
        (¬stopped → show' → force = false → Completes start s (code 0x12)) ∧
        (¬stopped → (¬show' ∨ force = true) →
          (s.restarting = true → Completes start s (code 0x14)) ∧
          (s.restarting = false → s.role = 2 → Completes start s (code 0x15)) ∧
          (s.restarting = false → s.role ≠ 2 → s.modes.start.isSome = true → Completes start s (code 0x0F)) ∧
          (s.restarting = false → s.role ≠ 2 → s.modes.start = none → Completes start s fun t =>
            t.modes.start = some ⟨(s.pickBoundary x1.toNat).1, (s.pickBoundary x1.toNat).2, force, h.toNat⟩ ∧ t.que = s.que ∧ t.regs = s.regs)))) ∧
    -- UPD_BEGIN
    ((s.flashPart (1 + i) = none → Completes (.updBegin h x1 ok) s (refused 0x14)) ∧
     ∀ p, s.flashPart (1 + i) = some p →
      (s.trialSlot.isSome = true → Completes (.updBegin h x1 ok) s (refused 0x10)) ∧
      (s.trialSlot = none →
        ((x.state = 4 ∨ (x.state = 1 ∧ x.size ≠ x1.toNat)) → Completes (.updBegin h x1 ok) s (refused 0x11)) ∧
        (x.state = 1 → x.size = x1.toNat → ReplyRoom h 2 s → Completes (.updBegin h x1 ok) s fun t =>
          accepted [i, s.nextBlockOf i] t ∧ t.mem = s.mem ∧ t.boot = s.boot) ∧
        (x.state ≠ 4 → x.state ≠ 1 →
          (p.2 < x1.toNat + 0x10000 → Completes (.updBegin h x1 ok) s (refused 0x12)) ∧
          (x1.toNat + 0x10000 ≤ p.2 → Completes (.updBegin h x1 false) s fun t => refused 0x14 t ∧ flash t) ∧
          (x1.toNat + 0x10000 ≤ p.2 → ReplyRoom h 2 s → Completes (.updBegin h x1 true) s fun t =>
            accepted [i, t.nextBlockOf i] t ∧ t.bootSlot i = ⟨1, 0, 0, x1.toNat, 0⟩ ∧ t.bootSlot (1 - i) = s.bootSlot (1 - i) ∧
            t.boot.seq = (s.boot.seq + 1) % 2 ^ 32 ∧ (∀ b, p.1 ≤ b → b < p.1 + 0x10000 → t.byte b = memDefault b))))) ∧
    -- UPD_WRITE
    ((s.loadingSlot = none → Completes (.updWrite h x1 x2 x3 ok) s (refused 0x11)) ∧
     ∀ j p, s.loadingSlot = some j → s.flashPart (1 + j) = some p →
      let next := s.nextBlockOf j
      let n := x1.toNat
      let blocks := ((s.bootSlot j).size + 0xFFFF) / 0x10000
      let write := fun k => Instr.updWrite h x1 x2 x3 k
      (n < next → Completes (write ok) s fun t => accepted [next] t ∧ t.mem = s.mem ∧ t.boot = s.boot) ∧
      (next < n ∨ (n = next ∧ blocks ≤ n) → Completes (write ok) s (refused 0x13)) ∧
      (n = next → n < blocks → (a < 2 ^ 32 ∨ s.cellarEnd < a + 0x10000) → Completes (write ok) s wrong) ∧
      (n = next → n < blocks → 2 ^ 32 ≤ a → a + 0x10000 ≤ s.cellarEnd →
        (Completes (write false) s fun t => refused 0x14 t ∧ flash t) ∧
        (s.Canonical → Completes (write true) s fun t => accepted [t.nextBlockOf j] t ∧ t.boot = s.boot ∧
          t.bytes (p.1 + 0x10000 * (n + 1)) 0x10000 = s.bytes a 0x10000 ∧
          t.bytes (p.1 + 8 * n) 8 = leBytes 4 n ++ leBytes 4 (crc32 (s.bytes a 0x10000))))) ∧
    -- UPD_VERIFY
    ((s.loadingSlot = none → Completes (.updVerify h ok) s (refused 0x11)) ∧
     ∀ j d, s.loadingSlot = some j → s.slotImage j = some d →
      let y := s.bootSlot j
      let k := s.imageCheck d y.size
      (Completes (.updVerify h false) s fun t => refused 0x14 t ∧ flash t) ∧
      (k ≠ 0 → Completes (.updVerify h true) s fun t => Replies h 4 [0x1F + k] s t ∧ t.rd F.UPD_RESULT_value = 0x1F + k ∧
        t.bootSlot j = { y with state := 5 }) ∧
      (k = 0 → Completes (.updVerify h true) s fun t => accepted [(imageOf d).version] t ∧ t.raw 0x0D0 0 = true ∧
        t.bootSlot j = { y with state := 2, secVer := (imageOf d).secVer, sha := sha384 d })) ∧
    -- UPD_ACTIVATE
    (∀ allow, let act := fun k => Instr.updActivate h allow x1 k
      let im := imageOf ((s.slotImage i).getD [])
      let apart := s.lon F.NBR_CFG_pair_en = true ∧ s.on F.DRB_STATUS_up = true ∧
        ∃ r, s.nbr.peerRange = some r ∧ (im.pairHi < r.1 ∨ r.2 < im.pairLo)
      let fits := ∃ r, s.boot.running = some r ∧ im.hoMin ≤ r.hoVer ∧ r.hoVer ≤ im.hoVer
      (s.trialSlot.isSome = true → Completes (act ok) s (refused 0x10)) ∧
      (s.trialSlot = none → x.state ≠ 2 → Completes (act ok) s (refused 0x11)) ∧
      (s.trialSlot = none → x.state = 2 → apart → Completes (act ok) s (refused 0x16)) ∧
      (s.trialSlot = none → x.state = 2 → ¬apart →
        (¬fits → (allow = false ∨ show') → Completes (act ok) s (refused 0x15)) ∧
        ((fits ∨ (allow = true ∧ ¬show')) → Completes (act false) s fun t => refused 0x14 t ∧ flash t) ∧
        (fits → Completes (act true) s fun t => accepted [0] t ∧ t.bootSlot i = { x with state := 3, trials := 1 } ∧
          t.boot.handover = some (if s.running = true then (s.pickBoundary x1.toNat).1 else s.now) ∧ t.boot.hostConfirmed = false) ∧
        (¬fits → allow = true → ¬show' → Completes (act true) s fun t => accepted [1] t ∧ t.bootSlot i = { x with state := 3, trials := 0 } ∧
          t.boot.handover = s.boot.handover ∧
          (s.running = true → t.modes.fsFade = s.modes.fsFade.turn 0 (nextBlock s.blockLen s.now) (s.fadeBlocks * s.blockLen))))) ∧
    -- UPD_CONFIRM, UPD_STATUS
    (s.trialSlot = none → Completes (.updConfirm h) s (refused 0x11)) ∧
    (s.trialSlot.isSome = true → Completes (.updConfirm h) s fun t => accepted [0] t ∧ t.boot = { s.boot with hostConfirmed := true } ∧ t.mem = s.mem) ∧
    (ReplyRoom h 4 s → Completes (.updStatus h) s fun t => accepted ([0x040, 0x044, 0x04C, 0x050].map fun o =>
      s.plainValue .reeve 0xD0 o) t ∧ t.mem = s.mem ∧ t.boot = s.boot)

/-- R488, R489, R496, R497, R498, R499, R508: the settings, life-cycle and unit-secret commands. A record list of SYS_MODE
and presets is taken into the settings and saved in both copies; defaults keep the device records. A right token moves the
life-cycle state and starts the wipe. A unit key is generated once, its record holds it, and its point is answered;
certificates and licences are written and read inside their areas. A length beyond the area, a wipe in progress, or a state
that does not permit the command refuses it. -/
def Obligations.UnitCommands : Prop :=
  ∀ (s : State) (h : DWord) (lo hi len off : Word) (key : List Byte) (ok : Bool), ReplyRoom h 1 s →
    let a := lo.toNat + hi.toNat * 2 ^ 32
    let n := len.toNat
    let same := fun (t : State) => t.mem = s.mem ∧ t.boot = s.boot ∧ t.memx = s.memx
    let code := fun (k : Nat) (t : State) => Replies h 4 [k] s t ∧ same t
    let status := fun (k : Nat) (t : State) => Replies h k [0] s t ∧ same t
    let flash := fun (t : State) => t.rd F.QSP_COUNTS_failures = min (s.rd F.QSP_COUNTS_failures + 1) 0xFFFF
    let records := parseRecords 0x40000 (s.bytes a n)
    let foreign := ∃ r ∈ records, r.1 ≠ 0x101 ∧ r.1 ≠ 0x102
    let life := s.rd F.SYS_LC_state
    let token := s.bytes a 256
    let wiping := s.memx.wiping.isSome = true
    let e := 0x04000000
    -- settings
    (0x100000 - 16 < n → Completes (.setSave h lo hi len ok) s (code 0x12)) ∧
    (n ≤ 0x100000 - 16 →
      (foreign → Completes (.setSave h lo hi len ok) s (status 3)) ∧
      (¬foreign → Completes (.setSave h lo hi len false) s fun t => code 0x14 t ∧ flash t) ∧
      (¬foreign → Completes (.setSave h lo hi len true) s fun t => Replies h 0 [0] s t ∧
        t.boot.settings = records.foldl Settings.take s.boot.settings ∧ t.boot.slot0 = s.boot.slot0 ∧ t.boot.slot1 = s.boot.slot1 ∧
        t.mem = ((s.saveSettings t.boot.settings).saveSettings t.boot.settings).mem)) ∧
    (Completes (.setDefaults h true) s fun t => Replies h 0 [0] s t ∧ t.mem = (s.saveSettings t.boot.settings).mem ∧
      t.boot = { s.boot with settings := { s.boot.settings with mode := none, presets := [] } }) ∧
    (Completes (.setDefaults h false) s fun t => code 0x14 t ∧ flash t) ∧
    -- life cycle
    (let refusedState := s.running = true ∨ s.rd F.SYS_MODE_STATE_service ≠ 2
     let right := leAt token 0 4 = 0x4B434C53 ∧ leAt token 4 16 = s.unitId ∧ leAt token 21 1 = life ∧
        leAt token 21 1 < leAt token 20 1 ∧ leAt token 20 1 ≤ 4 ∧ assoc? s.boot.keys 0 = some (sha384 key) ∧
        ecVerify key (sha384 (token.take 160)) (ofBe ((token.drop 160).take 48)) (ofBe ((token.drop 208).take 48)) = true
     (refusedState → Completes (.lcAdvance h lo hi key ok) s (status 6)) ∧
     (¬refusedState → ¬right → Completes (.lcAdvance h lo hi key ok) s (code 0x11)) ∧
     (¬refusedState → right →
      (Completes (.lcAdvance h lo hi key ok) s fun t => Replies h 0 [0] s t ∧ t.memx.wiping = some 2 ∧ t.on F.STR_STATUS_wiping = true) ∧
      (Completes (.lcAdvance h lo hi key true) s fun t => t.rd F.SYS_LC_state = leAt token 20 1 ∧ t.mem = s.mem ∧
        t.on F.SYS_LC_debug_open = decide (leAt token 20 1 = 1 ∨ leAt token 20 1 = 3)) ∧
      (Completes (.lcAdvance h lo hi key false) s fun t => t.rd F.SYS_LC_state = life ∧ (s.SwitchOk → t.latch 0x0F = true)))) ∧
    -- unit secrets
    (life ≠ 1 → life ≠ 2 → Completes (.provKey h) s (status 6)) ∧
    ((life = 1 ∨ life = 2) →
      (s.boot.unitKey = true → Completes (.provKey h) s (code 0x11)) ∧
      (s.boot.unitKey = false → wiping → Completes (.provKey h) s (status 5)) ∧
      (s.boot.unitKey = false → ¬wiping → ReplyRoom h 13 s → Completes (.provKey h) s fun t =>
        ∃ d, 1 ≤ d ∧ d < ecN ∧ t.boot = { s.boot with unitKey := true } ∧ BytesBut (e + 0x1000) 144 s t ∧
          let q := (ecMul d ecG).getD (0, 0)
          let point := leBytes 1 (2 + q.2 % 2) ++ beBytes 48 q.1 ++ leBytes 3 0
          t.bytes (e + 0x1000) 144 = beBytes 48 d ++ beBytes 48 q.1 ++ beBytes 48 q.2 ∧
          Replies h 0 ((List.range 13).map fun j => leAt point (4 * j) 4) s t)) ∧
    (s.boot.unitKey = false → Completes (.unitSign h lo hi) s (code 0x11)) ∧
    (s.boot.unitKey = true → ReplyRoom h 12 s → Completes (.unitSign h lo hi) s fun t =>
      same t ∧ t.free = s.free + 12 ∧ ∃ ws, ws.length = 12 ∧ Replies h 0 ws s t) ∧
    (4032 < n → Completes (.provCert h lo hi len) s (code 0x12)) ∧
    (n ≤ 4032 → wiping → Completes (.provCert h lo hi len) s (status 5)) ∧
    (n ≤ 4032 → ¬wiping → Completes (.provCert h lo hi len) s fun t => Replies h 0 [0] s t ∧ BytesBut (e + 0x40) 4032 s t ∧
      t.bytes (e + 0x40) n = s.bytes a n ∧ ∀ j, n ≤ j → j < 4032 → t.byte (e + 0x40 + j) = 0) ∧
    (∀ c ∈ [Instr.licWrite h lo hi off len, .licRead h lo hi off len],
      (248 * 1024 < off.toNat + n → Completes c s (code 0x12)) ∧
      (off.toNat + n ≤ 248 * 1024 → wiping → Completes c s (status 5))) ∧
    (off.toNat + n ≤ 248 * 1024 → ¬wiping →
      let l := e + 0x2000 + off.toNat
      (Completes (.licWrite h lo hi off len) s fun t => Replies h 0 [0] s t ∧ t.bytes l n = s.bytes a n ∧ BytesBut l n s t) ∧
      (Completes (.licRead h lo hi off len) s fun t => Replies h 0 [0] s t ∧ t.bytes a n = s.bytes l n ∧ BytesBut a n s t))

/-- R484, R485, R486, R487, R503, R504, R546, R547, R548: a cold or warm reset without a valid header ends in recovery, at
stage 2; with one, the boot ROM counts or rejects a TRIAL slot and starts the CONFIRMED image where it is valid. A warm
reset keeps the timebase, the Strongroom, the fuses and every latch but the Fatal ones, and shows its cause. Training that
succeeds goes on to the stored configuration and the start of the engine; a start that fails shows its step. A handover
enters the new image, confirmation records it, and an expired or refused trial falls back. What the state before a first
start holds is the model's choice (log entries 3, 4, 6 and 42). -/
def Obligations.StartsAndTrials : Prop :=
  ∀ (s : State) (t0 t1 ok : Bool) (cause i k ch step ms size : Nat) (p : Nat × Nat) (v : Word),
    let flashIn := fun (a n : Nat) => 0x20000000 ≤ a ∧ a + n ≤ 0x40000000
    let strong := fun a => 0x04000000 ≤ a ∧ a < 0x04040000
    let cold := Instr.resetRelease t0 t1
    let warm := Instr.warmReset cause
    let takes := 1 ≤ cause ∧ cause ≤ 4 ∧ s.boot.heldReset = false
    let recovers := fun (t : State) => t.on F.SYS_BOOT_recovery = true ∧ t.rd F.SYS_BOOT_stage = 2 ∧ t.latch 5 = true ∧
      t.on F.FLT_STATE_fault_n = true ∧ t.boot.running = none ∧ t.running = false
    let starts := fun (c : List Byte) (j : Nat) (t : State) => t.boot.running = some (imageOf c) ∧ t.rd F.SYS_FW_VER_version = (imageOf c).version ∧
      t.rd F.SYS_BOOT_slot = j ∧ t.rd F.SYS_BOOT_stage = 8 ∧ t.rd F.PWR_STATE_on = 0xFFFF ∧ t.rd F.CET_STATUS_step = 1
    let caused := fun (c : Nat) (t : State) => t.rd F.RST_CAUSE_last = c ∧ t.rd F.RST_COUNTS_warm = min (s.rd F.RST_COUNTS_warm + 1) 0xFFFF
    let x := s.bootSlotAt (recAddr k) i
    let y := s.bootSlotAt (recAddr k) (1 - i)
    let recorded := i < 2 ∧ s.flashHeader = true ∧ s.currentRec = some k
    let image := s.bytes (p.1 + 0x10000) x.size
    let boots := recorded ∧ s.flashPart (1 + i) = some p ∧ flashIn (p.1 + 0x10000) x.size ∧ x.state = 4 ∧ y.state ≠ 3 ∧ y.state ≠ 4 ∧
      s.imageCheck image x.size = 0 ∧ s.rd F.SYS_LC_state ≠ 4
    let trial := recorded ∧ x.state = 3 ∧ y.state ≠ 3
    -- resets
    (s.flashHeader = false → Completes cold s fun t => recovers t ∧ t.stp.tb = 0 ∧ t.rd F.RST_CAUSE_last = 0 ∧
      (t0 = false → t1 = false → ∀ a, strong a → t.byte a = s.byte a) ∧
      (t0 = true ∨ t1 = true → (∀ a, strong a → t.byte a = 0) ∧ t.on F.STR_STATUS_wiped = true ∧
        t.rd F.STR_STATUS_cause = (if t0 then 0 else 1) ∧ t.latch 0x0C = true)) ∧
    (¬takes → Completes warm s fun t => t = s) ∧
    (takes → s.flashHeader = false → Completes warm s fun t => recovers t ∧ caused cause t ∧ t.stp.tb = s.stp.tb ∧
      (∀ a, strong a → t.byte a = s.byte a) ∧ t.latch 13 = false ∧ t.latch 14 = false ∧
      (∀ id, id < 13 → id ≠ 5 → t.latch id = s.latch id) ∧ t.rd F.FUS_ARB_counter = s.rd F.FUS_ARB_counter ∧
      t.rd F.FUS_KEYS_revoked = s.rd F.FUS_KEYS_revoked ∧ t.pend = []) ∧
    (takes → Completes warm s (caused cause)) ∧
    (boots → Completes cold s (starts image i) ∧ (takes → Completes warm s (starts image i))) ∧
    (trial → (x.trials < 2 → Completes cold s fun t => t.bootSlot i = { x with trials := x.trials + 1 }) ∧
      (2 ≤ x.trials → Completes cold s fun t => t.bootSlot i = { x with state := 5 }) ∧
      (s.boot.expiry = true → takes → Completes warm s fun t => t.bootSlot i = { x with state := 5 } ∧ t.boot.expiry = false)) ∧
    -- recovery image
    (let c := s.bytes 0x01000000 (v.toNat % 2 ^ 25)
     let good := s.on F.SYS_BOOT_recovery = true ∧ s.boot.running = none ∧ s.rd F.SYS_LC_state ≠ 4 ∧ s.imageCheck c (v.toNat % 2 ^ 25) = 0
     (good → Completes (.updRecover v) s (starts c 0)) ∧ (¬good → Completes (.updRecover v) s fun t => t = s)) ∧
    -- training
    (let done := Instr.trainingComplete true ch step ms size
     let trained := fun (t : State) => t.on F.CET_STATUS_trained = true ∧ t.on F.CET_STATUS_failed = false ∧ t.rd F.CET_TIME_ms = min ms 0xFFFF ∧
      t.rd F.CEL_SIZE_size = size % 32 ∧ t.raw 0x02A 0 = true
     let starting := s.rd F.SYS_BOOT_stage = 8 ∧ (s.on F.SYS_BOOT_recovery = false ∨ s.confirmedSlot.isSome = true)
     let stored := assoc? s.boot.stored (modeKey (s.reg 0x60).toNat)
     (s.domainOn 7 = false → Completes done s fun t => t = s) ∧
     (s.domainOn 7 = true →
      (Completes done s trained) ∧
      (¬starting → Completes done s fun t => trained t ∧ t.on F.ROL_STATUS_mirror_live = true ∧ t.rd F.SYS_BOOT_stage = s.rd F.SYS_BOOT_stage) ∧
      (starting → stored = none → Completes done s fun t => t.rd F.SYS_BOOT_stage = 9 ∧ (s.SwitchOk → t.latch 5 = true) ∧ t.modes.restart = s.modes.restart) ∧
      (starting → ∀ c, stored = some c → (∀ u : State, u.cellarEnd = 0x100000000 + size % 32 * 0x20000000 → u.cfgCheck c = 0) →
        Completes done s fun t => t.rd F.SYS_BOOT_stage = 10 ∧ t.boot.held = s.boot.stored ∧ t.rd F.SYS_MODE_STATE_phase = 3 ∧
          t.modes.restart = some ⟨4, s.now, some s.tbNs, (s.reg 0x60).toNat, false, false, none, none⟩) ∧
      (Completes (.trainingComplete false ch step ms size) s fun t => t.on F.CET_STATUS_trained = false ∧ t.on F.CET_STATUS_failed = true ∧
        t.rd F.CET_STATUS_step = step % 8 ∧ t.rd F.CET_STATUS_channel = ch % 4 ∧ t.raw 0x02A 1 = true ∧
        (s.rd F.SYS_BOOT_stage = 8 → t.rd F.SYS_BOOT_stage = 9 ∧ (s.SwitchOk → t.latch 5 = true))))) ∧
    -- handover, confirmation, fallback
    (let due := ∃ b, s.boot.handover = some b ∧ (s.running = false ∨ b ≤ s.now)
     let im := imageOf ((s.slotImage s.idleSlot).getD [])
     (¬due → Completes .handover s fun t => t = s) ∧
     (due → s.boot.reverse = false → Completes .handover s fun t => t.boot.running = some im ∧ t.boot.previous = s.boot.running ∧
      t.boot.handover = none ∧ t.boot.confirmEnd = some (s.tbNs + s.rd F.UPD_CONFIRM_CFG_window_s * 1000000000) ∧
      t.rd F.SYS_BOOT_slot = s.idleSlot ∧ t.on F.SYS_BOOT_handover = true ∧ t.rd F.SYS_FW_VER_version = im.version ∧ t.raw 0x0D0 1 = true ∧
      t.eng = s.eng ∧ t.rd F.UPD_SCHEMA_schema = im.schema) ∧
     (due → s.boot.reverse = true → ∀ m, s.boot.previous = some m → Completes .handover s fun t => t.boot.running = some m ∧
      t.boot.previous = none ∧ t.boot.handover = none ∧ t.boot.reverse = false ∧ t.boot.confirmEnd = none ∧ t.rd F.SYS_BOOT_slot = s.idleSlot)) ∧
    (s.trialSlot = none → Completes (.imageConfirm ok) s (fun t => t = s) ∧ Completes .confirmExpiry s fun t => t = s) ∧
    (s.trialSlot = some i → ∀ im, s.boot.running = some im →
      let health := (∀ id, id < 16 → s.latch id = true → id ≠ 3 ∧ id ≠ 13 ∧ id ≠ 14) ∧ s.on F.CET_STATUS_trained = true ∧
        (s.running = true ∨ s.heldCfg (modeKey (s.reg 0x60).toNat) = none) ∧
        (s.on F.UPD_CONFIRM_CFG_host_confirm = true → s.boot.hostConfirmed = true)
      let confirms := i = s.rd F.SYS_BOOT_slot ∧ s.boot.confirmEnd.isSome = true ∧ health
      let counter := s.rd F.FUS_ARB_counter
      let z := s.bootSlot (1 - i)
      (¬confirms → Completes (.imageConfirm ok) s fun t => t = s) ∧
      (confirms → Completes (.imageConfirm ok) s fun t => t.bootSlot i = { s.bootSlot i with state := 4, trials := 0 } ∧
        t.boot.previous = none ∧ t.boot.confirmEnd = none ∧ t.raw 0x0D0 2 = true ∧
        t.bootSlot (1 - i) = (if 2 ≤ z.state ∧ z.state ≤ 4 then { z with state := if z.secVer < max counter im.secVer then 5 else 2 } else z) ∧
        (ok = true → im.secVer < 64 → t.rd F.FUS_ARB_counter = max counter im.secVer) ∧
        (ok = true → im.keySlot < 4 → ∀ j, j < 4 → bitAt (t.rd F.FUS_KEYS_revoked) j = (bitAt (s.rd F.FUS_KEYS_revoked) j || (bitAt im.revokes j && j != im.keySlot))) ∧
        (ok = false → counter < im.secVer → s.SwitchOk → t.latch 0x0F = true))) ∧
    (s.trialSlot = some i →
      (s.boot.confirmEnd = none ∨ s.boot.reverse = true → Completes .confirmExpiry s fun t => t = s) ∧
      (s.boot.confirmEnd.isSome = true → s.boot.reverse = false →
        (s.boot.previous.isSome = true → Completes .confirmExpiry s fun t => t.bootSlot i = { s.bootSlot i with state := 5 } ∧ t.boot.reverse = true ∧
          t.boot.handover = some (if s.running then nextBlock s.blockLen s.now else s.now) ∧ t.raw 0x0D0 3 = true) ∧
        (s.boot.previous = none → s.boot.heldReset = false → Completes .confirmExpiry s (caused 2)))) ∧
    (s.boot.reverse = false → Completes .reverseHandoverTimeout s fun t => t = s) ∧
    (s.boot.reverse = true → s.boot.heldReset = false → Completes .reverseHandoverTimeout s (caused 2))

/-- R511, R512, R513, R514, R516, R517, R518, R519, R520, R521, R523: a fault that is raised sets its latch and counts in
the Roll, and by its class sets degraded, enters fail-safe with FAULT_N asserted and an armed swap cancelled, or starts the
fatal sequence too. A latch of an inactive fault that is not Fatal clears; leave counts while no Safe or Fatal latch is set.
At A_f the engine-wide fade goes to 0 from the gain reached and route fades end; at A_l it comes back. PFAIL starts the
egress fade; a watchdog that runs and is not kicked resets the Reeve, a Carter that does not kick is restarted. That the
egress fade has no end is the model's reading (R523 gives none). A request of the debug port while it is shut is never
formed (log entry 65). -/
def Obligations.FaultsAndFailsafe : Prop :=
  ∀ (s : State) (ini : Initiator) (v : Word) (id n : Nat), s.SwitchOk →
    let l := s.blockLen
    let len := (if s.on F.ENG_RATE_family then 28 else 30) * l
    let active := fun (j : Nat) (t : State) => bitAt (t.rd F.FLT_ACTIVE_bits) j
    let gateClosed := fun (t : State) => ∃ j, j < 16 ∧ t.latch j = true ∧ (j ∈ t.flt.escalated ∨ 2 ≤ faultClass j)
    let faultN := fun (t : State) => t.on F.FLT_STATE_fault_n = true ↔ ((t.rd F.SYS_BOOT_stage < 6 ∧ t.boot.heldReset = false) ∨ gateClosed t ∨
      (t.on F.FLT_CFG_pin_degraded = true ∧ ∃ j, j < 16 ∧ t.latch j = true ∧ j ∉ t.flt.escalated ∧ faultClass j = 1))
    let raised := fun (j : Nat) (act : Bool) (t : State) => t.latch j = true ∧ (∀ k, k ≠ j → t.latch k = s.latch k) ∧
      active j t = (act || active j s) ∧ (t.rollSrc 0xB1).count = min ((s.rollSrc 0xB1).count + 1) (2 ^ 32 - 1) ∧ faultN t
    let entered := fun (j : Nat) (t : State) => t.on F.FLT_STATE_failsafe = true ∧ t.flt.leave = false ∧
      (s.on F.FLT_STATE_failsafe = false → t.flt.entering = true ∧ t.flt.enterAt = (if s.running then nextBlock l s.now else 0) ∧ t.rd F.FLT_STATE_cause = j ∧ t.raw 0x0B1 0 = true ∧ t.armed = false ∧
        t.rd F.FLT_COUNTS_entries = min (s.rd F.FLT_COUNTS_entries + 1) 0xFFFF ∧ t.rd F.FLT_STATE_phase = max 1 (s.rd F.FLT_STATE_phase) ∧
        (s.rd F.NBR_STATE_role = 1 → s.nbr.declareAt = none → t.nbr.declared = true ∧ t.nbr.declareAt = some (nextBlock l s.now)))
    let fatal := fun (j : Nat) (t : State) => t.on F.FLT_STATE_fatal = true ∧
      (s.on F.FLT_STATE_fatal = true → t.flt.fatalId = s.flt.fatalId) ∧
      (s.on F.FLT_STATE_fatal = false → t.flt.fatalId = j ∧ t.raw 0x0B1 3 = true ∧ t.rd F.FLT_COUNTS_fatals = min (s.rd F.FLT_COUNTS_fatals + 1) 0xFFFF)
    let counted := fun (page : Nat) (t : State) => t.rd F.ERR_INFO_kind page = 8 ∧ t.rd F.ERR_INFO_master page = ini.port ∧
      t.rd F.ERR_COUNT_value page = min (s.rd F.ERR_COUNT_value page + 1) 0xFFFFFFFF
    let boundary := s.running = true ∧ s.now % l = 0
    let shut := s.portShut ini = true
    let permitted := s.on F.FLT_STATE_failsafe = true ∧ s.flt.entering = false ∧ ¬gateClosed s ∧
      (s.on F.FLT_CFG_auto_leave = true ∨ s.flt.leave = true)
    let leaves := permitted ∧ boundary ∧ s.modes.fsFade.start < s.now
    -- raised faults
    (v.toNat % 2 = 1 → Completes (.fltEnter v) s fun t => raised 2 false t ∧ (v.toNat / 2 % 2 = 0 → entered 2 t)) ∧
    (v.toNat % 4 = 0 → Completes (.fltEnter v) s fun t => t = s) ∧
    (Completes .fwFatal s fun t => raised 14 false t ∧ entered 14 t ∧ fatal 14 t) ∧
    (Completes .pfail s fun t => raised 1 true t ∧ entered 1 t ∧ t.flt.pfailLow = true ∧ (s.running = false → t.flt.egressDue = true) ∧
      (s.running = true → t.modes.egress = s.modes.egress.turn 0 (nextBlock l s.now - 2 * l) ((2 * s.fs + 500) / 1000)) ∧
      (s.running = false → t.modes = s.modes)) ∧
    (Completes .pfailNRise s fun t => t = { s with flt := { s.flt with pfailLow := false } }) ∧
    (s.flt.wdogArmed = false → Completes .reeveWdogExpiry s fun t => t = s) ∧
    (s.flt.wdogArmed = true → Completes .reeveWdogExpiry s fun t => raised 13 false t ∧ entered 13 t ∧ fatal 13 t ∧ t.flt.wdogArmed = false ∧
      t.rd F.RST_CAUSE_last_partial = 5 ∧ t.rd F.RST_COUNTS_partial = min (s.rd F.RST_COUNTS_partial + 1) 0xFFFF) ∧
    (2 ≤ n → Completes (.carterTimeout n) s fun t => t = s) ∧
    (n < 2 → Completes (.carterTimeout n) s fun t => raised 9 true t ∧ t.rd F.RST_COUNTS_partial = min (s.rd F.RST_COUNTS_partial + 1) 0xFFFF ∧
      (bitAt (s.rd F.FLT_ESCALATE_bits) 9 = false → t.raw 0x0B1 2 = true ∧ t.on F.FLT_STATE_failsafe = s.on F.FLT_STATE_failsafe) ∧
      (bitAt (s.rd F.FLT_ESCALATE_bits) 9 = true → entered 9 t ∧ 9 ∈ t.flt.escalated) ∧
      (bitAt (s.rd F.FAB_QUAR_ports) (if n = 0 then Initiator.carter0 else .carter1).port = false → t.raw 0x008 0 = true)) ∧
    -- watchdog kicks, inactive faults, latches, leave
    (ini = .reeve → v.toNat % 65536 = 0x5744 → Completes (.wdogKick ini v) s fun t => t.flt = { s.flt with wdogArmed := true } ∧ t.regs = s.regs) ∧
    (shut → ∀ c ∈ [Instr.wdogKick ini v, .fltLeave ini v], Completes c s fun t => t = s) ∧
    (¬shut → ¬(ini = .reeve ∧ v.toNat % 65536 = 0x5744) → Completes (.wdogKick ini v) s fun t => t.flt = s.flt ∧ counted 0x0B1 t) ∧
    (1 ≤ id → id < 16 → s.faultHolds id = false → Completes (.faultInactive id) s fun t => active id t = false ∧
      (∀ j, j ≠ id → active j t = active j s) ∧ RegsBut [F.FLT_ACTIVE_bits.key 0 0] s t) ∧
    (id = 0 ∨ 16 ≤ id ∨ s.faultHolds id = true → Completes (.faultInactive id) s fun t => t = s) ∧
    (let cleared := fun (j : Nat) => bitAt v.toNat j = true ∧ active j s = false ∧ faultClass j ≠ 3
     Completes (.latchClear v) s fun t => (∀ j, j < 16 → (t.latch j = true ↔ s.latch j = true ∧ ¬cleared j)) ∧ faultN t ∧
      (∀ j, active j t = active j s) ∧ ((∃ j, j < 16 ∧ s.latch j = true ∧ cleared j ∧ (j ∈ s.flt.escalated ∨ 2 ≤ faultClass j)) → t.flt.leave = false) ∧
      ((∀ j, j < 16 → s.latch j = true → cleared j → j ∉ s.flt.escalated ∧ faultClass j < 2) → t.flt.leave = s.flt.leave) ∧ t.modes = s.modes) ∧
    (¬shut → v.toNat % 4 = 2 →
      (gateClosed s → Completes (.fltLeave ini v) s fun t => t.flt = s.flt ∧ counted 0x0B1 t) ∧
      (¬gateClosed s → Completes (.fltLeave ini v) s fun t => t.flt = { s.flt with leave := true } ∧ t.regs = s.regs)) ∧
    -- entry and leaving
    (¬(s.flt.entering = true ∧ boundary ∧ s.flt.enterAt ≤ s.now) → Completes .failsafeEntry s fun t => t = s) ∧
    (s.flt.entering = true → boundary → s.flt.enterAt ≤ s.now → Completes .failsafeEntry s fun t => t.modes = { s.modes with fsFade := s.modes.fsFade.turn 0 s.now len } ∧
      t.flt.entering = false ∧ t.rd F.FLT_STATE_phase = 1 ∧ t.rd F.FLT_ENTRY_ESI_value = s.now % 2 ^ 32 ∧
      t.flt.entry = (s.now, s.tbNs) ∧ t.flt.leave = s.flt.leave ∧
      ((∀ e ∈ s.xrd.dests, e.2.deferred = none) → ∀ d n i, liveFades s.now (s.dest d).fades ≠ [] → s.now ≤ n * l + i →
        t.destSample (t.dest d) n i = t.sideSample n (s.dest d).src (s.dest d).pad i) ∧ t.on F.STATUS_safe_state 0x078 = true ∧ t.on F.STATUS_safe_state 0x0CB = true) ∧
    (¬leaves → Completes .failsafeLeave s fun t => t = s) ∧
    (leaves → Completes .failsafeLeave s fun t => t.on F.FLT_STATE_failsafe = false ∧ t.rd F.FLT_STATE_phase = 3 ∧ t.raw 0x0B1 1 = true ∧
      (s.modes.restart = none → t.modes = { s.modes with fsFade := s.modes.fsFade.turn 32768 s.now len }) ∧
      (∀ r, s.modes.restart = some r → r.inAt = none → s.rd F.SYS_MODE_STATE_phase = 4 →
        t.modes.fade = ⟨0, 32768, s.now, len⟩ ∧ t.modes.restart = some { r with inAt := some s.now } ∧ t.modes.fsFade.g1 = 32768))

/-- R525, R526, R527, R528, R529, R530, R531, R532, R533, R534, R535, R522: a report adds to the counts of its source,
writes at most one detailed entry in a window, and raises the extreme; a window end moves each count to its bin. A Roll copy
goes to the slot not written last, a PFAIL record to the next erased slot. The commands answer, copy and clear; a buffer
outside the Cellar answers ARGS (log entry 64), and a flash write that fails counts. After the dump halt the Cellar dump is
written, then the flash dump where its area is erased, then the chip resets where fatal_reset is 1, and after 5 s without
dump_done in any case. -/
def Obligations.RollAndDumps : Prop :=
  ∀ (s : State) (ini : Initiator) (page c : Nat) (d0 d1 v lo hi : Word) (value : Option Word) (held ok : Bool) (h : DWord) (p : Nat × Nat),
    let k := s.rd F.ROL_ENTRIES_value
    let sat := fun (x : Nat) => min (x + 1) (2 ^ 32 - 1)
    let first := k < 256 ∧ assoc? s.flt.first k = none
    let shut := s.portShut ini = true
    let reported := fun (src code cls e0 e1 : Nat) (val : Option Nat) (fw det : Bool) (t : State) =>
      let r := s.rollSrc src
      let q := t.rollSrc src
      q.count = sat r.count ∧ q.win = r.win + 1 ∧ q.bins = r.bins ∧ (∀ x, x ≠ src → t.rollSrc x = s.rollSrc x) ∧
      (r.win = 0 → det = true → q.skipped = 0 ∧ q.overflow = r.overflow ∧ q.last = some k ∧ t.rd F.ROL_ENTRIES_value = (k + 1) % 2 ^ 32 ∧
        t.raw 0x0B0 0 = true ∧ assoc? t.flt.entries k =
          some ⟨s.now, s.tbNs % 10 ^ 9, fw, s.tbNs / 10 ^ 9 % 2 ^ 32, src, code, cls, r.skipped, e0, e1, decide first⟩ ∧
        (first → assoc? t.flt.first k = assoc? t.flt.entries k) ∧ (¬first → t.flt.first = s.flt.first)) ∧
      (r.win ≠ 0 ∨ det = false → q.skipped = r.skipped + 1 ∧ q.overflow = sat r.overflow ∧ q.last = r.last ∧
        t.flt.entries = s.flt.entries ∧ t.flt.first = s.flt.first ∧ t.rd F.ROL_ENTRIES_value = k ∧ t.raw 0x0B0 1 = true) ∧
      (∀ x, val = some x → r.ext < x → x < 2 ^ 32 → q.ext = x ∧ q.extEsi = s.now % 2 ^ 32) ∧
      ((∀ x, val = some x → x ≤ r.ext) → q.ext = r.ext ∧ q.extEsi = r.extEsi)
    let counted := fun (t : State) => t.rd F.ERR_INFO_kind 0x0B0 = 8 ∧ t.rd F.ERR_INFO_master 0x0B0 = ini.port ∧ t.flt = s.flt ∧
      t.rd F.ERR_COUNT_value 0x0B0 = min (s.rd F.ERR_COUNT_value 0x0B0 + 1) 0xFFFFFFFF
    let core := ini = .reeve ∨ ini = .carter0 ∨ ini = .carter1
    let same := fun (t : State) => t.mem = s.mem ∧ t.flt = s.flt
    let seq := s.flt.copySeq + 1
    let copied := fun (t : State) =>
      let a := p.1 + 0x20000 + 0x40000 * (seq % 2)
      let im := s.rollImage seq true
      t.flt.copySeq = seq ∧ t.rd F.ROL_COPY_SEQ_value = seq % 2 ^ 32 ∧ t.raw 0x0B0 2 = true ∧ t.bytes a im.length = im ∧ BytesBut a im.length s t
    let part := s.flashPart 5
    let a := lo.toNat + hi.toNat * 2 ^ 32
    let mag := s.cellarEnd - 0x4000000 + 0x400000
    let facts := fun (size : Nat) => (s.flt.fatalId, faultClass s.flt.fatalId, s.flt.entry.1, size)
    let failed := fun (t : State) => same t ∧ t.rd F.QSP_COUNTS_failures = min (s.rd F.QSP_COUNTS_failures + 1) 0xFFFF
    let halted := s.running = false ∨ s.on F.FLT_STATE_dump_halt = true
    let caused := fun (x : Nat) (t : State) => t.rd F.RST_CAUSE_last = x ∧ t.rd F.RST_COUNTS_warm = min (s.rd F.RST_COUNTS_warm + 1) 0xFFFF
    let pseq := (s.flt.pfails.head?.map fun (e : Nat × Nat) => e.1 + 1).getD 1
    let slot := (pseq - 1) % 32
    -- reports
    (page < 256 → Completes (.rollReport page c d0 d1 value held) s
      (reported page (c % 256) 0 d0.toNat d1.toNat (value.map fun w => w.toNat) false held)) ∧
    (256 ≤ page → Completes (.rollReport page c d0 d1 value held) s fun t => t = s) ∧
    (core → Completes (.rolRepGo ini v) s (reported (v.toNat % 256) (v.toNat / 2 ^ 8 % 256) (if bitAt v.toNat 17 then v.toNat / 2 ^ 18 % 4 else 0)
      (s.repWord ini 0) (s.repWord ini 1) (if bitAt v.toNat 16 then some (s.repWord ini 2) else none) true true)) ∧
    (shut → Completes (.rolRepGo ini v) s fun t => t = s) ∧
    (¬shut → ¬core → Completes (.rolRepGo ini v) s counted) ∧
    (Completes .rollWindowEnd s fun t => t.flt.windows = s.flt.windows + 1 ∧ t.flt.entries = s.flt.entries ∧
      t.flt.windowMs = s.rd F.ROL_CFG_window_ms ∧ ∀ x, let r := s.rollSrc x
      (r.win = 0 → t.rollSrc x = r) ∧
      (0 < r.win → ∃ b, b ≤ 7 ∧ 4 ^ b ≤ r.win ∧ (b < 7 → r.win < 4 ^ (b + 1)) ∧ t.rollSrc x = { r with bins := r.bins.modify b sat, win := 0 })) ∧
    -- copies and records in flash
    (Completes (.rollCopy false) s failed) ∧
    (part = none → Completes (.rollCopy true) s fun t => t = s) ∧
    (part = some p → Completes (.rollCopy true) s copied) ∧
    (part = none → Completes .pfailRecordWritten s fun t => t = s) ∧
    (part = some p → s.load (p.1 + 4096 * slot) 4 = 0x46505A53 → Completes .pfailRecordWritten s fun t => t = s) ∧
    (part = some p → s.load (p.1 + 4096 * slot) 4 ≠ 0x46505A53 → Completes .pfailRecordWritten s fun t =>
      t.flt.pfails.head? = some (pseq, s.now) ∧ t.raw 0x0B0 3 = true ∧ t.bytes (p.1 + 4096 * slot) 4096 = s.pfailRecord pseq ∧
      (slot % 16 = 15 → ∀ b, b < 0x10000 → t.byte (p.1 + 0x10000 * (1 - slot / 16) + b) = memDefault b) ∧
      (slot % 16 ≠ 15 → BytesBut (p.1 + 4096 * slot) 4096 s t)) ∧
    -- the commands
    (ReplyRoom h 1 s →
      (ok = false ∨ part = none → Completes (.rollFlush h ok) s fun t => Replies h 4 [0x11] s t ∧ failed t) ∧
      (part = some p → Completes (.rollFlush h true) s fun t => Replies h 0 [0] s t ∧ copied t) ∧
      (Completes (.rollClear h v) s fun t => Replies h 0 [0] s t ∧ t.flt.windows = s.flt.windows ∧
        (bitAt v.toNat 0 = true → ∀ x, let q := t.rollSrc x
          q.count = 0 ∧ q.overflow = 0 ∧ q.bins = List.replicate 8 0 ∧ q.ext = 0 ∧ q.extEsi = 0 ∧ q.win = (s.rollSrc x).win) ∧
        (bitAt v.toNat 0 = false → ∀ x, (t.rollSrc x).count = (s.rollSrc x).count ∧ (t.rollSrc x).ext = (s.rollSrc x).ext) ∧
        (bitAt v.toNat 1 = true → t.rd F.ROL_STATUS_first = 0 ∧ t.flt.first = []) ∧
        (bitAt v.toNat 1 = false → t.flt.first = s.flt.first) ∧
        (bitAt v.toNat 2 = true → t.flt.entries = [] ∧ t.rd F.ROL_ENTRIES_value = 0 ∧ ∀ x, (t.rollSrc x).last = none) ∧
        (v.toNat % 8 = 0 → t.flt.entries = s.flt.entries)) ∧
      (part = none → Completes (.pfailCopy h lo hi) s fun t => Replies h 4 [0x11] s t ∧ same t) ∧
      (part = some p → s.inCellar a 0x20000 = false → Completes (.pfailCopy h lo hi) s fun t => Replies h 3 [0] s t ∧ same t) ∧
      (part = some p → s.inCellar a 0x20000 = true → Completes (.pfailCopy h lo hi) s fun t => t.bytes a 0x20000 = s.bytes p.1 0x20000 ∧ BytesBut a 0x20000 s t ∧
        t.flt = s.flt ∧ Replies h 0 [(s.flt.pfails.head?.map fun (e : Nat × Nat) => e.1).getD 0] s t) ∧
      (part = none ∨ s.flt.flashDump = none → Completes (.dumpCopy h lo hi) s fun t => Replies h 4 [0x10] s t ∧ same t) ∧
      (∀ d, part = some p → s.flt.flashDump = some d → s.inCellar a d.2.2.2 = false → Completes (.dumpCopy h lo hi) s fun t =>
        Replies h 3 [0] s t ∧ same t) ∧
      (∀ d, part = some p → s.flt.flashDump = some d → s.inCellar a d.2.2.2 = true → s.Canonical → Completes (.dumpCopy h lo hi) s fun t =>
        Replies h 0 [0] s t ∧ t.bytes a d.2.2.2 = s.bytes (p.1 + 0xA0000) d.2.2.2 ∧ BytesBut a d.2.2.2 s t) ∧
      (part = none → Completes (.dumpClear h ok) s fun t => Replies h 4 [0x11] s t ∧ same t) ∧
      (part = some p → Completes (.dumpClear h false) s fun t => Replies h 4 [0x11] s t ∧ failed t) ∧
      (part = some p → Completes (.dumpClear h true) s fun t => Replies h 0 [0] s t ∧ t.flt = { s.flt with cellarDump := none, flashDump := none } ∧
        (∀ b, b < 0x200000 → t.byte (p.1 + 0xA0000 + b) = memDefault b) ∧ (s.flt.cellarDump.isSome = true → t.load mag 4 = 0))) ∧
    (ReplyRoom h 4 s → Completes (.dumpInfo h) s fun t => same t ∧
      let d := (if s.flt.cellarDump.isSome then s.flt.cellarDump else s.flt.flashDump).getD (0, 0, 0, 0)
      Replies h 0 [b2n s.flt.cellarDump.isSome + 2 * b2n s.flt.flashDump.isSome, d.2.2.2, d.1 + 256 * d.2.1, d.2.2.1 % 2 ^ 32] s t) ∧
    -- the fatal sequence
    (s.on F.FLT_STATE_fatal = false ∨ s.on F.FLT_STATE_dump_done = true ∨ ¬halted → Completes .dumpDone s fun t => t = s) ∧
    (s.on F.FLT_STATE_fatal = true → s.on F.FLT_STATE_dump_done = false → halted → Completes .dumpDone s fun t => t.on F.FLT_STATE_dump_done = true ∧
      t.raw 0x0B1 4 = true ∧ t.flt = { s.flt with cellarDump := some (facts 51794176) } ∧ t.load mag 4 = 0x50445A53 ∧
      t.load (mag + 8) 4 = 51794176 ∧ t.load (mag + 0x10) 1 = s.flt.fatalId % 256 ∧ t.free = s.free + 0xC0000) ∧
    (s.on F.FLT_STATE_fatal = false ∨ s.on F.FLT_STATE_dump_done = false → Completes (.flashDumpDone ok) s fun t => t = s) ∧
    (s.on F.FLT_STATE_fatal = true → s.on F.FLT_STATE_dump_done = true →
      (part = some p → s.flt.flashDump = none → s.on F.FLT_CFG_fatal_reset = false → Completes (.flashDumpDone false) s failed) ∧
      (part = some p → s.flt.flashDump = none → Completes (.flashDumpDone true) s fun t => t.flt.flashDump = some (facts 1462528) ∧
        (s.on F.FLT_CFG_fatal_reset = false → t.load (p.1 + 0xA0000) 4 = 0x50445A53)) ∧
      (s.flt.flashDump.isSome = true → s.on F.FLT_CFG_fatal_reset = false → Completes (.flashDumpDone ok) s
        (reported 0xD0 7 0 s.flt.fatalId 0 none true true)) ∧
      (s.on F.FLT_CFG_fatal_reset = true → s.boot.heldReset = false → Completes (.flashDumpDone ok) s (caused 1))) ∧
    (s.on F.FLT_STATE_fatal = true → s.on F.FLT_STATE_dump_done = false → s.boot.heldReset = false → Completes .fatalTimeout s (caused 3)) ∧
    (s.on F.FLT_STATE_fatal = false ∨ s.on F.FLT_STATE_dump_done = true → Completes .fatalTimeout s fun t => t = s)

/-- R542, R544, R545, R548, R549, R550, R552, R553, R555, R556, R557, R558: a switch of domains ends with its set in force.
A core PLL that loses lock holds the chip in a warm reset until every such PLL is locked again; the PCIe PLL takes the link
down, another changes its lock bit alone. The audio PLL falls back to the synthesiser while the VCXO is out of range and
returns after 1 s. The Reeve alone resets the chip, with the key, or the Carters. A request of the debug port while it is
shut is never formed (log entry 65). A reading goes to the deepest step it trips; the throttle leaves a step one at a time;
a reading below 660 mV is the stop of R552. -/
def Obligations.PowerClocksThrottle : Prop :=
  ∀ (s : State) (ini : Initiator) (v : Word) (pll i mv us : Nat) (ppm : Option Int) (readings : List Nat),
    let want := s.lv F.PWR_DOMAIN_on
    let lock := fun (j : Nat) (t : State) => bitAt (t.rd F.CLK_STATUS_locked) j
    let core := fun (j : Nat) => j ≤ 3 ∨ j = 8 ∨ j = 9
    let clk := F.CLK_STATUS_locked.key 0 0
    let caused := fun (x : Nat) (t : State) => t.rd F.RST_CAUSE_last = x ∧ t.rd F.RST_COUNTS_warm = min (s.rd F.RST_COUNTS_warm + 1) 0xFFFF
    let vcxo := fun (t : State) => if s.on F.ENG_RATE_family then t.on F.CLK_STATUS_vcxo44 else t.on F.CLK_STATUS_vcxo48
    let good := ∃ x : Int, ppm = some x ∧ -1000 ≤ x ∧ x ≤ 1000
    let synth := s.on F.CLK_STATUS_synth
    let counted := fun (t : State) => t.rd F.ERR_INFO_kind 0x003 = 8 ∧ t.rd F.ERR_INFO_master 0x003 = ini.port ∧ t.boot = s.boot ∧
      t.rd F.ERR_COUNT_value 0x003 = min (s.rd F.ERR_COUNT_value 0x003 + 1) 0xFFFFFFFF ∧ t.fab = s.fab
    let bit := fun j => bitAt v.toNat j
    let keyed := v.toNat / 2 ^ 16 = 0x5253
    let level := fun (k : Nat) => 600 + (s.liveReg 0x4044).toNat / 2 ^ (8 * (k - 1)) % 256
    let step := s.rd F.THR_STATE_step
    let force := s.rd F.THR_CFG_force
    let tripped := max (if mv < level 3 then 3 else if mv < level 2 then 2 else if mv < level 1 then 1 else 0) force
    let under := fun (t : State) => (t.on F.THR_STATE_under = true ↔
        ∃ j, j < 8 ∧ t.rd F.THR_SENSE_now_mv 0 j ≠ 0 ∧ t.rd F.THR_SENSE_now_mv 0 j < level 4) ∧
      (t.on F.THR_STATE_under = true → s.on F.THR_STATE_under = false → t.raw 0x004 2 = true ∧
        t.rd F.THR_EVENTS_under = min (s.rd F.THR_EVENTS_under + 1) 0xFFFF)
    let clear := ∀ j, j < 8 → level step + s.rd F.THR_CFG_hyst_mv < readings.getD j 0
    -- domains
    (s.on F.PWR_STATE_switching = false → Completes .domainSwitchDone s fun t => t = s) ∧
    (s.on F.PWR_STATE_switching = true → Completes .domainSwitchDone s fun t => t.rd F.PWR_STATE_on = want % 2 ^ 16 ∧
      t.on F.PWR_STATE_switching = false ∧ t.raw 0x001 0 = true ∧ t.pendOf 0x001 = none ∧ t.on F.STATUS_apply_pending 0x001 = false ∧
      (bitAt want 7 = true → s.domainOn 7 = false → t.rd F.CET_STATUS_step = 1)) ∧
    -- PLLs
    (10 ≤ pll → Completes (.pllLoss pll) s (fun t => t = s) ∧ Completes (.pllRelock pll) s fun t => t = s) ∧
    (pll < 10 →
      (core pll → s.boot.heldReset = false → Completes (.pllLoss pll) s fun t => t.boot.heldReset = true ∧ caused 4 t ∧ lock pll t = false ∧
        t.stp.tb = s.stp.tb ∧ t.running = false ∧ t.boot.running = none) ∧
      ((core pll ∧ s.boot.heldReset = true) ∨ pll = 4 ∨ pll = 6 ∨ pll = 7 → Completes (.pllLoss pll) s fun t => lock pll t = false ∧
        (∀ j, j ≠ pll → lock j t = lock j s) ∧ t.boot = s.boot ∧ RegsBut [clk] s t) ∧
      (pll = 5 → Completes (.pllLoss pll) s fun t => lock 5 t = false ∧ t.raw 0x002 2 = true ∧ t.boot = s.boot ∧
        (s.domainOn 11 = true → t.on F.PCI_LINK_up = false)) ∧
      (let all := ∀ j, j < 10 → core j → j ≠ pll → lock j s = true
       (s.boot.heldReset = false ∨ ¬all → Completes (.pllRelock pll) s fun t => lock pll t = true ∧ (∀ j, j ≠ pll → lock j t = lock j s) ∧
        t.boot = s.boot ∧ RegsBut [clk] s t) ∧
       (s.boot.heldReset = true → all → Completes (.pllRelock pll) s fun t => t.boot.heldReset = false ∧ t.rd F.CLK_STATUS_locked = 0x3DF ∧
        (s.flashHeader = false → t.on F.SYS_BOOT_recovery = true ∧ t.rd F.SYS_BOOT_stage = 2)))) ∧
    -- the VCXO
    (¬good → Completes (.vcxoCheck ppm) s fun t => vcxo t = false ∧ t.on F.CLK_STATUS_synth = true ∧ t.stp = { s.stp with vcxoGood := 0 } ∧
      (synth = false → t.raw 0x002 0 = true ∧ (t.rollSrc 0x002).count = min ((s.rollSrc 0x002).count + 1) (2 ^ 32 - 1))) ∧
    (good → synth = false → Completes (.vcxoCheck ppm) s fun t => vcxo t = true ∧ t.stp = s.stp ∧ RegsBut [clk] s t) ∧
    (good → synth = true → (s.running = true ∨ s.stp.vcxoGood + 1 < 1000) → Completes (.vcxoCheck ppm) s fun t =>
      vcxo t = true ∧ t.stp = { s.stp with vcxoGood := s.stp.vcxoGood + 1 } ∧ t.on F.CLK_STATUS_synth = true) ∧
    (good → synth = true → s.running = false → 1000 ≤ s.stp.vcxoGood + 1 → Completes (.vcxoCheck ppm) s fun t =>
      t.on F.CLK_STATUS_synth = false ∧ t.raw 0x002 1 = true ∧ t.stp = { s.stp with vcxoGood := 0 }) ∧
    -- reset control
    (∀ c ∈ [Instr.chipResetWrite ini v, .carterReset ini v],
      (s.portShut ini = true → Completes c s fun t => t = s) ∧
      (s.portShut ini = false → ini ≠ .reeve ∨ (bit 0 = true ∧ ¬keyed) → Completes c s counted) ∧
      (ini = .reeve → bit 0 = true → keyed → (s.boot.heldReset = false → Completes c s (caused 1)) ∧
        (s.boot.heldReset = true → Completes c s fun t => t = s)) ∧
      (ini = .reeve → bit 0 = false →
        (bit 1 = false → bit 2 = false → Completes c s fun t => t = s) ∧
        (Completes c s fun t => t.rd F.RST_COUNTS_partial = min (s.rd F.RST_COUNTS_partial + b2n (bit 1) + b2n (bit 2)) 0xFFFF ∧ t.boot = s.boot ∧
          (bit 1 = true → bitAt (s.rd F.FAB_QUAR_ports) Initiator.carter0.port = false → t.raw 0x008 0 = true) ∧
          (bit 2 = true → bitAt (s.rd F.FAB_QUAR_ports) Initiator.carter1.port = false → t.raw 0x008 0 = true)))) ∧
    -- the throttle
    (mv < 660 → exec (.throttleTrip i mv) s = .fault .supplyBelowMinimum) ∧
    (660 ≤ mv → 8 ≤ i → Completes (.throttleTrip i mv) s fun t => t = s) ∧
    (660 ≤ mv → i < 8 → Completes (.throttleTrip i mv) s fun t => t.rd F.THR_SENSE_now_mv 0 i = min mv 0xFFF ∧
      t.rd F.THR_SENSE_min_mv 0 i = min (s.rd F.THR_SENSE_min_mv 0 i) (min mv 0xFFF) ∧
      (∀ j, j < 8 → j ≠ i → t.rd F.THR_SENSE_now_mv 0 j = s.rd F.THR_SENSE_now_mv 0 j) ∧ under t ∧
      (tripped ≤ step → t.rd F.THR_STATE_step = step ∧ t.rd F.THR_EVENTS_trips = s.rd F.THR_EVENTS_trips) ∧
      (step < tripped → t.rd F.THR_STATE_step = tripped ∧ t.rd F.THR_STATE_sensor = i ∧ t.raw 0x004 0 = true ∧
        (tripped = 3 → t.raw 0x004 1 = true) ∧ t.rd F.THR_EVENTS_trips = min (s.rd F.THR_EVENTS_trips + 1) 0xFFFF)) ∧
    (Completes (.throttleRelease readings us) s fun t => (∀ j, j < 8 → t.rd F.THR_SENSE_now_mv 0 j = min (readings.getD j 0) 0xFFF) ∧ under t ∧
      (step = 0 ∨ step ≤ force ∨ ¬clear → t.rd F.THR_STATE_step = step) ∧
      (step ≠ 0 → force < step → clear → t.rd F.THR_STATE_step = step - 1 ∧
        (step = 3 → t.rd F.THR_TIME_floor_us = min (s.rd F.THR_TIME_floor_us + us) 0xFFFFFFFF ∧
          ((s.rollSrc 0x004).ext < us → us < 2 ^ 32 → (t.rollSrc 0x004).ext = us))))

/-- A block's step: with a command at the front of the queue, a step is that command's effect on the state with the queue's
rest; with no command waiting the block idles (the model's choice, log entry 2: no row of the table is a tick). -/
def Obligations.StepTakesTheFront : Prop :=
  (∀ (s : State) (c : Instr) (rest : List Instr), s.pending = c :: rest → step s = exec c { s with pending := rest }) ∧
  ∀ s : State, s.pending = [] → step s = .next s

/-- R371, R389, R510, R511, R521, R549, R555, R558: right after reset the registers hold the reset values of their pages'
tables, no command waits, no memory byte is listed, and the stores are in canonical form. That a byte nothing has written
reads 0 is the model's choice (log entry 4). -/
def Obligations.ResetState : Prop :=
  let r := State.reset
  r.Canonical ∧ r.SwitchOk ∧ r.pending = [] ∧ r.mem = [] ∧ r.pend = [] ∧ r.out = [] ∧ r.running = false ∧ (∀ a, r.byte a = 0) ∧
  (∀ q, r.queue q = []) ∧ (∀ id, r.latch id = false) ∧
  (r.reg 0x40).toNat % 2 ^ 16 = 0x4096 ∧ r.rd F.SYS_MODE_STATE_phase = 5 ∧ r.rd F.ENG_RATE_block_len = 16 ∧
  r.rd F.PWR_STATE_on = 0 ∧ r.lv F.PWR_DOMAIN_on = 0xFFFF ∧ r.rd F.RST_CAUSE_last = 0 ∧ r.rd F.CLK_STATUS_locked = 0 ∧
  r.rd F.THR_CFG_release_us = 8 ∧ r.rd F.THR_CFG_hyst_mv = 10 ∧ r.tripLevel 1 = 720 ∧ r.tripLevel 2 = 705 ∧ r.tripLevel 3 = 690 ∧
  r.tripLevel 4 = 665 ∧ r.on F.FLT_STATE_fault_n = true ∧ r.on F.FLT_CFG_fatal_reset = true ∧ r.rd F.FLT_CFG_wdog_ms = 100 ∧
  r.rd F.ROL_CFG_window_ms = 1000 ∧ r.rd F.UPD_CONFIRM_CFG_window_s = 600 ∧ r.rd F.UPD_CONFIRM_CFG_hold_s = 60 ∧
  r.rd F.STP_STATE_selected = 0xF ∧ r.lv F.NBR_CFG_confirm = 256

/-- Every command of the table completes: whatever the state and the operands, `exec` answers a next state. The commands are
named here one by one, by the shapes of their operands. The one stop is THROTTLE_TRIP with a reading below 660 mV, which R552
calls undefined; it completes at 660 mV and above. -/
def Obligations.OneStopOnly : Prop :=
  (∀ (sensor mv : Nat) (s : State), 660 ≤ mv → ∃ t, exec (.throttleTrip sensor mv) s = .next t) ∧
  (∀ (sensor mv : Nat) (s : State), mv < 660 → exec (.throttleTrip sensor mv) s = .fault .supplyBelowMinimum) ∧
  (∀ (s : State), ∀ c ∈ [Instr.sampleStrobe, .blockStart, .snapArm, .snapCapture, .restartBegin, .restartGap, .restartAtB,
    .restartDone, .looseWriteInForce, .carryForwardReady, .swapStart, .swapComplete, .swapCancel, .prepareDone, .tailReady,
    .switchCrossfadeStart, .switchDone, .jobDone, .timebaseAdvance, .slewEnd, .bandwidthStep, .lockLoss, .holdoverExpiry,
    .averageSave, .ltcLost, .drebaLinkUp, .failureRecognised, .copyExit, .confirmClean, .recopy, .grantTakeEffect, .drillFail,
    .holdWaitProceed, .wipeDone, .gleanerFrameComplete, .markReady, .handover, .confirmExpiry, .failsafeEntry, .failsafeLeave,
    .pfail, .reeveWdogExpiry, .dumpDone, .fatalTimeout, .rollWindowEnd, .domainSwitchDone, .pathSilent, .fwFatal, .pfailNRise,
    .drebaCrcError, .gapHeartbeat, .reverseHandoverTimeout, .pfailRecordWritten], ∃ t, exec c s = .next t) ∧
  (∀ (ini : Initiator) (s : State), ∀ c ∈ [Instr.engEsiLoRead ini, .ptsFifoInfoRead ini, .edgInfoRead ini, .ltcInTimeRead ini,
    .tbsNowNsRead ini, .strWipe ini, .glnWriteLoRead ini, .glnCursorLoRead ini, .quarantineEnd ini, .fabSyncRead ini,
    .lateResponse ini], ∃ t, exec c s = .next t) ∧
  (∀ (v : Word) (s : State), ∀ c ∈ [Instr.realignRequest v, .prepareGo v, .jobGo v, .criPost v, .criCancel v, .criInject v,
    .tbsOutAlign v, .resync v, .drill v, .declare v, .selfRefresh v, .glnMarkAtWrite v, .glnAdv v, .msxEoi v, .updRecover v,
    .latchClear v, .fltEnter v], ∃ t, exec c s = .next t) ∧
  (∀ (n : Nat) (s : State), ∀ c ∈ [Instr.routeFadeEnd n, .deferredRouteChange n, .impulseFire n, .rampEnd n, .millAbort n,
    .millReloadDone n, .breakpointFreeze n, .speedSeek n, .arpRetry n, .crierPtpRelease n, .crierSwapRelease n, .portLost n,
    .portLock n, .maskChange n, .candidateQualify n, .waitToRestoreExpiry n, .announceTimeout n, .dacSlewStep n, .dacOverload
    n, .ackFrame n, .nakFrame n, .trailerTimeout n, .eccWriteback n, .supervisoryRefresh n, .wck2dqPoll n, .eventRingRoom n,
    .softReset n, .applyStaged n, .applyDiscard n, .applyDue n, .warmReset n, .faultInactive n, .carterTimeout n, .pllLoss n,
    .pllRelock n, .announceMessage n, .candidatePresenceLoss n], ∃ t, exec c s = .next t) ∧
  (∀ (n : Nat) (v : Word) (s : State), ∀ c ∈ [Instr.genModeWrite n v, .genAuxWrite n v, .halt n v, .millStep n v, .bpEn n v,
    .cont n v, .bstep n v, .dmaGo n v, .dmaAbort n v], ∃ t, exec c s = .next t) ∧
  (∀ (n1 : Nat) (n2 : Nat) (s : State), ∀ c ∈ [Instr.dualRunEnd n1 n2, .ptpEventTransmit n1 n2, .asrcLock n1 n2], ∃ t, exec c
    s = .next t) ∧
  (∀ (x : SlotOp) (s : State), ∀ c ∈ [Instr.nop x, .illegalOperation x], ∃ t, exec c s = .next t) ∧
  (∀ (x : VecOp) (s : State), ∀ c ∈ [Instr.vmul x, .vmac x, .vmsu x, .vmova x, .vadda x, .vacc x, .vclra x, .vreda x, .vrnd x,
    .vrndv x, .vaccw x, .vrsba x, .vadd x, .vsub x, .vaddw x, .vsubw x, .vneg x, .vabs x, .vmin x, .vmax x, .vand x, .vor x,
    .vxor x, .vshl x, .vasr x, .vlsr x, .vcmplt x, .vcmpeq x, .vsel x, .vrsb x, .vrot x, .vbc x, .vaddi x, .vrsubi x, .vexp x,
    .vlg2 x, .vsqrt x, .vdiv x], ∃ t, exec c s = .next t) ∧
  (∀ (x : LsOp) (s : State), ∀ c ∈ [Instr.ldv x, .stv x, .ldx x, .stx x, .ldhx x, .sthx x, .ldbc x, .lds x, .sts x, .lda x,
    .sta x, .ldhv x, .sthv x, .pmod x], ∃ t, exec c s = .next t) ∧
  (∀ (x : ScOp) (s : State), ∀ c ∈ [Instr.addS x, .subS x, .addi x, .andS x, .orS x, .xorS x, .shl x, .asr x, .lsr x, .li x,
    .sli x, .minS x, .maxS x, .mvp x, .mvm x, .mvn x, .rdp x, .rdm x, .rdn x, .vins x, .vext x, .loopS x, .eob x, .bxclr x,
    .bxrd x, .rdb x, .statS x, .xfer x, .waite x], ∃ t, exec c s = .next t) ∧
  (∀ (mill : Nat) (index : Nat) (err : Bool) (s : State), ∀ c ∈ [Instr.xferComplete mill index err], ∃ t, exec c s = .next t) ∧
  (∀ (times : List MillTimes) (lateTails : List Nat) (s : State), ∀ c ∈ [Instr.endOfWork times lateTails], ∃ t, exec c s =
    .next t) ∧
  (∀ (port : Nat) (fcsOk : Bool) (corrected : Nat) (uncorrected : Nat) (data : List Byte) (s : State), ∀ c ∈
    [Instr.frameReceive port fcsOk corrected uncorrected data], ∃ t, exec c s = .next t) ∧
  (∀ (port : Nat) (lock : Bool) (link : Bool) (fecLock : Bool) (localFault : Bool) (remoteFault : Bool) (s : State), ∀ c ∈
    [Instr.portLinkChange port lock link fecLock localFault remoteFault], ∃ t, exec c s = .next t) ∧
  (∀ (stream : Nat) (late : Bool) (behind : Bool) (s : State), ∀ c ∈ [Instr.packetLaunch stream late behind], ∃ t, exec c s =
    .next t) ∧
  (∀ (n1 : Nat) (b : Bool) (n2 : Nat) (s : State), ∀ c ∈ [Instr.membershipReport n1 b n2, .edgeCapture n1 b n2], ∃ t, exec c s
    = .next t) ∧
  (∀ (data : List Byte) (s : State), ∀ c ∈ [Instr.uartFrame data], ∃ t, exec c s = .next t) ∧
  (∀ (port : Nat) (frame : PortFrameIn) (s : State), ∀ c ∈ [Instr.portFrameReceive port frame], ∃ t, exec c s = .next t) ∧
  (∀ (freqs : List (Nat × Int)) (s : State), ∀ c ∈ [Instr.candidateDeviation freqs], ∃ t, exec c s = .next t) ∧
  (∀ (frame : LtcIn) (s : State), ∀ c ∈ [Instr.ltcFrame frame], ∃ t, exec c s = .next t) ∧
  (∀ (x : Option Nat) (s : State), ∀ c ∈ [Instr.drebaLinkDown x, .msixUnmask x], ∃ t, exec c s = .next t) ∧
  (∀ (n1 : Nat) (n2 : Nat) (n3 : Nat) (n4 : Nat) (s : State), ∀ c ∈ [Instr.timeFrame n1 n2 n3 n4, .mr4Poll n1 n2 n3 n4], ∃ t,
    exec c s = .next t) ∧
  (∀ (seq : Nat) (block : Nat) (recs : List WriteRec) (asrc : List (Nat × List Word)) (s : State), ∀ c ∈ [Instr.hotFrame seq
    block recs asrc], ∃ t, exec c s = .next t) ∧
  (∀ (seq : Nat) (block : Nat) (recs : List WriteRec) (s : State), ∀ c ∈ [Instr.longFrame seq block recs], ∃ t, exec c s =
    .next t) ∧
  (∀ (seq : Nat) (boundary : Nat) (addr : Nat) (data : List Byte) (s : State), ∀ c ∈ [Instr.bankFrame seq boundary addr data],
    ∃ t, exec c s = .next t) ∧
  (∀ (seq : Nat) (boundary : Nat) (item : CtrlIn) (s : State), ∀ c ∈ [Instr.ctrlFrame seq boundary item], ∃ t, exec c s =
    .next t) ∧
  (∀ (seq : Nat) (addr : Nat) (data : List Byte) (s : State), ∀ c ∈ [Instr.chunkFrame seq addr data], ∃ t, exec c s = .next t) ∧
  (∀ (seq : Nat) (trailer : TrailerIn) (s : State), ∀ c ∈ [Instr.trailerFrame seq trailer], ∃ t, exec c s = .next t) ∧
  (∀ (seq : Nat) (block : Nat) (hashes : List (Nat × Nat)) (s : State), ∀ c ∈ [Instr.scanFrame seq block hashes], ∃ t, exec c
    s = .next t) ∧
  (∀ (b : Bool) (s : State), ∀ c ∈ [Instr.heartbeatPulse b, .imageConfirm b, .flashDumpDone b, .rollCopy b], ∃ t, exec c s =
    .next t) ∧
  (∀ (channel : Nat) (value : Word) (grantAt : Option Word) (s : State), ∀ c ∈ [Instr.nbrGrantWrite channel value grantAt], ∃
    t, exec c s = .next t) ∧
  (∀ (h : DWord) (v1 : Word) (v2 : Word) (s : State), ∀ c ∈ [Instr.modeSet h v1 v2, .cfgLoad h v1 v2, .unitSign h v1 v2,
    .dumpCopy h v1 v2, .pfailCopy h v1 v2], ∃ t, exec c s = .next t) ∧
  (∀ (h : DWord) (s : State), ∀ c ∈ [Instr.modeGet h, .modeDiscard h, .queueNop h, .cfgList h, .updConfirm h, .updStatus h,
    .provKey h, .dumpInfo h], ∃ t, exec c s = .next t) ∧
  (∀ (ini : Initiator) (addr : Nat) (data : List Byte) (s : State), ∀ c ∈ [Instr.granaryWrite ini addr data], ∃ t, exec c s =
    .next t) ∧
  (∀ (ini : Initiator) (addr : Nat) (span : GrnSpan) (s : State), ∀ c ∈ [Instr.granaryRead ini addr span], ∃ t, exec c s =
    .next t) ∧
  (∀ (outcomes : List Nat) (s : State), ∀ c ∈ [Instr.sweeperRowTest outcomes], ∃ t, exec c s = .next t) ∧
  (∀ (n : Nat) (b : Bool) (s : State), ∀ c ∈ [Instr.tamper n b, .refreshDebtTick n b], ∃ t, exec c s = .next t) ∧
  (∀ (ok : Bool) (channel : Nat) (step : Nat) (ms : Nat) (size : Nat) (s : State), ∀ c ∈ [Instr.trainingComplete ok channel
    step ms size], ∃ t, exec c s = .next t) ∧
  (∀ (ini : Initiator) (chan : Nat) (path : FabricPath) (write : Bool) (len : Nat) (data : List Byte) (answer : TargetAnswer)
    (s : State), ∀ c ∈ [Instr.fabricRequest ini chan path write len data answer], ∃ t, exec c s = .next t) ∧
  (∀ (ini : Initiator) (chan : Nat) (s : State), ∀ c ∈ [Instr.targetTimeout ini chan], ∃ t, exec c s = .next t) ∧
  (∀ (ini : Initiator) (flr : Bool) (s : State), ∀ c ∈ [Instr.masterReset ini flr], ∃ t, exec c s = .next t) ∧
  (∀ (n : Nat) (x : TargetAnswer) (s : State), ∀ c ∈ [Instr.descriptorFetch n x, .dmaPoll n x], ∃ t, exec c s = .next t) ∧
  (∀ (chan : Nat) (answers : List TargetAnswer) (ahead : Nat) (begun : Nat) (s : State), ∀ c ∈ [Instr.descriptorComplete chan
    answers ahead begun], ∃ t, exec c s = .next t) ∧
  (∀ (ini : Initiator) (q : Nat) (part : Nat) (value : DWord) (s : State), ∀ c ∈ [Instr.queuePush ini q part value], ∃ t, exec
    c s = .next t) ∧
  (∀ (ini : Initiator) (n1 : Nat) (n2 : Nat) (s : State), ∀ c ∈ [Instr.queuePop ini n1 n2, .registerReadClear ini n1 n2], ∃ t,
    exec c s = .next t) ∧
  (∀ (q : Nat) (flashOk : Bool) (blowOk : Bool) (key : List Byte) (s : State), ∀ c ∈ [Instr.commandTake q flashOk blowOk key],
    ∃ t, exec c s = .next t) ∧
  (∀ (ini : Initiator) (n1 : Nat) (n2 : Nat) (v : Word) (s : State), ∀ c ∈ [Instr.registerWrite ini n1 n2 v, .setAliasWrite
    ini n1 n2 v, .clearAliasWrite ini n1 n2 v], ∃ t, exec c s = .next t) ∧
  (∀ (ini : Initiator) (n : Nat) (v : Word) (s : State), ∀ c ∈ [Instr.lockWrite ini n v, .irqRawClear ini n v, .irqTestWrite
    ini n v], ∃ t, exec c s = .next t) ∧
  (∀ (addr : Nat) (write : Bool) (data : List Byte) (count : Nat) (s : State), ∀ c ∈ [Instr.i2cAccess addr write data count],
    ∃ t, exec c s = .next t) ∧
  (∀ (tamper0 : Bool) (tamper1 : Bool) (s : State), ∀ c ∈ [Instr.resetRelease tamper0 tamper1], ∃ t, exec c s = .next t) ∧
  (∀ (h : DWord) (v : Word) (b : Bool) (s : State), ∀ c ∈ [Instr.cfgSave h v b, .updBegin h v b], ∃ t, exec c s = .next t) ∧
  (∀ (header : DWord) (force : Bool) (applyAt : Word) (s : State), ∀ c ∈ [Instr.cfgStart header force applyAt], ∃ t, exec c s
    = .next t) ∧
  (∀ (h : DWord) (v1 : Word) (v2 : Word) (v3 : Word) (b : Bool) (s : State), ∀ c ∈ [Instr.updWrite h v1 v2 v3 b, .setSave h v1
    v2 v3 b], ∃ t, exec c s = .next t) ∧
  (∀ (h : DWord) (b : Bool) (s : State), ∀ c ∈ [Instr.updVerify h b, .setDefaults h b, .rollFlush h b, .dumpClear h b], ∃ t,
    exec c s = .next t) ∧
  (∀ (header : DWord) (allow : Bool) (applyAt : Word) (flashOk : Bool) (s : State), ∀ c ∈ [Instr.updActivate header allow
    applyAt flashOk], ∃ t, exec c s = .next t) ∧
  (∀ (header : DWord) (lo : Word) (hi : Word) (key : List Byte) (blowOk : Bool) (s : State), ∀ c ∈ [Instr.lcAdvance header lo
    hi key blowOk], ∃ t, exec c s = .next t) ∧
  (∀ (header : DWord) (lo : Word) (hi : Word) (len : Word) (s : State), ∀ c ∈ [Instr.provCert header lo hi len], ∃ t, exec c s
    = .next t) ∧
  (∀ (h : DWord) (v1 : Word) (v2 : Word) (v3 : Word) (v4 : Word) (s : State), ∀ c ∈ [Instr.licWrite h v1 v2 v3 v4, .licRead h
    v1 v2 v3 v4], ∃ t, exec c s = .next t) ∧
  (∀ (ini : Initiator) (v : Word) (s : State), ∀ c ∈ [Instr.fltLeave ini v, .wdogKick ini v, .rolRepGo ini v, .chipResetWrite
    ini v, .carterReset ini v], ∃ t, exec c s = .next t) ∧
  (∀ (page : Nat) (code : Nat) (d0 : Word) (d1 : Word) (value : Option Word) (held : Bool) (s : State), ∀ c ∈
    [Instr.rollReport page code d0 d1 value held], ∃ t, exec c s = .next t) ∧
  (∀ (header : DWord) (what : Word) (s : State), ∀ c ∈ [Instr.rollClear header what], ∃ t, exec c s = .next t) ∧
  (∀ (ppm : Option Int) (s : State), ∀ c ∈ [Instr.vcxoCheck ppm], ∃ t, exec c s = .next t) ∧
  (∀ (readings : List Nat) (floorUs : Nat) (s : State), ∀ c ∈ [Instr.throttleRelease readings floorUs], ∃ t, exec c s = .next
    t) ∧
  (∀ (up : Bool) (speed : Nat) (width : Nat) (s : State), ∀ c ∈ [Instr.pcieLinkChange up speed width], ∃ t, exec c s = .next
    t) ∧
  (∀ (bme : Bool) (msixEn : Bool) (fmask : Bool) (d3hot : Bool) (s : State), ∀ c ∈ [Instr.pcieConfigWrite bme msixEn fmask
    d3hot], ∃ t, exec c s = .next t) ∧
  ∀ (c : Instr) (s : State), (∃ t, exec c s = .next t) ∨
    ∃ sensor mv, c = .throttleTrip sensor mv ∧ mv < 660 ∧ exec c s = .fault .supplyBelowMinimum

/-- The frame of every command of the table: whatever the state, a command that completes changes no part of the state
outside the parts that `partsOf` lists for it, keeps the stores canonical, uses free values in order, and takes back nothing
that has left the chip. -/
def Obligations.CommandFrames : Prop :=
  ∀ (c : Instr) (s t : State), exec c s = .next t → Keeps (partsOf c) s t ∧ t.pending = s.pending

/-- An invariant of every step: the registers, the values in force and the memory stay in canonical form, and a Churn switch
names channels that exist. -/
def Obligations.StepKeepsInvariant : Prop :=
  ∀ s t : State, s.Canonical → s.SwitchOk → step s = .next t → t.Canonical ∧ t.SwitchOk
end

