-- ==== Sys2Proof/Decode.lean ====
section
/-! DEFINITION. The command a word spells by the bits of the table of operations and events: the table gives no row bits,
so no word spells a command (log entry 1). -/
namespace Sys2Proof

/-- The command that the low `nbits` bits of `w` spell: none. -/
def decodeTableWord (_nbits _w : Nat) : Option Instr := none

end Sys2Proof
end

