-- ==== Sys2Proof/Laws/Sparse.lean ====
section
/-! SUPPORT. Sparse stores: reading after writing, and the canonical form under every operation. -/
namespace Sys2Proof.Machine

variable {α : Type} {dflt : Nat → α}

/-- Erasing `k` leaves the default at `k` and every other key as it was. -/
theorem sparseGet_erase (l : List (Nat × α)) (k j : Nat) :
    sparseGet dflt (sparseErase l k) j = if j = k then dflt k else sparseGet dflt l j := by
  induction l with
  | nil => simp only [sparseErase, sparseGet]; split <;> simp_all
  | cons e t ih =>
    obtain ⟨a, v⟩ := e
    by_cases h : a = k
    · simp only [sparseErase, h, if_true, ih, sparseGet]
      split <;> simp_all [eq_comm]
    · simp only [sparseErase, h, if_false, sparseGet, ih]
      split <;> simp_all

/-- Inserting a key that is not listed. -/
theorem sparseGet_insert (l : List (Nat × α)) (k j : Nat) (v : α) (hk : ∀ e ∈ l, e.1 ≠ k) :
    sparseGet dflt (sparseInsert l k v) j = if j = k then v else sparseGet dflt l j := by
  induction l with
  | nil => simp only [sparseInsert, sparseGet]; split <;> simp_all [eq_comm]
  | cons e t ih =>
    obtain ⟨a, w⟩ := e
    have ha : a ≠ k := hk (a, w) (by simp)
    have ih' := ih fun e he => hk e (by simp [he])
    by_cases h : k < a
    · simp only [sparseInsert, h, if_true, sparseGet]
      by_cases hj : k = j
      · rw [if_pos hj, if_pos hj.symm]
      · rw [if_neg hj, if_neg (c := j = k) fun e => hj e.symm]
    · simp only [sparseInsert, h, if_false, sparseGet, ih']
      split <;> simp_all

theorem mem_sparseErase {l : List (Nat × α)} {k : Nat} {e : Nat × α} (h : e ∈ sparseErase l k) : e ∈ l ∧ e.1 ≠ k := by
  induction l with
  | nil => simp [sparseErase] at h
  | cons x t ih =>
    simp only [sparseErase] at h
    split at h
    · exact ⟨by simp [(ih h).1], (ih h).2⟩
    · rcases List.mem_cons.1 h with rfl | h
      · exact ⟨by simp, by assumption⟩
      · exact ⟨by simp [(ih h).1], (ih h).2⟩

theorem mem_sparseInsert {l : List (Nat × α)} {k : Nat} {v : α} {e : Nat × α} (h : e ∈ sparseInsert l k v) :
    e = (k, v) ∨ e ∈ l := by
  induction l with
  | nil => simpa [sparseInsert] using h
  | cons x t ih =>
    simp only [sparseInsert] at h
    split at h
    · simpa using h
    · rcases List.mem_cons.1 h with rfl | h
      · simp
      · rcases ih h with h | h <;> simp [h]

/-- READ AFTER WRITE: the written key reads `v`, every other key as before. -/
theorem sparseGet_set [DecidableEq α] (l : List (Nat × α)) (k j : Nat) (v : α) :
    sparseGet dflt (sparseSet dflt l k v) j = if j = k then v else sparseGet dflt l j := by
  unfold sparseSet
  split
  · rw [sparseGet_erase]; simp_all
  · rw [sparseGet_insert _ _ _ _ fun e he => (mem_sparseErase he).2, sparseGet_erase]
    split <;> simp_all

theorem sparseErase_wf {l : List (Nat × α)} (h : SparseWf dflt l) (k : Nat) : SparseWf dflt (sparseErase l k) := by
  refine ⟨?_, fun e he => h.2 e (mem_sparseErase he).1⟩
  have := h.1
  clear h
  induction l with
  | nil => simp [sparseErase]
  | cons x t ih =>
    simp only [sparseErase]
    rw [List.pairwise_cons] at this
    split
    · exact ih this.2
    · exact List.pairwise_cons.2 ⟨fun e he => this.1 e (mem_sparseErase he).1, ih this.2⟩

theorem sparseInsert_wf {l : List (Nat × α)} (h : SparseWf dflt l) {k : Nat} {v : α} (hk : ∀ e ∈ l, e.1 ≠ k)
    (hv : v ≠ dflt k) : SparseWf dflt (sparseInsert l k v) := by
  refine ⟨?_, fun e he => ?_⟩
  · have := h.1
    clear h
    induction l with
    | nil => simp [sparseInsert]
    | cons x t ih =>
      obtain ⟨a, w⟩ := x
      rw [List.pairwise_cons] at this
      simp only [sparseInsert]
      have ha : a ≠ k := hk (a, w) (by simp)
      split
      · rename_i hlt
        refine List.pairwise_cons.2 ⟨fun e he => ?_, List.pairwise_cons.2 this⟩
        rcases List.mem_cons.1 he with rfl | he
        · exact hlt
        · exact Nat.lt_trans hlt (this.1 e he)
      · refine List.pairwise_cons.2 ⟨fun e he => ?_, ih (fun e he => hk e (by simp [he])) this.2⟩
        rcases mem_sparseInsert he with rfl | he
        · simp only; omega
        · exact this.1 e he
  · rcases mem_sparseInsert he with rfl | he
    · exact hv
    · exact h.2 e he

/-- Writing keeps the canonical form. -/
theorem sparseSet_wf [DecidableEq α] {l : List (Nat × α)} (h : SparseWf dflt l) (k : Nat) (v : α) :
    SparseWf dflt (sparseSet dflt l k v) := by
  unfold sparseSet
  split
  · exact sparseErase_wf h k
  · exact sparseInsert_wf (sparseErase_wf h k) (fun e he => (mem_sparseErase he).2) (by assumption)

/-- Dropping entries keeps the canonical form. -/
theorem sparseFilter_wf {l : List (Nat × α)} (h : SparseWf dflt l) (p : Nat × α → Bool) : SparseWf dflt (l.filter p) :=
  ⟨h.1.filter _, fun e he => h.2 e (List.mem_filter.1 he).1⟩

/-- Dropping entries by key leaves the kept keys as they were and the others at their default. -/
theorem sparseGet_filter (l : List (Nat × α)) (p : Nat → Bool) (j : Nat) :
    sparseGet dflt (l.filter fun e => p e.1) j = if p j then sparseGet dflt l j else dflt j := by
  induction l with
  | nil => simp [sparseGet]
  | cons e t ih =>
    obtain ⟨a, v⟩ := e
    by_cases hp : p a
    · simp only [List.filter_cons, hp, if_true, sparseGet, ih]
      split
      · simp_all
      · rfl
    · simp only [List.filter_cons, hp, sparseGet, Bool.false_eq_true, if_false, ih]
      by_cases ha : a = j
      · rw [if_neg (ha ▸ hp), if_neg (ha ▸ hp)]
      · rw [if_neg ha]

end Sys2Proof.Machine
end

