-- ==== Sys2Proof/Laws/Keeps.lean ====
section
/-! SUPPORT. What `Keeps` says of the plain ways a state is built: one part replaced, a choice, a fold, and the named
operations that write the sparse stores. Every later frame lemma is assembled from these. -/
namespace Sys2Proof.Machine

variable {m : List Part} {s0 s : State}

/-- A state keeps itself. -/
theorem Keeps.refl (m : List Part) (s : State) : Keeps m s s :=
  ⟨fun p _ => by cases p <;> rfl, id, Nat.le_refl _, List.prefix_refl _⟩

/-- A list of parts covers what a covered list covers. -/
theorem covers_trans {m l k : List Part} (hk : covers l k = true) (hl : covers m l = true) : covers m k = true := by
  simp only [covers, List.all_eq_true, List.any_eq_true, decide_eq_true_eq] at *
  intro p hp
  obtain ⟨q, hq, rfl⟩ := hk p hp
  exact hl p hq

/-- Fewer parts kept is a weaker claim. -/
theorem Keeps.mono {m l : List Part} {s t : State} (h : Keeps l s t) (hm : covers m l = true) : Keeps m s t := by
  refine ⟨fun p hp => h.same p ?_, h.canon, h.free, h.out⟩
  cases hc : covers l [p] with
  | false => rfl
  | true => exact absurd (covers_trans hc hm) (by simp [hp])

theorem Keeps.trans {s t u : State} (h : Keeps m s t) (k : Keeps m t u) : Keeps m s u := by
  refine ⟨fun p hp => ?_, k.canon ∘ h.canon, Nat.le_trans h.free k.free, h.out.trans k.out⟩
  have a := h.same p hp
  have b := k.same p hp
  cases p <;> exact b.trans a

/-- Several parts replaced at once. -/
theorem keeps_parts {l : List Part} {t : State} (h : Keeps m s0 s) (hm : covers m l = true)
    (hs : ∀ p, covers l [p] = false → State.same p s t) (hr : t.regs = s.regs) (hl : t.live = s.live) (hmem : t.mem = s.mem)
    (hf : t.free = s.free) (ho : t.out = s.out) : Keeps m s0 t := by
  refine h.trans (Keeps.mono (l := l) ⟨hs, ?_, Nat.le_of_eq hf.symm, ho ▸ List.prefix_refl _⟩ hm)
  intro c
  exact ⟨by rw [hr]; exact c.1, by rw [hl]; exact c.2.1, by rw [hmem]; exact c.2.2⟩

/-- A choice keeps what both sides keep. -/
theorem keeps_ite {β : Type} {P : β → Prop} {c : Prop} [Decidable c] {a b : β} (ha : P a) (hb : P b) :
    P (if c then a else b) := by split <;> assumption

theorem keeps_dite {β : Type} {P : β → Prop} {c : Prop} [Decidable c] {a : c → β} {b : ¬c → β} (ha : ∀ h, P (a h))
    (hb : ∀ h, P (b h)) : P (if h : c then a h else b h) := by split <;> simp_all

/-- A result beside a state. -/
theorem keeps_snd {α β : Type} {P : β → Prop} {a : α} {b : β} (h : P b) : P (a, b).2 := h

theorem keeps_fst {α β : Type} {P : α → Prop} {a : α} {b : β} (h : P a) : P (a, b).1 := h

/-- An outcome chosen by a condition. -/
theorem keeps_eq_ite {β : Type} {c : Prop} [Decidable c] {a b x : β} {G : Prop} (e : (if c then a else b) = x)
    (ha : a = x → G) (hb : b = x → G) : G := by
  split at e
  · exact ha e
  · exact hb e

/-- What a result holds, its value once named. -/
theorem keeps_of_eq {β : Type} {P : β → Prop} {x y : β} (e : x = y) (h : P x) : P y := e ▸ h

/-- A fold keeps what its step keeps. -/
theorem keeps_foldl {α β : Type} {P : β → Prop} {f : β → α → β} {l : List α} {b : β} (hb : P b)
    (hf : ∀ b a, P b → P (f b a)) : P (l.foldl f b) := by
  induction l generalizing b with
  | nil => exact hb
  | cons a t ih => exact ih (hf b a hb)

theorem keeps_getD {β : Type} {P : β → Prop} {o : Option β} {d : β} (ho : ∀ t, o = some t → P t) (hd : P d) :
    P (o.getD d) := by
  cases o with
  | none => exact hd
  | some t => exact ho t rfl

/-- What a command's meaning keeps, on a state that is kept so far. -/
theorem State.done_keeps {P : List Part} (h : Keeps m s0 s) (hm : covers m P = true)
    (o : Host.Outcome State Fault Refusal) (ho : ∀ t, o = .next t → Keeps P s t) : Keeps m s0 (s.done o) := by
  cases o with
  | next t => exact h.trans ((ho t rfl).mono hm)
  | fault _ => exact h
  | refused _ => exact h

theorem State.when_keeps (h : Keeps m s0 s) (c : Bool) (f : State → State)
    (hf : ∀ t, Keeps m s0 t → Keeps m s0 (f t)) : Keeps m s0 (s.when c f) := by
  unfold State.when
  split
  · exact hf s h
  · exact h

theorem keeps_pend (h : Keeps m s0 s) (hm : covers m [.pend] = true) {x} : Keeps m s0 { s with pend := x } := by
  refine ⟨fun p hp => ?_, h.canon, h.free, h.out⟩
  have := h.same p hp
  cases p <;> first | exact this | simp [hm] at hp

theorem keeps_eng (h : Keeps m s0 s) (hm : covers m [.eng] = true) {x} : Keeps m s0 { s with eng := x } := by
  refine ⟨fun p hp => ?_, h.canon, h.free, h.out⟩
  have := h.same p hp
  cases p <;> first | exact this | simp [hm] at hp

theorem keeps_xrd (h : Keeps m s0 s) (hm : covers m [.xrd] = true) {x} : Keeps m s0 { s with xrd := x } := by
  refine ⟨fun p hp => ?_, h.canon, h.free, h.out⟩
  have := h.same p hp
  cases p <;> first | exact this | simp [hm] at hp

theorem keeps_scn (h : Keeps m s0 s) (hm : covers m [.scn] = true) {x} : Keeps m s0 { s with scn := x } := by
  refine ⟨fun p hp => ?_, h.canon, h.free, h.out⟩
  have := h.same p hp
  cases p <;> first | exact this | simp [hm] at hp

theorem keeps_chn (h : Keeps m s0 s) (hm : covers m [.chn] = true) {x} : Keeps m s0 { s with chn := x } := by
  refine ⟨fun p hp => ?_, h.canon, h.free, h.out⟩
  have := h.same p hp
  cases p <;> first | exact this | simp [hm] at hp

theorem keeps_fab (h : Keeps m s0 s) (hm : covers m [.fab] = true) {x} : Keeps m s0 { s with fab := x } := by
  refine ⟨fun p hp => ?_, h.canon, h.free, h.out⟩
  have := h.same p hp
  cases p <;> first | exact this | simp [hm] at hp

theorem keeps_dma (h : Keeps m s0 s) (hm : covers m [.dma] = true) {x} : Keeps m s0 { s with dma := x } := by
  refine ⟨fun p hp => ?_, h.canon, h.free, h.out⟩
  have := h.same p hp
  cases p <;> first | exact this | simp [hm] at hp

theorem keeps_que (h : Keeps m s0 s) (hm : covers m [.que] = true) {x} : Keeps m s0 { s with que := x } := by
  refine ⟨fun p hp => ?_, h.canon, h.free, h.out⟩
  have := h.same p hp
  cases p <;> first | exact this | simp [hm] at hp

theorem keeps_host (h : Keeps m s0 s) (hm : covers m [.host] = true) {x} : Keeps m s0 { s with host := x } := by
  refine ⟨fun p hp => ?_, h.canon, h.free, h.out⟩
  have := h.same p hp
  cases p <;> first | exact this | simp [hm] at hp

theorem keeps_mil (h : Keeps m s0 s) (hm : covers m [.mil] = true) {x} : Keeps m s0 { s with mil := x } := by
  refine ⟨fun p hp => ?_, h.canon, h.free, h.out⟩
  have := h.same p hp
  cases p <;> first | exact this | simp [hm] at hp

theorem keeps_net (h : Keeps m s0 s) (hm : covers m [.net] = true) {x} : Keeps m s0 { s with net := x } := by
  refine ⟨fun p hp => ?_, h.canon, h.free, h.out⟩
  have := h.same p hp
  cases p <;> first | exact this | simp [hm] at hp

theorem keeps_ports (h : Keeps m s0 s) (hm : covers m [.ports] = true) {x} : Keeps m s0 { s with ports := x } := by
  refine ⟨fun p hp => ?_, h.canon, h.free, h.out⟩
  have := h.same p hp
  cases p <;> first | exact this | simp [hm] at hp

theorem keeps_stp (h : Keeps m s0 s) (hm : covers m [.stp] = true) {x} : Keeps m s0 { s with stp := x } := by
  refine ⟨fun p hp => ?_, h.canon, h.free, h.out⟩
  have := h.same p hp
  cases p <;> first | exact this | simp [hm] at hp

theorem keeps_nbr (h : Keeps m s0 s) (hm : covers m [.nbr] = true) {x} : Keeps m s0 { s with nbr := x } := by
  refine ⟨fun p hp => ?_, h.canon, h.free, h.out⟩
  have := h.same p hp
  cases p <;> first | exact this | simp [hm] at hp

theorem keeps_modes (h : Keeps m s0 s) (hm : covers m [.modes] = true) {x} : Keeps m s0 { s with modes := x } := by
  refine ⟨fun p hp => ?_, h.canon, h.free, h.out⟩
  have := h.same p hp
  cases p <;> first | exact this | simp [hm] at hp

theorem keeps_memx (h : Keeps m s0 s) (hm : covers m [.memx] = true) {x} : Keeps m s0 { s with memx := x } := by
  refine ⟨fun p hp => ?_, h.canon, h.free, h.out⟩
  have := h.same p hp
  cases p <;> first | exact this | simp [hm] at hp

theorem keeps_boot (h : Keeps m s0 s) (hm : covers m [.boot] = true) {x} : Keeps m s0 { s with boot := x } := by
  refine ⟨fun p hp => ?_, h.canon, h.free, h.out⟩
  have := h.same p hp
  cases p <;> first | exact this | simp [hm] at hp

theorem keeps_flt (h : Keeps m s0 s) (hm : covers m [.flt] = true) {x} : Keeps m s0 { s with flt := x } := by
  refine ⟨fun p hp => ?_, h.canon, h.free, h.out⟩
  have := h.same p hp
  cases p <;> first | exact this | simp [hm] at hp

theorem keeps_resp (h : Keeps m s0 s) (hm : covers m [.resp] = true) {x} : Keeps m s0 { s with resp := x } := by
  refine ⟨fun p hp => ?_, h.canon, h.free, h.out⟩
  have := h.same p hp
  cases p <;> first | exact this | simp [hm] at hp

theorem keeps_pending (h : Keeps m s0 s) (hm : covers m [.pending] = true) {x} : Keeps m s0 { s with pending := x } := by
  refine ⟨fun p hp => ?_, h.canon, h.free, h.out⟩
  have := h.same p hp
  cases p <;> first | exact this | simp [hm] at hp

theorem keeps_regs (h : Keeps m s0 s) (hm : covers m [.regs] = true) {x} (hx : SparseWf regReset s.regs → SparseWf regReset x) :
    Keeps m s0 { s with regs := x } := by
  refine ⟨fun p hp => ?_, fun c => ⟨hx (h.canon c).1, (h.canon c).2⟩, h.free, h.out⟩
  have := h.same p hp
  cases p <;> first | exact this | simp [hm] at hp

theorem keeps_live (h : Keeps m s0 s) (hm : covers m [.live] = true) {x} (hx : SparseWf regReset s.live → SparseWf regReset x) :
    Keeps m s0 { s with live := x } := by
  refine ⟨fun p hp => ?_, fun c => ⟨(h.canon c).1, hx (h.canon c).2.1, (h.canon c).2.2⟩, h.free, h.out⟩
  have := h.same p hp
  cases p <;> first | exact this | simp [hm] at hp

theorem keeps_mem (h : Keeps m s0 s) (hm : covers m [.mem] = true) {x} (hx : MemoryWf s.mem → MemoryWf x) :
    Keeps m s0 { s with mem := x } := by
  refine ⟨fun p hp => ?_, fun c => ⟨(h.canon c).1, (h.canon c).2.1, hx (h.canon c).2.2⟩, h.free, h.out⟩
  have := h.same p hp
  cases p <;> first | exact this | simp [hm] at hp

theorem State.setReg_keeps (h : Keeps m s0 s) (hm : covers m [.regs] = true) : ∀ k v, Keeps m s0 (s.setReg k v) :=
  fun k v => keeps_regs h hm fun c => sparseSet_wf c k v

theorem State.setLive_keeps (h : Keeps m s0 s) (hm : covers m [.live] = true) : ∀ k v, Keeps m s0 (s.setLive k v) :=
  fun k v => keeps_live h hm fun c => sparseSet_wf c k v

theorem State.setByte_keeps (h : Keeps m s0 s) (hm : covers m [.mem] = true) : ∀ a b, Keeps m s0 (s.setByte a b) :=
  fun a b => keeps_mem h hm fun c => sparseSet_wf c a b

theorem State.setBytes_keeps (h : Keeps m s0 s) (hm : covers m [.mem] = true) : ∀ a l, Keeps m s0 (s.setBytes a l) := by
  intro a l
  induction l generalizing s a with
  | nil => exact h
  | cons b t ih => exact ih (State.setByte_keeps h hm a b) (a + 1)

theorem State.emit_keeps (h : Keeps m s0 s) (hm : covers m [.out] = true) : ∀ o, Keeps m s0 (s.emit o) := by
  intro o
  refine ⟨fun p hp => ?_, h.canon, h.free, h.out.trans (List.prefix_append _ _)⟩
  have := h.same p hp
  cases p <;> first | exact this | simp [hm] at hp

theorem State.useFree_keeps (h : Keeps m s0 s) (hm : covers m [.free] = true) : ∀ k, Keeps m s0 (s.useFree k) := by
  intro k
  refine ⟨fun p hp => ?_, h.canon, Nat.le_trans h.free (Nat.le_add_right _ _), h.out⟩
  have := h.same p hp
  cases p <;> first | exact this | simp [hm] at hp

end Sys2Proof.Machine
end

