-- ==== Sys2Proof/Laws/KeepsOps.lean ====
section
/-! SUPPORT. What each function of Machine/Ops.lean keeps: the parts of the state it can change, the canonical form of the stores,
the order of free values and outputs. One lemma per function, assembled from those of the functions it calls. -/
namespace Sys2Proof.Machine

variable {m : List Part} {s0 s : State}

theorem State.wr_keeps (h : Keeps m s0 s) (hm : covers m [.regs] = true) : ∀ a1 a2 a3 a4, Keeps m s0 (State.wr s a1 a2 a3 a4) := by
  intro a1 a2 a3 a4
  unfold State.wr
  exact (State.setReg_keeps h (covers_trans (by decide) hm) _ _)

theorem State.wrBoth_keeps (h : Keeps m s0 s) (hm : covers m [.regs, .live] = true) : ∀ a1 a2 a3 a4, Keeps m s0 (State.wrBoth s a1 a2 a3 a4) := by
  intro a1 a2 a3 a4
  unfold State.wrBoth
  exact (State.setLive_keeps (State.wr_keeps h (covers_trans (by decide) hm) _ _ _ _) (covers_trans (by decide) hm) _ _)

theorem State.bump_keeps (h : Keeps m s0 s) (hm : covers m [.regs] = true) : ∀ a1 a2 a3 a4, Keeps m s0 (State.bump s a1 a2 a3 a4) := by
  intro a1 a2 a3 a4
  unfold State.bump
  exact (State.wr_keeps h (covers_trans (by decide) hm) _ _ _ _)

theorem State.peak_keeps (h : Keeps m s0 s) (hm : covers m [.regs] = true) : ∀ a1 a2 a3 a4, Keeps m s0 (State.peak s a1 a2 a3 a4) := by
  intro a1 a2 a3 a4
  unfold State.peak
  exact (State.wr_keeps h (covers_trans (by decide) hm) _ _ _ _)

theorem State.modEng_keeps (h : Keeps m s0 s) (hm : covers m [.eng] = true) : ∀ a1, Keeps m s0 (State.modEng s a1) := by
  intro a1
  unfold State.modEng
  exact (keeps_eng h (covers_trans (by decide) hm))

theorem State.modXrd_keeps (h : Keeps m s0 s) (hm : covers m [.xrd] = true) : ∀ a1, Keeps m s0 (State.modXrd s a1) := by
  intro a1
  unfold State.modXrd
  exact (keeps_xrd h (covers_trans (by decide) hm))

theorem State.modScn_keeps (h : Keeps m s0 s) (hm : covers m [.scn] = true) : ∀ a1, Keeps m s0 (State.modScn s a1) := by
  intro a1
  unfold State.modScn
  exact (keeps_scn h (covers_trans (by decide) hm))

theorem State.modChn_keeps (h : Keeps m s0 s) (hm : covers m [.chn] = true) : ∀ a1, Keeps m s0 (State.modChn s a1) := by
  intro a1
  unfold State.modChn
  exact (keeps_chn h (covers_trans (by decide) hm))

theorem State.modFab_keeps (h : Keeps m s0 s) (hm : covers m [.fab] = true) : ∀ a1, Keeps m s0 (State.modFab s a1) := by
  intro a1
  unfold State.modFab
  exact (keeps_fab h (covers_trans (by decide) hm))

theorem State.modQue_keeps (h : Keeps m s0 s) (hm : covers m [.que] = true) : ∀ a1, Keeps m s0 (State.modQue s a1) := by
  intro a1
  unfold State.modQue
  exact (keeps_que h (covers_trans (by decide) hm))

theorem State.modHost_keeps (h : Keeps m s0 s) (hm : covers m [.host] = true) : ∀ a1, Keeps m s0 (State.modHost s a1) := by
  intro a1
  unfold State.modHost
  exact (keeps_host h (covers_trans (by decide) hm))

theorem State.modMil_keeps (h : Keeps m s0 s) (hm : covers m [.mil] = true) : ∀ a1, Keeps m s0 (State.modMil s a1) := by
  intro a1
  unfold State.modMil
  exact (keeps_mil h (covers_trans (by decide) hm))

theorem State.modNet_keeps (h : Keeps m s0 s) (hm : covers m [.net] = true) : ∀ a1, Keeps m s0 (State.modNet s a1) := by
  intro a1
  unfold State.modNet
  exact (keeps_net h (covers_trans (by decide) hm))

theorem State.modStp_keeps (h : Keeps m s0 s) (hm : covers m [.stp] = true) : ∀ a1, Keeps m s0 (State.modStp s a1) := by
  intro a1
  unfold State.modStp
  exact (keeps_stp h (covers_trans (by decide) hm))

theorem State.modNbr_keeps (h : Keeps m s0 s) (hm : covers m [.nbr] = true) : ∀ a1, Keeps m s0 (State.modNbr s a1) := by
  intro a1
  unfold State.modNbr
  exact (keeps_nbr h (covers_trans (by decide) hm))

theorem State.modModes_keeps (h : Keeps m s0 s) (hm : covers m [.modes] = true) : ∀ a1, Keeps m s0 (State.modModes s a1) := by
  intro a1
  unfold State.modModes
  exact (keeps_modes h (covers_trans (by decide) hm))

theorem State.modMemx_keeps (h : Keeps m s0 s) (hm : covers m [.memx] = true) : ∀ a1, Keeps m s0 (State.modMemx s a1) := by
  intro a1
  unfold State.modMemx
  exact (keeps_memx h (covers_trans (by decide) hm))

theorem State.modBoot_keeps (h : Keeps m s0 s) (hm : covers m [.boot] = true) : ∀ a1, Keeps m s0 (State.modBoot s a1) := by
  intro a1
  unfold State.modBoot
  exact (keeps_boot h (covers_trans (by decide) hm))

theorem State.modFlt_keeps (h : Keeps m s0 s) (hm : covers m [.flt] = true) : ∀ a1, Keeps m s0 (State.modFlt s a1) := by
  intro a1
  unfold State.modFlt
  exact (keeps_flt h (covers_trans (by decide) hm))

theorem State.respond_keeps (h : Keeps m s0 s) (hm : covers m [.resp] = true) : ∀ a1 a2 a3, Keeps m s0 (State.respond s a1 a2 a3) := by
  intro a1 a2 a3
  unfold State.respond
  exact (keeps_resp h (covers_trans (by decide) hm))

theorem State.setQueue_keeps (h : Keeps m s0 s) (hm : covers m [.que] = true) : ∀ a1 a2, Keeps m s0 (State.setQueue s a1 a2) := by
  intro a1 a2
  unfold State.setQueue
  exact (keeps_que h (covers_trans (by decide) hm))

theorem State.sendVector_keeps (h : Keeps m s0 s) (hm : covers m [.regs, .host, .out] = true) : ∀ a1, Keeps m s0 (State.sendVector s a1) := by
  intro a1
  unfold State.sendVector
  refine keeps_ite (P := fun z => Keeps m s0 z) ?_ ?_
  · exact (keeps_host h (covers_trans (by decide) hm))
  · exact (State.emit_keeps (State.bump_keeps (keeps_host h (covers_trans (by decide) hm)) (covers_trans (by decide) hm) _ _ _ _) (covers_trans (by decide) hm) _)

theorem State.settleVectors_keeps (h : Keeps m s0 s) (hm : covers m [.regs, .host, .out] = true) : ∀ a1 a2, Keeps m s0 (State.settleVectors s a1 a2) := by
  intro a1 a2
  unfold State.settleVectors
  refine keeps_ite (P := fun z => Keeps m s0 z) ?_ ?_
  · refine keeps_foldl (P := fun z => Keeps m s0 z) ?_ fun _ _ h0 => ?_
    · exact h
    · refine keeps_ite (P := fun z => Keeps m s0 z) ?_ ?_
      · exact (State.sendVector_keeps h0 (covers_trans (by decide) hm) _)
      · refine keeps_ite (P := fun z => Keeps m s0 z) ?_ ?_
        · exact (keeps_host h0 (covers_trans (by decide) hm))
        · exact h0
  · exact h

theorem State.raiseMask_keeps (h : Keeps m s0 s) (hm : covers m [.regs, .host, .out] = true) : ∀ a1 a2, Keeps m s0 (State.raiseMask s a1 a2) := by
  intro a1 a2
  unfold State.raiseMask
  exact (State.settleVectors_keeps (State.setReg_keeps h (covers_trans (by decide) hm) _ _) (covers_trans (by decide) hm) _ _)

theorem State.raise_keeps (h : Keeps m s0 s) (hm : covers m [.regs, .host, .out] = true) : ∀ a1 a2, Keeps m s0 (State.raise s a1 a2) := by
  intro a1 a2
  unfold State.raise
  exact (State.raiseMask_keeps h (covers_trans (by decide) hm) _ _)

theorem State.clearRaw_keeps (h : Keeps m s0 s) (hm : covers m [.regs, .host, .out] = true) : ∀ a1 a2, Keeps m s0 (State.clearRaw s a1 a2) := by
  intro a1 a2
  unfold State.clearRaw
  exact (State.settleVectors_keeps (State.setReg_keeps h (covers_trans (by decide) hm) _ _) (covers_trans (by decide) hm) _ _)

theorem State.store_keeps (h : Keeps m s0 s) (hm : covers m [.mem] = true) : ∀ a1 a2 a3, Keeps m s0 (State.store s a1 a2 a3) := by
  intro a1 a2 a3
  unfold State.store
  exact (State.setBytes_keeps h (covers_trans (by decide) hm) _ _)

theorem State.markLate_keeps (h : Keeps m s0 s) (hm : covers m [.regs, .host, .out] = true) : Keeps m s0 (State.markLate s) := by
  unfold State.markLate
  exact (State.raise_keeps (State.bump_keeps h (covers_trans (by decide) hm) _ _ _ _) (covers_trans (by decide) hm) _ _)

theorem State.emitDreba_keeps (h : Keeps m s0 s) (hm : covers m [.out] = true) : ∀ a1 a2 a3, Keeps m s0 (State.emitDreba s a1 a2 a3) := by
  intro a1 a2 a3
  unfold State.emitDreba
  exact (State.emit_keeps h (covers_trans (by decide) hm) _)

theorem State.nbrSend_keeps (h : Keeps m s0 s) (hm : covers m [.nbr, .out] = true) : ∀ a1 a2, Keeps m s0 (State.nbrSend s a1 a2) := by
  intro a1 a2
  unfold State.nbrSend
  refine keeps_ite (P := fun z => Keeps m s0 z) ?_ ?_
  · extract_lets -merge -underBinder x0
    exact (State.emit_keeps (keeps_nbr h (covers_trans (by decide) hm)) (covers_trans (by decide) hm) _)
  · exact h

theorem State.touch_keeps (h : Keeps m s0 s) (hm : covers m [.nbr] = true) : ∀ a1 a2, Keeps m s0 (State.touch s a1 a2) := by
  intro a1 a2
  unfold State.touch
  extract_lets -merge -underBinder x0 x1
  exact (keeps_nbr h (covers_trans (by decide) hm))

theorem State.engineWrite_keeps (h : Keeps m s0 s) (hm : covers m [.nbr, .out] = true) : ∀ a1 a2, Keeps m s0 (State.engineWrite s a1 a2) := by
  intro a1 a2
  unfold State.engineWrite
  refine keeps_ite (P := fun z => Keeps m s0 z) ?_ ?_
  · exact h
  · extract_lets -merge -underBinder x0 x1 x2 x3 x4 x5 x6 x7
    have hx6 : Keeps m s0 x6 := (State.touch_keeps (keeps_nbr h (covers_trans (by decide) hm)) (covers_trans (by decide) hm) _ _)
    have hx7 : Keeps m s0 x7 := by
      subst x7
      refine keeps_ite (P := fun z => Keeps m s0 z) ?_ ?_
      · exact (State.nbrSend_keeps hx6 (covers_trans (by decide) hm) _ _)
      · exact hx6
    try clear_value x7
    try clear_value x6
    refine keeps_ite (P := fun z => Keeps m s0 z) ?_ ?_
    · refine keeps_ite (P := fun z => Keeps m s0 z) ?_ ?_
      · exact (State.nbrSend_keeps hx7 (covers_trans (by decide) hm) _ _)
      · exact hx7
    · exact hx6

theorem State.engineBytes_keeps (h : Keeps m s0 s) (hm : covers m [.mem, .nbr, .out] = true) : ∀ a1 a2, Keeps m s0 (State.engineBytes s a1 a2) := by
  intro a1 a2
  unfold State.engineBytes
  refine keeps_ite (P := fun z => Keeps m s0 z) ?_ ?_
  · exact h
  · exact (State.engineWrite_keeps (State.setBytes_keeps h (covers_trans (by decide) hm) _ _) (covers_trans (by decide) hm) _ _)

theorem State.putBlock_keeps (h : Keeps m s0 s) (hm : covers m [.mem, .eng, .nbr, .out] = true) : ∀ a1 a2 a3 a4, Keeps m s0 (State.putBlock s a1 a2 a3 a4) := by
  intro a1 a2 a3 a4
  unfold State.putBlock
  exact (State.engineBytes_keeps (keeps_eng h (covers_trans (by decide) hm)) (covers_trans (by decide) hm) _ _)

theorem State.putSource_keeps (h : Keeps m s0 s) (hm : covers m [.mem, .eng, .nbr, .out] = true) : ∀ a1 a2 a3 a4 a5 a6, Keeps m s0 (State.putSource s a1 a2 a3 a4 a5 a6) := by
  intro a1 a2 a3 a4 a5 a6
  unfold State.putSource
  exact (State.putBlock_keeps h (covers_trans (by decide) hm) _ _ _ _)

theorem State.eccNote_keeps (h : Keeps m s0 s) (hm : covers m [.regs, .host, .memx, .out] = true) : ∀ a1, Keeps m s0 (State.eccNote s a1) := by
  intro a1
  unfold State.eccNote
  extract_lets -merge -underBinder x0 x1 x2 x3
  have hx0 : Keeps m s0 x0 := (State.wr_keeps (State.wr_keeps (State.bump_keeps h (covers_trans (by decide) hm) _ _ _ _) (covers_trans (by decide) hm) _ _ _ _) (covers_trans (by decide) hm) _ _ _ _)
  have hx1 : Keeps m s0 x1 := (State.raise_keeps hx0 (covers_trans (by decide) hm) _ _)
  try clear_value x1
  try clear_value x0
  exact (keeps_memx hx1 (covers_trans (by decide) hm))

theorem State.putOutput_keeps (h : Keeps m s0 s) (hm : covers m [.mem, .eng, .nbr, .out] = true) : ∀ a1 a2 a3 a4 a5, Keeps m s0 (State.putOutput s a1 a2 a3 a4 a5) := by
  intro a1 a2 a3 a4 a5
  unfold State.putOutput
  extract_lets -merge -underBinder x0
  exact (State.putSource_keeps h (covers_trans (by decide) hm) _ _ _ _ _ _)

theorem State.putIngress_keeps (h : Keeps m s0 s) (hm : covers m [.mem, .eng, .nbr, .out] = true) : ∀ a1 a2 a3 a4, Keeps m s0 (State.putIngress s a1 a2 a3 a4) := by
  intro a1 a2 a3 a4
  unfold State.putIngress
  exact (State.putSource_keeps h (covers_trans (by decide) hm) _ _ _ _ _ _)

theorem State.setSubst_keeps (h : Keeps m s0 s) (hm : covers m [.mil] = true) : ∀ a1 a2, Keeps m s0 (State.setSubst s a1 a2) := by
  intro a1 a2
  unfold State.setSubst
  exact (keeps_mil h (covers_trans (by decide) hm))

theorem State.substitute_keeps (h : Keeps m s0 s) (hm : covers m [.mil] = true) : ∀ a1 a2, Keeps m s0 (State.substitute s a1 a2).2 := by
  intro a1 a2
  unfold State.substitute
  exact (keeps_snd (P := fun z => Keeps m s0 z) (State.setSubst_keeps h (covers_trans (by decide) hm) _ _))

theorem State.goodBlock_keeps (h : Keeps m s0 s) (hm : covers m [.mil] = true) : ∀ a1 a2, Keeps m s0 (State.goodBlock s a1 a2).2 := by
  intro a1 a2
  unfold State.goodBlock
  split
  · exact (keeps_snd (P := fun z => Keeps m s0 z) h)
  · exact (keeps_snd (P := fun z => Keeps m s0 z) (State.setSubst_keeps h (covers_trans (by decide) hm) _ _))
  · exact (keeps_snd (P := fun z => Keeps m s0 z) (State.setSubst_keeps h (covers_trans (by decide) hm) _ _))

end Sys2Proof.Machine
end

