-- ==== Sys2Proof/Laws/KeepsCrossroads.lean ====
section
/-! SUPPORT. What each function of Machine/Crossroads.lean keeps: the parts of the state it can change, the canonical form of the stores,
the order of free values and outputs. One lemma per function, assembled from those of the functions it calls. -/
namespace Sys2Proof.Machine

variable {m : List Part} {s0 s : State}

theorem State.setDest_keeps (h : Keeps m s0 s) (hm : covers m [.xrd] = true) : ∀ a1 a2, Keeps m s0 (State.setDest s a1 a2) := by
  intro a1 a2
  unfold State.setDest
  exact (keeps_xrd h (covers_trans (by decide) hm))

theorem State.advanceRoute_keeps (h : Keeps m s0 s) (hm : covers m [.regs, .xrd] = true) : ∀ a1, Keeps m s0 (State.advanceRoute s a1) := by
  intro a1
  unfold State.advanceRoute
  refine keeps_ite (P := fun z => Keeps m s0 z) ?_ ?_
  · exact h
  · extract_lets -merge -underBinder x0 x1
    have hx1 : Keeps m s0 x1 := (keeps_xrd h (covers_trans (by decide) hm))
    try clear_value x1
    exact (State.wr_keeps hx1 (covers_trans (by decide) hm) _ _ _ _)

theorem State.countDeferral_keeps (h : Keeps m s0 s) (hm : covers m [.regs, .host, .out] = true) : ∀ a1 a2, Keeps m s0 (State.countDeferral s a1 a2) := by
  intro a1 a2
  unfold State.countDeferral
  refine State.when_keeps h _ _ fun _ h0 => ?_
  exact (State.raise_keeps (State.bump_keeps h0 (covers_trans (by decide) hm) _ _ _ _) (covers_trans (by decide) hm) _ _)

theorem State.destAdvance_keeps (h : Keeps m s0 s) (hm : covers m [.xrd] = true) : ∀ a1 a2, Keeps m s0 (State.destAdvance s a1 a2) := by
  intro a1 a2
  unfold State.destAdvance
  extract_lets -merge -underBinder x0 x1
  refine keeps_ite (P := fun z => Keeps m s0 z) ?_ ?_
  · exact h
  · exact (State.setDest_keeps h (covers_trans (by decide) hm) _ _)

theorem State.present_keeps (h : Keeps m s0 s) (hm : covers m [.regs, .xrd, .host, .memx, .out] = true) : ∀ a1 a2, Keeps m s0 (State.present s a1 a2).2 := by
  intro a1 a2
  unfold State.present
  extract_lets -merge -underBinder x0 x1 x2
  have hx1 : Keeps m s0 x1 := (State.destAdvance_keeps h (covers_trans (by decide) hm) _ _)
  try clear_value x1
  split
  · refine keeps_snd (P := fun z => Keeps m s0 z) ?_
    exact (State.eccNote_keeps hx1 (covers_trans (by decide) hm) _)
  · extract_lets -merge -underBinder x3 x4 x5 x6
    refine keeps_snd (P := fun z => Keeps m s0 z) ?_
    exact hx1

theorem State.updateGroupRegs_keeps (h : Keeps m s0 s) (hm : covers m [.regs, .host, .out] = true) : Keeps m s0 (State.updateGroupRegs s) := by
  unfold State.updateGroupRegs
  extract_lets -merge -underBinder x0
  refine keeps_foldl (P := fun z => Keeps m s0 z) ?_ fun _ _ h1 => ?_
  · exact h
  · extract_lets -merge -underBinder x2 x3
    refine keeps_ite (P := fun z => Keeps m s0 z) ?_ ?_
    · exact h1
    · exact (State.raise_keeps (State.wr_keeps h1 (covers_trans (by decide) hm) _ _ _ _) (covers_trans (by decide) hm) _ _)

theorem State.applyRoutes_keeps (h : Keeps m s0 s) (hm : covers m [.regs, .xrd, .host, .out] = true) : ∀ a1 a2, Keeps m s0 (State.applyRoutes s a1 a2) := by
  intro a1 a2
  unfold State.applyRoutes
  extract_lets -merge -underBinder x0 x1 x2 x3
  have hx1 : Keeps m s0 x1 := (keeps_xrd h (covers_trans (by decide) hm))
  have hx3 : Keeps m s0 x3 := by
    subst x3
    refine keeps_foldl (P := fun z => Keeps m s0 z) ?_ fun _ _ h4 => ?_
    · exact h
    · extract_lets -merge -underBinder x5 x6 x7 x8 x9 x10
      refine keeps_ite (P := fun z => Keeps m s0 z) ?_ ?_
      · exact h4
      · exact (State.countDeferral_keeps (State.setDest_keeps h4 (covers_trans (by decide) hm) _ _) (covers_trans (by decide) hm) _ _)
  try clear_value x3
  try clear_value x1
  refine (State.updateGroupRegs_keeps ?_ (covers_trans (by decide) hm))
  refine State.when_keeps hx3 _ _ fun _ h11 => ?_
  exact (State.advanceRoute_keeps h11 (covers_trans (by decide) hm) _)

theorem State.beginDeferred_keeps (h : Keeps m s0 s) (hm : covers m [.regs, .xrd, .host, .out] = true) : ∀ a1, Keeps m s0 (State.beginDeferred s a1) := by
  intro a1
  unfold State.beginDeferred
  split
  · exact h
  · exact (State.applyRoutes_keeps (State.setDest_keeps h (covers_trans (by decide) hm) _ _) (covers_trans (by decide) hm) _ _)

theorem State.beginDue_keeps (h : Keeps m s0 s) (hm : covers m [.regs, .xrd, .host, .out] = true) : ∀ e fuel, Keeps m s0 (State.beginDue s e fuel) := by
  intro e fuel
  induction fuel generalizing s with
  | zero => exact h
  | succ n ih =>
    unfold State.beginDue
    split
    · exact h
    · exact ih (State.beginDeferred_keeps h hm _)

theorem State.cutFades_keeps (h : Keeps m s0 s) (hm : covers m [.regs, .xrd, .host, .out] = true) : ∀ a1, Keeps m s0 (State.cutFades s a1) := by
  intro a1
  unfold State.cutFades
  extract_lets -merge -underBinder x0 x1 x2
  have hx0 : Keeps m s0 x0 := (State.beginDue_keeps h (covers_trans (by decide) hm) _ _)
  have hx2 : Keeps m s0 x2 := (keeps_xrd hx0 (covers_trans (by decide) hm))
  try clear_value x2
  try clear_value x0
  exact (State.beginDue_keeps hx2 (covers_trans (by decide) hm) _ _)

theorem State.settledRoutes_keeps (h : Keeps m s0 s) (hm : covers m [.xrd] = true) : Keeps m s0 (State.settledRoutes s) := by
  unfold State.settledRoutes
  exact (keeps_xrd h (covers_trans (by decide) hm))

theorem State.xrdRefuse_keeps (h : Keeps m s0 s) (hm : covers m [.regs, .host, .out] = true) : ∀ a1 a2 a3, Keeps m s0 (State.xrdRefuse s a1 a2 a3) := by
  intro a1 a2 a3
  unfold State.xrdRefuse
  extract_lets -merge -underBinder x0
  have hx0 : Keeps m s0 x0 := by
    subst x0
    refine keeps_ite (P := fun z => Keeps m s0 z) ?_ ?_
    · exact h
    · exact (State.wr_keeps (State.wr_keeps (State.wr_keeps (State.wr_keeps h (covers_trans (by decide) hm) _ _ _ _) (covers_trans (by decide) hm) _ _ _ _) (covers_trans (by decide) hm) _ _ _ _) (covers_trans (by decide) hm) _ _ _ _)
  try clear_value x0
  exact (State.raise_keeps (State.bump_keeps hx0 (covers_trans (by decide) hm) _ _ _ _) (covers_trans (by decide) hm) _ _)

theorem State.loosePatch_keeps (h : Keeps m s0 s) (hm : covers m [.xrd] = true) : ∀ a1 a2, Keeps m s0 (State.loosePatch s a1 a2).2 := by
  intro a1 a2
  unfold State.loosePatch
  extract_lets -merge -underBinder x0 x1 x2
  have hx2 : Keeps m s0 x2 := (State.setDest_keeps h (covers_trans (by decide) hm) _ _)
  try clear_value x2
  refine keeps_snd (P := fun z => Keeps m s0 z) ?_
  exact hx2

theorem State.looseSource_keeps (h : Keeps m s0 s) (hm : covers m [.xrd] = true) : ∀ a1 a2, Keeps m s0 (State.looseSource s a1 a2).2 := by
  intro a1 a2
  unfold State.looseSource
  extract_lets -merge -underBinder x0 x1
  have hx1 : Keeps m s0 x1 := (keeps_xrd h (covers_trans (by decide) hm))
  try clear_value x1
  refine keeps_snd (P := fun z => Keeps m s0 z) ?_
  exact hx1

theorem State.looseGroups_keeps (h : Keeps m s0 s) (hm : covers m [.xrd] = true) : ∀ a1 a2, Keeps m s0 (State.looseGroups s a1 a2).2 := by
  intro a1 a2
  unfold State.looseGroups
  extract_lets -merge -underBinder x0 x1 x2 x3 x4
  have hx2 : Keeps m s0 x2 := (keeps_xrd h (covers_trans (by decide) hm))
  try clear_value x2
  refine keeps_snd (P := fun z => Keeps m s0 z) ?_
  exact hx2

theorem State.looseXrdWord_keeps (h : Keeps m s0 s) (hm : covers m [.xrd] = true) : ∀ a1 a2, Keeps m s0 (State.looseXrdWord s a1 a2).2 := by
  intro a1 a2
  unfold State.looseXrdWord
  extract_lets -merge -underBinder x0 x1 x2 x3
  refine keeps_ite (P := fun (z : Option (Nat × Nat × Nat) × State) => Keeps m s0 z.2) ?_ ?_
  · refine keeps_snd (P := fun z => Keeps m s0 z) ?_
    exact h
  · refine keeps_ite (P := fun (z : Option (Nat × Nat × Nat) × State) => Keeps m s0 z.2) ?_ ?_
    · exact (State.loosePatch_keeps h (covers_trans (by decide) hm) _ _)
    · refine keeps_ite (P := fun (z : Option (Nat × Nat × Nat) × State) => Keeps m s0 z.2) ?_ ?_
      · exact (State.looseSource_keeps h (covers_trans (by decide) hm) _ _)
      · refine keeps_ite (P := fun (z : Option (Nat × Nat × Nat) × State) => Keeps m s0 z.2) ?_ ?_
        · exact (State.looseGroups_keeps h (covers_trans (by decide) hm) _ _)
        · refine keeps_snd (P := fun z => Keeps m s0 z) ?_
          exact h

theorem State.recordCheck_keeps (h : Keeps m s0 s) (hm : covers m [.regs, .host, .out] = true) : ∀ a1, Keeps m s0 (State.recordCheck s a1) := by
  intro a1
  unfold State.recordCheck
  split
  · exact (State.wr_keeps (State.wr_keeps (State.wr_keeps (State.wr_keeps (State.wr_keeps h (covers_trans (by decide) hm) _ _ _ _) (covers_trans (by decide) hm) _ _ _ _) (covers_trans (by decide) hm) _ _ _ _) (covers_trans (by decide) hm) _ _ _ _) (covers_trans (by decide) hm) _ _ _ _)
  · exact (State.raise_keeps (State.wr_keeps (State.wr_keeps (State.wr_keeps (State.wr_keeps (State.wr_keeps h (covers_trans (by decide) hm) _ _ _ _) (covers_trans (by decide) hm) _ _ _ _) (covers_trans (by decide) hm) _ _ _ _) (covers_trans (by decide) hm) _ _ _ _) (covers_trans (by decide) hm) _ _ _ _) (covers_trans (by decide) hm) _ _)

theorem State.endFades_keeps (h : Keeps m s0 s) (hm : covers m [.xrd] = true) : Keeps m s0 (State.endFades s) := by
  unfold State.endFades
  extract_lets -merge -underBinder x0 x1 x2
  have hx1 : Keeps m s0 x1 := (keeps_xrd h (covers_trans (by decide) hm))
  try clear_value x1
  exact (keeps_xrd hx1 (covers_trans (by decide) hm))

theorem State.setGen_keeps (h : Keeps m s0 s) (hm : covers m [.xrd] = true) : ∀ a1 a2, Keeps m s0 (State.setGen s a1 a2) := by
  intro a1 a2
  unfold State.setGen
  exact (keeps_xrd h (covers_trans (by decide) hm))

theorem State.genStart_keeps (h : Keeps m s0 s) (hm : covers m [.xrd] = true) : ∀ a1 a2 a3, Keeps m s0 (State.genStart s a1 a2 a3) := by
  intro a1 a2 a3
  unfold State.genStart
  extract_lets -merge -underBinder x0 x1 x2 x3
  exact (State.setGen_keeps h (covers_trans (by decide) hm) _ _)

theorem State.genBoundary_keeps (h : Keeps m s0 s) (hm : covers m [.xrd] = true) : ∀ a1, Keeps m s0 (State.genBoundary s a1) := by
  intro a1
  unfold State.genBoundary
  extract_lets -merge -underBinder x0 x1 x2 x3 x4 x5 x6
  refine keeps_ite (P := fun z => Keeps m s0 z) ?_ ?_
  · exact h
  · exact (State.setGen_keeps h (covers_trans (by decide) hm) _ _)

theorem State.genBlocks_keeps (h : Keeps m s0 s) (hm : covers m [.mem, .eng, .xrd, .nbr, .out] = true) : ∀ a1, Keeps m s0 (State.genBlocks s a1) := by
  intro a1
  unfold State.genBlocks
  refine keeps_foldl (P := fun z => Keeps m s0 z) ?_ fun _ _ h0 => ?_
  · exact h
  · extract_lets -merge -underBinder x1 x2
    exact (State.putOutput_keeps (State.setGen_keeps h0 (covers_trans (by decide) hm) _ _) (covers_trans (by decide) hm) _ _ _ _ _)

theorem State.meterTap_keeps (h : Keeps m s0 s) (hm : covers m [.mem, .xrd, .nbr, .out] = true) : ∀ a1 a2 a3, Keeps m s0 (State.meterTap s a1 a2 a3) := by
  intro a1 a2 a3
  unfold State.meterTap
  extract_lets -merge -underBinder x0 x1 x2 x3
  exact (State.engineBytes_keeps (keeps_xrd h (covers_trans (by decide) hm)) (covers_trans (by decide) hm) _ _)

theorem State.writeHistory_keeps (h : Keeps m s0 s) (hm : covers m [.mem, .xrd, .nbr, .out] = true) : ∀ a1, Keeps m s0 (State.writeHistory s a1) := by
  intro a1
  unfold State.writeHistory
  refine keeps_foldl (P := fun z => Keeps m s0 z) ?_ fun _ _ h0 => ?_
  · exact h
  · extract_lets -merge -underBinder x1 x2 x3 x4 x5
    have hx5 : Keeps m s0 x5 := (keeps_xrd h0 (covers_trans (by decide) hm))
    try clear_value x5
    refine keeps_ite (P := fun z => Keeps m s0 z) ?_ ?_
    · exact h0
    · exact (State.engineBytes_keeps hx5 (covers_trans (by decide) hm) _ _)

theorem State.routeStage_keeps (h : Keeps m s0 s) (hm : covers m [.regs, .mem, .eng, .xrd, .host, .nbr, .memx, .out] = true) : ∀ a1, Keeps m s0 (State.routeStage s a1) := by
  intro a1
  unfold State.routeStage
  extract_lets -merge -underBinder x0 x1 x2 x3
  have hx2 : Keeps m s0 x2 := (keeps_eng h (covers_trans (by decide) hm))
  have hx3 : Keeps m s0 x3 := by
    subst x3
    refine keeps_foldl (P := fun z => Keeps m s0 z) ?_ fun _ _ h4 => ?_
    · exact hx2
    · refine keeps_ite (P := fun z => Keeps m s0 z) ?_ ?_
      · exact h4
      · extract_lets -merge -underBinder x5 x6 x7 x8
        have hx5 : Keeps m s0 x5.2 := (State.present_keeps h4 (covers_trans (by decide) hm) _ _)
        have hx7 : Keeps m s0 x7 := hx5
        try clear_value x7
        try clear_value x5
        exact (keeps_eng hx7 (covers_trans (by decide) hm))
  try clear_value x3
  try clear_value x2
  refine keeps_ite (P := fun z => Keeps m s0 z) ?_ ?_
  · exact hx3
  · refine keeps_foldl (P := fun z => Keeps m s0 z) ?_ fun _ _ h9 => ?_
    · exact hx3
    · split
      · exact (State.meterTap_keeps h9 (covers_trans (by decide) hm) _ _ _)
      · extract_lets -merge -underBinder x10
        exact (State.meterTap_keeps h9 (covers_trans (by decide) hm) _ _ _)

theorem State.countFades_keeps (h : Keeps m s0 s) (hm : covers m [.regs] = true) : Keeps m s0 (State.countFades s) := by
  unfold State.countFades
  exact (State.wr_keeps h (covers_trans (by decide) hm) _ _ _ _)

theorem execRouteFadeEnd_keeps : ∀ a0 t, execRouteFadeEnd a0 s = .next t →
    Keeps [.regs, .xrd, .host, .out] s t := by
  intro a0 t e
  have hm : covers [.regs, .xrd, .host, .out] [.regs, .xrd, .host, .out] = true := by decide
  have h := Keeps.refl [.regs, .xrd, .host, .out] s
  unfold execRouteFadeEnd at e
  extract_lets -merge -underBinder x0 at e
  have hx0 : Keeps [.regs, .xrd, .host, .out] s x0 := (State.destAdvance_keeps h (covers_trans (by decide) hm) _ _)
  try clear_value x0
  replace e := Host.Outcome.next.inj e
  subst e
  refine (State.countFades_keeps ?_ (covers_trans (by decide) hm))
  refine keeps_ite (P := fun z => Keeps [.regs, .xrd, .host, .out] s z) ?_ ?_
  · exact (State.beginDeferred_keeps hx0 (covers_trans (by decide) hm) _)
  · exact hx0

theorem execDeferredRouteChange_keeps : ∀ a0 t, execDeferredRouteChange a0 s = .next t →
    Keeps [.regs, .xrd, .host, .out] s t := by
  intro a0 t e
  have hm : covers [.regs, .xrd, .host, .out] [.regs, .xrd, .host, .out] = true := by decide
  have h := Keeps.refl [.regs, .xrd, .host, .out] s
  unfold execDeferredRouteChange at e
  replace e := Host.Outcome.next.inj e
  subst e
  split
  · refine keeps_ite (P := fun z => Keeps [.regs, .xrd, .host, .out] s z) ?_ ?_
    · exact (State.beginDeferred_keeps h (covers_trans (by decide) hm) _)
    · exact h
  · exact h

theorem execGenModeWrite_keeps : ∀ a0 a1 t, execGenModeWrite a0 a1 s = .next t →
    Keeps [.regs, .xrd] s t := by
  intro a0 a1 t e
  have hm : covers [.regs, .xrd] [.regs, .xrd] = true := by decide
  have h := Keeps.refl [.regs, .xrd] s
  unfold execGenModeWrite at e
  extract_lets -merge -underBinder x0 x1 at e
  replace e := Host.Outcome.next.inj e
  subst e
  refine keeps_ite (P := fun z => Keeps [.regs, .xrd] s z) ?_ ?_
  · exact (State.setGen_keeps (State.wr_keeps (State.wr_keeps h (covers_trans (by decide) hm) _ _ _ _) (covers_trans (by decide) hm) _ _ _ _) (covers_trans (by decide) hm) _ _)
  · exact h

theorem execGenAuxWrite_keeps : ∀ a0 a1 t, execGenAuxWrite a0 a1 s = .next t →
    Keeps [.regs, .xrd] s t := by
  intro a0 a1 t e
  have hm : covers [.regs, .xrd] [.regs, .xrd] = true := by decide
  have h := Keeps.refl [.regs, .xrd] s
  unfold execGenAuxWrite at e
  replace e := Host.Outcome.next.inj e
  subst e
  refine keeps_ite (P := fun z => Keeps [.regs, .xrd] s z) ?_ ?_
  · exact (State.setGen_keeps (State.wr_keeps h (covers_trans (by decide) hm) _ _ _ _) (covers_trans (by decide) hm) _ _)
  · exact h

theorem execImpulseFire_keeps : ∀ a0 t, execImpulseFire a0 s = .next t →
    Keeps [.xrd] s t := by
  intro a0 t e
  have hm : covers [.xrd] [.xrd] = true := by decide
  have h := Keeps.refl [.xrd] s
  unfold execImpulseFire at e
  extract_lets -merge -underBinder x0 at e
  replace e := Host.Outcome.next.inj e
  subst e
  refine keeps_ite (P := fun z => Keeps [.xrd] s z) ?_ ?_
  · exact (State.setGen_keeps h (covers_trans (by decide) hm) _ _)
  · exact h

end Sys2Proof.Machine
end

