-- ==== Sys2Proof/Laws/KeepsStrips.lean ====
section
/-! SUPPORT. What each function of Machine/Strips.lean keeps: the parts of the state it can change, the canonical form of the stores,
the order of free values and outputs. One lemma per function, assembled from those of the functions it calls. -/
namespace Sys2Proof.Machine

variable {m : List Part} {s0 s : State}

theorem State.setForce_keeps (h : Keeps m s0 s) (hm : covers m [.scn] = true) : ∀ a1 a2, Keeps m s0 (State.setForce s a1 a2) := by
  intro a1 a2
  unfold State.setForce
  exact (keeps_scn h (covers_trans (by decide) hm))

theorem State.setStrip_keeps (h : Keeps m s0 s) (hm : covers m [.scn] = true) : ∀ a1 a2, Keeps m s0 (State.setStrip s a1 a2) := by
  intro a1 a2
  unfold State.setStrip
  exact (keeps_scn h (covers_trans (by decide) hm))

theorem State.rampTo_keeps (h : Keeps m s0 s) (hm : covers m [.scn] = true) : ∀ a1 a2 a3 a4 a5, Keeps m s0 (State.rampTo s a1 a2 a3 a4 a5) := by
  intro a1 a2 a3 a4 a5
  unfold State.rampTo
  extract_lets -merge -underBinder x0
  split
  · refine keeps_ite (P := fun z => Keeps m s0 z) ?_ ?_
    · dsimp -zeta only [x0]
      exact (keeps_scn h (covers_trans (by decide) hm))
    · dsimp -zeta only [x0]
      exact (keeps_scn h (covers_trans (by decide) hm))
  · refine keeps_ite (P := fun z => Keeps m s0 z) ?_ ?_
    · exact h
    · refine keeps_ite (P := fun z => Keeps m s0 z) ?_ ?_
      · dsimp -zeta only [x0]
        exact (keeps_scn h (covers_trans (by decide) hm))
      · dsimp -zeta only [x0]
        exact (keeps_scn h (covers_trans (by decide) hm))

theorem State.panRampTo_keeps (h : Keeps m s0 s) (hm : covers m [.scn] = true) : ∀ a1 a2 a3 a4, Keeps m s0 (State.panRampTo s a1 a2 a3 a4) := by
  intro a1 a2 a3 a4
  unfold State.panRampTo
  extract_lets -merge -underBinder x0 x1
  exact (keeps_scn h (covers_trans (by decide) hm))

theorem State.stripMeters_keeps (h : Keeps m s0 s) (hm : covers m [.mem, .nbr, .out] = true) : ∀ a1 a2 a3 a4, Keeps m s0 (State.stripMeters s a1 a2 a3 a4).1 := by
  intro a1 a2 a3 a4
  unfold State.stripMeters
  extract_lets -merge -underBinder x0 x1 x2 x3 x4 x5 x6 x7 x8
  refine keeps_fst (P := fun z => Keeps m s0 z) ?_
  exact (State.engineBytes_keeps h (covers_trans (by decide) hm) _ _)

theorem State.stripSpan_keeps (h : Keeps m s0 s) (hm : covers m [.scn] = true) : ∀ a1 a2 a3 a4 a5, Keeps m s0 (State.stripSpan s a1 a2 a3 a4 a5) := by
  intro a1 a2 a3 a4 a5
  unfold State.stripSpan
  extract_lets -merge -underBinder x0 x1 x2 x3 x4
  refine keeps_foldl (P := fun z => Keeps m s0 z) ?_ fun _ _ h5 => ?_
  · exact h
  · extract_lets -merge -underBinder x6 x7 x8
    exact (State.setStrip_keeps h5 (covers_trans (by decide) hm) _ _)

theorem State.programBlock_keeps (h : Keeps m s0 s) (hm : covers m [.free] = true) : Keeps m s0 (State.programBlock s).2 := by
  unfold State.programBlock
  refine keeps_snd (P := fun z => Keeps m s0 z) ?_
  exact (State.useFree_keeps h (covers_trans (by decide) hm) _)

theorem State.insertReturn_keeps (h : Keeps m s0 s) (hm : covers m [.regs, .xrd, .host, .memx, .out, .free] = true) : ∀ a1 a2 a3, Keeps m s0 (State.insertReturn s a1 a2 a3).2 := by
  intro a1 a2 a3
  unfold State.insertReturn
  refine keeps_ite (P := fun (z : (List Word × List Word × Bool) × State) => Keeps m s0 z.2) ?_ ?_
  · extract_lets -merge -underBinder x0 x1
    have hx0 : Keeps m s0 x0.2 := (State.programBlock_keeps h (covers_trans (by decide) hm))
    have hx1 : Keeps m s0 x1.2 := (State.programBlock_keeps hx0 (covers_trans (by decide) hm))
    try clear_value x1
    try clear_value x0
    refine keeps_ite (P := fun (z : (List Word × List Word × Bool) × State) => Keeps m s0 z.2) ?_ ?_
    · refine keeps_snd (P := fun z => Keeps m s0 z) ?_
      exact hx1
    · refine keeps_snd (P := fun z => Keeps m s0 z) ?_
      exact hx0
  · extract_lets -merge -underBinder x2
    have hx2 : Keeps m s0 x2.2 := (State.present_keeps h (covers_trans (by decide) hm) _ _)
    try clear_value x2
    refine keeps_snd (P := fun z => Keeps m s0 z) ?_
    exact hx2

theorem State.hearInput_keeps (h : Keeps m s0 s) (hm : covers m [.regs, .xrd, .scn, .host, .memx, .out] = true) : ∀ a1 a2, Keeps m s0 (State.hearInput s a1 a2).2 := by
  intro a1 a2
  unfold State.hearInput
  extract_lets -merge -underBinder x0
  have hx0 : Keeps m s0 x0.2 := (State.present_keeps h (covers_trans (by decide) hm) _ _)
  try clear_value x0
  split
  · exact hx0
  · refine keeps_snd (P := fun z => Keeps m s0 z) ?_
    exact (State.setStrip_keeps hx0 (covers_trans (by decide) hm) _ _)

theorem State.stripInputs_keeps (h : Keeps m s0 s) (hm : covers m [.regs, .xrd, .scn, .host, .memx, .out, .free] = true) : ∀ a1 a2, Keeps m s0 (State.stripInputs s a1 a2).2 := by
  intro a1 a2
  unfold State.stripInputs
  refine keeps_foldl (P := fun (z : List (Nat → StripIn) × State) => Keeps m s0 z.2) ?_ fun _ _ h0 => ?_
  · refine keeps_snd (P := fun z => Keeps m s0 z) ?_
    exact h
  · extract_lets -merge -underBinder x1 x2 x3 x4 x5 x6
    have hx1 : Keeps m s0 x1 := h0
    have hx3 : Keeps m s0 x3.2 := by
      subst x3
      refine keeps_ite (P := fun (z : (List Word × Nat) × State) => Keeps m s0 z.2) ?_ ?_
      · exact (State.hearInput_keeps hx1 (covers_trans (by decide) hm) _ _)
      · refine keeps_snd (P := fun z => Keeps m s0 z) ?_
        exact hx1
    have hx4 : Keeps m s0 x4.2 := (State.insertReturn_keeps hx3 (covers_trans (by decide) hm) _ _ _)
    have hx5 : Keeps m s0 x5.2 := (State.insertReturn_keeps hx4 (covers_trans (by decide) hm) _ _ _)
    try clear_value x5
    try clear_value x4
    try clear_value x3
    try clear_value x1
    refine keeps_snd (P := fun z => Keeps m s0 z) ?_
    exact hx5

theorem State.stripWork_keeps (h : Keeps m s0 s) (hm : covers m [.regs, .xrd, .scn, .host, .memx, .out, .free] = true) : ∀ a1 a2 a3 a4, Keeps m s0 (State.stripWork s a1 a2 a3 a4) := by
  intro a1 a2 a3 a4
  unfold State.stripWork
  refine keeps_ite (P := fun z => Keeps m s0 z) ?_ ?_
  · exact h
  · extract_lets -merge -underBinder x0 x1
    have hx1 : Keeps m s0 x1.2 := (State.stripInputs_keeps h (covers_trans (by decide) hm) _ _)
    try clear_value x1
    exact (State.stripSpan_keeps hx1 (covers_trans (by decide) hm) _ _ _ _ _)

theorem State.putOutputFrom_keeps (h : Keeps m s0 s) (hm : covers m [.mem, .eng, .nbr, .out] = true) : ∀ a1 a2 a3 a4 a5 a6, Keeps m s0 (State.putOutputFrom s a1 a2 a3 a4 a5 a6) := by
  intro a1 a2 a3 a4 a5 a6
  unfold State.putOutputFrom
  extract_lets -merge -underBinder x0 x1
  exact (State.putSource_keeps h (covers_trans (by decide) hm) _ _ _ _ _ _)

theorem State.stripOutput_keeps (h : Keeps m s0 s) (hm : covers m [.mem, .eng, .nbr, .out] = true) : ∀ a1 a2 a3, Keeps m s0 (State.stripOutput s a1 a2 a3) := by
  intro a1 a2 a3
  unfold State.stripOutput
  split
  · exact h
  · extract_lets -merge -underBinder x0 x1 x2 x3 x4
    exact (State.putOutputFrom_keeps (State.putOutputFrom_keeps (State.putOutputFrom_keeps h (covers_trans (by decide) hm) _ _ _ _ _ _) (covers_trans (by decide) hm) _ _ _ _ _ _) (covers_trans (by decide) hm) _ _ _ _ _ _)

theorem State.stripMeterBlock_keeps (h : Keeps m s0 s) (hm : covers m [.mem, .scn, .nbr, .out] = true) : ∀ a1 a2, Keeps m s0 (State.stripMeterBlock s a1 a2) := by
  intro a1 a2
  unfold State.stripMeterBlock
  split
  · exact h
  · extract_lets -merge -underBinder x0 x1 x2 x3 x4 x5 x6
    have hx5 : Keeps m s0 x5.1 := (State.stripMeters_keeps h (covers_trans (by decide) hm) _ _ _ _)
    try clear_value x5
    exact (State.setStrip_keeps hx5 (covers_trans (by decide) hm) _ _)

end Sys2Proof.Machine
end

