-- ==== Sys2Proof/Laws/KeepsScenes.lean ====
section
/-! SUPPORT. What each function of Machine/Scenes.lean keeps: the parts of the state it can change, the canonical form of the stores,
the order of free values and outputs. One lemma per function, assembled from those of the functions it calls. -/
namespace Sys2Proof.Machine

variable {m : List Part} {s0 s : State}

theorem State.lockBank_keeps (h : Keeps m s0 s) (hm : covers m [.regs] = true) : ∀ a1 a2, Keeps m s0 (State.lockBank s a1 a2) := by
  intro a1 a2
  unfold State.lockBank
  refine keeps_ite (P := fun z => Keeps m s0 z) ?_ ?_
  · exact (State.wr_keeps h (covers_trans (by decide) hm) _ _ _ _)
  · exact (State.wr_keeps h (covers_trans (by decide) hm) _ _ _ _)

theorem State.lockDrop_keeps (h : Keeps m s0 s) (hm : covers m [.regs, .host, .out] = true) : Keeps m s0 (State.lockDrop s) := by
  unfold State.lockDrop
  exact (State.raise_keeps (State.bump_keeps h (covers_trans (by decide) hm) _ _ _ _) (covers_trans (by decide) hm) _ _)

theorem State.forceChange_keeps (h : Keeps m s0 s) (hm : covers m [.scn] = true) : ∀ a1 a2 a3 a4, Keeps m s0 (State.forceChange s a1 a2 a3 a4) := by
  intro a1 a2 a3 a4
  unfold State.forceChange
  extract_lets -merge -underBinder x0 x1 x2
  have hx1 : Keeps m s0 x1 := by
    subst x1
    refine keeps_foldl (P := fun z => Keeps m s0 z) ?_ fun _ _ h3 => ?_
    · exact h
    · exact (State.rampTo_keeps h3 (covers_trans (by decide) hm) _ _ _ _ _)
  have hx2 : Keeps m s0 x2 := by
    subst x2
    refine keeps_ite (P := fun z => Keeps m s0 z) ?_ ?_
    · exact (State.rampTo_keeps hx1 (covers_trans (by decide) hm) _ _ _ _ _)
    · exact hx1
  try clear_value x2
  try clear_value x1
  exact (State.setForce_keeps hx2 (covers_trans (by decide) hm) _ _)

theorem State.beginSharing_keeps (h : Keeps m s0 s) (hm : covers m [.scn] = true) : ∀ a1, Keeps m s0 (State.beginSharing s a1) := by
  intro a1
  unfold State.beginSharing
  refine keeps_foldl (P := fun z => Keeps m s0 z) ?_ fun _ _ h0 => ?_
  · exact h
  · refine keeps_ite (P := fun z => Keeps m s0 z) ?_ ?_
    · split
      · exact (State.setStrip_keeps h0 (covers_trans (by decide) hm) _ _)
      · exact h0
    · exact h0

theorem State.looseWord_keeps (h : Keeps m s0 s) (hm : covers m [.regs, .mem, .xrd, .scn, .host, .out] = true) : ∀ a1 a2 a3, Keeps m s0 (State.looseWord s a1 a2 a3) := by
  intro a1 a2 a3
  unfold State.looseWord
  split
  · exact h
  · extract_lets -merge -underBinder x0 x1 x2 x3
    have hx1 : Keeps m s0 x1 := by
      subst x1
      split
      · rename_i t4 et4
        exact (State.xrdRefuse_keeps h (covers_trans (by decide) hm) _ _ _)
      · rename_i t5 et5
        have ht5 : Keeps m s0 t5 :=
          keeps_of_eq (P := fun z => Keeps m s0 z.2) et5 (State.looseXrdWord_keeps h (covers_trans (by decide) hm) _ _)
        exact (State.forceChange_keeps ht5 (covers_trans (by decide) hm) _ _ _ _)
    try clear_value x1
    refine keeps_ite (P := fun z => Keeps m s0 z) ?_ ?_
    · exact (State.store_keeps hx1 (covers_trans (by decide) hm) _ _ _)
    · exact hx1

theorem State.panSteps_keeps (h : Keeps m s0 s) (hm : covers m [.scn] = true) : ∀ a1 a2, Keeps m s0 (State.panSteps s a1 a2) := by
  intro a1 a2
  unfold State.panSteps
  refine keeps_foldl (P := fun z => Keeps m s0 z) ?_ fun _ _ h0 => ?_
  · exact h
  · split
    · exact h0
    · refine keeps_ite (P := fun z => Keeps m s0 z) ?_ ?_
      · exact h0
      · refine keeps_ite (P := fun z => Keeps m s0 z) ?_ ?_
        · exact (State.panRampTo_keeps h0 (covers_trans (by decide) hm) _ _ _ _)
        · exact (keeps_scn h0 (covers_trans (by decide) hm))

theorem State.looseInForce_keeps (h : Keeps m s0 s) (hm : covers m [.regs, .mem, .xrd, .scn, .host, .out] = true) : ∀ a1, Keeps m s0 (State.looseInForce s a1) := by
  intro a1
  unfold State.looseInForce
  extract_lets -merge -underBinder x0 x1
  have hx1 : Keeps m s0 x1 := by
    subst x1
    refine keeps_foldl (P := fun z => Keeps m s0 z) ?_ fun _ _ h2 => ?_
    · exact (keeps_scn h (covers_trans (by decide) hm))
    · exact (State.looseWord_keeps h2 (covers_trans (by decide) hm) _ _ _)
  try clear_value x1
  exact (State.applyRoutes_keeps (State.panSteps_keeps (State.beginSharing_keeps hx1 (covers_trans (by decide) hm) _) (covers_trans (by decide) hm) _ _) (covers_trans (by decide) hm) _ _)

theorem State.carryForward_keeps (h : Keeps m s0 s) (hm : covers m [.mem] = true) : Keeps m s0 (State.carryForward s) := by
  unfold State.carryForward
  extract_lets -merge -underBinder x0 x1 x2
  refine keeps_foldl (P := fun z => Keeps m s0 z) ?_ fun _ _ h3 => ?_
  · exact h
  · extract_lets -merge -underBinder x4
    exact (State.store_keeps h3 (covers_trans (by decide) hm) _ _ _)

theorem State.recallTable_keeps (h : Keeps m s0 s) (hm : covers m [.xrd] = true) : ∀ a1, Keeps m s0 (State.recallTable s a1) := by
  intro a1
  unfold State.recallTable
  extract_lets -merge -underBinder x0 x1 x2 x3 x4 x5 x6 x7 x8
  refine keeps_ite (P := fun z => Keeps m s0 z) ?_ ?_
  · exact (State.setDest_keeps h (covers_trans (by decide) hm) _ _)
  · refine keeps_ite (P := fun z => Keeps m s0 z) ?_ ?_
    · exact (keeps_xrd h (covers_trans (by decide) hm))
    · refine keeps_ite (P := fun z => Keeps m s0 z) ?_ ?_
      · exact (keeps_xrd h (covers_trans (by decide) hm))
      · exact h

theorem State.tablesWith_keeps (h : Keeps m s0 s) (hm : covers m [.xrd] = true) : ∀ a1, Keeps m s0 (State.tablesWith s a1) := by
  intro a1
  unfold State.tablesWith
  refine keeps_foldl (P := fun z => Keeps m s0 z) ?_ fun _ _ h0 => ?_
  · exact h
  · exact (State.recallTable_keeps h0 (covers_trans (by decide) hm) _)

theorem State.armSwap_keeps (h : Keeps m s0 s) (hm : covers m [.regs, .scn, .host, .out] = true) : Keeps m s0 (State.armSwap s).2 := by
  unfold State.armSwap
  extract_lets -merge -underBinder x0 x1 x2 x3 x4 x5 x6 x7 x8 x9
  have hx6 : Keeps m s0 x6 := (keeps_scn h (covers_trans (by decide) hm))
  have hx8 : Keeps m s0 x8 := (State.recordCheck_keeps hx6 (covers_trans (by decide) hm) _)
  try clear_value x8
  try clear_value x6
  refine keeps_ite (P := fun (z : Nat × State) => Keeps m s0 z.2) ?_ ?_
  · exact (keeps_snd (P := fun z => Keeps m s0 z) (State.raise_keeps (State.bump_keeps h (covers_trans (by decide) hm) _ _ _ _) (covers_trans (by decide) hm) _ _))
  · refine keeps_ite (P := fun (z : Nat × State) => Keeps m s0 z.2) ?_ ?_
    · exact (keeps_snd (P := fun z => Keeps m s0 z) (State.raise_keeps (State.bump_keeps (keeps_scn hx8 (covers_trans (by decide) hm)) (covers_trans (by decide) hm) _ _ _ _) (covers_trans (by decide) hm) _ _))
    · exact (keeps_snd (P := fun z => Keeps m s0 z) (State.raise_keeps (State.wr_keeps (State.wr_keeps (State.lockBank_keeps hx8 (covers_trans (by decide) hm) _ _) (covers_trans (by decide) hm) _ _ _ _) (covers_trans (by decide) hm) _ _ _ _) (covers_trans (by decide) hm) _ _))

theorem State.fixSwap_keeps (h : Keeps m s0 s) (hm : covers m [.regs, .scn, .host, .out] = true) : ∀ a1 a2, Keeps m s0 (State.fixSwap s a1 a2) := by
  intro a1 a2
  unfold State.fixSwap
  extract_lets -merge -underBinder x0 x1 x2 x3
  have hx3 : Keeps m s0 x3 := (keeps_scn h (covers_trans (by decide) hm))
  try clear_value x3
  refine keeps_ite (P := fun z => Keeps m s0 z) ?_ ?_
  · exact (keeps_scn h (covers_trans (by decide) hm))
  · exact (State.markLate_keeps (State.raise_keeps (State.wr_keeps (State.wr_keeps hx3 (covers_trans (by decide) hm) _ _ _ _) (covers_trans (by decide) hm) _ _ _ _) (covers_trans (by decide) hm) _ _) (covers_trans (by decide) hm))

theorem execCarryForwardReady_keeps : ∀ t, execCarryForwardReady s = .next t →
    Keeps [.regs, .mem, .scn, .host, .out] s t := by
  intro t e
  have hm : covers [.regs, .mem, .scn, .host, .out] [.regs, .mem, .scn, .host, .out] = true := by decide
  have h := Keeps.refl [.regs, .mem, .scn, .host, .out] s
  unfold execCarryForwardReady at e
  replace e := Host.Outcome.next.inj e
  subst e
  refine keeps_ite (P := fun z => Keeps [.regs, .mem, .scn, .host, .out] s z) ?_ ?_
  · extract_lets -merge -underBinder x0 x1 x2 x3
    have hx2 : Keeps [.regs, .mem, .scn, .host, .out] s x2 := (State.wr_keeps (State.wr_keeps (State.carryForward_keeps h (covers_trans (by decide) hm)) (covers_trans (by decide) hm) _ _ _ _) (covers_trans (by decide) hm) _ _ _ _)
    try clear_value x2
    refine keeps_ite (P := fun z => Keeps [.regs, .mem, .scn, .host, .out] s z) ?_ ?_
    · exact (State.fixSwap_keeps hx2 (covers_trans (by decide) hm) _ _)
    · refine keeps_ite (P := fun z => Keeps [.regs, .mem, .scn, .host, .out] s z) ?_ ?_
      · exact (State.fixSwap_keeps hx2 (covers_trans (by decide) hm) _ _)
      · split
        · exact (State.fixSwap_keeps hx2 (covers_trans (by decide) hm) _ _)
        · exact hx2
  · exact h

theorem State.cueEvent_keeps (h : Keeps m s0 s) (hm : covers m [.regs, .scn, .host, .out] = true) : ∀ a1, Keeps m s0 (State.cueEvent s a1) := by
  intro a1
  unfold State.cueEvent
  refine keeps_ite (P := fun z => Keeps m s0 z) ?_ ?_
  · extract_lets -merge -underBinder x0 x1
    have hx1 : Keeps m s0 x1 := (keeps_scn h (covers_trans (by decide) hm))
    try clear_value x1
    refine keeps_ite (P := fun z => Keeps m s0 z) ?_ ?_
    · exact (State.fixSwap_keeps hx1 (covers_trans (by decide) hm) _ _)
    · exact hx1
  · exact h

theorem State.gpioCue_keeps (h : Keeps m s0 s) (hm : covers m [.regs, .scn, .host, .out] = true) : ∀ a1 a2 a3, Keeps m s0 (State.gpioCue s a1 a2 a3) := by
  intro a1 a2 a3
  unfold State.gpioCue
  extract_lets -merge -underBinder x0
  refine keeps_ite (P := fun z => Keeps m s0 z) ?_ ?_
  · exact (State.cueEvent_keeps h (covers_trans (by decide) hm) _)
  · exact h

theorem State.frameCue_keeps (h : Keeps m s0 s) (hm : covers m [.regs, .scn, .host, .out] = true) : ∀ a1 a2, Keeps m s0 (State.frameCue s a1 a2) := by
  intro a1 a2
  unfold State.frameCue
  refine keeps_ite (P := fun z => Keeps m s0 z) ?_ ?_
  · exact (State.cueEvent_keeps h (covers_trans (by decide) hm) _)
  · exact h

theorem State.cancelSwap_keeps (h : Keeps m s0 s) (hm : covers m [.regs, .scn, .host, .out] = true) : Keeps m s0 (State.cancelSwap s) := by
  unfold State.cancelSwap
  refine keeps_ite (P := fun z => Keeps m s0 z) ?_ ?_
  · extract_lets -merge -underBinder x0 x1
    have hx1 : Keeps m s0 x1 := (keeps_scn h (covers_trans (by decide) hm))
    try clear_value x1
    exact (State.raise_keeps (State.wr_keeps (State.wr_keeps (State.wr_keeps (State.lockBank_keeps hx1 (covers_trans (by decide) hm) _ _) (covers_trans (by decide) hm) _ _ _ _) (covers_trans (by decide) hm) _ _ _ _) (covers_trans (by decide) hm) _ _ _ _) (covers_trans (by decide) hm) _ _)
  · exact h

theorem State.stripSwitch_keeps (h : Keeps m s0 s) (hm : covers m [.scn] = true) : ∀ a1 a2 a3, Keeps m s0 (State.stripSwitch s a1 a2 a3) := by
  intro a1 a2 a3
  unfold State.stripSwitch
  split
  · exact h
  · extract_lets -merge -underBinder x0 x1 x2 x3 x4 x5 x6 x7 x8 x9 x10 x11 x12 x13 x14 x15 x16
    have hx14 : Keeps m s0 x14 := (State.setStrip_keeps h (covers_trans (by decide) hm) _ _)
    have hx15 : Keeps m s0 x15 := by
      subst x15
      refine keeps_ite (P := fun z => Keeps m s0 z) ?_ ?_
      · exact (State.panRampTo_keeps hx14 (covers_trans (by decide) hm) _ _ _ _)
      · exact hx14
    try clear_value x15
    try clear_value x14
    refine keeps_ite (P := fun z => Keeps m s0 z) ?_ ?_
    · exact hx15
    · exact (keeps_scn hx15 (covers_trans (by decide) hm))

theorem State.switchScene_keeps (h : Keeps m s0 s) (hm : covers m [.regs, .xrd, .scn, .host, .out] = true) : ∀ a1, Keeps m s0 (State.switchScene s a1) := by
  intro a1
  unfold State.switchScene
  extract_lets -merge -underBinder x0 x1 x2 x3 x4 x5
  have hx2 : Keeps m s0 x2 := by
    subst x2
    refine keeps_foldl (P := fun z => Keeps m s0 z) ?_ fun _ _ h6 => ?_
    · exact (keeps_xrd h (covers_trans (by decide) hm))
    · exact (State.forceChange_keeps h6 (covers_trans (by decide) hm) _ _ _ _)
  have hx3 : Keeps m s0 x3 := (State.applyRoutes_keeps hx2 (covers_trans (by decide) hm) _ _)
  try clear_value x3
  try clear_value x2
  refine keeps_scn ?_ (covers_trans (by decide) hm)
  dsimp -zeta only [x4]
  refine keeps_foldl (P := fun z => Keeps m s0 z) ?_ fun _ _ h7 => ?_
  · exact hx3
  · exact (State.stripSwitch_keeps h7 (covers_trans (by decide) hm) _ _ _)

theorem execRampEnd_keeps : ∀ a0 t, execRampEnd a0 s = .next t →
    Keeps [.scn] s t := by
  intro a0 t e
  have hm : covers [.scn] [.scn] = true := by decide
  have h := Keeps.refl [.scn] s
  unfold execRampEnd at e
  extract_lets -merge -underBinder x0 x1 x2 at e
  replace e := Host.Outcome.next.inj e
  subst e
  exact (keeps_scn h (covers_trans (by decide) hm))

theorem execDualRunEnd_keeps : ∀ a0 a1 t, execDualRunEnd a0 a1 s = .next t →
    Keeps [.scn] s t := by
  intro a0 a1 t e
  have hm : covers [.scn] [.scn] = true := by decide
  have h := Keeps.refl [.scn] s
  unfold execDualRunEnd at e
  extract_lets -merge -underBinder x0 at e
  replace e := Host.Outcome.next.inj e
  subst e
  split
  · exact h
  · exact (State.setStrip_keeps h (covers_trans (by decide) hm) _ _)

theorem execLooseWriteInForce_keeps : ∀ t, execLooseWriteInForce s = .next t →
    Keeps [.regs, .mem, .xrd, .scn, .host, .out] s t := by
  intro t e
  have hm : covers [.regs, .mem, .xrd, .scn, .host, .out] [.regs, .mem, .xrd, .scn, .host, .out] = true := by decide
  have h := Keeps.refl [.regs, .mem, .xrd, .scn, .host, .out] s
  unfold execLooseWriteInForce at e
  replace e := Host.Outcome.next.inj e
  subst e
  refine keeps_ite (P := fun z => Keeps [.regs, .mem, .xrd, .scn, .host, .out] s z) ?_ ?_
  · exact (State.looseInForce_keeps h (covers_trans (by decide) hm) _)
  · exact h

theorem State.finishSwap_keeps (h : Keeps m s0 s) (hm : covers m [.regs, .scn, .host, .out] = true) : Keeps m s0 (State.finishSwap s) := by
  unfold State.finishSwap
  extract_lets -merge -underBinder x0 x1
  have hx1 : Keeps m s0 x1 := (keeps_scn h (covers_trans (by decide) hm))
  try clear_value x1
  exact (State.raise_keeps (State.wr_keeps (State.wr_keeps (State.wr_keeps (State.lockBank_keeps hx1 (covers_trans (by decide) hm) _ _) (covers_trans (by decide) hm) _ _ _ _) (covers_trans (by decide) hm) _ _ _ _) (covers_trans (by decide) hm) _ _ _ _) (covers_trans (by decide) hm) _ _)

theorem execSwapComplete_keeps : ∀ t, execSwapComplete s = .next t →
    Keeps [.regs, .scn, .host, .out] s t := by
  intro t e
  have hm : covers [.regs, .scn, .host, .out] [.regs, .scn, .host, .out] = true := by decide
  have h := Keeps.refl [.regs, .scn, .host, .out] s
  unfold execSwapComplete at e
  extract_lets -merge -underBinder x0 at e
  replace e := Host.Outcome.next.inj e
  subst e
  split
  · exact h
  · refine keeps_ite (P := fun z => Keeps [.regs, .scn, .host, .out] s z) ?_ ?_
    · exact (State.finishSwap_keeps h (covers_trans (by decide) hm))
    · exact h

end Sys2Proof.Machine
end

