-- ==== Sys2Proof/Laws/KeepsChurn.lean ====
section
/-! SUPPORT. What each function of Machine/Churn.lean keeps: the parts of the state it can change, the canonical form of the stores,
the order of free values and outputs. One lemma per function, assembled from those of the functions it calls. -/
namespace Sys2Proof.Machine

variable {m : List Part} {s0 s : State}

theorem State.setSlotState_keeps (h : Keeps m s0 s) (hm : covers m [.regs] = true) : ∀ a1 a2 a3, Keeps m s0 (State.setSlotState s a1 a2 a3) := by
  intro a1 a2 a3
  unfold State.setSlotState
  exact (State.wr_keeps h (covers_trans (by decide) hm) _ _ _ _)

theorem State.cellarGroup_keeps (h : Keeps m s0 s) (hm : covers m [.mem, .chn, .nbr, .out] = true) : ∀ a1 a2 a3, Keeps m s0 (State.cellarGroup s a1 a2 a3) := by
  intro a1 a2 a3
  unfold State.cellarGroup
  extract_lets -merge -underBinder x0 x1 x2 x3 x4 x5 x6
  have hx6 : Keeps m s0 x6 := (State.engineBytes_keeps h (covers_trans (by decide) hm) _ _)
  try clear_value x6
  refine keeps_foldl (P := fun z => Keeps m s0 z) ?_ fun _ _ h7 => ?_
  · exact hx6
  · extract_lets -merge -underBinder x8 x9 x10 x11 x12 x13
    have hx13 : Keeps m s0 x13 := (keeps_chn h7 (covers_trans (by decide) hm))
    try clear_value x13
    exact (State.engineBytes_keeps hx13 (covers_trans (by decide) hm) _ _)

theorem State.computePart_keeps (h : Keeps m s0 s) (hm : covers m [.mem, .chn, .nbr, .out] = true) : ∀ a1 a2 a3 a4, Keeps m s0 (State.computePart s a1 a2 a3 a4) := by
  intro a1 a2 a3 a4
  unfold State.computePart
  extract_lets -merge -underBinder x0 x1 x2
  refine keeps_ite (P := fun z => Keeps m s0 z) ?_ ?_
  · exact (State.modChn_keeps h (covers_trans (by decide) hm) _)
  · exact (State.engineBytes_keeps h (covers_trans (by decide) hm) _ _)

theorem State.computeParts_keeps (h : Keeps m s0 s) (hm : covers m [.regs, .mem, .chn, .nbr, .out] = true) : ∀ a1 a2 a3 a4, Keeps m s0 (State.computeParts s a1 a2 a3 a4) := by
  intro a1 a2 a3 a4
  unfold State.computeParts
  extract_lets -merge -underBinder x0
  refine (State.wr_keeps ?_ (covers_trans (by decide) hm) _ _ _ _)
  refine keeps_foldl (P := fun z => Keeps m s0 z) ?_ fun _ _ h1 => ?_
  · exact h
  · exact (State.computePart_keeps h1 (covers_trans (by decide) hm) _ _ _ _)

theorem State.copyHead_keeps (h : Keeps m s0 s) (hm : covers m [.mem, .nbr, .out] = true) : ∀ a1 a2 a3, Keeps m s0 (State.copyHead s a1 a2 a3) := by
  intro a1 a2 a3
  unfold State.copyHead
  refine keeps_foldl (P := fun z => Keeps m s0 z) ?_ fun _ _ h0 => ?_
  · exact h
  · exact (State.engineBytes_keeps h0 (covers_trans (by decide) hm) _ _)

theorem State.computeSlot_keeps (h : Keeps m s0 s) (hm : covers m [.regs, .mem, .chn, .nbr, .out] = true) : ∀ a1 a2 a3, Keeps m s0 (State.computeSlot s a1 a2 a3) := by
  intro a1 a2 a3
  unfold State.computeSlot
  exact (State.computeParts_keeps (State.copyHead_keeps h (covers_trans (by decide) hm) _ _ _) (covers_trans (by decide) hm) _ _ _ _)

theorem State.prepareShare_keeps (h : Keeps m s0 s) (hm : covers m [.regs, .mem, .chn, .nbr, .out, .free] = true) : Keeps m s0 (State.prepareShare s) := by
  unfold State.prepareShare
  refine keeps_ite (P := fun z => Keeps m s0 z) ?_ ?_
  · exact h
  · extract_lets -merge -underBinder x0 x1
    exact (State.useFree_keeps (State.computeParts_keeps h (covers_trans (by decide) hm) _ _ _ _) (covers_trans (by decide) hm) _)

theorem State.showChurnLoad_keeps (h : Keeps m s0 s) (hm : covers m [.regs, .free] = true) : Keeps m s0 (State.showChurnLoad s) := by
  unfold State.showChurnLoad
  refine keeps_ite (P := fun z => Keeps m s0 z) ?_ ?_
  · exact h
  · exact (State.useFree_keeps (State.peak_keeps h (covers_trans (by decide) hm) _ _ _ _) (covers_trans (by decide) hm) _)

theorem State.churnFrame_keeps (h : Keeps m s0 s) (hm : covers m [.regs, .mem, .chn, .nbr, .out, .free] = true) : ∀ a1, Keeps m s0 (State.churnFrame s a1) := by
  intro a1
  unfold State.churnFrame
  extract_lets -merge -underBinder x0
  refine keeps_foldl (P := fun z => Keeps m s0 z) ?_ fun _ _ h1 => ?_
  · exact (State.modChn_keeps (State.showChurnLoad_keeps (State.prepareShare_keeps h (covers_trans (by decide) hm)) (covers_trans (by decide) hm)) (covers_trans (by decide) hm) _)
  · refine keeps_ite (P := fun z => Keeps m s0 z) ?_ ?_
    · exact h1
    · extract_lets -merge -underBinder x2 x3 x4 x5 x6 x7 x8 x9 x10 x11
      have hx10 : Keeps m s0 x10 := (State.modChn_keeps h1 (covers_trans (by decide) hm) _)
      have hx11 : Keeps m s0 x11 := by
        subst x11
        refine keeps_foldl (P := fun z => Keeps m s0 z) ?_ fun _ _ h12 => ?_
        · exact hx10
        · refine keeps_ite (P := fun z => Keeps m s0 z) ?_ ?_
          · exact h12
          · exact (State.cellarGroup_keeps h12 (covers_trans (by decide) hm) _ _ _)
      try clear_value x11
      try clear_value x10
      refine keeps_foldl (P := fun z => Keeps m s0 z) ?_ fun _ _ h13 => ?_
      · exact hx11
      · extract_lets -merge -underBinder x14 x15 x16
        exact (keeps_chn h13 (covers_trans (by decide) hm))

theorem State.chanWork_keeps (h : Keeps m s0 s) (hm : covers m [.regs, .mem, .eng, .xrd, .chn, .host, .nbr, .memx, .out] = true) : ∀ a1 a2, Keeps m s0 (State.chanWork s a1 a2) := by
  intro a1 a2
  unfold State.chanWork
  extract_lets -merge -underBinder x0 x1 x2 x3 x4 x5 x6 x7 x8 x9
  have hx1 : Keeps m s0 x1.2 := (State.present_keeps h (covers_trans (by decide) hm) _ _)
  have hx5 : Keeps m s0 x5 := hx1
  have hx7 : Keeps m s0 x7 := (keeps_chn hx5 (covers_trans (by decide) hm))
  have hx9 : Keeps m s0 x9 := by
    subst x9
    refine keeps_foldl (P := fun z => Keeps m s0 z) ?_ fun _ _ h10 => ?_
    · exact hx7
    · exact (State.engineBytes_keeps h10 (covers_trans (by decide) hm) _ _)
  try clear_value x9
  try clear_value x7
  try clear_value x5
  try clear_value x1
  exact (State.putOutput_keeps hx9 (covers_trans (by decide) hm) _ _ _ _ _)

theorem execPrepareGo_keeps : ∀ a0 t, execPrepareGo a0 s = .next t →
    Keeps [.regs, .chn, .host, .out] s t := by
  intro a0 t e
  have hm : covers [.regs, .chn, .host, .out] [.regs, .chn, .host, .out] = true := by decide
  have h := Keeps.refl [.regs, .chn, .host, .out] s
  unfold execPrepareGo at e
  extract_lets -merge -underBinder x0 x1 x2 x3 x4 at e
  have hx2 : Keeps [.regs, .chn, .host, .out] s x2 := (State.wr_keeps (State.wr_keeps h (covers_trans (by decide) hm) _ _ _ _) (covers_trans (by decide) hm) _ _ _ _)
  have hx4 : Keeps [.regs, .chn, .host, .out] s x4 := by
    subst x4
    refine keeps_ite (P := fun z => Keeps [.regs, .chn, .host, .out] s z) ?_ ?_
    · exact hx2
    · exact (State.wr_keeps (State.wr_keeps hx2 (covers_trans (by decide) hm) _ _ _ _) (covers_trans (by decide) hm) _ _ _ _)
  try clear_value x4
  try clear_value x2
  replace e := Host.Outcome.next.inj e
  subst e
  refine keeps_ite (P := fun z => Keeps [.regs, .chn, .host, .out] s z) ?_ ?_
  · exact hx2
  · refine keeps_ite (P := fun z => Keeps [.regs, .chn, .host, .out] s z) ?_ ?_
    · exact (State.modChn_keeps (State.setSlotState_keeps (State.wr_keeps (State.wr_keeps (State.wr_keeps (State.wr_keeps hx2 (covers_trans (by decide) hm) _ _ _ _) (covers_trans (by decide) hm) _ _ _ _) (covers_trans (by decide) hm) _ _ _ _) (covers_trans (by decide) hm) _ _ _ _) (covers_trans (by decide) hm) _ _ _) (covers_trans (by decide) hm) _)
    · refine (State.raise_keeps ?_ (covers_trans (by decide) hm) _ _)
      refine State.when_keeps (State.wr_keeps hx4 (covers_trans (by decide) hm) _ _ _ _) _ _ fun _ h5 => ?_
      exact (State.setSlotState_keeps h5 (covers_trans (by decide) hm) _ _ _)

theorem execPrepareDone_keeps : ∀ t, execPrepareDone s = .next t →
    Keeps [.regs, .mem, .chn, .host, .nbr, .out] s t := by
  intro t e
  have hm : covers [.regs, .mem, .chn, .host, .nbr, .out] [.regs, .mem, .chn, .host, .nbr, .out] = true := by decide
  have h := Keeps.refl [.regs, .mem, .chn, .host, .nbr, .out] s
  unfold execPrepareDone at e
  extract_lets -merge -underBinder x0 x1 at e
  replace e := Host.Outcome.next.inj e
  subst e
  refine keeps_ite (P := fun z => Keeps [.regs, .mem, .chn, .host, .nbr, .out] s z) ?_ ?_
  · exact (State.raise_keeps (State.setSlotState_keeps (State.wr_keeps (State.wr_keeps (State.computeSlot_keeps h (covers_trans (by decide) hm) _ _ _) (covers_trans (by decide) hm) _ _ _ _) (covers_trans (by decide) hm) _ _ _ _) (covers_trans (by decide) hm) _ _ _) (covers_trans (by decide) hm) _ _)
  · exact h

theorem State.setXfading_keeps (h : Keeps m s0 s) (hm : covers m [.regs] = true) : ∀ a1 a2, Keeps m s0 (State.setXfading s a1 a2) := by
  intro a1 a2
  unfold State.setXfading
  refine keeps_foldl (P := fun z => Keeps m s0 z) ?_ fun _ _ h0 => ?_
  · exact h
  · exact (State.wr_keeps h0 (covers_trans (by decide) hm) _ _ _ _)

theorem State.fixSwitch_keeps (h : Keeps m s0 s) (hm : covers m [.regs, .chn, .host, .out] = true) : ∀ a1, Keeps m s0 (State.fixSwitch s a1) := by
  intro a1
  unfold State.fixSwitch
  split
  · exact h
  · extract_lets -merge -underBinder x0 x1 x2
    have hx2 : Keeps m s0 x2 := (keeps_chn h (covers_trans (by decide) hm))
    try clear_value x2
    refine State.when_keeps hx2 _ _ fun _ h3 => ?_
    exact (State.markLate_keeps (State.wr_keeps h3 (covers_trans (by decide) hm) _ _ _ _) (covers_trans (by decide) hm))

theorem State.beginSwitch_keeps (h : Keeps m s0 s) (hm : covers m [.regs, .chn, .host, .out] = true) : ∀ a1, Keeps m s0 (State.beginSwitch s a1).2 := by
  intro a1
  unfold State.beginSwitch
  extract_lets -merge -underBinder x0 x1 x2 x3 x4
  have hx4 : Keeps m s0 x4 := (State.wr_keeps (State.setXfading_keeps (keeps_chn h (covers_trans (by decide) hm)) (covers_trans (by decide) hm) _ _) (covers_trans (by decide) hm) _ _ _ _)
  try clear_value x4
  refine keeps_ite (P := fun (z : Nat × State) => Keeps m s0 z.2) ?_ ?_
  · exact (keeps_snd (P := fun z => Keeps m s0 z) (State.raise_keeps h (covers_trans (by decide) hm) _ _))
  · refine keeps_ite (P := fun (z : Nat × State) => Keeps m s0 z.2) ?_ ?_
    · exact (keeps_snd (P := fun z => Keeps m s0 z) (State.raise_keeps (State.wr_keeps h (covers_trans (by decide) hm) _ _ _ _) (covers_trans (by decide) hm) _ _))
    · refine keeps_snd (P := fun z => Keeps m s0 z) ?_
      refine keeps_ite (P := fun z => Keeps m s0 z) ?_ ?_
      · exact (State.fixSwitch_keeps hx4 (covers_trans (by decide) hm) _)
      · refine keeps_ite (P := fun z => Keeps m s0 z) ?_ ?_
        · exact (State.fixSwitch_keeps hx4 (covers_trans (by decide) hm) _)
        · exact hx4

theorem State.switchAtSwap_keeps (h : Keeps m s0 s) (hm : covers m [.regs, .chn, .host, .out] = true) : ∀ a1, Keeps m s0 (State.switchAtSwap s a1) := by
  intro a1
  unfold State.switchAtSwap
  split
  · refine keeps_ite (P := fun z => Keeps m s0 z) ?_ ?_
    · exact (State.fixSwitch_keeps h (covers_trans (by decide) hm) _)
    · exact h
  · exact h

theorem State.endSwitch_keeps (h : Keeps m s0 s) (hm : covers m [.regs, .chn] = true) : ∀ a1 a2, Keeps m s0 (State.endSwitch s a1 a2) := by
  intro a1 a2
  unfold State.endSwitch
  split
  · exact h
  · extract_lets -merge -underBinder x0 x1
    have hx0 : Keeps m s0 x0 := by
      subst x0
      refine keeps_ite (P := fun z => Keeps m s0 z) ?_ ?_
      · refine keeps_foldl (P := fun z => Keeps m s0 z) ?_ fun _ _ h2 => ?_
        · exact h
        · exact (State.wr_keeps h2 (covers_trans (by decide) hm) _ _ _ _)
      · exact h
    try clear_value x0
    exact (State.wr_keeps (State.setXfading_keeps (keeps_chn hx0 (covers_trans (by decide) hm)) (covers_trans (by decide) hm) _ _) (covers_trans (by decide) hm) _ _ _ _)

theorem State.cancelSwitchOfSwap_keeps (h : Keeps m s0 s) (hm : covers m [.regs, .chn] = true) : Keeps m s0 (State.cancelSwitchOfSwap s) := by
  unfold State.cancelSwitchOfSwap
  split
  · refine keeps_ite (P := fun z => Keeps m s0 z) ?_ ?_
    · exact (State.endSwitch_keeps h (covers_trans (by decide) hm) _ _)
    · exact h
  · exact h

theorem State.switchAtRestart_keeps (h : Keeps m s0 s) (hm : covers m [.regs, .chn, .host, .out] = true) : Keeps m s0 (State.switchAtRestart s) := by
  unfold State.switchAtRestart
  split
  · refine keeps_ite (P := fun z => Keeps m s0 z) ?_ ?_
    · exact (State.raise_keeps (State.endSwitch_keeps h (covers_trans (by decide) hm) _ _) (covers_trans (by decide) hm) _ _)
    · exact (State.endSwitch_keeps h (covers_trans (by decide) hm) _ _)
  · exact h

theorem execSwitchCrossfadeStart_keeps : ∀ t, execSwitchCrossfadeStart s = .next t →
    Keeps [.chn] s t := by
  intro t e
  have hm : covers [.chn] [.chn] = true := by decide
  have h := Keeps.refl [.chn] s
  unfold execSwitchCrossfadeStart at e
  replace e := Host.Outcome.next.inj e
  subst e
  split
  · refine keeps_ite (P := fun z => Keeps [.chn] s z) ?_ ?_
    · exact (keeps_chn h (covers_trans (by decide) hm))
    · exact h
  · exact h

theorem execSwitchDone_keeps : ∀ t, execSwitchDone s = .next t →
    Keeps [.regs, .chn, .host, .out] s t := by
  intro t e
  have hm : covers [.regs, .chn, .host, .out] [.regs, .chn, .host, .out] = true := by decide
  have h := Keeps.refl [.regs, .chn, .host, .out] s
  unfold execSwitchDone at e
  replace e := Host.Outcome.next.inj e
  subst e
  split
  · split
    · refine keeps_ite (P := fun z => Keeps [.regs, .chn, .host, .out] s z) ?_ ?_
      · exact (State.raise_keeps (State.endSwitch_keeps h (covers_trans (by decide) hm) _ _) (covers_trans (by decide) hm) _ _)
      · exact h
    · exact h
  · exact h

theorem execSwapCancel_keeps : ∀ t, execSwapCancel s = .next t →
    Keeps [.regs, .scn, .chn, .host, .out] s t := by
  intro t e
  have hm : covers [.regs, .scn, .chn, .host, .out] [.regs, .scn, .chn, .host, .out] = true := by decide
  have h := Keeps.refl [.regs, .scn, .chn, .host, .out] s
  unfold execSwapCancel at e
  replace e := Host.Outcome.next.inj e
  subst e
  refine keeps_ite (P := fun z => Keeps [.regs, .scn, .chn, .host, .out] s z) ?_ ?_
  · exact (State.cancelSwitchOfSwap_keeps (State.cancelSwap_keeps h (covers_trans (by decide) hm)) (covers_trans (by decide) hm))
  · exact h

theorem execJobGo_keeps : ∀ a0 t, execJobGo a0 s = .next t →
    Keeps [.regs, .chn] s t := by
  intro a0 t e
  have hm : covers [.regs, .chn] [.regs, .chn] = true := by decide
  have h := Keeps.refl [.regs, .chn] s
  unfold execJobGo at e
  extract_lets -merge -underBinder x0 x1 at e
  have hx1 : Keeps [.regs, .chn] s x1 := (State.wr_keeps (State.wr_keeps h (covers_trans (by decide) hm) _ _ _ _) (covers_trans (by decide) hm) _ _ _ _)
  try clear_value x1
  replace e := Host.Outcome.next.inj e
  subst e
  refine keeps_ite (P := fun z => Keeps [.regs, .chn] s z) ?_ ?_
  · exact hx1
  · refine keeps_ite (P := fun z => Keeps [.regs, .chn] s z) ?_ ?_
    · exact hx1
    · refine keeps_ite (P := fun z => Keeps [.regs, .chn] s z) ?_ ?_
      · exact (State.wr_keeps hx1 (covers_trans (by decide) hm) _ _ _ _)
      · exact (State.modChn_keeps (State.wr_keeps (State.wr_keeps hx1 (covers_trans (by decide) hm) _ _ _ _) (covers_trans (by decide) hm) _ _ _ _) (covers_trans (by decide) hm) _)

theorem State.churnClear_keeps (h : Keeps m s0 s) (hm : covers m [.mem, .chn] = true) : Keeps m s0 (State.churnClear s) := by
  unfold State.churnClear
  extract_lets -merge -underBinder x0 x1
  have hx0 : Keeps m s0 x0 := by
    subst x0
    refine keeps_foldl (P := fun z => Keeps m s0 z) ?_ fun _ _ h2 => ?_
    · exact h
    · extract_lets -merge -underBinder x3 x4
      exact (keeps_mem h2 (covers_trans (by decide) hm) fun c => sparseFilter_wf c _)
  try clear_value x0
  exact (keeps_chn hx0 (covers_trans (by decide) hm))

end Sys2Proof.Machine
end

