-- ==== Sys2Proof/Laws/KeepsFaults.lean ====
section
/-! SUPPORT. What each function of Machine/Faults.lean keeps: the parts of the state it can change, the canonical form of the stores,
the order of free values and outputs. One lemma per function, assembled from those of the functions it calls. -/
namespace Sys2Proof.Machine

variable {m : List Part} {s0 s : State}

theorem State.mirrorEntry_keeps (h : Keeps m s0 s) (hm : covers m [.mem] = true) : ∀ a1 a2, Keeps m s0 (State.mirrorEntry s a1 a2) := by
  intro a1 a2
  unfold State.mirrorEntry
  refine keeps_ite (P := fun z => Keeps m s0 z) ?_ ?_
  · extract_lets -merge -underBinder x0 x1
    have hx1 : Keeps m s0 x1 := by
      subst x1
      refine keeps_ite (P := fun z => Keeps m s0 z) ?_ ?_
      · exact (State.setBytes_keeps h (covers_trans (by decide) hm) _ _)
      · exact h
    try clear_value x1
    exact (State.setBytes_keeps (State.setBytes_keeps hx1 (covers_trans (by decide) hm) _ _) (covers_trans (by decide) hm) _ _)
  · exact h

theorem State.rollEntry_keeps (h : Keeps m s0 s) (hm : covers m [.regs, .mem, .host, .flt, .out] = true) : ∀ a1, Keeps m s0 (State.rollEntry s a1) := by
  intro a1
  unfold State.rollEntry
  extract_lets -merge -underBinder x0 x1 x2 x3 x4 x5
  have hx5 : Keeps m s0 x5 := (keeps_flt h (covers_trans (by decide) hm))
  try clear_value x5
  exact (State.raise_keeps (State.mirrorEntry_keeps (State.wr_keeps (State.wr_keeps hx5 (covers_trans (by decide) hm) _ _ _ _) (covers_trans (by decide) hm) _ _ _ _) (covers_trans (by decide) hm) _ _) (covers_trans (by decide) hm) _ _)

theorem State.rollIn_keeps (h : Keeps m s0 s) (hm : covers m [.regs, .mem, .host, .flt, .out] = true) : ∀ a1 a2 a3 a4 a5 a6 a7 a8, Keeps m s0 (State.rollIn s a1 a2 a3 a4 a5 a6 a7 a8) := by
  intro a1 a2 a3 a4 a5 a6 a7 a8
  unfold State.rollIn
  extract_lets -merge -underBinder x0 x1 x2 x3 x4 x5 x6
  have hx6 : Keeps m s0 x6 := (keeps_flt h (covers_trans (by decide) hm))
  try clear_value x6
  refine keeps_ite (P := fun z => Keeps m s0 z) ?_ ?_
  · exact (State.rollEntry_keeps hx6 (covers_trans (by decide) hm) _)
  · exact (State.raise_keeps hx6 (covers_trans (by decide) hm) _ _)

theorem State.rollHw_keeps (h : Keeps m s0 s) (hm : covers m [.regs, .mem, .host, .flt, .out] = true) : ∀ a1 a2 a3 a4, Keeps m s0 (State.rollHw s a1 a2 a3 a4) := by
  intro a1 a2 a3 a4
  unfold State.rollHw
  exact (State.rollIn_keeps h (covers_trans (by decide) hm) _ _ _ _ _ _ _ _)

theorem State.rollFw_keeps (h : Keeps m s0 s) (hm : covers m [.regs, .mem, .host, .flt, .out] = true) : ∀ a1 a2 a3, Keeps m s0 (State.rollFw s a1 a2 a3) := by
  intro a1 a2 a3
  unfold State.rollFw
  exact (State.rollIn_keeps h (covers_trans (by decide) hm) _ _ _ _ _ _ _ _)

theorem State.showFaultN_keeps (h : Keeps m s0 s) (hm : covers m [.regs] = true) : Keeps m s0 (State.showFaultN s) := by
  unfold State.showFaultN
  exact (State.wr_keeps h (covers_trans (by decide) hm) _ _ _ _)

theorem State.declareFault_keeps (h : Keeps m s0 s) (hm : covers m [.nbr] = true) : Keeps m s0 (State.declareFault s) := by
  unfold State.declareFault
  refine keeps_ite (P := fun z => Keeps m s0 z) ?_ ?_
  · exact (keeps_nbr h (covers_trans (by decide) hm))
  · exact h

theorem State.enterFailsafe_keeps (h : Keeps m s0 s) (hm : covers m [.regs, .scn, .chn, .host, .nbr, .flt, .out] = true) : ∀ a1, Keeps m s0 (State.enterFailsafe s a1) := by
  intro a1
  unfold State.enterFailsafe
  refine keeps_ite (P := fun z => Keeps m s0 z) ?_ ?_
  · exact (keeps_flt h (covers_trans (by decide) hm))
  · extract_lets -merge -underBinder x0 x1 x2 x3
    have hx0 : Keeps m s0 x0 := by
      subst x0
      refine keeps_ite (P := fun z => Keeps m s0 z) ?_ ?_
      · exact (State.cancelSwitchOfSwap_keeps (State.cancelSwap_keeps h (covers_trans (by decide) hm)) (covers_trans (by decide) hm))
      · exact h
    have hx2 : Keeps m s0 x2 := (keeps_flt hx0 (covers_trans (by decide) hm))
    have hx3 : Keeps m s0 x3 := by
      subst x3
      refine keeps_ite (P := fun z => Keeps m s0 z) ?_ ?_
      · exact (State.wr_keeps hx2 (covers_trans (by decide) hm) _ _ _ _)
      · exact hx2
    try clear_value x3
    try clear_value x2
    try clear_value x0
    exact (State.declareFault_keeps (State.raise_keeps (State.bump_keeps (State.wr_keeps (State.wr_keeps hx3 (covers_trans (by decide) hm) _ _ _ _) (covers_trans (by decide) hm) _ _ _ _) (covers_trans (by decide) hm) _ _ _ _) (covers_trans (by decide) hm) _ _) (covers_trans (by decide) hm))

theorem State.startFatal_keeps (h : Keeps m s0 s) (hm : covers m [.regs, .host, .flt, .out] = true) : ∀ a1, Keeps m s0 (State.startFatal s a1) := by
  intro a1
  unfold State.startFatal
  refine keeps_ite (P := fun z => Keeps m s0 z) ?_ ?_
  · exact h
  · exact (State.modFlt_keeps (State.raise_keeps (State.bump_keeps (State.wr_keeps h (covers_trans (by decide) hm) _ _ _ _) (covers_trans (by decide) hm) _ _ _ _) (covers_trans (by decide) hm) _ _) (covers_trans (by decide) hm) _)

theorem State.raiseFault_keeps (h : Keeps m s0 s) (hm : covers m [.regs, .mem, .scn, .chn, .host, .nbr, .flt, .out] = true) : ∀ a1 a2 a3, Keeps m s0 (State.raiseFault s a1 a2 a3) := by
  intro a1 a2 a3
  unfold State.raiseFault
  extract_lets -merge -underBinder x0 x1 x2 x3 x4 x5 x6 x7
  have hx2 : Keeps m s0 x2 := (State.rollIn_keeps h (covers_trans (by decide) hm) _ _ _ _ _ _ _ _)
  have hx3 : Keeps m s0 x3 := (State.wr_keeps hx2 (covers_trans (by decide) hm) _ _ _ _)
  have hx4 : Keeps m s0 x4 := by
    subst x4
    refine keeps_ite (P := fun z => Keeps m s0 z) ?_ ?_
    · exact (State.wr_keeps hx3 (covers_trans (by decide) hm) _ _ _ _)
    · exact hx3
  try clear_value x4
  try clear_value x3
  try clear_value x2
  refine (State.showFaultN_keeps ?_ (covers_trans (by decide) hm))
  refine keeps_ite (P := fun z => Keeps m s0 z) ?_ ?_
  · refine (State.startFatal_keeps ?_ (covers_trans (by decide) hm) _)
    dsimp -zeta only [x7]
    refine keeps_ite (P := fun z => Keeps m s0 z) ?_ ?_
    · refine (State.enterFailsafe_keeps ?_ (covers_trans (by decide) hm) _)
      dsimp -zeta only [x6]
      refine keeps_ite (P := fun z => Keeps m s0 z) ?_ ?_
      · exact (keeps_flt hx4 (covers_trans (by decide) hm))
      · exact hx4
    · refine keeps_ite (P := fun z => Keeps m s0 z) ?_ ?_
      · refine (State.raise_keeps ?_ (covers_trans (by decide) hm) _ _)
        dsimp -zeta only [x6]
        refine keeps_ite (P := fun z => Keeps m s0 z) ?_ ?_
        · exact (keeps_flt hx4 (covers_trans (by decide) hm))
        · exact hx4
      · dsimp -zeta only [x6]
        refine keeps_ite (P := fun z => Keeps m s0 z) ?_ ?_
        · exact (keeps_flt hx4 (covers_trans (by decide) hm))
        · exact hx4
  · dsimp -zeta only [x7]
    refine keeps_ite (P := fun z => Keeps m s0 z) ?_ ?_
    · refine (State.enterFailsafe_keeps ?_ (covers_trans (by decide) hm) _)
      dsimp -zeta only [x6]
      refine keeps_ite (P := fun z => Keeps m s0 z) ?_ ?_
      · exact (keeps_flt hx4 (covers_trans (by decide) hm))
      · exact hx4
    · refine keeps_ite (P := fun z => Keeps m s0 z) ?_ ?_
      · refine (State.raise_keeps ?_ (covers_trans (by decide) hm) _ _)
        dsimp -zeta only [x6]
        refine keeps_ite (P := fun z => Keeps m s0 z) ?_ ?_
        · exact (keeps_flt hx4 (covers_trans (by decide) hm))
        · exact hx4
      · dsimp -zeta only [x6]
        refine keeps_ite (P := fun z => Keeps m s0 z) ?_ ?_
        · exact (keeps_flt hx4 (covers_trans (by decide) hm))
        · exact hx4

theorem State.faultInactive_keeps (h : Keeps m s0 s) (hm : covers m [.regs] = true) : ∀ a1, Keeps m s0 (State.faultInactive s a1) := by
  intro a1
  unfold State.faultInactive
  exact (State.wr_keeps h (covers_trans (by decide) hm) _ _ _ _)

end Sys2Proof.Machine
end

