-- ==== Sys2Proof/Laws/KeepsFlash.lean ====
section
/-! SUPPORT. What each function of Machine/Flash.lean keeps: the parts of the state it can change, the canonical form of the stores,
the order of free values and outputs. One lemma per function, assembled from those of the functions it calls. -/
namespace Sys2Proof.Machine

variable {m : List Part} {s0 s : State}

theorem State.flashErased_keeps (h : Keeps m s0 s) (hm : covers m [.regs] = true) : ∀ a1, Keeps m s0 (State.flashErased s a1) := by
  intro a1
  unfold State.flashErased
  exact (State.bump_keeps h (covers_trans (by decide) hm) _ _ _ _)

theorem State.flashFailed_keeps (h : Keeps m s0 s) (hm : covers m [.regs] = true) : Keeps m s0 (State.flashFailed s) := by
  unfold State.flashFailed
  exact (State.bump_keeps h (covers_trans (by decide) hm) _ _ _ _)

theorem State.showRecord_keeps (h : Keeps m s0 s) (hm : covers m [.regs] = true) : Keeps m s0 (State.showRecord s) := by
  unfold State.showRecord
  extract_lets -merge -underBinder x0 x1
  exact (State.wr_keeps (State.wr_keeps (State.wr_keeps (State.wr_keeps h (covers_trans (by decide) hm) _ _ _ _) (covers_trans (by decide) hm) _ _ _ _) (covers_trans (by decide) hm) _ _ _ _) (covers_trans (by decide) hm) _ _ _ _)

theorem State.putSlot_keeps (h : Keeps m s0 s) (hm : covers m [.regs, .mem, .boot] = true) : ∀ a1 a2, Keeps m s0 (State.putSlot s a1 a2) := by
  intro a1 a2
  unfold State.putSlot
  extract_lets -merge -underBinder x0 x1 x2 x3 x4
  have hx2 : Keeps m s0 x2 := (State.modBoot_keeps h (covers_trans (by decide) hm) _)
  try clear_value x2
  exact (State.showRecord_keeps (State.flashErased_keeps (State.setBytes_keeps (keeps_mem hx2 (covers_trans (by decide) hm) fun c => sparseFilter_wf c _) (covers_trans (by decide) hm) _ _) (covers_trans (by decide) hm) _) (covers_trans (by decide) hm))

theorem State.readRecords_keeps (h : Keeps m s0 s) (hm : covers m [.regs, .boot] = true) : Keeps m s0 (State.readRecords s) := by
  unfold State.readRecords
  refine (State.showRecord_keeps ?_ (covers_trans (by decide) hm))
  split
  · exact (State.modBoot_keeps h (covers_trans (by decide) hm) _)
  · exact (State.modBoot_keeps h (covers_trans (by decide) hm) _)

theorem State.saveSettings_keeps (h : Keeps m s0 s) (hm : covers m [.regs, .mem, .boot] = true) : ∀ a1, Keeps m s0 (State.saveSettings s a1) := by
  intro a1
  unfold State.saveSettings
  extract_lets -merge -underBinder x0
  have hx0 : Keeps m s0 x0 := (State.modBoot_keeps h (covers_trans (by decide) hm) _)
  try clear_value x0
  split
  · exact hx0
  · extract_lets -merge -underBinder x1 x2 x3 x4 x5 x6
    exact (State.flashErased_keeps (State.setBytes_keeps (keeps_mem hx0 (covers_trans (by decide) hm) fun c => sparseFilter_wf c _) (covers_trans (by decide) hm) _ _) (covers_trans (by decide) hm) _)

theorem State.readSettings_keeps (h : Keeps m s0 s) (hm : covers m [.boot] = true) : Keeps m s0 (State.readSettings s) := by
  unfold State.readSettings
  split
  · exact (State.modBoot_keeps h (covers_trans (by decide) hm) _)
  · split
    · exact (State.modBoot_keeps h (covers_trans (by decide) hm) _)
    · extract_lets -merge -underBinder x0 x1
      exact (State.modBoot_keeps h (covers_trans (by decide) hm) _)

end Sys2Proof.Machine
end

