-- ==== Sys2Proof/Laws/KeepsMemory.lean ====
section
/-! SUPPORT. What each function of Machine/Memory.lean keeps: the parts of the state it can change, the canonical form of the stores,
the order of free values and outputs. One lemma per function, assembled from those of the functions it calls. -/
namespace Sys2Proof.Machine

variable {m : List Part} {s0 s : State}

theorem State.keepHolds_keeps (h : Keeps m s0 s) (hm : covers m [.regs, .memx] = true) : ∀ a1, Keeps m s0 (State.keepHolds s a1) := by
  intro a1
  unfold State.keepHolds
  extract_lets -merge -underBinder x0 x1
  exact (State.peak_keeps (keeps_memx h (covers_trans (by decide) hm)) (covers_trans (by decide) hm) _ _ _ _)

theorem State.granaryStore_keeps (h : Keeps m s0 s) (hm : covers m [.mem, .scn, .nbr, .memx, .out] = true) : ∀ a1 a2, Keeps m s0 (State.granaryStore s a1 a2) := by
  intro a1 a2
  unfold State.granaryStore
  extract_lets -merge -underBinder x0 x1 x2 x3 x4 x5 x6
  have hx1 : Keeps m s0 x1 := (State.setBytes_keeps h (covers_trans (by decide) hm) _ _)
  have hx3 : Keeps m s0 x3 := (keeps_memx hx1 (covers_trans (by decide) hm))
  have hx4 : Keeps m s0 x4 := by
    subst x4
    refine keeps_ite (P := fun z => Keeps m s0 z) ?_ ?_
    · exact (State.nbrSend_keeps hx3 (covers_trans (by decide) hm) _ _)
    · exact hx3
  try clear_value x4
  try clear_value x3
  try clear_value x1
  refine keeps_ite (P := fun z => Keeps m s0 z) ?_ ?_
  · refine keeps_scn ?_ (covers_trans (by decide) hm)
    dsimp -zeta only [x5]
    refine keeps_ite (P := fun z => Keeps m s0 z) ?_ ?_
    · exact (State.touch_keeps hx4 (covers_trans (by decide) hm) _ _)
    · exact hx4
  · dsimp -zeta only [x5]
    refine keeps_ite (P := fun z => Keeps m s0 z) ?_ ?_
    · exact (State.touch_keeps hx4 (covers_trans (by decide) hm) _ _)
    · exact hx4

theorem State.engineStore_keeps (h : Keeps m s0 s) (hm : covers m [.mem, .scn, .nbr, .memx, .out] = true) : ∀ a1 a2, Keeps m s0 (State.engineStore s a1 a2) := by
  intro a1 a2
  unfold State.engineStore
  refine keeps_ite (P := fun z => Keeps m s0 z) ?_ ?_
  · exact h
  · exact (State.engineWrite_keeps (State.granaryStore_keeps h (covers_trans (by decide) hm) _ _) (covers_trans (by decide) hm) _ _)

theorem State.queueHold_keeps (h : Keeps m s0 s) (hm : covers m [.regs, .host, .memx, .out] = true) : ∀ a1, Keeps m s0 (State.queueHold s a1) := by
  intro a1
  unfold State.queueHold
  extract_lets -merge -underBinder x0 x1
  have hx1 : Keeps m s0 x1 := (keeps_memx h (covers_trans (by decide) hm))
  try clear_value x1
  refine keeps_ite (P := fun z => Keeps m s0 z) ?_ ?_
  · exact (State.raise_keeps (State.bump_keeps hx1 (covers_trans (by decide) hm) _ _ _ _) (covers_trans (by decide) hm) _ _)
  · exact hx1

theorem State.granaryWrite_keeps (h : Keeps m s0 s) (hm : covers m [.regs, .mem, .scn, .host, .nbr, .memx, .out] = true) : ∀ a1 a2 a3 a4, Keeps m s0 (State.granaryWrite s a1 a2 a3 a4).2 := by
  intro a1 a2 a3 a4
  unfold State.granaryWrite
  extract_lets -merge -underBinder x0 x1 x2 x3 x4 x5
  refine keeps_ite (P := fun (z : GrnResult × State) => Keeps m s0 z.2) ?_ ?_
  · refine keeps_snd (P := fun z => Keeps m s0 z) ?_
    exact (State.queueHold_keeps h (covers_trans (by decide) hm) _)
  · refine keeps_ite (P := fun (z : GrnResult × State) => Keeps m s0 z.2) ?_ ?_
    · refine keeps_snd (P := fun z => Keeps m s0 z) ?_
      exact h
    · refine keeps_ite (P := fun (z : GrnResult × State) => Keeps m s0 z.2) ?_ ?_
      · refine keeps_snd (P := fun z => Keeps m s0 z) ?_
        exact (State.bump_keeps h (covers_trans (by decide) hm) _ _ _ _)
      · refine keeps_ite (P := fun (z : GrnResult × State) => Keeps m s0 z.2) ?_ ?_
        · refine keeps_snd (P := fun z => Keeps m s0 z) ?_
          exact (State.lockDrop_keeps h (covers_trans (by decide) hm))
        · refine keeps_ite (P := fun (z : GrnResult × State) => Keeps m s0 z.2) ?_ ?_
          · refine keeps_snd (P := fun z => Keeps m s0 z) ?_
            exact h
          · refine keeps_ite (P := fun (z : GrnResult × State) => Keeps m s0 z.2) ?_ ?_
            · refine keeps_snd (P := fun z => Keeps m s0 z) ?_
              exact (State.queueHold_keeps h (covers_trans (by decide) hm) _)
            · refine keeps_snd (P := fun z => Keeps m s0 z) ?_
              exact (State.granaryStore_keeps (State.keepHolds_keeps h (covers_trans (by decide) hm) _) (covers_trans (by decide) hm) _ _)

theorem execGranaryWrite_keeps : ∀ a0 a1 a2 t, execGranaryWrite a0 a1 a2 s = .next t →
    Keeps [.regs, .mem, .scn, .host, .nbr, .memx, .resp, .out] s t := by
  intro a0 a1 a2 t e
  have hm : covers [.regs, .mem, .scn, .host, .nbr, .memx, .resp, .out] [.regs, .mem, .scn, .host, .nbr, .memx, .resp, .out] = true := by decide
  have h := Keeps.refl [.regs, .mem, .scn, .host, .nbr, .memx, .resp, .out] s
  unfold execGranaryWrite at e
  replace e := Host.Outcome.next.inj e
  subst e
  refine keeps_ite (P := fun z => Keeps [.regs, .mem, .scn, .host, .nbr, .memx, .resp, .out] s z) ?_ ?_
  · exact h
  · refine keeps_ite (P := fun z => Keeps [.regs, .mem, .scn, .host, .nbr, .memx, .resp, .out] s z) ?_ ?_
    · exact (State.respond_keeps h (covers_trans (by decide) hm) _ _ _)
    · extract_lets -merge -underBinder x0
      have hx0 : Keeps [.regs, .mem, .scn, .host, .nbr, .memx, .resp, .out] s x0.2 := (State.granaryWrite_keeps h (covers_trans (by decide) hm) _ _ _ _)
      try clear_value x0
      split
      · exact hx0
      · exact (State.respond_keeps hx0 (covers_trans (by decide) hm) _ _ _)
      · exact (State.respond_keeps hx0 (covers_trans (by decide) hm) _ _ _)

theorem State.engineHeldWrite_keeps (h : Keeps m s0 s) (hm : covers m [.regs, .mem, .scn, .host, .nbr, .memx, .out] = true) : ∀ a1, Keeps m s0 (State.engineHeldWrite s a1) := by
  intro a1
  unfold State.engineHeldWrite
  refine keeps_ite (P := fun z => Keeps m s0 z) ?_ ?_
  · exact (State.lockDrop_keeps h (covers_trans (by decide) hm))
  · extract_lets -merge -underBinder x0
    refine keeps_ite (P := fun z => Keeps m s0 z) ?_ ?_
    · exact (State.queueHold_keeps h (covers_trans (by decide) hm) _)
    · exact (State.engineStore_keeps (State.keepHolds_keeps h (covers_trans (by decide) hm) _) (covers_trans (by decide) hm) _ _)

theorem State.eccUncorr_keeps (h : Keeps m s0 s) (hm : covers m [.regs, .mem, .scn, .chn, .host, .nbr, .memx, .flt, .out] = true) : ∀ a1 a2, Keeps m s0 (State.eccUncorr s a1 a2) := by
  intro a1 a2
  unfold State.eccUncorr
  exact (State.raiseFault_keeps (State.wr_keeps (State.wr_keeps (State.eccNote_keeps h (covers_trans (by decide) hm) _) (covers_trans (by decide) hm) _ _ _ _) (covers_trans (by decide) hm) _ _ _ _) (covers_trans (by decide) hm) _ _ _)

theorem State.eccEngine_keeps (h : Keeps m s0 s) (hm : covers m [.regs, .mem, .scn, .chn, .host, .nbr, .memx, .flt, .out] = true) : ∀ a1, Keeps m s0 (State.eccEngine s a1) := by
  intro a1
  unfold State.eccEngine
  exact (State.raiseFault_keeps (State.eccNote_keeps h (covers_trans (by decide) hm) _) (covers_trans (by decide) hm) _ _ _)

theorem State.eccCorr_keeps (h : Keeps m s0 s) (hm : covers m [.regs, .mem, .host, .memx, .flt, .out] = true) : ∀ a1, Keeps m s0 (State.eccCorr s a1) := by
  intro a1
  unfold State.eccCorr
  extract_lets -merge -underBinder x0 x1 x2 x3
  have hx2 : Keeps m s0 x2 := (State.rollHw_keeps (State.raise_keeps (State.bump_keeps h (covers_trans (by decide) hm) _ _ _ _) (covers_trans (by decide) hm) _ _) (covers_trans (by decide) hm) _ _ _ _)
  try clear_value x2
  exact (keeps_memx hx2 (covers_trans (by decide) hm))

theorem State.eccSoft_keeps (h : Keeps m s0 s) (hm : covers m [.regs, .mem, .host, .memx, .flt, .out] = true) : ∀ a1 a2, Keeps m s0 (State.eccSoft s a1 a2) := by
  intro a1 a2
  unfold State.eccSoft
  refine keeps_foldl (P := fun z => Keeps m s0 z) ?_ fun _ _ h0 => ?_
  · exact h
  · exact (State.eccCorr_keeps h0 (covers_trans (by decide) hm) _)

theorem State.granaryRead_keeps (h : Keeps m s0 s) (hm : covers m [.regs, .mem, .scn, .chn, .host, .nbr, .memx, .flt, .out] = true) : ∀ a1 a2 a3, Keeps m s0 (State.granaryRead s a1 a2 a3).2 := by
  intro a1 a2 a3
  unfold State.granaryRead
  refine keeps_ite (P := fun (z : Option Nat × State) => Keeps m s0 z.2) ?_ ?_
  · refine keeps_snd (P := fun z => Keeps m s0 z) ?_
    exact h
  · extract_lets -merge -underBinder x0
    have hx0 : Keeps m s0 x0 := (State.eccSoft_keeps h (covers_trans (by decide) hm) _ _)
    try clear_value x0
    refine keeps_ite (P := fun (z : Option Nat × State) => Keeps m s0 z.2) ?_ ?_
    · refine keeps_snd (P := fun z => Keeps m s0 z) ?_
      exact (State.eccUncorr_keeps hx0 (covers_trans (by decide) hm) _ _)
    · refine keeps_snd (P := fun z => Keeps m s0 z) ?_
      exact hx0

theorem State.upset_keeps (h : Keeps m s0 s) (hm : covers m [.memx] = true) : ∀ a1, Keeps m s0 (State.upset s a1) := by
  intro a1
  unfold State.upset
  refine keeps_foldl (P := fun z => Keeps m s0 z) ?_ fun _ _ h0 => ?_
  · exact h
  · refine keeps_ite (P := fun z => Keeps m s0 z) ?_ ?_
    · exact h0
    · refine keeps_ite (P := fun z => Keeps m s0 z) ?_ ?_
      · exact (keeps_memx h0 (covers_trans (by decide) hm))
      · exact (keeps_memx h0 (covers_trans (by decide) hm))

theorem execGranaryRead_keeps : ∀ a0 a1 a2 t, execGranaryRead a0 a1 a2 s = .next t →
    Keeps [.regs, .mem, .scn, .chn, .host, .nbr, .memx, .flt, .resp, .out] s t := by
  intro a0 a1 a2 t e
  have hm : covers [.regs, .mem, .scn, .chn, .host, .nbr, .memx, .flt, .resp, .out] [.regs, .mem, .scn, .chn, .host, .nbr, .memx, .flt, .resp, .out] = true := by decide
  have h := Keeps.refl [.regs, .mem, .scn, .chn, .host, .nbr, .memx, .flt, .resp, .out] s
  unfold execGranaryRead at e
  extract_lets -merge -underBinder x0 x1 at e
  have hx1 : Keeps [.regs, .mem, .scn, .chn, .host, .nbr, .memx, .flt, .resp, .out] s x1 := (State.upset_keeps h (covers_trans (by decide) hm) _)
  try clear_value x1
  replace e := Host.Outcome.next.inj e
  subst e
  refine keeps_ite (P := fun z => Keeps [.regs, .mem, .scn, .chn, .host, .nbr, .memx, .flt, .resp, .out] s z) ?_ ?_
  · exact hx1
  · refine keeps_ite (P := fun z => Keeps [.regs, .mem, .scn, .chn, .host, .nbr, .memx, .flt, .resp, .out] s z) ?_ ?_
    · exact (State.respond_keeps hx1 (covers_trans (by decide) hm) _ _ _)
    · split
      · rename_i t2 et2
        have ht2 : Keeps [.regs, .mem, .scn, .chn, .host, .nbr, .memx, .flt, .resp, .out] s t2 :=
          keeps_of_eq (P := fun z => Keeps [.regs, .mem, .scn, .chn, .host, .nbr, .memx, .flt, .resp, .out] s z.2) et2 (State.granaryRead_keeps hx1 (covers_trans (by decide) hm) _ _ _)
        exact (State.respond_keeps ht2 (covers_trans (by decide) hm) _ _ _)
      · rename_i t3 et3
        have ht3 : Keeps [.regs, .mem, .scn, .chn, .host, .nbr, .memx, .flt, .resp, .out] s t3 :=
          keeps_of_eq (P := fun z => Keeps [.regs, .mem, .scn, .chn, .host, .nbr, .memx, .flt, .resp, .out] s z.2) et3 (State.granaryRead_keeps hx1 (covers_trans (by decide) hm) _ _ _)
        exact (State.respond_keeps ht3 (covers_trans (by decide) hm) _ _ _)

theorem execEccWriteback_keeps : ∀ a0 t, execEccWriteback a0 s = .next t →
    Keeps [.memx] s t := by
  intro a0 t e
  have hm : covers [.memx] [.memx] = true := by decide
  have h := Keeps.refl [.memx] s
  unfold execEccWriteback at e
  replace e := Host.Outcome.next.inj e
  subst e
  exact (keeps_memx h (covers_trans (by decide) hm))

theorem State.sweepFail_keeps (h : Keeps m s0 s) (hm : covers m [.regs] = true) : ∀ a1 a2, Keeps m s0 (State.sweepFail s a1 a2) := by
  intro a1 a2
  unfold State.sweepFail
  refine keeps_ite (P := fun z => Keeps m s0 z) ?_ ?_
  · exact h
  · exact (State.wr_keeps (State.wr_keeps (State.wr_keeps (State.wr_keeps h (covers_trans (by decide) hm) _ _ _ _) (covers_trans (by decide) hm) _ _ _ _) (covers_trans (by decide) hm) _ _ _ _) (covers_trans (by decide) hm) _ _ _ _)

theorem State.mapSpare_keeps (h : Keeps m s0 s) (hm : covers m [.regs, .mem, .scn, .chn, .host, .nbr, .memx, .boot, .flt, .out] = true) : ∀ a1, Keeps m s0 (State.mapSpare s a1) := by
  intro a1
  unfold State.mapSpare
  extract_lets -merge -underBinder x0 x1 x2 x3 x4 x5
  have hx1 : Keeps m s0 x1 := (State.wr_keeps h (covers_trans (by decide) hm) _ _ _ _)
  have hx3 : Keeps m s0 x3 := (keeps_memx hx1 (covers_trans (by decide) hm))
  have hx5 : Keeps m s0 x5 := (State.saveSettings_keeps hx3 (covers_trans (by decide) hm) _)
  try clear_value x5
  try clear_value x3
  try clear_value x1
  refine keeps_ite (P := fun z => Keeps m s0 z) ?_ ?_
  · exact h
  · refine keeps_ite (P := fun z => Keeps m s0 z) ?_ ?_
    · exact (State.rollHw_keeps (State.raise_keeps hx5 (covers_trans (by decide) hm) _ _) (covers_trans (by decide) hm) _ _ _ _)
    · exact (State.raiseFault_keeps (State.raise_keeps h (covers_trans (by decide) hm) _ _) (covers_trans (by decide) hm) _ _ _)

theorem State.sweepNext_keeps (h : Keeps m s0 s) (hm : covers m [.regs, .host, .memx, .out] = true) : Keeps m s0 (State.sweepNext s) := by
  unfold State.sweepNext
  extract_lets -merge -underBinder x0 x1 x2 x3
  have hx3 : Keeps m s0 x3 := (keeps_memx h (covers_trans (by decide) hm))
  try clear_value x3
  refine keeps_ite (P := fun z => Keeps m s0 z) ?_ ?_
  · exact (State.wr_keeps hx3 (covers_trans (by decide) hm) _ _ _ _)
  · refine keeps_ite (P := fun z => Keeps m s0 z) ?_ ?_
    · exact (State.wr_keeps (State.wr_keeps hx3 (covers_trans (by decide) hm) _ _ _ _) (covers_trans (by decide) hm) _ _ _ _)
    · exact (State.raise_keeps (State.bump_keeps (State.wr_keeps (State.wr_keeps hx3 (covers_trans (by decide) hm) _ _ _ _) (covers_trans (by decide) hm) _ _ _ _) (covers_trans (by decide) hm) _ _ _ _) (covers_trans (by decide) hm) _ _)

theorem State.sweepRow_keeps (h : Keeps m s0 s) (hm : covers m [.regs, .mem, .scn, .chn, .host, .nbr, .memx, .boot, .flt, .out] = true) : ∀ a1, Keeps m s0 (State.sweepRow s a1) := by
  intro a1
  unfold State.sweepRow
  extract_lets -merge -underBinder x0 x1 x2 x3 x4 x5 x6 x7
  have hx2 : Keeps m s0 x2 := (State.bump_keeps h (covers_trans (by decide) hm) _ _ _ _)
  have hx4 : Keeps m s0 x4 := (keeps_memx hx2 (covers_trans (by decide) hm))
  have hx5 : Keeps m s0 x5 := by
    subst x5
    refine keeps_ite (P := fun z => Keeps m s0 z) ?_ ?_
    · exact (State.raise_keeps (State.sweepFail_keeps h (covers_trans (by decide) hm) _ _) (covers_trans (by decide) hm) _ _)
    · exact h
  have hx6 : Keeps m s0 x6 := by
    subst x6
    refine keeps_ite (P := fun z => Keeps m s0 z) ?_ ?_
    · exact (State.mapSpare_keeps hx5 (covers_trans (by decide) hm) _)
    · exact hx5
  try clear_value x6
  try clear_value x5
  try clear_value x4
  try clear_value x2
  refine keeps_ite (P := fun z => Keeps m s0 z) ?_ ?_
  · refine keeps_ite (P := fun z => Keeps m s0 z) ?_ ?_
    · exact (State.sweepNext_keeps (State.raise_keeps (State.sweepFail_keeps hx4 (covers_trans (by decide) hm) _ _) (covers_trans (by decide) hm) _ _) (covers_trans (by decide) hm))
    · exact hx4
  · exact (State.sweepNext_keeps (keeps_memx hx6 (covers_trans (by decide) hm)) (covers_trans (by decide) hm))

theorem execSweeperRowTest_keeps : ∀ a0 t, execSweeperRowTest a0 s = .next t →
    Keeps [.regs, .mem, .scn, .chn, .host, .nbr, .memx, .boot, .flt, .out] s t := by
  intro a0 t e
  have hm : covers [.regs, .mem, .scn, .chn, .host, .nbr, .memx, .boot, .flt, .out] [.regs, .mem, .scn, .chn, .host, .nbr, .memx, .boot, .flt, .out] = true := by decide
  have h := Keeps.refl [.regs, .mem, .scn, .chn, .host, .nbr, .memx, .boot, .flt, .out] s
  unfold execSweeperRowTest at e
  replace e := Host.Outcome.next.inj e
  subst e
  refine keeps_ite (P := fun z => Keeps [.regs, .mem, .scn, .chn, .host, .nbr, .memx, .boot, .flt, .out] s z) ?_ ?_
  · refine keeps_foldl (P := fun z => Keeps [.regs, .mem, .scn, .chn, .host, .nbr, .memx, .boot, .flt, .out] s z) ?_ fun _ _ h0 => ?_
    · exact h
    · exact (State.sweepRow_keeps h0 (covers_trans (by decide) hm) _)
  · exact h

theorem State.startWipe_keeps (h : Keeps m s0 s) (hm : covers m [.regs, .memx] = true) : ∀ a1, Keeps m s0 (State.startWipe s a1) := by
  intro a1
  unfold State.startWipe
  exact (State.wr_keeps (keeps_memx h (covers_trans (by decide) hm)) (covers_trans (by decide) hm) _ _ _ _)

theorem execTamper_keeps : ∀ a0 a1 t, execTamper a0 a1 s = .next t →
    Keeps [.regs, .mem, .scn, .chn, .host, .nbr, .memx, .flt, .out] s t := by
  intro a0 a1 t e
  have hm : covers [.regs, .mem, .scn, .chn, .host, .nbr, .memx, .flt, .out] [.regs, .mem, .scn, .chn, .host, .nbr, .memx, .flt, .out] = true := by decide
  have h := Keeps.refl [.regs, .mem, .scn, .chn, .host, .nbr, .memx, .flt, .out] s
  unfold execTamper at e
  extract_lets -merge -underBinder x0 x1 at e
  have hx0 : Keeps [.regs, .mem, .scn, .chn, .host, .nbr, .memx, .flt, .out] s x0 := by
    subst x0
    refine keeps_ite (P := fun z => Keeps [.regs, .mem, .scn, .chn, .host, .nbr, .memx, .flt, .out] s z) ?_ ?_
    · exact (State.wr_keeps h (covers_trans (by decide) hm) _ _ _ _)
    · exact (State.wr_keeps h (covers_trans (by decide) hm) _ _ _ _)
  try clear_value x0
  replace e := Host.Outcome.next.inj e
  subst e
  refine keeps_ite (P := fun z => Keeps [.regs, .mem, .scn, .chn, .host, .nbr, .memx, .flt, .out] s z) ?_ ?_
  · exact (State.raiseFault_keeps (State.startWipe_keeps hx0 (covers_trans (by decide) hm) _) (covers_trans (by decide) hm) _ _ _)
  · exact hx0

theorem execStrWipe_keeps : ∀ a0 t, execStrWipe a0 s = .next t →
    Keeps [.regs, .memx] s t := by
  intro a0 t e
  have hm : covers [.regs, .memx] [.regs, .memx] = true := by decide
  have h := Keeps.refl [.regs, .memx] s
  unfold execStrWipe at e
  replace e := Host.Outcome.next.inj e
  subst e
  refine keeps_ite (P := fun z => Keeps [.regs, .memx] s z) ?_ ?_
  · exact (State.startWipe_keeps h (covers_trans (by decide) hm) _)
  · exact h

theorem State.loadMacs_keeps (h : Keeps m s0 s) (hm : covers m [.regs, .live] = true) : Keeps m s0 (State.loadMacs s) := by
  unfold State.loadMacs
  refine keeps_foldl (P := fun z => Keeps m s0 z) ?_ fun _ _ h0 => ?_
  · exact h
  · exact (State.wrBoth_keeps (State.wrBoth_keeps h0 (covers_trans (by decide) hm) _ _ _ _) (covers_trans (by decide) hm) _ _ _ _)

theorem State.identity_keeps (h : Keeps m s0 s) (hm : covers m [.mem] = true) : Keeps m s0 (State.identity s) := by
  unfold State.identity
  extract_lets -merge -underBinder x0 x1 x2 x3
  have hx1 : Keeps m s0 x1 := (State.store_keeps h (covers_trans (by decide) hm) _ _ _)
  have hx2 : Keeps m s0 x2 := by
    subst x2
    refine keeps_foldl (P := fun z => Keeps m s0 z) ?_ fun _ _ h4 => ?_
    · exact hx1
    · exact (State.store_keeps h4 (covers_trans (by decide) hm) _ _ _)
  try clear_value x2
  try clear_value x1
  exact (State.store_keeps (State.store_keeps hx2 (covers_trans (by decide) hm) _ _ _) (covers_trans (by decide) hm) _ _ _)

theorem State.wipeEnd_keeps (h : Keeps m s0 s) (hm : covers m [.regs, .mem, .host, .memx, .boot, .flt, .out] = true) : ∀ a1, Keeps m s0 (State.wipeEnd s a1) := by
  intro a1
  unfold State.wipeEnd
  extract_lets -merge -underBinder x0 x1 x2
  have hx2 : Keeps m s0 x2 := (keeps_boot (keeps_memx (keeps_mem h (covers_trans (by decide) hm) fun c => sparseFilter_wf c _) (covers_trans (by decide) hm)) (covers_trans (by decide) hm))
  try clear_value x2
  exact (State.rollHw_keeps (State.raise_keeps (State.wr_keeps (State.wr_keeps (State.wr_keeps hx2 (covers_trans (by decide) hm) _ _ _ _) (covers_trans (by decide) hm) _ _ _ _) (covers_trans (by decide) hm) _ _ _ _) (covers_trans (by decide) hm) _ _) (covers_trans (by decide) hm) _ _ _ _)

theorem execWipeDone_keeps : ∀ t, execWipeDone s = .next t →
    Keeps [.regs, .mem, .host, .memx, .boot, .flt, .out] s t := by
  intro t e
  have hm : covers [.regs, .mem, .host, .memx, .boot, .flt, .out] [.regs, .mem, .host, .memx, .boot, .flt, .out] = true := by decide
  have h := Keeps.refl [.regs, .mem, .host, .memx, .boot, .flt, .out] s
  unfold execWipeDone at e
  replace e := Host.Outcome.next.inj e
  subst e
  split
  · exact h
  · exact (State.identity_keeps (State.wipeEnd_keeps h (covers_trans (by decide) hm) _) (covers_trans (by decide) hm))

theorem State.setDebt_keeps (h : Keeps m s0 s) (hm : covers m [.regs, .memx] = true) : ∀ a1 a2, Keeps m s0 (State.setDebt s a1 a2) := by
  intro a1 a2
  unfold State.setDebt
  exact (State.peak_keeps (keeps_memx h (covers_trans (by decide) hm)) (covers_trans (by decide) hm) _ _ _ _)

theorem execRefreshDebtTick_keeps : ∀ a0 a1 t, execRefreshDebtTick a0 a1 s = .next t →
    Keeps [.regs, .memx, .out] s t := by
  intro a0 a1 t e
  have hm : covers [.regs, .memx, .out] [.regs, .memx, .out] = true := by decide
  have h := Keeps.refl [.regs, .memx, .out] s
  unfold execRefreshDebtTick at e
  replace e := Host.Outcome.next.inj e
  subst e
  refine keeps_ite (P := fun z => Keeps [.regs, .memx, .out] s z) ?_ ?_
  · extract_lets -merge -underBinder x0 x1
    have hx1 : Keeps [.regs, .memx, .out] s x1 := (State.setDebt_keeps h (covers_trans (by decide) hm) _ _)
    try clear_value x1
    refine keeps_ite (P := fun z => Keeps [.regs, .memx, .out] s z) ?_ ?_
    · exact (State.emit_keeps (State.setDebt_keeps hx1 (covers_trans (by decide) hm) _ _) (covers_trans (by decide) hm) _)
    · exact hx1
  · exact h

theorem execSupervisoryRefresh_keeps : ∀ a0 t, execSupervisoryRefresh a0 s = .next t →
    Keeps [.regs, .memx, .out] s t := by
  intro a0 t e
  have hm : covers [.regs, .memx, .out] [.regs, .memx, .out] = true := by decide
  have h := Keeps.refl [.regs, .memx, .out] s
  unfold execSupervisoryRefresh at e
  replace e := Host.Outcome.next.inj e
  subst e
  refine keeps_ite (P := fun z => Keeps [.regs, .memx, .out] s z) ?_ ?_
  · exact (State.emit_keeps (State.setDebt_keeps h (covers_trans (by decide) hm) _ _) (covers_trans (by decide) hm) _)
  · exact h

theorem State.refreshRecount_keeps (h : Keeps m s0 s) (hm : covers m [.regs, .mem, .host, .memx, .flt, .out] = true) : ∀ a1 a2 a3, Keeps m s0 (State.refreshRecount s a1 a2 a3) := by
  intro a1 a2 a3
  unfold State.refreshRecount
  extract_lets -merge -underBinder x0 x1 x2 x3 x4 x5
  have hx4 : Keeps m s0 x4 := by
    subst x4
    refine keeps_foldl (P := fun z => Keeps m s0 z) ?_ fun _ _ h6 => ?_
    · exact (State.setDebt_keeps h (covers_trans (by decide) hm) _ _)
    · exact (State.emit_keeps h6 (covers_trans (by decide) hm) _)
  have hx5 : Keeps m s0 x5 := (State.bump_keeps (State.peak_keeps (State.setDebt_keeps hx4 (covers_trans (by decide) hm) _ _) (covers_trans (by decide) hm) _ _ _ _) (covers_trans (by decide) hm) _ _ _ _)
  try clear_value x5
  try clear_value x4
  refine keeps_ite (P := fun z => Keeps m s0 z) ?_ ?_
  · exact (State.setDebt_keeps h (covers_trans (by decide) hm) _ _)
  · exact (State.rollIn_keeps (State.raise_keeps hx5 (covers_trans (by decide) hm) _ _) (covers_trans (by decide) hm) _ _ _ _ _ _ _ _)

theorem State.setCelClass_keeps (h : Keeps m s0 s) (hm : covers m [.regs, .mem, .scn, .chn, .host, .nbr, .flt, .out] = true) : ∀ a1 a2, Keeps m s0 (State.setCelClass s a1 a2) := by
  intro a1 a2
  unfold State.setCelClass
  extract_lets -merge -underBinder x0 x1 x2
  have hx1 : Keeps m s0 x1 := (State.wr_keeps h (covers_trans (by decide) hm) _ _ _ _)
  have hx2 : Keeps m s0 x2 := by
    subst x2
    refine keeps_ite (P := fun z => Keeps m s0 z) ?_ ?_
    · exact (State.raise_keeps hx1 (covers_trans (by decide) hm) _ _)
    · refine keeps_ite (P := fun z => Keeps m s0 z) ?_ ?_
      · exact (State.raiseFault_keeps (State.raise_keeps hx1 (covers_trans (by decide) hm) _ _) (covers_trans (by decide) hm) _ _ _)
      · exact hx1
  try clear_value x2
  try clear_value x1
  refine keeps_ite (P := fun z => Keeps m s0 z) ?_ ?_
  · exact (State.faultInactive_keeps hx2 (covers_trans (by decide) hm) _)
  · exact hx2

theorem execMr4Poll_keeps : ∀ a0 a1 a2 a3 t, execMr4Poll a0 a1 a2 a3 s = .next t →
    Keeps [.regs, .mem, .scn, .chn, .host, .nbr, .memx, .flt, .out] s t := by
  intro a0 a1 a2 a3 t e
  have hm : covers [.regs, .mem, .scn, .chn, .host, .nbr, .memx, .flt, .out] [.regs, .mem, .scn, .chn, .host, .nbr, .memx, .flt, .out] = true := by decide
  have h := Keeps.refl [.regs, .mem, .scn, .chn, .host, .nbr, .memx, .flt, .out] s
  unfold execMr4Poll at e
  replace e := Host.Outcome.next.inj e
  subst e
  refine keeps_ite (P := fun z => Keeps [.regs, .mem, .scn, .chn, .host, .nbr, .memx, .flt, .out] s z) ?_ ?_
  · extract_lets -merge -underBinder x0 x1 x2 x3 x4
    have hx2 : Keeps [.regs, .mem, .scn, .chn, .host, .nbr, .memx, .flt, .out] s x2 := (State.wr_keeps h (covers_trans (by decide) hm) _ _ _ _)
    try clear_value x2
    refine keeps_ite (P := fun z => Keeps [.regs, .mem, .scn, .chn, .host, .nbr, .memx, .flt, .out] s z) ?_ ?_
    · refine (State.refreshRecount_keeps ?_ (covers_trans (by decide) hm) _ _ _)
      try dsimp -zeta only [x4]
      exact (keeps_memx (State.setCelClass_keeps hx2 (covers_trans (by decide) hm) _ _) (covers_trans (by decide) hm))
    · refine keeps_ite (P := fun z => Keeps [.regs, .mem, .scn, .chn, .host, .nbr, .memx, .flt, .out] s z) ?_ ?_
      · refine keeps_ite (P := fun z => Keeps [.regs, .mem, .scn, .chn, .host, .nbr, .memx, .flt, .out] s z) ?_ ?_
        · try dsimp -zeta only [x4]
          exact (keeps_memx (State.setCelClass_keeps hx2 (covers_trans (by decide) hm) _ _) (covers_trans (by decide) hm))
        · try dsimp -zeta only [x4]
          exact (keeps_memx hx2 (covers_trans (by decide) hm))
      · try dsimp -zeta only [x4]
        exact (keeps_memx hx2 (covers_trans (by decide) hm))
  · exact h

theorem execWck2dqPoll_keeps : ∀ a0 t, execWck2dqPoll a0 s = .next t →
    Keeps [.out] s t := by
  intro a0 t e
  have hm : covers [.out] [.out] = true := by decide
  have h := Keeps.refl [.out] s
  unfold execWck2dqPoll at e
  replace e := Host.Outcome.next.inj e
  subst e
  refine keeps_ite (P := fun z => Keeps [.out] s z) ?_ ?_
  · exact (State.emit_keeps h (covers_trans (by decide) hm) _)
  · exact h

theorem execSelfRefresh_keeps : ∀ a0 t, execSelfRefresh a0 s = .next t →
    Keeps [.regs, .memx] s t := by
  intro a0 t e
  have hm : covers [.regs, .memx] [.regs, .memx] = true := by decide
  have h := Keeps.refl [.regs, .memx] s
  unfold execSelfRefresh at e
  replace e := Host.Outcome.next.inj e
  subst e
  refine keeps_ite (P := fun z => Keeps [.regs, .memx] s z) ?_ ?_
  · exact h
  · exact (State.wr_keeps (keeps_memx h (covers_trans (by decide) hm)) (covers_trans (by decide) hm) _ _ _ _)

theorem State.showGln_keeps (h : Keeps m s0 s) (hm : covers m [.regs] = true) : Keeps m s0 (State.showGln s) := by
  unfold State.showGln
  extract_lets -merge -underBinder x0 x1
  exact (State.wr_keeps (State.wr_keeps (State.wr_keeps (State.wr_keeps h (covers_trans (by decide) hm) _ _ _ _) (covers_trans (by decide) hm) _ _ _ _) (covers_trans (by decide) hm) _ _ _ _) (covers_trans (by decide) hm) _ _ _ _)

theorem State.glnReset_keeps (h : Keeps m s0 s) (hm : covers m [.regs, .memx] = true) : Keeps m s0 (State.glnReset s) := by
  unfold State.glnReset
  extract_lets -merge -underBinder x0 x1 x2 x3
  have hx1 : Keeps m s0 x1 := (State.wr_keeps (State.wr_keeps h (covers_trans (by decide) hm) _ _ _ _) (covers_trans (by decide) hm) _ _ _ _)
  have hx3 : Keeps m s0 x3 := (keeps_memx hx1 (covers_trans (by decide) hm))
  try clear_value x3
  try clear_value x1
  exact (State.showGln_keeps (State.wr_keeps (State.wr_keeps (State.wr_keeps (State.wr_keeps hx3 (covers_trans (by decide) hm) _ _ _ _) (covers_trans (by decide) hm) _ _ _ _) (covers_trans (by decide) hm) _ _ _ _) (covers_trans (by decide) hm) _ _ _ _) (covers_trans (by decide) hm))

theorem State.glnWrite_keeps (h : Keeps m s0 s) (hm : covers m [.mem] = true) : Keeps m s0 (State.glnWrite s) := by
  unfold State.glnWrite
  split
  · exact h
  · extract_lets -merge -underBinder x0
    exact (State.setBytes_keeps (State.setBytes_keeps h (covers_trans (by decide) hm) _ _) (covers_trans (by decide) hm) _ _)

theorem State.gleanerStage_keeps (h : Keeps m s0 s) (hm : covers m [.regs, .mem, .host, .memx, .out] = true) : ∀ a1, Keeps m s0 (State.gleanerStage s a1) := by
  intro a1
  unfold State.gleanerStage
  refine keeps_ite (P := fun z => Keeps m s0 z) ?_ ?_
  · exact h
  · extract_lets -merge -underBinder x0 x1 x2 x3 x4 x5 x6 x7 x8 x9
    have hx8 : Keeps m s0 x8 := (keeps_memx h (covers_trans (by decide) hm))
    have hx9 : Keeps m s0 x9 := by
      subst x9
      refine keeps_ite (P := fun z => Keeps m s0 z) ?_ ?_
      · exact (State.glnWrite_keeps hx8 (covers_trans (by decide) hm))
      · exact hx8
    try clear_value x9
    try clear_value x8
    refine keeps_ite (P := fun z => Keeps m s0 z) ?_ ?_
    · exact (State.raise_keeps (State.bump_keeps hx9 (covers_trans (by decide) hm) _ _ _ _) (covers_trans (by decide) hm) _ _)
    · exact hx9

theorem State.overtake_keeps (h : Keeps m s0 s) (hm : covers m [.regs, .mem, .host, .memx, .flt, .out] = true) : Keeps m s0 (State.overtake s) := by
  unfold State.overtake
  extract_lets -merge -underBinder x0 x1
  split
  · exact h
  · refine keeps_ite (P := fun z => Keeps m s0 z) ?_ ?_
    · extract_lets -merge -underBinder x2 x3 x4 x5 x6
      have hx5 : Keeps m s0 x5 := (keeps_memx h (covers_trans (by decide) hm))
      have hx6 : Keeps m s0 x6 := (State.raise_keeps (State.wr_keeps (State.wr_keeps hx5 (covers_trans (by decide) hm) _ _ _ _) (covers_trans (by decide) hm) _ _ _ _) (covers_trans (by decide) hm) _ _)
      try clear_value x6
      try clear_value x5
      exact (State.showGln_keeps (State.rollHw_keeps hx6 (covers_trans (by decide) hm) _ _ _ _) (covers_trans (by decide) hm))
    · exact h

theorem State.findMark_keeps (h : Keeps m s0 s) (hm : covers m [.regs, .mem, .host, .memx, .flt, .out] = true) : Keeps m s0 (State.findMark s) := by
  unfold State.findMark
  extract_lets -merge -underBinder x0
  split
  · exact h
  · extract_lets -merge -underBinder x1 x2 x3 x4 x5
    split
    · refine (State.showGln_keeps ?_ (covers_trans (by decide) hm))
      try dsimp -zeta only [x2]
      refine (State.raise_keeps ?_ (covers_trans (by decide) hm) _ _)
      refine (State.wr_keeps ?_ (covers_trans (by decide) hm) _ _ _ _)
      refine (State.wr_keeps ?_ (covers_trans (by decide) hm) _ _ _ _)
      try dsimp -zeta only [x3]
      exact (keeps_memx h (covers_trans (by decide) hm))
    · split
      · refine keeps_ite (P := fun z => Keeps m s0 z) ?_ ?_
        · extract_lets -merge -underBinder x6
          have hx6 : Keeps m s0 x6 := by
            subst x6
            refine (State.raise_keeps ?_ (covers_trans (by decide) hm) _ _)
            refine (State.wr_keeps ?_ (covers_trans (by decide) hm) _ _ _ _)
            try dsimp -zeta only [x2]
            refine (State.raise_keeps ?_ (covers_trans (by decide) hm) _ _)
            refine (State.wr_keeps ?_ (covers_trans (by decide) hm) _ _ _ _)
            refine (State.wr_keeps ?_ (covers_trans (by decide) hm) _ _ _ _)
            try dsimp -zeta only [x3]
            exact (keeps_memx h (covers_trans (by decide) hm))
          try clear_value x6
          exact (State.showGln_keeps (State.rollHw_keeps (State.wr_keeps hx6 (covers_trans (by decide) hm) _ _ _ _) (covers_trans (by decide) hm) _ _ _ _) (covers_trans (by decide) hm))
        · refine (State.showGln_keeps ?_ (covers_trans (by decide) hm))
          try dsimp -zeta only [x2]
          refine (State.raise_keeps ?_ (covers_trans (by decide) hm) _ _)
          refine (State.wr_keeps ?_ (covers_trans (by decide) hm) _ _ _ _)
          refine (State.wr_keeps ?_ (covers_trans (by decide) hm) _ _ _ _)
          refine (State.wr_keeps ?_ (covers_trans (by decide) hm) _ _ _ _)
          try dsimp -zeta only [x3]
          exact (keeps_memx h (covers_trans (by decide) hm))
      · exact (State.wr_keeps h (covers_trans (by decide) hm) _ _ _ _)

theorem execGleanerFrameComplete_keeps : ∀ t, execGleanerFrameComplete s = .next t →
    Keeps [.regs, .mem, .host, .memx, .flt, .out] s t := by
  intro t e
  have hm : covers [.regs, .mem, .host, .memx, .flt, .out] [.regs, .mem, .host, .memx, .flt, .out] = true := by decide
  have h := Keeps.refl [.regs, .mem, .host, .memx, .flt, .out] s
  unfold execGleanerFrameComplete at e
  replace e := Host.Outcome.next.inj e
  subst e
  split
  · exact h
  · extract_lets -merge -underBinder x0 x1 x2 x3 x4 x5 x6 x7 x8
    have hx3 : Keeps [.regs, .mem, .host, .memx, .flt, .out] s x3 := (State.setBytes_keeps h (covers_trans (by decide) hm) _ _)
    have hx7 : Keeps [.regs, .mem, .host, .memx, .flt, .out] s x7 := (keeps_memx hx3 (covers_trans (by decide) hm))
    have hx8 : Keeps [.regs, .mem, .host, .memx, .flt, .out] s x8 := (State.overtake_keeps (State.showGln_keeps (State.glnWrite_keeps hx7 (covers_trans (by decide) hm)) (covers_trans (by decide) hm)) (covers_trans (by decide) hm))
    try clear_value x8
    try clear_value x7
    try clear_value x3
    refine keeps_ite (P := fun z => Keeps [.regs, .mem, .host, .memx, .flt, .out] s z) ?_ ?_
    · exact (State.findMark_keeps hx8 (covers_trans (by decide) hm))
    · exact hx8

theorem execGlnMarkAtWrite_keeps : ∀ a0 t, execGlnMarkAtWrite a0 s = .next t →
    Keeps [.regs, .memx] s t := by
  intro a0 t e
  have hm : covers [.regs, .memx] [.regs, .memx] = true := by decide
  have h := Keeps.refl [.regs, .memx] s
  unfold execGlnMarkAtWrite at e
  extract_lets -merge -underBinder x0 x1 x2 at e
  have hx2 : Keeps [.regs, .memx] s x2 := (keeps_memx h (covers_trans (by decide) hm))
  try clear_value x2
  replace e := Host.Outcome.next.inj e
  subst e
  exact (State.wr_keeps (State.wr_keeps (State.wr_keeps (State.wr_keeps (State.wr_keeps (State.wr_keeps hx2 (covers_trans (by decide) hm) _ _ _ _) (covers_trans (by decide) hm) _ _ _ _) (covers_trans (by decide) hm) _ _ _ _) (covers_trans (by decide) hm) _ _ _ _) (covers_trans (by decide) hm) _ _ _ _) (covers_trans (by decide) hm) _ _ _ _)

theorem execMarkReady_keeps : ∀ t, execMarkReady s = .next t →
    Keeps [.regs, .mem, .host, .memx, .flt, .out] s t := by
  intro t e
  have hm : covers [.regs, .mem, .host, .memx, .flt, .out] [.regs, .mem, .host, .memx, .flt, .out] = true := by decide
  have h := Keeps.refl [.regs, .mem, .host, .memx, .flt, .out] s
  unfold execMarkReady at e
  replace e := Host.Outcome.next.inj e
  subst e
  exact (State.findMark_keeps h (covers_trans (by decide) hm))

theorem execGlnAdv_keeps : ∀ a0 t, execGlnAdv a0 s = .next t →
    Keeps [.regs, .memx] s t := by
  intro a0 t e
  have hm : covers [.regs, .memx] [.regs, .memx] = true := by decide
  have h := Keeps.refl [.regs, .memx] s
  unfold execGlnAdv at e
  extract_lets -merge -underBinder x0 at e
  replace e := Host.Outcome.next.inj e
  subst e
  split
  · exact h
  · extract_lets -merge -underBinder x1 x2
    exact (State.showGln_keeps (keeps_memx h (covers_trans (by decide) hm)) (covers_trans (by decide) hm))

theorem State.latchRead_keeps (h : Keeps m s0 s) (hm : covers m [.regs, .host, .resp] = true) : ∀ a1 a2 a3 a4 a5, Keeps m s0 (State.latchRead s a1 a2 a3 a4 a5) := by
  intro a1 a2 a3 a4 a5
  unfold State.latchRead
  extract_lets -merge -underBinder x0 x1
  have hx1 : Keeps m s0 x1 := (keeps_host h (covers_trans (by decide) hm))
  try clear_value x1
  exact (State.respond_keeps (State.wr_keeps (State.wr_keeps hx1 (covers_trans (by decide) hm) _ _ _ _) (covers_trans (by decide) hm) _ _ _ _) (covers_trans (by decide) hm) _ _ _)

theorem execGlnWriteLoRead_keeps : ∀ a0 t, execGlnWriteLoRead a0 s = .next t →
    Keeps [.regs, .host, .resp] s t := by
  intro a0 t e
  have hm : covers [.regs, .host, .resp] [.regs, .host, .resp] = true := by decide
  have h := Keeps.refl [.regs, .host, .resp] s
  unfold execGlnWriteLoRead at e
  replace e := Host.Outcome.next.inj e
  subst e
  refine keeps_ite (P := fun z => Keeps [.regs, .host, .resp] s z) ?_ ?_
  · exact h
  · exact (State.latchRead_keeps h (covers_trans (by decide) hm) _ _ _ _ _)

theorem execGlnCursorLoRead_keeps : ∀ a0 t, execGlnCursorLoRead a0 s = .next t →
    Keeps [.regs, .host, .resp] s t := by
  intro a0 t e
  have hm : covers [.regs, .host, .resp] [.regs, .host, .resp] = true := by decide
  have h := Keeps.refl [.regs, .host, .resp] s
  unfold execGlnCursorLoRead at e
  replace e := Host.Outcome.next.inj e
  subst e
  refine keeps_ite (P := fun z => Keeps [.regs, .host, .resp] s z) ?_ ?_
  · exact h
  · exact (State.latchRead_keeps h (covers_trans (by decide) hm) _ _ _ _ _)

end Sys2Proof.Machine
end

