-- ==== Sys2Proof/Laws/KeepsMill.lean ====
section
/-! SUPPORT. What each function of Machine/Mill.lean keeps: the parts of the state it can change, the canonical form of the stores,
the order of free values and outputs. One lemma per function, assembled from those of the functions it calls. -/
namespace Sys2Proof.Machine

variable {m : List Part} {s0 s : State}

theorem State.setMill_keeps (h : Keeps m s0 s) (hm : covers m [.mil] = true) : ∀ a1 a2, Keeps m s0 (State.setMill s a1 a2) := by
  intro a1 a2
  unfold State.setMill
  exact (keeps_mil h (covers_trans (by decide) hm))

theorem State.vecRun_keeps (h : Keeps m s0 s) (hm : covers m [.mil] = true) : ∀ a1 a2, Keeps m s0 (State.vecRun s a1 a2) := by
  intro a1 a2
  unfold State.vecRun
  exact (State.setMill_keeps h (covers_trans (by decide) hm) _ _)

theorem State.vecCmd_keeps : ∀ a1 a2 t, State.vecCmd s a1 a2 = .next t →
    Keeps [.mil] s t := by
  intro a1 a2 t e
  have hm : covers [.mil] [.mil] = true := by decide
  have h := Keeps.refl [.mil] s
  unfold State.vecCmd at e
  replace e := Host.Outcome.next.inj e
  subst e
  refine keeps_ite (P := fun z => Keeps [.mil] s z) ?_ ?_
  · exact (State.vecRun_keeps h (covers_trans (by decide) hm) _ _)
  · exact h

theorem State.millEcc_keeps (h : Keeps m s0 s) (hm : covers m [.regs, .mem, .scn, .chn, .host, .nbr, .memx, .flt, .out] = true) : ∀ a1 a2, Keeps m s0 (State.millEcc s a1 a2) := by
  intro a1 a2
  unfold State.millEcc
  extract_lets -merge -underBinder x0
  split
  · dsimp -zeta only [x0]
    refine keeps_ite (P := fun z => Keeps m s0 z) ?_ ?_
    · exact h
    · refine keeps_ite (P := fun z => Keeps m s0 z) ?_ ?_
      · exact (State.eccEngine_keeps (State.eccSoft_keeps h (covers_trans (by decide) hm) _ _) (covers_trans (by decide) hm) _)
      · exact (State.eccSoft_keeps h (covers_trans (by decide) hm) _ _)
  · dsimp -zeta only [x0]
    refine keeps_ite (P := fun z => Keeps m s0 z) ?_ ?_
    · exact h
    · refine keeps_ite (P := fun z => Keeps m s0 z) ?_ ?_
      · exact (State.eccEngine_keeps (State.eccSoft_keeps h (covers_trans (by decide) hm) _ _) (covers_trans (by decide) hm) _)
      · exact (State.eccSoft_keeps h (covers_trans (by decide) hm) _ _)
  · exact h
  · exact h

theorem State.frameWrite_keeps (h : Keeps m s0 s) (hm : covers m [.mil] = true) : ∀ a1 a2, Keeps m s0 (State.frameWrite s a1 a2) := by
  intro a1 a2
  unfold State.frameWrite
  exact (keeps_mil h (covers_trans (by decide) hm))

theorem State.millWrite_keeps (h : Keeps m s0 s) (hm : covers m [.regs, .mem, .scn, .host, .nbr, .memx, .out] = true) : ∀ a1 a2 a3, Keeps m s0 (State.millWrite s a1 a2 a3) := by
  intro a1 a2 a3
  unfold State.millWrite
  split
  · refine keeps_ite (P := fun z => Keeps m s0 z) ?_ ?_
    · exact (State.lockDrop_keeps h (covers_trans (by decide) hm))
    · refine keeps_ite (P := fun z => Keeps m s0 z) ?_ ?_
      · exact (State.queueHold_keeps h (covers_trans (by decide) hm) _)
      · exact (State.engineStore_keeps (State.keepHolds_keeps h (covers_trans (by decide) hm) _) (covers_trans (by decide) hm) _ _)
  · exact (State.engineStore_keeps h (covers_trans (by decide) hm) _ _)

theorem State.millStore_keeps (h : Keeps m s0 s) (hm : covers m [.regs, .mem, .eng, .scn, .host, .mil, .nbr, .memx, .out] = true) : ∀ a1 a2 a3 t, State.millStore s a1 a2 a3 = some t → Keeps m s0 t := by
  intro a1 a2 a3 t e
  unfold State.millStore at e
  extract_lets -merge -underBinder x0 at e
  split at e
  · replace e := Option.some.inj e
    subst e
    refine keeps_foldl (P := fun z => Keeps m s0 z) ?_ fun _ _ h1 => ?_
    · exact h
    · exact (State.millWrite_keeps h1 (covers_trans (by decide) hm) _ _ _)
  · cases e
  · cases e
  · refine keeps_eq_ite e (fun e => ?_) (fun e => ?_)
    · cases e
    · refine keeps_eq_ite e (fun e => ?_) (fun e => ?_)
      · replace e := Option.some.inj e
        subst e
        exact h
      · refine keeps_eq_ite e (fun e => ?_) (fun e => ?_)
        · extract_lets -merge -underBinder x2 x3 at e
          have hx2 : Keeps m s0 x2 := (State.frameWrite_keeps h (covers_trans (by decide) hm) _ _)
          try clear_value x2
          replace e := Option.some.inj e
          subst e
          exact (keeps_eng hx2 (covers_trans (by decide) hm))
        · refine keeps_eq_ite e (fun e => ?_) (fun e => ?_)
          · replace e := Option.some.inj e
            subst e
            exact (State.engineBytes_keeps (State.frameWrite_keeps h (covers_trans (by decide) hm) _ _) (covers_trans (by decide) hm) _ _)
          · cases e

theorem State.loadElems_keeps (h : Keeps m s0 s) (hm : covers m [.regs, .mem, .scn, .chn, .host, .mil, .nbr, .memx, .flt, .out] = true) : ∀ a1 a2 a3 a4 a5 a6, Keeps m s0 (State.loadElems s a1 a2 a3 a4 a5 a6) := by
  intro a1 a2 a3 a4 a5 a6
  unfold State.loadElems
  extract_lets -merge -underBinder x0 x1
  have hx1 : Keeps m s0 x1 := (State.setMill_keeps h (covers_trans (by decide) hm) _ _)
  try clear_value x1
  refine keeps_foldl (P := fun z => Keeps m s0 z) ?_ fun _ _ h2 => ?_
  · exact hx1
  · split
    · exact h2
    · exact (State.millEcc_keeps h2 (covers_trans (by decide) hm) _ _)

theorem State.storeElems_keeps (h : Keeps m s0 s) (hm : covers m [.regs, .mem, .eng, .scn, .host, .mil, .nbr, .memx, .out] = true) : ∀ a1 a2 a3, Keeps m s0 (State.storeElems s a1 a2 a3) := by
  intro a1 a2 a3
  unfold State.storeElems
  refine keeps_foldl (P := fun z => Keeps m s0 z) ?_ fun _ _ h0 => ?_
  · exact h
  · refine keeps_getD (P := fun z => Keeps m s0 z) (fun t1 e1 => ?_) ?_
    · obtain ⟨_, e2, e1⟩ := Option.bind_eq_some_iff.1 e1
      exact (State.millStore_keeps h0 (covers_trans (by decide) hm) _ _ _ _ e1)
    · exact (State.setMill_keeps h0 (covers_trans (by decide) hm) _ _)

theorem State.storeSpan_keeps (h : Keeps m s0 s) (hm : covers m [.regs, .mem, .eng, .scn, .host, .mil, .nbr, .memx, .out] = true) : ∀ a1 a2 a3, Keeps m s0 (State.storeSpan s a1 a2 a3) := by
  intro a1 a2 a3
  unfold State.storeSpan
  refine keeps_getD (P := fun z => Keeps m s0 z) (fun t0 e0 => ?_) ?_
  · obtain ⟨_, e1, e0⟩ := Option.bind_eq_some_iff.1 e0
    exact (State.millStore_keeps h (covers_trans (by decide) hm) _ _ _ _ e0)
  · exact (State.setMill_keeps h (covers_trans (by decide) hm) _ _)

/-- A load/store operation keeps what its access keeps, outside the Mills. -/
theorem State.lsRun_keeps {op : LsOp} {ag : Bool} {access : Nat → State → State} (h : Keeps m s0 s)
    (hm : covers m [.mil] = true) (ha : ∀ x, Keeps m s0 (access x s)) : Keeps m s0 (s.lsRun op ag access) := by
  unfold State.lsRun
  extract_lets n x1
  refine keeps_ite (P := fun z => Keeps m s0 z) ?_ ?_
  · exact State.setMill_keeps h hm _ _
  · exact State.setMill_keeps (ha _) hm _ _

theorem lsLdv_keeps (h : Keeps m s0 s) (hm : covers m [.regs, .mem, .scn, .chn, .host, .mil, .nbr, .memx, .flt, .out] = true) : ∀ a0, Keeps m s0 (lsLdv a0 s) :=
  fun _ => State.lsRun_keeps h (covers_trans (by decide) hm) fun _ =>
    State.loadElems_keeps h (covers_trans (by decide) hm) _ _ _ _ _ _

theorem lsStv_keeps (h : Keeps m s0 s) (hm : covers m [.regs, .mem, .eng, .scn, .host, .mil, .nbr, .memx, .out] = true) : ∀ a0, Keeps m s0 (lsStv a0 s) :=
  fun _ => State.lsRun_keeps h (covers_trans (by decide) hm) fun _ =>
    State.storeSpan_keeps h (covers_trans (by decide) hm) _ _ _

theorem lsLdx_keeps (h : Keeps m s0 s) (hm : covers m [.regs, .mem, .scn, .chn, .host, .mil, .nbr, .memx, .flt, .out] = true) : ∀ a0, Keeps m s0 (lsLdx a0 s) :=
  fun _ => State.lsRun_keeps h (covers_trans (by decide) hm) fun _ =>
    State.loadElems_keeps h (covers_trans (by decide) hm) _ _ _ _ _ _

theorem lsStx_keeps (h : Keeps m s0 s) (hm : covers m [.regs, .mem, .eng, .scn, .host, .mil, .nbr, .memx, .out] = true) : ∀ a0, Keeps m s0 (lsStx a0 s) :=
  fun _ => State.lsRun_keeps h (covers_trans (by decide) hm) fun _ =>
    State.storeElems_keeps h (covers_trans (by decide) hm) _ _ _

theorem lsLdhx_keeps (h : Keeps m s0 s) (hm : covers m [.regs, .mem, .scn, .chn, .host, .mil, .nbr, .memx, .flt, .out] = true) : ∀ a0, Keeps m s0 (lsLdhx a0 s) :=
  fun _ => State.lsRun_keeps h (covers_trans (by decide) hm) fun _ =>
    State.loadElems_keeps h (covers_trans (by decide) hm) _ _ _ _ _ _

theorem lsSthx_keeps (h : Keeps m s0 s) (hm : covers m [.regs, .mem, .eng, .scn, .host, .mil, .nbr, .memx, .out] = true) : ∀ a0, Keeps m s0 (lsSthx a0 s) :=
  fun _ => State.lsRun_keeps h (covers_trans (by decide) hm) fun _ =>
    State.storeElems_keeps h (covers_trans (by decide) hm) _ _ _

theorem lsLdbc_keeps (h : Keeps m s0 s) (hm : covers m [.regs, .mem, .scn, .chn, .host, .mil, .nbr, .memx, .flt, .out] = true) : ∀ a0, Keeps m s0 (lsLdbc a0 s) :=
  fun _ => State.lsRun_keeps h (covers_trans (by decide) hm) fun _ =>
    State.loadElems_keeps h (covers_trans (by decide) hm) _ _ _ _ _ _

theorem lsLds_keeps (h : Keeps m s0 s) (hm : covers m [.regs, .mem, .scn, .chn, .host, .mil, .nbr, .memx, .flt, .out] = true) : ∀ a0, Keeps m s0 (lsLds a0 s) :=
  fun _ => State.lsRun_keeps h (covers_trans (by decide) hm) fun _ =>
    State.loadElems_keeps h (covers_trans (by decide) hm) _ _ _ _ _ _

theorem lsSts_keeps (h : Keeps m s0 s) (hm : covers m [.regs, .mem, .eng, .scn, .host, .mil, .nbr, .memx, .out] = true) : ∀ a0, Keeps m s0 (lsSts a0 s) :=
  fun _ => State.lsRun_keeps h (covers_trans (by decide) hm) fun _ =>
    State.storeSpan_keeps h (covers_trans (by decide) hm) _ _ _

theorem lsLda_keeps (h : Keeps m s0 s) (hm : covers m [.regs, .mem, .scn, .chn, .host, .mil, .nbr, .memx, .flt, .out] = true) : ∀ a0, Keeps m s0 (lsLda a0 s) :=
  fun _ => State.lsRun_keeps h (covers_trans (by decide) hm) fun _ =>
    State.loadElems_keeps h (covers_trans (by decide) hm) _ _ _ _ _ _

theorem lsSta_keeps (h : Keeps m s0 s) (hm : covers m [.regs, .mem, .eng, .scn, .host, .mil, .nbr, .memx, .out] = true) : ∀ a0, Keeps m s0 (lsSta a0 s) :=
  fun _ => State.lsRun_keeps h (covers_trans (by decide) hm) fun _ =>
    State.storeSpan_keeps h (covers_trans (by decide) hm) _ _ _

theorem lsLdhv_keeps (h : Keeps m s0 s) (hm : covers m [.regs, .mem, .scn, .chn, .host, .mil, .nbr, .memx, .flt, .out] = true) : ∀ a0, Keeps m s0 (lsLdhv a0 s) :=
  fun _ => State.lsRun_keeps h (covers_trans (by decide) hm) fun _ =>
    State.loadElems_keeps h (covers_trans (by decide) hm) _ _ _ _ _ _

theorem lsSthv_keeps (h : Keeps m s0 s) (hm : covers m [.regs, .mem, .eng, .scn, .host, .mil, .nbr, .memx, .out] = true) : ∀ a0, Keeps m s0 (lsSthv a0 s) :=
  fun _ => State.lsRun_keeps h (covers_trans (by decide) hm) fun _ =>
    State.storeElems_keeps h (covers_trans (by decide) hm) _ _ _

theorem lsPmod_keeps (h : Keeps m s0 s) (hm : covers m [.mil] = true) : ∀ a0, Keeps m s0 (lsPmod a0 s) :=
  fun _ => State.lsRun_keeps h (covers_trans (by decide) hm) fun _ =>
    h

theorem lsNop_keeps (h : Keeps m s0 s) (hm : covers m [.mil] = true) : ∀ a0, Keeps m s0 (lsNop a0 s) :=
  fun _ => State.lsRun_keeps h (covers_trans (by decide) hm) fun _ =>
    h

/-- Every load/store operation keeps what is outside the Mills, the memories and the Active's link. -/
theorem lsOpcode_keeps (op : Nat) (f : LsOp → State → State) (hf : lsOpcode op = some f) (a : LsOp) (h : Keeps m s0 s)
    (hm : covers m [.regs, .mem, .eng, .scn, .chn, .host, .mil, .nbr, .memx, .flt, .out] = true) : Keeps m s0 (f a s) := by
  unfold lsOpcode at hf
  split at hf
  · cases hf
    exact lsNop_keeps h (covers_trans (by decide) hm) a
  · cases hf
    exact lsLdv_keeps h (covers_trans (by decide) hm) a
  · cases hf
    exact lsStv_keeps h (covers_trans (by decide) hm) a
  · cases hf
    exact lsLdx_keeps h (covers_trans (by decide) hm) a
  · cases hf
    exact lsStx_keeps h (covers_trans (by decide) hm) a
  · cases hf
    exact lsLdhx_keeps h (covers_trans (by decide) hm) a
  · cases hf
    exact lsSthx_keeps h (covers_trans (by decide) hm) a
  · cases hf
    exact lsLdbc_keeps h (covers_trans (by decide) hm) a
  · cases hf
    exact lsLds_keeps h (covers_trans (by decide) hm) a
  · cases hf
    exact lsSts_keeps h (covers_trans (by decide) hm) a
  · cases hf
    exact lsLda_keeps h (covers_trans (by decide) hm) a
  · cases hf
    exact lsSta_keeps h (covers_trans (by decide) hm) a
  · cases hf
    exact lsLdhv_keeps h (covers_trans (by decide) hm) a
  · cases hf
    exact lsSthv_keeps h (covers_trans (by decide) hm) a
  · cases hf
    exact lsPmod_keeps h (covers_trans (by decide) hm) a
  · cases hf

/-- A load/store command keeps what its operation keeps. -/
theorem State.lsCmd_keeps {P : List Part} {op : LsOp} {f : LsOp → State → State} {t : State} (hf : Keeps P s (f op s))
    (e : s.lsCmd op f = .next t) : Keeps P s t := by
  unfold State.lsCmd at e
  cases e
  exact keeps_ite (P := fun z => Keeps P s z) hf (.refl P s)

theorem State.millEnd_keeps (h : Keeps m s0 s) (hm : covers m [.regs, .host, .mil, .out] = true) : ∀ a1, Keeps m s0 (State.millEnd s a1) := by
  intro a1
  unfold State.millEnd
  extract_lets -merge -underBinder x0 x1 x2 x3 x4
  have hx3 : Keeps m s0 x3 := (State.setMill_keeps h (covers_trans (by decide) hm) _ _)
  have hx4 : Keeps m s0 x4 := by
    subst x4
    refine keeps_ite (P := fun z => Keeps m s0 z) ?_ ?_
    · exact (State.raise_keeps (State.wr_keeps hx3 (covers_trans (by decide) hm) _ _ _ _) (covers_trans (by decide) hm) _ _)
    · exact hx3
  try clear_value x4
  try clear_value x3
  refine keeps_ite (P := fun z => Keeps m s0 z) ?_ ?_
  · exact (State.wr_keeps hx4 (covers_trans (by decide) hm) _ _ _ _)
  · exact hx4

theorem State.millAdvance_keeps (h : Keeps m s0 s) (hm : covers m [.regs, .host, .mil, .out, .free] = true) : ∀ a1, Keeps m s0 (State.millAdvance s a1) := by
  intro a1
  unfold State.millAdvance
  extract_lets -merge -underBinder x0 x1 x2 x3 x4 x5
  have hx5 : Keeps m s0 x5 := (State.useFree_keeps h (covers_trans (by decide) hm) _)
  try clear_value x5
  split
  · exact (State.millEnd_keeps (State.setMill_keeps hx5 (covers_trans (by decide) hm) _ _) (covers_trans (by decide) hm) _)
  · extract_lets -merge -underBinder x6 x7 x8
    have hx8 : Keeps m s0 x8 := (State.wr_keeps (State.wr_keeps (State.setMill_keeps hx5 (covers_trans (by decide) hm) _ _) (covers_trans (by decide) hm) _ _ _ _) (covers_trans (by decide) hm) _ _ _ _)
    try clear_value x8
    refine keeps_ite (P := fun z => Keeps m s0 z) ?_ ?_
    · exact (State.millEnd_keeps (State.setMill_keeps hx8 (covers_trans (by decide) hm) _ _) (covers_trans (by decide) hm) _)
    · exact hx8

theorem State.scPut_keeps (h : Keeps m s0 s) (hm : covers m [.mil] = true) : ∀ a1 a2 a3 a4, Keeps m s0 (State.scPut s a1 a2 a3 a4) := by
  intro a1 a2 a3 a4
  unfold State.scPut
  exact (State.setMill_keeps h (covers_trans (by decide) hm) _ _)

theorem scAlu_keeps (h : Keeps m s0 s) (hm : covers m [.mil] = true) : ∀ a0 a1, Keeps m s0 (scAlu a0 a1 s) := by
  intro a0 a1
  unfold scAlu
  exact (State.scPut_keeps h (covers_trans (by decide) hm) _ _ _ _)

theorem scAdd_keeps (h : Keeps m s0 s) (hm : covers m [.mil] = true) : ∀ a0, Keeps m s0 (scAdd a0 s) := by
  intro a0
  unfold scAdd
  exact (scAlu_keeps h (covers_trans (by decide) hm) _ _)

theorem scSub_keeps (h : Keeps m s0 s) (hm : covers m [.mil] = true) : ∀ a0, Keeps m s0 (scSub a0 s) := by
  intro a0
  unfold scSub
  exact (scAlu_keeps h (covers_trans (by decide) hm) _ _)

theorem scAddi_keeps (h : Keeps m s0 s) (hm : covers m [.mil] = true) : ∀ a0, Keeps m s0 (scAddi a0 s) := by
  intro a0
  unfold scAddi
  exact (scAlu_keeps h (covers_trans (by decide) hm) _ _)

theorem scAnd_keeps (h : Keeps m s0 s) (hm : covers m [.mil] = true) : ∀ a0, Keeps m s0 (scAnd a0 s) := by
  intro a0
  unfold scAnd
  exact (scAlu_keeps h (covers_trans (by decide) hm) _ _)

theorem scOr_keeps (h : Keeps m s0 s) (hm : covers m [.mil] = true) : ∀ a0, Keeps m s0 (scOr a0 s) := by
  intro a0
  unfold scOr
  exact (scAlu_keeps h (covers_trans (by decide) hm) _ _)

theorem scXor_keeps (h : Keeps m s0 s) (hm : covers m [.mil] = true) : ∀ a0, Keeps m s0 (scXor a0 s) := by
  intro a0
  unfold scXor
  exact (scAlu_keeps h (covers_trans (by decide) hm) _ _)

theorem scShl_keeps (h : Keeps m s0 s) (hm : covers m [.mil] = true) : ∀ a0, Keeps m s0 (scShl a0 s) := by
  intro a0
  unfold scShl
  exact (scAlu_keeps h (covers_trans (by decide) hm) _ _)

theorem scAsr_keeps (h : Keeps m s0 s) (hm : covers m [.mil] = true) : ∀ a0, Keeps m s0 (scAsr a0 s) := by
  intro a0
  unfold scAsr
  exact (scAlu_keeps h (covers_trans (by decide) hm) _ _)

theorem scLsr_keeps (h : Keeps m s0 s) (hm : covers m [.mil] = true) : ∀ a0, Keeps m s0 (scLsr a0 s) := by
  intro a0
  unfold scLsr
  exact (scAlu_keeps h (covers_trans (by decide) hm) _ _)

theorem scLi_keeps (h : Keeps m s0 s) (hm : covers m [.mil] = true) : ∀ a0, Keeps m s0 (scLi a0 s) := by
  intro a0
  unfold scLi
  exact (scAlu_keeps h (covers_trans (by decide) hm) _ _)

theorem scSli_keeps (h : Keeps m s0 s) (hm : covers m [.mil] = true) : ∀ a0, Keeps m s0 (scSli a0 s) := by
  intro a0
  unfold scSli
  exact (scAlu_keeps h (covers_trans (by decide) hm) _ _)

theorem scMin_keeps (h : Keeps m s0 s) (hm : covers m [.mil] = true) : ∀ a0, Keeps m s0 (scMin a0 s) := by
  intro a0
  unfold scMin
  exact (scAlu_keeps h (covers_trans (by decide) hm) _ _)

theorem scMax_keeps (h : Keeps m s0 s) (hm : covers m [.mil] = true) : ∀ a0, Keeps m s0 (scMax a0 s) := by
  intro a0
  unfold scMax
  exact (scAlu_keeps h (covers_trans (by decide) hm) _ _)

theorem scMvp_keeps (h : Keeps m s0 s) (hm : covers m [.mil] = true) : ∀ a0, Keeps m s0 (scMvp a0 s) := by
  intro a0
  unfold scMvp
  exact (State.scPut_keeps h (covers_trans (by decide) hm) _ _ _ _)

theorem scMvm_keeps (h : Keeps m s0 s) (hm : covers m [.mil] = true) : ∀ a0, Keeps m s0 (scMvm a0 s) := by
  intro a0
  unfold scMvm
  exact (State.scPut_keeps h (covers_trans (by decide) hm) _ _ _ _)

theorem scMvn_keeps (h : Keeps m s0 s) (hm : covers m [.mil] = true) : ∀ a0, Keeps m s0 (scMvn a0 s) := by
  intro a0
  unfold scMvn
  exact (State.scPut_keeps h (covers_trans (by decide) hm) _ _ _ _)

theorem scRdp_keeps (h : Keeps m s0 s) (hm : covers m [.mil] = true) : ∀ a0, Keeps m s0 (scRdp a0 s) := by
  intro a0
  unfold scRdp
  exact (scAlu_keeps h (covers_trans (by decide) hm) _ _)

theorem scRdm_keeps (h : Keeps m s0 s) (hm : covers m [.mil] = true) : ∀ a0, Keeps m s0 (scRdm a0 s) := by
  intro a0
  unfold scRdm
  exact (scAlu_keeps h (covers_trans (by decide) hm) _ _)

theorem scRdn_keeps (h : Keeps m s0 s) (hm : covers m [.mil] = true) : ∀ a0, Keeps m s0 (scRdn a0 s) := by
  intro a0
  unfold scRdn
  exact (scAlu_keeps h (covers_trans (by decide) hm) _ _)

theorem scVins_keeps (h : Keeps m s0 s) (hm : covers m [.mil] = true) : ∀ a0, Keeps m s0 (scVins a0 s) := by
  intro a0
  unfold scVins
  exact (State.scPut_keeps h (covers_trans (by decide) hm) _ _ _ _)

theorem scVext_keeps (h : Keeps m s0 s) (hm : covers m [.mil] = true) : ∀ a0, Keeps m s0 (scVext a0 s) := by
  intro a0
  unfold scVext
  exact (scAlu_keeps h (covers_trans (by decide) hm) _ _)

theorem scBxrd_keeps (h : Keeps m s0 s) (hm : covers m [.mil] = true) : ∀ a0, Keeps m s0 (scBxrd a0 s) := by
  intro a0
  unfold scBxrd
  exact (scAlu_keeps h (covers_trans (by decide) hm) _ _)

theorem scStat_keeps (h : Keeps m s0 s) (hm : covers m [.mil] = true) : ∀ a0, Keeps m s0 (scStat a0 s) := by
  intro a0
  unfold scStat
  exact (scAlu_keeps h (covers_trans (by decide) hm) _ _)

theorem scBxclr_keeps (h : Keeps m s0 s) (hm : covers m [.mil] = true) : ∀ a0, Keeps m s0 (scBxclr a0 s) := by
  intro a0
  unfold scBxclr
  exact (State.setMill_keeps h (covers_trans (by decide) hm) _ _)

theorem scIll_keeps (h : Keeps m s0 s) (hm : covers m [.mil] = true) : ∀ a0, Keeps m s0 (scIll a0 s) := by
  intro a0
  unfold scIll
  exact (State.setMill_keeps h (covers_trans (by decide) hm) _ _)

theorem scEob_keeps (h : Keeps m s0 s) (hm : covers m [.mil] = true) : ∀ a0, Keeps m s0 (scEob a0 s) := by
  intro a0
  unfold scEob
  exact (State.setMill_keeps h (covers_trans (by decide) hm) _ _)

theorem scLoop_keeps (h : Keeps m s0 s) (hm : covers m [.mil] = true) : ∀ a0, Keeps m s0 (scLoop a0 s) := by
  intro a0
  unfold scLoop
  extract_lets -merge -underBinder x0 x1 x2
  refine keeps_ite (P := fun z => Keeps m s0 z) ?_ ?_
  · exact (scIll_keeps h (covers_trans (by decide) hm) _)
  · exact (State.setMill_keeps h (covers_trans (by decide) hm) _ _)

theorem scRdb_keeps (h : Keeps m s0 s) (hm : covers m [.mil] = true) : ∀ a0, Keeps m s0 (scRdb a0 s) := by
  intro a0
  unfold scRdb
  exact (State.scPut_keeps h (covers_trans (by decide) hm) _ _ _ _)

theorem State.queueXfer_keeps (h : Keeps m s0 s) (hm : covers m [.regs, .host, .mil, .out] = true) : ∀ a1 a2, Keeps m s0 (State.queueXfer s a1 a2) := by
  intro a1 a2
  unfold State.queueXfer
  extract_lets -merge -underBinder x0 x1 x2 x3 x4 x5 x6 x7
  refine keeps_ite (P := fun z => Keeps m s0 z) ?_ ?_
  · exact (State.setMill_keeps h (covers_trans (by decide) hm) _ _)
  · refine keeps_ite (P := fun z => Keeps m s0 z) ?_ ?_
    · exact (State.setMill_keeps h (covers_trans (by decide) hm) _ _)
    · refine keeps_ite (P := fun z => Keeps m s0 z) ?_ ?_
      · exact h
      · refine keeps_ite (P := fun z => Keeps m s0 z) ?_ ?_
        · exact (State.setMill_keeps h (covers_trans (by decide) hm) _ _)
        · refine State.when_keeps (State.setMill_keeps h (covers_trans (by decide) hm) _ _) _ _ fun _ h8 => ?_
          exact (State.raise_keeps (State.bump_keeps h8 (covers_trans (by decide) hm) _ _ _ _) (covers_trans (by decide) hm) _ _)

theorem scXfer_keeps (h : Keeps m s0 s) (hm : covers m [.regs, .host, .mil, .out] = true) : ∀ a0, Keeps m s0 (scXfer a0 s) := by
  intro a0
  unfold scXfer
  extract_lets -merge -underBinder x0
  refine keeps_ite (P := fun z => Keeps m s0 z) ?_ ?_
  · exact (State.setMill_keeps h (covers_trans (by decide) hm) _ _)
  · exact (State.queueXfer_keeps h (covers_trans (by decide) hm) _ _)

theorem scWaite_keeps (h : Keeps m s0 s) (hm : covers m [.mil] = true) : ∀ a0, Keeps m s0 (scWaite a0 s) := by
  intro a0
  unfold scWaite
  extract_lets -merge -underBinder x0
  split
  · refine keeps_ite (P := fun z => Keeps m s0 z) ?_ ?_
    · exact h
    · exact (State.setMill_keeps h (covers_trans (by decide) hm) _ _)
  · refine keeps_ite (P := fun z => Keeps m s0 z) ?_ ?_
    · exact h
    · exact (State.setMill_keeps h (covers_trans (by decide) hm) _ _)
  · exact (scIll_keeps h (covers_trans (by decide) hm) _)

/-- Every scalar operation keeps what is outside the Mills. -/
theorem scOpcode_keeps (op : Nat) (f : ScOp → State → State) (hf : scOpcode op = some f) (a : ScOp) (h : Keeps m s0 s)
    (hm : covers m [.regs, .host, .mil, .out] = true) : Keeps m s0 (f a s) := by
  unfold scOpcode at hf
  split at hf
  · cases hf
    exact h
  · cases hf
    exact scAdd_keeps h (covers_trans (by decide) hm) a
  · cases hf
    exact scSub_keeps h (covers_trans (by decide) hm) a
  · cases hf
    exact scAddi_keeps h (covers_trans (by decide) hm) a
  · cases hf
    exact scAnd_keeps h (covers_trans (by decide) hm) a
  · cases hf
    exact scOr_keeps h (covers_trans (by decide) hm) a
  · cases hf
    exact scXor_keeps h (covers_trans (by decide) hm) a
  · cases hf
    exact scShl_keeps h (covers_trans (by decide) hm) a
  · cases hf
    exact scAsr_keeps h (covers_trans (by decide) hm) a
  · cases hf
    exact scLsr_keeps h (covers_trans (by decide) hm) a
  · cases hf
    exact scLi_keeps h (covers_trans (by decide) hm) a
  · cases hf
    exact scSli_keeps h (covers_trans (by decide) hm) a
  · cases hf
    exact scMin_keeps h (covers_trans (by decide) hm) a
  · cases hf
    exact scMax_keeps h (covers_trans (by decide) hm) a
  · cases hf
    exact scMvp_keeps h (covers_trans (by decide) hm) a
  · cases hf
    exact scMvm_keeps h (covers_trans (by decide) hm) a
  · cases hf
    exact scMvn_keeps h (covers_trans (by decide) hm) a
  · cases hf
    exact scRdp_keeps h (covers_trans (by decide) hm) a
  · cases hf
    exact scRdm_keeps h (covers_trans (by decide) hm) a
  · cases hf
    exact scRdn_keeps h (covers_trans (by decide) hm) a
  · cases hf
    exact scVins_keeps h (covers_trans (by decide) hm) a
  · cases hf
    exact scVext_keeps h (covers_trans (by decide) hm) a
  · cases hf
    exact scLoop_keeps h (covers_trans (by decide) hm) a
  · cases hf
    exact scEob_keeps h (covers_trans (by decide) hm) a
  · cases hf
    exact scBxclr_keeps h (covers_trans (by decide) hm) a
  · cases hf
    exact scBxrd_keeps h (covers_trans (by decide) hm) a
  · cases hf
    exact scRdb_keeps h (covers_trans (by decide) hm) a
  · cases hf
    exact scStat_keeps h (covers_trans (by decide) hm) a
  · cases hf
    exact scXfer_keeps h (covers_trans (by decide) hm) a
  · cases hf
    exact scWaite_keeps h (covers_trans (by decide) hm) a
  · cases hf

theorem State.scFinish_keeps (h : Keeps m s0 s) (hm : covers m [.regs, .host, .mil, .out, .free] = true) : ∀ a1, Keeps m s0 (State.scFinish s a1) := by
  intro a1
  unfold State.scFinish
  refine keeps_ite (P := fun z => Keeps m s0 z) ?_ ?_
  · exact (State.millAdvance_keeps h (covers_trans (by decide) hm) _)
  · exact h

/-- A scalar command keeps what its operation keeps, outside the completion of the bundle. -/
theorem State.scCmd_keeps {P : List Part} {op : ScOp} {f : ScOp → State → State} {t : State} (hf : Keeps P s (f op s))
    (hP : covers P [.regs, .host, .mil, .out, .free] = true) (e : s.scCmd op f = .next t) : Keeps P s t := by
  unfold State.scCmd at e
  cases e
  exact keeps_ite (P := fun z => Keeps P s z) (State.scFinish_keeps hf hP _) (.refl P s)

theorem State.vecField_keeps (h : Keeps m s0 s) (hm : covers m [.mil, .free] = true) : ∀ a1 a2 a3, Keeps m s0 (State.vecField s a1 a2 a3) := by
  intro a1 a2 a3
  unfold State.vecField
  extract_lets -merge -underBinder x0
  split
  · extract_lets -merge -underBinder x1
    have hx1 : Keeps m s0 x1 := by
      subst x1
      refine keeps_ite (P := fun z => Keeps m s0 z) ?_ ?_
      · exact (State.useFree_keeps h (covers_trans (by decide) hm) _)
      · exact h
    try clear_value x1
    exact (State.vecRun_keeps hx1 (covers_trans (by decide) hm) _ _)
  · exact (State.setMill_keeps h (covers_trans (by decide) hm) _ _)

theorem State.issueBundle_keeps (h : Keeps m s0 s) (hm : covers m [.regs, .mem, .eng, .scn, .chn, .host, .mil, .nbr, .memx, .flt, .out, .free] = true) : ∀ n, Keeps m s0 (State.issueBundle s n) := by
  intro n
  unfold State.issueBundle
  extract_lets w x1 ls x2 sc
  have hx1 : Keeps m s0 x1 := State.vecField_keeps (State.vecField_keeps h (covers_trans (by decide) hm) _ _ _) (covers_trans (by decide) hm) _ _ _
  clear_value x1
  have hx2 : Keeps m s0 x2 := by
    subst x2
    split
    · exact lsOpcode_keeps _ _ (by assumption) _ hx1 (covers_trans (by decide) hm)
    · exact State.setMill_keeps hx1 (covers_trans (by decide) hm) _ _
  clear_value x2
  refine State.scFinish_keeps ?_ (covers_trans (by decide) hm) _
  split
  · exact scOpcode_keeps _ _ (by assumption) _ hx2 (covers_trans (by decide) hm)
  · exact scIll_keeps hx2 (covers_trans (by decide) hm) _

theorem execNop_keeps : ∀ a0 t, execNop a0 s = .next t →
    Keeps [.regs, .host, .mil, .out, .free] s t := by
  intro a0 t e
  have hm : covers [.regs, .host, .mil, .out, .free] [.regs, .host, .mil, .out, .free] = true := by decide
  have h := Keeps.refl [.regs, .host, .mil, .out, .free] s
  unfold execNop at e
  replace e := Host.Outcome.next.inj e
  subst e
  split
  · exact h
  · refine keeps_ite (P := fun z => Keeps [.regs, .host, .mil, .out, .free] s z) ?_ ?_
    · exact (lsNop_keeps h (covers_trans (by decide) hm) _)
    · exact h
  · refine keeps_ite (P := fun z => Keeps [.regs, .host, .mil, .out, .free] s z) ?_ ?_
    · exact (State.millAdvance_keeps h (covers_trans (by decide) hm) _)
    · exact h

theorem execIllegalOperation_keeps : ∀ a0 t, execIllegalOperation a0 s = .next t →
    Keeps [.regs, .host, .mil, .out, .free] s t := by
  intro a0 t e
  have hm : covers [.regs, .host, .mil, .out, .free] [.regs, .host, .mil, .out, .free] = true := by decide
  have h := Keeps.refl [.regs, .host, .mil, .out, .free] s
  unfold execIllegalOperation at e
  replace e := Host.Outcome.next.inj e
  subst e
  split
  · refine keeps_ite (P := fun z => Keeps [.regs, .host, .mil, .out, .free] s z) ?_ ?_
    · exact (scIll_keeps h (covers_trans (by decide) hm) _)
    · exact h
  · refine keeps_ite (P := fun z => Keeps [.regs, .host, .mil, .out, .free] s z) ?_ ?_
    · exact (scIll_keeps h (covers_trans (by decide) hm) _)
    · exact h
  · refine keeps_ite (P := fun z => Keeps [.regs, .host, .mil, .out, .free] s z) ?_ ?_
    · exact (State.millAdvance_keeps (scIll_keeps h (covers_trans (by decide) hm) _) (covers_trans (by decide) hm) _)
    · exact h

theorem execVexp_keeps : ∀ a0 t, execVexp a0 s = .next t →
    Keeps [.mil, .free] s t := by
  intro a0 t e
  have hm : covers [.mil, .free] [.mil, .free] = true := by decide
  have h := Keeps.refl [.mil, .free] s
  unfold execVexp at e
  replace e := Host.Outcome.next.inj e
  subst e
  refine keeps_ite (P := fun z => Keeps [.mil, .free] s z) ?_ ?_
  · refine (State.vecRun_keeps ?_ (covers_trans (by decide) hm) _ _)
    refine keeps_ite (P := fun z => Keeps [.mil, .free] s z) ?_ ?_
    · exact (State.useFree_keeps h (covers_trans (by decide) hm) _)
    · exact h
  · exact h

theorem execVmul_keeps : ∀ a0 t, execVmul a0 s = .next t →
    Keeps [.mil] s t := by
  intro a0 t e
  have hm : covers [.mil] [.mil] = true := by decide
  have h := Keeps.refl [.mil] s
  unfold execVmul at e
  exact (Keeps.trans h ((State.vecCmd_keeps _ _ _ e).mono (covers_trans (by decide) hm)))

theorem execVmac_keeps : ∀ a0 t, execVmac a0 s = .next t →
    Keeps [.mil] s t := by
  intro a0 t e
  have hm : covers [.mil] [.mil] = true := by decide
  have h := Keeps.refl [.mil] s
  unfold execVmac at e
  exact (Keeps.trans h ((State.vecCmd_keeps _ _ _ e).mono (covers_trans (by decide) hm)))

theorem execVmsu_keeps : ∀ a0 t, execVmsu a0 s = .next t →
    Keeps [.mil] s t := by
  intro a0 t e
  have hm : covers [.mil] [.mil] = true := by decide
  have h := Keeps.refl [.mil] s
  unfold execVmsu at e
  exact (Keeps.trans h ((State.vecCmd_keeps _ _ _ e).mono (covers_trans (by decide) hm)))

theorem execVmova_keeps : ∀ a0 t, execVmova a0 s = .next t →
    Keeps [.mil] s t := by
  intro a0 t e
  have hm : covers [.mil] [.mil] = true := by decide
  have h := Keeps.refl [.mil] s
  unfold execVmova at e
  exact (Keeps.trans h ((State.vecCmd_keeps _ _ _ e).mono (covers_trans (by decide) hm)))

theorem execVadda_keeps : ∀ a0 t, execVadda a0 s = .next t →
    Keeps [.mil] s t := by
  intro a0 t e
  have hm : covers [.mil] [.mil] = true := by decide
  have h := Keeps.refl [.mil] s
  unfold execVadda at e
  exact (Keeps.trans h ((State.vecCmd_keeps _ _ _ e).mono (covers_trans (by decide) hm)))

theorem execVacc_keeps : ∀ a0 t, execVacc a0 s = .next t →
    Keeps [.mil] s t := by
  intro a0 t e
  have hm : covers [.mil] [.mil] = true := by decide
  have h := Keeps.refl [.mil] s
  unfold execVacc at e
  exact (Keeps.trans h ((State.vecCmd_keeps _ _ _ e).mono (covers_trans (by decide) hm)))

theorem execVclra_keeps : ∀ a0 t, execVclra a0 s = .next t →
    Keeps [.mil] s t := by
  intro a0 t e
  have hm : covers [.mil] [.mil] = true := by decide
  have h := Keeps.refl [.mil] s
  unfold execVclra at e
  exact (Keeps.trans h ((State.vecCmd_keeps _ _ _ e).mono (covers_trans (by decide) hm)))

theorem execVreda_keeps : ∀ a0 t, execVreda a0 s = .next t →
    Keeps [.mil] s t := by
  intro a0 t e
  have hm : covers [.mil] [.mil] = true := by decide
  have h := Keeps.refl [.mil] s
  unfold execVreda at e
  exact (Keeps.trans h ((State.vecCmd_keeps _ _ _ e).mono (covers_trans (by decide) hm)))

theorem execVrnd_keeps : ∀ a0 t, execVrnd a0 s = .next t →
    Keeps [.mil] s t := by
  intro a0 t e
  have hm : covers [.mil] [.mil] = true := by decide
  have h := Keeps.refl [.mil] s
  unfold execVrnd at e
  exact (Keeps.trans h ((State.vecCmd_keeps _ _ _ e).mono (covers_trans (by decide) hm)))

theorem execVrndv_keeps : ∀ a0 t, execVrndv a0 s = .next t →
    Keeps [.mil] s t := by
  intro a0 t e
  have hm : covers [.mil] [.mil] = true := by decide
  have h := Keeps.refl [.mil] s
  unfold execVrndv at e
  exact (Keeps.trans h ((State.vecCmd_keeps _ _ _ e).mono (covers_trans (by decide) hm)))

theorem execVaccw_keeps : ∀ a0 t, execVaccw a0 s = .next t →
    Keeps [.mil] s t := by
  intro a0 t e
  have hm : covers [.mil] [.mil] = true := by decide
  have h := Keeps.refl [.mil] s
  unfold execVaccw at e
  exact (Keeps.trans h ((State.vecCmd_keeps _ _ _ e).mono (covers_trans (by decide) hm)))

theorem execVrsba_keeps : ∀ a0 t, execVrsba a0 s = .next t →
    Keeps [.mil] s t := by
  intro a0 t e
  have hm : covers [.mil] [.mil] = true := by decide
  have h := Keeps.refl [.mil] s
  unfold execVrsba at e
  exact (Keeps.trans h ((State.vecCmd_keeps _ _ _ e).mono (covers_trans (by decide) hm)))

theorem execVadd_keeps : ∀ a0 t, execVadd a0 s = .next t →
    Keeps [.mil] s t := by
  intro a0 t e
  have hm : covers [.mil] [.mil] = true := by decide
  have h := Keeps.refl [.mil] s
  unfold execVadd at e
  exact (Keeps.trans h ((State.vecCmd_keeps _ _ _ e).mono (covers_trans (by decide) hm)))

theorem execVsub_keeps : ∀ a0 t, execVsub a0 s = .next t →
    Keeps [.mil] s t := by
  intro a0 t e
  have hm : covers [.mil] [.mil] = true := by decide
  have h := Keeps.refl [.mil] s
  unfold execVsub at e
  exact (Keeps.trans h ((State.vecCmd_keeps _ _ _ e).mono (covers_trans (by decide) hm)))

theorem execVaddw_keeps : ∀ a0 t, execVaddw a0 s = .next t →
    Keeps [.mil] s t := by
  intro a0 t e
  have hm : covers [.mil] [.mil] = true := by decide
  have h := Keeps.refl [.mil] s
  unfold execVaddw at e
  exact (Keeps.trans h ((State.vecCmd_keeps _ _ _ e).mono (covers_trans (by decide) hm)))

theorem execVsubw_keeps : ∀ a0 t, execVsubw a0 s = .next t →
    Keeps [.mil] s t := by
  intro a0 t e
  have hm : covers [.mil] [.mil] = true := by decide
  have h := Keeps.refl [.mil] s
  unfold execVsubw at e
  exact (Keeps.trans h ((State.vecCmd_keeps _ _ _ e).mono (covers_trans (by decide) hm)))

theorem execVneg_keeps : ∀ a0 t, execVneg a0 s = .next t →
    Keeps [.mil] s t := by
  intro a0 t e
  have hm : covers [.mil] [.mil] = true := by decide
  have h := Keeps.refl [.mil] s
  unfold execVneg at e
  exact (Keeps.trans h ((State.vecCmd_keeps _ _ _ e).mono (covers_trans (by decide) hm)))

theorem execVabs_keeps : ∀ a0 t, execVabs a0 s = .next t →
    Keeps [.mil] s t := by
  intro a0 t e
  have hm : covers [.mil] [.mil] = true := by decide
  have h := Keeps.refl [.mil] s
  unfold execVabs at e
  exact (Keeps.trans h ((State.vecCmd_keeps _ _ _ e).mono (covers_trans (by decide) hm)))

theorem execVmin_keeps : ∀ a0 t, execVmin a0 s = .next t →
    Keeps [.mil] s t := by
  intro a0 t e
  have hm : covers [.mil] [.mil] = true := by decide
  have h := Keeps.refl [.mil] s
  unfold execVmin at e
  exact (Keeps.trans h ((State.vecCmd_keeps _ _ _ e).mono (covers_trans (by decide) hm)))

theorem execVmax_keeps : ∀ a0 t, execVmax a0 s = .next t →
    Keeps [.mil] s t := by
  intro a0 t e
  have hm : covers [.mil] [.mil] = true := by decide
  have h := Keeps.refl [.mil] s
  unfold execVmax at e
  exact (Keeps.trans h ((State.vecCmd_keeps _ _ _ e).mono (covers_trans (by decide) hm)))

theorem execVand_keeps : ∀ a0 t, execVand a0 s = .next t →
    Keeps [.mil] s t := by
  intro a0 t e
  have hm : covers [.mil] [.mil] = true := by decide
  have h := Keeps.refl [.mil] s
  unfold execVand at e
  exact (Keeps.trans h ((State.vecCmd_keeps _ _ _ e).mono (covers_trans (by decide) hm)))

theorem execVor_keeps : ∀ a0 t, execVor a0 s = .next t →
    Keeps [.mil] s t := by
  intro a0 t e
  have hm : covers [.mil] [.mil] = true := by decide
  have h := Keeps.refl [.mil] s
  unfold execVor at e
  exact (Keeps.trans h ((State.vecCmd_keeps _ _ _ e).mono (covers_trans (by decide) hm)))

theorem execVxor_keeps : ∀ a0 t, execVxor a0 s = .next t →
    Keeps [.mil] s t := by
  intro a0 t e
  have hm : covers [.mil] [.mil] = true := by decide
  have h := Keeps.refl [.mil] s
  unfold execVxor at e
  exact (Keeps.trans h ((State.vecCmd_keeps _ _ _ e).mono (covers_trans (by decide) hm)))

theorem execVshl_keeps : ∀ a0 t, execVshl a0 s = .next t →
    Keeps [.mil] s t := by
  intro a0 t e
  have hm : covers [.mil] [.mil] = true := by decide
  have h := Keeps.refl [.mil] s
  unfold execVshl at e
  exact (Keeps.trans h ((State.vecCmd_keeps _ _ _ e).mono (covers_trans (by decide) hm)))

theorem execVasr_keeps : ∀ a0 t, execVasr a0 s = .next t →
    Keeps [.mil] s t := by
  intro a0 t e
  have hm : covers [.mil] [.mil] = true := by decide
  have h := Keeps.refl [.mil] s
  unfold execVasr at e
  exact (Keeps.trans h ((State.vecCmd_keeps _ _ _ e).mono (covers_trans (by decide) hm)))

theorem execVlsr_keeps : ∀ a0 t, execVlsr a0 s = .next t →
    Keeps [.mil] s t := by
  intro a0 t e
  have hm : covers [.mil] [.mil] = true := by decide
  have h := Keeps.refl [.mil] s
  unfold execVlsr at e
  exact (Keeps.trans h ((State.vecCmd_keeps _ _ _ e).mono (covers_trans (by decide) hm)))

theorem execVcmplt_keeps : ∀ a0 t, execVcmplt a0 s = .next t →
    Keeps [.mil] s t := by
  intro a0 t e
  have hm : covers [.mil] [.mil] = true := by decide
  have h := Keeps.refl [.mil] s
  unfold execVcmplt at e
  exact (Keeps.trans h ((State.vecCmd_keeps _ _ _ e).mono (covers_trans (by decide) hm)))

theorem execVcmpeq_keeps : ∀ a0 t, execVcmpeq a0 s = .next t →
    Keeps [.mil] s t := by
  intro a0 t e
  have hm : covers [.mil] [.mil] = true := by decide
  have h := Keeps.refl [.mil] s
  unfold execVcmpeq at e
  exact (Keeps.trans h ((State.vecCmd_keeps _ _ _ e).mono (covers_trans (by decide) hm)))

theorem execVsel_keeps : ∀ a0 t, execVsel a0 s = .next t →
    Keeps [.mil] s t := by
  intro a0 t e
  have hm : covers [.mil] [.mil] = true := by decide
  have h := Keeps.refl [.mil] s
  unfold execVsel at e
  exact (Keeps.trans h ((State.vecCmd_keeps _ _ _ e).mono (covers_trans (by decide) hm)))

theorem execVrsb_keeps : ∀ a0 t, execVrsb a0 s = .next t →
    Keeps [.mil] s t := by
  intro a0 t e
  have hm : covers [.mil] [.mil] = true := by decide
  have h := Keeps.refl [.mil] s
  unfold execVrsb at e
  exact (Keeps.trans h ((State.vecCmd_keeps _ _ _ e).mono (covers_trans (by decide) hm)))

theorem execVrot_keeps : ∀ a0 t, execVrot a0 s = .next t →
    Keeps [.mil] s t := by
  intro a0 t e
  have hm : covers [.mil] [.mil] = true := by decide
  have h := Keeps.refl [.mil] s
  unfold execVrot at e
  exact (Keeps.trans h ((State.vecCmd_keeps _ _ _ e).mono (covers_trans (by decide) hm)))

theorem execVbc_keeps : ∀ a0 t, execVbc a0 s = .next t →
    Keeps [.mil] s t := by
  intro a0 t e
  have hm : covers [.mil] [.mil] = true := by decide
  have h := Keeps.refl [.mil] s
  unfold execVbc at e
  exact (Keeps.trans h ((State.vecCmd_keeps _ _ _ e).mono (covers_trans (by decide) hm)))

theorem execVaddi_keeps : ∀ a0 t, execVaddi a0 s = .next t →
    Keeps [.mil] s t := by
  intro a0 t e
  have hm : covers [.mil] [.mil] = true := by decide
  have h := Keeps.refl [.mil] s
  unfold execVaddi at e
  exact (Keeps.trans h ((State.vecCmd_keeps _ _ _ e).mono (covers_trans (by decide) hm)))

theorem execVrsubi_keeps : ∀ a0 t, execVrsubi a0 s = .next t →
    Keeps [.mil] s t := by
  intro a0 t e
  have hm : covers [.mil] [.mil] = true := by decide
  have h := Keeps.refl [.mil] s
  unfold execVrsubi at e
  exact (Keeps.trans h ((State.vecCmd_keeps _ _ _ e).mono (covers_trans (by decide) hm)))

theorem execVlg2_keeps : ∀ a0 t, execVlg2 a0 s = .next t →
    Keeps [.mil] s t := by
  intro a0 t e
  have hm : covers [.mil] [.mil] = true := by decide
  have h := Keeps.refl [.mil] s
  unfold execVlg2 at e
  exact (Keeps.trans h ((State.vecCmd_keeps _ _ _ e).mono (covers_trans (by decide) hm)))

theorem execVsqrt_keeps : ∀ a0 t, execVsqrt a0 s = .next t →
    Keeps [.mil] s t := by
  intro a0 t e
  have hm : covers [.mil] [.mil] = true := by decide
  have h := Keeps.refl [.mil] s
  unfold execVsqrt at e
  exact (Keeps.trans h ((State.vecCmd_keeps _ _ _ e).mono (covers_trans (by decide) hm)))

theorem execVdiv_keeps : ∀ a0 t, execVdiv a0 s = .next t →
    Keeps [.mil] s t := by
  intro a0 t e
  have hm : covers [.mil] [.mil] = true := by decide
  have h := Keeps.refl [.mil] s
  unfold execVdiv at e
  exact (Keeps.trans h ((State.vecCmd_keeps _ _ _ e).mono (covers_trans (by decide) hm)))

theorem execLdv_keeps : ∀ a0 t, execLdv a0 s = .next t → Keeps [.regs, .mem, .scn, .chn, .host, .mil, .nbr, .memx, .flt, .out] s t :=
  fun a0 _ e => State.lsCmd_keeps (lsLdv_keeps (.refl _ s) (by decide) a0) e

theorem execStv_keeps : ∀ a0 t, execStv a0 s = .next t → Keeps [.regs, .mem, .eng, .scn, .host, .mil, .nbr, .memx, .out] s t :=
  fun a0 _ e => State.lsCmd_keeps (lsStv_keeps (.refl _ s) (by decide) a0) e

theorem execLdx_keeps : ∀ a0 t, execLdx a0 s = .next t → Keeps [.regs, .mem, .scn, .chn, .host, .mil, .nbr, .memx, .flt, .out] s t :=
  fun a0 _ e => State.lsCmd_keeps (lsLdx_keeps (.refl _ s) (by decide) a0) e

theorem execStx_keeps : ∀ a0 t, execStx a0 s = .next t → Keeps [.regs, .mem, .eng, .scn, .host, .mil, .nbr, .memx, .out] s t :=
  fun a0 _ e => State.lsCmd_keeps (lsStx_keeps (.refl _ s) (by decide) a0) e

theorem execLdhx_keeps : ∀ a0 t, execLdhx a0 s = .next t → Keeps [.regs, .mem, .scn, .chn, .host, .mil, .nbr, .memx, .flt, .out] s t :=
  fun a0 _ e => State.lsCmd_keeps (lsLdhx_keeps (.refl _ s) (by decide) a0) e

theorem execSthx_keeps : ∀ a0 t, execSthx a0 s = .next t → Keeps [.regs, .mem, .eng, .scn, .host, .mil, .nbr, .memx, .out] s t :=
  fun a0 _ e => State.lsCmd_keeps (lsSthx_keeps (.refl _ s) (by decide) a0) e

theorem execLdbc_keeps : ∀ a0 t, execLdbc a0 s = .next t → Keeps [.regs, .mem, .scn, .chn, .host, .mil, .nbr, .memx, .flt, .out] s t :=
  fun a0 _ e => State.lsCmd_keeps (lsLdbc_keeps (.refl _ s) (by decide) a0) e

theorem execLds_keeps : ∀ a0 t, execLds a0 s = .next t → Keeps [.regs, .mem, .scn, .chn, .host, .mil, .nbr, .memx, .flt, .out] s t :=
  fun a0 _ e => State.lsCmd_keeps (lsLds_keeps (.refl _ s) (by decide) a0) e

theorem execSts_keeps : ∀ a0 t, execSts a0 s = .next t → Keeps [.regs, .mem, .eng, .scn, .host, .mil, .nbr, .memx, .out] s t :=
  fun a0 _ e => State.lsCmd_keeps (lsSts_keeps (.refl _ s) (by decide) a0) e

theorem execLda_keeps : ∀ a0 t, execLda a0 s = .next t → Keeps [.regs, .mem, .scn, .chn, .host, .mil, .nbr, .memx, .flt, .out] s t :=
  fun a0 _ e => State.lsCmd_keeps (lsLda_keeps (.refl _ s) (by decide) a0) e

theorem execSta_keeps : ∀ a0 t, execSta a0 s = .next t → Keeps [.regs, .mem, .eng, .scn, .host, .mil, .nbr, .memx, .out] s t :=
  fun a0 _ e => State.lsCmd_keeps (lsSta_keeps (.refl _ s) (by decide) a0) e

theorem execLdhv_keeps : ∀ a0 t, execLdhv a0 s = .next t → Keeps [.regs, .mem, .scn, .chn, .host, .mil, .nbr, .memx, .flt, .out] s t :=
  fun a0 _ e => State.lsCmd_keeps (lsLdhv_keeps (.refl _ s) (by decide) a0) e

theorem execSthv_keeps : ∀ a0 t, execSthv a0 s = .next t → Keeps [.regs, .mem, .eng, .scn, .host, .mil, .nbr, .memx, .out] s t :=
  fun a0 _ e => State.lsCmd_keeps (lsSthv_keeps (.refl _ s) (by decide) a0) e

theorem execPmod_keeps : ∀ a0 t, execPmod a0 s = .next t → Keeps [.mil] s t :=
  fun a0 _ e => State.lsCmd_keeps (lsPmod_keeps (.refl _ s) (by decide) a0) e

theorem execAddS_keeps : ∀ a0 t, execAddS a0 s = .next t →
    Keeps [.regs, .host, .mil, .out, .free] s t := by
  intro a0 t e
  have hm : covers [.regs, .host, .mil, .out, .free] [.regs, .host, .mil, .out, .free] = true := by decide
  have h := Keeps.refl [.regs, .host, .mil, .out, .free] s
  unfold execAddS at e
  unfold State.scCmd at e
  replace e := Host.Outcome.next.inj e
  subst e
  refine keeps_ite (P := fun z => Keeps [.regs, .host, .mil, .out, .free] s z) ?_ ?_
  · exact (State.scFinish_keeps (scAdd_keeps h (covers_trans (by decide) hm) _) (covers_trans (by decide) hm) _)
  · exact h

theorem execSubS_keeps : ∀ a0 t, execSubS a0 s = .next t →
    Keeps [.regs, .host, .mil, .out, .free] s t := by
  intro a0 t e
  have hm : covers [.regs, .host, .mil, .out, .free] [.regs, .host, .mil, .out, .free] = true := by decide
  have h := Keeps.refl [.regs, .host, .mil, .out, .free] s
  unfold execSubS at e
  unfold State.scCmd at e
  replace e := Host.Outcome.next.inj e
  subst e
  refine keeps_ite (P := fun z => Keeps [.regs, .host, .mil, .out, .free] s z) ?_ ?_
  · exact (State.scFinish_keeps (scSub_keeps h (covers_trans (by decide) hm) _) (covers_trans (by decide) hm) _)
  · exact h

theorem execAddi_keeps : ∀ a0 t, execAddi a0 s = .next t →
    Keeps [.regs, .host, .mil, .out, .free] s t := by
  intro a0 t e
  have hm : covers [.regs, .host, .mil, .out, .free] [.regs, .host, .mil, .out, .free] = true := by decide
  have h := Keeps.refl [.regs, .host, .mil, .out, .free] s
  unfold execAddi at e
  unfold State.scCmd at e
  replace e := Host.Outcome.next.inj e
  subst e
  refine keeps_ite (P := fun z => Keeps [.regs, .host, .mil, .out, .free] s z) ?_ ?_
  · exact (State.scFinish_keeps (scAddi_keeps h (covers_trans (by decide) hm) _) (covers_trans (by decide) hm) _)
  · exact h

theorem execAndS_keeps : ∀ a0 t, execAndS a0 s = .next t →
    Keeps [.regs, .host, .mil, .out, .free] s t := by
  intro a0 t e
  have hm : covers [.regs, .host, .mil, .out, .free] [.regs, .host, .mil, .out, .free] = true := by decide
  have h := Keeps.refl [.regs, .host, .mil, .out, .free] s
  unfold execAndS at e
  unfold State.scCmd at e
  replace e := Host.Outcome.next.inj e
  subst e
  refine keeps_ite (P := fun z => Keeps [.regs, .host, .mil, .out, .free] s z) ?_ ?_
  · exact (State.scFinish_keeps (scAnd_keeps h (covers_trans (by decide) hm) _) (covers_trans (by decide) hm) _)
  · exact h

theorem execOrS_keeps : ∀ a0 t, execOrS a0 s = .next t →
    Keeps [.regs, .host, .mil, .out, .free] s t := by
  intro a0 t e
  have hm : covers [.regs, .host, .mil, .out, .free] [.regs, .host, .mil, .out, .free] = true := by decide
  have h := Keeps.refl [.regs, .host, .mil, .out, .free] s
  unfold execOrS at e
  unfold State.scCmd at e
  replace e := Host.Outcome.next.inj e
  subst e
  refine keeps_ite (P := fun z => Keeps [.regs, .host, .mil, .out, .free] s z) ?_ ?_
  · exact (State.scFinish_keeps (scOr_keeps h (covers_trans (by decide) hm) _) (covers_trans (by decide) hm) _)
  · exact h

theorem execXorS_keeps : ∀ a0 t, execXorS a0 s = .next t →
    Keeps [.regs, .host, .mil, .out, .free] s t := by
  intro a0 t e
  have hm : covers [.regs, .host, .mil, .out, .free] [.regs, .host, .mil, .out, .free] = true := by decide
  have h := Keeps.refl [.regs, .host, .mil, .out, .free] s
  unfold execXorS at e
  unfold State.scCmd at e
  replace e := Host.Outcome.next.inj e
  subst e
  refine keeps_ite (P := fun z => Keeps [.regs, .host, .mil, .out, .free] s z) ?_ ?_
  · exact (State.scFinish_keeps (scXor_keeps h (covers_trans (by decide) hm) _) (covers_trans (by decide) hm) _)
  · exact h

theorem execShl_keeps : ∀ a0 t, execShl a0 s = .next t →
    Keeps [.regs, .host, .mil, .out, .free] s t := by
  intro a0 t e
  have hm : covers [.regs, .host, .mil, .out, .free] [.regs, .host, .mil, .out, .free] = true := by decide
  have h := Keeps.refl [.regs, .host, .mil, .out, .free] s
  unfold execShl at e
  unfold State.scCmd at e
  replace e := Host.Outcome.next.inj e
  subst e
  refine keeps_ite (P := fun z => Keeps [.regs, .host, .mil, .out, .free] s z) ?_ ?_
  · exact (State.scFinish_keeps (scShl_keeps h (covers_trans (by decide) hm) _) (covers_trans (by decide) hm) _)
  · exact h

theorem execAsr_keeps : ∀ a0 t, execAsr a0 s = .next t →
    Keeps [.regs, .host, .mil, .out, .free] s t := by
  intro a0 t e
  have hm : covers [.regs, .host, .mil, .out, .free] [.regs, .host, .mil, .out, .free] = true := by decide
  have h := Keeps.refl [.regs, .host, .mil, .out, .free] s
  unfold execAsr at e
  unfold State.scCmd at e
  replace e := Host.Outcome.next.inj e
  subst e
  refine keeps_ite (P := fun z => Keeps [.regs, .host, .mil, .out, .free] s z) ?_ ?_
  · exact (State.scFinish_keeps (scAsr_keeps h (covers_trans (by decide) hm) _) (covers_trans (by decide) hm) _)
  · exact h

theorem execLsr_keeps : ∀ a0 t, execLsr a0 s = .next t →
    Keeps [.regs, .host, .mil, .out, .free] s t := by
  intro a0 t e
  have hm : covers [.regs, .host, .mil, .out, .free] [.regs, .host, .mil, .out, .free] = true := by decide
  have h := Keeps.refl [.regs, .host, .mil, .out, .free] s
  unfold execLsr at e
  unfold State.scCmd at e
  replace e := Host.Outcome.next.inj e
  subst e
  refine keeps_ite (P := fun z => Keeps [.regs, .host, .mil, .out, .free] s z) ?_ ?_
  · exact (State.scFinish_keeps (scLsr_keeps h (covers_trans (by decide) hm) _) (covers_trans (by decide) hm) _)
  · exact h

theorem execLi_keeps : ∀ a0 t, execLi a0 s = .next t →
    Keeps [.regs, .host, .mil, .out, .free] s t := by
  intro a0 t e
  have hm : covers [.regs, .host, .mil, .out, .free] [.regs, .host, .mil, .out, .free] = true := by decide
  have h := Keeps.refl [.regs, .host, .mil, .out, .free] s
  unfold execLi at e
  unfold State.scCmd at e
  replace e := Host.Outcome.next.inj e
  subst e
  refine keeps_ite (P := fun z => Keeps [.regs, .host, .mil, .out, .free] s z) ?_ ?_
  · exact (State.scFinish_keeps (scLi_keeps h (covers_trans (by decide) hm) _) (covers_trans (by decide) hm) _)
  · exact h

theorem execSli_keeps : ∀ a0 t, execSli a0 s = .next t →
    Keeps [.regs, .host, .mil, .out, .free] s t := by
  intro a0 t e
  have hm : covers [.regs, .host, .mil, .out, .free] [.regs, .host, .mil, .out, .free] = true := by decide
  have h := Keeps.refl [.regs, .host, .mil, .out, .free] s
  unfold execSli at e
  unfold State.scCmd at e
  replace e := Host.Outcome.next.inj e
  subst e
  refine keeps_ite (P := fun z => Keeps [.regs, .host, .mil, .out, .free] s z) ?_ ?_
  · exact (State.scFinish_keeps (scSli_keeps h (covers_trans (by decide) hm) _) (covers_trans (by decide) hm) _)
  · exact h

theorem execMinS_keeps : ∀ a0 t, execMinS a0 s = .next t →
    Keeps [.regs, .host, .mil, .out, .free] s t := by
  intro a0 t e
  have hm : covers [.regs, .host, .mil, .out, .free] [.regs, .host, .mil, .out, .free] = true := by decide
  have h := Keeps.refl [.regs, .host, .mil, .out, .free] s
  unfold execMinS at e
  unfold State.scCmd at e
  replace e := Host.Outcome.next.inj e
  subst e
  refine keeps_ite (P := fun z => Keeps [.regs, .host, .mil, .out, .free] s z) ?_ ?_
  · exact (State.scFinish_keeps (scMin_keeps h (covers_trans (by decide) hm) _) (covers_trans (by decide) hm) _)
  · exact h

theorem execMaxS_keeps : ∀ a0 t, execMaxS a0 s = .next t →
    Keeps [.regs, .host, .mil, .out, .free] s t := by
  intro a0 t e
  have hm : covers [.regs, .host, .mil, .out, .free] [.regs, .host, .mil, .out, .free] = true := by decide
  have h := Keeps.refl [.regs, .host, .mil, .out, .free] s
  unfold execMaxS at e
  unfold State.scCmd at e
  replace e := Host.Outcome.next.inj e
  subst e
  refine keeps_ite (P := fun z => Keeps [.regs, .host, .mil, .out, .free] s z) ?_ ?_
  · exact (State.scFinish_keeps (scMax_keeps h (covers_trans (by decide) hm) _) (covers_trans (by decide) hm) _)
  · exact h

theorem execMvp_keeps : ∀ a0 t, execMvp a0 s = .next t →
    Keeps [.regs, .host, .mil, .out, .free] s t := by
  intro a0 t e
  have hm : covers [.regs, .host, .mil, .out, .free] [.regs, .host, .mil, .out, .free] = true := by decide
  have h := Keeps.refl [.regs, .host, .mil, .out, .free] s
  unfold execMvp at e
  unfold State.scCmd at e
  replace e := Host.Outcome.next.inj e
  subst e
  refine keeps_ite (P := fun z => Keeps [.regs, .host, .mil, .out, .free] s z) ?_ ?_
  · exact (State.scFinish_keeps (scMvp_keeps h (covers_trans (by decide) hm) _) (covers_trans (by decide) hm) _)
  · exact h

theorem execMvm_keeps : ∀ a0 t, execMvm a0 s = .next t →
    Keeps [.regs, .host, .mil, .out, .free] s t := by
  intro a0 t e
  have hm : covers [.regs, .host, .mil, .out, .free] [.regs, .host, .mil, .out, .free] = true := by decide
  have h := Keeps.refl [.regs, .host, .mil, .out, .free] s
  unfold execMvm at e
  unfold State.scCmd at e
  replace e := Host.Outcome.next.inj e
  subst e
  refine keeps_ite (P := fun z => Keeps [.regs, .host, .mil, .out, .free] s z) ?_ ?_
  · exact (State.scFinish_keeps (scMvm_keeps h (covers_trans (by decide) hm) _) (covers_trans (by decide) hm) _)
  · exact h

theorem execMvn_keeps : ∀ a0 t, execMvn a0 s = .next t →
    Keeps [.regs, .host, .mil, .out, .free] s t := by
  intro a0 t e
  have hm : covers [.regs, .host, .mil, .out, .free] [.regs, .host, .mil, .out, .free] = true := by decide
  have h := Keeps.refl [.regs, .host, .mil, .out, .free] s
  unfold execMvn at e
  unfold State.scCmd at e
  replace e := Host.Outcome.next.inj e
  subst e
  refine keeps_ite (P := fun z => Keeps [.regs, .host, .mil, .out, .free] s z) ?_ ?_
  · exact (State.scFinish_keeps (scMvn_keeps h (covers_trans (by decide) hm) _) (covers_trans (by decide) hm) _)
  · exact h

theorem execRdp_keeps : ∀ a0 t, execRdp a0 s = .next t →
    Keeps [.regs, .host, .mil, .out, .free] s t := by
  intro a0 t e
  have hm : covers [.regs, .host, .mil, .out, .free] [.regs, .host, .mil, .out, .free] = true := by decide
  have h := Keeps.refl [.regs, .host, .mil, .out, .free] s
  unfold execRdp at e
  unfold State.scCmd at e
  replace e := Host.Outcome.next.inj e
  subst e
  refine keeps_ite (P := fun z => Keeps [.regs, .host, .mil, .out, .free] s z) ?_ ?_
  · exact (State.scFinish_keeps (scRdp_keeps h (covers_trans (by decide) hm) _) (covers_trans (by decide) hm) _)
  · exact h

theorem execRdm_keeps : ∀ a0 t, execRdm a0 s = .next t →
    Keeps [.regs, .host, .mil, .out, .free] s t := by
  intro a0 t e
  have hm : covers [.regs, .host, .mil, .out, .free] [.regs, .host, .mil, .out, .free] = true := by decide
  have h := Keeps.refl [.regs, .host, .mil, .out, .free] s
  unfold execRdm at e
  unfold State.scCmd at e
  replace e := Host.Outcome.next.inj e
  subst e
  refine keeps_ite (P := fun z => Keeps [.regs, .host, .mil, .out, .free] s z) ?_ ?_
  · exact (State.scFinish_keeps (scRdm_keeps h (covers_trans (by decide) hm) _) (covers_trans (by decide) hm) _)
  · exact h

theorem execRdn_keeps : ∀ a0 t, execRdn a0 s = .next t →
    Keeps [.regs, .host, .mil, .out, .free] s t := by
  intro a0 t e
  have hm : covers [.regs, .host, .mil, .out, .free] [.regs, .host, .mil, .out, .free] = true := by decide
  have h := Keeps.refl [.regs, .host, .mil, .out, .free] s
  unfold execRdn at e
  unfold State.scCmd at e
  replace e := Host.Outcome.next.inj e
  subst e
  refine keeps_ite (P := fun z => Keeps [.regs, .host, .mil, .out, .free] s z) ?_ ?_
  · exact (State.scFinish_keeps (scRdn_keeps h (covers_trans (by decide) hm) _) (covers_trans (by decide) hm) _)
  · exact h

theorem execVins_keeps : ∀ a0 t, execVins a0 s = .next t →
    Keeps [.regs, .host, .mil, .out, .free] s t := by
  intro a0 t e
  have hm : covers [.regs, .host, .mil, .out, .free] [.regs, .host, .mil, .out, .free] = true := by decide
  have h := Keeps.refl [.regs, .host, .mil, .out, .free] s
  unfold execVins at e
  unfold State.scCmd at e
  replace e := Host.Outcome.next.inj e
  subst e
  refine keeps_ite (P := fun z => Keeps [.regs, .host, .mil, .out, .free] s z) ?_ ?_
  · exact (State.scFinish_keeps (scVins_keeps h (covers_trans (by decide) hm) _) (covers_trans (by decide) hm) _)
  · exact h

theorem execVext_keeps : ∀ a0 t, execVext a0 s = .next t →
    Keeps [.regs, .host, .mil, .out, .free] s t := by
  intro a0 t e
  have hm : covers [.regs, .host, .mil, .out, .free] [.regs, .host, .mil, .out, .free] = true := by decide
  have h := Keeps.refl [.regs, .host, .mil, .out, .free] s
  unfold execVext at e
  unfold State.scCmd at e
  replace e := Host.Outcome.next.inj e
  subst e
  refine keeps_ite (P := fun z => Keeps [.regs, .host, .mil, .out, .free] s z) ?_ ?_
  · exact (State.scFinish_keeps (scVext_keeps h (covers_trans (by decide) hm) _) (covers_trans (by decide) hm) _)
  · exact h

theorem execLoopS_keeps : ∀ a0 t, execLoopS a0 s = .next t →
    Keeps [.regs, .host, .mil, .out, .free] s t := by
  intro a0 t e
  have hm : covers [.regs, .host, .mil, .out, .free] [.regs, .host, .mil, .out, .free] = true := by decide
  have h := Keeps.refl [.regs, .host, .mil, .out, .free] s
  unfold execLoopS at e
  unfold State.scCmd at e
  replace e := Host.Outcome.next.inj e
  subst e
  refine keeps_ite (P := fun z => Keeps [.regs, .host, .mil, .out, .free] s z) ?_ ?_
  · exact (State.scFinish_keeps (scLoop_keeps h (covers_trans (by decide) hm) _) (covers_trans (by decide) hm) _)
  · exact h

theorem execEob_keeps : ∀ a0 t, execEob a0 s = .next t →
    Keeps [.regs, .host, .mil, .out, .free] s t := by
  intro a0 t e
  have hm : covers [.regs, .host, .mil, .out, .free] [.regs, .host, .mil, .out, .free] = true := by decide
  have h := Keeps.refl [.regs, .host, .mil, .out, .free] s
  unfold execEob at e
  unfold State.scCmd at e
  replace e := Host.Outcome.next.inj e
  subst e
  refine keeps_ite (P := fun z => Keeps [.regs, .host, .mil, .out, .free] s z) ?_ ?_
  · exact (State.scFinish_keeps (scEob_keeps h (covers_trans (by decide) hm) _) (covers_trans (by decide) hm) _)
  · exact h

theorem execBxclr_keeps : ∀ a0 t, execBxclr a0 s = .next t →
    Keeps [.regs, .host, .mil, .out, .free] s t := by
  intro a0 t e
  have hm : covers [.regs, .host, .mil, .out, .free] [.regs, .host, .mil, .out, .free] = true := by decide
  have h := Keeps.refl [.regs, .host, .mil, .out, .free] s
  unfold execBxclr at e
  unfold State.scCmd at e
  replace e := Host.Outcome.next.inj e
  subst e
  refine keeps_ite (P := fun z => Keeps [.regs, .host, .mil, .out, .free] s z) ?_ ?_
  · exact (State.scFinish_keeps (scBxclr_keeps h (covers_trans (by decide) hm) _) (covers_trans (by decide) hm) _)
  · exact h

theorem execBxrd_keeps : ∀ a0 t, execBxrd a0 s = .next t →
    Keeps [.regs, .host, .mil, .out, .free] s t := by
  intro a0 t e
  have hm : covers [.regs, .host, .mil, .out, .free] [.regs, .host, .mil, .out, .free] = true := by decide
  have h := Keeps.refl [.regs, .host, .mil, .out, .free] s
  unfold execBxrd at e
  unfold State.scCmd at e
  replace e := Host.Outcome.next.inj e
  subst e
  refine keeps_ite (P := fun z => Keeps [.regs, .host, .mil, .out, .free] s z) ?_ ?_
  · exact (State.scFinish_keeps (scBxrd_keeps h (covers_trans (by decide) hm) _) (covers_trans (by decide) hm) _)
  · exact h

theorem execRdb_keeps : ∀ a0 t, execRdb a0 s = .next t →
    Keeps [.regs, .host, .mil, .out, .free] s t := by
  intro a0 t e
  have hm : covers [.regs, .host, .mil, .out, .free] [.regs, .host, .mil, .out, .free] = true := by decide
  have h := Keeps.refl [.regs, .host, .mil, .out, .free] s
  unfold execRdb at e
  unfold State.scCmd at e
  replace e := Host.Outcome.next.inj e
  subst e
  refine keeps_ite (P := fun z => Keeps [.regs, .host, .mil, .out, .free] s z) ?_ ?_
  · exact (State.scFinish_keeps (scRdb_keeps h (covers_trans (by decide) hm) _) (covers_trans (by decide) hm) _)
  · exact h

theorem execStatS_keeps : ∀ a0 t, execStatS a0 s = .next t →
    Keeps [.regs, .host, .mil, .out, .free] s t := by
  intro a0 t e
  have hm : covers [.regs, .host, .mil, .out, .free] [.regs, .host, .mil, .out, .free] = true := by decide
  have h := Keeps.refl [.regs, .host, .mil, .out, .free] s
  unfold execStatS at e
  unfold State.scCmd at e
  replace e := Host.Outcome.next.inj e
  subst e
  refine keeps_ite (P := fun z => Keeps [.regs, .host, .mil, .out, .free] s z) ?_ ?_
  · exact (State.scFinish_keeps (scStat_keeps h (covers_trans (by decide) hm) _) (covers_trans (by decide) hm) _)
  · exact h

theorem execXfer_keeps : ∀ a0 t, execXfer a0 s = .next t →
    Keeps [.regs, .host, .mil, .out, .free] s t := by
  intro a0 t e
  have hm : covers [.regs, .host, .mil, .out, .free] [.regs, .host, .mil, .out, .free] = true := by decide
  have h := Keeps.refl [.regs, .host, .mil, .out, .free] s
  unfold execXfer at e
  unfold State.scCmd at e
  replace e := Host.Outcome.next.inj e
  subst e
  refine keeps_ite (P := fun z => Keeps [.regs, .host, .mil, .out, .free] s z) ?_ ?_
  · exact (State.scFinish_keeps (scXfer_keeps h (covers_trans (by decide) hm) _) (covers_trans (by decide) hm) _)
  · exact h

theorem execWaite_keeps : ∀ a0 t, execWaite a0 s = .next t →
    Keeps [.regs, .host, .mil, .out, .free] s t := by
  intro a0 t e
  have hm : covers [.regs, .host, .mil, .out, .free] [.regs, .host, .mil, .out, .free] = true := by decide
  have h := Keeps.refl [.regs, .host, .mil, .out, .free] s
  unfold execWaite at e
  unfold State.scCmd at e
  replace e := Host.Outcome.next.inj e
  subst e
  refine keeps_ite (P := fun z => Keeps [.regs, .host, .mil, .out, .free] s z) ?_ ?_
  · exact (State.scFinish_keeps (scWaite_keeps h (covers_trans (by decide) hm) _) (covers_trans (by decide) hm) _)
  · exact h

end Sys2Proof.Machine
end

