-- ==== Sys2Proof/Laws/KeepsImage.lean ====
section
/-! SUPPORT. What each function of Machine/Image.lean keeps: the parts of the state it can change, the canonical form of the stores,
the order of free values and outputs. One lemma per function, assembled from those of the functions it calls. -/
namespace Sys2Proof.Machine

variable {m : List Part} {s0 s : State}

theorem State.clearMem_keeps (h : Keeps m s0 s) (hm : covers m [.mem] = true) : ∀ a1 a2, Keeps m s0 (State.clearMem s a1 a2) := by
  intro a1 a2
  unfold State.clearMem
  exact (keeps_mem h (covers_trans (by decide) hm) fun c => sparseFilter_wf c _)

theorem State.loadMill_keeps (h : Keeps m s0 s) (hm : covers m [.mem] = true) : ∀ a1 a2, Keeps m s0 (State.loadMill s a1 a2) := by
  intro a1 a2
  unfold State.loadMill
  extract_lets -merge -underBinder x0 x1 x2 x3
  have hx2 : Keeps m s0 x2 := (State.clearMem_keeps (State.clearMem_keeps h (covers_trans (by decide) hm) _ _) (covers_trans (by decide) hm) _ _)
  have hx3 : Keeps m s0 x3 := (State.setBytes_keeps hx2 (covers_trans (by decide) hm) _ _)
  try clear_value x3
  try clear_value x2
  refine keeps_foldl (P := fun z => Keeps m s0 z) ?_ fun _ _ h4 => ?_
  · exact hx3
  · exact (State.setBytes_keeps h4 (covers_trans (by decide) hm) _ _)

theorem State.loadMillRegs_keeps (h : Keeps m s0 s) (hm : covers m [.regs] = true) : ∀ a1 a2, Keeps m s0 (State.loadMillRegs s a1 a2) := by
  intro a1 a2
  unfold State.loadMillRegs
  extract_lets -merge -underBinder x0 x1 x2
  have hx1 : Keeps m s0 x1 := (State.wr_keeps (State.wr_keeps (State.wr_keeps (State.wr_keeps h (covers_trans (by decide) hm) _ _ _ _) (covers_trans (by decide) hm) _ _ _ _) (covers_trans (by decide) hm) _ _ _ _) (covers_trans (by decide) hm) _ _ _ _)
  have hx2 : Keeps m s0 x2 := by
    subst x2
    refine keeps_foldl (P := fun z => Keeps m s0 z) ?_ fun _ _ h3 => ?_
    · exact hx1
    · extract_lets -merge -underBinder x4
      exact (State.wr_keeps (State.wr_keeps h3 (covers_trans (by decide) hm) _ _ _ _) (covers_trans (by decide) hm) _ _ _ _)
  try clear_value x2
  try clear_value x1
  exact (State.wr_keeps (State.wr_keeps (State.wr_keeps hx2 (covers_trans (by decide) hm) _ _ _ _) (covers_trans (by decide) hm) _ _ _ _) (covers_trans (by decide) hm) _ _ _ _)

theorem State.loadMillImage_keeps (h : Keeps m s0 s) (hm : covers m [.regs, .mem, .scn, .mil] = true) : ∀ a1, Keeps m s0 (State.loadMillImage s a1) := by
  intro a1
  unfold State.loadMillImage
  extract_lets -merge -underBinder x0 x1 x2 x3 x4 x5 x6 x7 x8
  have hx1 : Keeps m s0 x1 := by
    subst x1
    refine keeps_foldl (P := fun z => Keeps m s0 z) ?_ fun _ _ h9 => ?_
    · exact h
    · exact (State.setMill_keeps (State.loadMillRegs_keeps (State.loadMill_keeps h9 (covers_trans (by decide) hm) _ _) (covers_trans (by decide) hm) _ _) (covers_trans (by decide) hm) _ _)
  have hx2 : Keeps m s0 x2 := (State.setBytes_keeps (State.setBytes_keeps hx1 (covers_trans (by decide) hm) _ _) (covers_trans (by decide) hm) _ _)
  have hx3 : Keeps m s0 x3 := by
    subst x3
    refine keeps_foldl (P := fun z => Keeps m s0 z) ?_ fun _ _ h10 => ?_
    · exact hx2
    · exact (State.wr_keeps (State.wr_keeps h10 (covers_trans (by decide) hm) _ _ _ _) (covers_trans (by decide) hm) _ _ _ _)
  have hx5 : Keeps m s0 x5 := (State.wr_keeps (State.wr_keeps (State.wr_keeps (State.wr_keeps (State.wr_keeps hx3 (covers_trans (by decide) hm) _ _ _ _) (covers_trans (by decide) hm) _ _ _ _) (covers_trans (by decide) hm) _ _ _ _) (covers_trans (by decide) hm) _ _ _ _) (covers_trans (by decide) hm) _ _ _ _)
  try clear_value x5
  try clear_value x3
  try clear_value x2
  try clear_value x1
  exact (keeps_parts (l := [.scn, .mil]) hx5 (covers_trans (by decide) hm) (by intro p hp; cases p <;> first | exact absurd hp (by decide) | rfl) rfl rfl rfl rfl rfl)

theorem State.loadRefused_keeps (h : Keeps m s0 s) (hm : covers m [.regs, .host, .out] = true) : ∀ a1, Keeps m s0 (State.loadRefused s a1) := by
  intro a1
  unfold State.loadRefused
  extract_lets -merge -underBinder x0
  refine keeps_ite (P := fun z => Keeps m s0 z) ?_ ?_
  · exact (State.raise_keeps (State.wr_keeps (State.wr_keeps h (covers_trans (by decide) hm) _ _ _ _) (covers_trans (by decide) hm) _ _ _ _) (covers_trans (by decide) hm) _ _)
  · refine keeps_ite (P := fun z => Keeps m s0 z) ?_ ?_
    · exact (State.wr_keeps h (covers_trans (by decide) hm) _ _ _ _)
    · exact h

end Sys2Proof.Machine
end

