-- ==== Sys2Proof/Laws/KeepsMillProg.lean ====
section
/-! SUPPORT. What each function of Machine/MillProg.lean keeps: the parts of the state it can change, the canonical form of the stores,
the order of free values and outputs. One lemma per function, assembled from those of the functions it calls. -/
namespace Sys2Proof.Machine

variable {m : List Part} {s0 s : State}

theorem State.millWake_keeps (h : Keeps m s0 s) (hm : covers m [.regs, .host, .mil, .out, .free] = true) : ∀ a1, Keeps m s0 (State.millWake s a1) := by
  intro a1
  unfold State.millWake
  extract_lets -merge -underBinder x0 x1
  split
  · exact h
  · refine keeps_ite (P := fun z => Keeps m s0 z) ?_ ?_
    · try dsimp -zeta only [x1]
      exact (State.millAdvance_keeps (State.setMill_keeps h (covers_trans (by decide) hm) _ _) (covers_trans (by decide) hm) _)
    · exact h
  · refine keeps_ite (P := fun z => Keeps m s0 z) ?_ ?_
    · try dsimp -zeta only [x1]
      exact (State.millAdvance_keeps (State.setMill_keeps h (covers_trans (by decide) hm) _ _) (covers_trans (by decide) hm) _)
    · exact h
  · refine keeps_ite (P := fun z => Keeps m s0 z) ?_ ?_
    · try dsimp -zeta only [x1]
      exact (State.millAdvance_keeps (State.queueXfer_keeps (State.setMill_keeps h (covers_trans (by decide) hm) _ _) (covers_trans (by decide) hm) _ _) (covers_trans (by decide) hm) _)
    · exact h

theorem State.xferWrite_keeps (h : Keeps m s0 s) (hm : covers m [.regs, .mem, .scn, .host, .nbr, .memx, .out] = true) : ∀ a1 a2 a3, Keeps m s0 (State.xferWrite s a1 a2 a3) := by
  intro a1 a2 a3
  unfold State.xferWrite
  extract_lets -merge -underBinder x0
  refine keeps_ite (P := fun z => Keeps m s0 z) ?_ ?_
  · exact (State.lockDrop_keeps h (covers_trans (by decide) hm))
  · refine keeps_ite (P := fun z => Keeps m s0 z) ?_ ?_
    · exact (State.queueHold_keeps h (covers_trans (by decide) hm) _)
    · exact (State.engineStore_keeps (State.keepHolds_keeps h (covers_trans (by decide) hm) _) (covers_trans (by decide) hm) _ _)

theorem State.moveXfer_keeps (h : Keeps m s0 s) (hm : covers m [.regs, .mem, .scn, .host, .nbr, .memx, .out] = true) : ∀ a1 a2 t, State.moveXfer s a1 a2 = some t → Keeps m s0 t := by
  intro a1 a2 t e
  unfold State.moveXfer at e
  extract_lets -merge -underBinder x0 x1 x2 x3 at e
  refine keeps_eq_ite e (fun e => ?_) (fun e => ?_)
  · cases e
  · replace e := Option.some.inj e
    subst e
    refine keeps_foldl (P := fun z => Keeps m s0 z) ?_ fun _ _ h4 => ?_
    · exact h
    · exact (State.xferWrite_keeps h4 (covers_trans (by decide) hm) _ _ _)

theorem execXferComplete_keeps : ∀ a0 a1 a2 t, execXferComplete a0 a1 a2 s = .next t →
    Keeps [.regs, .mem, .scn, .chn, .host, .mil, .nbr, .memx, .flt, .out, .free] s t := by
  intro a0 a1 a2 t e
  have hm : covers [.regs, .mem, .scn, .chn, .host, .mil, .nbr, .memx, .flt, .out, .free] [.regs, .mem, .scn, .chn, .host, .mil, .nbr, .memx, .flt, .out, .free] = true := by decide
  have h := Keeps.refl [.regs, .mem, .scn, .chn, .host, .mil, .nbr, .memx, .flt, .out, .free] s
  unfold execXferComplete at e
  extract_lets -merge -underBinder x0 at e
  replace e := Host.Outcome.next.inj e
  subst e
  split
  · exact h
  · extract_lets -merge -underBinder x1 x2
    have hx1 : Keeps [.regs, .mem, .scn, .chn, .host, .mil, .nbr, .memx, .flt, .out, .free] s x1 := State.setMill_keeps h (covers_trans (by decide) hm) _ _
    have hx2 : Keeps [.regs, .mem, .scn, .chn, .host, .mil, .nbr, .memx, .flt, .out, .free] s x2 := by
      subst x2
      split
      · rename_i p3 e4
        refine keeps_eq_ite e4 (fun e4 => ?_) (fun e4 => ?_)
        · cases e4
        · exact State.moveXfer_keeps hx1 (covers_trans (by decide) hm) _ _ _ e4
      · refine keeps_ite (P := fun z => Keeps [.regs, .mem, .scn, .chn, .host, .mil, .nbr, .memx, .flt, .out, .free] s z) ?_ ?_
        · exact State.eccEngine_keeps (State.setMill_keeps hx1 (covers_trans (by decide) hm) _ _) (covers_trans (by decide) hm) _
        · exact State.setMill_keeps hx1 (covers_trans (by decide) hm) _ _
    try clear_value x2
    try clear_value x1
    exact State.millWake_keeps hx2 (covers_trans (by decide) hm) _

theorem execTailReady_keeps : ∀ t, execTailReady s = .next t →
    Keeps [.regs, .mem, .chn, .host, .mil, .nbr, .out, .free] s t := by
  intro t e
  have hm : covers [.regs, .mem, .chn, .host, .mil, .nbr, .out, .free] [.regs, .mem, .chn, .host, .mil, .nbr, .out, .free] = true := by decide
  have h := Keeps.refl [.regs, .mem, .chn, .host, .mil, .nbr, .out, .free] s
  unfold execTailReady at e
  extract_lets -merge -underBinder x0 x1 x2 x3 at e
  have hx0 : Keeps [.regs, .mem, .chn, .host, .mil, .nbr, .out, .free] s x0 := by
    subst x0
    refine keeps_foldl (P := fun z => Keeps [.regs, .mem, .chn, .host, .mil, .nbr, .out, .free] s z) ?_ fun _ _ h4 => ?_
    · exact h
    · extract_lets -merge -underBinder x5
      exact (State.engineBytes_keeps h4 (covers_trans (by decide) hm) _ _)
  have hx3 : Keeps [.regs, .mem, .chn, .host, .mil, .nbr, .out, .free] s x3 := (keeps_parts (l := [.chn, .mil]) hx0 (covers_trans (by decide) hm) (by intro p hp; cases p <;> first | exact absurd hp (by decide) | rfl) rfl rfl rfl rfl rfl)
  try clear_value x3
  try clear_value x0
  replace e := Host.Outcome.next.inj e
  subst e
  refine keeps_foldl (P := fun z => Keeps [.regs, .mem, .chn, .host, .mil, .nbr, .out, .free] s z) ?_ fun _ _ h6 => ?_
  · exact hx3
  · exact (State.millWake_keeps h6 (covers_trans (by decide) hm) _)

theorem State.handMsw_keeps (h : Keeps m s0 s) (hm : covers m [.regs, .mil] = true) : ∀ a1, Keeps m s0 (State.handMsw s a1) := by
  intro a1
  unfold State.handMsw
  extract_lets -merge -underBinder x0 x1
  have hx1 : Keeps m s0 x1 := (State.wr_keeps h (covers_trans (by decide) hm) _ _ _ _)
  try clear_value x1
  exact (State.setMill_keeps (State.wr_keeps hx1 (covers_trans (by decide) hm) _ _ _ _) (covers_trans (by decide) hm) _ _)

theorem State.millRun_keeps (h : Keeps m s0 s) (hm : covers m [.regs, .mil] = true) : ∀ a1 a2, Keeps m s0 (State.millRun s a1 a2) := by
  intro a1 a2
  unfold State.millRun
  extract_lets -merge -underBinder x0 x1 x2 x3
  have hx0 : Keeps m s0 x0 := by
    subst x0
    refine keeps_ite (P := fun z => Keeps m s0 z) ?_ ?_
    · exact h
    · exact (State.handMsw_keeps h (covers_trans (by decide) hm) _)
  try clear_value x0
  exact (State.wr_keeps (State.wr_keeps (State.setMill_keeps hx0 (covers_trans (by decide) hm) _ _) (covers_trans (by decide) hm) _ _ _ _) (covers_trans (by decide) hm) _ _ _ _)

theorem State.millBlockStart_keeps (h : Keeps m s0 s) (hm : covers m [.regs, .mil] = true) : ∀ a1 a2, Keeps m s0 (State.millBlockStart s a1 a2) := by
  intro a1 a2
  unfold State.millBlockStart
  extract_lets -merge -underBinder x0 x1 x2 x3 x4
  have hx3 : Keeps m s0 x3 := (State.millRun_keeps (State.wr_keeps (State.setMill_keeps h (covers_trans (by decide) hm) _ _) (covers_trans (by decide) hm) _ _ _ _) (covers_trans (by decide) hm) _ _)
  try clear_value x3
  refine keeps_ite (P := fun z => Keeps m s0 z) ?_ ?_
  · exact h
  · refine keeps_ite (P := fun z => Keeps m s0 z) ?_ ?_
    · refine keeps_ite (P := fun z => Keeps m s0 z) ?_ ?_
      · exact (State.millRun_keeps (State.wr_keeps (State.setMill_keeps h (covers_trans (by decide) hm) _ _) (covers_trans (by decide) hm) _ _ _ _) (covers_trans (by decide) hm) _ _)
      · exact h
    · refine keeps_ite (P := fun z => Keeps m s0 z) ?_ ?_
      · refine keeps_ite (P := fun z => Keeps m s0 z) ?_ ?_
        · dsimp -zeta only [x2]
          exact (State.setMill_keeps h (covers_trans (by decide) hm) _ _)
        · exact (State.setMill_keeps h (covers_trans (by decide) hm) _ _)
      · refine keeps_ite (P := fun z => Keeps m s0 z) ?_ ?_
        · refine keeps_ite (P := fun z => Keeps m s0 z) ?_ ?_
          · dsimp -zeta only [x2]
            exact (State.setMill_keeps (State.setMill_keeps hx3 (covers_trans (by decide) hm) _ _) (covers_trans (by decide) hm) _ _)
          · dsimp -zeta only [x2]
            exact (State.setMill_keeps h (covers_trans (by decide) hm) _ _)
        · exact (State.millRun_keeps h (covers_trans (by decide) hm) _ _)

theorem State.millHungEnds_keeps (h : Keeps m s0 s) (hm : covers m [.regs] = true) : Keeps m s0 (State.millHungEnds s) := by
  unfold State.millHungEnds
  refine keeps_ite (P := fun z => Keeps m s0 z) ?_ ?_
  · exact h
  · exact (State.faultInactive_keeps h (covers_trans (by decide) hm) _)

theorem State.millStarts_keeps (h : Keeps m s0 s) (hm : covers m [.regs, .mil] = true) : ∀ a1, Keeps m s0 (State.millStarts s a1) := by
  intro a1
  unfold State.millStarts
  refine (State.millHungEnds_keeps ?_ (covers_trans (by decide) hm))
  refine keeps_foldl (P := fun z => Keeps m s0 z) ?_ fun _ _ h0 => ?_
  · exact (keeps_mil h (covers_trans (by decide) hm))
  · exact (State.millBlockStart_keeps h0 (covers_trans (by decide) hm) _ _)

theorem State.millMeasures_keeps (h : Keeps m s0 s) (hm : covers m [.regs] = true) : ∀ a1 a2, Keeps m s0 (State.millMeasures s a1 a2) := by
  intro a1 a2
  unfold State.millMeasures
  extract_lets -merge -underBinder x0 x1 x2
  have hx2 : Keeps m s0 x2 := (State.wr_keeps (State.peak_keeps (State.wr_keeps h (covers_trans (by decide) hm) _ _ _ _) (covers_trans (by decide) hm) _ _ _ _) (covers_trans (by decide) hm) _ _ _ _)
  try clear_value x2
  refine keeps_ite (P := fun z => Keeps m s0 z) ?_ ?_
  · exact h
  · refine keeps_foldl (P := fun z => Keeps m s0 z) ?_ fun _ _ h3 => ?_
    · exact hx2
    · extract_lets -merge -underBinder x4
      refine keeps_ite (P := fun z => Keeps m s0 z) ?_ ?_
      · exact (State.wr_keeps (State.wr_keeps h3 (covers_trans (by decide) hm) _ _ _ _) (covers_trans (by decide) hm) _ _ _ _)
      · exact h3

theorem State.recordMiss_keeps (h : Keeps m s0 s) (hm : covers m [.regs, .mem, .host, .flt, .out] = true) : ∀ a1 a2 a3 a4 a5, Keeps m s0 (State.recordMiss s a1 a2 a3 a4 a5) := by
  intro a1 a2 a3 a4 a5
  unfold State.recordMiss
  extract_lets -merge -underBinder x0 x1 x2 x3 x4 x5 x6 x7
  have hx4 : Keeps m s0 x4 := by
    subst x4
    refine keeps_ite (P := fun z => Keeps m s0 z) ?_ ?_
    · exact h
    · exact (State.wr_keeps (State.wr_keeps (State.wr_keeps (State.wr_keeps (State.wr_keeps h (covers_trans (by decide) hm) _ _ _ _) (covers_trans (by decide) hm) _ _ _ _) (covers_trans (by decide) hm) _ _ _ _) (covers_trans (by decide) hm) _ _ _ _) (covers_trans (by decide) hm) _ _ _ _)
  have hx5 : Keeps m s0 x5 := by
    subst x5
    refine keeps_ite (P := fun z => Keeps m s0 z) ?_ ?_
    · exact (State.raise_keeps (State.bump_keeps hx4 (covers_trans (by decide) hm) _ _ _ _) (covers_trans (by decide) hm) _ _)
    · exact hx4
  have hx6 : Keeps m s0 x6 := by
    subst x6
    refine keeps_ite (P := fun z => Keeps m s0 z) ?_ ?_
    · exact (State.raise_keeps (State.bump_keeps hx5 (covers_trans (by decide) hm) _ _ _ _) (covers_trans (by decide) hm) _ _)
    · exact hx5
  have hx7 : Keeps m s0 x7 := by
    subst x7
    refine keeps_ite (P := fun z => Keeps m s0 z) ?_ ?_
    · exact (State.raise_keeps hx6 (covers_trans (by decide) hm) _ _)
    · exact hx6
  try clear_value x7
  try clear_value x6
  try clear_value x5
  try clear_value x4
  exact (State.rollHw_keeps hx7 (covers_trans (by decide) hm) _ _ _ _)

theorem State.decideMill_keeps (h : Keeps m s0 s) (hm : covers m [.regs, .mem, .scn, .chn, .host, .mil, .nbr, .flt, .out] = true) : ∀ a1 a2 a3 a4 a5, Keeps m s0 (State.decideMill s a1 a2 a3 a4 a5) := by
  intro a1 a2 a3 a4 a5
  unfold State.decideMill
  extract_lets -merge -underBinder x0 x1 x2 x3 x4 x5 x6
  have hx4 : Keeps m s0 x4 := (State.setMill_keeps h (covers_trans (by decide) hm) _ _)
  have hx5 : Keeps m s0 x5 := (State.wr_keeps (State.setMill_keeps h (covers_trans (by decide) hm) _ _) (covers_trans (by decide) hm) _ _ _ _)
  have hx6 : Keeps m s0 x6 := (State.recordMiss_keeps hx5 (covers_trans (by decide) hm) _ _ _ _ _)
  try clear_value x6
  try clear_value x5
  try clear_value x4
  refine keeps_ite (P := fun z => Keeps m s0 z) ?_ ?_
  · refine keeps_ite (P := fun z => Keeps m s0 z) ?_ ?_
    · exact hx4
    · refine keeps_ite (P := fun z => Keeps m s0 z) ?_ ?_
      · exact (State.raise_keeps (State.wr_keeps hx4 (covers_trans (by decide) hm) _ _ _ _) (covers_trans (by decide) hm) _ _)
      · exact (State.wr_keeps hx4 (covers_trans (by decide) hm) _ _ _ _)
  · refine keeps_ite (P := fun z => Keeps m s0 z) ?_ ?_
    · exact (State.raiseFault_keeps hx6 (covers_trans (by decide) hm) _ _ _)
    · exact hx6

theorem State.substituteSource_keeps (h : Keeps m s0 s) (hm : covers m [.mem, .eng, .mil, .nbr, .out] = true) : ∀ a1 a2, Keeps m s0 (State.substituteSource s a1 a2) := by
  intro a1 a2
  unfold State.substituteSource
  extract_lets -merge -underBinder x0 x1
  have hx0 : Keeps m s0 x0.2 := (State.substitute_keeps h (covers_trans (by decide) hm) _ _)
  try clear_value x0
  exact (State.putBlock_keeps hx0 (covers_trans (by decide) hm) _ _ _ _)

theorem State.rampSource_keeps (h : Keeps m s0 s) (hm : covers m [.mem, .eng, .mil, .nbr, .out] = true) : ∀ a1 a2, Keeps m s0 (State.rampSource s a1 a2) := by
  intro a1 a2
  unfold State.rampSource
  extract_lets -merge -underBinder x0 x1
  have hx0 : Keeps m s0 x0.2 := (State.goodBlock_keeps h (covers_trans (by decide) hm) _ _)
  try clear_value x0
  exact (State.putBlock_keeps hx0 (covers_trans (by decide) hm) _ _ _ _)

theorem execEndOfWork_keeps : ∀ a0 a1 t, execEndOfWork a0 a1 s = .next t →
    Keeps [.regs, .mem, .eng, .scn, .chn, .host, .mil, .nbr, .flt, .out] s t := by
  intro a0 a1 t e
  have hm : covers [.regs, .mem, .eng, .scn, .chn, .host, .mil, .nbr, .flt, .out] [.regs, .mem, .eng, .scn, .chn, .host, .mil, .nbr, .flt, .out] = true := by decide
  have h := Keeps.refl [.regs, .mem, .eng, .scn, .chn, .host, .mil, .nbr, .flt, .out] s
  unfold execEndOfWork at e
  refine keeps_eq_ite e (fun e => ?_) (fun e => ?_)
  · replace e := Host.Outcome.next.inj e
    subst e
    exact h
  · extract_lets -merge -underBinder x0 x1 x2 x3 x4 x5 x6 x7 x8 x9 x10 x11 x12 x13 at e
    have hx4 : Keeps [.regs, .mem, .eng, .scn, .chn, .host, .mil, .nbr, .flt, .out] s x4 := by
      subst x4
      refine keeps_foldl (P := fun z => Keeps [.regs, .mem, .eng, .scn, .chn, .host, .mil, .nbr, .flt, .out] s z) ?_ fun _ _ h15 => ?_
      · exact h
      · exact (State.millMeasures_keeps h15 (covers_trans (by decide) hm) _ _)
    have hx5 : Keeps [.regs, .mem, .eng, .scn, .chn, .host, .mil, .nbr, .flt, .out] s x5 := by
      subst x5
      refine keeps_foldl (P := fun z => Keeps [.regs, .mem, .eng, .scn, .chn, .host, .mil, .nbr, .flt, .out] s z) ?_ fun _ _ h16 => ?_
      · exact hx4
      · extract_lets -merge -underBinder x17 x18 x19
        have hx19 : Keeps [.regs, .mem, .eng, .scn, .chn, .host, .mil, .nbr, .flt, .out] s x19 := by
          subst x19
          refine keeps_ite (P := fun z => Keeps [.regs, .mem, .eng, .scn, .chn, .host, .mil, .nbr, .flt, .out] s z) ?_ ?_
          · exact (State.millEnd_keeps h16 (covers_trans (by decide) hm) _)
          · refine keeps_ite (P := fun z => Keeps [.regs, .mem, .eng, .scn, .chn, .host, .mil, .nbr, .flt, .out] s z) ?_ ?_
            · exact (State.setMill_keeps h16 (covers_trans (by decide) hm) _ _)
            · exact h16
        try clear_value x19
        refine keeps_ite (P := fun z => Keeps [.regs, .mem, .eng, .scn, .chn, .host, .mil, .nbr, .flt, .out] s z) ?_ ?_
        · exact (State.handMsw_keeps hx19 (covers_trans (by decide) hm) _)
        · exact hx19
    have hx6 : Keeps [.regs, .mem, .eng, .scn, .chn, .host, .mil, .nbr, .flt, .out] s x6 := by
      subst x6
      refine keeps_foldl (P := fun z => Keeps [.regs, .mem, .eng, .scn, .chn, .host, .mil, .nbr, .flt, .out] s z) ?_ fun _ _ h20 => ?_
      · exact hx5
      · extract_lets -merge -underBinder x21 x22
        exact (State.decideMill_keeps h20 (covers_trans (by decide) hm) _ _ _ _ _)
    have hx7 : Keeps [.regs, .mem, .eng, .scn, .chn, .host, .mil, .nbr, .flt, .out] s x7 := by
      subst x7
      refine keeps_ite (P := fun z => Keeps [.regs, .mem, .eng, .scn, .chn, .host, .mil, .nbr, .flt, .out] s z) ?_ ?_
      · exact (State.faultInactive_keeps hx6 (covers_trans (by decide) hm) _)
      · exact hx6
    have hx12 : Keeps [.regs, .mem, .eng, .scn, .chn, .host, .mil, .nbr, .flt, .out] s x12 := by
      subst x12
      refine keeps_foldl (P := fun z => Keeps [.regs, .mem, .eng, .scn, .chn, .host, .mil, .nbr, .flt, .out] s z) ?_ fun _ _ h23 => ?_
      · exact hx7
      · refine State.raiseFault_keeps (State.raise_keeps (State.when_keeps (State.bump_keeps h23 (covers_trans (by decide) hm) _ _ _ _) _ _ fun _ h24 => ?_) (covers_trans (by decide) hm) _ _) (covers_trans (by decide) hm) _ _ _
        exact State.wr_keeps h24 (covers_trans (by decide) hm) _ _ _ _
    have hx13 : Keeps [.regs, .mem, .eng, .scn, .chn, .host, .mil, .nbr, .flt, .out] s x13 := by
      subst x13
      refine keeps_foldl (P := fun z => Keeps [.regs, .mem, .eng, .scn, .chn, .host, .mil, .nbr, .flt, .out] s z) ?_ fun _ _ h24 => ?_
      · exact hx12
      · exact State.substituteSource_keeps h24 (covers_trans (by decide) hm) _ _
    try clear_value x13
    try clear_value x12
    try clear_value x7
    try clear_value x6
    try clear_value x5
    try clear_value x4
    replace e := Host.Outcome.next.inj e
    subst e
    refine keeps_foldl (P := fun z => Keeps [.regs, .mem, .eng, .scn, .chn, .host, .mil, .nbr, .flt, .out] s z) ?_ fun _ _ h25 => ?_
    · exact hx13
    · exact State.rampSource_keeps h25 (covers_trans (by decide) hm) _ _

theorem execMillAbort_keeps : ∀ a0 t, execMillAbort a0 s = .next t →
    Keeps [.regs, .mem, .scn, .chn, .host, .mil, .nbr, .flt, .out] s t := by
  intro a0 t e
  have hm : covers [.regs, .mem, .scn, .chn, .host, .mil, .nbr, .flt, .out] [.regs, .mem, .scn, .chn, .host, .mil, .nbr, .flt, .out] = true := by decide
  have h := Keeps.refl [.regs, .mem, .scn, .chn, .host, .mil, .nbr, .flt, .out] s
  unfold execMillAbort at e
  extract_lets -merge -underBinder x0 x1 at e
  replace e := Host.Outcome.next.inj e
  subst e
  refine keeps_ite (P := fun z => Keeps [.regs, .mem, .scn, .chn, .host, .mil, .nbr, .flt, .out] s z) ?_ ?_
  · exact (State.raiseFault_keeps (State.raise_keeps (State.wr_keeps (State.setMill_keeps h (covers_trans (by decide) hm) _ _) (covers_trans (by decide) hm) _ _ _ _) (covers_trans (by decide) hm) _ _) (covers_trans (by decide) hm) _ _ _)
  · exact h

theorem State.clearServed_keeps (h : Keeps m s0 s) (hm : covers m [.scn, .chn] = true) : ∀ a1, Keeps m s0 (State.clearServed s a1) := by
  intro a1
  unfold State.clearServed
  extract_lets -merge -underBinder x0 x1 x2 x3 x4
  exact (keeps_parts (l := [.scn, .chn]) h (covers_trans (by decide) hm) (by intro p hp; cases p <;> first | exact absurd hp (by decide) | rfl) rfl rfl rfl rfl rfl)

theorem execMillReloadDone_keeps : ∀ a0 t, execMillReloadDone a0 s = .next t →
    Keeps [.mem, .scn, .chn, .mil] s t := by
  intro a0 t e
  have hm : covers [.mem, .scn, .chn, .mil] [.mem, .scn, .chn, .mil] = true := by decide
  have h := Keeps.refl [.mem, .scn, .chn, .mil] s
  unfold execMillReloadDone at e
  replace e := Host.Outcome.next.inj e
  subst e
  refine keeps_ite (P := fun z => Keeps [.mem, .scn, .chn, .mil] s z) ?_ ?_
  · extract_lets -merge -underBinder x0 x1 x2
    have hx0 : Keeps [.mem, .scn, .chn, .mil] s x0 := by
      subst x0
      split
      · exact (State.loadMill_keeps h (covers_trans (by decide) hm) _ _)
      · exact h
    have hx1 : Keeps [.mem, .scn, .chn, .mil] s x1 := (State.clearServed_keeps hx0 (covers_trans (by decide) hm) _)
    try clear_value x1
    try clear_value x0
    exact (State.setMill_keeps hx1 (covers_trans (by decide) hm) _ _)
  · exact h

theorem State.debugRefused_keeps (h : Keeps m s0 s) (hm : covers m [.regs, .host, .out] = true) : ∀ a1, Keeps m s0 (State.debugRefused s a1) := by
  intro a1
  unfold State.debugRefused
  exact (State.raise_keeps (State.bump_keeps h (covers_trans (by decide) hm) _ _ _ _) (covers_trans (by decide) hm) _ _)

theorem State.millResume_keeps (h : Keeps m s0 s) (hm : covers m [.regs] = true) : ∀ a1, Keeps m s0 (State.millResume s a1) := by
  intro a1
  unfold State.millResume
  refine keeps_ite (P := fun z => Keeps m s0 z) ?_ ?_
  · exact (State.wr_keeps h (covers_trans (by decide) hm) _ _ _ _)
  · exact h

theorem State.debugFields_keeps (h : Keeps m s0 s) (hm : covers m [.regs] = true) : ∀ a1 a2, Keeps m s0 (State.debugFields s a1 a2) := by
  intro a1 a2
  unfold State.debugFields
  exact (State.wr_keeps (State.wr_keeps h (covers_trans (by decide) hm) _ _ _ _) (covers_trans (by decide) hm) _ _ _ _)

theorem State.haltWrite_keeps (h : Keeps m s0 s) (hm : covers m [.regs, .host, .out] = true) : ∀ a1 a2, Keeps m s0 (State.haltWrite s a1 a2) := by
  intro a1 a2
  unfold State.haltWrite
  extract_lets -merge -underBinder x0
  have hx0 : Keeps m s0 x0 := (State.wr_keeps h (covers_trans (by decide) hm) _ _ _ _)
  try clear_value x0
  refine keeps_ite (P := fun z => Keeps m s0 z) ?_ ?_
  · refine keeps_ite (P := fun z => Keeps m s0 z) ?_ ?_
    · exact (State.raise_keeps (State.wr_keeps hx0 (covers_trans (by decide) hm) _ _ _ _) (covers_trans (by decide) hm) _ _)
    · exact hx0
  · exact (State.millResume_keeps hx0 (covers_trans (by decide) hm) _)

theorem State.stepWrite_keeps (h : Keeps m s0 s) (hm : covers m [.mil] = true) : ∀ a1, Keeps m s0 (State.stepWrite s a1) := by
  intro a1
  unfold State.stepWrite
  refine keeps_ite (P := fun z => Keeps m s0 z) ?_ ?_
  · exact (State.setMill_keeps h (covers_trans (by decide) hm) _ _)
  · exact h

theorem State.contWrite_keeps (h : Keeps m s0 s) (hm : covers m [.regs] = true) : ∀ a1, Keeps m s0 (State.contWrite s a1) := by
  intro a1
  unfold State.contWrite
  refine keeps_ite (P := fun z => Keeps m s0 z) ?_ ?_
  · exact (State.wr_keeps h (covers_trans (by decide) hm) _ _ _ _)
  · exact h

theorem State.bstepWrite_keeps (h : Keeps m s0 s) (hm : covers m [.regs, .mem, .eng, .scn, .chn, .host, .mil, .nbr, .memx, .flt, .out, .free] = true) : ∀ a1, Keeps m s0 (State.bstepWrite s a1) := by
  intro a1
  unfold State.bstepWrite
  refine keeps_ite (P := fun z => Keeps m s0 z) ?_ ?_
  · extract_lets -merge -underBinder x0
    have hx0 : Keeps m s0 x0 := (State.issueBundle_keeps (State.contWrite_keeps h (covers_trans (by decide) hm) _) (covers_trans (by decide) hm) _)
    try clear_value x0
    refine keeps_ite (P := fun z => Keeps m s0 z) ?_ ?_
    · exact (State.wr_keeps hx0 (covers_trans (by decide) hm) _ _ _ _)
    · exact hx0
  · exact h

theorem State.millDebugWrite_keeps (h : Keeps m s0 s) (hm : covers m [.regs, .mem, .eng, .scn, .chn, .host, .mil, .nbr, .memx, .flt, .out, .free] = true) : ∀ a1 a2, Keeps m s0 (State.millDebugWrite s a1 a2) := by
  intro a1 a2
  unfold State.millDebugWrite
  refine keeps_ite (P := fun z => Keeps m s0 z) ?_ ?_
  · exact h
  · refine keeps_ite (P := fun z => Keeps m s0 z) ?_ ?_
    · refine keeps_ite (P := fun z => Keeps m s0 z) ?_ ?_
      · exact (State.millResume_keeps (State.debugFields_keeps (State.wr_keeps (State.wr_keeps h (covers_trans (by decide) hm) _ _ _ _) (covers_trans (by decide) hm) _ _ _ _) (covers_trans (by decide) hm) _ _) (covers_trans (by decide) hm) _)
      · exact (State.debugRefused_keeps h (covers_trans (by decide) hm) _)
    · extract_lets -merge -underBinder x0 x1 x2
      have hx0 : Keeps m s0 x0 := (State.haltWrite_keeps (State.debugFields_keeps (State.wr_keeps h (covers_trans (by decide) hm) _ _ _ _) (covers_trans (by decide) hm) _ _) (covers_trans (by decide) hm) _ _)
      have hx1 : Keeps m s0 x1 := by
        subst x1
        refine keeps_ite (P := fun z => Keeps m s0 z) ?_ ?_
        · exact (State.stepWrite_keeps hx0 (covers_trans (by decide) hm) _)
        · exact hx0
      try clear_value x1
      try clear_value x0
      refine keeps_ite (P := fun z => Keeps m s0 z) ?_ ?_
      · refine (State.bstepWrite_keeps ?_ (covers_trans (by decide) hm) _)
        dsimp -zeta only [x2]
        refine keeps_ite (P := fun z => Keeps m s0 z) ?_ ?_
        · exact (State.contWrite_keeps hx1 (covers_trans (by decide) hm) _)
        · exact hx1
      · dsimp -zeta only [x2]
        refine keeps_ite (P := fun z => Keeps m s0 z) ?_ ?_
        · exact (State.contWrite_keeps hx1 (covers_trans (by decide) hm) _)
        · exact hx1

theorem execHalt_keeps : ∀ a0 a1 t, execHalt a0 a1 s = .next t →
    Keeps [.regs, .mem, .eng, .scn, .chn, .host, .mil, .nbr, .memx, .flt, .out, .free] s t := by
  intro a0 a1 t e
  have hm : covers [.regs, .mem, .eng, .scn, .chn, .host, .mil, .nbr, .memx, .flt, .out, .free] [.regs, .mem, .eng, .scn, .chn, .host, .mil, .nbr, .memx, .flt, .out, .free] = true := by decide
  have h := Keeps.refl [.regs, .mem, .eng, .scn, .chn, .host, .mil, .nbr, .memx, .flt, .out, .free] s
  unfold execHalt at e
  replace e := Host.Outcome.next.inj e
  subst e
  exact (State.millDebugWrite_keeps h (covers_trans (by decide) hm) _ _)

theorem execMillStep_keeps : ∀ a0 a1 t, execMillStep a0 a1 s = .next t →
    Keeps [.regs, .mem, .eng, .scn, .chn, .host, .mil, .nbr, .memx, .flt, .out, .free] s t := by
  intro a0 a1 t e
  have hm : covers [.regs, .mem, .eng, .scn, .chn, .host, .mil, .nbr, .memx, .flt, .out, .free] [.regs, .mem, .eng, .scn, .chn, .host, .mil, .nbr, .memx, .flt, .out, .free] = true := by decide
  have h := Keeps.refl [.regs, .mem, .eng, .scn, .chn, .host, .mil, .nbr, .memx, .flt, .out, .free] s
  unfold execMillStep at e
  replace e := Host.Outcome.next.inj e
  subst e
  exact (State.millDebugWrite_keeps h (covers_trans (by decide) hm) _ _)

theorem execBpEn_keeps : ∀ a0 a1 t, execBpEn a0 a1 s = .next t →
    Keeps [.regs, .mem, .eng, .scn, .chn, .host, .mil, .nbr, .memx, .flt, .out, .free] s t := by
  intro a0 a1 t e
  have hm : covers [.regs, .mem, .eng, .scn, .chn, .host, .mil, .nbr, .memx, .flt, .out, .free] [.regs, .mem, .eng, .scn, .chn, .host, .mil, .nbr, .memx, .flt, .out, .free] = true := by decide
  have h := Keeps.refl [.regs, .mem, .eng, .scn, .chn, .host, .mil, .nbr, .memx, .flt, .out, .free] s
  unfold execBpEn at e
  replace e := Host.Outcome.next.inj e
  subst e
  exact (State.millDebugWrite_keeps h (covers_trans (by decide) hm) _ _)

theorem execCont_keeps : ∀ a0 a1 t, execCont a0 a1 s = .next t →
    Keeps [.regs, .mem, .eng, .scn, .chn, .host, .mil, .nbr, .memx, .flt, .out, .free] s t := by
  intro a0 a1 t e
  have hm : covers [.regs, .mem, .eng, .scn, .chn, .host, .mil, .nbr, .memx, .flt, .out, .free] [.regs, .mem, .eng, .scn, .chn, .host, .mil, .nbr, .memx, .flt, .out, .free] = true := by decide
  have h := Keeps.refl [.regs, .mem, .eng, .scn, .chn, .host, .mil, .nbr, .memx, .flt, .out, .free] s
  unfold execCont at e
  replace e := Host.Outcome.next.inj e
  subst e
  exact (State.millDebugWrite_keeps h (covers_trans (by decide) hm) _ _)

theorem execBstep_keeps : ∀ a0 a1 t, execBstep a0 a1 s = .next t →
    Keeps [.regs, .mem, .eng, .scn, .chn, .host, .mil, .nbr, .memx, .flt, .out, .free] s t := by
  intro a0 a1 t e
  have hm : covers [.regs, .mem, .eng, .scn, .chn, .host, .mil, .nbr, .memx, .flt, .out, .free] [.regs, .mem, .eng, .scn, .chn, .host, .mil, .nbr, .memx, .flt, .out, .free] = true := by decide
  have h := Keeps.refl [.regs, .mem, .eng, .scn, .chn, .host, .mil, .nbr, .memx, .flt, .out, .free] s
  unfold execBstep at e
  replace e := Host.Outcome.next.inj e
  subst e
  exact (State.millDebugWrite_keeps h (covers_trans (by decide) hm) _ _)

theorem execBreakpointFreeze_keeps : ∀ a0 t, execBreakpointFreeze a0 s = .next t →
    Keeps [.regs, .host, .mil, .out] s t := by
  intro a0 t e
  have hm : covers [.regs, .host, .mil, .out] [.regs, .host, .mil, .out] = true := by decide
  have h := Keeps.refl [.regs, .host, .mil, .out] s
  unfold execBreakpointFreeze at e
  extract_lets -merge -underBinder x0 at e
  replace e := Host.Outcome.next.inj e
  subst e
  refine keeps_ite (P := fun z => Keeps [.regs, .host, .mil, .out] s z) ?_ ?_
  · exact (State.raise_keeps (State.wr_keeps (State.setMill_keeps h (covers_trans (by decide) hm) _ _) (covers_trans (by decide) hm) _ _ _ _) (covers_trans (by decide) hm) _ _)
  · exact h

theorem State.debugEnds_keeps (h : Keeps m s0 s) (hm : covers m [.regs, .mil] = true) : Keeps m s0 (State.debugEnds s) := by
  unfold State.debugEnds
  refine keeps_foldl (P := fun z => Keeps m s0 z) ?_ fun _ _ h0 => ?_
  · exact h
  · extract_lets -merge -underBinder x1 x2 x3 x4
    have hx1 : Keeps m s0 x1 := (State.wr_keeps (State.wr_keeps h0 (covers_trans (by decide) hm) _ _ _ _) (covers_trans (by decide) hm) _ _ _ _)
    have hx3 : Keeps m s0 x3 := (State.setMill_keeps hx1 (covers_trans (by decide) hm) _ _)
    have hx4 : Keeps m s0 x4 := by
      subst x4
      refine keeps_ite (P := fun z => Keeps m s0 z) ?_ ?_
      · exact (State.wr_keeps hx3 (covers_trans (by decide) hm) _ _ _ _)
      · exact (State.contWrite_keeps hx3 (covers_trans (by decide) hm) _)
    try clear_value x4
    try clear_value x3
    try clear_value x1
    exact (State.millResume_keeps hx4 (covers_trans (by decide) hm) _)

end Sys2Proof.Machine
end

