-- ==== Sys2Proof/Laws/KeepsApply.lean ====
section
/-! SUPPORT. What each function of Machine/Apply.lean keeps: the parts of the state it can change, the canonical form of the stores,
the order of free values and outputs. One lemma per function, assembled from those of the functions it calls. -/
namespace Sys2Proof.Machine

variable {m : List Part} {s0 s : State}

theorem State.endPend_keeps (h : Keeps m s0 s) (hm : covers m [.regs, .pend] = true) : ∀ a1 a2, Keeps m s0 (State.endPend s a1 a2) := by
  intro a1 a2
  unfold State.endPend
  exact (State.wr_keeps (State.wr_keeps (keeps_pend h (covers_trans (by decide) hm)) (covers_trans (by decide) hm) _ _ _ _) (covers_trans (by decide) hm) _ _ _ _)

theorem State.putInForce_keeps (h : Keeps m s0 s) (hm : covers m [.live] = true) : ∀ a1 a2, Keeps m s0 (State.putInForce s a1 a2) := by
  intro a1 a2
  unfold State.putInForce
  refine keeps_foldl (P := fun z => Keeps m s0 z) ?_ fun _ _ h0 => ?_
  · exact h
  · exact (State.setLive_keeps h0 (covers_trans (by decide) hm) _ _)

theorem State.enforce_keeps (h : Keeps m s0 s) (hm : covers m [.regs, .live, .pend, .host, .out] = true) : ∀ a1, Keeps m s0 (State.enforce s a1) := by
  intro a1
  unfold State.enforce
  extract_lets -merge -underBinder x0
  have hx0 : Keeps m s0 x0 := (State.endPend_keeps (State.putInForce_keeps h (covers_trans (by decide) hm) _ _) (covers_trans (by decide) hm) _ _)
  try clear_value x0
  refine keeps_ite (P := fun z => Keeps m s0 z) ?_ ?_
  · exact (State.markLate_keeps hx0 (covers_trans (by decide) hm))
  · exact hx0

theorem State.unstage_keeps (h : Keeps m s0 s) (hm : covers m [.regs] = true) : ∀ a1, Keeps m s0 (State.unstage s a1) := by
  intro a1
  unfold State.unstage
  refine keeps_foldl (P := fun z => Keeps m s0 z) ?_ fun _ _ h0 => ?_
  · exact h
  · refine keeps_ite (P := fun z => Keeps m s0 z) ?_ ?_
    · exact h0
    · refine keeps_foldl (P := fun z => Keeps m s0 z) ?_ fun _ _ h1 => ?_
      · exact h0
      · extract_lets -merge -underBinder x2
        exact (State.setReg_keeps h1 (covers_trans (by decide) hm) _ _)

end Sys2Proof.Machine
end

