-- ==== Sys2Proof/Laws/KeepsPorts.lean ====
section
/-! SUPPORT. What each function of Machine/Ports.lean keeps: the parts of the state it can change, the canonical form of the stores,
the order of free values and outputs. One lemma per function, assembled from those of the functions it calls. -/
namespace Sys2Proof.Machine

variable {m : List Part} {s0 s : State}

theorem State.raisePort_keeps (h : Keeps m s0 s) (hm : covers m [.regs, .host, .out] = true) : ∀ a1 a2, Keeps m s0 (State.raisePort s a1 a2) := by
  intro a1 a2
  unfold State.raisePort
  exact (State.raise_keeps h (covers_trans (by decide) hm) _ _)

theorem State.setPort_keeps (h : Keeps m s0 s) (hm : covers m [.ports] = true) : ∀ a1 a2, Keeps m s0 (State.setPort s a1 a2) := by
  intro a1 a2
  unfold State.setPort
  exact (keeps_ports h (covers_trans (by decide) hm))

theorem State.showPort_keeps (h : Keeps m s0 s) (hm : covers m [.regs] = true) : ∀ a1, Keeps m s0 (State.showPort s a1) := by
  intro a1
  unfold State.showPort
  extract_lets -merge -underBinder x0 x1 x2 x3
  have hx2 : Keeps m s0 x2 := (State.wr_keeps (State.wr_keeps h (covers_trans (by decide) hm) _ _ _ _) (covers_trans (by decide) hm) _ _ _ _)
  have hx3 : Keeps m s0 x3 := (State.wr_keeps (State.wr_keeps hx2 (covers_trans (by decide) hm) _ _ _ _) (covers_trans (by decide) hm) _ _ _ _)
  try clear_value x3
  try clear_value x2
  refine keeps_ite (P := fun z => Keeps m s0 z) ?_ ?_
  · exact (State.wr_keeps hx3 (covers_trans (by decide) hm) _ _ _ _)
  · exact hx3

theorem State.showLatency_keeps (h : Keeps m s0 s) (hm : covers m [.regs] = true) : ∀ a1, Keeps m s0 (State.showLatency s a1) := by
  intro a1
  unfold State.showLatency
  extract_lets -merge -underBinder x0 x1 x2
  exact (State.wr_keeps (State.wr_keeps h (covers_trans (by decide) hm) _ _ _ _) (covers_trans (by decide) hm) _ _ _ _)

theorem State.showAsrc_keeps (h : Keeps m s0 s) (hm : covers m [.regs] = true) : Keeps m s0 (State.showAsrc s) := by
  unfold State.showAsrc
  extract_lets -merge -underBinder x0 x1 x2 x3 x4
  have hx3 : Keeps m s0 x3 := (State.wr_keeps h (covers_trans (by decide) hm) _ _ _ _)
  have hx4 : Keeps m s0 x4 := by
    subst x4
    try clear_value x2
    split
    · extract_lets -merge -underBinder x5
      exact (State.wr_keeps (State.wr_keeps (State.wr_keeps hx3 (covers_trans (by decide) hm) _ _ _ _) (covers_trans (by decide) hm) _ _ _ _) (covers_trans (by decide) hm) _ _ _ _)
    · exact (State.wr_keeps (State.wr_keeps (State.wr_keeps hx3 (covers_trans (by decide) hm) _ _ _ _) (covers_trans (by decide) hm) _ _ _ _) (covers_trans (by decide) hm) _ _ _ _)
  try clear_value x4
  try clear_value x3
  split
  · exact (State.wr_keeps (State.wr_keeps (State.wr_keeps hx4 (covers_trans (by decide) hm) _ _ _ _) (covers_trans (by decide) hm) _ _ _ _) (covers_trans (by decide) hm) _ _ _ _)
  · exact (State.wr_keeps hx4 (covers_trans (by decide) hm) _ _ _ _)

theorem State.inSlip_keeps (h : Keeps m s0 s) (hm : covers m [.regs, .host, .ports, .out] = true) : ∀ a1, Keeps m s0 (State.inSlip s a1) := by
  intro a1
  unfold State.inSlip
  extract_lets -merge -underBinder x0
  exact (State.raisePort_keeps (State.bump_keeps (State.setPort_keeps h (covers_trans (by decide) hm) _ _) (covers_trans (by decide) hm) _ _ _ _) (covers_trans (by decide) hm) _ _)

theorem State.outSlips_keeps (h : Keeps m s0 s) (hm : covers m [.regs, .host, .ports, .out] = true) : ∀ a1, Keeps m s0 (State.outSlips s a1) := by
  intro a1
  unfold State.outSlips
  extract_lets -merge -underBinder x0
  exact (State.raisePort_keeps (State.bump_keeps (State.setPort_keeps h (covers_trans (by decide) hm) _ _) (covers_trans (by decide) hm) _ _ _ _) (covers_trans (by decide) hm) _ _)

theorem State.recentre_keeps (h : Keeps m s0 s) (hm : covers m [.ports] = true) : ∀ a1 a2, Keeps m s0 (State.recentre s a1 a2) := by
  intro a1 a2
  unfold State.recentre
  extract_lets -merge -underBinder x0 x1 x2 x3 x4 x5
  exact (State.setPort_keeps h (covers_trans (by decide) hm) _ _)

theorem State.steerLost_keeps (h : Keeps m s0 s) (hm : covers m [.stp] = true) : ∀ a1, Keeps m s0 (State.steerLost s a1) := by
  intro a1
  unfold State.steerLost
  refine keeps_ite (P := fun z => Keeps m s0 z) ?_ ?_
  · split
    · exact (keeps_stp h (covers_trans (by decide) hm))
    · exact h
  · exact h

theorem State.asrcUnlock_keeps (h : Keeps m s0 s) (hm : covers m [.regs, .host, .ports, .out] = true) : ∀ a1, Keeps m s0 (State.asrcUnlock s a1) := by
  intro a1
  unfold State.asrcUnlock
  refine keeps_ite (P := fun z => Keeps m s0 z) ?_ ?_
  · exact (State.raise_keeps (State.bump_keeps (State.setPort_keeps h (covers_trans (by decide) hm) _ _) (covers_trans (by decide) hm) _ _ _ _) (covers_trans (by decide) hm) _ _)
  · exact h

theorem State.losePort_keeps (h : Keeps m s0 s) (hm : covers m [.regs, .host, .ports, .stp, .out] = true) : ∀ a1, Keeps m s0 (State.losePort s a1) := by
  intro a1
  unfold State.losePort
  refine keeps_ite (P := fun z => Keeps m s0 z) ?_ ?_
  · extract_lets -merge -underBinder x0 x1 x2 x3
    have hx0 : Keeps m s0 x0 := (State.asrcUnlock_keeps h (covers_trans (by decide) hm) _)
    have hx2 : Keeps m s0 x2 := (State.setPort_keeps hx0 (covers_trans (by decide) hm) _ _)
    have hx3 : Keeps m s0 x3 := (State.raisePort_keeps (State.bump_keeps (State.wr_keeps (State.wr_keeps hx2 (covers_trans (by decide) hm) _ _ _ _) (covers_trans (by decide) hm) _ _ _ _) (covers_trans (by decide) hm) _ _ _ _) (covers_trans (by decide) hm) _ _)
    try clear_value x3
    try clear_value x2
    try clear_value x0
    exact (State.showAsrc_keeps (State.showPort_keeps (State.steerLost_keeps hx3 (covers_trans (by decide) hm) _) (covers_trans (by decide) hm) _) (covers_trans (by decide) hm))
  · exact h

theorem State.startPort_keeps (h : Keeps m s0 s) (hm : covers m [.regs, .host, .mil, .ports, .stp, .out] = true) : ∀ a1, Keeps m s0 (State.startPort s a1) := by
  intro a1
  unfold State.startPort
  extract_lets -merge -underBinder x0 x1 x2 x3 x4 x5 x6
  have hx1 : Keeps m s0 x1 := (State.asrcUnlock_keeps h (covers_trans (by decide) hm) _)
  have hx3 : Keeps m s0 x3 := by
    subst x3
    refine State.when_keeps (State.setPort_keeps hx1 (covers_trans (by decide) hm) _ _) _ _ fun _ h7 => ?_
    exact (State.steerLost_keeps h7 (covers_trans (by decide) hm) _)
  have hx4 : Keeps m s0 x4 := (State.wr_keeps (State.wr_keeps hx3 (covers_trans (by decide) hm) _ _ _ _) (covers_trans (by decide) hm) _ _ _ _)
  try clear_value x4
  try clear_value x3
  try clear_value x1
  refine (State.showLatency_keeps ?_ (covers_trans (by decide) hm) _)
  refine (State.showPort_keeps ?_ (covers_trans (by decide) hm) _)
  dsimp -zeta only [x6]
  refine keeps_foldl (P := fun z => Keeps m s0 z) ?_ fun _ _ h8 => ?_
  · exact hx4
  · exact (State.setSubst_keeps h8 (covers_trans (by decide) hm) _ _)

theorem State.startTxStatus_keeps (h : Keeps m s0 s) (hm : covers m [.regs, .live] = true) : ∀ a1, Keeps m s0 (State.startTxStatus s a1) := by
  intro a1
  unfold State.startTxStatus
  extract_lets -merge -underBinder x0
  refine keeps_foldl (P := fun z => Keeps m s0 z) ?_ fun _ _ h1 => ?_
  · exact h
  · extract_lets -merge -underBinder x2
    exact (State.setLive_keeps (State.setReg_keeps h1 (covers_trans (by decide) hm) _ _) (covers_trans (by decide) hm) _ _)

theorem State.startPorts_keeps (h : Keeps m s0 s) (hm : covers m [.regs, .live, .host, .mil, .ports, .stp, .out] = true) : ∀ a1, Keeps m s0 (State.startPorts s a1) := by
  intro a1
  unfold State.startPorts
  refine (State.showAsrc_keeps ?_ (covers_trans (by decide) hm))
  refine keeps_foldl (P := fun z => Keeps m s0 z) ?_ fun _ _ h0 => ?_
  · exact State.when_keeps h _ _ fun _ h0 =>
      State.startTxStatus_keeps (State.startTxStatus_keeps h0 (covers_trans (by decide) hm) _) (covers_trans (by decide) hm) _
  · exact (State.startPort_keeps h0 (covers_trans (by decide) hm) _)

theorem State.convert_keeps (h : Keeps m s0 s) (hm : covers m [.nbr, .out, .free] = true) : ∀ a1 a2 a3, Keeps m s0 (State.convert s a1 a2 a3) := by
  intro a1 a2 a3
  unfold State.convert
  refine keeps_ite (P := fun z => Keeps m s0 z) ?_ ?_
  · exact h
  · refine keeps_foldl (P := fun z => Keeps m s0 z) ?_ fun _ _ h0 => ?_
    · exact h
    · extract_lets -merge -underBinder x1 x2 x3
      have hx2 : Keeps m s0 x2 := (State.useFree_keeps h0 (covers_trans (by decide) hm) _)
      try clear_value x2
      refine State.when_keeps (keeps_nbr hx2 (covers_trans (by decide) hm)) _ _ fun _ h4 => ?_
      exact (State.nbrSend_keeps h4 (covers_trans (by decide) hm) _ _)

theorem State.measureRatio_keeps (h : Keeps m s0 s) (hm : covers m [.regs, .ports, .free] = true) : ∀ a1 a2, Keeps m s0 (State.measureRatio s a1 a2) := by
  intro a1 a2
  unfold State.measureRatio
  refine keeps_ite (P := fun z => Keeps m s0 z) ?_ ?_
  · exact (State.showLatency_keeps (State.useFree_keeps (State.setPort_keeps h (covers_trans (by decide) hm) _ _) (covers_trans (by decide) hm) _) (covers_trans (by decide) hm) _)
  · exact h

theorem State.gatherPosition_keeps (h : Keeps m s0 s) (hm : covers m [.mem, .eng, .mil, .nbr, .out] = true) : ∀ a1 a2 a3 a4 a5, Keeps m s0 (State.gatherPosition s a1 a2 a3 a4 a5) := by
  intro a1 a2 a3 a4 a5
  unfold State.gatherPosition
  extract_lets -merge -underBinder x0 x1
  split
  · exact (State.putIngress_keeps (State.setSubst_keeps h (covers_trans (by decide) hm) _ _) (covers_trans (by decide) hm) _ _ _ _)
  · extract_lets -merge -underBinder x2 x3 x4 x5 x6 x7 x8
    have hx3 : Keeps m s0 x3.2 := (State.goodBlock_keeps h (covers_trans (by decide) hm) _ _)
    have hx4 : Keeps m s0 x4.2 := (State.substitute_keeps h (covers_trans (by decide) hm) _ _)
    have hx5 : Keeps m s0 x5.2 := by
      subst x5
      refine keeps_ite (P := fun (z : (List Word × Nat) × State) => Keeps m s0 z.2) ?_ ?_
      · refine keeps_snd (P := fun z => Keeps m s0 z) ?_
        exact hx3
      · refine keeps_snd (P := fun z => Keeps m s0 z) ?_
        exact hx4
    try clear_value x5
    try clear_value x4
    try clear_value x3
    exact (State.putIngress_keeps hx5 (covers_trans (by decide) hm) _ _ _ _)

theorem State.gatherPort_keeps (h : Keeps m s0 s) (hm : covers m [.regs, .mem, .eng, .mil, .ports, .nbr, .out, .free] = true) : ∀ a1 a2, Keeps m s0 (State.gatherPort s a1 a2) := by
  intro a1 a2
  unfold State.gatherPort
  extract_lets -merge -underBinder x0 x1 x2 x3 x4 x5 x6 x7 x8 x9 x10
  have hx3 : Keeps m s0 x3 := by
    subst x3
    refine keeps_foldl (P := fun z => Keeps m s0 z) ?_ fun _ _ h11 => ?_
    · exact h
    · exact (State.gatherPosition_keeps h11 (covers_trans (by decide) hm) _ _ _ _ _)
  try clear_value x3
  refine keeps_ite (P := fun z => Keeps m s0 z) ?_ ?_
  · exact hx3
  · refine (State.showPort_keeps ?_ (covers_trans (by decide) hm) _)
    dsimp -zeta only [x10]
    split
    · refine keeps_ite (P := fun z => Keeps m s0 z) ?_ ?_
      · refine (State.setPort_keeps ?_ (covers_trans (by decide) hm) _ _)
        dsimp -zeta only [x9]
        refine (State.convert_keeps ?_ (covers_trans (by decide) hm) _ _ _)
        refine (State.measureRatio_keeps ?_ (covers_trans (by decide) hm) _ _)
        dsimp -zeta only [x8]
        refine (State.setPort_keeps ?_ (covers_trans (by decide) hm) _ _)
        dsimp -zeta only [x6]
        refine (State.recentre_keeps ?_ (covers_trans (by decide) hm) _ _)
        dsimp -zeta only [x5]
        refine keeps_ite (P := fun z => Keeps m s0 z) ?_ ?_
        · exact hx3
        · refine State.when_keeps hx3 _ _ fun _ h12 => ?_
          exact (State.bump_keeps h12 (covers_trans (by decide) hm) _ _ _ _)
      · dsimp -zeta only [x9]
        refine (State.convert_keeps ?_ (covers_trans (by decide) hm) _ _ _)
        refine (State.measureRatio_keeps ?_ (covers_trans (by decide) hm) _ _)
        dsimp -zeta only [x8]
        refine (State.setPort_keeps ?_ (covers_trans (by decide) hm) _ _)
        dsimp -zeta only [x6]
        refine (State.recentre_keeps ?_ (covers_trans (by decide) hm) _ _)
        dsimp -zeta only [x5]
        refine keeps_ite (P := fun z => Keeps m s0 z) ?_ ?_
        · exact hx3
        · refine State.when_keeps hx3 _ _ fun _ h13 => ?_
          exact (State.bump_keeps h13 (covers_trans (by decide) hm) _ _ _ _)
    · dsimp -zeta only [x9]
      refine (State.convert_keeps ?_ (covers_trans (by decide) hm) _ _ _)
      refine (State.measureRatio_keeps ?_ (covers_trans (by decide) hm) _ _)
      dsimp -zeta only [x8]
      refine (State.setPort_keeps ?_ (covers_trans (by decide) hm) _ _)
      dsimp -zeta only [x6]
      refine (State.recentre_keeps ?_ (covers_trans (by decide) hm) _ _)
      dsimp -zeta only [x5]
      refine keeps_ite (P := fun z => Keeps m s0 z) ?_ ?_
      · exact hx3
      · refine State.when_keeps hx3 _ _ fun _ h14 => ?_
        exact (State.bump_keeps h14 (covers_trans (by decide) hm) _ _ _ _)

theorem State.gatherPorts_keeps (h : Keeps m s0 s) (hm : covers m [.regs, .mem, .eng, .mil, .ports, .nbr, .out, .free] = true) : ∀ a1, Keeps m s0 (State.gatherPorts s a1) := by
  intro a1
  unfold State.gatherPorts
  extract_lets -merge -underBinder x0 x1
  have hx0 : Keeps m s0 x0 := by
    subst x0
    refine (State.showAsrc_keeps ?_ (covers_trans (by decide) hm))
    refine keeps_foldl (P := fun z => Keeps m s0 z) ?_ fun _ _ h2 => ?_
    · exact h
    · exact (State.gatherPort_keeps h2 (covers_trans (by decide) hm) _ _)
  try clear_value x0
  exact (keeps_nbr hx0 (covers_trans (by decide) hm))

theorem State.pushHist_keeps (h : Keeps m s0 s) (hm : covers m [.ports] = true) : ∀ a1 a2 a3, Keeps m s0 (State.pushHist s a1 a2 a3) := by
  intro a1 a2 a3
  unfold State.pushHist
  extract_lets -merge -underBinder x0 x1
  exact (State.setPort_keeps h (covers_trans (by decide) hm) _ _)

theorem State.outFrame_keeps (h : Keeps m s0 s) (hm : covers m [.free] = true) : ∀ a1 a2 a3, Keeps m s0 (State.outFrame s a1 a2 a3).2 := by
  intro a1 a2 a3
  unfold State.outFrame
  extract_lets -merge -underBinder x0
  refine keeps_snd (P := fun z => Keeps m s0 z) ?_
  exact (State.useFree_keeps h (covers_trans (by decide) hm) _)

theorem State.frameWords_keeps (h : Keeps m s0 s) (hm : covers m [.regs, .ports] = true) : ∀ a1 a2 a3, Keeps m s0 (State.frameWords s a1 a2 a3).2 := by
  intro a1 a2 a3
  unfold State.frameWords
  extract_lets -merge -underBinder x0 x1 x2 x3 x4 x5
  refine keeps_snd (P := fun z => Keeps m s0 z) ?_
  exact (State.bump_keeps (State.setPort_keeps h (covers_trans (by decide) hm) _ _) (covers_trans (by decide) hm) _ _ _ _)

theorem State.outWords_keeps (h : Keeps m s0 s) (hm : covers m [.regs, .ports, .free] = true) : ∀ a1 a2 a3, Keeps m s0 (State.outWords s a1 a2 a3).2 := by
  intro a1 a2 a3
  unfold State.outWords
  extract_lets -merge -underBinder x0
  have hx0 : Keeps m s0 x0.2 := (State.outFrame_keeps h (covers_trans (by decide) hm) _ _ _)
  try clear_value x0
  exact (State.frameWords_keeps hx0 (covers_trans (by decide) hm) _ _ _)

theorem State.sendFrame_keeps (h : Keeps m s0 s) (hm : covers m [.ports, .out] = true) : ∀ a1 a2 a3, Keeps m s0 (State.sendFrame s a1 a2 a3) := by
  intro a1 a2 a3
  unfold State.sendFrame
  extract_lets -merge -underBinder x0 x1 x2 x3
  refine keeps_ite (P := fun z => Keeps m s0 z) ?_ ?_
  · refine State.when_keeps (State.setPort_keeps h (covers_trans (by decide) hm) _ _) _ _ fun _ h4 => ?_
    exact (State.emit_keeps h4 (covers_trans (by decide) hm) _)
  · refine keeps_ite (P := fun z => Keeps m s0 z) ?_ ?_
    · refine State.when_keeps (State.setPort_keeps h (covers_trans (by decide) hm) _ _) _ _ fun _ h5 => ?_
      exact (State.emit_keeps h5 (covers_trans (by decide) hm) _)
    · refine State.when_keeps (State.setPort_keeps h (covers_trans (by decide) hm) _ _) _ _ fun _ h6 => ?_
      exact (State.emit_keeps h6 (covers_trans (by decide) hm) _)

theorem State.gapFrame_keeps (h : Keeps m s0 s) (hm : covers m [.ports, .out] = true) : ∀ a1, Keeps m s0 (State.gapFrame s a1) := by
  intro a1
  unfold State.gapFrame
  extract_lets -merge -underBinder x0 x1 x2
  refine keeps_ite (P := fun z => Keeps m s0 z) ?_ ?_
  · exact h
  · exact (State.sendFrame_keeps h (covers_trans (by decide) hm) _ _ _)

theorem State.gapPorts_keeps (h : Keeps m s0 s) (hm : covers m [.eng, .ports, .out] = true) : Keeps m s0 (State.gapPorts s) := by
  unfold State.gapPorts
  extract_lets -merge -underBinder x0
  have hx0 : Keeps m s0 x0 := (State.modEng_keeps h (covers_trans (by decide) hm) _)
  try clear_value x0
  refine keeps_foldl (P := fun z => Keeps m s0 z) ?_ fun _ _ h1 => ?_
  · exact hx0
  · exact (State.gapFrame_keeps h1 (covers_trans (by decide) hm) _)

theorem State.strobeIn_keeps (h : Keeps m s0 s) (hm : covers m [.regs, .host, .ports, .out] = true) : ∀ a1 a2 a3, Keeps m s0 (State.strobeIn s a1 a2 a3) := by
  intro a1 a2 a3
  unfold State.strobeIn
  extract_lets -merge -underBinder x0 x1
  have hx1 : Keeps m s0 x1 := by
    subst x1
    refine keeps_ite (P := fun z => Keeps m s0 z) ?_ ?_
    · exact (State.wr_keeps h (covers_trans (by decide) hm) _ _ _ _)
    · exact h
  try clear_value x1
  refine keeps_ite (P := fun z => Keeps m s0 z) ?_ ?_
  · exact h
  · split
    · exact (State.setPort_keeps hx1 (covers_trans (by decide) hm) _ _)
    · refine keeps_ite (P := fun z => Keeps m s0 z) ?_ ?_
      · exact hx1
      · exact (State.inSlip_keeps hx1 (covers_trans (by decide) hm) _)

theorem State.multiWords_keeps (h : Keeps m s0 s) (hm : covers m [.regs, .ports, .free] = true) : ∀ a1 a2 a3, Keeps m s0 (State.multiWords s a1 a2 a3).2 := by
  intro a1 a2 a3
  unfold State.multiWords
  extract_lets -merge -underBinder x0 x1
  have hx1 : Keeps m s0 x1.2 := by
    subst x1
    refine keeps_foldl (P := fun (z : List (List (Option Nat)) × State) => Keeps m s0 z.2) ?_ fun _ _ h2 => ?_
    · refine keeps_snd (P := fun z => Keeps m s0 z) ?_
      exact h
    · extract_lets -merge -underBinder x3
      have hx3 : Keeps m s0 x3.2 := (State.outWords_keeps h2 (covers_trans (by decide) hm) _ _ _)
      try clear_value x3
      refine keeps_snd (P := fun z => Keeps m s0 z) ?_
      exact hx3
  try clear_value x1
  refine keeps_snd (P := fun z => Keeps m s0 z) ?_
  exact hx1

theorem State.strobeOut_keeps (h : Keeps m s0 s) (hm : covers m [.regs, .host, .ports, .out, .free] = true) : ∀ a1 a2 a3, Keeps m s0 (State.strobeOut s a1 a2 a3) := by
  intro a1 a2 a3
  unfold State.strobeOut
  refine keeps_ite (P := fun z => Keeps m s0 z) ?_ ?_
  · exact h
  · refine keeps_ite (P := fun z => Keeps m s0 z) ?_ ?_
    · refine keeps_ite (P := fun z => Keeps m s0 z) ?_ ?_
      · exact h
      · extract_lets -merge -underBinder x0 x1
        have hx0 : Keeps m s0 x0.2 := (State.outFrame_keeps h (covers_trans (by decide) hm) _ _ _)
        try clear_value x0
        refine keeps_ite (P := fun z => Keeps m s0 z) ?_ ?_
        · exact (State.outSlips_keeps hx0 (covers_trans (by decide) hm) _)
        · exact (State.setPort_keeps hx0 (covers_trans (by decide) hm) _ _)
    · refine keeps_ite (P := fun z => Keeps m s0 z) ?_ ?_
      · exact h
      · refine keeps_ite (P := fun z => Keeps m s0 z) ?_ ?_
        · extract_lets -merge -underBinder x2
          have hx2 : Keeps m s0 x2.2 := (State.outWords_keeps h (covers_trans (by decide) hm) _ _ _)
          try clear_value x2
          exact (State.sendFrame_keeps hx2 (covers_trans (by decide) hm) _ _ _)
        · refine keeps_ite (P := fun z => Keeps m s0 z) ?_ ?_
          · extract_lets -merge -underBinder x3
            have hx3 : Keeps m s0 x3.2 := (State.multiWords_keeps h (covers_trans (by decide) hm) _ _ _)
            try clear_value x3
            exact (State.sendFrame_keeps hx3 (covers_trans (by decide) hm) _ _ _)
          · exact h

theorem State.strobePort_keeps (h : Keeps m s0 s) (hm : covers m [.regs, .host, .ports, .out, .free] = true) : ∀ a1 a2, Keeps m s0 (State.strobePort s a1 a2) := by
  intro a1 a2
  unfold State.strobePort
  extract_lets -merge -underBinder x0 x1
  have hx1 : Keeps m s0 x1 := by
    subst x1
    refine keeps_ite (P := fun z => Keeps m s0 z) ?_ ?_
    · exact (State.pushHist_keeps h (covers_trans (by decide) hm) _ _ _)
    · exact h
  try clear_value x1
  refine keeps_ite (P := fun z => Keeps m s0 z) ?_ ?_
  · exact h
  · refine (State.showPort_keeps ?_ (covers_trans (by decide) hm) _)
    refine keeps_ite (P := fun z => Keeps m s0 z) ?_ ?_
    · exact hx1
    · exact (State.strobeOut_keeps (State.strobeIn_keeps hx1 (covers_trans (by decide) hm) _ _ _) (covers_trans (by decide) hm) _ _ _)

theorem State.strobePorts_keeps (h : Keeps m s0 s) (hm : covers m [.regs, .host, .ports, .out, .free] = true) : ∀ a1, Keeps m s0 (State.strobePorts s a1) := by
  intro a1
  unfold State.strobePorts
  refine keeps_foldl (P := fun z => Keeps m s0 z) ?_ fun _ _ h0 => ?_
  · exact h
  · exact (State.strobePort_keeps h0 (covers_trans (by decide) hm) _ _)

theorem State.countErrors_keeps (h : Keeps m s0 s) (hm : covers m [.regs, .host, .out] = true) : ∀ a1 a2, Keeps m s0 (State.countErrors s a1 a2) := by
  intro a1 a2
  unfold State.countErrors
  refine keeps_ite (P := fun z => Keeps m s0 z) ?_ ?_
  · exact h
  · extract_lets -merge -underBinder x0 x1
    have hx1 : Keeps m s0 x1 := by
      subst x1
      refine keeps_ite (P := fun z => Keeps m s0 z) ?_ ?_
      · exact (State.bump_keeps (State.bump_keeps h (covers_trans (by decide) hm) _ _ _ _) (covers_trans (by decide) hm) _ _ _ _)
      · exact (State.bump_keeps h (covers_trans (by decide) hm) _ _ _ _)
    try clear_value x1
    exact (State.raisePort_keeps hx1 (covers_trans (by decide) hm) _ _)

theorem State.csBlock_keeps (h : Keeps m s0 s) (hm : covers m [.regs, .host, .ports, .out] = true) : ∀ a1 a2, Keeps m s0 (State.csBlock s a1 a2) := by
  intro a1 a2
  unfold State.csBlock
  extract_lets -merge -underBinder x0 x1 x2 x3 x4
  have hx2 : Keeps m s0 x2 := by
    subst x2
    refine keeps_foldl (P := fun z => Keeps m s0 z) ?_ fun _ _ h5 => ?_
    · exact h
    · exact (State.setReg_keeps h5 (covers_trans (by decide) hm) _ _)
  have hx4 : Keeps m s0 x4 := (State.setPort_keeps (State.wr_keeps hx2 (covers_trans (by decide) hm) _ _ _ _) (covers_trans (by decide) hm) _ _)
  try clear_value x4
  try clear_value x2
  refine keeps_ite (P := fun z => Keeps m s0 z) ?_ ?_
  · exact (State.bump_keeps h (covers_trans (by decide) hm) _ _ _ _)
  · refine keeps_ite (P := fun z => Keeps m s0 z) ?_ ?_
    · exact hx4
    · exact (State.raisePort_keeps hx4 (covers_trans (by decide) hm) _ _)

theorem State.csBit_keeps (h : Keeps m s0 s) (hm : covers m [.regs, .host, .ports, .out] = true) : ∀ a1 a2 a3, Keeps m s0 (State.csBit s a1 a2 a3) := by
  intro a1 a2 a3
  unfold State.csBit
  extract_lets -merge -underBinder x0 x1
  try clear_value x1
  split
  · exact h
  · extract_lets -merge -underBinder x2
    refine keeps_ite (P := fun z => Keeps m s0 z) ?_ ?_
    · exact (State.csBlock_keeps (State.setPort_keeps h (covers_trans (by decide) hm) _ _) (covers_trans (by decide) hm) _ _)
    · exact (State.setPort_keeps h (covers_trans (by decide) hm) _ _)

theorem State.frameGood_keeps (h : Keeps m s0 s) (hm : covers m [.ports] = true) : ∀ a1 a2 a3 a4, Keeps m s0 (State.frameGood s a1 a2 a3 a4) := by
  intro a1 a2 a3 a4
  unfold State.frameGood
  extract_lets -merge -underBinder x0
  refine keeps_ite (P := fun z => Keeps m s0 z) ?_ ?_
  · exact (State.setPort_keeps h (covers_trans (by decide) hm) _ _)
  · refine keeps_ite (P := fun z => Keeps m s0 z) ?_ ?_
    · exact (State.setPort_keeps h (covers_trans (by decide) hm) _ _)
    · refine keeps_ite (P := fun z => Keeps m s0 z) ?_ ?_
      · exact (State.setPort_keeps h (covers_trans (by decide) hm) _ _)
      · exact (State.setPort_keeps h (covers_trans (by decide) hm) _ _)

theorem State.followOut_keeps (h : Keeps m s0 s) (hm : covers m [.regs, .host, .ports, .out, .free] = true) : ∀ a1 a2, Keeps m s0 (State.followOut s a1 a2) := by
  intro a1 a2
  unfold State.followOut
  refine keeps_ite (P := fun z => Keeps m s0 z) ?_ ?_
  · exact h
  · refine keeps_ite (P := fun z => Keeps m s0 z) ?_ ?_
    · extract_lets -merge -underBinder x0
      have hx0 : Keeps m s0 x0.2 := (State.outWords_keeps h (covers_trans (by decide) hm) _ _ _)
      try clear_value x0
      exact (State.sendFrame_keeps hx0 (covers_trans (by decide) hm) _ _ _)
    · extract_lets -merge -underBinder x1
      split
      · extract_lets -merge -underBinder x2
        have hx2 : Keeps m s0 x2.2 := (State.frameWords_keeps (State.setPort_keeps h (covers_trans (by decide) hm) _ _) (covers_trans (by decide) hm) _ _ _)
        try clear_value x2
        exact (State.sendFrame_keeps hx2 (covers_trans (by decide) hm) _ _ _)
      · extract_lets -merge -underBinder x3
        have hx3 : Keeps m s0 x3.2 := (State.frameWords_keeps (State.outSlips_keeps h (covers_trans (by decide) hm) _) (covers_trans (by decide) hm) _ _ _)
        try clear_value x3
        exact (State.sendFrame_keeps hx3 (covers_trans (by decide) hm) _ _ _)

theorem State.drainFrame_keeps (h : Keeps m s0 s) (hm : covers m [.ports, .out] = true) : ∀ a1, Keeps m s0 (State.drainFrame s a1) := by
  intro a1
  unfold State.drainFrame
  extract_lets -merge -underBinder x0
  split
  · exact h
  · refine State.when_keeps (State.setPort_keeps h (covers_trans (by decide) hm) _ _) _ _ fun _ h1 => ?_
    exact (State.emit_keeps h1 (covers_trans (by decide) hm) _)

theorem execPortFrameReceive_keeps : ∀ a0 a1 t, execPortFrameReceive a0 a1 s = .next t →
    Keeps [.regs, .host, .ports, .stp, .out, .free] s t := by
  intro a0 a1 t e
  have hm : covers [.regs, .host, .ports, .stp, .out, .free] [.regs, .host, .ports, .stp, .out, .free] = true := by decide
  have h := Keeps.refl [.regs, .host, .ports, .stp, .out, .free] s
  unfold execPortFrameReceive at e
  extract_lets -merge -underBinder x0 x1 x2 x3 x4 x5 x6 x7 x8 at e
  have hx2 : Keeps [.regs, .host, .ports, .stp, .out, .free] s x2 := (State.countErrors_keeps (State.frameGood_keeps h (covers_trans (by decide) hm) _ _ _ _) (covers_trans (by decide) hm) _ _)
  have hx3 : Keeps [.regs, .host, .ports, .stp, .out, .free] s x3 := by
    subst x3
    refine keeps_ite (P := fun z => Keeps [.regs, .host, .ports, .stp, .out, .free] s z) ?_ ?_
    · exact (State.csBit_keeps hx2 (covers_trans (by decide) hm) _ _ _)
    · exact hx2
  try clear_value x3
  try clear_value x2
  replace e := Host.Outcome.next.inj e
  subst e
  refine keeps_ite (P := fun z => Keeps [.regs, .host, .ports, .stp, .out, .free] s z) ?_ ?_
  · exact h
  · refine keeps_ite (P := fun z => Keeps [.regs, .host, .ports, .stp, .out, .free] s z) ?_ ?_
    · refine keeps_ite (P := fun z => Keeps [.regs, .host, .ports, .stp, .out, .free] s z) ?_ ?_
      · exact (State.gapFrame_keeps h (covers_trans (by decide) hm) _)
      · exact h
    · refine keeps_ite (P := fun z => Keeps [.regs, .host, .ports, .stp, .out, .free] s z) ?_ ?_
      · exact (State.drainFrame_keeps h (covers_trans (by decide) hm) _)
      · refine keeps_ite (P := fun z => Keeps [.regs, .host, .ports, .stp, .out, .free] s z) ?_ ?_
        · refine keeps_ite (P := fun z => Keeps [.regs, .host, .ports, .stp, .out, .free] s z) ?_ ?_
          · refine keeps_ite (P := fun z => Keeps [.regs, .host, .ports, .stp, .out, .free] s z) ?_ ?_
            · exact hx3
            · exact (State.losePort_keeps hx3 (covers_trans (by decide) hm) _)
          · exact hx3
        · refine (State.showPort_keeps ?_ (covers_trans (by decide) hm) _)
          dsimp -zeta only [x8]
          refine keeps_ite (P := fun z => Keeps [.regs, .host, .ports, .stp, .out, .free] s z) ?_ ?_
          · refine (State.followOut_keeps ?_ (covers_trans (by decide) hm) _ _)
            dsimp -zeta only [x6]
            refine keeps_ite (P := fun z => Keeps [.regs, .host, .ports, .stp, .out, .free] s z) ?_ ?_
            · exact (State.setPort_keeps hx3 (covers_trans (by decide) hm) _ _)
            · refine keeps_ite (P := fun z => Keeps [.regs, .host, .ports, .stp, .out, .free] s z) ?_ ?_
              · exact (State.setPort_keeps hx3 (covers_trans (by decide) hm) _ _)
              · refine keeps_ite (P := fun z => Keeps [.regs, .host, .ports, .stp, .out, .free] s z) ?_ ?_
                · exact (State.setPort_keeps hx3 (covers_trans (by decide) hm) _ _)
                · refine keeps_ite (P := fun z => Keeps [.regs, .host, .ports, .stp, .out, .free] s z) ?_ ?_
                  · exact hx3
                  · refine keeps_ite (P := fun z => Keeps [.regs, .host, .ports, .stp, .out, .free] s z) ?_ ?_
                    · exact (State.inSlip_keeps hx3 (covers_trans (by decide) hm) _)
                    · exact (State.setPort_keeps hx3 (covers_trans (by decide) hm) _ _)
          · refine keeps_ite (P := fun z => Keeps [.regs, .host, .ports, .stp, .out, .free] s z) ?_ ?_
            · refine (State.sendFrame_keeps ?_ (covers_trans (by decide) hm) _ _ _)
              dsimp -zeta only [x7]
              refine (State.multiWords_keeps ?_ (covers_trans (by decide) hm) _ _ _)
              dsimp -zeta only [x6]
              refine keeps_ite (P := fun z => Keeps [.regs, .host, .ports, .stp, .out, .free] s z) ?_ ?_
              · exact (State.setPort_keeps hx3 (covers_trans (by decide) hm) _ _)
              · refine keeps_ite (P := fun z => Keeps [.regs, .host, .ports, .stp, .out, .free] s z) ?_ ?_
                · exact (State.setPort_keeps hx3 (covers_trans (by decide) hm) _ _)
                · refine keeps_ite (P := fun z => Keeps [.regs, .host, .ports, .stp, .out, .free] s z) ?_ ?_
                  · exact (State.setPort_keeps hx3 (covers_trans (by decide) hm) _ _)
                  · refine keeps_ite (P := fun z => Keeps [.regs, .host, .ports, .stp, .out, .free] s z) ?_ ?_
                    · exact hx3
                    · refine keeps_ite (P := fun z => Keeps [.regs, .host, .ports, .stp, .out, .free] s z) ?_ ?_
                      · exact (State.inSlip_keeps hx3 (covers_trans (by decide) hm) _)
                      · exact (State.setPort_keeps hx3 (covers_trans (by decide) hm) _ _)
            · dsimp -zeta only [x6]
              refine keeps_ite (P := fun z => Keeps [.regs, .host, .ports, .stp, .out, .free] s z) ?_ ?_
              · exact (State.setPort_keeps hx3 (covers_trans (by decide) hm) _ _)
              · refine keeps_ite (P := fun z => Keeps [.regs, .host, .ports, .stp, .out, .free] s z) ?_ ?_
                · exact (State.setPort_keeps hx3 (covers_trans (by decide) hm) _ _)
                · refine keeps_ite (P := fun z => Keeps [.regs, .host, .ports, .stp, .out, .free] s z) ?_ ?_
                  · exact (State.setPort_keeps hx3 (covers_trans (by decide) hm) _ _)
                  · refine keeps_ite (P := fun z => Keeps [.regs, .host, .ports, .stp, .out, .free] s z) ?_ ?_
                    · exact hx3
                    · refine keeps_ite (P := fun z => Keeps [.regs, .host, .ports, .stp, .out, .free] s z) ?_ ?_
                      · exact (State.inSlip_keeps hx3 (covers_trans (by decide) hm) _)
                      · exact (State.setPort_keeps hx3 (covers_trans (by decide) hm) _ _)

theorem execPortLost_keeps : ∀ a0 t, execPortLost a0 s = .next t →
    Keeps [.regs, .host, .ports, .stp, .out] s t := by
  intro a0 t e
  have hm : covers [.regs, .host, .ports, .stp, .out] [.regs, .host, .ports, .stp, .out] = true := by decide
  have h := Keeps.refl [.regs, .host, .ports, .stp, .out] s
  unfold execPortLost at e
  replace e := Host.Outcome.next.inj e
  subst e
  refine keeps_ite (P := fun z => Keeps [.regs, .host, .ports, .stp, .out] s z) ?_ ?_
  · exact (State.losePort_keeps h (covers_trans (by decide) hm) _)
  · exact h

theorem execPortLock_keeps : ∀ a0 t, execPortLock a0 s = .next t →
    Keeps [.regs, .host, .ports, .out] s t := by
  intro a0 t e
  have hm : covers [.regs, .host, .ports, .out] [.regs, .host, .ports, .out] = true := by decide
  have h := Keeps.refl [.regs, .host, .ports, .out] s
  unfold execPortLock at e
  extract_lets -merge -underBinder x0 x1 x2 x3 at e
  have hx3 : Keeps [.regs, .host, .ports, .out] s x3 := (State.setPort_keeps h (covers_trans (by decide) hm) _ _)
  try clear_value x3
  replace e := Host.Outcome.next.inj e
  subst e
  refine keeps_ite (P := fun z => Keeps [.regs, .host, .ports, .out] s z) ?_ ?_
  · exact (State.showAsrc_keeps (State.showPort_keeps (State.raisePort_keeps (State.wr_keeps (State.wr_keeps hx3 (covers_trans (by decide) hm) _ _ _ _) (covers_trans (by decide) hm) _ _ _ _) (covers_trans (by decide) hm) _ _) (covers_trans (by decide) hm) _) (covers_trans (by decide) hm))
  · exact h

theorem execAsrcLock_keeps : ∀ a0 a1 t, execAsrcLock a0 a1 s = .next t →
    Keeps [.regs, .host, .ports, .out] s t := by
  intro a0 a1 t e
  have hm : covers [.regs, .host, .ports, .out] [.regs, .host, .ports, .out] = true := by decide
  have h := Keeps.refl [.regs, .host, .ports, .out] s
  unfold execAsrcLock at e
  extract_lets -merge -underBinder x0 x1 x2 at e
  have hx2 : Keeps [.regs, .host, .ports, .out] s x2 := (State.raise_keeps (State.setPort_keeps h (covers_trans (by decide) hm) _ _) (covers_trans (by decide) hm) _ _)
  try clear_value x2
  replace e := Host.Outcome.next.inj e
  subst e
  refine keeps_ite (P := fun z => Keeps [.regs, .host, .ports, .out] s z) ?_ ?_
  · exact (State.showAsrc_keeps (State.showLatency_keeps (State.showPort_keeps (State.raisePort_keeps (State.wr_keeps (State.wr_keeps hx2 (covers_trans (by decide) hm) _ _ _ _) (covers_trans (by decide) hm) _ _ _ _) (covers_trans (by decide) hm) _ _) (covers_trans (by decide) hm) _) (covers_trans (by decide) hm) _) (covers_trans (by decide) hm))
  · exact h

theorem State.changePort_keeps (h : Keeps m s0 s) (hm : covers m [.regs, .host, .mil, .ports, .stp, .out] = true) : ∀ a1 a2 a3, Keeps m s0 (State.changePort s a1 a2 a3) := by
  intro a1 a2 a3
  unfold State.changePort
  extract_lets -merge -underBinder x0 x1 x2 x3 x4 x5 x6
  have hx1 : Keeps m s0 x1.2 := by
    subst x1
    refine keeps_foldl (P := fun (z : List (List (Option Nat) × List Nat) × State) => Keeps m s0 z.2) ?_ fun _ _ h7 => ?_
    · refine keeps_snd (P := fun z => Keeps m s0 z) ?_
      exact h
    · extract_lets -merge -underBinder x8 x9 x10
      have hx8 : Keeps m s0 x8.2 := (State.frameWords_keeps h7 (covers_trans (by decide) hm) _ _ _)
      try clear_value x8
      refine keeps_snd (P := fun z => Keeps m s0 z) ?_
      exact (State.setPort_keeps hx8 (covers_trans (by decide) hm) _ _)
  have hx2 : Keeps m s0 x2 := (State.startPort_keeps hx1 (covers_trans (by decide) hm) _)
  try clear_value x2
  try clear_value x1
  refine keeps_ite (P := fun z => Keeps m s0 z) ?_ ?_
  · exact h
  · refine keeps_ite (P := fun z => Keeps m s0 z) ?_ ?_
    · exact (State.showPort_keeps (State.setPort_keeps hx2 (covers_trans (by decide) hm) _ _) (covers_trans (by decide) hm) _)
    · exact (State.showPort_keeps (State.setPort_keeps h (covers_trans (by decide) hm) _ _) (covers_trans (by decide) hm) _)

theorem State.portsDue_keeps (h : Keeps m s0 s) (hm : covers m [.regs, .live, .pend, .host, .mil, .ports, .stp, .out] = true) : ∀ a1 a2, Keeps m s0 (State.portsDue s a1 a2) := by
  intro a1 a2
  unfold State.portsDue
  extract_lets -merge -underBinder x0 x1 x2 x3 x4
  have hx2 : Keeps m s0 x2 := (State.enforce_keeps h (covers_trans (by decide) hm) _)
  have hx3 : Keeps m s0 x3 := by
    subst x3
    refine keeps_foldl (P := fun z => Keeps m s0 z) ?_ fun _ _ h5 => ?_
    · exact hx2
    · exact (State.changePort_keeps h5 (covers_trans (by decide) hm) _ _ _)
  have hx4 : Keeps m s0 x4 := by
    subst x4
    refine keeps_foldl (P := fun z => Keeps m s0 z) ?_ fun _ _ h6 => ?_
    · exact hx3
    · exact (State.showLatency_keeps h6 (covers_trans (by decide) hm) _)
  try clear_value x4
  try clear_value x3
  try clear_value x2
  refine keeps_ite (P := fun z => Keeps m s0 z) ?_ ?_
  · exact (State.raise_keeps (State.showAsrc_keeps hx4 (covers_trans (by decide) hm)) (covers_trans (by decide) hm) _ _)
  · exact (State.raise_keeps (State.endPend_keeps h (covers_trans (by decide) hm) _ _) (covers_trans (by decide) hm) _ _)

theorem execMaskChange_keeps : ∀ a0 t, execMaskChange a0 s = .next t →
    Keeps [.regs, .live, .pend, .host, .mil, .ports, .stp, .out] s t := by
  intro a0 t e
  have hm : covers [.regs, .live, .pend, .host, .mil, .ports, .stp, .out] [.regs, .live, .pend, .host, .mil, .ports, .stp, .out] = true := by decide
  have h := Keeps.refl [.regs, .live, .pend, .host, .mil, .ports, .stp, .out] s
  unfold execMaskChange at e
  replace e := Host.Outcome.next.inj e
  subst e
  split
  · exact h
  · refine keeps_ite (P := fun z => Keeps [.regs, .live, .pend, .host, .mil, .ports, .stp, .out] s z) ?_ ?_
    · exact h
    · exact (State.portsDue_keeps h (covers_trans (by decide) hm) _ _)

end Sys2Proof.Machine
end

