-- ==== Sys2Proof/Laws/KeepsSteeple.lean ====
section
/-! SUPPORT. What each function of Machine/Steeple.lean keeps: the parts of the state it can change, the canonical form of the stores,
the order of free values and outputs. One lemma per function, assembled from those of the functions it calls. -/
namespace Sys2Proof.Machine

variable {m : List Part} {s0 s : State}

theorem State.setCand_keeps (h : Keeps m s0 s) (hm : covers m [.stp] = true) : ∀ a1 a2, Keeps m s0 (State.setCand s a1 a2) := by
  intro a1 a2
  unfold State.setCand
  exact (keeps_stp h (covers_trans (by decide) hm))

theorem State.setPtp_keeps (h : Keeps m s0 s) (hm : covers m [.stp] = true) : ∀ a1 a2, Keeps m s0 (State.setPtp s a1 a2) := by
  intro a1 a2
  unfold State.setPtp
  exact (keeps_stp h (covers_trans (by decide) hm))

theorem State.setPtpState_keeps (h : Keeps m s0 s) (hm : covers m [.regs] = true) : ∀ a1 a2, Keeps m s0 (State.setPtpState s a1 a2) := by
  intro a1 a2
  unfold State.setPtpState
  exact (State.wr_keeps h (covers_trans (by decide) hm) _ _ _ _)

theorem State.setFreq_keeps (h : Keeps m s0 s) (hm : covers m [.regs] = true) : ∀ a1, Keeps m s0 (State.setFreq s a1) := by
  intro a1
  unfold State.setFreq
  exact (State.wr_keeps h (covers_trans (by decide) hm) _ _ _ _)

theorem State.showStp_keeps (h : Keeps m s0 s) (hm : covers m [.regs] = true) : Keeps m s0 (State.showStp s) := by
  unfold State.showStp
  extract_lets -merge -underBinder x0 x1 x2 x3 x4 x5 x6
  have hx3 : Keeps m s0 x3 := (State.wr_keeps (State.wr_keeps (State.wr_keeps h (covers_trans (by decide) hm) _ _ _ _) (covers_trans (by decide) hm) _ _ _ _) (covers_trans (by decide) hm) _ _ _ _)
  have hx4 : Keeps m s0 x4 := (State.wr_keeps (State.wr_keeps (State.wr_keeps hx3 (covers_trans (by decide) hm) _ _ _ _) (covers_trans (by decide) hm) _ _ _ _) (covers_trans (by decide) hm) _ _ _ _)
  have hx6 : Keeps m s0 x6 := (State.wr_keeps (State.wr_keeps hx4 (covers_trans (by decide) hm) _ _ _ _) (covers_trans (by decide) hm) _ _ _ _)
  try clear_value x6
  try clear_value x4
  try clear_value x3
  exact (State.wr_keeps (State.wr_keeps hx6 (covers_trans (by decide) hm) _ _ _ _) (covers_trans (by decide) hm) _ _ _ _)

theorem State.stpGo_keeps (h : Keeps m s0 s) (hm : covers m [.regs, .mem, .host, .stp, .flt, .out] = true) : ∀ a1, Keeps m s0 (State.stpGo s a1) := by
  intro a1
  unfold State.stpGo
  refine keeps_ite (P := fun z => Keeps m s0 z) ?_ ?_
  · exact h
  · extract_lets -merge -underBinder x0 x1 x2 x3
    have hx0 : Keeps m s0 x0 := (State.rollHw_keeps (State.raise_keeps (State.wr_keeps h (covers_trans (by decide) hm) _ _ _ _) (covers_trans (by decide) hm) _ _) (covers_trans (by decide) hm) _ _ _ _)
    have hx1 : Keeps m s0 x1 := (State.wr_keeps hx0 (covers_trans (by decide) hm) _ _ _ _)
    have hx3 : Keeps m s0 x3 := by
      subst x3
      refine keeps_ite (P := fun z => Keeps m s0 z) ?_ ?_
      · exact (keeps_stp hx1 (covers_trans (by decide) hm))
      · exact hx0
    try clear_value x3
    try clear_value x1
    try clear_value x0
    refine keeps_ite (P := fun z => Keeps m s0 z) ?_ ?_
    · exact (State.wr_keeps hx3 (covers_trans (by decide) hm) _ _ _ _)
    · refine keeps_ite (P := fun z => Keeps m s0 z) ?_ ?_
      · exact hx3
      · exact (State.wr_keeps hx3 (covers_trans (by decide) hm) _ _ _ _)

theorem State.losePresence_keeps (h : Keeps m s0 s) (hm : covers m [.regs, .stp] = true) : ∀ a1, Keeps m s0 (State.losePresence s a1) := by
  intro a1
  unfold State.losePresence
  exact (State.showStp_keeps (State.setCand_keeps h (covers_trans (by decide) hm) _ _) (covers_trans (by decide) hm))

theorem State.gainPresence_keeps (h : Keeps m s0 s) (hm : covers m [.regs, .stp] = true) : ∀ a1, Keeps m s0 (State.gainPresence s a1) := by
  intro a1
  unfold State.gainPresence
  refine keeps_ite (P := fun z => Keeps m s0 z) ?_ ?_
  · exact h
  · exact (State.showStp_keeps (State.setCand_keeps h (covers_trans (by decide) hm) _ _) (covers_trans (by decide) hm))

theorem State.disqualify_keeps (h : Keeps m s0 s) (hm : covers m [.regs, .mem, .host, .stp, .flt, .out] = true) : ∀ a1, Keeps m s0 (State.disqualify s a1) := by
  intro a1
  unfold State.disqualify
  refine keeps_ite (P := fun z => Keeps m s0 z) ?_ ?_
  · exact (State.rollHw_keeps (State.raise_keeps (State.bump_keeps (State.setCand_keeps h (covers_trans (by decide) hm) _ _) (covers_trans (by decide) hm) _ _ _ _) (covers_trans (by decide) hm) _ _) (covers_trans (by decide) hm) _ _ _ _)
  · exact h

theorem State.measureFreq_keeps (h : Keeps m s0 s) (hm : covers m [.regs, .stp] = true) : ∀ a1 a2, Keeps m s0 (State.measureFreq s a1 a2) := by
  intro a1 a2
  unfold State.measureFreq
  refine keeps_ite (P := fun z => Keeps m s0 z) ?_ ?_
  · exact (State.losePresence_keeps h (covers_trans (by decide) hm) _)
  · extract_lets -merge -underBinder x0 x1
    have hx0 : Keeps m s0 x0 := by
      subst x0
      refine keeps_ite (P := fun z => Keeps m s0 z) ?_ ?_
      · exact (State.gainPresence_keeps h (covers_trans (by decide) hm) _)
      · exact h
    try clear_value x0
    exact (State.setCand_keeps hx0 (covers_trans (by decide) hm) _ _)

theorem State.deviate_keeps (h : Keeps m s0 s) (hm : covers m [.regs, .mem, .host, .stp, .flt, .out] = true) : ∀ a1 a2, Keeps m s0 (State.deviate s a1 a2) := by
  intro a1 a2
  unfold State.deviate
  extract_lets -merge -underBinder x0 x1 x2 x3 x4 x5 x6
  have hx5 : Keeps m s0 x5 := by
    subst x5
    refine State.when_keeps (State.setCand_keeps h (covers_trans (by decide) hm) _ _) _ _ fun _ h7 => ?_
    exact (State.raise_keeps h7 (covers_trans (by decide) hm) _ _)
  try clear_value x5
  refine keeps_ite (P := fun z => Keeps m s0 z) ?_ ?_
  · exact (State.disqualify_keeps hx5 (covers_trans (by decide) hm) _)
  · exact hx5

theorem State.stpSecond_keeps (h : Keeps m s0 s) (hm : covers m [.regs, .stp] = true) : Keeps m s0 (State.stpSecond s) := by
  unfold State.stpSecond
  extract_lets -merge -underBinder x0 x1 x2 x3 x4 x5 x6 x7 x8 x9 x10 x11
  have hx3 : Keeps m s0 x3 := by
    subst x3
    refine keeps_ite (P := fun z => Keeps m s0 z) ?_ ?_
    · exact (keeps_stp h (covers_trans (by decide) hm))
    · exact h
  try clear_value x3
  refine (State.wr_keeps ?_ (covers_trans (by decide) hm) _ _ _ _)
  refine (State.wr_keeps ?_ (covers_trans (by decide) hm) _ _ _ _)
  refine (State.wr_keeps ?_ (covers_trans (by decide) hm) _ _ _ _)
  refine (State.wr_keeps ?_ (covers_trans (by decide) hm) _ _ _ _)
  dsimp -zeta only [x11]
  refine keeps_stp ?_ (covers_trans (by decide) hm)
  dsimp -zeta only [x4]
  refine keeps_ite (P := fun z => Keeps m s0 z) ?_ ?_
  · exact (State.bump_keeps hx3 (covers_trans (by decide) hm) _ _ _ _)
  · exact hx3

theorem execCandidateDeviation_keeps : ∀ a0 t, execCandidateDeviation a0 s = .next t →
    Keeps [.regs, .mem, .host, .stp, .flt, .out] s t := by
  intro a0 t e
  have hm : covers [.regs, .mem, .host, .stp, .flt, .out] [.regs, .mem, .host, .stp, .flt, .out] = true := by decide
  have h := Keeps.refl [.regs, .mem, .host, .stp, .flt, .out] s
  unfold execCandidateDeviation at e
  extract_lets -merge -underBinder x0 x1 x2 at e
  have hx0 : Keeps [.regs, .mem, .host, .stp, .flt, .out] s x0 := by
    subst x0
    refine keeps_foldl (P := fun z => Keeps [.regs, .mem, .host, .stp, .flt, .out] s z) ?_ fun _ _ h3 => ?_
    · exact h
    · refine keeps_ite (P := fun z => Keeps [.regs, .mem, .host, .stp, .flt, .out] s z) ?_ ?_
      · exact (State.measureFreq_keeps h3 (covers_trans (by decide) hm) _ _)
      · exact h3
  try clear_value x0
  replace e := Host.Outcome.next.inj e
  subst e
  refine (State.showStp_keeps ?_ (covers_trans (by decide) hm))
  refine (State.stpSecond_keeps ?_ (covers_trans (by decide) hm))
  dsimp -zeta only [x2]
  refine keeps_foldl (P := fun z => Keeps [.regs, .mem, .host, .stp, .flt, .out] s z) ?_ fun _ _ h4 => ?_
  · exact hx0
  · split
    · exact (State.deviate_keeps h4 (covers_trans (by decide) hm) _ _)
    · exact h4

theorem execCandidateQualify_keeps : ∀ a0 t, execCandidateQualify a0 s = .next t →
    Keeps [.regs, .stp] s t := by
  intro a0 t e
  have hm : covers [.regs, .stp] [.regs, .stp] = true := by decide
  have h := Keeps.refl [.regs, .stp] s
  unfold execCandidateQualify at e
  extract_lets -merge -underBinder x0 at e
  replace e := Host.Outcome.next.inj e
  subst e
  refine keeps_ite (P := fun z => Keeps [.regs, .stp] s z) ?_ ?_
  · exact (State.showStp_keeps (State.setCand_keeps h (covers_trans (by decide) hm) _ _) (covers_trans (by decide) hm))
  · exact h

theorem execCandidatePresenceLoss_keeps : ∀ a0 t, execCandidatePresenceLoss a0 s = .next t →
    Keeps [.regs, .stp] s t := by
  intro a0 t e
  have hm : covers [.regs, .stp] [.regs, .stp] = true := by decide
  have h := Keeps.refl [.regs, .stp] s
  unfold execCandidatePresenceLoss at e
  replace e := Host.Outcome.next.inj e
  subst e
  refine keeps_ite (P := fun z => Keeps [.regs, .stp] s z) ?_ ?_
  · exact (State.losePresence_keeps h (covers_trans (by decide) hm) _)
  · exact h

theorem execWaitToRestoreExpiry_keeps : ∀ a0 t, execWaitToRestoreExpiry a0 s = .next t →
    Keeps [.regs, .host, .stp, .out] s t := by
  intro a0 t e
  have hm : covers [.regs, .host, .stp, .out] [.regs, .host, .stp, .out] = true := by decide
  have h := Keeps.refl [.regs, .host, .stp, .out] s
  unfold execWaitToRestoreExpiry at e
  extract_lets -merge -underBinder x0 at e
  replace e := Host.Outcome.next.inj e
  subst e
  refine keeps_ite (P := fun z => Keeps [.regs, .host, .stp, .out] s z) ?_ ?_
  · exact (State.showStp_keeps (State.raise_keeps (State.setCand_keeps h (covers_trans (by decide) hm) _ _) (covers_trans (by decide) hm) _ _) (covers_trans (by decide) hm))
  · exact h

theorem State.setOutEdge_keeps (h : Keeps m s0 s) (hm : covers m [.stp] = true) : ∀ a1 a2, Keeps m s0 (State.setOutEdge s a1 a2) := by
  intro a1 a2
  unfold State.setOutEdge
  exact (keeps_stp h (covers_trans (by decide) hm))

theorem State.timeOutput_keeps (h : Keeps m s0 s) (hm : covers m [.regs, .stp, .out] = true) : ∀ a1 a2, Keeps m s0 (State.timeOutput s a1 a2) := by
  intro a1 a2
  unfold State.timeOutput
  extract_lets -merge -underBinder x0 x1 x2 x3 x4
  have hx4 : Keeps m s0 x4 := by
    subst x4
    refine keeps_ite (P := fun z => Keeps m s0 z) ?_ ?_
    · exact (State.wr_keeps (State.setOutEdge_keeps (keeps_stp h (covers_trans (by decide) hm)) (covers_trans (by decide) hm) _ _) (covers_trans (by decide) hm) _ _ _ _)
    · exact h
  try clear_value x4
  split
  · exact hx4
  · refine keeps_ite (P := fun z => Keeps m s0 z) ?_ ?_
    · extract_lets -merge -underBinder x5
      refine keeps_ite (P := fun z => Keeps m s0 z) ?_ ?_
      · exact (State.emit_keeps hx4 (covers_trans (by decide) hm) _)
      · exact (State.emit_keeps hx4 (covers_trans (by decide) hm) _)
    · exact hx4

theorem State.showAligned_keeps (h : Keeps m s0 s) (hm : covers m [.regs, .host, .out] = true) : ∀ a1 a2, Keeps m s0 (State.showAligned s a1 a2) := by
  intro a1 a2
  unfold State.showAligned
  extract_lets -merge -underBinder x0
  refine keeps_ite (P := fun z => Keeps m s0 z) ?_ ?_
  · refine State.when_keeps (State.wr_keeps h (covers_trans (by decide) hm) _ _ _ _) _ _ fun _ h1 => ?_
    exact (State.raise_keeps h1 (covers_trans (by decide) hm) _ _)
  · exact (State.wr_keeps h (covers_trans (by decide) hm) _ _ _ _)

theorem State.checkAligned_keeps (h : Keeps m s0 s) (hm : covers m [.regs, .host, .out] = true) : ∀ a1, Keeps m s0 (State.checkAligned s a1) := by
  intro a1
  unfold State.checkAligned
  split
  · exact h
  · extract_lets -merge -underBinder x0 x1 x2
    refine keeps_ite (P := fun z => Keeps m s0 z) ?_ ?_
    · exact (State.showAligned_keeps h (covers_trans (by decide) hm) _ _)
    · exact h

theorem State.jumpTime_keeps (h : Keeps m s0 s) (hm : covers m [.regs, .host, .stp, .out] = true) : ∀ a1, Keeps m s0 (State.jumpTime s a1) := by
  intro a1
  unfold State.jumpTime
  extract_lets -merge -underBinder x0 x1 x2 x3
  have hx3 : Keeps m s0 x3 := (keeps_stp h (covers_trans (by decide) hm))
  try clear_value x3
  refine keeps_foldl (P := fun z => Keeps m s0 z) ?_ fun _ _ h4 => ?_
  · exact hx3
  · exact (State.checkAligned_keeps h4 (covers_trans (by decide) hm) _)

theorem State.stepTime_keeps (h : Keeps m s0 s) (hm : covers m [.regs, .host, .stp, .out] = true) : ∀ a1, Keeps m s0 (State.stepTime s a1) := by
  intro a1
  unfold State.stepTime
  exact (State.raise_keeps (State.bump_keeps (State.jumpTime_keeps h (covers_trans (by decide) hm) _) (covers_trans (by decide) hm) _ _ _ _) (covers_trans (by decide) hm) _ _)

theorem execTimebaseAdvance_keeps : ∀ t, execTimebaseAdvance s = .next t →
    Keeps [.regs, .stp, .out] s t := by
  intro t e
  have hm : covers [.regs, .stp, .out] [.regs, .stp, .out] = true := by decide
  have h := Keeps.refl [.regs, .stp, .out] s
  unfold execTimebaseAdvance at e
  extract_lets -merge -underBinder x0 x1 x2 at e
  have hx2 : Keeps [.regs, .stp, .out] s x2 := (keeps_stp h (covers_trans (by decide) hm))
  try clear_value x2
  replace e := Host.Outcome.next.inj e
  subst e
  refine keeps_foldl (P := fun z => Keeps [.regs, .stp, .out] s z) ?_ fun _ _ h3 => ?_
  · exact hx2
  · refine keeps_ite (P := fun z => Keeps [.regs, .stp, .out] s z) ?_ ?_
    · exact (State.timeOutput_keeps h3 (covers_trans (by decide) hm) _ _)
    · exact h3

theorem State.wordClock_keeps (h : Keeps m s0 s) (hm : covers m [.regs, .host, .stp, .out] = true) : ∀ a1 a2, Keeps m s0 (State.wordClock s a1 a2) := by
  intro a1 a2
  unfold State.wordClock
  extract_lets -merge -underBinder x0 x1 x2 x3 x4
  refine keeps_ite (P := fun z => Keeps m s0 z) ?_ ?_
  · refine (State.showAligned_keeps ?_ (covers_trans (by decide) hm) _ _)
    dsimp -zeta only [x2]
    refine keeps_foldl (P := fun z => Keeps m s0 z) ?_ fun _ _ h5 => ?_
    · exact (State.setOutEdge_keeps (keeps_stp h (covers_trans (by decide) hm)) (covers_trans (by decide) hm) _ _)
    · exact (State.emit_keeps h5 (covers_trans (by decide) hm) _)
  · split
    · exact h
    · refine keeps_ite (P := fun z => Keeps m s0 z) ?_ ?_
      · refine State.when_keeps ?_ _ _ fun _ h6 => ?_
        · dsimp -zeta only [x2]
          refine keeps_foldl (P := fun z => Keeps m s0 z) ?_ fun _ _ h7 => ?_
          · exact (State.setOutEdge_keeps h (covers_trans (by decide) hm) _ _)
          · exact (State.emit_keeps h7 (covers_trans (by decide) hm) _)
        · exact (State.showAligned_keeps h6 (covers_trans (by decide) hm) _ _)
      · exact (State.setOutEdge_keeps h (covers_trans (by decide) hm) _ _)

theorem State.wordClocks_keeps (h : Keeps m s0 s) (hm : covers m [.regs, .host, .stp, .out] = true) : ∀ a1, Keeps m s0 (State.wordClocks s a1) := by
  intro a1
  unfold State.wordClocks
  refine keeps_foldl (P := fun z => Keeps m s0 z) ?_ fun _ _ h0 => ?_
  · exact h
  · refine keeps_ite (P := fun z => Keeps m s0 z) ?_ ?_
    · exact (State.wordClock_keeps h0 (covers_trans (by decide) hm) _ _)
    · exact h0

theorem State.outAlign_keeps (h : Keeps m s0 s) (hm : covers m [.stp] = true) : ∀ a1, Keeps m s0 (State.outAlign s a1) := by
  intro a1
  unfold State.outAlign
  exact (keeps_stp h (covers_trans (by decide) hm))

theorem execTbsOutAlign_keeps : ∀ a0 t, execTbsOutAlign a0 s = .next t →
    Keeps [.stp] s t := by
  intro a0 t e
  have hm : covers [.stp] [.stp] = true := by decide
  have h := Keeps.refl [.stp] s
  unfold execTbsOutAlign at e
  replace e := Host.Outcome.next.inj e
  subst e
  exact (keeps_stp h (covers_trans (by decide) hm))

theorem State.follow_keeps (h : Keeps m s0 s) (hm : covers m [.regs, .mem, .host, .stp, .flt, .out] = true) : ∀ a1 a2, Keeps m s0 (State.follow s a1 a2) := by
  intro a1 a2
  unfold State.follow
  extract_lets -merge -underBinder x0 x1 x2 x3 x4 x5 x6 x7 x8 x9
  have hx1 : Keeps m s0 x1 := (State.wr_keeps h (covers_trans (by decide) hm) _ _ _ _)
  have hx2 : Keeps m s0 x2 := by
    subst x2
    refine keeps_ite (P := fun z => Keeps m s0 z) ?_ ?_
    · exact hx1
    · exact (State.stpGo_keeps hx1 (covers_trans (by decide) hm) _)
  have hx6 : Keeps m s0 x6 := by
    subst x6
    refine keeps_ite (P := fun z => Keeps m s0 z) ?_ ?_
    · exact (State.setCand_keeps (State.stepTime_keeps hx2 (covers_trans (by decide) hm) _) (covers_trans (by decide) hm) _ _)
    · exact hx2
  try clear_value x6
  try clear_value x2
  try clear_value x1
  exact (State.showStp_keeps (State.setFreq_keeps (keeps_stp hx6 (covers_trans (by decide) hm)) (covers_trans (by decide) hm) _) (covers_trans (by decide) hm))

theorem State.switchRef_keeps (h : Keeps m s0 s) (hm : covers m [.regs, .mem, .host, .stp, .flt, .out] = true) : ∀ a1, Keeps m s0 (State.switchRef s a1) := by
  intro a1
  unfold State.switchRef
  extract_lets -merge -underBinder x0 x1 x2 x3
  have hx0 : Keeps m s0 x0 := (State.follow_keeps (State.wr_keeps h (covers_trans (by decide) hm) _ _ _ _) (covers_trans (by decide) hm) _ _)
  try clear_value x0
  refine keeps_ite (P := fun z => Keeps m s0 z) ?_ ?_
  · exact (State.setFreq_keeps (keeps_stp hx0 (covers_trans (by decide) hm)) (covers_trans (by decide) hm) _)
  · exact hx0

theorem State.loseRef_keeps (h : Keeps m s0 s) (hm : covers m [.regs, .mem, .host, .stp, .flt, .out] = true) : Keeps m s0 (State.loseRef s) := by
  unfold State.loseRef
  extract_lets -merge -underBinder x0 x1 x2
  have hx0 : Keeps m s0 x0 := (State.wr_keeps (State.wr_keeps h (covers_trans (by decide) hm) _ _ _ _) (covers_trans (by decide) hm) _ _ _ _)
  have hx2 : Keeps m s0 x2 := (keeps_stp hx0 (covers_trans (by decide) hm))
  try clear_value x2
  try clear_value x0
  refine (State.showStp_keeps ?_ (covers_trans (by decide) hm))
  refine keeps_ite (P := fun z => Keeps m s0 z) ?_ ?_
  · exact (State.setFreq_keeps (State.stpGo_keeps hx2 (covers_trans (by decide) hm) _) (covers_trans (by decide) hm) _)
  · exact (State.stpGo_keeps hx2 (covers_trans (by decide) hm) _)

theorem State.selectRef_keeps (h : Keeps m s0 s) (hm : covers m [.regs, .mem, .host, .stp, .flt, .out] = true) : Keeps m s0 (State.selectRef s) := by
  unfold State.selectRef
  extract_lets -merge -underBinder x0 x1
  split
  · try clear_value x1
    split
    · exact (State.switchRef_keeps h (covers_trans (by decide) hm) _)
    · refine keeps_ite (P := fun z => Keeps m s0 z) ?_ ?_
      · exact (State.loseRef_keeps h (covers_trans (by decide) hm))
      · exact h
  · refine keeps_ite (P := fun z => Keeps m s0 z) ?_ ?_
    · try clear_value x1
      split
      · exact (State.switchRef_keeps h (covers_trans (by decide) hm) _)
      · exact (State.loseRef_keeps h (covers_trans (by decide) hm))
    · refine keeps_ite (P := fun z => Keeps m s0 z) ?_ ?_
      · exact h
      · try clear_value x1
        split
        · refine keeps_ite (P := fun z => Keeps m s0 z) ?_ ?_
          · exact (State.switchRef_keeps h (covers_trans (by decide) hm) _)
          · exact h
        · exact h

theorem State.portCands_keeps (h : Keeps m s0 s) (hm : covers m [.regs, .stp] = true) : Keeps m s0 (State.portCands s) := by
  unfold State.portCands
  extract_lets -merge -underBinder x0 x1 x2 x3
  have hx1 : Keeps m s0 x1 := by
    subst x1
    refine keeps_ite (P := fun z => Keeps m s0 z) ?_ ?_
    · exact (State.gainPresence_keeps (State.setCand_keeps h (covers_trans (by decide) hm) _ _) (covers_trans (by decide) hm) _)
    · refine keeps_ite (P := fun z => Keeps m s0 z) ?_ ?_
      · exact (State.losePresence_keeps h (covers_trans (by decide) hm) _)
      · exact h
  try clear_value x1
  refine keeps_ite (P := fun z => Keeps m s0 z) ?_ ?_
  · exact (State.gainPresence_keeps hx1 (covers_trans (by decide) hm) _)
  · refine keeps_ite (P := fun z => Keeps m s0 z) ?_ ?_
    · exact (State.losePresence_keeps hx1 (covers_trans (by decide) hm) _)
    · exact hx1

theorem State.refLoop_keeps (h : Keeps m s0 s) (hm : covers m [.regs, .free] = true) : Keeps m s0 (State.refLoop s) := by
  unfold State.refLoop
  extract_lets -merge -underBinder x0 x1
  have hx1 : Keeps m s0 x1 := by
    subst x1
    split
    · exact (State.wr_keeps h (covers_trans (by decide) hm) _ _ _ _)
    · exact h
  try clear_value x1
  refine keeps_ite (P := fun z => Keeps m s0 z) ?_ ?_
  · exact (State.setFreq_keeps hx1 (covers_trans (by decide) hm) _)
  · refine keeps_ite (P := fun z => Keeps m s0 z) ?_ ?_
    · exact hx1
    · exact (State.useFree_keeps (State.setFreq_keeps hx1 (covers_trans (by decide) hm) _) (covers_trans (by decide) hm) _)

theorem State.setDac_keeps (h : Keeps m s0 s) (hm : covers m [.stp] = true) : ∀ a1 a2, Keeps m s0 (State.setDac s a1 a2) := by
  intro a1 a2
  unfold State.setDac
  exact (keeps_stp h (covers_trans (by decide) hm))

theorem State.audioLoop_keeps (h : Keeps m s0 s) (hm : covers m [.regs, .host, .stp, .out, .free] = true) : Keeps m s0 (State.audioLoop s) := by
  unfold State.audioLoop
  extract_lets -merge -underBinder x0 x1 x2 x3 x4 x5 x6 x7 x8 x9 x10 x11 x12 x13 x14 x15 x16 x17
  have hx4 : Keeps m s0 x4 := (State.setDac_keeps h (covers_trans (by decide) hm) _ _)
  have hx5 : Keeps m s0 x5 := by
    subst x5
    refine keeps_ite (P := fun z => Keeps m s0 z) ?_ ?_
    · exact hx4
    · exact h
  have hx13 : Keeps m s0 x13 := (State.wr_keeps (State.useFree_keeps (State.setDac_keeps hx5 (covers_trans (by decide) hm) _ _) (covers_trans (by decide) hm) _) (covers_trans (by decide) hm) _ _ _ _)
  have hx17 : Keeps m s0 x17 := (keeps_stp hx13 (covers_trans (by decide) hm))
  try clear_value x17
  try clear_value x13
  try clear_value x5
  try clear_value x4
  refine keeps_ite (P := fun z => Keeps m s0 z) ?_ ?_
  · exact hx5
  · refine keeps_ite (P := fun z => Keeps m s0 z) ?_ ?_
    · exact (State.setDac_keeps hx5 (covers_trans (by decide) hm) _ _)
    · refine keeps_ite (P := fun z => Keeps m s0 z) ?_ ?_
      · exact (State.setDac_keeps hx5 (covers_trans (by decide) hm) _ _)
      · refine keeps_ite (P := fun z => Keeps m s0 z) ?_ ?_
        · exact (State.raise_keeps hx17 (covers_trans (by decide) hm) _ _)
        · exact hx17

theorem State.steepleBlock_keeps (h : Keeps m s0 s) (hm : covers m [.regs, .mem, .host, .stp, .flt, .out, .free] = true) : Keeps m s0 (State.steepleBlock s) := by
  unfold State.steepleBlock
  extract_lets -merge -underBinder x0
  have hx0 : Keeps m s0 x0 := (State.portCands_keeps (State.audioLoop_keeps h (covers_trans (by decide) hm)) (covers_trans (by decide) hm))
  try clear_value x0
  refine (State.showStp_keeps ?_ (covers_trans (by decide) hm))
  refine (State.refLoop_keeps ?_ (covers_trans (by decide) hm))
  refine keeps_ite (P := fun z => Keeps m s0 z) ?_ ?_
  · exact hx0
  · exact (State.selectRef_keeps hx0 (covers_trans (by decide) hm))

theorem execSlewEnd_keeps : ∀ t, execSlewEnd s = .next t →
    Keeps [.regs, .host, .stp, .out] s t := by
  intro t e
  have hm : covers [.regs, .host, .stp, .out] [.regs, .host, .stp, .out] = true := by decide
  have h := Keeps.refl [.regs, .host, .stp, .out] s
  unfold execSlewEnd at e
  replace e := Host.Outcome.next.inj e
  subst e
  split
  · exact h
  · refine keeps_ite (P := fun z => Keeps [.regs, .host, .stp, .out] s z) ?_ ?_
    · extract_lets -merge -underBinder x0 x1 x2
      have hx2 : Keeps [.regs, .host, .stp, .out] s x2 := (keeps_stp h (covers_trans (by decide) hm))
      try clear_value x2
      exact (State.raise_keeps (State.bump_keeps (State.wr_keeps (State.setFreq_keeps hx2 (covers_trans (by decide) hm) _) (covers_trans (by decide) hm) _ _ _ _) (covers_trans (by decide) hm) _ _ _ _) (covers_trans (by decide) hm) _ _)
    · exact h

theorem execBandwidthStep_keeps : ∀ t, execBandwidthStep s = .next t →
    Keeps [.regs, .mem, .host, .stp, .flt, .out] s t := by
  intro t e
  have hm : covers [.regs, .mem, .host, .stp, .flt, .out] [.regs, .mem, .host, .stp, .flt, .out] = true := by decide
  have h := Keeps.refl [.regs, .mem, .host, .stp, .flt, .out] s
  unfold execBandwidthStep at e
  replace e := Host.Outcome.next.inj e
  subst e
  split
  · exact h
  · refine keeps_ite (P := fun z => Keeps [.regs, .mem, .host, .stp, .flt, .out] s z) ?_ ?_
    · extract_lets -merge -underBinder x0 x1 x2
      have hx2 : Keeps [.regs, .mem, .host, .stp, .flt, .out] s x2 := by
        subst x2
        refine keeps_ite (P := fun z => Keeps [.regs, .mem, .host, .stp, .flt, .out] s z) ?_ ?_
        · exact (State.raise_keeps (State.wr_keeps h (covers_trans (by decide) hm) _ _ _ _) (covers_trans (by decide) hm) _ _)
        · exact h
      try clear_value x2
      refine (State.showStp_keeps ?_ (covers_trans (by decide) hm))
      refine keeps_ite (P := fun z => Keeps [.regs, .mem, .host, .stp, .flt, .out] s z) ?_ ?_
      · exact (State.stpGo_keeps hx2 (covers_trans (by decide) hm) _)
      · exact hx2
    · exact h

theorem execLockLoss_keeps : ∀ t, execLockLoss s = .next t →
    Keeps [.regs, .mem, .host, .stp, .flt, .out] s t := by
  intro t e
  have hm : covers [.regs, .mem, .host, .stp, .flt, .out] [.regs, .mem, .host, .stp, .flt, .out] = true := by decide
  have h := Keeps.refl [.regs, .mem, .host, .stp, .flt, .out] s
  unfold execLockLoss at e
  replace e := Host.Outcome.next.inj e
  subst e
  split
  · exact h
  · refine keeps_ite (P := fun z => Keeps [.regs, .mem, .host, .stp, .flt, .out] s z) ?_ ?_
    · exact (State.showStp_keeps (State.stpGo_keeps h (covers_trans (by decide) hm) _) (covers_trans (by decide) hm))
    · exact h

theorem execHoldoverExpiry_keeps : ∀ t, execHoldoverExpiry s = .next t →
    Keeps [.regs, .mem, .host, .stp, .flt, .out] s t := by
  intro t e
  have hm : covers [.regs, .mem, .host, .stp, .flt, .out] [.regs, .mem, .host, .stp, .flt, .out] = true := by decide
  have h := Keeps.refl [.regs, .mem, .host, .stp, .flt, .out] s
  unfold execHoldoverExpiry at e
  extract_lets -merge -underBinder x0 at e
  replace e := Host.Outcome.next.inj e
  subst e
  refine keeps_ite (P := fun z => Keeps [.regs, .mem, .host, .stp, .flt, .out] s z) ?_ ?_
  · exact (State.showStp_keeps (State.stpGo_keeps h (covers_trans (by decide) hm) _) (covers_trans (by decide) hm))
  · exact h

theorem execAverageSave_keeps : ∀ t, execAverageSave s = .next t →
    Keeps [.regs, .mem, .boot] s t := by
  intro t e
  have hm : covers [.regs, .mem, .boot] [.regs, .mem, .boot] = true := by decide
  have h := Keeps.refl [.regs, .mem, .boot] s
  unfold execAverageSave at e
  replace e := Host.Outcome.next.inj e
  subst e
  refine keeps_ite (P := fun z => Keeps [.regs, .mem, .boot] s z) ?_ ?_
  · exact (State.saveSettings_keeps h (covers_trans (by decide) hm) _)
  · exact h

theorem State.alignNew_keeps (h : Keeps m s0 s) (hm : covers m [.regs, .host, .stp, .out] = true) : ∀ a1, Keeps m s0 (State.alignNew s a1) := by
  intro a1
  unfold State.alignNew
  extract_lets -merge -underBinder x0 x1 x2 x3
  have hx3 : Keeps m s0 x3 := (keeps_stp h (covers_trans (by decide) hm))
  try clear_value x3
  refine keeps_foldl (P := fun z => Keeps m s0 z) ?_ fun _ _ h4 => ?_
  · exact hx3
  · split
    · exact h4
    · refine keeps_ite (P := fun z => Keeps m s0 z) ?_ ?_
      · exact h4
      · extract_lets -merge -underBinder x5
        exact (State.checkAligned_keeps (State.setOutEdge_keeps h4 (covers_trans (by decide) hm) _ _) (covers_trans (by decide) hm) _)

theorem State.ptpRole_keeps (h : Keeps m s0 s) (hm : covers m [.regs, .stp] = true) : Keeps m s0 (State.ptpRole s) := by
  unfold State.ptpRole
  extract_lets -merge -underBinder x0
  refine keeps_foldl (P := fun z => Keeps m s0 z) ?_ fun _ _ h1 => ?_
  · exact h
  · extract_lets -merge -underBinder x2 x3 x4
    have hx3 : Keeps m s0 x3 := (State.setPtpState_keeps h1 (covers_trans (by decide) hm) _ _)
    have hx4 : Keeps m s0 x4 := (State.setPtp_keeps hx3 (covers_trans (by decide) hm) _ _)
    try clear_value x4
    try clear_value x3
    refine keeps_ite (P := fun z => Keeps m s0 z) ?_ ?_
    · exact (State.losePresence_keeps hx4 (covers_trans (by decide) hm) _)
    · exact hx4

theorem State.emitDac_keeps (h : Keeps m s0 s) (hm : covers m [.out] = true) : ∀ a1 a2, Keeps m s0 (State.emitDac s a1 a2) := by
  intro a1 a2
  unfold State.emitDac
  extract_lets -merge -underBinder x0
  exact (State.emit_keeps h (covers_trans (by decide) hm) _)

theorem State.outDac_keeps (h : Keeps m s0 s) (hm : covers m [.regs, .out] = true) : ∀ a1 a2, Keeps m s0 (State.outDac s a1 a2) := by
  intro a1 a2
  unfold State.outDac
  exact (State.emitDac_keeps (State.wr_keeps h (covers_trans (by decide) hm) _ _ _ _) (covers_trans (by decide) hm) _ _)

theorem State.gainDown_keeps (h : Keeps m s0 s) (hm : covers m [.regs, .stp, .out] = true) : ∀ a1 a2, Keeps m s0 (State.gainDown s a1 a2) := by
  intro a1 a2
  unfold State.gainDown
  exact (State.outDac_keeps (State.setDac_keeps h (covers_trans (by decide) hm) _ _) (covers_trans (by decide) hm) _ _)

theorem State.dacRange_keeps (h : Keeps m s0 s) (hm : covers m [.regs, .stp, .out] = true) : ∀ a1 a2 a3, Keeps m s0 (State.dacRange s a1 a2 a3) := by
  intro a1 a2 a3
  unfold State.dacRange
  extract_lets -merge -underBinder x0 x1 x2 x3 x4
  have hx3 : Keeps m s0 x3 := by
    subst x3
    dsimp -zeta only [x2]
    exact (State.setDac_keeps h (covers_trans (by decide) hm) _ _)
  try clear_value x3
  refine keeps_ite (P := fun z => Keeps m s0 z) ?_ ?_
  · refine keeps_ite (P := fun z => Keeps m s0 z) ?_ ?_
    · dsimp -zeta only [x2]
      exact (State.setDac_keeps h (covers_trans (by decide) hm) _ _)
    · dsimp -zeta only [x2]
      exact (State.setDac_keeps h (covers_trans (by decide) hm) _ _)
  · refine keeps_ite (P := fun z => Keeps m s0 z) ?_ ?_
    · dsimp -zeta only [x2]
      exact (State.setDac_keeps h (covers_trans (by decide) hm) _ _)
    · refine keeps_ite (P := fun z => Keeps m s0 z) ?_ ?_
      · refine (State.outDac_keeps ?_ (covers_trans (by decide) hm) _ _)
        dsimp -zeta only [x2]
        exact (State.setDac_keeps h (covers_trans (by decide) hm) _ _)
      · refine keeps_ite (P := fun z => Keeps m s0 z) ?_ ?_
        · exact (State.setDac_keeps hx3 (covers_trans (by decide) hm) _ _)
        · exact (State.gainDown_keeps hx3 (covers_trans (by decide) hm) _ _)

theorem State.dacChange_keeps (h : Keeps m s0 s) (hm : covers m [.regs, .stp, .out] = true) : ∀ a1 a2, Keeps m s0 (State.dacChange s a1 a2) := by
  intro a1 a2
  unfold State.dacChange
  extract_lets -merge -underBinder x0 x1 x2 x3 x4 x5 x6 x7 x8 x9 x10
  have hx8 : Keeps m s0 x8 := (State.wr_keeps h (covers_trans (by decide) hm) _ _ _ _)
  have hx10 : Keeps m s0 x10 := (State.dacRange_keeps hx8 (covers_trans (by decide) hm) _ _ _)
  try clear_value x10
  try clear_value x8
  refine keeps_ite (P := fun z => Keeps m s0 z) ?_ ?_
  · exact (State.wr_keeps (State.setDac_keeps hx8 (covers_trans (by decide) hm) _ _) (covers_trans (by decide) hm) _ _ _ _)
  · refine keeps_ite (P := fun z => Keeps m s0 z) ?_ ?_
    · exact (State.outDac_keeps (State.wr_keeps (State.setDac_keeps hx8 (covers_trans (by decide) hm) _ _) (covers_trans (by decide) hm) _ _ _ _) (covers_trans (by decide) hm) _ _)
    · refine keeps_ite (P := fun z => Keeps m s0 z) ?_ ?_
      · exact hx10
      · exact (State.emitDac_keeps hx10 (covers_trans (by decide) hm) _ _)

theorem State.applySteeple_keeps (h : Keeps m s0 s) (hm : covers m [.regs, .live, .pend, .host, .stp, .out] = true) : ∀ a1, Keeps m s0 (State.applySteeple s a1) := by
  intro a1
  unfold State.applySteeple
  extract_lets -merge -underBinder x0 x1 x2 x3 x4
  have hx1 : Keeps m s0 x1 := (State.enforce_keeps h (covers_trans (by decide) hm) _)
  have hx2 : Keeps m s0 x2 := by
    subst x2
    refine keeps_ite (P := fun z => Keeps m s0 z) ?_ ?_
    · exact (State.losePresence_keeps hx1 (covers_trans (by decide) hm) _)
    · exact hx1
  have hx3 : Keeps m s0 x3 := (State.alignNew_keeps hx1 (covers_trans (by decide) hm) _)
  try clear_value x3
  try clear_value x2
  try clear_value x1
  refine keeps_ite (P := fun z => Keeps m s0 z) ?_ ?_
  · exact (State.endPend_keeps h (covers_trans (by decide) hm) _ _)
  · refine keeps_ite (P := fun z => Keeps m s0 z) ?_ ?_
    · refine (State.showStp_keeps ?_ (covers_trans (by decide) hm))
      refine keeps_ite (P := fun z => Keeps m s0 z) ?_ ?_
      · exact hx2
      · exact (State.ptpRole_keeps hx2 (covers_trans (by decide) hm))
    · refine keeps_ite (P := fun z => Keeps m s0 z) ?_ ?_
      · refine keeps_ite (P := fun z => Keeps m s0 z) ?_ ?_
        · exact (State.showStp_keeps (State.bump_keeps (State.jumpTime_keeps hx3 (covers_trans (by decide) hm) _) (covers_trans (by decide) hm) _ _ _ _) (covers_trans (by decide) hm))
        · exact (State.showStp_keeps hx3 (covers_trans (by decide) hm))
      · refine keeps_ite (P := fun z => Keeps m s0 z) ?_ ?_
        · exact (State.alignNew_keeps hx1 (covers_trans (by decide) hm) _)
        · refine keeps_ite (P := fun z => Keeps m s0 z) ?_ ?_
          · refine keeps_foldl (P := fun z => Keeps m s0 z) ?_ fun _ _ h5 => ?_
            · exact hx1
            · exact (State.dacChange_keeps h5 (covers_trans (by decide) hm) _ _)
          · exact hx1

theorem State.candEdge_keeps (h : Keeps m s0 s) (hm : covers m [.regs, .stp] = true) : ∀ a1 a2, Keeps m s0 (State.candEdge s a1 a2) := by
  intro a1 a2
  unfold State.candEdge
  extract_lets -merge -underBinder x0 x1 x2 x3 x4 x5 x6 x7 x8
  have hx8 : Keeps m s0 x8 := (State.setCand_keeps h (covers_trans (by decide) hm) _ _)
  try clear_value x8
  refine keeps_ite (P := fun z => Keeps m s0 z) ?_ ?_
  · exact hx8
  · refine keeps_ite (P := fun z => Keeps m s0 z) ?_ ?_
    · exact (State.gainPresence_keeps hx8 (covers_trans (by decide) hm) _)
    · refine keeps_ite (P := fun z => Keeps m s0 z) ?_ ?_
      · exact (State.losePresence_keeps hx8 (covers_trans (by decide) hm) _)
      · exact hx8

theorem State.pushCapture_keeps (h : Keeps m s0 s) (hm : covers m [.regs, .host, .stp, .out] = true) : ∀ a1, Keeps m s0 (State.pushCapture s a1) := by
  intro a1
  unfold State.pushCapture
  refine keeps_ite (P := fun z => Keeps m s0 z) ?_ ?_
  · exact (State.raise_keeps (State.bump_keeps h (covers_trans (by decide) hm) _ _ _ _) (covers_trans (by decide) hm) _ _)
  · extract_lets -merge -underBinder x0 x1
    have hx1 : Keeps m s0 x1 := (keeps_stp h (covers_trans (by decide) hm))
    try clear_value x1
    exact (State.raise_keeps (State.wr_keeps hx1 (covers_trans (by decide) hm) _ _ _ _) (covers_trans (by decide) hm) _ _)

theorem State.gpioEdge_keeps (h : Keeps m s0 s) (hm : covers m [.regs, .host, .out] = true) : ∀ a1 a2, Keeps m s0 (State.gpioEdge s a1 a2) := by
  intro a1 a2
  unfold State.gpioEdge
  extract_lets -merge -underBinder x0
  have hx0 : Keeps m s0 x0 := (State.wr_keeps h (covers_trans (by decide) hm) _ _ _ _)
  try clear_value x0
  refine keeps_ite (P := fun z => Keeps m s0 z) ?_ ?_
  · exact (State.raise_keeps hx0 (covers_trans (by decide) hm) _ _)
  · exact hx0

theorem execEdgeCapture_keeps : ∀ a0 a1 a2 t, execEdgeCapture a0 a1 a2 s = .next t →
    Keeps [.regs, .scn, .host, .stp, .out] s t := by
  intro a0 a1 a2 t e
  have hm : covers [.regs, .scn, .host, .stp, .out] [.regs, .scn, .host, .stp, .out] = true := by decide
  have h := Keeps.refl [.regs, .scn, .host, .stp, .out] s
  unfold execEdgeCapture at e
  replace e := Host.Outcome.next.inj e
  subst e
  refine keeps_ite (P := fun z => Keeps [.regs, .scn, .host, .stp, .out] s z) ?_ ?_
  · exact h
  · extract_lets -merge -underBinder x0 x1 x2 x3 x4 x5 x6 x7 x8 x9
    have hx1 : Keeps [.regs, .scn, .host, .stp, .out] s x1 := by
      subst x1
      refine keeps_ite (P := fun z => Keeps [.regs, .scn, .host, .stp, .out] s z) ?_ ?_
      · exact (State.gpioEdge_keeps h (covers_trans (by decide) hm) _ _)
      · exact h
    have hx2 : Keeps [.regs, .scn, .host, .stp, .out] s x2 := by
      subst x2
      refine keeps_ite (P := fun z => Keeps [.regs, .scn, .host, .stp, .out] s z) ?_ ?_
      · exact (State.gpioCue_keeps hx1 (covers_trans (by decide) hm) _ _ _)
      · exact hx1
    have hx3 : Keeps [.regs, .scn, .host, .stp, .out] s x3 := by
      subst x3
      split
      · exact (State.candEdge_keeps hx2 (covers_trans (by decide) hm) _ _)
      · exact hx2
    have hx9 : Keeps [.regs, .scn, .host, .stp, .out] s x9 := (keeps_stp hx3 (covers_trans (by decide) hm))
    try clear_value x9
    try clear_value x3
    try clear_value x2
    try clear_value x1
    refine keeps_ite (P := fun z => Keeps [.regs, .scn, .host, .stp, .out] s z) ?_ ?_
    · exact hx1
    · refine keeps_ite (P := fun z => Keeps [.regs, .scn, .host, .stp, .out] s z) ?_ ?_
      · refine keeps_ite (P := fun z => Keeps [.regs, .scn, .host, .stp, .out] s z) ?_ ?_
        · exact (State.pushCapture_keeps hx9 (covers_trans (by decide) hm) _)
        · exact hx9
      · exact hx3

theorem execEdgInfoRead_keeps : ∀ a0 t, execEdgInfoRead a0 s = .next t →
    Keeps [.regs, .stp, .resp] s t := by
  intro a0 t e
  have hm : covers [.regs, .stp, .resp] [.regs, .stp, .resp] = true := by decide
  have h := Keeps.refl [.regs, .stp, .resp] s
  unfold execEdgInfoRead at e
  replace e := Host.Outcome.next.inj e
  subst e
  refine keeps_ite (P := fun z => Keeps [.regs, .stp, .resp] s z) ?_ ?_
  · exact h
  · split
    · exact (State.respond_keeps h (covers_trans (by decide) hm) _ _ _)
    · extract_lets -merge -underBinder x0 x1 x2
      have hx1 : Keeps [.regs, .stp, .resp] s x1 := (keeps_stp h (covers_trans (by decide) hm))
      have hx2 : Keeps [.regs, .stp, .resp] s x2 := (State.wr_keeps (State.wr_keeps (State.wr_keeps (State.wr_keeps (State.wr_keeps hx1 (covers_trans (by decide) hm) _ _ _ _) (covers_trans (by decide) hm) _ _ _ _) (covers_trans (by decide) hm) _ _ _ _) (covers_trans (by decide) hm) _ _ _ _) (covers_trans (by decide) hm) _ _ _ _)
      try clear_value x2
      try clear_value x1
      exact (State.respond_keeps hx2 (covers_trans (by decide) hm) _ _ _)

theorem execLtcFrame_keeps : ∀ a0 t, execLtcFrame a0 s = .next t →
    Keeps [.regs, .host, .stp, .out] s t := by
  intro a0 t e
  have hm : covers [.regs, .host, .stp, .out] [.regs, .host, .stp, .out] = true := by decide
  have h := Keeps.refl [.regs, .host, .stp, .out] s
  unfold execLtcFrame at e
  replace e := Host.Outcome.next.inj e
  subst e
  refine keeps_ite (P := fun z => Keeps [.regs, .host, .stp, .out] s z) ?_ ?_
  · exact h
  · refine keeps_ite (P := fun z => Keeps [.regs, .host, .stp, .out] s z) ?_ ?_
    · exact (State.bump_keeps (keeps_stp h (covers_trans (by decide) hm)) (covers_trans (by decide) hm) _ _ _ _)
    · extract_lets -merge -underBinder x0 x1 x2 x3 x4 x5 x6 x7
      have hx2 : Keeps [.regs, .host, .stp, .out] s x2 := (keeps_stp h (covers_trans (by decide) hm))
      have hx5 : Keeps [.regs, .host, .stp, .out] s x5 := by
        subst x5
        refine keeps_ite (P := fun z => Keeps [.regs, .host, .stp, .out] s z) ?_ ?_
        · exact hx2
        · exact (State.raise_keeps (State.wr_keeps hx2 (covers_trans (by decide) hm) _ _ _ _) (covers_trans (by decide) hm) _ _)
      have hx6 : Keeps [.regs, .host, .stp, .out] s x6 := (State.wr_keeps (State.wr_keeps hx5 (covers_trans (by decide) hm) _ _ _ _) (covers_trans (by decide) hm) _ _ _ _)
      try clear_value x6
      try clear_value x5
      try clear_value x2
      refine keeps_ite (P := fun z => Keeps [.regs, .host, .stp, .out] s z) ?_ ?_
      · exact hx2
      · exact (State.raise_keeps (State.setReg_keeps (keeps_stp hx6 (covers_trans (by decide) hm)) (covers_trans (by decide) hm) _ _) (covers_trans (by decide) hm) _ _)

theorem execLtcLost_keeps : ∀ t, execLtcLost s = .next t →
    Keeps [.regs, .host, .stp, .out] s t := by
  intro t e
  have hm : covers [.regs, .host, .stp, .out] [.regs, .host, .stp, .out] = true := by decide
  have h := Keeps.refl [.regs, .host, .stp, .out] s
  unfold execLtcLost at e
  replace e := Host.Outcome.next.inj e
  subst e
  refine keeps_ite (P := fun z => Keeps [.regs, .host, .stp, .out] s z) ?_ ?_
  · exact (State.raise_keeps (State.wr_keeps (keeps_stp h (covers_trans (by decide) hm)) (covers_trans (by decide) hm) _ _ _ _) (covers_trans (by decide) hm) _ _)
  · exact h

theorem execLtcInTimeRead_keeps : ∀ a0 t, execLtcInTimeRead a0 s = .next t →
    Keeps [.regs, .resp] s t := by
  intro a0 t e
  have hm : covers [.regs, .resp] [.regs, .resp] = true := by decide
  have h := Keeps.refl [.regs, .resp] s
  unfold execLtcInTimeRead at e
  extract_lets -merge -underBinder x0 at e
  replace e := Host.Outcome.next.inj e
  subst e
  refine keeps_ite (P := fun z => Keeps [.regs, .resp] s z) ?_ ?_
  · exact h
  · split
    · exact (State.respond_keeps h (covers_trans (by decide) hm) _ _ _)
    · exact (State.respond_keeps (State.wr_keeps (State.wr_keeps (State.wr_keeps (State.wr_keeps h (covers_trans (by decide) hm) _ _ _ _) (covers_trans (by decide) hm) _ _ _ _) (covers_trans (by decide) hm) _ _ _ _) (covers_trans (by decide) hm) _ _ _ _) (covers_trans (by decide) hm) _ _ _)

theorem execTbsNowNsRead_keeps : ∀ a0 t, execTbsNowNsRead a0 s = .next t →
    Keeps [.host, .resp] s t := by
  intro a0 t e
  have hm : covers [.host, .resp] [.host, .resp] = true := by decide
  have h := Keeps.refl [.host, .resp] s
  unfold execTbsNowNsRead at e
  extract_lets -merge -underBinder x0 x1 x2 at e
  have hx2 : Keeps [.host, .resp] s x2 := (keeps_host h (covers_trans (by decide) hm))
  try clear_value x2
  replace e := Host.Outcome.next.inj e
  subst e
  refine keeps_ite (P := fun z => Keeps [.host, .resp] s z) ?_ ?_
  · exact h
  · exact (State.respond_keeps hx2 (covers_trans (by decide) hm) _ _ _)

theorem execDacSlewStep_keeps : ∀ a0 t, execDacSlewStep a0 s = .next t →
    Keeps [.regs, .host, .stp, .out] s t := by
  intro a0 t e
  have hm : covers [.regs, .host, .stp, .out] [.regs, .host, .stp, .out] = true := by decide
  have h := Keeps.refl [.regs, .host, .stp, .out] s
  unfold execDacSlewStep at e
  extract_lets -merge -underBinder x0 x1 x2 x3 x4 at e
  replace e := Host.Outcome.next.inj e
  subst e
  refine keeps_ite (P := fun z => Keeps [.regs, .host, .stp, .out] s z) ?_ ?_
  · exact h
  · refine keeps_ite (P := fun z => Keeps [.regs, .host, .stp, .out] s z) ?_ ?_
    · exact (State.raise_keeps (State.wr_keeps (State.gainDown_keeps h (covers_trans (by decide) hm) _ _) (covers_trans (by decide) hm) _ _ _ _) (covers_trans (by decide) hm) _ _)
    · refine keeps_ite (P := fun z => Keeps [.regs, .host, .stp, .out] s z) ?_ ?_
      · exact h
      · exact (State.outDac_keeps h (covers_trans (by decide) hm) _ _)

theorem execDacOverload_keeps : ∀ a0 t, execDacOverload a0 s = .next t →
    Keeps [.regs, .host, .out] s t := by
  intro a0 t e
  have hm : covers [.regs, .host, .out] [.regs, .host, .out] = true := by decide
  have h := Keeps.refl [.regs, .host, .out] s
  unfold execDacOverload at e
  replace e := Host.Outcome.next.inj e
  subst e
  refine keeps_ite (P := fun z => Keeps [.regs, .host, .out] s z) ?_ ?_
  · exact (State.raise_keeps (State.wr_keeps h (covers_trans (by decide) hm) _ _ _ _) (covers_trans (by decide) hm) _ _)
  · exact h

end Sys2Proof.Machine
end

