-- ==== Sys2Proof/Laws/KeepsNeighbour.lean ====
section
/-! SUPPORT. What each function of Machine/Neighbour.lean keeps: the parts of the state it can change, the canonical form of the stores,
the order of free values and outputs. One lemma per function, assembled from those of the functions it calls. -/
namespace Sys2Proof.Machine

variable {m : List Part} {s0 s : State}

theorem State.setRole_keeps (h : Keeps m s0 s) (hm : covers m [.regs] = true) : ∀ a1, Keeps m s0 (State.setRole s a1) := by
  intro a1
  unfold State.setRole
  exact (State.wr_keeps (State.wr_keeps h (covers_trans (by decide) hm) _ _ _ _) (covers_trans (by decide) hm) _ _ _ _)

theorem State.setCond_keeps (h : Keeps m s0 s) (hm : covers m [.regs, .mem, .host, .nbr, .flt, .out] = true) : ∀ a1 a2, Keeps m s0 (State.setCond s a1 a2) := by
  intro a1 a2
  unfold State.setCond
  refine keeps_ite (P := fun z => Keeps m s0 z) ?_ ?_
  · exact h
  · extract_lets -merge -underBinder x0 x1 x2 x3 x4 x5
    have hx0 : Keeps m s0 x0 := (State.rollHw_keeps (State.raise_keeps (State.wr_keeps h (covers_trans (by decide) hm) _ _ _ _) (covers_trans (by decide) hm) _ _) (covers_trans (by decide) hm) _ _ _ _)
    have hx1 : Keeps m s0 x1 := (State.bump_keeps (State.wr_keeps hx0 (covers_trans (by decide) hm) _ _ _ _) (covers_trans (by decide) hm) _ _ _ _)
    try clear_value x1
    try clear_value x0
    refine keeps_ite (P := fun z => Keeps m s0 z) ?_ ?_
    · exact (keeps_nbr hx1 (covers_trans (by decide) hm))
    · refine keeps_ite (P := fun z => Keeps m s0 z) ?_ ?_
      · exact (State.wr_keeps (State.wr_keeps (keeps_nbr hx0 (covers_trans (by decide) hm)) (covers_trans (by decide) hm) _ _ _ _) (covers_trans (by decide) hm) _ _ _ _)
      · refine keeps_ite (P := fun z => Keeps m s0 z) ?_ ?_
        · exact (keeps_nbr hx0 (covers_trans (by decide) hm))
        · refine keeps_ite (P := fun z => Keeps m s0 z) ?_ ?_
          · exact (keeps_nbr hx0 (covers_trans (by decide) hm))
          · exact hx0

theorem State.diverge_keeps (h : Keeps m s0 s) (hm : covers m [.regs, .mem, .host, .nbr, .flt, .out] = true) : ∀ a1 a2, Keeps m s0 (State.diverge s a1 a2) := by
  intro a1 a2
  unfold State.diverge
  refine keeps_ite (P := fun z => Keeps m s0 z) ?_ ?_
  · refine State.when_keeps (State.setCond_keeps h (covers_trans (by decide) hm) _ _) _ _ fun _ h0 => ?_
    exact (State.wr_keeps h0 (covers_trans (by decide) hm) _ _ _ _)
  · exact h

theorem State.tryCopy_keeps (h : Keeps m s0 s) (hm : covers m [.regs, .mem, .host, .nbr, .flt, .out] = true) : Keeps m s0 (State.tryCopy s) := by
  unfold State.tryCopy
  refine keeps_ite (P := fun z => Keeps m s0 z) ?_ ?_
  · exact h
  · split
    · exact h
    · refine keeps_ite (P := fun z => Keeps m s0 z) ?_ ?_
      · exact (State.wr_keeps h (covers_trans (by decide) hm) _ _ _ _)
      · refine keeps_ite (P := fun z => Keeps m s0 z) ?_ ?_
        · exact (State.setCond_keeps h (covers_trans (by decide) hm) _ _)
        · exact h

theorem State.demote_keeps (h : Keeps m s0 s) (hm : covers m [.regs, .mem, .host, .nbr, .flt, .out] = true) : Keeps m s0 (State.demote s) := by
  unfold State.demote
  extract_lets -merge -underBinder x0 x1
  have hx0 : Keeps m s0 x0 := (State.raise_keeps (State.wr_keeps (State.setRole_keeps h (covers_trans (by decide) hm) _) (covers_trans (by decide) hm) _ _ _ _) (covers_trans (by decide) hm) _ _)
  try clear_value x0
  exact (State.wr_keeps (State.setCond_keeps (keeps_nbr hx0 (covers_trans (by decide) hm)) (covers_trans (by decide) hm) _ _) (covers_trans (by decide) hm) _ _ _ _)

theorem State.storeRecs_keeps (h : Keeps m s0 s) (hm : covers m [.mem] = true) : ∀ a1, Keeps m s0 (State.storeRecs s a1) := by
  intro a1
  unfold State.storeRecs
  refine keeps_foldl (P := fun z => Keeps m s0 z) ?_ fun _ _ h0 => ?_
  · exact h
  · refine keeps_foldl (P := fun z => Keeps m s0 z) ?_ fun _ _ h1 => ?_
    · exact h0
    · refine keeps_ite (P := fun z => Keeps m s0 z) ?_ ?_
      · exact (State.setByte_keeps h1 (covers_trans (by decide) hm) _ _)
      · exact h1

/-- A frame taken in order keeps what its action keeps, outside the link. -/
theorem State.nbrRecv_keeps (h : Keeps m s0 s) (hm : covers m [.nbr, .out] = true) : ∀ seq (act : State → State),
    (∀ t, Keeps m s0 t → Keeps m s0 (act t)) → Keeps m s0 (s.nbrRecv seq act) := by
  intro seq act ha
  unfold State.nbrRecv
  refine keeps_ite (P := fun z => Keeps m s0 z) ?_ h
  exact State.emitDreba_keeps (ha _ (keeps_nbr h (covers_trans (by decide) hm))) (covers_trans (by decide) hm) _ _ _

theorem execTimeFrame_keeps : ∀ a0 a1 a2 a3 t, execTimeFrame a0 a1 a2 a3 s = .next t →
    Keeps [.regs, .mem, .host, .stp, .nbr, .flt, .out] s t := by
  intro a0 a1 a2 a3 t e
  have hm : covers [.regs, .mem, .host, .stp, .nbr, .flt, .out] [.regs, .mem, .host, .stp, .nbr, .flt, .out] = true := by decide
  have h := Keeps.refl [.regs, .mem, .host, .stp, .nbr, .flt, .out] s
  unfold execTimeFrame at e
  replace e := Host.Outcome.next.inj e
  subst e
  try unfold State.nbrRecv
  refine keeps_ite (P := fun z => Keeps [.regs, .mem, .host, .stp, .nbr, .flt, .out] s z) ?_ ?_
  · extract_lets -merge -underBinder x0 x1
    have hx1 : Keeps [.regs, .mem, .host, .stp, .nbr, .flt, .out] s x1 := (keeps_nbr h (covers_trans (by decide) hm))
    try clear_value x1
    refine (State.emit_keeps ?_ (covers_trans (by decide) hm) _)
    try dsimp -zeta only
    extract_lets -merge -underBinder x2 x3 x4 x5 x6 x7 x8 x9
    have hx2 : Keeps [.regs, .mem, .host, .stp, .nbr, .flt, .out] s x2 := (State.wr_keeps hx1 (covers_trans (by decide) hm) _ _ _ _)
    have hx5 : Keeps [.regs, .mem, .host, .stp, .nbr, .flt, .out] s x5 := (State.stepTime_keeps hx2 (covers_trans (by decide) hm) _)
    have hx7 : Keeps [.regs, .mem, .host, .stp, .nbr, .flt, .out] s x7 := (keeps_stp hx5 (covers_trans (by decide) hm))
    try clear_value x7
    try clear_value x5
    try clear_value x2
    refine keeps_ite (P := fun z => Keeps [.regs, .mem, .host, .stp, .nbr, .flt, .out] s z) ?_ ?_
    · exact hx2
    · refine keeps_ite (P := fun z => Keeps [.regs, .mem, .host, .stp, .nbr, .flt, .out] s z) ?_ ?_
      · exact (State.showStp_keeps (State.stpGo_keeps (State.wr_keeps (State.wr_keeps (State.setCand_keeps hx7 (covers_trans (by decide) hm) _ _) (covers_trans (by decide) hm) _ _ _ _) (covers_trans (by decide) hm) _ _ _ _) (covers_trans (by decide) hm) _) (covers_trans (by decide) hm))
      · exact (State.setCand_keeps hx2 (covers_trans (by decide) hm) _ _)
  · exact h

theorem execHotFrame_keeps : ∀ a0 a1 a2 a3 t, execHotFrame a0 a1 a2 a3 s = .next t →
    Keeps [.regs, .mem, .host, .nbr, .flt, .out] s t := by
  intro a0 a1 a2 a3 t e
  have hm : covers [.regs, .mem, .host, .nbr, .flt, .out] [.regs, .mem, .host, .nbr, .flt, .out] = true := by decide
  have h := Keeps.refl [.regs, .mem, .host, .nbr, .flt, .out] s
  unfold execHotFrame at e
  replace e := Host.Outcome.next.inj e
  subst e
  refine State.nbrRecv_keeps h (covers_trans (by decide) hm) _ _ fun _ h0 => ?_
  refine keeps_ite (P := fun z => Keeps [.regs, .mem, .host, .nbr, .flt, .out] s z) ?_ ?_
  · exact h0
  · extract_lets -merge -underBinder x1 x2 x3 x4 x5
    have hx4 : Keeps [.regs, .mem, .host, .nbr, .flt, .out] s x4 := (keeps_nbr h0 (covers_trans (by decide) hm))
    have hx5 : Keeps [.regs, .mem, .host, .nbr, .flt, .out] s x5 := by
      subst x5
      refine keeps_ite (P := fun z => Keeps [.regs, .mem, .host, .nbr, .flt, .out] s z) ?_ ?_
      · exact (State.storeRecs_keeps hx4 (covers_trans (by decide) hm) _)
      · exact hx4
    try clear_value x5
    try clear_value x4
    refine keeps_ite (P := fun z => Keeps [.regs, .mem, .host, .nbr, .flt, .out] s z) ?_ ?_
    · exact (State.diverge_keeps hx5 (covers_trans (by decide) hm) _ _)
    · exact hx5

theorem execLongFrame_keeps : ∀ a0 a1 a2 t, execLongFrame a0 a1 a2 s = .next t →
    Keeps [.mem, .nbr, .out] s t := by
  intro a0 a1 a2 t e
  have hm : covers [.mem, .nbr, .out] [.mem, .nbr, .out] = true := by decide
  have h := Keeps.refl [.mem, .nbr, .out] s
  unfold execLongFrame at e
  replace e := Host.Outcome.next.inj e
  subst e
  try unfold State.nbrRecv
  refine keeps_ite (P := fun z => Keeps [.mem, .nbr, .out] s z) ?_ ?_
  · extract_lets -merge -underBinder x0 x1
    have hx1 : Keeps [.mem, .nbr, .out] s x1 := (keeps_nbr h (covers_trans (by decide) hm))
    try clear_value x1
    refine (State.emit_keeps ?_ (covers_trans (by decide) hm) _)
    try dsimp -zeta only
    refine keeps_ite (P := fun z => Keeps [.mem, .nbr, .out] s z) ?_ ?_
    · exact (State.storeRecs_keeps hx1 (covers_trans (by decide) hm) _)
    · exact hx1
  · exact h

theorem State.bankItem_keeps (h : Keeps m s0 s) (hm : covers m [.regs, .mem, .xrd, .scn, .host, .nbr, .memx, .flt, .out] = true) : ∀ a1 a2 a3, Keeps m s0 (State.bankItem s a1 a2 a3) := by
  intro a1 a2 a3
  unfold State.bankItem
  extract_lets -merge -underBinder x0 x1 x2
  have hx2 : Keeps m s0 x2 := (State.granaryStore_keeps h (covers_trans (by decide) hm) _ _)
  try clear_value x2
  refine keeps_ite (P := fun z => Keeps m s0 z) ?_ ?_
  · exact (keeps_nbr h (covers_trans (by decide) hm))
  · refine keeps_ite (P := fun z => Keeps m s0 z) ?_ ?_
    · exact hx2
    · refine keeps_ite (P := fun z => Keeps m s0 z) ?_ ?_
      · exact (State.looseInForce_keeps hx2 (covers_trans (by decide) hm) _)
      · exact (State.diverge_keeps hx2 (covers_trans (by decide) hm) _ _)

theorem execBankFrame_keeps : ∀ a0 a1 a2 a3 t, execBankFrame a0 a1 a2 a3 s = .next t →
    Keeps [.regs, .mem, .xrd, .scn, .host, .nbr, .memx, .flt, .out] s t := by
  intro a0 a1 a2 a3 t e
  have hm : covers [.regs, .mem, .xrd, .scn, .host, .nbr, .memx, .flt, .out] [.regs, .mem, .xrd, .scn, .host, .nbr, .memx, .flt, .out] = true := by decide
  have h := Keeps.refl [.regs, .mem, .xrd, .scn, .host, .nbr, .memx, .flt, .out] s
  unfold execBankFrame at e
  replace e := Host.Outcome.next.inj e
  subst e
  try unfold State.nbrRecv
  refine keeps_ite (P := fun z => Keeps [.regs, .mem, .xrd, .scn, .host, .nbr, .memx, .flt, .out] s z) ?_ ?_
  · extract_lets -merge -underBinder x0 x1
    have hx1 : Keeps [.regs, .mem, .xrd, .scn, .host, .nbr, .memx, .flt, .out] s x1 := (keeps_nbr h (covers_trans (by decide) hm))
    try clear_value x1
    refine (State.emit_keeps ?_ (covers_trans (by decide) hm) _)
    try dsimp -zeta only
    refine keeps_ite (P := fun z => Keeps [.regs, .mem, .xrd, .scn, .host, .nbr, .memx, .flt, .out] s z) ?_ ?_
    · exact (State.bankItem_keeps hx1 (covers_trans (by decide) hm) _ _ _)
    · exact hx1
  · exact h

theorem execChunkFrame_keeps : ∀ a0 a1 a2 t, execChunkFrame a0 a1 a2 s = .next t →
    Keeps [.regs, .mem, .nbr, .out] s t := by
  intro a0 a1 a2 t e
  have hm : covers [.regs, .mem, .nbr, .out] [.regs, .mem, .nbr, .out] = true := by decide
  have h := Keeps.refl [.regs, .mem, .nbr, .out] s
  unfold execChunkFrame at e
  replace e := Host.Outcome.next.inj e
  subst e
  try unfold State.nbrRecv
  refine keeps_ite (P := fun z => Keeps [.regs, .mem, .nbr, .out] s z) ?_ ?_
  · extract_lets -merge -underBinder x0 x1
    have hx1 : Keeps [.regs, .mem, .nbr, .out] s x1 := (keeps_nbr h (covers_trans (by decide) hm))
    try clear_value x1
    refine (State.emit_keeps ?_ (covers_trans (by decide) hm) _)
    try dsimp -zeta only
    refine keeps_ite (P := fun z => Keeps [.regs, .mem, .nbr, .out] s z) ?_ ?_
    · extract_lets -merge -underBinder x2
      have hx2 : Keeps [.regs, .mem, .nbr, .out] s x2 := (State.setBytes_keeps hx1 (covers_trans (by decide) hm) _ _)
      try clear_value x2
      refine keeps_ite (P := fun z => Keeps [.regs, .mem, .nbr, .out] s z) ?_ ?_
      · exact (State.bump_keeps hx2 (covers_trans (by decide) hm) _ _ _ _)
      · exact hx2
    · exact hx1
  · exact h

theorem State.checkBlock_keeps (h : Keeps m s0 s) (hm : covers m [.regs, .mem, .host, .nbr, .flt, .out] = true) : ∀ a1, Keeps m s0 (State.checkBlock s a1) := by
  intro a1
  unfold State.checkBlock
  split
  · refine keeps_ite (P := fun z => Keeps m s0 z) ?_ ?_
    · exact h
    · refine keeps_ite (P := fun z => Keeps m s0 z) ?_ ?_
      · exact (State.diverge_keeps h (covers_trans (by decide) hm) _ _)
      · refine keeps_ite (P := fun z => Keeps m s0 z) ?_ ?_
        · exact (State.diverge_keeps h (covers_trans (by decide) hm) _ _)
        · exact (keeps_nbr h (covers_trans (by decide) hm))
  · exact h

theorem State.noteTrailer_keeps (h : Keeps m s0 s) (hm : covers m [.regs, .nbr] = true) : ∀ a1, Keeps m s0 (State.noteTrailer s a1) := by
  intro a1
  unfold State.noteTrailer
  extract_lets -merge -underBinder x0 x1 x2
  exact (State.wr_keeps (keeps_nbr h (covers_trans (by decide) hm)) (covers_trans (by decide) hm) _ _ _ _)

theorem State.endDrill_keeps (h : Keeps m s0 s) (hm : covers m [.regs, .mem, .host, .nbr, .flt, .out] = true) : Keeps m s0 (State.endDrill s) := by
  unfold State.endDrill
  extract_lets -merge -underBinder x0 x1 x2
  have hx0 : Keeps m s0 x0 := (State.wr_keeps (State.setRole_keeps h (covers_trans (by decide) hm) _) (covers_trans (by decide) hm) _ _ _ _)
  try clear_value x0
  exact (State.setCond_keeps (keeps_nbr hx0 (covers_trans (by decide) hm)) (covers_trans (by decide) hm) _ _)

theorem State.dualActive_keeps (h : Keeps m s0 s) (hm : covers m [.regs, .host, .nbr, .out] = true) : ∀ a1, Keeps m s0 (State.dualActive s a1) := by
  intro a1
  unfold State.dualActive
  extract_lets -merge -underBinder x0 x1 x2 x3
  have hx2 : Keeps m s0 x2 := (State.raise_keeps h (covers_trans (by decide) hm) _ _)
  try clear_value x2
  refine keeps_ite (P := fun z => Keeps m s0 z) ?_ ?_
  · exact (keeps_nbr hx2 (covers_trans (by decide) hm))
  · exact hx2

theorem State.peerCond_keeps (h : Keeps m s0 s) (hm : covers m [.regs, .mem, .host, .nbr, .flt, .out] = true) : ∀ a1, Keeps m s0 (State.peerCond s a1) := by
  intro a1
  unfold State.peerCond
  extract_lets -merge -underBinder x0 x1
  have hx0 : Keeps m s0 x0 := (State.setCond_keeps h (covers_trans (by decide) hm) _ _)
  try clear_value x0
  refine keeps_ite (P := fun z => Keeps m s0 z) ?_ ?_
  · exact (keeps_nbr hx0 (covers_trans (by decide) hm))
  · exact hx0

theorem execTrailerFrame_keeps : ∀ a0 a1 t, execTrailerFrame a0 a1 s = .next t →
    Keeps [.regs, .mem, .host, .nbr, .flt, .out] s t := by
  intro a0 a1 t e
  have hm : covers [.regs, .mem, .host, .nbr, .flt, .out] [.regs, .mem, .host, .nbr, .flt, .out] = true := by decide
  have h := Keeps.refl [.regs, .mem, .host, .nbr, .flt, .out] s
  unfold execTrailerFrame at e
  replace e := Host.Outcome.next.inj e
  subst e
  try unfold State.nbrRecv
  refine keeps_ite (P := fun z => Keeps [.regs, .mem, .host, .nbr, .flt, .out] s z) ?_ ?_
  · extract_lets -merge -underBinder x0 x1
    have hx1 : Keeps [.regs, .mem, .host, .nbr, .flt, .out] s x1 := (keeps_nbr h (covers_trans (by decide) hm))
    try clear_value x1
    refine (State.emit_keeps ?_ (covers_trans (by decide) hm) _)
    try dsimp -zeta only
    extract_lets -merge -underBinder x2
    have hx2 : Keeps [.regs, .mem, .host, .nbr, .flt, .out] s x2 := (State.noteTrailer_keeps hx1 (covers_trans (by decide) hm) _)
    try clear_value x2
    refine keeps_ite (P := fun z => Keeps [.regs, .mem, .host, .nbr, .flt, .out] s z) ?_ ?_
    · exact (State.checkBlock_keeps hx2 (covers_trans (by decide) hm) _)
    · refine keeps_ite (P := fun z => Keeps [.regs, .mem, .host, .nbr, .flt, .out] s z) ?_ ?_
      · exact (State.peerCond_keeps hx2 (covers_trans (by decide) hm) _)
      · refine keeps_ite (P := fun z => Keeps [.regs, .mem, .host, .nbr, .flt, .out] s z) ?_ ?_
        · exact (State.endDrill_keeps hx2 (covers_trans (by decide) hm))
        · exact (State.dualActive_keeps hx2 (covers_trans (by decide) hm) _)
  · exact h

theorem execScanFrame_keeps : ∀ a0 a1 a2 t, execScanFrame a0 a1 a2 s = .next t →
    Keeps [.regs, .mem, .host, .nbr, .flt, .out] s t := by
  intro a0 a1 a2 t e
  have hm : covers [.regs, .mem, .host, .nbr, .flt, .out] [.regs, .mem, .host, .nbr, .flt, .out] = true := by decide
  have h := Keeps.refl [.regs, .mem, .host, .nbr, .flt, .out] s
  unfold execScanFrame at e
  replace e := Host.Outcome.next.inj e
  subst e
  refine State.nbrRecv_keeps h (covers_trans (by decide) hm) _ _ fun _ h0 => ?_
  refine keeps_foldl (P := fun z => Keeps [.regs, .mem, .host, .nbr, .flt, .out] s z) ?_ fun _ _ h1 => ?_
  · exact h0
  · split
    · refine keeps_ite (P := fun z => Keeps [.regs, .mem, .host, .nbr, .flt, .out] s z) ?_ ?_
      · exact h1
      · exact (State.diverge_keeps h1 (covers_trans (by decide) hm) _ _)
    · exact (State.bump_keeps h1 (covers_trans (by decide) hm) _ _ _ _)

theorem execAckFrame_keeps : ∀ a0 t, execAckFrame a0 s = .next t →
    Keeps [.nbr] s t := by
  intro a0 t e
  have hm : covers [.nbr] [.nbr] = true := by decide
  have h := Keeps.refl [.nbr] s
  unfold execAckFrame at e
  replace e := Host.Outcome.next.inj e
  subst e
  exact (keeps_nbr h (covers_trans (by decide) hm))

theorem execNakFrame_keeps : ∀ a0 t, execNakFrame a0 s = .next t →
    Keeps [.out] s t := by
  intro a0 t e
  have hm : covers [.out] [.out] = true := by decide
  have h := Keeps.refl [.out] s
  unfold execNakFrame at e
  replace e := Host.Outcome.next.inj e
  subst e
  refine keeps_foldl (P := fun z => Keeps [.out] s z) ?_ fun _ _ h0 => ?_
  · exact h
  · exact (State.emit_keeps h0 (covers_trans (by decide) hm) _)

theorem State.linkDown_keeps (h : Keeps m s0 s) (hm : covers m [.regs, .mem, .host, .stp, .nbr, .flt, .out] = true) : ∀ a1, Keeps m s0 (State.linkDown s a1) := by
  intro a1
  unfold State.linkDown
  refine keeps_ite (P := fun z => Keeps m s0 z) ?_ ?_
  · exact h
  · extract_lets -merge -underBinder x0 x1 x2 x3 x4 x5 x6
    have hx0 : Keeps m s0 x0 := by
      subst x0
      refine State.when_keeps (State.raise_keeps (State.bump_keeps (State.wr_keeps (State.wr_keeps h (covers_trans (by decide) hm) _ _ _ _) (covers_trans (by decide) hm) _ _ _ _) (covers_trans (by decide) hm) _ _ _ _) (covers_trans (by decide) hm) _ _) _ _ fun _ h7 => ?_
      exact (State.raise_keeps h7 (covers_trans (by decide) hm) _ _)
    have hx5 : Keeps m s0 x5 := (keeps_parts (l := [.stp, .nbr]) hx0 (covers_trans (by decide) hm) (by intro p hp; cases p <;> first | exact absurd hp (by decide) | rfl) rfl rfl rfl rfl rfl)
    have hx6 : Keeps m s0 x6 := (State.setCond_keeps hx5 (covers_trans (by decide) hm) _ _)
    try clear_value x6
    try clear_value x5
    try clear_value x0
    refine keeps_ite (P := fun z => Keeps m s0 z) ?_ ?_
    · exact (State.loseRef_keeps hx6 (covers_trans (by decide) hm))
    · exact hx6

theorem execDrebaCrcError_keeps : ∀ t, execDrebaCrcError s = .next t →
    Keeps [.regs, .mem, .host, .stp, .nbr, .flt, .out] s t := by
  intro t e
  have hm : covers [.regs, .mem, .host, .stp, .nbr, .flt, .out] [.regs, .mem, .host, .stp, .nbr, .flt, .out] = true := by decide
  have h := Keeps.refl [.regs, .mem, .host, .stp, .nbr, .flt, .out] s
  unfold execDrebaCrcError at e
  replace e := Host.Outcome.next.inj e
  subst e
  refine keeps_ite (P := fun z => Keeps [.regs, .mem, .host, .stp, .nbr, .flt, .out] s z) ?_ ?_
  · extract_lets -merge -underBinder x0 x1
    have hx1 : Keeps [.regs, .mem, .host, .stp, .nbr, .flt, .out] s x1 := (State.emit_keeps (State.bump_keeps (keeps_nbr h (covers_trans (by decide) hm)) (covers_trans (by decide) hm) _ _ _ _) (covers_trans (by decide) hm) _)
    try clear_value x1
    refine keeps_ite (P := fun z => Keeps [.regs, .mem, .host, .stp, .nbr, .flt, .out] s z) ?_ ?_
    · exact (State.linkDown_keeps hx1 (covers_trans (by decide) hm) _)
    · exact hx1
  · exact h

theorem State.newSession_keeps (h : Keeps m s0 s) (hm : covers m [.nbr] = true) : Keeps m s0 (State.newSession s) := by
  unfold State.newSession
  exact (State.modNbr_keeps h (covers_trans (by decide) hm) _)

theorem State.introduce_keeps (h : Keeps m s0 s) (hm : covers m [.nbr, .out] = true) : Keeps m s0 (State.introduce s) := by
  unfold State.introduce
  extract_lets -merge -underBinder x0 x1
  have hx0 : Keeps m s0 x0 := (State.nbrSend_keeps (State.nbrSend_keeps h (covers_trans (by decide) hm) _ _) (covers_trans (by decide) hm) _ _)
  have hx1 : Keeps m s0 x1 := by
    subst x1
    split
    · exact (State.nbrSend_keeps hx0 (covers_trans (by decide) hm) _ _)
    · exact hx0
  try clear_value x1
  try clear_value x0
  refine keeps_ite (P := fun z => Keeps m s0 z) ?_ ?_
  · exact (State.nbrSend_keeps hx1 (covers_trans (by decide) hm) _ _)
  · exact hx1

theorem execDrebaLinkUp_keeps : ∀ t, execDrebaLinkUp s = .next t →
    Keeps [.regs, .mem, .host, .nbr, .flt, .out] s t := by
  intro t e
  have hm : covers [.regs, .mem, .host, .nbr, .flt, .out] [.regs, .mem, .host, .nbr, .flt, .out] = true := by decide
  have h := Keeps.refl [.regs, .mem, .host, .nbr, .flt, .out] s
  unfold execDrebaLinkUp at e
  replace e := Host.Outcome.next.inj e
  subst e
  refine keeps_ite (P := fun z => Keeps [.regs, .mem, .host, .nbr, .flt, .out] s z) ?_ ?_
  · exact h
  · extract_lets -merge -underBinder x0 x1
    have hx0 : Keeps [.regs, .mem, .host, .nbr, .flt, .out] s x0 := (State.raise_keeps (State.wr_keeps (State.wr_keeps (State.wr_keeps h (covers_trans (by decide) hm) _ _ _ _) (covers_trans (by decide) hm) _ _ _ _) (covers_trans (by decide) hm) _ _ _ _) (covers_trans (by decide) hm) _ _)
    have hx1 : Keeps [.regs, .mem, .host, .nbr, .flt, .out] s x1 := (State.introduce_keeps (State.newSession_keeps hx0 (covers_trans (by decide) hm)) (covers_trans (by decide) hm))
    try clear_value x1
    try clear_value x0
    refine keeps_ite (P := fun z => Keeps [.regs, .mem, .host, .nbr, .flt, .out] s z) ?_ ?_
    · exact (State.setCond_keeps hx1 (covers_trans (by decide) hm) _ _)
    · exact hx1

theorem execDrebaLinkDown_keeps : ∀ a0 t, execDrebaLinkDown a0 s = .next t →
    Keeps [.regs, .mem, .host, .stp, .nbr, .flt, .out] s t := by
  intro a0 t e
  have hm : covers [.regs, .mem, .host, .stp, .nbr, .flt, .out] [.regs, .mem, .host, .stp, .nbr, .flt, .out] = true := by decide
  have h := Keeps.refl [.regs, .mem, .host, .stp, .nbr, .flt, .out] s
  unfold execDrebaLinkDown at e
  extract_lets -merge -underBinder x0 at e
  have hx0 : Keeps [.regs, .mem, .host, .stp, .nbr, .flt, .out] s x0 := by
    subst x0
    split
    · exact (State.wr_keeps h (covers_trans (by decide) hm) _ _ _ _)
    · exact h
  try clear_value x0
  replace e := Host.Outcome.next.inj e
  subst e
  exact (State.linkDown_keeps hx0 (covers_trans (by decide) hm) _)

theorem execTrailerTimeout_keeps : ∀ a0 t, execTrailerTimeout a0 s = .next t →
    Keeps [.regs, .mem, .host, .nbr, .flt, .out] s t := by
  intro a0 t e
  have hm : covers [.regs, .mem, .host, .nbr, .flt, .out] [.regs, .mem, .host, .nbr, .flt, .out] = true := by decide
  have h := Keeps.refl [.regs, .mem, .host, .nbr, .flt, .out] s
  unfold execTrailerTimeout at e
  replace e := Host.Outcome.next.inj e
  subst e
  refine keeps_ite (P := fun z => Keeps [.regs, .mem, .host, .nbr, .flt, .out] s z) ?_ ?_
  · exact h
  · exact (State.diverge_keeps h (covers_trans (by decide) hm) _ _)

theorem execCopyExit_keeps : ∀ t, execCopyExit s = .next t →
    Keeps [.regs, .mem, .host, .nbr, .flt, .out] s t := by
  intro t e
  have hm : covers [.regs, .mem, .host, .nbr, .flt, .out] [.regs, .mem, .host, .nbr, .flt, .out] = true := by decide
  have h := Keeps.refl [.regs, .mem, .host, .nbr, .flt, .out] s
  unfold execCopyExit at e
  extract_lets -merge -underBinder x0 at e
  replace e := Host.Outcome.next.inj e
  subst e
  refine keeps_ite (P := fun z => Keeps [.regs, .mem, .host, .nbr, .flt, .out] s z) ?_ ?_
  · exact (State.setCond_keeps h (covers_trans (by decide) hm) _ _)
  · exact h

theorem execConfirmClean_keeps : ∀ t, execConfirmClean s = .next t →
    Keeps [.regs, .mem, .host, .nbr, .flt, .out] s t := by
  intro t e
  have hm : covers [.regs, .mem, .host, .nbr, .flt, .out] [.regs, .mem, .host, .nbr, .flt, .out] = true := by decide
  have h := Keeps.refl [.regs, .mem, .host, .nbr, .flt, .out] s
  unfold execConfirmClean at e
  replace e := Host.Outcome.next.inj e
  subst e
  refine keeps_ite (P := fun z => Keeps [.regs, .mem, .host, .nbr, .flt, .out] s z) ?_ ?_
  · exact (State.setCond_keeps h (covers_trans (by decide) hm) _ _)
  · exact h

theorem execRecopy_keeps : ∀ t, execRecopy s = .next t →
    Keeps [.regs, .mem, .host, .nbr, .flt, .out] s t := by
  intro t e
  have hm : covers [.regs, .mem, .host, .nbr, .flt, .out] [.regs, .mem, .host, .nbr, .flt, .out] = true := by decide
  have h := Keeps.refl [.regs, .mem, .host, .nbr, .flt, .out] s
  unfold execRecopy at e
  replace e := Host.Outcome.next.inj e
  subst e
  refine keeps_ite (P := fun z => Keeps [.regs, .mem, .host, .nbr, .flt, .out] s z) ?_ ?_
  · exact (State.setCond_keeps h (covers_trans (by decide) hm) _ _)
  · exact h

theorem State.nbrCtrl_keeps (h : Keeps m s0 s) (hm : covers m [.regs, .mem, .host, .nbr, .flt, .out] = true) : ∀ a1, Keeps m s0 (State.nbrCtrl s a1) := by
  intro a1
  unfold State.nbrCtrl
  extract_lets -merge -underBinder x0 x1 x2
  have hx0 : Keeps m s0 x0 := by
    subst x0
    refine keeps_ite (P := fun z => Keeps m s0 z) ?_ ?_
    · exact (State.setCond_keeps h (covers_trans (by decide) hm) _ _)
    · exact h
  have hx2 : Keeps m s0 x2 := by
    subst x2
    refine keeps_ite (P := fun z => Keeps m s0 z) ?_ ?_
    · refine keeps_ite (P := fun z => Keeps m s0 z) ?_ ?_
      · exact (keeps_nbr hx0 (covers_trans (by decide) hm))
      · exact (State.raise_keeps hx0 (covers_trans (by decide) hm) _ _)
    · exact hx0
  try clear_value x2
  try clear_value x0
  refine keeps_ite (P := fun z => Keeps m s0 z) ?_ ?_
  · exact (State.declareFault_keeps hx2 (covers_trans (by decide) hm))
  · exact hx2

theorem execResync_keeps : ∀ a0 t, execResync a0 s = .next t →
    Keeps [.regs, .mem, .host, .nbr, .flt, .out] s t := by
  intro a0 t e
  have hm : covers [.regs, .mem, .host, .nbr, .flt, .out] [.regs, .mem, .host, .nbr, .flt, .out] = true := by decide
  have h := Keeps.refl [.regs, .mem, .host, .nbr, .flt, .out] s
  unfold execResync at e
  replace e := Host.Outcome.next.inj e
  subst e
  exact (State.nbrCtrl_keeps h (covers_trans (by decide) hm) _)

theorem execDrill_keeps : ∀ a0 t, execDrill a0 s = .next t →
    Keeps [.regs, .mem, .host, .nbr, .flt, .out] s t := by
  intro a0 t e
  have hm : covers [.regs, .mem, .host, .nbr, .flt, .out] [.regs, .mem, .host, .nbr, .flt, .out] = true := by decide
  have h := Keeps.refl [.regs, .mem, .host, .nbr, .flt, .out] s
  unfold execDrill at e
  replace e := Host.Outcome.next.inj e
  subst e
  exact (State.nbrCtrl_keeps h (covers_trans (by decide) hm) _)

theorem execDeclare_keeps : ∀ a0 t, execDeclare a0 s = .next t →
    Keeps [.regs, .mem, .host, .nbr, .flt, .out] s t := by
  intro a0 t e
  have hm : covers [.regs, .mem, .host, .nbr, .flt, .out] [.regs, .mem, .host, .nbr, .flt, .out] = true := by decide
  have h := Keeps.refl [.regs, .mem, .host, .nbr, .flt, .out] s
  unfold execDeclare at e
  replace e := Host.Outcome.next.inj e
  subst e
  exact (State.nbrCtrl_keeps h (covers_trans (by decide) hm) _)

theorem execDrillFail_keeps : ∀ t, execDrillFail s = .next t →
    Keeps [.nbr] s t := by
  intro t e
  have hm : covers [.nbr] [.nbr] = true := by decide
  have h := Keeps.refl [.nbr] s
  unfold execDrillFail at e
  replace e := Host.Outcome.next.inj e
  subst e
  split
  · refine keeps_ite (P := fun z => Keeps [.nbr] s z) ?_ ?_
    · exact (keeps_nbr h (covers_trans (by decide) hm))
    · exact h
  · exact h

theorem execHeartbeatPulse_keeps : ∀ a0 t, execHeartbeatPulse a0 s = .next t →
    Keeps [.nbr] s t := by
  intro a0 t e
  have hm : covers [.nbr] [.nbr] = true := by decide
  have h := Keeps.refl [.nbr] s
  unfold execHeartbeatPulse at e
  replace e := Host.Outcome.next.inj e
  subst e
  exact (keeps_nbr h (covers_trans (by decide) hm))

theorem execPathSilent_keeps : ∀ t, execPathSilent s = .next t →
    Keeps [.regs, .mem, .host, .nbr, .flt, .out] s t := by
  intro t e
  have hm : covers [.regs, .mem, .host, .nbr, .flt, .out] [.regs, .mem, .host, .nbr, .flt, .out] = true := by decide
  have h := Keeps.refl [.regs, .mem, .host, .nbr, .flt, .out] s
  unfold execPathSilent at e
  replace e := Host.Outcome.next.inj e
  subst e
  refine keeps_ite (P := fun z => Keeps [.regs, .mem, .host, .nbr, .flt, .out] s z) ?_ ?_
  · exact h
  · extract_lets -merge -underBinder x0 x1 x2 x3 x4 x5 x6 x7
    have hx5 : Keeps [.regs, .mem, .host, .nbr, .flt, .out] s x5 := (keeps_nbr h (covers_trans (by decide) hm))
    have hx6 : Keeps [.regs, .mem, .host, .nbr, .flt, .out] s x6 := (State.wr_keeps (State.wr_keeps hx5 (covers_trans (by decide) hm) _ _ _ _) (covers_trans (by decide) hm) _ _ _ _)
    try clear_value x6
    try clear_value x5
    refine keeps_ite (P := fun z => Keeps [.regs, .mem, .host, .nbr, .flt, .out] s z) ?_ ?_
    · exact hx6
    · refine keeps_ite (P := fun z => Keeps [.regs, .mem, .host, .nbr, .flt, .out] s z) ?_ ?_
      · exact (State.raise_keeps hx6 (covers_trans (by decide) hm) _ _)
      · refine keeps_ite (P := fun z => Keeps [.regs, .mem, .host, .nbr, .flt, .out] s z) ?_ ?_
        · exact (State.rollHw_keeps (State.raise_keeps hx6 (covers_trans (by decide) hm) _ _) (covers_trans (by decide) hm) _ _ _ _)
        · exact hx6

theorem State.grantWrite_keeps (h : Keeps m s0 s) (hm : covers m [.regs, .host, .nbr, .out] = true) : ∀ a1 a2 a3, Keeps m s0 (State.grantWrite s a1 a2 a3) := by
  intro a1 a2 a3
  unfold State.grantWrite
  refine keeps_ite (P := fun z => Keeps m s0 z) ?_ ?_
  · exact h
  · extract_lets -merge -underBinder x0 x1 x2 x3 x4 x5
    have hx0 : Keeps m s0 x0 := by
      subst x0
      split
      · exact (State.wr_keeps h (covers_trans (by decide) hm) _ _ _ _)
      · exact h
    try clear_value x0
    refine keeps_ite (P := fun z => Keeps m s0 z) ?_ ?_
    · exact (State.wr_keeps hx0 (covers_trans (by decide) hm) _ _ _ _)
    · refine State.when_keeps (keeps_nbr hx0 (covers_trans (by decide) hm)) _ _ fun _ h6 => ?_
      exact (State.markLate_keeps (State.wr_keeps h6 (covers_trans (by decide) hm) _ _ _ _) (covers_trans (by decide) hm))

theorem execNbrGrantWrite_keeps : ∀ a0 a1 a2 t, execNbrGrantWrite a0 a1 a2 s = .next t →
    Keeps [.regs, .host, .nbr, .out] s t := by
  intro a0 a1 a2 t e
  have hm : covers [.regs, .host, .nbr, .out] [.regs, .host, .nbr, .out] = true := by decide
  have h := Keeps.refl [.regs, .host, .nbr, .out] s
  unfold execNbrGrantWrite at e
  replace e := Host.Outcome.next.inj e
  subst e
  exact (State.grantWrite_keeps h (covers_trans (by decide) hm) _ _ _)

theorem execGrantTakeEffect_keeps : ∀ t, execGrantTakeEffect s = .next t →
    Keeps [.regs, .host, .net, .nbr, .out] s t := by
  intro t e
  have hm : covers [.regs, .host, .net, .nbr, .out] [.regs, .host, .net, .nbr, .out] = true := by decide
  have h := Keeps.refl [.regs, .host, .net, .nbr, .out] s
  unfold execGrantTakeEffect at e
  replace e := Host.Outcome.next.inj e
  subst e
  split
  · exact h
  · refine keeps_ite (P := fun z => Keeps [.regs, .host, .net, .nbr, .out] s z) ?_ ?_
    · exact h
    · extract_lets -merge -underBinder x0 x1 x2 x3
      have hx1 : Keeps [.regs, .host, .net, .nbr, .out] s x1 := (State.raise_keeps (State.wr_keeps (keeps_nbr h (covers_trans (by decide) hm)) (covers_trans (by decide) hm) _ _ _ _) (covers_trans (by decide) hm) _ _)
      have hx2 : Keeps [.regs, .host, .net, .nbr, .out] s x2 := (State.wr_keeps (State.wr_keeps (State.setRole_keeps hx1 (covers_trans (by decide) hm) _) (covers_trans (by decide) hm) _ _ _ _) (covers_trans (by decide) hm) _ _ _ _)
      try clear_value x2
      try clear_value x1
      refine keeps_ite (P := fun z => Keeps [.regs, .host, .net, .nbr, .out] s z) ?_ ?_
      · exact (State.wr_keeps hx1 (covers_trans (by decide) hm) _ _ _ _)
      · refine keeps_ite (P := fun z => Keeps [.regs, .host, .net, .nbr, .out] s z) ?_ ?_
        · exact (keeps_net hx2 (covers_trans (by decide) hm))
        · exact (State.wr_keeps (State.setRole_keeps hx1 (covers_trans (by decide) hm) _) (covers_trans (by decide) hm) _ _ _ _)

theorem State.closeDigests_keeps (h : Keeps m s0 s) (hm : covers m [.nbr, .free] = true) : ∀ a1, Keeps m s0 (State.closeDigests s a1) := by
  intro a1
  unfold State.closeDigests
  extract_lets -merge -underBinder x0 x1 x2 x3
  exact (State.useFree_keeps (keeps_nbr h (covers_trans (by decide) hm)) (covers_trans (by decide) hm) _)

theorem State.sendChunks_keeps (h : Keeps m s0 s) (hm : covers m [.nbr, .out] = true) : Keeps m s0 (State.sendChunks s) := by
  unfold State.sendChunks
  extract_lets -merge -underBinder x0 x1 x2
  have hx1 : Keeps m s0 x1 := by
    subst x1
    refine keeps_foldl (P := fun z => Keeps m s0 z) ?_ fun _ _ h3 => ?_
    · exact h
    · refine keeps_foldl (P := fun z => Keeps m s0 z) ?_ fun _ _ h4 => ?_
      · exact h3
      · extract_lets -merge -underBinder x5
        exact (State.nbrSend_keeps h4 (covers_trans (by decide) hm) _ _)
  try clear_value x1
  exact (keeps_nbr hx1 (covers_trans (by decide) hm))

theorem State.nbrBlock_keeps (h : Keeps m s0 s) (hm : covers m [.regs, .mem, .scn, .chn, .host, .mil, .nbr, .memx, .flt, .out, .free] = true) :
    ∀ b, Keeps m s0 (State.nbrBlock s b) := by
  intro b
  unfold State.nbrBlock
  refine keeps_ite (P := fun z => Keeps m s0 z) (keeps_nbr h (covers_trans (by decide) hm)) ?_
  extract_lets n x1 own scan wraps c1 x2 x3 skipped t1 x4 t2 x5 x6 x7 c2 x8 c3 c4 x9 due c5 x10 x11
  have h1 : Keeps m s0 x1 := State.closeDigests_keeps h (covers_trans (by decide) hm) _
  have h2 : Keeps m s0 x2 := State.when_keeps (keeps_nbr h1 (covers_trans (by decide) hm)) _ _ fun _ h => State.bump_keeps h (covers_trans (by decide) hm) _ _ _ _
  have h3 : Keeps m s0 x3 := keeps_ite (P := fun z => Keeps m s0 z) (State.nbrSend_keeps h2 (covers_trans (by decide) hm) _ _) h2
  have g1 : Keeps m s0 t1 := keeps_ite (P := fun z => Keeps m s0 z) (State.sendChunks_keeps h3 (covers_trans (by decide) hm)) h3
  have h4 : Keeps m s0 x4 := by
    subst x4
    refine keeps_ite (P := fun z => Keeps m s0 z) ?_ h3
    exact State.bump_keeps (State.nbrSend_keeps g1 (covers_trans (by decide) hm) _ _) (covers_trans (by decide) hm) _ _ _ _
  have g2 : Keeps m s0 t2 := State.nbrSend_keeps h4 (covers_trans (by decide) hm) _ _
  have h5 : Keeps m s0 x5 := by
    subst x5
    exact keeps_ite (P := fun z => Keeps m s0 z) h4 (State.emit_keeps g2 (covers_trans (by decide) hm) _)
  have h6 : Keeps m s0 x6 := State.peak_keeps h5 (covers_trans (by decide) hm) _ _ _ _
  have h7 : Keeps m s0 x7 := State.when_keeps h6 _ _ fun _ h => State.raise_keeps h (covers_trans (by decide) hm) _ _
  have h8 : Keeps m s0 x8 := keeps_nbr h7 (covers_trans (by decide) hm)
  have g3 : Keeps m s0 c3 := State.demote_keeps h8 (covers_trans (by decide) hm)
  have h9 : Keeps m s0 x9 := by
    subst x9
    split
    · exact keeps_ite (P := fun z => Keeps m s0 z) (keeps_nbr g3 (covers_trans (by decide) hm)) h8
    · exact h8
  have h10 : Keeps m s0 x10 := keeps_nbr h9 (covers_trans (by decide) hm)
  have h11 : Keeps m s0 x11 := keeps_foldl (P := fun z => Keeps m s0 z) h10 fun _ _ h => State.granaryStore_keeps h (covers_trans (by decide) hm) _ _
  exact State.checkBlock_keeps h11 (covers_trans (by decide) hm) _

end Sys2Proof.Machine
end

