-- ==== Sys2Proof/Laws/KeepsQueues.lean ====
section
/-! SUPPORT. What each function of Machine/Queues.lean keeps: the parts of the state it can change, the canonical form of the stores,
the order of free values and outputs. One lemma per function, assembled from those of the functions it calls. -/
namespace Sys2Proof.Machine

variable {m : List Part} {s0 s : State}

theorem State.captureErr_keeps (h : Keeps m s0 s) (hm : covers m [.regs] = true) : ∀ a1 a2 a3 a4 a5, Keeps m s0 (State.captureErr s a1 a2 a3 a4 a5) := by
  intro a1 a2 a3 a4 a5
  unfold State.captureErr
  exact (State.bump_keeps (State.wr_keeps (State.wr_keeps (State.wr_keeps (State.wr_keeps (State.wr_keeps (State.wr_keeps h (covers_trans (by decide) hm) _ _ _ _) (covers_trans (by decide) hm) _ _ _ _) (covers_trans (by decide) hm) _ _ _ _) (covers_trans (by decide) hm) _ _ _ _) (covers_trans (by decide) hm) _ _ _ _) (covers_trans (by decide) hm) _ _ _ _) (covers_trans (by decide) hm) _ _ _ _)

theorem State.putQueue_keeps (h : Keeps m s0 s) (hm : covers m [.regs, .que, .host, .out] = true) : ∀ a1 a2, Keeps m s0 (State.putQueue s a1 a2) := by
  intro a1 a2
  unfold State.putQueue
  extract_lets -merge -underBinder x0 x1
  have hx1 : Keeps m s0 x1 := (State.settleVectors_keeps (State.setQueue_keeps h (covers_trans (by decide) hm) _ _) (covers_trans (by decide) hm) _ _)
  try clear_value x1
  refine keeps_ite (P := fun z => Keeps m s0 z) ?_ ?_
  · exact (State.raise_keeps hx1 (covers_trans (by decide) hm) _ _)
  · exact hx1

theorem State.notice_keeps (h : Keeps m s0 s) (hm : covers m [.regs, .que, .host, .out] = true) : ∀ a1 a2, Keeps m s0 (State.notice s a1 a2) := by
  intro a1 a2
  unfold State.notice
  extract_lets -merge -underBinder x0
  refine keeps_ite (P := fun z => Keeps m s0 z) ?_ ?_
  · exact (State.putQueue_keeps h (covers_trans (by decide) hm) _ _)
  · exact (State.raise_keeps (State.bump_keeps (State.putQueue_keeps h (covers_trans (by decide) hm) _ _) (covers_trans (by decide) hm) _ _ _ _) (covers_trans (by decide) hm) _ _)

theorem State.eventPush_keeps (h : Keeps m s0 s) (hm : covers m [.regs, .que, .host, .out] = true) : ∀ a1 a2, Keeps m s0 (State.eventPush s a1 a2) := by
  intro a1 a2
  unfold State.eventPush
  exact (State.putQueue_keeps h (covers_trans (by decide) hm) _ _)

theorem State.refuseWord_keeps (h : Keeps m s0 s) (hm : covers m [.regs, .host, .out] = true) : ∀ a1, Keeps m s0 (State.refuseWord s a1) := by
  intro a1
  unfold State.refuseWord
  exact (State.raise_keeps (State.bump_keeps h (covers_trans (by decide) hm) _ _ _ _) (covers_trans (by decide) hm) _ _)

theorem State.setEnvelope_keeps (h : Keeps m s0 s) (hm : covers m [.que] = true) : ∀ a1 a2 a3, Keeps m s0 (State.setEnvelope s a1 a2 a3) := by
  intro a1 a2 a3
  unfold State.setEnvelope
  extract_lets -merge -underBinder x0
  exact (State.modQue_keeps h (covers_trans (by decide) hm) _)

theorem State.commandPush_keeps (h : Keeps m s0 s) (hm : covers m [.regs, .que, .host, .out] = true) : ∀ a1 a2 a3, Keeps m s0 (State.commandPush s a1 a2 a3) := by
  intro a1 a2 a3
  unfold State.commandPush
  extract_lets -merge -underBinder x0
  split
  · exact (State.setEnvelope_keeps (State.refuseWord_keeps h (covers_trans (by decide) hm) _) (covers_trans (by decide) hm) _ _ _)
  · extract_lets -merge -underBinder x1
    split
    · refine keeps_ite (P := fun z => Keeps m s0 z) ?_ ?_
      · exact (State.setEnvelope_keeps (State.putQueue_keeps h (covers_trans (by decide) hm) _ _) (covers_trans (by decide) hm) _ _ _)
      · exact (State.setEnvelope_keeps (State.refuseWord_keeps h (covers_trans (by decide) hm) _) (covers_trans (by decide) hm) _ _ _)
    · refine keeps_ite (P := fun z => Keeps m s0 z) ?_ ?_
      · exact (State.setEnvelope_keeps (State.putQueue_keeps h (covers_trans (by decide) hm) _ _) (covers_trans (by decide) hm) _ _ _)
      · exact (State.setEnvelope_keeps (State.refuseWord_keeps h (covers_trans (by decide) hm) _) (covers_trans (by decide) hm) _ _ _)

theorem State.pushEntry_keeps (h : Keeps m s0 s) (hm : covers m [.regs, .que, .host, .out] = true) : ∀ a1 a2 a3, Keeps m s0 (State.pushEntry s a1 a2 a3) := by
  intro a1 a2 a3
  unfold State.pushEntry
  refine keeps_ite (P := fun z => Keeps m s0 z) ?_ ?_
  · exact (State.captureErr_keeps h (covers_trans (by decide) hm) _ _ _ _ _)
  · refine keeps_ite (P := fun z => Keeps m s0 z) ?_ ?_
    · exact (State.notice_keeps h (covers_trans (by decide) hm) _ _)
    · refine keeps_ite (P := fun z => Keeps m s0 z) ?_ ?_
      · exact (State.commandPush_keeps h (covers_trans (by decide) hm) _ _ _)
      · refine keeps_ite (P := fun z => Keeps m s0 z) ?_ ?_
        · exact (State.eventPush_keeps h (covers_trans (by decide) hm) _ _)
        · exact (State.modQue_keeps (State.raise_keeps (State.bump_keeps h (covers_trans (by decide) hm) _ _ _ _) (covers_trans (by decide) hm) _ _) (covers_trans (by decide) hm) _)

theorem State.pushWaiting_keeps (h : Keeps m s0 s) (hm : covers m [.regs, .que, .host, .out] = true) : ∀ a1, Keeps m s0 (State.pushWaiting s a1) := by
  intro a1
  unfold State.pushWaiting
  split
  · exact h
  · refine keeps_ite (P := fun z => Keeps m s0 z) ?_ ?_
    · exact (State.eventPush_keeps (State.modQue_keeps h (covers_trans (by decide) hm) _) (covers_trans (by decide) hm) _ _)
    · exact h

theorem State.popEntry_keeps (h : Keeps m s0 s) (hm : covers m [.regs, .que, .host, .out] = true) : ∀ a1 a2, Keeps m s0 (State.popEntry s a1 a2).2 := by
  intro a1 a2
  unfold State.popEntry
  refine keeps_ite (P := fun (z : DWord × State) => Keeps m s0 z.2) ?_ ?_
  · refine keeps_snd (P := fun z => Keeps m s0 z) ?_
    exact (State.captureErr_keeps h (covers_trans (by decide) hm) _ _ _ _ _)
  · split
    · refine keeps_snd (P := fun z => Keeps m s0 z) ?_
      exact h
    · refine keeps_snd (P := fun z => Keeps m s0 z) ?_
      exact (State.pushWaiting_keeps (State.putQueue_keeps h (covers_trans (by decide) hm) _ _) (covers_trans (by decide) hm) _)

theorem State.portWrite_keeps (h : Keeps m s0 s) (hm : covers m [.regs, .que, .host, .out] = true) : ∀ a1 a2 a3 a4, Keeps m s0 (State.portWrite s a1 a2 a3 a4) := by
  intro a1 a2 a3 a4
  unfold State.portWrite
  refine keeps_ite (P := fun z => Keeps m s0 z) ?_ ?_
  · exact (State.pushEntry_keeps h (covers_trans (by decide) hm) _ _ _)
  · refine keeps_ite (P := fun z => Keeps m s0 z) ?_ ?_
    · exact (State.modQue_keeps h (covers_trans (by decide) hm) _)
    · split
      · exact (State.captureErr_keeps h (covers_trans (by decide) hm) _ _ _ _ _)
      · exact (State.pushEntry_keeps (State.modQue_keeps h (covers_trans (by decide) hm) _) (covers_trans (by decide) hm) _ _ _)

theorem State.portRead_keeps (h : Keeps m s0 s) (hm : covers m [.regs, .que, .host, .out] = true) : ∀ a1 a2 a3, Keeps m s0 (State.portRead s a1 a2 a3).2 := by
  intro a1 a2 a3
  unfold State.portRead
  refine keeps_ite (P := fun (z : Nat × State) => Keeps m s0 z.2) ?_ ?_
  · extract_lets -merge -underBinder x0
    clear_value (ex0 : x0 = _)
    have hx0 : Keeps m s0 x0.2 := by
      rw [ex0]
      exact (State.popEntry_keeps h (covers_trans (by decide) hm) _ _)
    clear ex0
    exact (keeps_snd (P := fun z => Keeps m s0 z) hx0)
  · refine keeps_ite (P := fun (z : Nat × State) => Keeps m s0 z.2) ?_ ?_
    · extract_lets -merge -underBinder x1
      clear_value (ex1 : x1 = _)
      have hx1 : Keeps m s0 x1.2 := by
        rw [ex1]
        exact (State.popEntry_keeps h (covers_trans (by decide) hm) _ _)
      clear ex1
      exact (keeps_snd (P := fun z => Keeps m s0 z) (State.modQue_keeps hx1 (covers_trans (by decide) hm) _))
    · exact (keeps_snd (P := fun z => Keeps m s0 z) h)

theorem execQueuePush_keeps : ∀ a0 a1 a2 a3 t, execQueuePush a0 a1 a2 a3 s = .next t →
    Keeps [.regs, .que, .host, .out] s t := by
  intro a0 a1 a2 a3 t e
  have hm : covers [.regs, .que, .host, .out] [.regs, .que, .host, .out] = true := by decide
  have h := Keeps.refl [.regs, .que, .host, .out] s
  unfold execQueuePush at e
  replace e := Host.Outcome.next.inj e
  subst e
  refine keeps_ite (P := fun z => Keeps [.regs, .que, .host, .out] s z) ?_ ?_
  · exact (State.portWrite_keeps h (covers_trans (by decide) hm) _ _ _ _)
  · exact h

theorem execQueuePop_keeps : ∀ a0 a1 a2 t, execQueuePop a0 a1 a2 s = .next t →
    Keeps [.regs, .que, .host, .resp, .out] s t := by
  intro a0 a1 a2 t e
  have hm : covers [.regs, .que, .host, .resp, .out] [.regs, .que, .host, .resp, .out] = true := by decide
  have h := Keeps.refl [.regs, .que, .host, .resp, .out] s
  unfold execQueuePop at e
  replace e := Host.Outcome.next.inj e
  subst e
  refine keeps_ite (P := fun z => Keeps [.regs, .que, .host, .resp, .out] s z) ?_ ?_
  · extract_lets -merge -underBinder x0
    clear_value (ex0 : x0 = _)
    have hx0 : Keeps [.regs, .que, .host, .resp, .out] s x0.2 := by
      rw [ex0]
      exact (State.portRead_keeps h (covers_trans (by decide) hm) _ _ _)
    clear ex0
    exact (State.respond_keeps hx0 (covers_trans (by decide) hm) _ _ _)
  · exact h

theorem State.reply_keeps (h : Keeps m s0 s) (hm : covers m [.regs, .que, .host, .out] = true) : ∀ a1 a2 a3, Keeps m s0 (State.reply s a1 a2 a3) := by
  intro a1 a2 a3
  unfold State.reply
  extract_lets -merge -underBinder x0 x1
  refine keeps_ite (P := fun z => Keeps m s0 z) ?_ ?_
  · exact h
  · refine keeps_foldl (P := fun z => Keeps m s0 z) ?_ fun _ _ h2 => ?_
    · exact (State.notice_keeps h (covers_trans (by decide) hm) _ _)
    · exact (State.notice_keeps h2 (covers_trans (by decide) hm) _ _)

theorem execQueueNop_keeps : ∀ a0 t, execQueueNop a0 s = .next t →
    Keeps [.regs, .que, .host, .out] s t := by
  intro a0 t e
  have hm : covers [.regs, .que, .host, .out] [.regs, .que, .host, .out] = true := by decide
  have h := Keeps.refl [.regs, .que, .host, .out] s
  unfold execQueueNop at e
  replace e := Host.Outcome.next.inj e
  subst e
  exact (State.reply_keeps h (covers_trans (by decide) hm) _ _ _)

end Sys2Proof.Machine
end

