-- ==== Sys2Proof/Laws/KeepsNetFrame.lean ====
section
/-! SUPPORT. What each function of Machine/NetFrame.lean keeps: the parts of the state it can change, the canonical form of the stores,
the order of free values and outputs. One lemma per function, assembled from those of the functions it calls. -/
namespace Sys2Proof.Machine

variable {m : List Part} {s0 s : State}

theorem State.sendFrameOn_keeps (h : Keeps m s0 s) (hm : covers m [.regs, .out] = true) : ∀ a1 a2, Keeps m s0 (State.sendFrameOn s a1 a2) := by
  intro a1 a2
  unfold State.sendFrameOn
  refine keeps_ite (P := fun z => Keeps m s0 z) ?_ ?_
  · exact (State.emit_keeps (State.bump_keeps h (covers_trans (by decide) hm) _ _ _ _) (covers_trans (by decide) hm) _)
  · exact h

theorem State.learn_keeps (h : Keeps m s0 s) (hm : covers m [.net] = true) : ∀ a1 a2 a3 a4, Keeps m s0 (State.learn s a1 a2 a3 a4) := by
  intro a1 a2 a3 a4
  unfold State.learn
  refine keeps_ite (P := fun z => Keeps m s0 z) ?_ ?_
  · exact h
  · exact (State.modNet_keeps h (covers_trans (by decide) hm) _)

theorem State.sendIcmp6_keeps (h : Keeps m s0 s) (hm : covers m [.regs, .out] = true) : ∀ a1 a2 a3 a4 a5 a6, Keeps m s0 (State.sendIcmp6 s a1 a2 a3 a4 a5 a6) := by
  intro a1 a2 a3 a4 a5 a6
  unfold State.sendIcmp6
  extract_lets -merge -underBinder x0
  exact (State.sendFrameOn_keeps h (covers_trans (by decide) hm) _ _)

theorem State.askMac_keeps (h : Keeps m s0 s) (hm : covers m [.regs, .out] = true) : ∀ a1 a2 a3, Keeps m s0 (State.askMac s a1 a2 a3) := by
  intro a1 a2 a3
  unfold State.askMac
  extract_lets -merge -underBinder x0
  refine keeps_ite (P := fun z => Keeps m s0 z) ?_ ?_
  · exact (State.sendIcmp6_keeps h (covers_trans (by decide) hm) _ _ _ _ _ _)
  · exact (State.sendFrameOn_keeps h (covers_trans (by decide) hm) _ _)

theorem State.announceIp_keeps (h : Keeps m s0 s) (hm : covers m [.regs, .out] = true) : ∀ a1 a2, Keeps m s0 (State.announceIp s a1 a2) := by
  intro a1 a2
  unfold State.announceIp
  extract_lets -merge -underBinder x0
  refine keeps_ite (P := fun z => Keeps m s0 z) ?_ ?_
  · exact h
  · refine keeps_ite (P := fun z => Keeps m s0 z) ?_ ?_
    · exact (State.sendIcmp6_keeps h (covers_trans (by decide) hm) _ _ _ _ _ _)
    · exact (State.sendFrameOn_keeps h (covers_trans (by decide) hm) _ _)

end Sys2Proof.Machine
end

