-- ==== Sys2Proof/Laws/KeepsStreams.lean ====
section
/-! SUPPORT. What each function of Machine/Streams.lean keeps: the parts of the state it can change, the canonical form of the stores,
the order of free values and outputs. One lemma per function, assembled from those of the functions it calls. -/
namespace Sys2Proof.Machine

variable {m : List Part} {s0 s : State}

theorem State.sendReport_keeps (h : Keeps m s0 s) (hm : covers m [.regs, .out] = true) : ∀ a1 a2 a3, Keeps m s0 (State.sendReport s a1 a2 a3) := by
  intro a1 a2 a3
  unfold State.sendReport
  extract_lets -merge -underBinder x0 x1 x2
  refine keeps_ite (P := fun z => Keeps m s0 z) ?_ ?_
  · exact (State.sendIcmp6_keeps h (covers_trans (by decide) hm) _ _ _ _ _ _)
  · exact (State.sendFrameOn_keeps h (covers_trans (by decide) hm) _ _)

theorem State.updateMembers_keeps (h : Keeps m s0 s) (hm : covers m [.regs, .net, .out] = true) : Keeps m s0 (State.updateMembers s) := by
  unfold State.updateMembers
  extract_lets -merge -underBinder x0 x1 x2 x3
  refine keeps_foldl (P := fun z => Keeps m s0 z) ?_ fun _ _ h4 => ?_
  · exact (State.modNet_keeps h (covers_trans (by decide) hm) _)
  · exact (State.sendReport_keeps h4 (covers_trans (by decide) hm) _ _ _)

theorem State.renewMembers_keeps (h : Keeps m s0 s) (hm : covers m [.net] = true) : Keeps m s0 (State.renewMembers s) := by
  unfold State.renewMembers
  exact (State.modNet_keeps h (covers_trans (by decide) hm) _)

theorem execMembershipReport_keeps : ∀ a0 a1 a2 t, execMembershipReport a0 a1 a2 s = .next t →
    Keeps [.regs, .net, .out] s t := by
  intro a0 a1 a2 t e
  have hm : covers [.regs, .net, .out] [.regs, .net, .out] = true := by decide
  have h := Keeps.refl [.regs, .net, .out] s
  unfold execMembershipReport at e
  extract_lets -merge -underBinder x0 at e
  replace e := Host.Outcome.next.inj e
  subst e
  split
  · exact (State.sendReport_keeps (State.modNet_keeps h (covers_trans (by decide) hm) _) (covers_trans (by decide) hm) _ _ _)
  · exact h

theorem State.setRx_keeps (h : Keeps m s0 s) (hm : covers m [.net] = true) : ∀ a1 a2, Keeps m s0 (State.setRx s a1 a2) := by
  intro a1 a2
  unfold State.setRx
  exact (State.modNet_keeps h (covers_trans (by decide) hm) _)

theorem State.modRxStat_keeps (h : Keeps m s0 s) (hm : covers m [.net] = true) : ∀ a1 a2, Keeps m s0 (State.modRxStat s a1 a2) := by
  intro a1 a2
  unfold State.modRxStat
  exact (State.modNet_keeps h (covers_trans (by decide) hm) _)

theorem State.modTxStat_keeps (h : Keeps m s0 s) (hm : covers m [.net] = true) : ∀ a1 a2, Keeps m s0 (State.modTxStat s a1 a2) := by
  intro a1 a2
  unfold State.modTxStat
  exact (State.modNet_keeps h (covers_trans (by decide) hm) _)

theorem State.showStreams_keeps (h : Keeps m s0 s) (hm : covers m [.regs] = true) : ∀ a1, Keeps m s0 (State.showStreams s a1) := by
  intro a1
  unfold State.showStreams
  extract_lets -merge -underBinder x0 x1 x2
  have hx2 : Keeps m s0 x2 := by
    subst x2
    refine keeps_foldl (P := fun z => Keeps m s0 z) ?_ fun _ _ h3 => ?_
    · exact h
    · extract_lets -merge -underBinder x4
      exact (State.wr_keeps h3 (covers_trans (by decide) hm) _ _ _ _)
  try clear_value x2
  refine keeps_ite (P := fun z => Keeps m s0 z) ?_ ?_
  · exact (State.wr_keeps (State.wr_keeps hx2 (covers_trans (by decide) hm) _ _ _ _) (covers_trans (by decide) hm) _ _ _ _)
  · exact (State.wr_keeps (State.wr_keeps hx2 (covers_trans (by decide) hm) _ _ _ _) (covers_trans (by decide) hm) _ _ _ _)

theorem State.enforceRx_keeps (h : Keeps m s0 s) (hm : covers m [.mem, .net] = true) : ∀ a1 a2, Keeps m s0 (State.enforceRx s a1 a2) := by
  intro a1 a2
  unfold State.enforceRx
  extract_lets -merge -underBinder x0 x1 x2
  refine keeps_ite (P := fun z => Keeps m s0 z) ?_ ?_
  · exact h
  · exact (State.setBytes_keeps (State.modNet_keeps h (covers_trans (by decide) hm) _) (covers_trans (by decide) hm) _ _)

theorem State.enforceTx_keeps (h : Keeps m s0 s) (hm : covers m [.regs, .mem, .net, .out] = true) : ∀ a1 a2 a3, Keeps m s0 (State.enforceTx s a1 a2 a3) := by
  intro a1 a2 a3
  unfold State.enforceTx
  extract_lets -merge -underBinder x0 x1 x2 x3 x4 x5 x6 x7
  have hx3 : Keeps m s0 x3 := by
    subst x3
    refine keeps_ite (P := fun z => Keeps m s0 z) ?_ ?_
    · exact (State.modNet_keeps h (covers_trans (by decide) hm) _)
    · exact h
  have hx4 : Keeps m s0 x4 := (State.setBytes_keeps hx3 (covers_trans (by decide) hm) _ _)
  have hx7 : Keeps m s0 x7 := (State.modNet_keeps hx4 (covers_trans (by decide) hm) _)
  try clear_value x7
  try clear_value x4
  try clear_value x3
  refine keeps_ite (P := fun z => Keeps m s0 z) ?_ ?_
  · exact h
  · refine keeps_ite (P := fun z => Keeps m s0 z) ?_ ?_
    · refine keeps_foldl (P := fun z => Keeps m s0 z) ?_ fun _ _ h8 => ?_
      · exact hx7
      · refine keeps_ite (P := fun z => Keeps m s0 z) ?_ ?_
        · exact (State.askMac_keeps h8 (covers_trans (by decide) hm) _ _ _)
        · exact h8
    · exact hx7

theorem State.applyStreams_keeps (h : Keeps m s0 s) (hm : covers m [.regs, .live, .pend, .mem, .host, .net, .out] = true) : ∀ a1 a2, Keeps m s0 (State.applyStreams s a1 a2) := by
  intro a1 a2
  unfold State.applyStreams
  extract_lets -merge -underBinder x0 x1
  split
  · extract_lets -merge -underBinder x2
    have hx2 : Keeps m s0 x2 := by
      subst x2
      refine keeps_ite (P := fun z => Keeps m s0 z) ?_ ?_
      · exact (State.wr_keeps (State.wr_keeps h (covers_trans (by decide) hm) _ _ _ _) (covers_trans (by decide) hm) _ _ _ _)
      · exact (State.wr_keeps (State.wr_keeps h (covers_trans (by decide) hm) _ _ _ _) (covers_trans (by decide) hm) _ _ _ _)
    try clear_value x2
    exact (State.raise_keeps (State.endPend_keeps hx2 (covers_trans (by decide) hm) _ _) (covers_trans (by decide) hm) _ _)
  · extract_lets -merge -underBinder x3 x4 x5 x6 x7 x8
    have hx4 : Keeps m s0 x4 := by
      subst x4
      refine keeps_foldl (P := fun z => Keeps m s0 z) ?_ fun _ _ h9 => ?_
      · exact h
      · extract_lets -merge -underBinder x10
        refine keeps_ite (P := fun z => Keeps m s0 z) ?_ ?_
        · exact (State.enforceTx_keeps h9 (covers_trans (by decide) hm) _ _ _)
        · exact (State.enforceRx_keeps h9 (covers_trans (by decide) hm) _ _)
    have hx5 : Keeps m s0 x5 := by
      subst x5
      refine keeps_foldl (P := fun z => Keeps m s0 z) ?_ fun _ _ h11 => ?_
      · exact hx4
      · extract_lets -merge -underBinder x12
        exact (State.setReg_keeps h11 (covers_trans (by decide) hm) _ _)
    have hx6 : Keeps m s0 x6 := (State.showStreams_keeps hx5 (covers_trans (by decide) hm) _)
    have hx7 : Keeps m s0 x7 := by
      subst x7
      refine keeps_ite (P := fun z => Keeps m s0 z) ?_ ?_
      · exact hx6
      · exact (State.updateMembers_keeps hx6 (covers_trans (by decide) hm))
    have hx8 : Keeps m s0 x8 := (State.enforce_keeps hx7 (covers_trans (by decide) hm) _)
    try clear_value x8
    try clear_value x7
    try clear_value x6
    try clear_value x5
    try clear_value x4
    refine keeps_foldl (P := fun z => Keeps m s0 z) ?_ fun _ _ h13 => ?_
    · exact hx8
    · exact (State.setLive_keeps h13 (covers_trans (by decide) hm) _ _)

theorem State.disableStreams_keeps (h : Keeps m s0 s) (hm : covers m [.regs, .mem, .net, .out] = true) : Keeps m s0 (State.disableStreams s) := by
  unfold State.disableStreams
  extract_lets -merge -underBinder x0 x1
  have hx1 : Keeps m s0 x1 := by
    subst x1
    try dsimp -zeta only [x0]
    refine keeps_foldl (P := fun z => Keeps m s0 z) ?_ fun _ _ h3 => ?_
    · try dsimp -zeta only [x0]
      refine keeps_foldl (P := fun z => Keeps m s0 z) ?_ fun _ _ h2 => ?_
      · exact h
      · exact (State.setBytes_keeps h2 (covers_trans (by decide) hm) _ _)
    · exact (State.setBytes_keeps h3 (covers_trans (by decide) hm) _ _)
  try clear_value x1
  exact (State.updateMembers_keeps (State.showStreams_keeps (State.showStreams_keeps (State.modNet_keeps hx1 (covers_trans (by decide) hm) _) (covers_trans (by decide) hm) _) (covers_trans (by decide) hm) _) (covers_trans (by decide) hm))

theorem State.tagErrors_keeps (h : Keeps m s0 s) (hm : covers m [.regs, .host, .out] = true) : ∀ a1, Keeps m s0 (State.tagErrors s a1) := by
  intro a1
  unfold State.tagErrors
  refine keeps_ite (P := fun z => Keeps m s0 z) ?_ ?_
  · exact h
  · extract_lets -merge -underBinder x0
    have hx0 : Keeps m s0 x0 := (State.bump_keeps h (covers_trans (by decide) hm) _ _ _ _)
    try clear_value x0
    refine keeps_ite (P := fun z => Keeps m s0 z) ?_ ?_
    · exact (State.raise_keeps hx0 (covers_trans (by decide) hm) _ _)
    · exact hx0

theorem State.rtpTests_keeps (h : Keeps m s0 s) (hm : covers m [.regs, .host, .net, .out] = true) : ∀ a1 a2 a3 a4 a5, Keeps m s0 (State.rtpTests s a1 a2 a3 a4 a5) := by
  intro a1 a2 a3 a4 a5
  unfold State.rtpTests
  extract_lets -merge -underBinder x0 x1 x2 x3 x4 x5 x6 x7 x8 x9
  have hx6 : Keeps m s0 x6 := (State.modRxStat_keeps h (covers_trans (by decide) hm) _ _)
  have hx9 : Keeps m s0 x9 := (State.modRxStat_keeps (State.setRx_keeps hx6 (covers_trans (by decide) hm) _ _) (covers_trans (by decide) hm) _ _)
  try clear_value x9
  try clear_value x6
  refine keeps_ite (P := fun z => Keeps m s0 z) ?_ ?_
  · exact (State.modRxStat_keeps hx6 (covers_trans (by decide) hm) _ _)
  · refine keeps_ite (P := fun z => Keeps m s0 z) ?_ ?_
    · exact (State.raise_keeps (State.modRxStat_keeps (State.setRx_keeps hx6 (covers_trans (by decide) hm) _ _) (covers_trans (by decide) hm) _ _) (covers_trans (by decide) hm) _ _)
    · refine keeps_ite (P := fun z => Keeps m s0 z) ?_ ?_
      · exact (State.modRxStat_keeps hx6 (covers_trans (by decide) hm) _ _)
      · exact (State.bump_keeps (State.tagErrors_keeps hx9 (covers_trans (by decide) hm) _) (covers_trans (by decide) hm) _ _ _ _)

theorem State.rtpReceive_keeps (h : Keeps m s0 s) (hm : covers m [.regs, .host, .net, .out] = true) : ∀ a1 a2 a3, Keeps m s0 (State.rtpReceive s a1 a2 a3) := by
  intro a1 a2 a3
  unfold State.rtpReceive
  extract_lets -merge -underBinder x0 x1 x2
  refine keeps_ite (P := fun z => Keeps m s0 z) ?_ ?_
  · exact (State.modRxStat_keeps (State.bump_keeps h (covers_trans (by decide) hm) _ _ _ _) (covers_trans (by decide) hm) _ _)
  · exact (State.rtpTests_keeps h (covers_trans (by decide) hm) _ _ _ _ _)

theorem State.rxChannel_keeps (h : Keeps m s0 s) (hm : covers m [.mem, .eng, .mil, .nbr, .out] = true) : ∀ a1 a2 a3 a4 a5, Keeps m s0 (State.rxChannel s a1 a2 a3 a4 a5).1 := by
  intro a1 a2 a3 a4 a5
  unfold State.rxChannel
  extract_lets -merge -underBinder x0 x1 x2 x3 x4 x5 x6
  have hx3 : Keeps m s0 x3.2 := (State.substitute_keeps h (covers_trans (by decide) hm) _ _)
  have hx5 : Keeps m s0 x5.2 := (State.goodBlock_keeps h (covers_trans (by decide) hm) _ _)
  have hx6 : Keeps m s0 x6 := hx5
  try clear_value x6
  try clear_value x5
  try clear_value x3
  refine keeps_ite (P := fun (z : State × Bool) => Keeps m s0 z.1) ?_ ?_
  · refine keeps_fst (P := fun z => Keeps m s0 z) ?_
    exact (State.putIngress_keeps hx3 (covers_trans (by decide) hm) _ _ _ _)
  · refine keeps_fst (P := fun z => Keeps m s0 z) ?_
    exact (State.putBlock_keeps hx6 (covers_trans (by decide) hm) _ _ _ _)

theorem State.rxStreamBlock_keeps (h : Keeps m s0 s) (hm : covers m [.regs, .mem, .eng, .host, .mil, .net, .nbr, .out] = true) : ∀ a1 a2, Keeps m s0 (State.rxStreamBlock s a1 a2) := by
  intro a1 a2
  unfold State.rxStreamBlock
  extract_lets -merge -underBinder x0 x1 x2 x3 x4 x5 x6 x7 x8 x9
  have hx4 : Keeps m s0 x4.1 := by
    subst x4
    refine keeps_foldl (P := fun (z : State × Bool) => Keeps m s0 z.1) ?_ fun _ _ h10 => ?_
    · refine keeps_fst (P := fun z => Keeps m s0 z) ?_
      exact h
    · extract_lets -merge -underBinder x11
      have hx11 : Keeps m s0 x11.1 := (State.rxChannel_keeps h10 (covers_trans (by decide) hm) _ _ _ _ _)
      try clear_value x11
      refine keeps_fst (P := fun z => Keeps m s0 z) ?_
      exact hx11
  have hx8 : Keeps m s0 x8 := (State.setRx_keeps hx4 (covers_trans (by decide) hm) _ _)
  try clear_value x8
  try clear_value x4
  refine State.when_keeps ?_ _ _ fun _ h12 => ?_
  · refine State.when_keeps ?_ _ _ fun _ h13 => ?_
    · dsimp -zeta only [x9]
      refine keeps_ite (P := fun z => Keeps m s0 z) ?_ ?_
      · exact (State.modRxStat_keeps hx8 (covers_trans (by decide) hm) _ _)
      · refine keeps_ite (P := fun z => Keeps m s0 z) ?_ ?_
        · exact (State.modRxStat_keeps hx8 (covers_trans (by decide) hm) _ _)
        · exact hx8
    · exact (State.raise_keeps h13 (covers_trans (by decide) hm) _ _)
  · exact (State.raise_keeps h12 (covers_trans (by decide) hm) _ _)

theorem State.rxBlock_keeps (h : Keeps m s0 s) (hm : covers m [.regs, .mem, .eng, .host, .mil, .net, .nbr, .out] = true) : ∀ a1, Keeps m s0 (State.rxBlock s a1) := by
  intro a1
  unfold State.rxBlock
  extract_lets -merge -underBinder x0 x1 x2 x3 x4
  have hx2 : Keeps m s0 x2 := by
    subst x2
    refine keeps_foldl (P := fun z => Keeps m s0 z) ?_ fun _ _ h5 => ?_
    · exact h
    · exact (State.rxStreamBlock_keeps h5 (covers_trans (by decide) hm) _ _)
  try clear_value x2
  refine (State.modNet_keeps ?_ (covers_trans (by decide) hm) _)
  dsimp -zeta only [x4]
  refine keeps_foldl (P := fun z => Keeps m s0 z) ?_ fun _ _ h6 => ?_
  · exact hx2
  · refine keeps_ite (P := fun z => Keeps m s0 z) ?_ ?_
    · exact h6
    · refine keeps_ite (P := fun z => Keeps m s0 z) ?_ ?_
      · extract_lets -merge -underBinder x7
        have hx7 : Keeps m s0 x7.2 := (State.substitute_keeps h6 (covers_trans (by decide) hm) _ _)
        try clear_value x7
        exact (State.putIngress_keeps (State.setSubst_keeps hx7 (covers_trans (by decide) hm) _ _) (covers_trans (by decide) hm) _ _ _ _)
      · exact (State.putIngress_keeps (State.setSubst_keeps h6 (covers_trans (by decide) hm) _ _) (covers_trans (by decide) hm) _ _ _ _)

theorem State.showGate_keeps (h : Keeps m s0 s) (hm : covers m [.regs] = true) : Keeps m s0 (State.showGate s) := by
  unfold State.showGate
  exact (State.wr_keeps (State.wr_keeps h (covers_trans (by decide) hm) _ _ _ _) (covers_trans (by decide) hm) _ _ _ _)

theorem State.sendPacket_keeps (h : Keeps m s0 s) (hm : covers m [.regs, .host, .net, .out] = true) : ∀ a1 a2 a3, Keeps m s0 (State.sendPacket s a1 a2 a3) := by
  intro a1 a2 a3
  unfold State.sendPacket
  extract_lets -merge -underBinder x0 x1 x2
  have hx1 : Keeps m s0 x1 := by
    subst x1
    refine State.when_keeps (State.bump_keeps h (covers_trans (by decide) hm) _ _ _ _) _ _ fun _ h3 => ?_
    exact (State.raise_keeps h3 (covers_trans (by decide) hm) _ _)
  try clear_value x1
  refine (State.showGate_keeps ?_ (covers_trans (by decide) hm))
  refine (State.modNet_keeps ?_ (covers_trans (by decide) hm) _)
  dsimp -zeta only [x2]
  refine keeps_foldl (P := fun z => Keeps m s0 z) ?_ fun _ _ h4 => ?_
  · exact hx1
  · split
    · exact h4
    · refine keeps_ite (P := fun z => Keeps m s0 z) ?_ ?_
      · exact (State.modNet_keeps h4 (covers_trans (by decide) hm) _)
      · exact (State.sendFrameOn_keeps (State.modTxStat_keeps h4 (covers_trans (by decide) hm) _ _) (covers_trans (by decide) hm) _ _)

theorem execPacketLaunch_keeps : ∀ a0 a1 a2 t, execPacketLaunch a0 a1 a2 s = .next t →
    Keeps [.regs, .host, .net, .out] s t := by
  intro a0 a1 a2 t e
  have hm : covers [.regs, .host, .net, .out] [.regs, .host, .net, .out] = true := by decide
  have h := Keeps.refl [.regs, .host, .net, .out] s
  unfold execPacketLaunch at e
  extract_lets -merge -underBinder x0 x1 at e
  replace e := Host.Outcome.next.inj e
  subst e
  try clear_value x1
  split
  · extract_lets -merge -underBinder x2 x3 x4
    refine keeps_ite (P := fun z => Keeps [.regs, .host, .net, .out] s z) ?_ ?_
    · exact h
    · refine keeps_ite (P := fun z => Keeps [.regs, .host, .net, .out] s z) ?_ ?_
      · exact (State.modNet_keeps h (covers_trans (by decide) hm) _)
      · try dsimp -zeta only [x0]
        refine keeps_ite (P := fun z => Keeps [.regs, .host, .net, .out] s z) ?_ ?_
        · exact (State.sendPacket_keeps (State.modNet_keeps h (covers_trans (by decide) hm) _) (covers_trans (by decide) hm) _ _ _)
        · extract_lets -merge -underBinder x5
          have hx5 : Keeps [.regs, .host, .net, .out] s x5 := (State.modTxStat_keeps (State.sendPacket_keeps (State.modNet_keeps h (covers_trans (by decide) hm) _) (covers_trans (by decide) hm) _ _ _) (covers_trans (by decide) hm) _ _)
          try clear_value x5
          refine keeps_ite (P := fun z => Keeps [.regs, .host, .net, .out] s z) ?_ ?_
          · exact (State.raise_keeps hx5 (covers_trans (by decide) hm) _ _)
          · exact hx5
  · split
    · exact h
    · extract_lets -merge -underBinder x6 x7
      refine keeps_ite (P := fun z => Keeps [.regs, .host, .net, .out] s z) ?_ ?_
      · exact h
      · try dsimp -zeta only [x0]
        refine keeps_ite (P := fun z => Keeps [.regs, .host, .net, .out] s z) ?_ ?_
        · exact (State.sendPacket_keeps (State.modNet_keeps h (covers_trans (by decide) hm) _) (covers_trans (by decide) hm) _ _ _)
        · extract_lets -merge -underBinder x8
          have hx8 : Keeps [.regs, .host, .net, .out] s x8 := (State.modTxStat_keeps (State.sendPacket_keeps (State.modNet_keeps h (covers_trans (by decide) hm) _) (covers_trans (by decide) hm) _ _ _) (covers_trans (by decide) hm) _ _)
          try clear_value x8
          refine keeps_ite (P := fun z => Keeps [.regs, .host, .net, .out] s z) ?_ ?_
          · exact (State.raise_keeps hx8 (covers_trans (by decide) hm) _ _)
          · exact hx8

end Sys2Proof.Machine
end

