-- ==== Sys2Proof/Laws/KeepsCrier.lean ====
section
/-! SUPPORT. What each function of Machine/Crier.lean keeps: the parts of the state it can change, the canonical form of the stores,
the order of free values and outputs. One lemma per function, assembled from those of the functions it calls. -/
namespace Sys2Proof.Machine

variable {m : List Part} {s0 s : State}

theorem State.setSlotCode_keeps (h : Keeps m s0 s) (hm : covers m [.regs] = true) : ∀ a1 a2, Keeps m s0 (State.setSlotCode s a1 a2) := by
  intro a1 a2
  unfold State.setSlotCode
  exact (State.wr_keeps h (covers_trans (by decide) hm) _ _ _ _)

theorem State.setPosted_keeps (h : Keeps m s0 s) (hm : covers m [.regs, .net] = true) : ∀ a1, Keeps m s0 (State.setPosted s a1) := by
  intro a1
  unfold State.setPosted
  exact (State.wr_keeps (State.modNet_keeps h (covers_trans (by decide) hm) _) (covers_trans (by decide) hm) _ _ _ _)

theorem State.endSlot_keeps (h : Keeps m s0 s) (hm : covers m [.regs, .mem, .host, .net, .nbr, .out] = true) : ∀ a1 a2, Keeps m s0 (State.endSlot s a1 a2) := by
  intro a1 a2
  unfold State.endSlot
  extract_lets -merge -underBinder x0 x1
  have hx0 : Keeps m s0 x0 := (State.setSlotCode_keeps (State.setPosted_keeps (State.store_keeps h (covers_trans (by decide) hm) _ _ _) (covers_trans (by decide) hm) _) (covers_trans (by decide) hm) _ _)
  have hx1 : Keeps m s0 x1 := (State.raise_keeps hx0 (covers_trans (by decide) hm) _ _)
  try clear_value x1
  try clear_value x0
  refine keeps_ite (P := fun z => Keeps m s0 z) ?_ ?_
  · exact (State.nbrSend_keeps hx1 (covers_trans (by decide) hm) _ _)
  · exact hx1

theorem State.holdCrier_keeps (h : Keeps m s0 s) (hm : covers m [.net] = true) : ∀ a1 a2, Keeps m s0 (State.holdCrier s a1 a2) := by
  intro a1 a2
  unfold State.holdCrier
  exact (State.modNet_keeps h (covers_trans (by decide) hm) _)

theorem State.releaseSlot_keeps (h : Keeps m s0 s) (hm : covers m [.regs, .mem, .host, .net, .nbr, .out, .free] = true) : ∀ a1 a2, Keeps m s0 (State.releaseSlot s a1 a2) := by
  intro a1 a2
  unfold State.releaseSlot
  extract_lets -merge -underBinder x0 x1 x2 x3 x4 x5
  have hx4 : Keeps m s0 x4 := by
    subst x4
    refine keeps_ite (P := fun z => Keeps m s0 z) ?_ ?_
    · exact (State.holdCrier_keeps h (covers_trans (by decide) hm) _ _)
    · refine keeps_foldl (P := fun z => Keeps m s0 z) ?_ fun _ _ h6 => ?_
      · exact h
      · exact (State.sendFrameOn_keeps h6 (covers_trans (by decide) hm) _ _)
  have hx5 : Keeps m s0 x5 := (State.store_keeps (State.store_keeps (State.useFree_keeps hx4 (covers_trans (by decide) hm) _) (covers_trans (by decide) hm) _ _ _) (covers_trans (by decide) hm) _ _ _)
  try clear_value x5
  try clear_value x4
  refine keeps_ite (P := fun z => Keeps m s0 z) ?_ ?_
  · exact (State.endSlot_keeps h (covers_trans (by decide) hm) _ _)
  · exact (State.endSlot_keeps hx5 (covers_trans (by decide) hm) _ _)

theorem State.askSlot_keeps (h : Keeps m s0 s) (hm : covers m [.regs, .out] = true) : ∀ a1, Keeps m s0 (State.askSlot s a1) := by
  intro a1
  unfold State.askSlot
  refine keeps_foldl (P := fun z => Keeps m s0 z) ?_ fun _ _ h0 => ?_
  · exact h
  · refine keeps_ite (P := fun z => Keeps m s0 z) ?_ ?_
    · exact (State.askMac_keeps h0 (covers_trans (by decide) hm) _ _ _)
    · exact h0

theorem execCriPost_keeps : ∀ a0 t, execCriPost a0 s = .next t →
    Keeps [.regs, .mem, .host, .net, .nbr, .out, .free] s t := by
  intro a0 t e
  have hm : covers [.regs, .mem, .host, .net, .nbr, .out, .free] [.regs, .mem, .host, .net, .nbr, .out, .free] = true := by decide
  have h := Keeps.refl [.regs, .mem, .host, .net, .nbr, .out, .free] s
  unfold execCriPost at e
  extract_lets -merge -underBinder x0 x1 x2 x3 at e
  have hx2 : Keeps [.regs, .mem, .host, .net, .nbr, .out, .free] s x2 := (State.setPosted_keeps (State.setSlotCode_keeps (State.store_keeps h (covers_trans (by decide) hm) _ _ _) (covers_trans (by decide) hm) _ _) (covers_trans (by decide) hm) _)
  have hx3 : Keeps [.regs, .mem, .host, .net, .nbr, .out, .free] s x3 := (State.askSlot_keeps hx2 (covers_trans (by decide) hm) _)
  try clear_value x3
  try clear_value x2
  replace e := Host.Outcome.next.inj e
  subst e
  refine keeps_ite (P := fun z => Keeps [.regs, .mem, .host, .net, .nbr, .out, .free] s z) ?_ ?_
  · exact (State.raise_keeps h (covers_trans (by decide) hm) _ _)
  · refine keeps_ite (P := fun z => Keeps [.regs, .mem, .host, .net, .nbr, .out, .free] s z) ?_ ?_
    · refine keeps_ite (P := fun z => Keeps [.regs, .mem, .host, .net, .nbr, .out, .free] s z) ?_ ?_
      · exact (State.releaseSlot_keeps hx3 (covers_trans (by decide) hm) _ _)
      · exact hx3
    · split
      · exact hx3
      · refine keeps_ite (P := fun z => Keeps [.regs, .mem, .host, .net, .nbr, .out, .free] s z) ?_ ?_
        · exact (State.endSlot_keeps hx3 (covers_trans (by decide) hm) _ _)
        · refine keeps_ite (P := fun z => Keeps [.regs, .mem, .host, .net, .nbr, .out, .free] s z) ?_ ?_
          · exact (State.releaseSlot_keeps hx3 (covers_trans (by decide) hm) _ _)
          · exact hx3

theorem execCriCancel_keeps : ∀ a0 t, execCriCancel a0 s = .next t →
    Keeps [.regs, .mem, .host, .net, .nbr, .out] s t := by
  intro a0 t e
  have hm : covers [.regs, .mem, .host, .net, .nbr, .out] [.regs, .mem, .host, .net, .nbr, .out] = true := by decide
  have h := Keeps.refl [.regs, .mem, .host, .net, .nbr, .out] s
  unfold execCriCancel at e
  extract_lets -merge -underBinder x0 at e
  replace e := Host.Outcome.next.inj e
  subst e
  refine keeps_ite (P := fun z => Keeps [.regs, .mem, .host, .net, .nbr, .out] s z) ?_ ?_
  · exact (State.endSlot_keeps h (covers_trans (by decide) hm) _ _)
  · exact h

theorem execArpRetry_keeps : ∀ a0 t, execArpRetry a0 s = .next t →
    Keeps [.regs, .out] s t := by
  intro a0 t e
  have hm : covers [.regs, .out] [.regs, .out] = true := by decide
  have h := Keeps.refl [.regs, .out] s
  unfold execArpRetry at e
  replace e := Host.Outcome.next.inj e
  subst e
  refine keeps_ite (P := fun z => Keeps [.regs, .out] s z) ?_ ?_
  · exact (State.askSlot_keeps h (covers_trans (by decide) hm) _)
  · exact h

theorem execCrierPtpRelease_keeps : ∀ a0 t, execCrierPtpRelease a0 s = .next t →
    Keeps [.regs, .mem, .host, .net, .nbr, .out, .free] s t := by
  intro a0 t e
  have hm : covers [.regs, .mem, .host, .net, .nbr, .out, .free] [.regs, .mem, .host, .net, .nbr, .out, .free] = true := by decide
  have h := Keeps.refl [.regs, .mem, .host, .net, .nbr, .out, .free] s
  unfold execCrierPtpRelease at e
  extract_lets -merge -underBinder x0 at e
  replace e := Host.Outcome.next.inj e
  subst e
  refine keeps_ite (P := fun z => Keeps [.regs, .mem, .host, .net, .nbr, .out, .free] s z) ?_ ?_
  · exact (State.releaseSlot_keeps h (covers_trans (by decide) hm) _ _)
  · exact h

theorem execCrierSwapRelease_keeps : ∀ a0 t, execCrierSwapRelease a0 s = .next t →
    Keeps [.regs, .mem, .host, .net, .nbr, .out, .free] s t := by
  intro a0 t e
  have hm : covers [.regs, .mem, .host, .net, .nbr, .out, .free] [.regs, .mem, .host, .net, .nbr, .out, .free] = true := by decide
  have h := Keeps.refl [.regs, .mem, .host, .net, .nbr, .out, .free] s
  unfold execCrierSwapRelease at e
  extract_lets -merge -underBinder x0 at e
  replace e := Host.Outcome.next.inj e
  subst e
  refine keeps_ite (P := fun z => Keeps [.regs, .mem, .host, .net, .nbr, .out, .free] s z) ?_ ?_
  · split
    · refine keeps_ite (P := fun z => Keeps [.regs, .mem, .host, .net, .nbr, .out, .free] s z) ?_ ?_
      · exact (State.releaseSlot_keeps h (covers_trans (by decide) hm) _ _)
      · exact h
    · exact h
  · exact h

theorem State.crierSwap_keeps (h : Keeps m s0 s) (hm : covers m [.regs, .mem, .host, .net, .nbr, .out] = true) : ∀ a1 a2, Keeps m s0 (State.crierSwap s a1 a2) := by
  intro a1 a2
  unfold State.crierSwap
  extract_lets -merge -underBinder x0
  refine (State.modNet_keeps ?_ (covers_trans (by decide) hm) _)
  refine keeps_foldl (P := fun z => Keeps m s0 z) ?_ fun _ _ h1 => ?_
  · exact h
  · exact (State.endSlot_keeps h1 (covers_trans (by decide) hm) _ _)

theorem State.criCapture_keeps (h : Keeps m s0 s) (hm : covers m [.regs, .mem, .scn, .que, .host, .out] = true) : ∀ a1 a2 a3 a4 a5 a6 a7, Keeps m s0 (State.criCapture s a1 a2 a3 a4 a5 a6 a7) := by
  intro a1 a2 a3 a4 a5 a6 a7
  unfold State.criCapture
  extract_lets -merge -underBinder x0 x1 x2 x3 x4 x5 x6 x7 x8 x9 x10 x11 x12
  have hx5 : Keeps m s0 x5 := (State.raise_keeps (State.bump_keeps h (covers_trans (by decide) hm) _ _ _ _) (covers_trans (by decide) hm) _ _)
  have hx6 : Keeps m s0 x6 := by
    subst x6
    refine keeps_ite (P := fun z => Keeps m s0 z) ?_ ?_
    · refine keeps_ite (P := fun z => Keeps m s0 z) ?_ ?_
      · exact (State.frameCue_keeps hx5 (covers_trans (by decide) hm) _ _)
      · exact hx5
    · exact h
  have hx11 : Keeps m s0 x11 := (State.setBytes_keeps (State.setBytes_keeps hx6 (covers_trans (by decide) hm) _ _) (covers_trans (by decide) hm) _ _)
  try clear_value x11
  try clear_value x6
  try clear_value x5
  refine keeps_ite (P := fun z => Keeps m s0 z) ?_ ?_
  · exact (State.raise_keeps (State.bump_keeps hx6 (covers_trans (by decide) hm) _ _ _ _) (covers_trans (by decide) hm) _ _)
  · exact (State.raise_keeps (State.notice_keeps (State.wr_keeps hx11 (covers_trans (by decide) hm) _ _ _ _) (covers_trans (by decide) hm) _ _) (covers_trans (by decide) hm) _ _)

theorem execCriInject_keeps : ∀ a0 t, execCriInject a0 s = .next t →
    Keeps [.regs, .mem, .scn, .que, .host, .out] s t := by
  intro a0 t e
  have hm : covers [.regs, .mem, .scn, .que, .host, .out] [.regs, .mem, .scn, .que, .host, .out] = true := by decide
  have h := Keeps.refl [.regs, .mem, .scn, .que, .host, .out] s
  unfold execCriInject at e
  extract_lets -merge -underBinder x0 at e
  replace e := Host.Outcome.next.inj e
  subst e
  exact (State.criCapture_keeps h (covers_trans (by decide) hm) _ _ _ _ _ _ _)

theorem execUartFrame_keeps : ∀ a0 t, execUartFrame a0 s = .next t →
    Keeps [.regs, .mem, .scn, .que, .host, .out] s t := by
  intro a0 t e
  have hm : covers [.regs, .mem, .scn, .que, .host, .out] [.regs, .mem, .scn, .que, .host, .out] = true := by decide
  have h := Keeps.refl [.regs, .mem, .scn, .que, .host, .out] s
  unfold execUartFrame at e
  extract_lets -merge -underBinder x0 at e
  replace e := Host.Outcome.next.inj e
  subst e
  refine keeps_ite (P := fun z => Keeps [.regs, .mem, .scn, .que, .host, .out] s z) ?_ ?_
  · exact h
  · refine keeps_ite (P := fun z => Keeps [.regs, .mem, .scn, .que, .host, .out] s z) ?_ ?_
    · exact (State.bump_keeps h (covers_trans (by decide) hm) _ _ _ _)
    · exact (State.criCapture_keeps (State.bump_keeps h (covers_trans (by decide) hm) _ _ _ _) (covers_trans (by decide) hm) _ _ _ _ _ _ _)

end Sys2Proof.Machine
end

