-- ==== Sys2Proof/Laws/KeepsPtp.lean ====
section
/-! SUPPORT. What each function of Machine/Ptp.lean keeps: the parts of the state it can change, the canonical form of the stores,
the order of free values and outputs. One lemma per function, assembled from those of the functions it calls. -/
namespace Sys2Proof.Machine

variable {m : List Part} {s0 s : State}

theorem State.pushStamp_keeps (h : Keeps m s0 s) (hm : covers m [.regs, .host, .net, .out] = true) : ∀ a1 a2 a3 a4 a5 a6, Keeps m s0 (State.pushStamp s a1 a2 a3 a4 a5 a6) := by
  intro a1 a2 a3 a4 a5 a6
  unfold State.pushStamp
  refine keeps_ite (P := fun z => Keeps m s0 z) ?_ ?_
  · extract_lets -merge -underBinder x0 x1
    exact (State.wr_keeps (State.modNet_keeps h (covers_trans (by decide) hm) _) (covers_trans (by decide) hm) _ _ _ _)
  · exact (State.raise_keeps (State.bump_keeps h (covers_trans (by decide) hm) _ _ _ _) (covers_trans (by decide) hm) _ _)

theorem State.ptsInfoRead_keeps (h : Keeps m s0 s) (hm : covers m [.regs, .net] = true) : ∀ a1, Keeps m s0 (State.ptsInfoRead s a1).2 := by
  intro a1
  unfold State.ptsInfoRead
  refine keeps_ite (P := fun (z : Nat × State) => Keeps m s0 z.2) ?_ ?_
  · split
    · exact (keeps_snd (P := fun z => Keeps m s0 z) h)
    · exact (keeps_snd (P := fun z => Keeps m s0 z) (State.wr_keeps (State.wr_keeps (State.wr_keeps (State.wr_keeps (State.modNet_keeps h (covers_trans (by decide) hm) _) (covers_trans (by decide) hm) _ _ _ _) (covers_trans (by decide) hm) _ _ _ _) (covers_trans (by decide) hm) _ _ _ _) (covers_trans (by decide) hm) _ _ _ _))
  · exact (keeps_snd (P := fun z => Keeps m s0 z) h)

theorem execPtsFifoInfoRead_keeps : ∀ a0 t, execPtsFifoInfoRead a0 s = .next t →
    Keeps [.regs, .net, .resp] s t := by
  intro a0 t e
  have hm : covers [.regs, .net, .resp] [.regs, .net, .resp] = true := by decide
  have h := Keeps.refl [.regs, .net, .resp] s
  unfold execPtsFifoInfoRead at e
  replace e := Host.Outcome.next.inj e
  subst e
  refine keeps_ite (P := fun z => Keeps [.regs, .net, .resp] s z) ?_ ?_
  · exact h
  · extract_lets -merge -underBinder x0
    have hx0 : Keeps [.regs, .net, .resp] s x0.2 := (State.ptsInfoRead_keeps h (covers_trans (by decide) hm) _)
    try clear_value x0
    exact (State.respond_keeps hx0 (covers_trans (by decide) hm) _ _ _)

theorem State.ptpSend_keeps (h : Keeps m s0 s) (hm : covers m [.regs, .out, .free] = true) : ∀ a1 a2 a3 a4 a5, Keeps m s0 (State.ptpSend s a1 a2 a3 a4 a5) := by
  intro a1 a2 a3 a4 a5
  unfold State.ptpSend
  extract_lets -merge -underBinder x0 x1 x2
  refine keeps_ite (P := fun z => Keeps m s0 z) ?_ ?_
  · try dsimp -zeta only [x2]
    exact (State.sendFrameOn_keeps (State.useFree_keeps h (covers_trans (by decide) hm) _) (covers_trans (by decide) hm) _ _)
  · refine keeps_ite (P := fun z => Keeps m s0 z) ?_ ?_
    · try dsimp -zeta only [x2]
      exact (State.sendFrameOn_keeps (State.useFree_keeps h (covers_trans (by decide) hm) _) (covers_trans (by decide) hm) _ _)
    · refine keeps_ite (P := fun z => Keeps m s0 z) ?_ ?_
      · exact (State.sendFrameOn_keeps h (covers_trans (by decide) hm) _ _)
      · exact h

theorem State.sendSync_keeps (h : Keeps m s0 s) (hm : covers m [.regs, .host, .net, .stp, .out, .free] = true) : ∀ a1, Keeps m s0 (State.sendSync s a1) := by
  intro a1
  unfold State.sendSync
  extract_lets -merge -underBinder x0 x1 x2 x3
  have hx2 : Keeps m s0 x2 := (State.setPtp_keeps h (covers_trans (by decide) hm) _ _)
  try clear_value x2
  refine keeps_ite (P := fun z => Keeps m s0 z) ?_ ?_
  · exact (State.ptpSend_keeps hx2 (covers_trans (by decide) hm) _ _ _ _ _)
  · exact (State.ptpSend_keeps (State.pushStamp_keeps (State.ptpSend_keeps hx2 (covers_trans (by decide) hm) _ _ _ _ _) (covers_trans (by decide) hm) _ _ _ _ _ _) (covers_trans (by decide) hm) _ _ _ _ _)

theorem State.sendDelayReq_keeps (h : Keeps m s0 s) (hm : covers m [.regs, .host, .net, .stp, .out, .free] = true) : ∀ a1 a2, Keeps m s0 (State.sendDelayReq s a1 a2) := by
  intro a1 a2
  unfold State.sendDelayReq
  extract_lets -merge -underBinder x0 x1 x2 x3 x4
  have hx4 : Keeps m s0 x4 := (State.setPtp_keeps h (covers_trans (by decide) hm) _ _)
  try clear_value x4
  exact (State.pushStamp_keeps (State.ptpSend_keeps hx4 (covers_trans (by decide) hm) _ _ _ _ _) (covers_trans (by decide) hm) _ _ _ _ _ _)

theorem State.sendPdelayResp_keeps (h : Keeps m s0 s) (hm : covers m [.regs, .host, .net, .stp, .out, .free] = true) : ∀ a1, Keeps m s0 (State.sendPdelayResp s a1) := by
  intro a1
  unfold State.sendPdelayResp
  split
  · exact h
  · extract_lets -merge -underBinder x0 x1 x2 x3
    have hx2 : Keeps m s0 x2 := (State.setPtp_keeps h (covers_trans (by decide) hm) _ _)
    try clear_value x2
    refine keeps_ite (P := fun z => Keeps m s0 z) ?_ ?_
    · exact (State.ptpSend_keeps hx2 (covers_trans (by decide) hm) _ _ _ _ _)
    · exact (State.ptpSend_keeps (State.pushStamp_keeps (State.ptpSend_keeps hx2 (covers_trans (by decide) hm) _ _ _ _ _) (covers_trans (by decide) hm) _ _ _ _ _ _) (covers_trans (by decide) hm) _ _ _ _ _)

theorem execPtpEventTransmit_keeps : ∀ a0 a1 t, execPtpEventTransmit a0 a1 s = .next t →
    Keeps [.regs, .host, .net, .stp, .out, .free] s t := by
  intro a0 a1 t e
  have hm : covers [.regs, .host, .net, .stp, .out, .free] [.regs, .host, .net, .stp, .out, .free] = true := by decide
  have h := Keeps.refl [.regs, .host, .net, .stp, .out, .free] s
  unfold execPtpEventTransmit at e
  replace e := Host.Outcome.next.inj e
  subst e
  refine keeps_ite (P := fun z => Keeps [.regs, .host, .net, .stp, .out, .free] s z) ?_ ?_
  · exact h
  · refine keeps_ite (P := fun z => Keeps [.regs, .host, .net, .stp, .out, .free] s z) ?_ ?_
    · refine keeps_ite (P := fun z => Keeps [.regs, .host, .net, .stp, .out, .free] s z) ?_ ?_
      · exact (State.sendSync_keeps h (covers_trans (by decide) hm) _)
      · exact h
    · refine keeps_ite (P := fun z => Keeps [.regs, .host, .net, .stp, .out, .free] s z) ?_ ?_
      · refine keeps_ite (P := fun z => Keeps [.regs, .host, .net, .stp, .out, .free] s z) ?_ ?_
        · exact (State.sendDelayReq_keeps h (covers_trans (by decide) hm) _ _)
        · exact h
      · refine keeps_ite (P := fun z => Keeps [.regs, .host, .net, .stp, .out, .free] s z) ?_ ?_
        · refine keeps_ite (P := fun z => Keeps [.regs, .host, .net, .stp, .out, .free] s z) ?_ ?_
          · exact (State.sendDelayReq_keeps h (covers_trans (by decide) hm) _ _)
          · exact h
        · refine keeps_ite (P := fun z => Keeps [.regs, .host, .net, .stp, .out, .free] s z) ?_ ?_
          · exact (State.sendPdelayResp_keeps h (covers_trans (by decide) hm) _)
          · exact h

theorem execAnnounceMessage_keeps : ∀ a0 t, execAnnounceMessage a0 s = .next t →
    Keeps [.regs, .stp, .out, .free] s t := by
  intro a0 t e
  have hm : covers [.regs, .stp, .out, .free] [.regs, .stp, .out, .free] = true := by decide
  have h := Keeps.refl [.regs, .stp, .out, .free] s
  unfold execAnnounceMessage at e
  replace e := Host.Outcome.next.inj e
  subst e
  refine keeps_ite (P := fun z => Keeps [.regs, .stp, .out, .free] s z) ?_ ?_
  · exact h
  · extract_lets -merge -underBinder x0 x1 x2 x3 x4 x5
    have hx3 : Keeps [.regs, .stp, .out, .free] s x3 := (State.setPtp_keeps h (covers_trans (by decide) hm) _ _)
    try clear_value x3
    split
    · exact (State.ptpSend_keeps hx3 (covers_trans (by decide) hm) _ _ _ _ _)
    · extract_lets -merge -underBinder x6 x7
      exact (State.ptpSend_keeps hx3 (covers_trans (by decide) hm) _ _ _ _ _)

theorem State.portGo_keeps (h : Keeps m s0 s) (hm : covers m [.regs, .stp] = true) : ∀ a1 a2, Keeps m s0 (State.portGo s a1 a2) := by
  intro a1 a2
  unfold State.portGo
  extract_lets -merge -underBinder x0 x1 x2 x3
  have hx0 : Keeps m s0 x0 := (State.setPtpState_keeps h (covers_trans (by decide) hm) _ _)
  have hx2 : Keeps m s0 x2 := by
    subst x2
    refine keeps_ite (P := fun z => Keeps m s0 z) ?_ ?_
    · exact (State.losePresence_keeps hx0 (covers_trans (by decide) hm) _)
    · exact hx0
  try clear_value x2
  try clear_value x0
  refine keeps_ite (P := fun z => Keeps m s0 z) ?_ ?_
  · exact (State.showStp_keeps (State.gainPresence_keeps (State.setCand_keeps hx2 (covers_trans (by decide) hm) _ _) (covers_trans (by decide) hm) _) (covers_trans (by decide) hm))
  · refine (State.showStp_keeps ?_ (covers_trans (by decide) hm))
    refine keeps_ite (P := fun z => Keeps m s0 z) ?_ ?_
    · exact (State.losePresence_keeps hx0 (covers_trans (by decide) hm) _)
    · exact hx0

theorem State.boundaryStates_keeps (h : Keeps m s0 s) (hm : covers m [.regs, .stp] = true) : Keeps m s0 (State.boundaryStates s) := by
  unfold State.boundaryStates
  extract_lets -merge -underBinder x0 x1 x2 x3
  try clear_value x2
  split
  · try dsimp -zeta only [x3]
    refine keeps_ite (P := fun z => Keeps m s0 z) ?_ ?_
    · refine (State.portGo_keeps ?_ (covers_trans (by decide) hm) _ _)
      try dsimp -zeta only [x3]
      refine keeps_ite (P := fun z => Keeps m s0 z) ?_ ?_
      · exact (State.portGo_keeps h (covers_trans (by decide) hm) _ _)
      · exact h
    · try dsimp -zeta only [x3]
      refine keeps_ite (P := fun z => Keeps m s0 z) ?_ ?_
      · exact (State.portGo_keeps h (covers_trans (by decide) hm) _ _)
      · exact h
  · refine keeps_ite (P := fun z => Keeps m s0 z) ?_ ?_
    · try dsimp -zeta only [x3]
      refine keeps_ite (P := fun z => Keeps m s0 z) ?_ ?_
      · refine (State.portGo_keeps ?_ (covers_trans (by decide) hm) _ _)
        try dsimp -zeta only [x3]
        refine keeps_ite (P := fun z => Keeps m s0 z) ?_ ?_
        · exact (State.portGo_keeps h (covers_trans (by decide) hm) _ _)
        · exact h
      · try dsimp -zeta only [x3]
        refine keeps_ite (P := fun z => Keeps m s0 z) ?_ ?_
        · exact (State.portGo_keeps h (covers_trans (by decide) hm) _ _)
        · exact h
    · extract_lets -merge -underBinder x4 x5
      try dsimp -zeta only [x3]
      refine keeps_ite (P := fun z => Keeps m s0 z) ?_ ?_
      · refine (State.portGo_keeps ?_ (covers_trans (by decide) hm) _ _)
        try dsimp -zeta only [x3]
        refine keeps_ite (P := fun z => Keeps m s0 z) ?_ ?_
        · exact (State.portGo_keeps h (covers_trans (by decide) hm) _ _)
        · exact h
      · try dsimp -zeta only [x3]
        refine keeps_ite (P := fun z => Keeps m s0 z) ?_ ?_
        · exact (State.portGo_keeps h (covers_trans (by decide) hm) _ _)
        · exact h

theorem State.heedBest_keeps (h : Keeps m s0 s) (hm : covers m [.stp] = true) : ∀ a1, Keeps m s0 (State.heedBest s a1) := by
  intro a1
  unfold State.heedBest
  extract_lets -merge -underBinder x0
  exact (State.setPtp_keeps h (covers_trans (by decide) hm) _ _)

theorem State.roleStates_keeps (h : Keeps m s0 s) (hm : covers m [.regs, .host, .stp, .out] = true) : ∀ a1, Keeps m s0 (State.roleStates s a1) := by
  intro a1
  unfold State.roleStates
  extract_lets -merge -underBinder x0
  split
  · refine keeps_ite (P := fun z => Keeps m s0 z) ?_ ?_
    · refine keeps_ite (P := fun z => Keeps m s0 z) ?_ ?_
      · refine keeps_ite (P := fun z => Keeps m s0 z) ?_ ?_
        · exact h
        · exact (State.raise_keeps (State.portGo_keeps h (covers_trans (by decide) hm) _ _) (covers_trans (by decide) hm) _ _)
      · refine keeps_ite (P := fun z => Keeps m s0 z) ?_ ?_
        · exact (State.portGo_keeps h (covers_trans (by decide) hm) _ _)
        · exact h
    · refine keeps_ite (P := fun z => Keeps m s0 z) ?_ ?_
      · exact (State.boundaryStates_keeps h (covers_trans (by decide) hm))
      · exact (State.portGo_keeps h (covers_trans (by decide) hm) _ _)
  · refine keeps_ite (P := fun z => Keeps m s0 z) ?_ ?_
    · exact (State.boundaryStates_keeps h (covers_trans (by decide) hm))
    · refine keeps_ite (P := fun z => Keeps m s0 z) ?_ ?_
      · exact (State.portGo_keeps h (covers_trans (by decide) hm) _ _)
      · refine keeps_ite (P := fun z => Keeps m s0 z) ?_ ?_
        · exact (State.portGo_keeps h (covers_trans (by decide) hm) _ _)
        · exact h

theorem State.announceHeard_keeps (h : Keeps m s0 s) (hm : covers m [.regs, .host, .stp, .out] = true) : ∀ a1 a2, Keeps m s0 (State.announceHeard s a1 a2) := by
  intro a1 a2
  unfold State.announceHeard
  extract_lets -merge -underBinder x0 x1 x2 x3 x4 x5 x6 x7 x8 x9
  have hx8 : Keeps m s0 x8 := (State.setPtp_keeps h (covers_trans (by decide) hm) _ _)
  have hx9 : Keeps m s0 x9 := (State.heedBest_keeps hx8 (covers_trans (by decide) hm) _)
  try clear_value x9
  try clear_value x8
  refine keeps_ite (P := fun z => Keeps m s0 z) ?_ ?_
  · exact hx9
  · exact (State.roleStates_keeps hx9 (covers_trans (by decide) hm) _)

theorem execAnnounceTimeout_keeps : ∀ a0 t, execAnnounceTimeout a0 s = .next t →
    Keeps [.regs, .host, .stp, .out] s t := by
  intro a0 t e
  have hm : covers [.regs, .host, .stp, .out] [.regs, .host, .stp, .out] = true := by decide
  have h := Keeps.refl [.regs, .host, .stp, .out] s
  unfold execAnnounceTimeout at e
  replace e := Host.Outcome.next.inj e
  subst e
  refine keeps_ite (P := fun z => Keeps [.regs, .host, .stp, .out] s z) ?_ ?_
  · exact h
  · extract_lets -merge -underBinder x0
    exact (State.roleStates_keeps (State.heedBest_keeps (State.setPtp_keeps h (covers_trans (by decide) hm) _ _) (covers_trans (by decide) hm) _) (covers_trans (by decide) hm) _)

theorem State.offsetMeasured_keeps (h : Keeps m s0 s) (hm : covers m [.regs, .stp] = true) : ∀ a1 a2, Keeps m s0 (State.offsetMeasured s a1 a2) := by
  intro a1 a2
  unfold State.offsetMeasured
  extract_lets -merge -underBinder x0 x1
  have hx1 : Keeps m s0 x1 := (State.setPtp_keeps h (covers_trans (by decide) hm) _ _)
  try clear_value x1
  split
  · exact hx1
  · exact (State.showStp_keeps (State.setCand_keeps hx1 (covers_trans (by decide) hm) _ _) (covers_trans (by decide) hm))

theorem State.delayMeasured_keeps (h : Keeps m s0 s) (hm : covers m [.stp] = true) : ∀ a1 a2, Keeps m s0 (State.delayMeasured s a1 a2) := by
  intro a1 a2
  unfold State.delayMeasured
  exact (State.setPtp_keeps h (covers_trans (by decide) hm) _ _)

theorem State.pdelayHeard_keeps (h : Keeps m s0 s) (hm : covers m [.stp] = true) : ∀ a1 a2 a3, Keeps m s0 (State.pdelayHeard s a1 a2 a3) := by
  intro a1 a2 a3
  unfold State.pdelayHeard
  extract_lets -merge -underBinder x0 x1
  split
  · refine keeps_ite (P := fun z => Keeps m s0 z) ?_ ?_
    · exact h
    · refine keeps_ite (P := fun z => Keeps m s0 z) ?_ ?_
      · exact (State.setPtp_keeps h (covers_trans (by decide) hm) _ _)
      · exact (State.delayMeasured_keeps h (covers_trans (by decide) hm) _ _)
  · exact h

theorem State.ptpReceive_keeps (h : Keeps m s0 s) (hm : covers m [.regs, .host, .net, .stp, .out, .free] = true) : ∀ a1 a2, Keeps m s0 (State.ptpReceive s a1 a2) := by
  intro a1 a2
  unfold State.ptpReceive
  extract_lets -merge -underBinder x0 x1 x2 x3 x4 x5
  have hx3 : Keeps m s0 x3 := by
    subst x3
    refine keeps_ite (P := fun z => Keeps m s0 z) ?_ ?_
    · exact (State.pushStamp_keeps h (covers_trans (by decide) hm) _ _ _ _ _ _)
    · exact h
  try clear_value x3
  refine keeps_ite (P := fun z => Keeps m s0 z) ?_ ?_
  · exact hx3
  · refine keeps_ite (P := fun z => Keeps m s0 z) ?_ ?_
    · exact (State.announceHeard_keeps hx3 (covers_trans (by decide) hm) _ _)
    · refine keeps_ite (P := fun z => Keeps m s0 z) ?_ ?_
      · refine keeps_ite (P := fun z => Keeps m s0 z) ?_ ?_
        · exact (State.setPtp_keeps hx3 (covers_trans (by decide) hm) _ _)
        · exact (State.offsetMeasured_keeps hx3 (covers_trans (by decide) hm) _ _)
      · refine keeps_ite (P := fun z => Keeps m s0 z) ?_ ?_
        · split
          · refine keeps_ite (P := fun z => Keeps m s0 z) ?_ ?_
            · exact (State.offsetMeasured_keeps hx3 (covers_trans (by decide) hm) _ _)
            · exact hx3
          · exact hx3
        · refine keeps_ite (P := fun z => Keeps m s0 z) ?_ ?_
          · split
            · refine keeps_ite (P := fun z => Keeps m s0 z) ?_ ?_
              · exact (State.delayMeasured_keeps hx3 (covers_trans (by decide) hm) _ _)
              · exact hx3
            · exact hx3
          · refine keeps_ite (P := fun z => Keeps m s0 z) ?_ ?_
            · exact (State.ptpSend_keeps hx3 (covers_trans (by decide) hm) _ _ _ _ _)
            · refine keeps_ite (P := fun z => Keeps m s0 z) ?_ ?_
              · exact (State.setPtp_keeps hx3 (covers_trans (by decide) hm) _ _)
              · refine keeps_ite (P := fun z => Keeps m s0 z) ?_ ?_
                · exact (State.pdelayHeard_keeps hx3 (covers_trans (by decide) hm) _ _ _)
                · refine keeps_ite (P := fun z => Keeps m s0 z) ?_ ?_
                  · split
                    · refine keeps_ite (P := fun z => Keeps m s0 z) ?_ ?_
                      · exact (State.delayMeasured_keeps hx3 (covers_trans (by decide) hm) _ _)
                      · exact hx3
                    · exact hx3
                  · exact hx3

end Sys2Proof.Machine
end

