-- ==== Sys2Proof/Laws/KeepsNetwork.lean ====
section
/-! SUPPORT. What each function of Machine/Network.lean keeps: the parts of the state it can change, the canonical form of the stores,
the order of free values and outputs. One lemma per function, assembled from those of the functions it calls. -/
namespace Sys2Proof.Machine

variable {m : List Part} {s0 s : State}

theorem State.arpHeard_keeps (h : Keeps m s0 s) (hm : covers m [.regs, .net, .out] = true) : ∀ a1 a2, Keeps m s0 (State.arpHeard s a1 a2) := by
  intro a1 a2
  unfold State.arpHeard
  extract_lets -merge -underBinder x0 x1 x2 x3
  have hx3 : Keeps m s0 x3 := (State.learn_keeps h (covers_trans (by decide) hm) _ _ _ _)
  try clear_value x3
  refine keeps_ite (P := fun z => Keeps m s0 z) ?_ ?_
  · exact (State.sendFrameOn_keeps hx3 (covers_trans (by decide) hm) _ _)
  · exact hx3

theorem State.icmp6Heard_keeps (h : Keeps m s0 s) (hm : covers m [.regs, .net, .out, .free] = true) : ∀ a1 a2 a3, Keeps m s0 (State.icmp6Heard s a1 a2 a3) := by
  intro a1 a2 a3
  unfold State.icmp6Heard
  extract_lets -merge -underBinder x0 x1 x2 x3 x4
  have hx3 : Keeps m s0 x3 := (State.learn_keeps h (covers_trans (by decide) hm) _ _ _ _)
  try clear_value x3
  refine keeps_ite (P := fun z => Keeps m s0 z) ?_ ?_
  · refine keeps_ite (P := fun z => Keeps m s0 z) ?_ ?_
    · exact (State.sendIcmp6_keeps hx3 (covers_trans (by decide) hm) _ _ _ _ _ _)
    · exact hx3
  · refine keeps_ite (P := fun z => Keeps m s0 z) ?_ ?_
    · exact (State.learn_keeps h (covers_trans (by decide) hm) _ _ _ _)
    · refine keeps_ite (P := fun z => Keeps m s0 z) ?_ ?_
      · refine keeps_ite (P := fun z => Keeps m s0 z) ?_ ?_
        · exact (State.sendIcmp6_keeps (State.useFree_keeps h (covers_trans (by decide) hm) _) (covers_trans (by decide) hm) _ _ _ _ _ _)
        · exact h
      · refine keeps_ite (P := fun z => Keeps m s0 z) ?_ ?_
        · refine keeps_foldl (P := fun z => Keeps m s0 z) ?_ fun _ _ h5 => ?_
          · exact h
          · exact (State.sendReport_keeps h5 (covers_trans (by decide) hm) _ _ _)
        · exact h

theorem State.icmpHeard_keeps (h : Keeps m s0 s) (hm : covers m [.regs, .out, .free] = true) : ∀ a1 a2 a3, Keeps m s0 (State.icmpHeard s a1 a2 a3) := by
  intro a1 a2 a3
  unfold State.icmpHeard
  extract_lets -merge -underBinder x0
  refine keeps_ite (P := fun z => Keeps m s0 z) ?_ ?_
  · exact (State.sendFrameOn_keeps (State.useFree_keeps h (covers_trans (by decide) hm) _) (covers_trans (by decide) hm) _ _)
  · exact h

theorem State.igmpHeard_keeps (h : Keeps m s0 s) (hm : covers m [.regs, .out] = true) : ∀ a1 a2, Keeps m s0 (State.igmpHeard s a1 a2) := by
  intro a1 a2
  unfold State.igmpHeard
  extract_lets -merge -underBinder x0
  refine keeps_ite (P := fun z => Keeps m s0 z) ?_ ?_
  · refine keeps_foldl (P := fun z => Keeps m s0 z) ?_ fun _ _ h1 => ?_
    · exact h
    · exact (State.sendReport_keeps h1 (covers_trans (by decide) hm) _ _ _)
  · exact h

theorem State.unmatched_keeps (h : Keeps m s0 s) (hm : covers m [.regs] = true) : ∀ a1, Keeps m s0 (State.unmatched s a1) := by
  intro a1
  unfold State.unmatched
  exact (State.bump_keeps h (covers_trans (by decide) hm) _ _ _ _)

theorem State.routeUdp_keeps (h : Keeps m s0 s) (hm : covers m [.regs, .mem, .scn, .que, .host, .net, .nbr, .out] = true) : ∀ a1 a2, Keeps m s0 (State.routeUdp s a1 a2) := by
  intro a1 a2
  unfold State.routeUdp
  extract_lets -merge -underBinder x0 x1 x2 x3 x4
  refine keeps_ite (P := fun z => Keeps m s0 z) ?_ ?_
  · refine keeps_ite (P := fun z => Keeps m s0 z) ?_ ?_
    · exact (State.grantWrite_keeps h (covers_trans (by decide) hm) _ _ _)
    · exact h
  · try clear_value x3
    split
    · refine keeps_ite (P := fun z => Keeps m s0 z) ?_ ?_
      · refine keeps_foldl (P := fun z => Keeps m s0 z) ?_ fun _ _ h5 => ?_
        · exact h
        · exact (State.rtpReceive_keeps h5 (covers_trans (by decide) hm) _ _ _)
      · split
        · exact (State.criCapture_keeps h (covers_trans (by decide) hm) _ _ _ _ _ _ _)
        · exact (State.unmatched_keeps h (covers_trans (by decide) hm) _)
    · split
      · exact (State.criCapture_keeps h (covers_trans (by decide) hm) _ _ _ _ _ _ _)
      · exact (State.unmatched_keeps h (covers_trans (by decide) hm) _)

theorem State.routeFrame_keeps (h : Keeps m s0 s) (hm : covers m [.regs, .mem, .scn, .que, .host, .net, .stp, .nbr, .out, .free] = true) : ∀ a1 a2 a3 a4, Keeps m s0 (State.routeFrame s a1 a2 a3 a4) := by
  intro a1 a2 a3 a4
  unfold State.routeFrame
  refine keeps_ite (P := fun z => Keeps m s0 z) ?_ ?_
  · refine keeps_ite (P := fun z => Keeps m s0 z) ?_ ?_
    · exact (State.ptpReceive_keeps h (covers_trans (by decide) hm) _ _)
    · exact (State.unmatched_keeps h (covers_trans (by decide) hm) _)
  · refine keeps_ite (P := fun z => Keeps m s0 z) ?_ ?_
    · exact (State.arpHeard_keeps h (covers_trans (by decide) hm) _ _)
    · split
      · exact (State.unmatched_keeps h (covers_trans (by decide) hm) _)
      · extract_lets -merge -underBinder x0
        refine keeps_ite (P := fun z => Keeps m s0 z) ?_ ?_
        · exact (State.ptpReceive_keeps h (covers_trans (by decide) hm) _ _)
        · refine keeps_ite (P := fun z => Keeps m s0 z) ?_ ?_
          · exact (State.icmp6Heard_keeps h (covers_trans (by decide) hm) _ _ _)
          · refine keeps_ite (P := fun z => Keeps m s0 z) ?_ ?_
            · exact (State.icmpHeard_keeps h (covers_trans (by decide) hm) _ _ _)
            · refine keeps_ite (P := fun z => Keeps m s0 z) ?_ ?_
              · exact (State.igmpHeard_keeps h (covers_trans (by decide) hm) _ _)
              · refine keeps_ite (P := fun z => Keeps m s0 z) ?_ ?_
                · exact (State.routeUdp_keeps h (covers_trans (by decide) hm) _ _)
                · exact (State.unmatched_keeps h (covers_trans (by decide) hm) _)

theorem execFrameReceive_keeps : ∀ a0 a1 a2 a3 a4 t, execFrameReceive a0 a1 a2 a3 a4 s = .next t →
    Keeps [.regs, .mem, .scn, .que, .host, .net, .stp, .nbr, .out, .free] s t := by
  intro a0 a1 a2 a3 a4 t e
  have hm : covers [.regs, .mem, .scn, .que, .host, .net, .stp, .nbr, .out, .free] [.regs, .mem, .scn, .que, .host, .net, .stp, .nbr, .out, .free] = true := by decide
  have h := Keeps.refl [.regs, .mem, .scn, .que, .host, .net, .stp, .nbr, .out, .free] s
  unfold execFrameReceive at e
  replace e := Host.Outcome.next.inj e
  subst e
  refine keeps_ite (P := fun z => Keeps [.regs, .mem, .scn, .que, .host, .net, .stp, .nbr, .out, .free] s z) ?_ ?_
  · exact h
  · extract_lets -merge -underBinder x0 x1 x2 x3 x4
    have hx0 : Keeps [.regs, .mem, .scn, .que, .host, .net, .stp, .nbr, .out, .free] s x0 := (State.bump_keeps (State.bump_keeps h (covers_trans (by decide) hm) _ _ _ _) (covers_trans (by decide) hm) _ _ _ _)
    have hx1 : Keeps [.regs, .mem, .scn, .que, .host, .net, .stp, .nbr, .out, .free] s x1 := by
      subst x1
      refine State.when_keeps hx0 _ _ fun _ h5 => ?_
      exact (State.raise_keeps h5 (covers_trans (by decide) hm) _ _)
    have hx3 : Keeps [.regs, .mem, .scn, .que, .host, .net, .stp, .nbr, .out, .free] s x3 := (State.bump_keeps hx1 (covers_trans (by decide) hm) _ _ _ _)
    try clear_value x3
    try clear_value x1
    try clear_value x0
    refine keeps_ite (P := fun z => Keeps [.regs, .mem, .scn, .que, .host, .net, .stp, .nbr, .out, .free] s z) ?_ ?_
    · exact (State.bump_keeps hx1 (covers_trans (by decide) hm) _ _ _ _)
    · refine keeps_ite (P := fun z => Keeps [.regs, .mem, .scn, .que, .host, .net, .stp, .nbr, .out, .free] s z) ?_ ?_
      · exact (State.unmatched_keeps hx3 (covers_trans (by decide) hm) _)
      · split
        · exact (State.unmatched_keeps hx3 (covers_trans (by decide) hm) _)
        · exact (State.routeFrame_keeps hx3 (covers_trans (by decide) hm) _ _ _ _)

theorem State.linkChange_keeps (h : Keeps m s0 s) (hm : covers m [.regs, .host, .out] = true) : ∀ a1 a2 a3 a4 a5 a6, Keeps m s0 (State.linkChange s a1 a2 a3 a4 a5 a6) := by
  intro a1 a2 a3 a4 a5 a6
  unfold State.linkChange
  extract_lets -merge -underBinder x0 x1 x2
  have hx1 : Keeps m s0 x1 := (State.wr_keeps (State.wr_keeps (State.wr_keeps (State.wr_keeps (State.wr_keeps h (covers_trans (by decide) hm) _ _ _ _) (covers_trans (by decide) hm) _ _ _ _) (covers_trans (by decide) hm) _ _ _ _) (covers_trans (by decide) hm) _ _ _ _) (covers_trans (by decide) hm) _ _ _ _)
  have hx2 : Keeps m s0 x2 := by
    subst x2
    refine State.when_keeps hx1 _ _ fun _ h3 => ?_
    exact (State.raise_keeps h3 (covers_trans (by decide) hm) _ _)
  try clear_value x2
  try clear_value x1
  refine State.when_keeps hx2 _ _ fun _ h4 => ?_
  exact (State.raise_keeps h4 (covers_trans (by decide) hm) _ _)

theorem execPortLinkChange_keeps : ∀ a0 a1 a2 a3 a4 a5 t, execPortLinkChange a0 a1 a2 a3 a4 a5 s = .next t →
    Keeps [.regs, .host, .out] s t := by
  intro a0 a1 a2 a3 a4 a5 t e
  have hm : covers [.regs, .host, .out] [.regs, .host, .out] = true := by decide
  have h := Keeps.refl [.regs, .host, .out] s
  unfold execPortLinkChange at e
  replace e := Host.Outcome.next.inj e
  subst e
  refine keeps_ite (P := fun z => Keeps [.regs, .host, .out] s z) ?_ ?_
  · exact (State.linkChange_keeps h (covers_trans (by decide) hm) _ _ _ _ _ _)
  · exact h

theorem execSpeedSeek_keeps : ∀ a0 t, execSpeedSeek a0 s = .next t →
    Keeps [.regs] s t := by
  intro a0 t e
  have hm : covers [.regs] [.regs] = true := by decide
  have h := Keeps.refl [.regs] s
  unfold execSpeedSeek at e
  replace e := Host.Outcome.next.inj e
  subst e
  refine keeps_ite (P := fun z => Keeps [.regs] s z) ?_ ?_
  · exact (State.wr_keeps h (covers_trans (by decide) hm) _ _ _ _)
  · exact h

theorem State.applyNt_keeps (h : Keeps m s0 s) (hm : covers m [.regs, .live, .pend, .host, .net, .out] = true) : ∀ a1, Keeps m s0 (State.applyNt s a1) := by
  intro a1
  unfold State.applyNt
  extract_lets -merge -underBinder x0 x1 x2 x3 x4 x5
  have hx2 : Keeps m s0 x2 := (State.enforce_keeps h (covers_trans (by decide) hm) _)
  have hx4 : Keeps m s0 x4 := by
    subst x4
    dsimp -zeta only [x3]
    refine keeps_ite (P := fun z => Keeps m s0 z) ?_ ?_
    · refine (State.renewMembers_keeps ?_ (covers_trans (by decide) hm))
      refine (State.announceIp_keeps ?_ (covers_trans (by decide) hm) _ _)
      refine keeps_ite (P := fun z => Keeps m s0 z) ?_ ?_
      · exact (State.renewMembers_keeps (State.announceIp_keeps hx2 (covers_trans (by decide) hm) _ _) (covers_trans (by decide) hm))
      · exact hx2
    · refine keeps_ite (P := fun z => Keeps m s0 z) ?_ ?_
      · exact (State.renewMembers_keeps (State.announceIp_keeps hx2 (covers_trans (by decide) hm) _ _) (covers_trans (by decide) hm))
      · exact hx2
  try clear_value x4
  try clear_value x2
  refine keeps_ite (P := fun z => Keeps m s0 z) ?_ ?_
  · exact (State.endPend_keeps h (covers_trans (by decide) hm) _ _)
  · refine keeps_ite (P := fun z => Keeps m s0 z) ?_ ?_
    · exact (State.wr_keeps (State.linkChange_keeps hx4 (covers_trans (by decide) hm) _ _ _ _ _ _) (covers_trans (by decide) hm) _ _ _ _)
    · exact hx4

theorem State.applyNetwork_keeps (h : Keeps m s0 s) (hm : covers m [.regs, .live, .pend, .mem, .host, .net, .out] = true) : ∀ a1, Keeps m s0 (State.applyNetwork s a1) := by
  intro a1
  unfold State.applyNetwork
  refine keeps_ite (P := fun z => Keeps m s0 z) ?_ ?_
  · exact (State.applyStreams_keeps h (covers_trans (by decide) hm) _ _)
  · refine keeps_ite (P := fun z => Keeps m s0 z) ?_ ?_
    · exact (State.applyStreams_keeps h (covers_trans (by decide) hm) _ _)
    · exact (State.applyNt_keeps h (covers_trans (by decide) hm) _)

end Sys2Proof.Machine
end

