-- ==== Sys2Proof/Laws/KeepsRegisters.lean ====
section
/-! SUPPORT. What each function of Machine/Registers.lean keeps: the parts of the state it can change, the canonical form of the stores,
the order of free values and outputs. One lemma per function, assembled from those of the functions it calls. -/
namespace Sys2Proof.Machine

variable {m : List Part} {s0 s : State}

theorem State.pageError_keeps (h : Keeps m s0 s) (hm : covers m [.regs, .host, .out] = true) : ∀ a1 a2 a3 a4 a5, Keeps m s0 (State.pageError s a1 a2 a3 a4 a5) := by
  intro a1 a2 a3 a4 a5
  unfold State.pageError
  refine keeps_ite (P := fun z => Keeps m s0 z) ?_ ?_
  · extract_lets -merge -underBinder x0
    have hx0 : Keeps m s0 x0 := (State.bump_keeps h (covers_trans (by decide) hm) _ _ _ _)
    try clear_value x0
    refine keeps_ite (P := fun z => Keeps m s0 z) ?_ ?_
    · exact hx0
    · exact (State.raise_keeps (State.wr_keeps (State.wr_keeps (State.wr_keeps (State.wr_keeps (State.wr_keeps (State.wr_keeps hx0 (covers_trans (by decide) hm) _ _ _ _) (covers_trans (by decide) hm) _ _ _ _) (covers_trans (by decide) hm) _ _ _ _) (covers_trans (by decide) hm) _ _ _ _) (covers_trans (by decide) hm) _ _ _ _) (covers_trans (by decide) hm) _ _ _ _) (covers_trans (by decide) hm) _ _)
  · exact (State.captureErr_keeps h (covers_trans (by decide) hm) _ _ _ _ _)

theorem State.clearRc_keeps (h : Keeps m s0 s) (hm : covers m [.regs, .net] = true) : ∀ a1 a2, Keeps m s0 (State.clearRc s a1 a2) := by
  intro a1 a2
  unfold State.clearRc
  split
  · exact h
  · refine keeps_ite (P := fun z => Keeps m s0 z) ?_ ?_
    · exact h
    · refine keeps_ite (P := fun z => Keeps m s0 z) ?_ ?_
      · extract_lets -merge -underBinder x0 x1 x2
        exact (State.modNet_keeps h (covers_trans (by decide) hm) _)
      · refine keeps_ite (P := fun z => Keeps m s0 z) ?_ ?_
        · extract_lets -merge -underBinder x3 x4 x5
          exact (State.modNet_keeps h (covers_trans (by decide) hm) _)
        · extract_lets -merge -underBinder x6 x7
          exact (State.setReg_keeps h (covers_trans (by decide) hm) _ _)

theorem State.storeBits_keeps (h : Keeps m s0 s) (hm : covers m [.regs] = true) : ∀ a1 a2 a3 a4, Keeps m s0 (State.storeBits s a1 a2 a3 a4) := by
  intro a1 a2 a3 a4
  unfold State.storeBits
  extract_lets -merge -underBinder x0 x1
  exact (State.setReg_keeps h (covers_trans (by decide) hm) _ _)

theorem State.clearW1c_keeps (h : Keeps m s0 s) (hm : covers m [.regs, .host, .out] = true) : ∀ a1 a2 a3, Keeps m s0 (State.clearW1c s a1 a2 a3) := by
  intro a1 a2 a3
  unfold State.clearW1c
  split
  · exact h
  · refine keeps_ite (P := fun z => Keeps m s0 z) ?_ ?_
    · exact (State.clearRaw_keeps h (covers_trans (by decide) hm) _ _)
    · extract_lets -merge -underBinder x0
      exact (State.setReg_keeps h (covers_trans (by decide) hm) _ _)

theorem State.testIrq_keeps (h : Keeps m s0 s) (hm : covers m [.regs, .host, .out] = true) : ∀ a1 a2, Keeps m s0 (State.testIrq s a1 a2) := by
  intro a1 a2
  unfold State.testIrq
  exact (State.raiseMask_keeps h (covers_trans (by decide) hm) _ _)

end Sys2Proof.Machine
end

