-- ==== Sys2Proof/Laws/KeepsModes.lean ====
section
/-! SUPPORT. What each function of Machine/Modes.lean keeps: the parts of the state it can change, the canonical form of the stores,
the order of free values and outputs. One lemma per function, assembled from those of the functions it calls. -/
namespace Sys2Proof.Machine

variable {m : List Part} {s0 s : State}

theorem State.answerModes_keeps (h : Keeps m s0 s) (hm : covers m [.regs, .que, .host, .modes, .out] = true) : ∀ a1 a2, Keeps m s0 (State.answerModes s a1 a2) := by
  intro a1 a2
  unfold State.answerModes
  refine keeps_foldl (P := fun z => Keeps m s0 z) ?_ fun _ _ h0 => ?_
  · exact (State.modModes_keeps h (covers_trans (by decide) hm) _)
  · exact (State.reply_keeps h0 (covers_trans (by decide) hm) _ _ _)

theorem State.countModeRefusal_keeps (h : Keeps m s0 s) (hm : covers m [.regs, .host, .out] = true) : Keeps m s0 (State.countModeRefusal s) := by
  unfold State.countModeRefusal
  exact (State.raise_keeps (State.bump_keeps h (covers_trans (by decide) hm) _ _ _ _) (covers_trans (by decide) hm) _ _)

theorem State.sysEnds_keeps (h : Keeps m s0 s) (hm : covers m [.regs, .pend, .que, .host, .modes, .out] = true) : ∀ a1 a2, Keeps m s0 (State.sysEnds s a1 a2) := by
  intro a1 a2
  unfold State.sysEnds
  refine (State.answerModes_keeps ?_ (covers_trans (by decide) hm) _ _)
  refine State.when_keeps (State.endPend_keeps h (covers_trans (by decide) hm) _ _) _ _ fun _ h0 => ?_
  exact (State.countModeRefusal_keeps h0 (covers_trans (by decide) hm))

theorem State.setService_keeps (h : Keeps m s0 s) (hm : covers m [.regs, .mil, .modes] = true) : ∀ a1, Keeps m s0 (State.setService s a1) := by
  intro a1
  unfold State.setService
  extract_lets -merge -underBinder x0 x1 x2 x3 x4
  have hx1 : Keeps m s0 x1 := (State.wr_keeps h (covers_trans (by decide) hm) _ _ _ _)
  have hx2 : Keeps m s0 x2 := by
    subst x2
    refine keeps_ite (P := fun z => Keeps m s0 z) ?_ ?_
    · exact (State.debugEnds_keeps hx1 (covers_trans (by decide) hm))
    · exact hx1
  try clear_value x2
  try clear_value x1
  refine keeps_ite (P := fun z => Keeps m s0 z) ?_ ?_
  · exact hx2
  · exact (State.modModes_keeps hx2 (covers_trans (by decide) hm) _)

theorem State.setBlend_keeps (h : Keeps m s0 s) (hm : covers m [.regs] = true) : ∀ a1, Keeps m s0 (State.setBlend s a1) := by
  intro a1
  unfold State.setBlend
  exact (State.wr_keeps (State.wr_keeps h (covers_trans (by decide) hm) _ _ _ _) (covers_trans (by decide) hm) _ _ _ _)

theorem State.setRate_keeps (h : Keeps m s0 s) (hm : covers m [.regs] = true) : ∀ a1, Keeps m s0 (State.setRate s a1) := by
  intro a1
  unfold State.setRate
  extract_lets -merge -underBinder x0
  have hx0 : Keeps m s0 x0 := (State.wr_keeps (State.wr_keeps (State.wr_keeps (State.wr_keeps h (covers_trans (by decide) hm) _ _ _ _) (covers_trans (by decide) hm) _ _ _ _) (covers_trans (by decide) hm) _ _ _ _) (covers_trans (by decide) hm) _ _ _ _)
  try clear_value x0
  exact (State.wr_keeps (State.setBlend_keeps hx0 (covers_trans (by decide) hm) _) (covers_trans (by decide) hm) _ _ _ _)

theorem State.setPhase_keeps (h : Keeps m s0 s) (hm : covers m [.regs] = true) : ∀ a1, Keeps m s0 (State.setPhase s a1) := by
  intro a1
  unfold State.setPhase
  exact (State.wr_keeps h (covers_trans (by decide) hm) _ _ _ _)

theorem State.cancelRoutes_keeps (h : Keeps m s0 s) (hm : covers m [.xrd, .scn] = true) : Keeps m s0 (State.cancelRoutes s) := by
  unfold State.cancelRoutes
  extract_lets -merge -underBinder x0 x1 x2 x3
  refine (State.modScn_keeps ?_ (covers_trans (by decide) hm) _)
  refine keeps_foldl (P := fun z => Keeps m s0 z) ?_ fun _ _ h4 => ?_
  · exact h
  · dsimp -zeta only [x2]
    extract_lets -merge -underBinder x5
    exact (State.setForce_keeps (State.setDest_keeps h4 (covers_trans (by decide) hm) _ _) (covers_trans (by decide) hm) _ _)

theorem State.cancelHandover_keeps (h : Keeps m s0 s) (hm : covers m [.regs, .mem, .boot] = true) : Keeps m s0 (State.cancelHandover s) := by
  unfold State.cancelHandover
  refine keeps_ite (P := fun z => Keeps m s0 z) ?_ ?_
  · extract_lets -merge -underBinder x0 x1
    exact (State.modBoot_keeps (State.putSlot_keeps h (covers_trans (by decide) hm) _ _) (covers_trans (by decide) hm) _)
  · exact h

theorem State.cancelScheduled_keeps (h : Keeps m s0 s) (hm : covers m [.regs, .pend, .mem, .xrd, .scn, .chn, .que, .host, .net, .nbr, .modes, .boot, .out] = true) : ∀ a1, Keeps m s0 (State.cancelScheduled s a1) := by
  intro a1
  unfold State.cancelScheduled
  extract_lets -merge -underBinder x0 x1 x2 x3
  have hx0 : Keeps m s0 x0 := by
    subst x0
    refine keeps_foldl (P := fun z => Keeps m s0 z) ?_ fun _ _ h4 => ?_
    · exact h
    · refine keeps_ite (P := fun z => Keeps m s0 z) ?_ ?_
      · exact (State.sysEnds_keeps h4 (covers_trans (by decide) hm) _ _)
      · exact (State.endPend_keeps h4 (covers_trans (by decide) hm) _ _)
  try clear_value x0
  split
  · refine (State.modModes_keeps ?_ (covers_trans (by decide) hm) _)
    refine (State.reply_keeps ?_ (covers_trans (by decide) hm) _ _ _)
    dsimp -zeta only [x3]
    refine keeps_foldl (P := fun z => Keeps m s0 z) ?_ fun _ _ h5 => ?_
    · dsimp -zeta only [x2]
      refine keeps_ite (P := fun z => Keeps m s0 z) ?_ ?_
      · refine (State.wr_keeps ?_ (covers_trans (by decide) hm) _ _ _ _)
        refine (State.modNbr_keeps ?_ (covers_trans (by decide) hm) _)
        dsimp -zeta only [x1]
        refine (State.cancelHandover_keeps ?_ (covers_trans (by decide) hm))
        refine (State.cancelRoutes_keeps ?_ (covers_trans (by decide) hm))
        refine (State.switchAtRestart_keeps ?_ (covers_trans (by decide) hm))
        refine keeps_ite (P := fun z => Keeps m s0 z) ?_ ?_
        · exact (State.cancelSwap_keeps hx0 (covers_trans (by decide) hm))
        · exact hx0
      · dsimp -zeta only [x1]
        refine (State.cancelHandover_keeps ?_ (covers_trans (by decide) hm))
        refine (State.cancelRoutes_keeps ?_ (covers_trans (by decide) hm))
        refine (State.switchAtRestart_keeps ?_ (covers_trans (by decide) hm))
        refine keeps_ite (P := fun z => Keeps m s0 z) ?_ ?_
        · exact (State.cancelSwap_keeps hx0 (covers_trans (by decide) hm))
        · exact hx0
    · exact (State.endSlot_keeps h5 (covers_trans (by decide) hm) _ _)
  · dsimp -zeta only [x3]
    refine keeps_foldl (P := fun z => Keeps m s0 z) ?_ fun _ _ h6 => ?_
    · dsimp -zeta only [x2]
      refine keeps_ite (P := fun z => Keeps m s0 z) ?_ ?_
      · refine (State.wr_keeps ?_ (covers_trans (by decide) hm) _ _ _ _)
        refine (State.modNbr_keeps ?_ (covers_trans (by decide) hm) _)
        dsimp -zeta only [x1]
        refine (State.cancelHandover_keeps ?_ (covers_trans (by decide) hm))
        refine (State.cancelRoutes_keeps ?_ (covers_trans (by decide) hm))
        refine (State.switchAtRestart_keeps ?_ (covers_trans (by decide) hm))
        refine keeps_ite (P := fun z => Keeps m s0 z) ?_ ?_
        · exact (State.cancelSwap_keeps hx0 (covers_trans (by decide) hm))
        · exact hx0
      · dsimp -zeta only [x1]
        refine (State.cancelHandover_keeps ?_ (covers_trans (by decide) hm))
        refine (State.cancelRoutes_keeps ?_ (covers_trans (by decide) hm))
        refine (State.switchAtRestart_keeps ?_ (covers_trans (by decide) hm))
        refine keeps_ite (P := fun z => Keeps m s0 z) ?_ ?_
        · exact (State.cancelSwap_keeps hx0 (covers_trans (by decide) hm))
        · exact hx0
    · exact (State.endSlot_keeps h6 (covers_trans (by decide) hm) _ _)

theorem State.restartBegin_keeps (h : Keeps m s0 s) (hm : covers m [.regs, .pend, .mem, .eng, .xrd, .scn, .chn, .que, .host, .mil, .net, .nbr, .modes, .boot, .out] = true) : ∀ a1, Keeps m s0 (State.restartBegin s a1) := by
  intro a1
  unfold State.restartBegin
  extract_lets -merge -underBinder x0 x1 x2 x3 x4 x5
  have hx0 : Keeps m s0 x0 := (State.cancelScheduled_keeps h (covers_trans (by decide) hm) _)
  have hx2 : Keeps m s0 x2 := (State.modModes_keeps hx0 (covers_trans (by decide) hm) _)
  have hx3 : Keeps m s0 x3 := (State.modEng_keeps hx2 (covers_trans (by decide) hm) _)
  have hx4 : Keeps m s0 x4 := (State.bump_keeps (State.raise_keeps (State.wr_keeps (State.setPhase_keeps hx3 (covers_trans (by decide) hm) _) (covers_trans (by decide) hm) _ _ _ _) (covers_trans (by decide) hm) _ _) (covers_trans (by decide) hm) _ _ _ _)
  have hx5 : Keeps m s0 x5 := by
    subst x5
    refine keeps_ite (P := fun z => Keeps m s0 z) ?_ ?_
    · exact (State.nbrSend_keeps hx4 (covers_trans (by decide) hm) _ _)
    · exact hx4
  try clear_value x5
  try clear_value x4
  try clear_value x3
  try clear_value x2
  try clear_value x0
  exact (State.setService_keeps hx5 (covers_trans (by decide) hm) _)

theorem State.loadScene_keeps (h : Keeps m s0 s) (hm : covers m [.regs, .mem, .xrd, .scn, .host, .out] = true) : ∀ a1 a2, Keeps m s0 (State.loadScene s a1 a2) := by
  intro a1 a2
  unfold State.loadScene
  extract_lets -merge -underBinder x0 x1 x2 x3 x4 x5 x6 x7 x8 x9 x10 x11 x12 x13
  have hx1 : Keeps m s0 x1 := by
    subst x1
    refine keeps_ite (P := fun z => Keeps m s0 z) ?_ ?_
    · exact (State.finishSwap_keeps h (covers_trans (by decide) hm))
    · exact h
  have hx2 : Keeps m s0 x2 := (State.setBytes_keeps (State.setBytes_keeps (State.clearMem_keeps hx1 (covers_trans (by decide) hm) _ _) (covers_trans (by decide) hm) _ _) (covers_trans (by decide) hm) _ _)
  have hx12 : Keeps m s0 x12 := (State.modScn_keeps hx2 (covers_trans (by decide) hm) _)
  have hx13 : Keeps m s0 x13 := (State.modXrd_keeps hx12 (covers_trans (by decide) hm) _)
  try clear_value x13
  try clear_value x12
  try clear_value x2
  try clear_value x1
  exact (State.updateGroupRegs_keeps (State.endFades_keeps hx13 (covers_trans (by decide) hm)) (covers_trans (by decide) hm))

theorem State.clearLongState_keeps (h : Keeps m s0 s) (hm : covers m [.mem, .eng, .scn, .chn] = true) : Keeps m s0 (State.clearLongState s) := by
  unfold State.clearLongState
  extract_lets -merge -underBinder x0 x1 x2
  have hx1 : Keeps m s0 x1 := by
    subst x1
    refine keeps_ite (P := fun z => Keeps m s0 z) ?_ ?_
    · exact h
    · exact (State.clearMem_keeps h (covers_trans (by decide) hm) _ _)
  have hx2 : Keeps m s0 x2 := (State.modScn_keeps (State.churnClear_keeps hx1 (covers_trans (by decide) hm)) (covers_trans (by decide) hm) _)
  try clear_value x2
  try clear_value x1
  exact (State.modEng_keeps hx2 (covers_trans (by decide) hm) _)

theorem State.loadTables_keeps (h : Keeps m s0 s) (hm : covers m [.regs, .mem, .xrd, .scn, .chn, .host, .mil, .boot, .out] = true) : ∀ c, Keeps m s0 (State.loadTables s c) := by
  intro c
  unfold State.loadTables
  extract_lets x0 x1 mil x2 table x3 x4 x5 _ x6 x7
  have h0 : Keeps m s0 x0 := State.modBoot_keeps h (covers_trans (by decide) hm) _
  have h1 : Keeps m s0 x1 := by
    subst x1
    refine keeps_foldl (P := fun z => Keeps m s0 z) h0 fun _ _ h9 => ?_
    extract_lets _
    exact State.setReg_keeps h9 (covers_trans (by decide) hm) _ _
  have h2 : Keeps m s0 x2 := State.loadScene_keeps (State.loadMillImage_keeps h1 (covers_trans (by decide) hm) _) (covers_trans (by decide) hm) _ _
  have h3 : Keeps m s0 x3 := by
    subst x3
    split
    · exact State.setBytes_keeps h2 (covers_trans (by decide) hm) _ _
    · exact State.clearMem_keeps h2 (covers_trans (by decide) hm) _ _
  have h4 : Keeps m s0 x4 := keeps_foldl (P := fun z => Keeps m s0 z) h3 fun _ _ h => State.wr_keeps h (covers_trans (by decide) hm) _ _ _ _
  have h5 : Keeps m s0 x5 := keeps_foldl (P := fun z => Keeps m s0 z) h4 fun _ _ h =>
    State.wr_keeps (State.wr_keeps h (covers_trans (by decide) hm) _ _ _ _) (covers_trans (by decide) hm) _ _ _ _
  have h6 : Keeps m s0 x6 := State.modChn_keeps h5 (covers_trans (by decide) hm) _
  have h7 : Keeps m s0 x7 := by
    subst x7
    split
    · exact State.wr_keeps (State.setBytes_keeps h6 (covers_trans (by decide) hm) _ _) (covers_trans (by decide) hm) _ _ _ _
    · exact State.wr_keeps h6 (covers_trans (by decide) hm) _ _ _ _
  refine keeps_foldl (P := fun z => Keeps m s0 z) h7 fun _ _ h => ?_
  exact keeps_ite (P := fun z => Keeps m s0 z) (State.setBytes_keeps h (covers_trans (by decide) hm) _ _) h

theorem State.startVcxo_keeps (h : Keeps m s0 s) (hm : covers m [.regs, .stp, .out] = true) : Keeps m s0 (State.startVcxo s) := by
  unfold State.startVcxo
  extract_lets -merge -underBinder x0
  have hx0 : Keeps m s0 x0 := by
    subst x0
    refine keeps_foldl (P := fun z => Keeps m s0 z) ?_ fun _ _ h1 => ?_
    · exact h
    · extract_lets -merge -underBinder x2 x3 x4
      have hx4 : Keeps m s0 x4 := (State.setDac_keeps h1 (covers_trans (by decide) hm) _ _)
      try clear_value x4
      refine keeps_ite (P := fun z => Keeps m s0 z) ?_ ?_
      · exact (State.outDac_keeps hx4 (covers_trans (by decide) hm) _ _)
      · exact hx4
  try clear_value x0
  exact (State.modStp_keeps hx0 (covers_trans (by decide) hm) _)

theorem State.clearPage_keeps (h : Keeps m s0 s) (hm : covers m [.regs, .live, .pend] = true) : ∀ a1, Keeps m s0 (State.clearPage s a1) := by
  intro a1
  unfold State.clearPage
  extract_lets -merge -underBinder x0
  exact (keeps_pend (keeps_live (keeps_regs h (covers_trans (by decide) hm) fun c => sparseFilter_wf c _) (covers_trans (by decide) hm) fun c => sparseFilter_wf c _) (covers_trans (by decide) hm))

theorem State.domainOff_keeps (h : Keeps m s0 s) (hm : covers m [.regs, .live, .pend, .mem, .eng, .xrd, .scn, .chn, .host, .mil, .ports, .stp, .nbr, .memx, .flt, .out] = true) : ∀ a1, Keeps m s0 (State.domainOff s a1) := by
  intro a1
  unfold State.domainOff
  extract_lets -merge -underBinder x0 x1 x2 x3 x4
  have hx0 : Keeps m s0 x0 := by
    subst x0
    refine keeps_foldl (P := fun z => Keeps m s0 z) ?_ fun _ _ h5 => ?_
    · exact h
    · exact (State.clearPage_keeps h5 (covers_trans (by decide) hm) _)
  have hx1 : Keeps m s0 x1 := (State.modMil_keeps hx0 (covers_trans (by decide) hm) _)
  try clear_value x1
  try clear_value x0
  refine (State.wr_keeps ?_ (covers_trans (by decide) hm) _ _ _ _)
  dsimp -zeta only [x4]
  refine keeps_ite (P := fun z => Keeps m s0 z) ?_ ?_
  · exact (State.clearMem_keeps (State.clearMem_keeps hx1 (covers_trans (by decide) hm) _ _) (covers_trans (by decide) hm) _ _)
  · refine keeps_ite (P := fun z => Keeps m s0 z) ?_ ?_
    · exact (keeps_chn hx0 (covers_trans (by decide) hm))
    · refine keeps_ite (P := fun z => Keeps m s0 z) ?_ ?_
      · exact (keeps_parts (l := [.eng, .xrd, .scn, .memx]) hx0 (covers_trans (by decide) hm) (by intro p hp; cases p <;> first | exact absurd hp (by decide) | rfl) rfl rfl rfl rfl rfl)
      · refine keeps_ite (P := fun z => Keeps m s0 z) ?_ ?_
        · refine (State.wr_keeps ?_ (covers_trans (by decide) hm) _ _ _ _)
          refine (State.modMemx_keeps ?_ (covers_trans (by decide) hm) _)
          refine keeps_mem ?_ (covers_trans (by decide) hm) (fun c => sparseFilter_wf c _)
          exact hx0
        · refine keeps_ite (P := fun z => Keeps m s0 z) ?_ ?_
          · exact (State.modHost_keeps hx0 (covers_trans (by decide) hm) _)
          · refine keeps_ite (P := fun z => Keeps m s0 z) ?_ ?_
            · exact (State.linkDown_keeps hx0 (covers_trans (by decide) hm) _)
            · refine keeps_ite (P := fun z => Keeps m s0 z) ?_ ?_
              · exact (keeps_ports hx0 (covers_trans (by decide) hm))
              · refine keeps_ite (P := fun z => Keeps m s0 z) ?_ ?_
                · exact (State.modStp_keeps hx0 (covers_trans (by decide) hm) _)
                · exact hx0

theorem State.pwrDue_keeps (h : Keeps m s0 s) (hm : covers m [.regs, .live, .pend, .mem, .eng, .xrd, .scn, .chn, .host, .mil, .ports, .stp, .nbr, .memx, .flt, .out] = true) : ∀ a1, Keeps m s0 (State.pwrDue s a1) := by
  intro a1
  unfold State.pwrDue
  extract_lets -merge -underBinder x0 x1
  refine keeps_ite (P := fun z => Keeps m s0 z) ?_ ?_
  · exact (State.endPend_keeps h (covers_trans (by decide) hm) _ _)
  · split
    · exact (State.endPend_keeps (State.wr_keeps h (covers_trans (by decide) hm) _ _ _ _) (covers_trans (by decide) hm) _ _)
    · extract_lets -merge -underBinder x2 x3
      have hx2 : Keeps m s0 x2 := by
        subst x2
        refine keeps_foldl (P := fun z => Keeps m s0 z) ?_ fun _ _ h4 => ?_
        · exact (State.putInForce_keeps h (covers_trans (by decide) hm) _ _)
        · exact (State.domainOff_keeps h4 (covers_trans (by decide) hm) _)
      have hx3 : Keeps m s0 x3 := (State.wr_keeps (State.wr_keeps hx2 (covers_trans (by decide) hm) _ _ _ _) (covers_trans (by decide) hm) _ _ _ _)
      try clear_value x3
      try clear_value x2
      refine keeps_ite (P := fun z => Keeps m s0 z) ?_ ?_
      · exact (State.markLate_keeps hx3 (covers_trans (by decide) hm))
      · exact hx3

theorem State.thrDue_keeps (h : Keeps m s0 s) (hm : covers m [.regs, .live, .pend, .host, .out] = true) : ∀ a1, Keeps m s0 (State.thrDue s a1) := by
  intro a1
  unfold State.thrDue
  extract_lets -merge -underBinder x0 x1
  refine keeps_ite (P := fun z => Keeps m s0 z) ?_ ?_
  · exact (State.enforce_keeps h (covers_trans (by decide) hm) _)
  · exact (State.endPend_keeps h (covers_trans (by decide) hm) _ _)

theorem State.grnDue_keeps (h : Keeps m s0 s) (hm : covers m [.regs, .live, .pend, .mem, .host, .memx, .out] = true) : ∀ a1, Keeps m s0 (State.grnDue s a1) := by
  intro a1
  unfold State.grnDue
  extract_lets -merge -underBinder x0 x1 x2 x3 x4 x5 x6 x7
  have hx3 : Keeps m s0 x3 := (State.enforce_keeps h (covers_trans (by decide) hm) _)
  have hx6 : Keeps m s0 x6 := (keeps_memx (keeps_mem hx3 (covers_trans (by decide) hm) fun c => sparseFilter_wf c _) (covers_trans (by decide) hm))
  have hx7 : Keeps m s0 x7 := by
    subst x7
    refine keeps_foldl (P := fun z => Keeps m s0 z) ?_ fun _ _ h8 => ?_
    · exact hx6
    · exact (State.wr_keeps h8 (covers_trans (by decide) hm) _ _ _ _)
  try clear_value x7
  try clear_value x6
  try clear_value x3
  refine keeps_ite (P := fun z => Keeps m s0 z) ?_ ?_
  · exact (State.endPend_keeps h (covers_trans (by decide) hm) _ _)
  · refine keeps_foldl (P := fun z => Keeps m s0 z) ?_ fun _ _ h9 => ?_
    · exact hx7
    · exact (State.setReg_keeps h9 (covers_trans (by decide) hm) _ _)

theorem State.celDue_keeps (h : Keeps m s0 s) (hm : covers m [.regs, .live, .pend, .host, .out] = true) : ∀ a1, Keeps m s0 (State.celDue s a1) := by
  intro a1
  unfold State.celDue
  extract_lets -merge -underBinder x0
  refine keeps_ite (P := fun z => Keeps m s0 z) ?_ ?_
  · exact (State.endPend_keeps h (covers_trans (by decide) hm) _ _)
  · exact (State.enforce_keeps h (covers_trans (by decide) hm) _)

theorem State.glnDue_keeps (h : Keeps m s0 s) (hm : covers m [.regs, .live, .pend, .host, .memx, .out] = true) : ∀ a1, Keeps m s0 (State.glnDue s a1) := by
  intro a1
  unfold State.glnDue
  extract_lets -merge -underBinder x0 x1 x2
  refine keeps_ite (P := fun z => Keeps m s0 z) ?_ ?_
  · exact (State.endPend_keeps h (covers_trans (by decide) hm) _ _)
  · refine keeps_ite (P := fun z => Keeps m s0 z) ?_ ?_
    · exact (State.endPend_keeps h (covers_trans (by decide) hm) _ _)
    · exact (State.glnReset_keeps (State.enforce_keeps h (covers_trans (by decide) hm) _) (covers_trans (by decide) hm))

theorem State.scnDue_keeps (h : Keeps m s0 s) (hm : covers m [.regs, .live, .pend, .scn, .host, .out] = true) :
    ∀ p, Keeps m s0 (State.scnDue s p) := by
  intro p
  have key : ∀ r : Nat × State, Keeps m s0 r.2 → Keeps m s0
      (if r.1 ≠ 0 then ({ r.2 with live := s.live } : State).endPend 0x031 r.1
       else (r.2.endPend 0x031 0x01).when p.late State.markLate) := by
    intro r hr
    have hl : Keeps m s0 ({ r.2 with live := s.live } : State) := by
      refine ⟨fun q hq => ?_, fun c => ⟨(hr.canon c).1, (h.canon c).2.1, (hr.canon c).2.2⟩, hr.free, hr.out⟩
      have a := hr.same q hq
      cases q <;> first | exact a | exact h.same _ hq
    split
    · exact State.endPend_keeps hl (covers_trans (by decide) hm) _ _
    · exact State.when_keeps (State.endPend_keeps hr (covers_trans (by decide) hm) _ _) _ _ fun t ht =>
        State.markLate_keeps ht (covers_trans (by decide) hm)
  exact key _ (State.armSwap_keeps (State.wr_keeps (State.putInForce_keeps h (covers_trans (by decide) hm) _ _)
    (covers_trans (by decide) hm) _ _ _ _) (covers_trans (by decide) hm))

theorem State.chnDue_keeps (h : Keeps m s0 s) (hm : covers m [.regs, .live, .pend, .chn, .host, .out] = true) :
    ∀ p, Keeps m s0 (State.chnDue s p) := by
  intro p
  have key : ∀ r : Nat × State, Keeps m s0 r.2 → Keeps m s0
      (if r.1 ≠ 0 then ({ r.2 with live := s.live } : State).endPend 0x050 r.1
       else
        let t := r.2.endPend 0x050 (r.2.rd F.APPLY_RESULT_code 0x050)
        if p.late then (t.wr F.APPLY_RESULT_code 0x03 0x050).markLate else t) := by
    intro r hr
    have hl : Keeps m s0 ({ r.2 with live := s.live } : State) := by
      refine ⟨fun q hq => ?_, fun c => ⟨(hr.canon c).1, (h.canon c).2.1, (hr.canon c).2.2⟩, hr.free, hr.out⟩
      have a := hr.same q hq
      cases q <;> first | exact a | exact h.same _ hq
    have ht := fun a b => State.endPend_keeps hr (covers_trans (by decide) hm) a b
    dsimp only
    split
    · exact State.endPend_keeps hl (covers_trans (by decide) hm) _ _
    · split
      · exact State.markLate_keeps (State.wr_keeps (ht _ _) (covers_trans (by decide) hm) _ _ _ _) (covers_trans (by decide) hm)
      · exact ht _ _
  exact key _ (State.beginSwitch_keeps (State.putInForce_keeps h (covers_trans (by decide) hm) _ _)
    (covers_trans (by decide) hm) _)

theorem State.openGate_keeps (h : Keeps m s0 s) (hm : covers m [.regs, .net, .out] = true) : Keeps m s0 (State.openGate s) := by
  unfold State.openGate
  extract_lets -merge -underBinder x0
  have hx0 : Keeps m s0 x0 := by
    subst x0
    refine keeps_foldl (P := fun z => Keeps m s0 z) ?_ fun _ _ h1 => ?_
    · exact h
    · exact (State.sendFrameOn_keeps (State.modTxStat_keeps h1 (covers_trans (by decide) hm) _ _) (covers_trans (by decide) hm) _ _)
  try clear_value x0
  exact (State.showGate_keeps (State.modNet_keeps hx0 (covers_trans (by decide) hm) _) (covers_trans (by decide) hm))

theorem State.nbrDue_keeps (h : Keeps m s0 s) (hm : covers m [.regs, .live, .pend, .mem, .host, .net, .nbr, .flt, .out] = true) : ∀ a1, Keeps m s0 (State.nbrDue s a1) := by
  intro a1
  unfold State.nbrDue
  extract_lets -merge -underBinder x0 x1 x2 x3
  have hx2 : Keeps m s0 x2 := (State.enforce_keeps h (covers_trans (by decide) hm) _)
  have hx3 : Keeps m s0 x3 := (State.setRole_keeps hx2 (covers_trans (by decide) hm) _)
  try clear_value x3
  try clear_value x2
  refine keeps_ite (P := fun z => Keeps m s0 z) ?_ ?_
  · exact (State.endPend_keeps h (covers_trans (by decide) hm) _ _)
  · refine keeps_ite (P := fun z => Keeps m s0 z) ?_ ?_
    · exact (State.endPend_keeps h (covers_trans (by decide) hm) _ _)
    · refine keeps_ite (P := fun z => Keeps m s0 z) ?_ ?_
      · refine keeps_ite (P := fun z => Keeps m s0 z) ?_ ?_
        · exact (State.showGate_keeps (State.setCond_keeps hx3 (covers_trans (by decide) hm) _ _) (covers_trans (by decide) hm))
        · exact (State.showGate_keeps hx3 (covers_trans (by decide) hm))
      · refine keeps_ite (P := fun z => Keeps m s0 z) ?_ ?_
        · exact (State.openGate_keeps (State.setCond_keeps (State.wr_keeps (State.setRole_keeps hx2 (covers_trans (by decide) hm) _) (covers_trans (by decide) hm) _ _ _ _) (covers_trans (by decide) hm) _ _) (covers_trans (by decide) hm))
        · exact hx2

theorem State.startEngine_keeps (h : Keeps m s0 s) (hm : covers m [.regs, .mem, .eng, .xrd, .scn, .chn, .host, .mil, .stp, .modes, .memx, .boot, .out] = true) : ∀ a1 a2 a3 a4, Keeps m s0 (State.startEngine s a1 a2 a3 a4) := by
  intro a1 a2 a3 a4
  unfold State.startEngine
  extract_lets -merge -underBinder x0 x1 x2 x3
  have hx0 : Keeps m s0 x0 := (State.setService_keeps (State.setRate_keeps h (covers_trans (by decide) hm) _) (covers_trans (by decide) hm) _)
  have hx1 : Keeps m s0 x1 := (State.modModes_keeps hx0 (covers_trans (by decide) hm) _)
  have hx2 : Keeps m s0 x2 := (State.bump_keeps (State.wr_keeps (State.setPhase_keeps hx1 (covers_trans (by decide) hm) _) (covers_trans (by decide) hm) _ _ _ _) (covers_trans (by decide) hm) _ _ _ _)
  have hx3 : Keeps m s0 x3 := (State.modStp_keeps hx2 (covers_trans (by decide) hm) _)
  try clear_value x3
  try clear_value x2
  try clear_value x1
  try clear_value x0
  exact (State.startVcxo_keeps (State.glnReset_keeps (State.clearLongState_keeps (State.loadTables_keeps (State.wr_keeps (State.wr_keeps hx3 (covers_trans (by decide) hm) _ _ _ _) (covers_trans (by decide) hm) _ _ _ _) (covers_trans (by decide) hm) _) (covers_trans (by decide) hm)) (covers_trans (by decide) hm)) (covers_trans (by decide) hm))

theorem State.sysDue_keeps (h : Keeps m s0 s) (hm : covers m [.regs, .live, .pend, .mem, .eng, .xrd, .scn, .chn, .que, .host, .mil, .net, .stp, .nbr, .modes, .memx, .boot, .out] = true) : ∀ a1, Keeps m s0 (State.sysDue s a1) := by
  intro a1
  unfold State.sysDue
  extract_lets -merge -underBinder x0 x1 x2
  have hx2 : Keeps m s0 x2 := (State.raise_keeps (State.setBlend_keeps (State.setService_keeps (State.enforce_keeps h (covers_trans (by decide) hm) _) (covers_trans (by decide) hm) _) (covers_trans (by decide) hm) _) (covers_trans (by decide) hm) _ _)
  try clear_value x2
  refine keeps_ite (P := fun z => Keeps m s0 z) ?_ ?_
  · exact (State.sysEnds_keeps h (covers_trans (by decide) hm) _ _)
  · refine keeps_ite (P := fun z => Keeps m s0 z) ?_ ?_
    · refine keeps_ite (P := fun z => Keeps m s0 z) ?_ ?_
      · split
        · exact (State.startEngine_keeps (State.putInForce_keeps h (covers_trans (by decide) hm) _ _) (covers_trans (by decide) hm) _ _ _ _)
        · exact h
      · refine (State.restartBegin_keeps ?_ (covers_trans (by decide) hm) _)
        refine State.when_keeps (State.putInForce_keeps h (covers_trans (by decide) hm) _ _) _ _ fun _ h3 => ?_
        exact (State.markLate_keeps h3 (covers_trans (by decide) hm))
    · exact (State.answerModes_keeps hx2 (covers_trans (by decide) hm) _ _)

theorem State.comeDue_keeps (h : Keeps m s0 s) (hm : covers m [.regs, .live, .pend, .mem, .eng, .xrd, .scn, .chn, .que, .host, .mil, .net, .ports, .stp, .nbr, .modes, .memx, .boot, .flt, .out] = true) : ∀ a1, Keeps m s0 (State.comeDue s a1) := by
  intro a1
  unfold State.comeDue
  extract_lets -merge -underBinder x0
  refine keeps_ite (P := fun z => Keeps m s0 z) ?_ ?_
  · exact (State.sysDue_keeps h (covers_trans (by decide) hm) _)
  · refine keeps_ite (P := fun z => Keeps m s0 z) ?_ ?_
    · exact (State.pwrDue_keeps h (covers_trans (by decide) hm) _)
    · refine keeps_ite (P := fun z => Keeps m s0 z) ?_ ?_
      · exact (State.thrDue_keeps h (covers_trans (by decide) hm) _)
      · refine keeps_ite (P := fun z => Keeps m s0 z) ?_ ?_
        · exact (State.grnDue_keeps h (covers_trans (by decide) hm) _)
        · refine keeps_ite (P := fun z => Keeps m s0 z) ?_ ?_
          · exact (State.celDue_keeps h (covers_trans (by decide) hm) _)
          · refine keeps_ite (P := fun z => Keeps m s0 z) ?_ ?_
            · exact (State.glnDue_keeps h (covers_trans (by decide) hm) _)
            · refine keeps_ite (P := fun z => Keeps m s0 z) ?_ ?_
              · exact (State.scnDue_keeps h (covers_trans (by decide) hm) _)
              · refine keeps_ite (P := fun z => Keeps m s0 z) ?_ ?_
                · exact (State.chnDue_keeps h (covers_trans (by decide) hm) _)
                · refine keeps_ite (P := fun z => Keeps m s0 z) ?_ ?_
                  · exact (State.applyNetwork_keeps h (covers_trans (by decide) hm) _)
                  · refine keeps_ite (P := fun z => Keeps m s0 z) ?_ ?_
                    · exact (State.applySteeple_keeps h (covers_trans (by decide) hm) _)
                    · refine keeps_ite (P := fun z => Keeps m s0 z) ?_ ?_
                      · exact (State.portsDue_keeps h (covers_trans (by decide) hm) _ _)
                      · refine keeps_ite (P := fun z => Keeps m s0 z) ?_ ?_
                        · exact (State.nbrDue_keeps h (covers_trans (by decide) hm) _)
                        · exact (State.enforce_keeps h (covers_trans (by decide) hm) _)

theorem State.forwardSet_keeps (h : Keeps m s0 s) (hm : covers m [.nbr, .out] = true) : ∀ a1, Keeps m s0 (State.forwardSet s a1) := by
  intro a1
  unfold State.forwardSet
  refine keeps_ite (P := fun z => Keeps m s0 z) ?_ ?_
  · exact (State.nbrSend_keeps h (covers_trans (by decide) hm) _ _)
  · exact h

theorem State.applyDue_keeps (h : Keeps m s0 s) (hm : covers m [.regs, .live, .pend, .mem, .eng, .xrd, .scn, .chn, .que, .host, .mil, .net, .ports, .stp, .nbr, .modes, .memx, .boot, .flt, .out] = true) : ∀ a1, Keeps m s0 (State.applyDue s a1) := by
  intro a1
  unfold State.applyDue
  split
  · exact h
  · refine keeps_ite (P := fun z => Keeps m s0 z) ?_ ?_
    · exact h
    · exact (State.forwardSet_keeps (State.comeDue_keeps h (covers_trans (by decide) hm) _) (covers_trans (by decide) hm) _)

theorem State.applyTake_keeps (h : Keeps m s0 s) (hm : covers m [.regs, .live, .pend, .mem, .eng, .xrd, .scn, .chn, .que, .host, .mil, .net, .ports, .stp, .nbr, .modes, .memx, .boot, .flt, .out] = true) : ∀ a1, Keeps m s0 (State.applyTake s a1) := by
  intro a1
  unfold State.applyTake
  extract_lets -merge -underBinder x0 x1 x2 x3 x4 x5 x6 x7 x8
  have hx6 : Keeps m s0 x6 := (keeps_pend h (covers_trans (by decide) hm))
  have hx7 : Keeps m s0 x7 := (State.wr_keeps (State.wr_keeps (State.wr_keeps hx6 (covers_trans (by decide) hm) _ _ _ _) (covers_trans (by decide) hm) _ _ _ _) (covers_trans (by decide) hm) _ _ _ _)
  have hx8 : Keeps m s0 x8 := by
    subst x8
    refine keeps_ite (P := fun z => Keeps m s0 z) ?_ ?_
    · exact (State.wr_keeps hx7 (covers_trans (by decide) hm) _ _ _ _)
    · exact hx7
  try clear_value x8
  try clear_value x7
  try clear_value x6
  refine keeps_ite (P := fun z => Keeps m s0 z) ?_ ?_
  · exact h
  · refine keeps_ite (P := fun z => Keeps m s0 z) ?_ ?_
    · dsimp -zeta only [x0]
      refine State.when_keeps (State.wr_keeps h (covers_trans (by decide) hm) _ _ _ _) _ _ fun _ h9 => ?_
      exact (State.countModeRefusal_keeps h9 (covers_trans (by decide) hm))
    · refine keeps_ite (P := fun z => Keeps m s0 z) ?_ ?_
      · dsimp -zeta only [x0]
        refine State.when_keeps (State.wr_keeps h (covers_trans (by decide) hm) _ _ _ _) _ _ fun _ h10 => ?_
        exact (State.countModeRefusal_keeps h10 (covers_trans (by decide) hm))
      · refine keeps_ite (P := fun z => Keeps m s0 z) ?_ ?_
        · exact (State.applyDue_keeps hx8 (covers_trans (by decide) hm) _)
        · exact hx8

theorem State.applyDiscard_keeps (h : Keeps m s0 s) (hm : covers m [.regs, .pend, .que, .host, .modes, .out] = true) : ∀ a1, Keeps m s0 (State.applyDiscard s a1) := by
  intro a1
  unfold State.applyDiscard
  refine keeps_ite (P := fun z => Keeps m s0 z) ?_ ?_
  · exact h
  · extract_lets -merge -underBinder x0 x1 x2
    have hx0 : Keeps m s0 x0 := (State.unstage_keeps h (covers_trans (by decide) hm) _)
    have hx1 : Keeps m s0 x1 := (State.wr_keeps hx0 (covers_trans (by decide) hm) _ _ _ _)
    try clear_value x1
    try clear_value x0
    refine keeps_ite (P := fun z => Keeps m s0 z) ?_ ?_
    · refine keeps_ite (P := fun z => Keeps m s0 z) ?_ ?_
      · exact (State.sysEnds_keeps hx1 (covers_trans (by decide) hm) _ _)
      · exact (State.endPend_keeps hx1 (covers_trans (by decide) hm) _ _)
    · exact (State.wr_keeps hx1 (covers_trans (by decide) hm) _ _ _ _)

theorem execApplyStaged_keeps : ∀ a0 t, execApplyStaged a0 s = .next t →
    Keeps [.regs, .live, .pend, .mem, .eng, .xrd, .scn, .chn, .que, .host, .mil, .net, .ports, .stp, .nbr, .modes, .memx, .boot, .flt, .out] s t := by
  intro a0 t e
  have hm : covers [.regs, .live, .pend, .mem, .eng, .xrd, .scn, .chn, .que, .host, .mil, .net, .ports, .stp, .nbr, .modes, .memx, .boot, .flt, .out] [.regs, .live, .pend, .mem, .eng, .xrd, .scn, .chn, .que, .host, .mil, .net, .ports, .stp, .nbr, .modes, .memx, .boot, .flt, .out] = true := by decide
  have h := Keeps.refl [.regs, .live, .pend, .mem, .eng, .xrd, .scn, .chn, .que, .host, .mil, .net, .ports, .stp, .nbr, .modes, .memx, .boot, .flt, .out] s
  unfold execApplyStaged at e
  replace e := Host.Outcome.next.inj e
  subst e
  exact (State.applyTake_keeps h (covers_trans (by decide) hm) _)

theorem execApplyDiscard_keeps : ∀ a0 t, execApplyDiscard a0 s = .next t →
    Keeps [.regs, .pend, .que, .host, .modes, .out] s t := by
  intro a0 t e
  have hm : covers [.regs, .pend, .que, .host, .modes, .out] [.regs, .pend, .que, .host, .modes, .out] = true := by decide
  have h := Keeps.refl [.regs, .pend, .que, .host, .modes, .out] s
  unfold execApplyDiscard at e
  replace e := Host.Outcome.next.inj e
  subst e
  exact (State.applyDiscard_keeps h (covers_trans (by decide) hm) _)

theorem execApplyDue_keeps : ∀ a0 t, execApplyDue a0 s = .next t →
    Keeps [.regs, .live, .pend, .mem, .eng, .xrd, .scn, .chn, .que, .host, .mil, .net, .ports, .stp, .nbr, .modes, .memx, .boot, .flt, .out] s t := by
  intro a0 t e
  have hm : covers [.regs, .live, .pend, .mem, .eng, .xrd, .scn, .chn, .que, .host, .mil, .net, .ports, .stp, .nbr, .modes, .memx, .boot, .flt, .out] [.regs, .live, .pend, .mem, .eng, .xrd, .scn, .chn, .que, .host, .mil, .net, .ports, .stp, .nbr, .modes, .memx, .boot, .flt, .out] = true := by decide
  have h := Keeps.refl [.regs, .live, .pend, .mem, .eng, .xrd, .scn, .chn, .que, .host, .mil, .net, .ports, .stp, .nbr, .modes, .memx, .boot, .flt, .out] s
  unfold execApplyDue at e
  replace e := Host.Outcome.next.inj e
  subst e
  exact (State.applyDue_keeps h (covers_trans (by decide) hm) _)

theorem State.sendHeldCrier_keeps (h : Keeps m s0 s) (hm : covers m [.regs, .mem, .net, .out] = true) : Keeps m s0 (State.sendHeldCrier s) := by
  unfold State.sendHeldCrier
  extract_lets -merge -underBinder x0
  refine keeps_foldl (P := fun z => Keeps m s0 z) ?_ fun _ _ h1 => ?_
  · exact (State.modNet_keeps h (covers_trans (by decide) hm) _)
  · extract_lets -merge -underBinder x2
    have hx2 : Keeps m s0 x2 := by
      subst x2
      refine keeps_foldl (P := fun z => Keeps m s0 z) ?_ fun _ _ h3 => ?_
      · exact h1
      · exact (State.sendFrameOn_keeps h3 (covers_trans (by decide) hm) _ _)
    try clear_value x2
    refine keeps_ite (P := fun z => Keeps m s0 z) ?_ ?_
    · exact hx2
    · exact (State.store_keeps hx2 (covers_trans (by decide) hm) _ _ _)

theorem State.promote_keeps (h : Keeps m s0 s) (hm : covers m [.regs, .mem, .host, .net, .nbr, .out] = true) : Keeps m s0 (State.promote s) := by
  unfold State.promote
  extract_lets -merge -underBinder x0 x1
  have hx0 : Keeps m s0 x0 := (State.wr_keeps (State.wr_keeps (State.setRole_keeps h (covers_trans (by decide) hm) _) (covers_trans (by decide) hm) _ _ _ _) (covers_trans (by decide) hm) _ _ _ _)
  have hx1 : Keeps m s0 x1 := (State.raise_keeps (State.modNbr_keeps hx0 (covers_trans (by decide) hm) _) (covers_trans (by decide) hm) _ _)
  try clear_value x1
  try clear_value x0
  exact (State.sendHeldCrier_keeps (State.openGate_keeps hx1 (covers_trans (by decide) hm)) (covers_trans (by decide) hm))

theorem State.promoteAtB_keeps (h : Keeps m s0 s) (hm : covers m [.regs, .mem, .host, .net, .nbr, .out] = true) : Keeps m s0 (State.promoteAtB s) := by
  unfold State.promoteAtB
  exact (State.promote_keeps (State.modNet_keeps (State.modNbr_keeps h (covers_trans (by decide) hm) _) (covers_trans (by decide) hm) _) (covers_trans (by decide) hm))

theorem State.loadPresets_keeps (h : Keeps m s0 s) (hm : covers m [.regs, .live, .pend, .mem, .eng, .xrd, .scn, .chn, .que, .host, .mil, .net, .ports, .stp, .nbr, .modes, .memx, .boot, .flt, .out] = true) : ∀ a1, Keeps m s0 (State.loadPresets s a1) := by
  intro a1
  unfold State.loadPresets
  extract_lets -merge -underBinder x0 x1 x2 x3
  have hx2 : Keeps m s0 x2 := by
    subst x2
    refine keeps_foldl (P := fun z => Keeps m s0 z) ?_ fun _ _ h4 => ?_
    · exact h
    · split
      · exact (State.storeBits_keeps h4 (covers_trans (by decide) hm) _ _ _ _)
      · exact h4
  try clear_value x2
  refine keeps_foldl (P := fun z => Keeps m s0 z) ?_ fun _ _ h5 => ?_
  · exact hx2
  · refine keeps_ite (P := fun z => Keeps m s0 z) ?_ ?_
    · exact h5
    · extract_lets -merge -underBinder x6
      exact (State.comeDue_keeps (keeps_pend h5 (covers_trans (by decide) hm)) (covers_trans (by decide) hm) _)

theorem execRestartBegin_keeps : ∀ t, execRestartBegin s = .next t →
    Keeps [.regs, .live, .pend, .mem, .eng, .xrd, .scn, .chn, .que, .host, .mil, .net, .stp, .nbr, .modes, .memx, .boot, .out] s t := by
  intro t e
  have hm : covers [.regs, .live, .pend, .mem, .eng, .xrd, .scn, .chn, .que, .host, .mil, .net, .stp, .nbr, .modes, .memx, .boot, .out] [.regs, .live, .pend, .mem, .eng, .xrd, .scn, .chn, .que, .host, .mil, .net, .stp, .nbr, .modes, .memx, .boot, .out] = true := by decide
  have h := Keeps.refl [.regs, .live, .pend, .mem, .eng, .xrd, .scn, .chn, .que, .host, .mil, .net, .stp, .nbr, .modes, .memx, .boot, .out] s
  unfold execRestartBegin at e
  extract_lets -merge -underBinder x0 x1 x2 x3 x4 at e
  try clear_value x4
  try clear_value x3
  try clear_value x2
  try clear_value x1
  replace e := Host.Outcome.next.inj e
  subst e
  refine keeps_ite (P := fun z => Keeps [.regs, .live, .pend, .mem, .eng, .xrd, .scn, .chn, .que, .host, .mil, .net, .stp, .nbr, .modes, .memx, .boot, .out] s z) ?_ ?_
  · exact h
  · split
    · exact (State.restartBegin_keeps h (covers_trans (by decide) hm) _)
    · exact (State.forwardSet_keeps (State.sysDue_keeps h (covers_trans (by decide) hm) _) (covers_trans (by decide) hm) _)
    · refine keeps_ite (P := fun z => Keeps [.regs, .live, .pend, .mem, .eng, .xrd, .scn, .chn, .que, .host, .mil, .net, .stp, .nbr, .modes, .memx, .boot, .out] s z) ?_ ?_
      · exact (State.reply_keeps (State.modModes_keeps h (covers_trans (by decide) hm) _) (covers_trans (by decide) hm) _ _ _)
      · refine State.when_keeps (State.restartBegin_keeps h (covers_trans (by decide) hm) _) _ _ fun _ h5 => ?_
        exact (State.markLate_keeps h5 (covers_trans (by decide) hm))
    · refine keeps_ite (P := fun z => Keeps [.regs, .live, .pend, .mem, .eng, .xrd, .scn, .chn, .que, .host, .mil, .net, .stp, .nbr, .modes, .memx, .boot, .out] s z) ?_ ?_
      · exact (State.restartBegin_keeps h (covers_trans (by decide) hm) _)
      · exact h

theorem execRealignRequest_keeps : ∀ a0 t, execRealignRequest a0 s = .next t →
    Keeps [.regs, .eng] s t := by
  intro a0 t e
  have hm : covers [.regs, .eng] [.regs, .eng] = true := by decide
  have h := Keeps.refl [.regs, .eng] s
  unfold execRealignRequest at e
  extract_lets -merge -underBinder x0 at e
  have hx0 : Keeps [.regs, .eng] s x0 := (State.storeBits_keeps h (covers_trans (by decide) hm) _ _ _ _)
  try clear_value x0
  replace e := Host.Outcome.next.inj e
  subst e
  refine keeps_ite (P := fun z => Keeps [.regs, .eng] s z) ?_ ?_
  · exact (State.modEng_keeps hx0 (covers_trans (by decide) hm) _)
  · exact hx0

theorem execRestartGap_keeps : ∀ t, execRestartGap s = .next t →
    Keeps [.regs, .mem, .eng, .xrd, .scn, .chn, .host, .mil, .net, .stp, .modes, .memx, .boot, .out] s t := by
  intro t e
  have hm : covers [.regs, .mem, .eng, .xrd, .scn, .chn, .host, .mil, .net, .stp, .modes, .memx, .boot, .out] [.regs, .mem, .eng, .xrd, .scn, .chn, .host, .mil, .net, .stp, .modes, .memx, .boot, .out] = true := by decide
  have h := Keeps.refl [.regs, .mem, .eng, .xrd, .scn, .chn, .host, .mil, .net, .stp, .modes, .memx, .boot, .out] s
  unfold execRestartGap at e
  replace e := Host.Outcome.next.inj e
  subst e
  split
  · exact h
  · extract_lets -merge -underBinder x0 x1 x2 x3 x4 x5 x6 x7
    have hx2 : Keeps [.regs, .mem, .eng, .xrd, .scn, .chn, .host, .mil, .net, .stp, .modes, .memx, .boot, .out] s x2 := (State.debugEnds_keeps (State.endFades_keeps (State.setPhase_keeps (State.wr_keeps h (covers_trans (by decide) hm) _ _ _ _) (covers_trans (by decide) hm) _) (covers_trans (by decide) hm)) (covers_trans (by decide) hm))
    have hx3 : Keeps [.regs, .mem, .eng, .xrd, .scn, .chn, .host, .mil, .net, .stp, .modes, .memx, .boot, .out] s x3 := by
      subst x3
      refine keeps_ite (P := fun z => Keeps [.regs, .mem, .eng, .xrd, .scn, .chn, .host, .mil, .net, .stp, .modes, .memx, .boot, .out] s z) ?_ ?_
      · exact (State.disableStreams_keeps hx2 (covers_trans (by decide) hm))
      · exact hx2
    have hx4 : Keeps [.regs, .mem, .eng, .xrd, .scn, .chn, .host, .mil, .net, .stp, .modes, .memx, .boot, .out] s x4 := (State.modModes_keeps hx3 (covers_trans (by decide) hm) _)
    have hx5 : Keeps [.regs, .mem, .eng, .xrd, .scn, .chn, .host, .mil, .net, .stp, .modes, .memx, .boot, .out] s x5 := (State.setRate_keeps hx4 (covers_trans (by decide) hm) _)
    try clear_value x5
    try clear_value x4
    try clear_value x3
    try clear_value x2
    refine keeps_ite (P := fun z => Keeps [.regs, .mem, .eng, .xrd, .scn, .chn, .host, .mil, .net, .stp, .modes, .memx, .boot, .out] s z) ?_ ?_
    · exact h
    · refine keeps_ite (P := fun z => Keeps [.regs, .mem, .eng, .xrd, .scn, .chn, .host, .mil, .net, .stp, .modes, .memx, .boot, .out] s z) ?_ ?_
      · dsimp -zeta only [x7]
        refine (State.clearLongState_keeps ?_ (covers_trans (by decide) hm))
        dsimp -zeta only [x6]
        refine keeps_ite (P := fun z => Keeps [.regs, .mem, .eng, .xrd, .scn, .chn, .host, .mil, .net, .stp, .modes, .memx, .boot, .out] s z) ?_ ?_
        · split
          · exact (State.glnReset_keeps (State.loadTables_keeps hx5 (covers_trans (by decide) hm) _) (covers_trans (by decide) hm))
          · exact hx5
        · exact hx5
      · refine (State.startVcxo_keeps ?_ (covers_trans (by decide) hm))
        dsimp -zeta only [x7]
        refine (State.clearLongState_keeps ?_ (covers_trans (by decide) hm))
        dsimp -zeta only [x6]
        refine keeps_ite (P := fun z => Keeps [.regs, .mem, .eng, .xrd, .scn, .chn, .host, .mil, .net, .stp, .modes, .memx, .boot, .out] s z) ?_ ?_
        · split
          · exact (State.glnReset_keeps (State.loadTables_keeps hx5 (covers_trans (by decide) hm) _) (covers_trans (by decide) hm))
          · exact hx5
        · exact hx5

theorem execRestartAtB_keeps : ∀ t, execRestartAtB s = .next t →
    Keeps [.regs, .live, .pend, .mem, .eng, .xrd, .scn, .chn, .que, .host, .mil, .net, .ports, .stp, .nbr, .modes, .memx, .boot, .flt, .out, .free] s t := by
  intro t e
  have hm : covers [.regs, .live, .pend, .mem, .eng, .xrd, .scn, .chn, .que, .host, .mil, .net, .ports, .stp, .nbr, .modes, .memx, .boot, .flt, .out, .free] [.regs, .live, .pend, .mem, .eng, .xrd, .scn, .chn, .que, .host, .mil, .net, .ports, .stp, .nbr, .modes, .memx, .boot, .flt, .out, .free] = true := by decide
  have h := Keeps.refl [.regs, .live, .pend, .mem, .eng, .xrd, .scn, .chn, .que, .host, .mil, .net, .ports, .stp, .nbr, .modes, .memx, .boot, .flt, .out, .free] s
  unfold execRestartAtB at e
  replace e := Host.Outcome.next.inj e
  subst e
  split
  · exact h
  · split
    · exact h
    · refine keeps_ite (P := fun z => Keeps [.regs, .live, .pend, .mem, .eng, .xrd, .scn, .chn, .que, .host, .mil, .net, .ports, .stp, .nbr, .modes, .memx, .boot, .flt, .out, .free] s z) ?_ ?_
      · exact h
      · extract_lets -merge -underBinder x0 x1 x2 x3 x4 x5 x6 x7 x8 x9 x10 x11 x12 x13 x14 x15 x16 x17 x18
        have hx3 : Keeps [.regs, .live, .pend, .mem, .eng, .xrd, .scn, .chn, .que, .host, .mil, .net, .ports, .stp, .nbr, .modes, .memx, .boot, .flt, .out, .free] s x3 := (State.wr_keeps (State.modEng_keeps h (covers_trans (by decide) hm) _) (covers_trans (by decide) hm) _ _ _ _)
        have hx4 : Keeps [.regs, .live, .pend, .mem, .eng, .xrd, .scn, .chn, .que, .host, .mil, .net, .ports, .stp, .nbr, .modes, .memx, .boot, .flt, .out, .free] s x4 := (State.modModes_keeps (State.setPhase_keeps hx3 (covers_trans (by decide) hm) _) (covers_trans (by decide) hm) _)
        have hx8 : Keeps [.regs, .live, .pend, .mem, .eng, .xrd, .scn, .chn, .que, .host, .mil, .net, .ports, .stp, .nbr, .modes, .memx, .boot, .flt, .out, .free] s x8 := (keeps_pend hx4 (covers_trans (by decide) hm))
        have hx9 : Keeps [.regs, .live, .pend, .mem, .eng, .xrd, .scn, .chn, .que, .host, .mil, .net, .ports, .stp, .nbr, .modes, .memx, .boot, .flt, .out, .free] s x9 := by
          subst x9
          refine keeps_ite (P := fun z => Keeps [.regs, .live, .pend, .mem, .eng, .xrd, .scn, .chn, .que, .host, .mil, .net, .ports, .stp, .nbr, .modes, .memx, .boot, .flt, .out, .free] s z) ?_ ?_
          · exact (State.loadPresets_keeps hx8 (covers_trans (by decide) hm) _)
          · exact hx8
        try clear_value x9
        try clear_value x8
        try clear_value x4
        try clear_value x3
        refine State.when_keeps ?_ _ _ fun _ h19 => ?_
        · dsimp -zeta only [x18]
          refine (State.modFlt_keeps ?_ (covers_trans (by decide) hm) _)
          dsimp -zeta only [x17]
          refine keeps_ite (P := fun z => Keeps [.regs, .live, .pend, .mem, .eng, .xrd, .scn, .chn, .que, .host, .mil, .net, .ports, .stp, .nbr, .modes, .memx, .boot, .flt, .out, .free] s z) ?_ ?_
          · refine (State.setCond_keeps ?_ (covers_trans (by decide) hm) _ _)
            dsimp -zeta only [x16]
            refine keeps_ite (P := fun z => Keeps [.regs, .live, .pend, .mem, .eng, .xrd, .scn, .chn, .que, .host, .mil, .net, .ports, .stp, .nbr, .modes, .memx, .boot, .flt, .out, .free] s z) ?_ ?_
            · refine (State.setRole_keeps ?_ (covers_trans (by decide) hm) _)
              dsimp -zeta only [x15]
              refine keeps_ite (P := fun z => Keeps [.regs, .live, .pend, .mem, .eng, .xrd, .scn, .chn, .que, .host, .mil, .net, .ports, .stp, .nbr, .modes, .memx, .boot, .flt, .out, .free] s z) ?_ ?_
              · refine (State.nbrSend_keeps ?_ (covers_trans (by decide) hm) _ _)
                dsimp -zeta only [x14]
                refine keeps_ite (P := fun z => Keeps [.regs, .live, .pend, .mem, .eng, .xrd, .scn, .chn, .que, .host, .mil, .net, .ports, .stp, .nbr, .modes, .memx, .boot, .flt, .out, .free] s z) ?_ ?_
                · refine (State.wr_keeps ?_ (covers_trans (by decide) hm) _ _ _ _)
                  dsimp -zeta only [x13]
                  refine (State.wr_keeps ?_ (covers_trans (by decide) hm) _ _ _ _)
                  refine (State.wr_keeps ?_ (covers_trans (by decide) hm) _ _ _ _)
                  dsimp -zeta only [x12]
                  refine (State.modNet_keeps ?_ (covers_trans (by decide) hm) _)
                  dsimp -zeta only [x11]
                  refine (State.modStp_keeps ?_ (covers_trans (by decide) hm) _)
                  refine (State.strobePorts_keeps ?_ (covers_trans (by decide) hm) _)
                  dsimp -zeta only [x10]
                  refine keeps_foldl (P := fun z => Keeps [.regs, .live, .pend, .mem, .eng, .xrd, .scn, .chn, .que, .host, .mil, .net, .ports, .stp, .nbr, .modes, .memx, .boot, .flt, .out, .free] s z) ?_ fun _ _ h20 => ?_
                  · exact (State.startPorts_keeps hx9 (covers_trans (by decide) hm) _)
                  · exact (State.genStart_keeps h20 (covers_trans (by decide) hm) _ _ _)
                · dsimp -zeta only [x13]
                  refine (State.wr_keeps ?_ (covers_trans (by decide) hm) _ _ _ _)
                  refine (State.wr_keeps ?_ (covers_trans (by decide) hm) _ _ _ _)
                  dsimp -zeta only [x12]
                  refine (State.modNet_keeps ?_ (covers_trans (by decide) hm) _)
                  dsimp -zeta only [x11]
                  refine (State.modStp_keeps ?_ (covers_trans (by decide) hm) _)
                  refine (State.strobePorts_keeps ?_ (covers_trans (by decide) hm) _)
                  dsimp -zeta only [x10]
                  refine keeps_foldl (P := fun z => Keeps [.regs, .live, .pend, .mem, .eng, .xrd, .scn, .chn, .que, .host, .mil, .net, .ports, .stp, .nbr, .modes, .memx, .boot, .flt, .out, .free] s z) ?_ fun _ _ h21 => ?_
                  · exact (State.startPorts_keeps hx9 (covers_trans (by decide) hm) _)
                  · exact (State.genStart_keeps h21 (covers_trans (by decide) hm) _ _ _)
              · dsimp -zeta only [x14]
                refine keeps_ite (P := fun z => Keeps [.regs, .live, .pend, .mem, .eng, .xrd, .scn, .chn, .que, .host, .mil, .net, .ports, .stp, .nbr, .modes, .memx, .boot, .flt, .out, .free] s z) ?_ ?_
                · refine (State.wr_keeps ?_ (covers_trans (by decide) hm) _ _ _ _)
                  dsimp -zeta only [x13]
                  refine (State.wr_keeps ?_ (covers_trans (by decide) hm) _ _ _ _)
                  refine (State.wr_keeps ?_ (covers_trans (by decide) hm) _ _ _ _)
                  dsimp -zeta only [x12]
                  refine (State.modNet_keeps ?_ (covers_trans (by decide) hm) _)
                  dsimp -zeta only [x11]
                  refine (State.modStp_keeps ?_ (covers_trans (by decide) hm) _)
                  refine (State.strobePorts_keeps ?_ (covers_trans (by decide) hm) _)
                  dsimp -zeta only [x10]
                  refine keeps_foldl (P := fun z => Keeps [.regs, .live, .pend, .mem, .eng, .xrd, .scn, .chn, .que, .host, .mil, .net, .ports, .stp, .nbr, .modes, .memx, .boot, .flt, .out, .free] s z) ?_ fun _ _ h22 => ?_
                  · exact (State.startPorts_keeps hx9 (covers_trans (by decide) hm) _)
                  · exact (State.genStart_keeps h22 (covers_trans (by decide) hm) _ _ _)
                · dsimp -zeta only [x13]
                  refine (State.wr_keeps ?_ (covers_trans (by decide) hm) _ _ _ _)
                  refine (State.wr_keeps ?_ (covers_trans (by decide) hm) _ _ _ _)
                  dsimp -zeta only [x12]
                  refine (State.modNet_keeps ?_ (covers_trans (by decide) hm) _)
                  dsimp -zeta only [x11]
                  refine (State.modStp_keeps ?_ (covers_trans (by decide) hm) _)
                  refine (State.strobePorts_keeps ?_ (covers_trans (by decide) hm) _)
                  dsimp -zeta only [x10]
                  refine keeps_foldl (P := fun z => Keeps [.regs, .live, .pend, .mem, .eng, .xrd, .scn, .chn, .que, .host, .mil, .net, .ports, .stp, .nbr, .modes, .memx, .boot, .flt, .out, .free] s z) ?_ fun _ _ h23 => ?_
                  · exact (State.startPorts_keeps hx9 (covers_trans (by decide) hm) _)
                  · exact (State.genStart_keeps h23 (covers_trans (by decide) hm) _ _ _)
            · dsimp -zeta only [x15]
              refine keeps_ite (P := fun z => Keeps [.regs, .live, .pend, .mem, .eng, .xrd, .scn, .chn, .que, .host, .mil, .net, .ports, .stp, .nbr, .modes, .memx, .boot, .flt, .out, .free] s z) ?_ ?_
              · refine (State.nbrSend_keeps ?_ (covers_trans (by decide) hm) _ _)
                dsimp -zeta only [x14]
                refine keeps_ite (P := fun z => Keeps [.regs, .live, .pend, .mem, .eng, .xrd, .scn, .chn, .que, .host, .mil, .net, .ports, .stp, .nbr, .modes, .memx, .boot, .flt, .out, .free] s z) ?_ ?_
                · refine (State.wr_keeps ?_ (covers_trans (by decide) hm) _ _ _ _)
                  dsimp -zeta only [x13]
                  refine (State.wr_keeps ?_ (covers_trans (by decide) hm) _ _ _ _)
                  refine (State.wr_keeps ?_ (covers_trans (by decide) hm) _ _ _ _)
                  dsimp -zeta only [x12]
                  refine (State.modNet_keeps ?_ (covers_trans (by decide) hm) _)
                  dsimp -zeta only [x11]
                  refine (State.modStp_keeps ?_ (covers_trans (by decide) hm) _)
                  refine (State.strobePorts_keeps ?_ (covers_trans (by decide) hm) _)
                  dsimp -zeta only [x10]
                  refine keeps_foldl (P := fun z => Keeps [.regs, .live, .pend, .mem, .eng, .xrd, .scn, .chn, .que, .host, .mil, .net, .ports, .stp, .nbr, .modes, .memx, .boot, .flt, .out, .free] s z) ?_ fun _ _ h24 => ?_
                  · exact (State.startPorts_keeps hx9 (covers_trans (by decide) hm) _)
                  · exact (State.genStart_keeps h24 (covers_trans (by decide) hm) _ _ _)
                · dsimp -zeta only [x13]
                  refine (State.wr_keeps ?_ (covers_trans (by decide) hm) _ _ _ _)
                  refine (State.wr_keeps ?_ (covers_trans (by decide) hm) _ _ _ _)
                  dsimp -zeta only [x12]
                  refine (State.modNet_keeps ?_ (covers_trans (by decide) hm) _)
                  dsimp -zeta only [x11]
                  refine (State.modStp_keeps ?_ (covers_trans (by decide) hm) _)
                  refine (State.strobePorts_keeps ?_ (covers_trans (by decide) hm) _)
                  dsimp -zeta only [x10]
                  refine keeps_foldl (P := fun z => Keeps [.regs, .live, .pend, .mem, .eng, .xrd, .scn, .chn, .que, .host, .mil, .net, .ports, .stp, .nbr, .modes, .memx, .boot, .flt, .out, .free] s z) ?_ fun _ _ h25 => ?_
                  · exact (State.startPorts_keeps hx9 (covers_trans (by decide) hm) _)
                  · exact (State.genStart_keeps h25 (covers_trans (by decide) hm) _ _ _)
              · dsimp -zeta only [x14]
                refine keeps_ite (P := fun z => Keeps [.regs, .live, .pend, .mem, .eng, .xrd, .scn, .chn, .que, .host, .mil, .net, .ports, .stp, .nbr, .modes, .memx, .boot, .flt, .out, .free] s z) ?_ ?_
                · refine (State.wr_keeps ?_ (covers_trans (by decide) hm) _ _ _ _)
                  dsimp -zeta only [x13]
                  refine (State.wr_keeps ?_ (covers_trans (by decide) hm) _ _ _ _)
                  refine (State.wr_keeps ?_ (covers_trans (by decide) hm) _ _ _ _)
                  dsimp -zeta only [x12]
                  refine (State.modNet_keeps ?_ (covers_trans (by decide) hm) _)
                  dsimp -zeta only [x11]
                  refine (State.modStp_keeps ?_ (covers_trans (by decide) hm) _)
                  refine (State.strobePorts_keeps ?_ (covers_trans (by decide) hm) _)
                  dsimp -zeta only [x10]
                  refine keeps_foldl (P := fun z => Keeps [.regs, .live, .pend, .mem, .eng, .xrd, .scn, .chn, .que, .host, .mil, .net, .ports, .stp, .nbr, .modes, .memx, .boot, .flt, .out, .free] s z) ?_ fun _ _ h26 => ?_
                  · exact (State.startPorts_keeps hx9 (covers_trans (by decide) hm) _)
                  · exact (State.genStart_keeps h26 (covers_trans (by decide) hm) _ _ _)
                · dsimp -zeta only [x13]
                  refine (State.wr_keeps ?_ (covers_trans (by decide) hm) _ _ _ _)
                  refine (State.wr_keeps ?_ (covers_trans (by decide) hm) _ _ _ _)
                  dsimp -zeta only [x12]
                  refine (State.modNet_keeps ?_ (covers_trans (by decide) hm) _)
                  dsimp -zeta only [x11]
                  refine (State.modStp_keeps ?_ (covers_trans (by decide) hm) _)
                  refine (State.strobePorts_keeps ?_ (covers_trans (by decide) hm) _)
                  dsimp -zeta only [x10]
                  refine keeps_foldl (P := fun z => Keeps [.regs, .live, .pend, .mem, .eng, .xrd, .scn, .chn, .que, .host, .mil, .net, .ports, .stp, .nbr, .modes, .memx, .boot, .flt, .out, .free] s z) ?_ fun _ _ h27 => ?_
                  · exact (State.startPorts_keeps hx9 (covers_trans (by decide) hm) _)
                  · exact (State.genStart_keeps h27 (covers_trans (by decide) hm) _ _ _)
          · dsimp -zeta only [x16]
            refine keeps_ite (P := fun z => Keeps [.regs, .live, .pend, .mem, .eng, .xrd, .scn, .chn, .que, .host, .mil, .net, .ports, .stp, .nbr, .modes, .memx, .boot, .flt, .out, .free] s z) ?_ ?_
            · refine (State.setRole_keeps ?_ (covers_trans (by decide) hm) _)
              dsimp -zeta only [x15]
              refine keeps_ite (P := fun z => Keeps [.regs, .live, .pend, .mem, .eng, .xrd, .scn, .chn, .que, .host, .mil, .net, .ports, .stp, .nbr, .modes, .memx, .boot, .flt, .out, .free] s z) ?_ ?_
              · refine (State.nbrSend_keeps ?_ (covers_trans (by decide) hm) _ _)
                dsimp -zeta only [x14]
                refine keeps_ite (P := fun z => Keeps [.regs, .live, .pend, .mem, .eng, .xrd, .scn, .chn, .que, .host, .mil, .net, .ports, .stp, .nbr, .modes, .memx, .boot, .flt, .out, .free] s z) ?_ ?_
                · refine (State.wr_keeps ?_ (covers_trans (by decide) hm) _ _ _ _)
                  dsimp -zeta only [x13]
                  refine (State.wr_keeps ?_ (covers_trans (by decide) hm) _ _ _ _)
                  refine (State.wr_keeps ?_ (covers_trans (by decide) hm) _ _ _ _)
                  dsimp -zeta only [x12]
                  refine (State.modNet_keeps ?_ (covers_trans (by decide) hm) _)
                  dsimp -zeta only [x11]
                  refine (State.modStp_keeps ?_ (covers_trans (by decide) hm) _)
                  refine (State.strobePorts_keeps ?_ (covers_trans (by decide) hm) _)
                  dsimp -zeta only [x10]
                  refine keeps_foldl (P := fun z => Keeps [.regs, .live, .pend, .mem, .eng, .xrd, .scn, .chn, .que, .host, .mil, .net, .ports, .stp, .nbr, .modes, .memx, .boot, .flt, .out, .free] s z) ?_ fun _ _ h28 => ?_
                  · exact (State.startPorts_keeps hx9 (covers_trans (by decide) hm) _)
                  · exact (State.genStart_keeps h28 (covers_trans (by decide) hm) _ _ _)
                · dsimp -zeta only [x13]
                  refine (State.wr_keeps ?_ (covers_trans (by decide) hm) _ _ _ _)
                  refine (State.wr_keeps ?_ (covers_trans (by decide) hm) _ _ _ _)
                  dsimp -zeta only [x12]
                  refine (State.modNet_keeps ?_ (covers_trans (by decide) hm) _)
                  dsimp -zeta only [x11]
                  refine (State.modStp_keeps ?_ (covers_trans (by decide) hm) _)
                  refine (State.strobePorts_keeps ?_ (covers_trans (by decide) hm) _)
                  dsimp -zeta only [x10]
                  refine keeps_foldl (P := fun z => Keeps [.regs, .live, .pend, .mem, .eng, .xrd, .scn, .chn, .que, .host, .mil, .net, .ports, .stp, .nbr, .modes, .memx, .boot, .flt, .out, .free] s z) ?_ fun _ _ h29 => ?_
                  · exact (State.startPorts_keeps hx9 (covers_trans (by decide) hm) _)
                  · exact (State.genStart_keeps h29 (covers_trans (by decide) hm) _ _ _)
              · dsimp -zeta only [x14]
                refine keeps_ite (P := fun z => Keeps [.regs, .live, .pend, .mem, .eng, .xrd, .scn, .chn, .que, .host, .mil, .net, .ports, .stp, .nbr, .modes, .memx, .boot, .flt, .out, .free] s z) ?_ ?_
                · refine (State.wr_keeps ?_ (covers_trans (by decide) hm) _ _ _ _)
                  dsimp -zeta only [x13]
                  refine (State.wr_keeps ?_ (covers_trans (by decide) hm) _ _ _ _)
                  refine (State.wr_keeps ?_ (covers_trans (by decide) hm) _ _ _ _)
                  dsimp -zeta only [x12]
                  refine (State.modNet_keeps ?_ (covers_trans (by decide) hm) _)
                  dsimp -zeta only [x11]
                  refine (State.modStp_keeps ?_ (covers_trans (by decide) hm) _)
                  refine (State.strobePorts_keeps ?_ (covers_trans (by decide) hm) _)
                  dsimp -zeta only [x10]
                  refine keeps_foldl (P := fun z => Keeps [.regs, .live, .pend, .mem, .eng, .xrd, .scn, .chn, .que, .host, .mil, .net, .ports, .stp, .nbr, .modes, .memx, .boot, .flt, .out, .free] s z) ?_ fun _ _ h30 => ?_
                  · exact (State.startPorts_keeps hx9 (covers_trans (by decide) hm) _)
                  · exact (State.genStart_keeps h30 (covers_trans (by decide) hm) _ _ _)
                · dsimp -zeta only [x13]
                  refine (State.wr_keeps ?_ (covers_trans (by decide) hm) _ _ _ _)
                  refine (State.wr_keeps ?_ (covers_trans (by decide) hm) _ _ _ _)
                  dsimp -zeta only [x12]
                  refine (State.modNet_keeps ?_ (covers_trans (by decide) hm) _)
                  dsimp -zeta only [x11]
                  refine (State.modStp_keeps ?_ (covers_trans (by decide) hm) _)
                  refine (State.strobePorts_keeps ?_ (covers_trans (by decide) hm) _)
                  dsimp -zeta only [x10]
                  refine keeps_foldl (P := fun z => Keeps [.regs, .live, .pend, .mem, .eng, .xrd, .scn, .chn, .que, .host, .mil, .net, .ports, .stp, .nbr, .modes, .memx, .boot, .flt, .out, .free] s z) ?_ fun _ _ h31 => ?_
                  · exact (State.startPorts_keeps hx9 (covers_trans (by decide) hm) _)
                  · exact (State.genStart_keeps h31 (covers_trans (by decide) hm) _ _ _)
            · dsimp -zeta only [x15]
              refine keeps_ite (P := fun z => Keeps [.regs, .live, .pend, .mem, .eng, .xrd, .scn, .chn, .que, .host, .mil, .net, .ports, .stp, .nbr, .modes, .memx, .boot, .flt, .out, .free] s z) ?_ ?_
              · refine (State.nbrSend_keeps ?_ (covers_trans (by decide) hm) _ _)
                dsimp -zeta only [x14]
                refine keeps_ite (P := fun z => Keeps [.regs, .live, .pend, .mem, .eng, .xrd, .scn, .chn, .que, .host, .mil, .net, .ports, .stp, .nbr, .modes, .memx, .boot, .flt, .out, .free] s z) ?_ ?_
                · refine (State.wr_keeps ?_ (covers_trans (by decide) hm) _ _ _ _)
                  dsimp -zeta only [x13]
                  refine (State.wr_keeps ?_ (covers_trans (by decide) hm) _ _ _ _)
                  refine (State.wr_keeps ?_ (covers_trans (by decide) hm) _ _ _ _)
                  dsimp -zeta only [x12]
                  refine (State.modNet_keeps ?_ (covers_trans (by decide) hm) _)
                  dsimp -zeta only [x11]
                  refine (State.modStp_keeps ?_ (covers_trans (by decide) hm) _)
                  refine (State.strobePorts_keeps ?_ (covers_trans (by decide) hm) _)
                  dsimp -zeta only [x10]
                  refine keeps_foldl (P := fun z => Keeps [.regs, .live, .pend, .mem, .eng, .xrd, .scn, .chn, .que, .host, .mil, .net, .ports, .stp, .nbr, .modes, .memx, .boot, .flt, .out, .free] s z) ?_ fun _ _ h32 => ?_
                  · exact (State.startPorts_keeps hx9 (covers_trans (by decide) hm) _)
                  · exact (State.genStart_keeps h32 (covers_trans (by decide) hm) _ _ _)
                · dsimp -zeta only [x13]
                  refine (State.wr_keeps ?_ (covers_trans (by decide) hm) _ _ _ _)
                  refine (State.wr_keeps ?_ (covers_trans (by decide) hm) _ _ _ _)
                  dsimp -zeta only [x12]
                  refine (State.modNet_keeps ?_ (covers_trans (by decide) hm) _)
                  dsimp -zeta only [x11]
                  refine (State.modStp_keeps ?_ (covers_trans (by decide) hm) _)
                  refine (State.strobePorts_keeps ?_ (covers_trans (by decide) hm) _)
                  dsimp -zeta only [x10]
                  refine keeps_foldl (P := fun z => Keeps [.regs, .live, .pend, .mem, .eng, .xrd, .scn, .chn, .que, .host, .mil, .net, .ports, .stp, .nbr, .modes, .memx, .boot, .flt, .out, .free] s z) ?_ fun _ _ h33 => ?_
                  · exact (State.startPorts_keeps hx9 (covers_trans (by decide) hm) _)
                  · exact (State.genStart_keeps h33 (covers_trans (by decide) hm) _ _ _)
              · dsimp -zeta only [x14]
                refine keeps_ite (P := fun z => Keeps [.regs, .live, .pend, .mem, .eng, .xrd, .scn, .chn, .que, .host, .mil, .net, .ports, .stp, .nbr, .modes, .memx, .boot, .flt, .out, .free] s z) ?_ ?_
                · refine (State.wr_keeps ?_ (covers_trans (by decide) hm) _ _ _ _)
                  dsimp -zeta only [x13]
                  refine (State.wr_keeps ?_ (covers_trans (by decide) hm) _ _ _ _)
                  refine (State.wr_keeps ?_ (covers_trans (by decide) hm) _ _ _ _)
                  dsimp -zeta only [x12]
                  refine (State.modNet_keeps ?_ (covers_trans (by decide) hm) _)
                  dsimp -zeta only [x11]
                  refine (State.modStp_keeps ?_ (covers_trans (by decide) hm) _)
                  refine (State.strobePorts_keeps ?_ (covers_trans (by decide) hm) _)
                  dsimp -zeta only [x10]
                  refine keeps_foldl (P := fun z => Keeps [.regs, .live, .pend, .mem, .eng, .xrd, .scn, .chn, .que, .host, .mil, .net, .ports, .stp, .nbr, .modes, .memx, .boot, .flt, .out, .free] s z) ?_ fun _ _ h34 => ?_
                  · exact (State.startPorts_keeps hx9 (covers_trans (by decide) hm) _)
                  · exact (State.genStart_keeps h34 (covers_trans (by decide) hm) _ _ _)
                · dsimp -zeta only [x13]
                  refine (State.wr_keeps ?_ (covers_trans (by decide) hm) _ _ _ _)
                  refine (State.wr_keeps ?_ (covers_trans (by decide) hm) _ _ _ _)
                  dsimp -zeta only [x12]
                  refine (State.modNet_keeps ?_ (covers_trans (by decide) hm) _)
                  dsimp -zeta only [x11]
                  refine (State.modStp_keeps ?_ (covers_trans (by decide) hm) _)
                  refine (State.strobePorts_keeps ?_ (covers_trans (by decide) hm) _)
                  dsimp -zeta only [x10]
                  refine keeps_foldl (P := fun z => Keeps [.regs, .live, .pend, .mem, .eng, .xrd, .scn, .chn, .que, .host, .mil, .net, .ports, .stp, .nbr, .modes, .memx, .boot, .flt, .out, .free] s z) ?_ fun _ _ h35 => ?_
                  · exact (State.startPorts_keeps hx9 (covers_trans (by decide) hm) _)
                  · exact (State.genStart_keeps h35 (covers_trans (by decide) hm) _ _ _)
        · exact (State.promoteAtB_keeps h19 (covers_trans (by decide) hm))

theorem execRestartDone_keeps : ∀ t, execRestartDone s = .next t →
    Keeps [.regs, .pend, .que, .host, .modes, .out] s t := by
  intro t e
  have hm : covers [.regs, .pend, .que, .host, .modes, .out] [.regs, .pend, .que, .host, .modes, .out] = true := by decide
  have h := Keeps.refl [.regs, .pend, .que, .host, .modes, .out] s
  unfold execRestartDone at e
  replace e := Host.Outcome.next.inj e
  subst e
  split
  · exact h
  · split
    · exact h
    · refine keeps_ite (P := fun z => Keeps [.regs, .pend, .que, .host, .modes, .out] s z) ?_ ?_
      · exact h
      · extract_lets -merge -underBinder x0 x1 x2 x3
        have hx1 : Keeps [.regs, .pend, .que, .host, .modes, .out] s x1 := (State.raise_keeps (State.setPhase_keeps (State.modModes_keeps h (covers_trans (by decide) hm) _) (covers_trans (by decide) hm) _) (covers_trans (by decide) hm) _ _)
        have hx2 : Keeps [.regs, .pend, .que, .host, .modes, .out] s x2 := by
          subst x2
          refine keeps_ite (P := fun z => Keeps [.regs, .pend, .que, .host, .modes, .out] s z) ?_ ?_
          · exact (State.raise_keeps hx1 (covers_trans (by decide) hm) _ _)
          · exact hx1
        have hx3 : Keeps [.regs, .pend, .que, .host, .modes, .out] s x3 := by
          subst x3
          refine keeps_ite (P := fun z => Keeps [.regs, .pend, .que, .host, .modes, .out] s z) ?_ ?_
          · exact (State.answerModes_keeps (State.raise_keeps (State.endPend_keeps hx2 (covers_trans (by decide) hm) _ _) (covers_trans (by decide) hm) _ _) (covers_trans (by decide) hm) _ _)
          · exact hx2
        try clear_value x3
        try clear_value x2
        try clear_value x1
        split
        · exact (State.reply_keeps hx3 (covers_trans (by decide) hm) _ _ _)
        · exact hx3

theorem execGapHeartbeat_keeps : ∀ t, execGapHeartbeat s = .next t →
    Keeps [.nbr, .out] s t := by
  intro t e
  have hm : covers [.nbr, .out] [.nbr, .out] = true := by decide
  have h := Keeps.refl [.nbr, .out] s
  unfold execGapHeartbeat at e
  replace e := Host.Outcome.next.inj e
  subst e
  refine keeps_ite (P := fun z => Keeps [.nbr, .out] s z) ?_ ?_
  · exact h
  · extract_lets -merge -underBinder x0
    have hx0 : Keeps [.nbr, .out] s x0 := (State.nbrSend_keeps h (covers_trans (by decide) hm) _ _)
    try clear_value x0
    exact (State.emit_keeps hx0 (covers_trans (by decide) hm) _)

theorem execModeSet_keeps : ∀ a0 a1 a2 t, execModeSet a0 a1 a2 s = .next t →
    Keeps [.regs, .live, .pend, .mem, .eng, .xrd, .scn, .chn, .que, .host, .mil, .net, .ports, .stp, .nbr, .modes, .memx, .boot, .flt, .out] s t := by
  intro a0 a1 a2 t e
  have hm : covers [.regs, .live, .pend, .mem, .eng, .xrd, .scn, .chn, .que, .host, .mil, .net, .ports, .stp, .nbr, .modes, .memx, .boot, .flt, .out] [.regs, .live, .pend, .mem, .eng, .xrd, .scn, .chn, .que, .host, .mil, .net, .ports, .stp, .nbr, .modes, .memx, .boot, .flt, .out] = true := by decide
  have h := Keeps.refl [.regs, .live, .pend, .mem, .eng, .xrd, .scn, .chn, .que, .host, .mil, .net, .ports, .stp, .nbr, .modes, .memx, .boot, .flt, .out] s
  unfold execModeSet at e
  replace e := Host.Outcome.next.inj e
  subst e
  refine keeps_ite (P := fun z => Keeps [.regs, .live, .pend, .mem, .eng, .xrd, .scn, .chn, .que, .host, .mil, .net, .ports, .stp, .nbr, .modes, .memx, .boot, .flt, .out] s z) ?_ ?_
  · exact (State.reply_keeps h (covers_trans (by decide) hm) _ _ _)
  · extract_lets -merge -underBinder x0 x1 x2
    have hx0 : Keeps [.regs, .live, .pend, .mem, .eng, .xrd, .scn, .chn, .que, .host, .mil, .net, .ports, .stp, .nbr, .modes, .memx, .boot, .flt, .out] s x0 := (State.wr_keeps (State.storeBits_keeps h (covers_trans (by decide) hm) _ _ _ _) (covers_trans (by decide) hm) _ _ _ _)
    have hx1 : Keeps [.regs, .live, .pend, .mem, .eng, .xrd, .scn, .chn, .que, .host, .mil, .net, .ports, .stp, .nbr, .modes, .memx, .boot, .flt, .out] s x1 := (State.applyTake_keeps hx0 (covers_trans (by decide) hm) _)
    try clear_value x1
    try clear_value x0
    refine keeps_ite (P := fun z => Keeps [.regs, .live, .pend, .mem, .eng, .xrd, .scn, .chn, .que, .host, .mil, .net, .ports, .stp, .nbr, .modes, .memx, .boot, .flt, .out] s z) ?_ ?_
    · exact (State.reply_keeps hx1 (covers_trans (by decide) hm) _ _ _)
    · refine keeps_ite (P := fun z => Keeps [.regs, .live, .pend, .mem, .eng, .xrd, .scn, .chn, .que, .host, .mil, .net, .ports, .stp, .nbr, .modes, .memx, .boot, .flt, .out] s z) ?_ ?_
      · exact (State.modModes_keeps hx1 (covers_trans (by decide) hm) _)
      · exact (State.reply_keeps hx1 (covers_trans (by decide) hm) _ _ _)

theorem execModeGet_keeps : ∀ a0 t, execModeGet a0 s = .next t →
    Keeps [.regs, .que, .host, .out] s t := by
  intro a0 t e
  have hm : covers [.regs, .que, .host, .out] [.regs, .que, .host, .out] = true := by decide
  have h := Keeps.refl [.regs, .que, .host, .out] s
  unfold execModeGet at e
  replace e := Host.Outcome.next.inj e
  subst e
  exact (State.reply_keeps h (covers_trans (by decide) hm) _ _ _)

theorem execModeDiscard_keeps : ∀ a0 t, execModeDiscard a0 s = .next t →
    Keeps [.regs, .pend, .que, .host, .modes, .out] s t := by
  intro a0 t e
  have hm : covers [.regs, .pend, .que, .host, .modes, .out] [.regs, .pend, .que, .host, .modes, .out] = true := by decide
  have h := Keeps.refl [.regs, .pend, .que, .host, .modes, .out] s
  unfold execModeDiscard at e
  replace e := Host.Outcome.next.inj e
  subst e
  refine keeps_ite (P := fun z => Keeps [.regs, .pend, .que, .host, .modes, .out] s z) ?_ ?_
  · exact (State.reply_keeps h (covers_trans (by decide) hm) _ _ _)
  · exact (State.reply_keeps (State.applyDiscard_keeps h (covers_trans (by decide) hm) _) (covers_trans (by decide) hm) _ _ _)

end Sys2Proof.Machine
end

