-- ==== Sys2Proof/Laws/KeepsFailSafe.lean ====
section
/-! SUPPORT. What each function of Machine/FailSafe.lean keeps: the parts of the state it can change, the canonical form of the stores,
the order of free values and outputs. One lemma per function, assembled from those of the functions it calls. -/
namespace Sys2Proof.Machine

variable {m : List Part} {s0 s : State}

theorem State.gpioDrives_keeps (h : Keeps m s0 s) (hm : covers m [.regs, .host, .out] = true) : Keeps m s0 (State.gpioDrives s) := by
  unfold State.gpioDrives
  refine keeps_foldl (P := fun z => Keeps m s0 z) ?_ fun _ _ h0 => ?_
  · exact h
  · split
    · refine keeps_ite (P := fun z => Keeps m s0 z) ?_ ?_
      · exact h0
      · exact (State.gpioEdge_keeps h0 (covers_trans (by decide) hm) _ _)
    · exact h0

theorem execFaultInactive_keeps : ∀ a0 t, execFaultInactive a0 s = .next t →
    Keeps [.regs] s t := by
  intro a0 t e
  have hm : covers [.regs] [.regs] = true := by decide
  have h := Keeps.refl [.regs] s
  unfold execFaultInactive at e
  replace e := Host.Outcome.next.inj e
  subst e
  refine keeps_ite (P := fun z => Keeps [.regs] s z) ?_ ?_
  · exact (State.faultInactive_keeps h (covers_trans (by decide) hm) _)
  · exact h

theorem State.clearLatch_keeps (h : Keeps m s0 s) (hm : covers m [.regs, .flt] = true) : ∀ a1, Keeps m s0 (State.clearLatch s a1) := by
  intro a1
  unfold State.clearLatch
  extract_lets -merge -underBinder x0 x1 x2
  have hx1 : Keeps m s0 x1 := by
    subst x1
    refine keeps_foldl (P := fun z => Keeps m s0 z) ?_ fun _ _ h3 => ?_
    · exact h
    · exact (State.wr_keeps h3 (covers_trans (by decide) hm) _ _ _ _)
  have hx2 : Keeps m s0 x2 := (State.modFlt_keeps hx1 (covers_trans (by decide) hm) _)
  try clear_value x2
  try clear_value x1
  refine (State.showFaultN_keeps ?_ (covers_trans (by decide) hm))
  refine keeps_ite (P := fun z => Keeps m s0 z) ?_ ?_
  · exact (State.modFlt_keeps hx2 (covers_trans (by decide) hm) _)
  · exact hx2

theorem execLatchClear_keeps : ∀ a0 t, execLatchClear a0 s = .next t →
    Keeps [.regs, .flt] s t := by
  intro a0 t e
  have hm : covers [.regs, .flt] [.regs, .flt] = true := by decide
  have h := Keeps.refl [.regs, .flt] s
  unfold execLatchClear at e
  replace e := Host.Outcome.next.inj e
  subst e
  exact (State.clearLatch_keeps h (covers_trans (by decide) hm) _)

theorem State.fltCtrl_keeps (h : Keeps m s0 s) (hm : covers m [.regs, .mem, .scn, .chn, .host, .nbr, .flt, .out] = true) : ∀ a1 a2, Keeps m s0 (State.fltCtrl s a1 a2) := by
  intro a1 a2
  unfold State.fltCtrl
  extract_lets -merge -underBinder x0
  have hx0 : Keeps m s0 x0 := by
    subst x0
    refine keeps_ite (P := fun z => Keeps m s0 z) ?_ ?_
    · exact (State.raiseFault_keeps h (covers_trans (by decide) hm) _ _ _)
    · exact h
  try clear_value x0
  refine keeps_ite (P := fun z => Keeps m s0 z) ?_ ?_
  · exact hx0
  · refine keeps_ite (P := fun z => Keeps m s0 z) ?_ ?_
    · exact (State.captureErr_keeps hx0 (covers_trans (by decide) hm) _ _ _ _ _)
    · exact (State.modFlt_keeps hx0 (covers_trans (by decide) hm) _)

theorem execFltEnter_keeps : ∀ a0 t, execFltEnter a0 s = .next t →
    Keeps [.regs, .mem, .scn, .chn, .host, .nbr, .flt, .out] s t := by
  intro a0 t e
  have hm : covers [.regs, .mem, .scn, .chn, .host, .nbr, .flt, .out] [.regs, .mem, .scn, .chn, .host, .nbr, .flt, .out] = true := by decide
  have h := Keeps.refl [.regs, .mem, .scn, .chn, .host, .nbr, .flt, .out] s
  unfold execFltEnter at e
  replace e := Host.Outcome.next.inj e
  subst e
  exact (State.fltCtrl_keeps h (covers_trans (by decide) hm) _ _)

theorem execFltLeave_keeps : ∀ a0 a1 t, execFltLeave a0 a1 s = .next t →
    Keeps [.regs, .mem, .scn, .chn, .host, .nbr, .flt, .out] s t := by
  intro a0 a1 t e
  have hm : covers [.regs, .mem, .scn, .chn, .host, .nbr, .flt, .out] [.regs, .mem, .scn, .chn, .host, .nbr, .flt, .out] = true := by decide
  have h := Keeps.refl [.regs, .mem, .scn, .chn, .host, .nbr, .flt, .out] s
  unfold execFltLeave at e
  replace e := Host.Outcome.next.inj e
  subst e
  refine keeps_ite (P := fun z => Keeps [.regs, .mem, .scn, .chn, .host, .nbr, .flt, .out] s z) ?_ ?_
  · exact h
  · exact (State.fltCtrl_keeps h (covers_trans (by decide) hm) _ _)

theorem execFailsafeEntry_keeps : ∀ t, execFailsafeEntry s = .next t →
    Keeps [.regs, .xrd, .host, .modes, .flt, .out] s t := by
  intro t e
  have hm : covers [.regs, .xrd, .host, .modes, .flt, .out] [.regs, .xrd, .host, .modes, .flt, .out] = true := by decide
  have h := Keeps.refl [.regs, .xrd, .host, .modes, .flt, .out] s
  unfold execFailsafeEntry at e
  replace e := Host.Outcome.next.inj e
  subst e
  refine keeps_ite (P := fun z => Keeps [.regs, .xrd, .host, .modes, .flt, .out] s z) ?_ ?_
  · exact h
  · extract_lets -merge -underBinder x0 x1 x2 x3
    have hx1 : Keeps [.regs, .xrd, .host, .modes, .flt, .out] s x1 := (State.modModes_keeps (State.cutFades_keeps h (covers_trans (by decide) hm) _) (covers_trans (by decide) hm) _)
    have hx2 : Keeps [.regs, .xrd, .host, .modes, .flt, .out] s x2 := (State.wr_keeps (State.modFlt_keeps hx1 (covers_trans (by decide) hm) _) (covers_trans (by decide) hm) _ _ _ _)
    have hx3 : Keeps [.regs, .xrd, .host, .modes, .flt, .out] s x3 := (State.gpioDrives_keeps (State.wr_keeps hx2 (covers_trans (by decide) hm) _ _ _ _) (covers_trans (by decide) hm))
    try clear_value x3
    try clear_value x2
    try clear_value x1
    refine keeps_foldl (P := fun z => Keeps [.regs, .xrd, .host, .modes, .flt, .out] s z) ?_ fun _ _ h4 => ?_
    · exact hx3
    · exact (State.wr_keeps h4 (covers_trans (by decide) hm) _ _ _ _)

theorem execFailsafeLeave_keeps : ∀ t, execFailsafeLeave s = .next t →
    Keeps [.regs, .host, .modes, .out] s t := by
  intro t e
  have hm : covers [.regs, .host, .modes, .out] [.regs, .host, .modes, .out] = true := by decide
  have h := Keeps.refl [.regs, .host, .modes, .out] s
  unfold execFailsafeLeave at e
  replace e := Host.Outcome.next.inj e
  subst e
  refine keeps_ite (P := fun z => Keeps [.regs, .host, .modes, .out] s z) ?_ ?_
  · exact h
  · extract_lets -merge -underBinder x0 x1 x2
    have hx2 : Keeps [.regs, .host, .modes, .out] s x2 := by
      subst x2
      refine keeps_ite (P := fun z => Keeps [.regs, .host, .modes, .out] s z) ?_ ?_
      · exact (State.modModes_keeps h (covers_trans (by decide) hm) _)
      · exact (State.modModes_keeps h (covers_trans (by decide) hm) _)
    try clear_value x2
    exact (State.raise_keeps (State.wr_keeps (State.wr_keeps hx2 (covers_trans (by decide) hm) _ _ _ _) (covers_trans (by decide) hm) _ _ _ _) (covers_trans (by decide) hm) _ _)

theorem State.failsafeBlock_keeps (h : Keeps m s0 s) (hm : covers m [.regs, .host, .out] = true) : Keeps m s0 (State.failsafeBlock s) := by
  unfold State.failsafeBlock
  extract_lets -merge -underBinder x0 x1 x2 x3 x4
  have hx4 : Keeps m s0 x4 := by
    subst x4
    refine keeps_ite (P := fun z => Keeps m s0 z) ?_ ?_
    · refine keeps_foldl (P := fun z => Keeps m s0 z) ?_ fun _ _ h5 => ?_
      · exact (State.gpioDrives_keeps h (covers_trans (by decide) hm))
      · exact (State.wr_keeps h5 (covers_trans (by decide) hm) _ _ _ _)
    · exact h
  try clear_value x4
  refine keeps_ite (P := fun z => Keeps m s0 z) ?_ ?_
  · refine keeps_foldl (P := fun z => Keeps m s0 z) ?_ fun _ _ h6 => ?_
    · exact (State.wr_keeps h (covers_trans (by decide) hm) _ _ _ _)
    · exact (State.wr_keeps h6 (covers_trans (by decide) hm) _ _ _ _)
  · refine keeps_ite (P := fun z => Keeps m s0 z) ?_ ?_
    · refine keeps_ite (P := fun z => Keeps m s0 z) ?_ ?_
      · exact (State.wr_keeps hx4 (covers_trans (by decide) hm) _ _ _ _)
      · exact hx4
    · exact h

theorem State.mirrorSources_keeps (h : Keeps m s0 s) (hm : covers m [.mem] = true) : Keeps m s0 (State.mirrorSources s) := by
  unfold State.mirrorSources
  refine keeps_ite (P := fun z => Keeps m s0 z) ?_ ?_
  · exact (State.setBytes_keeps (State.setBytes_keeps h (covers_trans (by decide) hm) _ _) (covers_trans (by decide) hm) _ _)
  · exact h

theorem State.startMirror_keeps (h : Keeps m s0 s) (hm : covers m [.regs, .mem] = true) : Keeps m s0 (State.startMirror s) := by
  unfold State.startMirror
  extract_lets -merge -underBinder x0 x1 x2
  have hx1 : Keeps m s0 x1 := (State.setBytes_keeps (State.wr_keeps (State.wr_keeps h (covers_trans (by decide) hm) _ _ _ _) (covers_trans (by decide) hm) _ _ _ _) (covers_trans (by decide) hm) _ _)
  have hx2 : Keeps m s0 x2 := by
    subst x2
    refine keeps_foldl (P := fun z => Keeps m s0 z) ?_ fun _ _ h3 => ?_
    · exact hx1
    · exact (State.setBytes_keeps h3 (covers_trans (by decide) hm) _ _)
  try clear_value x2
  try clear_value x1
  exact (State.wr_keeps hx2 (covers_trans (by decide) hm) _ _ _ _)

theorem execRollReport_keeps : ∀ a0 a1 a2 a3 a4 a5 t, execRollReport a0 a1 a2 a3 a4 a5 s = .next t →
    Keeps [.regs, .mem, .host, .flt, .out] s t := by
  intro a0 a1 a2 a3 a4 a5 t e
  have hm : covers [.regs, .mem, .host, .flt, .out] [.regs, .mem, .host, .flt, .out] = true := by decide
  have h := Keeps.refl [.regs, .mem, .host, .flt, .out] s
  unfold execRollReport at e
  replace e := Host.Outcome.next.inj e
  subst e
  refine keeps_ite (P := fun z => Keeps [.regs, .mem, .host, .flt, .out] s z) ?_ ?_
  · exact (State.rollIn_keeps h (covers_trans (by decide) hm) _ _ _ _ _ _ _ _)
  · exact h

theorem execRollWindowEnd_keeps : ∀ t, execRollWindowEnd s = .next t →
    Keeps [.mem, .flt] s t := by
  intro t e
  have hm : covers [.mem, .flt] [.mem, .flt] = true := by decide
  have h := Keeps.refl [.mem, .flt] s
  unfold execRollWindowEnd at e
  extract_lets -merge -underBinder x0 x1 at e
  have hx1 : Keeps [.mem, .flt] s x1 := (State.modFlt_keeps h (covers_trans (by decide) hm) _)
  try clear_value x1
  replace e := Host.Outcome.next.inj e
  subst e
  exact (State.mirrorSources_keeps hx1 (covers_trans (by decide) hm))

theorem State.repGo_keeps (h : Keeps m s0 s) (hm : covers m [.regs, .mem, .host, .flt, .out] = true) : ∀ a1 a2, Keeps m s0 (State.repGo s a1 a2) := by
  intro a1 a2
  unfold State.repGo
  refine keeps_ite (P := fun z => Keeps m s0 z) ?_ ?_
  · exact (State.captureErr_keeps h (covers_trans (by decide) hm) _ _ _ _ _)
  · extract_lets -merge -underBinder x0
    exact (State.rollIn_keeps h (covers_trans (by decide) hm) _ _ _ _ _ _ _ _)

theorem execRolRepGo_keeps : ∀ a0 a1 t, execRolRepGo a0 a1 s = .next t →
    Keeps [.regs, .mem, .host, .flt, .out] s t := by
  intro a0 a1 t e
  have hm : covers [.regs, .mem, .host, .flt, .out] [.regs, .mem, .host, .flt, .out] = true := by decide
  have h := Keeps.refl [.regs, .mem, .host, .flt, .out] s
  unfold execRolRepGo at e
  replace e := Host.Outcome.next.inj e
  subst e
  refine keeps_ite (P := fun z => Keeps [.regs, .mem, .host, .flt, .out] s z) ?_ ?_
  · exact h
  · exact (State.repGo_keeps h (covers_trans (by decide) hm) _ _)

theorem State.rollCopy_keeps (h : Keeps m s0 s) (hm : covers m [.regs, .mem, .host, .flt, .out] = true) : Keeps m s0 (State.rollCopy s) := by
  unfold State.rollCopy
  split
  · exact h
  · extract_lets -merge -underBinder x0 x1
    have hx1 : Keeps m s0 x1 := (State.flashErased_keeps (State.setBytes_keeps h (covers_trans (by decide) hm) _ _) (covers_trans (by decide) hm) _)
    try clear_value x1
    exact (State.raise_keeps (State.wr_keeps (State.modFlt_keeps hx1 (covers_trans (by decide) hm) _) (covers_trans (by decide) hm) _ _ _ _) (covers_trans (by decide) hm) _ _)

theorem execRollCopy_keeps : ∀ a0 t, execRollCopy a0 s = .next t →
    Keeps [.regs, .mem, .host, .flt, .out] s t := by
  intro a0 t e
  have hm : covers [.regs, .mem, .host, .flt, .out] [.regs, .mem, .host, .flt, .out] = true := by decide
  have h := Keeps.refl [.regs, .mem, .host, .flt, .out] s
  unfold execRollCopy at e
  replace e := Host.Outcome.next.inj e
  subst e
  refine keeps_ite (P := fun z => Keeps [.regs, .mem, .host, .flt, .out] s z) ?_ ?_
  · exact (State.rollCopy_keeps h (covers_trans (by decide) hm))
  · exact (State.flashFailed_keeps h (covers_trans (by decide) hm))

theorem execRollFlush_keeps : ∀ a0 a1 t, execRollFlush a0 a1 s = .next t →
    Keeps [.regs, .mem, .que, .host, .flt, .out] s t := by
  intro a0 a1 t e
  have hm : covers [.regs, .mem, .que, .host, .flt, .out] [.regs, .mem, .que, .host, .flt, .out] = true := by decide
  have h := Keeps.refl [.regs, .mem, .que, .host, .flt, .out] s
  unfold execRollFlush at e
  replace e := Host.Outcome.next.inj e
  subst e
  refine keeps_ite (P := fun z => Keeps [.regs, .mem, .que, .host, .flt, .out] s z) ?_ ?_
  · exact (State.reply_keeps (State.rollCopy_keeps h (covers_trans (by decide) hm)) (covers_trans (by decide) hm) _ _ _)
  · exact (State.reply_keeps (State.flashFailed_keeps h (covers_trans (by decide) hm)) (covers_trans (by decide) hm) _ _ _)

theorem State.rollClear_keeps (h : Keeps m s0 s) (hm : covers m [.regs, .mem, .flt] = true) : ∀ a1, Keeps m s0 (State.rollClear s a1) := by
  intro a1
  unfold State.rollClear
  extract_lets -merge -underBinder x0 x1 x2 x3 x4 x5
  have hx0 : Keeps m s0 x0 := by
    subst x0
    refine keeps_ite (P := fun z => Keeps m s0 z) ?_ ?_
    · exact (State.modFlt_keeps h (covers_trans (by decide) hm) _)
    · exact h
  try clear_value x0
  refine keeps_ite (P := fun z => Keeps m s0 z) ?_ ?_
  · refine (State.mirrorSources_keeps ?_ (covers_trans (by decide) hm))
    dsimp -zeta only [x5]
    refine keeps_ite (P := fun z => Keeps m s0 z) ?_ ?_
    · refine (State.clearMem_keeps ?_ (covers_trans (by decide) hm) _ _)
      refine (State.clearMem_keeps ?_ (covers_trans (by decide) hm) _ _)
      dsimp -zeta only [x4]
      refine keeps_ite (P := fun z => Keeps m s0 z) ?_ ?_
      · refine (State.clearMem_keeps ?_ (covers_trans (by decide) hm) _ _)
        dsimp -zeta only [x2]
        refine keeps_ite (P := fun z => Keeps m s0 z) ?_ ?_
        · refine (State.wr_keeps ?_ (covers_trans (by decide) hm) _ _ _ _)
          refine (State.modFlt_keeps ?_ (covers_trans (by decide) hm) _)
          dsimp -zeta only [x1]
          refine keeps_ite (P := fun z => Keeps m s0 z) ?_ ?_
          · exact (State.wr_keeps (State.modFlt_keeps hx0 (covers_trans (by decide) hm) _) (covers_trans (by decide) hm) _ _ _ _)
          · exact hx0
        · dsimp -zeta only [x1]
          refine keeps_ite (P := fun z => Keeps m s0 z) ?_ ?_
          · exact (State.wr_keeps (State.modFlt_keeps hx0 (covers_trans (by decide) hm) _) (covers_trans (by decide) hm) _ _ _ _)
          · exact hx0
      · dsimp -zeta only [x2]
        refine keeps_ite (P := fun z => Keeps m s0 z) ?_ ?_
        · refine (State.wr_keeps ?_ (covers_trans (by decide) hm) _ _ _ _)
          refine (State.modFlt_keeps ?_ (covers_trans (by decide) hm) _)
          dsimp -zeta only [x1]
          refine keeps_ite (P := fun z => Keeps m s0 z) ?_ ?_
          · exact (State.wr_keeps (State.modFlt_keeps hx0 (covers_trans (by decide) hm) _) (covers_trans (by decide) hm) _ _ _ _)
          · exact hx0
        · dsimp -zeta only [x1]
          refine keeps_ite (P := fun z => Keeps m s0 z) ?_ ?_
          · exact (State.wr_keeps (State.modFlt_keeps hx0 (covers_trans (by decide) hm) _) (covers_trans (by decide) hm) _ _ _ _)
          · exact hx0
    · dsimp -zeta only [x4]
      refine keeps_ite (P := fun z => Keeps m s0 z) ?_ ?_
      · refine (State.clearMem_keeps ?_ (covers_trans (by decide) hm) _ _)
        dsimp -zeta only [x2]
        refine keeps_ite (P := fun z => Keeps m s0 z) ?_ ?_
        · refine (State.wr_keeps ?_ (covers_trans (by decide) hm) _ _ _ _)
          refine (State.modFlt_keeps ?_ (covers_trans (by decide) hm) _)
          dsimp -zeta only [x1]
          refine keeps_ite (P := fun z => Keeps m s0 z) ?_ ?_
          · exact (State.wr_keeps (State.modFlt_keeps hx0 (covers_trans (by decide) hm) _) (covers_trans (by decide) hm) _ _ _ _)
          · exact hx0
        · dsimp -zeta only [x1]
          refine keeps_ite (P := fun z => Keeps m s0 z) ?_ ?_
          · exact (State.wr_keeps (State.modFlt_keeps hx0 (covers_trans (by decide) hm) _) (covers_trans (by decide) hm) _ _ _ _)
          · exact hx0
      · dsimp -zeta only [x2]
        refine keeps_ite (P := fun z => Keeps m s0 z) ?_ ?_
        · refine (State.wr_keeps ?_ (covers_trans (by decide) hm) _ _ _ _)
          refine (State.modFlt_keeps ?_ (covers_trans (by decide) hm) _)
          dsimp -zeta only [x1]
          refine keeps_ite (P := fun z => Keeps m s0 z) ?_ ?_
          · exact (State.wr_keeps (State.modFlt_keeps hx0 (covers_trans (by decide) hm) _) (covers_trans (by decide) hm) _ _ _ _)
          · exact hx0
        · dsimp -zeta only [x1]
          refine keeps_ite (P := fun z => Keeps m s0 z) ?_ ?_
          · exact (State.wr_keeps (State.modFlt_keeps hx0 (covers_trans (by decide) hm) _) (covers_trans (by decide) hm) _ _ _ _)
          · exact hx0
  · dsimp -zeta only [x2]
    refine keeps_ite (P := fun z => Keeps m s0 z) ?_ ?_
    · refine (State.wr_keeps ?_ (covers_trans (by decide) hm) _ _ _ _)
      refine (State.modFlt_keeps ?_ (covers_trans (by decide) hm) _)
      dsimp -zeta only [x1]
      refine keeps_ite (P := fun z => Keeps m s0 z) ?_ ?_
      · exact (State.wr_keeps (State.modFlt_keeps hx0 (covers_trans (by decide) hm) _) (covers_trans (by decide) hm) _ _ _ _)
      · exact hx0
    · dsimp -zeta only [x1]
      refine keeps_ite (P := fun z => Keeps m s0 z) ?_ ?_
      · exact (State.wr_keeps (State.modFlt_keeps hx0 (covers_trans (by decide) hm) _) (covers_trans (by decide) hm) _ _ _ _)
      · exact hx0

theorem execRollClear_keeps : ∀ a0 a1 t, execRollClear a0 a1 s = .next t →
    Keeps [.regs, .mem, .que, .host, .flt, .out] s t := by
  intro a0 a1 t e
  have hm : covers [.regs, .mem, .que, .host, .flt, .out] [.regs, .mem, .que, .host, .flt, .out] = true := by decide
  have h := Keeps.refl [.regs, .mem, .que, .host, .flt, .out] s
  unfold execRollClear at e
  replace e := Host.Outcome.next.inj e
  subst e
  exact (State.reply_keeps (State.rollClear_keeps h (covers_trans (by decide) hm) _) (covers_trans (by decide) hm) _ _ _)

theorem execPfail_keeps : ∀ t, execPfail s = .next t →
    Keeps [.regs, .mem, .scn, .chn, .host, .nbr, .modes, .flt, .out] s t := by
  intro t e
  have hm : covers [.regs, .mem, .scn, .chn, .host, .nbr, .modes, .flt, .out] [.regs, .mem, .scn, .chn, .host, .nbr, .modes, .flt, .out] = true := by decide
  have h := Keeps.refl [.regs, .mem, .scn, .chn, .host, .nbr, .modes, .flt, .out] s
  unfold execPfail at e
  extract_lets -merge -underBinder x0 x1 at e
  have hx0 : Keeps [.regs, .mem, .scn, .chn, .host, .nbr, .modes, .flt, .out] s x0 := (State.modFlt_keeps (State.raiseFault_keeps h (covers_trans (by decide) hm) _ _ _) (covers_trans (by decide) hm) _)
  try clear_value x0
  replace e := Host.Outcome.next.inj e
  subst e
  refine keeps_ite (P := fun z => Keeps [.regs, .mem, .scn, .chn, .host, .nbr, .modes, .flt, .out] s z) ?_ ?_
  · exact (State.modModes_keeps hx0 (covers_trans (by decide) hm) _)
  · exact hx0

theorem execPfailNRise_keeps : ∀ t, execPfailNRise s = .next t →
    Keeps [.flt] s t := by
  intro t e
  have hm : covers [.flt] [.flt] = true := by decide
  have h := Keeps.refl [.flt] s
  unfold execPfailNRise at e
  replace e := Host.Outcome.next.inj e
  subst e
  exact (State.modFlt_keeps h (covers_trans (by decide) hm) _)

theorem execPfailRecordWritten_keeps : ∀ t, execPfailRecordWritten s = .next t →
    Keeps [.regs, .mem, .host, .flt, .out] s t := by
  intro t e
  have hm : covers [.regs, .mem, .host, .flt, .out] [.regs, .mem, .host, .flt, .out] = true := by decide
  have h := Keeps.refl [.regs, .mem, .host, .flt, .out] s
  unfold execPfailRecordWritten at e
  replace e := Host.Outcome.next.inj e
  subst e
  split
  · exact h
  · extract_lets -merge -underBinder x0 x1 x2 x3 x4 x5 x6
    have hx3 : Keeps [.regs, .mem, .host, .flt, .out] s x3 := (State.setBytes_keeps h (covers_trans (by decide) hm) _ _)
    have hx5 : Keeps [.regs, .mem, .host, .flt, .out] s x5 := by
      subst x5
      refine keeps_ite (P := fun z => Keeps [.regs, .mem, .host, .flt, .out] s z) ?_ ?_
      · exact (State.flashErased_keeps (State.clearMem_keeps hx3 (covers_trans (by decide) hm) _ _) (covers_trans (by decide) hm) _)
      · exact hx3
    have hx6 : Keeps [.regs, .mem, .host, .flt, .out] s x6 := (State.modFlt_keeps hx5 (covers_trans (by decide) hm) _)
    try clear_value x6
    try clear_value x5
    try clear_value x3
    refine keeps_ite (P := fun z => Keeps [.regs, .mem, .host, .flt, .out] s z) ?_ ?_
    · exact h
    · exact (State.raise_keeps (State.wr_keeps hx6 (covers_trans (by decide) hm) _ _ _ _) (covers_trans (by decide) hm) _ _)

theorem State.copySpan_keeps (h : Keeps m s0 s) (hm : covers m [.mem] = true) : ∀ a1 a2 a3, Keeps m s0 (State.copySpan s a1 a2 a3) := by
  intro a1 a2 a3
  unfold State.copySpan
  extract_lets -merge -underBinder x0
  refine keeps_foldl (P := fun z => Keeps m s0 z) ?_ fun _ _ h1 => ?_
  · exact (State.clearMem_keeps h (covers_trans (by decide) hm) _ _)
  · exact (State.setByte_keeps h1 (covers_trans (by decide) hm) _ _)

theorem execPfailCopy_keeps : ∀ a0 a1 a2 t, execPfailCopy a0 a1 a2 s = .next t →
    Keeps [.regs, .mem, .que, .host, .out] s t := by
  intro a0 a1 a2 t e
  have hm : covers [.regs, .mem, .que, .host, .out] [.regs, .mem, .que, .host, .out] = true := by decide
  have h := Keeps.refl [.regs, .mem, .que, .host, .out] s
  unfold execPfailCopy at e
  extract_lets -merge -underBinder x0 at e
  replace e := Host.Outcome.next.inj e
  subst e
  split
  · exact (State.reply_keeps h (covers_trans (by decide) hm) _ _ _)
  · refine keeps_ite (P := fun z => Keeps [.regs, .mem, .que, .host, .out] s z) ?_ ?_
    · exact (State.reply_keeps h (covers_trans (by decide) hm) _ _ _)
    · exact (State.reply_keeps (State.copySpan_keeps h (covers_trans (by decide) hm) _ _ _) (covers_trans (by decide) hm) _ _ _)

theorem State.wdogKick_keeps (h : Keeps m s0 s) (hm : covers m [.regs, .flt] = true) : ∀ a1 a2, Keeps m s0 (State.wdogKick s a1 a2) := by
  intro a1 a2
  unfold State.wdogKick
  refine keeps_ite (P := fun z => Keeps m s0 z) ?_ ?_
  · exact (State.modFlt_keeps h (covers_trans (by decide) hm) _)
  · exact (State.captureErr_keeps h (covers_trans (by decide) hm) _ _ _ _ _)

theorem execWdogKick_keeps : ∀ a0 a1 t, execWdogKick a0 a1 s = .next t →
    Keeps [.regs, .flt] s t := by
  intro a0 a1 t e
  have hm : covers [.regs, .flt] [.regs, .flt] = true := by decide
  have h := Keeps.refl [.regs, .flt] s
  unfold execWdogKick at e
  replace e := Host.Outcome.next.inj e
  subst e
  refine keeps_ite (P := fun z => Keeps [.regs, .flt] s z) ?_ ?_
  · exact h
  · exact (State.wdogKick_keeps h (covers_trans (by decide) hm) _ _)

theorem State.masterReset_keeps (h : Keeps m s0 s) (hm : covers m [.regs, .fab, .host, .out] = true) : ∀ a1, Keeps m s0 (State.masterReset s a1) := by
  intro a1
  unfold State.masterReset
  extract_lets -merge -underBinder x0 x1 x2 x3
  have hx2 : Keeps m s0 x2 := (State.modFab_keeps h (covers_trans (by decide) hm) _)
  have hx3 : Keeps m s0 x3 := (State.raise_keeps (State.wr_keeps hx2 (covers_trans (by decide) hm) _ _ _ _) (covers_trans (by decide) hm) _ _)
  try clear_value x3
  try clear_value x2
  refine keeps_ite (P := fun z => Keeps m s0 z) ?_ ?_
  · exact h
  · refine keeps_ite (P := fun z => Keeps m s0 z) ?_ ?_
    · exact hx3
    · exact (State.raise_keeps (State.wr_keeps hx3 (covers_trans (by decide) hm) _ _ _ _) (covers_trans (by decide) hm) _ _)

theorem execReeveWdogExpiry_keeps : ∀ t, execReeveWdogExpiry s = .next t →
    Keeps [.regs, .mem, .scn, .chn, .host, .nbr, .flt, .out] s t := by
  intro t e
  have hm : covers [.regs, .mem, .scn, .chn, .host, .nbr, .flt, .out] [.regs, .mem, .scn, .chn, .host, .nbr, .flt, .out] = true := by decide
  have h := Keeps.refl [.regs, .mem, .scn, .chn, .host, .nbr, .flt, .out] s
  unfold execReeveWdogExpiry at e
  replace e := Host.Outcome.next.inj e
  subst e
  refine keeps_ite (P := fun z => Keeps [.regs, .mem, .scn, .chn, .host, .nbr, .flt, .out] s z) ?_ ?_
  · exact h
  · extract_lets -merge -underBinder x0
    have hx0 : Keeps [.regs, .mem, .scn, .chn, .host, .nbr, .flt, .out] s x0 := (State.raiseFault_keeps (State.modFlt_keeps h (covers_trans (by decide) hm) _) (covers_trans (by decide) hm) _ _ _)
    try clear_value x0
    exact (State.bump_keeps (State.wr_keeps hx0 (covers_trans (by decide) hm) _ _ _ _) (covers_trans (by decide) hm) _ _ _ _)

theorem execCarterTimeout_keeps : ∀ a0 t, execCarterTimeout a0 s = .next t →
    Keeps [.regs, .mem, .scn, .chn, .fab, .host, .nbr, .flt, .out] s t := by
  intro a0 t e
  have hm : covers [.regs, .mem, .scn, .chn, .fab, .host, .nbr, .flt, .out] [.regs, .mem, .scn, .chn, .fab, .host, .nbr, .flt, .out] = true := by decide
  have h := Keeps.refl [.regs, .mem, .scn, .chn, .fab, .host, .nbr, .flt, .out] s
  unfold execCarterTimeout at e
  replace e := Host.Outcome.next.inj e
  subst e
  refine keeps_ite (P := fun z => Keeps [.regs, .mem, .scn, .chn, .fab, .host, .nbr, .flt, .out] s z) ?_ ?_
  · exact h
  · exact (State.masterReset_keeps (State.bump_keeps (State.raiseFault_keeps h (covers_trans (by decide) hm) _ _ _) (covers_trans (by decide) hm) _ _ _ _) (covers_trans (by decide) hm) _)

theorem execFwFatal_keeps : ∀ t, execFwFatal s = .next t →
    Keeps [.regs, .mem, .scn, .chn, .host, .nbr, .flt, .out] s t := by
  intro t e
  have hm : covers [.regs, .mem, .scn, .chn, .host, .nbr, .flt, .out] [.regs, .mem, .scn, .chn, .host, .nbr, .flt, .out] = true := by decide
  have h := Keeps.refl [.regs, .mem, .scn, .chn, .host, .nbr, .flt, .out] s
  unfold execFwFatal at e
  replace e := Host.Outcome.next.inj e
  subst e
  exact (State.raiseFault_keeps h (covers_trans (by decide) hm) _ _ _)

theorem State.writeDump_keeps (h : Keeps m s0 s) (hm : covers m [.mem, .free] = true) : ∀ a1 a2, Keeps m s0 (State.writeDump s a1 a2) := by
  intro a1 a2
  unfold State.writeDump
  extract_lets -merge -underBinder x0 x1 x2 x3 x4 x5 x6 x7 x8
  have hx7 : Keeps m s0 x7 := (State.useFree_keeps (State.setBytes_keeps h (covers_trans (by decide) hm) _ _) (covers_trans (by decide) hm) _)
  have hx8 : Keeps m s0 x8 := by
    subst x8
    refine keeps_ite (P := fun z => Keeps m s0 z) ?_ ?_
    · exact hx7
    · exact (State.copySpan_keeps (State.copySpan_keeps hx7 (covers_trans (by decide) hm) _ _ _) (covers_trans (by decide) hm) _ _ _)
  try clear_value x8
  try clear_value x7
  exact (State.store_keeps hx8 (covers_trans (by decide) hm) _ _ _)

theorem execDumpDone_keeps : ∀ t, execDumpDone s = .next t →
    Keeps [.regs, .mem, .host, .flt, .out, .free] s t := by
  intro t e
  have hm : covers [.regs, .mem, .host, .flt, .out, .free] [.regs, .mem, .host, .flt, .out, .free] = true := by decide
  have h := Keeps.refl [.regs, .mem, .host, .flt, .out, .free] s
  unfold execDumpDone at e
  replace e := Host.Outcome.next.inj e
  subst e
  refine keeps_ite (P := fun z => Keeps [.regs, .mem, .host, .flt, .out, .free] s z) ?_ ?_
  · exact h
  · extract_lets -merge -underBinder x0
    have hx0 : Keeps [.regs, .mem, .host, .flt, .out, .free] s x0 := (State.modFlt_keeps (State.writeDump_keeps h (covers_trans (by decide) hm) _ _) (covers_trans (by decide) hm) _)
    try clear_value x0
    exact (State.raise_keeps (State.wr_keeps hx0 (covers_trans (by decide) hm) _ _ _ _) (covers_trans (by decide) hm) _ _)

theorem State.flashDumpWrite_keeps (h : Keeps m s0 s) (hm : covers m [.regs, .mem, .host, .flt, .out, .free] = true) : ∀ a1, Keeps m s0 (State.flashDumpWrite s a1) := by
  intro a1
  unfold State.flashDumpWrite
  split
  · refine keeps_ite (P := fun z => Keeps m s0 z) ?_ ?_
    · exact (State.modFlt_keeps (State.writeDump_keeps h (covers_trans (by decide) hm) _ _) (covers_trans (by decide) hm) _)
    · exact (State.flashFailed_keeps h (covers_trans (by decide) hm))
  · exact (State.rollFw_keeps h (covers_trans (by decide) hm) _ _ _)

theorem execDumpInfo_keeps : ∀ a0 t, execDumpInfo a0 s = .next t →
    Keeps [.regs, .que, .host, .out] s t := by
  intro a0 t e
  have hm : covers [.regs, .que, .host, .out] [.regs, .que, .host, .out] = true := by decide
  have h := Keeps.refl [.regs, .que, .host, .out] s
  unfold execDumpInfo at e
  extract_lets -merge -underBinder x0 x1 at e
  replace e := Host.Outcome.next.inj e
  subst e
  exact (State.reply_keeps h (covers_trans (by decide) hm) _ _ _)

theorem execDumpCopy_keeps : ∀ a0 a1 a2 t, execDumpCopy a0 a1 a2 s = .next t →
    Keeps [.regs, .mem, .que, .host, .out] s t := by
  intro a0 a1 a2 t e
  have hm : covers [.regs, .mem, .que, .host, .out] [.regs, .mem, .que, .host, .out] = true := by decide
  have h := Keeps.refl [.regs, .mem, .que, .host, .out] s
  unfold execDumpCopy at e
  extract_lets -merge -underBinder x0 at e
  replace e := Host.Outcome.next.inj e
  subst e
  split
  · refine keeps_ite (P := fun z => Keeps [.regs, .mem, .que, .host, .out] s z) ?_ ?_
    · exact (State.reply_keeps h (covers_trans (by decide) hm) _ _ _)
    · exact (State.reply_keeps (State.copySpan_keeps h (covers_trans (by decide) hm) _ _ _) (covers_trans (by decide) hm) _ _ _)
  · exact (State.reply_keeps h (covers_trans (by decide) hm) _ _ _)

theorem execDumpClear_keeps : ∀ a0 a1 t, execDumpClear a0 a1 s = .next t →
    Keeps [.regs, .mem, .que, .host, .flt, .out] s t := by
  intro a0 a1 t e
  have hm : covers [.regs, .mem, .que, .host, .flt, .out] [.regs, .mem, .que, .host, .flt, .out] = true := by decide
  have h := Keeps.refl [.regs, .mem, .que, .host, .flt, .out] s
  unfold execDumpClear at e
  replace e := Host.Outcome.next.inj e
  subst e
  split
  · exact (State.reply_keeps h (covers_trans (by decide) hm) _ _ _)
  · refine keeps_ite (P := fun z => Keeps [.regs, .mem, .que, .host, .flt, .out] s z) ?_ ?_
    · exact (State.reply_keeps (State.flashFailed_keeps h (covers_trans (by decide) hm)) (covers_trans (by decide) hm) _ _ _)
    · extract_lets -merge -underBinder x0 x1
      have hx0 : Keeps [.regs, .mem, .que, .host, .flt, .out] s x0 := (State.flashErased_keeps (State.clearMem_keeps h (covers_trans (by decide) hm) _ _) (covers_trans (by decide) hm) _)
      have hx1 : Keeps [.regs, .mem, .que, .host, .flt, .out] s x1 := by
        subst x1
        refine keeps_ite (P := fun z => Keeps [.regs, .mem, .que, .host, .flt, .out] s z) ?_ ?_
        · exact (State.store_keeps hx0 (covers_trans (by decide) hm) _ _ _)
        · exact hx0
      try clear_value x1
      try clear_value x0
      exact (State.reply_keeps (State.modFlt_keeps hx1 (covers_trans (by decide) hm) _) (covers_trans (by decide) hm) _ _ _)

end Sys2Proof.Machine
end

