-- ==== Sys2Proof/Laws/KeepsBoot.lean ====
section
/-! SUPPORT. What each function of Machine/Boot.lean keeps: the parts of the state it can change, the canonical form of the stores,
the order of free values and outputs. One lemma per function, assembled from those of the functions it calls. -/
namespace Sys2Proof.Machine

variable {m : List Part} {s0 s : State}

theorem State.showProgress_keeps (h : Keeps m s0 s) (hm : covers m [.regs] = true) : Keeps m s0 (State.showProgress s) := by
  unfold State.showProgress
  split
  · exact (State.wr_keeps (State.wr_keeps h (covers_trans (by decide) hm) _ _ _ _) (covers_trans (by decide) hm) _ _ _ _)
  · exact h

theorem State.checkSchema_keeps (h : Keeps m s0 s) (hm : covers m [.regs, .mem, .host, .boot, .flt, .out] = true) : ∀ a1, Keeps m s0 (State.checkSchema s a1) := by
  intro a1
  unfold State.checkSchema
  extract_lets -merge -underBinder x0 x1 x2
  have hx2 : Keeps m s0 x2 := by
    subst x2
    refine keeps_ite (P := fun z => Keeps m s0 z) ?_ ?_
    · exact (State.rollFw_keeps (State.raise_keeps (State.wr_keeps (State.saveSettings_keeps h (covers_trans (by decide) hm) _) (covers_trans (by decide) hm) _ _ _ _) (covers_trans (by decide) hm) _ _) (covers_trans (by decide) hm) _ _ _)
    · exact (State.modBoot_keeps h (covers_trans (by decide) hm) _)
  try clear_value x2
  exact (State.wr_keeps hx2 (covers_trans (by decide) hm) _ _ _ _)

theorem State.presetWrite_keeps (h : Keeps m s0 s) (hm : covers m [.regs, .live, .pend, .mem, .eng, .xrd, .scn, .chn, .que, .host, .mil, .net, .ports, .stp, .nbr, .modes, .memx, .boot, .flt, .out] = true) : ∀ a1 a2 a3 a4, Keeps m s0 (State.presetWrite s a1 a2 a3 a4) := by
  intro a1 a2 a3 a4
  unfold State.presetWrite
  refine keeps_ite (P := fun z => Keeps m s0 z) ?_ ?_
  · exact (State.clearRaw_keeps h (covers_trans (by decide) hm) _ _)
  · refine keeps_ite (P := fun z => Keeps m s0 z) ?_ ?_
    · exact (State.testIrq_keeps h (covers_trans (by decide) hm) _ _)
    · refine keeps_ite (P := fun z => Keeps m s0 z) ?_ ?_
      · refine keeps_ite (P := fun z => Keeps m s0 z) ?_ ?_
        · exact (State.applyTake_keeps h (covers_trans (by decide) hm) _)
        · refine keeps_ite (P := fun z => Keeps m s0 z) ?_ ?_
          · exact (State.applyDiscard_keeps h (covers_trans (by decide) hm) _)
          · exact h
      · refine keeps_ite (P := fun z => Keeps m s0 z) ?_ ?_
        · refine keeps_ite (P := fun z => Keeps m s0 z) ?_ ?_
          · exact (State.wr_keeps h (covers_trans (by decide) hm) _ _ _ _)
          · exact h
        · refine keeps_ite (P := fun z => Keeps m s0 z) ?_ ?_
          · exact (State.outAlign_keeps h (covers_trans (by decide) hm) _)
          · refine keeps_ite (P := fun z => Keeps m s0 z) ?_ ?_
            · exact (State.nbrCtrl_keeps h (covers_trans (by decide) hm) _)
            · extract_lets -merge -underBinder x0
              have hx0 : Keeps m s0 x0 := (State.clearW1c_keeps (State.storeBits_keeps h (covers_trans (by decide) hm) _ _ _ _) (covers_trans (by decide) hm) _ _ _)
              try clear_value x0
              refine keeps_ite (P := fun z => Keeps m s0 z) ?_ ?_
              · exact (State.settleVectors_keeps hx0 (covers_trans (by decide) hm) _ _)
              · refine keeps_ite (P := fun z => Keeps m s0 z) ?_ ?_
                · exact (State.settleVectors_keeps hx0 (covers_trans (by decide) hm) _ _)
                · exact hx0

theorem State.preset_keeps (h : Keeps m s0 s) (hm : covers m [.regs, .live, .pend, .mem, .eng, .xrd, .scn, .chn, .que, .host, .mil, .net, .ports, .stp, .nbr, .modes, .memx, .boot, .flt, .out] = true) : ∀ a1, Keeps m s0 (State.preset s a1) := by
  intro a1
  unfold State.preset
  split
  · exact (State.presetWrite_keeps h (covers_trans (by decide) hm) _ _ _ _)
  · exact h
  · exact (State.rollFw_keeps h (covers_trans (by decide) hm) _ _ _)

theorem State.loadSettings_keeps (h : Keeps m s0 s) (hm : covers m [.regs, .live, .pend, .mem, .eng, .xrd, .scn, .chn, .que, .host, .mil, .net, .ports, .stp, .nbr, .modes, .memx, .boot, .flt, .out] = true) : ∀ a1, Keeps m s0 (State.loadSettings s a1) := by
  intro a1
  unfold State.loadSettings
  extract_lets -merge -underBinder x0 x1 x2 x3 x4 x5 x6 x7
  have hx0 : Keeps m s0 x0 := (State.checkSchema_keeps (State.readSettings_keeps h (covers_trans (by decide) hm)) (covers_trans (by decide) hm) _)
  have hx3 : Keeps m s0 x3 := by
    subst x3
    refine (State.modMemx_keeps ?_ (covers_trans (by decide) hm) _)
    try dsimp -zeta only [x2]
    split
    · refine (State.wr_keeps ?_ (covers_trans (by decide) hm) _ _ _ _)
      try dsimp -zeta only [x2]
      split
      · exact (State.wr_keeps hx0 (covers_trans (by decide) hm) _ _ _ _)
      · exact hx0
    · try dsimp -zeta only [x2]
      split
      · exact (State.wr_keeps hx0 (covers_trans (by decide) hm) _ _ _ _)
      · exact hx0
  have hx4 : Keeps m s0 x4 := by
    subst x4
    refine keeps_foldl (P := fun z => Keeps m s0 z) ?_ fun _ _ h8 => ?_
    · exact hx3
    · extract_lets -merge -underBinder x9
      exact (State.wr_keeps h8 (covers_trans (by decide) hm) _ _ _ _)
  have hx5 : Keeps m s0 x5 := by
    subst x5
    split
    · exact (State.setReg_keeps hx4 (covers_trans (by decide) hm) _ _)
    · exact hx4
  have hx6 : Keeps m s0 x6 := by
    subst x6
    refine keeps_foldl (P := fun z => Keeps m s0 z) ?_ fun _ _ h10 => ?_
    · exact hx5
    · exact (State.preset_keeps h10 (covers_trans (by decide) hm) _)
  try clear_value x6
  try clear_value x5
  try clear_value x4
  try clear_value x3
  try clear_value x0
  refine (State.gpioDrives_keeps ?_ (covers_trans (by decide) hm))
  refine (State.showStp_keeps ?_ (covers_trans (by decide) hm))
  refine keeps_foldl (P := fun z => Keeps m s0 z) ?_ fun _ _ h11 => ?_
  · exact hx6
  · exact (State.applyTake_keeps h11 (covers_trans (by decide) hm) _)

theorem State.startFails_keeps (h : Keeps m s0 s) (hm : covers m [.regs, .mem, .scn, .chn, .host, .nbr, .flt, .out] = true) : ∀ a1, Keeps m s0 (State.startFails s a1) := by
  intro a1
  unfold State.startFails
  exact (State.raiseFault_keeps (State.wr_keeps h (covers_trans (by decide) hm) _ _ _ _) (covers_trans (by decide) hm) _ _ _)

theorem State.reeveStarts_keeps (h : Keeps m s0 s) (hm : covers m [.regs, .live, .pend, .mem, .eng, .xrd, .scn, .chn, .que, .host, .mil, .net, .ports, .stp, .nbr, .modes, .memx, .boot, .flt, .out] = true) : ∀ a1 a2, Keeps m s0 (State.reeveStarts s a1 a2) := by
  intro a1 a2
  unfold State.reeveStarts
  extract_lets -merge -underBinder x0 x1 x2 x3 x4
  have hx2 : Keeps m s0 x2 := (State.modBoot_keeps h (covers_trans (by decide) hm) _)
  have hx3 : Keeps m s0 x3 := (State.wr_keeps (State.wr_keeps (State.wr_keeps (State.wr_keeps hx2 (covers_trans (by decide) hm) _ _ _ _) (covers_trans (by decide) hm) _ _ _ _) (covers_trans (by decide) hm) _ _ _ _) (covers_trans (by decide) hm) _ _ _ _)
  have hx4 : Keeps m s0 x4 := (State.loadMacs_keeps (State.identity_keeps (State.loadSettings_keeps (State.wr_keeps hx3 (covers_trans (by decide) hm) _ _ _ _) (covers_trans (by decide) hm) _) (covers_trans (by decide) hm)) (covers_trans (by decide) hm))
  try clear_value x4
  try clear_value x3
  try clear_value x2
  exact (State.showProgress_keeps (State.showFaultN_keeps hx4 (covers_trans (by decide) hm)) (covers_trans (by decide) hm))

theorem State.enterRecovery_keeps (h : Keeps m s0 s) (hm : covers m [.regs, .mem, .scn, .chn, .host, .nbr, .flt, .out] = true) : ∀ a1, Keeps m s0 (State.enterRecovery s a1) := by
  intro a1
  unfold State.enterRecovery
  exact (State.raiseFault_keeps (State.wr_keeps (State.wr_keeps h (covers_trans (by decide) hm) _ _ _ _) (covers_trans (by decide) hm) _ _ _ _) (covers_trans (by decide) hm) _ _ _)

theorem State.rejectTrial_keeps (h : Keeps m s0 s) (hm : covers m [.regs, .mem, .host, .boot, .out] = true) : ∀ a1, Keeps m s0 (State.rejectTrial s a1) := by
  intro a1
  unfold State.rejectTrial
  exact (State.raise_keeps (State.putSlot_keeps h (covers_trans (by decide) hm) _ _) (covers_trans (by decide) hm) _ _)

theorem State.chooseSlot_keeps (h : Keeps m s0 s) (hm : covers m [.regs, .mem, .host, .boot, .out] = true) : Keeps m s0 (State.chooseSlot s).2 := by
  unfold State.chooseSlot
  extract_lets -merge -underBinder x0
  have hx0 : Keeps m s0 x0 := by
    subst x0
    refine keeps_ite (P := fun z => Keeps m s0 z) ?_ ?_
    · refine (State.modBoot_keeps ?_ (covers_trans (by decide) hm) _)
      split
      · exact (State.rejectTrial_keeps h (covers_trans (by decide) hm) _)
      · exact h
    · exact h
  try clear_value x0
  split
  · extract_lets -merge -underBinder x1 x2
    have hx2 : Keeps m s0 x2 := (State.rejectTrial_keeps hx0 (covers_trans (by decide) hm) _)
    try clear_value x2
    refine keeps_ite (P := fun (z : Option Nat × State) => Keeps m s0 z.2) ?_ ?_
    · exact (keeps_snd (P := fun z => Keeps m s0 z) (State.putSlot_keeps hx0 (covers_trans (by decide) hm) _ _))
    · exact (keeps_snd (P := fun z => Keeps m s0 z) hx2)
  · exact (keeps_snd (P := fun z => Keeps m s0 z) hx0)

theorem State.readHeader_keeps (h : Keeps m s0 s) (hm : covers m [.regs, .host] = true) : Keeps m s0 (State.readHeader s) := by
  unfold State.readHeader
  refine keeps_ite (P := fun z => Keeps m s0 z) ?_ ?_
  · exact (State.modHost_keeps (State.wr_keeps (State.wr_keeps (State.wr_keeps h (covers_trans (by decide) hm) _ _ _ _) (covers_trans (by decide) hm) _ _ _ _) (covers_trans (by decide) hm) _ _ _ _) (covers_trans (by decide) hm) _)
  · exact h

theorem State.showFlashRoll_keeps (h : Keeps m s0 s) (hm : covers m [.regs] = true) : Keeps m s0 (State.showFlashRoll s) := by
  unfold State.showFlashRoll
  split
  · exact h
  · exact (State.wr_keeps (State.wr_keeps h (covers_trans (by decide) hm) _ _ _ _) (covers_trans (by decide) hm) _ _ _ _)

theorem State.startFrom2_keeps (h : Keeps m s0 s) (hm : covers m [.regs, .live, .pend, .mem, .eng, .xrd, .scn, .chn, .que, .host, .mil, .net, .ports, .stp, .nbr, .modes, .memx, .boot, .flt, .out] = true) : Keeps m s0 (State.startFrom2 s) := by
  unfold State.startFrom2
  extract_lets -merge -underBinder x0 x1
  have hx0 : Keeps m s0 x0 := (State.showFlashRoll_keeps (State.readHeader_keeps (State.wr_keeps (State.wr_keeps h (covers_trans (by decide) hm) _ _ _ _) (covers_trans (by decide) hm) _ _ _ _) (covers_trans (by decide) hm)) (covers_trans (by decide) hm))
  have hx1 : Keeps m s0 x1.2 := (State.chooseSlot_keeps (State.readRecords_keeps (State.wr_keeps hx0 (covers_trans (by decide) hm) _ _ _ _) (covers_trans (by decide) hm)) (covers_trans (by decide) hm))
  try clear_value x1
  try clear_value x0
  refine keeps_ite (P := fun z => Keeps m s0 z) ?_ ?_
  · exact (State.enterRecovery_keeps hx0 (covers_trans (by decide) hm) _)
  · split
    · exact (State.enterRecovery_keeps hx1 (covers_trans (by decide) hm) _)
    · exact (State.reeveStarts_keeps hx1 (covers_trans (by decide) hm) _ _)

theorem State.resetBase_keeps (h : Keeps m s0 s) (hm : covers m [.regs, .live, .pend, .mem, .eng, .xrd, .scn, .chn, .fab, .dma, .que,
      .host, .mil, .net, .ports, .stp, .nbr, .modes, .memx, .boot, .flt] = true) :
    ∀ keep, Keeps m s0 (State.resetBase s keep) := by
  intro keep
  have hk (p : Part) (hc : covers m [p] = false) : p = .resp ∨ p = .out ∨ p = .free ∨ p = .pending := by
    cases p <;> first
      | (rw [covers_trans (k := [_]) (by decide) hm] at hc; cases hc)
      | simp
  refine ⟨fun p hp => ?_, fun c => ⟨sparseFilter_wf (h.canon c).1 _, sparseFilter_wf (h.canon c).2.1 _, sparseFilter_wf (h.canon c).2.2 _⟩,
    h.free, h.out⟩
  have a := h.same p hp
  rcases hk p hp with rfl | rfl | rfl | rfl <;> exact a

theorem execResetRelease_keeps : ∀ a0 a1 t, execResetRelease a0 a1 s = .next t →
    Keeps [.regs, .live, .pend, .mem, .eng, .xrd, .scn, .chn, .fab, .dma, .que, .host, .mil, .net, .ports, .stp, .nbr, .modes, .memx, .boot, .flt, .out] s t := by
  intro a0 a1 t e
  have hm : covers [.regs, .live, .pend, .mem, .eng, .xrd, .scn, .chn, .fab, .dma, .que, .host, .mil, .net, .ports, .stp, .nbr, .modes, .memx, .boot, .flt, .out] [.regs, .live, .pend, .mem, .eng, .xrd, .scn, .chn, .fab, .dma, .que, .host, .mil, .net, .ports, .stp, .nbr, .modes, .memx, .boot, .flt, .out] = true := by decide
  have h := Keeps.refl [.regs, .live, .pend, .mem, .eng, .xrd, .scn, .chn, .fab, .dma, .que, .host, .mil, .net, .ports, .stp, .nbr, .modes, .memx, .boot, .flt, .out] s
  unfold execResetRelease at e
  extract_lets -merge -underBinder x0 x1 x2 at e
  have hx0 : Keeps [.regs, .live, .pend, .mem, .eng, .xrd, .scn, .chn, .fab, .dma, .que, .host, .mil, .net, .ports, .stp, .nbr, .modes, .memx, .boot, .flt, .out] s x0 := (State.wr_keeps (State.wr_keeps (State.resetBase_keeps h (covers_trans (by decide) hm) _) (covers_trans (by decide) hm) _ _ _ _) (covers_trans (by decide) hm) _ _ _ _)
  have hx1 : Keeps [.regs, .live, .pend, .mem, .eng, .xrd, .scn, .chn, .fab, .dma, .que, .host, .mil, .net, .ports, .stp, .nbr, .modes, .memx, .boot, .flt, .out] s x1 := (State.wr_keeps (State.wr_keeps hx0 (covers_trans (by decide) hm) _ _ _ _) (covers_trans (by decide) hm) _ _ _ _)
  try clear_value x1
  try clear_value x0
  replace e := Host.Outcome.next.inj e
  subst e
  refine (State.startFrom2_keeps ?_ (covers_trans (by decide) hm))
  refine State.when_keeps hx1 _ _ fun _ h3 => ?_
  exact (State.raiseFault_keeps (State.wipeEnd_keeps h3 (covers_trans (by decide) hm) _) (covers_trans (by decide) hm) _ _ _)

theorem State.warmClear_keeps (h : Keeps m s0 s) (hm : covers m [.regs, .live, .pend, .mem, .eng, .xrd, .scn, .chn, .fab, .dma, .que, .host, .mil, .net, .ports, .stp, .nbr, .modes, .memx, .boot, .flt] = true) : ∀ a1, Keeps m s0 (State.warmClear s a1) := by
  intro a1
  unfold State.warmClear
  extract_lets -merge -underBinder x0 x1 x2 x3 x4 x5 x6 x7 x8 x9 x10 x11 x12 x13
  have hx0 : Keeps m s0 x0 := by
    subst x0
    refine keeps_foldl (P := fun z => Keeps m s0 z) ?_ fun _ _ h14 => ?_
    · exact h
    · exact (State.endPend_keeps h14 (covers_trans (by decide) hm) _ _)
  have hx1 : Keeps m s0 x1 := (State.resetBase_keeps hx0 (covers_trans (by decide) hm) _)
  have hx6 : Keeps m s0 x6 := (keeps_parts (l := [.stp, .memx, .boot, .flt]) hx1 (covers_trans (by decide) hm) (by intro p hp; cases p <;> first | exact absurd hp (by decide) | rfl) rfl rfl rfl rfl rfl)
  have hx7 : Keeps m s0 x7 := by
    subst x7
    refine keeps_foldl (P := fun z => Keeps m s0 z) ?_ fun _ _ h15 => ?_
    · exact hx6
    · exact (State.setReg_keeps h15 (covers_trans (by decide) hm) _ _)
  have hx8 : Keeps m s0 x8 := by
    subst x8
    refine keeps_foldl (P := fun z => Keeps m s0 z) ?_ fun _ _ h16 => ?_
    · exact (State.setLive_keeps hx7 (covers_trans (by decide) hm) _ _)
    · exact (State.setLive_keeps (State.setReg_keeps h16 (covers_trans (by decide) hm) _ _) (covers_trans (by decide) hm) _ _)
  have hx9 : Keeps m s0 x9 := by
    subst x9
    refine keeps_foldl (P := fun z => Keeps m s0 z) ?_ fun _ _ h17 => ?_
    · exact hx8
    · exact (State.wr_keeps h17 (covers_trans (by decide) hm) _ _ _ _)
  have hx10 : Keeps m s0 x10 := by
    subst x10
    refine keeps_foldl (P := fun z => Keeps m s0 z) ?_ fun _ _ h18 => ?_
    · exact hx9
    · exact (State.wr_keeps h18 (covers_trans (by decide) hm) _ _ _ _)
  have hx12 : Keeps m s0 x12 := (State.wr_keeps (State.wr_keeps (State.wr_keeps (State.wr_keeps (State.wr_keeps hx10 (covers_trans (by decide) hm) _ _ _ _) (covers_trans (by decide) hm) _ _ _ _) (covers_trans (by decide) hm) _ _ _ _) (covers_trans (by decide) hm) _ _ _ _) (covers_trans (by decide) hm) _ _ _ _)
  have hx13 : Keeps m s0 x13 := by
    subst x13
    refine keeps_ite (P := fun z => Keeps m s0 z) ?_ ?_
    · exact (State.modModes_keeps hx12 (covers_trans (by decide) hm) _)
    · exact hx12
  try clear_value x13
  try clear_value x12
  try clear_value x10
  try clear_value x9
  try clear_value x8
  try clear_value x7
  try clear_value x6
  try clear_value x1
  try clear_value x0
  exact (State.showFaultN_keeps (State.bump_keeps (State.wr_keeps (State.wr_keeps hx13 (covers_trans (by decide) hm) _ _ _ _) (covers_trans (by decide) hm) _ _ _ _) (covers_trans (by decide) hm) _ _ _ _) (covers_trans (by decide) hm))

theorem State.warmReset_keeps (h : Keeps m s0 s) (hm : covers m [.regs, .live, .pend, .mem, .eng, .xrd, .scn, .chn, .fab, .dma, .que, .host, .mil, .net, .ports, .stp, .nbr, .modes, .memx, .boot, .flt, .out] = true) : ∀ a1, Keeps m s0 (State.warmReset s a1) := by
  intro a1
  unfold State.warmReset
  refine keeps_ite (P := fun z => Keeps m s0 z) ?_ ?_
  · exact h
  · exact (State.startFrom2_keeps (State.warmClear_keeps h (covers_trans (by decide) hm) _) (covers_trans (by decide) hm))

theorem execWarmReset_keeps : ∀ a0 t, execWarmReset a0 s = .next t →
    Keeps [.regs, .live, .pend, .mem, .eng, .xrd, .scn, .chn, .fab, .dma, .que, .host, .mil, .net, .ports, .stp, .nbr, .modes, .memx, .boot, .flt, .out] s t := by
  intro a0 t e
  have hm : covers [.regs, .live, .pend, .mem, .eng, .xrd, .scn, .chn, .fab, .dma, .que, .host, .mil, .net, .ports, .stp, .nbr, .modes, .memx, .boot, .flt, .out] [.regs, .live, .pend, .mem, .eng, .xrd, .scn, .chn, .fab, .dma, .que, .host, .mil, .net, .ports, .stp, .nbr, .modes, .memx, .boot, .flt, .out] = true := by decide
  have h := Keeps.refl [.regs, .live, .pend, .mem, .eng, .xrd, .scn, .chn, .fab, .dma, .que, .host, .mil, .net, .ports, .stp, .nbr, .modes, .memx, .boot, .flt, .out] s
  unfold execWarmReset at e
  replace e := Host.Outcome.next.inj e
  subst e
  refine keeps_ite (P := fun z => Keeps [.regs, .live, .pend, .mem, .eng, .xrd, .scn, .chn, .fab, .dma, .que, .host, .mil, .net, .ports, .stp, .nbr, .modes, .memx, .boot, .flt, .out] s z) ?_ ?_
  · exact (State.warmReset_keeps h (covers_trans (by decide) hm) _)
  · exact h

theorem State.recoverImage_keeps (h : Keeps m s0 s) (hm : covers m [.regs, .live, .pend, .mem, .eng, .xrd, .scn, .chn, .que, .host, .mil, .net, .ports, .stp, .nbr, .modes, .memx, .boot, .flt, .out] = true) : ∀ a1, Keeps m s0 (State.recoverImage s a1) := by
  intro a1
  unfold State.recoverImage
  extract_lets -merge -underBinder x0
  refine keeps_ite (P := fun z => Keeps m s0 z) ?_ ?_
  · exact (State.reeveStarts_keeps h (covers_trans (by decide) hm) _ _)
  · exact h

theorem execUpdRecover_keeps : ∀ a0 t, execUpdRecover a0 s = .next t →
    Keeps [.regs, .live, .pend, .mem, .eng, .xrd, .scn, .chn, .que, .host, .mil, .net, .ports, .stp, .nbr, .modes, .memx, .boot, .flt, .out] s t := by
  intro a0 t e
  have hm : covers [.regs, .live, .pend, .mem, .eng, .xrd, .scn, .chn, .que, .host, .mil, .net, .ports, .stp, .nbr, .modes, .memx, .boot, .flt, .out] [.regs, .live, .pend, .mem, .eng, .xrd, .scn, .chn, .que, .host, .mil, .net, .ports, .stp, .nbr, .modes, .memx, .boot, .flt, .out] = true := by decide
  have h := Keeps.refl [.regs, .live, .pend, .mem, .eng, .xrd, .scn, .chn, .que, .host, .mil, .net, .ports, .stp, .nbr, .modes, .memx, .boot, .flt, .out] s
  unfold execUpdRecover at e
  replace e := Host.Outcome.next.inj e
  subst e
  exact (State.recoverImage_keeps h (covers_trans (by decide) hm) _)

theorem State.startConfig_keeps (h : Keeps m s0 s) (hm : covers m [.regs, .live, .mem, .eng, .xrd, .scn, .chn, .host, .mil, .stp, .nbr, .modes, .memx, .boot, .flt, .out] = true) : Keeps m s0 (State.startConfig s) := by
  unfold State.startConfig
  extract_lets -merge -underBinder x0 x1
  have hx1 : Keeps m s0 x1 := (State.modBoot_keeps h (covers_trans (by decide) hm) _)
  try clear_value x1
  split
  · exact (State.startFails_keeps hx1 (covers_trans (by decide) hm) _)
  · refine keeps_ite (P := fun z => Keeps m s0 z) ?_ ?_
    · exact (State.startFails_keeps (State.loadRefused_keeps hx1 (covers_trans (by decide) hm) _) (covers_trans (by decide) hm) _)
    · exact (State.startEngine_keeps (State.setLive_keeps (State.wr_keeps hx1 (covers_trans (by decide) hm) _ _ _ _) (covers_trans (by decide) hm) _ _) (covers_trans (by decide) hm) _ _ _ _)

theorem execTrainingComplete_keeps : ∀ a0 a1 a2 a3 a4 t, execTrainingComplete a0 a1 a2 a3 a4 s = .next t →
    Keeps [.regs, .live, .mem, .eng, .xrd, .scn, .chn, .host, .mil, .stp, .nbr, .modes, .memx, .boot, .flt, .out] s t := by
  intro a0 a1 a2 a3 a4 t e
  have hm : covers [.regs, .live, .mem, .eng, .xrd, .scn, .chn, .host, .mil, .stp, .nbr, .modes, .memx, .boot, .flt, .out] [.regs, .live, .mem, .eng, .xrd, .scn, .chn, .host, .mil, .stp, .nbr, .modes, .memx, .boot, .flt, .out] = true := by decide
  have h := Keeps.refl [.regs, .live, .mem, .eng, .xrd, .scn, .chn, .host, .mil, .stp, .nbr, .modes, .memx, .boot, .flt, .out] s
  unfold execTrainingComplete at e
  extract_lets -merge -underBinder x0 x1 x2 x3 x4 x5 at e
  have hx1 : Keeps [.regs, .live, .mem, .eng, .xrd, .scn, .chn, .host, .mil, .stp, .nbr, .modes, .memx, .boot, .flt, .out] s x1 := (State.wr_keeps h (covers_trans (by decide) hm) _ _ _ _)
  have hx2 : Keeps [.regs, .live, .mem, .eng, .xrd, .scn, .chn, .host, .mil, .stp, .nbr, .modes, .memx, .boot, .flt, .out] s x2 := (State.wr_keeps (State.wr_keeps (State.wr_keeps hx1 (covers_trans (by decide) hm) _ _ _ _) (covers_trans (by decide) hm) _ _ _ _) (covers_trans (by decide) hm) _ _ _ _)
  have hx3 : Keeps [.regs, .live, .mem, .eng, .xrd, .scn, .chn, .host, .mil, .stp, .nbr, .modes, .memx, .boot, .flt, .out] s x3 := (State.startMirror_keeps (State.raise_keeps (State.wr_keeps (State.wr_keeps hx2 (covers_trans (by decide) hm) _ _ _ _) (covers_trans (by decide) hm) _ _ _ _) (covers_trans (by decide) hm) _ _) (covers_trans (by decide) hm))
  have hx4 : Keeps [.regs, .live, .mem, .eng, .xrd, .scn, .chn, .host, .mil, .stp, .nbr, .modes, .memx, .boot, .flt, .out] s x4 := (State.wr_keeps (State.wr_keeps (State.wr_keeps (State.wr_keeps hx1 (covers_trans (by decide) hm) _ _ _ _) (covers_trans (by decide) hm) _ _ _ _) (covers_trans (by decide) hm) _ _ _ _) (covers_trans (by decide) hm) _ _ _ _)
  have hx5 : Keeps [.regs, .live, .mem, .eng, .xrd, .scn, .chn, .host, .mil, .stp, .nbr, .modes, .memx, .boot, .flt, .out] s x5 := (State.raise_keeps hx4 (covers_trans (by decide) hm) _ _)
  try clear_value x5
  try clear_value x4
  try clear_value x3
  try clear_value x2
  try clear_value x1
  replace e := Host.Outcome.next.inj e
  subst e
  refine keeps_ite (P := fun z => Keeps [.regs, .live, .mem, .eng, .xrd, .scn, .chn, .host, .mil, .stp, .nbr, .modes, .memx, .boot, .flt, .out] s z) ?_ ?_
  · exact h
  · refine keeps_ite (P := fun z => Keeps [.regs, .live, .mem, .eng, .xrd, .scn, .chn, .host, .mil, .stp, .nbr, .modes, .memx, .boot, .flt, .out] s z) ?_ ?_
    · refine keeps_ite (P := fun z => Keeps [.regs, .live, .mem, .eng, .xrd, .scn, .chn, .host, .mil, .stp, .nbr, .modes, .memx, .boot, .flt, .out] s z) ?_ ?_
      · exact (State.startConfig_keeps (State.wr_keeps hx3 (covers_trans (by decide) hm) _ _ _ _) (covers_trans (by decide) hm))
      · exact hx3
    · refine keeps_ite (P := fun z => Keeps [.regs, .live, .mem, .eng, .xrd, .scn, .chn, .host, .mil, .stp, .nbr, .modes, .memx, .boot, .flt, .out] s z) ?_ ?_
      · exact (State.startFails_keeps hx5 (covers_trans (by decide) hm) _)
      · exact hx5

end Sys2Proof.Machine
end

