-- ==== Sys2Proof/Laws/KeepsUpdate.lean ====
section
/-! SUPPORT. What each function of Machine/Update.lean keeps: the parts of the state it can change, the canonical form of the stores,
the order of free values and outputs. One lemma per function, assembled from those of the functions it calls. -/
namespace Sys2Proof.Machine

variable {m : List Part} {s0 s : State}

theorem State.refuse_keeps (h : Keeps m s0 s) (hm : covers m [.regs, .que, .host, .out] = true) : ∀ a1 a2, Keeps m s0 (State.refuse s a1 a2) := by
  intro a1 a2
  unfold State.refuse
  exact (State.reply_keeps h (covers_trans (by decide) hm) _ _ _)

theorem State.updRefuse_keeps (h : Keeps m s0 s) (hm : covers m [.regs, .que, .host, .out] = true) : ∀ a1 a2, Keeps m s0 (State.updRefuse s a1 a2) := by
  intro a1 a2
  unfold State.updRefuse
  exact (State.refuse_keeps (State.wr_keeps h (covers_trans (by decide) hm) _ _ _ _) (covers_trans (by decide) hm) _ _)

theorem State.updOk_keeps (h : Keeps m s0 s) (hm : covers m [.regs, .que, .host, .out] = true) : ∀ a1 a2, Keeps m s0 (State.updOk s a1 a2) := by
  intro a1 a2
  unfold State.updOk
  exact (State.reply_keeps (State.wr_keeps h (covers_trans (by decide) hm) _ _ _ _) (covers_trans (by decide) hm) _ _ _)

theorem State.updFlash_keeps (h : Keeps m s0 s) (hm : covers m [.regs, .que, .host, .out] = true) : ∀ a1, Keeps m s0 (State.updFlash s a1) := by
  intro a1
  unfold State.updFlash
  exact (State.updRefuse_keeps (State.flashFailed_keeps h (covers_trans (by decide) hm)) (covers_trans (by decide) hm) _ _)

theorem execCfgLoad_keeps : ∀ a0 a1 a2 t, execCfgLoad a0 a1 a2 s = .next t →
    Keeps [.regs, .que, .host, .boot, .out] s t := by
  intro a0 a1 a2 t e
  have hm : covers [.regs, .que, .host, .boot, .out] [.regs, .que, .host, .boot, .out] = true := by decide
  have h := Keeps.refl [.regs, .que, .host, .boot, .out] s
  unfold execCfgLoad at e
  extract_lets -merge -underBinder x0 x1 x2 x3 at e
  replace e := Host.Outcome.next.inj e
  subst e
  refine keeps_ite (P := fun z => Keeps [.regs, .que, .host, .boot, .out] s z) ?_ ?_
  · exact (State.reply_keeps (State.loadRefused_keeps h (covers_trans (by decide) hm) _) (covers_trans (by decide) hm) _ _ _)
  · exact (State.reply_keeps (State.modBoot_keeps h (covers_trans (by decide) hm) _) (covers_trans (by decide) hm) _ _ _)

theorem execCfgSave_keeps : ∀ a0 a1 a2 t, execCfgSave a0 a1 a2 s = .next t →
    Keeps [.regs, .que, .host, .boot, .out] s t := by
  intro a0 a1 a2 t e
  have hm : covers [.regs, .que, .host, .boot, .out] [.regs, .que, .host, .boot, .out] = true := by decide
  have h := Keeps.refl [.regs, .que, .host, .boot, .out] s
  unfold execCfgSave at e
  extract_lets -merge -underBinder x0 at e
  replace e := Host.Outcome.next.inj e
  subst e
  split
  · exact (State.refuse_keeps h (covers_trans (by decide) hm) _ _)
  · exact (State.refuse_keeps h (covers_trans (by decide) hm) _ _)
  · extract_lets -merge -underBinder x1
    refine keeps_ite (P := fun z => Keeps [.regs, .que, .host, .boot, .out] s z) ?_ ?_
    · exact (State.refuse_keeps h (covers_trans (by decide) hm) _ _)
    · refine keeps_ite (P := fun z => Keeps [.regs, .que, .host, .boot, .out] s z) ?_ ?_
      · exact (State.refuse_keeps (State.flashFailed_keeps h (covers_trans (by decide) hm)) (covers_trans (by decide) hm) _ _)
      · exact (State.reply_keeps (State.modBoot_keeps h (covers_trans (by decide) hm) _) (covers_trans (by decide) hm) _ _ _)

theorem execCfgStart_keeps : ∀ a0 a1 a2 t, execCfgStart a0 a1 a2 s = .next t →
    Keeps [.regs, .mem, .eng, .xrd, .scn, .chn, .que, .host, .mil, .stp, .modes, .memx, .boot, .out] s t := by
  intro a0 a1 a2 t e
  have hm : covers [.regs, .mem, .eng, .xrd, .scn, .chn, .que, .host, .mil, .stp, .modes, .memx, .boot, .out] [.regs, .mem, .eng, .xrd, .scn, .chn, .que, .host, .mil, .stp, .modes, .memx, .boot, .out] = true := by decide
  have h := Keeps.refl [.regs, .mem, .eng, .xrd, .scn, .chn, .que, .host, .mil, .stp, .modes, .memx, .boot, .out] s
  unfold execCfgStart at e
  extract_lets -merge -underBinder x0 at e
  replace e := Host.Outcome.next.inj e
  subst e
  split
  · exact (State.refuse_keeps h (covers_trans (by decide) hm) _ _)
  · refine keeps_ite (P := fun z => Keeps [.regs, .mem, .eng, .xrd, .scn, .chn, .que, .host, .mil, .stp, .modes, .memx, .boot, .out] s z) ?_ ?_
    · refine keeps_ite (P := fun z => Keeps [.regs, .mem, .eng, .xrd, .scn, .chn, .que, .host, .mil, .stp, .modes, .memx, .boot, .out] s z) ?_ ?_
      · exact (State.refuse_keeps h (covers_trans (by decide) hm) _ _)
      · exact (State.startEngine_keeps h (covers_trans (by decide) hm) _ _ _ _)
    · refine keeps_ite (P := fun z => Keeps [.regs, .mem, .eng, .xrd, .scn, .chn, .que, .host, .mil, .stp, .modes, .memx, .boot, .out] s z) ?_ ?_
      · exact (State.refuse_keeps h (covers_trans (by decide) hm) _ _)
      · refine keeps_ite (P := fun z => Keeps [.regs, .mem, .eng, .xrd, .scn, .chn, .que, .host, .mil, .stp, .modes, .memx, .boot, .out] s z) ?_ ?_
        · exact (State.refuse_keeps h (covers_trans (by decide) hm) _ _)
        · refine keeps_ite (P := fun z => Keeps [.regs, .mem, .eng, .xrd, .scn, .chn, .que, .host, .mil, .stp, .modes, .memx, .boot, .out] s z) ?_ ?_
          · exact (State.refuse_keeps h (covers_trans (by decide) hm) _ _)
          · refine keeps_ite (P := fun z => Keeps [.regs, .mem, .eng, .xrd, .scn, .chn, .que, .host, .mil, .stp, .modes, .memx, .boot, .out] s z) ?_ ?_
            · exact (State.refuse_keeps h (covers_trans (by decide) hm) _ _)
            · extract_lets -merge -underBinder x1
              exact (State.modModes_keeps h (covers_trans (by decide) hm) _)

theorem execCfgList_keeps : ∀ a0 t, execCfgList a0 s = .next t →
    Keeps [.regs, .que, .host, .out] s t := by
  intro a0 t e
  have hm : covers [.regs, .que, .host, .out] [.regs, .que, .host, .out] = true := by decide
  have h := Keeps.refl [.regs, .que, .host, .out] s
  unfold execCfgList at e
  extract_lets -merge -underBinder x0 at e
  replace e := Host.Outcome.next.inj e
  subst e
  exact (State.reply_keeps h (covers_trans (by decide) hm) _ _ _)

theorem execUpdBegin_keeps : ∀ a0 a1 a2 t, execUpdBegin a0 a1 a2 s = .next t →
    Keeps [.regs, .mem, .que, .host, .boot, .out] s t := by
  intro a0 a1 a2 t e
  have hm : covers [.regs, .mem, .que, .host, .boot, .out] [.regs, .mem, .que, .host, .boot, .out] = true := by decide
  have h := Keeps.refl [.regs, .mem, .que, .host, .boot, .out] s
  unfold execUpdBegin at e
  extract_lets -merge -underBinder x0 x1 x2 at e
  replace e := Host.Outcome.next.inj e
  subst e
  split
  · exact (State.updRefuse_keeps h (covers_trans (by decide) hm) _ _)
  · refine keeps_ite (P := fun z => Keeps [.regs, .mem, .que, .host, .boot, .out] s z) ?_ ?_
    · exact (State.updRefuse_keeps h (covers_trans (by decide) hm) _ _)
    · refine keeps_ite (P := fun z => Keeps [.regs, .mem, .que, .host, .boot, .out] s z) ?_ ?_
      · exact (State.updRefuse_keeps h (covers_trans (by decide) hm) _ _)
      · refine keeps_ite (P := fun z => Keeps [.regs, .mem, .que, .host, .boot, .out] s z) ?_ ?_
        · exact (State.updOk_keeps (State.showProgress_keeps h (covers_trans (by decide) hm)) (covers_trans (by decide) hm) _ _)
        · refine keeps_ite (P := fun z => Keeps [.regs, .mem, .que, .host, .boot, .out] s z) ?_ ?_
          · exact (State.updRefuse_keeps h (covers_trans (by decide) hm) _ _)
          · refine keeps_ite (P := fun z => Keeps [.regs, .mem, .que, .host, .boot, .out] s z) ?_ ?_
            · exact (State.updFlash_keeps h (covers_trans (by decide) hm) _)
            · extract_lets -merge -underBinder x3 x4 x5
              have hx4 : Keeps [.regs, .mem, .que, .host, .boot, .out] s x4 := (State.putSlot_keeps h (covers_trans (by decide) hm) _ _)
              have hx5 : Keeps [.regs, .mem, .que, .host, .boot, .out] s x5 := (State.showProgress_keeps (State.flashErased_keeps (State.clearMem_keeps hx4 (covers_trans (by decide) hm) _ _) (covers_trans (by decide) hm) _) (covers_trans (by decide) hm))
              try clear_value x5
              try clear_value x4
              exact (State.updOk_keeps hx5 (covers_trans (by decide) hm) _ _)

theorem execUpdWrite_keeps : ∀ a0 a1 a2 a3 a4 t, execUpdWrite a0 a1 a2 a3 a4 s = .next t →
    Keeps [.regs, .mem, .que, .host, .out] s t := by
  intro a0 a1 a2 a3 a4 t e
  have hm : covers [.regs, .mem, .que, .host, .out] [.regs, .mem, .que, .host, .out] = true := by decide
  have h := Keeps.refl [.regs, .mem, .que, .host, .out] s
  unfold execUpdWrite at e
  extract_lets -merge -underBinder x0 x1 at e
  replace e := Host.Outcome.next.inj e
  subst e
  split
  · exact (State.updRefuse_keeps h (covers_trans (by decide) hm) _ _)
  · split
    · exact (State.updRefuse_keeps h (covers_trans (by decide) hm) _ _)
    · extract_lets -merge -underBinder x2 x3 x4 x5
      have hx4 : Keeps [.regs, .mem, .que, .host, .out] s x4 := (State.flashErased_keeps (State.copySpan_keeps h (covers_trans (by decide) hm) _ _ _) (covers_trans (by decide) hm) _)
      have hx5 : Keeps [.regs, .mem, .que, .host, .out] s x5 := (State.store_keeps (State.store_keeps hx4 (covers_trans (by decide) hm) _ _ _) (covers_trans (by decide) hm) _ _ _)
      try clear_value x5
      try clear_value x4
      refine keeps_ite (P := fun z => Keeps [.regs, .mem, .que, .host, .out] s z) ?_ ?_
      · exact (State.updOk_keeps h (covers_trans (by decide) hm) _ _)
      · refine keeps_ite (P := fun z => Keeps [.regs, .mem, .que, .host, .out] s z) ?_ ?_
        · exact (State.updRefuse_keeps h (covers_trans (by decide) hm) _ _)
        · refine keeps_ite (P := fun z => Keeps [.regs, .mem, .que, .host, .out] s z) ?_ ?_
          · exact (State.reply_keeps h (covers_trans (by decide) hm) _ _ _)
          · refine keeps_ite (P := fun z => Keeps [.regs, .mem, .que, .host, .out] s z) ?_ ?_
            · exact (State.updFlash_keeps h (covers_trans (by decide) hm) _)
            · exact (State.updOk_keeps (State.showProgress_keeps hx5 (covers_trans (by decide) hm)) (covers_trans (by decide) hm) _ _)

theorem execUpdVerify_keeps : ∀ a0 a1 t, execUpdVerify a0 a1 s = .next t →
    Keeps [.regs, .mem, .que, .host, .boot, .out] s t := by
  intro a0 a1 t e
  have hm : covers [.regs, .mem, .que, .host, .boot, .out] [.regs, .mem, .que, .host, .boot, .out] = true := by decide
  have h := Keeps.refl [.regs, .mem, .que, .host, .boot, .out] s
  unfold execUpdVerify at e
  extract_lets -merge -underBinder x0 at e
  replace e := Host.Outcome.next.inj e
  subst e
  split
  · exact (State.updRefuse_keeps h (covers_trans (by decide) hm) _ _)
  · split
    · exact (State.updRefuse_keeps h (covers_trans (by decide) hm) _ _)
    · extract_lets -merge -underBinder x1 x2 x3
      refine keeps_ite (P := fun z => Keeps [.regs, .mem, .que, .host, .boot, .out] s z) ?_ ?_
      · exact (State.updFlash_keeps h (covers_trans (by decide) hm) _)
      · refine keeps_ite (P := fun z => Keeps [.regs, .mem, .que, .host, .boot, .out] s z) ?_ ?_
        · exact (State.updRefuse_keeps (State.putSlot_keeps h (covers_trans (by decide) hm) _ _) (covers_trans (by decide) hm) _ _)
        · exact (State.updOk_keeps (State.raise_keeps (State.putSlot_keeps h (covers_trans (by decide) hm) _ _) (covers_trans (by decide) hm) _ _) (covers_trans (by decide) hm) _ _)

theorem execUpdActivate_keeps : ∀ a0 a1 a2 a3 t, execUpdActivate a0 a1 a2 a3 s = .next t →
    Keeps [.regs, .mem, .que, .host, .modes, .boot, .out] s t := by
  intro a0 a1 a2 a3 t e
  have hm : covers [.regs, .mem, .que, .host, .modes, .boot, .out] [.regs, .mem, .que, .host, .modes, .boot, .out] = true := by decide
  have h := Keeps.refl [.regs, .mem, .que, .host, .modes, .boot, .out] s
  unfold execUpdActivate at e
  extract_lets -merge -underBinder x0 x1 x2 x3 x4 x5 x6 x7 x8 at e
  have hx5 : Keeps [.regs, .mem, .que, .host, .modes, .boot, .out] s x5 := (State.modBoot_keeps (State.putSlot_keeps h (covers_trans (by decide) hm) _ _) (covers_trans (by decide) hm) _)
  have hx6 : Keeps [.regs, .mem, .que, .host, .modes, .boot, .out] s x6 := (State.putSlot_keeps h (covers_trans (by decide) hm) _ _)
  have hx8 : Keeps [.regs, .mem, .que, .host, .modes, .boot, .out] s x8 := by
    subst x8
    refine keeps_ite (P := fun z => Keeps [.regs, .mem, .que, .host, .modes, .boot, .out] s z) ?_ ?_
    · exact (State.modModes_keeps hx6 (covers_trans (by decide) hm) _)
    · exact hx6
  try clear_value x8
  try clear_value x6
  try clear_value x5
  replace e := Host.Outcome.next.inj e
  subst e
  refine keeps_ite (P := fun z => Keeps [.regs, .mem, .que, .host, .modes, .boot, .out] s z) ?_ ?_
  · exact (State.updRefuse_keeps h (covers_trans (by decide) hm) _ _)
  · refine keeps_ite (P := fun z => Keeps [.regs, .mem, .que, .host, .modes, .boot, .out] s z) ?_ ?_
    · exact (State.updRefuse_keeps h (covers_trans (by decide) hm) _ _)
    · refine keeps_ite (P := fun z => Keeps [.regs, .mem, .que, .host, .modes, .boot, .out] s z) ?_ ?_
      · exact (State.updRefuse_keeps h (covers_trans (by decide) hm) _ _)
      · refine keeps_ite (P := fun z => Keeps [.regs, .mem, .que, .host, .modes, .boot, .out] s z) ?_ ?_
        · refine keeps_ite (P := fun z => Keeps [.regs, .mem, .que, .host, .modes, .boot, .out] s z) ?_ ?_
          · exact (State.updFlash_keeps h (covers_trans (by decide) hm) _)
          · refine (State.updOk_keeps ?_ (covers_trans (by decide) hm) _ _)
            refine State.when_keeps hx5 _ _ fun _ h9 => ?_
            exact (State.markLate_keeps h9 (covers_trans (by decide) hm))
        · refine keeps_ite (P := fun z => Keeps [.regs, .mem, .que, .host, .modes, .boot, .out] s z) ?_ ?_
          · exact (State.updRefuse_keeps h (covers_trans (by decide) hm) _ _)
          · refine keeps_ite (P := fun z => Keeps [.regs, .mem, .que, .host, .modes, .boot, .out] s z) ?_ ?_
            · exact (State.updFlash_keeps h (covers_trans (by decide) hm) _)
            · exact (State.updOk_keeps hx8 (covers_trans (by decide) hm) _ _)

theorem execHandover_keeps : ∀ t, execHandover s = .next t →
    Keeps [.regs, .mem, .host, .boot, .flt, .out] s t := by
  intro t e
  have hm : covers [.regs, .mem, .host, .boot, .flt, .out] [.regs, .mem, .host, .boot, .flt, .out] = true := by decide
  have h := Keeps.refl [.regs, .mem, .host, .boot, .flt, .out] s
  unfold execHandover at e
  replace e := Host.Outcome.next.inj e
  subst e
  split
  · exact h
  · refine keeps_ite (P := fun z => Keeps [.regs, .mem, .host, .boot, .flt, .out] s z) ?_ ?_
    · exact h
    · extract_lets -merge -underBinder x0 x1 x2 x3
      refine keeps_ite (P := fun z => Keeps [.regs, .mem, .host, .boot, .flt, .out] s z) ?_ ?_
      · split
        · try dsimp -zeta only [x1]
          exact (State.checkSchema_keeps (State.wr_keeps (State.wr_keeps (State.wr_keeps (State.modBoot_keeps h (covers_trans (by decide) hm) _) (covers_trans (by decide) hm) _ _ _ _) (covers_trans (by decide) hm) _ _ _ _) (covers_trans (by decide) hm) _ _ _ _) (covers_trans (by decide) hm) _)
        · exact h
      · refine (State.raise_keeps ?_ (covers_trans (by decide) hm) _ _)
        try dsimp -zeta only [x1]
        exact (State.checkSchema_keeps (State.wr_keeps (State.wr_keeps (State.wr_keeps (State.modBoot_keeps h (covers_trans (by decide) hm) _) (covers_trans (by decide) hm) _ _ _ _) (covers_trans (by decide) hm) _ _ _ _) (covers_trans (by decide) hm) _ _ _ _) (covers_trans (by decide) hm) _)

theorem execUpdConfirm_keeps : ∀ a0 t, execUpdConfirm a0 s = .next t →
    Keeps [.regs, .que, .host, .boot, .out] s t := by
  intro a0 t e
  have hm : covers [.regs, .que, .host, .boot, .out] [.regs, .que, .host, .boot, .out] = true := by decide
  have h := Keeps.refl [.regs, .que, .host, .boot, .out] s
  unfold execUpdConfirm at e
  replace e := Host.Outcome.next.inj e
  subst e
  refine keeps_ite (P := fun z => Keeps [.regs, .que, .host, .boot, .out] s z) ?_ ?_
  · exact (State.updRefuse_keeps h (covers_trans (by decide) hm) _ _)
  · exact (State.updOk_keeps (State.modBoot_keeps h (covers_trans (by decide) hm) _) (covers_trans (by decide) hm) _ _)

theorem execUpdStatus_keeps : ∀ a0 t, execUpdStatus a0 s = .next t →
    Keeps [.regs, .que, .host, .out] s t := by
  intro a0 t e
  have hm : covers [.regs, .que, .host, .out] [.regs, .que, .host, .out] = true := by decide
  have h := Keeps.refl [.regs, .que, .host, .out] s
  unfold execUpdStatus at e
  replace e := Host.Outcome.next.inj e
  subst e
  exact (State.updOk_keeps h (covers_trans (by decide) hm) _ _)

/-- A fuse blow keeps what its success keeps, outside the status and the fault log. -/
theorem State.fuseBlow_keeps (h : Keeps m s0 s) (hm : covers m [.regs, .mem, .scn, .chn, .host, .nbr, .flt, .out] = true) :
    ∀ ok (done : State → State), (∀ t, Keeps m s0 t → Keeps m s0 (done t)) → Keeps m s0 (s.fuseBlow ok done) := by
  intro ok done hd
  unfold State.fuseBlow
  refine keeps_ite (P := fun z => Keeps m s0 z) ?_ ?_
  · exact hd _ (State.wr_keeps h (covers_trans (by decide) hm) _ _ _ _)
  · exact State.raiseFault_keeps (State.wr_keeps h (covers_trans (by decide) hm) _ _ _ _) (covers_trans (by decide) hm) _ _ _

theorem State.confirmImage_keeps (h : Keeps m s0 s) (hm : covers m [.regs, .mem, .scn, .chn, .host, .nbr, .boot, .flt, .out] = true) : ∀ a1 a2 a3, Keeps m s0 (State.confirmImage s a1 a2 a3) := by
  intro a1 a2 a3
  unfold State.confirmImage
  extract_lets -merge -underBinder x0 x1 x2 x3 x4 x5 x6 x7 x8 x9 x10 x11
  have hx4 : Keeps m s0 x4 := (State.modBoot_keeps h (covers_trans (by decide) hm) _)
  have hx6 : Keeps m s0 x6 := (State.putSlot_keeps hx4 (covers_trans (by decide) hm) _ _)
  have hx7 : Keeps m s0 x7 := by
    subst x7
    refine keeps_ite (P := fun z => Keeps m s0 z) ?_ ?_
    · try unfold State.fuseBlow
      refine keeps_ite (P := fun z => Keeps m s0 z) ?_ ?_
      · exact (State.wr_keeps (State.wr_keeps hx6 (covers_trans (by decide) hm) _ _ _ _) (covers_trans (by decide) hm) _ _ _ _)
      · exact (State.raiseFault_keeps (State.wr_keeps hx6 (covers_trans (by decide) hm) _ _ _ _) (covers_trans (by decide) hm) _ _ _)
    · exact hx6
  have hx10 : Keeps m s0 x10 := by
    subst x10
    refine keeps_ite (P := fun z => Keeps m s0 z) ?_ ?_
    · exact (State.rollFw_keeps hx7 (covers_trans (by decide) hm) _ _ _)
    · exact hx7
  have hx11 : Keeps m s0 x11 := by
    subst x11
    refine keeps_ite (P := fun z => Keeps m s0 z) ?_ ?_
    · exact hx10
    · try unfold State.fuseBlow
      refine keeps_ite (P := fun z => Keeps m s0 z) ?_ ?_
      · exact (State.wr_keeps (State.wr_keeps hx10 (covers_trans (by decide) hm) _ _ _ _) (covers_trans (by decide) hm) _ _ _ _)
      · exact (State.raiseFault_keeps (State.wr_keeps hx10 (covers_trans (by decide) hm) _ _ _ _) (covers_trans (by decide) hm) _ _ _)
  try clear_value x11
  try clear_value x10
  try clear_value x7
  try clear_value x6
  try clear_value x4
  exact (State.raise_keeps (State.modBoot_keeps hx11 (covers_trans (by decide) hm) _) (covers_trans (by decide) hm) _ _)

theorem execImageConfirm_keeps : ∀ a0 t, execImageConfirm a0 s = .next t →
    Keeps [.regs, .mem, .scn, .chn, .host, .nbr, .boot, .flt, .out] s t := by
  intro a0 t e
  have hm : covers [.regs, .mem, .scn, .chn, .host, .nbr, .boot, .flt, .out] [.regs, .mem, .scn, .chn, .host, .nbr, .boot, .flt, .out] = true := by decide
  have h := Keeps.refl [.regs, .mem, .scn, .chn, .host, .nbr, .boot, .flt, .out] s
  unfold execImageConfirm at e
  replace e := Host.Outcome.next.inj e
  subst e
  split
  · refine keeps_ite (P := fun z => Keeps [.regs, .mem, .scn, .chn, .host, .nbr, .boot, .flt, .out] s z) ?_ ?_
    · exact (State.confirmImage_keeps h (covers_trans (by decide) hm) _ _ _)
    · exact h
  · exact h

theorem execConfirmExpiry_keeps : ∀ t, execConfirmExpiry s = .next t →
    Keeps [.regs, .live, .pend, .mem, .eng, .xrd, .scn, .chn, .fab, .dma, .que, .host, .mil, .net, .ports, .stp, .nbr, .modes, .memx, .boot, .flt, .out] s t := by
  intro t e
  have hm : covers [.regs, .live, .pend, .mem, .eng, .xrd, .scn, .chn, .fab, .dma, .que, .host, .mil, .net, .ports, .stp, .nbr, .modes, .memx, .boot, .flt, .out] [.regs, .live, .pend, .mem, .eng, .xrd, .scn, .chn, .fab, .dma, .que, .host, .mil, .net, .ports, .stp, .nbr, .modes, .memx, .boot, .flt, .out] = true := by decide
  have h := Keeps.refl [.regs, .live, .pend, .mem, .eng, .xrd, .scn, .chn, .fab, .dma, .que, .host, .mil, .net, .ports, .stp, .nbr, .modes, .memx, .boot, .flt, .out] s
  unfold execConfirmExpiry at e
  replace e := Host.Outcome.next.inj e
  subst e
  split
  · exact h
  · refine keeps_ite (P := fun z => Keeps [.regs, .live, .pend, .mem, .eng, .xrd, .scn, .chn, .fab, .dma, .que, .host, .mil, .net, .ports, .stp, .nbr, .modes, .memx, .boot, .flt, .out] s z) ?_ ?_
    · exact h
    · refine keeps_ite (P := fun z => Keeps [.regs, .live, .pend, .mem, .eng, .xrd, .scn, .chn, .fab, .dma, .que, .host, .mil, .net, .ports, .stp, .nbr, .modes, .memx, .boot, .flt, .out] s z) ?_ ?_
      · extract_lets -merge -underBinder x0
        exact (State.modBoot_keeps (State.rejectTrial_keeps h (covers_trans (by decide) hm) _) (covers_trans (by decide) hm) _)
      · exact (State.warmReset_keeps (State.modBoot_keeps h (covers_trans (by decide) hm) _) (covers_trans (by decide) hm) _)

theorem execReverseHandoverTimeout_keeps : ∀ t, execReverseHandoverTimeout s = .next t →
    Keeps [.regs, .live, .pend, .mem, .eng, .xrd, .scn, .chn, .fab, .dma, .que, .host, .mil, .net, .ports, .stp, .nbr, .modes, .memx, .boot, .flt, .out] s t := by
  intro t e
  have hm : covers [.regs, .live, .pend, .mem, .eng, .xrd, .scn, .chn, .fab, .dma, .que, .host, .mil, .net, .ports, .stp, .nbr, .modes, .memx, .boot, .flt, .out] [.regs, .live, .pend, .mem, .eng, .xrd, .scn, .chn, .fab, .dma, .que, .host, .mil, .net, .ports, .stp, .nbr, .modes, .memx, .boot, .flt, .out] = true := by decide
  have h := Keeps.refl [.regs, .live, .pend, .mem, .eng, .xrd, .scn, .chn, .fab, .dma, .que, .host, .mil, .net, .ports, .stp, .nbr, .modes, .memx, .boot, .flt, .out] s
  unfold execReverseHandoverTimeout at e
  replace e := Host.Outcome.next.inj e
  subst e
  refine keeps_ite (P := fun z => Keeps [.regs, .live, .pend, .mem, .eng, .xrd, .scn, .chn, .fab, .dma, .que, .host, .mil, .net, .ports, .stp, .nbr, .modes, .memx, .boot, .flt, .out] s z) ?_ ?_
  · exact (State.warmReset_keeps (State.modBoot_keeps h (covers_trans (by decide) hm) _) (covers_trans (by decide) hm) _)
  · exact h

theorem State.answerSettings_keeps (h : Keeps m s0 s) (hm : covers m [.regs, .mem, .que, .host, .boot, .out] = true) : ∀ a1 a2 a3, Keeps m s0 (State.answerSettings s a1 a2 a3) := by
  intro a1 a2 a3
  unfold State.answerSettings
  refine keeps_ite (P := fun z => Keeps m s0 z) ?_ ?_
  · exact (State.refuse_keeps h (covers_trans (by decide) hm) _ _)
  · refine keeps_ite (P := fun z => Keeps m s0 z) ?_ ?_
    · exact (State.refuse_keeps (State.flashFailed_keeps h (covers_trans (by decide) hm)) (covers_trans (by decide) hm) _ _)
    · exact (State.reply_keeps (State.saveSettings_keeps h (covers_trans (by decide) hm) _) (covers_trans (by decide) hm) _ _ _)

theorem execSetSave_keeps : ∀ a0 a1 a2 a3 a4 t, execSetSave a0 a1 a2 a3 a4 s = .next t →
    Keeps [.regs, .mem, .que, .host, .boot, .out] s t := by
  intro a0 a1 a2 a3 a4 t e
  have hm : covers [.regs, .mem, .que, .host, .boot, .out] [.regs, .mem, .que, .host, .boot, .out] = true := by decide
  have h := Keeps.refl [.regs, .mem, .que, .host, .boot, .out] s
  unfold execSetSave at e
  extract_lets -merge -underBinder x0 at e
  replace e := Host.Outcome.next.inj e
  subst e
  refine keeps_ite (P := fun z => Keeps [.regs, .mem, .que, .host, .boot, .out] s z) ?_ ?_
  · exact (State.refuse_keeps h (covers_trans (by decide) hm) _ _)
  · refine keeps_ite (P := fun z => Keeps [.regs, .mem, .que, .host, .boot, .out] s z) ?_ ?_
    · exact (State.reply_keeps h (covers_trans (by decide) hm) _ _ _)
    · exact (State.answerSettings_keeps h (covers_trans (by decide) hm) _ _ _)

theorem execSetDefaults_keeps : ∀ a0 a1 t, execSetDefaults a0 a1 s = .next t →
    Keeps [.regs, .mem, .que, .host, .boot, .out] s t := by
  intro a0 a1 t e
  have hm : covers [.regs, .mem, .que, .host, .boot, .out] [.regs, .mem, .que, .host, .boot, .out] = true := by decide
  have h := Keeps.refl [.regs, .mem, .que, .host, .boot, .out] s
  unfold execSetDefaults at e
  replace e := Host.Outcome.next.inj e
  subst e
  exact (State.answerSettings_keeps h (covers_trans (by decide) hm) _ _ _)

theorem execLcAdvance_keeps : ∀ a0 a1 a2 a3 a4 t, execLcAdvance a0 a1 a2 a3 a4 s = .next t →
    Keeps [.regs, .mem, .scn, .chn, .que, .host, .nbr, .memx, .flt, .out] s t := by
  intro a0 a1 a2 a3 a4 t e
  have hm : covers [.regs, .mem, .scn, .chn, .que, .host, .nbr, .memx, .flt, .out] [.regs, .mem, .scn, .chn, .que, .host, .nbr, .memx, .flt, .out] = true := by decide
  have h := Keeps.refl [.regs, .mem, .scn, .chn, .que, .host, .nbr, .memx, .flt, .out] s
  unfold execLcAdvance at e
  extract_lets -merge -underBinder x0 x1 x2 x3 at e
  have hx3 : Keeps [.regs, .mem, .scn, .chn, .que, .host, .nbr, .memx, .flt, .out] s x3 := by
    subst x3
    refine State.fuseBlow_keeps h (covers_trans (by decide) hm) _ _ fun _ h4 => ?_
    extract_lets -merge -underBinder x5
    have hx5 : Keeps [.regs, .mem, .scn, .chn, .que, .host, .nbr, .memx, .flt, .out] s x5 := (State.wr_keeps (State.wr_keeps h4 (covers_trans (by decide) hm) _ _ _ _) (covers_trans (by decide) hm) _ _ _ _)
    try clear_value x5
    refine keeps_ite (P := fun z => Keeps [.regs, .mem, .scn, .chn, .que, .host, .nbr, .memx, .flt, .out] s z) ?_ ?_
    · exact hx5
    · exact (State.wr_keeps (State.wr_keeps hx5 (covers_trans (by decide) hm) _ _ _ _) (covers_trans (by decide) hm) _ _ _ _)
  try clear_value x3
  replace e := Host.Outcome.next.inj e
  subst e
  refine keeps_ite (P := fun z => Keeps [.regs, .mem, .scn, .chn, .que, .host, .nbr, .memx, .flt, .out] s z) ?_ ?_
  · exact (State.reply_keeps h (covers_trans (by decide) hm) _ _ _)
  · refine keeps_ite (P := fun z => Keeps [.regs, .mem, .scn, .chn, .que, .host, .nbr, .memx, .flt, .out] s z) ?_ ?_
    · exact (State.reply_keeps h (covers_trans (by decide) hm) _ _ _)
    · refine keeps_ite (P := fun z => Keeps [.regs, .mem, .scn, .chn, .que, .host, .nbr, .memx, .flt, .out] s z) ?_ ?_
      · exact (State.refuse_keeps h (covers_trans (by decide) hm) _ _)
      · exact (State.reply_keeps (State.startWipe_keeps hx3 (covers_trans (by decide) hm) _) (covers_trans (by decide) hm) _ _ _)

theorem execProvKey_keeps : ∀ a0 t, execProvKey a0 s = .next t →
    Keeps [.regs, .mem, .que, .host, .boot, .out, .free] s t := by
  intro a0 t e
  have hm : covers [.regs, .mem, .que, .host, .boot, .out, .free] [.regs, .mem, .que, .host, .boot, .out, .free] = true := by decide
  have h := Keeps.refl [.regs, .mem, .que, .host, .boot, .out, .free] s
  unfold execProvKey at e
  extract_lets -merge -underBinder x0 x1 x2 x3 x4 x5 at e
  have hx4 : Keeps [.regs, .mem, .que, .host, .boot, .out, .free] s x4 := (State.setBytes_keeps (State.useFree_keeps h (covers_trans (by decide) hm) _) (covers_trans (by decide) hm) _ _)
  try clear_value x4
  replace e := Host.Outcome.next.inj e
  subst e
  refine keeps_ite (P := fun z => Keeps [.regs, .mem, .que, .host, .boot, .out, .free] s z) ?_ ?_
  · exact (State.reply_keeps h (covers_trans (by decide) hm) _ _ _)
  · refine keeps_ite (P := fun z => Keeps [.regs, .mem, .que, .host, .boot, .out, .free] s z) ?_ ?_
    · exact (State.refuse_keeps h (covers_trans (by decide) hm) _ _)
    · refine keeps_ite (P := fun z => Keeps [.regs, .mem, .que, .host, .boot, .out, .free] s z) ?_ ?_
      · exact (State.reply_keeps h (covers_trans (by decide) hm) _ _ _)
      · exact (State.reply_keeps (State.modBoot_keeps hx4 (covers_trans (by decide) hm) _) (covers_trans (by decide) hm) _ _ _)

theorem execProvCert_keeps : ∀ a0 a1 a2 a3 t, execProvCert a0 a1 a2 a3 s = .next t →
    Keeps [.regs, .mem, .que, .host, .out] s t := by
  intro a0 a1 a2 a3 t e
  have hm : covers [.regs, .mem, .que, .host, .out] [.regs, .mem, .que, .host, .out] = true := by decide
  have h := Keeps.refl [.regs, .mem, .que, .host, .out] s
  unfold execProvCert at e
  extract_lets -merge -underBinder x0 at e
  replace e := Host.Outcome.next.inj e
  subst e
  refine keeps_ite (P := fun z => Keeps [.regs, .mem, .que, .host, .out] s z) ?_ ?_
  · exact (State.refuse_keeps h (covers_trans (by decide) hm) _ _)
  · refine keeps_ite (P := fun z => Keeps [.regs, .mem, .que, .host, .out] s z) ?_ ?_
    · exact (State.reply_keeps h (covers_trans (by decide) hm) _ _ _)
    · refine keeps_ite (P := fun z => Keeps [.regs, .mem, .que, .host, .out] s z) ?_ ?_
      · exact (State.reply_keeps h (covers_trans (by decide) hm) _ _ _)
      · exact (State.reply_keeps (State.setBytes_keeps (State.clearMem_keeps h (covers_trans (by decide) hm) _ _) (covers_trans (by decide) hm) _ _) (covers_trans (by decide) hm) _ _ _)

theorem execUnitSign_keeps : ∀ a0 a1 a2 t, execUnitSign a0 a1 a2 s = .next t →
    Keeps [.regs, .que, .host, .out, .free] s t := by
  intro a0 a1 a2 t e
  have hm : covers [.regs, .que, .host, .out, .free] [.regs, .que, .host, .out, .free] = true := by decide
  have h := Keeps.refl [.regs, .que, .host, .out, .free] s
  unfold execUnitSign at e
  replace e := Host.Outcome.next.inj e
  subst e
  refine keeps_ite (P := fun z => Keeps [.regs, .que, .host, .out, .free] s z) ?_ ?_
  · exact (State.refuse_keeps h (covers_trans (by decide) hm) _ _)
  · refine keeps_ite (P := fun z => Keeps [.regs, .que, .host, .out, .free] s z) ?_ ?_
    · exact (State.reply_keeps h (covers_trans (by decide) hm) _ _ _)
    · extract_lets -merge -underBinder x0
      exact (State.reply_keeps (State.useFree_keeps h (covers_trans (by decide) hm) _) (covers_trans (by decide) hm) _ _ _)

theorem execLicWrite_keeps : ∀ a0 a1 a2 a3 a4 t, execLicWrite a0 a1 a2 a3 a4 s = .next t →
    Keeps [.regs, .mem, .que, .host, .out] s t := by
  intro a0 a1 a2 a3 a4 t e
  have hm : covers [.regs, .mem, .que, .host, .out] [.regs, .mem, .que, .host, .out] = true := by decide
  have h := Keeps.refl [.regs, .mem, .que, .host, .out] s
  unfold execLicWrite at e
  extract_lets -merge -underBinder x0 at e
  replace e := Host.Outcome.next.inj e
  subst e
  refine keeps_ite (P := fun z => Keeps [.regs, .mem, .que, .host, .out] s z) ?_ ?_
  · exact (State.refuse_keeps h (covers_trans (by decide) hm) _ _)
  · refine keeps_ite (P := fun z => Keeps [.regs, .mem, .que, .host, .out] s z) ?_ ?_
    · exact (State.reply_keeps h (covers_trans (by decide) hm) _ _ _)
    · refine keeps_ite (P := fun z => Keeps [.regs, .mem, .que, .host, .out] s z) ?_ ?_
      · exact (State.reply_keeps h (covers_trans (by decide) hm) _ _ _)
      · exact (State.reply_keeps (State.setBytes_keeps h (covers_trans (by decide) hm) _ _) (covers_trans (by decide) hm) _ _ _)

theorem execLicRead_keeps : ∀ a0 a1 a2 a3 a4 t, execLicRead a0 a1 a2 a3 a4 s = .next t →
    Keeps [.regs, .mem, .scn, .que, .host, .nbr, .memx, .out] s t := by
  intro a0 a1 a2 a3 a4 t e
  have hm : covers [.regs, .mem, .scn, .que, .host, .nbr, .memx, .out] [.regs, .mem, .scn, .que, .host, .nbr, .memx, .out] = true := by decide
  have h := Keeps.refl [.regs, .mem, .scn, .que, .host, .nbr, .memx, .out] s
  unfold execLicRead at e
  extract_lets -merge -underBinder x0 at e
  replace e := Host.Outcome.next.inj e
  subst e
  refine keeps_ite (P := fun z => Keeps [.regs, .mem, .scn, .que, .host, .nbr, .memx, .out] s z) ?_ ?_
  · exact (State.refuse_keeps h (covers_trans (by decide) hm) _ _)
  · refine keeps_ite (P := fun z => Keeps [.regs, .mem, .scn, .que, .host, .nbr, .memx, .out] s z) ?_ ?_
    · exact (State.reply_keeps h (covers_trans (by decide) hm) _ _ _)
    · refine keeps_ite (P := fun z => Keeps [.regs, .mem, .scn, .que, .host, .nbr, .memx, .out] s z) ?_ ?_
      · exact (State.reply_keeps h (covers_trans (by decide) hm) _ _ _)
      · exact (State.reply_keeps (State.granaryStore_keeps h (covers_trans (by decide) hm) _ _) (covers_trans (by decide) hm) _ _ _)

end Sys2Proof.Machine
end

