-- ==== Sys2Proof/Laws/KeepsPower.lean ====
section
/-! SUPPORT. What each function of Machine/Power.lean keeps: the parts of the state it can change, the canonical form of the stores,
the order of free values and outputs. One lemma per function, assembled from those of the functions it calls. -/
namespace Sys2Proof.Machine

variable {m : List Part} {s0 s : State}

theorem execDomainSwitchDone_keeps : ∀ t, execDomainSwitchDone s = .next t →
    Keeps [.regs, .pend, .host, .out] s t := by
  intro t e
  have hm : covers [.regs, .pend, .host, .out] [.regs, .pend, .host, .out] = true := by decide
  have h := Keeps.refl [.regs, .pend, .host, .out] s
  unfold execDomainSwitchDone at e
  replace e := Host.Outcome.next.inj e
  subst e
  refine keeps_ite (P := fun z => Keeps [.regs, .pend, .host, .out] s z) ?_ ?_
  · exact h
  · extract_lets -merge -underBinder x0 x1 x2 x3
    have hx3 : Keeps [.regs, .pend, .host, .out] s x3 := by
      subst x3
      refine State.when_keeps (State.wr_keeps (State.wr_keeps h (covers_trans (by decide) hm) _ _ _ _) (covers_trans (by decide) hm) _ _ _ _) _ _ fun _ h4 => ?_
      exact (State.wr_keeps h4 (covers_trans (by decide) hm) _ _ _ _)
    try clear_value x3
    exact (State.raise_keeps (State.endPend_keeps hx3 (covers_trans (by decide) hm) _ _) (covers_trans (by decide) hm) _ _)

theorem State.pcieLink_keeps (h : Keeps m s0 s) (hm : covers m [.regs, .fab, .host, .out] = true) : ∀ a1 a2 a3, Keeps m s0 (State.pcieLink s a1 a2 a3) := by
  intro a1 a2 a3
  unfold State.pcieLink
  refine keeps_ite (P := fun z => Keeps m s0 z) ?_ ?_
  · exact h
  · extract_lets -merge -underBinder x0 x1
    have hx0 : Keeps m s0 x0 := by
      subst x0
      refine keeps_ite (P := fun z => Keeps m s0 z) ?_ ?_
      · exact (State.wr_keeps (State.wr_keeps (State.wr_keeps h (covers_trans (by decide) hm) _ _ _ _) (covers_trans (by decide) hm) _ _ _ _) (covers_trans (by decide) hm) _ _ _ _)
      · exact (State.setReg_keeps h (covers_trans (by decide) hm) _ _)
    have hx1 : Keeps m s0 x1 := (State.raise_keeps hx0 (covers_trans (by decide) hm) _ _)
    try clear_value x1
    try clear_value x0
    refine keeps_ite (P := fun z => Keeps m s0 z) ?_ ?_
    · exact (State.modHost_keeps (State.wr_keeps hx1 (covers_trans (by decide) hm) _ _ _ _) (covers_trans (by decide) hm) _)
    · exact (State.masterReset_keeps hx1 (covers_trans (by decide) hm) _)

theorem execPllLoss_keeps : ∀ a0 t, execPllLoss a0 s = .next t →
    Keeps [.regs, .live, .pend, .mem, .eng, .xrd, .scn, .chn, .fab, .dma, .que, .host, .mil, .net, .ports, .stp, .nbr, .modes, .memx, .boot, .flt, .out] s t := by
  intro a0 t e
  have hm : covers [.regs, .live, .pend, .mem, .eng, .xrd, .scn, .chn, .fab, .dma, .que, .host, .mil, .net, .ports, .stp, .nbr, .modes, .memx, .boot, .flt, .out] [.regs, .live, .pend, .mem, .eng, .xrd, .scn, .chn, .fab, .dma, .que, .host, .mil, .net, .ports, .stp, .nbr, .modes, .memx, .boot, .flt, .out] = true := by decide
  have h := Keeps.refl [.regs, .live, .pend, .mem, .eng, .xrd, .scn, .chn, .fab, .dma, .que, .host, .mil, .net, .ports, .stp, .nbr, .modes, .memx, .boot, .flt, .out] s
  unfold execPllLoss at e
  replace e := Host.Outcome.next.inj e
  subst e
  refine keeps_ite (P := fun z => Keeps [.regs, .live, .pend, .mem, .eng, .xrd, .scn, .chn, .fab, .dma, .que, .host, .mil, .net, .ports, .stp, .nbr, .modes, .memx, .boot, .flt, .out] s z) ?_ ?_
  · exact h
  · extract_lets -merge -underBinder x0
    refine keeps_ite (P := fun z => Keeps [.regs, .live, .pend, .mem, .eng, .xrd, .scn, .chn, .fab, .dma, .que, .host, .mil, .net, .ports, .stp, .nbr, .modes, .memx, .boot, .flt, .out] s z) ?_ ?_
    · refine keeps_ite (P := fun z => Keeps [.regs, .live, .pend, .mem, .eng, .xrd, .scn, .chn, .fab, .dma, .que, .host, .mil, .net, .ports, .stp, .nbr, .modes, .memx, .boot, .flt, .out] s z) ?_ ?_
      · exact (State.wr_keeps h (covers_trans (by decide) hm) _ _ _ _)
      · exact (State.showFaultN_keeps (State.modBoot_keeps (State.wr_keeps (State.warmClear_keeps h (covers_trans (by decide) hm) _) (covers_trans (by decide) hm) _ _ _ _) (covers_trans (by decide) hm) _) (covers_trans (by decide) hm))
    · refine keeps_ite (P := fun z => Keeps [.regs, .live, .pend, .mem, .eng, .xrd, .scn, .chn, .fab, .dma, .que, .host, .mil, .net, .ports, .stp, .nbr, .modes, .memx, .boot, .flt, .out] s z) ?_ ?_
      · exact (State.pcieLink_keeps (State.raise_keeps (State.wr_keeps h (covers_trans (by decide) hm) _ _ _ _) (covers_trans (by decide) hm) _ _) (covers_trans (by decide) hm) _ _ _)
      · exact (State.wr_keeps h (covers_trans (by decide) hm) _ _ _ _)

theorem execPllRelock_keeps : ∀ a0 t, execPllRelock a0 s = .next t →
    Keeps [.regs, .live, .pend, .mem, .eng, .xrd, .scn, .chn, .que, .host, .mil, .net, .ports, .stp, .nbr, .modes, .memx, .boot, .flt, .out] s t := by
  intro a0 t e
  have hm : covers [.regs, .live, .pend, .mem, .eng, .xrd, .scn, .chn, .que, .host, .mil, .net, .ports, .stp, .nbr, .modes, .memx, .boot, .flt, .out] [.regs, .live, .pend, .mem, .eng, .xrd, .scn, .chn, .que, .host, .mil, .net, .ports, .stp, .nbr, .modes, .memx, .boot, .flt, .out] = true := by decide
  have h := Keeps.refl [.regs, .live, .pend, .mem, .eng, .xrd, .scn, .chn, .que, .host, .mil, .net, .ports, .stp, .nbr, .modes, .memx, .boot, .flt, .out] s
  unfold execPllRelock at e
  replace e := Host.Outcome.next.inj e
  subst e
  refine keeps_ite (P := fun z => Keeps [.regs, .live, .pend, .mem, .eng, .xrd, .scn, .chn, .que, .host, .mil, .net, .ports, .stp, .nbr, .modes, .memx, .boot, .flt, .out] s z) ?_ ?_
  · exact h
  · extract_lets -merge -underBinder x0
    have hx0 : Keeps [.regs, .live, .pend, .mem, .eng, .xrd, .scn, .chn, .que, .host, .mil, .net, .ports, .stp, .nbr, .modes, .memx, .boot, .flt, .out] s x0 := (State.wr_keeps h (covers_trans (by decide) hm) _ _ _ _)
    try clear_value x0
    refine keeps_ite (P := fun z => Keeps [.regs, .live, .pend, .mem, .eng, .xrd, .scn, .chn, .que, .host, .mil, .net, .ports, .stp, .nbr, .modes, .memx, .boot, .flt, .out] s z) ?_ ?_
    · exact (State.startFrom2_keeps (State.modBoot_keeps hx0 (covers_trans (by decide) hm) _) (covers_trans (by decide) hm))
    · exact hx0

theorem State.vcxoReturns_keeps (h : Keeps m s0 s) (hm : covers m [.regs, .host, .stp, .out] = true) : Keeps m s0 (State.vcxoReturns s) := by
  unfold State.vcxoReturns
  refine keeps_ite (P := fun z => Keeps m s0 z) ?_ ?_
  · exact (State.modStp_keeps (State.raise_keeps (State.wr_keeps h (covers_trans (by decide) hm) _ _ _ _) (covers_trans (by decide) hm) _ _) (covers_trans (by decide) hm) _)
  · exact h

theorem execVcxoCheck_keeps : ∀ a0 t, execVcxoCheck a0 s = .next t →
    Keeps [.regs, .mem, .host, .stp, .flt, .out] s t := by
  intro a0 t e
  have hm : covers [.regs, .mem, .host, .stp, .flt, .out] [.regs, .mem, .host, .stp, .flt, .out] = true := by decide
  have h := Keeps.refl [.regs, .mem, .host, .stp, .flt, .out] s
  unfold execVcxoCheck at e
  extract_lets -merge -underBinder x0 x1 x2 x3 x4 at e
  have hx2 : Keeps [.regs, .mem, .host, .stp, .flt, .out] s x2 := (State.wr_keeps h (covers_trans (by decide) hm) _ _ _ _)
  have hx3 : Keeps [.regs, .mem, .host, .stp, .flt, .out] s x3 := (State.modStp_keeps hx2 (covers_trans (by decide) hm) _)
  have hx4 : Keeps [.regs, .mem, .host, .stp, .flt, .out] s x4 := (State.modStp_keeps (State.wr_keeps h (covers_trans (by decide) hm) _ _ _ _) (covers_trans (by decide) hm) _)
  try clear_value x4
  try clear_value x3
  try clear_value x2
  replace e := Host.Outcome.next.inj e
  subst e
  refine keeps_ite (P := fun z => Keeps [.regs, .mem, .host, .stp, .flt, .out] s z) ?_ ?_
  · refine keeps_ite (P := fun z => Keeps [.regs, .mem, .host, .stp, .flt, .out] s z) ?_ ?_
    · refine keeps_ite (P := fun z => Keeps [.regs, .mem, .host, .stp, .flt, .out] s z) ?_ ?_
      · exact hx3
      · exact (State.vcxoReturns_keeps hx3 (covers_trans (by decide) hm))
    · exact hx2
  · refine keeps_ite (P := fun z => Keeps [.regs, .mem, .host, .stp, .flt, .out] s z) ?_ ?_
    · exact hx4
    · exact (State.rollHw_keeps (State.raise_keeps (State.wr_keeps hx4 (covers_trans (by decide) hm) _ _ _ _) (covers_trans (by decide) hm) _ _) (covers_trans (by decide) hm) _ _ _ _)

theorem State.carterReset_keeps (h : Keeps m s0 s) (hm : covers m [.regs, .fab, .host, .out] = true) : ∀ a1, Keeps m s0 (State.carterReset s a1) := by
  intro a1
  unfold State.carterReset
  exact (State.masterReset_keeps (State.bump_keeps h (covers_trans (by decide) hm) _ _ _ _) (covers_trans (by decide) hm) _)

theorem State.rstCtrl_keeps (h : Keeps m s0 s) (hm : covers m [.regs, .live, .pend, .mem, .eng, .xrd, .scn, .chn, .fab, .dma, .que, .host, .mil, .net, .ports, .stp, .nbr, .modes, .memx, .boot, .flt, .out] = true) : ∀ a1 a2, Keeps m s0 (State.rstCtrl s a1 a2) := by
  intro a1 a2
  unfold State.rstCtrl
  extract_lets -merge -underBinder x0
  refine keeps_ite (P := fun z => Keeps m s0 z) ?_ ?_
  · exact (State.captureErr_keeps h (covers_trans (by decide) hm) _ _ _ _ _)
  · refine keeps_ite (P := fun z => Keeps m s0 z) ?_ ?_
    · exact (State.warmReset_keeps h (covers_trans (by decide) hm) _)
    · refine State.when_keeps ?_ _ _ fun _ h2 => ?_
      · refine State.when_keeps h _ _ fun _ h1 => ?_
        exact (State.carterReset_keeps h1 (covers_trans (by decide) hm) _)
      · exact (State.carterReset_keeps h2 (covers_trans (by decide) hm) _)

theorem execChipResetWrite_keeps : ∀ a0 a1 t, execChipResetWrite a0 a1 s = .next t →
    Keeps [.regs, .live, .pend, .mem, .eng, .xrd, .scn, .chn, .fab, .dma, .que, .host, .mil, .net, .ports, .stp, .nbr, .modes, .memx, .boot, .flt, .out] s t := by
  intro a0 a1 t e
  have hm : covers [.regs, .live, .pend, .mem, .eng, .xrd, .scn, .chn, .fab, .dma, .que, .host, .mil, .net, .ports, .stp, .nbr, .modes, .memx, .boot, .flt, .out] [.regs, .live, .pend, .mem, .eng, .xrd, .scn, .chn, .fab, .dma, .que, .host, .mil, .net, .ports, .stp, .nbr, .modes, .memx, .boot, .flt, .out] = true := by decide
  have h := Keeps.refl [.regs, .live, .pend, .mem, .eng, .xrd, .scn, .chn, .fab, .dma, .que, .host, .mil, .net, .ports, .stp, .nbr, .modes, .memx, .boot, .flt, .out] s
  unfold execChipResetWrite at e
  replace e := Host.Outcome.next.inj e
  subst e
  refine keeps_ite (P := fun z => Keeps [.regs, .live, .pend, .mem, .eng, .xrd, .scn, .chn, .fab, .dma, .que, .host, .mil, .net, .ports, .stp, .nbr, .modes, .memx, .boot, .flt, .out] s z) ?_ ?_
  · exact h
  · exact (State.rstCtrl_keeps h (covers_trans (by decide) hm) _ _)

theorem execCarterReset_keeps : ∀ a0 a1 t, execCarterReset a0 a1 s = .next t →
    Keeps [.regs, .live, .pend, .mem, .eng, .xrd, .scn, .chn, .fab, .dma, .que, .host, .mil, .net, .ports, .stp, .nbr, .modes, .memx, .boot, .flt, .out] s t := by
  intro a0 a1 t e
  have hm : covers [.regs, .live, .pend, .mem, .eng, .xrd, .scn, .chn, .fab, .dma, .que, .host, .mil, .net, .ports, .stp, .nbr, .modes, .memx, .boot, .flt, .out] [.regs, .live, .pend, .mem, .eng, .xrd, .scn, .chn, .fab, .dma, .que, .host, .mil, .net, .ports, .stp, .nbr, .modes, .memx, .boot, .flt, .out] = true := by decide
  have h := Keeps.refl [.regs, .live, .pend, .mem, .eng, .xrd, .scn, .chn, .fab, .dma, .que, .host, .mil, .net, .ports, .stp, .nbr, .modes, .memx, .boot, .flt, .out] s
  unfold execCarterReset at e
  replace e := Host.Outcome.next.inj e
  subst e
  refine keeps_ite (P := fun z => Keeps [.regs, .live, .pend, .mem, .eng, .xrd, .scn, .chn, .fab, .dma, .que, .host, .mil, .net, .ports, .stp, .nbr, .modes, .memx, .boot, .flt, .out] s z) ?_ ?_
  · exact h
  · exact (State.rstCtrl_keeps h (covers_trans (by decide) hm) _ _)

theorem execFlashDumpDone_keeps : ∀ a0 t, execFlashDumpDone a0 s = .next t →
    Keeps [.regs, .live, .pend, .mem, .eng, .xrd, .scn, .chn, .fab, .dma, .que, .host, .mil, .net, .ports, .stp, .nbr, .modes, .memx, .boot, .flt, .out, .free] s t := by
  intro a0 t e
  have hm : covers [.regs, .live, .pend, .mem, .eng, .xrd, .scn, .chn, .fab, .dma, .que, .host, .mil, .net, .ports, .stp, .nbr, .modes, .memx, .boot, .flt, .out, .free] [.regs, .live, .pend, .mem, .eng, .xrd, .scn, .chn, .fab, .dma, .que, .host, .mil, .net, .ports, .stp, .nbr, .modes, .memx, .boot, .flt, .out, .free] = true := by decide
  have h := Keeps.refl [.regs, .live, .pend, .mem, .eng, .xrd, .scn, .chn, .fab, .dma, .que, .host, .mil, .net, .ports, .stp, .nbr, .modes, .memx, .boot, .flt, .out, .free] s
  unfold execFlashDumpDone at e
  replace e := Host.Outcome.next.inj e
  subst e
  refine keeps_ite (P := fun z => Keeps [.regs, .live, .pend, .mem, .eng, .xrd, .scn, .chn, .fab, .dma, .que, .host, .mil, .net, .ports, .stp, .nbr, .modes, .memx, .boot, .flt, .out, .free] s z) ?_ ?_
  · exact h
  · extract_lets -merge -underBinder x0
    have hx0 : Keeps [.regs, .live, .pend, .mem, .eng, .xrd, .scn, .chn, .fab, .dma, .que, .host, .mil, .net, .ports, .stp, .nbr, .modes, .memx, .boot, .flt, .out, .free] s x0 := (State.flashDumpWrite_keeps h (covers_trans (by decide) hm) _)
    try clear_value x0
    refine keeps_ite (P := fun z => Keeps [.regs, .live, .pend, .mem, .eng, .xrd, .scn, .chn, .fab, .dma, .que, .host, .mil, .net, .ports, .stp, .nbr, .modes, .memx, .boot, .flt, .out, .free] s z) ?_ ?_
    · exact (State.warmReset_keeps hx0 (covers_trans (by decide) hm) _)
    · exact hx0

theorem execFatalTimeout_keeps : ∀ t, execFatalTimeout s = .next t →
    Keeps [.regs, .live, .pend, .mem, .eng, .xrd, .scn, .chn, .fab, .dma, .que, .host, .mil, .net, .ports, .stp, .nbr, .modes, .memx, .boot, .flt, .out] s t := by
  intro t e
  have hm : covers [.regs, .live, .pend, .mem, .eng, .xrd, .scn, .chn, .fab, .dma, .que, .host, .mil, .net, .ports, .stp, .nbr, .modes, .memx, .boot, .flt, .out] [.regs, .live, .pend, .mem, .eng, .xrd, .scn, .chn, .fab, .dma, .que, .host, .mil, .net, .ports, .stp, .nbr, .modes, .memx, .boot, .flt, .out] = true := by decide
  have h := Keeps.refl [.regs, .live, .pend, .mem, .eng, .xrd, .scn, .chn, .fab, .dma, .que, .host, .mil, .net, .ports, .stp, .nbr, .modes, .memx, .boot, .flt, .out] s
  unfold execFatalTimeout at e
  replace e := Host.Outcome.next.inj e
  subst e
  refine keeps_ite (P := fun z => Keeps [.regs, .live, .pend, .mem, .eng, .xrd, .scn, .chn, .fab, .dma, .que, .host, .mil, .net, .ports, .stp, .nbr, .modes, .memx, .boot, .flt, .out] s z) ?_ ?_
  · exact (State.warmReset_keeps h (covers_trans (by decide) hm) _)
  · exact h

theorem State.throttleTo_keeps (h : Keeps m s0 s) (hm : covers m [.regs, .host, .out] = true) : ∀ a1 a2, Keeps m s0 (State.throttleTo s a1 a2) := by
  intro a1 a2
  unfold State.throttleTo
  refine keeps_ite (P := fun z => Keeps m s0 z) ?_ ?_
  · exact h
  · extract_lets -merge -underBinder x0
    have hx0 : Keeps m s0 x0 := (State.raise_keeps (State.bump_keeps (State.wr_keeps (State.wr_keeps h (covers_trans (by decide) hm) _ _ _ _) (covers_trans (by decide) hm) _ _ _ _) (covers_trans (by decide) hm) _ _ _ _) (covers_trans (by decide) hm) _ _)
    try clear_value x0
    refine keeps_ite (P := fun z => Keeps m s0 z) ?_ ?_
    · exact (State.raise_keeps hx0 (covers_trans (by decide) hm) _ _)
    · exact hx0

theorem State.sense_keeps (h : Keeps m s0 s) (hm : covers m [.regs] = true) : ∀ a1 a2, Keeps m s0 (State.sense s a1 a2) := by
  intro a1 a2
  unfold State.sense
  exact (State.wr_keeps (State.wr_keeps h (covers_trans (by decide) hm) _ _ _ _) (covers_trans (by decide) hm) _ _ _ _)

theorem State.underFloor_keeps (h : Keeps m s0 s) (hm : covers m [.regs, .mem, .host, .flt, .out] = true) : Keeps m s0 (State.underFloor s) := by
  unfold State.underFloor
  extract_lets -merge -underBinder x0 x1
  have hx1 : Keeps m s0 x1 := (State.wr_keeps h (covers_trans (by decide) hm) _ _ _ _)
  try clear_value x1
  refine keeps_ite (P := fun z => Keeps m s0 z) ?_ ?_
  · exact (State.rollHw_keeps (State.raise_keeps (State.bump_keeps hx1 (covers_trans (by decide) hm) _ _ _ _) (covers_trans (by decide) hm) _ _) (covers_trans (by decide) hm) _ _ _ _)
  · exact hx1

theorem execThrottleTrip_keeps : ∀ a0 a1 t, execThrottleTrip a0 a1 s = .next t →
    Keeps [.regs, .mem, .host, .flt, .out] s t := by
  intro a0 a1 t e
  have hm : covers [.regs, .mem, .host, .flt, .out] [.regs, .mem, .host, .flt, .out] = true := by decide
  have h := Keeps.refl [.regs, .mem, .host, .flt, .out] s
  unfold execThrottleTrip at e
  refine keeps_eq_ite e (fun e => ?_) (fun e => ?_)
  · cases e
  · replace e := Host.Outcome.next.inj e
    subst e
    refine keeps_ite (P := fun z => Keeps [.regs, .mem, .host, .flt, .out] s z) ?_ ?_
    · exact h
    · exact (State.underFloor_keeps (State.throttleTo_keeps (State.sense_keeps h (covers_trans (by decide) hm) _ _) (covers_trans (by decide) hm) _ _) (covers_trans (by decide) hm))

theorem execThrottleRelease_keeps : ∀ a0 a1 t, execThrottleRelease a0 a1 s = .next t →
    Keeps [.regs, .mem, .host, .flt, .out] s t := by
  intro a0 a1 t e
  have hm : covers [.regs, .mem, .host, .flt, .out] [.regs, .mem, .host, .flt, .out] = true := by decide
  have h := Keeps.refl [.regs, .mem, .host, .flt, .out] s
  unfold execThrottleRelease at e
  extract_lets -merge -underBinder x0 x1 x2 x3 at e
  have hx1 : Keeps [.regs, .mem, .host, .flt, .out] s x1 := by
    subst x1
    refine (State.underFloor_keeps ?_ (covers_trans (by decide) hm))
    refine keeps_foldl (P := fun z => Keeps [.regs, .mem, .host, .flt, .out] s z) ?_ fun _ _ h4 => ?_
    · exact h
    · exact (State.sense_keeps h4 (covers_trans (by decide) hm) _ _)
  have hx3 : Keeps [.regs, .mem, .host, .flt, .out] s x3 := (State.wr_keeps hx1 (covers_trans (by decide) hm) _ _ _ _)
  try clear_value x3
  try clear_value x1
  replace e := Host.Outcome.next.inj e
  subst e
  refine keeps_ite (P := fun z => Keeps [.regs, .mem, .host, .flt, .out] s z) ?_ ?_
  · exact hx1
  · refine keeps_ite (P := fun z => Keeps [.regs, .mem, .host, .flt, .out] s z) ?_ ?_
    · exact (State.rollIn_keeps (State.bump_keeps hx3 (covers_trans (by decide) hm) _ _ _ _) (covers_trans (by decide) hm) _ _ _ _ _ _ _ _)
    · exact hx3

end Sys2Proof.Machine
end

