-- ==== Sys2Proof/Laws/KeepsBus.lean ====
section
/-! SUPPORT. What each function of Machine/Bus.lean keeps: the parts of the state it can change, the canonical form of the stores,
the order of free values and outputs. One lemma per function, assembled from those of the functions it calls. -/
namespace Sys2Proof.Machine

variable {m : List Part} {s0 s : State}

theorem State.setDma_keeps (h : Keeps m s0 s) (hm : covers m [.dma] = true) : ∀ a1 a2, Keeps m s0 (State.setDma s a1 a2) := by
  intro a1 a2
  unfold State.setDma
  exact (keeps_dma h (covers_trans (by decide) hm))

theorem State.setDm_keeps (h : Keeps m s0 s) (hm : covers m [.regs] = true) : ∀ a1 a2, Keeps m s0 (State.setDm s a1 a2) := by
  intro a1 a2
  unfold State.setDm
  exact (State.wr_keeps h (covers_trans (by decide) hm) _ _ _ _)

theorem State.dmaAfter_keeps (h : Keeps m s0 s) (hm : covers m [.regs, .dma, .host, .out] = true) : ∀ a1 a2, Keeps m s0 (State.dmaAfter s a1 a2) := by
  intro a1 a2
  unfold State.dmaAfter
  refine keeps_ite (P := fun z => Keeps m s0 z) ?_ ?_
  · extract_lets -merge -underBinder x0
    exact (State.setDm_keeps (State.setDma_keeps h (covers_trans (by decide) hm) _ _) (covers_trans (by decide) hm) _ _)
  · extract_lets -merge -underBinder x1 x2 x3
    have hx2 : Keeps m s0 x2 := (State.setDm_keeps (State.wr_keeps (State.setDma_keeps h (covers_trans (by decide) hm) _ _) (covers_trans (by decide) hm) _ _ _ _) (covers_trans (by decide) hm) _ _)
    have hx3 : Keeps m s0 x3 := (State.raise_keeps hx2 (covers_trans (by decide) hm) _ _)
    try clear_value x3
    try clear_value x2
    refine keeps_ite (P := fun z => Keeps m s0 z) ?_ ?_
    · exact hx2
    · refine keeps_ite (P := fun z => Keeps m s0 z) ?_ ?_
      · exact (State.raise_keeps hx3 (covers_trans (by decide) hm) _ _)
      · exact hx3

theorem State.dmaPost_keeps (h : Keeps m s0 s) (hm : covers m [.regs, .dma, .que, .host, .out] = true) : ∀ a1 a2 a3 a4, Keeps m s0 (State.dmaPost s a1 a2 a3 a4) := by
  intro a1 a2 a3 a4
  unfold State.dmaPost
  extract_lets -merge -underBinder x0 x1 x2 x3
  have hx3 : Keeps m s0 x3 := (State.modQue_keeps (State.setDm_keeps (State.setDma_keeps h (covers_trans (by decide) hm) _ _) (covers_trans (by decide) hm) _ _) (covers_trans (by decide) hm) _)
  try clear_value x3
  refine keeps_ite (P := fun z => Keeps m s0 z) ?_ ?_
  · exact (State.dmaAfter_keeps (State.raise_keeps (State.eventPush_keeps h (covers_trans (by decide) hm) _ _) (covers_trans (by decide) hm) _ _) (covers_trans (by decide) hm) _ _)
  · exact (State.raise_keeps (State.bump_keeps hx3 (covers_trans (by decide) hm) _ _ _ _) (covers_trans (by decide) hm) _ _)

theorem State.dmaHalt_keeps (h : Keeps m s0 s) (hm : covers m [.regs, .dma, .que, .host, .out] = true) : ∀ a1 a2 a3, Keeps m s0 (State.dmaHalt s a1 a2 a3) := by
  intro a1 a2 a3
  unfold State.dmaHalt
  exact (State.dmaPost_keeps h (covers_trans (by decide) hm) _ _ _ _)

theorem State.dmaGo_keeps (h : Keeps m s0 s) (hm : covers m [.regs, .dma, .host, .out] = true) : ∀ a1, Keeps m s0 (State.dmaGo s a1) := by
  intro a1
  unfold State.dmaGo
  extract_lets -merge -underBinder x0 x1 x2
  refine keeps_ite (P := fun z => Keeps m s0 z) ?_ ?_
  · exact (State.setDm_keeps (State.wr_keeps (State.wr_keeps (State.setDma_keeps h (covers_trans (by decide) hm) _ _) (covers_trans (by decide) hm) _ _ _ _) (covers_trans (by decide) hm) _ _ _ _) (covers_trans (by decide) hm) _ _)
  · exact (State.raise_keeps h (covers_trans (by decide) hm) _ _)

theorem State.dmaAbort_keeps (h : Keeps m s0 s) (hm : covers m [.regs, .dma, .que, .host, .out] = true) : ∀ a1, Keeps m s0 (State.dmaAbort s a1) := by
  intro a1
  unfold State.dmaAbort
  extract_lets -merge -underBinder x0 x1 x2
  have hx2 : Keeps m s0 x2 := (State.modQue_keeps h (covers_trans (by decide) hm) _)
  try clear_value x2
  refine keeps_ite (P := fun z => Keeps m s0 z) ?_ ?_
  · exact (State.setDma_keeps h (covers_trans (by decide) hm) _ _)
  · refine keeps_ite (P := fun z => Keeps m s0 z) ?_ ?_
    · exact (State.dmaHalt_keeps h (covers_trans (by decide) hm) _ _ _)
    · refine keeps_ite (P := fun z => Keeps m s0 z) ?_ ?_
      · exact (State.dmaAfter_keeps (State.bump_keeps hx2 (covers_trans (by decide) hm) _ _ _ _) (covers_trans (by decide) hm) _ _)
      · exact h

theorem State.dmcCtrl_keeps (h : Keeps m s0 s) (hm : covers m [.regs, .dma, .que, .host, .out] = true) : ∀ a1 a2, Keeps m s0 (State.dmcCtrl s a1 a2) := by
  intro a1 a2
  unfold State.dmcCtrl
  extract_lets -merge -underBinder x0 x1
  have hx0 : Keeps m s0 x0 := (State.storeBits_keeps h (covers_trans (by decide) hm) _ _ _ _)
  have hx1 : Keeps m s0 x1 := by
    subst x1
    refine keeps_ite (P := fun z => Keeps m s0 z) ?_ ?_
    · exact (State.dmaGo_keeps hx0 (covers_trans (by decide) hm) _)
    · exact hx0
  try clear_value x1
  try clear_value x0
  refine keeps_ite (P := fun z => Keeps m s0 z) ?_ ?_
  · exact (State.dmaAbort_keeps hx1 (covers_trans (by decide) hm) _)
  · exact hx1

theorem execDmaGo_keeps : ∀ a0 a1 t, execDmaGo a0 a1 s = .next t →
    Keeps [.regs, .dma, .que, .host, .out] s t := by
  intro a0 a1 t e
  have hm : covers [.regs, .dma, .que, .host, .out] [.regs, .dma, .que, .host, .out] = true := by decide
  have h := Keeps.refl [.regs, .dma, .que, .host, .out] s
  unfold execDmaGo at e
  replace e := Host.Outcome.next.inj e
  subst e
  refine keeps_ite (P := fun z => Keeps [.regs, .dma, .que, .host, .out] s z) ?_ ?_
  · exact (State.dmcCtrl_keeps h (covers_trans (by decide) hm) _ _)
  · exact h

theorem execDmaAbort_keeps : ∀ a0 a1 t, execDmaAbort a0 a1 s = .next t →
    Keeps [.regs, .dma, .que, .host, .out] s t := by
  intro a0 a1 t e
  have hm : covers [.regs, .dma, .que, .host, .out] [.regs, .dma, .que, .host, .out] = true := by decide
  have h := Keeps.refl [.regs, .dma, .que, .host, .out] s
  unfold execDmaAbort at e
  replace e := Host.Outcome.next.inj e
  subst e
  refine keeps_ite (P := fun z => Keeps [.regs, .dma, .que, .host, .out] s z) ?_ ?_
  · exact (State.dmcCtrl_keeps h (covers_trans (by decide) hm) _ _)
  · exact h

theorem State.dmaReset_keeps (h : Keeps m s0 s) (hm : covers m [.regs, .fab, .dma, .que, .host, .out] = true) : Keeps m s0 (State.dmaReset s) := by
  unfold State.dmaReset
  extract_lets -merge -underBinder x0 x1
  have hx0 : Keeps m s0 x0 := (State.masterReset_keeps h (covers_trans (by decide) hm) _)
  have hx1 : Keeps m s0 x1 := (State.modQue_keeps (keeps_dma hx0 (covers_trans (by decide) hm)) (covers_trans (by decide) hm) _)
  try clear_value x1
  try clear_value x0
  refine keeps_foldl (P := fun z => Keeps m s0 z) ?_ fun _ _ h2 => ?_
  · exact hx1
  · exact (State.wr_keeps (State.setDm_keeps h2 (covers_trans (by decide) hm) _ _) (covers_trans (by decide) hm) _ _ _ _)

theorem State.softReset_keeps (h : Keeps m s0 s) (hm : covers m [.regs, .fab, .dma, .que, .host, .out] = true) : ∀ a1, Keeps m s0 (State.softReset s a1) := by
  intro a1
  unfold State.softReset
  refine keeps_ite (P := fun z => Keeps m s0 z) ?_ ?_
  · exact (State.wr_keeps (State.dmaReset_keeps h (covers_trans (by decide) hm)) (covers_trans (by decide) hm) _ _ _ _)
  · exact h

theorem execSoftReset_keeps : ∀ a0 t, execSoftReset a0 s = .next t →
    Keeps [.regs, .fab, .dma, .que, .host, .out] s t := by
  intro a0 t e
  have hm : covers [.regs, .fab, .dma, .que, .host, .out] [.regs, .fab, .dma, .que, .host, .out] = true := by decide
  have h := Keeps.refl [.regs, .fab, .dma, .que, .host, .out] s
  unfold execSoftReset at e
  replace e := Host.Outcome.next.inj e
  subst e
  exact (State.softReset_keeps h (covers_trans (by decide) hm) _)

theorem State.msxEoi_keeps (h : Keeps m s0 s) (hm : covers m [.regs, .host, .out] = true) : ∀ a1, Keeps m s0 (State.msxEoi s a1) := by
  intro a1
  unfold State.msxEoi
  refine keeps_ite (P := fun z => Keeps m s0 z) ?_ ?_
  · extract_lets -merge -underBinder x0
    have hx0 : Keeps m s0 x0 := (State.sendVector_keeps h (covers_trans (by decide) hm) _)
    try clear_value x0
    refine keeps_ite (P := fun z => Keeps m s0 z) ?_ ?_
    · exact hx0
    · exact (State.bump_keeps hx0 (covers_trans (by decide) hm) _ _ _ _)
  · exact h

theorem execMsxEoi_keeps : ∀ a0 t, execMsxEoi a0 s = .next t →
    Keeps [.regs, .host, .out] s t := by
  intro a0 t e
  have hm : covers [.regs, .host, .out] [.regs, .host, .out] = true := by decide
  have h := Keeps.refl [.regs, .host, .out] s
  unfold execMsxEoi at e
  replace e := Host.Outcome.next.inj e
  subst e
  exact (State.msxEoi_keeps h (covers_trans (by decide) hm) _)

theorem State.sendHeld_keeps (h : Keeps m s0 s) (hm : covers m [.regs, .host, .out] = true) : Keeps m s0 (State.sendHeld s) := by
  unfold State.sendHeld
  refine keeps_ite (P := fun z => Keeps m s0 z) ?_ ?_
  · refine keeps_foldl (P := fun z => Keeps m s0 z) ?_ fun _ _ h0 => ?_
    · exact h
    · refine keeps_ite (P := fun z => Keeps m s0 z) ?_ ?_
      · exact h0
      · refine keeps_ite (P := fun z => Keeps m s0 z) ?_ ?_
        · exact (State.sendVector_keeps h0 (covers_trans (by decide) hm) _)
        · exact h0
  · exact h

theorem State.msixWrite_keeps (h : Keeps m s0 s) (hm : covers m [.regs, .host, .out] = true) : ∀ a1 a2, Keeps m s0 (State.msixWrite s a1 a2) := by
  intro a1 a2
  unfold State.msixWrite
  exact (State.sendHeld_keeps (State.modHost_keeps h (covers_trans (by decide) hm) _) (covers_trans (by decide) hm))

theorem execMsixUnmask_keeps : ∀ a0 t, execMsixUnmask a0 s = .next t →
    Keeps [.regs, .host, .out] s t := by
  intro a0 t e
  have hm : covers [.regs, .host, .out] [.regs, .host, .out] = true := by decide
  have h := Keeps.refl [.regs, .host, .out] s
  unfold execMsixUnmask at e
  replace e := Host.Outcome.next.inj e
  subst e
  split
  · refine keeps_ite (P := fun z => Keeps [.regs, .host, .out] s z) ?_ ?_
    · exact (State.msixWrite_keeps h (covers_trans (by decide) hm) _ _)
    · exact h
  · exact (State.sendHeld_keeps (State.wr_keeps h (covers_trans (by decide) hm) _ _ _ _) (covers_trans (by decide) hm))

theorem State.strCtrl_keeps (h : Keeps m s0 s) (hm : covers m [.regs, .memx] = true) : ∀ a1 a2, Keeps m s0 (State.strCtrl s a1 a2) := by
  intro a1 a2
  unfold State.strCtrl
  extract_lets -merge -underBinder x0
  have hx0 : Keeps m s0 x0 := by
    subst x0
    refine keeps_ite (P := fun z => Keeps m s0 z) ?_ ?_
    · exact (State.storeBits_keeps h (covers_trans (by decide) hm) _ _ _ _)
    · exact h
  try clear_value x0
  refine keeps_ite (P := fun z => Keeps m s0 z) ?_ ?_
  · exact (State.done_keeps (P := [.regs, .memx]) hx0 (covers_trans (by decide) hm) _ fun t1 et1 => execStrWipe_keeps _ t1 et1)
  · exact hx0

theorem State.actWrite_keeps (h : Keeps m s0 s) (hm : covers m [.regs, .live, .pend, .mem, .eng, .xrd, .scn, .chn, .fab, .dma, .que, .host, .mil, .net, .ports, .stp, .nbr, .modes, .memx, .boot, .flt, .out, .free] = true) : ∀ a1 a2 a3 a4 t, State.actWrite s a1 a2 a3 a4 = some t → Keeps m s0 t := by
  intro a1 a2 a3 a4 t e
  unfold State.actWrite at e
  extract_lets -merge -underBinder x0 at e
  refine keeps_eq_ite e (fun e => ?_) (fun e => ?_)
  · replace e := Option.some.inj e
    subst e
    exact (State.rstCtrl_keeps h (covers_trans (by decide) hm) _ _)
  · refine keeps_eq_ite e (fun e => ?_) (fun e => ?_)
    · obtain ⟨_, e1, e⟩ := Option.map_eq_some_iff.1 e
      subst e
      exact (State.dmcCtrl_keeps h (covers_trans (by decide) hm) _ _)
    · refine keeps_eq_ite e (fun e => ?_) (fun e => ?_)
      · replace e := Option.some.inj e
        subst e
        exact (State.portWrite_keeps h (covers_trans (by decide) hm) _ _ _ _)
      · refine keeps_eq_ite e (fun e => ?_) (fun e => ?_)
        · replace e := Option.some.inj e
          subst e
          exact (State.strCtrl_keeps h (covers_trans (by decide) hm) _ _)
        · refine keeps_eq_ite e (fun e => ?_) (fun e => ?_)
          · replace e := Option.some.inj e
            subst e
            exact (State.done_keeps (P := [.regs, .memx]) h (covers_trans (by decide) hm) _ fun t1 et1 => execSelfRefresh_keeps _ t1 et1)
          · refine keeps_eq_ite e (fun e => ?_) (fun e => ?_)
            · replace e := Option.some.inj e
              subst e
              exact (State.done_keeps (P := [.regs, .memx]) h (covers_trans (by decide) hm) _ fun t1 et1 => execGlnMarkAtWrite_keeps _ t1 et1)
            · refine keeps_eq_ite e (fun e => ?_) (fun e => ?_)
              · replace e := Option.some.inj e
                subst e
                exact (State.done_keeps (P := [.regs, .memx]) h (covers_trans (by decide) hm) _ fun t1 et1 => execGlnAdv_keeps _ t1 et1)
              · refine keeps_eq_ite e (fun e => ?_) (fun e => ?_)
                · replace e := Option.some.inj e
                  subst e
                  refine keeps_ite (P := fun z => Keeps m s0 z) ?_ ?_
                  · exact (State.modEng_keeps (State.wr_keeps h (covers_trans (by decide) hm) _ _ _ _) (covers_trans (by decide) hm) _)
                  · exact h
                · refine keeps_eq_ite e (fun e => ?_) (fun e => ?_)
                  · replace e := Option.some.inj e
                    subst e
                    exact (State.done_keeps (P := [.regs, .eng]) h (covers_trans (by decide) hm) _ fun t1 et1 => execRealignRequest_keeps _ t1 et1)
                  · refine keeps_eq_ite e (fun e => ?_) (fun e => ?_)
                    · replace e := Option.some.inj e
                      subst e
                      refine keeps_ite (P := fun z => Keeps m s0 z) ?_ ?_
                      · exact (State.done_keeps (P := [.regs, .scn, .chn, .host, .out]) h (covers_trans (by decide) hm) _ fun t1 et1 => execSwapCancel_keeps t1 et1)
                      · exact h
                    · refine keeps_eq_ite e (fun e => ?_) (fun e => ?_)
                      · replace e := Option.some.inj e
                        subst e
                        exact (State.millDebugWrite_keeps h (covers_trans (by decide) hm) _ _)
                      · refine keeps_eq_ite e (fun e => ?_) (fun e => ?_)
                        · replace e := Option.some.inj e
                          subst e
                          exact (State.done_keeps (P := [.regs, .chn, .host, .out]) h (covers_trans (by decide) hm) _ fun t1 et1 => execPrepareGo_keeps _ t1 et1)
                        · refine keeps_eq_ite e (fun e => ?_) (fun e => ?_)
                          · replace e := Option.some.inj e
                            subst e
                            exact (State.done_keeps (P := [.regs, .chn]) h (covers_trans (by decide) hm) _ fun t1 et1 => execJobGo_keeps _ t1 et1)
                          · refine keeps_eq_ite e (fun e => ?_) (fun e => ?_)
                            · replace e := Option.some.inj e
                              subst e
                              exact (State.done_keeps (P := [.regs, .mem, .host, .net, .nbr, .out, .free]) h (covers_trans (by decide) hm) _ fun t1 et1 => execCriPost_keeps _ t1 et1)
                            · refine keeps_eq_ite e (fun e => ?_) (fun e => ?_)
                              · replace e := Option.some.inj e
                                subst e
                                exact (State.done_keeps (P := [.regs, .mem, .host, .net, .nbr, .out]) h (covers_trans (by decide) hm) _ fun t1 et1 => execCriCancel_keeps _ t1 et1)
                              · refine keeps_eq_ite e (fun e => ?_) (fun e => ?_)
                                · replace e := Option.some.inj e
                                  subst e
                                  exact (State.done_keeps (P := [.regs, .mem, .scn, .que, .host, .out]) h (covers_trans (by decide) hm) _ fun t1 et1 => execCriInject_keeps _ t1 et1)
                                · refine keeps_eq_ite e (fun e => ?_) (fun e => ?_)
                                  · replace e := Option.some.inj e
                                    subst e
                                    exact (State.done_keeps (P := [.stp]) h (covers_trans (by decide) hm) _ fun t1 et1 => execTbsOutAlign_keeps _ t1 et1)
                                  · refine keeps_eq_ite e (fun e => ?_) (fun e => ?_)
                                    · replace e := Option.some.inj e
                                      subst e
                                      refine keeps_ite (P := fun z => Keeps m s0 z) ?_ ?_
                                      · exact (State.grantWrite_keeps h (covers_trans (by decide) hm) _ _ _)
                                      · exact h
                                    · refine keeps_eq_ite e (fun e => ?_) (fun e => ?_)
                                      · replace e := Option.some.inj e
                                        subst e
                                        exact (State.nbrCtrl_keeps h (covers_trans (by decide) hm) _)
                                      · refine keeps_eq_ite e (fun e => ?_) (fun e => ?_)
                                        · replace e := Option.some.inj e
                                          subst e
                                          refine (State.storeBits_keeps ?_ (covers_trans (by decide) hm) _ _ _ _)
                                          refine keeps_ite (P := fun z => Keeps m s0 z) ?_ ?_
                                          · exact (State.modFlt_keeps h (covers_trans (by decide) hm) _)
                                          · exact h
                                        · refine keeps_eq_ite e (fun e => ?_) (fun e => ?_)
                                          · replace e := Option.some.inj e
                                            subst e
                                            exact (State.repGo_keeps h (covers_trans (by decide) hm) _ _)
                                          · refine keeps_eq_ite e (fun e => ?_) (fun e => ?_)
                                            · replace e := Option.some.inj e
                                              subst e
                                              exact (State.clearLatch_keeps h (covers_trans (by decide) hm) _)
                                            · refine keeps_eq_ite e (fun e => ?_) (fun e => ?_)
                                              · replace e := Option.some.inj e
                                                subst e
                                                exact (State.fltCtrl_keeps h (covers_trans (by decide) hm) _ _)
                                              · refine keeps_eq_ite e (fun e => ?_) (fun e => ?_)
                                                · replace e := Option.some.inj e
                                                  subst e
                                                  exact (State.wdogKick_keeps h (covers_trans (by decide) hm) _ _)
                                                · refine keeps_eq_ite e (fun e => ?_) (fun e => ?_)
                                                  · replace e := Option.some.inj e
                                                    subst e
                                                    exact (State.msxEoi_keeps h (covers_trans (by decide) hm) _)
                                                  · refine keeps_eq_ite e (fun e => ?_) (fun e => ?_)
                                                    · replace e := Option.some.inj e
                                                      subst e
                                                      exact (State.recoverImage_keeps h (covers_trans (by decide) hm) _)
                                                    · cases e

theorem State.genWrite_keeps (h : Keeps m s0 s) (hm : covers m [.regs, .xrd] = true) : ∀ a1 a2 a3 t, State.genWrite s a1 a2 a3 = some t → Keeps m s0 t := by
  intro a1 a2 a3 t e
  unfold State.genWrite at e
  extract_lets -merge -underBinder x0 at e
  refine keeps_eq_ite e (fun e => ?_) (fun e => ?_)
  · cases e
  · split at e
    · replace e := Option.some.inj e
      subst e
      exact (State.done_keeps (P := [.regs, .xrd]) h (covers_trans (by decide) hm) _ fun t1 et1 => execGenModeWrite_keeps _ _ t1 et1)
    · replace e := Option.some.inj e
      subst e
      exact (State.done_keeps (P := [.regs, .xrd]) h (covers_trans (by decide) hm) _ fun t2 et2 => execGenAuxWrite_keeps _ _ t2 et2)
    · replace e := Option.some.inj e
      subst e
      exact (State.setGen_keeps (State.wr_keeps h (covers_trans (by decide) hm) _ _ _ _) (covers_trans (by decide) hm) _ _)
    · cases e

theorem State.afterWrite_keeps (h : Keeps m s0 s) (hm : covers m [.regs, .host, .out] = true) : ∀ a1 a2 a3, Keeps m s0 (State.afterWrite s a1 a2 a3) := by
  intro a1 a2 a3
  unfold State.afterWrite
  refine keeps_ite (P := fun z => Keeps m s0 z) ?_ ?_
  · exact (State.settleVectors_keeps h (covers_trans (by decide) hm) _ _)
  · refine keeps_ite (P := fun z => Keeps m s0 z) ?_ ?_
    · exact (State.settleVectors_keeps h (covers_trans (by decide) hm) _ _)
    · refine keeps_ite (P := fun z => Keeps m s0 z) ?_ ?_
      · exact (State.throttleTo_keeps h (covers_trans (by decide) hm) _ _)
      · refine keeps_ite (P := fun z => Keeps m s0 z) ?_ ?_
        · exact (State.showStp_keeps h (covers_trans (by decide) hm))
        · refine keeps_ite (P := fun z => Keeps m s0 z) ?_ ?_
          · exact (State.showAsrc_keeps h (covers_trans (by decide) hm))
          · refine keeps_ite (P := fun z => Keeps m s0 z) ?_ ?_
            · exact (State.gpioDrives_keeps h (covers_trans (by decide) hm))
            · refine keeps_ite (P := fun z => Keeps m s0 z) ?_ ?_
              · exact (State.showFaultN_keeps h (covers_trans (by decide) hm))
              · exact h

theorem State.headerWrite_keeps (h : Keeps m s0 s) (hm : covers m [.regs, .live, .pend, .mem, .eng, .xrd, .scn, .chn, .fab, .dma, .que, .host, .mil, .net, .ports, .stp, .nbr, .modes, .memx, .boot, .flt, .out, .free] = true) : ∀ a1 a2 a3 a4 t, State.headerWrite s a1 a2 a3 a4 = some t → Keeps m s0 t := by
  intro a1 a2 a3 a4 t e
  unfold State.headerWrite at e
  extract_lets -merge -underBinder x0 x1 x2 at e
  have hx1 : Keeps m s0 x1 := (State.storeBits_keeps h (covers_trans (by decide) hm) _ _ _ _)
  have hx2 : Keeps m s0 x2 := by
    subst x2
    refine keeps_ite (P := fun z => Keeps m s0 z) ?_ ?_
    · exact (State.millDebugWrite_keeps hx1 (covers_trans (by decide) hm) _ _)
    · exact hx1
  try clear_value x2
  try clear_value x1
  refine keeps_eq_ite e (fun e => ?_) (fun e => ?_)
  · replace e := Option.some.inj e
    subst e
    refine keeps_ite (P := fun z => Keeps m s0 z) ?_ ?_
    · exact (State.softReset_keeps hx2 (covers_trans (by decide) hm) _)
    · exact hx2
  · refine keeps_eq_ite e (fun e => ?_) (fun e => ?_)
    · replace e := Option.some.inj e
      subst e
      exact (State.clearRaw_keeps h (covers_trans (by decide) hm) _ _)
    · refine keeps_eq_ite e (fun e => ?_) (fun e => ?_)
      · replace e := Option.some.inj e
        subst e
        exact (State.testIrq_keeps h (covers_trans (by decide) hm) _ _)
      · refine keeps_eq_ite e (fun e => ?_) (fun e => ?_)
        · replace e := Option.some.inj e
          subst e
          refine keeps_ite (P := fun z => Keeps m s0 z) ?_ ?_
          · exact (State.applyTake_keeps h (covers_trans (by decide) hm) _)
          · refine keeps_ite (P := fun z => Keeps m s0 z) ?_ ?_
            · exact (State.applyDiscard_keeps h (covers_trans (by decide) hm) _)
            · refine keeps_ite (P := fun z => Keeps m s0 z) ?_ ?_
              · dsimp -zeta only [x0]
                exact (State.pageError_keeps h (covers_trans (by decide) hm) _ _ _ _ _)
              · exact h
        · refine keeps_eq_ite e (fun e => ?_) (fun e => ?_)
          · replace e := Option.some.inj e
            subst e
            refine keeps_ite (P := fun z => Keeps m s0 z) ?_ ?_
            · exact (State.wr_keeps h (covers_trans (by decide) hm) _ _ _ _)
            · dsimp -zeta only [x0]
              exact (State.pageError_keeps h (covers_trans (by decide) hm) _ _ _ _ _)
          · cases e

theorem State.regWrite_keeps (h : Keeps m s0 s) (hm : covers m [.regs, .live, .pend, .mem, .eng, .xrd, .scn, .chn, .fab, .dma, .que, .host, .mil, .net, .ports, .stp, .nbr, .modes, .memx, .boot, .flt, .out, .free] = true) : ∀ a1 a2 a3 a4, Keeps m s0 (State.regWrite s a1 a2 a3 a4) := by
  intro a1 a2 a3 a4
  unfold State.regWrite
  split
  · rename_i p0 e1
    have h2 : Keeps m s0 p0 := by
      exact (State.headerWrite_keeps h (covers_trans (by decide) hm) _ _ _ _ _ e1)
    exact h2
  · split
    · rename_i p3 e4
      have h5 : Keeps m s0 p3 := by
        exact (State.actWrite_keeps h (covers_trans (by decide) hm) _ _ _ _ _ e4)
      exact h5
    · split
      · rename_i p6 e7
        have h8 : Keeps m s0 p6 := by
          exact (State.genWrite_keeps h (covers_trans (by decide) hm) _ _ _ _ e7)
        exact h8
      · split
        · exact h
        · exact (State.afterWrite_keeps (State.clearW1c_keeps (State.storeBits_keeps h (covers_trans (by decide) hm) _ _ _ _) (covers_trans (by decide) hm) _ _ _) (covers_trans (by decide) hm) _ _ _)

theorem State.pageWrite_keeps (h : Keeps m s0 s) (hm : covers m [.regs, .live, .pend, .mem, .eng, .xrd, .scn, .chn, .fab, .dma, .que, .host, .mil, .net, .ports, .stp, .nbr, .modes, .memx, .boot, .flt, .out, .free] = true) : ∀ a1 a2 a3 a4, Keeps m s0 (State.pageWrite s a1 a2 a3 a4) := by
  intro a1 a2 a3 a4
  unfold State.pageWrite
  extract_lets -merge -underBinder x0 x1 x2
  refine keeps_ite (P := fun z => Keeps m s0 z) ?_ ?_
  · try dsimp -zeta only [x2]
    exact (State.pageError_keeps h (covers_trans (by decide) hm) _ _ _ _ _)
  · refine keeps_ite (P := fun z => Keeps m s0 z) ?_ ?_
    · try dsimp -zeta only [x2]
      exact (State.pageError_keeps h (covers_trans (by decide) hm) _ _ _ _ _)
    · split
      · refine keeps_ite (P := fun z => Keeps m s0 z) ?_ ?_
        · try dsimp -zeta only [x2]
          exact (State.pageError_keeps h (covers_trans (by decide) hm) _ _ _ _ _)
        · refine keeps_ite (P := fun z => Keeps m s0 z) ?_ ?_
          · try dsimp -zeta only [x2]
            exact (State.pageError_keeps h (covers_trans (by decide) hm) _ _ _ _ _)
          · exact h
      · refine keeps_ite (P := fun z => Keeps m s0 z) ?_ ?_
        · try dsimp -zeta only [x2]
          exact (State.pageError_keeps h (covers_trans (by decide) hm) _ _ _ _ _)
        · extract_lets -merge -underBinder x3 x4 x5 x6
          have hx4 : Keeps m s0 x4 := by
            subst x4
            refine keeps_ite (P := fun z => Keeps m s0 z) ?_ ?_
            · try dsimp -zeta only [x2]
              exact (State.pageError_keeps h (covers_trans (by decide) hm) _ _ _ _ _)
            · exact h
          have hx6 : Keeps m s0 x6 := by
            subst x6
            refine keeps_ite (P := fun z => Keeps m s0 z) ?_ ?_
            · exact (State.regWrite_keeps hx4 (covers_trans (by decide) hm) _ _ _ _)
            · refine keeps_ite (P := fun z => Keeps m s0 z) ?_ ?_
              · exact hx4
              · exact (State.regWrite_keeps hx4 (covers_trans (by decide) hm) _ _ _ _)
          try clear_value x6
          try clear_value x4
          refine keeps_ite (P := fun z => Keeps m s0 z) ?_ ?_
          · exact (State.bump_keeps h (covers_trans (by decide) hm) _ _ _ _)
          · refine keeps_ite (P := fun z => Keeps m s0 z) ?_ ?_
            · exact (State.nbrSend_keeps hx6 (covers_trans (by decide) hm) _ _)
            · exact hx6

theorem State.regRead_keeps (h : Keeps m s0 s) (hm : covers m [.regs, .eng, .que, .host, .net, .stp, .resp, .out, .free] = true) : ∀ a1 a2 a3, Keeps m s0 (State.regRead s a1 a2 a3).2 := by
  intro a1 a2 a3
  unfold State.regRead
  extract_lets -merge -underBinder x0
  refine keeps_ite (P := fun (z : Nat × State) => Keeps m s0 z.2) ?_ ?_
  · exact (State.portRead_keeps h (covers_trans (by decide) hm) _ _ _)
  · refine keeps_ite (P := fun (z : Nat × State) => Keeps m s0 z.2) ?_ ?_
    · refine keeps_snd (P := fun z => Keeps m s0 z) ?_
      exact (State.modEng_keeps h (covers_trans (by decide) hm) _)
    · refine keeps_ite (P := fun (z : Nat × State) => Keeps m s0 z.2) ?_ ?_
      · exact (State.ptsInfoRead_keeps h (covers_trans (by decide) hm) _)
      · refine keeps_ite (P := fun (z : Nat × State) => Keeps m s0 z.2) ?_ ?_
        · refine keeps_snd (P := fun z => Keeps m s0 z) ?_
          exact h
        · refine keeps_ite (P := fun (z : Nat × State) => Keeps m s0 z.2) ?_ ?_
          · dsimp -zeta only [x0]
            extract_lets -merge -underBinder x1
            have hx1 : Keeps m s0 x1 := (State.done_keeps (P := [.regs, .stp, .resp]) h (covers_trans (by decide) hm) _ fun t1 et1 => execEdgInfoRead_keeps _ t1 et1)
            try clear_value x1
            refine keeps_snd (P := fun z => Keeps m s0 z) ?_
            exact hx1
          · refine keeps_ite (P := fun (z : Nat × State) => Keeps m s0 z.2) ?_ ?_
            · dsimp -zeta only [x0]
              extract_lets -merge -underBinder x2
              have hx2 : Keeps m s0 x2 := (State.done_keeps (P := [.regs, .resp]) h (covers_trans (by decide) hm) _ fun t1 et1 => execLtcInTimeRead_keeps _ t1 et1)
              try clear_value x2
              refine keeps_snd (P := fun z => Keeps m s0 z) ?_
              exact hx2
            · refine keeps_ite (P := fun (z : Nat × State) => Keeps m s0 z.2) ?_ ?_
              · dsimp -zeta only [x0]
                extract_lets -merge -underBinder x3
                have hx3 : Keeps m s0 x3 := (State.done_keeps (P := [.host, .resp]) h (covers_trans (by decide) hm) _ fun t1 et1 => execTbsNowNsRead_keeps _ t1 et1)
                try clear_value x3
                refine keeps_snd (P := fun z => Keeps m s0 z) ?_
                exact hx3
              · refine keeps_ite (P := fun (z : Nat × State) => Keeps m s0 z.2) ?_ ?_
                · dsimp -zeta only [x0]
                  extract_lets -merge -underBinder x4
                  have hx4 : Keeps m s0 x4 := (State.done_keeps (P := [.regs, .host, .resp]) h (covers_trans (by decide) hm) _ fun t1 et1 => execGlnWriteLoRead_keeps _ t1 et1)
                  try clear_value x4
                  refine keeps_snd (P := fun z => Keeps m s0 z) ?_
                  exact hx4
                · refine keeps_ite (P := fun (z : Nat × State) => Keeps m s0 z.2) ?_ ?_
                  · dsimp -zeta only [x0]
                    extract_lets -merge -underBinder x5
                    have hx5 : Keeps m s0 x5 := (State.done_keeps (P := [.regs, .host, .resp]) h (covers_trans (by decide) hm) _ fun t1 et1 => execGlnCursorLoRead_keeps _ t1 et1)
                    try clear_value x5
                    refine keeps_snd (P := fun z => Keeps m s0 z) ?_
                    exact hx5
                  · refine keeps_ite (P := fun (z : Nat × State) => Keeps m s0 z.2) ?_ ?_
                    · refine keeps_snd (P := fun z => Keeps m s0 z) ?_
                      exact h
                    · refine keeps_snd (P := fun z => Keeps m s0 z) ?_
                      refine (State.clearRc_keeps ?_ (covers_trans (by decide) hm) _ _)
                      refine State.when_keeps h _ _ fun _ h6 => ?_
                      exact (State.useFree_keeps h6 (covers_trans (by decide) hm) _)

theorem State.pageRead_keeps (h : Keeps m s0 s) (hm : covers m [.regs, .eng, .que, .host, .net, .stp, .resp, .out, .free] = true) : ∀ a1 a2 a3, Keeps m s0 (State.pageRead s a1 a2 a3).2 := by
  intro a1 a2 a3
  unfold State.pageRead
  extract_lets -merge -underBinder x0 x1
  refine keeps_ite (P := fun (z : Nat × State) => Keeps m s0 z.2) ?_ ?_
  · exact (State.regRead_keeps h (covers_trans (by decide) hm) _ _ _)
  · refine keeps_ite (P := fun (z : Nat × State) => Keeps m s0 z.2) ?_ ?_
    · refine keeps_snd (P := fun z => Keeps m s0 z) ?_
      exact h
    · refine keeps_snd (P := fun z => Keeps m s0 z) ?_
      refine State.when_keeps h _ _ fun _ h2 => ?_
      exact (State.useFree_keeps h2 (covers_trans (by decide) hm) _)

theorem execEngEsiLoRead_keeps : ∀ a0 t, execEngEsiLoRead a0 s = .next t →
    Keeps [.regs, .eng, .que, .host, .net, .stp, .resp, .out, .free] s t := by
  intro a0 t e
  have hm : covers [.regs, .eng, .que, .host, .net, .stp, .resp, .out, .free] [.regs, .eng, .que, .host, .net, .stp, .resp, .out, .free] = true := by decide
  have h := Keeps.refl [.regs, .eng, .que, .host, .net, .stp, .resp, .out, .free] s
  unfold execEngEsiLoRead at e
  extract_lets -merge -underBinder x0 at e
  have hx0 : Keeps [.regs, .eng, .que, .host, .net, .stp, .resp, .out, .free] s x0.2 := (State.regRead_keeps h (covers_trans (by decide) hm) _ _ _)
  try clear_value x0
  replace e := Host.Outcome.next.inj e
  subst e
  refine keeps_ite (P := fun z => Keeps [.regs, .eng, .que, .host, .net, .stp, .resp, .out, .free] s z) ?_ ?_
  · exact h
  · exact (State.respond_keeps hx0 (covers_trans (by decide) hm) _ _ _)

theorem execSnapArm_keeps : ∀ t, execSnapArm s = .next t →
    Keeps [.regs, .live, .pend, .mem, .eng, .xrd, .scn, .chn, .fab, .dma, .que, .host, .mil, .net, .ports, .stp, .nbr, .modes, .memx, .boot, .flt, .out, .free] s t := by
  intro t e
  have hm : covers [.regs, .live, .pend, .mem, .eng, .xrd, .scn, .chn, .fab, .dma, .que, .host, .mil, .net, .ports, .stp, .nbr, .modes, .memx, .boot, .flt, .out, .free] [.regs, .live, .pend, .mem, .eng, .xrd, .scn, .chn, .fab, .dma, .que, .host, .mil, .net, .ports, .stp, .nbr, .modes, .memx, .boot, .flt, .out, .free] = true := by decide
  have h := Keeps.refl [.regs, .live, .pend, .mem, .eng, .xrd, .scn, .chn, .fab, .dma, .que, .host, .mil, .net, .ports, .stp, .nbr, .modes, .memx, .boot, .flt, .out, .free] s
  unfold execSnapArm at e
  replace e := Host.Outcome.next.inj e
  subst e
  exact (State.pageWrite_keeps h (covers_trans (by decide) hm) _ _ _ _)

end Sys2Proof.Machine
end

