-- ==== Sys2Proof/Laws/Regs.lean ====
section
/-! SUPPORT. Reading a register after the named operations that write one: the written field, every other field, and what
raising an event leaves. -/
namespace Sys2Proof.Machine

/-! ### Bit fields -/

/-- The replaced bits. -/
theorem bitsOf_setBitsOf (v lo w x : Nat) : bitsOf (setBitsOf v lo w x) lo w = x % 2 ^ w := by
  unfold bitsOf setBitsOf
  have e : v % 2 ^ lo + x % 2 ^ w * 2 ^ lo + v / 2 ^ (lo + w) * 2 ^ (lo + w) =
      v % 2 ^ lo + 2 ^ lo * (x % 2 ^ w + 2 ^ w * (v / 2 ^ (lo + w))) := by
    rw [Nat.pow_add, Nat.mul_add, Nat.mul_comm (x % 2 ^ w), Nat.mul_comm (v / (2 ^ lo * 2 ^ w)) (2 ^ lo * 2 ^ w), Nat.mul_assoc,
      Nat.add_assoc]
  rw [e, Nat.add_mul_div_left _ _ (Nat.two_pow_pos lo), Nat.div_eq_of_lt (Nat.mod_lt _ (Nat.two_pow_pos lo)), Nat.zero_add,
    Nat.add_mul_mod_self_left, Nat.mod_mod]

/-- Bits of a word as tests of its bits. -/
theorem testBit_bitsOf (v lo w i : Nat) : (bitsOf v lo w).testBit i = (decide (i < w) && v.testBit (lo + i)) := by
  unfold bitsOf
  rw [Nat.testBit_mod_two_pow, Nat.testBit_div_two_pow, Nat.add_comm]

/-- A word with bits replaced, bit by bit. -/
theorem testBit_setBitsOf (v lo w x i : Nat) : (setBitsOf v lo w x).testBit i =
    if i < lo then v.testBit i else if i < lo + w then x.testBit (i - lo) else v.testBit i := by
  have e : setBitsOf v lo w x = 2 ^ lo * (2 ^ w * (v / 2 ^ (lo + w)) + x % 2 ^ w) + v % 2 ^ lo := by
    unfold setBitsOf
    rw [Nat.pow_add, Nat.mul_add, Nat.mul_comm (x % 2 ^ w), Nat.mul_comm (v / (2 ^ lo * 2 ^ w)) (2 ^ lo * 2 ^ w), Nat.mul_assoc]
    omega
  rw [e, Nat.testBit_two_pow_mul_add _ (Nat.mod_lt _ (Nat.two_pow_pos lo))]
  split
  · rw [Nat.testBit_mod_two_pow]; simp_all
  · rename_i h
    rw [Nat.testBit_two_pow_mul_add _ (Nat.mod_lt _ (Nat.two_pow_pos w))]
    by_cases h2 : i < lo + w
    · rw [if_pos (by omega), if_pos h2, Nat.testBit_mod_two_pow]; simp; omega
    · rw [if_neg (by omega), if_neg h2, Nat.testBit_div_two_pow]; congr 1; omega

/-- Other bits stay. -/
theorem bitsOf_setBitsOf_ne {v lo w x lo' w' : Nat} (h : lo' + w' ≤ lo ∨ lo + w ≤ lo') :
    bitsOf (setBitsOf v lo w x) lo' w' = bitsOf v lo' w' := by
  refine Nat.eq_of_testBit_eq fun i => ?_
  rw [testBit_bitsOf, testBit_bitsOf, testBit_setBitsOf]
  by_cases hi : i < w'
  · simp only [hi, decide_true, Bool.true_and]
    split
    · rfl
    · rw [if_neg (by omega)]
  · simp [hi]

/-- Replacing bits inside a word stays inside the word. -/
theorem setBitsOf_lt {v lo w x n : Nat} (hv : v < 2 ^ n) (h : lo + w ≤ n) : setBitsOf v lo w x < 2 ^ n := by
  refine Nat.lt_pow_two_of_testBit _ fun i hi => ?_
  rw [testBit_setBitsOf, if_neg (by omega), if_neg (by omega)]
  exact Nat.testBit_lt_two_pow (Nat.lt_of_lt_of_le hv (Nat.pow_le_pow_right (by omega) hi))

/-! ### Registers -/

variable {s : State}

/-- READ AFTER WRITE of a whole register. -/
theorem State.reg_setReg (s : State) (k j : Nat) (v : Word) : (s.setReg k v).reg j = if j = k then v else s.reg j :=
  sparseGet_set ..

/-- READ AFTER WRITE of an in-force register. -/
theorem State.liveReg_setLive (s : State) (k j : Nat) (v : Word) :
    (s.setLive k v).liveReg j = if j = k then v else s.liveReg j :=
  sparseGet_set ..

/-- Registers outside a field's register stay. -/
theorem State.reg_wr {f : Fld} {v n i j : Nat} (h : j ≠ f.key n i) : (s.wr f v n i).reg j = s.reg j := by
  rw [State.wr, State.reg_setReg, if_neg h]

/-- The word of a register after a field write. -/
theorem State.reg_wr_same {f : Fld} {v n i : Nat} (hf : f.lo + f.width ≤ 32) :
    ((s.wr f v n i).reg (f.key n i)).toNat = setBitsOf (s.reg (f.key n i)).toNat f.lo f.width v := by
  rw [State.wr, State.reg_setReg, if_pos rfl, BitVec.toNat_ofNat, Nat.mod_eq_of_lt (setBitsOf_lt (BitVec.isLt _) hf)]

/-- READ AFTER WRITE of a field. -/
theorem State.rd_wr_same {f : Fld} {v n i : Nat} (hf : f.lo + f.width ≤ 32) : (s.wr f v n i).rd f n i = v % 2 ^ f.width := by
  rw [State.rd, State.reg_wr_same hf, bitsOf_setBitsOf]

/-- A field of another register, or other bits of the same one, stay. -/
theorem State.rd_wr {f g : Fld} {v n i m j : Nat}
    (h : g.key m j ≠ f.key n i ∨ (f.lo + f.width ≤ 32 ∧ (g.lo + g.width ≤ f.lo ∨ f.lo + f.width ≤ g.lo))) :
    (s.wr f v n i).rd g m j = s.rd g m j := by
  by_cases hk : g.key m j = f.key n i
  · obtain h | ⟨hf, h⟩ := h
    · exact absurd hk h
    · rw [State.rd, hk, State.reg_wr_same hf, bitsOf_setBitsOf_ne h, State.rd, hk]
  · rw [State.rd, State.reg_wr hk, State.rd]

/-! ### Events -/

/-- The register of `MSX_COUNTS`, which counts messages sent. -/
theorem msxKey : F.MSX_COUNTS_sent.key 0 0 = 0xC1044 := rfl

/-- Registers do not stand in the host interface's part, nor in the outputs. -/
theorem State.reg_host (s : State) (x : HostIf) (j : Nat) : ({ s with host := x } : State).reg j = s.reg j := (rfl)
theorem State.reg_emit (s : State) (o : Out) (j : Nat) : (s.emit o).reg j = s.reg j := (rfl)

/-- Sending a vector changes no register but the message count. -/
theorem State.reg_sendVector {v j : Nat} (h : j ≠ 0xC1044) : (s.sendVector v).reg j = s.reg j := by
  unfold State.sendVector
  split
  · exact State.reg_host ..
  · rw [State.reg_emit, State.bump, State.reg_wr (by rw [msxKey]; exact h), State.reg_host]

theorem State.reg_settleVectors {o : State} {l : List Nat} {j : Nat} (h : j ≠ 0xC1044) :
    (s.settleVectors o l).reg j = s.reg j := by
  unfold State.settleVectors
  split
  · refine keeps_foldl (P := fun t : State => t.reg j = s.reg j) rfl fun t v ht => ?_
    dsimp only
    split
    · rw [State.reg_sendVector h, ht]
    · split
      · exact ht
      · exact ht
  · rfl

/-- Raising events changes no register but IRQ_RAW of the page and the message count. -/
theorem State.reg_raiseMask {p m j : Nat} (h1 : j ≠ p * 0x1000 + 0x10) (h2 : j ≠ 0xC1044) :
    (s.raiseMask p m).reg j = s.reg j := by
  rw [State.raiseMask, State.reg_settleVectors h2, State.reg_setReg, if_neg h1]

theorem State.reg_raise {p b j : Nat} (h1 : j ≠ p * 0x1000 + 0x10) (h2 : j ≠ 0xC1044) : (s.raise p b).reg j = s.reg j :=
  State.reg_raiseMask h1 h2

/-- IRQ_RAW after events occur: their bits set, the others as before (R464). -/
theorem State.raw_raiseMask (s : State) (p m : Nat) :
    (s.raiseMask p m).reg (p * 0x1000 + 0x10) = s.reg (p * 0x1000 + 0x10) ||| BitVec.ofNat 32 m := by
  rw [State.raiseMask, State.reg_settleVectors (by omega), State.reg_setReg, if_pos rfl]

theorem State.raw_raise (s : State) (p b : Nat) :
    (s.raise p b).reg (p * 0x1000 + 0x10) = s.reg (p * 0x1000 + 0x10) ||| BitVec.ofNat 32 (2 ^ b) :=
  State.raw_raiseMask ..

theorem State.reg_clearRaw {p m j : Nat} (h1 : j ≠ p * 0x1000 + 0x10) (h2 : j ≠ 0xC1044) :
    (s.clearRaw p m).reg j = s.reg j := by
  rw [State.clearRaw, State.reg_settleVectors h2, State.reg_setReg, if_neg h1]

theorem State.raw_clearRaw (s : State) (p m : Nat) :
    (s.clearRaw p m).reg (p * 0x1000 + 0x10) = s.reg (p * 0x1000 + 0x10) &&& ~~~ BitVec.ofNat 32 m := by
  rw [State.clearRaw, State.reg_settleVectors (by omega), State.reg_setReg, if_pos rfl]

/-- A register field outside IRQ_RAW and the message count stays when an event occurs. -/
theorem State.rd_raise {f : Fld} {p b n i : Nat} (h1 : f.key n i ≠ p * 0x1000 + 0x10) (h2 : f.key n i ≠ 0xC1044) :
    (s.raise p b).rd f n i = s.rd f n i := by
  rw [State.rd, State.reg_raise h1 h2, State.rd]

theorem State.rd_raiseMask {f : Fld} {p m n i : Nat} (h1 : f.key n i ≠ p * 0x1000 + 0x10) (h2 : f.key n i ≠ 0xC1044) :
    (s.raiseMask p m).rd f n i = s.rd f n i := by
  rw [State.rd, State.reg_raiseMask h1 h2, State.rd]

/-! ### Recorded events -/

theorem bitAt_eq_testBit (v i : Nat) : bitAt v i = v.testBit i := by
  unfold bitAt
  rw [Nat.testBit_eq_decide_div_mod_eq]
  rfl

/-- The event that occurs is recorded. -/
theorem State.raw_raise_self (s : State) (p : Nat) {b : Nat} (hb : b < 32) : (s.raise p b).raw p b = true := by
  rw [State.raw, State.raw_raise, bitAt_eq_testBit, BitVec.toNat_or, Nat.testBit_or, BitVec.toNat_ofNat,
    Nat.mod_eq_of_lt (Nat.pow_lt_pow_right (by omega) hb), Nat.testBit_two_pow_self, Bool.or_true]

/-- An event recorded before stays recorded when another occurs. -/
theorem State.raw_raise_of {p b q c : Nat} (h : s.raw q c = true) : (s.raise p b).raw q c = true := by
  by_cases hq : q = p
  · subst hq
    rw [State.raw, bitAt_eq_testBit] at h ⊢
    rw [State.raw_raise, BitVec.toNat_or, Nat.testBit_or, h, Bool.true_or]
  · rw [State.raw, State.reg_raise (by omega) (by omega)]; exact h

/-- A field write outside IRQ_RAW leaves the recorded events. -/
theorem State.raw_wr {f : Fld} {v n i q c : Nat} (h : q * 0x1000 + 0x10 ≠ f.key n i) : (s.wr f v n i).raw q c = s.raw q c := by
  rw [State.raw, State.reg_wr h, State.raw]

/-- Equal register lists read alike. -/
theorem State.reg_congr {t : State} (h : t.regs = s.regs) (k : Nat) : t.reg k = s.reg k := by rw [State.reg, State.reg, h]
theorem State.rd_congr {t : State} (h : t.regs = s.regs) (f : Fld) (n i : Nat) : t.rd f n i = s.rd f n i := by
  rw [State.rd, State.rd, State.reg_congr h]
theorem State.raw_congr {t : State} (h : t.regs = s.regs) (p b : Nat) : t.raw p b = s.raw p b := by
  rw [State.raw, State.raw, State.reg_congr h]

end Sys2Proof.Machine
end

