-- ==== Sys2Proof/Laws/State.lean ====
section
/-! SUPPORT. What each named update of the state leaves and sets: one lemma per update and field. -/
namespace Sys2Proof.Machine

variable (s : State)

@[simp] theorem State.setReg_live (k : Nat) (v : Word) : (s.setReg k v).live = s.live := (rfl)
@[simp] theorem State.setReg_pend (k : Nat) (v : Word) : (s.setReg k v).pend = s.pend := (rfl)
@[simp] theorem State.setReg_mem (k : Nat) (v : Word) : (s.setReg k v).mem = s.mem := (rfl)
@[simp] theorem State.setReg_eng (k : Nat) (v : Word) : (s.setReg k v).eng = s.eng := (rfl)
@[simp] theorem State.setReg_xrd (k : Nat) (v : Word) : (s.setReg k v).xrd = s.xrd := (rfl)
@[simp] theorem State.setReg_scn (k : Nat) (v : Word) : (s.setReg k v).scn = s.scn := (rfl)
@[simp] theorem State.setReg_chn (k : Nat) (v : Word) : (s.setReg k v).chn = s.chn := (rfl)
@[simp] theorem State.setReg_fab (k : Nat) (v : Word) : (s.setReg k v).fab = s.fab := (rfl)
@[simp] theorem State.setReg_dma (k : Nat) (v : Word) : (s.setReg k v).dma = s.dma := (rfl)
@[simp] theorem State.setReg_que (k : Nat) (v : Word) : (s.setReg k v).que = s.que := (rfl)
@[simp] theorem State.setReg_host (k : Nat) (v : Word) : (s.setReg k v).host = s.host := (rfl)
@[simp] theorem State.setReg_mil (k : Nat) (v : Word) : (s.setReg k v).mil = s.mil := (rfl)
@[simp] theorem State.setReg_net (k : Nat) (v : Word) : (s.setReg k v).net = s.net := (rfl)
@[simp] theorem State.setReg_ports (k : Nat) (v : Word) : (s.setReg k v).ports = s.ports := (rfl)
@[simp] theorem State.setReg_stp (k : Nat) (v : Word) : (s.setReg k v).stp = s.stp := (rfl)
@[simp] theorem State.setReg_nbr (k : Nat) (v : Word) : (s.setReg k v).nbr = s.nbr := (rfl)
@[simp] theorem State.setReg_modes (k : Nat) (v : Word) : (s.setReg k v).modes = s.modes := (rfl)
@[simp] theorem State.setReg_memx (k : Nat) (v : Word) : (s.setReg k v).memx = s.memx := (rfl)
@[simp] theorem State.setReg_boot (k : Nat) (v : Word) : (s.setReg k v).boot = s.boot := (rfl)
@[simp] theorem State.setReg_flt (k : Nat) (v : Word) : (s.setReg k v).flt = s.flt := (rfl)
@[simp] theorem State.setReg_resp (k : Nat) (v : Word) : (s.setReg k v).resp = s.resp := (rfl)
@[simp] theorem State.setReg_out (k : Nat) (v : Word) : (s.setReg k v).out = s.out := (rfl)
@[simp] theorem State.setReg_free (k : Nat) (v : Word) : (s.setReg k v).free = s.free := (rfl)
@[simp] theorem State.setReg_pending (k : Nat) (v : Word) : (s.setReg k v).pending = s.pending := (rfl)
@[simp] theorem State.setLive_regs (k : Nat) (v : Word) : (s.setLive k v).regs = s.regs := (rfl)
@[simp] theorem State.setLive_pend (k : Nat) (v : Word) : (s.setLive k v).pend = s.pend := (rfl)
@[simp] theorem State.setLive_mem (k : Nat) (v : Word) : (s.setLive k v).mem = s.mem := (rfl)
@[simp] theorem State.setLive_eng (k : Nat) (v : Word) : (s.setLive k v).eng = s.eng := (rfl)
@[simp] theorem State.setLive_xrd (k : Nat) (v : Word) : (s.setLive k v).xrd = s.xrd := (rfl)
@[simp] theorem State.setLive_scn (k : Nat) (v : Word) : (s.setLive k v).scn = s.scn := (rfl)
@[simp] theorem State.setLive_chn (k : Nat) (v : Word) : (s.setLive k v).chn = s.chn := (rfl)
@[simp] theorem State.setLive_fab (k : Nat) (v : Word) : (s.setLive k v).fab = s.fab := (rfl)
@[simp] theorem State.setLive_dma (k : Nat) (v : Word) : (s.setLive k v).dma = s.dma := (rfl)
@[simp] theorem State.setLive_que (k : Nat) (v : Word) : (s.setLive k v).que = s.que := (rfl)
@[simp] theorem State.setLive_host (k : Nat) (v : Word) : (s.setLive k v).host = s.host := (rfl)
@[simp] theorem State.setLive_mil (k : Nat) (v : Word) : (s.setLive k v).mil = s.mil := (rfl)
@[simp] theorem State.setLive_net (k : Nat) (v : Word) : (s.setLive k v).net = s.net := (rfl)
@[simp] theorem State.setLive_ports (k : Nat) (v : Word) : (s.setLive k v).ports = s.ports := (rfl)
@[simp] theorem State.setLive_stp (k : Nat) (v : Word) : (s.setLive k v).stp = s.stp := (rfl)
@[simp] theorem State.setLive_nbr (k : Nat) (v : Word) : (s.setLive k v).nbr = s.nbr := (rfl)
@[simp] theorem State.setLive_modes (k : Nat) (v : Word) : (s.setLive k v).modes = s.modes := (rfl)
@[simp] theorem State.setLive_memx (k : Nat) (v : Word) : (s.setLive k v).memx = s.memx := (rfl)
@[simp] theorem State.setLive_boot (k : Nat) (v : Word) : (s.setLive k v).boot = s.boot := (rfl)
@[simp] theorem State.setLive_flt (k : Nat) (v : Word) : (s.setLive k v).flt = s.flt := (rfl)
@[simp] theorem State.setLive_resp (k : Nat) (v : Word) : (s.setLive k v).resp = s.resp := (rfl)
@[simp] theorem State.setLive_out (k : Nat) (v : Word) : (s.setLive k v).out = s.out := (rfl)
@[simp] theorem State.setLive_free (k : Nat) (v : Word) : (s.setLive k v).free = s.free := (rfl)
@[simp] theorem State.setLive_pending (k : Nat) (v : Word) : (s.setLive k v).pending = s.pending := (rfl)
@[simp] theorem State.wr_live (f : Fld) (v n i : Nat) : (s.wr f v n i).live = s.live := (rfl)
@[simp] theorem State.wr_pend (f : Fld) (v n i : Nat) : (s.wr f v n i).pend = s.pend := (rfl)
@[simp] theorem State.wr_mem (f : Fld) (v n i : Nat) : (s.wr f v n i).mem = s.mem := (rfl)
@[simp] theorem State.wr_eng (f : Fld) (v n i : Nat) : (s.wr f v n i).eng = s.eng := (rfl)
@[simp] theorem State.wr_xrd (f : Fld) (v n i : Nat) : (s.wr f v n i).xrd = s.xrd := (rfl)
@[simp] theorem State.wr_scn (f : Fld) (v n i : Nat) : (s.wr f v n i).scn = s.scn := (rfl)
@[simp] theorem State.wr_chn (f : Fld) (v n i : Nat) : (s.wr f v n i).chn = s.chn := (rfl)
@[simp] theorem State.wr_fab (f : Fld) (v n i : Nat) : (s.wr f v n i).fab = s.fab := (rfl)
@[simp] theorem State.wr_dma (f : Fld) (v n i : Nat) : (s.wr f v n i).dma = s.dma := (rfl)
@[simp] theorem State.wr_que (f : Fld) (v n i : Nat) : (s.wr f v n i).que = s.que := (rfl)
@[simp] theorem State.wr_host (f : Fld) (v n i : Nat) : (s.wr f v n i).host = s.host := (rfl)
@[simp] theorem State.wr_mil (f : Fld) (v n i : Nat) : (s.wr f v n i).mil = s.mil := (rfl)
@[simp] theorem State.wr_net (f : Fld) (v n i : Nat) : (s.wr f v n i).net = s.net := (rfl)
@[simp] theorem State.wr_ports (f : Fld) (v n i : Nat) : (s.wr f v n i).ports = s.ports := (rfl)
@[simp] theorem State.wr_stp (f : Fld) (v n i : Nat) : (s.wr f v n i).stp = s.stp := (rfl)
@[simp] theorem State.wr_nbr (f : Fld) (v n i : Nat) : (s.wr f v n i).nbr = s.nbr := (rfl)
@[simp] theorem State.wr_modes (f : Fld) (v n i : Nat) : (s.wr f v n i).modes = s.modes := (rfl)
@[simp] theorem State.wr_memx (f : Fld) (v n i : Nat) : (s.wr f v n i).memx = s.memx := (rfl)
@[simp] theorem State.wr_boot (f : Fld) (v n i : Nat) : (s.wr f v n i).boot = s.boot := (rfl)
@[simp] theorem State.wr_flt (f : Fld) (v n i : Nat) : (s.wr f v n i).flt = s.flt := (rfl)
@[simp] theorem State.wr_resp (f : Fld) (v n i : Nat) : (s.wr f v n i).resp = s.resp := (rfl)
@[simp] theorem State.wr_out (f : Fld) (v n i : Nat) : (s.wr f v n i).out = s.out := (rfl)
@[simp] theorem State.wr_free (f : Fld) (v n i : Nat) : (s.wr f v n i).free = s.free := (rfl)
@[simp] theorem State.wr_pending (f : Fld) (v n i : Nat) : (s.wr f v n i).pending = s.pending := (rfl)
@[simp] theorem State.wrBoth_pend (f : Fld) (v n i : Nat) : (s.wrBoth f v n i).pend = s.pend := (rfl)
@[simp] theorem State.wrBoth_mem (f : Fld) (v n i : Nat) : (s.wrBoth f v n i).mem = s.mem := (rfl)
@[simp] theorem State.wrBoth_eng (f : Fld) (v n i : Nat) : (s.wrBoth f v n i).eng = s.eng := (rfl)
@[simp] theorem State.wrBoth_xrd (f : Fld) (v n i : Nat) : (s.wrBoth f v n i).xrd = s.xrd := (rfl)
@[simp] theorem State.wrBoth_scn (f : Fld) (v n i : Nat) : (s.wrBoth f v n i).scn = s.scn := (rfl)
@[simp] theorem State.wrBoth_chn (f : Fld) (v n i : Nat) : (s.wrBoth f v n i).chn = s.chn := (rfl)
@[simp] theorem State.wrBoth_fab (f : Fld) (v n i : Nat) : (s.wrBoth f v n i).fab = s.fab := (rfl)
@[simp] theorem State.wrBoth_dma (f : Fld) (v n i : Nat) : (s.wrBoth f v n i).dma = s.dma := (rfl)
@[simp] theorem State.wrBoth_que (f : Fld) (v n i : Nat) : (s.wrBoth f v n i).que = s.que := (rfl)
@[simp] theorem State.wrBoth_host (f : Fld) (v n i : Nat) : (s.wrBoth f v n i).host = s.host := (rfl)
@[simp] theorem State.wrBoth_mil (f : Fld) (v n i : Nat) : (s.wrBoth f v n i).mil = s.mil := (rfl)
@[simp] theorem State.wrBoth_net (f : Fld) (v n i : Nat) : (s.wrBoth f v n i).net = s.net := (rfl)
@[simp] theorem State.wrBoth_ports (f : Fld) (v n i : Nat) : (s.wrBoth f v n i).ports = s.ports := (rfl)
@[simp] theorem State.wrBoth_stp (f : Fld) (v n i : Nat) : (s.wrBoth f v n i).stp = s.stp := (rfl)
@[simp] theorem State.wrBoth_nbr (f : Fld) (v n i : Nat) : (s.wrBoth f v n i).nbr = s.nbr := (rfl)
@[simp] theorem State.wrBoth_modes (f : Fld) (v n i : Nat) : (s.wrBoth f v n i).modes = s.modes := (rfl)
@[simp] theorem State.wrBoth_memx (f : Fld) (v n i : Nat) : (s.wrBoth f v n i).memx = s.memx := (rfl)
@[simp] theorem State.wrBoth_boot (f : Fld) (v n i : Nat) : (s.wrBoth f v n i).boot = s.boot := (rfl)
@[simp] theorem State.wrBoth_flt (f : Fld) (v n i : Nat) : (s.wrBoth f v n i).flt = s.flt := (rfl)
@[simp] theorem State.wrBoth_resp (f : Fld) (v n i : Nat) : (s.wrBoth f v n i).resp = s.resp := (rfl)
@[simp] theorem State.wrBoth_out (f : Fld) (v n i : Nat) : (s.wrBoth f v n i).out = s.out := (rfl)
@[simp] theorem State.wrBoth_free (f : Fld) (v n i : Nat) : (s.wrBoth f v n i).free = s.free := (rfl)
@[simp] theorem State.wrBoth_pending (f : Fld) (v n i : Nat) : (s.wrBoth f v n i).pending = s.pending := (rfl)
@[simp] theorem State.bump_live (f : Fld) (k n i : Nat) : (s.bump f k n i).live = s.live := (rfl)
@[simp] theorem State.bump_pend (f : Fld) (k n i : Nat) : (s.bump f k n i).pend = s.pend := (rfl)
@[simp] theorem State.bump_mem (f : Fld) (k n i : Nat) : (s.bump f k n i).mem = s.mem := (rfl)
@[simp] theorem State.bump_eng (f : Fld) (k n i : Nat) : (s.bump f k n i).eng = s.eng := (rfl)
@[simp] theorem State.bump_xrd (f : Fld) (k n i : Nat) : (s.bump f k n i).xrd = s.xrd := (rfl)
@[simp] theorem State.bump_scn (f : Fld) (k n i : Nat) : (s.bump f k n i).scn = s.scn := (rfl)
@[simp] theorem State.bump_chn (f : Fld) (k n i : Nat) : (s.bump f k n i).chn = s.chn := (rfl)
@[simp] theorem State.bump_fab (f : Fld) (k n i : Nat) : (s.bump f k n i).fab = s.fab := (rfl)
@[simp] theorem State.bump_dma (f : Fld) (k n i : Nat) : (s.bump f k n i).dma = s.dma := (rfl)
@[simp] theorem State.bump_que (f : Fld) (k n i : Nat) : (s.bump f k n i).que = s.que := (rfl)
@[simp] theorem State.bump_host (f : Fld) (k n i : Nat) : (s.bump f k n i).host = s.host := (rfl)
@[simp] theorem State.bump_mil (f : Fld) (k n i : Nat) : (s.bump f k n i).mil = s.mil := (rfl)
@[simp] theorem State.bump_net (f : Fld) (k n i : Nat) : (s.bump f k n i).net = s.net := (rfl)
@[simp] theorem State.bump_ports (f : Fld) (k n i : Nat) : (s.bump f k n i).ports = s.ports := (rfl)
@[simp] theorem State.bump_stp (f : Fld) (k n i : Nat) : (s.bump f k n i).stp = s.stp := (rfl)
@[simp] theorem State.bump_nbr (f : Fld) (k n i : Nat) : (s.bump f k n i).nbr = s.nbr := (rfl)
@[simp] theorem State.bump_modes (f : Fld) (k n i : Nat) : (s.bump f k n i).modes = s.modes := (rfl)
@[simp] theorem State.bump_memx (f : Fld) (k n i : Nat) : (s.bump f k n i).memx = s.memx := (rfl)
@[simp] theorem State.bump_boot (f : Fld) (k n i : Nat) : (s.bump f k n i).boot = s.boot := (rfl)
@[simp] theorem State.bump_flt (f : Fld) (k n i : Nat) : (s.bump f k n i).flt = s.flt := (rfl)
@[simp] theorem State.bump_resp (f : Fld) (k n i : Nat) : (s.bump f k n i).resp = s.resp := (rfl)
@[simp] theorem State.bump_out (f : Fld) (k n i : Nat) : (s.bump f k n i).out = s.out := (rfl)
@[simp] theorem State.bump_free (f : Fld) (k n i : Nat) : (s.bump f k n i).free = s.free := (rfl)
@[simp] theorem State.bump_pending (f : Fld) (k n i : Nat) : (s.bump f k n i).pending = s.pending := (rfl)
@[simp] theorem State.peak_live (f : Fld) (v n i : Nat) : (s.peak f v n i).live = s.live := (rfl)
@[simp] theorem State.peak_pend (f : Fld) (v n i : Nat) : (s.peak f v n i).pend = s.pend := (rfl)
@[simp] theorem State.peak_mem (f : Fld) (v n i : Nat) : (s.peak f v n i).mem = s.mem := (rfl)
@[simp] theorem State.peak_eng (f : Fld) (v n i : Nat) : (s.peak f v n i).eng = s.eng := (rfl)
@[simp] theorem State.peak_xrd (f : Fld) (v n i : Nat) : (s.peak f v n i).xrd = s.xrd := (rfl)
@[simp] theorem State.peak_scn (f : Fld) (v n i : Nat) : (s.peak f v n i).scn = s.scn := (rfl)
@[simp] theorem State.peak_chn (f : Fld) (v n i : Nat) : (s.peak f v n i).chn = s.chn := (rfl)
@[simp] theorem State.peak_fab (f : Fld) (v n i : Nat) : (s.peak f v n i).fab = s.fab := (rfl)
@[simp] theorem State.peak_dma (f : Fld) (v n i : Nat) : (s.peak f v n i).dma = s.dma := (rfl)
@[simp] theorem State.peak_que (f : Fld) (v n i : Nat) : (s.peak f v n i).que = s.que := (rfl)
@[simp] theorem State.peak_host (f : Fld) (v n i : Nat) : (s.peak f v n i).host = s.host := (rfl)
@[simp] theorem State.peak_mil (f : Fld) (v n i : Nat) : (s.peak f v n i).mil = s.mil := (rfl)
@[simp] theorem State.peak_net (f : Fld) (v n i : Nat) : (s.peak f v n i).net = s.net := (rfl)
@[simp] theorem State.peak_ports (f : Fld) (v n i : Nat) : (s.peak f v n i).ports = s.ports := (rfl)
@[simp] theorem State.peak_stp (f : Fld) (v n i : Nat) : (s.peak f v n i).stp = s.stp := (rfl)
@[simp] theorem State.peak_nbr (f : Fld) (v n i : Nat) : (s.peak f v n i).nbr = s.nbr := (rfl)
@[simp] theorem State.peak_modes (f : Fld) (v n i : Nat) : (s.peak f v n i).modes = s.modes := (rfl)
@[simp] theorem State.peak_memx (f : Fld) (v n i : Nat) : (s.peak f v n i).memx = s.memx := (rfl)
@[simp] theorem State.peak_boot (f : Fld) (v n i : Nat) : (s.peak f v n i).boot = s.boot := (rfl)
@[simp] theorem State.peak_flt (f : Fld) (v n i : Nat) : (s.peak f v n i).flt = s.flt := (rfl)
@[simp] theorem State.peak_resp (f : Fld) (v n i : Nat) : (s.peak f v n i).resp = s.resp := (rfl)
@[simp] theorem State.peak_out (f : Fld) (v n i : Nat) : (s.peak f v n i).out = s.out := (rfl)
@[simp] theorem State.peak_free (f : Fld) (v n i : Nat) : (s.peak f v n i).free = s.free := (rfl)
@[simp] theorem State.peak_pending (f : Fld) (v n i : Nat) : (s.peak f v n i).pending = s.pending := (rfl)
@[simp] theorem State.setByte_regs (a : Nat) (b : Byte) : (s.setByte a b).regs = s.regs := (rfl)
@[simp] theorem State.setByte_live (a : Nat) (b : Byte) : (s.setByte a b).live = s.live := (rfl)
@[simp] theorem State.setByte_pend (a : Nat) (b : Byte) : (s.setByte a b).pend = s.pend := (rfl)
@[simp] theorem State.setByte_eng (a : Nat) (b : Byte) : (s.setByte a b).eng = s.eng := (rfl)
@[simp] theorem State.setByte_xrd (a : Nat) (b : Byte) : (s.setByte a b).xrd = s.xrd := (rfl)
@[simp] theorem State.setByte_scn (a : Nat) (b : Byte) : (s.setByte a b).scn = s.scn := (rfl)
@[simp] theorem State.setByte_chn (a : Nat) (b : Byte) : (s.setByte a b).chn = s.chn := (rfl)
@[simp] theorem State.setByte_fab (a : Nat) (b : Byte) : (s.setByte a b).fab = s.fab := (rfl)
@[simp] theorem State.setByte_dma (a : Nat) (b : Byte) : (s.setByte a b).dma = s.dma := (rfl)
@[simp] theorem State.setByte_que (a : Nat) (b : Byte) : (s.setByte a b).que = s.que := (rfl)
@[simp] theorem State.setByte_host (a : Nat) (b : Byte) : (s.setByte a b).host = s.host := (rfl)
@[simp] theorem State.setByte_mil (a : Nat) (b : Byte) : (s.setByte a b).mil = s.mil := (rfl)
@[simp] theorem State.setByte_net (a : Nat) (b : Byte) : (s.setByte a b).net = s.net := (rfl)
@[simp] theorem State.setByte_ports (a : Nat) (b : Byte) : (s.setByte a b).ports = s.ports := (rfl)
@[simp] theorem State.setByte_stp (a : Nat) (b : Byte) : (s.setByte a b).stp = s.stp := (rfl)
@[simp] theorem State.setByte_nbr (a : Nat) (b : Byte) : (s.setByte a b).nbr = s.nbr := (rfl)
@[simp] theorem State.setByte_modes (a : Nat) (b : Byte) : (s.setByte a b).modes = s.modes := (rfl)
@[simp] theorem State.setByte_memx (a : Nat) (b : Byte) : (s.setByte a b).memx = s.memx := (rfl)
@[simp] theorem State.setByte_boot (a : Nat) (b : Byte) : (s.setByte a b).boot = s.boot := (rfl)
@[simp] theorem State.setByte_flt (a : Nat) (b : Byte) : (s.setByte a b).flt = s.flt := (rfl)
@[simp] theorem State.setByte_resp (a : Nat) (b : Byte) : (s.setByte a b).resp = s.resp := (rfl)
@[simp] theorem State.setByte_out (a : Nat) (b : Byte) : (s.setByte a b).out = s.out := (rfl)
@[simp] theorem State.setByte_free (a : Nat) (b : Byte) : (s.setByte a b).free = s.free := (rfl)
@[simp] theorem State.setByte_pending (a : Nat) (b : Byte) : (s.setByte a b).pending = s.pending := (rfl)
@[simp] theorem State.emit_regs (o : Out) : (s.emit o).regs = s.regs := (rfl)
@[simp] theorem State.emit_live (o : Out) : (s.emit o).live = s.live := (rfl)
@[simp] theorem State.emit_pend (o : Out) : (s.emit o).pend = s.pend := (rfl)
@[simp] theorem State.emit_mem (o : Out) : (s.emit o).mem = s.mem := (rfl)
@[simp] theorem State.emit_eng (o : Out) : (s.emit o).eng = s.eng := (rfl)
@[simp] theorem State.emit_xrd (o : Out) : (s.emit o).xrd = s.xrd := (rfl)
@[simp] theorem State.emit_scn (o : Out) : (s.emit o).scn = s.scn := (rfl)
@[simp] theorem State.emit_chn (o : Out) : (s.emit o).chn = s.chn := (rfl)
@[simp] theorem State.emit_fab (o : Out) : (s.emit o).fab = s.fab := (rfl)
@[simp] theorem State.emit_dma (o : Out) : (s.emit o).dma = s.dma := (rfl)
@[simp] theorem State.emit_que (o : Out) : (s.emit o).que = s.que := (rfl)
@[simp] theorem State.emit_host (o : Out) : (s.emit o).host = s.host := (rfl)
@[simp] theorem State.emit_mil (o : Out) : (s.emit o).mil = s.mil := (rfl)
@[simp] theorem State.emit_net (o : Out) : (s.emit o).net = s.net := (rfl)
@[simp] theorem State.emit_ports (o : Out) : (s.emit o).ports = s.ports := (rfl)
@[simp] theorem State.emit_stp (o : Out) : (s.emit o).stp = s.stp := (rfl)
@[simp] theorem State.emit_nbr (o : Out) : (s.emit o).nbr = s.nbr := (rfl)
@[simp] theorem State.emit_modes (o : Out) : (s.emit o).modes = s.modes := (rfl)
@[simp] theorem State.emit_memx (o : Out) : (s.emit o).memx = s.memx := (rfl)
@[simp] theorem State.emit_boot (o : Out) : (s.emit o).boot = s.boot := (rfl)
@[simp] theorem State.emit_flt (o : Out) : (s.emit o).flt = s.flt := (rfl)
@[simp] theorem State.emit_resp (o : Out) : (s.emit o).resp = s.resp := (rfl)
@[simp] theorem State.emit_free (o : Out) : (s.emit o).free = s.free := (rfl)
@[simp] theorem State.emit_pending (o : Out) : (s.emit o).pending = s.pending := (rfl)
@[simp] theorem State.emit_out (o : Out) : (s.emit o).out = s.out ++ [o] := rfl
@[simp] theorem State.respond_regs (i : Initiator) (d : Nat) (e : Bool) : (s.respond i d e).regs = s.regs := (rfl)
@[simp] theorem State.respond_live (i : Initiator) (d : Nat) (e : Bool) : (s.respond i d e).live = s.live := (rfl)
@[simp] theorem State.respond_pend (i : Initiator) (d : Nat) (e : Bool) : (s.respond i d e).pend = s.pend := (rfl)
@[simp] theorem State.respond_mem (i : Initiator) (d : Nat) (e : Bool) : (s.respond i d e).mem = s.mem := (rfl)
@[simp] theorem State.respond_eng (i : Initiator) (d : Nat) (e : Bool) : (s.respond i d e).eng = s.eng := (rfl)
@[simp] theorem State.respond_xrd (i : Initiator) (d : Nat) (e : Bool) : (s.respond i d e).xrd = s.xrd := (rfl)
@[simp] theorem State.respond_scn (i : Initiator) (d : Nat) (e : Bool) : (s.respond i d e).scn = s.scn := (rfl)
@[simp] theorem State.respond_chn (i : Initiator) (d : Nat) (e : Bool) : (s.respond i d e).chn = s.chn := (rfl)
@[simp] theorem State.respond_fab (i : Initiator) (d : Nat) (e : Bool) : (s.respond i d e).fab = s.fab := (rfl)
@[simp] theorem State.respond_dma (i : Initiator) (d : Nat) (e : Bool) : (s.respond i d e).dma = s.dma := (rfl)
@[simp] theorem State.respond_que (i : Initiator) (d : Nat) (e : Bool) : (s.respond i d e).que = s.que := (rfl)
@[simp] theorem State.respond_host (i : Initiator) (d : Nat) (e : Bool) : (s.respond i d e).host = s.host := (rfl)
@[simp] theorem State.respond_mil (i : Initiator) (d : Nat) (e : Bool) : (s.respond i d e).mil = s.mil := (rfl)
@[simp] theorem State.respond_net (i : Initiator) (d : Nat) (e : Bool) : (s.respond i d e).net = s.net := (rfl)
@[simp] theorem State.respond_ports (i : Initiator) (d : Nat) (e : Bool) : (s.respond i d e).ports = s.ports := (rfl)
@[simp] theorem State.respond_stp (i : Initiator) (d : Nat) (e : Bool) : (s.respond i d e).stp = s.stp := (rfl)
@[simp] theorem State.respond_nbr (i : Initiator) (d : Nat) (e : Bool) : (s.respond i d e).nbr = s.nbr := (rfl)
@[simp] theorem State.respond_modes (i : Initiator) (d : Nat) (e : Bool) : (s.respond i d e).modes = s.modes := (rfl)
@[simp] theorem State.respond_memx (i : Initiator) (d : Nat) (e : Bool) : (s.respond i d e).memx = s.memx := (rfl)
@[simp] theorem State.respond_boot (i : Initiator) (d : Nat) (e : Bool) : (s.respond i d e).boot = s.boot := (rfl)
@[simp] theorem State.respond_flt (i : Initiator) (d : Nat) (e : Bool) : (s.respond i d e).flt = s.flt := (rfl)
@[simp] theorem State.respond_out (i : Initiator) (d : Nat) (e : Bool) : (s.respond i d e).out = s.out := (rfl)
@[simp] theorem State.respond_free (i : Initiator) (d : Nat) (e : Bool) : (s.respond i d e).free = s.free := (rfl)
@[simp] theorem State.respond_pending (i : Initiator) (d : Nat) (e : Bool) : (s.respond i d e).pending = s.pending := (rfl)
@[simp] theorem State.respond_resp (i : Initiator) (d : Nat) (e : Bool) : (s.respond i d e).resp = some ⟨i, d, e⟩ := rfl
@[simp] theorem State.useFree_regs (k : Nat) : (s.useFree k).regs = s.regs := (rfl)
@[simp] theorem State.useFree_live (k : Nat) : (s.useFree k).live = s.live := (rfl)
@[simp] theorem State.useFree_pend (k : Nat) : (s.useFree k).pend = s.pend := (rfl)
@[simp] theorem State.useFree_mem (k : Nat) : (s.useFree k).mem = s.mem := (rfl)
@[simp] theorem State.useFree_eng (k : Nat) : (s.useFree k).eng = s.eng := (rfl)
@[simp] theorem State.useFree_xrd (k : Nat) : (s.useFree k).xrd = s.xrd := (rfl)
@[simp] theorem State.useFree_scn (k : Nat) : (s.useFree k).scn = s.scn := (rfl)
@[simp] theorem State.useFree_chn (k : Nat) : (s.useFree k).chn = s.chn := (rfl)
@[simp] theorem State.useFree_fab (k : Nat) : (s.useFree k).fab = s.fab := (rfl)
@[simp] theorem State.useFree_dma (k : Nat) : (s.useFree k).dma = s.dma := (rfl)
@[simp] theorem State.useFree_que (k : Nat) : (s.useFree k).que = s.que := (rfl)
@[simp] theorem State.useFree_host (k : Nat) : (s.useFree k).host = s.host := (rfl)
@[simp] theorem State.useFree_mil (k : Nat) : (s.useFree k).mil = s.mil := (rfl)
@[simp] theorem State.useFree_net (k : Nat) : (s.useFree k).net = s.net := (rfl)
@[simp] theorem State.useFree_ports (k : Nat) : (s.useFree k).ports = s.ports := (rfl)
@[simp] theorem State.useFree_stp (k : Nat) : (s.useFree k).stp = s.stp := (rfl)
@[simp] theorem State.useFree_nbr (k : Nat) : (s.useFree k).nbr = s.nbr := (rfl)
@[simp] theorem State.useFree_modes (k : Nat) : (s.useFree k).modes = s.modes := (rfl)
@[simp] theorem State.useFree_memx (k : Nat) : (s.useFree k).memx = s.memx := (rfl)
@[simp] theorem State.useFree_boot (k : Nat) : (s.useFree k).boot = s.boot := (rfl)
@[simp] theorem State.useFree_flt (k : Nat) : (s.useFree k).flt = s.flt := (rfl)
@[simp] theorem State.useFree_resp (k : Nat) : (s.useFree k).resp = s.resp := (rfl)
@[simp] theorem State.useFree_out (k : Nat) : (s.useFree k).out = s.out := (rfl)
@[simp] theorem State.useFree_pending (k : Nat) : (s.useFree k).pending = s.pending := (rfl)
@[simp] theorem State.useFree_free (k : Nat) : (s.useFree k).free = s.free + k := rfl
@[simp] theorem State.setQueue_regs (q : Nat) (l : List DWord) : (s.setQueue q l).regs = s.regs := (rfl)
@[simp] theorem State.setQueue_live (q : Nat) (l : List DWord) : (s.setQueue q l).live = s.live := (rfl)
@[simp] theorem State.setQueue_pend (q : Nat) (l : List DWord) : (s.setQueue q l).pend = s.pend := (rfl)
@[simp] theorem State.setQueue_mem (q : Nat) (l : List DWord) : (s.setQueue q l).mem = s.mem := (rfl)
@[simp] theorem State.setQueue_eng (q : Nat) (l : List DWord) : (s.setQueue q l).eng = s.eng := (rfl)
@[simp] theorem State.setQueue_xrd (q : Nat) (l : List DWord) : (s.setQueue q l).xrd = s.xrd := (rfl)
@[simp] theorem State.setQueue_scn (q : Nat) (l : List DWord) : (s.setQueue q l).scn = s.scn := (rfl)
@[simp] theorem State.setQueue_chn (q : Nat) (l : List DWord) : (s.setQueue q l).chn = s.chn := (rfl)
@[simp] theorem State.setQueue_fab (q : Nat) (l : List DWord) : (s.setQueue q l).fab = s.fab := (rfl)
@[simp] theorem State.setQueue_dma (q : Nat) (l : List DWord) : (s.setQueue q l).dma = s.dma := (rfl)
@[simp] theorem State.setQueue_host (q : Nat) (l : List DWord) : (s.setQueue q l).host = s.host := (rfl)
@[simp] theorem State.setQueue_mil (q : Nat) (l : List DWord) : (s.setQueue q l).mil = s.mil := (rfl)
@[simp] theorem State.setQueue_net (q : Nat) (l : List DWord) : (s.setQueue q l).net = s.net := (rfl)
@[simp] theorem State.setQueue_ports (q : Nat) (l : List DWord) : (s.setQueue q l).ports = s.ports := (rfl)
@[simp] theorem State.setQueue_stp (q : Nat) (l : List DWord) : (s.setQueue q l).stp = s.stp := (rfl)
@[simp] theorem State.setQueue_nbr (q : Nat) (l : List DWord) : (s.setQueue q l).nbr = s.nbr := (rfl)
@[simp] theorem State.setQueue_modes (q : Nat) (l : List DWord) : (s.setQueue q l).modes = s.modes := (rfl)
@[simp] theorem State.setQueue_memx (q : Nat) (l : List DWord) : (s.setQueue q l).memx = s.memx := (rfl)
@[simp] theorem State.setQueue_boot (q : Nat) (l : List DWord) : (s.setQueue q l).boot = s.boot := (rfl)
@[simp] theorem State.setQueue_flt (q : Nat) (l : List DWord) : (s.setQueue q l).flt = s.flt := (rfl)
@[simp] theorem State.setQueue_resp (q : Nat) (l : List DWord) : (s.setQueue q l).resp = s.resp := (rfl)
@[simp] theorem State.setQueue_out (q : Nat) (l : List DWord) : (s.setQueue q l).out = s.out := (rfl)
@[simp] theorem State.setQueue_free (q : Nat) (l : List DWord) : (s.setQueue q l).free = s.free := (rfl)
@[simp] theorem State.setQueue_pending (q : Nat) (l : List DWord) : (s.setQueue q l).pending = s.pending := (rfl)
@[simp] theorem State.modEng_regs (f : Eng → Eng) : (s.modEng f).regs = s.regs := (rfl)
@[simp] theorem State.modEng_live (f : Eng → Eng) : (s.modEng f).live = s.live := (rfl)
@[simp] theorem State.modEng_pend (f : Eng → Eng) : (s.modEng f).pend = s.pend := (rfl)
@[simp] theorem State.modEng_mem (f : Eng → Eng) : (s.modEng f).mem = s.mem := (rfl)
@[simp] theorem State.modEng_xrd (f : Eng → Eng) : (s.modEng f).xrd = s.xrd := (rfl)
@[simp] theorem State.modEng_scn (f : Eng → Eng) : (s.modEng f).scn = s.scn := (rfl)
@[simp] theorem State.modEng_chn (f : Eng → Eng) : (s.modEng f).chn = s.chn := (rfl)
@[simp] theorem State.modEng_fab (f : Eng → Eng) : (s.modEng f).fab = s.fab := (rfl)
@[simp] theorem State.modEng_dma (f : Eng → Eng) : (s.modEng f).dma = s.dma := (rfl)
@[simp] theorem State.modEng_que (f : Eng → Eng) : (s.modEng f).que = s.que := (rfl)
@[simp] theorem State.modEng_host (f : Eng → Eng) : (s.modEng f).host = s.host := (rfl)
@[simp] theorem State.modEng_mil (f : Eng → Eng) : (s.modEng f).mil = s.mil := (rfl)
@[simp] theorem State.modEng_net (f : Eng → Eng) : (s.modEng f).net = s.net := (rfl)
@[simp] theorem State.modEng_ports (f : Eng → Eng) : (s.modEng f).ports = s.ports := (rfl)
@[simp] theorem State.modEng_stp (f : Eng → Eng) : (s.modEng f).stp = s.stp := (rfl)
@[simp] theorem State.modEng_nbr (f : Eng → Eng) : (s.modEng f).nbr = s.nbr := (rfl)
@[simp] theorem State.modEng_modes (f : Eng → Eng) : (s.modEng f).modes = s.modes := (rfl)
@[simp] theorem State.modEng_memx (f : Eng → Eng) : (s.modEng f).memx = s.memx := (rfl)
@[simp] theorem State.modEng_boot (f : Eng → Eng) : (s.modEng f).boot = s.boot := (rfl)
@[simp] theorem State.modEng_flt (f : Eng → Eng) : (s.modEng f).flt = s.flt := (rfl)
@[simp] theorem State.modEng_resp (f : Eng → Eng) : (s.modEng f).resp = s.resp := (rfl)
@[simp] theorem State.modEng_out (f : Eng → Eng) : (s.modEng f).out = s.out := (rfl)
@[simp] theorem State.modEng_free (f : Eng → Eng) : (s.modEng f).free = s.free := (rfl)
@[simp] theorem State.modEng_pending (f : Eng → Eng) : (s.modEng f).pending = s.pending := (rfl)
@[simp] theorem State.modEng_eng (f : Eng → Eng) : (s.modEng f).eng = f s.eng := (rfl)
@[simp] theorem State.modXrd_regs (f : Xrd → Xrd) : (s.modXrd f).regs = s.regs := (rfl)
@[simp] theorem State.modXrd_live (f : Xrd → Xrd) : (s.modXrd f).live = s.live := (rfl)
@[simp] theorem State.modXrd_pend (f : Xrd → Xrd) : (s.modXrd f).pend = s.pend := (rfl)
@[simp] theorem State.modXrd_mem (f : Xrd → Xrd) : (s.modXrd f).mem = s.mem := (rfl)
@[simp] theorem State.modXrd_eng (f : Xrd → Xrd) : (s.modXrd f).eng = s.eng := (rfl)
@[simp] theorem State.modXrd_scn (f : Xrd → Xrd) : (s.modXrd f).scn = s.scn := (rfl)
@[simp] theorem State.modXrd_chn (f : Xrd → Xrd) : (s.modXrd f).chn = s.chn := (rfl)
@[simp] theorem State.modXrd_fab (f : Xrd → Xrd) : (s.modXrd f).fab = s.fab := (rfl)
@[simp] theorem State.modXrd_dma (f : Xrd → Xrd) : (s.modXrd f).dma = s.dma := (rfl)
@[simp] theorem State.modXrd_que (f : Xrd → Xrd) : (s.modXrd f).que = s.que := (rfl)
@[simp] theorem State.modXrd_host (f : Xrd → Xrd) : (s.modXrd f).host = s.host := (rfl)
@[simp] theorem State.modXrd_mil (f : Xrd → Xrd) : (s.modXrd f).mil = s.mil := (rfl)
@[simp] theorem State.modXrd_net (f : Xrd → Xrd) : (s.modXrd f).net = s.net := (rfl)
@[simp] theorem State.modXrd_ports (f : Xrd → Xrd) : (s.modXrd f).ports = s.ports := (rfl)
@[simp] theorem State.modXrd_stp (f : Xrd → Xrd) : (s.modXrd f).stp = s.stp := (rfl)
@[simp] theorem State.modXrd_nbr (f : Xrd → Xrd) : (s.modXrd f).nbr = s.nbr := (rfl)
@[simp] theorem State.modXrd_modes (f : Xrd → Xrd) : (s.modXrd f).modes = s.modes := (rfl)
@[simp] theorem State.modXrd_memx (f : Xrd → Xrd) : (s.modXrd f).memx = s.memx := (rfl)
@[simp] theorem State.modXrd_boot (f : Xrd → Xrd) : (s.modXrd f).boot = s.boot := (rfl)
@[simp] theorem State.modXrd_flt (f : Xrd → Xrd) : (s.modXrd f).flt = s.flt := (rfl)
@[simp] theorem State.modXrd_resp (f : Xrd → Xrd) : (s.modXrd f).resp = s.resp := (rfl)
@[simp] theorem State.modXrd_out (f : Xrd → Xrd) : (s.modXrd f).out = s.out := (rfl)
@[simp] theorem State.modXrd_free (f : Xrd → Xrd) : (s.modXrd f).free = s.free := (rfl)
@[simp] theorem State.modXrd_pending (f : Xrd → Xrd) : (s.modXrd f).pending = s.pending := (rfl)
@[simp] theorem State.modXrd_xrd (f : Xrd → Xrd) : (s.modXrd f).xrd = f s.xrd := (rfl)
@[simp] theorem State.modScn_regs (f : Scn → Scn) : (s.modScn f).regs = s.regs := (rfl)
@[simp] theorem State.modScn_live (f : Scn → Scn) : (s.modScn f).live = s.live := (rfl)
@[simp] theorem State.modScn_pend (f : Scn → Scn) : (s.modScn f).pend = s.pend := (rfl)
@[simp] theorem State.modScn_mem (f : Scn → Scn) : (s.modScn f).mem = s.mem := (rfl)
@[simp] theorem State.modScn_eng (f : Scn → Scn) : (s.modScn f).eng = s.eng := (rfl)
@[simp] theorem State.modScn_xrd (f : Scn → Scn) : (s.modScn f).xrd = s.xrd := (rfl)
@[simp] theorem State.modScn_chn (f : Scn → Scn) : (s.modScn f).chn = s.chn := (rfl)
@[simp] theorem State.modScn_fab (f : Scn → Scn) : (s.modScn f).fab = s.fab := (rfl)
@[simp] theorem State.modScn_dma (f : Scn → Scn) : (s.modScn f).dma = s.dma := (rfl)
@[simp] theorem State.modScn_que (f : Scn → Scn) : (s.modScn f).que = s.que := (rfl)
@[simp] theorem State.modScn_host (f : Scn → Scn) : (s.modScn f).host = s.host := (rfl)
@[simp] theorem State.modScn_mil (f : Scn → Scn) : (s.modScn f).mil = s.mil := (rfl)
@[simp] theorem State.modScn_net (f : Scn → Scn) : (s.modScn f).net = s.net := (rfl)
@[simp] theorem State.modScn_ports (f : Scn → Scn) : (s.modScn f).ports = s.ports := (rfl)
@[simp] theorem State.modScn_stp (f : Scn → Scn) : (s.modScn f).stp = s.stp := (rfl)
@[simp] theorem State.modScn_nbr (f : Scn → Scn) : (s.modScn f).nbr = s.nbr := (rfl)
@[simp] theorem State.modScn_modes (f : Scn → Scn) : (s.modScn f).modes = s.modes := (rfl)
@[simp] theorem State.modScn_memx (f : Scn → Scn) : (s.modScn f).memx = s.memx := (rfl)
@[simp] theorem State.modScn_boot (f : Scn → Scn) : (s.modScn f).boot = s.boot := (rfl)
@[simp] theorem State.modScn_flt (f : Scn → Scn) : (s.modScn f).flt = s.flt := (rfl)
@[simp] theorem State.modScn_resp (f : Scn → Scn) : (s.modScn f).resp = s.resp := (rfl)
@[simp] theorem State.modScn_out (f : Scn → Scn) : (s.modScn f).out = s.out := (rfl)
@[simp] theorem State.modScn_free (f : Scn → Scn) : (s.modScn f).free = s.free := (rfl)
@[simp] theorem State.modScn_pending (f : Scn → Scn) : (s.modScn f).pending = s.pending := (rfl)
@[simp] theorem State.modScn_scn (f : Scn → Scn) : (s.modScn f).scn = f s.scn := (rfl)
@[simp] theorem State.modChn_regs (f : Chn → Chn) : (s.modChn f).regs = s.regs := (rfl)
@[simp] theorem State.modChn_live (f : Chn → Chn) : (s.modChn f).live = s.live := (rfl)
@[simp] theorem State.modChn_pend (f : Chn → Chn) : (s.modChn f).pend = s.pend := (rfl)
@[simp] theorem State.modChn_mem (f : Chn → Chn) : (s.modChn f).mem = s.mem := (rfl)
@[simp] theorem State.modChn_eng (f : Chn → Chn) : (s.modChn f).eng = s.eng := (rfl)
@[simp] theorem State.modChn_xrd (f : Chn → Chn) : (s.modChn f).xrd = s.xrd := (rfl)
@[simp] theorem State.modChn_scn (f : Chn → Chn) : (s.modChn f).scn = s.scn := (rfl)
@[simp] theorem State.modChn_fab (f : Chn → Chn) : (s.modChn f).fab = s.fab := (rfl)
@[simp] theorem State.modChn_dma (f : Chn → Chn) : (s.modChn f).dma = s.dma := (rfl)
@[simp] theorem State.modChn_que (f : Chn → Chn) : (s.modChn f).que = s.que := (rfl)
@[simp] theorem State.modChn_host (f : Chn → Chn) : (s.modChn f).host = s.host := (rfl)
@[simp] theorem State.modChn_mil (f : Chn → Chn) : (s.modChn f).mil = s.mil := (rfl)
@[simp] theorem State.modChn_net (f : Chn → Chn) : (s.modChn f).net = s.net := (rfl)
@[simp] theorem State.modChn_ports (f : Chn → Chn) : (s.modChn f).ports = s.ports := (rfl)
@[simp] theorem State.modChn_stp (f : Chn → Chn) : (s.modChn f).stp = s.stp := (rfl)
@[simp] theorem State.modChn_nbr (f : Chn → Chn) : (s.modChn f).nbr = s.nbr := (rfl)
@[simp] theorem State.modChn_modes (f : Chn → Chn) : (s.modChn f).modes = s.modes := (rfl)
@[simp] theorem State.modChn_memx (f : Chn → Chn) : (s.modChn f).memx = s.memx := (rfl)
@[simp] theorem State.modChn_boot (f : Chn → Chn) : (s.modChn f).boot = s.boot := (rfl)
@[simp] theorem State.modChn_flt (f : Chn → Chn) : (s.modChn f).flt = s.flt := (rfl)
@[simp] theorem State.modChn_resp (f : Chn → Chn) : (s.modChn f).resp = s.resp := (rfl)
@[simp] theorem State.modChn_out (f : Chn → Chn) : (s.modChn f).out = s.out := (rfl)
@[simp] theorem State.modChn_free (f : Chn → Chn) : (s.modChn f).free = s.free := (rfl)
@[simp] theorem State.modChn_pending (f : Chn → Chn) : (s.modChn f).pending = s.pending := (rfl)
@[simp] theorem State.modChn_chn (f : Chn → Chn) : (s.modChn f).chn = f s.chn := (rfl)
@[simp] theorem State.modFab_regs (f : Fab → Fab) : (s.modFab f).regs = s.regs := (rfl)
@[simp] theorem State.modFab_live (f : Fab → Fab) : (s.modFab f).live = s.live := (rfl)
@[simp] theorem State.modFab_pend (f : Fab → Fab) : (s.modFab f).pend = s.pend := (rfl)
@[simp] theorem State.modFab_mem (f : Fab → Fab) : (s.modFab f).mem = s.mem := (rfl)
@[simp] theorem State.modFab_eng (f : Fab → Fab) : (s.modFab f).eng = s.eng := (rfl)
@[simp] theorem State.modFab_xrd (f : Fab → Fab) : (s.modFab f).xrd = s.xrd := (rfl)
@[simp] theorem State.modFab_scn (f : Fab → Fab) : (s.modFab f).scn = s.scn := (rfl)
@[simp] theorem State.modFab_chn (f : Fab → Fab) : (s.modFab f).chn = s.chn := (rfl)
@[simp] theorem State.modFab_dma (f : Fab → Fab) : (s.modFab f).dma = s.dma := (rfl)
@[simp] theorem State.modFab_que (f : Fab → Fab) : (s.modFab f).que = s.que := (rfl)
@[simp] theorem State.modFab_host (f : Fab → Fab) : (s.modFab f).host = s.host := (rfl)
@[simp] theorem State.modFab_mil (f : Fab → Fab) : (s.modFab f).mil = s.mil := (rfl)
@[simp] theorem State.modFab_net (f : Fab → Fab) : (s.modFab f).net = s.net := (rfl)
@[simp] theorem State.modFab_ports (f : Fab → Fab) : (s.modFab f).ports = s.ports := (rfl)
@[simp] theorem State.modFab_stp (f : Fab → Fab) : (s.modFab f).stp = s.stp := (rfl)
@[simp] theorem State.modFab_nbr (f : Fab → Fab) : (s.modFab f).nbr = s.nbr := (rfl)
@[simp] theorem State.modFab_modes (f : Fab → Fab) : (s.modFab f).modes = s.modes := (rfl)
@[simp] theorem State.modFab_memx (f : Fab → Fab) : (s.modFab f).memx = s.memx := (rfl)
@[simp] theorem State.modFab_boot (f : Fab → Fab) : (s.modFab f).boot = s.boot := (rfl)
@[simp] theorem State.modFab_flt (f : Fab → Fab) : (s.modFab f).flt = s.flt := (rfl)
@[simp] theorem State.modFab_resp (f : Fab → Fab) : (s.modFab f).resp = s.resp := (rfl)
@[simp] theorem State.modFab_out (f : Fab → Fab) : (s.modFab f).out = s.out := (rfl)
@[simp] theorem State.modFab_free (f : Fab → Fab) : (s.modFab f).free = s.free := (rfl)
@[simp] theorem State.modFab_pending (f : Fab → Fab) : (s.modFab f).pending = s.pending := (rfl)
@[simp] theorem State.modFab_fab (f : Fab → Fab) : (s.modFab f).fab = f s.fab := (rfl)
@[simp] theorem State.modQue_regs (f : Que → Que) : (s.modQue f).regs = s.regs := (rfl)
@[simp] theorem State.modQue_live (f : Que → Que) : (s.modQue f).live = s.live := (rfl)
@[simp] theorem State.modQue_pend (f : Que → Que) : (s.modQue f).pend = s.pend := (rfl)
@[simp] theorem State.modQue_mem (f : Que → Que) : (s.modQue f).mem = s.mem := (rfl)
@[simp] theorem State.modQue_eng (f : Que → Que) : (s.modQue f).eng = s.eng := (rfl)
@[simp] theorem State.modQue_xrd (f : Que → Que) : (s.modQue f).xrd = s.xrd := (rfl)
@[simp] theorem State.modQue_scn (f : Que → Que) : (s.modQue f).scn = s.scn := (rfl)
@[simp] theorem State.modQue_chn (f : Que → Que) : (s.modQue f).chn = s.chn := (rfl)
@[simp] theorem State.modQue_fab (f : Que → Que) : (s.modQue f).fab = s.fab := (rfl)
@[simp] theorem State.modQue_dma (f : Que → Que) : (s.modQue f).dma = s.dma := (rfl)
@[simp] theorem State.modQue_host (f : Que → Que) : (s.modQue f).host = s.host := (rfl)
@[simp] theorem State.modQue_mil (f : Que → Que) : (s.modQue f).mil = s.mil := (rfl)
@[simp] theorem State.modQue_net (f : Que → Que) : (s.modQue f).net = s.net := (rfl)
@[simp] theorem State.modQue_ports (f : Que → Que) : (s.modQue f).ports = s.ports := (rfl)
@[simp] theorem State.modQue_stp (f : Que → Que) : (s.modQue f).stp = s.stp := (rfl)
@[simp] theorem State.modQue_nbr (f : Que → Que) : (s.modQue f).nbr = s.nbr := (rfl)
@[simp] theorem State.modQue_modes (f : Que → Que) : (s.modQue f).modes = s.modes := (rfl)
@[simp] theorem State.modQue_memx (f : Que → Que) : (s.modQue f).memx = s.memx := (rfl)
@[simp] theorem State.modQue_boot (f : Que → Que) : (s.modQue f).boot = s.boot := (rfl)
@[simp] theorem State.modQue_flt (f : Que → Que) : (s.modQue f).flt = s.flt := (rfl)
@[simp] theorem State.modQue_resp (f : Que → Que) : (s.modQue f).resp = s.resp := (rfl)
@[simp] theorem State.modQue_out (f : Que → Que) : (s.modQue f).out = s.out := (rfl)
@[simp] theorem State.modQue_free (f : Que → Que) : (s.modQue f).free = s.free := (rfl)
@[simp] theorem State.modQue_pending (f : Que → Que) : (s.modQue f).pending = s.pending := (rfl)
@[simp] theorem State.modQue_que (f : Que → Que) : (s.modQue f).que = f s.que := (rfl)
@[simp] theorem State.modHost_regs (f : HostIf → HostIf) : (s.modHost f).regs = s.regs := (rfl)
@[simp] theorem State.modHost_live (f : HostIf → HostIf) : (s.modHost f).live = s.live := (rfl)
@[simp] theorem State.modHost_pend (f : HostIf → HostIf) : (s.modHost f).pend = s.pend := (rfl)
@[simp] theorem State.modHost_mem (f : HostIf → HostIf) : (s.modHost f).mem = s.mem := (rfl)
@[simp] theorem State.modHost_eng (f : HostIf → HostIf) : (s.modHost f).eng = s.eng := (rfl)
@[simp] theorem State.modHost_xrd (f : HostIf → HostIf) : (s.modHost f).xrd = s.xrd := (rfl)
@[simp] theorem State.modHost_scn (f : HostIf → HostIf) : (s.modHost f).scn = s.scn := (rfl)
@[simp] theorem State.modHost_chn (f : HostIf → HostIf) : (s.modHost f).chn = s.chn := (rfl)
@[simp] theorem State.modHost_fab (f : HostIf → HostIf) : (s.modHost f).fab = s.fab := (rfl)
@[simp] theorem State.modHost_dma (f : HostIf → HostIf) : (s.modHost f).dma = s.dma := (rfl)
@[simp] theorem State.modHost_que (f : HostIf → HostIf) : (s.modHost f).que = s.que := (rfl)
@[simp] theorem State.modHost_mil (f : HostIf → HostIf) : (s.modHost f).mil = s.mil := (rfl)
@[simp] theorem State.modHost_net (f : HostIf → HostIf) : (s.modHost f).net = s.net := (rfl)
@[simp] theorem State.modHost_ports (f : HostIf → HostIf) : (s.modHost f).ports = s.ports := (rfl)
@[simp] theorem State.modHost_stp (f : HostIf → HostIf) : (s.modHost f).stp = s.stp := (rfl)
@[simp] theorem State.modHost_nbr (f : HostIf → HostIf) : (s.modHost f).nbr = s.nbr := (rfl)
@[simp] theorem State.modHost_modes (f : HostIf → HostIf) : (s.modHost f).modes = s.modes := (rfl)
@[simp] theorem State.modHost_memx (f : HostIf → HostIf) : (s.modHost f).memx = s.memx := (rfl)
@[simp] theorem State.modHost_boot (f : HostIf → HostIf) : (s.modHost f).boot = s.boot := (rfl)
@[simp] theorem State.modHost_flt (f : HostIf → HostIf) : (s.modHost f).flt = s.flt := (rfl)
@[simp] theorem State.modHost_resp (f : HostIf → HostIf) : (s.modHost f).resp = s.resp := (rfl)
@[simp] theorem State.modHost_out (f : HostIf → HostIf) : (s.modHost f).out = s.out := (rfl)
@[simp] theorem State.modHost_free (f : HostIf → HostIf) : (s.modHost f).free = s.free := (rfl)
@[simp] theorem State.modHost_pending (f : HostIf → HostIf) : (s.modHost f).pending = s.pending := (rfl)
@[simp] theorem State.modHost_host (f : HostIf → HostIf) : (s.modHost f).host = f s.host := (rfl)
@[simp] theorem State.modMil_regs (f : Mils → Mils) : (s.modMil f).regs = s.regs := (rfl)
@[simp] theorem State.modMil_live (f : Mils → Mils) : (s.modMil f).live = s.live := (rfl)
@[simp] theorem State.modMil_pend (f : Mils → Mils) : (s.modMil f).pend = s.pend := (rfl)
@[simp] theorem State.modMil_mem (f : Mils → Mils) : (s.modMil f).mem = s.mem := (rfl)
@[simp] theorem State.modMil_eng (f : Mils → Mils) : (s.modMil f).eng = s.eng := (rfl)
@[simp] theorem State.modMil_xrd (f : Mils → Mils) : (s.modMil f).xrd = s.xrd := (rfl)
@[simp] theorem State.modMil_scn (f : Mils → Mils) : (s.modMil f).scn = s.scn := (rfl)
@[simp] theorem State.modMil_chn (f : Mils → Mils) : (s.modMil f).chn = s.chn := (rfl)
@[simp] theorem State.modMil_fab (f : Mils → Mils) : (s.modMil f).fab = s.fab := (rfl)
@[simp] theorem State.modMil_dma (f : Mils → Mils) : (s.modMil f).dma = s.dma := (rfl)
@[simp] theorem State.modMil_que (f : Mils → Mils) : (s.modMil f).que = s.que := (rfl)
@[simp] theorem State.modMil_host (f : Mils → Mils) : (s.modMil f).host = s.host := (rfl)
@[simp] theorem State.modMil_net (f : Mils → Mils) : (s.modMil f).net = s.net := (rfl)
@[simp] theorem State.modMil_ports (f : Mils → Mils) : (s.modMil f).ports = s.ports := (rfl)
@[simp] theorem State.modMil_stp (f : Mils → Mils) : (s.modMil f).stp = s.stp := (rfl)
@[simp] theorem State.modMil_nbr (f : Mils → Mils) : (s.modMil f).nbr = s.nbr := (rfl)
@[simp] theorem State.modMil_modes (f : Mils → Mils) : (s.modMil f).modes = s.modes := (rfl)
@[simp] theorem State.modMil_memx (f : Mils → Mils) : (s.modMil f).memx = s.memx := (rfl)
@[simp] theorem State.modMil_boot (f : Mils → Mils) : (s.modMil f).boot = s.boot := (rfl)
@[simp] theorem State.modMil_flt (f : Mils → Mils) : (s.modMil f).flt = s.flt := (rfl)
@[simp] theorem State.modMil_resp (f : Mils → Mils) : (s.modMil f).resp = s.resp := (rfl)
@[simp] theorem State.modMil_out (f : Mils → Mils) : (s.modMil f).out = s.out := (rfl)
@[simp] theorem State.modMil_free (f : Mils → Mils) : (s.modMil f).free = s.free := (rfl)
@[simp] theorem State.modMil_pending (f : Mils → Mils) : (s.modMil f).pending = s.pending := (rfl)
@[simp] theorem State.modMil_mil (f : Mils → Mils) : (s.modMil f).mil = f s.mil := (rfl)
@[simp] theorem State.modNet_regs (f : Net → Net) : (s.modNet f).regs = s.regs := (rfl)
@[simp] theorem State.modNet_live (f : Net → Net) : (s.modNet f).live = s.live := (rfl)
@[simp] theorem State.modNet_pend (f : Net → Net) : (s.modNet f).pend = s.pend := (rfl)
@[simp] theorem State.modNet_mem (f : Net → Net) : (s.modNet f).mem = s.mem := (rfl)
@[simp] theorem State.modNet_eng (f : Net → Net) : (s.modNet f).eng = s.eng := (rfl)
@[simp] theorem State.modNet_xrd (f : Net → Net) : (s.modNet f).xrd = s.xrd := (rfl)
@[simp] theorem State.modNet_scn (f : Net → Net) : (s.modNet f).scn = s.scn := (rfl)
@[simp] theorem State.modNet_chn (f : Net → Net) : (s.modNet f).chn = s.chn := (rfl)
@[simp] theorem State.modNet_fab (f : Net → Net) : (s.modNet f).fab = s.fab := (rfl)
@[simp] theorem State.modNet_dma (f : Net → Net) : (s.modNet f).dma = s.dma := (rfl)
@[simp] theorem State.modNet_que (f : Net → Net) : (s.modNet f).que = s.que := (rfl)
@[simp] theorem State.modNet_host (f : Net → Net) : (s.modNet f).host = s.host := (rfl)
@[simp] theorem State.modNet_mil (f : Net → Net) : (s.modNet f).mil = s.mil := (rfl)
@[simp] theorem State.modNet_ports (f : Net → Net) : (s.modNet f).ports = s.ports := (rfl)
@[simp] theorem State.modNet_stp (f : Net → Net) : (s.modNet f).stp = s.stp := (rfl)
@[simp] theorem State.modNet_nbr (f : Net → Net) : (s.modNet f).nbr = s.nbr := (rfl)
@[simp] theorem State.modNet_modes (f : Net → Net) : (s.modNet f).modes = s.modes := (rfl)
@[simp] theorem State.modNet_memx (f : Net → Net) : (s.modNet f).memx = s.memx := (rfl)
@[simp] theorem State.modNet_boot (f : Net → Net) : (s.modNet f).boot = s.boot := (rfl)
@[simp] theorem State.modNet_flt (f : Net → Net) : (s.modNet f).flt = s.flt := (rfl)
@[simp] theorem State.modNet_resp (f : Net → Net) : (s.modNet f).resp = s.resp := (rfl)
@[simp] theorem State.modNet_out (f : Net → Net) : (s.modNet f).out = s.out := (rfl)
@[simp] theorem State.modNet_free (f : Net → Net) : (s.modNet f).free = s.free := (rfl)
@[simp] theorem State.modNet_pending (f : Net → Net) : (s.modNet f).pending = s.pending := (rfl)
@[simp] theorem State.modNet_net (f : Net → Net) : (s.modNet f).net = f s.net := (rfl)
@[simp] theorem State.modStp_regs (f : Stp → Stp) : (s.modStp f).regs = s.regs := (rfl)
@[simp] theorem State.modStp_live (f : Stp → Stp) : (s.modStp f).live = s.live := (rfl)
@[simp] theorem State.modStp_pend (f : Stp → Stp) : (s.modStp f).pend = s.pend := (rfl)
@[simp] theorem State.modStp_mem (f : Stp → Stp) : (s.modStp f).mem = s.mem := (rfl)
@[simp] theorem State.modStp_eng (f : Stp → Stp) : (s.modStp f).eng = s.eng := (rfl)
@[simp] theorem State.modStp_xrd (f : Stp → Stp) : (s.modStp f).xrd = s.xrd := (rfl)
@[simp] theorem State.modStp_scn (f : Stp → Stp) : (s.modStp f).scn = s.scn := (rfl)
@[simp] theorem State.modStp_chn (f : Stp → Stp) : (s.modStp f).chn = s.chn := (rfl)
@[simp] theorem State.modStp_fab (f : Stp → Stp) : (s.modStp f).fab = s.fab := (rfl)
@[simp] theorem State.modStp_dma (f : Stp → Stp) : (s.modStp f).dma = s.dma := (rfl)
@[simp] theorem State.modStp_que (f : Stp → Stp) : (s.modStp f).que = s.que := (rfl)
@[simp] theorem State.modStp_host (f : Stp → Stp) : (s.modStp f).host = s.host := (rfl)
@[simp] theorem State.modStp_mil (f : Stp → Stp) : (s.modStp f).mil = s.mil := (rfl)
@[simp] theorem State.modStp_net (f : Stp → Stp) : (s.modStp f).net = s.net := (rfl)
@[simp] theorem State.modStp_ports (f : Stp → Stp) : (s.modStp f).ports = s.ports := (rfl)
@[simp] theorem State.modStp_nbr (f : Stp → Stp) : (s.modStp f).nbr = s.nbr := (rfl)
@[simp] theorem State.modStp_modes (f : Stp → Stp) : (s.modStp f).modes = s.modes := (rfl)
@[simp] theorem State.modStp_memx (f : Stp → Stp) : (s.modStp f).memx = s.memx := (rfl)
@[simp] theorem State.modStp_boot (f : Stp → Stp) : (s.modStp f).boot = s.boot := (rfl)
@[simp] theorem State.modStp_flt (f : Stp → Stp) : (s.modStp f).flt = s.flt := (rfl)
@[simp] theorem State.modStp_resp (f : Stp → Stp) : (s.modStp f).resp = s.resp := (rfl)
@[simp] theorem State.modStp_out (f : Stp → Stp) : (s.modStp f).out = s.out := (rfl)
@[simp] theorem State.modStp_free (f : Stp → Stp) : (s.modStp f).free = s.free := (rfl)
@[simp] theorem State.modStp_pending (f : Stp → Stp) : (s.modStp f).pending = s.pending := (rfl)
@[simp] theorem State.modStp_stp (f : Stp → Stp) : (s.modStp f).stp = f s.stp := (rfl)
@[simp] theorem State.modNbr_regs (f : Nbr → Nbr) : (s.modNbr f).regs = s.regs := (rfl)
@[simp] theorem State.modNbr_live (f : Nbr → Nbr) : (s.modNbr f).live = s.live := (rfl)
@[simp] theorem State.modNbr_pend (f : Nbr → Nbr) : (s.modNbr f).pend = s.pend := (rfl)
@[simp] theorem State.modNbr_mem (f : Nbr → Nbr) : (s.modNbr f).mem = s.mem := (rfl)
@[simp] theorem State.modNbr_eng (f : Nbr → Nbr) : (s.modNbr f).eng = s.eng := (rfl)
@[simp] theorem State.modNbr_xrd (f : Nbr → Nbr) : (s.modNbr f).xrd = s.xrd := (rfl)
@[simp] theorem State.modNbr_scn (f : Nbr → Nbr) : (s.modNbr f).scn = s.scn := (rfl)
@[simp] theorem State.modNbr_chn (f : Nbr → Nbr) : (s.modNbr f).chn = s.chn := (rfl)
@[simp] theorem State.modNbr_fab (f : Nbr → Nbr) : (s.modNbr f).fab = s.fab := (rfl)
@[simp] theorem State.modNbr_dma (f : Nbr → Nbr) : (s.modNbr f).dma = s.dma := (rfl)
@[simp] theorem State.modNbr_que (f : Nbr → Nbr) : (s.modNbr f).que = s.que := (rfl)
@[simp] theorem State.modNbr_host (f : Nbr → Nbr) : (s.modNbr f).host = s.host := (rfl)
@[simp] theorem State.modNbr_mil (f : Nbr → Nbr) : (s.modNbr f).mil = s.mil := (rfl)
@[simp] theorem State.modNbr_net (f : Nbr → Nbr) : (s.modNbr f).net = s.net := (rfl)
@[simp] theorem State.modNbr_ports (f : Nbr → Nbr) : (s.modNbr f).ports = s.ports := (rfl)
@[simp] theorem State.modNbr_stp (f : Nbr → Nbr) : (s.modNbr f).stp = s.stp := (rfl)
@[simp] theorem State.modNbr_modes (f : Nbr → Nbr) : (s.modNbr f).modes = s.modes := (rfl)
@[simp] theorem State.modNbr_memx (f : Nbr → Nbr) : (s.modNbr f).memx = s.memx := (rfl)
@[simp] theorem State.modNbr_boot (f : Nbr → Nbr) : (s.modNbr f).boot = s.boot := (rfl)
@[simp] theorem State.modNbr_flt (f : Nbr → Nbr) : (s.modNbr f).flt = s.flt := (rfl)
@[simp] theorem State.modNbr_resp (f : Nbr → Nbr) : (s.modNbr f).resp = s.resp := (rfl)
@[simp] theorem State.modNbr_out (f : Nbr → Nbr) : (s.modNbr f).out = s.out := (rfl)
@[simp] theorem State.modNbr_free (f : Nbr → Nbr) : (s.modNbr f).free = s.free := (rfl)
@[simp] theorem State.modNbr_pending (f : Nbr → Nbr) : (s.modNbr f).pending = s.pending := (rfl)
@[simp] theorem State.modNbr_nbr (f : Nbr → Nbr) : (s.modNbr f).nbr = f s.nbr := (rfl)
@[simp] theorem State.modModes_regs (f : Modes → Modes) : (s.modModes f).regs = s.regs := (rfl)
@[simp] theorem State.modModes_live (f : Modes → Modes) : (s.modModes f).live = s.live := (rfl)
@[simp] theorem State.modModes_pend (f : Modes → Modes) : (s.modModes f).pend = s.pend := (rfl)
@[simp] theorem State.modModes_mem (f : Modes → Modes) : (s.modModes f).mem = s.mem := (rfl)
@[simp] theorem State.modModes_eng (f : Modes → Modes) : (s.modModes f).eng = s.eng := (rfl)
@[simp] theorem State.modModes_xrd (f : Modes → Modes) : (s.modModes f).xrd = s.xrd := (rfl)
@[simp] theorem State.modModes_scn (f : Modes → Modes) : (s.modModes f).scn = s.scn := (rfl)
@[simp] theorem State.modModes_chn (f : Modes → Modes) : (s.modModes f).chn = s.chn := (rfl)
@[simp] theorem State.modModes_fab (f : Modes → Modes) : (s.modModes f).fab = s.fab := (rfl)
@[simp] theorem State.modModes_dma (f : Modes → Modes) : (s.modModes f).dma = s.dma := (rfl)
@[simp] theorem State.modModes_que (f : Modes → Modes) : (s.modModes f).que = s.que := (rfl)
@[simp] theorem State.modModes_host (f : Modes → Modes) : (s.modModes f).host = s.host := (rfl)
@[simp] theorem State.modModes_mil (f : Modes → Modes) : (s.modModes f).mil = s.mil := (rfl)
@[simp] theorem State.modModes_net (f : Modes → Modes) : (s.modModes f).net = s.net := (rfl)
@[simp] theorem State.modModes_ports (f : Modes → Modes) : (s.modModes f).ports = s.ports := (rfl)
@[simp] theorem State.modModes_stp (f : Modes → Modes) : (s.modModes f).stp = s.stp := (rfl)
@[simp] theorem State.modModes_nbr (f : Modes → Modes) : (s.modModes f).nbr = s.nbr := (rfl)
@[simp] theorem State.modModes_memx (f : Modes → Modes) : (s.modModes f).memx = s.memx := (rfl)
@[simp] theorem State.modModes_boot (f : Modes → Modes) : (s.modModes f).boot = s.boot := (rfl)
@[simp] theorem State.modModes_flt (f : Modes → Modes) : (s.modModes f).flt = s.flt := (rfl)
@[simp] theorem State.modModes_resp (f : Modes → Modes) : (s.modModes f).resp = s.resp := (rfl)
@[simp] theorem State.modModes_out (f : Modes → Modes) : (s.modModes f).out = s.out := (rfl)
@[simp] theorem State.modModes_free (f : Modes → Modes) : (s.modModes f).free = s.free := (rfl)
@[simp] theorem State.modModes_pending (f : Modes → Modes) : (s.modModes f).pending = s.pending := (rfl)
@[simp] theorem State.modModes_modes (f : Modes → Modes) : (s.modModes f).modes = f s.modes := (rfl)
@[simp] theorem State.modMemx_regs (f : Memx → Memx) : (s.modMemx f).regs = s.regs := (rfl)
@[simp] theorem State.modMemx_live (f : Memx → Memx) : (s.modMemx f).live = s.live := (rfl)
@[simp] theorem State.modMemx_pend (f : Memx → Memx) : (s.modMemx f).pend = s.pend := (rfl)
@[simp] theorem State.modMemx_mem (f : Memx → Memx) : (s.modMemx f).mem = s.mem := (rfl)
@[simp] theorem State.modMemx_eng (f : Memx → Memx) : (s.modMemx f).eng = s.eng := (rfl)
@[simp] theorem State.modMemx_xrd (f : Memx → Memx) : (s.modMemx f).xrd = s.xrd := (rfl)
@[simp] theorem State.modMemx_scn (f : Memx → Memx) : (s.modMemx f).scn = s.scn := (rfl)
@[simp] theorem State.modMemx_chn (f : Memx → Memx) : (s.modMemx f).chn = s.chn := (rfl)
@[simp] theorem State.modMemx_fab (f : Memx → Memx) : (s.modMemx f).fab = s.fab := (rfl)
@[simp] theorem State.modMemx_dma (f : Memx → Memx) : (s.modMemx f).dma = s.dma := (rfl)
@[simp] theorem State.modMemx_que (f : Memx → Memx) : (s.modMemx f).que = s.que := (rfl)
@[simp] theorem State.modMemx_host (f : Memx → Memx) : (s.modMemx f).host = s.host := (rfl)
@[simp] theorem State.modMemx_mil (f : Memx → Memx) : (s.modMemx f).mil = s.mil := (rfl)
@[simp] theorem State.modMemx_net (f : Memx → Memx) : (s.modMemx f).net = s.net := (rfl)
@[simp] theorem State.modMemx_ports (f : Memx → Memx) : (s.modMemx f).ports = s.ports := (rfl)
@[simp] theorem State.modMemx_stp (f : Memx → Memx) : (s.modMemx f).stp = s.stp := (rfl)
@[simp] theorem State.modMemx_nbr (f : Memx → Memx) : (s.modMemx f).nbr = s.nbr := (rfl)
@[simp] theorem State.modMemx_modes (f : Memx → Memx) : (s.modMemx f).modes = s.modes := (rfl)
@[simp] theorem State.modMemx_boot (f : Memx → Memx) : (s.modMemx f).boot = s.boot := (rfl)
@[simp] theorem State.modMemx_flt (f : Memx → Memx) : (s.modMemx f).flt = s.flt := (rfl)
@[simp] theorem State.modMemx_resp (f : Memx → Memx) : (s.modMemx f).resp = s.resp := (rfl)
@[simp] theorem State.modMemx_out (f : Memx → Memx) : (s.modMemx f).out = s.out := (rfl)
@[simp] theorem State.modMemx_free (f : Memx → Memx) : (s.modMemx f).free = s.free := (rfl)
@[simp] theorem State.modMemx_pending (f : Memx → Memx) : (s.modMemx f).pending = s.pending := (rfl)
@[simp] theorem State.modMemx_memx (f : Memx → Memx) : (s.modMemx f).memx = f s.memx := (rfl)
@[simp] theorem State.modBoot_regs (f : Boot → Boot) : (s.modBoot f).regs = s.regs := (rfl)
@[simp] theorem State.modBoot_live (f : Boot → Boot) : (s.modBoot f).live = s.live := (rfl)
@[simp] theorem State.modBoot_pend (f : Boot → Boot) : (s.modBoot f).pend = s.pend := (rfl)
@[simp] theorem State.modBoot_mem (f : Boot → Boot) : (s.modBoot f).mem = s.mem := (rfl)
@[simp] theorem State.modBoot_eng (f : Boot → Boot) : (s.modBoot f).eng = s.eng := (rfl)
@[simp] theorem State.modBoot_xrd (f : Boot → Boot) : (s.modBoot f).xrd = s.xrd := (rfl)
@[simp] theorem State.modBoot_scn (f : Boot → Boot) : (s.modBoot f).scn = s.scn := (rfl)
@[simp] theorem State.modBoot_chn (f : Boot → Boot) : (s.modBoot f).chn = s.chn := (rfl)
@[simp] theorem State.modBoot_fab (f : Boot → Boot) : (s.modBoot f).fab = s.fab := (rfl)
@[simp] theorem State.modBoot_dma (f : Boot → Boot) : (s.modBoot f).dma = s.dma := (rfl)
@[simp] theorem State.modBoot_que (f : Boot → Boot) : (s.modBoot f).que = s.que := (rfl)
@[simp] theorem State.modBoot_host (f : Boot → Boot) : (s.modBoot f).host = s.host := (rfl)
@[simp] theorem State.modBoot_mil (f : Boot → Boot) : (s.modBoot f).mil = s.mil := (rfl)
@[simp] theorem State.modBoot_net (f : Boot → Boot) : (s.modBoot f).net = s.net := (rfl)
@[simp] theorem State.modBoot_ports (f : Boot → Boot) : (s.modBoot f).ports = s.ports := (rfl)
@[simp] theorem State.modBoot_stp (f : Boot → Boot) : (s.modBoot f).stp = s.stp := (rfl)
@[simp] theorem State.modBoot_nbr (f : Boot → Boot) : (s.modBoot f).nbr = s.nbr := (rfl)
@[simp] theorem State.modBoot_modes (f : Boot → Boot) : (s.modBoot f).modes = s.modes := (rfl)
@[simp] theorem State.modBoot_memx (f : Boot → Boot) : (s.modBoot f).memx = s.memx := (rfl)
@[simp] theorem State.modBoot_flt (f : Boot → Boot) : (s.modBoot f).flt = s.flt := (rfl)
@[simp] theorem State.modBoot_resp (f : Boot → Boot) : (s.modBoot f).resp = s.resp := (rfl)
@[simp] theorem State.modBoot_out (f : Boot → Boot) : (s.modBoot f).out = s.out := (rfl)
@[simp] theorem State.modBoot_free (f : Boot → Boot) : (s.modBoot f).free = s.free := (rfl)
@[simp] theorem State.modBoot_pending (f : Boot → Boot) : (s.modBoot f).pending = s.pending := (rfl)
@[simp] theorem State.modBoot_boot (f : Boot → Boot) : (s.modBoot f).boot = f s.boot := (rfl)
@[simp] theorem State.modFlt_regs (f : Flt → Flt) : (s.modFlt f).regs = s.regs := (rfl)
@[simp] theorem State.modFlt_live (f : Flt → Flt) : (s.modFlt f).live = s.live := (rfl)
@[simp] theorem State.modFlt_pend (f : Flt → Flt) : (s.modFlt f).pend = s.pend := (rfl)
@[simp] theorem State.modFlt_mem (f : Flt → Flt) : (s.modFlt f).mem = s.mem := (rfl)
@[simp] theorem State.modFlt_eng (f : Flt → Flt) : (s.modFlt f).eng = s.eng := (rfl)
@[simp] theorem State.modFlt_xrd (f : Flt → Flt) : (s.modFlt f).xrd = s.xrd := (rfl)
@[simp] theorem State.modFlt_scn (f : Flt → Flt) : (s.modFlt f).scn = s.scn := (rfl)
@[simp] theorem State.modFlt_chn (f : Flt → Flt) : (s.modFlt f).chn = s.chn := (rfl)
@[simp] theorem State.modFlt_fab (f : Flt → Flt) : (s.modFlt f).fab = s.fab := (rfl)
@[simp] theorem State.modFlt_dma (f : Flt → Flt) : (s.modFlt f).dma = s.dma := (rfl)
@[simp] theorem State.modFlt_que (f : Flt → Flt) : (s.modFlt f).que = s.que := (rfl)
@[simp] theorem State.modFlt_host (f : Flt → Flt) : (s.modFlt f).host = s.host := (rfl)
@[simp] theorem State.modFlt_mil (f : Flt → Flt) : (s.modFlt f).mil = s.mil := (rfl)
@[simp] theorem State.modFlt_net (f : Flt → Flt) : (s.modFlt f).net = s.net := (rfl)
@[simp] theorem State.modFlt_ports (f : Flt → Flt) : (s.modFlt f).ports = s.ports := (rfl)
@[simp] theorem State.modFlt_stp (f : Flt → Flt) : (s.modFlt f).stp = s.stp := (rfl)
@[simp] theorem State.modFlt_nbr (f : Flt → Flt) : (s.modFlt f).nbr = s.nbr := (rfl)
@[simp] theorem State.modFlt_modes (f : Flt → Flt) : (s.modFlt f).modes = s.modes := (rfl)
@[simp] theorem State.modFlt_memx (f : Flt → Flt) : (s.modFlt f).memx = s.memx := (rfl)
@[simp] theorem State.modFlt_boot (f : Flt → Flt) : (s.modFlt f).boot = s.boot := (rfl)
@[simp] theorem State.modFlt_resp (f : Flt → Flt) : (s.modFlt f).resp = s.resp := (rfl)
@[simp] theorem State.modFlt_out (f : Flt → Flt) : (s.modFlt f).out = s.out := (rfl)
@[simp] theorem State.modFlt_free (f : Flt → Flt) : (s.modFlt f).free = s.free := (rfl)
@[simp] theorem State.modFlt_pending (f : Flt → Flt) : (s.modFlt f).pending = s.pending := (rfl)
@[simp] theorem State.modFlt_flt (f : Flt → Flt) : (s.modFlt f).flt = f s.flt := (rfl)
@[simp] theorem State.setBytes_regs (a : Nat) (l : List Byte) : (s.setBytes a l).regs = s.regs := (State.setBytes_keeps (Keeps.refl [.mem] s) rfl a l).same .regs rfl
@[simp] theorem State.setBytes_live (a : Nat) (l : List Byte) : (s.setBytes a l).live = s.live := (State.setBytes_keeps (Keeps.refl [.mem] s) rfl a l).same .live rfl
@[simp] theorem State.setBytes_pend (a : Nat) (l : List Byte) : (s.setBytes a l).pend = s.pend := (State.setBytes_keeps (Keeps.refl [.mem] s) rfl a l).same .pend rfl
@[simp] theorem State.setBytes_eng (a : Nat) (l : List Byte) : (s.setBytes a l).eng = s.eng := (State.setBytes_keeps (Keeps.refl [.mem] s) rfl a l).same .eng rfl
@[simp] theorem State.setBytes_xrd (a : Nat) (l : List Byte) : (s.setBytes a l).xrd = s.xrd := (State.setBytes_keeps (Keeps.refl [.mem] s) rfl a l).same .xrd rfl
@[simp] theorem State.setBytes_scn (a : Nat) (l : List Byte) : (s.setBytes a l).scn = s.scn := (State.setBytes_keeps (Keeps.refl [.mem] s) rfl a l).same .scn rfl
@[simp] theorem State.setBytes_chn (a : Nat) (l : List Byte) : (s.setBytes a l).chn = s.chn := (State.setBytes_keeps (Keeps.refl [.mem] s) rfl a l).same .chn rfl
@[simp] theorem State.setBytes_fab (a : Nat) (l : List Byte) : (s.setBytes a l).fab = s.fab := (State.setBytes_keeps (Keeps.refl [.mem] s) rfl a l).same .fab rfl
@[simp] theorem State.setBytes_dma (a : Nat) (l : List Byte) : (s.setBytes a l).dma = s.dma := (State.setBytes_keeps (Keeps.refl [.mem] s) rfl a l).same .dma rfl
@[simp] theorem State.setBytes_que (a : Nat) (l : List Byte) : (s.setBytes a l).que = s.que := (State.setBytes_keeps (Keeps.refl [.mem] s) rfl a l).same .que rfl
@[simp] theorem State.setBytes_host (a : Nat) (l : List Byte) : (s.setBytes a l).host = s.host := (State.setBytes_keeps (Keeps.refl [.mem] s) rfl a l).same .host rfl
@[simp] theorem State.setBytes_mil (a : Nat) (l : List Byte) : (s.setBytes a l).mil = s.mil := (State.setBytes_keeps (Keeps.refl [.mem] s) rfl a l).same .mil rfl
@[simp] theorem State.setBytes_net (a : Nat) (l : List Byte) : (s.setBytes a l).net = s.net := (State.setBytes_keeps (Keeps.refl [.mem] s) rfl a l).same .net rfl
@[simp] theorem State.setBytes_ports (a : Nat) (l : List Byte) : (s.setBytes a l).ports = s.ports := (State.setBytes_keeps (Keeps.refl [.mem] s) rfl a l).same .ports rfl
@[simp] theorem State.setBytes_stp (a : Nat) (l : List Byte) : (s.setBytes a l).stp = s.stp := (State.setBytes_keeps (Keeps.refl [.mem] s) rfl a l).same .stp rfl
@[simp] theorem State.setBytes_nbr (a : Nat) (l : List Byte) : (s.setBytes a l).nbr = s.nbr := (State.setBytes_keeps (Keeps.refl [.mem] s) rfl a l).same .nbr rfl
@[simp] theorem State.setBytes_modes (a : Nat) (l : List Byte) : (s.setBytes a l).modes = s.modes := (State.setBytes_keeps (Keeps.refl [.mem] s) rfl a l).same .modes rfl
@[simp] theorem State.setBytes_memx (a : Nat) (l : List Byte) : (s.setBytes a l).memx = s.memx := (State.setBytes_keeps (Keeps.refl [.mem] s) rfl a l).same .memx rfl
@[simp] theorem State.setBytes_boot (a : Nat) (l : List Byte) : (s.setBytes a l).boot = s.boot := (State.setBytes_keeps (Keeps.refl [.mem] s) rfl a l).same .boot rfl
@[simp] theorem State.setBytes_flt (a : Nat) (l : List Byte) : (s.setBytes a l).flt = s.flt := (State.setBytes_keeps (Keeps.refl [.mem] s) rfl a l).same .flt rfl
@[simp] theorem State.setBytes_resp (a : Nat) (l : List Byte) : (s.setBytes a l).resp = s.resp := (State.setBytes_keeps (Keeps.refl [.mem] s) rfl a l).same .resp rfl
@[simp] theorem State.setBytes_out (a : Nat) (l : List Byte) : (s.setBytes a l).out = s.out := (State.setBytes_keeps (Keeps.refl [.mem] s) rfl a l).same .out rfl
@[simp] theorem State.setBytes_free (a : Nat) (l : List Byte) : (s.setBytes a l).free = s.free := (State.setBytes_keeps (Keeps.refl [.mem] s) rfl a l).same .free rfl
@[simp] theorem State.setBytes_pending (a : Nat) (l : List Byte) : (s.setBytes a l).pending = s.pending := (State.setBytes_keeps (Keeps.refl [.mem] s) rfl a l).same .pending rfl
@[simp] theorem State.store_regs (a n v : Nat) : (s.store a n v).regs = s.regs := (State.store_keeps (Keeps.refl [.mem] s) rfl a n v).same .regs rfl
@[simp] theorem State.store_live (a n v : Nat) : (s.store a n v).live = s.live := (State.store_keeps (Keeps.refl [.mem] s) rfl a n v).same .live rfl
@[simp] theorem State.store_pend (a n v : Nat) : (s.store a n v).pend = s.pend := (State.store_keeps (Keeps.refl [.mem] s) rfl a n v).same .pend rfl
@[simp] theorem State.store_eng (a n v : Nat) : (s.store a n v).eng = s.eng := (State.store_keeps (Keeps.refl [.mem] s) rfl a n v).same .eng rfl
@[simp] theorem State.store_xrd (a n v : Nat) : (s.store a n v).xrd = s.xrd := (State.store_keeps (Keeps.refl [.mem] s) rfl a n v).same .xrd rfl
@[simp] theorem State.store_scn (a n v : Nat) : (s.store a n v).scn = s.scn := (State.store_keeps (Keeps.refl [.mem] s) rfl a n v).same .scn rfl
@[simp] theorem State.store_chn (a n v : Nat) : (s.store a n v).chn = s.chn := (State.store_keeps (Keeps.refl [.mem] s) rfl a n v).same .chn rfl
@[simp] theorem State.store_fab (a n v : Nat) : (s.store a n v).fab = s.fab := (State.store_keeps (Keeps.refl [.mem] s) rfl a n v).same .fab rfl
@[simp] theorem State.store_dma (a n v : Nat) : (s.store a n v).dma = s.dma := (State.store_keeps (Keeps.refl [.mem] s) rfl a n v).same .dma rfl
@[simp] theorem State.store_que (a n v : Nat) : (s.store a n v).que = s.que := (State.store_keeps (Keeps.refl [.mem] s) rfl a n v).same .que rfl
@[simp] theorem State.store_host (a n v : Nat) : (s.store a n v).host = s.host := (State.store_keeps (Keeps.refl [.mem] s) rfl a n v).same .host rfl
@[simp] theorem State.store_mil (a n v : Nat) : (s.store a n v).mil = s.mil := (State.store_keeps (Keeps.refl [.mem] s) rfl a n v).same .mil rfl
@[simp] theorem State.store_net (a n v : Nat) : (s.store a n v).net = s.net := (State.store_keeps (Keeps.refl [.mem] s) rfl a n v).same .net rfl
@[simp] theorem State.store_ports (a n v : Nat) : (s.store a n v).ports = s.ports := (State.store_keeps (Keeps.refl [.mem] s) rfl a n v).same .ports rfl
@[simp] theorem State.store_stp (a n v : Nat) : (s.store a n v).stp = s.stp := (State.store_keeps (Keeps.refl [.mem] s) rfl a n v).same .stp rfl
@[simp] theorem State.store_nbr (a n v : Nat) : (s.store a n v).nbr = s.nbr := (State.store_keeps (Keeps.refl [.mem] s) rfl a n v).same .nbr rfl
@[simp] theorem State.store_modes (a n v : Nat) : (s.store a n v).modes = s.modes := (State.store_keeps (Keeps.refl [.mem] s) rfl a n v).same .modes rfl
@[simp] theorem State.store_memx (a n v : Nat) : (s.store a n v).memx = s.memx := (State.store_keeps (Keeps.refl [.mem] s) rfl a n v).same .memx rfl
@[simp] theorem State.store_boot (a n v : Nat) : (s.store a n v).boot = s.boot := (State.store_keeps (Keeps.refl [.mem] s) rfl a n v).same .boot rfl
@[simp] theorem State.store_flt (a n v : Nat) : (s.store a n v).flt = s.flt := (State.store_keeps (Keeps.refl [.mem] s) rfl a n v).same .flt rfl
@[simp] theorem State.store_resp (a n v : Nat) : (s.store a n v).resp = s.resp := (State.store_keeps (Keeps.refl [.mem] s) rfl a n v).same .resp rfl
@[simp] theorem State.store_out (a n v : Nat) : (s.store a n v).out = s.out := (State.store_keeps (Keeps.refl [.mem] s) rfl a n v).same .out rfl
@[simp] theorem State.store_free (a n v : Nat) : (s.store a n v).free = s.free := (State.store_keeps (Keeps.refl [.mem] s) rfl a n v).same .free rfl
@[simp] theorem State.store_pending (a n v : Nat) : (s.store a n v).pending = s.pending := (State.store_keeps (Keeps.refl [.mem] s) rfl a n v).same .pending rfl
@[simp] theorem State.sendVector_live (v : Nat) : (s.sendVector v).live = s.live := (State.sendVector_keeps (Keeps.refl [.regs, .host, .out] s) rfl v).same .live rfl
@[simp] theorem State.sendVector_pend (v : Nat) : (s.sendVector v).pend = s.pend := (State.sendVector_keeps (Keeps.refl [.regs, .host, .out] s) rfl v).same .pend rfl
@[simp] theorem State.sendVector_mem (v : Nat) : (s.sendVector v).mem = s.mem := (State.sendVector_keeps (Keeps.refl [.regs, .host, .out] s) rfl v).same .mem rfl
@[simp] theorem State.sendVector_eng (v : Nat) : (s.sendVector v).eng = s.eng := (State.sendVector_keeps (Keeps.refl [.regs, .host, .out] s) rfl v).same .eng rfl
@[simp] theorem State.sendVector_xrd (v : Nat) : (s.sendVector v).xrd = s.xrd := (State.sendVector_keeps (Keeps.refl [.regs, .host, .out] s) rfl v).same .xrd rfl
@[simp] theorem State.sendVector_scn (v : Nat) : (s.sendVector v).scn = s.scn := (State.sendVector_keeps (Keeps.refl [.regs, .host, .out] s) rfl v).same .scn rfl
@[simp] theorem State.sendVector_chn (v : Nat) : (s.sendVector v).chn = s.chn := (State.sendVector_keeps (Keeps.refl [.regs, .host, .out] s) rfl v).same .chn rfl
@[simp] theorem State.sendVector_fab (v : Nat) : (s.sendVector v).fab = s.fab := (State.sendVector_keeps (Keeps.refl [.regs, .host, .out] s) rfl v).same .fab rfl
@[simp] theorem State.sendVector_dma (v : Nat) : (s.sendVector v).dma = s.dma := (State.sendVector_keeps (Keeps.refl [.regs, .host, .out] s) rfl v).same .dma rfl
@[simp] theorem State.sendVector_que (v : Nat) : (s.sendVector v).que = s.que := (State.sendVector_keeps (Keeps.refl [.regs, .host, .out] s) rfl v).same .que rfl
@[simp] theorem State.sendVector_mil (v : Nat) : (s.sendVector v).mil = s.mil := (State.sendVector_keeps (Keeps.refl [.regs, .host, .out] s) rfl v).same .mil rfl
@[simp] theorem State.sendVector_net (v : Nat) : (s.sendVector v).net = s.net := (State.sendVector_keeps (Keeps.refl [.regs, .host, .out] s) rfl v).same .net rfl
@[simp] theorem State.sendVector_ports (v : Nat) : (s.sendVector v).ports = s.ports := (State.sendVector_keeps (Keeps.refl [.regs, .host, .out] s) rfl v).same .ports rfl
@[simp] theorem State.sendVector_stp (v : Nat) : (s.sendVector v).stp = s.stp := (State.sendVector_keeps (Keeps.refl [.regs, .host, .out] s) rfl v).same .stp rfl
@[simp] theorem State.sendVector_nbr (v : Nat) : (s.sendVector v).nbr = s.nbr := (State.sendVector_keeps (Keeps.refl [.regs, .host, .out] s) rfl v).same .nbr rfl
@[simp] theorem State.sendVector_modes (v : Nat) : (s.sendVector v).modes = s.modes := (State.sendVector_keeps (Keeps.refl [.regs, .host, .out] s) rfl v).same .modes rfl
@[simp] theorem State.sendVector_memx (v : Nat) : (s.sendVector v).memx = s.memx := (State.sendVector_keeps (Keeps.refl [.regs, .host, .out] s) rfl v).same .memx rfl
@[simp] theorem State.sendVector_boot (v : Nat) : (s.sendVector v).boot = s.boot := (State.sendVector_keeps (Keeps.refl [.regs, .host, .out] s) rfl v).same .boot rfl
@[simp] theorem State.sendVector_flt (v : Nat) : (s.sendVector v).flt = s.flt := (State.sendVector_keeps (Keeps.refl [.regs, .host, .out] s) rfl v).same .flt rfl
@[simp] theorem State.sendVector_resp (v : Nat) : (s.sendVector v).resp = s.resp := (State.sendVector_keeps (Keeps.refl [.regs, .host, .out] s) rfl v).same .resp rfl
@[simp] theorem State.sendVector_free (v : Nat) : (s.sendVector v).free = s.free := (State.sendVector_keeps (Keeps.refl [.regs, .host, .out] s) rfl v).same .free rfl
@[simp] theorem State.sendVector_pending (v : Nat) : (s.sendVector v).pending = s.pending := (State.sendVector_keeps (Keeps.refl [.regs, .host, .out] s) rfl v).same .pending rfl
@[simp] theorem State.settleVectors_live (o : State) (l : List Nat) : (s.settleVectors o l).live = s.live := (State.settleVectors_keeps (Keeps.refl [.regs, .host, .out] s) rfl o l).same .live rfl
@[simp] theorem State.settleVectors_pend (o : State) (l : List Nat) : (s.settleVectors o l).pend = s.pend := (State.settleVectors_keeps (Keeps.refl [.regs, .host, .out] s) rfl o l).same .pend rfl
@[simp] theorem State.settleVectors_mem (o : State) (l : List Nat) : (s.settleVectors o l).mem = s.mem := (State.settleVectors_keeps (Keeps.refl [.regs, .host, .out] s) rfl o l).same .mem rfl
@[simp] theorem State.settleVectors_eng (o : State) (l : List Nat) : (s.settleVectors o l).eng = s.eng := (State.settleVectors_keeps (Keeps.refl [.regs, .host, .out] s) rfl o l).same .eng rfl
@[simp] theorem State.settleVectors_xrd (o : State) (l : List Nat) : (s.settleVectors o l).xrd = s.xrd := (State.settleVectors_keeps (Keeps.refl [.regs, .host, .out] s) rfl o l).same .xrd rfl
@[simp] theorem State.settleVectors_scn (o : State) (l : List Nat) : (s.settleVectors o l).scn = s.scn := (State.settleVectors_keeps (Keeps.refl [.regs, .host, .out] s) rfl o l).same .scn rfl
@[simp] theorem State.settleVectors_chn (o : State) (l : List Nat) : (s.settleVectors o l).chn = s.chn := (State.settleVectors_keeps (Keeps.refl [.regs, .host, .out] s) rfl o l).same .chn rfl
@[simp] theorem State.settleVectors_fab (o : State) (l : List Nat) : (s.settleVectors o l).fab = s.fab := (State.settleVectors_keeps (Keeps.refl [.regs, .host, .out] s) rfl o l).same .fab rfl
@[simp] theorem State.settleVectors_dma (o : State) (l : List Nat) : (s.settleVectors o l).dma = s.dma := (State.settleVectors_keeps (Keeps.refl [.regs, .host, .out] s) rfl o l).same .dma rfl
@[simp] theorem State.settleVectors_que (o : State) (l : List Nat) : (s.settleVectors o l).que = s.que := (State.settleVectors_keeps (Keeps.refl [.regs, .host, .out] s) rfl o l).same .que rfl
@[simp] theorem State.settleVectors_mil (o : State) (l : List Nat) : (s.settleVectors o l).mil = s.mil := (State.settleVectors_keeps (Keeps.refl [.regs, .host, .out] s) rfl o l).same .mil rfl
@[simp] theorem State.settleVectors_net (o : State) (l : List Nat) : (s.settleVectors o l).net = s.net := (State.settleVectors_keeps (Keeps.refl [.regs, .host, .out] s) rfl o l).same .net rfl
@[simp] theorem State.settleVectors_ports (o : State) (l : List Nat) : (s.settleVectors o l).ports = s.ports := (State.settleVectors_keeps (Keeps.refl [.regs, .host, .out] s) rfl o l).same .ports rfl
@[simp] theorem State.settleVectors_stp (o : State) (l : List Nat) : (s.settleVectors o l).stp = s.stp := (State.settleVectors_keeps (Keeps.refl [.regs, .host, .out] s) rfl o l).same .stp rfl
@[simp] theorem State.settleVectors_nbr (o : State) (l : List Nat) : (s.settleVectors o l).nbr = s.nbr := (State.settleVectors_keeps (Keeps.refl [.regs, .host, .out] s) rfl o l).same .nbr rfl
@[simp] theorem State.settleVectors_modes (o : State) (l : List Nat) : (s.settleVectors o l).modes = s.modes := (State.settleVectors_keeps (Keeps.refl [.regs, .host, .out] s) rfl o l).same .modes rfl
@[simp] theorem State.settleVectors_memx (o : State) (l : List Nat) : (s.settleVectors o l).memx = s.memx := (State.settleVectors_keeps (Keeps.refl [.regs, .host, .out] s) rfl o l).same .memx rfl
@[simp] theorem State.settleVectors_boot (o : State) (l : List Nat) : (s.settleVectors o l).boot = s.boot := (State.settleVectors_keeps (Keeps.refl [.regs, .host, .out] s) rfl o l).same .boot rfl
@[simp] theorem State.settleVectors_flt (o : State) (l : List Nat) : (s.settleVectors o l).flt = s.flt := (State.settleVectors_keeps (Keeps.refl [.regs, .host, .out] s) rfl o l).same .flt rfl
@[simp] theorem State.settleVectors_resp (o : State) (l : List Nat) : (s.settleVectors o l).resp = s.resp := (State.settleVectors_keeps (Keeps.refl [.regs, .host, .out] s) rfl o l).same .resp rfl
@[simp] theorem State.settleVectors_free (o : State) (l : List Nat) : (s.settleVectors o l).free = s.free := (State.settleVectors_keeps (Keeps.refl [.regs, .host, .out] s) rfl o l).same .free rfl
@[simp] theorem State.settleVectors_pending (o : State) (l : List Nat) : (s.settleVectors o l).pending = s.pending := (State.settleVectors_keeps (Keeps.refl [.regs, .host, .out] s) rfl o l).same .pending rfl
@[simp] theorem State.raiseMask_live (p m : Nat) : (s.raiseMask p m).live = s.live := (State.raiseMask_keeps (Keeps.refl [.regs, .host, .out] s) rfl p m).same .live rfl
@[simp] theorem State.raiseMask_pend (p m : Nat) : (s.raiseMask p m).pend = s.pend := (State.raiseMask_keeps (Keeps.refl [.regs, .host, .out] s) rfl p m).same .pend rfl
@[simp] theorem State.raiseMask_mem (p m : Nat) : (s.raiseMask p m).mem = s.mem := (State.raiseMask_keeps (Keeps.refl [.regs, .host, .out] s) rfl p m).same .mem rfl
@[simp] theorem State.raiseMask_eng (p m : Nat) : (s.raiseMask p m).eng = s.eng := (State.raiseMask_keeps (Keeps.refl [.regs, .host, .out] s) rfl p m).same .eng rfl
@[simp] theorem State.raiseMask_xrd (p m : Nat) : (s.raiseMask p m).xrd = s.xrd := (State.raiseMask_keeps (Keeps.refl [.regs, .host, .out] s) rfl p m).same .xrd rfl
@[simp] theorem State.raiseMask_scn (p m : Nat) : (s.raiseMask p m).scn = s.scn := (State.raiseMask_keeps (Keeps.refl [.regs, .host, .out] s) rfl p m).same .scn rfl
@[simp] theorem State.raiseMask_chn (p m : Nat) : (s.raiseMask p m).chn = s.chn := (State.raiseMask_keeps (Keeps.refl [.regs, .host, .out] s) rfl p m).same .chn rfl
@[simp] theorem State.raiseMask_fab (p m : Nat) : (s.raiseMask p m).fab = s.fab := (State.raiseMask_keeps (Keeps.refl [.regs, .host, .out] s) rfl p m).same .fab rfl
@[simp] theorem State.raiseMask_dma (p m : Nat) : (s.raiseMask p m).dma = s.dma := (State.raiseMask_keeps (Keeps.refl [.regs, .host, .out] s) rfl p m).same .dma rfl
@[simp] theorem State.raiseMask_que (p m : Nat) : (s.raiseMask p m).que = s.que := (State.raiseMask_keeps (Keeps.refl [.regs, .host, .out] s) rfl p m).same .que rfl
@[simp] theorem State.raiseMask_mil (p m : Nat) : (s.raiseMask p m).mil = s.mil := (State.raiseMask_keeps (Keeps.refl [.regs, .host, .out] s) rfl p m).same .mil rfl
@[simp] theorem State.raiseMask_net (p m : Nat) : (s.raiseMask p m).net = s.net := (State.raiseMask_keeps (Keeps.refl [.regs, .host, .out] s) rfl p m).same .net rfl
@[simp] theorem State.raiseMask_ports (p m : Nat) : (s.raiseMask p m).ports = s.ports := (State.raiseMask_keeps (Keeps.refl [.regs, .host, .out] s) rfl p m).same .ports rfl
@[simp] theorem State.raiseMask_stp (p m : Nat) : (s.raiseMask p m).stp = s.stp := (State.raiseMask_keeps (Keeps.refl [.regs, .host, .out] s) rfl p m).same .stp rfl
@[simp] theorem State.raiseMask_nbr (p m : Nat) : (s.raiseMask p m).nbr = s.nbr := (State.raiseMask_keeps (Keeps.refl [.regs, .host, .out] s) rfl p m).same .nbr rfl
@[simp] theorem State.raiseMask_modes (p m : Nat) : (s.raiseMask p m).modes = s.modes := (State.raiseMask_keeps (Keeps.refl [.regs, .host, .out] s) rfl p m).same .modes rfl
@[simp] theorem State.raiseMask_memx (p m : Nat) : (s.raiseMask p m).memx = s.memx := (State.raiseMask_keeps (Keeps.refl [.regs, .host, .out] s) rfl p m).same .memx rfl
@[simp] theorem State.raiseMask_boot (p m : Nat) : (s.raiseMask p m).boot = s.boot := (State.raiseMask_keeps (Keeps.refl [.regs, .host, .out] s) rfl p m).same .boot rfl
@[simp] theorem State.raiseMask_flt (p m : Nat) : (s.raiseMask p m).flt = s.flt := (State.raiseMask_keeps (Keeps.refl [.regs, .host, .out] s) rfl p m).same .flt rfl
@[simp] theorem State.raiseMask_resp (p m : Nat) : (s.raiseMask p m).resp = s.resp := (State.raiseMask_keeps (Keeps.refl [.regs, .host, .out] s) rfl p m).same .resp rfl
@[simp] theorem State.raiseMask_free (p m : Nat) : (s.raiseMask p m).free = s.free := (State.raiseMask_keeps (Keeps.refl [.regs, .host, .out] s) rfl p m).same .free rfl
@[simp] theorem State.raiseMask_pending (p m : Nat) : (s.raiseMask p m).pending = s.pending := (State.raiseMask_keeps (Keeps.refl [.regs, .host, .out] s) rfl p m).same .pending rfl
@[simp] theorem State.raise_live (p b : Nat) : (s.raise p b).live = s.live := (State.raise_keeps (Keeps.refl [.regs, .host, .out] s) rfl p b).same .live rfl
@[simp] theorem State.raise_pend (p b : Nat) : (s.raise p b).pend = s.pend := (State.raise_keeps (Keeps.refl [.regs, .host, .out] s) rfl p b).same .pend rfl
@[simp] theorem State.raise_mem (p b : Nat) : (s.raise p b).mem = s.mem := (State.raise_keeps (Keeps.refl [.regs, .host, .out] s) rfl p b).same .mem rfl
@[simp] theorem State.raise_eng (p b : Nat) : (s.raise p b).eng = s.eng := (State.raise_keeps (Keeps.refl [.regs, .host, .out] s) rfl p b).same .eng rfl
@[simp] theorem State.raise_xrd (p b : Nat) : (s.raise p b).xrd = s.xrd := (State.raise_keeps (Keeps.refl [.regs, .host, .out] s) rfl p b).same .xrd rfl
@[simp] theorem State.raise_scn (p b : Nat) : (s.raise p b).scn = s.scn := (State.raise_keeps (Keeps.refl [.regs, .host, .out] s) rfl p b).same .scn rfl
@[simp] theorem State.raise_chn (p b : Nat) : (s.raise p b).chn = s.chn := (State.raise_keeps (Keeps.refl [.regs, .host, .out] s) rfl p b).same .chn rfl
@[simp] theorem State.raise_fab (p b : Nat) : (s.raise p b).fab = s.fab := (State.raise_keeps (Keeps.refl [.regs, .host, .out] s) rfl p b).same .fab rfl
@[simp] theorem State.raise_dma (p b : Nat) : (s.raise p b).dma = s.dma := (State.raise_keeps (Keeps.refl [.regs, .host, .out] s) rfl p b).same .dma rfl
@[simp] theorem State.raise_que (p b : Nat) : (s.raise p b).que = s.que := (State.raise_keeps (Keeps.refl [.regs, .host, .out] s) rfl p b).same .que rfl
@[simp] theorem State.raise_mil (p b : Nat) : (s.raise p b).mil = s.mil := (State.raise_keeps (Keeps.refl [.regs, .host, .out] s) rfl p b).same .mil rfl
@[simp] theorem State.raise_net (p b : Nat) : (s.raise p b).net = s.net := (State.raise_keeps (Keeps.refl [.regs, .host, .out] s) rfl p b).same .net rfl
@[simp] theorem State.raise_ports (p b : Nat) : (s.raise p b).ports = s.ports := (State.raise_keeps (Keeps.refl [.regs, .host, .out] s) rfl p b).same .ports rfl
@[simp] theorem State.raise_stp (p b : Nat) : (s.raise p b).stp = s.stp := (State.raise_keeps (Keeps.refl [.regs, .host, .out] s) rfl p b).same .stp rfl
@[simp] theorem State.raise_nbr (p b : Nat) : (s.raise p b).nbr = s.nbr := (State.raise_keeps (Keeps.refl [.regs, .host, .out] s) rfl p b).same .nbr rfl
@[simp] theorem State.raise_modes (p b : Nat) : (s.raise p b).modes = s.modes := (State.raise_keeps (Keeps.refl [.regs, .host, .out] s) rfl p b).same .modes rfl
@[simp] theorem State.raise_memx (p b : Nat) : (s.raise p b).memx = s.memx := (State.raise_keeps (Keeps.refl [.regs, .host, .out] s) rfl p b).same .memx rfl
@[simp] theorem State.raise_boot (p b : Nat) : (s.raise p b).boot = s.boot := (State.raise_keeps (Keeps.refl [.regs, .host, .out] s) rfl p b).same .boot rfl
@[simp] theorem State.raise_flt (p b : Nat) : (s.raise p b).flt = s.flt := (State.raise_keeps (Keeps.refl [.regs, .host, .out] s) rfl p b).same .flt rfl
@[simp] theorem State.raise_resp (p b : Nat) : (s.raise p b).resp = s.resp := (State.raise_keeps (Keeps.refl [.regs, .host, .out] s) rfl p b).same .resp rfl
@[simp] theorem State.raise_free (p b : Nat) : (s.raise p b).free = s.free := (State.raise_keeps (Keeps.refl [.regs, .host, .out] s) rfl p b).same .free rfl
@[simp] theorem State.raise_pending (p b : Nat) : (s.raise p b).pending = s.pending := (State.raise_keeps (Keeps.refl [.regs, .host, .out] s) rfl p b).same .pending rfl
@[simp] theorem State.clearRaw_live (p m : Nat) : (s.clearRaw p m).live = s.live := (State.clearRaw_keeps (Keeps.refl [.regs, .host, .out] s) rfl p m).same .live rfl
@[simp] theorem State.clearRaw_pend (p m : Nat) : (s.clearRaw p m).pend = s.pend := (State.clearRaw_keeps (Keeps.refl [.regs, .host, .out] s) rfl p m).same .pend rfl
@[simp] theorem State.clearRaw_mem (p m : Nat) : (s.clearRaw p m).mem = s.mem := (State.clearRaw_keeps (Keeps.refl [.regs, .host, .out] s) rfl p m).same .mem rfl
@[simp] theorem State.clearRaw_eng (p m : Nat) : (s.clearRaw p m).eng = s.eng := (State.clearRaw_keeps (Keeps.refl [.regs, .host, .out] s) rfl p m).same .eng rfl
@[simp] theorem State.clearRaw_xrd (p m : Nat) : (s.clearRaw p m).xrd = s.xrd := (State.clearRaw_keeps (Keeps.refl [.regs, .host, .out] s) rfl p m).same .xrd rfl
@[simp] theorem State.clearRaw_scn (p m : Nat) : (s.clearRaw p m).scn = s.scn := (State.clearRaw_keeps (Keeps.refl [.regs, .host, .out] s) rfl p m).same .scn rfl
@[simp] theorem State.clearRaw_chn (p m : Nat) : (s.clearRaw p m).chn = s.chn := (State.clearRaw_keeps (Keeps.refl [.regs, .host, .out] s) rfl p m).same .chn rfl
@[simp] theorem State.clearRaw_fab (p m : Nat) : (s.clearRaw p m).fab = s.fab := (State.clearRaw_keeps (Keeps.refl [.regs, .host, .out] s) rfl p m).same .fab rfl
@[simp] theorem State.clearRaw_dma (p m : Nat) : (s.clearRaw p m).dma = s.dma := (State.clearRaw_keeps (Keeps.refl [.regs, .host, .out] s) rfl p m).same .dma rfl
@[simp] theorem State.clearRaw_que (p m : Nat) : (s.clearRaw p m).que = s.que := (State.clearRaw_keeps (Keeps.refl [.regs, .host, .out] s) rfl p m).same .que rfl
@[simp] theorem State.clearRaw_mil (p m : Nat) : (s.clearRaw p m).mil = s.mil := (State.clearRaw_keeps (Keeps.refl [.regs, .host, .out] s) rfl p m).same .mil rfl
@[simp] theorem State.clearRaw_net (p m : Nat) : (s.clearRaw p m).net = s.net := (State.clearRaw_keeps (Keeps.refl [.regs, .host, .out] s) rfl p m).same .net rfl
@[simp] theorem State.clearRaw_ports (p m : Nat) : (s.clearRaw p m).ports = s.ports := (State.clearRaw_keeps (Keeps.refl [.regs, .host, .out] s) rfl p m).same .ports rfl
@[simp] theorem State.clearRaw_stp (p m : Nat) : (s.clearRaw p m).stp = s.stp := (State.clearRaw_keeps (Keeps.refl [.regs, .host, .out] s) rfl p m).same .stp rfl
@[simp] theorem State.clearRaw_nbr (p m : Nat) : (s.clearRaw p m).nbr = s.nbr := (State.clearRaw_keeps (Keeps.refl [.regs, .host, .out] s) rfl p m).same .nbr rfl
@[simp] theorem State.clearRaw_modes (p m : Nat) : (s.clearRaw p m).modes = s.modes := (State.clearRaw_keeps (Keeps.refl [.regs, .host, .out] s) rfl p m).same .modes rfl
@[simp] theorem State.clearRaw_memx (p m : Nat) : (s.clearRaw p m).memx = s.memx := (State.clearRaw_keeps (Keeps.refl [.regs, .host, .out] s) rfl p m).same .memx rfl
@[simp] theorem State.clearRaw_boot (p m : Nat) : (s.clearRaw p m).boot = s.boot := (State.clearRaw_keeps (Keeps.refl [.regs, .host, .out] s) rfl p m).same .boot rfl
@[simp] theorem State.clearRaw_flt (p m : Nat) : (s.clearRaw p m).flt = s.flt := (State.clearRaw_keeps (Keeps.refl [.regs, .host, .out] s) rfl p m).same .flt rfl
@[simp] theorem State.clearRaw_resp (p m : Nat) : (s.clearRaw p m).resp = s.resp := (State.clearRaw_keeps (Keeps.refl [.regs, .host, .out] s) rfl p m).same .resp rfl
@[simp] theorem State.clearRaw_free (p m : Nat) : (s.clearRaw p m).free = s.free := (State.clearRaw_keeps (Keeps.refl [.regs, .host, .out] s) rfl p m).same .free rfl
@[simp] theorem State.clearRaw_pending (p m : Nat) : (s.clearRaw p m).pending = s.pending := (State.clearRaw_keeps (Keeps.refl [.regs, .host, .out] s) rfl p m).same .pending rfl
@[simp] theorem State.markLate_live  : (s.markLate).live = s.live := (State.markLate_keeps (Keeps.refl [.regs, .host, .out] s) rfl ).same .live rfl
@[simp] theorem State.markLate_pend  : (s.markLate).pend = s.pend := (State.markLate_keeps (Keeps.refl [.regs, .host, .out] s) rfl ).same .pend rfl
@[simp] theorem State.markLate_mem  : (s.markLate).mem = s.mem := (State.markLate_keeps (Keeps.refl [.regs, .host, .out] s) rfl ).same .mem rfl
@[simp] theorem State.markLate_eng  : (s.markLate).eng = s.eng := (State.markLate_keeps (Keeps.refl [.regs, .host, .out] s) rfl ).same .eng rfl
@[simp] theorem State.markLate_xrd  : (s.markLate).xrd = s.xrd := (State.markLate_keeps (Keeps.refl [.regs, .host, .out] s) rfl ).same .xrd rfl
@[simp] theorem State.markLate_scn  : (s.markLate).scn = s.scn := (State.markLate_keeps (Keeps.refl [.regs, .host, .out] s) rfl ).same .scn rfl
@[simp] theorem State.markLate_chn  : (s.markLate).chn = s.chn := (State.markLate_keeps (Keeps.refl [.regs, .host, .out] s) rfl ).same .chn rfl
@[simp] theorem State.markLate_fab  : (s.markLate).fab = s.fab := (State.markLate_keeps (Keeps.refl [.regs, .host, .out] s) rfl ).same .fab rfl
@[simp] theorem State.markLate_dma  : (s.markLate).dma = s.dma := (State.markLate_keeps (Keeps.refl [.regs, .host, .out] s) rfl ).same .dma rfl
@[simp] theorem State.markLate_que  : (s.markLate).que = s.que := (State.markLate_keeps (Keeps.refl [.regs, .host, .out] s) rfl ).same .que rfl
@[simp] theorem State.markLate_mil  : (s.markLate).mil = s.mil := (State.markLate_keeps (Keeps.refl [.regs, .host, .out] s) rfl ).same .mil rfl
@[simp] theorem State.markLate_net  : (s.markLate).net = s.net := (State.markLate_keeps (Keeps.refl [.regs, .host, .out] s) rfl ).same .net rfl
@[simp] theorem State.markLate_ports  : (s.markLate).ports = s.ports := (State.markLate_keeps (Keeps.refl [.regs, .host, .out] s) rfl ).same .ports rfl
@[simp] theorem State.markLate_stp  : (s.markLate).stp = s.stp := (State.markLate_keeps (Keeps.refl [.regs, .host, .out] s) rfl ).same .stp rfl
@[simp] theorem State.markLate_nbr  : (s.markLate).nbr = s.nbr := (State.markLate_keeps (Keeps.refl [.regs, .host, .out] s) rfl ).same .nbr rfl
@[simp] theorem State.markLate_modes  : (s.markLate).modes = s.modes := (State.markLate_keeps (Keeps.refl [.regs, .host, .out] s) rfl ).same .modes rfl
@[simp] theorem State.markLate_memx  : (s.markLate).memx = s.memx := (State.markLate_keeps (Keeps.refl [.regs, .host, .out] s) rfl ).same .memx rfl
@[simp] theorem State.markLate_boot  : (s.markLate).boot = s.boot := (State.markLate_keeps (Keeps.refl [.regs, .host, .out] s) rfl ).same .boot rfl
@[simp] theorem State.markLate_flt  : (s.markLate).flt = s.flt := (State.markLate_keeps (Keeps.refl [.regs, .host, .out] s) rfl ).same .flt rfl
@[simp] theorem State.markLate_resp  : (s.markLate).resp = s.resp := (State.markLate_keeps (Keeps.refl [.regs, .host, .out] s) rfl ).same .resp rfl
@[simp] theorem State.markLate_free  : (s.markLate).free = s.free := (State.markLate_keeps (Keeps.refl [.regs, .host, .out] s) rfl ).same .free rfl
@[simp] theorem State.markLate_pending  : (s.markLate).pending = s.pending := (State.markLate_keeps (Keeps.refl [.regs, .host, .out] s) rfl ).same .pending rfl
@[simp] theorem State.nbrSend_regs (c : Nat) (l : List Nat) : (s.nbrSend c l).regs = s.regs := (State.nbrSend_keeps (Keeps.refl [.nbr, .out] s) rfl c l).same .regs rfl
@[simp] theorem State.nbrSend_live (c : Nat) (l : List Nat) : (s.nbrSend c l).live = s.live := (State.nbrSend_keeps (Keeps.refl [.nbr, .out] s) rfl c l).same .live rfl
@[simp] theorem State.nbrSend_pend (c : Nat) (l : List Nat) : (s.nbrSend c l).pend = s.pend := (State.nbrSend_keeps (Keeps.refl [.nbr, .out] s) rfl c l).same .pend rfl
@[simp] theorem State.nbrSend_mem (c : Nat) (l : List Nat) : (s.nbrSend c l).mem = s.mem := (State.nbrSend_keeps (Keeps.refl [.nbr, .out] s) rfl c l).same .mem rfl
@[simp] theorem State.nbrSend_eng (c : Nat) (l : List Nat) : (s.nbrSend c l).eng = s.eng := (State.nbrSend_keeps (Keeps.refl [.nbr, .out] s) rfl c l).same .eng rfl
@[simp] theorem State.nbrSend_xrd (c : Nat) (l : List Nat) : (s.nbrSend c l).xrd = s.xrd := (State.nbrSend_keeps (Keeps.refl [.nbr, .out] s) rfl c l).same .xrd rfl
@[simp] theorem State.nbrSend_scn (c : Nat) (l : List Nat) : (s.nbrSend c l).scn = s.scn := (State.nbrSend_keeps (Keeps.refl [.nbr, .out] s) rfl c l).same .scn rfl
@[simp] theorem State.nbrSend_chn (c : Nat) (l : List Nat) : (s.nbrSend c l).chn = s.chn := (State.nbrSend_keeps (Keeps.refl [.nbr, .out] s) rfl c l).same .chn rfl
@[simp] theorem State.nbrSend_fab (c : Nat) (l : List Nat) : (s.nbrSend c l).fab = s.fab := (State.nbrSend_keeps (Keeps.refl [.nbr, .out] s) rfl c l).same .fab rfl
@[simp] theorem State.nbrSend_dma (c : Nat) (l : List Nat) : (s.nbrSend c l).dma = s.dma := (State.nbrSend_keeps (Keeps.refl [.nbr, .out] s) rfl c l).same .dma rfl
@[simp] theorem State.nbrSend_que (c : Nat) (l : List Nat) : (s.nbrSend c l).que = s.que := (State.nbrSend_keeps (Keeps.refl [.nbr, .out] s) rfl c l).same .que rfl
@[simp] theorem State.nbrSend_host (c : Nat) (l : List Nat) : (s.nbrSend c l).host = s.host := (State.nbrSend_keeps (Keeps.refl [.nbr, .out] s) rfl c l).same .host rfl
@[simp] theorem State.nbrSend_mil (c : Nat) (l : List Nat) : (s.nbrSend c l).mil = s.mil := (State.nbrSend_keeps (Keeps.refl [.nbr, .out] s) rfl c l).same .mil rfl
@[simp] theorem State.nbrSend_net (c : Nat) (l : List Nat) : (s.nbrSend c l).net = s.net := (State.nbrSend_keeps (Keeps.refl [.nbr, .out] s) rfl c l).same .net rfl
@[simp] theorem State.nbrSend_ports (c : Nat) (l : List Nat) : (s.nbrSend c l).ports = s.ports := (State.nbrSend_keeps (Keeps.refl [.nbr, .out] s) rfl c l).same .ports rfl
@[simp] theorem State.nbrSend_stp (c : Nat) (l : List Nat) : (s.nbrSend c l).stp = s.stp := (State.nbrSend_keeps (Keeps.refl [.nbr, .out] s) rfl c l).same .stp rfl
@[simp] theorem State.nbrSend_modes (c : Nat) (l : List Nat) : (s.nbrSend c l).modes = s.modes := (State.nbrSend_keeps (Keeps.refl [.nbr, .out] s) rfl c l).same .modes rfl
@[simp] theorem State.nbrSend_memx (c : Nat) (l : List Nat) : (s.nbrSend c l).memx = s.memx := (State.nbrSend_keeps (Keeps.refl [.nbr, .out] s) rfl c l).same .memx rfl
@[simp] theorem State.nbrSend_boot (c : Nat) (l : List Nat) : (s.nbrSend c l).boot = s.boot := (State.nbrSend_keeps (Keeps.refl [.nbr, .out] s) rfl c l).same .boot rfl
@[simp] theorem State.nbrSend_flt (c : Nat) (l : List Nat) : (s.nbrSend c l).flt = s.flt := (State.nbrSend_keeps (Keeps.refl [.nbr, .out] s) rfl c l).same .flt rfl
@[simp] theorem State.nbrSend_resp (c : Nat) (l : List Nat) : (s.nbrSend c l).resp = s.resp := (State.nbrSend_keeps (Keeps.refl [.nbr, .out] s) rfl c l).same .resp rfl
@[simp] theorem State.nbrSend_free (c : Nat) (l : List Nat) : (s.nbrSend c l).free = s.free := (State.nbrSend_keeps (Keeps.refl [.nbr, .out] s) rfl c l).same .free rfl
@[simp] theorem State.nbrSend_pending (c : Nat) (l : List Nat) : (s.nbrSend c l).pending = s.pending := (State.nbrSend_keeps (Keeps.refl [.nbr, .out] s) rfl c l).same .pending rfl

/-! ### Registers read as before through updates of other parts -/

theorem State.reg_modEng (f : Eng → Eng) (j : Nat) : (s.modEng f).reg j = s.reg j := (rfl)
theorem State.rd_modEng (f : Eng → Eng) (g : Fld) (m j : Nat) : (s.modEng f).rd g m j = s.rd g m j := (rfl)
theorem State.raw_modEng (f : Eng → Eng) (p b : Nat) : (s.modEng f).raw p b = s.raw p b := (rfl)
theorem State.reg_modXrd (f : Xrd → Xrd) (j : Nat) : (s.modXrd f).reg j = s.reg j := (rfl)
theorem State.rd_modXrd (f : Xrd → Xrd) (g : Fld) (m j : Nat) : (s.modXrd f).rd g m j = s.rd g m j := (rfl)
theorem State.raw_modXrd (f : Xrd → Xrd) (p b : Nat) : (s.modXrd f).raw p b = s.raw p b := (rfl)
theorem State.reg_modScn (f : Scn → Scn) (j : Nat) : (s.modScn f).reg j = s.reg j := (rfl)
theorem State.rd_modScn (f : Scn → Scn) (g : Fld) (m j : Nat) : (s.modScn f).rd g m j = s.rd g m j := (rfl)
theorem State.raw_modScn (f : Scn → Scn) (p b : Nat) : (s.modScn f).raw p b = s.raw p b := (rfl)
theorem State.reg_modChn (f : Chn → Chn) (j : Nat) : (s.modChn f).reg j = s.reg j := (rfl)
theorem State.rd_modChn (f : Chn → Chn) (g : Fld) (m j : Nat) : (s.modChn f).rd g m j = s.rd g m j := (rfl)
theorem State.raw_modChn (f : Chn → Chn) (p b : Nat) : (s.modChn f).raw p b = s.raw p b := (rfl)
theorem State.reg_modFab (f : Fab → Fab) (j : Nat) : (s.modFab f).reg j = s.reg j := (rfl)
theorem State.rd_modFab (f : Fab → Fab) (g : Fld) (m j : Nat) : (s.modFab f).rd g m j = s.rd g m j := (rfl)
theorem State.raw_modFab (f : Fab → Fab) (p b : Nat) : (s.modFab f).raw p b = s.raw p b := (rfl)
theorem State.reg_modQue (f : Que → Que) (j : Nat) : (s.modQue f).reg j = s.reg j := (rfl)
theorem State.rd_modQue (f : Que → Que) (g : Fld) (m j : Nat) : (s.modQue f).rd g m j = s.rd g m j := (rfl)
theorem State.raw_modQue (f : Que → Que) (p b : Nat) : (s.modQue f).raw p b = s.raw p b := (rfl)
theorem State.reg_modHost (f : HostIf → HostIf) (j : Nat) : (s.modHost f).reg j = s.reg j := (rfl)
theorem State.rd_modHost (f : HostIf → HostIf) (g : Fld) (m j : Nat) : (s.modHost f).rd g m j = s.rd g m j := (rfl)
theorem State.raw_modHost (f : HostIf → HostIf) (p b : Nat) : (s.modHost f).raw p b = s.raw p b := (rfl)
theorem State.reg_modMil (f : Mils → Mils) (j : Nat) : (s.modMil f).reg j = s.reg j := (rfl)
theorem State.rd_modMil (f : Mils → Mils) (g : Fld) (m j : Nat) : (s.modMil f).rd g m j = s.rd g m j := (rfl)
theorem State.raw_modMil (f : Mils → Mils) (p b : Nat) : (s.modMil f).raw p b = s.raw p b := (rfl)
theorem State.reg_modNet (f : Net → Net) (j : Nat) : (s.modNet f).reg j = s.reg j := (rfl)
theorem State.rd_modNet (f : Net → Net) (g : Fld) (m j : Nat) : (s.modNet f).rd g m j = s.rd g m j := (rfl)
theorem State.raw_modNet (f : Net → Net) (p b : Nat) : (s.modNet f).raw p b = s.raw p b := (rfl)
theorem State.reg_modStp (f : Stp → Stp) (j : Nat) : (s.modStp f).reg j = s.reg j := (rfl)
theorem State.rd_modStp (f : Stp → Stp) (g : Fld) (m j : Nat) : (s.modStp f).rd g m j = s.rd g m j := (rfl)
theorem State.raw_modStp (f : Stp → Stp) (p b : Nat) : (s.modStp f).raw p b = s.raw p b := (rfl)
theorem State.reg_modNbr (f : Nbr → Nbr) (j : Nat) : (s.modNbr f).reg j = s.reg j := (rfl)
theorem State.rd_modNbr (f : Nbr → Nbr) (g : Fld) (m j : Nat) : (s.modNbr f).rd g m j = s.rd g m j := (rfl)
theorem State.raw_modNbr (f : Nbr → Nbr) (p b : Nat) : (s.modNbr f).raw p b = s.raw p b := (rfl)
theorem State.reg_modModes (f : Modes → Modes) (j : Nat) : (s.modModes f).reg j = s.reg j := (rfl)
theorem State.rd_modModes (f : Modes → Modes) (g : Fld) (m j : Nat) : (s.modModes f).rd g m j = s.rd g m j := (rfl)
theorem State.raw_modModes (f : Modes → Modes) (p b : Nat) : (s.modModes f).raw p b = s.raw p b := (rfl)
theorem State.reg_modMemx (f : Memx → Memx) (j : Nat) : (s.modMemx f).reg j = s.reg j := (rfl)
theorem State.rd_modMemx (f : Memx → Memx) (g : Fld) (m j : Nat) : (s.modMemx f).rd g m j = s.rd g m j := (rfl)
theorem State.raw_modMemx (f : Memx → Memx) (p b : Nat) : (s.modMemx f).raw p b = s.raw p b := (rfl)
theorem State.reg_modBoot (f : Boot → Boot) (j : Nat) : (s.modBoot f).reg j = s.reg j := (rfl)
theorem State.rd_modBoot (f : Boot → Boot) (g : Fld) (m j : Nat) : (s.modBoot f).rd g m j = s.rd g m j := (rfl)
theorem State.raw_modBoot (f : Boot → Boot) (p b : Nat) : (s.modBoot f).raw p b = s.raw p b := (rfl)
theorem State.reg_modFlt (f : Flt → Flt) (j : Nat) : (s.modFlt f).reg j = s.reg j := (rfl)
theorem State.rd_modFlt (f : Flt → Flt) (g : Fld) (m j : Nat) : (s.modFlt f).rd g m j = s.rd g m j := (rfl)
theorem State.raw_modFlt (f : Flt → Flt) (p b : Nat) : (s.modFlt f).raw p b = s.raw p b := (rfl)
theorem State.reg_eng (x : Eng) (j : Nat) : (({ s with eng := x } : State)).reg j = s.reg j := (rfl)
theorem State.rd_eng (x : Eng) (g : Fld) (m j : Nat) : (({ s with eng := x } : State)).rd g m j = s.rd g m j := (rfl)
theorem State.raw_eng (x : Eng) (p b : Nat) : (({ s with eng := x } : State)).raw p b = s.raw p b := (rfl)
theorem State.reg_xrd (x : Xrd) (j : Nat) : (({ s with xrd := x } : State)).reg j = s.reg j := (rfl)
theorem State.rd_xrd (x : Xrd) (g : Fld) (m j : Nat) : (({ s with xrd := x } : State)).rd g m j = s.rd g m j := (rfl)
theorem State.raw_xrd (x : Xrd) (p b : Nat) : (({ s with xrd := x } : State)).raw p b = s.raw p b := (rfl)
theorem State.reg_scn (x : Scn) (j : Nat) : (({ s with scn := x } : State)).reg j = s.reg j := (rfl)
theorem State.rd_scn (x : Scn) (g : Fld) (m j : Nat) : (({ s with scn := x } : State)).rd g m j = s.rd g m j := (rfl)
theorem State.raw_scn (x : Scn) (p b : Nat) : (({ s with scn := x } : State)).raw p b = s.raw p b := (rfl)
theorem State.reg_chn (x : Chn) (j : Nat) : (({ s with chn := x } : State)).reg j = s.reg j := (rfl)
theorem State.rd_chn (x : Chn) (g : Fld) (m j : Nat) : (({ s with chn := x } : State)).rd g m j = s.rd g m j := (rfl)
theorem State.raw_chn (x : Chn) (p b : Nat) : (({ s with chn := x } : State)).raw p b = s.raw p b := (rfl)
theorem State.reg_fab (x : Fab) (j : Nat) : (({ s with fab := x } : State)).reg j = s.reg j := (rfl)
theorem State.rd_fab (x : Fab) (g : Fld) (m j : Nat) : (({ s with fab := x } : State)).rd g m j = s.rd g m j := (rfl)
theorem State.raw_fab (x : Fab) (p b : Nat) : (({ s with fab := x } : State)).raw p b = s.raw p b := (rfl)
theorem State.reg_que (x : Que) (j : Nat) : (({ s with que := x } : State)).reg j = s.reg j := (rfl)
theorem State.rd_que (x : Que) (g : Fld) (m j : Nat) : (({ s with que := x } : State)).rd g m j = s.rd g m j := (rfl)
theorem State.raw_que (x : Que) (p b : Nat) : (({ s with que := x } : State)).raw p b = s.raw p b := (rfl)
theorem State.rd_host (x : HostIf) (g : Fld) (m j : Nat) : ({ s with host := x } : State).rd g m j = s.rd g m j := rfl
theorem State.raw_host (x : HostIf) (p b : Nat) : ({ s with host := x } : State).raw p b = s.raw p b := rfl
theorem State.reg_mil (x : Mils) (j : Nat) : (({ s with mil := x } : State)).reg j = s.reg j := (rfl)
theorem State.rd_mil (x : Mils) (g : Fld) (m j : Nat) : (({ s with mil := x } : State)).rd g m j = s.rd g m j := (rfl)
theorem State.raw_mil (x : Mils) (p b : Nat) : (({ s with mil := x } : State)).raw p b = s.raw p b := (rfl)
theorem State.reg_net (x : Net) (j : Nat) : (({ s with net := x } : State)).reg j = s.reg j := (rfl)
theorem State.rd_net (x : Net) (g : Fld) (m j : Nat) : (({ s with net := x } : State)).rd g m j = s.rd g m j := (rfl)
theorem State.raw_net (x : Net) (p b : Nat) : (({ s with net := x } : State)).raw p b = s.raw p b := (rfl)
theorem State.reg_stp (x : Stp) (j : Nat) : (({ s with stp := x } : State)).reg j = s.reg j := (rfl)
theorem State.rd_stp (x : Stp) (g : Fld) (m j : Nat) : (({ s with stp := x } : State)).rd g m j = s.rd g m j := (rfl)
theorem State.raw_stp (x : Stp) (p b : Nat) : (({ s with stp := x } : State)).raw p b = s.raw p b := (rfl)
theorem State.reg_nbr (x : Nbr) (j : Nat) : (({ s with nbr := x } : State)).reg j = s.reg j := (rfl)
theorem State.rd_nbr (x : Nbr) (g : Fld) (m j : Nat) : (({ s with nbr := x } : State)).rd g m j = s.rd g m j := (rfl)
theorem State.raw_nbr (x : Nbr) (p b : Nat) : (({ s with nbr := x } : State)).raw p b = s.raw p b := (rfl)
theorem State.reg_modes (x : Modes) (j : Nat) : (({ s with modes := x } : State)).reg j = s.reg j := (rfl)
theorem State.rd_modes (x : Modes) (g : Fld) (m j : Nat) : (({ s with modes := x } : State)).rd g m j = s.rd g m j := (rfl)
theorem State.raw_modes (x : Modes) (p b : Nat) : (({ s with modes := x } : State)).raw p b = s.raw p b := (rfl)
theorem State.reg_memx (x : Memx) (j : Nat) : (({ s with memx := x } : State)).reg j = s.reg j := (rfl)
theorem State.rd_memx (x : Memx) (g : Fld) (m j : Nat) : (({ s with memx := x } : State)).rd g m j = s.rd g m j := (rfl)
theorem State.raw_memx (x : Memx) (p b : Nat) : (({ s with memx := x } : State)).raw p b = s.raw p b := (rfl)
theorem State.reg_boot (x : Boot) (j : Nat) : (({ s with boot := x } : State)).reg j = s.reg j := (rfl)
theorem State.rd_boot (x : Boot) (g : Fld) (m j : Nat) : (({ s with boot := x } : State)).rd g m j = s.rd g m j := (rfl)
theorem State.raw_boot (x : Boot) (p b : Nat) : (({ s with boot := x } : State)).raw p b = s.raw p b := (rfl)
theorem State.reg_flt (x : Flt) (j : Nat) : (({ s with flt := x } : State)).reg j = s.reg j := (rfl)
theorem State.rd_flt (x : Flt) (g : Fld) (m j : Nat) : (({ s with flt := x } : State)).rd g m j = s.rd g m j := (rfl)
theorem State.raw_flt (x : Flt) (p b : Nat) : (({ s with flt := x } : State)).raw p b = s.raw p b := (rfl)
theorem State.reg_dma (x : List (Nat × DmaChan)) (j : Nat) : (({ s with dma := x } : State)).reg j = s.reg j := (rfl)
theorem State.rd_dma (x : List (Nat × DmaChan)) (g : Fld) (m j : Nat) : (({ s with dma := x } : State)).rd g m j = s.rd g m j := (rfl)
theorem State.raw_dma (x : List (Nat × DmaChan)) (p b : Nat) : (({ s with dma := x } : State)).raw p b = s.raw p b := (rfl)
theorem State.reg_ports (x : Ports) (j : Nat) : (({ s with ports := x } : State)).reg j = s.reg j := (rfl)
theorem State.rd_ports (x : Ports) (g : Fld) (m j : Nat) : (({ s with ports := x } : State)).rd g m j = s.rd g m j := (rfl)
theorem State.raw_ports (x : Ports) (p b : Nat) : (({ s with ports := x } : State)).raw p b = s.raw p b := (rfl)
theorem State.reg_pend (x : List PendSet) (j : Nat) : (({ s with pend := x } : State)).reg j = s.reg j := (rfl)
theorem State.rd_pend (x : List PendSet) (g : Fld) (m j : Nat) : (({ s with pend := x } : State)).rd g m j = s.rd g m j := (rfl)
theorem State.raw_pend (x : List PendSet) (p b : Nat) : (({ s with pend := x } : State)).raw p b = s.raw p b := (rfl)
theorem State.reg_mem (x : List Host.Cell) (j : Nat) : (({ s with mem := x } : State)).reg j = s.reg j := (rfl)
theorem State.rd_mem (x : List Host.Cell) (g : Fld) (m j : Nat) : (({ s with mem := x } : State)).rd g m j = s.rd g m j := (rfl)
theorem State.raw_mem (x : List Host.Cell) (p b : Nat) : (({ s with mem := x } : State)).raw p b = s.raw p b := (rfl)
theorem State.reg_live (x : List (Nat × Word)) (j : Nat) : (({ s with live := x } : State)).reg j = s.reg j := (rfl)
theorem State.rd_live (x : List (Nat × Word)) (g : Fld) (m j : Nat) : (({ s with live := x } : State)).rd g m j = s.rd g m j := (rfl)
theorem State.raw_live (x : List (Nat × Word)) (p b : Nat) : (({ s with live := x } : State)).raw p b = s.raw p b := (rfl)
theorem State.reg_resp (x : Option Resp) (j : Nat) : (({ s with resp := x } : State)).reg j = s.reg j := (rfl)
theorem State.rd_resp (x : Option Resp) (g : Fld) (m j : Nat) : (({ s with resp := x } : State)).rd g m j = s.rd g m j := (rfl)
theorem State.raw_resp (x : Option Resp) (p b : Nat) : (({ s with resp := x } : State)).raw p b = s.raw p b := (rfl)
theorem State.rd_emit (o : Out) (g : Fld) (m j : Nat) : (s.emit o).rd g m j = s.rd g m j := rfl
theorem State.raw_emit (o : Out) (p b : Nat) : (s.emit o).raw p b = s.raw p b := rfl
theorem State.reg_respond (i : Initiator) (d : Nat) (e : Bool) (j : Nat) : (s.respond i d e).reg j = s.reg j := (rfl)
theorem State.rd_respond (i : Initiator) (d : Nat) (e : Bool) (g : Fld) (m j : Nat) : (s.respond i d e).rd g m j = s.rd g m j := (rfl)
theorem State.raw_respond (i : Initiator) (d : Nat) (e : Bool) (p b : Nat) : (s.respond i d e).raw p b = s.raw p b := (rfl)
theorem State.reg_useFree (k : Nat) (j : Nat) : (s.useFree k).reg j = s.reg j := (rfl)
theorem State.rd_useFree (k : Nat) (g : Fld) (m j : Nat) : (s.useFree k).rd g m j = s.rd g m j := (rfl)
theorem State.raw_useFree (k : Nat) (p b : Nat) : (s.useFree k).raw p b = s.raw p b := (rfl)
theorem State.reg_setByte (a : Nat) (x : Byte) (j : Nat) : (s.setByte a x).reg j = s.reg j := (rfl)
theorem State.rd_setByte (a : Nat) (x : Byte) (g : Fld) (m j : Nat) : (s.setByte a x).rd g m j = s.rd g m j := (rfl)
theorem State.raw_setByte (a : Nat) (x : Byte) (p b : Nat) : (s.setByte a x).raw p b = s.raw p b := (rfl)
theorem State.reg_setQueue (q : Nat) (l : List DWord) (j : Nat) : (s.setQueue q l).reg j = s.reg j := (rfl)
theorem State.rd_setQueue (q : Nat) (l : List DWord) (g : Fld) (m j : Nat) : (s.setQueue q l).rd g m j = s.rd g m j := (rfl)
theorem State.raw_setQueue (q : Nat) (l : List DWord) (p b : Nat) : (s.setQueue q l).raw p b = s.raw p b := (rfl)
theorem State.reg_setLive (k : Nat) (v : Word) (j : Nat) : (s.setLive k v).reg j = s.reg j := (rfl)
theorem State.rd_setLive (k : Nat) (v : Word) (g : Fld) (m j : Nat) : (s.setLive k v).rd g m j = s.rd g m j := (rfl)
theorem State.raw_setLive (k : Nat) (v : Word) (p b : Nat) : (s.setLive k v).raw p b = s.raw p b := (rfl)
theorem State.reg_setBytes (a : Nat) (l : List Byte) (j : Nat) : (s.setBytes a l).reg j = s.reg j := State.reg_congr (State.setBytes_regs s a l) j
theorem State.rd_setBytes (a : Nat) (l : List Byte) (g : Fld) (m j : Nat) : (s.setBytes a l).rd g m j = s.rd g m j := State.rd_congr (State.setBytes_regs s a l) g m j
theorem State.raw_setBytes (a : Nat) (l : List Byte) (p b : Nat) : (s.setBytes a l).raw p b = s.raw p b := State.raw_congr (State.setBytes_regs s a l) p b
theorem State.reg_store (a n v : Nat) (j : Nat) : (s.store a n v).reg j = s.reg j := State.reg_congr (State.store_regs s a n v) j
theorem State.rd_store (a n v : Nat) (g : Fld) (m j : Nat) : (s.store a n v).rd g m j = s.rd g m j := State.rd_congr (State.store_regs s a n v) g m j
theorem State.raw_store (a n v : Nat) (p b : Nat) : (s.store a n v).raw p b = s.raw p b := State.raw_congr (State.store_regs s a n v) p b
theorem State.reg_nbrSend (c : Nat) (l : List Nat) (j : Nat) : (s.nbrSend c l).reg j = s.reg j := State.reg_congr (State.nbrSend_regs s c l) j
theorem State.rd_nbrSend (c : Nat) (l : List Nat) (g : Fld) (m j : Nat) : (s.nbrSend c l).rd g m j = s.rd g m j := State.rd_congr (State.nbrSend_regs s c l) g m j
theorem State.raw_nbrSend (c : Nat) (l : List Nat) (p b : Nat) : (s.nbrSend c l).raw p b = s.raw p b := State.raw_congr (State.nbrSend_regs s c l) p b

end Sys2Proof.Machine
end

