-- ==== Sys2Proof/Laws/Replies.lean ====
section
/-! SUPPORT. Queues and replies: what a queue holds after an entry is put, and everything a reply to a command changes. -/
namespace Sys2Proof.Machine

variable {s : State}

/-! ### Lists with keys -/

/-- READ AFTER WRITE of a list with keys. -/
theorem assoc?_put {β : Type} (l : List (Nat × β)) (k j : Nat) (v : β) :
    assoc? (assocPut l k v) j = if j = k then some v else assoc? l j := by
  induction l with
  | nil => simp only [assocPut, assoc?, List.find?]; grind
  | cons e t ih =>
    obtain ⟨a, w⟩ := e
    unfold assocPut
    split
    · simp only [assoc?, List.find?_cons]; grind
    · split
      · simp only [assoc?, List.find?_cons] at *; grind
      · simp only [assoc?, List.find?_cons] at *; grind

/-- After a key is removed, it is absent and the others are as before. -/
theorem assoc?_del {β : Type} (l : List (Nat × β)) (k j : Nat) :
    assoc? (assocDel l k) j = if j = k then none else assoc? l j := by
  induction l with
  | nil => simp only [assocDel, assoc?, List.filter_nil, List.find?_nil]; grind
  | cons e t ih =>
    obtain ⟨a, w⟩ := e
    simp only [assoc?, assocDel, List.filter_cons] at ih ⊢
    split
    · simp only [List.find?_cons]; grind
    · simp only [List.find?_cons]; grind

/-! ### Queues -/

/-- Equal queue states hold the same entries. -/
theorem State.queue_congr {t : State} (h : t.que = s.que) (q : Nat) : t.queue q = s.queue q := by
  rw [State.queue, State.queue, h]

theorem State.queue_setQueue (s : State) (q r : Nat) (l : List DWord) :
    (s.setQueue q l).queue r = if r = q then l else s.queue r := by
  unfold State.setQueue State.queue
  dsimp only
  split
  · rename_i h
    rw [assoc?_del]; split <;> simp [h]
  · rw [assoc?_put]; split <;> simp

/-- The entries of a queue after they are put. -/
theorem State.queue_putQueue (s : State) (q r : Nat) (l : List DWord) :
    (s.putQueue q l).queue r = if r = q then l else s.queue r := by
  rw [← State.queue_setQueue s q r l]
  unfold State.putQueue
  extract_lets en t
  have ht : t.queue r = (s.setQueue q l).queue r := State.queue_congr (State.settleVectors_que ..) r
  clear_value t
  split
  · rw [State.queue_congr (State.raise_que ..), ht]
  · exact ht

/-- Putting entries touches no register but IRQ_RAW of the queue's page and the message count. -/
theorem State.reg_putQueue {q j : Nat} {l : List DWord} (h1 : j ≠ quePage q * 0x1000 + 0x10) (h2 : j ≠ 0xC1044) :
    (s.putQueue q l).reg j = s.reg j := by
  unfold State.putQueue
  extract_lets en t
  have ht : t.reg j = s.reg j := (State.reg_settleVectors h2).trans (State.reg_setQueue ..)
  clear_value t
  split
  · rw [State.reg_raise h1 h2, ht]
  · exact ht

/-- A notice queue with room holds the new entry last; the other queues are as before. -/
theorem State.queue_notice (s : State) (q r : Nat) (e : DWord) (h : (s.queue q).length < queueDepth q) :
    (s.notice q e).queue r = if r = q then s.queue q ++ [e] else s.queue r := by
  unfold State.notice
  dsimp only
  rw [if_pos h, State.queue_putQueue]

/-- A push to a notice queue touches registers of the queue pages and the message count only. -/
theorem State.reg_notice {q j : Nat} {e : DWord} (hq : q < 128) (h : j < 0x18000 ∨ 0x1A000 ≤ j) (h2 : j ≠ 0xC1044) :
    (s.notice q e).reg j = s.reg j := by
  have hp : quePage q = 0x018 ∨ quePage q = 0x019 := by unfold quePage; omega
  have h1 : j ≠ quePage q * 0x1000 + 0x10 := by omega
  have h3 : j ≠ F.QUE_STAT_count.key (q / 64) (q % 64) := by
    clear hp h1 h2
    unfold Fld.key F.QUE_STAT_count
    dsimp only
    omega
  unfold State.notice
  dsimp only
  split
  · exact State.reg_putQueue h1 h2
  · rw [State.reg_raise h1 h2, State.bump, State.reg_wr h3, State.reg_putQueue h1 h2]

/-! ### Replies -/

theorem bitsOf_lt (v lo w : Nat) : bitsOf v lo w < 2 ^ w := Nat.mod_lt _ (Nat.two_pow_pos w)

/-- A reply touches registers of the queue pages and the message count only. -/
theorem State.reg_reply {h status j : Nat} {ws : List Nat} (hj : j < 0x18000 ∨ 0x1A000 ≤ j) (h2 : j ≠ 0xC1044) :
    (s.reply h status ws).reg j = s.reg j := by
  have hq : (cmdHead h).replyQ < 128 := bitsOf_lt _ _ _
  unfold State.reply
  extract_lets c first
  split
  · rfl
  · refine keeps_foldl (P := fun t : State => t.reg j = s.reg j) (State.reg_notice hq hj h2) fun t w ht => ?_
    exact (State.reg_notice hq hj h2).trans ht

/-- Everything a wanted reply with room does to the queues: its notice queue gets the entries, the others stay. -/
theorem State.queue_reply {h : DWord} {ws : List Nat} (status r : Nat) (hr : ReplyRoom h (ws.length - 1 + 1) s) :
    (s.reply h.toNat status ws).queue r = if r = bitsOf h.toNat 20 7 then
      s.queue (bitsOf h.toNat 20 7) ++ replyWords h.toNat status ws else s.queue r := by
  obtain ⟨hq, hl⟩ := hr
  have hd : queueDepth (bitsOf h.toNat 20 7) = 64 := by
    have := bitsOf_lt h.toNat 20 7
    unfold queueDepth; rw [if_pos (by omega)]
  have key : ∀ (q : Nat), queueDepth q = 64 → ∀ (l : List DWord) (t : State), (t.queue q).length + l.length ≤ 64 →
      (l.foldl (fun (t : State) (w : DWord) => t.notice q w) t).queue r = if r = q then t.queue q ++ l else t.queue r := by
    intro q hd l
    induction l with
    | nil => intro t _; rw [List.foldl_nil, List.append_nil]; split <;> simp_all
    | cons w l ih =>
      intro t ht
      rw [List.length_cons] at ht
      have hn : (t.queue q).length < queueDepth q := by omega
      have hs := State.queue_notice t q q w hn
      rw [if_pos rfl] at hs
      rw [List.foldl_cons, ih _ (by rw [hs, List.length_append, List.length_singleton]; omega), hs, State.queue_notice t q r w hn]
      split
      · rw [List.append_assoc, List.singleton_append]
      · rfl
  have e : s.reply h.toNat status ws = (replyWords h.toNat status ws).foldl
      (fun (t : State) (w : DWord) => t.notice (bitsOf h.toNat 20 7) w) s := by
    unfold State.reply replyWords
    rw [if_neg (by unfold cmdHead; simp [hq]), List.foldl_cons, List.foldl_map]
    rfl
  rw [e, key _ hd]
  unfold replyWords
  rw [List.length_cons, List.length_map, List.length_drop]
  omega

/-- A wanted reply with room answers the command. -/
theorem State.reply_replies {h : DWord} {ws : List Nat} (status : Nat) (hr : ReplyRoom h (ws.length - 1 + 1) s) :
    Replies h status ws s (s.reply h.toNat status ws) := by
  rw [Replies, State.queue_reply status _ hr, if_pos rfl]

theorem State.rd_reply {f : Fld} {h status n i : Nat} {ws : List Nat} (hj : f.key n i < 0x18000 ∨ 0x1A000 ≤ f.key n i)
    (h2 : f.key n i ≠ 0xC1044) : (s.reply h status ws).rd f n i = s.rd f n i := by
  rw [State.rd, State.reg_reply hj h2, State.rd]

/-- A reply keeps every other part. -/
@[simp] theorem State.reply_live (s : State) (h c : Nat) (l : List Nat) : (s.reply h c l).live = s.live := (State.reply_keeps (Keeps.refl [.regs, .que, .host, .out] s) rfl h c l).same .live rfl
@[simp] theorem State.reply_pend (s : State) (h c : Nat) (l : List Nat) : (s.reply h c l).pend = s.pend := (State.reply_keeps (Keeps.refl [.regs, .que, .host, .out] s) rfl h c l).same .pend rfl
@[simp] theorem State.reply_mem (s : State) (h c : Nat) (l : List Nat) : (s.reply h c l).mem = s.mem := (State.reply_keeps (Keeps.refl [.regs, .que, .host, .out] s) rfl h c l).same .mem rfl
@[simp] theorem State.reply_eng (s : State) (h c : Nat) (l : List Nat) : (s.reply h c l).eng = s.eng := (State.reply_keeps (Keeps.refl [.regs, .que, .host, .out] s) rfl h c l).same .eng rfl
@[simp] theorem State.reply_xrd (s : State) (h c : Nat) (l : List Nat) : (s.reply h c l).xrd = s.xrd := (State.reply_keeps (Keeps.refl [.regs, .que, .host, .out] s) rfl h c l).same .xrd rfl
@[simp] theorem State.reply_scn (s : State) (h c : Nat) (l : List Nat) : (s.reply h c l).scn = s.scn := (State.reply_keeps (Keeps.refl [.regs, .que, .host, .out] s) rfl h c l).same .scn rfl
@[simp] theorem State.reply_chn (s : State) (h c : Nat) (l : List Nat) : (s.reply h c l).chn = s.chn := (State.reply_keeps (Keeps.refl [.regs, .que, .host, .out] s) rfl h c l).same .chn rfl
@[simp] theorem State.reply_fab (s : State) (h c : Nat) (l : List Nat) : (s.reply h c l).fab = s.fab := (State.reply_keeps (Keeps.refl [.regs, .que, .host, .out] s) rfl h c l).same .fab rfl
@[simp] theorem State.reply_dma (s : State) (h c : Nat) (l : List Nat) : (s.reply h c l).dma = s.dma := (State.reply_keeps (Keeps.refl [.regs, .que, .host, .out] s) rfl h c l).same .dma rfl
@[simp] theorem State.reply_mil (s : State) (h c : Nat) (l : List Nat) : (s.reply h c l).mil = s.mil := (State.reply_keeps (Keeps.refl [.regs, .que, .host, .out] s) rfl h c l).same .mil rfl
@[simp] theorem State.reply_net (s : State) (h c : Nat) (l : List Nat) : (s.reply h c l).net = s.net := (State.reply_keeps (Keeps.refl [.regs, .que, .host, .out] s) rfl h c l).same .net rfl
@[simp] theorem State.reply_ports (s : State) (h c : Nat) (l : List Nat) : (s.reply h c l).ports = s.ports := (State.reply_keeps (Keeps.refl [.regs, .que, .host, .out] s) rfl h c l).same .ports rfl
@[simp] theorem State.reply_stp (s : State) (h c : Nat) (l : List Nat) : (s.reply h c l).stp = s.stp := (State.reply_keeps (Keeps.refl [.regs, .que, .host, .out] s) rfl h c l).same .stp rfl
@[simp] theorem State.reply_nbr (s : State) (h c : Nat) (l : List Nat) : (s.reply h c l).nbr = s.nbr := (State.reply_keeps (Keeps.refl [.regs, .que, .host, .out] s) rfl h c l).same .nbr rfl
@[simp] theorem State.reply_modes (s : State) (h c : Nat) (l : List Nat) : (s.reply h c l).modes = s.modes := (State.reply_keeps (Keeps.refl [.regs, .que, .host, .out] s) rfl h c l).same .modes rfl
@[simp] theorem State.reply_memx (s : State) (h c : Nat) (l : List Nat) : (s.reply h c l).memx = s.memx := (State.reply_keeps (Keeps.refl [.regs, .que, .host, .out] s) rfl h c l).same .memx rfl
@[simp] theorem State.reply_boot (s : State) (h c : Nat) (l : List Nat) : (s.reply h c l).boot = s.boot := (State.reply_keeps (Keeps.refl [.regs, .que, .host, .out] s) rfl h c l).same .boot rfl
@[simp] theorem State.reply_flt (s : State) (h c : Nat) (l : List Nat) : (s.reply h c l).flt = s.flt := (State.reply_keeps (Keeps.refl [.regs, .que, .host, .out] s) rfl h c l).same .flt rfl
@[simp] theorem State.reply_resp (s : State) (h c : Nat) (l : List Nat) : (s.reply h c l).resp = s.resp := (State.reply_keeps (Keeps.refl [.regs, .que, .host, .out] s) rfl h c l).same .resp rfl
@[simp] theorem State.reply_free (s : State) (h c : Nat) (l : List Nat) : (s.reply h c l).free = s.free := (State.reply_keeps (Keeps.refl [.regs, .que, .host, .out] s) rfl h c l).same .free rfl
@[simp] theorem State.reply_pending (s : State) (h c : Nat) (l : List Nat) : (s.reply h c l).pending = s.pending := (State.reply_keeps (Keeps.refl [.regs, .que, .host, .out] s) rfl h c l).same .pending rfl

end Sys2Proof.Machine
end

