-- ==== Sys2Proof/Laws/RegsModes.lean ====
section
/-! SUPPORT. Registers that the shared operations of the operating modes leave. -/
namespace Sys2Proof.Machine

variable {s : State}

/-- The bits that a store takes from the written value. -/
theorem bitsOf_store {old m v lo w : Nat} (h : ∀ i < w, m.testBit (lo + i) = true ∧ lo + i < 32) :
    bitsOf ((old &&& ((2 ^ 32 - 1) ^^^ m)) ||| (v &&& m)) lo w = bitsOf v lo w := by
  refine Nat.eq_of_testBit_eq fun i => ?_
  rw [testBit_bitsOf, testBit_bitsOf]
  by_cases hi : i < w
  · rw [Nat.testBit_or, Nat.testBit_and, Nat.testBit_and, Nat.testBit_xor, (h i hi).1,
      Nat.testBit_two_pow_sub_one, decide_eq_true (h i hi).2]
    simp
  · simp [hi]

/-- A plain store of a register that no limit clamps: a field whose bits the mask holds takes the written bits. -/
theorem State.rd_storeBits {p x m v n i : Nat} {f : Fld} (hk : f.key n i = p * 0x1000 + x) (hc : ∀ y, clampReg p x y = y)
    (hv : v < 2 ^ 32) (h : ∀ j < f.width, m.testBit (f.lo + j) = true ∧ f.lo + j < 32) :
    (s.storeBits p x m v).rd f n i = bitsOf v f.lo f.width := by
  unfold State.rd State.storeBits
  dsimp only
  rw [State.reg_setReg, if_pos hk, hc, BitVec.toNat_ofNat, Nat.mod_eq_of_lt, bitsOf_store h]
  refine Nat.or_lt_two_pow (Nat.lt_of_le_of_lt Nat.and_le_left (BitVec.isLt _)) (Nat.lt_of_le_of_lt Nat.and_le_left hv)

/-- A store touches its own register only. -/
theorem State.reg_storeBits {p x m v j : Nat} (h : j ≠ p * 0x1000 + x) : (s.storeBits p x m v).reg j = s.reg j := by
  unfold State.storeBits
  dsimp only
  rw [State.reg_setReg, if_neg h]

/-- The end of Maintenance touches registers of the MIL pages only (R228). -/
theorem State.reg_debugEnds {j : Nat} (h : j < 0x40000) : s.debugEnds.reg j = s.reg j := by
  have hk : ∀ (f : Fld) (n i : Nat), f.page = 0x040 → j ≠ f.key n i := by
    intro f n i hf
    unfold Fld.key
    rw [hf]
    have : 0x40000 ≤ (0x040 + n) * 0x1000 := by omega
    omega
  have w : ∀ (t : State) (f : Fld) (v n i : Nat), f.page = 0x040 → (t.wr f v n i).reg j = t.reg j :=
    fun t f v n i hf => State.reg_wr (hk f n i hf)
  have c : ∀ (t : State) (n : Nat), (t.contWrite n).reg j = t.reg j := fun t n => by
    unfold State.contWrite
    split
    · rw [w _ _ _ _ _ rfl]
    · rfl
  have r : ∀ (t : State) (n : Nat), (t.millResume n).reg j = t.reg j := fun t n => by
    unfold State.millResume
    split
    · rw [w _ _ _ _ _ rfl]
    · rfl
  unfold State.debugEnds
  refine keeps_foldl (P := fun t : State => t.reg j = s.reg j) rfl fun t n ht => ?_
  dsimp only
  rw [r]
  split
  · rw [w _ _ _ _ _ rfl]
    exact ((w _ _ _ _ _ rfl).trans (w _ _ _ _ _ rfl)).trans ht
  · rw [c]
    exact ((w _ _ _ _ _ rfl).trans (w _ _ _ _ _ rfl)).trans ht

/-- A service change writes SYS_MODE_STATE, and the MIL pages where Maintenance ends (R371). -/
theorem State.reg_setService {v j : Nat} (h : j < 0x40000) (h1 : j ≠ 0x64) : (s.setService v).reg j = s.reg j := by
  have hj : j ≠ F.SYS_MODE_STATE_service.key 0 0 := h1
  unfold State.setService
  dsimp only
  repeat' split
  all_goals first
    | rw [State.reg_modModes, State.reg_debugEnds h, State.reg_wr hj]
    | rw [State.reg_debugEnds h, State.reg_wr hj]
    | rw [State.reg_modModes, State.reg_wr hj]
    | rw [State.reg_wr hj]

/-- The service shows at once. -/
theorem State.rd_setService_self {v : Nat} : (s.setService v).rd F.SYS_MODE_STATE_service = v % 4 := by
  have e : ∀ t : State, t.reg 0x64 = (s.wr F.SYS_MODE_STATE_service v).reg 0x64 → t.rd F.SYS_MODE_STATE_service = v % 4 := by
    intro t ht
    have a : t.rd F.SYS_MODE_STATE_service = (s.wr F.SYS_MODE_STATE_service v).rd F.SYS_MODE_STATE_service := by
      unfold State.rd
      exact congrArg (fun w : Word => bitsOf w.toNat 4 2) ht
    rw [a, State.rd_wr_same (by decide)]
    rfl
  unfold State.setService
  dsimp only
  repeat' split
  all_goals refine e _ ?_
  all_goals first
    | rw [State.reg_modModes, State.reg_debugEnds (by omega)]
    | rw [State.reg_debugEnds (by omega)]
    | rw [State.reg_modModes]
    | rfl

/-- Where a restart begins (R377 step 1): the restart stands, its fade-out runs from A, no realign waits, and SYS_MODE_STATE
and the restart event show it. -/
theorem State.restartBegin_spec (s : State) (r : Restart) :
    (s.restartBegin r).modes.restart = some r ∧ (s.restartBegin r).modes.fade.g0 = 32768 ∧ (s.restartBegin r).modes.fade.g1 = 0 ∧
    (s.restartBegin r).modes.fade.start = r.a ∧ (s.restartBegin r).eng.realign = false ∧
    (s.restartBegin r).rd F.SYS_MODE_STATE_phase = 1 ∧ (s.restartBegin r).rd F.SYS_MODE_STATE_kind = r.kind % 8 ∧
    (s.restartBegin r).raw 0 1 = true := by
  have hs : ∀ (t : State) (v : Nat), (t.setService v).modes.restart = t.modes.restart ∧ (t.setService v).modes.fade = t.modes.fade ∧
      (t.setService v).eng = t.eng ∧ (t.setService v).rd F.SYS_MODE_STATE_phase = t.rd F.SYS_MODE_STATE_phase ∧
      (t.setService v).rd F.SYS_MODE_STATE_kind = t.rd F.SYS_MODE_STATE_kind ∧ (t.setService v).raw 0 1 = t.raw 0 1 := by
    intro t v
    have hd : ∀ u : State, u.debugEnds.modes = u.modes ∧ u.debugEnds.eng = u.eng := fun u =>
      ⟨(State.debugEnds_keeps (Keeps.refl [.regs, .mil] u) (by decide)).same .modes rfl,
       (State.debugEnds_keeps (Keeps.refl [.regs, .mil] u) (by decide)).same .eng rfl⟩
    have hr : ∀ (u w : State) (f : Fld), (∀ j, j < 0x40000 → u.reg j = w.reg j) → f.key 0 0 < 0x40000 → u.rd f = w.rd f :=
      fun u w f h hf => by unfold State.rd; rw [h _ hf]
    have hw : ∀ f : Fld, f.key 0 0 = 0x64 → (f.lo + f.width ≤ 4 ∨ 6 ≤ f.lo) → (t.wr F.SYS_MODE_STATE_service v).rd f = t.rd f := by
      intro f hf h
      refine State.rd_wr (.inr ⟨by decide, ?_⟩)
      exact h
    have hraw : (t.wr F.SYS_MODE_STATE_service v).raw 0 1 = t.raw 0 1 := State.raw_wr (by decide)
    have hdraw : ∀ u : State, u.debugEnds.raw 0 1 = u.raw 0 1 := fun u => by
      unfold State.raw; rw [State.reg_debugEnds (by decide)]
    unfold State.setService
    dsimp only
    split
    · split
      · refine ⟨by rw [(hd _).1]; rfl, by rw [(hd _).1]; rfl, by rw [(hd _).2, State.wr_eng], ?_, ?_, ?_⟩
        · rw [hr _ _ _ (fun j hj => State.reg_debugEnds hj) (by decide), hw _ (by decide) (by decide)]
        · rw [hr _ _ _ (fun j hj => State.reg_debugEnds hj) (by decide), hw _ (by decide) (by decide)]
        · rw [hdraw, hraw]
      · refine ⟨rfl, rfl, State.wr_eng .., hw _ (by decide) (by decide), hw _ (by decide) (by decide), hraw⟩
    · split
      · refine ⟨by rw [State.modModes_modes, (hd _).1]; rfl, by rw [State.modModes_modes, (hd _).1]; rfl,
          by rw [State.modModes_eng, (hd _).2, State.wr_eng], ?_, ?_, ?_⟩
        · rw [State.rd_modModes, hr _ _ _ (fun j hj => State.reg_debugEnds hj) (by decide), hw _ (by decide) (by decide)]
        · rw [State.rd_modModes, hr _ _ _ (fun j hj => State.reg_debugEnds hj) (by decide), hw _ (by decide) (by decide)]
        · rw [State.raw_modModes, hdraw, hraw]
      · refine ⟨rfl, rfl, (State.modModes_eng ..).trans (State.wr_eng ..), ?_, ?_, ?_⟩
        · rw [State.rd_modModes]; exact hw _ (by decide) (by decide)
        · rw [State.rd_modModes]; exact hw _ (by decide) (by decide)
        · rw [State.raw_modModes]; exact hraw
  unfold State.restartBegin
  extract_lets s1 n s2 s3 s4 s5
  have h5 : s5.modes = s4.modes ∧ s5.eng = s4.eng ∧ s5.regs = s4.regs := by
    subst s5
    split
    · exact ⟨State.nbrSend_modes .., State.nbrSend_eng .., State.nbrSend_regs ..⟩
    · exact ⟨rfl, rfl, rfl⟩
  clear_value s5 n s1
  obtain ⟨a, b, c⟩ := h5
  obtain ⟨e1, e2, e3, e4, e5, e6⟩ := hs s5 (bitsOf r.mode 4 2)
  rw [e1, e2, e3, e4, e5, e6, a, b, State.rd_congr c, State.rd_congr c, State.raw_congr c]
  subst s4
  rw [State.bump_modes, State.raise_modes, State.wr_modes, State.bump_eng, State.raise_eng, State.wr_eng]
  have m : ∀ x : Nat, (s3.setPhase x).modes = s3.modes ∧ (s3.setPhase x).eng = s3.eng := fun x => ⟨rfl, rfl⟩
  rw [(m 1).1, (m 1).2]
  refine ⟨rfl, rfl, rfl, rfl, rfl, ?_, ?_, ?_⟩
  · unfold State.bump State.setPhase
    rw [State.rd_wr (.inl (by decide)), State.rd_raise (by decide) (by decide), State.rd_wr (.inr (by decide)), State.rd_wr_same (by decide)]
    rfl
  · unfold State.bump State.setPhase
    rw [State.rd_wr (.inl (by decide)), State.rd_raise (by decide) (by decide), State.rd_wr_same (by decide)]
    rfl
  · unfold State.bump
    rw [State.raw_wr (by decide), State.raw_raise_self _ _ (by omega)]

end Sys2Proof.Machine
end

