-- ==== Sys2Proof/Laws/Access.lean ====
section
/-! SUPPORT. Reading back one element of the state that an operation replaced: destinations, generators, Mills, DMA
channels, candidates, PTP ports, DACs, streams, local ports, strips. -/
namespace Sys2Proof.Machine

variable {s : State}

/-- READ AFTER WRITE of a destination. -/
theorem State.dest_setDest (s : State) (d j : Nat) (x : Dest) : (s.setDest d x).dest j = if j = d then x else s.dest j := by
  unfold State.dest State.setDest 
  dsimp only
  rw [assoc?_put]
  split <;> rfl

/-- READ AFTER WRITE of a generator. -/
theorem State.gen_setGen (s : State) (g j : Nat) (x : Gen) : (s.setGen g x).gen j = if j = g then x else s.gen j := by
  unfold State.gen State.setGen 
  dsimp only
  rw [assoc?_put]
  split <;> rfl

/-- READ AFTER WRITE of a Mill. -/
theorem State.mill_setMill (s : State) (n j : Nat) (x : Mill) : (s.setMill n x).mill j = if j = n then x else s.mill j := by
  unfold State.mill State.setMill 
  dsimp only
  rw [assoc?_put]
  split <;> rfl

/-- READ AFTER WRITE of a DMA channel. -/
theorem State.dmaChan_setDma (s : State) (c j : Nat) (x : DmaChan) : (s.setDma c x).dmaChan j = if j = c then x else s.dmaChan j := by
  unfold State.dmaChan State.setDma 
  dsimp only
  rw [assoc?_put]
  split <;> rfl

/-- READ AFTER WRITE of a candidate. -/
theorem State.cand_setCand (s : State) (k j : Nat) (x : Cand) : (s.setCand k x).cand j = if j = k then x else s.cand j := by
  unfold State.cand State.setCand 
  dsimp only
  rw [assoc?_put]
  split <;> rfl

/-- READ AFTER WRITE of a PTP port. -/
theorem State.ptp_setPtp (s : State) (p j : Nat) (x : PtpPort) : (s.setPtp p x).ptp j = if j = p then x else s.ptp j := by
  unfold State.ptp State.setPtp 
  dsimp only
  rw [assoc?_put]
  split <;> rfl

/-- READ AFTER WRITE of a DAC channel. -/
theorem State.dac_setDac (s : State) (n j : Nat) (x : Dac) : (s.setDac n x).dac j = if j = n then x else s.dac j := by
  unfold State.dac State.setDac 
  dsimp only
  rw [assoc?_put]
  split <;> rfl

/-- READ AFTER WRITE of a receive stream. -/
theorem State.rxStream_setRx (s : State) (i j : Nat) (x : RxStream) : (s.setRx i x).rxStream j = if j = i then x else s.rxStream j := by
  unfold State.rxStream State.setRx State.modNet
  dsimp only
  rw [assoc?_put]
  split <;> rfl

/-- READ AFTER WRITE of a local port. -/
theorem State.port_setPort (s : State) (k j : Nat) (x : Port) : (s.setPort k x).port j = if j = k then x else s.port j := by
  unfold State.port State.setPort 
  dsimp only
  rw [assoc?_put]
  split <;> rfl

theorem State.reg_setDest (s : State) (d : Nat) (x : Dest) (j : Nat) : (s.setDest d x).reg j = s.reg j := (rfl)
theorem State.rd_setDest (s : State) (d : Nat) (x : Dest) (f : Fld) (m j : Nat) : (s.setDest d x).rd f m j = s.rd f m j := (rfl)
theorem State.raw_setDest (s : State) (d : Nat) (x : Dest) (q b : Nat) : (s.setDest d x).raw q b = s.raw q b := (rfl)
theorem State.reg_setGen (s : State) (g : Nat) (x : Gen) (j : Nat) : (s.setGen g x).reg j = s.reg j := (rfl)
theorem State.rd_setGen (s : State) (g : Nat) (x : Gen) (f : Fld) (m j : Nat) : (s.setGen g x).rd f m j = s.rd f m j := (rfl)
theorem State.raw_setGen (s : State) (g : Nat) (x : Gen) (q b : Nat) : (s.setGen g x).raw q b = s.raw q b := (rfl)
theorem State.reg_setMill (s : State) (n : Nat) (x : Mill) (j : Nat) : (s.setMill n x).reg j = s.reg j := (rfl)
theorem State.rd_setMill (s : State) (n : Nat) (x : Mill) (f : Fld) (m j : Nat) : (s.setMill n x).rd f m j = s.rd f m j := (rfl)
theorem State.raw_setMill (s : State) (n : Nat) (x : Mill) (q b : Nat) : (s.setMill n x).raw q b = s.raw q b := (rfl)
theorem State.reg_setDma (s : State) (c : Nat) (x : DmaChan) (j : Nat) : (s.setDma c x).reg j = s.reg j := (rfl)
theorem State.rd_setDma (s : State) (c : Nat) (x : DmaChan) (f : Fld) (m j : Nat) : (s.setDma c x).rd f m j = s.rd f m j := (rfl)
theorem State.raw_setDma (s : State) (c : Nat) (x : DmaChan) (q b : Nat) : (s.setDma c x).raw q b = s.raw q b := (rfl)
theorem State.reg_setCand (s : State) (k : Nat) (x : Cand) (j : Nat) : (s.setCand k x).reg j = s.reg j := (rfl)
theorem State.rd_setCand (s : State) (k : Nat) (x : Cand) (f : Fld) (m j : Nat) : (s.setCand k x).rd f m j = s.rd f m j := (rfl)
theorem State.raw_setCand (s : State) (k : Nat) (x : Cand) (q b : Nat) : (s.setCand k x).raw q b = s.raw q b := (rfl)
theorem State.reg_setPtp (s : State) (p : Nat) (x : PtpPort) (j : Nat) : (s.setPtp p x).reg j = s.reg j := (rfl)
theorem State.rd_setPtp (s : State) (p : Nat) (x : PtpPort) (f : Fld) (m j : Nat) : (s.setPtp p x).rd f m j = s.rd f m j := (rfl)
theorem State.raw_setPtp (s : State) (p : Nat) (x : PtpPort) (q b : Nat) : (s.setPtp p x).raw q b = s.raw q b := (rfl)
theorem State.reg_setDac (s : State) (n : Nat) (x : Dac) (j : Nat) : (s.setDac n x).reg j = s.reg j := (rfl)
theorem State.rd_setDac (s : State) (n : Nat) (x : Dac) (f : Fld) (m j : Nat) : (s.setDac n x).rd f m j = s.rd f m j := (rfl)
theorem State.raw_setDac (s : State) (n : Nat) (x : Dac) (q b : Nat) : (s.setDac n x).raw q b = s.raw q b := (rfl)
theorem State.reg_setRx (s : State) (i : Nat) (x : RxStream) (j : Nat) : (s.setRx i x).reg j = s.reg j := (rfl)
theorem State.rd_setRx (s : State) (i : Nat) (x : RxStream) (f : Fld) (m j : Nat) : (s.setRx i x).rd f m j = s.rd f m j := (rfl)
theorem State.raw_setRx (s : State) (i : Nat) (x : RxStream) (q b : Nat) : (s.setRx i x).raw q b = s.raw q b := (rfl)
theorem State.reg_setPort (s : State) (k : Nat) (x : Port) (j : Nat) : (s.setPort k x).reg j = s.reg j := (rfl)
theorem State.rd_setPort (s : State) (k : Nat) (x : Port) (f : Fld) (m j : Nat) : (s.setPort k x).rd f m j = s.rd f m j := (rfl)
theorem State.raw_setPort (s : State) (k : Nat) (x : Port) (q b : Nat) : (s.setPort k x).raw q b = s.raw q b := (rfl)
theorem State.reg_setStrip (s : State) (k : Nat) (x : Strip) (j : Nat) : (s.setStrip k x).reg j = s.reg j := (rfl)
theorem State.rd_setStrip (s : State) (k : Nat) (x : Strip) (f : Fld) (m j : Nat) : (s.setStrip k x).rd f m j = s.rd f m j := (rfl)
theorem State.raw_setStrip (s : State) (k : Nat) (x : Strip) (q b : Nat) : (s.setStrip k x).raw q b = s.raw q b := (rfl)

/-- READ AFTER WRITE of a strip that is active. -/
theorem State.strip?_setStrip (s : State) (k j : Nat) (x : Strip) :
    (s.setStrip k x).strip? j = if j = k then (s.strip? k).map fun _ => x else s.strip? j := by
  unfold State.strip? State.setStrip
  dsimp only
  induction s.scn.strips with
  | nil => simp [assoc?]
  | cons e t ih =>
    obtain ⟨a, w⟩ := e
    simp only [assoc?, List.map_cons, List.find?_cons] at ih ⊢
    by_cases h1 : a = k
    · subst h1
      by_cases h2 : j = a
      · subst h2; simp
      · simp only [if_true, show (a == j) = false from by simpa using fun e => h2 e.symm]
        rw [if_neg h2] at ih ⊢
        exact ih
    · simp only [h1, if_false]
      by_cases h2 : a = j
      · subst h2; simp [h1]
      · simp only [show (a == j) = false from by simpa using h2, show (a == k) = false from by simpa using h1]
        exact ih

end Sys2Proof.Machine
end

