-- ==== Sys2Proof/Laws/KeepsFabric.lean ====
section
/-! SUPPORT. What each function of Machine/Fabric.lean keeps: the parts of the state it can change, the canonical form of the stores,
the order of free values and outputs. One lemma per function, assembled from those of the functions it calls. -/
namespace Sys2Proof.Machine

variable {m : List Part} {s0 s : State}

theorem State.defError_keeps (h : Keeps m s0 s) (hm : covers m [.regs, .mem, .host, .flt, .out] = true) : ∀ a1 a2 a3 a4, Keeps m s0 (State.defError s a1 a2 a3 a4) := by
  intro a1 a2 a3 a4
  unfold State.defError
  extract_lets -merge -underBinder x0 x1
  have hx0 : Keeps m s0 x0 := (State.pageError_keeps h (covers_trans (by decide) hm) _ _ _ _ _)
  have hx1 : Keeps m s0 x1 := by
    subst x1
    refine keeps_ite (P := fun z => Keeps m s0 z) ?_ ?_
    · exact (State.bump_keeps hx0 (covers_trans (by decide) hm) _ _ _ _)
    · exact (State.bump_keeps hx0 (covers_trans (by decide) hm) _ _ _ _)
  try clear_value x1
  try clear_value x0
  refine keeps_ite (P := fun z => Keeps m s0 z) ?_ ?_
  · exact (State.rollIn_keeps hx1 (covers_trans (by decide) hm) _ _ _ _ _ _ _ _)
  · exact hx1

theorem State.readBeat_keeps (h : Keeps m s0 s) (hm : covers m [.regs, .eng, .que, .host, .net, .stp, .resp, .out, .free] = true) :
    ∀ ini b, Keeps m s0 (State.readBeat s ini b).2 := by
  intro ini b
  by_cases hb : b.2 = 4
  · have e : State.readBeat s ini b = s.pageRead ini (pageOf b.1) (offOf b.1) := by rw [State.readBeat, if_pos hb]
    rw [e]
    exact State.pageRead_keeps h (covers_trans (by decide) hm) _ _ _
  · cases hp : portAt b.1 with
    | some q =>
      have e : State.readBeat s ini b = s.portRead q 0 ini := by rw [State.readBeat, if_neg hb, hp]
      rw [e]
      exact State.portRead_keeps h (covers_trans (by decide) hm) _ _ _
    | none =>
      have e : State.readBeat s ini b = ((s.pageRead ini (pageOf b.1) (offOf b.1)).1 % 2 ^ 32 +
          ((s.pageRead ini (pageOf b.1) (offOf b.1)).2.pageRead ini (pageOf b.1) (offOf b.1 + 4)).1 % 2 ^ 32 * 2 ^ 32,
          ((s.pageRead ini (pageOf b.1) (offOf b.1)).2.pageRead ini (pageOf b.1) (offOf b.1 + 4)).2) := by
        rw [State.readBeat, if_neg hb, hp]
      rw [e]
      exact keeps_snd (State.pageRead_keeps (State.pageRead_keeps h (covers_trans (by decide) hm) _ _ _) (covers_trans (by decide) hm) _ _ _)

theorem State.writeBeat_keeps (h : Keeps m s0 s) (hm : covers m [.regs, .live, .pend, .mem, .eng, .xrd, .scn, .chn, .fab, .dma, .que, .host, .mil, .net, .ports, .stp, .nbr, .modes, .memx, .boot, .flt, .out, .free] = true) : ∀ a1 a2 a3, Keeps m s0 (State.writeBeat s a1 a2 a3) := by
  intro a1 a2 a3
  unfold State.writeBeat
  extract_lets -merge -underBinder x0 x1
  refine keeps_ite (P := fun z => Keeps m s0 z) ?_ ?_
  · exact (State.pageWrite_keeps h (covers_trans (by decide) hm) _ _ _ _)
  · split
    · refine keeps_ite (P := fun z => Keeps m s0 z) ?_ ?_
      · exact (State.pageError_keeps h (covers_trans (by decide) hm) _ _ _ _ _)
      · exact (State.portWrite_keeps h (covers_trans (by decide) hm) _ _ _ _)
    · exact (State.pageWrite_keeps (State.pageWrite_keeps h (covers_trans (by decide) hm) _ _ _ _) (covers_trans (by decide) hm) _ _ _ _)

theorem State.cellarError_keeps (h : Keeps m s0 s) (hm : covers m [.regs, .host, .out] = true) : Keeps m s0 (State.cellarError s) := by
  unfold State.cellarError
  refine keeps_ite (P := fun z => Keeps m s0 z) ?_ ?_
  · exact (State.raise_keeps (State.bump_keeps h (covers_trans (by decide) hm) _ _ _ _) (covers_trans (by decide) hm) _ _)
  · exact h

theorem State.cellarWake_keeps (h : Keeps m s0 s) (hm : covers m [.memx] = true) : Keeps m s0 (State.cellarWake s) := by
  unfold State.cellarWake
  refine keeps_ite (P := fun z => Keeps m s0 z) ?_ ?_
  · exact (State.modMemx_keeps h (covers_trans (by decide) hm) _)
  · exact h

theorem State.outError_keeps (h : Keeps m s0 s) (hm : covers m [.regs, .host, .out] = true) : Keeps m s0 (State.outError s) := by
  unfold State.outError
  exact (State.raise_keeps (State.bump_keeps h (covers_trans (by decide) hm) _ _ _ _) (covers_trans (by decide) hm) _ _)

theorem State.fabRead_keeps (h : Keeps m s0 s) (hm : covers m [.regs, .mem, .eng, .scn, .chn, .que, .host, .net, .stp, .nbr, .memx, .flt, .resp, .out, .free] = true) : ∀ a1 a2 a3 a4, Keeps m s0 (State.fabRead s a1 a2 a3 a4).2 := by
  intro a1 a2 a3 a4
  unfold State.fabRead
  extract_lets -merge -underBinder x0 x1 x2
  have hx2 : Keeps m s0 x2.2.2 := by
    subst x2
    refine keeps_foldl (P := fun (z : Nat × Nat × State) => Keeps m s0 z.2.2) ?_ fun _ _ h3 => ?_
    · refine keeps_snd (P := fun (z : Nat × State) => Keeps m s0 z.2) ?_
      refine keeps_snd (P := fun z => Keeps m s0 z) ?_
      exact h
    · extract_lets -merge -underBinder x4
      have hx4 : Keeps m s0 x4.2 := (State.readBeat_keeps h3 (covers_trans (by decide) hm) _ _)
      try clear_value x4
      refine keeps_snd (P := fun (z : Nat × State) => Keeps m s0 z.2) ?_
      refine keeps_snd (P := fun z => Keeps m s0 z) ?_
      exact hx4
  try clear_value x2
  refine keeps_ite (P := fun (z : Option Nat × State) => Keeps m s0 z.2) ?_ ?_
  · refine keeps_snd (P := fun z => Keeps m s0 z) ?_
    refine State.when_keeps (State.defError_keeps h (covers_trans (by decide) hm) _ _ _ _) _ _ fun _ h5 => ?_
    exact (State.outError_keeps h5 (covers_trans (by decide) hm))
  · refine keeps_ite (P := fun (z : Option Nat × State) => Keeps m s0 z.2) ?_ ?_
    · refine keeps_snd (P := fun z => Keeps m s0 z) ?_
      exact (State.defError_keeps h (covers_trans (by decide) hm) _ _ _ _)
    · refine keeps_ite (P := fun (z : Option Nat × State) => Keeps m s0 z.2) ?_ ?_
      · refine keeps_snd (P := fun z => Keeps m s0 z) ?_
        exact (State.defError_keeps h (covers_trans (by decide) hm) _ _ _ _)
      · refine keeps_ite (P := fun (z : Option Nat × State) => Keeps m s0 z.2) ?_ ?_
        · exact (State.granaryRead_keeps h (covers_trans (by decide) hm) _ _ _)
        · refine keeps_ite (P := fun (z : Option Nat × State) => Keeps m s0 z.2) ?_ ?_
          · refine keeps_ite (P := fun (z : Option Nat × State) => Keeps m s0 z.2) ?_ ?_
            · refine keeps_snd (P := fun z => Keeps m s0 z) ?_
              exact (State.cellarWake_keeps h (covers_trans (by decide) hm))
            · refine keeps_snd (P := fun z => Keeps m s0 z) ?_
              exact (State.cellarError_keeps h (covers_trans (by decide) hm))
          · refine keeps_ite (P := fun (z : Option Nat × State) => Keeps m s0 z.2) ?_ ?_
            · refine keeps_ite (P := fun (z : Option Nat × State) => Keeps m s0 z.2) ?_ ?_
              · refine keeps_snd (P := fun z => Keeps m s0 z) ?_
                exact h
              · refine keeps_snd (P := fun z => Keeps m s0 z) ?_
                exact (State.defError_keeps h (covers_trans (by decide) hm) _ _ _ _)
            · refine keeps_ite (P := fun (z : Option Nat × State) => Keeps m s0 z.2) ?_ ?_
              · refine keeps_ite (P := fun (z : Option Nat × State) => Keeps m s0 z.2) ?_ ?_
                · refine keeps_snd (P := fun z => Keeps m s0 z) ?_
                  exact (State.outError_keeps h (covers_trans (by decide) hm))
                · split
                  · refine keeps_snd (P := fun z => Keeps m s0 z) ?_
                    exact h
                  · refine keeps_snd (P := fun z => Keeps m s0 z) ?_
                    exact (State.outError_keeps h (covers_trans (by decide) hm))
              · refine keeps_ite (P := fun (z : Option Nat × State) => Keeps m s0 z.2) ?_ ?_
                · refine keeps_snd (P := fun z => Keeps m s0 z) ?_
                  exact (State.defError_keeps h (covers_trans (by decide) hm) _ _ _ _)
                · refine keeps_ite (P := fun (z : Option Nat × State) => Keeps m s0 z.2) ?_ ?_
                  · refine keeps_snd (P := fun z => Keeps m s0 z) ?_
                    exact h
                  · refine keeps_ite (P := fun (z : Option Nat × State) => Keeps m s0 z.2) ?_ ?_
                    · refine keeps_ite (P := fun (z : Option Nat × State) => Keeps m s0 z.2) ?_ ?_
                      · refine keeps_snd (P := fun z => Keeps m s0 z) ?_
                        exact h
                      · refine keeps_ite (P := fun (z : Option Nat × State) => Keeps m s0 z.2) ?_ ?_
                        · refine keeps_snd (P := fun z => Keeps m s0 z) ?_
                          exact h
                        · refine keeps_snd (P := fun z => Keeps m s0 z) ?_
                          exact (State.bump_keeps h (covers_trans (by decide) hm) _ _ _ _)
                    · refine keeps_ite (P := fun (z : Option Nat × State) => Keeps m s0 z.2) ?_ ?_
                      · refine keeps_snd (P := fun z => Keeps m s0 z) ?_
                        exact h
                      · refine keeps_ite (P := fun (z : Option Nat × State) => Keeps m s0 z.2) ?_ ?_
                        · refine keeps_snd (P := fun z => Keeps m s0 z) ?_
                          exact (State.defError_keeps h (covers_trans (by decide) hm) _ _ _ _)
                        · refine keeps_ite (P := fun (z : Option Nat × State) => Keeps m s0 z.2) ?_ ?_
                          · refine keeps_snd (P := fun z => Keeps m s0 z) ?_
                            exact (State.pageError_keeps h (covers_trans (by decide) hm) _ _ _ _ _)
                          · refine keeps_snd (P := fun z => Keeps m s0 z) ?_
                            exact hx2

theorem State.fabWrite_keeps (h : Keeps m s0 s) (hm : covers m [.regs, .live, .pend, .mem, .eng, .xrd, .scn, .chn, .fab, .dma, .que, .host, .mil, .net, .ports, .stp, .nbr, .modes, .memx, .boot, .flt, .out, .free] = true) : ∀ a1 a2 a3 a4 a5, Keeps m s0 (State.fabWrite s a1 a2 a3 a4 a5).2 := by
  intro a1 a2 a3 a4 a5
  unfold State.fabWrite
  extract_lets -merge -underBinder x0 x1 x2 x3
  have hx3 : Keeps m s0 x3.2 := (State.granaryWrite_keeps h (covers_trans (by decide) hm) _ _ _ _)
  try clear_value x3
  refine keeps_ite (P := fun (z : WrResult × State) => Keeps m s0 z.2) ?_ ?_
  · refine keeps_snd (P := fun z => Keeps m s0 z) ?_
    refine State.when_keeps (State.defError_keeps h (covers_trans (by decide) hm) _ _ _ _) _ _ fun _ h4 => ?_
    exact (State.outError_keeps h4 (covers_trans (by decide) hm))
  · refine keeps_ite (P := fun (z : WrResult × State) => Keeps m s0 z.2) ?_ ?_
    · refine keeps_snd (P := fun z => Keeps m s0 z) ?_
      exact (State.defError_keeps h (covers_trans (by decide) hm) _ _ _ _)
    · refine keeps_ite (P := fun (z : WrResult × State) => Keeps m s0 z.2) ?_ ?_
      · refine keeps_snd (P := fun z => Keeps m s0 z) ?_
        exact (State.defError_keeps h (covers_trans (by decide) hm) _ _ _ _)
      · refine keeps_ite (P := fun (z : WrResult × State) => Keeps m s0 z.2) ?_ ?_
        · split
          · refine keeps_snd (P := fun z => Keeps m s0 z) ?_
            exact hx3
          · refine keeps_snd (P := fun z => Keeps m s0 z) ?_
            exact hx3
          · refine keeps_snd (P := fun z => Keeps m s0 z) ?_
            exact hx3
        · refine keeps_ite (P := fun (z : WrResult × State) => Keeps m s0 z.2) ?_ ?_
          · refine keeps_ite (P := fun (z : WrResult × State) => Keeps m s0 z.2) ?_ ?_
            · refine keeps_snd (P := fun z => Keeps m s0 z) ?_
              exact (State.setBytes_keeps (State.cellarWake_keeps h (covers_trans (by decide) hm)) (covers_trans (by decide) hm) _ _)
            · refine keeps_snd (P := fun z => Keeps m s0 z) ?_
              exact (State.cellarError_keeps h (covers_trans (by decide) hm))
          · refine keeps_ite (P := fun (z : WrResult × State) => Keeps m s0 z.2) ?_ ?_
            · refine keeps_ite (P := fun (z : WrResult × State) => Keeps m s0 z.2) ?_ ?_
              · refine keeps_snd (P := fun z => Keeps m s0 z) ?_
                exact (State.defError_keeps h (covers_trans (by decide) hm) _ _ _ _)
              · refine keeps_ite (P := fun (z : WrResult × State) => Keeps m s0 z.2) ?_ ?_
                · refine keeps_snd (P := fun z => Keeps m s0 z) ?_
                  exact h
                · refine keeps_snd (P := fun z => Keeps m s0 z) ?_
                  exact (State.setBytes_keeps h (covers_trans (by decide) hm) _ _)
            · refine keeps_ite (P := fun (z : WrResult × State) => Keeps m s0 z.2) ?_ ?_
              · refine keeps_ite (P := fun (z : WrResult × State) => Keeps m s0 z.2) ?_ ?_
                · refine keeps_snd (P := fun z => Keeps m s0 z) ?_
                  exact (State.outError_keeps h (covers_trans (by decide) hm))
                · refine keeps_snd (P := fun z => Keeps m s0 z) ?_
                  exact (State.emit_keeps h (covers_trans (by decide) hm) _)
              · refine keeps_ite (P := fun (z : WrResult × State) => Keeps m s0 z.2) ?_ ?_
                · refine keeps_snd (P := fun z => Keeps m s0 z) ?_
                  exact (State.defError_keeps h (covers_trans (by decide) hm) _ _ _ _)
                · refine keeps_ite (P := fun (z : WrResult × State) => Keeps m s0 z.2) ?_ ?_
                  · refine keeps_snd (P := fun z => Keeps m s0 z) ?_
                    exact h
                  · refine keeps_ite (P := fun (z : WrResult × State) => Keeps m s0 z.2) ?_ ?_
                    · refine keeps_ite (P := fun (z : WrResult × State) => Keeps m s0 z.2) ?_ ?_
                      · refine keeps_snd (P := fun z => Keeps m s0 z) ?_
                        exact h
                      · refine keeps_ite (P := fun (z : WrResult × State) => Keeps m s0 z.2) ?_ ?_
                        · refine keeps_snd (P := fun z => Keeps m s0 z) ?_
                          exact (State.setBytes_keeps h (covers_trans (by decide) hm) _ _)
                        · refine keeps_snd (P := fun z => Keeps m s0 z) ?_
                          exact (State.bump_keeps h (covers_trans (by decide) hm) _ _ _ _)
                    · refine keeps_ite (P := fun (z : WrResult × State) => Keeps m s0 z.2) ?_ ?_
                      · refine keeps_snd (P := fun z => Keeps m s0 z) ?_
                        exact (State.defError_keeps h (covers_trans (by decide) hm) _ _ _ _)
                      · refine keeps_ite (P := fun (z : WrResult × State) => Keeps m s0 z.2) ?_ ?_
                        · refine keeps_snd (P := fun z => Keeps m s0 z) ?_
                          exact (State.pageError_keeps h (covers_trans (by decide) hm) _ _ _ _ _)
                        · refine keeps_snd (P := fun z => Keeps m s0 z) ?_
                          refine keeps_foldl (P := fun z => Keeps m s0 z) ?_ fun _ _ h5 => ?_
                          · exact h
                          · exact (State.writeBeat_keeps h5 (covers_trans (by decide) hm) _ _ _)

theorem State.answerReq_keeps (h : Keeps m s0 s) (hm : covers m [.regs, .resp] = true) : ∀ a1 a2 a3, Keeps m s0 (State.answerReq s a1 a2 a3) := by
  intro a1 a2 a3
  unfold State.answerReq
  refine (State.respond_keeps ?_ (covers_trans (by decide) hm) _ _ _)
  refine keeps_ite (P := fun z => Keeps m s0 z) ?_ ?_
  · exact (State.bump_keeps h (covers_trans (by decide) hm) _ _ _ _)
  · exact h

theorem State.runReq_keeps (h : Keeps m s0 s) (hm : covers m [.regs, .live, .pend, .mem, .eng, .xrd, .scn, .chn, .fab, .dma, .que, .host, .mil, .net, .ports, .stp, .nbr, .modes, .memx, .boot, .flt, .resp, .out, .free] = true) : ∀ a1, Keeps m s0 (State.runReq s a1) := by
  intro a1
  unfold State.runReq
  extract_lets -merge -underBinder x0 x1 x2
  have hx0 : Keeps m s0 x0 := (State.peak_keeps h (covers_trans (by decide) hm) _ _ _ _)
  have hx1 : Keeps m s0 x1.2 := (State.fabWrite_keeps hx0 (covers_trans (by decide) hm) _ _ _ _ _)
  have hx2 : Keeps m s0 x2.2 := (State.fabRead_keeps hx0 (covers_trans (by decide) hm) _ _ _ _)
  try clear_value x2
  try clear_value x1
  try clear_value x0
  refine keeps_ite (P := fun z => Keeps m s0 z) ?_ ?_
  · exact (State.modFab_keeps hx0 (covers_trans (by decide) hm) _)
  · refine keeps_ite (P := fun z => Keeps m s0 z) ?_ ?_
    · split
      · exact (State.answerReq_keeps hx1 (covers_trans (by decide) hm) _ _ _)
      · exact (State.answerReq_keeps hx1 (covers_trans (by decide) hm) _ _ _)
      · exact hx1
    · split
      · exact (State.answerReq_keeps hx2 (covers_trans (by decide) hm) _ _ _)
      · exact (State.answerReq_keeps hx2 (covers_trans (by decide) hm) _ _ _)

theorem State.acceptReq_keeps (h : Keeps m s0 s) (hm : covers m [.regs, .live, .pend, .mem, .eng, .xrd, .scn, .chn, .fab, .dma, .que, .host, .mil, .net, .ports, .stp, .nbr, .modes, .memx, .boot, .flt, .resp, .out, .free] = true) : ∀ a1 a2, Keeps m s0 (State.acceptReq s a1 a2) := by
  intro a1 a2
  unfold State.acceptReq
  refine keeps_ite (P := fun z => Keeps m s0 z) ?_ ?_
  · exact h
  · refine keeps_ite (P := fun z => Keeps m s0 z) ?_ ?_
    · exact (State.bump_keeps h (covers_trans (by decide) hm) _ _ _ _)
    · extract_lets -merge -underBinder x0 x1 x2 x3
      have hx3 : Keeps m s0 x3 := (State.modFab_keeps h (covers_trans (by decide) hm) _)
      try clear_value x3
      refine keeps_ite (P := fun z => Keeps m s0 z) ?_ ?_
      · refine keeps_ite (P := fun z => Keeps m s0 z) ?_ ?_
        · exact (State.bump_keeps hx3 (covers_trans (by decide) hm) _ _ _ _)
        · exact hx3
      · exact (State.runReq_keeps h (covers_trans (by decide) hm) _)

theorem State.retryHeld_keeps (h : Keeps m s0 s) (hm : covers m [.regs, .live, .pend, .mem, .eng, .xrd, .scn, .chn, .fab, .dma, .que, .host, .mil, .net, .ports, .stp, .nbr, .modes, .memx, .boot, .flt, .resp, .out, .free] = true) : Keeps m s0 (State.retryHeld s) := by
  unfold State.retryHeld
  refine keeps_foldl (P := fun z => Keeps m s0 z) ?_ fun _ _ h0 => ?_
  · exact (State.modFab_keeps h (covers_trans (by decide) hm) _)
  · exact (State.acceptReq_keeps h0 (covers_trans (by decide) hm) _ _)

theorem State.quarantineEnd_keeps (h : Keeps m s0 s) (hm : covers m [.regs, .live, .pend, .mem, .eng, .xrd, .scn, .chn, .fab, .dma, .que, .host, .mil, .net, .ports, .stp, .nbr, .modes, .memx, .boot, .flt, .resp, .out, .free] = true) : ∀ a1, Keeps m s0 (State.quarantineEnd s a1) := by
  intro a1
  unfold State.quarantineEnd
  extract_lets -merge -underBinder x0
  refine keeps_ite (P := fun z => Keeps m s0 z) ?_ ?_
  · exact (State.retryHeld_keeps (State.raise_keeps (State.wr_keeps h (covers_trans (by decide) hm) _ _ _ _) (covers_trans (by decide) hm) _ _) (covers_trans (by decide) hm))
  · exact h

theorem State.holdProceed_keeps (h : Keeps m s0 s) (hm : covers m [.regs, .live, .pend, .mem, .eng, .xrd, .scn, .chn, .fab, .dma, .que, .host, .mil, .net, .ports, .stp, .nbr, .modes, .memx, .boot, .flt, .resp, .out, .free] = true) : ∀ a1, Keeps m s0 (State.holdProceed s a1) := by
  intro a1
  unfold State.holdProceed
  refine keeps_ite (P := fun z => Keeps m s0 z) ?_ ?_
  · exact (State.queueHold_keeps h (covers_trans (by decide) hm) _)
  · refine keeps_ite (P := fun z => Keeps m s0 z) ?_ ?_
    · exact (State.engineHeldWrite_keeps h (covers_trans (by decide) hm) _)
    · extract_lets -merge -underBinder x0
      have hx0 : Keeps m s0 x0.2 := (State.granaryWrite_keeps h (covers_trans (by decide) hm) _ _ _ _)
      try clear_value x0
      refine keeps_ite (P := fun z => Keeps m s0 z) ?_ ?_
      · exact hx0
      · refine keeps_ite (P := fun z => Keeps m s0 z) ?_ ?_
        · exact (State.quarantineEnd_keeps hx0 (covers_trans (by decide) hm) _)
        · exact (State.answerReq_keeps hx0 (covers_trans (by decide) hm) _ _ _)

theorem execHoldWaitProceed_keeps : ∀ t, execHoldWaitProceed s = .next t →
    Keeps [.regs, .live, .pend, .mem, .eng, .xrd, .scn, .chn, .fab, .dma, .que, .host, .mil, .net, .ports, .stp, .nbr, .modes, .memx, .boot, .flt, .resp, .out, .free] s t := by
  intro t e
  have hm : covers [.regs, .live, .pend, .mem, .eng, .xrd, .scn, .chn, .fab, .dma, .que, .host, .mil, .net, .ports, .stp, .nbr, .modes, .memx, .boot, .flt, .resp, .out, .free] [.regs, .live, .pend, .mem, .eng, .xrd, .scn, .chn, .fab, .dma, .que, .host, .mil, .net, .ports, .stp, .nbr, .modes, .memx, .boot, .flt, .resp, .out, .free] = true := by decide
  have h := Keeps.refl [.regs, .live, .pend, .mem, .eng, .xrd, .scn, .chn, .fab, .dma, .que, .host, .mil, .net, .ports, .stp, .nbr, .modes, .memx, .boot, .flt, .resp, .out, .free] s
  unfold execHoldWaitProceed at e
  replace e := Host.Outcome.next.inj e
  subst e
  refine (State.retryHeld_keeps ?_ (covers_trans (by decide) hm))
  refine keeps_foldl (P := fun z => Keeps [.regs, .live, .pend, .mem, .eng, .xrd, .scn, .chn, .fab, .dma, .que, .host, .mil, .net, .ports, .stp, .nbr, .modes, .memx, .boot, .flt, .resp, .out, .free] s z) ?_ fun _ _ h0 => ?_
  · exact (keeps_memx h (covers_trans (by decide) hm))
  · exact (State.holdProceed_keeps h0 (covers_trans (by decide) hm) _)

theorem execTargetTimeout_keeps : ∀ a0 a1 t, execTargetTimeout a0 a1 s = .next t →
    Keeps [.regs, .live, .pend, .mem, .eng, .xrd, .scn, .chn, .fab, .dma, .que, .host, .mil, .net, .ports, .stp, .nbr, .modes, .memx, .boot, .flt, .resp, .out, .free] s t := by
  intro a0 a1 t e
  have hm : covers [.regs, .live, .pend, .mem, .eng, .xrd, .scn, .chn, .fab, .dma, .que, .host, .mil, .net, .ports, .stp, .nbr, .modes, .memx, .boot, .flt, .resp, .out, .free] [.regs, .live, .pend, .mem, .eng, .xrd, .scn, .chn, .fab, .dma, .que, .host, .mil, .net, .ports, .stp, .nbr, .modes, .memx, .boot, .flt, .resp, .out, .free] = true := by decide
  have h := Keeps.refl [.regs, .live, .pend, .mem, .eng, .xrd, .scn, .chn, .fab, .dma, .que, .host, .mil, .net, .ports, .stp, .nbr, .modes, .memx, .boot, .flt, .resp, .out, .free] s
  unfold execTargetTimeout at e
  replace e := Host.Outcome.next.inj e
  subst e
  split
  · exact h
  · extract_lets -merge -underBinder x0 x1 x2
    have hx1 : Keeps [.regs, .live, .pend, .mem, .eng, .xrd, .scn, .chn, .fab, .dma, .que, .host, .mil, .net, .ports, .stp, .nbr, .modes, .memx, .boot, .flt, .resp, .out, .free] s x1 := (State.modFab_keeps h (covers_trans (by decide) hm) _)
    have hx2 : Keeps [.regs, .live, .pend, .mem, .eng, .xrd, .scn, .chn, .fab, .dma, .que, .host, .mil, .net, .ports, .stp, .nbr, .modes, .memx, .boot, .flt, .resp, .out, .free] s x2 := by
      subst x2
      refine State.when_keeps (State.defError_keeps hx1 (covers_trans (by decide) hm) _ _ _ _) _ _ fun _ h3 => ?_
      exact (State.outError_keeps h3 (covers_trans (by decide) hm))
    try clear_value x2
    try clear_value x1
    refine keeps_ite (P := fun z => Keeps [.regs, .live, .pend, .mem, .eng, .xrd, .scn, .chn, .fab, .dma, .que, .host, .mil, .net, .ports, .stp, .nbr, .modes, .memx, .boot, .flt, .resp, .out, .free] s z) ?_ ?_
    · exact (State.quarantineEnd_keeps hx2 (covers_trans (by decide) hm) _)
    · exact (State.retryHeld_keeps (State.answerReq_keeps hx2 (covers_trans (by decide) hm) _ _ _) (covers_trans (by decide) hm))

theorem execLateResponse_keeps : ∀ a0 t, execLateResponse a0 s = .next t →
    Keeps [.regs, .live, .pend, .mem, .eng, .xrd, .scn, .chn, .fab, .dma, .que, .host, .mil, .net, .ports, .stp, .nbr, .modes, .memx, .boot, .flt, .out, .free] s t := by
  intro a0 t e
  have hm : covers [.regs, .live, .pend, .mem, .eng, .xrd, .scn, .chn, .fab, .dma, .que, .host, .mil, .net, .ports, .stp, .nbr, .modes, .memx, .boot, .flt, .out, .free] [.regs, .live, .pend, .mem, .eng, .xrd, .scn, .chn, .fab, .dma, .que, .host, .mil, .net, .ports, .stp, .nbr, .modes, .memx, .boot, .flt, .out, .free] = true := by decide
  have h := Keeps.refl [.regs, .live, .pend, .mem, .eng, .xrd, .scn, .chn, .fab, .dma, .que, .host, .mil, .net, .ports, .stp, .nbr, .modes, .memx, .boot, .flt, .out, .free] s
  unfold execLateResponse at e
  replace e := Host.Outcome.next.inj e
  subst e
  split
  · exact h
  · extract_lets -merge -underBinder x0 x1 x2
    have hx1 : Keeps [.regs, .live, .pend, .mem, .eng, .xrd, .scn, .chn, .fab, .dma, .que, .host, .mil, .net, .ports, .stp, .nbr, .modes, .memx, .boot, .flt, .out, .free] s x1 := (State.modFab_keeps h (covers_trans (by decide) hm) _)
    have hx2 : Keeps [.regs, .live, .pend, .mem, .eng, .xrd, .scn, .chn, .fab, .dma, .que, .host, .mil, .net, .ports, .stp, .nbr, .modes, .memx, .boot, .flt, .out, .free] s x2 := by
      subst x2
      refine keeps_ite (P := fun z => Keeps [.regs, .live, .pend, .mem, .eng, .xrd, .scn, .chn, .fab, .dma, .que, .host, .mil, .net, .ports, .stp, .nbr, .modes, .memx, .boot, .flt, .out, .free] s z) ?_ ?_
      · exact (State.fabWrite_keeps hx1 (covers_trans (by decide) hm) _ _ _ _ _)
      · exact hx1
    try clear_value x2
    try clear_value x1
    refine keeps_ite (P := fun z => Keeps [.regs, .live, .pend, .mem, .eng, .xrd, .scn, .chn, .fab, .dma, .que, .host, .mil, .net, .ports, .stp, .nbr, .modes, .memx, .boot, .flt, .out, .free] s z) ?_ ?_
    · exact (State.bump_keeps hx2 (covers_trans (by decide) hm) _ _ _ _)
    · exact (State.bump_keeps hx2 (covers_trans (by decide) hm) _ _ _ _)

theorem execMasterReset_keeps : ∀ a0 a1 t, execMasterReset a0 a1 s = .next t →
    Keeps [.regs, .fab, .dma, .que, .host, .out] s t := by
  intro a0 a1 t e
  have hm : covers [.regs, .fab, .dma, .que, .host, .out] [.regs, .fab, .dma, .que, .host, .out] = true := by decide
  have h := Keeps.refl [.regs, .fab, .dma, .que, .host, .out] s
  unfold execMasterReset at e
  replace e := Host.Outcome.next.inj e
  subst e
  refine keeps_ite (P := fun z => Keeps [.regs, .fab, .dma, .que, .host, .out] s z) ?_ ?_
  · exact h
  · refine keeps_ite (P := fun z => Keeps [.regs, .fab, .dma, .que, .host, .out] s z) ?_ ?_
    · exact (State.dmaReset_keeps h (covers_trans (by decide) hm))
    · refine keeps_ite (P := fun z => Keeps [.regs, .fab, .dma, .que, .host, .out] s z) ?_ ?_
      · extract_lets -merge -underBinder x0
        have hx0 : Keeps [.regs, .fab, .dma, .que, .host, .out] s x0 := (State.wr_keeps (State.wr_keeps (State.wr_keeps (State.wr_keeps h (covers_trans (by decide) hm) _ _ _ _) (covers_trans (by decide) hm) _ _ _ _) (covers_trans (by decide) hm) _ _ _ _) (covers_trans (by decide) hm) _ _ _ _)
        try clear_value x0
        exact (State.masterReset_keeps (State.raise_keeps (State.modHost_keeps hx0 (covers_trans (by decide) hm) _) (covers_trans (by decide) hm) _ _) (covers_trans (by decide) hm) _)
      · exact (State.masterReset_keeps h (covers_trans (by decide) hm) _)

theorem execQuarantineEnd_keeps : ∀ a0 t, execQuarantineEnd a0 s = .next t →
    Keeps [.regs, .live, .pend, .mem, .eng, .xrd, .scn, .chn, .fab, .dma, .que, .host, .mil, .net, .ports, .stp, .nbr, .modes, .memx, .boot, .flt, .resp, .out, .free] s t := by
  intro a0 t e
  have hm : covers [.regs, .live, .pend, .mem, .eng, .xrd, .scn, .chn, .fab, .dma, .que, .host, .mil, .net, .ports, .stp, .nbr, .modes, .memx, .boot, .flt, .resp, .out, .free] [.regs, .live, .pend, .mem, .eng, .xrd, .scn, .chn, .fab, .dma, .que, .host, .mil, .net, .ports, .stp, .nbr, .modes, .memx, .boot, .flt, .resp, .out, .free] = true := by decide
  have h := Keeps.refl [.regs, .live, .pend, .mem, .eng, .xrd, .scn, .chn, .fab, .dma, .que, .host, .mil, .net, .ports, .stp, .nbr, .modes, .memx, .boot, .flt, .resp, .out, .free] s
  unfold execQuarantineEnd at e
  replace e := Host.Outcome.next.inj e
  subst e
  refine keeps_ite (P := fun z => Keeps [.regs, .live, .pend, .mem, .eng, .xrd, .scn, .chn, .fab, .dma, .que, .host, .mil, .net, .ports, .stp, .nbr, .modes, .memx, .boot, .flt, .resp, .out, .free] s z) ?_ ?_
  · exact (State.quarantineEnd_keeps (State.modFab_keeps h (covers_trans (by decide) hm) _) (covers_trans (by decide) hm) _)
  · exact h

theorem execFabSyncRead_keeps : ∀ a0 t, execFabSyncRead a0 s = .next t →
    Keeps [.regs, .live, .pend, .mem, .eng, .xrd, .scn, .chn, .fab, .dma, .que, .host, .mil, .net, .ports, .stp, .nbr, .modes, .memx, .boot, .flt, .resp, .out, .free] s t := by
  intro a0 t e
  have hm : covers [.regs, .live, .pend, .mem, .eng, .xrd, .scn, .chn, .fab, .dma, .que, .host, .mil, .net, .ports, .stp, .nbr, .modes, .memx, .boot, .flt, .resp, .out, .free] [.regs, .live, .pend, .mem, .eng, .xrd, .scn, .chn, .fab, .dma, .que, .host, .mil, .net, .ports, .stp, .nbr, .modes, .memx, .boot, .flt, .resp, .out, .free] = true := by decide
  have h := Keeps.refl [.regs, .live, .pend, .mem, .eng, .xrd, .scn, .chn, .fab, .dma, .que, .host, .mil, .net, .ports, .stp, .nbr, .modes, .memx, .boot, .flt, .resp, .out, .free] s
  unfold execFabSyncRead at e
  replace e := Host.Outcome.next.inj e
  subst e
  exact (State.acceptReq_keeps h (covers_trans (by decide) hm) _ _)

theorem execFabricRequest_keeps : ∀ a0 a1 a2 a3 a4 a5 a6 t, execFabricRequest a0 a1 a2 a3 a4 a5 a6 s = .next t →
    Keeps [.regs, .live, .pend, .mem, .eng, .xrd, .scn, .chn, .fab, .dma, .que, .host, .mil, .net, .ports, .stp, .nbr, .modes, .memx, .boot, .flt, .resp, .out, .free] s t := by
  intro a0 a1 a2 a3 a4 a5 a6 t e
  have hm : covers [.regs, .live, .pend, .mem, .eng, .xrd, .scn, .chn, .fab, .dma, .que, .host, .mil, .net, .ports, .stp, .nbr, .modes, .memx, .boot, .flt, .resp, .out, .free] [.regs, .live, .pend, .mem, .eng, .xrd, .scn, .chn, .fab, .dma, .que, .host, .mil, .net, .ports, .stp, .nbr, .modes, .memx, .boot, .flt, .resp, .out, .free] = true := by decide
  have h := Keeps.refl [.regs, .live, .pend, .mem, .eng, .xrd, .scn, .chn, .fab, .dma, .que, .host, .mil, .net, .ports, .stp, .nbr, .modes, .memx, .boot, .flt, .resp, .out, .free] s
  unfold execFabricRequest at e
  extract_lets -merge -underBinder x0 x1 x2 x3 at e
  have hx2 : Keeps [.regs, .live, .pend, .mem, .eng, .xrd, .scn, .chn, .fab, .dma, .que, .host, .mil, .net, .ports, .stp, .nbr, .modes, .memx, .boot, .flt, .resp, .out, .free] s x2 := by
    subst x2
    refine keeps_ite (P := fun z => Keeps [.regs, .live, .pend, .mem, .eng, .xrd, .scn, .chn, .fab, .dma, .que, .host, .mil, .net, .ports, .stp, .nbr, .modes, .memx, .boot, .flt, .resp, .out, .free] s z) ?_ ?_
    · exact h
    · exact (State.answerReq_keeps h (covers_trans (by decide) hm) _ _ _)
  try clear_value x2
  replace e := Host.Outcome.next.inj e
  subst e
  split
  · refine keeps_ite (P := fun z => Keeps [.regs, .live, .pend, .mem, .eng, .xrd, .scn, .chn, .fab, .dma, .que, .host, .mil, .net, .ports, .stp, .nbr, .modes, .memx, .boot, .flt, .resp, .out, .free] s z) ?_ ?_
    · dsimp -zeta only [x1]
      exact (State.acceptReq_keeps h (covers_trans (by decide) hm) _ _)
    · exact (State.answerReq_keeps (State.defError_keeps h (covers_trans (by decide) hm) _ _ _ _) (covers_trans (by decide) hm) _ _ _)
  · refine keeps_ite (P := fun z => Keeps [.regs, .live, .pend, .mem, .eng, .xrd, .scn, .chn, .fab, .dma, .que, .host, .mil, .net, .ports, .stp, .nbr, .modes, .memx, .boot, .flt, .resp, .out, .free] s z) ?_ ?_
    · refine keeps_ite (P := fun z => Keeps [.regs, .live, .pend, .mem, .eng, .xrd, .scn, .chn, .fab, .dma, .que, .host, .mil, .net, .ports, .stp, .nbr, .modes, .memx, .boot, .flt, .resp, .out, .free] s z) ?_ ?_
      · refine (State.respond_keeps ?_ (covers_trans (by decide) hm) _ _ _)
        refine keeps_ite (P := fun z => Keeps [.regs, .live, .pend, .mem, .eng, .xrd, .scn, .chn, .fab, .dma, .que, .host, .mil, .net, .ports, .stp, .nbr, .modes, .memx, .boot, .flt, .resp, .out, .free] s z) ?_ ?_
        · refine keeps_foldl (P := fun z => Keeps [.regs, .live, .pend, .mem, .eng, .xrd, .scn, .chn, .fab, .dma, .que, .host, .mil, .net, .ports, .stp, .nbr, .modes, .memx, .boot, .flt, .resp, .out, .free] s z) ?_ fun _ _ h4 => ?_
          · exact h
          · exact (State.msixWrite_keeps h4 (covers_trans (by decide) hm) _ _)
        · exact h
      · exact (State.respond_keeps h (covers_trans (by decide) hm) _ _ _)
    · dsimp -zeta only [x3]
      refine keeps_ite (P := fun z => Keeps [.regs, .live, .pend, .mem, .eng, .xrd, .scn, .chn, .fab, .dma, .que, .host, .mil, .net, .ports, .stp, .nbr, .modes, .memx, .boot, .flt, .resp, .out, .free] s z) ?_ ?_
      · exact hx2
      · split
        · dsimp -zeta only [x1]
          exact (State.acceptReq_keeps h (covers_trans (by decide) hm) _ _)
        · exact hx2
  · dsimp -zeta only [x3]
    refine keeps_ite (P := fun z => Keeps [.regs, .live, .pend, .mem, .eng, .xrd, .scn, .chn, .fab, .dma, .que, .host, .mil, .net, .ports, .stp, .nbr, .modes, .memx, .boot, .flt, .resp, .out, .free] s z) ?_ ?_
    · exact hx2
    · split
      · dsimp -zeta only [x1]
        exact (State.acceptReq_keeps h (covers_trans (by decide) hm) _ _)
      · exact hx2
  · dsimp -zeta only [x3]
    refine keeps_ite (P := fun z => Keeps [.regs, .live, .pend, .mem, .eng, .xrd, .scn, .chn, .fab, .dma, .que, .host, .mil, .net, .ports, .stp, .nbr, .modes, .memx, .boot, .flt, .resp, .out, .free] s z) ?_ ?_
    · exact hx2
    · split
      · dsimp -zeta only [x1]
        exact (State.acceptReq_keeps h (covers_trans (by decide) hm) _ _)
      · exact hx2

theorem execRegisterWrite_keeps : ∀ a0 a1 a2 a3 t, execRegisterWrite a0 a1 a2 a3 s = .next t →
    Keeps [.regs, .live, .pend, .mem, .eng, .xrd, .scn, .chn, .fab, .dma, .que, .host, .mil, .net, .ports, .stp, .nbr, .modes, .memx, .boot, .flt, .resp, .out, .free] s t := by
  intro a0 a1 a2 a3 t e
  have hm : covers [.regs, .live, .pend, .mem, .eng, .xrd, .scn, .chn, .fab, .dma, .que, .host, .mil, .net, .ports, .stp, .nbr, .modes, .memx, .boot, .flt, .resp, .out, .free] [.regs, .live, .pend, .mem, .eng, .xrd, .scn, .chn, .fab, .dma, .que, .host, .mil, .net, .ports, .stp, .nbr, .modes, .memx, .boot, .flt, .resp, .out, .free] = true := by decide
  have h := Keeps.refl [.regs, .live, .pend, .mem, .eng, .xrd, .scn, .chn, .fab, .dma, .que, .host, .mil, .net, .ports, .stp, .nbr, .modes, .memx, .boot, .flt, .resp, .out, .free] s
  unfold execRegisterWrite at e
  replace e := Host.Outcome.next.inj e
  subst e
  exact (State.acceptReq_keeps h (covers_trans (by decide) hm) _ _)

theorem execSetAliasWrite_keeps : ∀ a0 a1 a2 a3 t, execSetAliasWrite a0 a1 a2 a3 s = .next t →
    Keeps [.regs, .live, .pend, .mem, .eng, .xrd, .scn, .chn, .fab, .dma, .que, .host, .mil, .net, .ports, .stp, .nbr, .modes, .memx, .boot, .flt, .resp, .out, .free] s t := by
  intro a0 a1 a2 a3 t e
  have hm : covers [.regs, .live, .pend, .mem, .eng, .xrd, .scn, .chn, .fab, .dma, .que, .host, .mil, .net, .ports, .stp, .nbr, .modes, .memx, .boot, .flt, .resp, .out, .free] [.regs, .live, .pend, .mem, .eng, .xrd, .scn, .chn, .fab, .dma, .que, .host, .mil, .net, .ports, .stp, .nbr, .modes, .memx, .boot, .flt, .resp, .out, .free] = true := by decide
  have h := Keeps.refl [.regs, .live, .pend, .mem, .eng, .xrd, .scn, .chn, .fab, .dma, .que, .host, .mil, .net, .ports, .stp, .nbr, .modes, .memx, .boot, .flt, .resp, .out, .free] s
  unfold execSetAliasWrite at e
  replace e := Host.Outcome.next.inj e
  subst e
  exact (State.acceptReq_keeps h (covers_trans (by decide) hm) _ _)

theorem execClearAliasWrite_keeps : ∀ a0 a1 a2 a3 t, execClearAliasWrite a0 a1 a2 a3 s = .next t →
    Keeps [.regs, .live, .pend, .mem, .eng, .xrd, .scn, .chn, .fab, .dma, .que, .host, .mil, .net, .ports, .stp, .nbr, .modes, .memx, .boot, .flt, .resp, .out, .free] s t := by
  intro a0 a1 a2 a3 t e
  have hm : covers [.regs, .live, .pend, .mem, .eng, .xrd, .scn, .chn, .fab, .dma, .que, .host, .mil, .net, .ports, .stp, .nbr, .modes, .memx, .boot, .flt, .resp, .out, .free] [.regs, .live, .pend, .mem, .eng, .xrd, .scn, .chn, .fab, .dma, .que, .host, .mil, .net, .ports, .stp, .nbr, .modes, .memx, .boot, .flt, .resp, .out, .free] = true := by decide
  have h := Keeps.refl [.regs, .live, .pend, .mem, .eng, .xrd, .scn, .chn, .fab, .dma, .que, .host, .mil, .net, .ports, .stp, .nbr, .modes, .memx, .boot, .flt, .resp, .out, .free] s
  unfold execClearAliasWrite at e
  replace e := Host.Outcome.next.inj e
  subst e
  exact (State.acceptReq_keeps h (covers_trans (by decide) hm) _ _)

theorem execRegisterReadClear_keeps : ∀ a0 a1 a2 t, execRegisterReadClear a0 a1 a2 s = .next t →
    Keeps [.regs, .live, .pend, .mem, .eng, .xrd, .scn, .chn, .fab, .dma, .que, .host, .mil, .net, .ports, .stp, .nbr, .modes, .memx, .boot, .flt, .resp, .out, .free] s t := by
  intro a0 a1 a2 t e
  have hm : covers [.regs, .live, .pend, .mem, .eng, .xrd, .scn, .chn, .fab, .dma, .que, .host, .mil, .net, .ports, .stp, .nbr, .modes, .memx, .boot, .flt, .resp, .out, .free] [.regs, .live, .pend, .mem, .eng, .xrd, .scn, .chn, .fab, .dma, .que, .host, .mil, .net, .ports, .stp, .nbr, .modes, .memx, .boot, .flt, .resp, .out, .free] = true := by decide
  have h := Keeps.refl [.regs, .live, .pend, .mem, .eng, .xrd, .scn, .chn, .fab, .dma, .que, .host, .mil, .net, .ports, .stp, .nbr, .modes, .memx, .boot, .flt, .resp, .out, .free] s
  unfold execRegisterReadClear at e
  replace e := Host.Outcome.next.inj e
  subst e
  exact (State.acceptReq_keeps h (covers_trans (by decide) hm) _ _)

theorem execLockWrite_keeps : ∀ a0 a1 a2 t, execLockWrite a0 a1 a2 s = .next t →
    Keeps [.regs, .live, .pend, .mem, .eng, .xrd, .scn, .chn, .fab, .dma, .que, .host, .mil, .net, .ports, .stp, .nbr, .modes, .memx, .boot, .flt, .resp, .out, .free] s t := by
  intro a0 a1 a2 t e
  have hm : covers [.regs, .live, .pend, .mem, .eng, .xrd, .scn, .chn, .fab, .dma, .que, .host, .mil, .net, .ports, .stp, .nbr, .modes, .memx, .boot, .flt, .resp, .out, .free] [.regs, .live, .pend, .mem, .eng, .xrd, .scn, .chn, .fab, .dma, .que, .host, .mil, .net, .ports, .stp, .nbr, .modes, .memx, .boot, .flt, .resp, .out, .free] = true := by decide
  have h := Keeps.refl [.regs, .live, .pend, .mem, .eng, .xrd, .scn, .chn, .fab, .dma, .que, .host, .mil, .net, .ports, .stp, .nbr, .modes, .memx, .boot, .flt, .resp, .out, .free] s
  unfold execLockWrite at e
  replace e := Host.Outcome.next.inj e
  subst e
  exact (State.acceptReq_keeps h (covers_trans (by decide) hm) _ _)

theorem execIrqRawClear_keeps : ∀ a0 a1 a2 t, execIrqRawClear a0 a1 a2 s = .next t →
    Keeps [.regs, .live, .pend, .mem, .eng, .xrd, .scn, .chn, .fab, .dma, .que, .host, .mil, .net, .ports, .stp, .nbr, .modes, .memx, .boot, .flt, .resp, .out, .free] s t := by
  intro a0 a1 a2 t e
  have hm : covers [.regs, .live, .pend, .mem, .eng, .xrd, .scn, .chn, .fab, .dma, .que, .host, .mil, .net, .ports, .stp, .nbr, .modes, .memx, .boot, .flt, .resp, .out, .free] [.regs, .live, .pend, .mem, .eng, .xrd, .scn, .chn, .fab, .dma, .que, .host, .mil, .net, .ports, .stp, .nbr, .modes, .memx, .boot, .flt, .resp, .out, .free] = true := by decide
  have h := Keeps.refl [.regs, .live, .pend, .mem, .eng, .xrd, .scn, .chn, .fab, .dma, .que, .host, .mil, .net, .ports, .stp, .nbr, .modes, .memx, .boot, .flt, .resp, .out, .free] s
  unfold execIrqRawClear at e
  replace e := Host.Outcome.next.inj e
  subst e
  exact (State.acceptReq_keeps h (covers_trans (by decide) hm) _ _)

theorem execIrqTestWrite_keeps : ∀ a0 a1 a2 t, execIrqTestWrite a0 a1 a2 s = .next t →
    Keeps [.regs, .live, .pend, .mem, .eng, .xrd, .scn, .chn, .fab, .dma, .que, .host, .mil, .net, .ports, .stp, .nbr, .modes, .memx, .boot, .flt, .resp, .out, .free] s t := by
  intro a0 a1 a2 t e
  have hm : covers [.regs, .live, .pend, .mem, .eng, .xrd, .scn, .chn, .fab, .dma, .que, .host, .mil, .net, .ports, .stp, .nbr, .modes, .memx, .boot, .flt, .resp, .out, .free] [.regs, .live, .pend, .mem, .eng, .xrd, .scn, .chn, .fab, .dma, .que, .host, .mil, .net, .ports, .stp, .nbr, .modes, .memx, .boot, .flt, .resp, .out, .free] = true := by decide
  have h := Keeps.refl [.regs, .live, .pend, .mem, .eng, .xrd, .scn, .chn, .fab, .dma, .que, .host, .mil, .net, .ports, .stp, .nbr, .modes, .memx, .boot, .flt, .resp, .out, .free] s
  unfold execIrqTestWrite at e
  replace e := Host.Outcome.next.inj e
  subst e
  exact (State.acceptReq_keeps h (covers_trans (by decide) hm) _ _)

theorem State.i2cCount_keeps (h : Keeps m s0 s) (hm : covers m [.regs] = true) : ∀ a1, Keeps m s0 (State.i2cCount s a1) := by
  intro a1
  unfold State.i2cCount
  extract_lets -merge -underBinder x0
  have hx0 : Keeps m s0 x0 := (State.bump_keeps h (covers_trans (by decide) hm) _ _ _ _)
  try clear_value x0
  refine keeps_ite (P := fun z => Keeps m s0 z) ?_ ?_
  · exact (State.bump_keeps hx0 (covers_trans (by decide) hm) _ _ _ _)
  · exact hx0

theorem State.i2cWrite_keeps (h : Keeps m s0 s) (hm : covers m [.regs, .live, .pend, .mem, .eng, .xrd, .scn, .chn, .fab, .dma, .que, .host, .mil, .net, .ports, .stp, .nbr, .modes, .memx, .boot, .flt, .out, .free] = true) : ∀ a1 a2, Keeps m s0 (State.i2cWrite s a1 a2) := by
  intro a1 a2
  unfold State.i2cWrite
  extract_lets -merge -underBinder x0 x1
  have hx1 : Keeps m s0 x1.2 := (State.fabWrite_keeps h (covers_trans (by decide) hm) _ _ _ _ _)
  try clear_value x1
  refine keeps_ite (P := fun z => Keeps m s0 z) ?_ ?_
  · exact (State.i2cCount_keeps (State.grantWrite_keeps h (covers_trans (by decide) hm) _ _ _) (covers_trans (by decide) hm) _)
  · refine keeps_ite (P := fun z => Keeps m s0 z) ?_ ?_
    · exact (State.i2cCount_keeps hx1 (covers_trans (by decide) hm) _)
    · exact (State.i2cCount_keeps h (covers_trans (by decide) hm) _)

theorem State.i2cRead_keeps (h : Keeps m s0 s) (hm : covers m [.regs, .mem, .eng, .scn, .chn, .que, .host, .net, .stp, .nbr, .memx, .flt, .resp, .out, .free] = true) : ∀ a1, Keeps m s0 (State.i2cRead s a1).2 := by
  intro a1
  unfold State.i2cRead
  extract_lets -merge -underBinder x0
  clear_value (ex0 : x0 = _)
  have hx0 : Keeps m s0 x0.2 := by
    rw [ex0]
    exact (State.fabRead_keeps h (covers_trans (by decide) hm) _ _ _ _)
  clear ex0
  exact (keeps_snd (P := fun z => Keeps m s0 z) (State.i2cCount_keeps hx0 (covers_trans (by decide) hm) _))

theorem execI2cAccess_keeps : ∀ a0 a1 a2 a3 t, execI2cAccess a0 a1 a2 a3 s = .next t →
    Keeps [.regs, .live, .pend, .mem, .eng, .xrd, .scn, .chn, .fab, .dma, .que, .host, .mil, .net, .ports, .stp, .nbr, .modes, .memx, .boot, .flt, .resp, .out, .free] s t := by
  intro a0 a1 a2 a3 t e
  have hm : covers [.regs, .live, .pend, .mem, .eng, .xrd, .scn, .chn, .fab, .dma, .que, .host, .mil, .net, .ports, .stp, .nbr, .modes, .memx, .boot, .flt, .resp, .out, .free] [.regs, .live, .pend, .mem, .eng, .xrd, .scn, .chn, .fab, .dma, .que, .host, .mil, .net, .ports, .stp, .nbr, .modes, .memx, .boot, .flt, .resp, .out, .free] = true := by decide
  have h := Keeps.refl [.regs, .live, .pend, .mem, .eng, .xrd, .scn, .chn, .fab, .dma, .que, .host, .mil, .net, .ports, .stp, .nbr, .modes, .memx, .boot, .flt, .resp, .out, .free] s
  unfold execI2cAccess at e
  extract_lets -merge -underBinder x0 x1 x2 at e
  have hx1 : Keeps [.regs, .live, .pend, .mem, .eng, .xrd, .scn, .chn, .fab, .dma, .que, .host, .mil, .net, .ports, .stp, .nbr, .modes, .memx, .boot, .flt, .resp, .out, .free] s x1 := by
    subst x1
    refine keeps_foldl (P := fun z => Keeps [.regs, .live, .pend, .mem, .eng, .xrd, .scn, .chn, .fab, .dma, .que, .host, .mil, .net, .ports, .stp, .nbr, .modes, .memx, .boot, .flt, .resp, .out, .free] s z) ?_ fun _ _ h3 => ?_
    · exact h
    · exact (State.i2cWrite_keeps h3 (covers_trans (by decide) hm) _ _)
  try clear_value x1
  replace e := Host.Outcome.next.inj e
  subst e
  refine keeps_ite (P := fun z => Keeps [.regs, .live, .pend, .mem, .eng, .xrd, .scn, .chn, .fab, .dma, .que, .host, .mil, .net, .ports, .stp, .nbr, .modes, .memx, .boot, .flt, .resp, .out, .free] s z) ?_ ?_
  · exact h
  · refine keeps_ite (P := fun z => Keeps [.regs, .live, .pend, .mem, .eng, .xrd, .scn, .chn, .fab, .dma, .que, .host, .mil, .net, .ports, .stp, .nbr, .modes, .memx, .boot, .flt, .resp, .out, .free] s z) ?_ ?_
    · exact (State.bump_keeps h (covers_trans (by decide) hm) _ _ _ _)
    · refine keeps_ite (P := fun z => Keeps [.regs, .live, .pend, .mem, .eng, .xrd, .scn, .chn, .fab, .dma, .que, .host, .mil, .net, .ports, .stp, .nbr, .modes, .memx, .boot, .flt, .resp, .out, .free] s z) ?_ ?_
      · refine keeps_ite (P := fun z => Keeps [.regs, .live, .pend, .mem, .eng, .xrd, .scn, .chn, .fab, .dma, .que, .host, .mil, .net, .ports, .stp, .nbr, .modes, .memx, .boot, .flt, .resp, .out, .free] s z) ?_ ?_
        · exact (State.bump_keeps hx1 (covers_trans (by decide) hm) _ _ _ _)
        · exact hx1
      · refine (State.emit_keeps ?_ (covers_trans (by decide) hm) _)
        dsimp -zeta only [x2]
        refine keeps_foldl (P := fun (z : List Byte × State) => Keeps [.regs, .live, .pend, .mem, .eng, .xrd, .scn, .chn, .fab, .dma, .que, .host, .mil, .net, .ports, .stp, .nbr, .modes, .memx, .boot, .flt, .resp, .out, .free] s z.2) ?_ fun _ _ h4 => ?_
        · refine keeps_snd (P := fun z => Keeps [.regs, .live, .pend, .mem, .eng, .xrd, .scn, .chn, .fab, .dma, .que, .host, .mil, .net, .ports, .stp, .nbr, .modes, .memx, .boot, .flt, .resp, .out, .free] s z) ?_
          exact h
        · extract_lets -merge -underBinder x5
          have hx5 : Keeps [.regs, .live, .pend, .mem, .eng, .xrd, .scn, .chn, .fab, .dma, .que, .host, .mil, .net, .ports, .stp, .nbr, .modes, .memx, .boot, .flt, .resp, .out, .free] s x5.2 := (State.i2cRead_keeps h4 (covers_trans (by decide) hm) _)
          try clear_value x5
          refine keeps_snd (P := fun z => Keeps [.regs, .live, .pend, .mem, .eng, .xrd, .scn, .chn, .fab, .dma, .que, .host, .mil, .net, .ports, .stp, .nbr, .modes, .memx, .boot, .flt, .resp, .out, .free] s z) ?_
          exact hx5

theorem execPcieLinkChange_keeps : ∀ a0 a1 a2 t, execPcieLinkChange a0 a1 a2 s = .next t →
    Keeps [.regs, .fab, .host, .out] s t := by
  intro a0 a1 a2 t e
  have hm : covers [.regs, .fab, .host, .out] [.regs, .fab, .host, .out] = true := by decide
  have h := Keeps.refl [.regs, .fab, .host, .out] s
  unfold execPcieLinkChange at e
  replace e := Host.Outcome.next.inj e
  subst e
  exact (State.pcieLink_keeps h (covers_trans (by decide) hm) _ _ _)

theorem execPcieConfigWrite_keeps : ∀ a0 a1 a2 a3 t, execPcieConfigWrite a0 a1 a2 a3 s = .next t →
    Keeps [.regs, .host, .out] s t := by
  intro a0 a1 a2 a3 t e
  have hm : covers [.regs, .host, .out] [.regs, .host, .out] = true := by decide
  have h := Keeps.refl [.regs, .host, .out] s
  unfold execPcieConfigWrite at e
  replace e := Host.Outcome.next.inj e
  subst e
  refine keeps_ite (P := fun z => Keeps [.regs, .host, .out] s z) ?_ ?_
  · exact h
  · exact (State.sendHeld_keeps (State.wr_keeps (State.wr_keeps (State.wr_keeps (State.wr_keeps h (covers_trans (by decide) hm) _ _ _ _) (covers_trans (by decide) hm) _ _ _ _) (covers_trans (by decide) hm) _ _ _ _) (covers_trans (by decide) hm) _ _ _ _) (covers_trans (by decide) hm))

end Sys2Proof.Machine
end

