-- ==== Sys2Proof/Laws/KeepsDma.lean ====
section
/-! SUPPORT. What each function of Machine/Dma.lean keeps: the parts of the state it can change, the canonical form of the stores,
the order of free values and outputs. One lemma per function, assembled from those of the functions it calls. -/
namespace Sys2Proof.Machine

variable {m : List Part} {s0 s : State}

theorem State.setCount_keeps (h : Keeps m s0 s) (hm : covers m [.regs, .dma] = true) : ∀ a1 a2, Keeps m s0 (State.setCount s a1 a2) := by
  intro a1 a2
  unfold State.setCount
  exact (State.wr_keeps (State.setDma_keeps h (covers_trans (by decide) hm) _ _) (covers_trans (by decide) hm) _ _ _ _)

theorem State.takeDescriptor_keeps (h : Keeps m s0 s) (hm : covers m [.regs, .dma, .que, .host, .out] = true) : ∀ a1 a2, Keeps m s0 (State.takeDescriptor s a1 a2) := by
  intro a1 a2
  unfold State.takeDescriptor
  extract_lets -merge -underBinder x0 x1 x2
  refine keeps_ite (P := fun z => Keeps m s0 z) ?_ ?_
  · refine keeps_ite (P := fun z => Keeps m s0 z) ?_ ?_
    · exact (State.setDm_keeps h (covers_trans (by decide) hm) _ _)
    · exact (State.dmaHalt_keeps h (covers_trans (by decide) hm) _ _ _)
  · refine keeps_ite (P := fun z => Keeps m s0 z) ?_ ?_
    · exact (State.dmaHalt_keeps h (covers_trans (by decide) hm) _ _ _)
    · exact (State.setDm_keeps (State.setCount_keeps (State.setDma_keeps h (covers_trans (by decide) hm) _ _) (covers_trans (by decide) hm) _ _) (covers_trans (by decide) hm) _ _)

theorem State.dmaPeak_keeps (h : Keeps m s0 s) (hm : covers m [.regs, .free] = true) : Keeps m s0 (State.dmaPeak s) := by
  unfold State.dmaPeak
  exact (State.useFree_keeps (State.peak_keeps h (covers_trans (by decide) hm) _ _ _ _) (covers_trans (by decide) hm) _)

theorem execDescriptorFetch_keeps : ∀ a0 a1 t, execDescriptorFetch a0 a1 s = .next t →
    Keeps [.regs, .mem, .eng, .scn, .chn, .dma, .que, .host, .net, .stp, .nbr, .memx, .flt, .resp, .out, .free] s t := by
  intro a0 a1 t e
  have hm : covers [.regs, .mem, .eng, .scn, .chn, .dma, .que, .host, .net, .stp, .nbr, .memx, .flt, .resp, .out, .free] [.regs, .mem, .eng, .scn, .chn, .dma, .que, .host, .net, .stp, .nbr, .memx, .flt, .resp, .out, .free] = true := by decide
  have h := Keeps.refl [.regs, .mem, .eng, .scn, .chn, .dma, .que, .host, .net, .stp, .nbr, .memx, .flt, .resp, .out, .free] s
  unfold execDescriptorFetch at e
  extract_lets -merge -underBinder x0 x1 at e
  have hx1 : Keeps [.regs, .mem, .eng, .scn, .chn, .dma, .que, .host, .net, .stp, .nbr, .memx, .flt, .resp, .out, .free] s x1.2 := (State.fabRead_keeps (State.dmaPeak_keeps h (covers_trans (by decide) hm)) (covers_trans (by decide) hm) _ _ _ _)
  try clear_value x1
  replace e := Host.Outcome.next.inj e
  subst e
  refine keeps_ite (P := fun z => Keeps [.regs, .mem, .eng, .scn, .chn, .dma, .que, .host, .net, .stp, .nbr, .memx, .flt, .resp, .out, .free] s z) ?_ ?_
  · exact h
  · refine keeps_ite (P := fun z => Keeps [.regs, .mem, .eng, .scn, .chn, .dma, .que, .host, .net, .stp, .nbr, .memx, .flt, .resp, .out, .free] s z) ?_ ?_
    · exact (State.dmaHalt_keeps h (covers_trans (by decide) hm) _ _ _)
    · refine keeps_ite (P := fun z => Keeps [.regs, .mem, .eng, .scn, .chn, .dma, .que, .host, .net, .stp, .nbr, .memx, .flt, .resp, .out, .free] s z) ?_ ?_
      · exact (State.dmaHalt_keeps h (covers_trans (by decide) hm) _ _ _)
      · split
        · exact (State.dmaHalt_keeps hx1 (covers_trans (by decide) hm) _ _ _)
        · exact (State.takeDescriptor_keeps hx1 (covers_trans (by decide) hm) _ _)

theorem execDmaPoll_keeps : ∀ a0 a1 t, execDmaPoll a0 a1 s = .next t →
    Keeps [.regs, .mem, .eng, .scn, .chn, .dma, .que, .host, .net, .stp, .nbr, .memx, .flt, .resp, .out, .free] s t := by
  intro a0 a1 t e
  have hm : covers [.regs, .mem, .eng, .scn, .chn, .dma, .que, .host, .net, .stp, .nbr, .memx, .flt, .resp, .out, .free] [.regs, .mem, .eng, .scn, .chn, .dma, .que, .host, .net, .stp, .nbr, .memx, .flt, .resp, .out, .free] = true := by decide
  have h := Keeps.refl [.regs, .mem, .eng, .scn, .chn, .dma, .que, .host, .net, .stp, .nbr, .memx, .flt, .resp, .out, .free] s
  unfold execDmaPoll at e
  extract_lets -merge -underBinder x0 x1 at e
  have hx1 : Keeps [.regs, .mem, .eng, .scn, .chn, .dma, .que, .host, .net, .stp, .nbr, .memx, .flt, .resp, .out, .free] s x1.2 := (State.fabRead_keeps (State.dmaPeak_keeps h (covers_trans (by decide) hm)) (covers_trans (by decide) hm) _ _ _ _)
  try clear_value x1
  replace e := Host.Outcome.next.inj e
  subst e
  refine keeps_ite (P := fun z => Keeps [.regs, .mem, .eng, .scn, .chn, .dma, .que, .host, .net, .stp, .nbr, .memx, .flt, .resp, .out, .free] s z) ?_ ?_
  · exact h
  · split
    · exact (State.dmaHalt_keeps hx1 (covers_trans (by decide) hm) _ _ _)
    · exact (State.takeDescriptor_keeps hx1 (covers_trans (by decide) hm) _ _)

/-- An answer is taken from the list alone. -/
theorem CopyRun.ans_st (x : CopyRun) (a : Nat) : (x.ans a).2.st = x.st := by
  unfold CopyRun.ans
  split <;> rfl

/-- One fabric read of a copy keeps what the fabric read keeps. -/
theorem CopyRun.readPart_keeps (x : CopyRun) (a n : Nat) (h : Keeps m s0 x.st)
    (hm : covers m [.regs, .live, .pend, .mem, .eng, .xrd, .scn, .chn, .fab, .dma, .que, .host, .mil, .net, .ports, .stp, .nbr, .modes, .memx, .boot, .flt, .resp, .out, .free] = true) : Keeps m s0 (x.readPart a n).2.st := by
  unfold CopyRun.readPart CopyRun.ans
  split
  · exact h
  · split
    · exact State.fabRead_keeps h (covers_trans (by decide) hm) _ _ _ _
    · exact State.fabRead_keeps h (covers_trans (by decide) hm) _ _ _ _

/-- A burst keeps what its reads and its write keep. -/
theorem CopyRun.burst_keeps (x : CopyRun) (b : Nat × Nat × Nat) (h : Keeps m s0 x.st)
    (hm : covers m [.regs, .live, .pend, .mem, .eng, .xrd, .scn, .chn, .fab, .dma, .que, .host, .mil, .net, .ports, .stp, .nbr, .modes, .memx, .boot, .flt, .resp, .out, .free] = true) : Keeps m s0 (x.burst b).st := by
  have fail_st : ∀ (y : CopyRun) (k : Nat), (if y.err = 0 then ({ y with err := k } : CopyRun) else y).st = y.st := by
    intro y k
    split <;> rfl
  have key : ∀ y : CopyRun, Keeps m s0 y.st → Keeps m s0 (
      (let p := y.readPart b.1 (min b.2.2 (256 - b.1 % 256))
      match p.1 with
      | none => (if p.2.err = 0 then ({ p.2 with err := 1 } : CopyRun) else p.2)
      | some d1 =>
        let q := p.2.readPart (b.1 + min b.2.2 (256 - b.1 % 256)) (b.2.2 - min b.2.2 (256 - b.1 % 256))
        match q.1 with
        | none => (if q.2.err = 0 then ({ q.2 with err := 1 } : CopyRun) else q.2)
        | some d2 =>
          let y := q.2.ans b.2.1
          let w := y.2.st.fabWrite .dma b.2.1 (d1 ++ d2) y.1 y.2.chan
          let z : CopyRun := { y.2 with st := w.2, issued := y.2.issued + b.2.2 }
          if w.1 = .error then (if z.err = 0 then ({ z with err := 2 } : CopyRun) else z) else z : CopyRun)).st := by
    intro y hy
    have hp := CopyRun.readPart_keeps y b.1 (min b.2.2 (256 - b.1 % 256)) hy hm
    generalize y.readPart b.1 (min b.2.2 (256 - b.1 % 256)) = p at hp
    obtain ⟨p1, p2⟩ := p
    cases p1 with
    | none => dsimp only at hp ⊢; rw [fail_st]; exact hp
    | some d1 =>
      dsimp only at hp ⊢
      have hq := CopyRun.readPart_keeps p2 (b.1 + min b.2.2 (256 - b.1 % 256)) (b.2.2 - min b.2.2 (256 - b.1 % 256)) hp hm
      generalize p2.readPart (b.1 + min b.2.2 (256 - b.1 % 256)) (b.2.2 - min b.2.2 (256 - b.1 % 256)) = q at hq
      obtain ⟨q1, q2⟩ := q
      cases q1 with
      | none => dsimp only at hq ⊢; rw [fail_st]; exact hq
      | some d2 =>
        dsimp only at hq ⊢
        have hw : Keeps m s0 ((q2.ans b.2.1).2.st.fabWrite .dma b.2.1 (d1 ++ d2) (q2.ans b.2.1).1 (q2.ans b.2.1).2.chan).2 :=
          State.fabWrite_keeps (by rw [CopyRun.ans_st]; exact hq) (covers_trans (by decide) hm) _ _ _ _ _
        generalize (q2.ans b.2.1).2.st.fabWrite .dma b.2.1 (d1 ++ d2) (q2.ans b.2.1).1 (q2.ans b.2.1).2.chan = w at hw
        split
        · exact keeps_ite (P := fun (z : CopyRun) => Keeps m s0 z.st) hw hw
        · exact hw
  unfold CopyRun.burst
  refine keeps_ite (P := fun (z : CopyRun) => Keeps m s0 z.st) h ?_
  refine key _ ?_
  refine keeps_ite (P := fun (z : CopyRun) => Keeps m s0 z.st) h h

/-- A copy's bursts keep what a burst keeps. -/
theorem CopyRun.bursts_keeps (l : List (Nat × Nat × Nat)) (x : CopyRun) (h : Keeps m s0 x.st)
    (hm : covers m [.regs, .live, .pend, .mem, .eng, .xrd, .scn, .chn, .fab, .dma, .que, .host, .mil, .net, .ports, .stp, .nbr, .modes, .memx, .boot, .flt, .resp, .out, .free] = true) : Keeps m s0 (l.foldl CopyRun.burst x).st :=
  keeps_foldl (P := fun (z : CopyRun) => Keeps m s0 z.st) h fun z b h => CopyRun.burst_keeps z b h hm

theorem State.dmaCopy_keeps (h : Keeps m s0 s) (hm : covers m [.regs, .live, .pend, .mem, .eng, .xrd, .scn, .chn, .fab, .dma, .que, .host, .mil, .net, .ports, .stp, .nbr, .modes, .memx, .boot, .flt, .resp, .out, .free] = true) :
    ∀ c answers ahead begun, Keeps m s0 (s.dmaCopy c answers ahead begun).2 := by
  intro c answers ahead begun
  unfold State.dmaCopy
  exact State.setDma_keeps (CopyRun.bursts_keeps _ _ h hm) (covers_trans (by decide) hm) _ _

theorem State.dmaFinish_keeps (h : Keeps m s0 s) (hm : covers m [.regs, .live, .pend, .mem, .eng, .xrd, .scn, .chn, .fab, .dma, .que, .host, .mil, .net, .ports, .stp, .nbr, .modes, .memx, .boot, .flt, .out, .free] = true) : ∀ a1 a2, Keeps m s0 (State.dmaFinish s a1 a2) := by
  intro a1 a2
  unfold State.dmaFinish
  extract_lets -merge -underBinder x0 x1 x2 x3 x4 x5 x6 x7
  have hx2 : Keeps m s0 x2 := by
    subst x2
    refine keeps_ite (P := fun z => Keeps m s0 z) ?_ ?_
    · exact (State.raise_keeps (State.bump_keeps h (covers_trans (by decide) hm) _ _ _ _) (covers_trans (by decide) hm) _ _)
    · exact h
  have hx3 : Keeps m s0 x3 := (State.setDma_keeps hx2 (covers_trans (by decide) hm) _ _)
  try clear_value x3
  try clear_value x2
  refine keeps_ite (P := fun z => Keeps m s0 z) ?_ ?_
  · refine (State.dmaHalt_keeps ?_ (covers_trans (by decide) hm) _ _ _)
    dsimp -zeta only [x6]
    refine (State.fabWrite_keeps ?_ (covers_trans (by decide) hm) _ _ _ _ _)
    dsimp -zeta only [x4]
    refine keeps_ite (P := fun z => Keeps m s0 z) ?_ ?_
    · exact (State.setCount_keeps hx3 (covers_trans (by decide) hm) _ _)
    · exact hx3
  · refine keeps_ite (P := fun z => Keeps m s0 z) ?_ ?_
    · refine (State.dmaPost_keeps ?_ (covers_trans (by decide) hm) _ _ _ _)
      dsimp -zeta only [x6]
      refine (State.fabWrite_keeps ?_ (covers_trans (by decide) hm) _ _ _ _ _)
      dsimp -zeta only [x4]
      refine keeps_ite (P := fun z => Keeps m s0 z) ?_ ?_
      · exact (State.setCount_keeps hx3 (covers_trans (by decide) hm) _ _)
      · exact hx3
    · refine (State.dmaAfter_keeps ?_ (covers_trans (by decide) hm) _ _)
      dsimp -zeta only [x6]
      refine (State.fabWrite_keeps ?_ (covers_trans (by decide) hm) _ _ _ _ _)
      dsimp -zeta only [x4]
      refine keeps_ite (P := fun z => Keeps m s0 z) ?_ ?_
      · exact (State.setCount_keeps hx3 (covers_trans (by decide) hm) _ _)
      · exact hx3

theorem execDescriptorComplete_keeps : ∀ a0 a1 a2 a3 t, execDescriptorComplete a0 a1 a2 a3 s = .next t →
    Keeps [.regs, .live, .pend, .mem, .eng, .xrd, .scn, .chn, .fab, .dma, .que, .host, .mil, .net, .ports, .stp, .nbr, .modes, .memx, .boot, .flt, .resp, .out, .free] s t := by
  intro a0 a1 a2 a3 t e
  have hm : covers [.regs, .live, .pend, .mem, .eng, .xrd, .scn, .chn, .fab, .dma, .que, .host, .mil, .net, .ports, .stp, .nbr, .modes, .memx, .boot, .flt, .resp, .out, .free] [.regs, .live, .pend, .mem, .eng, .xrd, .scn, .chn, .fab, .dma, .que, .host, .mil, .net, .ports, .stp, .nbr, .modes, .memx, .boot, .flt, .resp, .out, .free] = true := by decide
  have h := Keeps.refl [.regs, .live, .pend, .mem, .eng, .xrd, .scn, .chn, .fab, .dma, .que, .host, .mil, .net, .ports, .stp, .nbr, .modes, .memx, .boot, .flt, .resp, .out, .free] s
  unfold execDescriptorComplete at e
  cases e
  refine keeps_ite (P := fun z => Keeps [.regs, .live, .pend, .mem, .eng, .xrd, .scn, .chn, .fab, .dma, .que, .host, .mil, .net, .ports, .stp, .nbr, .modes, .memx, .boot, .flt, .resp, .out, .free] s z) h ?_
  extract_lets x0 x1
  have h0 : Keeps [.regs, .live, .pend, .mem, .eng, .xrd, .scn, .chn, .fab, .dma, .que, .host, .mil, .net, .ports, .stp, .nbr, .modes, .memx, .boot, .flt, .resp, .out, .free] s x0 := State.dmaPeak_keeps h (covers_trans (by decide) hm)
  have h1 : Keeps [.regs, .live, .pend, .mem, .eng, .xrd, .scn, .chn, .fab, .dma, .que, .host, .mil, .net, .ports, .stp, .nbr, .modes, .memx, .boot, .flt, .resp, .out, .free] s x1.2 :=
    keeps_ite (P := fun (z : CopyRun × State) => Keeps [.regs, .live, .pend, .mem, .eng, .xrd, .scn, .chn, .fab, .dma, .que, .host, .mil, .net, .ports, .stp, .nbr, .modes, .memx, .boot, .flt, .resp, .out, .free] s z.2) h0 (State.dmaCopy_keeps h0 hm _ _ _ _)
  exact keeps_ite (P := fun z => Keeps [.regs, .live, .pend, .mem, .eng, .xrd, .scn, .chn, .fab, .dma, .que, .host, .mil, .net, .ports, .stp, .nbr, .modes, .memx, .boot, .flt, .resp, .out, .free] s z) h1 (State.dmaFinish_keeps h1 (covers_trans (by decide) hm) _ _)

theorem execEventRingRoom_keeps : ∀ a0 t, execEventRingRoom a0 s = .next t →
    Keeps [.regs, .dma, .que, .host, .out] s t := by
  intro a0 t e
  have hm : covers [.regs, .dma, .que, .host, .out] [.regs, .dma, .que, .host, .out] = true := by decide
  have h := Keeps.refl [.regs, .dma, .que, .host, .out] s
  unfold execEventRingRoom at e
  extract_lets -merge -underBinder x0 at e
  replace e := Host.Outcome.next.inj e
  subst e
  refine keeps_ite (P := fun z => Keeps [.regs, .dma, .que, .host, .out] s z) ?_ ?_
  · exact h
  · split
    · exact h
    · split
      · exact h
      · extract_lets -merge -underBinder x1
        have hx1 : Keeps [.regs, .dma, .que, .host, .out] s x1 := (State.modQue_keeps h (covers_trans (by decide) hm) _)
        try clear_value x1
        exact (State.dmaAfter_keeps (State.raise_keeps (State.eventPush_keeps hx1 (covers_trans (by decide) hm) _ _) (covers_trans (by decide) hm) _ _) (covers_trans (by decide) hm) _ _)

end Sys2Proof.Machine
end

