-- ==== Sys2Proof/Laws/KeepsBlock.lean ====
section
/-! SUPPORT. What each function of Machine/Block.lean keeps: the parts of the state it can change, the canonical form of the stores,
the order of free values and outputs. One lemma per function, assembled from those of the functions it calls. -/
namespace Sys2Proof.Machine

variable {m : List Part} {s0 s : State}

theorem State.advanceSwap_keeps (h : Keeps m s0 s) (hm : covers m [.regs, .xrd, .scn] = true) : Keeps m s0 (State.advanceSwap s) := by
  unfold State.advanceSwap
  split
  · exact h
  · refine keeps_ite (P := fun z => Keeps m s0 z) ?_ ?_
    · exact h
    · extract_lets -merge -underBinder x0 x1
      have hx0 : Keeps m s0 x0 := (State.wr_keeps h (covers_trans (by decide) hm) _ _ _ _)
      have hx1 : Keeps m s0 x1 := by
        subst x1
        refine keeps_ite (P := fun z => Keeps m s0 z) ?_ ?_
        · exact (State.advanceRoute_keeps hx0 (covers_trans (by decide) hm) _)
        · exact hx0
      try clear_value x1
      try clear_value x0
      exact (State.modScn_keeps hx1 (covers_trans (by decide) hm) _)

theorem execSampleStrobe_keeps : ∀ t, execSampleStrobe s = .next t →
    Keeps [.regs, .eng, .xrd, .scn, .host, .ports, .stp, .out, .free] s t := by
  intro t e
  have hm : covers [.regs, .eng, .xrd, .scn, .host, .ports, .stp, .out, .free] [.regs, .eng, .xrd, .scn, .host, .ports, .stp, .out, .free] = true := by decide
  have h := Keeps.refl [.regs, .eng, .xrd, .scn, .host, .ports, .stp, .out, .free] s
  unfold execSampleStrobe at e
  replace e := Host.Outcome.next.inj e
  subst e
  refine keeps_ite (P := fun z => Keeps [.regs, .eng, .xrd, .scn, .host, .ports, .stp, .out, .free] s z) ?_ ?_
  · exact (State.wordClocks_keeps (State.gapPorts_keeps h (covers_trans (by decide) hm)) (covers_trans (by decide) hm) _)
  · extract_lets -merge -underBinder x0 x1
    have hx0 : Keeps [.regs, .eng, .xrd, .scn, .host, .ports, .stp, .out, .free] s x0 := (State.advanceSwap_keeps (State.modEng_keeps h (covers_trans (by decide) hm) _) (covers_trans (by decide) hm))
    try clear_value x0
    exact (State.wordClocks_keeps (State.strobePorts_keeps hx0 (covers_trans (by decide) hm) _) (covers_trans (by decide) hm) _)

theorem execSnapCapture_keeps : ∀ t, execSnapCapture s = .next t →
    Keeps [.regs, .eng, .host, .out] s t := by
  intro t e
  have hm : covers [.regs, .eng, .host, .out] [.regs, .eng, .host, .out] = true := by decide
  have h := Keeps.refl [.regs, .eng, .host, .out] s
  unfold execSnapCapture at e
  replace e := Host.Outcome.next.inj e
  subst e
  refine keeps_ite (P := fun z => Keeps [.regs, .eng, .host, .out] s z) ?_ ?_
  · exact h
  · extract_lets -merge -underBinder x0 x1 x2
    have hx1 : Keeps [.regs, .eng, .host, .out] s x1 := (State.wr_keeps (State.wr_keeps h (covers_trans (by decide) hm) _ _ _ _) (covers_trans (by decide) hm) _ _ _ _)
    have hx2 : Keeps [.regs, .eng, .host, .out] s x2 := (State.wr_keeps (State.wr_keeps (State.wr_keeps hx1 (covers_trans (by decide) hm) _ _ _ _) (covers_trans (by decide) hm) _ _ _ _) (covers_trans (by decide) hm) _ _ _ _)
    try clear_value x2
    try clear_value x1
    exact (State.raise_keeps (State.wr_keeps (State.modEng_keeps hx2 (covers_trans (by decide) hm) _) (covers_trans (by decide) hm) _ _ _ _) (covers_trans (by decide) hm) _ _)

theorem State.latchSwap_keeps (h : Keeps m s0 s) (hm : covers m [.regs, .mem, .xrd, .scn, .chn, .host, .net, .nbr, .out] = true) : ∀ a1 a2 a3, Keeps m s0 (State.latchSwap s a1 a2 a3) := by
  intro a1 a2 a3
  unfold State.latchSwap
  extract_lets -merge -underBinder x0 x1 x2 x3 x4 x5 x6
  have hx2 : Keeps m s0 x2 := (State.modScn_keeps h (covers_trans (by decide) hm) _)
  have hx3 : Keeps m s0 x3 := (State.wr_keeps (State.lockBank_keeps (State.lockBank_keeps hx2 (covers_trans (by decide) hm) _ _) (covers_trans (by decide) hm) _ _) (covers_trans (by decide) hm) _ _ _ _)
  have hx4 : Keeps m s0 x4 := (State.wr_keeps (State.wr_keeps (State.raise_keeps (State.wr_keeps hx3 (covers_trans (by decide) hm) _ _ _ _) (covers_trans (by decide) hm) _ _) (covers_trans (by decide) hm) _ _ _ _) (covers_trans (by decide) hm) _ _ _ _)
  have hx5 : Keeps m s0 x5 := (State.crierSwap_keeps (State.switchAtSwap_keeps hx4 (covers_trans (by decide) hm) _) (covers_trans (by decide) hm) _ _)
  have hx6 : Keeps m s0 x6 := by
    subst x6
    refine keeps_ite (P := fun z => Keeps m s0 z) ?_ ?_
    · exact (State.nbrSend_keeps hx5 (covers_trans (by decide) hm) _ _)
    · exact hx5
  try clear_value x6
  try clear_value x5
  try clear_value x4
  try clear_value x3
  try clear_value x2
  exact (State.advanceSwap_keeps hx6 (covers_trans (by decide) hm))

theorem execSwapStart_keeps : ∀ t, execSwapStart s = .next t →
    Keeps [.regs, .mem, .xrd, .scn, .chn, .host, .net, .nbr, .out] s t := by
  intro t e
  have hm : covers [.regs, .mem, .xrd, .scn, .chn, .host, .net, .nbr, .out] [.regs, .mem, .xrd, .scn, .chn, .host, .net, .nbr, .out] = true := by decide
  have h := Keeps.refl [.regs, .mem, .xrd, .scn, .chn, .host, .net, .nbr, .out] s
  unfold execSwapStart at e
  replace e := Host.Outcome.next.inj e
  subst e
  split
  · exact h
  · refine keeps_ite (P := fun z => Keeps [.regs, .mem, .xrd, .scn, .chn, .host, .net, .nbr, .out] s z) ?_ ?_
    · exact (State.latchSwap_keeps h (covers_trans (by decide) hm) _ _ _)
    · exact h

theorem State.workSpan_keeps (h : Keeps m s0 s) (hm : covers m [.regs, .mem, .eng, .xrd, .scn, .chn, .host, .nbr, .memx, .out, .free] = true) : ∀ a1 a2 a3, Keeps m s0 (State.workSpan s a1 a2 a3) := by
  intro a1 a2 a3
  unfold State.workSpan
  refine keeps_foldl (P := fun z => Keeps m s0 z) ?_ fun _ _ h0 => ?_
  · exact h
  · refine keeps_ite (P := fun z => Keeps m s0 z) ?_ ?_
    · exact h0
    · refine keeps_ite (P := fun z => Keeps m s0 z) ?_ ?_
      · exact (State.stripOutput_keeps (State.stripWork_keeps h0 (covers_trans (by decide) hm) _ _ _ _) (covers_trans (by decide) hm) _ _ _)
      · refine keeps_ite (P := fun z => Keeps m s0 z) ?_ ?_
        · exact (State.putOutput_keeps h0 (covers_trans (by decide) hm) _ _ _ _ _)
        · extract_lets -merge -underBinder x1
          have hx1 : Keeps m s0 x1 := (State.chanWork_keeps h0 (covers_trans (by decide) hm) _ _)
          try clear_value x1
          refine keeps_ite (P := fun z => Keeps m s0 z) ?_ ?_
          · exact (keeps_chn hx1 (covers_trans (by decide) hm))
          · exact hx1

theorem State.routesUntil_keeps (h : Keeps m s0 s) (hm : covers m [.regs, .xrd, .host, .out] = true) : ∀ a1, Keeps m s0 (State.routesUntil s a1) := by
  intro a1
  unfold State.routesUntil
  exact (State.beginDue_keeps h (covers_trans (by decide) hm) _ _)

theorem State.workBlockN_keeps (h : Keeps m s0 s) (hm : covers m [.regs, .mem, .eng, .xrd, .scn, .chn, .host, .nbr, .memx, .out, .free] = true) : ∀ a1, Keeps m s0 (State.workBlockN s a1) := by
  intro a1
  unfold State.workBlockN
  extract_lets -merge -underBinder x0 x1 x2
  have hx2 : Keeps m s0 x2 := by
    subst x2
    split
    · dsimp -zeta only [x1]
      exact (State.workSpan_keeps (State.routesUntil_keeps h (covers_trans (by decide) hm) _) (covers_trans (by decide) hm) _ _ _)
    · refine keeps_ite (P := fun z => Keeps m s0 z) ?_ ?_
      · dsimp -zeta only [x1]
        exact (State.workSpan_keeps (State.routesUntil_keeps h (covers_trans (by decide) hm) _) (covers_trans (by decide) hm) _ _ _)
      · refine keeps_ite (P := fun z => Keeps m s0 z) ?_ ?_
        · dsimp -zeta only [x1]
          exact (State.workSpan_keeps (State.routesUntil_keeps (State.switchScene_keeps (State.routesUntil_keeps h (covers_trans (by decide) hm) _) (covers_trans (by decide) hm) _) (covers_trans (by decide) hm) _) (covers_trans (by decide) hm) _ _ _)
        · exact (State.workSpan_keeps (State.routesUntil_keeps (State.switchScene_keeps (State.workSpan_keeps (State.routesUntil_keeps h (covers_trans (by decide) hm) _) (covers_trans (by decide) hm) _ _ _) (covers_trans (by decide) hm) _) (covers_trans (by decide) hm) _) (covers_trans (by decide) hm) _ _ _)
  try clear_value x2
  refine keeps_foldl (P := fun z => Keeps m s0 z) ?_ fun _ _ h3 => ?_
  · exact hx2
  · refine keeps_ite (P := fun z => Keeps m s0 z) ?_ ?_
    · exact (State.stripMeterBlock_keeps h3 (covers_trans (by decide) hm) _ _)
    · exact h3

theorem State.keepEpochs_keeps (h : Keeps m s0 s) (hm : covers m [.eng] = true) : ∀ a1, Keeps m s0 (State.keepEpochs s a1) := by
  intro a1
  unfold State.keepEpochs
  exact (State.modEng_keeps h (covers_trans (by decide) hm) _)

theorem State.eccReport_keeps (h : Keeps m s0 s) (hm : covers m [.regs, .mem, .scn, .chn, .host, .nbr, .flt, .out] = true) : ∀ a1, Keeps m s0 (State.eccReport s a1) := by
  intro a1
  unfold State.eccReport
  refine State.when_keeps h _ _ fun _ h0 => ?_
  exact (State.raiseFault_keeps h0 (covers_trans (by decide) hm) _ _ _)

theorem State.stages_keeps (h : Keeps m s0 s) (hm : covers m [.regs, .mem, .eng, .xrd, .scn, .chn, .host, .mil, .net, .ports, .nbr, .memx, .flt, .out, .free] = true) : ∀ a1, Keeps m s0 (State.stages s a1) := by
  intro a1
  unfold State.stages
  extract_lets -merge -underBinder x0 x1
  have hx1 : Keeps m s0 x1 := by
    subst x1
    refine keeps_ite (P := fun z => Keeps m s0 z) ?_ ?_
    · exact (State.eccReport_keeps (State.gleanerStage_keeps (State.writeHistory_keeps (State.routeStage_keeps h (covers_trans (by decide) hm) _) (covers_trans (by decide) hm) _) (covers_trans (by decide) hm) _) (covers_trans (by decide) hm) _)
    · exact h
  try clear_value x1
  refine keeps_ite (P := fun z => Keeps m s0 z) ?_ ?_
  · exact hx1
  · exact (State.millStarts_keeps (State.eccReport_keeps (State.workBlockN_keeps (State.churnFrame_keeps (State.gatherPorts_keeps (State.rxBlock_keeps (State.genBlocks_keeps (State.keepEpochs_keeps hx1 (covers_trans (by decide) hm) _) (covers_trans (by decide) hm) _) (covers_trans (by decide) hm) _) (covers_trans (by decide) hm) _) (covers_trans (by decide) hm) _) (covers_trans (by decide) hm) _) (covers_trans (by decide) hm) _) (covers_trans (by decide) hm) _)

theorem State.engBoundary_keeps (h : Keeps m s0 s) (hm : covers m [.regs, .host, .out] = true) : Keeps m s0 (State.engBoundary s) := by
  unfold State.engBoundary
  extract_lets -merge -underBinder x0 x1 x2 x3 x4 x5 x6
  have hx3 : Keeps m s0 x3 := (State.wr_keeps h (covers_trans (by decide) hm) _ _ _ _)
  have hx4 : Keeps m s0 x4 := (State.wr_keeps (State.wr_keeps (State.wr_keeps hx3 (covers_trans (by decide) hm) _ _ _ _) (covers_trans (by decide) hm) _ _ _ _) (covers_trans (by decide) hm) _ _ _ _)
  have hx5 : Keeps m s0 x5 := (State.wr_keeps (State.wr_keeps hx4 (covers_trans (by decide) hm) _ _ _ _) (covers_trans (by decide) hm) _ _ _ _)
  try clear_value x5
  try clear_value x4
  try clear_value x3
  refine keeps_ite (P := fun z => Keeps m s0 z) ?_ ?_
  · exact (State.raise_keeps hx5 (covers_trans (by decide) hm) _ _)
  · exact hx5

theorem State.autoRealign_keeps (h : Keeps m s0 s) (hm : covers m [.eng, .stp] = true) : Keeps m s0 (State.autoRealign s) := by
  unfold State.autoRealign
  refine keeps_ite (P := fun z => Keeps m s0 z) ?_ ?_
  · exact h
  · extract_lets -merge -underBinder x0 x1
    have hx0 : Keeps m s0 x0 := (State.modStp_keeps h (covers_trans (by decide) hm) _)
    try clear_value x0
    refine keeps_ite (P := fun z => Keeps m s0 z) ?_ ?_
    · exact (State.modEng_keeps hx0 (covers_trans (by decide) hm) _)
    · exact hx0

theorem State.showRunning_keeps (h : Keeps m s0 s) (hm : covers m [.regs] = true) : Keeps m s0 (State.showRunning s) := by
  unfold State.showRunning
  extract_lets -merge -underBinder x0 x1
  exact (State.countFades_keeps (State.wr_keeps (State.wr_keeps h (covers_trans (by decide) hm) _ _ _ _) (covers_trans (by decide) hm) _ _ _ _) (covers_trans (by decide) hm))

theorem State.showModes_keeps (h : Keeps m s0 s) (hm : covers m [.regs] = true) : Keeps m s0 (State.showModes s) := by
  unfold State.showModes
  extract_lets -merge -underBinder x0 x1 x2 x3 x4 x5
  have hx1 : Keeps m s0 x1 := by
    subst x1
    split
    · refine keeps_ite (P := fun z => Keeps m s0 z) ?_ ?_
      · exact (State.setPhase_keeps h (covers_trans (by decide) hm) _)
      · exact h
    · exact h
  have hx5 : Keeps m s0 x5 := (State.wr_keeps (State.wr_keeps hx1 (covers_trans (by decide) hm) _ _ _ _) (covers_trans (by decide) hm) _ _ _ _)
  try clear_value x5
  try clear_value x1
  refine keeps_ite (P := fun z => Keeps m s0 z) ?_ ?_
  · exact (State.faultInactive_keeps (State.wr_keeps hx5 (covers_trans (by decide) hm) _ _ _ _) (covers_trans (by decide) hm) _)
  · exact hx5

theorem State.jobPoint_keeps (h : Keeps m s0 s) (hm : covers m [.regs, .mem, .scn, .host, .nbr, .memx, .out] = true) : ∀ a1 a2, Keeps m s0 (State.jobPoint s a1 a2) := by
  intro a1 a2
  unfold State.jobPoint
  extract_lets -merge -underBinder x0
  refine keeps_ite (P := fun z => Keeps m s0 z) ?_ ?_
  · exact (State.engineHeldWrite_keeps h (covers_trans (by decide) hm) _)
  · exact (State.setBytes_keeps h (covers_trans (by decide) hm) _ _)

theorem execJobDone_keeps : ∀ t, execJobDone s = .next t →
    Keeps [.regs, .mem, .scn, .host, .nbr, .memx, .out] s t := by
  intro t e
  have hm : covers [.regs, .mem, .scn, .host, .nbr, .memx, .out] [.regs, .mem, .scn, .host, .nbr, .memx, .out] = true := by decide
  have h := Keeps.refl [.regs, .mem, .scn, .host, .nbr, .memx, .out] s
  unfold execJobDone at e
  extract_lets -merge -underBinder x0 x1 x2 x3 at e
  have hx3 : Keeps [.regs, .mem, .scn, .host, .nbr, .memx, .out] s x3 := (State.wr_keeps h (covers_trans (by decide) hm) _ _ _ _)
  try clear_value x3
  replace e := Host.Outcome.next.inj e
  subst e
  refine keeps_ite (P := fun z => Keeps [.regs, .mem, .scn, .host, .nbr, .memx, .out] s z) ?_ ?_
  · exact h
  · split
    · exact (State.raise_keeps (State.wr_keeps hx3 (covers_trans (by decide) hm) _ _ _ _) (covers_trans (by decide) hm) _ _)
    · extract_lets -merge -underBinder x4 x5 x6 x7
      have hx6 : Keeps [.regs, .mem, .scn, .host, .nbr, .memx, .out] s x6 := by
        subst x6
        refine keeps_foldl (P := fun z => Keeps [.regs, .mem, .scn, .host, .nbr, .memx, .out] s z) ?_ fun _ _ h8 => ?_
        · exact hx3
        · exact (State.jobPoint_keeps h8 (covers_trans (by decide) hm) _ _)
      try clear_value x6
      refine (State.raise_keeps ?_ (covers_trans (by decide) hm) _ _)
      refine (State.wr_keeps ?_ (covers_trans (by decide) hm) _ _ _ _)
      dsimp -zeta only [x7]
      refine keeps_ite (P := fun z => Keeps [.regs, .mem, .scn, .host, .nbr, .memx, .out] s z) ?_ ?_
      · exact (State.wr_keeps hx6 (covers_trans (by decide) hm) _ _ _ _)
      · exact hx6

end Sys2Proof.Machine
end

