-- ==== Sys2Proof/Laws/KeepsPair.lean ====
section
/-! SUPPORT. What each function of Machine/Pair.lean keeps: the parts of the state it can change, the canonical form of the stores,
the order of free values and outputs. One lemma per function, assembled from those of the functions it calls. -/
namespace Sys2Proof.Machine

variable {m : List Part} {s0 s : State}

theorem State.ctrlWrite_keeps (h : Keeps m s0 s) (hm : covers m [.regs, .live, .pend, .mem, .eng, .xrd, .scn, .chn, .fab, .dma, .que, .host, .mil, .net, .ports, .stp, .nbr, .modes, .memx, .boot, .flt, .out, .free] = true) : ∀ a1 a2 a3, Keeps m s0 (State.ctrlWrite s a1 a2 a3) := by
  intro a1 a2 a3
  unfold State.ctrlWrite
  extract_lets -merge -underBinder x0 x1
  split
  · exact h
  · refine keeps_ite (P := fun z => Keeps m s0 z) ?_ ?_
    · exact (State.regWrite_keeps h (covers_trans (by decide) hm) _ _ _ _)
    · exact (State.regWrite_keeps h (covers_trans (by decide) hm) _ _ _ _)

theorem State.ctrlApplied_keeps (h : Keeps m s0 s) (hm : covers m [.regs, .live, .pend, .mem, .eng, .xrd, .scn, .chn, .que, .host, .mil, .net, .ports, .stp, .nbr, .modes, .memx, .boot, .flt, .out] = true) : ∀ a1 a2 a3 a4, Keeps m s0 (State.ctrlApplied s a1 a2 a3 a4) := by
  intro a1 a2 a3 a4
  unfold State.ctrlApplied
  extract_lets -merge -underBinder x0 x1 x2 x3 x4
  have hx4 : Keeps m s0 x4 := by
    subst x4
    refine keeps_foldl (P := fun z => Keeps m s0 z) ?_ fun _ _ h5 => ?_
    · exact h
    · exact (State.setReg_keeps h5 (covers_trans (by decide) hm) _ _)
  try clear_value x4
  refine keeps_ite (P := fun z => Keeps m s0 z) ?_ ?_
  · exact (State.wr_keeps h (covers_trans (by decide) hm) _ _ _ _)
  · refine keeps_ite (P := fun z => Keeps m s0 z) ?_ ?_
    · refine keeps_ite (P := fun z => Keeps m s0 z) ?_ ?_
      · exact h
      · exact (State.raise_keeps (State.setBlend_keeps (State.setService_keeps (State.putInForce_keeps h (covers_trans (by decide) hm) _ _) (covers_trans (by decide) hm) _) (covers_trans (by decide) hm) _) (covers_trans (by decide) hm) _ _)
    · exact (State.wr_keeps (State.comeDue_keeps hx4 (covers_trans (by decide) hm) _) (covers_trans (by decide) hm) _ _ _ _)

theorem State.ctrlCrier_keeps (h : Keeps m s0 s) (hm : covers m [.regs, .mem, .scn, .que, .host, .net, .nbr, .out, .free] = true) : ∀ a1 a2, Keeps m s0 (State.ctrlCrier s a1 a2) := by
  intro a1 a2
  unfold State.ctrlCrier
  extract_lets -merge -underBinder x0 x1 x2
  have hx2 : Keeps m s0 x2 := (State.modNet_keeps h (covers_trans (by decide) hm) _)
  try clear_value x2
  refine keeps_ite (P := fun z => Keeps m s0 z) ?_ ?_
  · exact (State.done_keeps (P := [.regs, .mem, .host, .net, .nbr, .out, .free]) h (covers_trans (by decide) hm) _ fun t3 et3 => execCriPost_keeps _ t3 et3)
  · refine keeps_ite (P := fun z => Keeps m s0 z) ?_ ?_
    · exact (State.done_keeps (P := [.regs, .mem, .host, .net, .nbr, .out]) h (covers_trans (by decide) hm) _ fun t4 et4 => execCriCancel_keeps _ t4 et4)
    · refine keeps_ite (P := fun z => Keeps m s0 z) ?_ ?_
      · exact (State.done_keeps (P := [.regs, .mem, .scn, .que, .host, .out]) h (covers_trans (by decide) hm) _ fun t5 et5 => execCriInject_keeps _ t5 et5)
      · refine keeps_ite (P := fun z => Keeps m s0 z) ?_ ?_
        · exact (State.endSlot_keeps hx2 (covers_trans (by decide) hm) _ _)
        · exact hx2

theorem State.ctrlRestart_keeps (h : Keeps m s0 s) (hm : covers m [.regs, .mem, .eng, .xrd, .scn, .chn, .host, .mil, .stp, .modes, .memx, .boot, .out] = true) : ∀ a1 a2 a3, Keeps m s0 (State.ctrlRestart s a1 a2 a3) := by
  intro a1 a2 a3
  unfold State.ctrlRestart
  refine keeps_ite (P := fun z => Keeps m s0 z) ?_ ?_
  · exact (State.modModes_keeps h (covers_trans (by decide) hm) _)
  · refine keeps_ite (P := fun z => Keeps m s0 z) ?_ ?_
    · split
      · exact (State.modModes_keeps (State.startEngine_keeps h (covers_trans (by decide) hm) _ _ _ _) (covers_trans (by decide) hm) _)
      · exact h
    · exact h

theorem State.ctrlAct_keeps (h : Keeps m s0 s) (hm : covers m [.regs, .live, .pend, .mem, .eng, .xrd, .scn, .chn, .fab, .dma, .que, .host, .mil, .net, .ports, .stp, .nbr, .modes, .memx, .boot, .flt, .out, .free] = true) : ∀ a1 a2, Keeps m s0 (State.ctrlAct s a1 a2) := by
  intro a1 a2
  unfold State.ctrlAct
  split
  · exact (State.ctrlApplied_keeps h (covers_trans (by decide) hm) _ _ _ _)
  · exact (State.ctrlWrite_keeps h (covers_trans (by decide) hm) _ _ _)
  · refine keeps_ite (P := fun z => Keeps m s0 z) ?_ ?_
    · exact h
    · exact (State.latchSwap_keeps h (covers_trans (by decide) hm) _ _ _)
  · exact (State.ctrlRestart_keeps h (covers_trans (by decide) hm) _ _ _)
  · exact (State.ctrlCrier_keeps h (covers_trans (by decide) hm) _ _)
  · exact (State.modNbr_keeps h (covers_trans (by decide) hm) _)
  · exact (State.tryCopy_keeps (State.modNbr_keeps h (covers_trans (by decide) hm) _) (covers_trans (by decide) hm))
  · exact (State.modNbr_keeps h (covers_trans (by decide) hm) _)

theorem State.ctrlLater_keeps (h : Keeps m s0 s) (hm : covers m [.nbr] = true) : ∀ a1 a2, Keeps m s0 (State.ctrlLater s a1 a2) := by
  intro a1 a2
  unfold State.ctrlLater
  exact (State.modNbr_keeps h (covers_trans (by decide) hm) _)

theorem execCtrlFrame_keeps : ∀ a0 a1 a2 t, execCtrlFrame a0 a1 a2 s = .next t →
    Keeps [.regs, .live, .pend, .mem, .eng, .xrd, .scn, .chn, .fab, .dma, .que, .host, .mil, .net, .ports, .stp, .nbr, .modes, .memx, .boot, .flt, .out, .free] s t := by
  intro a0 a1 a2 t e
  have hm : covers [.regs, .live, .pend, .mem, .eng, .xrd, .scn, .chn, .fab, .dma, .que, .host, .mil, .net, .ports, .stp, .nbr, .modes, .memx, .boot, .flt, .out, .free] [.regs, .live, .pend, .mem, .eng, .xrd, .scn, .chn, .fab, .dma, .que, .host, .mil, .net, .ports, .stp, .nbr, .modes, .memx, .boot, .flt, .out, .free] = true := by decide
  have h := Keeps.refl [.regs, .live, .pend, .mem, .eng, .xrd, .scn, .chn, .fab, .dma, .que, .host, .mil, .net, .ports, .stp, .nbr, .modes, .memx, .boot, .flt, .out, .free] s
  unfold execCtrlFrame at e
  replace e := Host.Outcome.next.inj e
  subst e
  refine State.nbrRecv_keeps h (covers_trans (by decide) hm) _ _ fun _ h0 => ?_
  refine keeps_ite (P := fun z => Keeps [.regs, .live, .pend, .mem, .eng, .xrd, .scn, .chn, .fab, .dma, .que, .host, .mil, .net, .ports, .stp, .nbr, .modes, .memx, .boot, .flt, .out, .free] s z) ?_ ?_
  · refine keeps_ite (P := fun z => Keeps [.regs, .live, .pend, .mem, .eng, .xrd, .scn, .chn, .fab, .dma, .que, .host, .mil, .net, .ports, .stp, .nbr, .modes, .memx, .boot, .flt, .out, .free] s z) ?_ ?_
    · exact h0
    · exact (State.ctrlAct_keeps h0 (covers_trans (by decide) hm) _ _)
  · refine keeps_ite (P := fun z => Keeps [.regs, .live, .pend, .mem, .eng, .xrd, .scn, .chn, .fab, .dma, .que, .host, .mil, .net, .ports, .stp, .nbr, .modes, .memx, .boot, .flt, .out, .free] s z) ?_ ?_
    · exact h0
    · refine keeps_ite (P := fun z => Keeps [.regs, .live, .pend, .mem, .eng, .xrd, .scn, .chn, .fab, .dma, .que, .host, .mil, .net, .ports, .stp, .nbr, .modes, .memx, .boot, .flt, .out, .free] s z) ?_ ?_
      · exact (State.ctrlLater_keeps h0 (covers_trans (by decide) hm) _ _)
      · refine keeps_ite (P := fun z => Keeps [.regs, .live, .pend, .mem, .eng, .xrd, .scn, .chn, .fab, .dma, .que, .host, .mil, .net, .ports, .stp, .nbr, .modes, .memx, .boot, .flt, .out, .free] s z) ?_ ?_
        · exact (State.ctrlAct_keeps h0 (covers_trans (by decide) hm) _ _)
        · exact (State.diverge_keeps (State.ctrlLater_keeps h0 (covers_trans (by decide) hm) _ _) (covers_trans (by decide) hm) _ _)

theorem State.ctrlDue_keeps (h : Keeps m s0 s) (hm : covers m [.regs, .live, .pend, .mem, .eng, .xrd, .scn, .chn, .fab, .dma, .que, .host, .mil, .net, .ports, .stp, .nbr, .modes, .memx, .boot, .flt, .out, .free] = true) : Keeps m s0 (State.ctrlDue s) := by
  unfold State.ctrlDue
  extract_lets -merge -underBinder x0 x1
  refine keeps_foldl (P := fun z => Keeps m s0 z) ?_ fun _ _ h2 => ?_
  · exact (State.modNbr_keeps h (covers_trans (by decide) hm) _)
  · exact (State.ctrlAct_keeps h2 (covers_trans (by decide) hm) _ _)

theorem execFailureRecognised_keeps : ∀ t, execFailureRecognised s = .next t →
    Keeps [.regs, .mem, .host, .net, .nbr, .out] s t := by
  intro t e
  have hm : covers [.regs, .mem, .host, .net, .nbr, .out] [.regs, .mem, .host, .net, .nbr, .out] = true := by decide
  have h := Keeps.refl [.regs, .mem, .host, .net, .nbr, .out] s
  unfold execFailureRecognised at e
  extract_lets -merge -underBinder x0 at e
  replace e := Host.Outcome.next.inj e
  subst e
  refine keeps_ite (P := fun z => Keeps [.regs, .mem, .host, .net, .nbr, .out] s z) ?_ ?_
  · exact h
  · refine keeps_ite (P := fun z => Keeps [.regs, .mem, .host, .net, .nbr, .out] s z) ?_ ?_
    · refine keeps_ite (P := fun z => Keeps [.regs, .mem, .host, .net, .nbr, .out] s z) ?_ ?_
      · exact (State.modNbr_keeps h (covers_trans (by decide) hm) _)
      · exact (State.promote_keeps h (covers_trans (by decide) hm))
    · exact (State.raise_keeps h (covers_trans (by decide) hm) _ _)

end Sys2Proof.Machine
end

