-- ==== Sys2Proof/Laws/KeepsBoundary.lean ====
section
/-! SUPPORT. What each function of Machine/Boundary.lean keeps: the parts of the state it can change, the canonical form of the stores,
the order of free values and outputs. One lemma per function, assembled from those of the functions it calls. -/
namespace Sys2Proof.Machine

variable {m : List Part} {s0 s : State}

theorem execBlockStart_keeps : ∀ t, execBlockStart s = .next t →
    Keeps [.regs, .live, .pend, .mem, .eng, .xrd, .scn, .chn, .fab, .dma, .que, .host, .mil, .net, .ports, .stp, .nbr, .modes, .memx, .boot, .flt, .out, .free] s t := by
  intro t e
  have hm : covers [.regs, .live, .pend, .mem, .eng, .xrd, .scn, .chn, .fab, .dma, .que, .host, .mil, .net, .ports, .stp, .nbr, .modes, .memx, .boot, .flt, .out, .free] [.regs, .live, .pend, .mem, .eng, .xrd, .scn, .chn, .fab, .dma, .que, .host, .mil, .net, .ports, .stp, .nbr, .modes, .memx, .boot, .flt, .out, .free] = true := by decide
  have h := Keeps.refl [.regs, .live, .pend, .mem, .eng, .xrd, .scn, .chn, .fab, .dma, .que, .host, .mil, .net, .ports, .stp, .nbr, .modes, .memx, .boot, .flt, .out, .free] s
  unfold execBlockStart at e
  extract_lets -merge -underBinder x0 x1 x2 x3 x4 at e
  have hx1 : Keeps [.regs, .live, .pend, .mem, .eng, .xrd, .scn, .chn, .fab, .dma, .que, .host, .mil, .net, .ports, .stp, .nbr, .modes, .memx, .boot, .flt, .out, .free] s x1 := (State.modMemx_keeps (State.engBoundary_keeps h (covers_trans (by decide) hm)) (covers_trans (by decide) hm) _)
  have hx2 : Keeps [.regs, .live, .pend, .mem, .eng, .xrd, .scn, .chn, .fab, .dma, .que, .host, .mil, .net, .ports, .stp, .nbr, .modes, .memx, .boot, .flt, .out, .free] s x2 := by
    subst x2
    refine keeps_ite (P := fun z => Keeps [.regs, .live, .pend, .mem, .eng, .xrd, .scn, .chn, .fab, .dma, .que, .host, .mil, .net, .ports, .stp, .nbr, .modes, .memx, .boot, .flt, .out, .free] s z) ?_ ?_
    · exact hx1
    · exact (State.stages_keeps hx1 (covers_trans (by decide) hm) _)
  have hx3 : Keeps [.regs, .live, .pend, .mem, .eng, .xrd, .scn, .chn, .fab, .dma, .que, .host, .mil, .net, .ports, .stp, .nbr, .modes, .memx, .boot, .flt, .out, .free] s x3 := by
    subst x3
    refine keeps_foldl (P := fun z => Keeps [.regs, .live, .pend, .mem, .eng, .xrd, .scn, .chn, .fab, .dma, .que, .host, .mil, .net, .ports, .stp, .nbr, .modes, .memx, .boot, .flt, .out, .free] s z) ?_ fun _ _ h5 => ?_
    · exact hx2
    · exact (State.genBoundary_keeps h5 (covers_trans (by decide) hm) _)
  have hx4 : Keeps [.regs, .live, .pend, .mem, .eng, .xrd, .scn, .chn, .fab, .dma, .que, .host, .mil, .net, .ports, .stp, .nbr, .modes, .memx, .boot, .flt, .out, .free] s x4 := (State.ctrlDue_keeps (State.steepleBlock_keeps (State.autoRealign_keeps hx3 (covers_trans (by decide) hm)) (covers_trans (by decide) hm)) (covers_trans (by decide) hm))
  try clear_value x4
  try clear_value x3
  try clear_value x2
  try clear_value x1
  replace e := Host.Outcome.next.inj e
  subst e
  refine keeps_ite (P := fun z => Keeps [.regs, .live, .pend, .mem, .eng, .xrd, .scn, .chn, .fab, .dma, .que, .host, .mil, .net, .ports, .stp, .nbr, .modes, .memx, .boot, .flt, .out, .free] s z) ?_ ?_
  · exact h
  · exact (State.showModes_keeps (State.showRunning_keeps (State.vcxoReturns_keeps (State.failsafeBlock_keeps (State.nbrBlock_keeps hx4 (covers_trans (by decide) hm) _) (covers_trans (by decide) hm)) (covers_trans (by decide) hm)) (covers_trans (by decide) hm)) (covers_trans (by decide) hm))

end Sys2Proof.Machine
end

