-- ==== Sys2Proof/Laws/KeepsCommands.lean ====
section
/-! SUPPORT. What each function of Machine/Commands.lean keeps: the parts of the state it can change, the canonical form of the stores,
the order of free values and outputs. One lemma per function, assembled from those of the functions it calls. -/
namespace Sys2Proof.Machine

variable {m : List Part} {s0 s : State}

theorem State.runUpdate_keeps : ∀ a1 a2 a3 a4 t, State.runUpdate s a1 a2 a3 a4 = .next t →
    Keeps [.regs, .mem, .eng, .xrd, .scn, .chn, .que, .host, .mil, .stp, .modes, .memx, .boot, .out] s t := by
  intro a1 a2 a3 a4 t e
  have hm : covers [.regs, .mem, .eng, .xrd, .scn, .chn, .que, .host, .mil, .stp, .modes, .memx, .boot, .out] [.regs, .mem, .eng, .xrd, .scn, .chn, .que, .host, .mil, .stp, .modes, .memx, .boot, .out] = true := by decide
  have h := Keeps.refl [.regs, .mem, .eng, .xrd, .scn, .chn, .que, .host, .mil, .stp, .modes, .memx, .boot, .out] s
  unfold State.runUpdate at e
  refine keeps_eq_ite e (fun e => ?_) (fun e => ?_)
  · exact (Keeps.trans h ((execCfgLoad_keeps _ _ _ _ e).mono (covers_trans (by decide) hm)))
  · refine keeps_eq_ite e (fun e => ?_) (fun e => ?_)
    · exact (Keeps.trans h ((execCfgSave_keeps _ _ _ _ e).mono (covers_trans (by decide) hm)))
    · refine keeps_eq_ite e (fun e => ?_) (fun e => ?_)
      · exact (Keeps.trans h ((execCfgStart_keeps _ _ _ _ e).mono (covers_trans (by decide) hm)))
      · refine keeps_eq_ite e (fun e => ?_) (fun e => ?_)
        · exact (Keeps.trans h ((execCfgList_keeps _ _ e).mono (covers_trans (by decide) hm)))
        · refine keeps_eq_ite e (fun e => ?_) (fun e => ?_)
          · exact (Keeps.trans h ((execUpdBegin_keeps _ _ _ _ e).mono (covers_trans (by decide) hm)))
          · refine keeps_eq_ite e (fun e => ?_) (fun e => ?_)
            · exact (Keeps.trans h ((execUpdWrite_keeps _ _ _ _ _ _ e).mono (covers_trans (by decide) hm)))
            · refine keeps_eq_ite e (fun e => ?_) (fun e => ?_)
              · exact (Keeps.trans h ((execUpdVerify_keeps _ _ _ e).mono (covers_trans (by decide) hm)))
              · refine keeps_eq_ite e (fun e => ?_) (fun e => ?_)
                · exact (Keeps.trans h ((execUpdActivate_keeps _ _ _ _ _ e).mono (covers_trans (by decide) hm)))
                · refine keeps_eq_ite e (fun e => ?_) (fun e => ?_)
                  · exact (Keeps.trans h ((execUpdConfirm_keeps _ _ e).mono (covers_trans (by decide) hm)))
                  · exact (Keeps.trans h ((execUpdStatus_keeps _ _ e).mono (covers_trans (by decide) hm)))

theorem State.runUnit_keeps : ∀ a1 a2 a3 a4 t, State.runUnit s a1 a2 a3 a4 = .next t →
    Keeps [.regs, .mem, .scn, .chn, .que, .host, .nbr, .memx, .boot, .flt, .out, .free] s t := by
  intro a1 a2 a3 a4 t e
  have hm : covers [.regs, .mem, .scn, .chn, .que, .host, .nbr, .memx, .boot, .flt, .out, .free] [.regs, .mem, .scn, .chn, .que, .host, .nbr, .memx, .boot, .flt, .out, .free] = true := by decide
  have h := Keeps.refl [.regs, .mem, .scn, .chn, .que, .host, .nbr, .memx, .boot, .flt, .out, .free] s
  unfold State.runUnit at e
  refine keeps_eq_ite e (fun e => ?_) (fun e => ?_)
  · exact (Keeps.trans h ((execSetSave_keeps _ _ _ _ _ _ e).mono (covers_trans (by decide) hm)))
  · refine keeps_eq_ite e (fun e => ?_) (fun e => ?_)
    · exact (Keeps.trans h ((execSetDefaults_keeps _ _ _ e).mono (covers_trans (by decide) hm)))
    · refine keeps_eq_ite e (fun e => ?_) (fun e => ?_)
      · exact (Keeps.trans h ((execLcAdvance_keeps _ _ _ _ _ _ e).mono (covers_trans (by decide) hm)))
      · refine keeps_eq_ite e (fun e => ?_) (fun e => ?_)
        · exact (Keeps.trans h ((execProvKey_keeps _ _ e).mono (covers_trans (by decide) hm)))
        · refine keeps_eq_ite e (fun e => ?_) (fun e => ?_)
          · exact (Keeps.trans h ((execProvCert_keeps _ _ _ _ _ e).mono (covers_trans (by decide) hm)))
          · refine keeps_eq_ite e (fun e => ?_) (fun e => ?_)
            · exact (Keeps.trans h ((execUnitSign_keeps _ _ _ _ e).mono (covers_trans (by decide) hm)))
            · refine keeps_eq_ite e (fun e => ?_) (fun e => ?_)
              · exact (Keeps.trans h ((execLicWrite_keeps _ _ _ _ _ _ e).mono (covers_trans (by decide) hm)))
              · exact (Keeps.trans h ((execLicRead_keeps _ _ _ _ _ _ e).mono (covers_trans (by decide) hm)))

theorem State.runFaults_keeps : ∀ a1 a2 a3 a4 t, State.runFaults s a1 a2 a3 a4 = .next t →
    Keeps [.regs, .mem, .que, .host, .flt, .out] s t := by
  intro a1 a2 a3 a4 t e
  have hm : covers [.regs, .mem, .que, .host, .flt, .out] [.regs, .mem, .que, .host, .flt, .out] = true := by decide
  have h := Keeps.refl [.regs, .mem, .que, .host, .flt, .out] s
  unfold State.runFaults at e
  refine keeps_eq_ite e (fun e => ?_) (fun e => ?_)
  · exact (Keeps.trans h ((execRollFlush_keeps _ _ _ e).mono (covers_trans (by decide) hm)))
  · refine keeps_eq_ite e (fun e => ?_) (fun e => ?_)
    · exact (Keeps.trans h ((execRollClear_keeps _ _ _ e).mono (covers_trans (by decide) hm)))
    · refine keeps_eq_ite e (fun e => ?_) (fun e => ?_)
      · exact (Keeps.trans h ((execDumpInfo_keeps _ _ e).mono (covers_trans (by decide) hm)))
      · refine keeps_eq_ite e (fun e => ?_) (fun e => ?_)
        · exact (Keeps.trans h ((execDumpCopy_keeps _ _ _ _ e).mono (covers_trans (by decide) hm)))
        · refine keeps_eq_ite e (fun e => ?_) (fun e => ?_)
          · exact (Keeps.trans h ((execDumpClear_keeps _ _ _ e).mono (covers_trans (by decide) hm)))
          · exact (Keeps.trans h ((execPfailCopy_keeps _ _ _ _ e).mono (covers_trans (by decide) hm)))

theorem State.runModes_keeps : ∀ a1 a2 a3 t, State.runModes s a1 a2 a3 = .next t →
    Keeps [.regs, .live, .pend, .mem, .eng, .xrd, .scn, .chn, .que, .host, .mil, .net, .ports, .stp, .nbr, .modes, .memx, .boot, .flt, .out] s t := by
  intro a1 a2 a3 t e
  have hm : covers [.regs, .live, .pend, .mem, .eng, .xrd, .scn, .chn, .que, .host, .mil, .net, .ports, .stp, .nbr, .modes, .memx, .boot, .flt, .out] [.regs, .live, .pend, .mem, .eng, .xrd, .scn, .chn, .que, .host, .mil, .net, .ports, .stp, .nbr, .modes, .memx, .boot, .flt, .out] = true := by decide
  have h := Keeps.refl [.regs, .live, .pend, .mem, .eng, .xrd, .scn, .chn, .que, .host, .mil, .net, .ports, .stp, .nbr, .modes, .memx, .boot, .flt, .out] s
  unfold State.runModes at e
  refine keeps_eq_ite e (fun e => ?_) (fun e => ?_)
  · exact Keeps.trans h ((execModeSet_keeps _ _ _ _ e).mono (covers_trans (by decide) hm))
  · refine keeps_eq_ite e (fun e => ?_) (fun e => ?_)
    · exact Keeps.trans h ((execModeGet_keeps _ _ e).mono (covers_trans (by decide) hm))
    · exact Keeps.trans h ((execModeDiscard_keeps _ _ e).mono (covers_trans (by decide) hm))

theorem State.runCommand_keeps (h : Keeps m s0 s) (hm : covers m [.regs, .live, .pend, .mem, .eng, .xrd, .scn, .chn, .que, .host, .mil, .net, .ports, .stp, .nbr, .modes, .memx, .boot, .flt, .out, .free] = true) : ∀ a1 a2 a3, Keeps m s0 (State.runCommand s a1 a2 a3) := by
  intro a1 a2 a3
  unfold State.runCommand
  extract_lets -merge -underBinder x0
  refine keeps_ite (P := fun z => Keeps m s0 z) ?_ ?_
  · exact (State.done_keeps (P := [.regs, .live, .pend, .mem, .eng, .xrd, .scn, .chn, .que, .host, .mil, .net, .ports, .stp, .nbr, .modes, .memx, .boot, .flt, .out]) h (covers_trans (by decide) hm) _ fun t1 et1 => runModes_keeps _ _ _ t1 et1)
  · refine keeps_ite (P := fun z => Keeps m s0 z) ?_ ?_
    · refine keeps_ite (P := fun z => Keeps m s0 z) ?_ ?_
      · exact (State.done_keeps (P := [.regs, .mem, .eng, .xrd, .scn, .chn, .que, .host, .mil, .stp, .modes, .memx, .boot, .out]) h (covers_trans (by decide) hm) _ fun t1 et1 => runUpdate_keeps _ _ _ _ t1 et1)
      · exact (State.done_keeps (P := [.regs, .mem, .scn, .chn, .que, .host, .nbr, .memx, .boot, .flt, .out, .free]) h (covers_trans (by decide) hm) _ fun t1 et1 => runUnit_keeps _ _ _ _ t1 et1)
    · refine keeps_ite (P := fun z => Keeps m s0 z) ?_ ?_
      · exact (State.done_keeps (P := [.regs, .mem, .que, .host, .flt, .out]) h (covers_trans (by decide) hm) _ fun t1 et1 => runFaults_keeps _ _ _ _ t1 et1)
      · exact (State.done_keeps (P := [.regs, .que, .host, .out]) h (covers_trans (by decide) hm) _ fun t1 et1 => execQueueNop_keeps _ t1 et1)

theorem execCommandTake_keeps : ∀ a0 a1 a2 a3 t, execCommandTake a0 a1 a2 a3 s = .next t →
    Keeps [.regs, .live, .pend, .mem, .eng, .xrd, .scn, .chn, .que, .host, .mil, .net, .ports, .stp, .nbr, .modes, .memx, .boot, .flt, .out, .free] s t := by
  intro a0 a1 a2 a3 t e
  have hm : covers [.regs, .live, .pend, .mem, .eng, .xrd, .scn, .chn, .que, .host, .mil, .net, .ports, .stp, .nbr, .modes, .memx, .boot, .flt, .out, .free] [.regs, .live, .pend, .mem, .eng, .xrd, .scn, .chn, .que, .host, .mil, .net, .ports, .stp, .nbr, .modes, .memx, .boot, .flt, .out, .free] = true := by decide
  have h := Keeps.refl [.regs, .live, .pend, .mem, .eng, .xrd, .scn, .chn, .que, .host, .mil, .net, .ports, .stp, .nbr, .modes, .memx, .boot, .flt, .out, .free] s
  unfold execCommandTake at e
  replace e := Host.Outcome.next.inj e
  subst e
  refine keeps_ite (P := fun z => Keeps [.regs, .live, .pend, .mem, .eng, .xrd, .scn, .chn, .que, .host, .mil, .net, .ports, .stp, .nbr, .modes, .memx, .boot, .flt, .out, .free] s z) ?_ ?_
  · exact h
  · split
    · exact h
    · extract_lets -merge -underBinder x0 x1 x2 x3
      have hx1 : Keeps [.regs, .live, .pend, .mem, .eng, .xrd, .scn, .chn, .que, .host, .mil, .net, .ports, .stp, .nbr, .modes, .memx, .boot, .flt, .out, .free] s x1 := (State.putQueue_keeps h (covers_trans (by decide) hm) _ _)
      try clear_value x1
      refine keeps_ite (P := fun z => Keeps [.regs, .live, .pend, .mem, .eng, .xrd, .scn, .chn, .que, .host, .mil, .net, .ports, .stp, .nbr, .modes, .memx, .boot, .flt, .out, .free] s z) ?_ ?_
      · exact h
      · refine keeps_ite (P := fun z => Keeps [.regs, .live, .pend, .mem, .eng, .xrd, .scn, .chn, .que, .host, .mil, .net, .ports, .stp, .nbr, .modes, .memx, .boot, .flt, .out, .free] s z) ?_ ?_
        · exact (State.runCommand_keeps hx1 (covers_trans (by decide) hm) _ _ _)
        · exact (State.reply_keeps hx1 (covers_trans (by decide) hm) _ _ _)

end Sys2Proof.Machine
end

