-- ==== Sys2Proof/WellFormed.lean ====
section
/-! DEFINITION. Which commands are well formed: every operand that selects a part of the chip names one that the spec
gives it. -/
namespace Sys2Proof

/-- The Mill of a slot is one of the sixteen (R169). -/
def SlotOp.ok : SlotOp → Bool
  | .mac mill _ => mill < 16
  | .ls op => op.mill < 16
  | .sc mill => mill < 16

/-- A command whose operands name parts that exist: Mills (R169), destinations (R45), generators (R70), ports (R223, R265),
streams (R4), Crier slots (R255), queues (R441), DMA channels (R430), candidates (R303), register pages (R459). -/
def Instr.wellFormed : Instr → Bool
  | .sampleStrobe => true
  | .blockStart => true
  | .snapArm => true
  | .snapCapture => true
  | .engEsiLoRead _ => true
  | .realignRequest _ => true
  | .restartBegin => true
  | .restartGap => true
  | .restartAtB => true
  | .restartDone => true
  | .looseWriteInForce => true
  | .routeFadeEnd dest => dest < 16384
  | .deferredRouteChange dest => dest < 16384
  | .genModeWrite g _ => g < 64
  | .genAuxWrite g _ => g < 64
  | .impulseFire g => g < 64
  | .carryForwardReady => true
  | .swapStart => true
  | .swapComplete => true
  | .swapCancel => true
  | .rampEnd offset => offset % 2 == 0
  | .dualRunEnd strip _ => strip < 12288
  | .prepareGo _ => true
  | .prepareDone => true
  | .tailReady => true
  | .switchCrossfadeStart => true
  | .switchDone => true
  | .jobGo _ => true
  | .jobDone => true
  | .nop op => op.ok
  | .vmul op => op.mill < 16
  | .vmac op => op.mill < 16
  | .vmsu op => op.mill < 16
  | .vmova op => op.mill < 16
  | .vadda op => op.mill < 16
  | .vacc op => op.mill < 16
  | .vclra op => op.mill < 16
  | .vreda op => op.mill < 16
  | .vrnd op => op.mill < 16
  | .vrndv op => op.mill < 16
  | .vaccw op => op.mill < 16
  | .vrsba op => op.mill < 16
  | .vadd op => op.mill < 16
  | .vsub op => op.mill < 16
  | .vaddw op => op.mill < 16
  | .vsubw op => op.mill < 16
  | .vneg op => op.mill < 16
  | .vabs op => op.mill < 16
  | .vmin op => op.mill < 16
  | .vmax op => op.mill < 16
  | .vand op => op.mill < 16
  | .vor op => op.mill < 16
  | .vxor op => op.mill < 16
  | .vshl op => op.mill < 16
  | .vasr op => op.mill < 16
  | .vlsr op => op.mill < 16
  | .vcmplt op => op.mill < 16
  | .vcmpeq op => op.mill < 16
  | .vsel op => op.mill < 16
  | .vrsb op => op.mill < 16
  | .vrot op => op.mill < 16
  | .vbc op => op.mill < 16
  | .vaddi op => op.mill < 16
  | .vrsubi op => op.mill < 16
  | .vexp op => op.mill < 16
  | .vlg2 op => op.mill < 16
  | .vsqrt op => op.mill < 16
  | .vdiv op => op.mill < 16
  | .ldv op => op.mill < 16
  | .stv op => op.mill < 16
  | .ldx op => op.mill < 16
  | .stx op => op.mill < 16
  | .ldhx op => op.mill < 16
  | .sthx op => op.mill < 16
  | .ldbc op => op.mill < 16
  | .lds op => op.mill < 16
  | .sts op => op.mill < 16
  | .lda op => op.mill < 16
  | .sta op => op.mill < 16
  | .ldhv op => op.mill < 16
  | .sthv op => op.mill < 16
  | .pmod op => op.mill < 16
  | .addS op => op.mill < 16
  | .subS op => op.mill < 16
  | .addi op => op.mill < 16
  | .andS op => op.mill < 16
  | .orS op => op.mill < 16
  | .xorS op => op.mill < 16
  | .shl op => op.mill < 16
  | .asr op => op.mill < 16
  | .lsr op => op.mill < 16
  | .li op => op.mill < 16
  | .sli op => op.mill < 16
  | .minS op => op.mill < 16
  | .maxS op => op.mill < 16
  | .mvp op => op.mill < 16
  | .mvm op => op.mill < 16
  | .mvn op => op.mill < 16
  | .rdp op => op.mill < 16
  | .rdm op => op.mill < 16
  | .rdn op => op.mill < 16
  | .vins op => op.mill < 16
  | .vext op => op.mill < 16
  | .loopS op => op.mill < 16
  | .eob op => op.mill < 16
  | .bxclr op => op.mill < 16
  | .bxrd op => op.mill < 16
  | .rdb op => op.mill < 16
  | .statS op => op.mill < 16
  | .xfer op => op.mill < 16
  | .waite op => op.mill < 16
  | .illegalOperation op => op.ok
  | .xferComplete mill _ _ => mill < 16
  | .endOfWork _ _ => true
  | .millAbort mill => mill < 16
  | .millReloadDone mill => mill < 16
  | .halt mill _ => mill < 16
  | .millStep mill _ => mill < 16
  | .bpEn mill _ => mill < 16
  | .breakpointFreeze mill => mill < 16
  | .cont mill _ => mill < 16
  | .bstep mill _ => mill < 16
  | .frameReceive port _ _ _ data => port < 2 && data.length < 2 ^ 16
  | .portLinkChange port _ _ _ _ _ => port < 2
  | .speedSeek port => port < 2
  | .ptpEventTransmit port msg => port < 2 && msg < 4
  | .packetLaunch stream _ _ => stream < 512
  | .membershipReport port _ _ => port < 2
  | .criPost _ => true
  | .criCancel _ => true
  | .arpRetry slot => slot < 1024
  | .crierPtpRelease slot => slot < 1024
  | .crierSwapRelease slot => slot < 1024
  | .criInject _ => true
  | .uartFrame _ => true
  | .ptsFifoInfoRead _ => true
  | .portFrameReceive port frame => port < 22 && frame.line.all (· < 32)
  | .portLost port => port < 22
  | .portLock port => port < 22
  | .maskChange page => 0x080 ≤ page && page ≤ 0x094
  | .asrcLock port _ => port < 22
  | .timebaseAdvance => true
  | .candidateDeviation _ => true
  | .candidateQualify k => k < 8
  | .waitToRestoreExpiry k => k < 8
  | .slewEnd => true
  | .bandwidthStep => true
  | .lockLoss => true
  | .holdoverExpiry => true
  | .averageSave => true
  | .announceTimeout port => port < 2
  | .tbsOutAlign _ => true
  | .edgeCapture source _ _ => source < 38
  | .edgInfoRead _ => true
  | .ltcFrame _ => true
  | .ltcLost => true
  | .ltcInTimeRead _ => true
  | .tbsNowNsRead _ => true
  | .dacSlewStep channel => channel < 8
  | .dacOverload channel => channel < 8
  | .drebaLinkUp => true
  | .drebaLinkDown lane => lane.all (· < 4)
  | .timeFrame _ _ _ _ => true
  | .hotFrame _ _ _ _ => true
  | .longFrame _ _ _ => true
  | .bankFrame _ _ addr _ => addr % 32 == 0
  | .ctrlFrame _ _ _ => true
  | .chunkFrame _ addr _ => addr % 256 == 0
  | .trailerFrame _ _ => true
  | .scanFrame _ _ _ => true
  | .ackFrame _ => true
  | .nakFrame _ => true
  | .trailerTimeout _ => true
  | .heartbeatPulse _ => true
  | .failureRecognised => true
  | .copyExit => true
  | .confirmClean => true
  | .recopy => true
  | .nbrGrantWrite channel _ _ => channel < 2
  | .grantTakeEffect => true
  | .resync _ => true
  | .drill _ => true
  | .drillFail => true
  | .declare _ => true
  | .modeSet _ _ _ => true
  | .modeGet _ => true
  | .modeDiscard _ => true
  | .granaryWrite _ addr _ => addr < 2 ^ 56
  | .granaryRead _ addr _ => addr < 2 ^ 56
  | .eccWriteback _ => true
  | .holdWaitProceed => true
  | .sweeperRowTest _ => true
  | .tamper pin _ => pin < 2
  | .strWipe _ => true
  | .wipeDone => true
  | .refreshDebtTick channel _ => channel < 4
  | .supervisoryRefresh channel => channel < 4
  | .mr4Poll channel _ _ _ => channel < 4
  | .wck2dqPoll channel => channel < 4
  | .selfRefresh _ => true
  | .trainingComplete _ channel _ _ _ => channel < 4
  | .gleanerFrameComplete => true
  | .glnMarkAtWrite _ => true
  | .markReady => true
  | .glnAdv _ => true
  | .glnWriteLoRead _ => true
  | .glnCursorLoRead _ => true
  | .fabricRequest _ chan _ _ _ _ _ => chan < 64
  | .targetTimeout _ chan => chan < 64
  | .masterReset _ _ => true
  | .quarantineEnd _ => true
  | .fabSyncRead _ => true
  | .dmaGo chan _ => chan < 64
  | .dmaAbort chan _ => chan < 64
  | .descriptorFetch chan _ => chan < 64
  | .descriptorComplete chan _ _ _ => chan < 64
  | .dmaPoll chan _ => chan < 64
  | .eventRingRoom ring => ring < 56
  | .softReset page => page < 0x0D2
  | .queuePush _ q part _ => q < 256 && part < 3
  | .queuePop _ q part => q < 256 && part < 3
  | .commandTake q _ _ _ => q < 256
  | .queueNop _ => true
  | .registerWrite _ page off _ => page < 0x0D2 && off < 0x400 && off % 4 == 0
  | .setAliasWrite _ page off _ => page < 0x0D2 && off < 0x400 && off % 4 == 0
  | .clearAliasWrite _ page off _ => page < 0x0D2 && off < 0x400 && off % 4 == 0
  | .registerReadClear _ page off => page < 0x0D2 && off < 0x400 && off % 4 == 0
  | .lockWrite _ page _ => page < 0x0D2
  | .irqRawClear _ page _ => page < 0x0D2
  | .irqTestWrite _ page _ => page < 0x0D2
  | .applyStaged page => page < 0x0D2
  | .applyDiscard page => page < 0x0D2
  | .applyDue page => page < 0x0D2
  | .msxEoi _ => true
  | .msixUnmask vector => vector.all (· < 256)
  | .i2cAccess addr _ _ _ => addr < 2 ^ 24
  | .updRecover _ => true
  | .resetRelease _ _ => true
  | .warmReset cause => 1 ≤ cause && cause ≤ 4
  | .cfgLoad _ _ _ => true
  | .cfgSave _ _ _ => true
  | .cfgStart _ _ _ => true
  | .cfgList _ => true
  | .updBegin _ _ _ => true
  | .updWrite _ _ _ _ _ => true
  | .updVerify _ _ => true
  | .updActivate _ _ _ _ => true
  | .updConfirm _ => true
  | .updStatus _ => true
  | .setSave _ _ _ _ _ => true
  | .setDefaults _ _ => true
  | .lcAdvance _ _ _ _ _ => true
  | .provKey _ => true
  | .provCert _ _ _ _ => true
  | .unitSign _ _ _ => true
  | .licWrite _ _ _ _ _ => true
  | .licRead _ _ _ _ _ => true
  | .handover => true
  | .imageConfirm _ => true
  | .confirmExpiry => true
  | .faultInactive id => 1 ≤ id && id < 16
  | .latchClear _ => true
  | .fltEnter _ => true
  | .fltLeave _ _ => true
  | .failsafeEntry => true
  | .failsafeLeave => true
  | .pfail => true
  | .wdogKick _ _ => true
  | .reeveWdogExpiry => true
  | .carterTimeout carter => carter < 2
  | .dumpDone => true
  | .flashDumpDone _ => true
  | .fatalTimeout => true
  | .rollReport page code _ _ _ _ => page < 256 && code < 256
  | .rollWindowEnd => true
  | .rolRepGo _ _ => true
  | .rollCopy _ => true
  | .rollFlush _ _ => true
  | .rollClear _ _ => true
  | .dumpInfo _ => true
  | .dumpCopy _ _ _ => true
  | .dumpClear _ _ => true
  | .pfailCopy _ _ _ => true
  | .domainSwitchDone => true
  | .pllLoss pll => pll < 10
  | .vcxoCheck _ => true
  | .chipResetWrite _ _ => true
  | .carterReset _ _ => true
  | .throttleTrip sensor _ => sensor < 8
  | .throttleRelease _ _ => true
  | .pathSilent => true
  | .fwFatal => true
  | .pfailNRise => true
  | .pllRelock pll => pll < 10
  | .pcieLinkChange _ _ _ => true
  | .pcieConfigWrite _ _ _ _ => true
  | .lateResponse _ => true
  | .announceMessage port => port < 2
  | .candidatePresenceLoss k => k < 8
  | .drebaCrcError => true
  | .gapHeartbeat => true
  | .reverseHandoverTimeout => true
  | .pfailRecordWritten => true

end Sys2Proof
end

