-- ==== Sys2Proof/Tests/Slice0.lean ====
section
/-! SUPPORT. The model's own tests: an ill-formed term for each check of WellFormed, small steps whose results the spec
gives, and for each statement with hypotheses a state and operands that meet them. -/
namespace Sys2Proof.Tests
open Sys2Proof.Machine

-- Each kernel evaluation waits for the one before it: one thread serves them all.
set_option Elab.async false

/-! ### Small states -/

/-- The chip after reset with register fields set. -/
def regsAt (l : List (Fld × Nat)) : State := l.foldl (fun (s : State) e => s.wr e.1 e.2) State.reset

/-- A running engine at ESI `n`, with register fields set. -/
def runsAt (n : Nat) (l : List (Fld × Nat)) : State :=
  let s := regsAt ((F.ENG_RATE_running, 1) :: l)
  { s with eng := { s.eng with esi := BitVec.ofNat 64 n } }

/-- Mill 0 holds `m` and issues. -/
def millWith (m : Mill) : State := (regsAt [(F.MIL_STATE_state, 1)]).setMill 0 { m with busy := true }

/-- A vector operation on Mill 0: V1 and V2 to V4 with accumulator 3. -/
def vecOp : VecOp := ⟨0, false, 4, 1, 2, 3, false, false, false, false, 0⟩

/-- A load/store operation on Mill 0 of register 5 at P0, addressing mode 0. -/
def lsOp : LsOp := ⟨0, 5, 0, 0, false, 0, 0, 0, false, 0⟩

/-- A scalar operation on Mill 0: S3 from S1 and S2. -/
def scOp (imm : BitVec 10) : ScOp := ⟨0, 3, 1, imm⟩

/-! ### Mill operations -/

theorem witness_mill_issues : (millWith Mill.fresh).millIssues 0 = true := by decide +kernel

/-- SpecialFunctionResults: an even and an odd vd. -/
theorem witness_vexp_registers : (millWith Mill.fresh).millIssues 0 = true ∧ vecOp.vd.toNat % 2 = 0 ∧
    ({ vecOp with vd := 31 } : VecOp).vd.toNat % 2 = 1 := by decide +kernel

/-- AccumulatorResults: no accumulate waits for A3, and one that is the newest. -/
theorem witness_forwarding :
    (∀ w ∈ Mill.fresh.writes, w.mac = true → w.dst = .a 3 0 → Mill.fresh.k ≤ w.issued) ∧
    (let w : MWrite := ⟨5, 1, 2, true, .a 3 0, 7⟩
     let m : Mill := { Mill.fresh with k := 3 }
     w.mac = true ∧ w.dst = .a 3 0 ∧ w.issued < m.k ∧
      ∀ x ∈ [(⟨4, 1, 1, true, .a 3 0, 9⟩ : MWrite)], x.mac = true → x.dst = .a 3 0 → x.issued < m.k →
        x.issued < w.issued ∨ (x.issued = w.issued ∧ x.rank ≤ w.rank)) := by decide +kernel

/-- MillAddressMap: an access in each region, at its first or last byte, one in each gap, and two that are not ok. -/
theorem witness_mill_addresses :
    let s := millWith { Mill.fresh with xfers := [⟨2 ^ 32, false, 0x40, 32, 0⟩] }
    let ok := fun x len => x % min len 32 = 0 ∧ (s.mill 0).guarded x len = false
    ok 0 32 ∧ (ok 0xFFFFC 4 ∧ 0xFFFFC + 4 ≤ 0x100000) ∧ ok 0x02FFFFE0 32 ∧ ok 0x03000000 4 ∧ ok 0x03FFFFFC 4 ∧
    ok 0x047FFFFC 4 ∧ ok 0x05000000 4 ∧ (ok 0x100000 4 ∧ 0x100000 < 0x100000 + 4) ∧ ok 0x04800000 4 ∧ ok 0x05800000 4 ∧
    ¬ok 2 4 ∧ ¬ok 0x40 4 := by decide +kernel

/-- LoadResults, Stores and NopAndIllegal: a legal and an illegal addressing mode. -/
theorem witness_addressing_mode : (millWith Mill.fresh).millIssues lsOp.mill = true ∧ lsOp.am ≠ 3 ∧
    ({ lsOp with am := 3 } : LsOp).am = 3 ∧ (millWith Mill.fresh).copying = false := by decide +kernel

/-- Stores: eight words at P0 = 0x1000 of the Mill store, and words outside the scene banks. -/
theorem witness_store_targets :
    let s := millWith { Mill.fresh with p := [(0, 0x1000)], m := [(12, 4)] }
    (∃ q, s.millAccess 0 0x1000 32 = some q) ∧ (∃ q, s.millAccess 0 0x1000 128 = some q) ∧
    (∃ q, s.millAccess 0 0x1000 16 = some q) ∧
    (∀ l < 8, bankOf (0x08001000 + 4 * l) = none ∧
      millTarget 0 (0x1000 + 4 * l) 4 = some (MTarget.bytes (0x08001000 + 4 * l), 3) ∧
      s.millAccess 0 (0x1000 + 4 * l) 4 = some (MTarget.bytes (0x08001000 + 4 * l), 3) ∧
      s.millAccess 0 (0x1000 + 4 * l) 2 = some (MTarget.bytes (0x08001000 + 4 * l), 3) ∧
      millTarget 0 (0x1000 + 16 * l) 16 = some (MTarget.bytes (0x08001000 + 16 * l), 3) ∧
      millTarget 0 (0x1000 + 2 * l) 2 = some (MTarget.bytes (0x08001000 + 2 * l), 3)) := by
  refine ⟨⟨(MTarget.bytes 0x08001000, 3), by decide +kernel⟩, ⟨(MTarget.bytes 0x08001000, 3), by decide +kernel⟩,
    ⟨(MTarget.bytes 0x08001000, 3), by decide +kernel⟩, by decide +kernel⟩

/-- Stores: a locked bank; a source that the schedule gives to Mill 0, and one that it does not. -/
theorem witness_store_destinations :
    let s := (regsAt [(F.MIL_STATE_state, 1), (F.SCN_STATE_locked_a, 1), (F.MIL_OWN_BASE_base, 0x02F00000)]).setByte 0x02F02800 0x80
    inGranary 0x01000010 = true ∧ bankOf 0x01000010 = some 0 ∧ s.bankLocked 0 = true ∧
    s.owns 0 5120 = true ∧ s.owns 0 13695 = false ∧ (s.mill 0).overrun = false := by decide +kernel
/-! ### Ill-formed commands, one for each check -/

/-- An ill-formed frame of a local port: line entry 32. -/
def badLine : PortFrameIn := ⟨[32], 0⟩

theorem test_ill_formed_dest : (Instr.routeFadeEnd 16384).wellFormed = false := by decide

/-- The engine, the scenes and the Mills. -/
theorem test_ill_formed_engine :
    ([.deferredRouteChange 16384, .genModeWrite 64 0, .genAuxWrite 64 0, .impulseFire 64, .rampEnd 1, .dualRunEnd 12288 0,
      .nop (.mac 16 false), .nop (.ls { lsOp with mill := 16 }), .illegalOperation (.sc 16), .vadd { vecOp with mill := 16 },
      .ldv { lsOp with mill := 16 }, .addi { scOp 0 with mill := 16 }, .xferComplete 16 0 false, .millAbort 16, .millReloadDone 16, .halt 16 0,
      .millStep 16 0, .bpEn 16 0, .breakpointFreeze 16, .cont 16 0, .bstep 16 0] : List Instr).all (fun i => !i.wellFormed) = true := by decide

/-- The network, the local ports and the Steeple. -/
theorem test_ill_formed_ports :
    ([.frameReceive 2 true 0 0 [], .portLinkChange 2 true true true false false, .speedSeek 2, .ptpEventTransmit 2 0, .ptpEventTransmit 0 4,
      .packetLaunch 512 false false, .membershipReport 2 false 0, .arpRetry 1024, .crierPtpRelease 1024, .crierSwapRelease 1024,
      .portFrameReceive 22 ⟨[], 0⟩, .portFrameReceive 0 badLine, .portLost 22, .portLock 22, .maskChange 0x07F, .maskChange 0x095,
      .asrcLock 22 0, .candidateQualify 8, .waitToRestoreExpiry 8, .announceTimeout 2, .edgeCapture 38 false 0, .dacSlewStep 8, .dacOverload 8,
      .announceMessage 2, .candidatePresenceLoss 8] : List Instr).all (fun i => !i.wellFormed) = true := by decide

theorem test_ill_formed_frame_length (n : Nat) : (Instr.frameReceive 0 true 0 0 (List.replicate n 0)).wellFormed = decide (n < 2 ^ 16) := by
  simp only [Instr.wellFormed, List.length_replicate]
  simp

/-- The Neighbour, the memories and the fabric. -/
theorem test_ill_formed_memories :
    ([.drebaLinkDown (some 4), .bankFrame 0 0 31 [], .chunkFrame 0 255 [], .nbrGrantWrite 2 0 none, .granaryWrite .host (2 ^ 56) [],
      .granaryRead .host (2 ^ 56) ⟨1, []⟩, .tamper 2 false, .refreshDebtTick 4 false, .supervisoryRefresh 4, .mr4Poll 4 0 0 0, .wck2dqPoll 4,
      .trainingComplete true 4 0 0 0, .fabricRequest .host 64 (.fabric 0) false 1 [] .silent, .targetTimeout .dma 64, .dmaGo 64 0, .dmaAbort 64 0,
      .descriptorFetch 64 .silent, .descriptorComplete 64 [] 0 0, .dmaPoll 64 .silent, .eventRingRoom 56] : List Instr).all
      (fun i => !i.wellFormed) = true := by decide

/-- The queues, the register pages, and the rest. -/
theorem test_ill_formed_pages :
    ([.softReset 0x0D2, .queuePush .host 256 0 0, .queuePush .host 0 3 0, .queuePop .host 256 0, .queuePop .host 0 3, .commandTake 256 true true [],
      .registerWrite .host 0x0D2 0 0, .registerWrite .host 0 0x400 0, .registerWrite .host 0 2 0, .setAliasWrite .host 0x0D2 0 0,
      .clearAliasWrite .host 0 0x400 0, .registerReadClear .host 0 1, .lockWrite .host 0x0D2 0, .irqRawClear .host 0x0D2 0, .irqTestWrite .host 0x0D2 0,
      .applyStaged 0x0D2, .applyDiscard 0x0D2, .applyDue 0x0D2, .msixUnmask (some 256), .i2cAccess (2 ^ 24) false [] 1,
      .warmReset 0, .warmReset 5, .faultInactive 0, .faultInactive 16, .carterTimeout 2, .rollReport 256 0 0 0 none false,
      .rollReport 0 256 0 0 none false, .pllLoss 10, .throttleTrip 8 700, .pllRelock 10] : List Instr).all (fun i => !i.wellFormed) = true := by decide

/-! ### Small steps whose results the spec gives -/

/-- A Mill whose V1 and V2 hold `a` and `b` in lane 0. -/
def lanes (a b : Nat) : State := millWith { Mill.fresh with v := [(8, a), (16, b)] }

/-- What a Mill command left in the Mill. -/
def millAfter (c : Instr) (s : State) : Mill := match exec c s with | .next t => t.mill 0 | _ => Mill.fresh

/-- VADD (R185): the sum of the greatest number and 1 saturates, and SAT, bit 0, is set. -/
theorem test_vadd_saturates :
    ((millAfter (.vadd vecOp) (lanes 0x7FFFFFFF 1)).writes.head?.map fun w => w.val) = some 0x7FFFFFFF ∧
    (millAfter (.vadd vecOp) (lanes 0x7FFFFFFF 1)).flags = 1 := by decide +kernel

/-- VADDW (R185) wraps and sets no flag. -/
theorem test_vaddw_wraps :
    ((millAfter (.vaddw vecOp) (lanes 0x7FFFFFFF 1)).writes.head?.map fun w => w.val) = some 0x80000000 ∧
    (millAfter (.vaddw vecOp) (lanes 0x7FFFFFFF 1)).flags = 0 := by decide +kernel

/-- VRSB (R185): 0x00010000 has 14 redundant sign bits. -/
theorem test_vrsb_counts : ((millAfter (.vrsb vecOp) (lanes 0x00010000 0)).writes.head?.map fun w => w.val) = some 14 := by decide +kernel

/-- VDIV (R186): a zero divisor sets DIV0, bit 1. -/
theorem test_vdiv_by_zero : (millAfter (.vdiv vecOp) (lanes 1 0)).flags = 2 := by decide +kernel

/-- LI (R193): the immediate is sign-extended. -/
theorem test_li_extends : assoc? (millAfter (.li (scOp 0x3FF)) (lanes 0 0)).sc 3 = some 0xFFFFFFFF := by decide +kernel

/-- What a command left in the chip. -/
def after (c : Instr) (s : State) : State := match exec c s with | .next t => t | _ => State.reset

/-- SAMPLE_STROBE (R9): the ESI advances by one. -/
theorem test_sample_strobe : (after .sampleStrobe (runsAt 15 [])).eng.esi = 16 := by decide +kernel

/-- ENG_ESI_LO_READ (R42): the low bits are answered and the high bits are latched for that initiator. -/
theorem test_esi_read : (after (.engEsiLoRead .host) (runsAt 0x500000007 [])).resp = some ⟨.host, 7, false⟩ ∧
    (after (.engEsiLoRead .host) (runsAt 0x500000007 [])).plainValue .host 0x030 0x048 = 5 := by decide +kernel

/-- THROTTLE_TRIP (R550, R552): 705 mV trips step 1, 704 mV step 2, 689 mV step 3; 659 mV is the stop. -/
theorem test_throttle_steps : (after (.throttleTrip 0 705) State.reset).rd F.THR_STATE_step = 1 ∧
    (after (.throttleTrip 0 704) State.reset).rd F.THR_STATE_step = 2 ∧ (after (.throttleTrip 0 689) State.reset).rd F.THR_STATE_step = 3 := by
  decide +kernel

theorem test_throttle_stop : exec (.throttleTrip 0 659) State.reset = .fault .supplyBelowMinimum := rfl

/-- QUEUE_PUSH, QUEUE_POP (R441, R443): the oldest entry comes first, and an empty queue answers NV. -/
theorem test_queue_order :
    let s := after (.queuePush .reeve 0 0 6) (after (.queuePush .reeve 0 0 5) State.reset)
    s.queue 0 = [5, 6] ∧ (after (.queuePop .host 0 0) s).resp = some ⟨.host, 5, false⟩ ∧
    (after (.queuePop .host 0 0) State.reset).resp = some ⟨.host, 2 ^ 63, false⟩ := by decide +kernel

/-- A step on an empty queue changes nothing (log entry 2). -/
theorem test_idle : step State.reset = .next State.reset := rfl

/-- The hardware type at reset (R510, SYS_HWTYPE). -/
theorem test_device_id : (State.reset.reg 0x40).toNat % 2 ^ 16 = 0x4096 := by decide +kernel

/-! ### Witnesses for the statements -/
/-- The statements about reads and writes of a master: the debug port is shut in life-cycle state 2, and no other port is ever. -/
theorem witness_port_shut : (regsAt [(F.SYS_LC_state, 2)]).portShut .debug = true ∧ State.reset.portShut .debug = false ∧
    (regsAt [(F.SYS_LC_state, 2)]).portShut .host = false := by decide +kernel

/-- MisalignedAccesses: P0 not a multiple of 32, 16, 4 or 2, and one misaligned lane beside aligned ones. -/
theorem witness_misaligned :
    let m (x : Nat) := millWith { Mill.fresh with p := [(0, x)], m := [(12, 4)] }
    ((m 0x1010).mill 0).get (.p 0) % 32 ≠ 0 ∧ ((m 0x1008).mill 0).get (.p 0) % 16 ≠ 0 ∧
    ((m 0x1001).mill 0).get (.p 0) % 4 ≠ 0 ∧
    (let s := millWith { Mill.fresh with p := [(0, 0x1000)], m := [(12, 2)] }
     let lane := fun l : Nat => (((0x1000 : Nat) + l * signed 32 ((s.mill 0).get (.m 12)) : Int) % 2 ^ 32).toNat
     lane 1 % 4 ≠ 0 ∧ lane 0 % 4 = 0 ∧ s.millAccess 0 (lane 0) 4 = some (MTarget.bytes 0x08001000, 3)) ∧
    bankOf 0x08001000 = none := by decide +kernel

/-- ScalarResults: a Mill on which no write is due, and one on which two meet. -/
theorem witness_scalar :
    Mill.fresh.Quiet (.s 3) ∧ Mill.fresh.WritesOk ∧
    (let m : Mill := { Mill.fresh with writes := [⟨0, 0, 0, false, .s 3, 7⟩, ⟨1, 3, 0, false, .s 3, 9⟩] }
     let due := m.writes.filter fun (w : MWrite) => decide (w.at' ≤ m.k + 1)
     m.WritesOk ∧ ∃ w ∈ due, w.dst = .s 3 ∧ ∀ x ∈ due, x.dst = .s 3 → x.rank < w.rank ∨ x = w) := by
  refine ⟨(fun _ h => nomatch h), (fun _ h => nomatch h), ?_, ⟨1, 3, 0, false, .s 3, 9⟩, by decide +kernel⟩
  intro w h
  rcases List.mem_cons.1 h with h | h
  · subst h; exact ⟨by decide, trivial⟩
  · rcases List.mem_singleton.1 h; exact ⟨by decide, trivial⟩

/-- ControlResults: LOOP at four levels and inside a body; XFER with 64 in flight, at a misaligned descriptor and at a sound
one; WAITE of each event. -/
theorem witness_control :
    let l : MLoop := ⟨1, 9, 2⟩
    let x : MXfer := ⟨2 ^ 32, false, 0, 32, 0⟩
    let legal := fun (m : Mill) (last : Nat) => m.loops.length < 4 ∧ ∀ l, m.loops.head? = some l → last ≤ l.last
    legal { Mill.fresh with loops := [l, l, l] } 9 ∧ ¬legal { Mill.fresh with loops := [l] } 10 ∧
    ¬legal { Mill.fresh with loops := [l, l, l, l] } 2 ∧
    64 ≤ (List.replicate 64 x).length ∧ 63 < 64 ∧ (8 % 16 ≠ 0) ∧
    (let s := (millWith { Mill.fresh with sc := [(1, 0x100)] }).setBytes 0x08000100
        (leBytes 4 0x01000000 ++ leBytes 4 0 ++ leBytes 4 0x40 ++ leBytes 4 64)
     (s.mill 0).get (.s 1) % 16 = 0 ∧ 0x100 + 16 ≤ 0x100000 ∧ (s.mill 0).guarded 0x100 16 = false ∧
     (wordsOf 0x08000100 16).any s.poisoned = false ∧ s.load 0x0800010C 4 = 64 ∧ s.load 0x08000100 4 = 0x01000000 ∧
     s.load 0x08000108 4 = 0x40) ∧
    (scOp 0).imm.toNat % 4 = 0 ∧ (scOp 1).imm.toNat % 4 = 1 ∧ 2 ≤ (scOp 2).imm.toNat % 4 ∧
    (millWith Mill.fresh).mil.tail = false := by
  refine ⟨⟨by decide, fun _ h => by cases h; decide⟩, fun h => absurd (h.2 _ rfl) (by decide), fun h => absurd h.1 (by decide),
    by decide, by decide, by decide, by decide +kernel, by decide, by decide, by decide, by decide +kernel⟩

/-- ProgramCounter: each way a program goes on or ends. -/
theorem witness_program_counter :
    let l : MLoop := ⟨1, 5, 2⟩
    (∀ k, ({ Mill.fresh with loops := [l] } : Mill).loops.head? = some k → k.last ≠ 6) ∧
    (let m : Mill := { Mill.fresh with loops := [l], pc := 5 }
     m.next = .seq ∧ l.last = m.pc ∧ 1 < l.remaining ∧ l.first < 8192 ∧ m.pc + 1 < 8192) ∧
    (let m : Mill := { Mill.fresh with pc := 8191 }
     m.next = .seq ∧ m.loops = [] ∧ m.pc = 8191) := by
  refine ⟨fun _ h => by cases h; decide, by decide, by decide⟩

/-- MillTransfers: one transfer in flight, and a Mill that waits for its only one. -/
theorem witness_transfers :
    let x : MXfer := ⟨2 ^ 32, false, 0xFFFE0, 32, 0⟩
    let s := (State.reset).setMill 15 { Mill.fresh with xfers := [x], wait := .xfers }
    (s.mill 15).xfers[0]? = some x ∧ (s.mill 15).xfers[1]? = none ∧ (s.mill 15).wait = .xfers ∧ x.local' + x.len ≤ 0x100000 ∧
    2 ^ 32 ≤ x.far ∧ s.copying = false ∧ s.memx.hold.length ≤ 16384 ∧ (wordsOf x.far x.len).any s.poisoned = false := by
  decide +kernel

/-- EndOfWorkDecisions: a period ends at the boundary 32 with Mill 0 loaded. -/
theorem witness_end_of_work :
    let s := runsAt 32 [(F.MIL_STATE_state, 1)]
    let own := fun n => s.ownCauses n 0 (([] : List MillTimes).find? fun x => x.mill == n)
    s.running = true ∧ s.now % s.blockLen = 0 ∧ 2 * s.blockLen ≤ s.now ∧ s.rd F.MIL_STATE_state 0 ≠ 0 ∧
    s.allCauses own 0 = [] := by decide +kernel

/-- MillDebugging: a hung Mill, a reloaded one, a breakpoint reached, and the debug writes in Maintenance. -/
theorem witness_debugging :
    (let s := (runsAt 96 [(F.MIL_STATE_state, 1)]).setMill 0 { Mill.fresh with busy := true, block := 1 }
     s.running = true ∧ (s.mill 0).busy = true ∧ (s.mill 0).block + 4 ≤ s.workBlock ∧ s.rd F.MIL_STATE_state 0 ≠ 4 ∧ s.chn.sw = none) ∧
    (regsAt [(F.MIL_STATE_state, 5)]).rd F.MIL_STATE_state 0 = 5 ∧
    (let s := (regsAt [(F.MIL_STATE_state, 1), (F.MIL_DEBUG_bp_en, 1), (F.MIL_DEBUG_bp_pc, 8191), (F.MIL_DEBUG_bp_hit, 3)]).setMill 0
        { Mill.fresh with busy := true, pc := 8191, bpSeen := 3 }
     (s.mill 0).busy = true ∧ s.on F.MIL_DEBUG_bp_en 0 = true ∧ (s.mill 0).pc = s.rd F.MIL_DEBUG_bp_pc 0 ∧
     (s.mill 0).bpSeen = s.rd F.MIL_DEBUG_bp_hit 0) ∧
    (regsAt [(F.SYS_MODE_STATE_service, 2)]).maintenance = true ∧ State.reset.maintenance = false ∧
    (1 : Word).toNat % 32 ≠ 0 ∧
    (let s := (regsAt [(F.SYS_MODE_STATE_service, 2), (F.MIL_STATE_state, 4)]).setMill 0 { Mill.fresh with busy := true, pc := 8190 }
     s.maintenance = true ∧ s.rd F.MIL_STATE_state 0 = 4 ∧ (s.mill 0).wait = .none ∧ (s.mill 0).next = .seq ∧
     (s.mill 0).loops = [] ∧ s.load (0x09000000 + 16 * 8190) 16 = 0) := by decide +kernel

/-! ### Engine time and modes -/

/-- EngineSamples: a swap sample at the next strobe, and a snapshot armed at a boundary. -/
theorem witness_samples :
    (let s := { runsAt 15 [] with scn := { State.reset.scn with desc := some ⟨16, false, 7, false, false, false, []⟩ } }
     s.running = true ∧ (s.scn.desc.map fun d => (d.counted, d.s)) = some (false, (s.eng.esi + 1).toNat)) ∧
    State.reset.on F.LOCK_locked 0x030 = false ∧ State.reset.rd F.NBR_STATE_role ≠ 2 ∧ State.reset.running = false ∧
    (regsAt [(F.NBR_STATE_role, 2)]).rd F.NBR_STATE_role = 2 ∧
    (let s := { runsAt 16 [] with eng := { (runsAt 16 []).eng with snapArmed := true } }
     s.eng.snapArmed = true ∧ s.running = true ∧ s.now % s.blockLen = 0) := by decide +kernel

/-- BlockStarts: a tick is due at block 3 of a running engine. -/
theorem witness_block_start :
    let s := runsAt 48 [(F.ENG_TICK_div, 3)]
    s.running = true ∧ s.now % s.blockLen = 0 ∧ s.rd F.NBR_STATE_role = 0 ∧ s.nbr.ctrlWait = [] ∧ s.nbr.bankWait = [] ∧
    s.rd F.ENG_TICK_div ≠ 0 ∧ s.now / s.blockLen % s.rd F.ENG_TICK_div = 0 := by decide +kernel

/-- RestartBegins: the leader's restart, a pending change of rate, a CFG_START with and without force, and a realign. -/
theorem witness_restart_begins :
    let s := runsAt 32 [(F.SYS_MODE_STATE_phase, 0)]
    let f := { s with modes := { s.modes with follow := some (32, 1, 0) } }
    let w : Word := 0x102
    let p : PendSet := ⟨0, 32, false, none, [(0x60, w)]⟩
    let r := { s with pend := [p], boot := { s.boot with held := [(2, [])] } }
    let c := { s with modes := { s.modes with start := some ⟨32, false, true, 5⟩ } }
    let e := { s with eng := { s.eng with realign := true } }
    (f.modes.restart = none ∧ f.running = true ∧ f.modes.follow = some (32, 1, 0) ∧ 32 ≤ f.now) ∧
    (r.modes.follow = none ∧ r.pendOf 0 = some p ∧ p.due ≤ r.now ∧ r.changesRate (p.mode r) = true ∧ r.sysCheck (p.mode r) = 0 ∧
      r.rd F.SYS_MODE_STATE_phase ≠ 5 ∧ p.late = false) ∧
    (c.pendOf 0 = none ∧ c.modes.start = some ⟨32, false, true, 5⟩ ∧ c.rd F.SYS_MODE_STATE_service = 0 ∧
      ReplyRoom (BitVec.ofNat 64 5) 1 c) ∧
    (e.now % e.blockLen = 0 ∧ e.eng.realign = true) := by
  refine ⟨by decide +kernel, by decide +kernel, ?_, by decide +kernel⟩
  unfold ReplyRoom; decide +kernel

/-- RestartRuns: a realign at H, at B and after its fade-in; a heartbeat in the gap. -/
theorem witness_restart_runs :
    let r : Restart := ⟨2, 0, none, 0, false, false, none, none⟩
    let s (n : Nat) (ph : Nat) (r : Restart) : State := { runsAt n [(F.SYS_MODE_STATE_phase, ph)] with modes := { State.reset.modes with restart := some r } }
    ((s 528 1 r).modes.restart = some r ∧ (s 528 1 r).running = true ∧ r.a + 30 * 16 + 3 * 16 ≤ (s 528 1 r).now) ∧
    ((s 0 3 { r with h := some 9 }).rd F.SYS_MODE_STATE_phase = 3) ∧
    (let q := { r with h := some 9, inAt := some 16 }
     (s 544 4 q).rd F.SYS_MODE_STATE_phase = 4 ∧ 16 + 30 * 16 + 3 * 16 ≤ (s 544 4 q).now ∧ q.reply = none ∧ (s 544 4 q).modes.waiting = []) ∧
    (let g := regsAt [(F.NBR_STATE_role, 1), (F.SYS_MODE_STATE_phase, 3)]
     g.running = false ∧ g.rd F.NBR_STATE_role ≠ 0 ∧ g.rd F.SYS_MODE_STATE_phase = 3 ∧ g.nbr.drilling = false) := by
  decide +kernel

/-- ModeCommands: room for the reply on a locked page, on a free one, and with a set pending. -/
theorem witness_mode_commands :
    ReplyRoom 0 1 (runsAt 0 []) ∧ (runsAt 0 []).on F.LOCK_locked 0x000 = false ∧ (runsAt 0 []).pendOf 0 = none ∧
    (runsAt 0 []).running = true ∧ (regsAt [(F.LOCK_locked, 1)]).on F.LOCK_locked 0x000 = true ∧
    ({ runsAt 0 [] with pend := [⟨0, 16, false, none, []⟩] }.pendOf 0).isSome = true ∧ (runsAt 0 []).modes.waiting = [] := by
  refine ⟨?_, by decide +kernel⟩
  unfold ReplyRoom; decide +kernel

/-- StagedSets: a page with staged fields, one without; a set due on a watermark page that passes and one that fails. -/
theorem witness_staged_sets :
    let s := runsAt 32 []
    let q (page : Nat) (v : Word) : PendSet := ⟨page, 32, true, none, [(0x048, v)]⟩
    let t (page : Nat) (v : Word) : State := { s with pend := [q page v] }
    hasStaged 0x030 = false ∧ hasStaged 0x031 = true ∧ s.pendOf 0x031 = none ∧ s.running = true ∧
    (t 0xC0 0).pendOf 0xC0 = some (q 0xC0 0) ∧ (q 0xC0 0).due ≤ (t 0xC0 0).now ∧
    (((q 0x28 0x2040).word (t 0x28 0x2040) 0x048).toNat % 128 = 64 ∧ ((q 0x28 0x2040).word (t 0x28 0x2040) 0x048).toNat / 256 % 128 < 64) ∧
    64 < ((q 0x28 0x41).word (t 0x28 0x41) 0x048).toNat % 128 := by decide +kernel

/-! ### Crossroads and scenes -/

/-- RouteChanges: a loose word outside the tables; an entry that fails; fades that end, and a deferred change due. -/
theorem witness_route_changes :
    let w (a : Nat) (v : Word) : State :=
      { runsAt 32 [(F.SCN_BANK_SIZE_size, 0x800000), (F.XRD_PATCH_OFS_offset, 0x100)] with scn := { State.reset.scn with loose := [(a, v)] } }
    (bankOf 0x01700000 = some 0 ∧ (w 0x01700000 5).inXrdTables (0x01700000 - bankBase 0) = false ∧ (w 0x01700000 5).now % 16 = 0) ∧
    ((w 0x01000100 0x00C93FFF).entryReason 0 0x00C93FFF ≠ 0 ∧ (0x01000100 : Nat) = bankBase 0 + 0x100 + 4 * 0) ∧
    (let f : RFade := ⟨1, 0, 2, 0, 0, 16, 0, false⟩
     let g : RFade := ⟨2, 0, 3, 0, 8, 480, 0, false⟩
     let x : Dest := ⟨5, 3, false, 0, [f, g], some 16⟩
     let s := (runsAt 16 []).setDest 7 x
     s.dest 7 = x ∧ 16 ≤ s.now ∧ s.swapBefore 16 = false ∧ f.start + f.len = 16 ∧ g.start < 16 ∧ 16 < g.start + g.len ∧
     entrySrc x.entry ≠ x.src) := by decide +kernel

/-- RouteChanges: an entry that passes its checks and begins a fade. -/
theorem witness_route_begins :
    let s := { runsAt 32 [(F.SCN_BANK_SIZE_size, 0x800000)] with scn := { State.reset.scn with loose := [(0x01000000, (5 : Word))] } }
    s.entryReason 0 5 = 0 ∧ (s.dest 0).fades = [] ∧ (s.dest 0).deferred = none ∧ entrySrc 5 ≠ (s.dest 0).src ∧
    (s.xrd.dests.map Prod.fst).Pairwise (· < ·) := by decide +kernel

/-- Generators: an impulse armed for this sample; a generator past the last. -/
theorem witness_generators :
    let g : Gen := ⟨3, 0x8000, 0, 0, 0, 1, some 40, none, false, false, false⟩
    let s := { runsAt 40 [] with xrd := { State.reset.xrd with gens := [(63, g)] } }
    s.gen 63 = g ∧ s.running = true ∧ g.armed = some s.now ∧ g.mode = 3 ∧ (State.reset.gen 63).modeWrite = false := by decide +kernel

/-- A state without a switch meets SwitchOk. -/
theorem switchOk_of_none {s : State} (h : s.chn.sw = none) : s.SwitchOk := by
  intro w hw; rw [h] at hw; cases hw

/-- Swaps: each phase of an arm in each mode, the swap's start and end, ramps and fades that end, a switch tied to it. -/
theorem witness_swaps :
    let at' (n ph mode : Nat) (x : Scn) : State :=
      { (runsAt n [(F.SCN_STATE_phase, ph)]).wrBoth F.SCN_ARM_mode mode with scn := x }
    let z := State.reset.scn
    ((at' 32 1 1 z).rd F.SCN_STATE_phase = 1 ∧ (at' 32 1 1 z).lv F.SCN_ARM_mode = 1) ∧
    ((at' 32 1 0 { z with armAt := 47 }).lv F.SCN_ARM_mode = 0 ∧ (at' 32 1 0 { z with armAt := 47 }).now ≤ 47 / 16 * 16) ∧
    (let s := at' 48 2 1 { z with swapAt := some 50 }
     s.running = true ∧ s.rd F.SCN_STATE_phase = 2 ∧ s.now = 50 / s.blockLen * s.blockLen ∧ s.role ≠ 1 ∧ s.armed = true) ∧
    (let s := at' 96 3 1 { z with desc := some ⟨50, false, 1, true, true, false, []⟩, lastFade := 64 }
     s.rd F.SCN_STATE_phase = 3 ∧ (50 / s.blockLen + 3) * s.blockLen ≤ s.now ∧ (s.scn.lastFade / s.blockLen + 2) * s.blockLen ≤ s.now) ∧
    (let r : Ramp := ⟨0, 1, 0, 32, 5, 0⟩
     let s := at' 48 0 0 { z with ramps := [(8, r)] }
     assoc? s.scn.ramps 8 = some r ∧ r.at0 + r.len ≤ s.formedBefore ∧ s.armed = false) ∧
    (let w : ChnSwitch := ⟨2, [(127, 1)], 0, none, none⟩
     let s : State := { at' 32 2 1 z with chn := { State.reset.chn with sw := some w } }
     s.armed = true ∧ s.chn.sw = some w ∧ w.mode = 2 ∧ w.fade = none) := by decide +kernel

/-- Swaps: an active strip with a dual-run that has ended and one that goes on. -/
theorem witness_dual_runs :
    let d (u n : Nat) : DualRun := ⟨u, [], Proc.zero, 0, false, 0, n⟩
    let x : Strip := ⟨Proc.zero, [d 3 16, d 4 17], [⟨1, 0, none, 0, false, 0, 16⟩], [], [], [], [], [], 0, 0, 0, 0⟩
    let s : State := { runsAt 32 [] with scn := { State.reset.scn with strips := [(7, x)] } }
    s.strip? 7 = some x ∧ s.strip? 8 = none ∧ (d 3 16).start + (d 3 16).len ≤ s.formedBefore ∧
    ¬((d 4 17).start + (d 4 17).len ≤ s.formedBefore) := by decide +kernel

/-- ChurnPreparesAndJobs: go and no go, a prepare that is refused, one that is busy and ends, and jobs of each size. -/
theorem witness_prepares_and_jobs :
    let s := regsAt [(F.CHN_PREP_STATUS_busy, 1), (F.CHN_PREP_STATUS_channel, 127)]
    let j := regsAt [(F.CHN_JOB_STATUS_busy, 1), (F.CHN_JOB_CTRL_log2n, 6), (F.CHN_JOB_SRC_HI_value, 1), (F.CHN_JOB_DST_HI_value, 1),
      (F.CEL_SIZE_size, 2), (F.CET_STATUS_trained, 1), (F.PWR_STATE_on, 0xFFFF), (F.CHN_JOB_DST_LO_addr, 0x1000)]
    let v : Word := 0x80000000
    bitAt v.toNat 31 = true ∧ bitAt (1 : Word).toNat 31 = false ∧ State.reset.prepareRefusal 0 0 1 = 4 ∧ s.prepareRefusal 0 0 1 = 1 ∧
    s.on F.CHN_PREP_STATUS_busy = true ∧ s.chanGranary 127 + 1024 ≤ 2 ^ 32 ∧ s.blockLen ≤ 64 ∧
    s.on F.CHN_JOB_STATUS_busy = false ∧ j.on F.CHN_JOB_STATUS_busy = true ∧
    (j.jobRead 0x100000000 64).isSome = true ∧ (∀ i, i < 64 → j.churnReach (0x100001000 + 8 * i) 8 = true) ∧
    s.jobRead 0 64 = none := by decide +kernel

/-- ChurnPreparesAndJobs: a prepare that is not refused, at the longest response that the plan covers, and one beyond it. -/
theorem witness_prepare_goes :
    let s := (regsAt [(F.CHN_TABLE_LO_table, 0x02F00000)]).setBytes 0x02F00000 [1, 0, 0, 0, 1]
    s.prepareRefusal 0 1 1 = 0 ∧ s.prepareRefusal 0 1 2 = 3 ∧ s.prepareRefusal 0 0 1 = 2 := by decide +kernel

/-- ChurnSwitches: a switch before its sample c, one at it, and one whose crossfade has ended. -/
theorem witness_switches :
    let w (c n : Option Nat) : ChnSwitch := ⟨0, [(127, 1), (0, 0)], 0, c, n⟩
    let s (n : Nat) (x : ChnSwitch) : State := { runsAt n [] with chn := { State.reset.chn with sw := some x } }
    ((w (some 32) none).c = some 32 ∧ 32 ≤ (s 32 (w (some 32) none)).now ∧ (s 31 (w (some 32) none)).now < 32) ∧
    ((w (some 32) (some 48)).fade = some 48 ∧ 32 + 48 ≤ (s 80 (w (some 32) (some 48))).now ∧
      ((w none none).chans.map Prod.fst).Nodup ∧ ∀ c ∈ (w none none).chans, c.1 < 128) ∧
    (let t : State := { State.reset with chn := { State.reset.chn with tails := [(255, List.replicate 16 5)] } }
     (t.chn.tails.map Prod.fst).Nodup ∧ ∀ e ∈ t.chn.tails, e.2.length = t.blockLen) := by decide +kernel

/-! ### Memories -/

/-- GranaryWrites: the last bytes of the Granary, a bank that is off, a full hold buffer, a locked and a driven bank, a
partial write to a poisoned word. -/
theorem witness_granary_writes :
    let s := State.reset
    (let a := 0x02FFFFFC
     a + 4 ≤ 0x03000000 ∧ s.bankOn a = true ∧ s.waitsBehind .host = false ∧ bankOf a = none ∧
      (∀ w ∈ wordsOf a 4, s.poisoned w = false) ∧ s.memx.hold.length + (s.newHolds a 4).length ≤ 16384) ∧
    bankOf 0x01000000 = some s.liveBank ∧ s.bankLocked 0 = false ∧ s.restartLocks = false ∧ s.rd F.NBR_STATE_role ≠ 2 ∧
    (regsAt [(F.GRN_BANK_STATE_bank, 1)]).bankOn 0x01000000 = false ∧
    (regsAt [(F.SCN_STATE_locked_a, 1)]).bankLocked 0 = true ∧ (regsAt [(F.NBR_STATE_role, 2)]).rd F.NBR_STATE_role = 2 ∧
    (let t : State := { s with memx := { s.memx with poison := [0x02000000 / 8], holdWait := [⟨.host, 0, 0x01000000, [1]⟩] } }
     t.waitsBehind .host = true ∧ t.waitsBehind .dma = false ∧ 0x02000000 / 8 ∈ wordsOf 0x02000000 4 ∧
      t.poisoned (0x02000000 / 8) = true ∧ ¬(0x02000000 / 8 * 8 + 8 ≤ 0x02000000 + 4)) := by decide +kernel

/-- GranaryWrites: a hold buffer that is full. -/
theorem witness_hold_full :
    let s : State := { State.reset with memx := { State.reset.memx with hold := (List.range 16384).map fun i => (i, (0 : DWord)) } }
    16384 < s.memx.hold.length + (s.newHolds 0x01000000 4).length := by decide +kernel

/-- GranaryReads: a good, a poisoned and a corrected word, and one write that waits. -/
theorem witness_granary_reads :
    let w : HoldWait := ⟨.host, 0, 0x02000000, [1, 2]⟩
    let s : State := { State.reset with memx := { State.reset.memx with poison := [0x02FFFFF8 / 8], holdWait := [w] } }
    s.bankOn 0x02FFFFF8 = true ∧ (∃ x ∈ wordsOf 0x02FFFFF8 8, s.poisoned x = true) ∧ (∀ x ∈ wordsOf 0x01000000 8, s.poisoned x = false) ∧
    s.memx.holdWait = [w] ∧ w.chan < 100 ∧ bankOf w.addr = none ∧ (∀ v ∈ wordsOf w.addr w.data.length, s.poisoned v = false) := by
  decide +kernel

/-- SweeperRows: the last row of the last bank, and a bank whose spares are used. -/
theorem witness_sweeper :
    let s := regsAt [(F.SWP_CFG_enable, 1), (F.SWP_CFG_rate, 1), (F.SWP_POS_bank, 63), (F.SWP_POS_row, 1023)]
    let t := s.wr (F.GRN_SPARES_used.part 7 4) 8 0 7
    s.SwitchOk ∧ s.on F.SWP_CFG_enable = true ∧ 0 < s.rd F.SWP_CFG_rate ∧ s.sparesUsed 63 < 8 ∧ 8 ≤ t.sparesUsed 63 ∧
    0 ∉ t.memx.spares ∧ s.rd F.SWP_POS_bank = 63 ∧ s.rd F.SWP_POS_row = 1023 ∧
    (s.memx.aborts + 1 < max 1 (s.rd F.SWP_CFG_retries) ∨ max 1 (s.rd F.SWP_CFG_retries) ≤ s.memx.aborts + 1) :=
  ⟨switchOk_of_none (by decide +kernel), by decide +kernel⟩

/-- StrongroomWipes: a tamper input with its enable, and a wipe that runs. -/
theorem witness_wipes :
    let s := regsAt [(F.STR_CTRL_tamper_en1, 1), (F.STR_CTRL_tamper_en0, 0)]
    s.SwitchOk ∧ s.on F.STR_CTRL_tamper_en1 = true ∧ s.on F.STR_CTRL_tamper_en0 = false ∧ s.memx.wiping = none ∧
    s.on F.ROL_STATUS_mirror_live = false ∧ ({ s with memx := { s.memx with wiping := some 1 } } : State).memx.wiping = some 1 :=
  ⟨switchOk_of_none (by decide +kernel), by decide +kernel⟩

/-- CellarRefresh: a debt at the limit less 16 and below it, a poll at a higher and at a lower class, both states of the engine. -/
theorem witness_refresh :
    let s (d : Nat) : State := { State.reset with memx := { State.reset.memx with debts := [(3, d)], lower := [(2, 1)] } }
    (s 0).SwitchOk ∧ (s 8000).debtLimit 3 ≤ (s 8000).debt 3 + 16 ∧ (s 0).debt 3 + 16 < (s 0).debtLimit 3 ∧
    (s 1).celClass 3 < min 1 2 ∧ (s 1).debt 3 * 2 ≤ (s 1).rd F.CEL_REF_STAT_debt_max ∧
    (s 8000).rd F.CEL_REF_STAT_debt_max < (s 8000).debt 3 * 4 ∧ assoc? (s 0).memx.lower 3 ≠ some 1 ∧ assoc? (s 0).memx.lower 2 = some 1 ∧
    bitAt (1 : Word).toNat 0 = true ∧ (s 0).running = false ∧ (runsAt 0 []).running = true :=
  ⟨switchOk_of_none (by decide +kernel), by decide +kernel⟩

/-- GleanerFrames, GleanerMarks and GleanerReading: a staged frame with and without a cursor that it meets, and marks in a
frame, past every frame, in a gap and before a full ring. -/
theorem witness_gleaner :
    let g (c : Option Nat) (m : Option Nat) : Gln := ⟨4, [(4, 64, false, [])], [(1, 16), (3, 48)], some 48, c, 16, m⟩
    let s (x : Gln) : State := { regsAt [(F.GLN_FRAMES_n_frames, 3)] with memx := { State.reset.memx with gln := x } }
    let t := s (g (some 2) none)
    t.memx.gln.staged = [(4, 64, false, [])] ∧ 0 < t.rd F.GLN_FRAMES_n_frames ∧ t.on F.GLN_MARK_STATE_pending = false ∧
    2 + 3 ≤ 4 + 1 ∧ assoc? (t.memx.gln.esis ++ [(4, 64)]) (4 + 2 - 3) = some 48 ∧ t.memx.gln.readPos ≤ 48 ∧
    (4 + 1 < 3 + 3) ∧ (∀ x ∈ [(2, 32), (3, 48)], (4 : Nat) + 1 ≤ x.1 + 3) ∧ t.memx.gln.w < 2 ^ 64 ∧ 2 ≤ t.memx.gln.w ∧
    (∀ x ∈ [((1 : Nat), (16 : Nat))], x.2 + 16 ≤ 40) ∧ (∀ x ∈ [((3 : Nat), (48 : Nat))], 40 < x.2) ∧ (s (g none (some 5))).memx.gln.mark = some 5 := by
  decide +kernel

/-! ### Network and local ports -/

/-- Bytes of a list of numbers. -/
def bytesOf (l : List Nat) : List Byte := l.map fun n => BitVec.ofNat 8 n

/-- The chip with NETA at 02:00:00:00:00:01 and 192.168.1.1, its link up. -/
def netState : State :=
  ((((regsAt [(F.NT_STATUS_link, 1), (F.NT_STATUS_block_lock, 1)]).wrBoth F.NT_MAC_LO_mac 2).wrBoth F.NT_MAC_HI_mac 0x0100).wrBoth F.NT_IP4_addr
    0x0101A8C0).wr F.PTS_CFG_l2 1

/-- An ARP request of 192.168.1.9 for 192.168.1.1, to the broadcast address. -/
def arpFrame : List Byte :=
  bytesOf [255, 255, 255, 255, 255, 255, 2, 9, 9, 9, 9, 9, 8, 6, 0, 1, 8, 0, 6, 4, 0, 1, 2, 9, 9, 9, 9, 9, 192, 168, 1, 9, 0, 0, 0, 0, 0, 0,
    192, 168, 1, 1] ++ List.replicate 18 0

/-- NetworkPorts: an ARP request for the port, a PTP Sync, a frame for another port, the shortest and longest accepted ones. -/
theorem witness_network :
    let s := netState
    let mine := fun data : List Byte => (data.headD 0).toNat % 2 = 1 ∨ data.take 6 = s.macOf 0
    let ptp := bytesOf [1, 0x1B, 0x19, 0, 0, 0, 2, 9, 9, 9, 9, 9, 0x88, 0xF7, 0, 2] ++ List.replicate 44 0
    s.on F.NT_STATUS_link 0 = true ∧ State.reset.on F.NT_STATUS_link 0 = false ∧ mine arpFrame ∧ mine ptp ∧
    arpFrame.length + 4 = 64 ∧ ¬mine (2 :: 1 :: arpFrame.drop 2) ∧ (List.replicate 1518 (0 : Byte)).length + 4 = 1522 ∧
    s.untag 0 arpFrame = some (0x0806, arpFrame.drop 14) ∧ beAt (arpFrame.drop 14) 6 2 = 1 ∧
    slice (arpFrame.drop 14) 24 4 = s.ipOf 0 false ∧ allZero (s.ipOf 0 false) = false ∧
    s.untag 0 ptp = some (0x88F7, ptp.drop 14) ∧ s.on F.PTS_CFG_l2 = true ∧ s.ptpOn 0 = false ∧ s.net.pts.length < 256 ∧
    (s.lv F.NT_CFG_speed 0 < 2 ∨ s.on F.NT_STATUS_block_lock 0 = true) ∧
    (State.reset.wrBoth F.NT_CFG_speed 2).lv F.NT_CFG_speed 0 = 2 ∧ State.reset.on F.NT_STATUS_block_lock 0 = false := by decide +kernel

/-- PtpAndPackets: a master port that sends, a slave and a peer-to-peer one, a stream whose packet is due, a group to report. -/
theorem witness_ptp :
    let s (st : Nat) : State := ((((regsAt [(F.NT_STATUS_link, 1)]).wr F.PTS_CFG_udp4 1).wrBoth F.STP_PTP_role 1).wrBoth F.STP_PTP_en_a 1).setPtpState 0 st
    (s 6).ptpOn 0 = true ∧ (s 6).ptpGated 0 = false ∧ (s 6).on F.NT_STATUS_link 0 = true ∧ (s 6).on F.PTS_CFG_udp4 = true ∧
    (s 6).ptpState 0 = 6 ∧ (s 6).oneStep 0 = false ∧ ((s 6).wr F.PTS_CFG_one_step_a 1).oneStep 0 = true ∧
    (s 9).ptpState 0 = 9 ∧ (s 9).p2p 0 = false ∧ ((s 9).wrBoth F.STP_PTP_p2p_a 1).p2p 0 = true ∧ (s 6).net.pts.length < 256 ∧
    State.reset.ptpOn 0 = false ∧
    (let t := (s 6).setPtp 0 { (s 6).ptp 0 with preq := some (1, 2, 3, 4) }
     (t.ptp 0).preq = some (1, 2, 3, 4)) ∧
    (let m : Member := ⟨0, false, 5, [], 2⟩
     ∃ x ∈ [m], x.port = 0 ∧ x.ipv6 = false ∧ x.group = 5 ∧ x.reports ≠ 0) := by decide +kernel

/-- PtpAndPackets: a transmit stream of six samples a packet from sample 0, due once they are emitted; its frame can be built. -/
theorem witness_packet :
    let d : List Byte := leBytes 4 (1 + 1 * 256) ++ leBytes 4 (96 * 2 ^ 16 + 5 * 2 ^ 24) ++ leBytes 4 77 ++ leBytes 4 (1 + 32 * 2 ^ 16) ++
      leBytes 4 0x010203E0 ++ leBytes 12 0 ++ leBytes 4 1 ++ leBytes 4 0 ++ leBytes 8 0 ++ leBytes 4 (5004 * 65537) ++ leBytes 12 0
    let s0 := (runsAt 96 [(F.NT_STATUS_link, 1)]).setBytes (0 + 0x10000) d
    let s : State := { s0 with net := { s0.net with txFrom := [(0, 0)] } }
    assoc? s.net.txFrom 0 = some 0 ∧ s.net.ending = [] ∧ s.running = true ∧ ((s.stream true 0).samples s) * (s.stream true 0).step ≤ s.now ∧
    (s.stream true 0).dual = false ∧ s.gated = false ∧
    (s.packetFrame (s.stream true 0) (s.stream true 0).a (s.rtpPacket (s.stream true 0) 0).1).isSome = true := by decide +kernel

/-- CrierFrames: slot 255 in PTP mode to a group, posted and due; a free slot; the UART in frame mode. -/
theorem witness_crier :
    let s0 := (regsAt [(F.NT_STATUS_link, 1), (F.UAR_CFG_mode, 2)]).setBytes (1536 * 255) (leBytes 4 (1 + 1 * 4 + 10 * 2 ^ 16) ++ leBytes 12 0 ++ bytesOf [224, 1, 2, 3])
    let s : State := { (s0.setSlotCode 255 1) with net := { s0.net with posted := [255] } }
    255 ∈ s.net.posted ∧ s.slotCode 255 = 1 ∧ s0.slotCode 255 ≠ 1 ∧ (s.criSlot 255).mode = 1 ∧ (s.criSlot 255).when ≤ s.tbNs ∧
    (s0.criSlot 255).refused = false ∧ s.tbNs ≤ (s.criSlot 255).when ∧
    (∀ q ∈ (s.criSlot 255).portList, (s.macFor q (s.criSlot 255).v6 (s.criSlot 255).addr).isSome = true) ∧ (s.criSlot 255).portList = [0] ∧
    (s.criSlot 0).refused = true ∧ s.on F.CRI_RX_FILT_cue 0 7 = false ∧ s.rd F.UAR_CFG_mode = 2 ∧ State.reset.rd F.UAR_CFG_mode ≠ 2 := by
  decide +kernel

/-- CrierFrames: a swap-mode slot whose swap is known, due now; one without a route. -/
theorem witness_crier_swap :
    let s0 := (runsAt 160 [(F.NT_STATUS_link, 1)]).setBytes 0 (leBytes 4 (2 + 1 * 4 + 10 * 2 ^ 16) ++ leBytes 4 0 ++ leBytes 8 5 ++ bytesOf [10, 1, 2, 3])
    let s : State := { s0 with net := { s0.net with posted := [0], swaps := [(5, 112)] } }
    (s.criSlot 0).mode = 2 ∧ s.swapDue (s.criSlot 0) = some 160 ∧ s.now = 160 ∧ s0.swapDue (s0.criSlot 0) = none ∧
    ¬∀ q ∈ (s.criSlot 0).portList, (s.macFor q (s.criSlot 0).v6 (s.criSlot 0).addr).isSome = true := by decide +kernel

/-- A SAP follower on port 15 with 8 slots of 24 bits and target 4, in force, locked or not. -/
def sapState (locked : Nat) (p : Port → Port) : State :=
  let s := ((runsAt 160 []).setLive (portPage 15 * 0x1000 + 0x40) (BitVec.ofNat 32 (1 + 2 * 4 + 7 * 16 + 2 * 512 + 2 * 2048 + 4 * 2 ^ 21))).wr (portStatus 15 1 1) locked
  s.setPort 15 (p (s.port 15))

/-- LocalPortFrames: a follower that takes frames, locked and not, with room and without, one about to lock, an asrc port. -/
theorem witness_local_ports :
    let s := sapState 0 id
    let c := s.portNow 15
    let line := (List.range (8 * 32 + 2)).map fun i => 2 * b2n (c.fsLevel (i % (8 * 32)))
    let t := sapState 1 fun p => { p with outFifo := [⟨1, [(5, 1, 0)]⟩], inFifo := List.replicate 10 ⟨[], [], [], false⟩ }
    s.running = true ∧ c.inOn = true ∧ (s.port 15).silentTo = none ∧ c.perFrame = 1 ∧ (lineFrame 15 c line).framed = true ∧ (lineFrame 15 c (line.take 9)).framed = false ∧ isMadi 15 = false ∧ c.leader = false ∧ c.relation ≠ 2 ∧
    s.on (portStatus 15 1 1) = false ∧ t.on (portStatus 15 1 1) = true ∧ 2 * c.target + 2 ≤ (t.port 15).inFifo.length ∧
    (s.port 15).inFifo.length < 2 * c.target + 2 ∧ isSap 15 = true ∧ c.outOn = true ∧
    (t.port 15).outFifo = [⟨1, [(5, 1, 0)]⟩] ∧ (t.port 15).outSlip = none ∧ t.drivesPorts = true ∧
    near (1000000000000 / 48000) (s.expectedPeriod c) = true ∧ near 10 (s.expectedPeriod c) = false ∧
    (let u := sapState 0 fun p => { p with good := 16 }
     u.portRuns 15 = true ∧ (u.port 15).good = 16) ∧ State.reset.portRuns 15 = false := by decide +kernel

/-- LocalPortFrames: an asrc port about to lock, and an input-only MADI port. -/
theorem witness_asrc_and_madi :
    (let s0 := (runsAt 160 []).setLive (portPage 0 * 0x1000 + 0x40) (BitVec.ofNat 32 (1 + 2 * 4 + 7 * 16 + 2 * 512 + 2 * 2 ^ 13 + 4 * 2 ^ 21))
     let s := s0.setPort 0 { s0.port 0 with good := 16 }
     s.portRuns 0 = true ∧ (s.portNow 0).relation = 2 ∧ (s.port 0).good = 16 ∧ (s.port 0).asrcLocked = false) ∧
    (let s := (runsAt 160 []).setLive (portPage 16 * 0x1000 + 0x40) (BitVec.ofNat 32 (1 + 4 * 256))
     (s.portNow 16).inOn = true ∧ (s.portNow 16).outOn = false) := by decide +kernel

/-- PortSettings: a set that is due and passes its check, one that fails it, one that is not due. -/
theorem witness_port_settings :
    let w (n : Nat) : Word := BitVec.ofNat 32 n
    let good := w (1 + 2 * 4 + 7 * 16 + 2 * 512 + 2 * 2048 + 4 * 2 ^ 21)
    let p (x : Word) : PendSet := ⟨0x8F, 160, false, none, [(0x40, x), (0x44, 3)]⟩
    let s (x : Word) : State := { runsAt 160 [] with pend := [p x] }
    (s good).pendOf 0x8F = some (p good) ∧ (s good).pendDue (p good) = true ∧ (s good).portCheck 0x8F ((s good).pendingPorts (p good)) = 0x02 ∧
    (s 0x600).portCheck 0x8F ((s 0x600).pendingPorts (p 0x600)) ≠ 0x02 ∧ ((p good).copy.map Prod.fst).Nodup ∧
    ({ runsAt 159 [] with pend := [p good] } : State).pendDue (p good) = false ∧ portPage 15 = 0x8F := by decide +kernel

/-! ### The Steeple -/

/-- SteepleReference: a candidate that is present, one suspect, one beyond the hard limit, one that waits; each state. -/
theorem witness_steeple_reference :
    let c : Cand := { State.reset.cand 7 with present := true }
    let s (q : Cand) : State := (regsAt [(F.STP_STATE_state, 1)]).setCand 7 q
    ((s c).cand 7).present = true ∧ (s c).stpState = 1 ∧ c.qualified = false ∧ c.everQualified = false ∧ c.devs.length < 19 ∧
    ((s c).lv F.STP_LIMITS_suspect_ppb : Int) * 10 < ((1999999 : Int)).natAbs ∧ ((s c).lv F.STP_LIMITS_hard_ppb : Int) * 10 < ((1999999 : Int)).natAbs ∧
    ¬((s c).lv F.STP_LIMITS_hard_ppb : Int) * 10 < ((0 : Int)).natAbs ∧
    ({ c with qualified := true, wtr := some 1 } : Cand).wtr.isSome = true ∧
    (regsAt [(F.STP_STATE_state, 3)]).stpState = 3 ∧ (regsAt [(F.STP_STATE_state, 4)]).stpState = 4 ∧
    (let h := (regsAt [(F.STP_STATE_state, 3), (F.SLP_HOLD_TIME_seconds, 3600)]).wrBoth F.SLP_HOLD_max_h 1
     h.lv F.SLP_HOLD_max_h ≠ 0 ∧ h.lv F.SLP_HOLD_max_h * 3600 ≤ h.rd F.SLP_HOLD_TIME_seconds) ∧
    (let a := (State.reset.wrBoth F.STP_PTP_role 1).setPtpState 1 6
     4 ≤ a.ptpState 1 ∧ a.lv F.STP_PTP_role ≠ 0) := by decide +kernel

/-- SteepleReference: a selected candidate with an error within its window and one beyond eight windows, in each state. -/
theorem witness_reference_loop :
    let s (st sw : Nat) (e : Int) : State := (regsAt [(F.STP_STATE_state, st), (F.STP_STATE_switching, sw), (F.STP_STATE_selected, 0)]).setCand 0
      { State.reset.cand 0 with present := true, err := e }
    (s 1 1 0).refKey = some 0 ∧ (s 1 1 0).on F.STP_STATE_switching = true ∧ ((s 1 1 0).refErr 0).natAbs ≤ (s 1 1 0).window 0 ∧
    (s 1 0 0).stpState = 1 ∧ (s 2 0 100000000).stpState = 2 ∧ 8 * (s 2 0 100000000).window 0 < ((s 2 0 100000000).refErr 0).natAbs := by decide +kernel

/-- SteepleReference: a candidate that two qualified ones measure. -/
theorem witness_deviation_reference :
    ∃ r, ((State.reset.setCand 1 { State.reset.cand 1 with qualified := true, freq := 4 }).setCand 2
      { State.reset.cand 2 with qualified := true }).devReference 0 = some r := by
  unfold State.devReference
  exact ⟨_, if_pos (by decide +kernel)⟩

/-- SteepleSignals: an edge that is wanted and complete, a glitch, a full FIFO, the LTC decoder's states, a DAC that slews and one that
changes its gain. -/
theorem witness_steeple_signals :
    let s := ((((regsAt [(F.LTC_IN_CFG_enable, 1)]).wr F.EDG_SRC_fifo 1 0 37).wr F.EDG_SRC_edge 3 0 37).wr F.EDG_SRC_glitch 5 0 31).wr F.DAC_STATUS_on 1 0 7
    let t : State := { s with stp := { s.stp with fifo := List.replicate 256 ⟨1, false, 2, 3⟩, ltcSync := 1 } }
    s.on F.EDG_SRC_fifo 0 37 = true ∧ s.rd F.EDG_SRC_edge 0 37 = 3 ∧ s.rd F.EDG_SRC_prescale 0 37 + 1 ≤ (assoc? s.stp.edges 37).getD 0 + 1 ∧
    (99 < 20 * s.rd F.EDG_SRC_glitch 0 31) ∧ 20 * s.rd F.EDG_SRC_glitch 0 31 ≤ 100 ∧ s.stp.fifo = [] ∧ 256 ≤ t.stp.fifo.length ∧
    s.on F.LTC_IN_CFG_enable = true ∧ s.stp.ltcSync = 0 ∧ s.on F.LTC_IN_STATUS_locked = false ∧ 1 ≤ t.stp.ltcSync ∧
    State.reset.on F.LTC_IN_CFG_enable = false ∧ s.on F.DAC_STATUS_on 0 7 = true ∧ State.reset.on F.DAC_STATUS_on 0 7 = false ∧
    (s.dac 7).clipping = false ∧
    (let g := (s.wr F.DAC_STATUS_out 0x7FFF 0 7).setDac 7 ⟨0x7FFF, true, true⟩
     (g.dac 7).clipping = true ∧ g.rd F.DAC_STATUS_out 0 7 ≤ 0x7FFF ∧ g.outputsSafe = false) := by decide +kernel

/-! ### The Neighbour -/

/-- A chip in role `r` and condition `c` with the Dreba link up, running at ESI 192. -/
def pairState (r c : Nat) (n : Nbr) : State :=
  { (runsAt 192 [(F.NBR_STATE_role, r), (F.NBR_STATE_cond, c), (F.DRB_STATUS_up, 1)]).wrBoth F.NBR_CFG_pair_en 1 with nbr := n }

/-- NeighbourFrames: a Standby in each condition, a follower, late and early items, digests that agree, two Actives. -/
theorem witness_neighbour_frames :
    let n : Nbr := { State.reset.nbr with own := [(10, 7, 9)], recv := [(10, 7)], scans := [(10, 1, some 5)], peerUid := some 5, peerEpoch := 1 }
    let s := pairState 2 4 n
    s.on F.DRB_STATUS_up = true ∧ s.nbr.rxSeq = 0 ∧ s.checked = true ∧ s.nbrCond = 4 ∧ s.copying = false ∧ (pairState 2 2 n).copying = true ∧
    s.on F.NBR_STATE_lead = false ∧ s.stp.marked = false ∧ 10 < s.now / s.blockLen ∧
    s.nbr.own.find? (fun (e : Nat × Nat × Nat) => e.1 == 10) = some (10, 7, 9) ∧ (assoc? s.nbr.recv 10).getD 0 = 7 ∧
    (s.nbr.scans.filter fun (e : Nat × Nat × Option Nat) => e.1 == 10) = [(10, 1, some 5)] ∧
    ctrlAtOnce (.write 0x28 0x40 5) = false ∧ s.now < 208 ∧ 208 ≤ s.now + s.blockLen ∧ 176 + s.blockLen ≤ s.now ∧
    bankOf 0x01000000 ≠ none ∧ bankOf 0x02000000 = none ∧ (pairState 1 4 n).role = 1 ∧ (pairState 1 4 n).checked = false ∧
    (pairState 1 4 { n with drilling := true }).nbr.drilling = true := by decide +kernel

/-- NeighbourLink: the link down and up, each condition of the copy, a drill and a declaration that may go, a missing trailer. -/
theorem witness_neighbour_link :
    let n := State.reset.nbr
    State.reset.on F.DRB_STATUS_up = false ∧ (regsAt [(F.DRB_CFG_enable, 1)]).on F.DRB_CFG_enable = true ∧
    (pairState 2 0 n).lon F.NBR_CFG_pair_en = true ∧ ({ n with crcRun := 15 } : Nbr).crcRun + 1 = 16 ∧
    (let s := pairState 2 2 { n with trailers := [(11, 0, 0)] }
     s.checked = true ∧ s.nbrCond = 2 ∧ s.now % s.blockLen = 0 ∧ s.rd F.NBR_COPY_TOTAL_chunks ≤ s.rd F.NBR_COPY_DONE_chunks ∧
     ∃ e ∈ s.nbr.trailers, e.1 + 1 = s.now / s.blockLen) ∧
    (let s := pairState 2 3 { n with clean := 4095 }
     s.nbrCond = 3 ∧ s.lv F.NBR_CFG_confirm ≤ s.nbr.clean ∧ (9 + 3) * s.blockLen ≤ s.now ∧ ∀ e ∈ s.nbr.trailers, e.1 ≠ 9) ∧
    (let s := pairState 2 5 { n with recopy := true, copiesFailed := 2 }
     s.checked = true ∧ s.nbrCond = 5 ∧ s.nbr.recopy = true ∧ s.nbr.copiesFailed < 3) ∧
    (let s := (pairState 1 4 { n with drillAt := some 192 }).wr F.SYS_MODE_STATE_service 1
     s.role = 1 ∧ s.rd F.SYS_MODE_STATE_service = 1 ∧ s.nbrCond = 4 ∧ s.lv F.NBR_CFG_hb_blocks ≤ 2 ∧ s.nbr.declareAt = none ∧
     s.nbr.drillAt = some 192 ∧ 192 ≤ s.now) := by decide +kernel

/-- NeighbourTakeover: a path that falls silent, a failure that promotes and one that does not, and grants of each outcome. -/
theorem witness_takeover :
    let n := State.reset.nbr
    (let s := pairState 1 4 { n with drebaMiss := 2, hbMiss := 0, hbSeen := true }
     s.role ≠ 0 ∧ s.hbBlocks = 3 ∧ s.nbr.drebaMiss + 1 = s.hbBlocks ∧ s.nbr.drebaMiss < s.hbBlocks) ∧
    (let s := pairState 2 4 { n with drebaMiss := 9, hbMiss := 9 }
     s.activeFailed = true ∧ s.takeoverCond = 4 ∧ (∀ x ∈ s.net.held, x.port < 2) ∧ s.net.crier = []) ∧
    (let s := pairState 2 1 { n with drebaMiss := 9, hbMiss := 9 }
     s.activeFailed = true ∧ s.takeoverCond = 1) ∧ State.reset.activeFailed = false ∧
    (let s := pairState 3 4 { n with grant := some ⟨2, 7, 192⟩, peerEpoch := 7 }
     s.rd F.NBR_ELDER_CFG_channel = 0 ∧ s.lon F.NBR_CFG_pair_en = true ∧ s.role = 3 ∧ s.rd F.NBR_EPOCH_value < 5 ∧ s.nbr.grant = some ⟨2, 7, 192⟩ ∧
     192 ≤ s.now ∧ s.running = true ∧ (s.wr F.NBR_STATE_peer_role 1).rd F.NBR_STATE_peer_role = 1 ∧ 5 ≤ s.nbr.peerEpoch ∧
     s.on F.DRB_STATUS_up = true ∧ (pairState 3 4 n).nbr.grant = none) := by decide +kernel

/-! ### The fabric, the DMA, the queues and the register pages -/

/-- The chip with a trained Cellar of one unit, with register fields set. -/
def cellarAt (l : List (Fld × Nat)) : State :=
  regsAt ([(F.PWR_STATE_on, 0xFFFF), (F.CET_STATUS_trained, 1), (F.CEL_SIZE_size, 1)] ++ l)

/-- A read request of 4 bytes at `a` from `ini`. -/
def reqOf (ini : Initiator) (a : Nat) : FabReq := ⟨ini, 0, false, a, 4, [], .silent⟩

/-- FabricRequests: no request outstanding, one that holds a later one back, a quarantined port, each target and size, a BAR
address, a request to time out and one whose response is late, and the ends of the Cellar. -/
theorem witness_fabric_requests :
    let s := cellarAt [(F.PCI_LINK_up, 1), (F.PCI_LINK_bme, 1)]
    let r := reqOf .host 0x100000000
    let t : State := { s with fab := { s.fab with outstanding := [r], timedOut := [r] } }
    (s.fab.outstanding = [] ∧ s.fab.held = [] ∧ s.portOut 0 < 32 ∧ bitAt (s.rd F.FAB_QUAR_ports) 0 = false ∧ s.pageOn 0x008 = true) ∧
    (∃ x ∈ t.fab.outstanding ++ t.fab.held, sameSource r x = true) ∧ bitAt ((regsAt [(F.FAB_QUAR_ports, 1)]).rd F.FAB_QUAR_ports) 0 = true ∧
    fabTarget 0x40000000 = 6 ∧ (fabTarget 0x100000000 = 1 ∧ fastSize 0x100000000 4 = true ∧ s.cellarHas 0x100000000 4 = true) ∧
    (fastSize 0x11FFFFFFC 4 = true ∧ s.cellarHas 0x11FFFFFFC 4 = true ∧ s.cellarHas 0x120000000 4 = false ∧ fabTarget 0x120000000 = 1) ∧
    (fabTarget 0x8000000000 = 3 ∧ fastSize 0x8000000000 4 = true ∧ s.on F.PCI_LINK_bme = true) ∧ fastSize 0x100000001 256 = false ∧
    (s.on F.PCI_LINK_d3hot = false ∧ (s.barAddr (.bar0 0)).isSome = true) ∧
    (t.fab.outstanding = [r] ∧ r.ini = .host ∧ r.chan = 0 ∧ t.fab.held = []) ∧
    (t.fab.timedOut.head? = some r ∧ r.write = false ∧ fabTarget r.addr ≠ 3) := by decide +kernel

/-- A descriptor at the Cellar's start: 8 bytes from its offset 0x100 to 0x200, event to ring 0, the last one. -/
def dmaState (st : Nat) (c : DmaChan) : State :=
  ((cellarAt []).wr F.DMC_STATE_state st 0 5).setDma 5 c

/-- DmaRuns: a channel in each state, an aborting one, a descriptor to fetch, a copy inside the Cellar and one from an
undecoded address, room and no room in the ring, a channel that waits. -/
theorem witness_dma_runs :
    let c : DmaChan := { DmaChan.fresh with cur := 0x100000000, src := 0x100000100, dst := 0x100000200, len := 8, event := true, last := true }
    (∀ st ∈ [0, 1, 2, 3, 4, 5], (dmaState st c).dmState 5 = st) ∧ (dmaState 1 c).queueRoom 192 = true ∧
    (dmaState 2 c).cellarHas 0x10000001C 4 = true ∧ (dmaState 2 c).cellarHas 0x100000100 8 = true ∧ fastSize 0x100000100 8 = true ∧
    fabTarget 0x100000200 = 1 ∧ fastSize 0x100000000 32 = true ∧ (dmaState 2 c).cellarHas 0x100000000 32 = true ∧
    (dmaState 2 c).load 0x100000000 32 / 2 ^ 248 = 0 ∧ c.count ≠ (dmaState 2 c).budget 5 ∧
    ((dmaState 1 c).setByte 0x10000001F 1).load 0x100000000 32 / 2 ^ 248 ≠ 0 ∧ (({ c with byRing := true } : DmaChan).byRing = true) ∧
    (let z : DmaChan := { c with count := 256 }
     ((dmaState 1 z).wr F.DMC_CTRL_budget 1 0 5).budget 5 = 256 ∨ z.count = 256) ∧
    (fabTarget 0x40000000 = 6 ∧ 0x40000000 % 256 + 8 ≤ 256 ∧ 0x100000200 % 256 + 8 ≤ 256) ∧
    bitAt ((regsAt [(F.FAB_QUAR_ports, 2)]).rd F.FAB_QUAR_ports) 1 = true ∧ ({ c with aborting := true } : DmaChan).aborting = true ∧
    (let s := (dmaState 4 { c with waiting := some 7 })
     let t : State := { s with que := { s.que with waiters := [5] } }
     t.queueRoom 192 = true ∧ t.que.waiters = [5] ∧ t.dmRing 5 = 192 ∧ (t.dmaChan 5).waiting = some 7) ∧
    (bitAt 0x100 8 = true ∧ bitAt 0x100 9 = false ∧ 192 + 0x100 / 2 ^ 12 % 2 ^ 6 ≤ 247) ∧ (247 < 192 + 0x38100 / 2 ^ 12 % 2 ^ 6) ∧
    bitAt 0x200 9 = true := by decide +kernel

/-- QueuesAndCommands: initiators that may and may not push and pop, a low half held, a full queue of each kind, a command
envelope that is whole, one that is not, one with an unknown subsystem, and room for replies. -/
theorem witness_queues_and_commands :
    let s := State.reset
    let full := fun (q n : Nat) => s.putQueue q (List.replicate n 1)
    let env : State := { full 128 1 with boot := { s.boot with running := some ⟨1, 1, 1, 1, 1, 1, 1, 0, 0⟩ } }
    mayPush 0 .reeve = true ∧ mayPush 128 .host = true ∧ mayPush 248 .carter0 = true ∧ mayPush 192 .host = false ∧
    mayPop 0 .reeve = true ∧ mayPop 248 .host = false ∧ s.que.low = [] ∧
    assoc? ({ s.que with low := [(halfKey 5 .host, 7)] } : Que).low (halfKey 5 .host) = some 7 ∧
    ((full 0 63).queue 0).length = 63 ∧ ((full 0 64).queue 0).length = 64 ∧ ((full 128 32).queue 128).length = 32 ∧
    ((full 192 127).queue 192).length = 127 ∧ ((full 192 128).queue 192).length = 128 ∧ (∀ x ∈ s.que.envelopes, x.queue ≠ 128) ∧
    bitAt 0x8000000 27 = true ∧ (bitAt (0 : DWord).toNat 27 = false ∧ (s.queue (bitsOf (0 : DWord).toNat 20 7)).length + 1 ≤ 64) ∧ (env.queue 128).head? = some 1 ∧ env.takesCommands = true ∧ s.takesCommands = false ∧
    commandStatus (cmdHead 0xFF) = 1 ∧ commandStatus (cmdHead 0x102) = 0 ∧ (cmdHead 0x102).n + 1 ≤ (env.queue 128).length ∧
    (env.queue 128).length < (cmdHead 0x10000).n + 1 := by decide +kernel

/-- RegisterAccess: DMA_CFG from the host on an idle fabric, with no bit and with an unassigned bit; a locked page; a Standby and a
pair-driven page. -/
theorem witness_register_access :
    let s := cellarAt []
    (bitAt (s.rd F.FAB_QUAR_ports) 0 = false ∧ s.fab.outstanding ++ s.fab.held = [] ∧ s.portOut 0 < 32) ∧
    (pageExists 0x010 = true ∧ s.pageOn 0x010 = true) ∧
    (∃ r, pageRow 0x010 0x040 = some r ∧ r.rw ||| r.rws ≠ 0 ∧ r.rw ||| r.rws ≤ 2 ^ 32 - 1 ∧ (r.rw ||| r.rws) &&& r.w1c = 0 ∧
      5 &&& (2 ^ 32 - 1 ^^^ r.known) = 0 ∧ 0x80000000 &&& (2 ^ 32 - 1 ^^^ r.known) ≠ 0) ∧
    ((s.actWrite .host 0x010 0x040 5).isSome = false ∧ (s.genWrite 0x010 0x040 5).isSome = false) ∧
    plainOnly 0x010 0x040 = false ∧ s.on F.LOCK_locked 0x010 = false ∧ s.role = 0 ∧
    (s.wr F.LOCK_locked 1 0x010).on F.LOCK_locked 0x010 = true ∧ (s.wr F.NBR_STATE_role 2).role = 2 ∧ pairDriven 0x050 = true ∧
    (pageRow 0x010 0x03C).isSome = true ∧ (pageRow 0x010 0x010).isSome = true ∧ (pageRow 0x010 0x01C).isSome = true := by
  refine ⟨by decide +kernel, by decide +kernel, ⟨(pageRow 0x010 0x040).getD ⟨0, 0, 0, 0, 0, 0, 0, 0, 0, 0⟩, by decide +kernel⟩, by decide +kernel⟩

/-- RegisterAccess: DMA_CFG has no live or free bit, so it reads the word it holds. -/
theorem witness_plain_view : (cellarAt []).view .host 0x010 0x040 = ((cellarAt []).reg 0x10040).toNat := by
  have h : freeBits 0x010 0x040 = 0 := by decide +kernel
  have w : ((cellarAt []).reg 0x10040).toNat &&& 4294967295 = ((cellarAt []).reg 0x10040).toNat := by decide +kernel
  simp [State.view, h, w]

/-- RegisterAccess: no value makes DMA_CFG act. -/
theorem witness_no_action (x : Nat) :
    ((cellarAt []).actWrite .host 0x010 0x040 x).isSome = false ∧ ((cellarAt []).genWrite 0x010 0x040 x).isSome = false := ⟨rfl, rfl⟩

/-- A queue with an entry, sent to vector 0, which is enabled. -/
def vectorAt (l : List (Fld × Nat)) : State :=
  ((regsAt ([(F.PCI_LINK_msix_en, 1), (F.PCI_LINK_up, 1)] ++ l)).wr F.INT_QVEC_EN_value 1 0 0).putQueue 0 [5]

/-- HostInterface: a vector that is asked for, masked and not; an I2C that may read and write; the link up and down. -/
theorem witness_host_interface :
    let s := vectorAt [(F.IIC_CFG_enable, 1), (F.PWR_STATE_on, 0xFFFF)]
    let t : State := { s with host := { s.host with msix := [(3, 0)], pba := [0] } }
    s.on F.PCI_LINK_msix_en = true ∧ s.vectorState 0 = true ∧ s.vectorMasked 0 = true ∧ t.vectorState 0 = true ∧ t.vectorMasked 0 = false ∧
    t.on F.PCI_LINK_fmask = false ∧ 0 ∈ t.host.pba ∧ s.vectorState 1 = false ∧ s.on F.IIC_CFG_enable = true ∧
    (s.fabRead .reeve 0x10010040 4 (.done [])).1.isSome = true ∧ (s.fabRead .reeve 0x10FFF040 4 (.done [])).1.isSome = false ∧
    (s.wr F.IIC_CFG_write_en 1).on F.IIC_CFG_write_en = true ∧ ((s.fabWrite .reeve 0x10010040 [5, 0, 0, 0] (.done [])).1 = .done) ∧
    s.on F.IIC_CFG_write_en = false ∧ s.domainOn 11 = true ∧ State.reset.domainOn 11 = false ∧ State.reset.on F.PCI_LINK_up = false ∧
    ({ s.host with retry := false } : HostIf).retry = false := by decide +kernel
/-! ### Boot, update, faults, the Roll and power -/

/-- A flash header (R480) with the partition table of `parts`: kind, start and length. -/
def flashHeaderOf (parts : List (Nat × Nat × Nat)) : List Byte :=
  let body := leBytes 4 0x44485A53 ++ leBytes 2 1 ++ leBytes 10 0 ++
    (parts.flatMap fun p => leBytes 4 p.1 ++ leBytes 4 p.2.1 ++ leBytes 4 p.2.2 ++ leBytes 4 0) ++ leBytes 48 0
  body ++ leBytes 4 (crc32 body)

/-- The chip with a flash header and register fields set; both image slots and the boot facts are `b`. -/
def bootState (l : List (Fld × Nat)) (b : Boot → Boot) : State :=
  let s := (cellarAt l).setBytes 0x20000000 (flashHeaderOf [(1, 0x100000, 0x40000), (2, 0x200000, 0x40000), (3, 0x300000, 0x200000),
    (4, 0x500000, 0x40), (5, 0x600000, 0x400000)])
  { s with boot := b s.boot }

theorem witness_flash_header :
    let s := bootState [] id
    s.flashHeader = true ∧ s.flashPart 1 = some (0x20100000, 0x40000) ∧ s.flashPart 5 = some (0x20600000, 0x400000) ∧
    State.reset.flashHeader = false ∧ State.reset.flashPart 1 = none := by decide +kernel

/-- An image record that runs. -/
def imageNow : Image := ⟨1, 1, 1, 2, 1, 1, 2, 0, 0⟩
/-- A signed image: version 1, key slot 0, 264 bytes. -/
def signedImage : List Byte := leBytes 264
  462928826039319623699884830236340172240357558086073824853038247739212511552039379629105668689739437062097120173424963850745049028693176894987464973073134299542421835894203629932337930384692944774874613857832781725075055060796931708851009066676894041306165635561542932166040547237975016962405222123259617695915218399875858139530409641487079552947399444988194302302607170669401558383016268696743339248125296229249561826399111719124178060905063281310444939691279611473021047701216575500414076281336322085574313641175434010296296336561685677149301236405015244694556251559129717785115896427325116061240332486698598599555988584445360571828550

/-- Fuses that hold the hash of the image's key. -/
def fused (b : Boot) : Boot := { b with keys := [(0, 33162241730265007402229777857307203230712420450944622162972749371211065007313520531947291886984463400903189397879061)] }

/-- The signature of the image under its key, as R482 checks it. Its evaluation by the kernel takes over a minute, so no test runs it. -/
def imageSigned : Bool :=
  ecVerify ((signedImage.drop 0x2C).take 97) (sha384 (signedImage.take (264 - 96))) (ofBe ((signedImage.drop (264 - 96)).take 48))
    (ofBe ((signedImage.drop (264 - 48)).take 48))

/-- A chip that takes the image: key slot 0 programmed, life-cycle state 1, with `b` after the keys. -/
def takesImage (l : List (Fld × Nat)) (b : Boot → Boot) : State :=
  bootState ([(F.FUS_KEYS_programmed, 1), (F.SYS_LC_state, 1)] ++ l) fun x => b (fused x)

/-- Every check of R482 but the signature holds of the image. -/
theorem witness_image (h : imageSigned = true) : (takesImage [] id).imageCheck signedImage 264 = 0 := by
  have h' : ecVerify ((signedImage.drop 0x2C).take 97) (sha384 (signedImage.take (264 - 96))) (ofBe ((signedImage.drop (264 - 96)).take 48))
    (ofBe ((signedImage.drop (264 - 48)).take 48)) = true := h
  unfold State.imageCheck
  simp only [h']
  decide +kernel

/-- UpdateCommands: a container outside the Cellar and one that fails a check; held and stored configurations and their room; an engine
that may start; each state of the idle slot; a download whose next block is n; the last block and the end of the Cellar. -/
theorem witness_update_commands :
    let s := bootState [(F.SYS_MODE_STATE_service, 2)] fun b =>
      { b with held := [(0, [1, 2, 3])], stored := [(1, [7])], slot0 := ⟨1, 0, 0, 0x20000, 0⟩, slot1 := ⟨4, 0, 0, 264, 0⟩, running := some imageNow }
    let t (st : Nat) := bootState [(F.SYS_BOOT_slot, 1)] fun b => { b with slot0 := ⟨st, 0, 0, 264, 0⟩ }
    (s.cfgCheck [] ≠ 0 ∧ s.cellarEnd = 0x120000000 ∧ ¬(0x11FFFFFC0 < 2 ^ 32 ∨ s.cellarEnd < 0x11FFFFFC0 + 64)) ∧
    (s.heldCfg 0 = some [1, 2, 3] ∧ s.heldCfg 5 = none ∧ s.flashPart 4 = some (0x20500000, 0x40) ∧
      (assocPut s.boot.stored 0 [1, 2, 3]).foldl (fun (n : Nat) (e : Nat × List Byte) => n + e.2.length) 0 = 4 ∧
      State.reset.flashPart 4 = none) ∧
    (s.rateKey = 0 ∧ s.running = false ∧ s.rd F.SYS_MODE_STATE_phase = 5 ∧ ({ s.modes with restart := some ⟨1, 0, none, 0, false, false, none, none⟩ } : Modes).restart.isSome = true ∧
      (runsAt 16 []).restarting = false ∧ (pairState 2 4 State.reset.nbr).role = 2) ∧
    (s.trialSlot = none ∧ (t 3).trialSlot = some 0 ∧ (t 1).loadingSlot = some 0 ∧ (t 4).idleSlot = 0 ∧ ((t 4).bootSlot 0).state = 4 ∧
      ((t 2).bootSlot (t 2).idleSlot).state = 2 ∧ (t 2).loadingSlot = none) ∧
    (s.loadingSlot = some 0 ∧ s.flashPart 1 = some (0x20100000, 0x40000) ∧ blocksOf (s.bootSlot 0).size = 2 ∧
      264 + 0x10000 ≤ 0x40000 ∧ 0x40000 < 0x30001 + 0x10000 ∧ 2 ^ 32 ≤ 0x11FFF0000 ∧ 0x11FFF0000 + 0x10000 ≤ s.cellarEnd) ∧
    ((t 1).slotImage 0).isSome = true ∧ (t 1).imageCheck (List.replicate 264 0) 264 ≠ 0 := by decide +kernel

/-- UpdateCommands: the next block of a download into an erased slot is block 0. -/
theorem witness_next_block :
    ((cellarAt []).modBoot fun b => { b with slot0 := ⟨1, 0, 0, 264, 0⟩ }).loadingSlot = some 0 ∧
    ((cellarAt []).modBoot fun b => { b with slot0 := ⟨1, 0, 0, 0, 0⟩ }).nextBlockOf 0 = 0 := by decide +kernel

/-- UpdateCommands: an image that may take over, one that may not, and a peer whose range shuts it out. -/
theorem witness_activation :
    let s := (takesImage [(F.SYS_BOOT_slot, 1)] fun b => { b with slot0 := ⟨2, 0, 0, 28, 0⟩, running := some imageNow }).setBytes
      0x20110000 (signedImage.take 28)
    let t := (pairState 1 4 { State.reset.nbr with peerRange := some (5, 9) })
    let im := imageOf ((s.slotImage s.idleSlot).getD [])
    (s.idleSlot = 0 ∧ (s.bootSlot 0).state = 2 ∧ im.hoMin ≤ imageNow.hoVer ∧ imageNow.hoVer ≤ im.hoVer) ∧
    (¬(9 ≤ im.hoVer) ∧ t.lon F.NBR_CFG_pair_en = true ∧ t.on F.DRB_STATUS_up = true ∧ t.nbr.peerRange = some (5, 9) ∧ im.pairHi < 5) ∧
    s.lon F.NBR_CFG_pair_en = false := by decide +kernel

/-- UnitCommands: no foreign record and one, the life-cycle states, a wipe, the unit key, the ends of the areas. -/
theorem witness_unit_commands :
    let s := takesImage [] id
    (¬∃ r ∈ parseRecords 0x40000 ((s.setBytes 0x100000000 (leBytes 4 0x40101 ++ leBytes 4 9)).bytes 0x100000000 8), r.1 ≠ 0x101 ∧ r.1 ≠ 0x102) ∧
    (∃ r ∈ parseRecords 0x40000 (leBytes 4 0x103), r.1 ≠ 0x101 ∧ r.1 ≠ 0x102) ∧
    (s.rd F.SYS_LC_state = 1 ∧ s.boot.unitKey = false ∧ s.memx.wiping = none ∧ s.running = false) ∧
    ((s.wr F.SYS_MODE_STATE_service 2).rd F.SYS_MODE_STATE_service = 2) ∧ State.reset.rd F.SYS_LC_state = 0 ∧
    ((s.modMemx fun m => { m with wiping := some 2 }).memx.wiping.isSome = true) ∧
    ((s.modBoot fun b => { b with unitKey := true }).boot.unitKey = true) ∧
    (248 * 1024 ≤ 248 * 1024 ∧ 248 * 1024 < 248 * 1024 + 1) ∧ (1 < ecN ∧ assoc? s.boot.keys 0 ≠ none) := by decide +kernel

/-- A boot record whose slots are `x` and `y`. -/
def recordOf (seq : Nat) (x y : Slot) : List Byte :=
  let b := leBytes 4 0x52425A53 ++ leBytes 4 seq ++ x.bytes ++ y.bytes
  b ++ leBytes 4 (crc32 b)

/-- StartsAndTrials: a boot record with a CONFIRMED slot, and with a TRIAL slot below and at the limit of its trials; its image's place. -/
theorem witness_boot_record :
    let s (x : Slot) := (bootState [] id).setBytes (recAddr 0) (recordOf 5 x ⟨0, 0, 0, 0, 0⟩)
    (s ⟨4, 0, 0, 264, 77⟩).currentRec = some 0 ∧ (s ⟨4, 0, 0, 264, 77⟩).bootSlotAt (recAddr 0) 0 = ⟨4, 0, 0, 264, 77⟩ ∧
    (s ⟨3, 1, 0, 264, 77⟩).bootSlotAt (recAddr 0) 0 = ⟨3, 1, 0, 264, 77⟩ ∧ (s ⟨3, 2, 0, 264, 77⟩).bootSlotAt (recAddr 0) 0 = ⟨3, 2, 0, 264, 77⟩ ∧
    (s ⟨3, 1, 0, 264, 77⟩).bootSlotAt (recAddr 0) 1 = ⟨0, 0, 0, 0, 0⟩ ∧ 0x20110000 + 264 ≤ 0x40000000 := by decide +kernel

/-- StartsAndTrials: a chip that may recover; a training at stage 8 with and without a stored configuration; a handover that is due; a
TRIAL slot that confirms, that waits, that expires and that falls back. -/
theorem witness_starts :
    let s (st : Nat) := cellarAt [(F.SYS_BOOT_stage, st), (F.SYS_BOOT_recovery, 1)]
    let b := State.reset.boot
    let t (x : Boot) : State := { cellarAt [(F.CET_STATUS_trained, 1)] with boot := x }
    let trial := { b with slot0 := ⟨3, 1, 0, 264, 77⟩, running := some imageNow, confirmEnd := some 9 }
    ((s 8).on F.SYS_BOOT_recovery = true ∧ (s 8).boot.running = none ∧ (s 8).rd F.SYS_LC_state ≠ 4) ∧
    ((s 8).domainOn 7 = true ∧ (s 8).rd F.SYS_BOOT_stage = 8 ∧ (t { b with slot1 := ⟨4, 0, 0, 264, 7⟩ }).confirmedSlot = some 1) ∧
    (assoc? (t { b with stored := [(modeKey ((t b).reg 0x60).toNat, [1])] }).boot.stored (modeKey ((t b).reg 0x60).toNat) = some [1] ∧
      assoc? b.stored (modeKey ((t b).reg 0x60).toNat) = none ∧ State.reset.domainOn 7 = false) ∧
    ((t { b with handover := some 160 }).running = false ∧ (t { b with handover := some 160, reverse := true, previous := some imageNow }).boot.previous
      = some imageNow ∧ b.handover = none) ∧
    ((t trial).trialSlot = some 0 ∧ (t trial).rd F.SYS_BOOT_slot = 0 ∧ trial.confirmEnd.isSome = true ∧ (∀ id < 16, (t trial).latch id = false) ∧
      (t trial).on F.CET_STATUS_trained = true ∧ (t trial).heldCfg (modeKey ((t trial).reg 0x60).toNat) = none ∧
      (t trial).on F.UPD_CONFIRM_CFG_host_confirm = false ∧ imageNow.secVer < 64 ∧ imageNow.keySlot < 4 ∧ trial.previous = none ∧
      trial.heldReset = false) ∧ (t b).trialSlot = none := by decide +kernel

/-- FaultsAndFailsafe: a fault that holds and one that does not, a latch that closes the gate, an escalated Degraded fault, an entry and a
leave at a boundary, a restart that waits for the fade-in. -/
theorem witness_faults :
    let s := runsAt 192 [(F.FLT_STATE_failsafe, 1), (F.FLT_CFG_auto_leave, 1)]
    let e : State := { s with flt := { s.flt with entering := true } }
    (s.running = true ∧ s.now % s.blockLen = 0 ∧ e.flt.entering = true ∧ s.flt.entering = false ∧ (∀ j < 16, s.latch j = false) ∧
      s.modes.fsFade.start < s.now ∧ s.modes.restart = none ∧ s.flt.leave = false) ∧
    ((regsAt [(F.FLT_LATCH_bits, 4)]).latch 2 = true ∧ 2 ≤ faultClass 2 ∧ faultClass 9 = 1 ∧ faultClass 14 = 3) ∧
    (bitAt ((regsAt [(F.FLT_ESCALATE_bits, 0x200)]).rd F.FLT_ESCALATE_bits) 9 = true) ∧
    (State.reset.faultHolds 3 = false ∧ State.reset.on F.FLT_STATE_failsafe = false ∧ State.reset.flt.wdogArmed = false ∧
      ({ s.flt with wdogArmed := true } : Flt).wdogArmed = true) ∧
    (let t := (s.wr F.SYS_MODE_STATE_phase 4).modModes fun m => { m with restart := some ⟨1, 0, none, 0, false, false, none, none⟩ }
     ∃ r, t.modes.restart = some r ∧ r.inAt = none ∧ t.rd F.SYS_MODE_STATE_phase = 4) ∧
    (let t := (regsAt [(F.NBR_STATE_role, 1)])
     t.rd F.NBR_STATE_role = 1 ∧ t.nbr.declareAt = none) ∧ 0x5744 % 65536 = 0x5744 := by
  refine ⟨by decide +kernel, by decide +kernel, by decide +kernel, by decide +kernel, ⟨_, rfl, rfl, by decide +kernel⟩, by decide +kernel, rfl⟩

/-- RollAndDumps: a source in and out of a window, a window with a count, a flash header, a PFAIL slot that is erased and one that is
written, dumps held, a fatal sequence before and after its dump. -/
theorem witness_roll_and_dumps :
    let s := bootState [] id
    let r : RollSrc := { (s.rollSrc 0xB1) with win := 1 }
    let t : State := { s with flt := { s.flt with srcs := [(0xB1, r)], flashDump := some (2, 2, 7, 4), cellarDump := some (2, 2, 7, 4) } }
    (s.rollSrc 0xB1).win = 0 ∧ (t.rollSrc 0xB1).win = 1 ∧ (4 ^ 0 ≤ 1 ∧ 1 < 4 ^ (0 + 1)) ∧ s.flashPart 5 = some (0x20600000, 0x400000) ∧
    State.reset.flashPart 5 = none ∧ s.flt.pfails.head? = none ∧ s.load 0x20600000 4 ≠ 0x46505A53 ∧
    (s.setBytes 0x20600000 (leBytes 4 0x46505A53)).load 0x20600000 4 = 0x46505A53 ∧ t.flt.flashDump = some (2, 2, 7, 4) ∧
    s.flt.flashDump = none ∧ t.flt.cellarDump.isSome = true ∧ (s.wr F.FLT_STATE_fatal 1).on F.FLT_STATE_fatal = true ∧
    s.on F.FLT_STATE_dump_done = false ∧ (s.wr F.FLT_STATE_dump_done 1).on F.FLT_STATE_dump_done = true ∧ s.on F.FLT_CFG_fatal_reset = true ∧
    (s.wr F.FLT_CFG_fatal_reset 0).on F.FLT_CFG_fatal_reset = false ∧ s.boot.heldReset = false := by decide +kernel

/-- RollAndDumps: the flash image of a settled chip is in canonical form. -/
theorem witness_canonical : State.reset.Canonical ∧ State.reset.SwitchOk ∧ (State.reset.setByte 0x100000000 7).Canonical := by
  unfold State.Canonical State.SwitchOk
  decide +kernel

/-- PowerClocksThrottle: a switch in progress; a core PLL that is lost and comes back last; the VCXO in and out of range; a keyed reset;
readings at each trip level and at the least that is no stop. -/
theorem witness_power :
    let s := cellarAt [(F.PWR_STATE_switching, 1), (F.CLK_STATUS_locked, 0x3DE), (F.CLK_STATUS_synth, 1), (F.THR_STATE_step, 3)]
    let held : State := { s with boot := { s.boot with heldReset := true } }
    (s.on F.PWR_STATE_switching = true ∧ bitAt (State.reset.lv F.PWR_DOMAIN_on) 7 = true ∧ State.reset.domainOn 7 = false) ∧
    (held.boot.heldReset = true ∧ (∀ j < 10, (j ≤ 3 ∨ j = 8 ∨ j = 9) → j ≠ 0 → bitAt (s.rd F.CLK_STATUS_locked) j = true) ∧
      bitAt (s.rd F.CLK_STATUS_locked) 0 = false ∧ s.boot.heldReset = false ∧ held.flashHeader = false) ∧
    (s.on F.CLK_STATUS_synth = true ∧ State.reset.on F.CLK_STATUS_synth = false ∧ ((-1000 : Int) ≤ 1000 ∧ ¬(-1000 ≤ (-1001 : Int))) ∧
      ({ s.stp with vcxoGood := 999 } : Stp).vcxoGood + 1 = 1000) ∧
    ((0x52530001 : Word).toNat / 2 ^ 16 = 0x5253 ∧ bitAt (0x52530001 : Word).toNat 0 = true ∧ bitAt (0x6 : Word).toNat 0 = false) ∧
    (s.tripLevel 3 = 690 ∧ (∀ j < 8, s.tripLevel 3 + s.rd F.THR_CFG_hyst_mv < (List.replicate 8 701).getD j 0) ∧ s.rd F.THR_CFG_force = 0 ∧
      s.rd F.THR_STATE_step = 3 ∧ ¬(660 < 660)) := by decide +kernel

/-! ### Witnesses of single clauses -/

/-- MillTransfers: a Mill that goes on waiting, and one that waits no longer while a transfer of an earlier block flies. -/
theorem witness_waits :
    let x (b : Nat) : MXfer := ⟨2 ^ 32, false, 0, 32, b⟩
    let s (b : Nat) := State.reset.setMill 15 { Mill.fresh with xfers := [x 5, x b], wait := .xfers, block := 5 }
    ((s 5).mill 15).wait = .xfers ∧ (∃ y, y ∈ ((s 5).mill 15).xfers.eraseIdx 0 ∧ y.block = ((s 5).mill 15).block) ∧
    (∀ y, y ∈ ((s 4).mill 15).xfers.eraseIdx 0 → y.block ≠ ((s 4).mill 15).block) :=
  ⟨by decide +kernel, ⟨⟨2 ^ 32, false, 0, 32, 5⟩, by decide +kernel⟩, by decide +kernel⟩

/-- RouteChanges: a loose word while a swap is armed, and while none is; an entry that keeps the groups within their histories. -/
theorem witness_mirrors :
    (regsAt [(F.SCN_STATE_phase, 2)]).mirrors 0 = true ∧ State.reset.mirrors 0 = false ∧ (0x01000100 - bankBase 0) % 4 = 0 ∧
    (let s := runsAt 32 [(F.SCN_BANK_SIZE_size, 0x800000)]
     ((s.setDest 0 { s.dest 0 with entry := 5 }).settledRoutes).historyBad = false ∧ s.xrd.routeAt ≠ some s.now) := by decide +kernel

/-- Swaps: an arm at an ESI that is past, a cue, a swap without crossfades, and a switch of its own. -/
theorem witness_arms :
    let z := State.reset.scn
    let s : State := { (runsAt 48 [(F.SCN_STATE_phase, 1)]) with scn := { z with armAt := 40 } }
    s.scn.armAt / 16 * 16 < s.now ∧ (State.reset.wrBoth F.SCN_ARM_mode 2).lv F.SCN_ARM_mode = 2 ∧ z.cue = none ∧ z.lastFade = 0 ∧
    (let w : ChnSwitch := ⟨2, [(127, 1)], 0, some 16, none⟩
     w.mode ≠ 2 ∨ w.c ≠ none) := by decide +kernel

/-- CellarRefresh: a channel at its hottest class, whose lower reading is the second. -/
theorem witness_cooling :
    let s := (((regsAt [({ F.CEL_TEMP_temp with lo := 29, width := 2 }, 2)]).modMemx fun m => { m with lower := [(3, 1)] }))
    min 0 2 < s.celClass 3 ∧ assoc? s.memx.lower 3 = some (min 0 2 + 1) ∧ assoc? s.memx.lower 3 ≠ some (min 1 2 + 1) := by decide +kernel

/-- GleanerFrames: a frame with another behind it, in another slot and within its size. -/
theorem witness_next_frame :
    let s := (regsAt [(F.GLN_FRAMES_n_frames, 3), (F.GLN_FRAME_bytes, 128)]).modMemx fun m =>
      { m with gln := ⟨4, [(4, 64, false, []), (5, 80, true, [1, 2])], [], some 48, none, 16, none⟩ }
    s.memx.gln.staged = (4, 64, false, []) :: [(5, 80, true, [1, 2])] ∧ [((5 : Nat), (80 : Nat), true, [(1 : Byte), 2])].head? = some (5, 80, true, [1, 2]) ∧
    5 % s.rd F.GLN_FRAMES_n_frames ≠ 4 % s.rd F.GLN_FRAMES_n_frames ∧ 64 + [(1 : Byte), 2].length ≤ s.rd F.GLN_FRAME_bytes ∧
    s.on F.GLN_MARK_STATE_pending = false := by decide +kernel

/-- LocalPortFrames: a follower in its silent block with and without a frame to send, a stopped engine, and a period that fits twice. -/
theorem witness_silent_block :
    let s (d : List (List (Option Nat) × List Nat)) := sapState 1 fun p => { p with silentTo := some 176, drain := d, good := 3, period := 20833333 }
    (s []).running = true ∧ ((s []).portNow 15).inOn = true ∧ ((s []).port 15).silentTo ≠ none ∧ ((s []).port 15).drain = [] ∧
    ((s [([some 1], [2])]).port 15).drain = ([some 1], [2]) :: [] ∧ (s []).drivesPorts = true ∧
    State.reset.running = false ∧ State.reset.rd F.SYS_MODE_STATE_phase ≠ 3 ∧
    (s []).periodFits 15 ((s []).portNow 15) 20833333 = true ∧ (s []).periodFits 15 ((s []).portNow 15) 10 = false ∧
    0 < ((s []).port 15).good ∧ near 20833333 ((s []).port 15).period = true ∧ ((s []).port 15).slips = [] := by decide +kernel

/-- SteepleReference: a master that times out in each role, alone and beside another that is heard; a slew that ends. -/
theorem witness_masters :
    let f (x n : Nat) : Foreign := ⟨x, x, x, 6, 0, [], List.replicate n 0⟩
    let s (role : Nat) (l : List Foreign) : State :=
      let t := ((State.reset.wrBoth F.STP_PTP_role role).wrBoth F.STP_PTP_en_b 0).setPtpState 0 9
      t.setPtp 0 { t.ptp 0 with foreigns := l, sender := 7 }
    let left := fun t : State => (t.ptp 0).foreigns.filter fun (x : Foreign) => x.sender != (t.ptp 0).sender
    let usable := fun (x : Foreign) => 2 ≤ x.heard.length ∧ x.steps < 255
    4 ≤ (s 3 []).ptpState 0 ∧ (s 3 []).lv F.STP_PTP_role = 3 ∧ (s 2 []).lv F.STP_PTP_role = 2 ∧ (s 2 []).ptpOn 0 = true ∧ (s 2 []).ptpOn 1 = false ∧
    (s 1 []).lv F.STP_PTP_role = 1 ∧ (∀ x ∈ left (s 3 [f 7 2, f 8 1]), ¬usable x) ∧ (∃ x ∈ left (s 3 [f 7 2, f 8 2]), usable x) ∧
    State.reset.slewKey = none ∧ ({ State.reset with stp := { State.reset.stp with slewAudio := true } } : State).slewKey = some 7 := by decide +kernel

/-- NeighbourFrames: a chip that leads as the Active, and one in Proving. -/
theorem witness_leads :
    let n := State.reset.nbr
    (pairState 1 4 n).leads = true ∧ ((pairState 3 4 n).wr F.NBR_STATE_lead 1).leads = true ∧ (pairState 2 4 n).leads = false := by decide +kernel

/-- FabricRequests: the Next alias of BAR2, a write there that need not wait, and a port with a write that waits. -/
theorem witness_alias :
    let s := cellarAt [(F.PCI_LINK_up, 1)]
    let t := s.modMemx fun m => { m with holdWait := [⟨.host, 0, 0x01000000, [1]⟩] }
    s.barAddr (.bar2 0x2800000) = some (aliasBase + 0x800000) ∧ aliasBase ≤ aliasBase + 0x800000 ∧
    s.resolveAlias (aliasBase + 0x800000) = 0x01800000 ∧ (s.granaryWrite .host (aliasBase + 0x800000) [1] 0).1 ≠ .waits ∧
    s.waitsBehind .host 0 = false ∧ t.waitsBehind .host 0 = true ∧ (∀ w ∈ s.memx.holdWait, w.ini = .host → 100 ≤ w.chan) ∧
    ¬∀ w ∈ t.memx.holdWait, w.ini = .host → 100 ≤ w.chan := by decide +kernel

/-- DmaRuns: a copy that is done and whose last write waits, and one that has still to be done. -/
theorem witness_copied :
    let c : DmaChan := { DmaChan.fresh with copied := true }
    let t := (dmaState 2 c).modMemx fun m => { m with holdWait := [⟨.dma, 5, 0x01000000, [1]⟩] }
    t.dmState 5 = 2 ∧ (t.dmaChan 5).copied = true ∧ t.waitsBehind .dma 5 = true ∧
    ((dmaState 2 DmaChan.fresh).dmaChan 5).copied = false ∧ (dmaState 2 c).waitsBehind .dma 5 = false := by decide +kernel

/-- UpdateCommands: a configuration that may start, and one that a recovery start without a CONFIRMED image keeps out. -/
theorem witness_start_configuration :
    let b := fun x : Boot => { x with held := [(0, [1, 2, 3])], running := some imageNow }
    let s (r : Nat) := (bootState [(F.SYS_BOOT_recovery, r)] b).startCfg 0
    s 0 = some [1, 2, 3] ∧ s 1 = none := by decide +kernel

/-- FaultsAndFailsafe: an entry whose block has come with a crossfade that runs, latches cleared of each kind. -/
theorem witness_entry :
    let s := (runsAt 192 []).setDest 7 ⟨5, 5, false, 0, [⟨1, 0, 5, 0, 190, 16, 0, false⟩], none⟩
    liveFades s.now (s.dest 7).fades ≠ [] ∧ (∀ e ∈ s.xrd.dests, e.2.deferred = none) ∧ s.flt.enterAt ≤ s.now ∧
    (9 ∉ s.flt.escalated ∧ faultClass 9 < 2) := by decide +kernel

/-- RollAndDumps: a buffer in the Cellar and one outside it, a source's first report, an engine that has halted for the dump and one
that has not. -/
theorem witness_buffers :
    let s := cellarAt []
    s.inCellar 0x100000000 0x20000 = true ∧ s.inCellar 0x11FFFFFFF 2 = false ∧ assoc? s.flt.first 5 = none ∧
    assoc? [((5 : Nat), (1 : Nat))] 5 ≠ none ∧ s.running = false ∧
    ((runsAt 16 []).running = true ∧ (runsAt 16 []).on F.FLT_STATE_dump_halt = false) ∧ (regsAt [(F.FLT_STATE_dump_halt, 1)]).on F.FLT_STATE_dump_halt = true := by
  decide +kernel

/-! ### The block -/

/-- StepTakesTheFront and StepKeepsInvariant: a command waits at the front, and the step completes. -/
theorem witness_step :
    let s : State := { State.reset with pending := [.sampleStrobe, .blockStart] }
    s.pending = .sampleStrobe :: [.blockStart] ∧ ∃ t, step s = .next t ∧ t.pending = [.blockStart] := ⟨rfl, _, rfl, rfl⟩

/-- CommandFrames: a command that completes. -/
theorem witness_completes : ∃ t, exec .sampleStrobe State.reset = .next t := ⟨_, rfl⟩
end Sys2Proof.Tests
end

section
/-! PROOFS. RegisterAccess: how a plain register write reaches its page, and the Standby's write to a register that the rate does
not have. A Standby counts a dropped write by the fields that are writable at the rate in force (R72, R345), and the statement by those
of the register map. -/
namespace Sys2Proof.Machine

/-! ### A write request to a register page -/

/-- A word survives its four bytes. -/
theorem ofLe_leBytes_four (v : Nat) : ofLe (leBytes 4 v) = v % 2 ^ 32 := by
  simp only [leBytes, ofLe, BitVec.toNat_ofNat]
  omega

/-- The page list ends before page 0x0D2 (R459). -/
theorem lt_of_pageExists {p : Nat} (hp : pageExists p = true) : p < 0x0D2 := by
  simp only [pageExists, Bool.or_eq_true, Bool.and_eq_true, decide_eq_true_eq, beq_iff_eq] at hp
  omega

theorem pageOf_pageAddr {p o : Nat} (ho : o < 0x1000) : pageOf (pageAddr p o) = p := by
  unfold pageOf pageAddr
  omega

theorem offOf_pageAddr {p o : Nat} (ho : o < 0x1000) : offOf (pageAddr p o) = o := by
  unfold offOf pageAddr
  omega

/-- Register pages lie behind the two bridges (R420). -/
theorem fabTarget_pageAddr {p o : Nat} (hp : p < 0x0D2) (ho : o < 0x1000) :
    fabTarget (pageAddr p o) = 4 ∨ fabTarget (pageAddr p o) = 5 := by
  have hlo : 0x10000000 ≤ pageAddr p o := by unfold pageAddr; omega
  have hhi : pageAddr p o < 0x11000000 := by unfold pageAddr; omega
  generalize pageAddr p o = a at hlo hhi ⊢
  have hgranary : ¬(inGranary a = true ∨ aliasBase ≤ a) := by
    simp only [inGranary, aliasBase, Bool.and_eq_true, decide_eq_true_eq]
    omega
  rw [fabTarget, if_neg hgranary, if_neg (by omega), if_neg (by omega), if_neg (by omega)]
  by_cases hbridge : a < 0x10080000
  · exact .inl (if_pos ⟨hlo, hbridge⟩)
  · rw [if_neg (by omega), if_pos (by omega)]
    exact .inr rfl

/-- A page address is no alias window. -/
theorem State.resolveAlias_pageAddr (s : State) {p o : Nat} (hp : p < 0x0D2) (ho : o < 0x1000) :
    s.resolveAlias (pageAddr p o) = pageAddr p o := by
  rw [State.resolveAlias, if_pos (by unfold pageAddr aliasBase; omega)]

/-- Four aligned bytes are one beat (R423). -/
theorem pageBeats_word (a : Nat) : pageBeats 4 a 4 = [(a, 4)] := by
  simp [pageBeats]

/-- A 4-byte write behind the bridges, at an address of a page that answers, is one beat to that page (R423). -/
theorem State.fabWrite_word {s : State} {a : Nat} (halias : s.resolveAlias a = a) (htarget : fabTarget a = 4 ∨ fabTarget a = 5)
    (hregion : ¬(a < 0x10000 ∨ 0x20000000 ≤ a)) (hstrong : ¬(strBase ≤ a ∧ a < strEnd)) (hanswers : s.pageAnswers a = true)
    (hsize : pageSize a 4 = true) (ini : Initiator) (v chan : Nat) :
    s.fabWrite ini a (leBytes 4 v) (.done []) chan = (.done, s.writeBeat ini (a, 4) (v % 2 ^ 32)) := by
  have hlen : (leBytes 4 v).length = 4 := rfl
  have htake : ofLe (((leBytes 4 v).drop (a - a)).take 4) = v % 2 ^ 32 := by
    rw [Nat.sub_self, List.drop_zero, List.take_of_length_le (Nat.le_of_eq hlen), ofLe_leBytes_four]
  rw [State.fabWrite, halias, hlen, if_neg TargetAnswer.noConfusion, if_neg (by omega), if_neg (by omega), if_neg (by omega),
    if_neg (by omega), if_neg (by omega), if_neg (by omega), if_neg (by omega), if_neg hregion, if_neg hstrong, if_neg (by simp [hanswers]),
    if_neg (by simp [hsize]), pageBeats_word, List.foldl_cons, List.foldl_nil, htake]

/-- A 4-byte write to a page that answers is a write to its register (R423). -/
theorem State.fabWrite_register {s : State} {p o : Nat} (hp : pageExists p = true) (hon : s.pageOn p = true) (ho : o < 0x1000)
    (h4 : o % 4 = 0) (ini : Initiator) (v chan : Nat) :
    s.fabWrite ini (pageAddr p o) (leBytes 4 v) (.done []) chan = (.done, s.pageWrite ini p o (v % 2 ^ 32)) := by
  have hlt := lt_of_pageExists hp
  have hanswers : s.pageAnswers (pageAddr p o) = true := by simp [State.pageAnswers, pageOf_pageAddr ho, hp, hon]
  have haligned : pageAddr p o % 4 = 0 := by unfold pageAddr; omega
  have hsize : pageSize (pageAddr p o) 4 = true := by simp [pageSize, haligned]
  rw [State.fabWrite_word (s.resolveAlias_pageAddr hlt ho) (fabTarget_pageAddr hlt ho) (by unfold pageAddr; omega)
    (by unfold pageAddr strBase strEnd; omega) hanswers hsize]
  simp [State.writeBeat, pageOf_pageAddr ho, offOf_pageAddr ho]

/-- A request that nothing holds back is performed (R421, R424, R425). -/
theorem State.acceptReq_eq_runReq {s : State} {r : FabReq} (first : Bool) (hshut : s.portShut r.ini = false)
    (hquar : bitAt (s.rd F.FAB_QUAR_ports) r.ini.port = false)
    (hbefore : ∀ x ∈ s.fab.outstanding ++ s.fab.held, ¬(x.ini = r.ini ∧ x.chan = r.chan))
    (hwaits : s.waitsBehind r.ini r.chan = false) (hport : s.portOut r.ini.port < 32) (hfab : s.fab.outstanding.length < 256) :
    s.acceptReq r first = s.runReq r := by
  have hnone : (s.fab.outstanding ++ s.fab.held).filter (sameSource r) = [] := by
    rw [List.filter_eq_nil_iff]
    intro x hx hsame
    simp only [sameSource, Bool.and_eq_true, beq_iff_eq] at hsame
    exact hbefore x hx ⟨hsame.1.symm, hsame.2.symm⟩
  simp only [State.acceptReq, hshut, hquar, hnone, hwaits]
  simp [Nat.not_le.mpr hport, Nat.not_le.mpr hfab]

/-- The register of a port's peak of outstanding requests. -/
theorem fabOutPeak_key (m : Nat) : F.FAB_OUT_peak.key 0 m = 0x8050 + 4 * m := by
  simp [F.FAB_OUT_peak, Fld.key]

/-- Counting a port's outstanding requests changes no field of another page. -/
theorem State.rd_peak_fabOut (s : State) (f : Fld) (n i v : Nat) (ini : Initiator) (hf : f.key n i < 0x8000 ∨ 0x9000 ≤ f.key n i) :
    (s.peak F.FAB_OUT_peak v 0 ini.port).rd f n i = s.rd f n i := by
  have hport : ini.port < 6 := by cases ini <;> decide
  exact State.rd_wr (.inl (by rw [fabOutPeak_key]; omega))

theorem State.pageOn_peak_fabOut (s : State) (p v : Nat) (ini : Initiator) :
    (s.peak F.FAB_OUT_peak v 0 ini.port).pageOn p = s.pageOn p := by
  unfold State.pageOn State.domainOn
  split
  · rfl
  · rename_i d _
    rw [s.rd_peak_fabOut (F.PWR_STATE_on.part d 1) 0 0 v ini (.inl (show F.PWR_STATE_on.key 0 0 < 0x8000 by decide))]

/-- REGISTER_WRITE on a free path: the port's peak is counted, the page takes the write, and the answer is no error. -/
theorem exec_registerWrite {s : State} {ini : Initiator} {p x : Nat} {v : Word} (hshut : s.portShut ini = false)
    (hquar : bitAt (s.rd F.FAB_QUAR_ports) ini.port = false)
    (hbefore : ∀ r ∈ s.fab.outstanding ++ s.fab.held, ¬(r.ini = ini ∧ r.chan = 0))
    (hwaits : s.waitsBehind ini 0 = false) (hport : s.portOut ini.port < 32) (hfab : s.fab.outstanding.length < 256)
    (hp : pageExists p = true) (hon : s.pageOn p = true) (hx : x < 0x400) (h4 : x % 4 = 0) :
    exec (.registerWrite ini p x v) s =
      .next (((s.peak F.FAB_OUT_peak (s.portOut ini.port + 1) 0 ini.port).pageWrite ini p x v.toNat).respond ini 0) := by
  have hexec : exec (.registerWrite ini p x v) s =
    .next (s.acceptReq ⟨ini, 0, true, pageAddr p (x % 0x400), 4, leBytes 4 v.toNat, .done []⟩ true) := rfl
  have hon' := (s.pageOn_peak_fabOut p (s.portOut ini.port + 1) ini).trans hon
  rw [hexec, State.acceptReq_eq_runReq _ hshut hquar hbefore hwaits hport hfab, Nat.mod_eq_of_lt hx]
  simp only [State.runReq, State.fabWrite_register hp hon' (by omega : x < 0x1000) h4, Nat.mod_eq_of_lt v.isLt]
  simp [State.answerReq]

/-! ### Registers that the rate does not have -/

/-- Registers of a generator that the rate does not have are RSV (R72): no row answers there. -/
theorem State.rowAt_generator_absent {s : State} {g : Nat} (hg : 64 / s.mult ≤ g) :
    s.rowAt 0x03A (0x040 + 12 * g) = none := by
  have hle : 64 / s.mult ≤ (0x040 + 12 * g - 0x040) / 12 := by omega
  rw [State.rowAt, if_pos ⟨rfl, by omega, hle⟩]

/-- A plain write of 0 to a reserved offset of an open page changes and counts nothing (R463), on a Standby too. -/
theorem State.pageWrite_zero_reserved {s : State} {p x : Nat} (ini : Initiator) (hx : x < 0x400) (hrow : s.rowAt p x = none)
    (hlock : s.on F.LOCK_locked p = false) : s.pageWrite ini p x 0 = s := by
  simp [State.pageWrite, Nat.mod_eq_of_lt hx, Nat.div_eq_of_lt hx, hrow, hlock]

/-- A Standby at rate multiple 2, where generators 0 to 31 exist, with every domain on. -/
def standbyAtDoubleRate : State :=
  ((State.reset.wr F.PWR_STATE_on 0xFFFF).wr F.ENG_RATE_multiple 1).wr F.NBR_STATE_role 2

/-- The register map's row of the generators' XRD_GEN_CTRL (R72). -/
def genCtrlRow : RegRow := ⟨0x040, 64, 12, 0, 0xFFFF0007, 0, 0, 0, 0, 0x80000000⟩

/-- A host's write of 0 to XRD_GEN_CTRL32 there counts no dropped write. -/
theorem standbyAtDoubleRate_registerWrite {t : State} (ht : exec (.registerWrite .host 0x03A 0x1C0 0) standbyAtDoubleRate = .next t) :
    t.rd F.NBR_COUNTS_driven_drop = 0 := by
  have hrow : (standbyAtDoubleRate.peak F.FAB_OUT_peak (standbyAtDoubleRate.portOut Initiator.host.port + 1) 0
      Initiator.host.port).rowAt 0x03A 0x1C0 = none := State.rowAt_generator_absent (g := 32) (by decide +kernel)
  rw [exec_registerWrite (by decide +kernel) (by decide +kernel) (by decide +kernel) (by decide +kernel) (by decide +kernel)
    (by decide +kernel) (by decide +kernel) (by decide +kernel) (by decide) (by decide), show (0 : Word).toNat = 0 from rfl,
    State.pageWrite_zero_reserved .host (by decide) hrow (by decide +kernel)] at ht
  obtain rfl := Host.Outcome.next.inj ht
  rw [State.rd_respond, State.rd_peak_fabOut _ _ _ _ _ _ (by decide)]
  decide +kernel

/-- Refutes O48: the clause of the Standby's drop. At rate multiple 2 generator 32 does not exist and its registers are RSV (R72), so a
write of 0 to XRD_GEN_CTRL32 is neither dropped nor counted (R345, R463), though its page is pair-driven and the register map has
writable bits there. -/
theorem not_registerAccess : ¬ Obligations.RegisterAccess := by
  unfold Obligations.RegisterAccess
  intro h
  obtain ⟨-, haccess⟩ := h standbyAtDoubleRate .host 0x03A 0x1C0 0 genCtrlRow
  obtain ⟨-, -, hstandby, -⟩ := haccess (by decide +kernel) (by decide +kernel)
  obtain ⟨t, ht, -, -, -, hdrop⟩ := hstandby (by decide +kernel) (by decide +kernel) (by decide +kernel) (by decide +kernel)
    (by decide +kernel) (by decide +kernel)
  have hzero : standbyAtDoubleRate.rd F.NBR_COUNTS_driven_drop = 0 := by decide +kernel
  rw [standbyAtDoubleRate_registerWrite ht, hzero] at hdrop
  exact absurd hdrop (by decide)

end Sys2Proof.Machine
end

section
/-! PROOFS. Crossroads commands: route changes and test generators (chapter 2). -/
namespace Sys2Proof.Machine

/-! ### Deferred route changes -/

/-- A deferred change whose sample has come, with no swap's routes before it, begins (R59, R125). -/
theorem exec_deferredRouteChange_due {s : State} {d c : Nat} (hdeferred : (s.dest d).deferred = some c) (hdue : c ≤ s.now)
    (hswap : s.swapBefore c = false) : exec (.deferredRouteChange d) s = .next (s.beginDeferred d) := by
  change execDeferredRouteChange d s = _
  simp [execDeferredRouteChange, hdeferred, hdue, hswap]

/-- The older fade of destination 7 in `listedTwice`, which ends at sample 16. -/
def olderFade : RFade := ⟨1, 0, 2, 0, 0, 16, 0, false⟩

/-- The newer fade of destination 7 in `listedTwice`, which runs past sample 16. -/
def newerFade : RFade := ⟨2, 0, 3, 0, 8, 480, 0, false⟩

/-- A destination at source 3 in two fades, whose change to source 5 is deferred to sample 16. -/
def deferredDest : Dest := ⟨5, 3, false, 0, [olderFade, newerFade], some 16⟩

/-- The engine at sample 16, with destination 7 listed twice among the destinations in force. -/
def listedTwice : State :=
  { State.reset with
    eng := { State.reset.eng with esi := 16 }
    xrd := { State.reset.xrd with dests := [(7, deferredDest), (7, deferredDest)] } }

/-- The change begins in the first of the two entries, and the second, whose change still waits, takes its place. -/
theorem listedTwice_beginDeferred : ((listedTwice.beginDeferred 7).dest 7).deferred = some 16 := by decide +kernel

/-- Refutes O22: the clause of the deferred change that begins. Unlike the clauses of a patch-table entry it does not ask that the
destinations in force are listed once each, in rising order, as `setDest` lists them. Where destination 7 is listed twice, its deferral
still stands after the change. -/
theorem not_routeChanges : ¬ Obligations.RouteChanges := by
  unfold Obligations.RouteChanges
  intro h
  obtain ⟨-, -, -, -, hdeferred⟩ := h listedTwice 7
  obtain ⟨-, hbegins⟩ := hdeferred 16 (by decide +kernel)
  obtain ⟨t, ht, hnone, -⟩ := hbegins olderFade newerFade (by decide +kernel) (by decide +kernel) (by decide +kernel)
    (by decide) (by decide) (by decide) (by decide +kernel)
  rw [exec_deferredRouteChange_due (c := 16) (by decide +kernel) (by decide +kernel) (by decide +kernel)] at ht
  obtain rfl := Host.Outcome.next.inj ht
  rw [listedTwice_beginDeferred] at hnone
  cases hnone

/-! ### Test generators -/

/-- A mode write to a generator that the rate does not have changes nothing (R72, log entry 10). -/
theorem exec_genModeWrite_absent {s : State} {g : Nat} (hg : s.numGens ≤ g) (v : Word) :
    exec (.genModeWrite g v) s = .next s := by
  change execGenModeWrite g v s = _
  simp [execGenModeWrite, Nat.not_lt.mpr hg]

/-- The registers at reset but for the rate multiple, which is 2: generators 0 to 31 exist. -/
def doubleRate : State := State.reset.wr F.ENG_RATE_multiple 1

/-- Refutes O23: the clause of the mode write, claimed of every generator below 64. At rate multiple 2 generator 32 does not exist and
its registers are RSV (R72), so a write of mode 1 leaves its mode field 0. -/
theorem not_generators : ¬ Obligations.Generators := by
  unfold Obligations.Generators
  intro h
  obtain ⟨-, hwrites, -⟩ := h doubleRate 32 1
  obtain ⟨⟨t, ht, hmode, -⟩, -⟩ := hwrites (by decide)
  rw [exec_genModeWrite_absent (by decide +kernel)] at ht
  obtain rfl := Host.Outcome.next.inj ht
  have hzero : doubleRate.rd F.XRD_GEN_CTRL_mode 0 32 = 0 := by decide +kernel
  rw [hzero] at hmode
  exact absurd hmode (by decide)

end Sys2Proof.Machine
end

section
/-! PROOFS. Scene commands: the carry-forward copy (chapter 4). It copies at the offsets of the words in force, each with the word's own
four bytes, so an offset that is no multiple of 4 makes it write into the words on either side. -/
namespace Sys2Proof.Machine

/-! ### The carry-forward copy -/

/-- The copy of an arm in next-boundary mode is whole: ready sets and the swap sample is the boundary two blocks on (R120, R121). -/
theorem exec_carryForwardReady_nextBoundary {s : State} (hphase : s.rd F.SCN_STATE_phase = 1) (hmode : s.lv F.SCN_ARM_mode = 1) :
    exec .carryForwardReady s =
      .next (((s.carryForward.wr F.SCN_STATE_phase 2).wr F.SCN_STATE_ready 1).fixSwap s.now ((s.now / s.blockLen + 2) * s.blockLen)) := by
  change execCarryForwardReady s = _
  simp [execCarryForwardReady, hphase, hmode]

/-- A destination at source 3 whose change to source 5 is deferred to sample 16. -/
def waitingDest : Dest := ⟨5, 3, false, 0, [], some 16⟩

/-- A scene whose patch table lies at bank offset 0x700002: the layout record places the table at any byte offset (R493), and no check
of R495 asks for a multiple of 4. -/
def oddPatchTable : State :=
  { State.reset.wr F.XRD_PATCH_OFS_offset 0x700002 with xrd := { State.reset.xrd with dests := [(0, waitingDest)] } }

/-- A restart there has cancelled the deferred change, which puts destination 0's entry in force again at 0x700002 (R16, R380), and a
swap is then armed: Next, bank B, is locked and the copy runs. -/
def oddPatchArmed : State := (oddPatchTable.cancelRoutes.lockBank 1 1).wr F.SCN_STATE_phase 1

/-- The one word in force is the entry, which names source 3. -/
theorem oddPatchArmed_force : oddPatchArmed.scn.force = [(0x700002, 3)] := by decide +kernel

/-- The word of Next at 0x700000, which holds 0 as the word in force there does, takes the low half of the entry. -/
theorem oddPatchArmed_ready_load :
    (((oddPatchArmed.carryForward.wr F.SCN_STATE_phase 2).wr F.SCN_STATE_ready 1).fixSwap oddPatchArmed.now
      ((oddPatchArmed.now / oddPatchArmed.blockLen + 2) * oddPatchArmed.blockLen)).load (bankBase 1 + 0x700000) 4 = 0x30000 := by
  decide +kernel

/-- Refutes O24: the clause of the whole carry-forward copy, claimed of every word of Next at a multiple of 4. Where the word in force
lies at offset 0x700002, the copy writes it across the words 0x700000 and 0x700004 of Next, and the word at 0x700000 no longer holds
the value in force, 0. -/
theorem not_swaps : ¬ Obligations.Swaps := by
  unfold Obligations.Swaps
  rintro ⟨hswap, -⟩
  obtain ⟨-, hready, -⟩ := hswap oddPatchArmed
  have hphase : oddPatchArmed.rd F.SCN_STATE_phase = 1 := by decide +kernel
  obtain ⟨t, ht, -, -, -, -, -, -, -, hwords, -⟩ := hready hphase
  rw [exec_carryForwardReady_nextBoundary hphase (by decide +kernel)] at ht
  obtain rfl := Host.Outcome.next.inj ht
  have hcopied := hwords 0x700000 (by decide) (by decide)
  have hlive : oddPatchArmed.liveBank = 0 := by decide +kernel
  have hnext : oddPatchArmed.load (bankBase 1 + 0x700000) 4 = 0 := by decide +kernel
  have hforce : oddPatchArmed.force 0x700000 = 0 := by simp [State.force, oddPatchArmed_force, sparseGet]
  rw [hlive, hnext, hforce, oddPatchArmed_ready_load, Nat.zero_and, Nat.zero_and] at hcopied
  exact absurd hcopied (by decide)

end Sys2Proof.Machine
end

section
/-! PROOFS. MillDebugging: hung Mills and their reload, the breakpoint, and the debug writes (chapter 7). -/
namespace Sys2Proof.Machine

variable {s : State} {n : Nat}

/-! ### Registers of a MIL page, and a Mill read through other updates -/

/-- On one page, a write of a field leaves the fields of other registers and the other bits of its own. -/
theorem State.rd_wr_page {f g : Fld} {v : Nat}
    (h : g.page = f.page ∧ (g.off ≠ f.off ∨ (f.lo + f.width ≤ 32 ∧ (g.lo + g.width ≤ f.lo ∨ f.lo + f.width ≤ g.lo)))) :
    (s.wr f v n).rd g n = s.rd g n := by
  obtain ⟨hpage, hoff | hbits⟩ := h
  · exact State.rd_wr (.inl (by unfold Fld.key; omega))
  · exact State.rd_wr (.inr hbits)

/-- Events of a MIL page leave its other registers. -/
theorem State.rd_raise_mil {f : Fld} {e : Nat} (hn : n < 16) (hf : f.page = 0x040 ∧ f.off ≠ 0x10 ∧ f.off < 0x1000) :
    (s.raise (0x040 + n) e).rd f n = s.rd f n := by
  obtain ⟨hpage, hoff, hlt⟩ := hf
  exact State.rd_raise (by unfold Fld.key; omega) (by unfold Fld.key; omega)

@[simp] theorem State.mill_wr (f : Fld) (v m i k : Nat) : (s.wr f v m i).mill k = s.mill k := (rfl)

theorem State.mill_congr {t : State} (h : t.mil = s.mil) (k : Nat) : t.mill k = s.mill k := by
  rw [State.mill, State.mill, h]

@[simp] theorem State.mill_raise (p e k : Nat) : (s.raise p e).mill k = s.mill k := State.mill_congr (State.raise_mil ..) k

@[simp] theorem State.mill_setMill_same (m : Mill) : (s.setMill n m).mill n = m := by rw [State.mill_setMill, if_pos rfl]

/-- The later of two values put for a key stands. -/
theorem assocPut_assocPut {β : Type} (l : List (Nat × β)) (k : Nat) (x y : β) :
    assocPut (assocPut l k x) k y = assocPut l k y := by
  induction l with
  | nil => simp [assocPut]
  | cons e t ih =>
    obtain ⟨a, w⟩ := e
    rcases Nat.lt_trichotomy k a with h | h | h
    · simp [assocPut, h]
    · simp [assocPut, h]
    · simp [assocPut, Nat.not_lt.mpr (Nat.le_of_lt h), Nat.ne_of_gt h, ih]

theorem State.setMill_setMill (x y : Mill) : (s.setMill n x).setMill n y = s.setMill n y := by
  simp only [State.setMill, assocPut_assocPut]

/-! ### The end of a program and the start of a block -/

/-- A Mill that is to halt at its EOB, by the debugger or after a stepped block, reads halted there (R226). -/
theorem State.rd_millEnd_halts (hn : n < 16) (h : s.on F.MIL_DEBUG_halt n = true ∨ (s.mill n).stepping = true) :
    (s.millEnd n).rd F.MIL_STATE_state n = 2 := by
  have hhalt : (s.on F.MIL_DEBUG_halt n || (s.mill n).stepping || s.on F.FLT_STATE_fatal) = true := by
    obtain h | h := h <;> simp [h]
  have hstate : ∀ t : State, ((t.wr F.MIL_STATE_state 2 n).raise (0x040 + n) 3).rd F.MIL_STATE_state n = 2 := fun t => by
    rw [State.rd_raise_mil hn (by decide), State.rd_wr_same (by decide)]; rfl
  simp only [State.millEnd, hhalt, if_true]
  split
  · rw [State.rd_wr (.inl (by simp only [Fld.key, F.MIL_STATE_state, F.FLT_STATE_dump_halt]; omega)), hstate]
  · exact hstate _

/-- The hand-over of MSW writes its two registers of the page (R199). -/
theorem State.rd_handMsw {f : Fld} (hf : f.page = 0x040 ∧ f.off ≠ 0x064 ∧ f.off ≠ 0x068) :
    (s.handMsw n).rd f n = s.rd f n := by
  obtain ⟨hpage, hmsw, hacc⟩ := hf
  rw [State.handMsw, State.rd_setMill, State.rd_wr_page ⟨hpage, .inl hacc⟩, State.rd_wr_page ⟨hpage, .inl hmsw⟩]

/-- A block that starts writes MSW and the debugger's program counter to the page, and nothing else of it (R170). -/
theorem State.rd_millRun {f : Fld} {b : Nat} (hf : f.page = 0x040 ∧ f.off ≠ 0x064 ∧ f.off ≠ 0x068 ∧ f.off ≠ 0x104) :
    (s.millRun n b).rd f n = s.rd f n := by
  obtain ⟨hpage, hmsw, hacc, hpc⟩ := hf
  simp only [State.millRun]
  rw [State.rd_wr_page ⟨hpage, .inl hpc⟩, State.rd_wr_page ⟨hpage, .inl hpc⟩, State.rd_setMill]
  split
  · rfl
  · exact State.rd_handMsw ⟨hpage, hmsw, hacc⟩

/-- The Mill at the start of a block: it runs the block from its first bundle (R170). -/
theorem State.mill_millRun (s : State) (n b : Nat) :
    ((s.millRun n b).mill n).busy = true ∧ ((s.millRun n b).mill n).pc = 0 ∧ ((s.millRun n b).mill n).block = b := by
  simp [State.millRun, Mill.fresh]

/-- A hung Mill that has been reloaded runs at the next block-start event (R223). -/
theorem State.millBlockStart_reloaded {b : Nat} (hhung : s.rd F.MIL_STATE_state n = 5) (hreloaded : (s.mill n).reloaded = true) :
    s.millBlockStart n b =
      ((s.setMill n { s.mill n with aborted := false, reloaded := false }).wr F.MIL_STATE_state 1 n).millRun n b := by
  simp [State.millBlockStart, hhung, hreloaded]

/-- A halted Mill with a step given runs the block as a stepped one (R226). -/
theorem State.millBlockStart_step (hhalted : s.rd F.MIL_STATE_state n = 2) (hidle : (s.mill n).busy = false)
    (hstep : (s.mill n).stepNext = true) (b : Nat) :
    (s.millBlockStart n b).rd F.MIL_STATE_state n = 3 ∧ ((s.millBlockStart n b).mill n).busy = true ∧
      ((s.millBlockStart n b).mill n).stepping = true := by
  have hstate (t : State) : ((t.wr F.MIL_STATE_state 3 n).millRun n b).rd F.MIL_STATE_state n = 3 := by
    rw [State.rd_millRun (by decide), State.rd_wr_same (by decide)]; rfl
  have hbusy (t : State) : ((t.millRun n b).mill n).busy = true := (State.mill_millRun t n b).1
  simp [State.millBlockStart, hhalted, hidle, hstep, State.rd_setMill, hstate, hbusy]

/-! ### The debug writes (R225–R228) -/

/-- The five bits that act, read off the value mod 32. -/
theorem bitAt_of_mod_32 {v x i : Nat} (hv : v % 32 = x) (hi : i < 5) : bitAt v i = bitAt x i := by
  rw [← hv, bitAt_eq_testBit, bitAt_eq_testBit, show 32 = 2 ^ 5 from rfl, Nat.testBit_mod_two_pow]
  simp [hi]

/-- Every debug command is the write of MIL_DEBUG with its value. -/
theorem exec_debugWrite {v : Word} {c : Instr} (hc : c ∈ [Instr.halt n v, .millStep n v, .bpEn n v, .cont n v, .bstep n v])
    (s : State) : exec c s = .next (s.millDebugWrite n v.toNat) := by
  simp only [List.mem_cons, List.not_mem_nil, or_false] at hc
  obtain rfl | rfl | rfl | rfl | rfl := hc <;> rfl

/-- Outside Maintenance a write that would act is refused (R225). -/
theorem State.millDebugWrite_refused {v : Nat} (hn : n < 16) (hservice : s.maintenance = false) (hv : v % 32 ≠ 0) :
    s.millDebugWrite n v = s.debugRefused n := by
  have hacts : bitsOf v 0 5 ≠ 0 := by simpa [bitsOf] using hv
  simp [State.millDebugWrite, Nat.not_le.mpr hn, hservice, hacts]

@[simp] theorem State.debugRefused_mil : (s.debugRefused n).mil = s.mil := by simp [State.debugRefused]

/-- A refused write is counted. -/
theorem State.rd_debugRefused_count (hn : n < 16) :
    (s.debugRefused n).rd F.MIL_DBG_REFUSED_count n = min (s.rd F.MIL_DBG_REFUSED_count n + 1) 0xFFFF := by
  rw [State.debugRefused, State.rd_raise_mil hn (by decide), State.bump, State.rd_wr_same (by decide)]
  simp only [F.MIL_DBG_REFUSED_count]
  omega

/-- A refused write is reported. -/
theorem State.raw_debugRefused : (s.debugRefused n).raw (0x040 + n) 7 = true := State.raw_raise_self _ _ (by decide)

/-- A refused write changes no other register of the page. -/
theorem State.rd_debugRefused {f : Fld} (hn : n < 16) (hf : f.page = 0x040 ∧ f.off ≠ 0x10 ∧ f.off < 0x1000 ∧ f.off ≠ 0x110) :
    (s.debugRefused n).rd f n = s.rd f n := by
  obtain ⟨hpage, hraw, hlt, hcount⟩ := hf
  rw [State.debugRefused, State.rd_raise_mil hn ⟨hpage, hraw, hlt⟩, State.bump, State.rd_wr_page ⟨hpage, .inl hcount⟩]

/-- MIL_DEBUG with the written values of its plain fields and of halt. -/
def State.debugTaken (s : State) (n v : Nat) : State :=
  ((s.wr F.MIL_DEBUG_bp_en (bitsOf v 2 1) n).debugFields n v).wr F.MIL_DEBUG_halt (bitsOf v 0 1) n

@[simp] theorem State.debugTaken_mil (v : Nat) : (s.debugTaken n v).mil = s.mil := by
  simp [State.debugTaken, State.debugFields]
@[simp] theorem State.debugTaken_mem (v : Nat) : (s.debugTaken n v).mem = s.mem := by
  simp [State.debugTaken, State.debugFields]
@[simp] theorem State.mill_debugTaken (v k : Nat) : (s.debugTaken n v).mill k = s.mill k :=
  State.mill_congr (State.debugTaken_mil v) k

/-- The other registers of the page are as before. -/
theorem State.rd_debugTaken {f : Fld} {v : Nat} (hf : f.page = 0x040 ∧ f.off ≠ 0x100) : (s.debugTaken n v).rd f n = s.rd f n := by
  obtain ⟨hpage, hoff⟩ := hf
  rw [State.debugTaken, State.debugFields, State.rd_wr_page ⟨hpage, .inl hoff⟩, State.rd_wr_page ⟨hpage, .inl hoff⟩,
    State.rd_wr_page ⟨hpage, .inl hoff⟩, State.rd_wr_page ⟨hpage, .inl hoff⟩]

theorem State.rd_debugTaken_bp_pc (v : Nat) : (s.debugTaken n v).rd F.MIL_DEBUG_bp_pc n = v / 32 % 2 ^ 13 := by
  rw [State.debugTaken, State.debugFields, State.rd_wr_page (by decide), State.rd_wr_page (by decide), State.rd_wr_same (by decide)]
  simp [F.MIL_DEBUG_bp_pc, bitsOf]

theorem State.rd_debugTaken_bp_hit (v : Nat) : (s.debugTaken n v).rd F.MIL_DEBUG_bp_hit n = v / 2 ^ 18 % 2 ^ 10 := by
  rw [State.debugTaken, State.debugFields, State.rd_wr_page (by decide), State.rd_wr_same (by decide)]
  simp [F.MIL_DEBUG_bp_hit, bitsOf]

theorem State.on_debugTaken_bp_en (v : Nat) : (s.debugTaken n v).on F.MIL_DEBUG_bp_en n = bitAt v 2 := by
  rw [State.on, State.debugTaken, State.debugFields, State.rd_wr_page (by decide), State.rd_wr_page (by decide),
    State.rd_wr_page (by decide), State.rd_wr_same (by decide)]
  simp [F.MIL_DEBUG_bp_en, bitsOf, bitAt]

theorem State.on_debugTaken_halt (v : Nat) : (s.debugTaken n v).on F.MIL_DEBUG_halt n = bitAt v 0 := by
  rw [State.on, State.debugTaken, State.rd_wr_same (by decide)]
  simp [F.MIL_DEBUG_halt, bitsOf, bitAt]

/-- What halt does once MIL_DEBUG holds it: with 1 a running idle Mill is halted at once, with 0 a halted one resumes (R226, R228). -/
def State.haltActs (s : State) (n : Nat) (halt : Bool) : State :=
  if halt then
    if s.rd F.MIL_STATE_state n = 1 ∧ !(s.mill n).busy then (s.wr F.MIL_STATE_state 2 n).raise (0x040 + n) 3 else s
  else s.millResume n

theorem State.haltWrite_eq (v : Nat) :
    s.haltWrite n v = (s.wr F.MIL_DEBUG_halt (bitsOf v 0 1) n).haltActs n (bitAt v 0) := (rfl)

/-- halt acts on no register of the page but MIL_STATE and IRQ_RAW. -/
theorem State.rd_haltActs {f : Fld} {halt : Bool} (hn : n < 16)
    (hf : f.page = 0x040 ∧ f.off ≠ 0x10 ∧ f.off < 0x1000 ∧ f.off ≠ 0x040) : (s.haltActs n halt).rd f n = s.rd f n := by
  obtain ⟨hpage, hraw, hlt, hoff⟩ := hf
  have hstate (x : Nat) : (s.wr F.MIL_STATE_state x n).rd f n = s.rd f n := State.rd_wr_page ⟨hpage, .inl hoff⟩
  unfold State.haltActs State.millResume
  split
  · split
    · rw [State.rd_raise_mil hn ⟨hpage, hraw, hlt⟩, hstate]
    · rfl
  · split
    · exact hstate _
    · rfl

theorem State.rd_stepWrite (f : Fld) : (s.stepWrite n).rd f n = s.rd f n := by
  unfold State.stepWrite
  split <;> rfl

/-- In Maintenance a write takes its fields, then halt, step, cont and bstep act in that order (R225–R227). -/
theorem State.millDebugWrite_maintenance {v x : Nat} (hn : n < 16) (hservice : s.maintenance = true) (hv : v % 32 = x) :
    s.millDebugWrite n v =
      let halted := (s.debugTaken n v).haltActs n (bitAt x 0)
      let stepped := if bitAt x 1 then halted.stepWrite n else halted
      let resumed := if bitAt x 3 then stepped.contWrite n else stepped
      if bitAt x 4 then resumed.bstepWrite n else resumed := by
  have hbit {i : Nat} (hi : i < 5) : bitAt v i = bitAt x i := bitAt_of_mod_32 hv hi
  simp [State.millDebugWrite, Nat.not_le.mpr hn, hservice, State.haltWrite_eq, State.debugTaken, hbit]

/-- Without cont and bstep, a write leaves in MIL_DEBUG the written values. -/
theorem State.rd_millDebugWrite {f : Fld} {v : Nat} (hn : n < 16) (hservice : s.maintenance = true) (hv : v % 32 < 8)
    (hf : f.page = 0x040 ∧ f.off = 0x100) : (s.millDebugWrite n v).rd f n = (s.debugTaken n v).rd f n := by
  have hcont : bitAt (v % 32) 3 = false := by simp [bitAt, Nat.div_eq_of_lt hv]
  have hbstep : bitAt (v % 32) 4 = false := by simp [bitAt, Nat.div_eq_of_lt (Nat.lt_trans hv (by decide : 8 < 16))]
  rw [State.millDebugWrite_maintenance hn hservice rfl]
  simp only [hcont, hbstep, Bool.false_eq_true, if_false]
  split
  · rw [State.rd_stepWrite, State.rd_haltActs hn (by omega)]
  · exact State.rd_haltActs hn (by omega)

/-- halt on a running idle Mill: it is halted at once (R226). -/
theorem State.millDebugWrite_halt_idle {v : Nat} (hn : n < 16) (hservice : s.maintenance = true) (hv : v % 32 = 1)
    (hstate : s.rd F.MIL_STATE_state n = 1) (hidle : (s.mill n).busy = false) :
    s.millDebugWrite n v = ((s.debugTaken n v).wr F.MIL_STATE_state 2 n).raise (0x040 + n) 3 := by
  rw [State.millDebugWrite_maintenance hn hservice hv]
  simp [bitAt, State.haltActs, State.rd_debugTaken (show F.MIL_STATE_state.page = 0x040 ∧ _ by decide), hstate, hidle]

/-- halt on a running busy Mill: it stays running, with halt set for its EOB (R226). -/
theorem State.millDebugWrite_halt_busy {v : Nat} (hn : n < 16) (hservice : s.maintenance = true) (hv : v % 32 = 1)
    (hbusy : (s.mill n).busy = true) : s.millDebugWrite n v = s.debugTaken n v := by
  rw [State.millDebugWrite_maintenance hn hservice hv]
  simp [bitAt, State.haltActs, hbusy]

/-- halt and step on a halted Mill: the step is given (R226). -/
theorem State.millDebugWrite_step {v : Nat} (hn : n < 16) (hservice : s.maintenance = true) (hv : v % 32 = 3)
    (hstate : s.rd F.MIL_STATE_state n = 2) :
    s.millDebugWrite n v = (s.debugTaken n v).setMill n { s.mill n with stepNext := true } := by
  rw [State.millDebugWrite_maintenance hn hservice hv]
  simp [bitAt, State.haltActs, State.rd_debugTaken (show F.MIL_STATE_state.page = 0x040 ∧ _ by decide), hstate, State.stepWrite]

/-- bp_en alone on a Mill that is not halted: the breakpoint is armed (R227). -/
theorem State.millDebugWrite_bpEn {v : Nat} (hn : n < 16) (hservice : s.maintenance = true) (hv : v % 32 = 4)
    (hstate : s.rd F.MIL_STATE_state n ≠ 2) : s.millDebugWrite n v = s.debugTaken n v := by
  rw [State.millDebugWrite_maintenance hn hservice hv]
  simp [bitAt, State.haltActs, State.millResume, State.rd_debugTaken (show F.MIL_STATE_state.page = 0x040 ∧ _ by decide), hstate]

/-- cont alone on a frozen Mill: it issues again (R227). -/
theorem State.millDebugWrite_cont {v : Nat} (hn : n < 16) (hservice : s.maintenance = true) (hv : v % 32 = 8)
    (hstate : s.rd F.MIL_STATE_state n = 4) :
    s.millDebugWrite n v = (s.debugTaken n v).wr F.MIL_STATE_state (if (s.mill n).stepping then 3 else 1) n := by
  rw [State.millDebugWrite_maintenance hn hservice hv]
  simp [bitAt, State.haltActs, State.millResume, State.contWrite,
    State.rd_debugTaken (show F.MIL_STATE_state.page = 0x040 ∧ _ by decide), hstate]

/-- bstep alone on a frozen Mill that does not wait: one bundle issues, and the Mill is frozen again while its program runs (R227). -/
theorem State.millDebugWrite_bstep {v : Nat} (hn : n < 16) (hservice : s.maintenance = true) (hv : v % 32 = 16)
    (hstate : s.rd F.MIL_STATE_state n = 4) (hwait : (s.mill n).wait = .none) :
    s.millDebugWrite n v =
      let t := ((s.debugTaken n v).wr F.MIL_STATE_state (if (s.mill n).stepping then 3 else 1) n).issueBundle n
      if (t.mill n).busy then t.wr F.MIL_STATE_state 4 n else t := by
  rw [State.millDebugWrite_maintenance hn hservice hv]
  simp [bitAt, State.haltActs, State.millResume, State.bstepWrite, State.contWrite,
    State.rd_debugTaken (show F.MIL_STATE_state.page = 0x040 ∧ _ by decide), hstate, hwait]

/-! ### One bundle of no operations (R176, R227) -/

@[simp] theorem Mill.put_k (m : Mill) (r : MReg) (x : Nat) : (m.put r x).k = m.k := by cases r <;> rfl
@[simp] theorem Mill.put_busy (m : Mill) (r : MReg) (x : Nat) : (m.put r x).busy = m.busy := by cases r <;> rfl

/-- Writes that become visible change neither the bundle count nor whether a program runs. -/
theorem Mill.commit_k_busy (m : Mill) (free : Nat) : (m.commit free).k = m.k ∧ (m.commit free).busy = m.busy := by
  unfold Mill.commit
  refine keeps_foldl (P := fun t : Mill => t.k = m.k ∧ t.busy = m.busy) ⟨rfl, rfl⟩ fun t w ht => ?_
  rw [Mill.put_k, Mill.put_busy]
  exact ht

/-- A bundle in sequence, outside a loop, is complete: the next one is to issue (R194). -/
theorem State.mill_millAdvance_seq (hnext : (s.mill n).next = .seq) (hloops : (s.mill n).loops = [])
    (hpc : (s.mill n).pc < 8191) :
    ((s.millAdvance n).mill n).k = (s.mill n).k + 1 ∧ ((s.millAdvance n).mill n).pc = (s.mill n).pc + 1 ∧
      ((s.millAdvance n).mill n).busy = (s.mill n).busy := by
  have hmod : ((s.mill n).pc + 1) % 8192 = (s.mill n).pc + 1 := Nat.mod_eq_of_lt (by omega)
  simp only [State.millAdvance, hnext, hloops, loopNext, hmod, if_neg (show ¬8192 ≤ (s.mill n).pc + 1 by omega), State.mill_wr,
    State.mill_setMill_same]
  simp [Mill.commit_k_busy]

/-- A vector field of zeros is a NOP (R185). -/
theorem State.vecField_zero (mac1 : Bool) : s.vecField n mac1 0 = s.setMill n (s.mill n) := by
  simp [State.vecField, bitsOf, vecOpcode, State.vecRun]

/-- A load/store field of zeros is a NOP that updates no address register (R190). -/
theorem lsNop_zero : lsNop (lsFields n 0) s = s.setMill n (s.mill n) := by
  simp [lsNop, lsFields, bitsOf, bitAt, State.lsRun, Mill.agRun]

/-- A bundle of zeros does nothing but complete. -/
theorem State.issueBundle_zero (hbundle : s.load (0x09000000 + n * 0x20000 + 16 * (s.mill n).pc) 16 = 0)
    (hwait : (s.mill n).wait = .none) : s.issueBundle n = (s.setMill n (s.mill n)).millAdvance n := by
  have hbits (lo w : Nat) : bitsOf 0 lo w = 0 := by simp [bitsOf]
  simp [State.issueBundle, hbundle, hbits, State.vecField_zero, State.setMill_setMill, lsOpcode, lsNop_zero, scOpcode,
    State.scFinish, hwait]

/-- Memory alone decides what a load reads. -/
theorem State.load_congr {t : State} (h : t.mem = s.mem) (a len : Nat) : t.load a len = s.load a len := by
  simp only [State.load, State.bytes, State.byte, h]

/-- bstep on a frozen Mill at a bundle of zeros: exactly that bundle issues, and the Mill is frozen again (R227). -/
theorem State.bstep_zero_bundle {v : Nat} (hn : n < 16) (hservice : s.maintenance = true) (hv : v % 32 = 16)
    (hfrozen : s.rd F.MIL_STATE_state n = 4) (hbusy : (s.mill n).busy = true) (hwait : (s.mill n).wait = .none)
    (hnext : (s.mill n).next = .seq) (hloops : (s.mill n).loops = []) (hpc : (s.mill n).pc < 8191)
    (hbundle : s.load (0x09000000 + n * 0x20000 + 16 * (s.mill n).pc) 16 = 0) :
    (s.millDebugWrite n v).rd F.MIL_STATE_state n = 4 ∧ ((s.millDebugWrite n v).mill n).k = (s.mill n).k + 1 ∧
      ((s.millDebugWrite n v).mill n).pc = (s.mill n).pc + 1 ∧ ((s.millDebugWrite n v).mill n).busy = true := by
  have hissue : ((s.debugTaken n v).wr F.MIL_STATE_state (if (s.mill n).stepping then 3 else 1) n).issueBundle n =
      (((s.debugTaken n v).wr F.MIL_STATE_state (if (s.mill n).stepping then 3 else 1) n).setMill n (s.mill n)).millAdvance n := by
    rw [State.issueBundle_zero]
    · simp
    · rw [State.load_congr (s := s) (by simp)]
      simpa using hbundle
    · simpa using hwait
  rw [State.millDebugWrite_bstep hn hservice hv hfrozen hwait, hissue]
  generalize hframe : ((s.debugTaken n v).wr F.MIL_STATE_state (if (s.mill n).stepping then 3 else 1) n).setMill n (s.mill n) = t
  have hmill : t.mill n = s.mill n := by rw [← hframe, State.mill_setMill_same]
  obtain ⟨hk, hpc', hrun⟩ := State.mill_millAdvance_seq (s := t) (n := n) (by rw [hmill, hnext]) (by rw [hmill, hloops])
    (by rw [hmill]; exact hpc)
  rw [hmill] at hk hpc' hrun
  rw [hbusy] at hrun
  simp only [hrun, if_true, State.mill_wr, hk, hpc', and_true]
  rw [State.rd_wr_same (by decide)]
  rfl

/-! ### The breakpoint (R227) -/

/-- At its breakpoint a Mill freezes before the issue: the block is noted as debugged and the event is recorded. -/
theorem exec_breakpointFreeze_reached (hn : n < 16) (hbusy : (s.mill n).busy = true) (harmed : s.on F.MIL_DEBUG_bp_en n = true)
    (hpc : (s.mill n).pc = s.rd F.MIL_DEBUG_bp_pc n) (hhit : (s.mill n).bpSeen = s.rd F.MIL_DEBUG_bp_hit n)
    (hruns : s.rd F.MIL_STATE_state n = 1 ∨ s.rd F.MIL_STATE_state n = 3) :
    exec (.breakpointFreeze n) s = .next (((s.setMill n { s.mill n with
      debugged := if (s.mill n).debugged.contains (s.mill n).block then (s.mill n).debugged
        else (s.mill n).debugged ++ [(s.mill n).block] }).wr F.MIL_STATE_state 4 n).raise (0x040 + n) 3) := by
  change execBreakpointFreeze n s = _
  rw [execBreakpointFreeze, if_pos ⟨hn, hbusy, harmed, hpc, hhit, hruns⟩]

/-- Away from its breakpoint a Mill does not freeze. -/
theorem exec_breakpointFreeze_away (h : (s.mill n).busy = false ∨ s.on F.MIL_DEBUG_bp_en n = false ∨
    (s.mill n).pc ≠ s.rd F.MIL_DEBUG_bp_pc n ∨ (s.mill n).bpSeen ≠ s.rd F.MIL_DEBUG_bp_hit n) :
    exec (.breakpointFreeze n) s = .next s := by
  change execBreakpointFreeze n s = _
  rw [execBreakpointFreeze, if_neg]
  rintro ⟨-, hbusy, harmed, hpc, hhit, -⟩
  obtain h | h | h | h := h
  · simp [h] at hbusy
  · simp [h] at harmed
  · exact h hpc
  · exact h hhit

/-- A frozen Mill issues nothing. -/
theorem State.millIssues_frozen (h : s.rd F.MIL_STATE_state n = 4) : s.millIssues n = false := by
  simp [State.millIssues, h]

/-! ### Registers that a raised fault leaves (R511–R514) -/

/-- The Roll intake writes registers of the Roll's page and the message count only. -/
theorem State.reg_rollIn {src code cls d0 d1 j : Nat} {value : Option Nat} {firmware held : Bool}
    (hj : j < 0xB0000 ∨ 0xB1000 ≤ j) (hmsx : j ≠ 0xC1044) :
    (s.rollIn src code cls d0 d1 value firmware held).reg j = s.reg j := by
  have hraise (t : State) (e : Nat) : (t.raise 0x0B0 e).reg j = t.reg j := State.reg_raise (by omega) hmsx
  have hentries (t : State) (x : Nat) : (t.wr F.ROL_ENTRIES_value x).reg j = t.reg j :=
    State.reg_wr (by simp only [Fld.key, F.ROL_ENTRIES_value]; omega)
  have hfirst (t : State) (x : Nat) : (t.wr F.ROL_STATUS_first x).reg j = t.reg j :=
    State.reg_wr (by simp only [Fld.key, F.ROL_STATUS_first]; omega)
  have hmirror (t : State) (k : Nat) (e : RollEntry) : (t.mirrorEntry k e).reg j = t.reg j := by
    unfold State.mirrorEntry
    split
    · dsimp only
      rw [State.reg_setBytes, State.reg_setBytes]
      split
      · rw [State.reg_setBytes]
      · rfl
    · rfl
  have hentry (t : State) (e : RollEntry) : (t.rollEntry e).reg j = t.reg j := by
    simp only [State.rollEntry, hraise, hmirror, hfirst, hentries, State.reg_flt]
  simp only [State.rollIn]
  split
  · simp only [hentry, State.reg_flt]
  · simp only [hraise, State.reg_flt]

/-- A cancelled swap writes registers of the scene page and the message count only (R124). -/
theorem State.reg_cancelSwap {j : Nat} (hj : j < 0x31000 ∨ 0x32000 ≤ j) (hmsx : j ≠ 0xC1044) : s.cancelSwap.reg j = s.reg j := by
  have hwr {f : Fld} {x m : Nat} (t : State) (hf : f.page + m = 0x31 ∧ f.off < 0x1000) : (t.wr f x m).reg j = t.reg j := by
    obtain ⟨hpage, hoff⟩ := hf
    exact State.reg_wr (by unfold Fld.key; rw [hpage]; omega)
  have hlock (t : State) (k x : Nat) : (t.lockBank k x).reg j = t.reg j := by
    unfold State.lockBank
    split <;> exact hwr _ (by decide)
  unfold State.cancelSwap
  split
  · rw [State.reg_raise (by omega) hmsx, hwr _ (by decide), hwr _ (by decide), hwr _ (by decide), hlock, State.reg_scn]
  · rfl

/-- The XFADING bits of channels stand on the Churn's page (R157). -/
theorem State.reg_setXfading {vs : List Nat} {on : Bool} {j : Nat} (hvs : ∀ v ∈ vs, v < 128) (hj : j < 0x50000 ∨ 0x51000 ≤ j) :
    (s.setXfading vs on).reg j = s.reg j := by
  induction vs generalizing s with
  | nil => rfl
  | cons v vs ih =>
    have hv : v < 128 := hvs v (List.mem_cons_self ..)
    have hkey : j ≠ (F.CHN_XFADING_bits.part (v % 32) 1).key 0 (v / 32) := by
      simp only [Fld.key, Fld.part, F.CHN_XFADING_bits]
      omega
    exact (ih fun w hw => hvs w (List.mem_cons_of_mem _ hw)).trans (State.reg_wr hkey)

/-- A switch cancelled with its swap writes registers of the Churn's page only (R166). -/
theorem State.reg_cancelSwitchOfSwap {j : Nat} (hswitch : s.SwitchOk) (hj : j < 0x50000 ∨ 0x51000 ≤ j) :
    s.cancelSwitchOfSwap.reg j = s.reg j := by
  unfold State.cancelSwitchOfSwap
  split
  next w hw =>
    have hchans : ∀ v ∈ w.chans.map Prod.fst, v < 128 := by
      simp only [List.mem_map]
      rintro _ ⟨c, hc, rfl⟩
      exact hswitch w hw c hc
    split
    · simp only [State.endSwitch, hw]
      rw [State.reg_wr (by simp only [Fld.key, F.APPLY_RESULT_code]; omega), State.reg_setXfading hchans hj]
      rfl
    · rfl
  next => rfl

/-- A register that the actions of a latched fault leave: it stands on neither the scene nor the Churn's page, is FLT_LATCH if it
stands on the fault page, and is not the message count. -/
abbrev FaultApart (j : Nat) : Prop :=
  (j < 0x31000 ∨ 0x32000 ≤ j) ∧ (j < 0x50000 ∨ 0x51000 ≤ j) ∧ (j < 0xB1000 ∨ 0xB2000 ≤ j ∨ j = 0xB104C) ∧ j ≠ 0xC1044

/-- Fields of the fault page beside FLT_LATCH. -/
theorem State.reg_wr_fault {f : Fld} {x j : Nat} (hj : FaultApart j) (hf : f.page = 0xB1 ∧ f.off < 0x1000 ∧ f.off ≠ 0x4C) :
    (s.wr f x).reg j = s.reg j := by
  obtain ⟨hpage, hoff, hlatch⟩ := hf
  exact State.reg_wr (by unfold Fld.key; omega)

/-- The entry of fail-safe (R514, R516). -/
theorem State.reg_enterFailsafe {j : Nat} (hswitch : s.SwitchOk) (hj : FaultApart j) (id : Nat) :
    (s.enterFailsafe id).reg j = s.reg j := by
  have ⟨hscene, hchurn, hfault, hmsx⟩ := hj
  have hdeclare (t : State) : t.declareFault.reg j = t.reg j := by
    unfold State.declareFault
    split <;> rfl
  have hswitch' : s.cancelSwap.SwitchOk := by
    have hchn : s.cancelSwap.chn = s.chn := (State.cancelSwap_keeps (Keeps.refl [.regs, .scn, .host, .out] s) rfl).same .chn rfl
    unfold State.SwitchOk
    rw [hchn]
    exact hswitch
  unfold State.enterFailsafe
  extract_lets _ cancelled _ entering phased
  have hcancelled : cancelled.reg j = s.reg j := by
    subst cancelled
    split
    · rw [State.reg_cancelSwitchOfSwap hswitch' hchurn, State.reg_cancelSwap hscene hmsx]
    · rfl
  have hphased : phased.reg j = cancelled.reg j := by
    subst phased
    split
    · exact State.reg_wr_fault hj (by decide)
    · rfl
  split
  · rfl
  · rw [hdeclare, State.reg_raise (by omega) hmsx, State.bump, State.reg_wr_fault hj (by decide), State.reg_wr_fault hj (by decide),
      State.reg_wr_fault hj (by decide), hphased, hcancelled]

/-- Once its latch bit stands, a fault acts on the scene, the Churn's and the fault page only, and on FLT_LATCH no more (R511–R514). -/
theorem State.reg_raiseFault {j : Nat} (hswitch : s.SwitchOk) (hj : FaultApart j) (id : Nat) (active : Bool) (d0 : Nat) :
    (s.raiseFault id active d0).reg j =
      ((s.rollIn 0x0B1 id (faultClass id) d0 0 none false true).wr (F.FLT_LATCH_bits.part id 1) 1).reg j := by
  have hraise (t : State) (e : Nat) : (t.raise 0x0B1 e).reg j = t.reg j := State.reg_raise (by omega) (by omega)
  have hfatal (t : State) : (t.startFatal id).reg j = t.reg j := by
    unfold State.startFatal
    split
    · rfl
    · rw [State.reg_modFlt, hraise, State.bump, State.reg_wr_fault hj (by decide), State.reg_wr_fault hj (by decide)]
  unfold State.raiseFault
  extract_lets cls esc recorded latched activated _ escalated acted
  have hchn : escalated.chn = s.chn := by
    have hrecorded : recorded.chn = s.chn :=
      (State.rollIn_keeps (Keeps.refl [.regs, .mem, .host, .flt, .out] s) rfl _ _ _ _ _ _ _ _).same .chn rfl
    have hlatched : latched.chn = s.chn := (State.wr_chn ..).trans hrecorded
    have hactivated : activated.chn = s.chn := by
      subst activated
      split
      · exact (State.wr_chn ..).trans hlatched
      · exact hlatched
    subst escalated
    split
    · exact hactivated
    · exact hactivated
  have hescalated : escalated.reg j = latched.reg j := by
    have hactivated : activated.reg j = latched.reg j := by
      subst activated
      split
      · exact State.reg_wr_fault hj (by simp [Fld.part, F.FLT_ACTIVE_bits])
      · rfl
    subst escalated
    split
    · exact hactivated
    · exact hactivated
  have hacted : acted.reg j = escalated.reg j := by
    have hswitch' : escalated.SwitchOk := by
      unfold State.SwitchOk
      rw [hchn]
      exact hswitch
    subst acted
    split
    · exact State.reg_enterFailsafe hswitch' hj id
    · split
      · exact hraise _ _
      · rfl
  rw [State.showFaultN, State.reg_wr_fault hj (by decide)]
  split
  · rw [hfatal, hacted, hescalated]
  · rw [hacted, hescalated]

/-- The registers of the MIL pages are as before when a fault is raised. -/
theorem State.reg_raiseFault_mil {j : Nat} (hswitch : s.SwitchOk) (hj : 0x40000 ≤ j ∧ j < 0x50000) (id : Nat) (active : Bool)
    (d0 : Nat) : (s.raiseFault id active d0).reg j = s.reg j := by
  rw [State.reg_raiseFault hswitch (by omega),
    State.reg_wr (by simp only [Fld.key, Fld.part, F.FLT_LATCH_bits]; omega), State.reg_rollIn (by omega) (by omega)]

/-- A raised fault is latched (R511). -/
theorem State.latch_raiseFault (hswitch : s.SwitchOk) {id : Nat} (hid : id < 32) (active : Bool) (d0 : Nat) :
    (s.raiseFault id active d0).latch id = true := by
  have hkey : F.FLT_LATCH_bits.key 0 0 = (F.FLT_LATCH_bits.part id 1).key 0 0 := rfl
  have hfield : (F.FLT_LATCH_bits.part id 1).lo + (F.FLT_LATCH_bits.part id 1).width ≤ 32 := by
    simp only [Fld.part, F.FLT_LATCH_bits]
    omega
  rw [State.latch, State.rd, State.reg_raiseFault hswitch (by decide), hkey,
    State.reg_wr_same hfield, bitAt_eq_testBit, testBit_bitsOf, testBit_setBitsOf]
  simp [Fld.part, F.FLT_LATCH_bits, hid]

/-- No fault touches the Mills. -/
theorem State.raiseFault_mil (id : Nat) (active : Bool) (d0 : Nat) : (s.raiseFault id active d0).mil = s.mil :=
  (State.raiseFault_keeps (Keeps.refl [.regs, .mem, .scn, .chn, .host, .nbr, .flt, .out] s) rfl id active d0).same .mil rfl

/-! ### The abort of a program without EOB, and the reload (R223) -/

/-- The Mill that MILL_ABORT leaves: no program runs and no transfer is in flight; of the blocks it skipped, those before the boundary
of the abort are kept. -/
def Mill.hung (m : Mill) : Mill :=
  { m with busy := false, wait := .none, xfers := [], aborted := true, reloaded := false,
           skipped := m.skipped.filter fun x => decide (x < m.block + 4) }

/-- A program that runs four blocks on, and is not frozen, is aborted. -/
theorem exec_millAbort_late (hn : n < 16) (hrunning : s.running = true) (hbusy : (s.mill n).busy = true)
    (hlate : (s.mill n).block + 4 ≤ s.workBlock) (hfrozen : s.rd F.MIL_STATE_state n ≠ 4) :
    exec (.millAbort n) s =
      .next ((((s.setMill n (s.mill n).hung).wr F.MIL_STATE_state 5 n).raise (0x040 + n) 4).raiseFault 0x06 true n) := by
  change execMillAbort n s = _
  rw [execMillAbort, if_pos ⟨hrunning, hn, hbusy, hlate, hfrozen⟩]
  rfl

/-- A stopped engine, an idle Mill, a program not yet four blocks late and a frozen Mill are left alone. -/
theorem exec_millAbort_not (h : s.running = false ∨ (s.mill n).busy = false ∨ s.workBlock < (s.mill n).block + 4 ∨
    s.rd F.MIL_STATE_state n = 4) : exec (.millAbort n) s = .next s := by
  change execMillAbort n s = _
  rw [execMillAbort, if_neg]
  rintro ⟨hrunning, -, hbusy, hlate, hfrozen⟩
  obtain h | h | h | h := h
  · simp [h] at hrunning
  · simp [h] at hbusy
  · omega
  · exact hfrozen h

/-- The hung Mill after its abort: the register and the event show it and MILL_HUNG is latched; no other Mill changes. -/
theorem State.millAbort_spec (hn : n < 16) (hswitch : s.SwitchOk) (d0 : Nat) :
    let t := (((s.setMill n (s.mill n).hung).wr F.MIL_STATE_state 5 n).raise (0x040 + n) 4).raiseFault 0x06 true d0
    t.mill n = (s.mill n).hung ∧ t.rd F.MIL_STATE_state n = 5 ∧ t.raw (0x040 + n) 4 = true ∧ t.latch 0x06 = true ∧
      ∀ k, k ≠ n → t.mill k = s.mill k := by
  intro t
  have hswitch' : (((s.setMill n (s.mill n).hung).wr F.MIL_STATE_state 5 n).raise (0x040 + n) 4).SwitchOk := by
    unfold State.SwitchOk
    rw [State.raise_chn]
    exact hswitch
  have hmill (k : Nat) : t.mill k = (s.setMill n (s.mill n).hung).mill k := by
    rw [State.mill_congr (State.raiseFault_mil ..), State.mill_raise, State.mill_wr]
  refine ⟨?_, ?_, ?_, State.latch_raiseFault hswitch' (by decide) true d0, fun k hk => ?_⟩
  · rw [hmill, State.mill_setMill_same]
  · rw [State.rd, State.reg_raiseFault_mil hswitch' (by simp only [Fld.key, F.MIL_STATE_state]; omega), ← State.rd,
      State.rd_raise_mil hn (by decide), State.rd_wr_same (by decide)]
    rfl
  · rw [State.raw, State.reg_raiseFault_mil hswitch' (by omega), ← State.raw, State.raw_raise_self _ _ (by decide)]
  · rw [hmill, State.mill_setMill, if_neg hk]

/-- The state once program and store of Mill `n` are loaded again from the configuration in force. -/
def State.reloadMemory (s : State) (n : Nat) : State :=
  match cfgSection s.boot.inForce 1 with
  | some img => s.loadMill img n
  | none => s

theorem State.reloadMemory_keeps (s : State) (n : Nat) : Keeps [.mem] s (s.reloadMemory n) := by
  unfold State.reloadMemory
  split
  · exact State.loadMill_keeps (Keeps.refl [.mem] s) rfl _ _
  · exact Keeps.refl _ s

/-- The reload of a hung Mill: its memories, its strips' and channels' long state, and the note for the next block start. -/
theorem exec_millReloadDone_hung (hn : n < 16) (hhung : s.rd F.MIL_STATE_state n = 5) :
    exec (.millReloadDone n) s = .next (((s.reloadMemory n).clearServed n).setMill n
      { ((s.reloadMemory n).clearServed n).mill n with reloaded := true }) := by
  change execMillReloadDone n s = _
  rw [execMillReloadDone, if_pos ⟨hn, hhung⟩]
  rfl

/-- A Mill that is not hung is not reloaded. -/
theorem exec_millReloadDone_not (hhung : s.rd F.MIL_STATE_state n ≠ 5) : exec (.millReloadDone n) s = .next s := by
  change execMillReloadDone n s = _
  rw [execMillReloadDone, if_neg fun h => hhung h.2]

/-- An entry of a list with keys whose values a function changes for chosen keys. -/
theorem assoc?_map_if {β : Type} (l : List (Nat × β)) (chosen : Nat → Bool) (g : β → β) (k : Nat) :
    assoc? (l.map fun e => if chosen e.1 then (e.1, g e.2) else e) k =
      (assoc? l k).map fun x => if chosen k then g x else x := by
  have hkeys : (fun e : Nat × β => e.1 == k) ∘ (fun e => if chosen e.1 then (e.1, g e.2) else e) = fun e => e.1 == k := by
    funext e
    simp only [Function.comp_apply]
    split <;> rfl
  rw [assoc?, List.find?_map, hkeys, assoc?]
  cases hfound : l.find? fun e => e.1 == k with
  | none => rfl
  | some e =>
    obtain rfl : e.1 = k := by simpa using List.find?_some hfound
    simp only [Option.map_some]
    split <;> rfl

/-- A strip that the Mill serves starts anew: filters and detectors at zero, no dual-run. -/
theorem State.strip?_clearServed {k : Nat} {x : Strip} (hstrip : s.strip? k = some x)
    (hserved : s.owns n (s.stripSource k) = true) :
    (s.clearServed n).strip? k =
      some { x with proc := Proc.zero, duals := [], tapFades := [], line := [], taps := [], heard := [] } := by
  have hmap := assoc?_map_if s.scn.strips (fun key => s.owns n (s.stripSource key))
    (fun y => { y with proc := Proc.zero, duals := [], tapFades := [], line := [], taps := [], heard := [] }) k
  rw [State.strip?] at hstrip
  rw [hstrip, Option.map_some, if_pos hserved] at hmap
  exact hmap

@[simp] theorem State.clearServed_regs : (s.clearServed n).regs = s.regs :=
  (State.clearServed_keeps (Keeps.refl [.scn, .chn] s) rfl n).same .regs rfl
@[simp] theorem State.clearServed_mem : (s.clearServed n).mem = s.mem :=
  (State.clearServed_keeps (Keeps.refl [.scn, .chn] s) rfl n).same .mem rfl

/-- The schedule's owner of a source stands in memory, where a register points (R204). -/
theorem State.owns_congr {t : State} (hregs : t.regs = s.regs) (hmem : t.mem = s.mem) (src : Nat) : t.owns n src = s.owns n src := by
  simp only [State.owns, State.ownerEntry, State.rd_congr hregs, State.load_congr hmem]

/-- The source index of a strip depends on the rate in force alone (R45). -/
theorem State.stripSource_congr {t : State} (hregs : t.regs = s.regs) (k : Nat) : t.stripSource k = s.stripSource k := by
  simp only [State.stripSource, State.mult, State.rd_congr hregs]

/-- What a reload leaves: the registers, the fresh long state of each strip that the Mill serves, and a Mill that runs again from its
first bundle at the next block-start event (R223). -/
theorem State.millReload_spec (hhung : s.rd F.MIL_STATE_state n = 5) (b : Nat) :
    let u := (s.reloadMemory n).clearServed n
    let t := u.setMill n { u.mill n with reloaded := true }
    t.regs = s.regs ∧ (t.mill n).reloaded = true ∧
      (∀ k x, s.strip? k = some x → t.owns n (t.stripSource k) = true →
        ∃ y, t.strip? k = some y ∧ y.proc = Proc.zero ∧ y.duals = []) ∧
      ((t.millBlockStart n b).mill n).busy = true ∧ ((t.millBlockStart n b).mill n).pc = 0 ∧
      ((t.millBlockStart n b).mill n).block = b ∧ (t.millBlockStart n b).rd F.MIL_STATE_state n = 1 := by
  intro u t
  have hkept := State.reloadMemory_keeps s n
  have hregs : (s.reloadMemory n).regs = s.regs := hkept.same .regs rfl
  have hscn : (s.reloadMemory n).scn = s.scn := hkept.same .scn rfl
  have hreloaded : (t.mill n).reloaded = true := by rw [State.mill_setMill_same]
  have htregs : t.regs = (s.reloadMemory n).regs := State.clearServed_regs (s := s.reloadMemory n) (n := n)
  have htmem : t.mem = (s.reloadMemory n).mem := State.clearServed_mem (s := s.reloadMemory n) (n := n)
  have hstate : t.rd F.MIL_STATE_state n = 5 := (State.rd_congr (htregs.trans hregs) ..).trans hhung
  refine ⟨htregs.trans hregs, hreloaded, fun k x hstrip hserved => ?_, ?_⟩
  · rw [State.owns_congr htregs htmem, State.stripSource_congr htregs] at hserved
    have hbefore : (s.reloadMemory n).strip? k = some x := by rw [State.strip?, hscn]; exact hstrip
    exact ⟨_, State.strip?_clearServed hbefore hserved, rfl, rfl⟩
  · rw [State.millBlockStart_reloaded hstate hreloaded]
    obtain ⟨hbusy, hpc, hblock⟩ :=
      State.mill_millRun ((t.setMill n { t.mill n with aborted := false, reloaded := false }).wr F.MIL_STATE_state 1 n) n b
    refine ⟨hbusy, hpc, hblock, ?_⟩
    rw [State.rd_millRun (by decide), State.rd_wr_same (by decide)]
    rfl

/-! ### The clauses of the debug commands, and the statement -/

/-- The breakpoint clause: frozen before the issue, the block noted, and nothing else of the Mill changed. -/
theorem completes_breakpointFreeze (hn : n < 16) (hbusy : (s.mill n).busy = true) (harmed : s.on F.MIL_DEBUG_bp_en n = true)
    (hpc : (s.mill n).pc = s.rd F.MIL_DEBUG_bp_pc n) (hhit : (s.mill n).bpSeen = s.rd F.MIL_DEBUG_bp_hit n)
    (hruns : s.rd F.MIL_STATE_state n = 1 ∨ s.rd F.MIL_STATE_state n = 3) :
    Completes (.breakpointFreeze n) s fun t =>
      t.rd F.MIL_STATE_state n = 4 ∧ t.raw (0x040 + n) 3 = true ∧
      t.mill n = { s.mill n with debugged := (t.mill n).debugged } ∧ (s.mill n).block ∈ (t.mill n).debugged ∧
      t.millIssues n = false := by
  refine ⟨_, exec_breakpointFreeze_reached hn hbusy harmed hpc hhit hruns, ?_⟩
  generalize hnoted : (if (s.mill n).debugged.contains (s.mill n).block then (s.mill n).debugged
    else (s.mill n).debugged ++ [(s.mill n).block]) = noted
  have hfrozen (t : State) : ((t.wr F.MIL_STATE_state 4 n).raise (0x040 + n) 3).rd F.MIL_STATE_state n = 4 := by
    rw [State.rd_raise_mil hn (by decide), State.rd_wr_same (by decide)]; rfl
  have hmember : (s.mill n).block ∈ noted := by
    rw [← hnoted]
    split
    next h => simpa using h
    next => simp
  refine ⟨hfrozen _, State.raw_raise_self _ _ (by decide), ?_, ?_, State.millIssues_frozen (hfrozen _)⟩
  · simp
  · simpa using hmember

/-- Outside Maintenance a debug command that would act is counted and reported, and changes neither Mill nor MIL_DEBUG (R225). -/
theorem completes_debug_refused {v : Word} {c : Instr} (hc : c ∈ [Instr.halt n v, .millStep n v, .bpEn n v, .cont n v, .bstep n v])
    (hn : n < 16) (hservice : s.maintenance = false) (hv : v.toNat % 32 ≠ 0) :
    Completes c s fun t =>
      t.rd F.MIL_DBG_REFUSED_count n = min (s.rd F.MIL_DBG_REFUSED_count n + 1) 0xFFFF ∧ t.raw (0x040 + n) 7 = true ∧
      t.mil = s.mil ∧ t.rd F.MIL_STATE_state n = s.rd F.MIL_STATE_state n ∧
      t.on F.MIL_DEBUG_halt n = s.on F.MIL_DEBUG_halt n ∧ t.on F.MIL_DEBUG_bp_en n = s.on F.MIL_DEBUG_bp_en n ∧
      t.rd F.MIL_DEBUG_bp_pc n = s.rd F.MIL_DEBUG_bp_pc n ∧ t.rd F.MIL_DEBUG_bp_hit n = s.rd F.MIL_DEBUG_bp_hit n := by
  refine ⟨_, exec_debugWrite hc s, ?_⟩
  rw [State.millDebugWrite_refused hn hservice hv]
  have hkept {f : Fld} (hf : f.page = 0x040 ∧ f.off ≠ 0x10 ∧ f.off < 0x1000 ∧ f.off ≠ 0x110) :
      (s.debugRefused n).rd f n = s.rd f n := State.rd_debugRefused hn hf
  refine ⟨State.rd_debugRefused_count hn, State.raw_debugRefused, State.debugRefused_mil, hkept (by decide), ?_, ?_,
    hkept (by decide), hkept (by decide)⟩
  · rw [State.on, hkept (by decide), State.on]
  · rw [State.on, hkept (by decide), State.on]

/-- In Maintenance a debug command without cont and bstep takes the fields of its value. -/
theorem completes_debug_taken {v : Word} {c : Instr} (hc : c ∈ [Instr.halt n v, .millStep n v, .bpEn n v, .cont n v, .bstep n v])
    (hn : n < 16) (hservice : s.maintenance = true) (hv : v.toNat % 32 < 8) :
    Completes c s fun t =>
      t.rd F.MIL_DEBUG_bp_pc n = v.toNat / 32 % 2 ^ 13 ∧ t.rd F.MIL_DEBUG_bp_hit n = v.toNat / 2 ^ 18 % 2 ^ 10 ∧
      t.on F.MIL_DEBUG_bp_en n = bitAt v.toNat 2 ∧ t.on F.MIL_DEBUG_halt n = bitAt v.toNat 0 := by
  refine ⟨_, exec_debugWrite hc s, ?_⟩
  have htaken {f : Fld} (hf : f.page = 0x040 ∧ f.off = 0x100) :
      (s.millDebugWrite n v.toNat).rd f n = (s.debugTaken n v.toNat).rd f n := State.rd_millDebugWrite hn hservice hv hf
  simp only [State.on]
  rw [htaken (by decide), htaken (by decide), htaken (by decide), htaken (by decide)]
  exact ⟨State.rd_debugTaken_bp_pc _, State.rd_debugTaken_bp_hit _, State.on_debugTaken_bp_en _, State.on_debugTaken_halt _⟩

/-- halt on a running idle Mill. -/
theorem completes_halt_idle {v : Word} (hn : n < 16) (hservice : s.maintenance = true) (hv : v.toNat % 32 = 1)
    (hstate : s.rd F.MIL_STATE_state n = 1) (hidle : (s.mill n).busy = false) :
    Completes (.halt n v) s fun t => t.rd F.MIL_STATE_state n = 2 ∧ t.raw (0x040 + n) 3 = true ∧ t.mil = s.mil := by
  refine ⟨_, exec_debugWrite (n := n) (v := v) (by simp) s, ?_⟩
  rw [State.millDebugWrite_halt_idle hn hservice hv hstate hidle]
  refine ⟨?_, State.raw_raise_self _ _ (by decide), by simp⟩
  rw [State.rd_raise_mil hn (by decide), State.rd_wr_same (by decide)]
  rfl

/-- halt on a running busy Mill: it halts at its EOB. -/
theorem completes_halt_busy {v : Word} (hn : n < 16) (hservice : s.maintenance = true) (hv : v.toNat % 32 = 1)
    (hstate : s.rd F.MIL_STATE_state n = 1) (hbusy : (s.mill n).busy = true) :
    Completes (.halt n v) s fun t => t.rd F.MIL_STATE_state n = 1 ∧ t.mil = s.mil ∧ (t.millEnd n).rd F.MIL_STATE_state n = 2 := by
  refine ⟨_, exec_debugWrite (n := n) (v := v) (by simp) s, ?_⟩
  rw [State.millDebugWrite_halt_busy hn hservice hv hbusy]
  refine ⟨(State.rd_debugTaken (by decide)).trans hstate, State.debugTaken_mil _, State.rd_millEnd_halts hn (.inl ?_)⟩
  rw [State.on_debugTaken_halt, bitAt_of_mod_32 hv (by decide)]
  rfl

/-- A step on a halted Mill: it stays halted until the block start, runs that block as a stepped one, and halts at its EOB. -/
theorem completes_millStep {v : Word} (hn : n < 16) (hservice : s.maintenance = true) (hv : v.toNat % 32 = 3)
    (hhalted : s.rd F.MIL_STATE_state n = 2) (hidle : (s.mill n).busy = false) (b : Nat) :
    Completes (.millStep n v) s fun t =>
      t.rd F.MIL_STATE_state n = 2 ∧ (t.millBlockStart n b).rd F.MIL_STATE_state n = 3 ∧
      ((t.millBlockStart n b).mill n).busy = true ∧ ((t.millBlockStart n b).millEnd n).rd F.MIL_STATE_state n = 2 := by
  refine ⟨_, exec_debugWrite (n := n) (v := v) (by simp) s, ?_⟩
  rw [State.millDebugWrite_step hn hservice hv hhalted]
  have hstays : ((s.debugTaken n v.toNat).setMill n { s.mill n with stepNext := true }).rd F.MIL_STATE_state n = 2 :=
    (State.rd_setMill ..).trans ((State.rd_debugTaken (by decide)).trans hhalted)
  obtain ⟨hstepped, hbusy, hstepping⟩ := State.millBlockStart_step hstays (by simpa using hidle) (by simp) b
  exact ⟨hstays, hstepped, hbusy, State.rd_millEnd_halts hn (.inr hstepping)⟩

/-- bp_en on a running Mill arms its breakpoint. -/
theorem completes_bpEn {v : Word} (hn : n < 16) (hservice : s.maintenance = true) (hv : v.toNat % 32 = 4)
    (hstate : s.rd F.MIL_STATE_state n = 1) :
    Completes (.bpEn n v) s fun t =>
      t.on F.MIL_DEBUG_bp_en n = true ∧ t.rd F.MIL_STATE_state n = 1 ∧ t.mil = s.mil := by
  refine ⟨_, exec_debugWrite (n := n) (v := v) (by simp) s, ?_⟩
  rw [State.millDebugWrite_bpEn hn hservice hv (by rw [hstate]; decide)]
  refine ⟨?_, (State.rd_debugTaken (by decide)).trans hstate, State.debugTaken_mil _⟩
  rw [State.on_debugTaken_bp_en, bitAt_of_mod_32 hv (by decide)]
  rfl

/-- cont on a frozen Mill lets it go on, as a stepped block where it was one. -/
theorem completes_cont {v : Word} (hn : n < 16) (hservice : s.maintenance = true) (hv : v.toNat % 32 = 8)
    (hfrozen : s.rd F.MIL_STATE_state n = 4) :
    Completes (.cont n v) s fun t =>
      t.rd F.MIL_STATE_state n = (if (s.mill n).stepping then 3 else 1) ∧ t.mil = s.mil := by
  refine ⟨_, exec_debugWrite (n := n) (v := v) (by simp) s, ?_⟩
  rw [State.millDebugWrite_cont hn hservice hv hfrozen]
  refine ⟨?_, by simp⟩
  rw [State.rd_wr_same (by decide)]
  split <;> rfl

/-- Settles O15: each clause is what one command does to the registers of its MIL page and to its Mill. -/
theorem millDebugging : Obligations.MillDebugging := by
  unfold Obligations.MillDebugging
  refine ⟨fun s n b hn => ?_, fun s n b v hn => ?_⟩
  · refine ⟨fun hrunning hbusy hlate hfrozen hswitch => ?_, fun h => ⟨s, exec_millAbort_not h, rfl⟩,
      fun h => ⟨s, exec_millReloadDone_not h, rfl⟩, fun h => ⟨_, exec_millReloadDone_hung hn h, State.millReload_spec h b⟩,
      completes_breakpointFreeze hn, fun h => ⟨s, exec_breakpointFreeze_away h, rfl⟩⟩
    obtain ⟨hmill, hstate, hevent, hlatch, hothers⟩ := State.millAbort_spec hn hswitch n
    exact ⟨_, exec_millAbort_late hn hrunning hbusy hlate hfrozen, congrArg Mill.busy hmill, congrArg Mill.aborted hmill,
      congrArg Mill.xfers hmill, hstate, hevent, hlatch, hothers⟩
  · exact ⟨fun c hc => ⟨completes_debug_refused hc hn, completes_debug_taken hc hn⟩,
      fun hservice hv hstate => ⟨completes_halt_idle hn hservice hv hstate, completes_halt_busy hn hservice hv hstate⟩,
      fun hservice hv hstate hidle => completes_millStep hn hservice hv hstate hidle b,
      completes_bpEn hn, completes_cont hn,
      fun hservice hv hfrozen hbusy hwait hnext hloops hpc hbundle => ⟨_, exec_debugWrite (n := n) (v := v) (by simp) s,
        State.bstep_zero_bundle hn hservice hv hfrozen hbusy hwait hnext hloops hpc hbundle⟩⟩

end Sys2Proof.Machine
end
